-- ==== Sys2Proof/Word.lean ====
section
/-!
DEFINITION. The words of the spec (R6): 32-bit words, and 8-bit bytes of buffers that the spec addresses by byte.
-/
namespace Sys2Proof

/-- A 32-bit word (R6). -/
abbrev Word := BitVec 32

/-- A byte. -/
abbrev Byte := BitVec 8

end Sys2Proof
end

