-- ==== Sys2Proof/Syntax.lean ====
section
/-!
DEFINITION. The commands the block takes: one constructor per row of the spec's table, with the row's operands. A
command packet (R320) carries its own words; an event carries what the outside world or the analogue parts supply
(a reading, an arrival time, what host memory answered).
-/
namespace Sys2Proof

/-- Where a command packet came from: a submission queue (R313), the mailbox (R345), another mesh member with the number
it gave the exchange (R422), the out-of-band path of Vane (R493); nobody any more, once a soft reset has abandoned the operation whose
work goes on (R369, R510). -/
inductive Src where
  | sq (n : Nat)
  | mbx
  | mesh (node fid : Nat)
  | vane
  | nobody
deriving DecidableEq, Repr

/-- A command packet (R320): 16 words, word 0 first. -/
structure Pkt where
  src : Src
  words : List Nat
deriving DecidableEq, Repr

/-- How an access to host memory can fail (R354, R398 to R400): a translation fault, with the cause code of R407 that the
context's window takes, or a media fault. -/
inductive HostFault where
  | translation (cause : Nat)
  | media
deriving DecidableEq, Repr

/-- What host memory answered to the read that a command makes: 32-bit words, or a fault. -/
inductive HostData where
  | words (ws : List Nat)
  | fault (f : HostFault)
deriving DecidableEq, Repr

/-- The islands of R15. -/
inductive Island where
  | hl | cmd | mem
  | seq (dom : Nat)
  | pg (group : Nat)
  | hv | msh | vane
deriving DecidableEq, Repr

/-- The four soft resets of R369. -/
inductive SoftReset where
  | perst | hotReset | dlDown | flr
deriving DecidableEq, Repr

/-- What can wake the module from Lull (R37). -/
inductive WakeSource where
  | event (ch : Nat)
  | smbus
  | monitor (n : Nat)
deriving DecidableEq, Repr

/-- A quantity of a channel. -/
inductive Quantity where
  | volts | amps
deriving DecidableEq, Repr

/-- What a channel's loop converters read in one loop cycle (R40): record units of the active ranges, 2^22 being
full scale. -/
structure LoopReading where
  ch : Nat
  v : Int
  i : Int
deriving DecidableEq, Repr

/-- What the measure converters of one channel deliver for one instant (R87): measure codes of V and I, the pair
code, whether a converter stood at a code end, and, where the test DAC or an injection feeds it, nothing more. -/
structure MeasureCode where
  ch : Nat
  v : Int
  i : Int
  pair : Int
deriving DecidableEq, Repr

/-- A comparator of R194 to R204: a pin's high or low side, one of a channel's four window comparators, a monitor. -/
inductive Cmp where
  | pin (pin : Nat) (high : Bool)
  | window (ch : Nat) (k : Nat)
  | monitor (n : Nat)
deriving DecidableEq, Repr

/-- What the comparators of one pin show at a compare edge or in a window of it (R213, R221); `pin` is the vector-pin number, and
several entries of one pin are what it showed over its window. -/
structure PinSeen where
  pin : Nat
  high : Bool
  low : Bool
deriving DecidableEq, Repr

/-- The end of a domain's priming (R240): the SYSTIME in 2^-16 ns, of the present loop cycle. -/
structure PrimeEnd where
  dom : Nat
  at_ : Nat
deriving DecidableEq, Repr

/-- What a configuration read asks for: an identity register of the header (R350), a figure of a capability (R351), an enable of
R367, R368 or R372, or a register of which the spec gives no value. -/
inductive ConfigReg where
  | vendorId | deviceId | subsystemVendorId | subsystemId | revisionId | classCode | interruptPin
  | maxPayload | maxReadRequest | tags | noSoftReset | msixTableSize | invalidateQueueDepth | pageAlignedRequest
  | pageRequestCapacity | pasidWidth | pasidExecute | pasidPrivileged | serialLow | serialHigh
  | msixEnabled | functionMasked | atsEnabled | priEnabled | pasidEnabled | busMastering | powerState
  | functionReset | timeoutRanges | timeoutDisable | timeout | timeoutOff
  | uncorrStatus | uncorrMask | uncorrSeverity | corrStatus | corrMask | firstError | headerLog (i : Nat) | prefixLog (i : Nat)
  | ecrcGeneration | ecrcCheck | ecrcGenerated | ecrcChecked
  | unlisted
deriving DecidableEq, Repr

/-- A configuration request (R371): a read, a write of one of the enables the spec names, of the completion timeout or of an AER register
(R351), or any other. -/
inductive ConfigReq where
  | read (reg : ConfigReg)
  | msixEnable (on : Bool)
  | functionMask (on : Bool)
  | ats (on : Bool)
  | pri (on : Bool)
  | pasid (on : Bool)
  | busMaster (on : Bool)
  | timeout (range : Nat) (off : Bool)
  | uncorrClear (mask : Nat)
  | uncorrMask (mask : Nat)
  | uncorrSeverity (mask : Nat)
  | corrClear (mask : Nat)
  | corrMask (mask : Nat)
  | ecrc (generate check : Bool)
  | other
deriving DecidableEq, Repr

/-- The transfer a module read belongs to (R354). -/
inductive ReadUnit where
  | ring (q : Nat)
  | cmd (src : Src) (tag : Nat)
deriving DecidableEq, Repr

/-- A translation service of R368. -/
inductive Service where
  | ats | pri | pasid
deriving DecidableEq, Repr

/-- What the host's translation agent granted (R399): the bus address of the start of the range that holds the page, the
range's size in bytes, and what it permits. -/
structure AtsGrant where
  pa : Nat
  size : Nat
  r : Bool
  w : Bool
deriving DecidableEq, Repr

/-- What a page-table read returned (R398): the 64-bit entry, or a fault. -/
inductive HostEntry where
  | entry (e : Nat)
  | fault (f : HostFault)
deriving DecidableEq, Repr

/-- A 128-bit record or entry (R99, R133) as four words, word 0 first. -/
structure Quad where
  w0 : Nat
  w1 : Nat
  w2 : Nat
  w3 : Nat
deriving DecidableEq, Repr

/-- A system-channel frame (R413, R431): channel, T0 in 2^-16 ns of SYSTIME, origin, generation; whether a copy of it passed
its CRC; and when it reaches the node, in 2^-16 ns of SYSTIME (R307). -/
structure SevFrame where
  sev : Nat
  t0 : Nat
  node : Nat
  gen : Nat
  good : Bool
  at_ : Nat
deriving DecidableEq, Repr

/-- A time-exchange frame (R413, R427): whether a copy of it passed its CRC; when its first bit crossed the port, in 2^-16 ns of SYSTIME;
which of the four frames of an exchange it is, 0 to 3; when the first bit of this node's answer, if it has one, crosses the port; and in
the last frame the parent's two time stamps. -/
structure TimeFrame where
  good : Bool
  at_ : Nat
  kind : Nat
  out : Nat
  stamps : Nat × Nat
deriving DecidableEq, Repr

/-- A module as the mesh's discovery sees it (R415, R419): its node ID, none where it is not a member, and the place in the list of
modules of the neighbour behind each port that is UP, MESH_A first. -/
structure MeshNode where
  id : Option Nat
  links : List (Option Nat)
deriving DecidableEq, Repr

/-- What members have learnt of the mesh (R415, R421): the modules, this one first, and the place of the root. -/
structure MeshGraph where
  nodes : List MeshNode
  root : Nat
deriving DecidableEq, Repr

/-- What a class 1 frame carries (R413, R415 to R423, R426, R432). -/
inductive ControlFrame where
  /-- It failed its CRC and is replayed. -/
  | crcError
  /-- The peer asks for a replay of this node's last frame of the class. -/
  | replay
  /-- Discovery examines this node: generation, the examining node's hop count, the ID it offers, the serial number of the root; no
  ID is left where `id` is none. -/
  | claim (gen hops : Nat) (id : Option Nat) (rootSerial : Nat)
  /-- A neighbour passes on a newer generation without a claim (R416). -/
  | newer (gen : Nat)
  /-- What members have learnt of the mesh, after discovery. -/
  | tables (g : MeshGraph)
  /-- Reachability news opens a route repair (R421). -/
  | repair
  /-- A packet for this node, for every member where the target is 0x3FFF, or to pass on; `hops` counts the links that a routed frame has
crossed (R420). -/
  | packet (target source fid hops : Nat) (words : List Nat)
  /-- A completion for this node: from which member, the exchange, its status and result words 2 to 5. -/
  | completion (source fid status : Nat) (res : List Nat)
  /-- A notice of R420 that a frame of an exchange was discarded: the exchange's issuing node and number, the member it was with, and the
class and kind of the frame. -/
  | discarded (issuer fid member cls kind : Nat)
  /-- A fault notice of a stream that a node holds for this one (R402, R425): the node, submission queue, status and result words. -/
  | notice (source q status : Nat) (res : List Nat)
  /-- MESH_TIME_CTL reaches a member, and its acknowledgement returns (R426). -/
  | timeCtl (enable coarse : Bool)
  | timeAck (node : Nat)
  /-- An echo frame to return, and one returned (R432). -/
  | echo
  | echoed
  /-- A frame other than a packet for another node, to pass on as it is. -/
  | pass (target source fid hops : Nat) (words : List Nat)
deriving DecidableEq, Repr

/-- What a class 2 frame carries (R413, R424, R425): host-memory traffic of a member's command or stream, by its exchange number. -/
inductive BulkFrame where
  | crcError
  /-- The peer asks for a replay of this node's last frame of the class. -/
  | replay
  /-- Words to write to the host memory of this node, of a command or of a stream. -/
  | write (source fid : Nat) (st : Option Nat) (addr : Nat) (words : List Nat)
  /-- Bytes to read from the host memory of this node, and what that memory answers. -/
  | read (source fid : Nat) (st : Option Nat) (addr bytes : Nat) (d : HostData)
  /-- The issuing node has issued a write that this node sent. -/
  | ack (source fid : Nat) (st : Option Nat) (addr : Nat)
  /-- The issuing node returns the words that this node asked for. -/
  | data (source fid : Nat) (st : Option Nat) (addr : Nat) (words : List Nat)
  /-- The issuing node reports a fault of an access this node sent. -/
  | fault (source fid : Nat) (st : Option Nat) (addr : Nat) (f : HostFault)
  /-- A frame for another node, to pass on as it is. -/
  | pass (target source fid hops : Nat) (words : List Nat)
deriving DecidableEq, Repr

/-- A word of DRAM that a scrub finds in error, by the area it lies in (R475): a granule of a domain's vectors, a capture record,
a stream block in the local buffer by its BLOCK_SEQ, firmware working space. -/
inductive DramWord where
  | vector (dom granule : Nat)
  | capture (dom rec_ : Nat)
  | stream (st seq : Nat)
  | firmware
deriving DecidableEq, Repr

/-- A word of on-die SRAM that a scrub finds in error (R474): a vector of a domain's pin area, a granule of its refill ring, or
storage of another block instance. -/
inductive SramWord where
  | pinArea (dom vec : Nat)
  | ring (dom granule : Nat)
  | other (blk inst : Nat)
deriving DecidableEq, Repr

/-- What the steps of a CAL_SELF computed (R447, R448): the terms by ID and value, the terms that saturated, the sets
(ID of their G term) that got no converter result, and the auto-zero of each channel. -/
structure SelfFound where
  terms : List (Nat × Int)
  saturated : List Nat
  failed : List Nat
  offsets : List MeasureCode
deriving DecidableEq, Repr

/-- An MCTP control message (R491). -/
inductive MctpControl where
  | setEid (eid : Nat)
  | getEid
  | getVersion
  | getTypes
  | getVendor
  /-- Any other control message. -/
  | other
  | malformed
deriving DecidableEq, Repr

/-- A PLDM message (R491). An update carries a component identifier and the image it transfers, with whether the device's checks find
it arrived whole. -/
inductive Pldm where
  | getTid
  | setTid (tid : Nat)
  | getVersion
  | getTypes
  | getCommands (typ : Nat)
  | readSensor (n : Nat)
  | readAlive
  | readLog
  | getPdr (n : Nat)
  | pdrInfo
  | setEventReceiver (eid : Nat)
  | update (component : Nat) (image : List Nat)
  | activate (component : Nat)
  /-- Any other message. -/
  | other
  | malformed
deriving DecidableEq, Repr

/-- An SPDM request (R491). -/
inductive Spdm where
  | getVersion
  | getCapabilities
  | negotiate (p384 sha384 : Bool)
  | getDigests
  | getCertificate (slot : Nat)
  | challenge (slot : Nat) (nonce : List Nat)
  | getMeasurements (index : Nat) (nonce : List Nat)
  /-- Any other request. -/
  | other
deriving DecidableEq, Repr

/-- A signal of the boundary-scan chain (R540); of the lanes, a port and a lane, and whether it is the transmit side; of REFCLK_IN, its
negative side. -/
inductive ScanSig where
  | trig (n : Nat)
  | mark (n : Nat)
  | alive | wake | smbClk | smbDat | smbAlert
  | perst | nreset | pfail | hvIntlk
  | refclkIn (neg : Bool)
  | pcie (lane : Nat) (tx : Bool)
  | mesh (port lane : Nat) (tx : Bool)
  | vp (n : Nat)
deriving DecidableEq, Repr

/-- The control and the output cell of a signal (R540): whether it is driven, and the level. -/
structure ScanCell where
  sig : ScanSig
  drive : Bool
  level : Bool
deriving DecidableEq, Repr

/-- What a SEQ_CAPTURE run captured (R536): the vectors that failed with the map of their domain pins, and CH and CL of the first
failing pin. -/
structure CaptureRun where
  fails : List (Nat × Nat) := []
  value : Nat := 0
deriving DecidableEq, Repr

/-- What came back in an SMB_ECHO run (R538): the bytes, and of each MCTP packet whether its PEC did. -/
structure Looped where
  bytes : List Nat := []
  pecs : List Bool := []
deriving DecidableEq, Repr

/-- What passes through the boundary register under an instruction (R540): the cells shifted in, and what stands on the signals when the
input cells capture: millivolts on a vector pin, else a level that is not 0. -/
structure Scan where
  cells : List ScanCell := []
  seen : List (ScanSig × Int) := []
deriving DecidableEq, Repr

/-- A TAP instruction (R524, R540, R541), or the state Test-Logic-Reset. -/
inductive TapInstr where
  | reset
  | bypass
  | idcode
  | samplePreload
  | extest
  | extestPulse
  | extestTrain
  /-- A vendor instruction. -/
  | vendor
deriving DecidableEq, Repr

/-- A TAP instruction as it is loaded, with what passes through the boundary register under it (R540, R541). -/
structure TapLoad where
  tap : TapInstr
  scan : Scan := {}
deriving DecidableEq, Repr

/-- The commands, one constructor per row of the spec's table of operations and events, in its order but for those without operands,
which stand last (Lean compiles at most 245 constructors with operands). -/
inductive Instr where
  /-- R560. The input rises through the 34 V undervoltage lockout and the module starts its power-up sequence from reset values. -/
  | powerOnReset (vin : Nat)
  /-- R567. After shedding and the low level have both ended, every island and Vane reset together and the controller boots again. -/
  | nresetRelease (vin : Nat)
  /-- R369. PERST#, a hot reset, DL_Down or a Function Level Reset resets the host link, queues, MSI-X and contexts, detaches streams and puts the fabric into START. -/
  | softReset (why : SoftReset)
  /-- R561. VIN below 33 V for 50 µs starts a shed with source VIN. -/
  | powerFailDetect (vin : Nat)
  /-- R564. VIN falls below 32.5 V and the module enters HOLDUP, with the input stage stopped and the mesh ports disabled. -/
  | inputUvloFall (vin : Nat)
  /-- R558. VIN above 80 V for 10 µs sheds load with source OVLO and sets INPUT_OVLO. -/
  | inputOvlo (vin : Nat)
  /-- R564. VIN has been within 34 V to 78 V with PFAIL high for 100 ms, and a shed from VIN, OVLO or EXTERNAL returns to RUN. -/
  | shedRecovery (vin : Nat)
  /-- R566. The 2 V fall has been timed, so HOLDUP_CAP is computed, HOLDUP_WEAK may be set and the charger reconnects. -/
  | holdupTestMeasured (us : Nat)
  /-- R23. 250 µs after a round, Vane toggles ALIVE if every token returned, or otherwise sets WARN or FATAL HEARTBEAT for the missing islands. -/
  | heartbeatTimeout (returned : List Island)
  /-- R32. The LULL_ENTER command checks the entry conditions and either moves to ENTERING or is refused. -/
  | lullEnter (p : Pkt)
  /-- R32. An enabled wake source (event channel, SMBus message or monitor comparator) starts WAKING, or aborts ENTERING. -/
  | lullWakeSource (w : WakeSource)
  /-- R39. Every 125 ns, each channel reads its loop converters, evaluates the main and limit controllers and writes the loop DAC. -/
  | loopCycle (readings : List LoopReading)
  /-- R74. A window comparator crossing engages the Gust clamp within 25 ns, sets CLAMP, counts the engagement and publishes EV_CLAMP. -/
  | windowCrossing (ch : Nat) (quantity : Quantity) (upper : Bool)
  /-- R49. After 64 loop cycles in CLAMP without handover, the channel trips with CLAMP_TIMEOUT. -/
  | clampTimeout (ch : Nat)
  /-- R49. After LIMIT_TIME in a programmed limit, the channel trips with LIMIT_TIMEOUT. -/
  | limitTimeout (ch : Nat)
  /-- R75. A safe-operating-area row timer reaches TIME and the channel trips with SOA. -/
  | soaTimeout (ch : Nat) (row : Nat)
  /-- R56. Force and sense differ by more than SENSE_TOL for 16 cycles, which sets SENSE_LOSS and applies the channel's reaction. -/
  | senseLoss (ch : Nat)
  /-- R55. Guard demand above 5 mA for 16 loop cycles sets GUARD_OVL with WARN. -/
  | guardOvl (ch : Nat)
  /-- R81. A group rail outside its target by more than 1 V for 10 µs sets RAIL_FAULT. -/
  | railFault (group : Nat)
  /-- R49. A write of OUT_REQ requests an output-state transition of the channel, after the budget and state checks. -/
  | outReqWrite (ch : Nat) (value : Int)
  /-- R78. A setpoint write applies at the next boundary, or waits for the group rail to reach its target. -/
  | setpointWrite (ch : Nat) (value : Int)
  /-- R63. A current-range write starts a chain of one-decade changes or replaces the target of the running chain. -/
  | irangeWrite (ch : Nat) (value : Int)
  /-- R65. A voltage-range write takes effect at the next boundary and re-expresses the setpoint, or is refused. -/
  | vrangeWrite (ch : Nat) (value : Int)
  /-- R49. The loop has started into the dummy load after a request from OFF or TRIPPED, and the channel is in STANDBY or goes on to connect. -/
  | standbyReached (ch : Nat)
  /-- R50. The forced quantity has ramped to 0, so the output paths open and the channel enters OFF or STANDBY. -/
  | outputRampDone (ch : Nat)
  /-- R53. Contact sensing confirms the reed relay closed, RELAY_COUNT increments and wear is checked. -/
  | relayClosureVerified (ch : Nat)
  /-- R53. Closure is not verified within 2 ms, so RELAY_STUCK is set and PATH_SEL becomes SSR_ONLY. -/
  | relayVerifyTimeout (ch : Nat)
  /-- R53. 1 ms after a verified closure on current ranges 0 and 1, the solid-state path opens. -/
  | ssrOpenDelay (ch : Nat)
  /-- R66. The up dwell count completes and the range policy changes the current range up one decade. -/
  | rangeUpChange (ch : Nat)
  /-- R66. The down dwell count completes and the range policy changes down one decade, opening a settle window. -/
  | rangeDownChange (ch : Nat)
  /-- R61. A SETTLE_DN window closes, which ends SETTLING and lets the next downward chain step start. -/
  | settleWindowEnd (ch : Nat)
  /-- R78. A group rail reaches its target and the delayed setpoint or sweep point applies. -/
  | railTargetReached (group : Nat)
  /-- R46. Command that probes the load and computes a load profile into a target slot. -/
  | loopTune (p : Pkt)
  /-- R47. The probe ends, so the profile is written, or TUNE_FAIL is set, and LOOP_TUNE completes. -/
  | loopTuneDone (ch : Nat) (solved : Bool)
  /-- R342. Command that writes a standard profile into a slot and a standard range policy. -/
  | loopPreset (p : Pkt)
  /-- R49. Command that moves a TRIPPED channel to STANDBY. -/
  | rearm (p : Pkt)
  /-- R342. Command that clears CLAMP_COUNT of a channel. -/
  | clearCounts (p : Pkt)
  /-- R90. A timer or scheduled sweep instant on the SYSTIME grid makes a group sample all its converters. -/
  | sampleTimerInstant (group : Nat)
  /-- R92. A fabric trigger reaches a group's sample-trigger input and is either converted or discarded as an overrun. -/
  | sampleTriggerPulse (group : Nat)
  /-- R98. A conversion finishes, so the sample record is built, flagged, averaged and passed toward the stream. -/
  | conversionComplete (group : Nat) (codes : List MeasureCode)
  /-- R122. A converter gives no result within 1 µs of the instant, and CONV_FAULT is set. -/
  | convFault (ch : Nat)
  /-- R95. In AUTO_PD, the converters begin their 2.0 µs wake 2.0 µs before a scheduled instant. -/
  | converterWakeStart (group : Nat)
  /-- R98. The converter wake ends and the group converts. -/
  | converterWakeComplete (group : Nat)
  /-- R477. A due channel or a dwell gap starts an auto-zero of the measure converters. -/
  | autoZeroStart (group : Nat) (ch : Nat)
  /-- R115. After 8 µs the new offset is taken, or AZ_FAIL is set, and the inputs reconnect. -/
  | autoZeroComplete (ch : Nat) (volts : Int) (amps : Int) (pair : Int) (ok : Bool)
  /-- R98. A write of TRIG_SRC changes the group's sampling source and state. -/
  | trigSrcWrite (group : Nat) (value : Int)
  /-- R97. A write of PWR_MODE takes effect at a quiet boundary and closes the open blocks of the carrying streams. -/
  | pwrModeWrite (group : Nat) (value : Int)
  /-- R124. A write of TIMER_PERIOD or TIMER_PHASE moves the sample grid at the next boundary. -/
  | timerPeriodWrite (group : Nat) (phase : Bool) (value : Int)
  /-- R120. A write of TDAC_MASK connects the test DAC to OFF or STANDBY channels, or is refused. -/
  | tdacMaskWrite (group : Nat) (value : Int)
  /-- R127. Command that allocates or rewrites a sweep region and uploads checked entries. -/
  | sweUpload (p : Pkt)
  /-- R128. An upload's transfer ends, so the region becomes VALID or INVALID and the command completes. -/
  | sweUploadDone (src : Src) (tag : Nat) (got : List Nat) (fault : Option HostFault)
  /-- R130. Command that releases a sweep region. -/
  | sweFree (p : Pkt)
  /-- R150. Command that places a program into a context slot. -/
  | sweLoad (p : Pkt)
  /-- R151. Command that admits and starts a loaded slot. -/
  | sweStart (p : Pkt)
  /-- R151. Command that admits a slot and arms it for EV_START or START_AT. -/
  | sweArm (p : Pkt)
  /-- R151. Command that resumes a HELD slot. -/
  | sweResume (p : Pkt)
  /-- R151. Command that aborts one slot or every slot of an engine. -/
  | sweAbort (p : Pkt)
  /-- R151. Command that empties a slot. -/
  | sweRelease (p : Pkt)
  /-- R159. Command that sets HOST_FLAG. -/
  | sweSignal (p : Pkt)
  /-- R145. A pulse on EV_START acts at the matched boundary to start an armed slot or resume a held one. -/
  | sweEvStart (engine : Nat)
  /-- R157. A pulse on EV_NEXT ends the current point at its boundary. -/
  | sweEvNext (engine : Nat)
  /-- R151. A pulse on EV_HOLD holds the running slot at its next point boundary. -/
  | sweEvHold (engine : Nat)
  /-- R151. A pulse on EV_ABORT aborts every active slot of the engine. -/
  | sweEvAbort (engine : Nat)
  /-- R145. A WAIT_EV pulse releases a waiting point at its boundary, and may trigger sample 0. -/
  | sweWaitRelease (engine : Nat)
  /-- R151. SYSTIME reaches an armed slot's START_AT and the slot starts. -/
  | sweStartAt (engine : Nat) (slot : Nat)
  /-- R151. WAIT_TIMEOUT elapses in WAITING and the slot is aborted. -/
  | sweWaitTimeout (engine : Nat)
  /-- R143. DWELL elapses, so the point ends, status is written and the engine proceeds to the next point. -/
  | pointEnd (engine : Nat)
  /-- R143. At Ta, after any rail delay, the point's values are written to every masked channel. -/
  | pointApply (engine : Nat)
  /-- R147. At Ta + PSTART the pulse value and limit apply, with a swap to range 9 when above 100 mA. -/
  | pulseEdgeStart (engine : Nat)
  /-- R147. At Ta + PSTART + PWIDTH the base values are restored. -/
  | pulseEdgeEnd (engine : Nat)
  /-- R152. A READY slot with PREEMPT_CUT pre-empts the running slot at a loop-cycle boundary and records the cut. -/
  | swePreemptCut (engine : Nat)
  /-- R132. Every 10 s, a scrub pass over sweep memory corrects errors and marks regions INVALID. -/
  | sweepMemoryScrub (corrected : List Nat) (bad : List Nat)
  /-- R167. An HV slew ramp finishes and the SETTLING window of 50 µs starts. -/
  | hvRampEnd (ch : Nat)
  /-- R169. Output current reaching 25 mA engages the analogue limit and sets HW_ILIMIT. -/
  | hvHwIlimit (ch : Nat)
  /-- R174. An HV output falls below 1 V, so its path opens and DISCH_TIME is recorded. -/
  | hvDischargeDone (ch : Nat) (past : Nat)
  /-- R174. An output is still above 30 V 10 ms after discharge began, and FATAL DISCHARGE_SLOW is set. -/
  | dischargeSlow (ch : Nat)
  /-- R183. A driver in current limit for OVL_TIME sets DRV_OVL and applies the pin reaction. -/
  | drvOvl (pin : Nat)
  /-- R183. A pin outside its voltage range for 1 µs sets PIN_OVERVOLT and applies the pin reaction. -/
  | pinOvervolt (pin : Nat)
  /-- R184. A write of PMU_EN connects or disconnects the pin PMU within 20 µs. -/
  | pmuEnWrite (pin : Nat) (value : Int)
  /-- R190. A write of 1 to ADC_GO requests a pin-converter conversion, or counts an overrun. -/
  | adcGo (chip : Nat)
  /-- R190. A pulse on ADC_EV requests a pin-converter conversion. -/
  | adcEvRequest (chip : Nat)
  /-- R194. 20 µs after the request the converter has started up and samples. -/
  | adcSample (chip : Nat) (lim : Bool)
  /-- R192. 2 µs after sampling, ADC_RESULT is written with its flags and ADC_DONE_EV pulses. -/
  | adcResult (chip : Nat) (code : Int)
  /-- R194. No result 30 µs after the request, so the converter turns off with ADC_FAULT. -/
  | adcFault (chip : Nat)
  /-- R196. A comparator input crosses its threshold plus hysteresis and the raw output changes. -/
  | comparatorInputCrossing (cmp : Cmp) (above : Bool)
  /-- R200. k of the last n filter samples agree, so the filtered output changes and an edge is published. -/
  | comparatorFilterAccept (cmp : Cmp) (edges : Nat)
  /-- R197. A comparator power-mode change completes and CHANGING clears. -/
  | comparatorModeChangeDone (cmp : Cmp)
  /-- R230. Command that writes vector granules into the DRAM vector area. -/
  | seqVecLoad (p : Pkt) (d : HostData)
  /-- R228. Command that writes a run of segment-table entries. -/
  | seqSegWrite (p : Pkt) (d : HostData)
  /-- R254. Command that writes a pin mode map. -/
  | seqMapWrite (p : Pkt)
  /-- R254. Command that writes a park set. -/
  | seqParkWrite (p : Pkt)
  /-- R231. Command that copies the CACHE_PIN segments into the pin area. -/
  | seqPinLoad (p : Pkt)
  /-- R223. Command that checks and writes a timing-set image into the shadow copy. -/
  | tsWrite (p : Pkt) (d : HostData)
  /-- R225. Command that commits shadow timing sets, at once or at a later vector boundary. -/
  | tsCommit (p : Pkt)
  /-- R225. The first vector start at least 100 ns after the commit switches to the new timing-set contents. -/
  | tsCommitBoundary (dom : Nat)
  /-- R254. Command that reads a timing set to host memory. -/
  | tsRead (p : Pkt) (wr : Option HostFault)
  /-- R243. Command that loads a start segment and priority into a sequencer slot. -/
  | seqLoad (p : Pkt)
  /-- R240. Command that starts priming of a loaded slot. -/
  | seqStart (p : Pkt)
  /-- R240. Command that primes a slot and arms it for EV_START or START_AT. -/
  | seqArm (p : Pkt)
  /-- R237. Command that raises a stop request at a pass end. -/
  | seqStop (p : Pkt)
  /-- R237. Command that raises a host jump request. -/
  | seqJump (p : Pkt)
  /-- R240. Command that resumes a HELD sequencer after a coast hold. -/
  | seqResume (p : Pkt)
  /-- R240. Command that parks the sequencer with END_CAUSE ABORT. -/
  | seqAbort (p : Pkt)
  /-- R240. Command that returns a parked or held domain to IDLE. -/
  | seqIdle (p : Pkt)
  /-- R254. Command that empties a LOADED or FINISHED slot. -/
  | seqRelease (p : Pkt)
  /-- R250. Command that clears the fail counters and the capture write position. -/
  | seqClearFails (p : Pkt)
  /-- R254. Command that copies capture records to host memory. -/
  | seqCapRead (p : Pkt) (wr : Option HostFault)
  /-- R240. Gale is set and the ring is primed, so the domain starts running or becomes ARMED. -/
  | primingComplete (primed : PrimeEnd)
  /-- R211. A vector begins, and its drive, compare and marker edges are placed by its timing set. -/
  | vectorStart (dom : Nat) (edge : List PinSeen) (window : List PinSeen)
  /-- R232. Refill brings a granule into the cache ring, which may end PADDING. -/
  | granuleFetchDone (dom : Nat) (jump : Bool) (good : Bool)
  /-- R241. A pulse on EV_START starts the lowest ARMED slot 128 master periods later. -/
  | seqEvStart (dom : Nat)
  /-- R237. A pulse on EV_STOP raises a stop request. -/
  | seqEvStop (dom : Nat)
  /-- R237. A pulse on a segment's JEV raises an event jump request. -/
  | seqJevPulse (dom : Nat)
  /-- R241. SYSTIME reaches START_AT and the armed run starts. -/
  | seqStartAt (dom : Nat) (slot : Nat)
  /-- R258. The phase error exceeds 4 × LOCK_WIN for 4 cycles and the timebase enters COAST with UNLOCK. -/
  | lockLoss (err : Int)
  /-- R262. The VCO band search ends, moving to ACQUIRE or to GUARD_WAIT with BAND_FAIL. -/
  | bandSearchDone (band : Option Nat)
  /-- R258. The phase error has stayed within LOCK_WIN for LOCK_N cycles, so the timebase is LOCKED. -/
  | lockDeclared (err : Int)
  /-- R259. Command that checks the shadow timebase copy and applies it, relocking if the VCO moves. -/
  | tbCommit (p : Pkt)
  /-- R279. Command that relocks with the active copy. -/
  | tbRelock (p : Pkt)
  /-- R272. Command that steps the master phase by a signed count of 1/256 periods. -/
  | tbPhaseStep (p : Pkt)
  /-- R274. Command that sets SYSTIME_NS at the next loop-cycle boundary. -/
  | tbTimeSet (p : Pkt)
  /-- R282. A pulse on a channel passes group enable, hold-off and the loop monitor, and is then counted and distributed. -/
  | eventChannelPulse (ch : Nat) (at_ : Nat)
  /-- R295. A tick generator reaches its grid time and publishes on TICK_EV. -/
  | tick (gen : Nat) (at_ : Nat)
  /-- R296. A selected edge on a trigger input publishes a pulse on its channel. -/
  | trigInputEdge (trig : Nat) (rising : Bool)
  /-- R299. An Eddy cell output edge that holds for FILT is published on OUT_EV. -/
  | eddyOutputEdge (cell : Nat)
  /-- R298. The stretch time of a STRETCH input expires and its level returns to 0. -/
  | eddyStretchEnd (cell : Nat) (input : Nat)
  /-- R305. At T0 + SEV_ALIGN, the release unit publishes the system-channel pulse on SEV_IN. -/
  | sevRelease (sev : Nat)
  /-- R291. Command that moves the fabric from START or RECOVERY to NORMAL. -/
  | fabricArm (p : Pkt)
  /-- R291. Command that puts the fabric into TEST. -/
  | evfTestEnter (p : Pkt)
  /-- R291. Command that returns the fabric from TEST to its previous mode. -/
  | evfTestExit (p : Pkt)
  /-- R297. Immediate command that publishes one pulse on every selected channel. -/
  | eventFire (p : Pkt)
  /-- R311. Command that clears CH_DROP, SEV_STAT and the MERGES counts. -/
  | evfClear (p : Pkt)
  /-- R311. Command that empties capture-unit entries into host memory. -/
  | cuRead (p : Pkt) (wr : Option HostFault)
  /-- R317. A write of an SQ_TAIL doorbell announces new packets, or is ignored with DOORBELL_BAD. -/
  | sqTailDoorbell (q : Nat) (value : Nat)
  /-- R317. A write of a CQ_HEAD doorbell releases completion entries, or is ignored with DOORBELL_BAD. -/
  | cqHeadDoorbell (q : Nat) (value : Nat)
  /-- R316. A write of SQ_CFG.ENABLE enables the queue, or disables it and flushes undispatched packets. -/
  | sqEnableWrite (q : Nat) (value : Bool)
  /-- R316. A write of CQ_CFG.ENABLE enables the queue, or disables it and discards PENDING completions. -/
  | cqEnableWrite (q : Nat) (value : Bool)
  /-- R318. Fetched packets arrive, are checked for tags, and queue for dispatch or go to the immediate path. -/
  | packetArrive (q : Nat) (packets : List (List Nat)) (fault : Option HostFault)
  /-- R325. A completion is written to its CQ once there is ring space. -/
  | completionPost (q : Nat) (fault : Option HostFault)
  /-- R326. 2^COAL_TIME µs after the first unsignalled completion, the CQ raises its vector. -/
  | cqInterruptTimer (q : Nat)
  /-- R338. Command that applies nothing. -/
  | nop (p : Pkt)
  /-- R338. Command that returns an identity page. -/
  | identify (p : Pkt)
  /-- R339. Command that reads one parameter or a list of them. -/
  | paramGet (p : Pkt) (d : HostData) (wr : Option HostFault)
  /-- R340. Command that checks and writes one parameter or a list of them. -/
  | paramSet (p : Pkt) (d : HostData)
  /-- R333. Immediate command that writes one channel's setpoint. -/
  | setNow (p : Pkt)
  /-- R335. Immediate command that pulses selected delay-matched inputs. -/
  | trigger (p : Pkt)
  /-- R336. Immediate command that aborts sweep engines, sequencers or one operation. -/
  | abort (p : Pkt)
  /-- R337. Immediate command that reads a status window at one instant. -/
  | statusRead (p : Pkt)
  /-- R334. Command that admits and sets a channel's immediate ceiling. -/
  | nowReserve (p : Pkt)
  /-- R370. PCIe link training completes and the link is up. -/
  | linkUp (speed : Nat) (width : Nat)
  /-- R371. A configuration request is answered normally or with CRS. -/
  | configRequest (req : ConfigReq)
  /-- R356. A write to a register or parameter that has no row of its own, with the BAR0 size and alignment checks. -/
  | registerWrite (offset : Nat) (size : Nat) (value : Nat)
  /-- R356. A poisoned write to BAR0 or BAR2 is discarded and POISON_RX is set. -/
  | poisonedWrite (bar : Nat) (offset : Nat)
  /-- R365. A BAR2 read returns DRAM data through the window, or 0, or a poisoned completion. -/
  | bar2Read (offset : Nat) (len : Nat) (media : Option Nat)
  /-- R364. A BAR2 write merges into DRAM, or is discarded with BAR2_DENIED. -/
  | bar2Write (offset : Nat) (bytes : List Byte)
  /-- R367. Clearing a vector mask or the Function Mask sends one message for each pending vector. -/
  | msixUnmask (vector : Option Nat)
  /-- R354. A completion of a module read returns an error and faults the owning transfer. -/
  | hostReadError (unit : ReadUnit) (fault : HostFault)
  /-- R372. A PowerState write moves the function between D0 and D3hot. -/
  | powerStateWrite (d3 : Bool)
  /-- R368. An ATS invalidation request is completed after every request that used the translations. -/
  | atsInvalidation (ctx : Nat) (addr : Nat) (size : Nat)
  /-- R368. Clearing the ATS, PRI or PASID enable invalidates its translations and faults the waiting transfers. -/
  | translationServiceDisable (svc : Service)
  /-- R403. A page request group response either retries the waiting transfers or faults them. -/
  | priResponse (ctx : Nat) (success : Bool)
  /-- R399. An ATS translation completion is cached, or faults the unit with ATS_FAIL. -/
  | atsTranslationCompletion (ctx : Nat) (va : Nat) (res : Option AtsGrant)
  /-- R398. A page-table entry read returns and the walk continues, finishes or faults. -/
  | walkReadCompletion (ctx : Nat) (entry : HostEntry)
  /-- R375. The near loopback ends, LB_RESULT is written and link training starts. -/
  | nearLoopbackEnd (lanes : Nat) (errors : Nat)
  /-- R387. Command that sets a stream's ring, write-index address and quota. -/
  | stmConfig (p : Pkt)
  /-- R394. Command that starts a stream, or retries a parked one. -/
  | stmStart (p : Pkt)
  /-- R394. Command that stops a stream and drains or discards its blocks. -/
  | stmStop (p : Pkt)
  /-- R383. Command that closes the open block with FLUSH. -/
  | stmFlush (p : Pkt)
  /-- R403. Command that retries a parked stream's faulted write. -/
  | stmResolve (p : Pkt)
  /-- R399. Command that invalidates the cached translations of a context. -/
  | xltInvalidate (p : Pkt)
  /-- R380. A record reaches the stream engine and is placed, or dropped under the stall policy. -/
  | streamRecordArrive (group : Nat)
  /-- R383. The first record has been in the open block for MAX_AGE and the block closes with AGE. -/
  | blockAgeExpiry (st : Nat)
  /-- R396. The DMA engine chooses, translates and issues one unit of at most 4 KiB. -/
  | dmaUnitIssue (media : Bool)
  /-- R389. A write of a stream's read index frees ring space, or is ignored with RD_IDX_BAD. -/
  | rdIdxDoorbell (st : Nat) (value : Nat)
  /-- R425. Every 10 µs a forwarded stream waiting for ring space reads its read index through the issuing node. -/
  | fwdRdIdxPoll (st : Nat) (value : Nat)
  /-- R412. A write of PORT_EN enables or disables a mesh port. -/
  | portEnWrite (port : Nat) (value : Int)
  /-- R412. A peer signal is detected on a DOWN port and training starts. -/
  | portSignalDetect (port : Nat)
  /-- R412. The lanes align, so the port goes UP on four or two lanes and its delay and peer are measured. -/
  | portTrainingDone (port : Nat) (lanes : Nat) (delay : Nat) (peer : Nat) (same : Bool)
  /-- R412. No lane pair aligns within 10 ms and the port returns to DOWN. -/
  | portTrainingFail (port : Nat)
  /-- R412. Every 100 ms, training of a DOWN port is retried. -/
  | portTrainingRetry (port : Nat)
  /-- R412. 1 µs without a valid block, or 8 bad sync headers, takes the port DOWN with PORT_DOWN. -/
  | portLinkLoss (port : Nat)
  /-- R431. A system-channel frame arrives, is forwarded on the other ports and is passed to the release unit, or is discarded. -/
  | sevFrameRx (port : Nat) (f : SevFrame)
  /-- R427. A time-exchange frame arrives and is timestamped. -/
  | timeFrameRx (port : Nat) (f : TimeFrame)
  /-- R413. A class 1 frame (enumeration, repair, forwarded packet, completion or echo) is received and handled. -/
  | controlFrameRx (port : Nat) (f : ControlFrame)
  /-- R424. A class 2 frame of forwarded host-memory traffic is received and handled. -/
  | bulkFrameRx (port : Nat) (f : BulkFrame)
  /-- R427. Every 10 µs a member exchanges time frames with its parent and steers its SYSTIME. -/
  | timeExchange (sent : Nat) (freq : Int) (good : Bool)
  /-- R421. Route repair rebuilds the route tables, tree and diameter within 5 ms. -/
  | routeRepairDone (g : MeshGraph)
  /-- R415. Command that makes this node root and starts a new enumeration generation. -/
  | meshEnumerate (p : Pkt)
  /-- R417. Discovery finishes and MESH_ENUMERATE completes with its counts. -/
  | meshEnumerateDone (g : MeshGraph)
  /-- R436. Command that copies route-table entries to host memory. -/
  | meshRouteRead (p : Pkt) (wr : Option HostFault)
  /-- R422. Command that sends a packet to another member, or broadcasts it. -/
  | meshForward (p : Pkt) (d : HostData)
  /-- R436. Command that retrains a port or selects a port loopback. -/
  | meshPortCtl (p : Pkt)
  /-- R432. A port loopback finishes, LB_RESULT is written and the port returns to DOWN. -/
  | meshLoopbackEnd (port : Nat) (lanes : Nat) (errors : Nat)
  /-- R426. Command that enables or disables mesh time synchronisation. -/
  | meshTimeCtl (p : Pkt)
  /-- R446. Command that self-calibrates channels or pins against internal references. -/
  | calSelf (p : Pkt)
  /-- R447. Self-calibration steps finish, every set is written as a target and the command completes. -/
  | calSelfDone (src : Src) (tag : Nat) (found : SelfFound)
  /-- R449. Command that takes the zero step of a system calibration. -/
  | calSysZero (p : Pkt)
  /-- R450. Command that takes the full-scale step and computes G and O. -/
  | calSysFull (p : Pkt)
  /-- R451. N qualifying inputs have been gathered and the system-calibration step completes. -/
  | calSysInputsTaken (mean : Int)
  /-- R452. Command that copies the factory certificate to host memory. -/
  | calCertRead (p : Pkt) (wr : Option HostFault)
  /-- R452. Command that checks and applies the factory certificate. -/
  | calCertLoad (p : Pkt)
  /-- R453. Command that writes a coefficient image to host memory. -/
  | calSave (p : Pkt) (wr : Option HostFault)
  /-- R454. Command that checks and applies a coefficient image. -/
  | calRestore (p : Pkt) (d : HostData)
  /-- R443. At the first vector boundary of each microsecond, a running domain's deskew moves one step toward its target. -/
  | deskewStep (dom : Nat)
  /-- R455. Every REF_TRACK_PERIOD the reference ratio and the temperature shift are checked. -/
  | refTrack (ratio : Int)
  /-- R465. A W1C write of STATUS severity flags clears them unless they are set again in the same cycle. -/
  | statusW1c (blk : Nat) (inst : Nat) (mask : Nat) (again : List Nat)
  /-- R462. A write of CLR_HIST clears COUNT, FIRST_CAUSE, LAST_CAUSE and FIRST_TIME. -/
  | statusClrHist (blk : Nat) (inst : Nat) (again : List Nat)
  /-- R468. A write of REACTION selects a cause or sets its reaction. -/
  | reactionWrite (blk : Nat) (inst : Nat) (value : Nat)
  /-- R471. A write of INJECT GO injects a cause once at the next island cycle. -/
  | injectGo (blk : Nat) (inst : Nat) (value : Nat)
  /-- R471. With REPEAT set, the cause is injected every PERIOD ms. -/
  | injectRepeat (blk : Nat) (inst : Nat)
  /-- R475. A periodic DRAM scrub pass corrects or reports ECC errors. -/
  | dramScrub (corrected : List DramWord) (bad : List DramWord) (late : Bool) (progress : Nat)
  /-- R475. Every 10 s, a scrub pass over on-die ECC SRAM corrects or reports errors. -/
  | sramScrub (corrected : List SramWord) (bad : List SramWord) (late : Bool)
  /-- R476. Every SHADOW_PERIOD the configuration registers are compared against their shadows and repaired. -/
  | shadowCompare (mismatches : List (Nat × Nat))
  /-- R489. Every millisecond Vane samples every sensor and evaluates its state and causes. -/
  | sensorSample (readings : List (Nat × Option Int))
  /-- R486. Every 100 µs Vane measures the TCXO against its own oscillator. -/
  | tcxoCheck (good : Bool)
  /-- R491. An MCTP control message is answered by Vane. -/
  | mctpControlMessage (m : MctpControl)
  /-- R491. A PLDM base, monitoring or firmware-update message is handled. -/
  | pldmMessage (m : Pldm)
  /-- R491. An SPDM 1.2 request is answered. -/
  | spdmMessage (m : Spdm)
  /-- R493. A type 0x7E message carrying a command packet is executed by Vane. -/
  | vendorDefinedMessage (vendor : Bool) (p : Pkt)
  /-- R498. The buffered records are written and verified into MRAM. -/
  | logFlush (fails : Option Nat)
  /-- R499. Command that copies log records to host memory. -/
  | logRead (p : Pkt) (wr : Option HostFault)
  /-- R500. Command that clears the circulating log range. -/
  | logClear (p : Pkt)
  /-- R490. Command that returns a sensor's reading and state. -/
  | sensorRead (p : Pkt)
  /-- R505. Command that checks an image and writes it to the standby slot. -/
  | fwStage (p : Pkt) (d : HostData)
  /-- R505. The slot read-back finishes, so the slot is VALID or INVALID and FW_STAGE completes. -/
  | fwStageDone (good : Bool)
  /-- R506. Command that activates the standby image hitlessly. -/
  | fwActivate (p : Pkt)
  /-- R513. Command that reports image slots, versions and FW_SV. -/
  | fwStatus (p : Pkt)
  /-- R519. Command that checks a token and changes the life-cycle state. -/
  | lcTransition (p : Pkt) (d : HostData)
  /-- R516. Command that returns a nonce for a token. -/
  | lcChallenge (p : Pkt)
  /-- R530. Command that reports the life-cycle state and counters. -/
  | lcStatus (p : Pkt)
  /-- R541. A TAP instruction is loaded, and is permitted or decoded as BYPASS by state and quietness. -/
  | tapInstruction (load : TapLoad)
  /-- R533. Command that arms or ends a loopback depth on a target. -/
  | loopbackSet (p : Pkt)
  /-- R534. Command that runs a built-in loopback check and restores the state. -/
  | loopbackRun (p : Pkt)
  /-- R543. Command that runs the selected self-test steps. -/
  | selfTest (p : Pkt)
  /-- R377. A correctable or uncorrectable PCIe error is detected on the link, reported through AER and counted, setting AER_CORR or AER_UNCORR. -/
  | pcieErrorDetected (corr : Bool)
  /-- R322. Data of a module DMA read of host memory (pointer block, upload source, image, coefficient image) arrives whole. -/
  | hostReadCompletion (unit : ReadUnit) (data : List Nat)
  /-- R356. A BAR0 read that latches the high half of a 64-bit register, or that has a bad size or alignment and sets BAR_ACCESS. -/
  | bar0Read (offset : Nat) (size : Nat)
  /-- R534. A built-in loopback check finishes, restores the state it changed, writes its result words and sets LB_FAIL on a failure. -/
  | loopbackRunDone (src : Src) (tag : Nat) (captured : CaptureRun) (means : List Int) (echoes : List (Nat × Nat × Nat × Nat))
      (looped : Looped)
  /-- R543. The selected self-test steps finish and SELF_TEST completes with its failed and skipped masks. -/
  | selfTestDone (failed : Nat) (skipped : Nat)
  /-- R169. The 10 ms discharge applied after an HV channel ramps to 0 V and opens its output comes to an end. -/
  | hvDischargePeriodEnd (ch : Nat)
  /-- R184. Within 20 µs of a PMU_EN write, the pin leaves high impedance and enters PMU, or returns to the state the sequencer gives it. -/
  | pmuSwitchDone (pin : Nat)
  /-- R560. The hold-up bus reaches 58 V during boot and the module releases PFAIL. -/
  | holdupBusCharged
  /-- R560. Controller supplies, timebase lock and heartbeats are all up, and PWR_STATE goes from BOOT to RUN. -/
  | bootComplete
  /-- R567. nRESET held low for at least 10 µs starts a shed with source NRESET. -/
  | nreset
  /-- R561. PFAIL held low by another device for at least 1 µs either sheds load when PFAIL_EXT is 1 or sets PFAIL_IGNORED. -/
  | externalPfail
  /-- R563. Pins, sequencers, sweeps, HV, channels and the log flush are all done, and PWR_STATE becomes SHED. -/
  | shedComplete
  /-- R564. The hold-up energy runs out and the module loses power. -/
  | holdupSpent
  /-- R566. Every HOLDUP_TEST_PERIOD in RUN, Vane disconnects the charger and loads the hold-up bus with 0.5 A. -/
  | holdupTest
  /-- R23. Every 500 µs, Vane sends a heartbeat token to each clocked island. -/
  | heartbeatRound
  /-- R34. The link has reached L2/L3 Ready, so the module stops its islands, self-refreshes DRAM and enters LULL. -/
  | lullEntryDone
  /-- R373. The link is not in L2/L3 Ready 1 s after the completion, so Lull entry is abandoned with LULL_NO_L2. -/
  | lullL2Timeout
  /-- R32. The master is locked, the islands run and the host link has trained, so the module returns to RUN and logs the wake cause. -/
  | wakeComplete
  /-- R169. The HV boost finishes starting and the waiting channel reaches STANDBY. -/
  | hvBoostStarted
  /-- R170. All four HV channels have been OFF or TRIPPED for 1 s, so the boost stops. -/
  | hvBoostStop
  /-- R170. A boost rail more than 10 V off target for 1 ms sets BOOST_FAULT and faults the HV channels. -/
  | hvBoostFault
  /-- R174. Loop current below 2 mA disables the boost, discharges the outputs and trips every HV channel. -/
  | interlockOpen
  /-- R174. Loop current at or above 4 mA for 50 ms makes INTLK_STATE CLOSED. -/
  | interlockClosed
  /-- R256. The reference is detected lost, so a locked timebase enters COAST and other states go to GUARD_WAIT. -/
  | refLoss
  /-- R263. The reference has been present for REF_QUAL and, with AUTO_RELOCK, a recovery relock starts. -/
  | refQualElapsed
  /-- R262. No lock within LOCK_TIMEOUT, so the timebase goes to GUARD_WAIT with LOCK_FAIL. -/
  | lockTimeout
  /-- R265. The coast budget expires, so BUDGET_OUT is set, EV_EXPIRE pulses and sweeps and sequencers hold. -/
  | coastBudgetExpiry
  /-- R264. At 1 s into COAST, the held tuning voltage moves to the hold DAC. -/
  | holdDacTransfer
  /-- R269. A too-short master-derived clock pulse is suppressed, which counts GUARD_BLOCK and sets FREQ_GUARD. -/
  | freqGuardSuppress
  /-- R272. Every 8 master cycles during a phase-step sequence, one step is applied to the master. -/
  | phaseStepApply
  /-- R294. Each 10 µs window of the loop monitor ends and the per-channel counts restart. -/
  | loopMonitorWindow
  /-- R538. In EVF_ECHO, the echo unit publishes a further pulse 64 ns after an accepted pulse. -/
  | evfEchoPulse
  /-- R328. The module issues a fetch of up to 8 packets from the highest-priority SQ, once fetching is not paused. -/
  | packetFetch
  /-- R328. A free core takes the highest-priority waiting packet that its fence allows. -/
  | commandDispatch
  /-- R345. A write of MBX_CTL.GO submits the mailbox packet. -/
  | mbxGo
  /-- R377. The link leaves L0 other than by L2 entry. -/
  | linkDown
  /-- R373. PME_Turn_Off is answered with PME_TO_Ack and entry to L2/L3 Ready. -/
  | pmeTurnOff
  /-- R375. At power-up, with LB_BOOT set, a near serial loopback runs before link training. -/
  | nearLoopbackStart
  /-- R375. The link partner directs the link into Loopback and the module acts as loopback slave. -/
  | farLoopbackEntry
  /-- R416. A member of an older generation that is not claimed within 5 ms becomes STANDALONE. -/
  | generationTimeout
  /-- R449. N inputs are not gathered within 10 s and the step completes with 0x0201. -/
  | calSysTimeout
  /-- R441. Once per microsecond, each ramping coefficient term moves toward its target. -/
  | coefRampStep
  /-- R479. Every TELEM_PERIOD an 11-record telemetry set is emitted on ST_31. -/
  | telemetryInstant
  /-- R489. The baseplate has been at the grade maximum plus 15 °C for 1 s, so the module sheds with OVERTEMP_SHED. -/
  | overtempShedTimer
  /-- R485. Vane's watchdog expires after 1 s and restarts Vane. -/
  | vaneWatchdog
  /-- R497. A log record reaches Vane and is numbered and buffered, or lost. -/
  | logRecordArrive
  /-- R506. No long-duration command remains in flight, so cores 2 and 3 restart on the new image. -/
  | fwActDrained
  /-- R509. Step 2 exceeds FW_ACT_WAIT and the activation fails with BUSY. -/
  | fwActWaitExpiry
  /-- R506. The new cores are ready, so fetching pauses and HOST_STATE reads PAUSED. -/
  | fwActPauseStart
  /-- R506. The handover is done, so the new image takes service and fetching resumes. -/
  | fwSwap
  /-- R506. The boot-selection word is verified, the old cores restart and FW_ACTIVATE completes. -/
  | fwActComplete
  /-- R507. All 21 chips change microcode banks at one loop-cycle boundary. -/
  | microcodeBankSwitch
  /-- R507. Vane flushes its log and restarts on new Vane firmware. -/
  | vaneFwRestart
  /-- R516. A nonce older than 600 s is spent. -/
  | nonceExpiry
  /-- R522. The RETURN erasure finishes and ERASE_PENDING clears. -/
  | erasureDone
  /-- R263. The first valid reference edge after a loss marks the reference present again and starts, or restarts, the REF_QUAL count. -/
  | refReturn
  /-- R370. Release of PERST# starts link training, or counts as a soft reset after a wake from Lull. -/
  | perstRelease
  /-- R560. 200 ms after the undervoltage lockout releases, the controller supplies and DRAM are up and the R370 clock starts if PERST# is already released. -/
  | controllerSuppliesUp
  /-- R484. Vane finishes coming up (within 150 ms) after power-on, nRESET, a watchdog restart or a firmware restart, then logs, answers SMBus and drains CMD's record queue. -/
  | vaneUp
  /-- R370. A Function Level Reset completes within 100 ms, after which configuration requests no longer receive CRS. -/
  | flrComplete
  /-- R509. The new image has not reported ready within step 3, so the activation fails with INIT_FAIL and cores 2 and 3 return to the old image. -/
  | fwActInitTimeout
deriving DecidableEq, Repr

end Sys2Proof
end

