-- ==== Sys2Proof/Decode.lean ====
section
/-!
DEFINITION. Commands from words of the table: the table gives no row any bits, so no word spells a command. A command
reaches the block as an event or as a packet of R320, whose fields `Machine/Complete.lean` reads.
-/
namespace Sys2Proof

/-- The command a word spells by the table's bits: none, for no row gives bits. -/
def decodeTableWord (_nbits _w : Nat) : Option Instr := none

end Sys2Proof
end

