-- ==== Sys2Proof/Config.lean ====
section
/-!
DEFINITION. What the module's build fixes and the spec does not number (identity, images, standard profiles), and
the free values: constants without a body, so that nothing can be proved of their values.
-/
namespace Sys2Proof.Config

/-- A value the spec leaves open, one per draw of the counter `State.draws` (log 3). -/
opaque freeNat : Nat → Nat

/-- A signed value the spec leaves open, one per draw (log 3). -/
opaque freeInt : Nat → Int

/-- Coefficient `c` of the firmware's standard profile `code` (R44, R165, R342): named by the spec, not numbered. -/
opaque stdProfile : Nat → Nat → BitVec 32

/-- Word `i` of the identity registers of R338 and R357 (part, versions, serial number). -/
opaque identity : Nat → BitVec 32

/-- The SHA-384 digest of the image of a kind that slot A holds as shipped (R503): not in the spec. -/
opaque shippedDigest : Nat → List Nat

/-- Whether an ECDSA P-384 signature (key, message, signature words) verifies (R504, R518). The spec names the
algorithm; its arithmetic is not modelled, so the answer is a function of the operands that no proof can see. -/
opaque sigVerifies : List Nat → List Nat → List Nat → Bool

/-- SHA-384 of a body, as 12 words (R503), uninterpreted. -/
opaque sha384 : List Nat → List Nat

/-- The vendor keys fused in the module: 0 life-cycle, 1 firmware (R504, R518). -/
opaque vendorKey : Nat → List Nat

/-- Delay from a fabric trigger to its sample instant in CONTINUOUS mode, in ns: at most 60, equal for every group (R91). -/
opaque trigLatency : Nat

/-- Delay from a producer to a consumer input outside the delay-matched distribution, by consumer number, in 2^-16 ns: at most 5 ns
(R28, R284). -/
opaque hopDelay : Nat → Nat

/-- Delay from the rising edge of marker `m` of domain `d` to its pulse, in 2^-16 ns: at most 3 ns (R247). -/
opaque markDelay : Nat → Nat → Nat

/-- The factory certificate in Vane flash, in the image format of R453, as words: no command writes it (R452, R524). -/
opaque certificate : List Nat

/-- The certificate chain of SPDM slot 0, provisioned in MAKER (R492), as words. -/
opaque certChain : List Nat

/-- What the module signs with its SPDM key, ECDSA P-384 (R491), over words: uninterpreted. -/
opaque deviceSign : List Nat → List Nat

/-- The Rinxon vendor ID (R350): named by the spec, not numbered. -/
opaque vendorId : BitVec 16

/-- The JEDEC manufacturer code of Rinxon (R540): named by the spec, not numbered. -/
opaque jedecCode : BitVec 11

/-- The data a pin drives in a vector of the built-in PIN_DRIVER run (R537): the spec gives no pattern. -/
opaque driverPattern : Nat → Nat → Bool

/-- The fails planted in the built-in SEQ_CAPTURE run (R536), as vector and map of the domain's pins: the spec gives no pattern. -/
opaque plantedFail : Nat → Nat × Nat

/-- The bytes that SMB_ECHO sends (R538): the spec gives none. -/
opaque smbPattern : Nat → BitVec 8

end Sys2Proof.Config
end

