-- ==== Sys2Proof/Machine/Bank.lean ====
section
/-!
DEFINITION. Sparse storage in one canonical form: a list of index and value pairs, indexes strictly rising, no entry
equal to what an unlisted index reads as. Registers, channels, table memories and buffers are all held this way, so
that equal contents are equal data.
-/
namespace Sys2Proof.Machine

/-- Values by index; an index that is not listed reads as a default given by the reader. -/
abbrev Bank (α : Type) := List (Nat × α)

/-- The value listed for an index. -/
def Bank.find {α : Type} (i : Nat) : Bank α → Option α
  | [] => none
  | (j, v) :: b => if i = j then some v else Bank.find i b

/-- The value at an index: the listed one, else the default of that index. -/
def Bank.get {α : Type} (d : Nat → α) (b : Bank α) (i : Nat) : α :=
  (Bank.find i b).getD (d i)

/-- The bank without an index. -/
def Bank.drop {α : Type} (i : Nat) : Bank α → Bank α
  | [] => []
  | (j, v) :: b => if i = j then Bank.drop i b else (j, v) :: Bank.drop i b

/-- The bank with a pair put in front of the first larger index. -/
def Bank.put {α : Type} (i : Nat) (v : α) : Bank α → Bank α
  | [] => [(i, v)]
  | (j, w) :: b => if i < j then (i, v) :: (j, w) :: b else (j, w) :: Bank.put i v b

/-- Write one index: the entry goes when the value is the default, else it is replaced. -/
def Bank.set {α : Type} [DecidableEq α] (d : Nat → α) (b : Bank α) (i : Nat) (v : α) : Bank α :=
  if v = d i then Bank.drop i b else Bank.put i v (Bank.drop i b)

/-- Write a list of values at consecutive indexes. -/
def Bank.setAll {α : Type} [DecidableEq α] (d : Nat → α) (b : Bank α) (i : Nat) : List α → Bank α
  | [] => b
  | v :: vs => Bank.setAll d (Bank.set d b i v) (i + 1) vs

/-- The values at `n` consecutive indexes. -/
def Bank.slice {α : Type} (d : Nat → α) (b : Bank α) (i : Nat) : Nat → List α
  | 0 => []
  | n + 1 => Bank.get d b i :: Bank.slice d b (i + 1) n

/-- Strictly rising indexes above a bound, none equal to its default. -/
def Bank.wfFrom {α : Type} [DecidableEq α] (d : Nat → α) : Nat → Bank α → Bool
  | _, [] => true
  | lo, (j, v) :: b => decide (lo ≤ j) && decide (v ≠ d j) && Bank.wfFrom d (j + 1) b

/-- The canonical form. -/
def Bank.wf {α : Type} [DecidableEq α] (d : Nat → α) (b : Bank α) : Bool := Bank.wfFrom d 0 b

end Sys2Proof.Machine
end

