-- ==== Sys2Proof/Machine/State.lean ====
section
/-!
DEFINITION. The state of the block, as plain data: every parameter by its ID, every status window, every queue,
buffer, table and run state the spec names, the commands that wait, and what the block has sent out.
-/
namespace Sys2Proof.Machine

/-- Why the machine stops with a fault. No command of the spec's table stops the block, so nothing raises one: a
fault of the hardware is the block's own state (a cause, a FATAL flag). Safe. -/
inductive Fault where
deriving DecidableEq, Repr

/-- Why the machine answers no meaning. -/
inductive Refusal where
  /-- Raised by a dispatch arm whose command has no meaning yet. Safe: nothing is claimed of the command. -/
  | notModelled (mnemonic : String)
deriving DecidableEq, Repr

/-- When a cause was last logged and how many settings since were only counted (R473). -/
structure Logged where
  at_ : Nat
  missed : Nat
deriving DecidableEq, Repr

/-- A cause as it is detected: its code, whether an injection set it (R471), and, for a cause with two severities,
whether it carries the higher one. -/
structure Hit where
  code : Nat
  inj : Bool := false
  high : Bool := false
  apply : Bool := true
deriving DecidableEq, Repr

/-- One status window (R361, R461 to R471). `first` and `last` have the layout of R462 and are 0 while the history is
clear; `inject` is the INJECT word, GO reading 0, `injAt` the clock time of the last injection; `reacts` holds reactions written over the default ones; `top` is the
first-ranked cause of the loop cycle `topAt` in which a cause was last set (R466). -/
structure Win where
  fatal : Bool := false
  fault : Bool := false
  degraded : Bool := false
  warn : Bool := false
  injected : Bool := false
  irqEn : Nat := 0
  inject : Nat := 1000
  reactSel : Nat := 0
  reacts : Bank (Option Nat) := []
  count : Nat := 0
  first : Nat := 0
  last : Nat := 0
  firstTime : Nat := 0
  injAt : Nat := 0
  logged : Bank (Option Logged) := []
  top : Option Hit := none
  topAt : Nat := 0
deriving DecidableEq, Repr

/-- A log record before it has a number (R495, R496): type, time, block, instance, payload words from word 5, and
the severity that orders records of one time (R473): 3 FATAL, 2 FAULT, 1 DEGRADED, 0 WARN or none. -/
structure Rec where
  typ : Nat
  time : Nat
  blk : Nat
  inst : Nat
  pay : List Nat
  sev : Nat
deriving DecidableEq, Repr

/-- A numbered record (R495). -/
structure Numbered where
  seq : Nat
  r : Rec
  holdup : Bool
  late : Bool
deriving DecidableEq, Repr

/-- A completion (R323): result words 2 to 5 and the SYSTIME at which it was produced; `owns` unless it answers no operation in flight
of its own: a duplicate tag (R330), a fault notice (R402); `waited` once it has found its queue full (R325); of a fault notice, the stream
and, for one of another node's, that node. -/
structure Cpl where
  src : Src
  tag : Nat
  status : Nat
  res : List Nat
  time : Nat
  owns : Bool := true
  waited : Bool := false
  notice : Option (Option Nat × Nat) := none
deriving DecidableEq, Repr

/-- Where an operation in flight stands (R327, R328): fetched and waiting for dispatch, dispatched and on a core or in the immediate
path, waiting for the host data that it reads, or past that: its effect is taken, or it waits for something else that needs no core. -/
inductive OpStage where
  | waiting
  | running
  | reading
  | released
deriving DecidableEq, Repr

/-- An operation in flight, before its completion is produced. -/
structure Op where
  pkt : Pkt
  stage : OpStage
deriving DecidableEq, Repr

/-- A submission queue (R315). `lo` is a low half of SQ_BASE that waits for its high half (R356). -/
structure Sq where
  base : Nat := 0
  enable : Bool := false
  imm : Bool := false
  qprio : Nat := 3
  cq : Nat := 0
  size : Nat := 0
  head : Nat := 0
  tail : Nat := 0
  fault : Bool := false
  fetching : Nat := 0
deriving DecidableEq, Repr

/-- A completion queue (R315, R323, R326): `pend` are completions waiting to be written, oldest first; `unsig` counts
completions written since the last interrupt and `unsigAt` is when the first of them was written. -/
structure Cq where
  base : Nat := 0
  enable : Bool := false
  irqEn : Bool := false
  vector : Nat := 0
  coalCount : Nat := 0
  coalTime : Nat := 0
  size : Nat := 0
  head : Nat := 0
  tail : Nat := 0
  phase : Bool := true
  fault : Bool := false
  full : Bool := false
  pend : List Cpl := []
  unsig : Nat := 0
  unsigAt : Nat := 0
deriving DecidableEq, Repr

/-- Command handling: queues, mailbox (R344), operations in flight in fetch order, by QPRIO the queue served last (R328), and a mailbox packet
that waits while fetching is paused (R327, R345). -/
structure Cmd where
  sqs : Bank Sq := []
  cqs : Bank Cq := []
  ops : List Op := []
  lastSq : Bank Nat := []
  mbxCmd : List Nat := []
  mbxCpl : List Nat := []
  mbxBusy : Bool := false
  mbxWaiting : Bool := false
  mbxDone : Bool := false
  ceilings : Bank Nat := []
deriving DecidableEq, Repr

/-- One MSI-X table entry. -/
structure Vec where
  addr : Nat := 0
  data : Nat := 0
  masked : Bool := true
  pending : Bool := false
deriving DecidableEq, Repr

/-- Where the link stands (R370, R373, R374): held in reset or not yet clocked, near loopback, training, up, in L2/L3
Ready, acting as loopback slave. -/
inductive LinkSt where
  | down | nearLoop | training | up | l2 | slave
deriving DecidableEq, Repr

/-- The AER registers (R351, R354): status, mask and severity of uncorrectable errors and status and mask of correctable ones, the bits
and reset values those of the PCIe standard (log 224); whether ECRC is generated and checked; the error logged first, with its header and TLP
prefix logs. -/
structure Aer where
  uncStatus : Nat := 0
  uncMask : Nat := 0x400000
  uncSev : Nat := 0x462030
  corStatus : Nat := 0
  corMask : Nat := 0xE000
  ecrcGen : Bool := false
  ecrcCheck : Bool := false
  first : Nat := 0
  header : List Nat := [0, 0, 0, 0]
  prefixes : List Nat := [0, 0, 0, 0]
deriving DecidableEq, Repr

/-- The host link outside its parameters: link state, held and latched halves of 64-bit registers (R356) by the offset of the high half,
MSI-X, the enables of configuration space, the power state (R372), CRS (R370), PERST#, the controller's supplies, a Function Level
Reset in progress, a release of PERST# in a wake whose soft reset is owed (R373), HOST_STATE (R357), whether the loopback of this
power-up is past and when it began (R375), whether the link has trained since (R358), the completion timeout as the host set it, its range
and whether it is disabled, and AER (R351). -/
structure Hl where
  link : LinkSt := .down
  held : Bank (Option Nat) := []
  latch : Bank (Option Nat) := []
  vecs : Bank Vec := []
  msixEn : Bool := false
  fnMask : Bool := false
  busMaster : Bool := false
  ats : Bool := false
  pri : Bool := false
  pasid : Bool := false
  d3 : Bool := false
  crs : Bool := true
  perst : Bool := true
  supplies : Bool := false
  flr : Bool := false
  perstInLull : Bool := false
  hostState : Nat := 0
  lbRun : Bool := false
  lbAt : Nat := 0
  trained : Bool := false
  timeout : Nat := 0
  timeoutOff : Bool := false
  aer : Aer := {}
deriving DecidableEq, Repr

/-- One local event channel (R282, R302): its last pulse, when it last accepted a pulse, the HOLDOFF in force, its count in the
monitor window, when the recorder last logged a pulse on it, and the pulses since that were not logged. Times are clock times in
2^-16 ns. -/
structure Chan where
  raw : Option Nat := none
  last : Option Nat := none
  hold : Nat := 4
  inWindow : Nat := 0
  loggedAt : Option Nat := none
  notLogged : Nat := 0
deriving DecidableEq, Repr

/-- One static consumer input (R286 to R289, R293): the pulse it captured and has not acted on, the last pulse it
captured or discarded, and its CONS_STAT fields. Times are clock times in 2^-16 ns. -/
structure Cons where
  capt : Option Nat := none
  last : Option Nat := none
  busyTill : Nat := 0
  overrun : Bool := false
  suspended : Bool := false
  merges : Nat := 0
deriving DecidableEq, Repr

/-- An edge of an Eddy cell's output that waits for FILT (R299): the level it leads to, and its clock time in 2^-16 ns. -/
structure EddyEdge where
  level : Bool
  at_ : Nat
deriving DecidableEq, Repr

/-- One Eddy cell (R298, R299): input levels, the ends of the stretch times that run, by input, flip-flop, the output as last
published or reset, and an edge that waits for FILT. -/
structure Eddy where
  levels : Nat := 0
  ends : Bank Nat := []
  q : Bool := false
  out : Bool := false
  edge : Option EddyEdge := none
deriving DecidableEq, Repr

/-- A pulse on a system channel that waits for its release (R305): its T0 and the release time, in 2^-16 ns of SYSTIME. -/
structure Release where
  sev : Nat
  stamp : Nat
  due : Nat
deriving DecidableEq, Repr

/-- A tick generator (R295): the setting in force, and the clock time in ns of its last tick. -/
structure TickGen where
  period : Nat := 0
  phase : Nat := 0
  last : Option Nat := none
deriving DecidableEq, Repr

/-- A pulse published on a local channel and not yet through R282: whether a release unit published it (R306), and whether an
echo unit did (R538), its clock time in 2^-16 ns where a rule fixes it (R247, R295, R297, R305), and the domain whose marker published it. -/
structure Pulse where
  ch : Nat
  rel : Bool := false
  echo : Bool := false
  at_ : Option Nat := none
  mark : Option Nat := none
deriving DecidableEq, Repr

/-- The event fabric outside its parameters: channels, consumers, Eddy cells, tick generators, capture units, the last stamp of
each outbound bridge, releases that wait, pulses published, the mode before TEST, the channels with an echo unit armed, the
echoes that are due, the clock time at which the loop monitor's present window began, and the writes of SEV_ALIGN, newest first: when, in
2^-16 ns of SYSTIME, and the value until then (R310). -/
structure Evf where
  chans : Bank Chan := []
  cons : Bank Cons := []
  eddy : Bank Eddy := []
  ticks : Bank TickGen := []
  cuFifo : Bank (List Quad) := []
  cuSeq : Bank Nat := []
  sevLast : Bank (Option Nat) := []
  releases : List Release := []
  lines : List Pulse := []
  beforeTest : Nat := 0
  echo : List Nat := []
  echoDue : List (Nat × Nat) := []
  winAt : Nat := 0
  aligns : List (Nat × Nat) := []
deriving DecidableEq, Repr

/-- A mesh port outside its parameters (R412, R427, R432, R539): whether it is UP and leads to a member, the loopback it runs with
the command that asked, when it began and the echo frames returned, when its last training failed, whether the next system-channel frame is
lost, the stamp of the last time frame, the stamps of the exchange that the node behind it has begun, the last frame sent of classes 1 and 2. -/
structure PortRun where
  member : Bool := false
  lb : Option (Src × Nat × Nat) := none
  lbAt : Nat := 0
  failAt : Option Nat := none
  loseNext : Bool := false
  stamp : Nat := 0
  echoes : Nat := 0
  asked : Nat × Nat := (0, 0)
  last1 : List Nat := []
  last2 : List Nat := []
deriving DecidableEq, Repr

/-- A MESH_FORWARD outstanding (R422, R423): its command, exchange number, target, the members that have not answered; for a broadcast
those that succeeded, the lowest that failed with its status, and the unreachable. -/
structure Fwd where
  src : Src
  tag : Nat
  fid : Nat
  target : Nat
  left : List Nat
  good : Nat := 0
  low : Option (Nat × Nat) := none
  unreach : Nat := 0
deriving DecidableEq, Repr

/-- A class 1 or 2 frame held for a route repair (R421): node, class, words, for a completion the issuing node, word 0 of the
packet and whether it was applied (R422), and the links it will have crossed when it reaches the next node (R420). -/
structure HeldFrame where
  node : Nat
  cls : Nat
  words : List Nat
  note : Option (Nat × Nat × Bool)
  hops : Nat := 1
deriving DecidableEq, Repr

/-- The mesh outside its parameters (R415 to R431): route table; members assigned; the highest generation seen, and the serial of its
root; MESH_ENUMERATE and MESH_TIME_CTL in progress, the latter with the members that have not answered; ports; exchanges outstanding,
the next number, and the queue of each exchange whose target may still address host memory; system-channel frames seen; exchanges in a
row within 100 ps and beyond 1 ns; COARSE, and whether the present ACQUIRE has made its coarse set, and one that waits
for its loop-cycle boundary; a route repair in progress, with
the frames it holds; a neighbour of a newer generation that has not claimed this node, and since when; the forwarded packets answered,
by issuing node and exchange, with word 0 and whether each was applied; the PRIORITY of each exchange's packet; the broadcasts seen, by
issuing node and exchange; whether no node of the present generation has claimed this one (R415, R416); whether a repair follows
enumeration (R433); of the exchange with the parent under way, this node's stamps of the first two frames; what the last exchange shows,
offset and link delay in ps; and the last 64 exchanges: offset, link delay, frequency offset (R427). -/
structure Msh where
  routes : Bank Nat := []
  assigned : Nat := 0
  maxGen : Nat := 0
  rootSerial : Nat := 0
  enum : Option (Src × Nat) := none
  time : Option (Src × Nat × List Nat) := none
  ports : Bank PortRun := []
  fwds : List Fwd := []
  nextFid : Nat := 0
  ctxs : Bank Nat := []
  seen : List (Nat × Nat × Nat) := []
  near : Nat := 0
  far : Nat := 0
  coarse : Bool := false
  setDone : Bool := false
  coarseDue : Option Int := none
  repairing : Bool := false
  held : List HeldFrame := []
  answered : List (Nat × Nat × Nat × Bool) := []
  newer : Option (Nat × Nat) := none
  prios : Bank Nat := []
  floods : List (Nat × Nat) := []
  unclaimed : Bool := false
  repairAfter : Bool := false
  sentAt : Option Nat := none
  heardAt : Option Nat := none
  sample : Option (Int × Int) := none
  samples : List (Int × Int × Int) := []
deriving DecidableEq, Repr

/-- A flash slot of an image kind (R502, R503, R513): 0 EMPTY, 1 VALID, 2 INVALID, 3 STAGING; header fields; the owner signature
(R503); erases (R478). -/
structure FlashSlot where
  state : Nat := 0
  version : Nat := 0
  sv : Nat := 0
  compatMin : Nat := 0
  compatMax : Nat := 0xFFFFFFFF
  length : Nat := 0
  digest : List Nat := []
  header : List Nat := []
  ownerSig : List Nat := []
  erases : Nat := 0
deriving DecidableEq, Repr

/-- The flash slot `2 * kind + slot` as shipped (R502, R513): slot A holds the image the module runs, whose version the spec does not
give; slot B is EMPTY. -/
def slotInit (i : Nat) : FlashSlot :=
  if i % 2 = 0 then { state := 1, version := (Config.identity (i / 2 + 1)).toNat, digest := Config.shippedDigest (i / 2) } else {}

/-- A firmware activation (R506, R507): the command that asked, none for PLDM (R491); the image kind, RAISE_SV, the step in
progress, and when it began. -/
structure Activation where
  cmd : Option (Src × Nat)
  kind : Nat
  raise : Bool
  step : Nat
  at_ : Nat
deriving DecidableEq, Repr

/-- A staging in progress (R505), of a command or, where there is none, of PLDM (R491). -/
structure Staging where
  cmd : Option (Src × Nat)
  kind : Nat
  slot : Nat
deriving DecidableEq, Repr

/-- A sensor (R487 to R490): last reading, state code, time of the sample, samples without a reading, samples beyond a
limit in a row. -/
structure Sensor where
  reading : Int := 0
  state : Nat := 0
  time : Nat := 0
  silent : Nat := 0
  overW : Nat := 0
  overC : Nat := 0
deriving DecidableEq, Repr

/-- Vane outside its parameters: whether it runs, and why it last started (0 power-on, 1 nRESET, 2 watchdog, 3 firmware); the
records on their way to it with the clock time at which each was handed over (CMD's 256-record queue while it is down, R485); the
volatile buffer (R498) and records lost at it that no record tells yet; the MRAM slots (R494); the media-fail ring (R501); a flush
that is due; the flash slots by `2 * kind + slot`, the boot-selection words, the slots that run, the kinds whose boot word is not
written; staging and activation; sensors, and the last 1,000 readings of PIN_W, newest first (R489); a TCXO failure seen; the owner's
terminus ID and event receiver (R491); the telemetry period in force and the last telemetry instant. -/
structure Vane where
  up : Bool := false
  why : Nat := 0
  queue : List (Nat × Rec) := []
  queueLost : Nat := 0
  buf : List Numbered := []
  lostUnwritten : Nat := 0
  perm : Bank (Option Numbered) := []
  circ : Bank (Option Numbered) := []
  ring : List Numbered := []
  flushing : Bool := false
  slots : Bank FlashSlot := []
  boot : Bank Nat := []
  running : Bank Nat := []
  notBooted : List Nat := []
  stage : Option Staging := none
  act : Option Activation := none
  sensors : Bank Sensor := []
  watts : List Nat := []
  tcxoFailed : Bool := false
  tid : Nat := 0
  eventReceiver : Nat := 0
  telemPeriod : Nat := 100
  telemAt : Option Nat := none
  scrubAt : List Nat := [0, 0, 0]
  scrubHours : Nat := 24
  shadowAt : Nat := 0
  shadowMs : Nat := 100
  sampleAt : Option Nat := none
  smbAt : Option Nat := none
  mediaFailed : Bool := false
deriving DecidableEq, Repr

/-- The life cycle outside its parameters (R515 to R522): the fuse of SCRAPPED; the two stored copies as state, transitions and
whether the copy is valid; the enrolled owner key; the nonce while it is unspent, and when it was given; the transition to RETURN whose
erasure runs: its command, none after a power failure, and the state it left; the commands that had been dispatched before a transition and
have not been checked yet, with the state they were dispatched in (R519). -/
structure Lc where
  scrapFuse : Bool := false
  copyState : List Nat := [0, 1]
  copyCount : List Nat := [0, 1]
  copyValid : List Bool := [true, true]
  ownerKey : List Nat := []
  nonce : Option Nat := none
  nonceAt : Nat := 0
  eraseCmd : Option (Src × Nat) := none
  eraseFrom : Nat := 0
  before : List (Pkt × Nat) := []
deriving DecidableEq, Repr

/-- Power and power states (R32, R558 to R567): whether the module has power; the Lull state (0 RUN, 1 ENTERING before its
completion is posted, 2 ENTERING after it, 3 LULL, 4 WAKING), its command, and when the completion was posted; the wake masks in
force (R37), the wake that is owed, the channels of the mask that accepted a pulse since Lull entry began; the soft reset that a
PERST# release in Lull owes (R373); when the present shed began; whether a FATAL bars the return to RUN (R564); whether boot is
complete; contacts PFAIL, WAKE#, ALIVE, nRESET; the hold-up test; heartbeats (R23): whether a round is out, whether ALIVE toggles, and
the rounds each island has missed in a row. -/
structure Pwr where
  powered : Bool := true
  lull : Nat := 0
  lullCmd : Option (Src × Nat) := none
  lullAt : Nat := 0
  wakeEv : Nat := 0
  wakeSmb : Bool := true
  wakeMon : Nat := 0
  wake : Option WakeSource := none
  wakeSeen : List Nat := []
  shedAt : Option Nat := none
  barred : Bool := false
  vin : Nat := 0
  booted : Bool := false
  pfailDriven : Bool := true
  wakeLow : Bool := false
  alive : Bool := false
  nresetLow : Bool := false
  resetOwed : Bool := false
  testing : Bool := false
  testAt : Nat := 0
  testHours : Nat := 24
  round : Bool := false
  toggles : Bool := false
  missed : Bank Nat := []
deriving DecidableEq, Repr

/-- The values a channel's loop works with, taken over at loop-cycle boundaries (R82): forced value, ranges, profile,
limits, clamp margin; `sir` is the current range whose units the forced value has in ON_FI. -/
structure Act where
  mode : Nat
  setp : Int
  vr : Nat
  ir : Nat
  sir : Nat
  prof : Nat
  limSym : Nat
  vlp : Int
  vln : Int
  ilr : Nat
  ilp : Int
  iln : Int
  margin : Int
deriving DecidableEq, Repr

/-- A channel between states (R49, R50): still, loop starting, ramping the forced quantity to 0. -/
inductive Motion where
  | still
  | starting
  | ramping
deriving DecidableEq, Repr

/-- Where the output paths stand (R53). -/
structure Paths where
  ssr : Bool := false
  relay : Bool := false
  relayPending : Bool := false
  ssrOpens : Bool := false
deriving DecidableEq, Repr

/-- A slew-limited ramp of an HV channel (R167): from, to, start and end SYSTIME. -/
structure Ramp where
  from_ : Int
  to_ : Int
  t0 : Nat
  t1 : Nat
deriving DecidableEq, Repr

/-- LOOP_TUNE in progress on a channel (R46): its command, and its square probe: the present half wave and its length, how much of it
is left, and how long the probe has run, in loop cycles. -/
structure Tune where
  src : Src
  tag : Nat
  slot : Nat
  select : Bool
  high : Bool := true
  half : Nat := 0
  left : Nat := 0
  ran : Nat := 0
deriving DecidableEq, Repr

/-- The run state of a channel, precision or HV: what the parameters of R82 and R178 do not show. Times are clock times (R274) in
ns; `settleEnd`, `flagEnd` and `pairEnd` end the windows of R107, 0 when none (an HV channel's `pairEnd` ends that of R172);
`limCyc`, `clampCyc` and the like count loop cycles; `parVr` and `parIr` are the ranges whose units SETPOINT has, `irNew` an IRANGE
written and not yet taken over (R65); `clampHeld` says that an OUT_REQ of OFF met the clamp, which holds until the paths open (R80);
`rampNew` says that the next boundary starts a new HV ramp (R167); `integ`, `linP`, `linN` and
the biquad histories are the loop state of R41, `out` the selected controller output; `force` is the calibrated setpoint, `forceDac`
and `loopDac` the codes of the two DACs, and `node` where their sum is routed (R39, R40, R164); `clampDac` are the codes of the
window thresholds in the order of WIN_CTL (R72); `leftAt` is when a trip or fault last opened the output, and the state it left (R80). -/
structure Fch where
  act : Act
  target : Nat := 0
  motion : Motion := .still
  paths : Paths := {}
  irTarget : Nat := 8
  dirty : Bool := false
  waitSet : Option Int := none
  settleEnd : Nat := 0
  flagEnd : Nat := 0
  pairEnd : Nat := 0
  up : Nat := 0
  dn : Nat := 0
  soa : List Nat := [0, 0, 0, 0]
  limCyc : Nat := 0
  clampCyc : Nat := 0
  clampMain : Nat := 0
  clampLim : Nat := 0
  v : Int := 0
  i : Int := 0
  integ : Rat := 0
  linP : Rat := 0
  linN : Rat := 0
  b1 : List Rat := [0, 0, 0, 0]
  b2 : List Rat := [0, 0, 0, 0]
  out : Rat := 0
  tune : Option Tune := none
  owner : Option Nat := none
  policyOff : Bool := false
  ramp : Option Ramp := none
  rampN : Option Ramp := none
  rampNew : Bool := false
  parVr : Nat := 3
  parIr : Nat := 8
  irNew : Bool := false
  clampHeld : Bool := false
  force : Int := 0
  forceDac : Int := 0
  loopDac : Int := 0
  node : Option Quantity := none
  clampDac : List Int := [0, 0, 0, 0]
  leftAt : Option (Nat × Nat) := none
  disch : Option Nat := none
  dischPeriod : Option Nat := none
  injectedNow : Bool := false
deriving DecidableEq, Repr

/-- The HV channels together (R170, R174, R176), in clock time: when the interlock last opened and BOOST_STATE before it, when a boost
fault last struck, and when a channel last became OFF or TRIPPED. -/
structure Hv where
  openedAt : Option Nat := none
  boostWas : Nat := 0
  faultAt : Option Nat := none
  quietAt : Option Nat := none
deriving DecidableEq, Repr

/-- The sampling state of a group (R98). -/
inductive Samp where
  | idle | ready | converting | asleep | waking | autoZero
deriving DecidableEq, Repr

/-- An auto-zero in progress (R115): its channels, its start and the flags of that cycle, whether an instant has given a record (R116), and
once it is abandoned when the inputs are reconnected (R118), in 2^-16 ns of clock time. -/
structure AzRun where
  chans : List Nat
  start : Nat
  flags : Nat
  seen : Bool
  till : Option Nat := none
deriving DecidableEq, Repr

/-- One contributor of an averaged record (R108 to R111). -/
structure Contrib where
  v : Int
  i : Int
  sub : Bool
  flags : Nat
deriving DecidableEq, Repr

/-- What a channel's record takes from its sample instant (R101, R104, R107, R119): sequence, ranges, flags, whether the instant falls in the
swap window of R60, CAL_SLEW on its own current range and on the next, the averaging in force, the test DAC's code and whether it feeds I,
and, where the averager has restarted since, the sum that the sample belongs to (R109). -/
structure Shot where
  ch : Nat
  seq : Nat
  vr : Nat
  ir : Nat
  flags : Nat
  swap : Bool
  slew : Bool
  slewUp : Bool
  avgN : Nat
  avgS : Nat
  discard : Bool
  dac : Option (Int × Bool)
  before : Option (List Contrib) := none
deriving DecidableEq, Repr

/-- A record ahead of its stream, with its time in ns; TIME_OFS is filled in by the stream's block (R102). -/
structure Held where
  q : Quad
  time : Nat
deriving DecidableEq, Repr

/-- A group: rails as they stand and their targets in µV (R77), sampling state (R98), the source, mode and grid in
effect, the instant under conversion and the time until which the group is busy (R92), both in 2^-16 ns of clock time, the
SYSTIME of the instant in ns, what the records of that instant take from it, the samples that have had no result with their instants
(R122), the records held ahead of the crossing (R20), the end of the test DAC's window (R107), whether a trigger on an event asked for the
instant (R96), the instants of triggers captured whose loop cycle is still to come (R91, R104), in 2^-16 ns of clock time, and what waits for the next boundary. -/
structure Grp where
  railP : Int := 4000000
  railN : Int := -4000000
  tgtP : Int := 4000000
  tgtN : Int := -4000000
  samp : Samp := .idle
  src : Nat := 0
  pmode : Nat := 0
  period : Nat := 4
  phase : Nat := 0
  instant : Option Nat := none
  stamp : Nat := 0
  busyTill : Nat := 0
  az : Option AzRun := none
  shots : List Shot := []
  fifo : List Held := []
  missing : List (Shot × Nat) := []
  tdacTill : Nat := 0
  byTrig : Bool := false
  trigs : List Nat := []
  modePending : Bool := false
  srcPending : Bool := false
  gridPending : Bool := false
  tdacPending : Bool := false
deriving DecidableEq, Repr

/-- A channel's averager, auto-zero schedule and pair-converter offset (R109, R115, R477), and what an injected cause does
to its next record (R539). -/
structure Msr where
  items : List Contrib := []
  vr : Nat := 0
  ir : Nat := 0
  azLast : Nat := 0
  azPair : Int := 0
  saturateNext : Bool := false
  loseNext : Bool := false
deriving DecidableEq, Repr

/-- A sweep-memory region (R126): state 0 LOADING, 1 VALID, 2 INVALID. -/
structure Region where
  base : Nat
  count : Nat
  hv : Bool
  state : Nat
deriving DecidableEq, Repr

/-- An upload in progress (R127 to R130). -/
structure Upload where
  src : Src
  tag : Nat
  handle : Nat
deriving DecidableEq, Repr

/-- Why a slot is held (R151, R154, R469). -/
inductive Hold where
  | event | source | coast | trip | reaction | ecc
deriving DecidableEq, Repr

/-- What a sweep slot runs with beside its parameters (R150): loop counters in use, whether its cut point restarts,
the entry it executed last, the budget it has reserved per channel (R149), and while it is PREEMPTED what its last point saw (R137). In
clock time: when a start or an abort that a command asked acts, in 2^-16 ns, and when it became READY (R151, R152). -/
structure SweSlot where
  ctrOn : List Bool := [false, false, false, false]
  restart : Bool := false
  lastPoint : Option Nat := none
  reserve : List (Nat × Nat × Nat × Nat) := []
  cut : Bool := false
  evSeen : List (Nat × Nat) := []
  limitSeen : Bool := false
  goAt : Option Nat := none
  abortAt : Option Nat := none
  readyAt : Nat := 0
deriving DecidableEq, Repr

/-- Where the running point stands (R143): no point, waiting for WAIT_EV, rail delay, applied, in its pulse. -/
inductive PointSt where
  | none | waiting | delay | applied | pulse
deriving DecidableEq, Repr

/-- A sweep engine's timeline (R143): boundaries T and Ta, the point, the wait and delay in loop cycles, the number that follows that of its
last sample instant and whether one waits on the pulse that released it (R146), whether its pulse has been, what happened in the point, with
each pulse seen its arrival in 2^-16 ns of clock time (R137), the requests that act at a boundary, when a resumption acts, in 2^-16 ns, and the demand of the point on the rails. -/
structure Swe where
  slots : Bank SweSlot := []
  pt : PointSt := .none
  entry : Nat := 0
  t : Nat := 0
  ta : Nat := 0
  railDelay : Nat := 0
  waited : Nat := 0
  taken : Nat := 0
  limitSeen : Bool := false
  tripSeen : Bool := false
  restarted : Bool := false
  nexted : Bool := false
  evSeen : List (Nat × Nat) := []
  holdReq : List Hold := []
  heldBy : List Hold := []
  waitCapt : Option Nat := none
  resumeAt : Option Nat := none
  released : Bool := false
  pulsed : Bool := false
  demand : Int × Int := (0, 0)
deriving DecidableEq, Repr

/-- A CAL_SELF in progress (R446): its targets, channels and pins. -/
structure SelfCal where
  src : Src
  tag : Nat
  chans : List Nat
  pins : List Nat
deriving DecidableEq, Repr

/-- A system-calibration step in progress (R449, R450): the set by the ID of its G term, N, the applied value of the
full-scale step, when it began, and of a measure set the sum and the number of the inputs taken. -/
structure SysCal where
  src : Src
  tag : Nat
  set : Nat
  n : Nat
  full : Option Int
  start : Nat
  sum : Int := 0
  count : Nat := 0
deriving DecidableEq, Repr

/-- Calibration outside its parameters: the fractional accumulators of ramping terms (R441, by ID, in 10^-9 LSB), the
commands in progress, whether a CAL_SELF has completed since power-on (R455), the microsecond of the last ramp step (R441), and when the
references were last compared (R455). -/
structure Cal where
  frac : Bank Nat := []
  selfs : List SelfCal := []
  sys : Option SysCal := none
  selfDone : Bool := false
  stepAt : Option Nat := none
  trackAt : Nat := 0
deriving DecidableEq, Repr

/-- What a gap descriptor reports (R385): records lost, the first and the last lost sample record (channel, sequence), the cause of the
first loss and whether causes differ. First and last go by the instants of the records, in ns, which the fields `At` hold. -/
structure Gap where
  count : Nat := 0
  first : Option (Nat × Nat) := none
  firstAt : Nat := 0
  last : Option (Nat × Nat) := none
  lastAt : Nat := 0
  cause : Nat := 0
  causeAt : Nat := 0
  multi : Bool := false
deriving DecidableEq, Repr

/-- The open block of a stream (R381, R382): base time, records in place, when the first was placed, its gap. -/
structure OpenBlk where
  base : Nat
  recs : List Quad
  since : Nat
  gap : Gap
deriving DecidableEq, Repr

/-- A closed block in the local buffer (R381, R391): `bad` when its storage has an uncorrectable error (R400). -/
structure Closed where
  seq : Nat
  close : Nat
  base : Nat
  recs : List Quad
  autoPd : Nat
  src : Nat
  gap : Gap
  bad : Bool := false
deriving DecidableEq, Repr

/-- STM_STOP in progress (R394, R410); `due` until the loop-cycle boundary at which it takes effect. -/
structure StopOp where
  src : Src
  tag : Nat
  release : Bool
  discard : Bool := false
  due : Bool := false
deriving DecidableEq, Repr

/-- A stream outside its parameters: blocks, the gap not yet reported, how far the block at the front has been written
(`dataDone`: its data is issued, its write-index write is not), whether it waits for a translation, the kind of the last
fault of a held write, whether a held block meets a replaced ring (R401), commands that wait, the fault notice in flight
(R402), when it begins to accept records (R394), markers, interrupt count (R390), what an injected cause does next (R539), and for a stream forwarded over the
mesh its issuing node and exchange number, and when it last read its read index (R425). -/
structure Stm where
  open_ : Option OpenBlk := none
  blocks : List Closed := []
  gap : Gap := {}
  dataDone : Bool := false
  waiting : Bool := false
  held : Bool := false
  stop : Option StopOp := none
  openAt : Nat := 0
  flushes : List (Src × Nat × Nat) := []
  retries : List (Src × Nat) := []
  notice : Bool := false
  markCount : Nat := 0
  sinceIrq : Nat := 0
  failNext : Option HostFault := none
  dropNext : Bool := false
  node : Option (Nat × Nat) := none
  polledAt : Option Nat := none
deriving DecidableEq, Repr

/-- A cached translation (R399): context, page base and size in bytes, bus address, permissions, whether it came by
ATS. -/
structure Page where
  ctx : Nat
  va : Nat
  size : Nat
  pa : Nat
  w : Bool
  r : Bool
  ats : Bool
deriving DecidableEq, Repr

/-- A cached non-leaf entry (R399): context, the level of the table it points to, the address bits above that level's
index, the table. -/
structure WalkEnt where
  ctx : Nat
  level : Nat
  pre : Nat
  table : Nat
deriving DecidableEq, Repr

/-- What moves host data (R396): the writes of a stream, the fetch of a queue, the completion writes of a queue, the transfer of a command,
and a transfer for another node's command or stream, by node, exchange number and stream (R424). -/
inductive Waiter where
  | stream (n : Nat)
  | ring (q : Nat)
  | post (q : Nat)
  | cmd (src : Src) (tag : Nat)
  | far (node fid : Nat) (st : Option Nat)
deriving DecidableEq, Repr

/-- What the end of a transfer brings: a command's data is there; a command's write is complete, with its result words; CU_READ has taken
entries from a capture unit (R311); LOG_READ has written entries (R513). -/
inductive XferEnd where
  | data
  | plain (res : List Nat)
  | cu (unit n : Nat)
  | log (n : Nat)
deriving DecidableEq, Repr

/-- A bulk transfer in progress (R396): whose it is, its context, its priority, the address of its next unit, the bytes whose units have not
been issued, the words of a write from that address on (of a read for another node, what its host memory answered, or its fault), and whether a
unit sent over the mesh has not been answered (R424). -/
structure Xfer where
  who : Waiter
  ctx : Nat
  prio : Nat
  addr : Nat
  left : Nat
  write : Bool
  words : List Nat := []
  fault : Option HostFault := none
  asked : Bool := false
  fin : XferEnd := .data
deriving DecidableEq, Repr

/-- A walk in progress, or an ATS request (level 0), with what waits for it (R398, R399); `stale` where an
invalidation since makes its outcome unfit to keep. -/
structure WalkRun where
  va : Nat
  level : Nat
  table : Nat
  waiters : List Waiter
  stale : Bool := false
deriving DecidableEq, Repr

/-- A page request that the host has not answered (R368, R399, R403): its page, and the streams that a response of
Success retries. -/
structure PageReq where
  va : Nat
  streams : List Nat
deriving DecidableEq, Repr

/-- Translation and DMA outside their parameters: TLB and walk cache, oldest first; walks and ATS requests by context;
page requests outstanding by context; the bulk transfers in progress, in the order in which they began; what the DMA engine has served, the
longest ago first (R396); injected faults that wait (R539). -/
structure Xlt where
  tlb : List Page := []
  wcache : List WalkEnt := []
  walks : Bank (Option WalkRun) := []
  pages : Bank (List PageReq) := []
  xfers : List Xfer := []
  served : List Waiter := []
  failNext : Bank (Option Nat) := []
deriving DecidableEq, Repr

/-- A vector pin beyond its parameters (R184, R214, R218, R221): its last drive data in the present run, what its driver does (0
low, 1 high, 2 off), and what the last park gave it to drive; whether its driver is on for some part of the vector in play, whose D_OFF takes
it off (R221); whether a reaction has parked it (R183); when a reaction last took its driver off (R206); high impedance after Lull entry, PFAIL or a TCXO failure, and a PMU switch in progress; the codes that its calibrated levels and PMU setting have come to (R438), where they are not those of reset. -/
structure PinRun where
  last : Option Bool := none
  drive : Nat := 2
  parkedAs : Nat := 2
  drove : Bool := false
  held : Bool := false
  faultAt : Option Nat := none
  hiz : Bool := false
  switching : Bool := false
  codes : Bank Int := []
deriving DecidableEq, Repr

/-- A chip's converter (R189 to R194): 0 OFF, 1 STARTING, 2 CONVERTING; the time of its request and of its sample, and
whether a channel pulse asked; the selection and test DAC code it converts; when the selection last changed, whether a
change waits, and whether the next result carries MUX_FIRST; what its sample found; and an injected ADC_FAULT. -/
structure Adc where
  st : Nat := 0
  reqAt : Nat := 0
  byEvent : Bool := false
  sampAt : Nat := 0
  sel : Nat := 0
  tdac : Nat := 2048
  selAt : Nat := 0
  selWaits : Bool := false
  first : Bool := false
  acqOk : Bool := false
  lim : Bool := false
  irange : Nat := 0
  noPmu : Bool := false
  failNext : Bool := false
  dead : Bool := false
deriving DecidableEq, Repr

/-- A comparator (R195 to R202): raw and filtered output, UNRESOLVED, the value to which a new band resolves it at the next edge of its
filter clock, a mode change in progress, what its input did in that change, and the newest samples of its filter. -/
structure CmpRun where
  raw : Bool := false
  filt : Bool := false
  unresolved : Bool := false
  resolve : Option Bool := none
  changing : Bool := false
  waits : Option Bool := none
  hist : List Bool := [false, false, false, false, false, false, false, false, false]
deriving DecidableEq, Repr

/-- A vector word (R213): 256 bits of pin data, and the tag. -/
structure VecWord where
  data : Nat
  tag : Nat
deriving DecidableEq, Repr

/-- A pin record of a timing set (R220): format, edge enables, and the edges D_ON, D_DATA, D_RET, D_OFF, C_OPEN and
C_CLOSE. -/
structure PinTs where
  fmt : Nat
  en : Nat
  edges : List Nat
deriving DecidableEq, Repr

/-- A timing set (R219): period, rise and fall of markers 0 to 3, and the pin records that differ from the reset one. -/
structure Ts where
  period : Nat
  rise : List Nat
  fall : List Nat
  pins : Bank PinTs
deriving DecidableEq, Repr

/-- Kinds of boundary request (R236, R239). -/
inductive ReqKind where
  | stop | hold | preempt | jump
deriving DecidableEq, Repr

/-- A request that has reached a sequencer and awaits its capture vector (R237): its arrival in 2^-16 ns, and for a jump the
JCOND and the channel it answers to. -/
structure Ask where
  kind : ReqKind
  at_ : Nat
  jcond : Nat := 0
  ch : Nat := 0
deriving DecidableEq, Repr

/-- A captured request (R238): the segment a jump enters, and whether it was carried from the pass before. -/
structure Captured where
  kind : ReqKind
  target : Nat
  carried : Bool
deriving DecidableEq, Repr

/-- Why a sequencer is, or is to be, HELD (R240, R469). -/
inductive SeqHold where
  | coast | source | reaction
deriving DecidableEq, Repr

/-- A segment in the pin area (R231): its number, where it lies there, in granules, its length, and the first of the granules it was copied
from. -/
structure PinSeg where
  seg : Nat
  base : Nat
  len : Nat
  start : Nat
deriving DecidableEq, Repr

/-- A granule in the refill ring (R232): its number and its 64 vectors; `bad` when it is uncorrectable (R235). -/
structure RingGran where
  gran : Nat
  vecs : List VecWord
  bad : Bool
deriving DecidableEq, Repr

/-- A domain's sequencer outside its parameters. Tables: pin mode maps, park sets, timing sets active and shadow, commits
that wait (time, numbers of the sets), the segment table and its entries as they stood when the pass in progress began. Storage: the vector
area, its uncorrectable granules and capture records, the pin area, its segments and uncorrectable vectors, the refill ring. Play: the vector
issued last (index in its pass; none before the first), the entry and the map of its segment, requests, the start of the first vector
where it is fixed ahead (R241), the run's time. Then slots' resume points, capture, the pulses seen on channels of JCOND EVENT (R237), and
what an injection does next. Times are clock times in 2^-16 ns. `dskAt` is the microsecond of the
last deskew step (R443). -/
structure Seq where
  maps : Bank Nat := []
  parks : Bank Nat := []
  active : Bank Ts := []
  shadow : Bank Ts := []
  commits : List (Nat × List Nat) := []
  segs : Bank Quad := []
  oldSegs : Bank (Option Quad) := []
  vecs : Bank VecWord := []
  badGrans : List Nat := []
  badCaps : List Nat := []
  pinSize : Nat := 512
  pinVecs : Bank VecWord := []
  pinSegs : List PinSeg := []
  pinBad : List Nat := []
  ring : List RingGran := []
  idx : Option Nat := none
  entry : Quad := ⟨0, 0, 0, 0⟩
  map : Nat := 0
  target : Nat × Nat := (0, 1)
  autoRun : Bool := false
  asks : List Ask := []
  latched : List ReqKind := []
  due : List Captured := []
  carry : List Captured := []
  holds : List SeqHold := []
  padIdx : Nat := 0
  padSeg : Nat := 0
  padMap : Nat := 0
  startAt : Option Nat := none
  t0 : Nat := 0
  steps : Nat := 0
  period : Nat := 0
  fresh : Bool := true
  newRun : Bool := true
  failed : Bool := false
  failIn : List Nat := []
  pinsAs : Nat := 0
  gapFrom : Option Nat := none
  resume : Bank (Option (Nat × Nat)) := []
  cap : Bank (List Nat) := []
  capPos : Nat := 0
  capLevel : Nat := 0
  capAt : Nat := 0
  capLostBefore : Bool := false
  jevs : List (Nat × Nat) := []
  missNext : Bool := false
  loseNext : Bool := false
  dskAt : Option Nat := none
deriving DecidableEq, Repr

/-- TB_PHASE_STEP in progress (R272). -/
structure PhaseRun where
  src : Src
  tag : Nat
  left : Int
  applied : Nat
deriving DecidableEq, Repr

/-- The timebase outside its parameters (R256 to R275): the reference's presence, when it returned or was lost, and how long
it was absent since COAST entry; when SEARCH, COAST or GUARD_WAIT was entered; the coast budget in effect while it runs and
the cause of the coast; commands that await lock; the active copy that a deliberate relock replaced; the hold DAC; phase
steps; a new SYSTIME that awaits its boundary; how long an injected loss lasts (R539), and whether the last loss was an injected one; when the coast began; by how much explicit sets have moved SYSTIME; the
bits of its accumulator below SYSTIME_FRAC (R273); and whether a power failure has stopped the loop in a relock (R276). Its times are
clock times (R274). -/
structure Tb where
  present : Bool := true
  since : Nat := 0
  absent : Nat := 0
  enteredAt : Nat := 0
  budget : Option Nat := none
  coastCause : Nat := 0
  waiting : List (Src × Nat) := []
  oldActive : List Int := []
  holdDac : Bool := false
  phase : List PhaseRun := []
  timeSet : List (Src × Nat × Nat) := []
  injTill : Nat := 0
  lossInj : Bool := false
  coastAt : Nat := 0
  shift : Int := 0
  accLow : Nat := 0
  halted : Bool := false
deriving DecidableEq, Repr


/-- A LOOPBACK_RUN in progress (R534): its target, as an ID with PARAM 0, its depth, the channels of EVF_ECHO, and when it began. Of a PIN_DRIVER run also what it restores at its
end, by parameter ID, the vectors it has played, the fails so far, and the first: the domain pin and its CMP_STATE (R537). -/
structure LoopRun where
  src : Src
  tag : Nat
  target : Nat
  depth : Nat
  mask : Nat := 0
  start : Nat := 0
  saved : List (Nat × Int) := []
  played : Nat := 0
  errors : Nat := 0
  fail : Option (Nat × Nat) := none
deriving DecidableEq, Repr

/-- A SELF_TEST in progress (R543): its steps, those that skip targets, and when it began. -/
structure SelfRun where
  src : Src
  tag : Nat
  mask : Nat
  skipped : Nat
  start : Nat
deriving DecidableEq, Repr

/-- Loopbacks and tests: the loopbacks armed for host-driven use (R533), as target and depth; runs and a SELF_TEST in
progress (R534, R543); the TAP instruction loaded (R541), whether it has stopped the
links, and the control and output cells of the boundary register as last shifted in (R540). -/
structure Tst where
  armed : List (Nat × Nat) := []
  runs : List LoopRun := []
  selfTest : Option SelfRun := none
  tap : TapInstr := .reset
  extest : Bool := false
  cells : List ScanCell := []
deriving DecidableEq, Repr

/-- What the block sends out, newest last: writes to host memory (context, bus address, words), those of
stream block data with the Relaxed Ordering attribute (R353), reads of host memory (R396), each as a Translated request in ATS mode (R399) and with
its PASID in a TLP prefix where it carries one (R368), error messages (R354; 0 correctable, 1 not fatal, 2 fatal), MSI-X messages, trigger
output pulses, mesh frames, page-table reads, requests to the host's translation agent, messages of Vane, answers to reads of BAR0 and
BAR2 and to configuration requests, with the data of a read (R350, R356, R365, R371, R372), PME_TO_Ack (R373), and boundary scan (R540):
the word that TDO shifts out, or the millivolts driven and what the input cells captured. -/
inductive Out where
  | hostWrite (ctx : Nat) (addr : Nat) (words : List Nat)
  | blockWrite (ctx : Nat) (addr : Nat) (words : List Nat)
  | hostRead (ctx : Nat) (addr : Nat) (bytes : Nat)
  | translated (o : Out)
  | prefixed (pasid : Nat) (o : Out)
  | errMsg (kind : Nat)
  | msix (vector : Nat)
  | trigger (trig : Nat) (width : Nat) (high : Bool)
  | frame (port : Nat) (cls : Nat) (words : List Nat)
  | walkRead (addr : Nat)
  | vector (dom : Nat) (edges : List (Nat × Nat × Int))
  | atsRequest (ctx : Nat) (addr : Nat)
  | atsInvalidated (ctx : Nat) (addr : Nat)
  | pageRequest (ctx : Nat) (addr : Nat)
  | management (kind : Nat) (words : List Nat)
  | barRead (bar offset : Nat) (bytes : List Nat) (poisoned : Bool)
  | barRefused (bar offset : Nat)
  | config (crs : Bool) (data : Option Nat)
  | scanWord (word : Nat)
  | scanCells (driven : List (ScanSig × Int)) (captured : List (ScanSig × Bool))
  | pmeToAck
deriving DecidableEq, Repr

/-- What a setting of a cause, or a trip, still has to bring about within the step that set it: the reaction of a cause
(R469), or the response of the engine that owns a channel which tripped or faulted (R154). -/
inductive Due where
  | react (blk inst action : Nat) (hit : Hit)
  | tripped (ch : Nat)
deriving DecidableEq, Repr

/-- The whole state. `pending` holds the commands that wait, first in, first out; `draws` counts the free values drawn so
far; `sent` holds what the block has sent out; `due` is empty between steps. These four are the model's own; the rest is the spec's.
`old` holds, by ID, what a parameter held at the last loop-cycle boundary where a write waits for the next (R82, R123, R178). -/
structure State where
  pending : List Instr := []
  draws : Nat := 0
  sent : List Out := []
  due : List Due := []
  par : Bank Int := []
  old : Bank (Option Int) := []
  wins : Bank Win := []
  cmd : Cmd := {}
  hl : Hl := {}
  evf : Evf := {}
  vane : Vane := {}
  lc : Lc := {}
  pwr : Pwr := {}
  fch : Bank Fch := []
  hv : Hv := {}
  grp : Bank Grp := []
  msr : Bank Msr := []
  regions : Bank (Option Region) := []
  sweMem : Bank Quad := []
  sweBad : List Nat := []
  uploads : List Upload := []
  swe : Bank Swe := []
  cal : Cal := {}
  stm : Bank Stm := []
  xlt : Xlt := {}
  pins : Bank PinRun := []
  adc : Bank Adc := []
  cmp : Bank CmpRun := []
  seq : Bank Seq := []
  tb : Tb := {}
  tst : Tst := {}
  msh : Msh := {}
deriving DecidableEq, Repr

/-- The LOG record of kind INIT that a provisioned recorder holds in permanent slot 0 (R500). -/
def initRecord : Numbered :=
  { seq := 0, r := { typ := 0x09, time := 0, blk := 0x0D, inst := 0, pay := [4, 0, 0], sev := 0 },
    holdup := false, late := false }

/-- The LIFE_CYCLE record of the transition from MAKER to FIELD_OPEN, in which the module ships (R496, R514, R519; log 2). -/
def shippedRecord : Numbered :=
  { seq := 1, r := { typ := 0x0B, time := 0, blk := 0x10, inst := 0, pay := [0x10, 0], sev := 0 },
    holdup := false, late := false }

/-- The module right after a power-on reset, as shipped in FIELD_OPEN (R9, R500, R514, R560): every parameter at its reset value, every
table and queue empty, PFAIL driven low (R562). -/
def State.reset : State :=
  { vane := { perm := [(0, some initRecord), (1, some shippedRecord)] } }

end Sys2Proof.Machine
end

