-- ==== Sys2Proof/Machine/Causes.lean ====
section
/-!
DEFINITION. The cause codes of every block's status window, with severity and default reaction, from the cause table
of each chapter (R81, R122, R160, R177, R207, R252, R277, R309, R347, R377, R406, R407, R434, R457, R467, R480, R511,
R528, R544, R570).
-/
namespace Sys2Proof.Machine

/-- A cause: code, severity (3 FATAL, 2 FAULT, 1 DEGRADED, 0 WARN), the higher severity of a cause its chapter sets with
two (R471), default reaction (R468), and whether its chapter fixes the consequence (ACTION 6). -/
structure Cause where
  code : Nat
  sev : Nat
  sevHigh : Option Nat := none
  dflt : Nat
  fixed : Bool := false
deriving DecidableEq, Repr

/-- Causes of block FCH. -/
def causesFCH : List Cause :=
  [{ code := 0x01, sev := 2, dflt := 0, fixed := true },
   { code := 0x02, sev := 2, dflt := 0, fixed := true },
   { code := 0x03, sev := 2, dflt := 0, fixed := true },
   { code := 0x04, sev := 2, dflt := 2 },
   { code := 0x05, sev := 0, dflt := 0 },
   { code := 0x06, sev := 1, dflt := 1 },
   { code := 0x07, sev := 0, dflt := 3 },
   { code := 0x08, sev := 2, dflt := 5 },
   { code := 0x09, sev := 0, dflt := 0 },
   { code := 0x0A, sev := 2, dflt := 5 },
   { code := 0x0B, sev := 2, dflt := 2 }]

/-- Causes of block MSR. -/
def causesMSR : List Cause :=
  [{ code := 0x01, sev := 0, dflt := 0 },
   { code := 0x02, sev := 0, dflt := 1 },
   { code := 0x03, sev := 2, dflt := 1 },
   { code := 0x04, sev := 1, dflt := 0 },
   { code := 0x05, sev := 0, dflt := 0 },
   { code := 0x06, sev := 2, dflt := 1 }]

/-- Causes of block SWE. -/
def causesSWE : List Cause :=
  [{ code := 0x01, sev := 0, dflt := 0 },
   { code := 0x02, sev := 0, dflt := 1 },
   { code := 0x03, sev := 2, dflt := 3 },
   { code := 0x04, sev := 0, dflt := 1 },
   { code := 0x05, sev := 0, dflt := 1 },
   { code := 0x06, sev := 0, dflt := 0 },
   { code := 0x07, sev := 0, dflt := 0 },
   { code := 0x08, sev := 0, dflt := 1 },
   { code := 0x09, sev := 0, dflt := 0 },
   { code := 0x0A, sev := 0, dflt := 0 },
   { code := 0x0B, sev := 2, dflt := 3 }]

/-- Causes of block HVC. -/
def causesHVC : List Cause :=
  [{ code := 0x01, sev := 2, dflt := 0, fixed := true },
   { code := 0x02, sev := 2, dflt := 0, fixed := true },
   { code := 0x03, sev := 3, dflt := 1 },
   { code := 0x04, sev := 2, dflt := 0, fixed := true },
   { code := 0x05, sev := 2, dflt := 2 },
   { code := 0x06, sev := 0, dflt := 0 },
   { code := 0x07, sev := 2, dflt := 5 },
   { code := 0x08, sev := 0, dflt := 0 },
   { code := 0x09, sev := 2, dflt := 2 }]

/-- Causes of block PIN. -/
def causesPIN : List Cause :=
  [{ code := 0x01, sev := 2, dflt := 2 },
   { code := 0x02, sev := 2, dflt := 2 },
   { code := 0x03, sev := 0, dflt := 0 },
   { code := 0x04, sev := 2, dflt := 1 },
   { code := 0x05, sev := 2, dflt := 5 },
   { code := 0x06, sev := 2, dflt := 2 }]

/-- Causes of block SEQ. -/
def causesSEQ : List Cause :=
  [{ code := 0x01, sev := 0, dflt := 1 },
   { code := 0x02, sev := 0, dflt := 0 },
   { code := 0x03, sev := 0, dflt := 1 },
   { code := 0x04, sev := 2, dflt := 1 },
   { code := 0x05, sev := 2, dflt := 1 },
   { code := 0x06, sev := 0, dflt := 0 },
   { code := 0x07, sev := 0, dflt := 1 },
   { code := 0x08, sev := 0, dflt := 1 },
   { code := 0x09, sev := 0, dflt := 0 },
   { code := 0x0A, sev := 0, dflt := 0 },
   { code := 0x0B, sev := 2, dflt := 4 }]

/-- Causes of block TB. -/
def causesTB : List Cause :=
  [{ code := 0x01, sev := 0, dflt := 1 },
   { code := 0x02, sev := 0, dflt := 1 },
   { code := 0x03, sev := 0, dflt := 1 },
   { code := 0x04, sev := 2, dflt := 1 },
   { code := 0x05, sev := 2, dflt := 1 },
   { code := 0x06, sev := 0, dflt := 0 },
   { code := 0x07, sev := 2, dflt := 1 }]

/-- Causes of block EVF. -/
def causesEVF : List Cause :=
  [{ code := 0x01, sev := 2, dflt := 1 },
   { code := 0x02, sev := 0, dflt := 0 },
   { code := 0x03, sev := 0, dflt := 1 },
   { code := 0x04, sev := 0, dflt := 0 },
   { code := 0x05, sev := 0, dflt := 0 },
   { code := 0x06, sev := 2, dflt := 1 }]

/-- Causes of block STM. -/
def causesSTM : List Cause :=
  [{ code := 0x01, sev := 2, dflt := 1 },
   { code := 0x02, sev := 2, dflt := 1 },
   { code := 0x03, sev := 0, dflt := 1 },
   { code := 0x04, sev := 0, dflt := 0 },
   { code := 0x05, sev := 0, dflt := 1 },
   { code := 0x06, sev := 2, dflt := 1 },
   { code := 0x07, sev := 0, dflt := 0 },
   { code := 0x08, sev := 0, dflt := 0 },
   { code := 0x09, sev := 2, dflt := 1 }]

/-- Causes of block XLT. -/
def causesXLT : List Cause :=
  [{ code := 0x01, sev := 0, dflt := 0 },
   { code := 0x02, sev := 0, dflt := 0 },
   { code := 0x03, sev := 0, dflt := 0 },
   { code := 0x04, sev := 0, dflt := 0 },
   { code := 0x05, sev := 0, dflt := 0 },
   { code := 0x06, sev := 0, dflt := 0 },
   { code := 0x07, sev := 0, dflt := 0 },
   { code := 0x08, sev := 0, dflt := 0 },
   { code := 0x09, sev := 0, dflt := 0 },
   { code := 0x0A, sev := 0, dflt := 0 }]

/-- Causes of block MSH. -/
def causesMSH : List Cause :=
  [{ code := 0x01, sev := 0, dflt := 1 },
   { code := 0x02, sev := 0, dflt := 0 },
   { code := 0x03, sev := 0, dflt := 0 },
   { code := 0x04, sev := 0, dflt := 0 },
   { code := 0x05, sev := 0, dflt := 1 },
   { code := 0x06, sev := 0, dflt := 1 },
   { code := 0x07, sev := 0, dflt := 1 },
   { code := 0x08, sev := 0, dflt := 0 },
   { code := 0x09, sev := 0, dflt := 1 },
   { code := 0x0A, sev := 0, dflt := 0 },
   { code := 0x0B, sev := 0, dflt := 1 },
   { code := 0x0C, sev := 0, dflt := 1 },
   { code := 0x0D, sev := 1, dflt := 1 },
   { code := 0x0E, sev := 2, dflt := 1 }]

/-- Causes of block CAL. -/
def causesCAL : List Cause :=
  [{ code := 0x01, sev := 0, dflt := 0 },
   { code := 0x02, sev := 0, dflt := 1 },
   { code := 0x03, sev := 0, dflt := 0 },
   { code := 0x04, sev := 1, dflt := 1 },
   { code := 0x05, sev := 0, dflt := 0 },
   { code := 0x06, sev := 2, dflt := 1 },
   { code := 0x07, sev := 2, dflt := 1 }]

/-- Causes of block VANE. -/
def causesVANE : List Cause :=
  [{ code := 0x80, sev := 0, dflt := 1 },
   { code := 0x81, sev := 0, dflt := 1 },
   { code := 0x82, sev := 0, dflt := 0 },
   { code := 0x01, sev := 2, dflt := 1 },
   { code := 0x02, sev := 0, dflt := 1 },
   { code := 0x03, sev := 0, dflt := 0 },
   { code := 0x04, sev := 2, dflt := 1 },
   { code := 0x05, sev := 0, dflt := 1 },
   { code := 0x06, sev := 3, dflt := 1 },
   { code := 0x07, sev := 0, dflt := 1 },
   { code := 0x08, sev := 0, sevHigh := some 2, dflt := 1 },
   { code := 0x09, sev := 3, dflt := 1 },
   { code := 0x0A, sev := 0, dflt := 1 },
   { code := 0x0B, sev := 0, dflt := 1 },
   { code := 0x0C, sev := 0, dflt := 0 },
   { code := 0x0D, sev := 0, dflt := 0 },
   { code := 0x0E, sev := 2, dflt := 1 },
   { code := 0x10, sev := 2, dflt := 1 },
   { code := 0x11, sev := 1, dflt := 1 },
   { code := 0x12, sev := 2, dflt := 1 },
   { code := 0x13, sev := 0, dflt := 0 }]

/-- Causes of block TST. -/
def causesTST : List Cause :=
  [{ code := 0x01, sev := 1, dflt := 1 },
   { code := 0x02, sev := 0, dflt := 0 },
   { code := 0x03, sev := 2, dflt := 1 }]

/-- Causes of block HL. -/
def causesHL : List Cause :=
  [{ code := 0x40, sev := 0, dflt := 0 },
   { code := 0x41, sev := 2, dflt := 1 },
   { code := 0x42, sev := 2, dflt := 1 },
   { code := 0x43, sev := 0, dflt := 0 },
   { code := 0x44, sev := 0, dflt := 0 },
   { code := 0x01, sev := 2, dflt := 1 },
   { code := 0x02, sev := 0, dflt := 0 },
   { code := 0x03, sev := 0, dflt := 0 },
   { code := 0x04, sev := 2, dflt := 1 },
   { code := 0x05, sev := 0, dflt := 0 },
   { code := 0x06, sev := 0, dflt := 1 },
   { code := 0x07, sev := 0, dflt := 0 },
   { code := 0x08, sev := 0, dflt := 1 },
   { code := 0x09, sev := 1, dflt := 1 },
   { code := 0x0A, sev := 2, dflt := 1 },
   { code := 0x0B, sev := 0, dflt := 1 }]

/-- Causes of block LC. -/
def causesLC : List Cause :=
  [{ code := 0x01, sev := 0, dflt := 1 },
   { code := 0x02, sev := 0, dflt := 1 },
   { code := 0x03, sev := 0, dflt := 1 },
   { code := 0x04, sev := 2, dflt := 1 },
   { code := 0x05, sev := 2, dflt := 1 }]

/-- The common causes of R467: HEARTBEAT, ECC_CORR, ECC_UNCORR. -/
def causesCommon : List Cause :=
  [{ code := 0xF0, sev := 0, sevHigh := some 3, dflt := 1 },
   { code := 0xF1, sev := 0, dflt := 0 },
   { code := 0xF2, sev := 2, dflt := 1 }]

/-- The causes a block's windows can carry. -/
def causesOf : Nat → List Cause
  | 1 => causesFCH ++ causesCommon
  | 2 => causesMSR ++ causesCommon
  | 3 => causesSWE ++ causesCommon
  | 4 => causesHVC ++ causesCommon
  | 5 => causesPIN ++ causesCommon
  | 6 => causesSEQ ++ causesCommon
  | 7 => causesTB ++ causesCommon
  | 8 => causesEVF ++ causesCommon
  | 9 => causesSTM ++ causesCommon
  | 10 => causesXLT ++ causesCommon
  | 11 => causesMSH ++ causesCommon
  | 12 => causesCAL ++ causesCommon
  | 13 => causesVANE ++ causesCommon
  | 14 => causesTST ++ causesCommon
  | 15 => causesHL ++ causesCommon
  | 16 => causesLC ++ causesCommon
  | _ => []

/-- The cause a code names in a block. -/
def findCause (blk code : Nat) : Option Cause :=
  (causesOf blk).find? fun c => c.code == code

/-- Whether a block offers a reaction (R469); ACTION 6 is never selected by a write. -/
def offers (blk action : Nat) : Bool :=
  action ≤ 1 ||
  match blk with
  | 1 | 4 => action == 2 || action == 3 || action == 5
  | 2 => action == 2 || action == 3
  | 3 => action == 2 || action == 3 || action == 5
  | 5 => action ≤ 5
  | 6 => action ≤ 4
  | 7 => action == 3 || action == 4
  | _ => false

end Sys2Proof.Machine
end

