-- ==== Sys2Proof/Machine/Bits.lean ====
section
/-!
DEFINITION. Bit fields of words held as natural numbers (R6), signed fields (R7), rounding, and the CRC-32 and ECC-free
helpers that several chapters use.
-/
namespace Sys2Proof.Machine

/-- `len` bits of a word from bit `lo` up. -/
def fld (w lo len : Nat) : Nat := w / 2 ^ lo % 2 ^ len

/-- One bit of a word. -/
def bit (w i : Nat) : Bool := w / 2 ^ i % 2 == 1

/-- A word with a bit set or cleared. -/
def setBit (w i : Nat) (b : Bool) : Nat :=
  if bit w i == b then w else if b then w + 2 ^ i else w - 2 ^ i

/-- A flag as 0 or 1. -/
def b2n (b : Bool) : Nat := if b then 1 else 0

/-- Two's complement reading of a field of `len` bits. -/
def sfld (len w : Nat) : Int := Int.bmod (w % 2 ^ len) (2 ^ len)

/-- The bit pattern of an integer in `len` bits. -/
def toField (len : Nat) (v : Int) : Nat := (v % 2 ^ len).toNat

/-- Quotient rounded to the nearest integer, halves away from zero (R65, R438). -/
def roundDiv (a : Int) (b : Nat) : Int :=
  if 0 ≤ a then (2 * a + b) / (2 * b) else -((2 * (-a) + b) / (2 * b))

/-- Quotient rounded up. -/
def ceilDiv (a b : Nat) : Nat := (a + b - 1) / b

/-- A value held between two bounds. -/
def clampInt (lo hi v : Int) : Int := if v < lo then lo else if hi < v then hi else v

/-- Low word of a 64-bit value. -/
def lo32 (v : Nat) : Nat := v % 2 ^ 32

/-- High word of a 64-bit value. -/
def hi32 (v : Nat) : Nat := v / 2 ^ 32 % 2 ^ 32

/-- The 64-bit value of two words, low word first (R6). -/
def word64 (lo hi : Nat) : Nat := lo % 2 ^ 32 + 2 ^ 32 * (hi % 2 ^ 32)

/-- The indexes of the set bits of a mask, below `n`. -/
def maskBits (n mask : Nat) : List Nat := (List.range n).filter fun i => bit mask i

/-- The bytes of a word, lowest first (R6). -/
def wordBytes (w : Nat) : List Nat := [fld w 0 8, fld w 8 8, fld w 16 8, fld w 24 8]

/-- Words cut from a list of bytes, lowest first; a tail shorter than a word is filled with 0. -/
def bytesWords : List Nat → List Nat
  | a :: b :: c :: d :: r => (a + 256 * b + 65536 * c + 16777216 * d) :: bytesWords r
  | [] => []
  | [a] => [a]
  | [a, b] => [a + 256 * b]
  | [a, b, c] => [a + 256 * b + 65536 * c]

/-- One bit step of the reflected CRC-32 (R384: the polynomial 0x04C1_1DB7, reflected 0xEDB8_8320). -/
def crcBit (c : Nat) : Nat := if c % 2 = 1 then (c / 2).xor 0xEDB88320 else c / 2

/-- One byte step of CRC-32. -/
def crcByte (c b : Nat) : Nat :=
  crcBit (crcBit (crcBit (crcBit (crcBit (crcBit (crcBit (crcBit (c.xor b))))))))

/-- CRC-32 of a list of bytes (R384). -/
def crc32 (bytes : List Nat) : Nat := (bytes.foldl crcByte 0xFFFFFFFF).xor 0xFFFFFFFF

/-- CRC-32 of a list of words, each lowest byte first. -/
def crcWords (ws : List Nat) : Nat := crc32 (ws.flatMap wordBytes)

/-- `n` words of a list, filled with 0. -/
def pad (n : Nat) (ws : List Nat) : List Nat := (List.range n).map fun i => ws.getD i 0

end Sys2Proof.Machine
end

