-- ==== Sys2Proof/Machine/Params.lean ====
section
/-!
DEFINITION. The parameter map: one descriptor per parameter of the spec's tables (R12, R13 and the parameter
table of each chapter), the search by 32-bit ID, and the value a parameter holds at reset.
-/
namespace Sys2Proof.Machine

/-- Access codes of R8 that parameters use (W1S bits occur only in registers). -/
inductive Acc where
  | rw | ro | wo | w1c
deriving DecidableEq, Repr

/-- Who shares one stored value: each instance, a group (R82, R123), a pin chip (R208), the module. -/
inductive Share where
  | inst | group | chip | module
deriving DecidableEq, Repr

/-- How a parameter's reset value is given. -/
inductive Rst where
  /-- one value -/
  | c (v : Int)
  /-- by index -/
  | idx (vs : List Int)
  /-- fast pins, then high-swing pins -/
  | hs (fast high : Int)
  /-- precision groups, then the HV group -/
  | hv (prec hv : Int)
  /-- the instance number -/
  | inst
  /-- ST_00 to ST_30, then ST_31 -/
  | st31 (other last : Int)
  /-- a standard load profile (R44, R165): the spec names it and gives no numbers -/
  | prof (code : Nat)
deriving DecidableEq, Repr

/-- One parameter of the spec: its place in the ID space (R12), its width and sign, its access, the range a write
accepts and, for selectors, the extra code that means none. -/
structure Prm where
  blk : Nat
  num : Nat
  cnt : Nat := 1
  str : Nat := 1
  wid : Nat
  sgn : Bool := false
  acc : Acc := .rw
  keep : Bool := false
  shr : Share := .inst
  lo : Int := 0
  hi : Int := 0
  alt : Option Nat := .none
  iLo : Nat := 0
  iHi : Nat := 0
  rst : Rst := .c 0
deriving DecidableEq, Repr

/-- Number of instances of a block (R13); 0 for an unlisted block code. -/
def blockInstances : Nat → Nat
  | 0x01 => 128 | 0x02 => 132 | 0x03 => 17 | 0x04 => 4 | 0x05 => 256 | 0x06 => 2
  | 0x07 => 1 | 0x08 => 1 | 0x09 => 32 | 0x0A => 64 | 0x0B => 5 | 0x0C => 1
  | 0x0D => 1 | 0x0E => 1 | 0x0F => 1 | 0x10 => 1
  | _ => 0

/-- FCH.OUT_REQ: 02_force_loop.md R82. -/
def FCH.OUT_REQ : Prm :=
  { blk := 1, num := 0x001, wid := 2, hi := 3, iHi := 127 }

/-- FCH.SETPOINT: 02_force_loop.md R82. -/
def FCH.SETPOINT : Prm :=
  { blk := 1, num := 0x002, wid := 24, sgn := true, lo := -4194304, hi := 4194304, iHi := 127 }

/-- FCH.VRANGE: 02_force_loop.md R82. -/
def FCH.VRANGE : Prm :=
  { blk := 1, num := 0x003, wid := 2, hi := 3, iHi := 127, rst := .c (3) }

/-- FCH.IRANGE: 02_force_loop.md R82. -/
def FCH.IRANGE : Prm :=
  { blk := 1, num := 0x004, wid := 4, hi := 8, iHi := 127, rst := .c (8) }

/-- FCH.PROFILE_SEL: 02_force_loop.md R82. -/
def FCH.PROFILE_SEL : Prm :=
  { blk := 1, num := 0x005, wid := 3, hi := 7, iHi := 127 }

/-- FCH.STATE: 02_force_loop.md R82. -/
def FCH.STATE : Prm :=
  { blk := 1, num := 0x006, wid := 3, acc := .ro, iHi := 127 }

/-- FCH.LIMIT_SRC: 02_force_loop.md R82. -/
def FCH.LIMIT_SRC : Prm :=
  { blk := 1, num := 0x007, wid := 1, acc := .ro, iHi := 127 }

/-- FCH.LIM_SYM: 02_force_loop.md R82. -/
def FCH.LIM_SYM : Prm :=
  { blk := 1, num := 0x010, wid := 1, hi := 1, iHi := 127, rst := .c (1) }

/-- FCH.VLIM_POS: 02_force_loop.md R82. -/
def FCH.VLIM_POS : Prm :=
  { blk := 1, num := 0x011, wid := 16, lo := 1, hi := 16384, iHi := 127, rst := .c (16384) }

/-- FCH.VLIM_NEG: 02_force_loop.md R82. -/
def FCH.VLIM_NEG : Prm :=
  { blk := 1, num := 0x012, wid := 16, lo := 1, hi := 16384, iHi := 127, rst := .c (16384) }

/-- FCH.ILIM_RANGE: 02_force_loop.md R82. -/
def FCH.ILIM_RANGE : Prm :=
  { blk := 1, num := 0x013, wid := 4, hi := 8, iHi := 127, rst := .c (8) }

/-- FCH.ILIM_POS: 02_force_loop.md R82. -/
def FCH.ILIM_POS : Prm :=
  { blk := 1, num := 0x014, wid := 16, lo := 1, hi := 16384, iHi := 127, rst := .c (1024) }

/-- FCH.ILIM_NEG: 02_force_loop.md R82. -/
def FCH.ILIM_NEG : Prm :=
  { blk := 1, num := 0x015, wid := 16, lo := 1, hi := 16384, iHi := 127, rst := .c (1024) }

/-- FCH.LIMIT_TIME: 02_force_loop.md R82. -/
def FCH.LIMIT_TIME : Prm :=
  { blk := 1, num := 0x016, wid := 24, hi := 16777215, iHi := 127 }

/-- FCH.CLAMP_MARGIN: 02_force_loop.md R82. -/
def FCH.CLAMP_MARGIN : Prm :=
  { blk := 1, num := 0x017, wid := 5, lo := 1, hi := 20, iHi := 127, rst := .c (5) }

/-- FCH.EV_LIMIT_IN: 02_force_loop.md R82. -/
def FCH.EV_LIMIT_IN : Prm :=
  { blk := 1, num := 0x018, wid := 8, hi := 63, alt := some 255, iHi := 127, rst := .c (255) }

/-- FCH.EV_LIMIT_OUT: 02_force_loop.md R82. -/
def FCH.EV_LIMIT_OUT : Prm :=
  { blk := 1, num := 0x019, wid := 8, hi := 63, alt := some 255, iHi := 127, rst := .c (255) }

/-- FCH.EV_CLAMP: 02_force_loop.md R82. -/
def FCH.EV_CLAMP : Prm :=
  { blk := 1, num := 0x01A, wid := 8, hi := 63, alt := some 255, iHi := 127, rst := .c (255) }

/-- FCH.CLAMP_COUNT: 02_force_loop.md R82. -/
def FCH.CLAMP_COUNT : Prm :=
  { blk := 1, num := 0x01B, wid := 32, acc := .ro, iHi := 127 }

/-- FCH.RP_EN: 02_force_loop.md R82. -/
def FCH.RP_EN : Prm :=
  { blk := 1, num := 0x020, wid := 1, hi := 1, iHi := 127 }

/-- FCH.RP_MIN: 02_force_loop.md R82. -/
def FCH.RP_MIN : Prm :=
  { blk := 1, num := 0x021, wid := 4, hi := 8, iHi := 127 }

/-- FCH.RP_MAX: 02_force_loop.md R82. -/
def FCH.RP_MAX : Prm :=
  { blk := 1, num := 0x022, wid := 4, hi := 8, iHi := 127, rst := .c (8) }

/-- FCH.RP: 02_force_loop.md R67. -/
def FCH.RP : Prm :=
  { blk := 1, num := 0x030, cnt := 9, wid := 64, hi := 18446744073709551615, iHi := 127, rst := .c (0xF333147B00010010) }

/-- FCH.SETTLE_DN: 02_force_loop.md R62. -/
def FCH.SETTLE_DN : Prm :=
  { blk := 1, num := 0x041, cnt := 9, wid := 16, lo := 1, hi := 65535, iHi := 127, rst := .idx [400, 150, 50, 20, 8, 4, 3, 2, 2] }

/-- FCH.PATH_SEL: 02_force_loop.md R52. -/
def FCH.PATH_SEL : Prm :=
  { blk := 1, num := 0x050, wid := 2, hi := 2, iHi := 127 }

/-- FCH.RELAY_COUNT: 02_force_loop.md R82. -/
def FCH.RELAY_COUNT : Prm :=
  { blk := 1, num := 0x051, wid := 32, acc := .ro, keep := true, iHi := 127 }

/-- FCH.SENSE_TOL: 02_force_loop.md R82. -/
def FCH.SENSE_TOL : Prm :=
  { blk := 1, num := 0x052, wid := 6, lo := 1, hi := 50, iHi := 127, rst := .c (10) }

/-- FCH.SOA: 02_force_loop.md R76. -/
def FCH.SOA : Prm :=
  { blk := 1, num := 0x060, cnt := 4, wid := 32, hi := 4294967295, iHi := 127, rst := .idx [0x3E800014, 0x190007D0, 0x15EF4240, 0] }

/-- FCH.WIN_CTL: 06_pin_electronics.md R209. -/
def FCH.WIN_CTL : Prm :=
  { blk := 1, num := 0x070, cnt := 4, wid := 32, hi := 4294967295, iHi := 127, rst := .c (0x40130000) }

/-- FCH.WIN_VHI: 06_pin_electronics.md R209. -/
def FCH.WIN_VHI : Prm :=
  { blk := 1, num := 0x074, wid := 12, sgn := true, lo := -2048, hi := 2047, iHi := 127, rst := .c (2047) }

/-- FCH.WIN_VLO: 06_pin_electronics.md R209. -/
def FCH.WIN_VLO : Prm :=
  { blk := 1, num := 0x075, wid := 12, sgn := true, lo := -2048, hi := 2047, iHi := 127, rst := .c (-2048) }

/-- FCH.WIN_STATE: 06_pin_electronics.md R209. -/
def FCH.WIN_STATE : Prm :=
  { blk := 1, num := 0x076, wid := 16, acc := .ro, iHi := 127 }

/-- FCH.PROF: 02_force_loop.md R43. -/
def FCH.PROF : Prm :=
  { blk := 1, num := 0x200, cnt := 128, wid := 32, sgn := true, lo := -2147483648, hi := 2147483647, iHi := 127, rst := .prof 1 }

/-- FCH.RAIL_FLOOR: 02_force_loop.md R82. -/
def FCH.RAIL_FLOOR : Prm :=
  { blk := 1, num := 0x300, wid := 6, shr := .group, lo := 4, hi := 33, iHi := 127, rst := .c (4) }

/-- FCH.RAIL_POS: 02_force_loop.md R82. -/
def FCH.RAIL_POS : Prm :=
  { blk := 1, num := 0x301, wid := 16, sgn := true, acc := .ro, shr := .group, iHi := 127, rst := .c (400) }

/-- FCH.RAIL_NEG: 02_force_loop.md R82. -/
def FCH.RAIL_NEG : Prm :=
  { blk := 1, num := 0x302, wid := 16, sgn := true, acc := .ro, shr := .group, iHi := 127, rst := .c (-400) }

/-- FCH.BUDGET_DELIV: 02_force_loop.md R82. -/
def FCH.BUDGET_DELIV : Prm :=
  { blk := 1, num := 0x3F0, wid := 16, acc := .ro, shr := .module, iHi := 127 }

/-- FCH.BUDGET_DISS: 02_force_loop.md R82. -/
def FCH.BUDGET_DISS : Prm :=
  { blk := 1, num := 0x3F1, wid := 16, acc := .ro, shr := .module, iHi := 127, rst := .c (1250) }

/-- FCH.FV_G: 14_calibration.md R439, target. -/
def FCH.FV_G : Prm :=
  { blk := 1, num := 0x500, cnt := 4, str := 4, wid := 32, hi := 4294967295, iHi := 127, rst := .c (0x40000000) }

/-- FCH.FV_GP: 14_calibration.md R440, present value. -/
def FCH.FV_GP : Prm :=
  { blk := 1, num := 0x600, cnt := 4, str := 4, wid := 32, acc := .ro, iHi := 127, rst := .c (0x40000000) }

/-- FCH.FV_O: 14_calibration.md R439, target. -/
def FCH.FV_O : Prm :=
  { blk := 1, num := 0x501, cnt := 4, str := 4, wid := 32, sgn := true, lo := -2147483648, hi := 2147483647, iHi := 127 }

/-- FCH.FV_OP: 14_calibration.md R440, present value. -/
def FCH.FV_OP : Prm :=
  { blk := 1, num := 0x601, cnt := 4, str := 4, wid := 32, sgn := true, acc := .ro, iHi := 127 }

/-- FCH.FV_K: 14_calibration.md R439, target. -/
def FCH.FV_K : Prm :=
  { blk := 1, num := 0x502, cnt := 4, str := 4, wid := 32, sgn := true, lo := -2147483648, hi := 2147483647, iHi := 127 }

/-- FCH.FV_KP: 14_calibration.md R440, present value. -/
def FCH.FV_KP : Prm :=
  { blk := 1, num := 0x602, cnt := 4, str := 4, wid := 32, sgn := true, acc := .ro, iHi := 127 }

/-- FCH.FI_G: 14_calibration.md R439, target. -/
def FCH.FI_G : Prm :=
  { blk := 1, num := 0x510, cnt := 10, str := 4, wid := 32, hi := 4294967295, iHi := 127, rst := .c (0x40000000) }

/-- FCH.FI_GP: 14_calibration.md R440, present value. -/
def FCH.FI_GP : Prm :=
  { blk := 1, num := 0x610, cnt := 10, str := 4, wid := 32, acc := .ro, iHi := 127, rst := .c (0x40000000) }

/-- FCH.FI_O: 14_calibration.md R439, target. -/
def FCH.FI_O : Prm :=
  { blk := 1, num := 0x511, cnt := 10, str := 4, wid := 32, sgn := true, lo := -2147483648, hi := 2147483647, iHi := 127 }

/-- FCH.FI_OP: 14_calibration.md R440, present value. -/
def FCH.FI_OP : Prm :=
  { blk := 1, num := 0x611, cnt := 10, str := 4, wid := 32, sgn := true, acc := .ro, iHi := 127 }

/-- FCH.FI_K: 14_calibration.md R439, target. -/
def FCH.FI_K : Prm :=
  { blk := 1, num := 0x512, cnt := 10, str := 4, wid := 32, sgn := true, lo := -2147483648, hi := 2147483647, iHi := 127 }

/-- FCH.FI_KP: 14_calibration.md R440, present value. -/
def FCH.FI_KP : Prm :=
  { blk := 1, num := 0x612, cnt := 10, str := 4, wid := 32, sgn := true, acc := .ro, iHi := 127 }

/-- FCH.LOOP_V_G: 14_calibration.md R439, target. -/
def FCH.LOOP_V_G : Prm :=
  { blk := 1, num := 0x540, str := 4, wid := 32, hi := 4294967295, iHi := 127, rst := .c (0x40000000) }

/-- FCH.LOOP_V_GP: 14_calibration.md R440, present value. -/
def FCH.LOOP_V_GP : Prm :=
  { blk := 1, num := 0x640, str := 4, wid := 32, acc := .ro, iHi := 127, rst := .c (0x40000000) }

/-- FCH.LOOP_V_O: 14_calibration.md R439, target. -/
def FCH.LOOP_V_O : Prm :=
  { blk := 1, num := 0x541, str := 4, wid := 32, sgn := true, lo := -2147483648, hi := 2147483647, iHi := 127 }

/-- FCH.LOOP_V_OP: 14_calibration.md R440, present value. -/
def FCH.LOOP_V_OP : Prm :=
  { blk := 1, num := 0x641, str := 4, wid := 32, sgn := true, acc := .ro, iHi := 127 }

/-- FCH.LOOP_V_K: 14_calibration.md R439, target. -/
def FCH.LOOP_V_K : Prm :=
  { blk := 1, num := 0x542, str := 4, wid := 32, sgn := true, lo := -2147483648, hi := 2147483647, iHi := 127 }

/-- FCH.LOOP_V_KP: 14_calibration.md R440, present value. -/
def FCH.LOOP_V_KP : Prm :=
  { blk := 1, num := 0x642, str := 4, wid := 32, sgn := true, acc := .ro, iHi := 127 }

/-- FCH.LOOP_I_G: 14_calibration.md R439, target. -/
def FCH.LOOP_I_G : Prm :=
  { blk := 1, num := 0x544, str := 4, wid := 32, hi := 4294967295, iHi := 127, rst := .c (0x40000000) }

/-- FCH.LOOP_I_GP: 14_calibration.md R440, present value. -/
def FCH.LOOP_I_GP : Prm :=
  { blk := 1, num := 0x644, str := 4, wid := 32, acc := .ro, iHi := 127, rst := .c (0x40000000) }

/-- FCH.LOOP_I_O: 14_calibration.md R439, target. -/
def FCH.LOOP_I_O : Prm :=
  { blk := 1, num := 0x545, str := 4, wid := 32, sgn := true, lo := -2147483648, hi := 2147483647, iHi := 127 }

/-- FCH.LOOP_I_OP: 14_calibration.md R440, present value. -/
def FCH.LOOP_I_OP : Prm :=
  { blk := 1, num := 0x645, str := 4, wid := 32, sgn := true, acc := .ro, iHi := 127 }

/-- FCH.LOOP_I_K: 14_calibration.md R439, target. -/
def FCH.LOOP_I_K : Prm :=
  { blk := 1, num := 0x546, str := 4, wid := 32, sgn := true, lo := -2147483648, hi := 2147483647, iHi := 127 }

/-- FCH.LOOP_I_KP: 14_calibration.md R440, present value. -/
def FCH.LOOP_I_KP : Prm :=
  { blk := 1, num := 0x646, str := 4, wid := 32, sgn := true, acc := .ro, iHi := 127 }

/-- MSR.AVG_N: 03_measure_path.md R123. -/
def MSR.AVG_N : Prm :=
  { blk := 2, num := 0x001, wid := 9, lo := 1, hi := 256, iHi := 131, rst := .c (1) }

/-- MSR.AVG_S: 03_measure_path.md R123. -/
def MSR.AVG_S : Prm :=
  { blk := 2, num := 0x002, wid := 4, hi := 8, iHi := 131 }

/-- MSR.AVG_DISCARD: 03_measure_path.md R123. -/
def MSR.AVG_DISCARD : Prm :=
  { blk := 2, num := 0x003, wid := 1, hi := 1, iHi := 131 }

/-- MSR.SEQ: 03_measure_path.md R123. -/
def MSR.SEQ : Prm :=
  { blk := 2, num := 0x004, wid := 32, acc := .ro, iHi := 131 }

/-- MSR.LAST_REC: 03_measure_path.md R123. -/
def MSR.LAST_REC : Prm :=
  { blk := 2, num := 0x005, wid := 128, acc := .ro, iHi := 131 }

/-- MSR.AZ_OFS_V: 03_measure_path.md R123. -/
def MSR.AZ_OFS_V : Prm :=
  { blk := 2, num := 0x006, wid := 24, sgn := true, acc := .ro, iHi := 131 }

/-- MSR.AZ_OFS_I: 03_measure_path.md R123. -/
def MSR.AZ_OFS_I : Prm :=
  { blk := 2, num := 0x007, wid := 24, sgn := true, acc := .ro, iHi := 131 }

/-- MSR.AZ_COUNT: 03_measure_path.md R123. -/
def MSR.AZ_COUNT : Prm :=
  { blk := 2, num := 0x008, wid := 32, acc := .ro, iHi := 131 }

/-- MSR.TRIG_SRC: 03_measure_path.md R123. -/
def MSR.TRIG_SRC : Prm :=
  { blk := 2, num := 0x300, wid := 2, shr := .group, hi := 3, iHi := 131 }

/-- MSR.TRIG_EV: 03_measure_path.md R123. -/
def MSR.TRIG_EV : Prm :=
  { blk := 2, num := 0x301, wid := 8, shr := .group, hi := 63, alt := some 255, iHi := 131, rst := .c (255) }

/-- MSR.TIMER_PERIOD: 03_measure_path.md R123. -/
def MSR.TIMER_PERIOD : Prm :=
  { blk := 2, num := 0x302, wid := 32, shr := .group, lo := 4, hi := 4294967295, iHi := 131, rst := .hv 4 16 }

/-- MSR.TIMER_PHASE: 03_measure_path.md R123. -/
def MSR.TIMER_PHASE : Prm :=
  { blk := 2, num := 0x303, wid := 32, shr := .group, hi := 4294967295, iHi := 131 }

/-- MSR.PWR_MODE: 03_measure_path.md R123. -/
def MSR.PWR_MODE : Prm :=
  { blk := 2, num := 0x304, wid := 1, shr := .group, hi := 1, iHi := 131 }

/-- MSR.AZ_STEAL: 03_measure_path.md R123. -/
def MSR.AZ_STEAL : Prm :=
  { blk := 2, num := 0x305, wid := 1, shr := .group, hi := 1, iHi := 131 }

/-- MSR.AZ_PERIOD: 03_measure_path.md R123. -/
def MSR.AZ_PERIOD : Prm :=
  { blk := 2, num := 0x306, wid := 16, shr := .group, lo := 10, hi := 65535, iHi := 131, rst := .c (100) }

/-- MSR.TDAC_CODE: 03_measure_path.md R123. -/
def MSR.TDAC_CODE : Prm :=
  { blk := 2, num := 0x307, wid := 12, sgn := true, shr := .group, lo := -2048, hi := 2047, iHi := 131 }

/-- MSR.TDAC_MASK: 03_measure_path.md R123. -/
def MSR.TDAC_MASK : Prm :=
  { blk := 2, num := 0x308, wid := 8, shr := .group, hi := 255, iHi := 131 }

/-- MSR.TDAC_QTY: 03_measure_path.md R123. -/
def MSR.TDAC_QTY : Prm :=
  { blk := 2, num := 0x309, wid := 1, shr := .group, hi := 1, iHi := 131 }

/-- MSR.TRIG_OVERRUN: 03_measure_path.md R123. -/
def MSR.TRIG_OVERRUN : Prm :=
  { blk := 2, num := 0x30A, wid := 32, acc := .ro, shr := .group, iHi := 131 }

/-- MSR.REC_LOST: 03_measure_path.md R123. -/
def MSR.REC_LOST : Prm :=
  { blk := 2, num := 0x30B, wid := 32, acc := .ro, shr := .group, iHi := 131 }

/-- MSR.MV_G: 14_calibration.md R439, target. -/
def MSR.MV_G : Prm :=
  { blk := 2, num := 0x500, cnt := 4, str := 4, wid := 32, hi := 4294967295, iLo := 0, iHi := 127, rst := .c (0x40000000) }

/-- MSR.MV_GP: 14_calibration.md R440, present value. -/
def MSR.MV_GP : Prm :=
  { blk := 2, num := 0x600, cnt := 4, str := 4, wid := 32, acc := .ro, iLo := 0, iHi := 127, rst := .c (0x40000000) }

/-- MSR.MV_O: 14_calibration.md R439, target. -/
def MSR.MV_O : Prm :=
  { blk := 2, num := 0x501, cnt := 4, str := 4, wid := 32, sgn := true, lo := -2147483648, hi := 2147483647, iLo := 0, iHi := 127 }

/-- MSR.MV_OP: 14_calibration.md R440, present value. -/
def MSR.MV_OP : Prm :=
  { blk := 2, num := 0x601, cnt := 4, str := 4, wid := 32, sgn := true, acc := .ro, iLo := 0, iHi := 127 }

/-- MSR.MV_K: 14_calibration.md R439, target. -/
def MSR.MV_K : Prm :=
  { blk := 2, num := 0x502, cnt := 4, str := 4, wid := 32, sgn := true, lo := -2147483648, hi := 2147483647, iLo := 0, iHi := 127 }

/-- MSR.MV_KP: 14_calibration.md R440, present value. -/
def MSR.MV_KP : Prm :=
  { blk := 2, num := 0x602, cnt := 4, str := 4, wid := 32, sgn := true, acc := .ro, iLo := 0, iHi := 127 }

/-- MSR.MV_HV_G: 14_calibration.md R439, target. -/
def MSR.MV_HV_G : Prm :=
  { blk := 2, num := 0x510, str := 4, wid := 32, hi := 4294967295, iLo := 128, iHi := 131, rst := .c (0x40000000) }

/-- MSR.MV_HV_GP: 14_calibration.md R440, present value. -/
def MSR.MV_HV_GP : Prm :=
  { blk := 2, num := 0x610, str := 4, wid := 32, acc := .ro, iLo := 128, iHi := 131, rst := .c (0x40000000) }

/-- MSR.MV_HV_O: 14_calibration.md R439, target. -/
def MSR.MV_HV_O : Prm :=
  { blk := 2, num := 0x511, str := 4, wid := 32, sgn := true, lo := -2147483648, hi := 2147483647, iLo := 128, iHi := 131 }

/-- MSR.MV_HV_OP: 14_calibration.md R440, present value. -/
def MSR.MV_HV_OP : Prm :=
  { blk := 2, num := 0x611, str := 4, wid := 32, sgn := true, acc := .ro, iLo := 128, iHi := 131 }

/-- MSR.MV_HV_K: 14_calibration.md R439, target. -/
def MSR.MV_HV_K : Prm :=
  { blk := 2, num := 0x512, str := 4, wid := 32, sgn := true, lo := -2147483648, hi := 2147483647, iLo := 128, iHi := 131 }

/-- MSR.MV_HV_KP: 14_calibration.md R440, present value. -/
def MSR.MV_HV_KP : Prm :=
  { blk := 2, num := 0x612, str := 4, wid := 32, sgn := true, acc := .ro, iLo := 128, iHi := 131 }

/-- MSR.MI_G: 14_calibration.md R439, target. -/
def MSR.MI_G : Prm :=
  { blk := 2, num := 0x520, cnt := 10, str := 4, wid := 32, hi := 4294967295, iLo := 0, iHi := 127, rst := .c (0x40000000) }

/-- MSR.MI_GP: 14_calibration.md R440, present value. -/
def MSR.MI_GP : Prm :=
  { blk := 2, num := 0x620, cnt := 10, str := 4, wid := 32, acc := .ro, iLo := 0, iHi := 127, rst := .c (0x40000000) }

/-- MSR.MI_O: 14_calibration.md R439, target. -/
def MSR.MI_O : Prm :=
  { blk := 2, num := 0x521, cnt := 10, str := 4, wid := 32, sgn := true, lo := -2147483648, hi := 2147483647, iLo := 0, iHi := 127 }

/-- MSR.MI_OP: 14_calibration.md R440, present value. -/
def MSR.MI_OP : Prm :=
  { blk := 2, num := 0x621, cnt := 10, str := 4, wid := 32, sgn := true, acc := .ro, iLo := 0, iHi := 127 }

/-- MSR.MI_K: 14_calibration.md R439, target. -/
def MSR.MI_K : Prm :=
  { blk := 2, num := 0x522, cnt := 10, str := 4, wid := 32, sgn := true, lo := -2147483648, hi := 2147483647, iLo := 0, iHi := 127 }

/-- MSR.MI_KP: 14_calibration.md R440, present value. -/
def MSR.MI_KP : Prm :=
  { blk := 2, num := 0x622, cnt := 10, str := 4, wid := 32, sgn := true, acc := .ro, iLo := 0, iHi := 127 }

/-- MSR.MI_HV_G: 14_calibration.md R439, target. -/
def MSR.MI_HV_G : Prm :=
  { blk := 2, num := 0x520, cnt := 7, str := 4, wid := 32, hi := 4294967295, iLo := 128, iHi := 131, rst := .c (0x40000000) }

/-- MSR.MI_HV_GP: 14_calibration.md R440, present value. -/
def MSR.MI_HV_GP : Prm :=
  { blk := 2, num := 0x620, cnt := 7, str := 4, wid := 32, acc := .ro, iLo := 128, iHi := 131, rst := .c (0x40000000) }

/-- MSR.MI_HV_O: 14_calibration.md R439, target. -/
def MSR.MI_HV_O : Prm :=
  { blk := 2, num := 0x521, cnt := 7, str := 4, wid := 32, sgn := true, lo := -2147483648, hi := 2147483647, iLo := 128, iHi := 131 }

/-- MSR.MI_HV_OP: 14_calibration.md R440, present value. -/
def MSR.MI_HV_OP : Prm :=
  { blk := 2, num := 0x621, cnt := 7, str := 4, wid := 32, sgn := true, acc := .ro, iLo := 128, iHi := 131 }

/-- MSR.MI_HV_K: 14_calibration.md R439, target. -/
def MSR.MI_HV_K : Prm :=
  { blk := 2, num := 0x522, cnt := 7, str := 4, wid := 32, sgn := true, lo := -2147483648, hi := 2147483647, iLo := 128, iHi := 131 }

/-- MSR.MI_HV_KP: 14_calibration.md R440, present value. -/
def MSR.MI_HV_KP : Prm :=
  { blk := 2, num := 0x622, cnt := 7, str := 4, wid := 32, sgn := true, acc := .ro, iLo := 128, iHi := 131 }

/-- MSR.PAIR_G: 14_calibration.md R439, target. -/
def MSR.PAIR_G : Prm :=
  { blk := 2, num := 0x554, cnt := 9, str := 4, wid := 32, hi := 4294967295, iLo := 0, iHi := 127, rst := .c (0x40000000) }

/-- MSR.PAIR_GP: 14_calibration.md R440, present value. -/
def MSR.PAIR_GP : Prm :=
  { blk := 2, num := 0x654, cnt := 9, str := 4, wid := 32, acc := .ro, iLo := 0, iHi := 127, rst := .c (0x40000000) }

/-- MSR.PAIR_O: 14_calibration.md R439, target. -/
def MSR.PAIR_O : Prm :=
  { blk := 2, num := 0x555, cnt := 9, str := 4, wid := 32, sgn := true, lo := -2147483648, hi := 2147483647, iLo := 0, iHi := 127 }

/-- MSR.PAIR_OP: 14_calibration.md R440, present value. -/
def MSR.PAIR_OP : Prm :=
  { blk := 2, num := 0x655, cnt := 9, str := 4, wid := 32, sgn := true, acc := .ro, iLo := 0, iHi := 127 }

/-- MSR.PAIR_K: 14_calibration.md R439, target. -/
def MSR.PAIR_K : Prm :=
  { blk := 2, num := 0x556, cnt := 9, str := 4, wid := 32, sgn := true, lo := -2147483648, hi := 2147483647, iLo := 0, iHi := 127 }

/-- MSR.PAIR_KP: 14_calibration.md R440, present value. -/
def MSR.PAIR_KP : Prm :=
  { blk := 2, num := 0x656, cnt := 9, str := 4, wid := 32, sgn := true, acc := .ro, iLo := 0, iHi := 127 }

/-- SWE.STATE: 04_sweep_engines.md R161. -/
def SWE.STATE : Prm :=
  { blk := 3, num := 0x001, wid := 3, acc := .ro, iHi := 16 }

/-- SWE.RUN_SLOT: 04_sweep_engines.md R161. -/
def SWE.RUN_SLOT : Prm :=
  { blk := 3, num := 0x002, wid := 3, acc := .ro, iHi := 16, rst := .c (7) }

/-- SWE.EV_START: 04_sweep_engines.md R161. -/
def SWE.EV_START : Prm :=
  { blk := 3, num := 0x003, wid := 8, hi := 63, alt := some 255, iHi := 16, rst := .c (255) }

/-- SWE.EV_NEXT: 04_sweep_engines.md R161. -/
def SWE.EV_NEXT : Prm :=
  { blk := 3, num := 0x004, wid := 8, hi := 63, alt := some 255, iHi := 16, rst := .c (255) }

/-- SWE.EV_HOLD: 04_sweep_engines.md R161. -/
def SWE.EV_HOLD : Prm :=
  { blk := 3, num := 0x005, wid := 8, hi := 63, alt := some 255, iHi := 16, rst := .c (255) }

/-- SWE.EV_ABORT: 04_sweep_engines.md R161. -/
def SWE.EV_ABORT : Prm :=
  { blk := 3, num := 0x006, wid := 8, hi := 63, alt := some 255, iHi := 16, rst := .c (255) }

/-- SWE.EV_DONE: 04_sweep_engines.md R161. -/
def SWE.EV_DONE : Prm :=
  { blk := 3, num := 0x007, wid := 8, hi := 63, alt := some 255, iHi := 16, rst := .c (255) }

/-- SWE.WAIT_TIMEOUT: 04_sweep_engines.md R161. -/
def SWE.WAIT_TIMEOUT : Prm :=
  { blk := 3, num := 0x008, wid := 32, hi := 4294967295, iHi := 16 }

/-- SWE.TRIP_ACTION: 04_sweep_engines.md R161. -/
def SWE.TRIP_ACTION : Prm :=
  { blk := 3, num := 0x009, wid := 2, hi := 2, iHi := 16, rst := .c (2) }

/-- SWE.PT_REC: 04_sweep_engines.md R161. -/
def SWE.PT_REC : Prm :=
  { blk := 3, num := 0x00A, wid := 1, hi := 1, iHi := 16 }

/-- SWE.HOST_FLAG: 04_sweep_engines.md R161. -/
def SWE.HOST_FLAG : Prm :=
  { blk := 3, num := 0x00B, wid := 1, hi := 1, iHi := 16 }

/-- SWE.PT_STATUS: 04_sweep_engines.md R161. -/
def SWE.PT_STATUS : Prm :=
  { blk := 3, num := 0x00C, wid := 128, acc := .ro, iHi := 16 }

/-- SWE.POINT_COUNT: 04_sweep_engines.md R161. -/
def SWE.POINT_COUNT : Prm :=
  { blk := 3, num := 0x00D, wid := 32, acc := .ro, iHi := 16 }

/-- SWE.PT_RING: 04_sweep_engines.md R161. -/
def SWE.PT_RING : Prm :=
  { blk := 3, num := 0x010, cnt := 64, wid := 128, acc := .ro, iHi := 16 }

/-- SWE.SLOT_STATE: 04_sweep_engines.md R161. -/
def SWE.SLOT_STATE : Prm :=
  { blk := 3, num := 0x100, cnt := 4, str := 16, wid := 4, acc := .ro, iHi := 16 }

/-- SWE.REGION: 04_sweep_engines.md R161. -/
def SWE.REGION : Prm :=
  { blk := 3, num := 0x101, cnt := 4, str := 16, wid := 16, hi := 65535, iHi := 16 }

/-- SWE.ENTRY: 04_sweep_engines.md R161. -/
def SWE.ENTRY : Prm :=
  { blk := 3, num := 0x102, cnt := 4, str := 16, wid := 20, hi := 1048575, iHi := 16 }

/-- SWE.PRIORITY: 04_sweep_engines.md R161. -/
def SWE.PRIORITY : Prm :=
  { blk := 3, num := 0x103, cnt := 4, str := 16, wid := 2, hi := 3, iHi := 16, rst := .c (3) }

/-- SWE.PREEMPT_CUT: 04_sweep_engines.md R161. -/
def SWE.PREEMPT_CUT : Prm :=
  { blk := 3, num := 0x104, cnt := 4, str := 16, wid := 1, hi := 1, iHi := 16 }

/-- SWE.CHAN_SET: 04_sweep_engines.md R161. -/
def SWE.CHAN_SET : Prm :=
  { blk := 3, num := 0x105, cnt := 4, str := 16, wid := 8, hi := 255, iHi := 16 }

/-- SWE.END_ACTION: 04_sweep_engines.md R161. -/
def SWE.END_ACTION : Prm :=
  { blk := 3, num := 0x106, cnt := 4, str := 16, wid := 2, hi := 3, iHi := 16 }

/-- SWE.START_AT: 04_sweep_engines.md R161. -/
def SWE.START_AT : Prm :=
  { blk := 3, num := 0x107, cnt := 4, str := 16, wid := 64, hi := 18446744073709551615, iHi := 16 }

/-- SWE.PC: 04_sweep_engines.md R161. -/
def SWE.PC : Prm :=
  { blk := 3, num := 0x108, cnt := 4, str := 16, wid := 20, acc := .ro, iHi := 16 }

/-- SWE.CUT_INDEX: 04_sweep_engines.md R161. -/
def SWE.CUT_INDEX : Prm :=
  { blk := 3, num := 0x109, cnt := 4, str := 16, wid := 20, acc := .ro, iHi := 16 }

/-- SWE.CUT_OFS: 04_sweep_engines.md R161. -/
def SWE.CUT_OFS : Prm :=
  { blk := 3, num := 0x10A, cnt := 4, str := 16, wid := 24, acc := .ro, iHi := 16 }

/-- SWE.LOOP_CTR0: 04_sweep_engines.md R161. -/
def SWE.LOOP_CTR0 : Prm :=
  { blk := 3, num := 0x10C, cnt := 4, str := 16, wid := 24, acc := .ro, iHi := 16 }

/-- SWE.LOOP_CTR1: 04_sweep_engines.md R161. -/
def SWE.LOOP_CTR1 : Prm :=
  { blk := 3, num := 0x10D, cnt := 4, str := 16, wid := 24, acc := .ro, iHi := 16 }

/-- SWE.LOOP_CTR2: 04_sweep_engines.md R161. -/
def SWE.LOOP_CTR2 : Prm :=
  { blk := 3, num := 0x10E, cnt := 4, str := 16, wid := 24, acc := .ro, iHi := 16 }

/-- SWE.LOOP_CTR3: 04_sweep_engines.md R161. -/
def SWE.LOOP_CTR3 : Prm :=
  { blk := 3, num := 0x10F, cnt := 4, str := 16, wid := 24, acc := .ro, iHi := 16 }

/-- SWE.MEM_FREE: 04_sweep_engines.md R161. -/
def SWE.MEM_FREE : Prm :=
  { blk := 3, num := 0x300, wid := 21, acc := .ro, shr := .module, iHi := 16, rst := .c (1048576) }

/-- SWE.MEM_LARGEST: 04_sweep_engines.md R161. -/
def SWE.MEM_LARGEST : Prm :=
  { blk := 3, num := 0x301, wid := 21, acc := .ro, shr := .module, iHi := 16, rst := .c (1048576) }

/-- SWE.REGIONS: 04_sweep_engines.md R161. -/
def SWE.REGIONS : Prm :=
  { blk := 3, num := 0x302, wid := 13, acc := .ro, shr := .module, iHi := 16 }

/-- HVC.OUT_REQ: 05_high_voltage_channels.md R178. -/
def HVC.OUT_REQ : Prm :=
  { blk := 4, num := 0x001, wid := 2, hi := 3, iHi := 3 }

/-- HVC.SETPOINT: 05_high_voltage_channels.md R178. -/
def HVC.SETPOINT : Prm :=
  { blk := 4, num := 0x002, wid := 24, sgn := true, lo := -4194304, hi := 4194304, iHi := 3 }

/-- HVC.IRANGE: 05_high_voltage_channels.md R178. -/
def HVC.IRANGE : Prm :=
  { blk := 4, num := 0x004, wid := 3, hi := 6, iHi := 3, rst := .c (6) }

/-- HVC.PROFILE_SEL: 05_high_voltage_channels.md R178. -/
def HVC.PROFILE_SEL : Prm :=
  { blk := 4, num := 0x005, wid := 2, hi := 3, iHi := 3 }

/-- HVC.STATE: 05_high_voltage_channels.md R178. -/
def HVC.STATE : Prm :=
  { blk := 4, num := 0x006, wid := 3, acc := .ro, iHi := 3 }

/-- HVC.LIMIT_SRC: 05_high_voltage_channels.md R178. -/
def HVC.LIMIT_SRC : Prm :=
  { blk := 4, num := 0x007, wid := 1, acc := .ro, iHi := 3 }

/-- HVC.LIM_SYM: 05_high_voltage_channels.md R178. -/
def HVC.LIM_SYM : Prm :=
  { blk := 4, num := 0x010, wid := 1, hi := 1, iHi := 3, rst := .c (1) }

/-- HVC.VLIM_POS: 05_high_voltage_channels.md R178. -/
def HVC.VLIM_POS : Prm :=
  { blk := 4, num := 0x011, wid := 16, lo := 1, hi := 16384, iHi := 3, rst := .c (16384) }

/-- HVC.VLIM_NEG: 05_high_voltage_channels.md R178. -/
def HVC.VLIM_NEG : Prm :=
  { blk := 4, num := 0x012, wid := 16, lo := 1, hi := 16384, iHi := 3, rst := .c (16384) }

/-- HVC.ILIM_RANGE: 05_high_voltage_channels.md R178. -/
def HVC.ILIM_RANGE : Prm :=
  { blk := 4, num := 0x013, wid := 3, hi := 6, iHi := 3, rst := .c (6) }

/-- HVC.ILIM_POS: 05_high_voltage_channels.md R178. -/
def HVC.ILIM_POS : Prm :=
  { blk := 4, num := 0x014, wid := 16, lo := 1, hi := 16384, iHi := 3, rst := .c (819) }

/-- HVC.ILIM_NEG: 05_high_voltage_channels.md R178. -/
def HVC.ILIM_NEG : Prm :=
  { blk := 4, num := 0x015, wid := 16, lo := 1, hi := 16384, iHi := 3, rst := .c (819) }

/-- HVC.LIMIT_TIME: 05_high_voltage_channels.md R178. -/
def HVC.LIMIT_TIME : Prm :=
  { blk := 4, num := 0x016, wid := 24, hi := 16777215, iHi := 3 }

/-- HVC.EV_LIMIT_IN: 05_high_voltage_channels.md R178. -/
def HVC.EV_LIMIT_IN : Prm :=
  { blk := 4, num := 0x018, wid := 8, hi := 63, alt := some 255, iHi := 3, rst := .c (255) }

/-- HVC.EV_LIMIT_OUT: 05_high_voltage_channels.md R178. -/
def HVC.EV_LIMIT_OUT : Prm :=
  { blk := 4, num := 0x019, wid := 8, hi := 63, alt := some 255, iHi := 3, rst := .c (255) }

/-- HVC.SLEW: 05_high_voltage_channels.md R178. -/
def HVC.SLEW : Prm :=
  { blk := 4, num := 0x01C, wid := 10, lo := 1, hi := 1000, iHi := 3, rst := .c (10) }

/-- HVC.RAMP: 05_high_voltage_channels.md R178. -/
def HVC.RAMP : Prm :=
  { blk := 4, num := 0x01D, wid := 1, acc := .ro, iHi := 3 }

/-- HVC.DISCH_TIME: 05_high_voltage_channels.md R178. -/
def HVC.DISCH_TIME : Prm :=
  { blk := 4, num := 0x01E, wid := 32, acc := .ro, iHi := 3 }

/-- HVC.RP_EN: 05_high_voltage_channels.md R178. -/
def HVC.RP_EN : Prm :=
  { blk := 4, num := 0x020, wid := 1, hi := 1, iHi := 3 }

/-- HVC.RP_MIN: 05_high_voltage_channels.md R178. -/
def HVC.RP_MIN : Prm :=
  { blk := 4, num := 0x021, wid := 3, hi := 6, iHi := 3 }

/-- HVC.RP_MAX: 05_high_voltage_channels.md R178. -/
def HVC.RP_MAX : Prm :=
  { blk := 4, num := 0x022, wid := 3, hi := 6, iHi := 3, rst := .c (6) }

/-- HVC.RP: 05_high_voltage_channels.md R173. -/
def HVC.RP : Prm :=
  { blk := 4, num := 0x030, cnt := 7, wid := 64, hi := 18446744073709551615, iHi := 3, rst := .idx [0xF333147B00010010, 0xF333147B00010010, 0xF333147B00010010, 0xF333147B00010010, 0xF333147B00010010, 0xF333147B00010010, 0xF3330A3D00010010] }

/-- HVC.SETTLE_DN: 05_high_voltage_channels.md R172. -/
def HVC.SETTLE_DN : Prm :=
  { blk := 4, num := 0x041, cnt := 6, wid := 16, lo := 1, hi := 65535, iHi := 3, rst := .idx [10000, 3000, 800, 200, 80, 40] }

/-- HVC.PROF: 05_high_voltage_channels.md R165. -/
def HVC.PROF : Prm :=
  { blk := 4, num := 0x200, cnt := 64, wid := 32, sgn := true, lo := -2147483648, hi := 2147483647, iHi := 3, rst := .prof 4 }

/-- HVC.INTLK_STATE: 05_high_voltage_channels.md R178. -/
def HVC.INTLK_STATE : Prm :=
  { blk := 4, num := 0x300, wid := 1, acc := .ro, shr := .module, iHi := 3 }

/-- HVC.EV_INTLK: 05_high_voltage_channels.md R178. -/
def HVC.EV_INTLK : Prm :=
  { blk := 4, num := 0x301, wid := 8, shr := .module, hi := 63, alt := some 255, iHi := 3, rst := .c (255) }

/-- HVC.BOOST_STATE: 05_high_voltage_channels.md R178. -/
def HVC.BOOST_STATE : Prm :=
  { blk := 4, num := 0x302, wid := 2, acc := .ro, shr := .module, iHi := 3 }

/-- HVC.FV_G: 14_calibration.md R439, target. -/
def HVC.FV_G : Prm :=
  { blk := 4, num := 0x500, str := 4, wid := 32, hi := 4294967295, iHi := 3, rst := .c (0x40000000) }

/-- HVC.FV_GP: 14_calibration.md R440, present value. -/
def HVC.FV_GP : Prm :=
  { blk := 4, num := 0x600, str := 4, wid := 32, acc := .ro, iHi := 3, rst := .c (0x40000000) }

/-- HVC.FV_O: 14_calibration.md R439, target. -/
def HVC.FV_O : Prm :=
  { blk := 4, num := 0x501, str := 4, wid := 32, sgn := true, lo := -2147483648, hi := 2147483647, iHi := 3 }

/-- HVC.FV_OP: 14_calibration.md R440, present value. -/
def HVC.FV_OP : Prm :=
  { blk := 4, num := 0x601, str := 4, wid := 32, sgn := true, acc := .ro, iHi := 3 }

/-- HVC.FV_K: 14_calibration.md R439, target. -/
def HVC.FV_K : Prm :=
  { blk := 4, num := 0x502, str := 4, wid := 32, sgn := true, lo := -2147483648, hi := 2147483647, iHi := 3 }

/-- HVC.FV_KP: 14_calibration.md R440, present value. -/
def HVC.FV_KP : Prm :=
  { blk := 4, num := 0x602, str := 4, wid := 32, sgn := true, acc := .ro, iHi := 3 }

/-- HVC.FI_G: 14_calibration.md R439, target. -/
def HVC.FI_G : Prm :=
  { blk := 4, num := 0x510, cnt := 7, str := 4, wid := 32, hi := 4294967295, iHi := 3, rst := .c (0x40000000) }

/-- HVC.FI_GP: 14_calibration.md R440, present value. -/
def HVC.FI_GP : Prm :=
  { blk := 4, num := 0x610, cnt := 7, str := 4, wid := 32, acc := .ro, iHi := 3, rst := .c (0x40000000) }

/-- HVC.FI_O: 14_calibration.md R439, target. -/
def HVC.FI_O : Prm :=
  { blk := 4, num := 0x511, cnt := 7, str := 4, wid := 32, sgn := true, lo := -2147483648, hi := 2147483647, iHi := 3 }

/-- HVC.FI_OP: 14_calibration.md R440, present value. -/
def HVC.FI_OP : Prm :=
  { blk := 4, num := 0x611, cnt := 7, str := 4, wid := 32, sgn := true, acc := .ro, iHi := 3 }

/-- HVC.FI_K: 14_calibration.md R439, target. -/
def HVC.FI_K : Prm :=
  { blk := 4, num := 0x512, cnt := 7, str := 4, wid := 32, sgn := true, lo := -2147483648, hi := 2147483647, iHi := 3 }

/-- HVC.FI_KP: 14_calibration.md R440, present value. -/
def HVC.FI_KP : Prm :=
  { blk := 4, num := 0x612, cnt := 7, str := 4, wid := 32, sgn := true, acc := .ro, iHi := 3 }

/-- HVC.LOOP_V_G: 14_calibration.md R439, target. -/
def HVC.LOOP_V_G : Prm :=
  { blk := 4, num := 0x540, str := 4, wid := 32, hi := 4294967295, iHi := 3, rst := .c (0x40000000) }

/-- HVC.LOOP_V_GP: 14_calibration.md R440, present value. -/
def HVC.LOOP_V_GP : Prm :=
  { blk := 4, num := 0x640, str := 4, wid := 32, acc := .ro, iHi := 3, rst := .c (0x40000000) }

/-- HVC.LOOP_V_O: 14_calibration.md R439, target. -/
def HVC.LOOP_V_O : Prm :=
  { blk := 4, num := 0x541, str := 4, wid := 32, sgn := true, lo := -2147483648, hi := 2147483647, iHi := 3 }

/-- HVC.LOOP_V_OP: 14_calibration.md R440, present value. -/
def HVC.LOOP_V_OP : Prm :=
  { blk := 4, num := 0x641, str := 4, wid := 32, sgn := true, acc := .ro, iHi := 3 }

/-- HVC.LOOP_V_K: 14_calibration.md R439, target. -/
def HVC.LOOP_V_K : Prm :=
  { blk := 4, num := 0x542, str := 4, wid := 32, sgn := true, lo := -2147483648, hi := 2147483647, iHi := 3 }

/-- HVC.LOOP_V_KP: 14_calibration.md R440, present value. -/
def HVC.LOOP_V_KP : Prm :=
  { blk := 4, num := 0x642, str := 4, wid := 32, sgn := true, acc := .ro, iHi := 3 }

/-- HVC.LOOP_I_G: 14_calibration.md R439, target. -/
def HVC.LOOP_I_G : Prm :=
  { blk := 4, num := 0x544, str := 4, wid := 32, hi := 4294967295, iHi := 3, rst := .c (0x40000000) }

/-- HVC.LOOP_I_GP: 14_calibration.md R440, present value. -/
def HVC.LOOP_I_GP : Prm :=
  { blk := 4, num := 0x644, str := 4, wid := 32, acc := .ro, iHi := 3, rst := .c (0x40000000) }

/-- HVC.LOOP_I_O: 14_calibration.md R439, target. -/
def HVC.LOOP_I_O : Prm :=
  { blk := 4, num := 0x545, str := 4, wid := 32, sgn := true, lo := -2147483648, hi := 2147483647, iHi := 3 }

/-- HVC.LOOP_I_OP: 14_calibration.md R440, present value. -/
def HVC.LOOP_I_OP : Prm :=
  { blk := 4, num := 0x645, str := 4, wid := 32, sgn := true, acc := .ro, iHi := 3 }

/-- HVC.LOOP_I_K: 14_calibration.md R439, target. -/
def HVC.LOOP_I_K : Prm :=
  { blk := 4, num := 0x546, str := 4, wid := 32, sgn := true, lo := -2147483648, hi := 2147483647, iHi := 3 }

/-- HVC.LOOP_I_KP: 14_calibration.md R440, present value. -/
def HVC.LOOP_I_KP : Prm :=
  { blk := 4, num := 0x646, str := 4, wid := 32, sgn := true, acc := .ro, iHi := 3 }

/-- PIN.STATE: 06_pin_electronics.md R208. -/
def PIN.STATE : Prm :=
  { blk := 5, num := 0x001, wid := 3, acc := .ro, iHi := 255 }

/-- PIN.STATIC: 06_pin_electronics.md R208. -/
def PIN.STATIC : Prm :=
  { blk := 5, num := 0x002, wid := 2, hi := 2, iHi := 255, rst := .c (2) }

/-- PIN.Z_MODE: 06_pin_electronics.md R208. -/
def PIN.Z_MODE : Prm :=
  { blk := 5, num := 0x003, wid := 2, hi := 2, iHi := 255 }

/-- PIN.VIH: 06_pin_electronics.md R208. -/
def PIN.VIH : Prm :=
  { blk := 5, num := 0x010, wid := 16, hi := 65535, iHi := 255, rst := .hs (12288) (32768) }

/-- PIN.VIL: 06_pin_electronics.md R208. -/
def PIN.VIL : Prm :=
  { blk := 5, num := 0x011, wid := 16, hi := 65535, iHi := 255, rst := .hs (12288) (32768) }

/-- PIN.VIT: 06_pin_electronics.md R208. -/
def PIN.VIT : Prm :=
  { blk := 5, num := 0x012, wid := 16, hi := 65535, iLo := 0, iHi := 191, rst := .c (12288) }

/-- PIN.VCOM: 06_pin_electronics.md R208. -/
def PIN.VCOM : Prm :=
  { blk := 5, num := 0x013, wid := 16, hi := 65535, iLo := 0, iHi := 191, rst := .c (12288) }

/-- PIN.ISRC: 06_pin_electronics.md R208. -/
def PIN.ISRC : Prm :=
  { blk := 5, num := 0x014, wid := 12, hi := 4000, iLo := 0, iHi := 191 }

/-- PIN.ISNK: 06_pin_electronics.md R208. -/
def PIN.ISNK : Prm :=
  { blk := 5, num := 0x015, wid := 12, hi := 4000, iLo := 0, iHi := 191 }

/-- PIN.SLEW: 06_pin_electronics.md R208. -/
def PIN.SLEW : Prm :=
  { blk := 5, num := 0x016, wid := 8, lo := 10, hi := 200, iLo := 192, iHi := 255, rst := .c (100) }

/-- PIN.OVL_TIME: 06_pin_electronics.md R208. -/
def PIN.OVL_TIME : Prm :=
  { blk := 5, num := 0x017, wid := 10, lo := 1, hi := 1000, iHi := 255, rst := .c (10) }

/-- PIN.VOH: 06_pin_electronics.md R208. -/
def PIN.VOH : Prm :=
  { blk := 5, num := 0x020, wid := 12, hi := 4095, iHi := 255, rst := .hs (768) (2048) }

/-- PIN.VOL: 06_pin_electronics.md R208. -/
def PIN.VOL : Prm :=
  { blk := 5, num := 0x021, wid := 12, hi := 4095, iHi := 255, rst := .hs (768) (2048) }

/-- PIN.CMPH_CTL: 06_pin_electronics.md R208. -/
def PIN.CMPH_CTL : Prm :=
  { blk := 5, num := 0x022, wid := 32, hi := 4294967295, iHi := 255, rst := .c (0x40130000) }

/-- PIN.CMPL_CTL: 06_pin_electronics.md R208. -/
def PIN.CMPL_CTL : Prm :=
  { blk := 5, num := 0x023, wid := 32, hi := 4294967295, iHi := 255, rst := .c (0x40130000) }

/-- PIN.CMP_STATE: 06_pin_electronics.md R208. -/
def PIN.CMP_STATE : Prm :=
  { blk := 5, num := 0x024, wid := 8, acc := .ro, iHi := 255 }

/-- PIN.PMU_EN: 06_pin_electronics.md R208. -/
def PIN.PMU_EN : Prm :=
  { blk := 5, num := 0x030, wid := 1, hi := 1, iHi := 255 }

/-- PIN.PMU_MODE: 06_pin_electronics.md R208. -/
def PIN.PMU_MODE : Prm :=
  { blk := 5, num := 0x031, wid := 1, hi := 1, iHi := 255 }

/-- PIN.PMU_IRANGE: 06_pin_electronics.md R208. -/
def PIN.PMU_IRANGE : Prm :=
  { blk := 5, num := 0x032, wid := 2, hi := 3, iHi := 255, rst := .c (3) }

/-- PIN.PMU_SET: 06_pin_electronics.md R208. -/
def PIN.PMU_SET : Prm :=
  { blk := 5, num := 0x033, wid := 16, sgn := true, lo := -32768, hi := 32767, iHi := 255 }

/-- PIN.PMU_VCL_HI: 06_pin_electronics.md R208. -/
def PIN.PMU_VCL_HI : Prm :=
  { blk := 5, num := 0x034, wid := 16, sgn := true, lo := -32768, hi := 32767, iHi := 255, rst := .hs (26000) (32000) }

/-- PIN.PMU_VCL_LO: 06_pin_electronics.md R208. -/
def PIN.PMU_VCL_LO : Prm :=
  { blk := 5, num := 0x035, wid := 16, sgn := true, lo := -32768, hi := 32767, iHi := 255, rst := .hs (-6000) (-32000) }

/-- PIN.ADC_SEL: 06_pin_electronics.md R208. -/
def PIN.ADC_SEL : Prm :=
  { blk := 5, num := 0x300, wid := 8, shr := .chip, hi := 255, iHi := 255 }

/-- PIN.ADC_GO: 06_pin_electronics.md R208. -/
def PIN.ADC_GO : Prm :=
  { blk := 5, num := 0x301, wid := 1, acc := .wo, shr := .chip, lo := 1, hi := 1, iHi := 255 }

/-- PIN.ADC_EV: 06_pin_electronics.md R208. -/
def PIN.ADC_EV : Prm :=
  { blk := 5, num := 0x302, wid := 8, shr := .chip, hi := 63, alt := some 255, iHi := 255, rst := .c (255) }

/-- PIN.ADC_DONE_EV: 06_pin_electronics.md R208. -/
def PIN.ADC_DONE_EV : Prm :=
  { blk := 5, num := 0x303, wid := 8, shr := .chip, hi := 63, alt := some 255, iHi := 255, rst := .c (255) }

/-- PIN.ACQ_TIME: 06_pin_electronics.md R208. -/
def PIN.ACQ_TIME : Prm :=
  { blk := 5, num := 0x304, wid := 16, shr := .chip, lo := 1, hi := 65535, iHi := 255, rst := .c (20) }

/-- PIN.ADC_RESULT: 06_pin_electronics.md R208. -/
def PIN.ADC_RESULT : Prm :=
  { blk := 5, num := 0x305, wid := 32, acc := .ro, shr := .chip, iHi := 255 }

/-- PIN.ADC_TIME: 06_pin_electronics.md R208. -/
def PIN.ADC_TIME : Prm :=
  { blk := 5, num := 0x306, wid := 64, acc := .ro, shr := .chip, iHi := 255 }

/-- PIN.ADC_OVERRUN: 06_pin_electronics.md R208. -/
def PIN.ADC_OVERRUN : Prm :=
  { blk := 5, num := 0x307, wid := 32, acc := .ro, shr := .chip, iHi := 255 }

/-- PIN.TDAC: 06_pin_electronics.md R208. -/
def PIN.TDAC : Prm :=
  { blk := 5, num := 0x308, wid := 12, shr := .chip, hi := 4095, iHi := 255, rst := .c (2048) }

/-- PIN.DRV_G: 14_calibration.md R439, target. -/
def PIN.DRV_G : Prm :=
  { blk := 5, num := 0x500, str := 4, wid := 32, hi := 4294967295, iHi := 255, rst := .c (0x40000000) }

/-- PIN.DRV_GP: 14_calibration.md R440, present value. -/
def PIN.DRV_GP : Prm :=
  { blk := 5, num := 0x600, str := 4, wid := 32, acc := .ro, iHi := 255, rst := .c (0x40000000) }

/-- PIN.DRV_O: 14_calibration.md R439, target. -/
def PIN.DRV_O : Prm :=
  { blk := 5, num := 0x501, str := 4, wid := 32, sgn := true, lo := -2147483648, hi := 2147483647, iHi := 255 }

/-- PIN.DRV_OP: 14_calibration.md R440, present value. -/
def PIN.DRV_OP : Prm :=
  { blk := 5, num := 0x601, str := 4, wid := 32, sgn := true, acc := .ro, iHi := 255 }

/-- PIN.DRV_K: 14_calibration.md R439, target. -/
def PIN.DRV_K : Prm :=
  { blk := 5, num := 0x502, str := 4, wid := 32, sgn := true, lo := -2147483648, hi := 2147483647, iHi := 255 }

/-- PIN.DRV_KP: 14_calibration.md R440, present value. -/
def PIN.DRV_KP : Prm :=
  { blk := 5, num := 0x602, str := 4, wid := 32, sgn := true, acc := .ro, iHi := 255 }

/-- PIN.CMP_G: 14_calibration.md R439, target. -/
def PIN.CMP_G : Prm :=
  { blk := 5, num := 0x504, str := 4, wid := 32, hi := 4294967295, iHi := 255, rst := .c (0x40000000) }

/-- PIN.CMP_GP: 14_calibration.md R440, present value. -/
def PIN.CMP_GP : Prm :=
  { blk := 5, num := 0x604, str := 4, wid := 32, acc := .ro, iHi := 255, rst := .c (0x40000000) }

/-- PIN.CMP_O: 14_calibration.md R439, target. -/
def PIN.CMP_O : Prm :=
  { blk := 5, num := 0x505, str := 4, wid := 32, sgn := true, lo := -2147483648, hi := 2147483647, iHi := 255 }

/-- PIN.CMP_OP: 14_calibration.md R440, present value. -/
def PIN.CMP_OP : Prm :=
  { blk := 5, num := 0x605, str := 4, wid := 32, sgn := true, acc := .ro, iHi := 255 }

/-- PIN.CMP_K: 14_calibration.md R439, target. -/
def PIN.CMP_K : Prm :=
  { blk := 5, num := 0x506, str := 4, wid := 32, sgn := true, lo := -2147483648, hi := 2147483647, iHi := 255 }

/-- PIN.CMP_KP: 14_calibration.md R440, present value. -/
def PIN.CMP_KP : Prm :=
  { blk := 5, num := 0x606, str := 4, wid := 32, sgn := true, acc := .ro, iHi := 255 }

/-- PIN.PMU_FV_G: 14_calibration.md R439, target. -/
def PIN.PMU_FV_G : Prm :=
  { blk := 5, num := 0x508, str := 4, wid := 32, hi := 4294967295, iHi := 255, rst := .c (0x40000000) }

/-- PIN.PMU_FV_GP: 14_calibration.md R440, present value. -/
def PIN.PMU_FV_GP : Prm :=
  { blk := 5, num := 0x608, str := 4, wid := 32, acc := .ro, iHi := 255, rst := .c (0x40000000) }

/-- PIN.PMU_FV_O: 14_calibration.md R439, target. -/
def PIN.PMU_FV_O : Prm :=
  { blk := 5, num := 0x509, str := 4, wid := 32, sgn := true, lo := -2147483648, hi := 2147483647, iHi := 255 }

/-- PIN.PMU_FV_OP: 14_calibration.md R440, present value. -/
def PIN.PMU_FV_OP : Prm :=
  { blk := 5, num := 0x609, str := 4, wid := 32, sgn := true, acc := .ro, iHi := 255 }

/-- PIN.PMU_FV_K: 14_calibration.md R439, target. -/
def PIN.PMU_FV_K : Prm :=
  { blk := 5, num := 0x50A, str := 4, wid := 32, sgn := true, lo := -2147483648, hi := 2147483647, iHi := 255 }

/-- PIN.PMU_FV_KP: 14_calibration.md R440, present value. -/
def PIN.PMU_FV_KP : Prm :=
  { blk := 5, num := 0x60A, str := 4, wid := 32, sgn := true, acc := .ro, iHi := 255 }

/-- PIN.PMU_MV_G: 14_calibration.md R439, target. -/
def PIN.PMU_MV_G : Prm :=
  { blk := 5, num := 0x50C, str := 4, wid := 32, hi := 4294967295, iHi := 255, rst := .c (0x40000000) }

/-- PIN.PMU_MV_GP: 14_calibration.md R440, present value. -/
def PIN.PMU_MV_GP : Prm :=
  { blk := 5, num := 0x60C, str := 4, wid := 32, acc := .ro, iHi := 255, rst := .c (0x40000000) }

/-- PIN.PMU_MV_O: 14_calibration.md R439, target. -/
def PIN.PMU_MV_O : Prm :=
  { blk := 5, num := 0x50D, str := 4, wid := 32, sgn := true, lo := -2147483648, hi := 2147483647, iHi := 255 }

/-- PIN.PMU_MV_OP: 14_calibration.md R440, present value. -/
def PIN.PMU_MV_OP : Prm :=
  { blk := 5, num := 0x60D, str := 4, wid := 32, sgn := true, acc := .ro, iHi := 255 }

/-- PIN.PMU_MV_K: 14_calibration.md R439, target. -/
def PIN.PMU_MV_K : Prm :=
  { blk := 5, num := 0x50E, str := 4, wid := 32, sgn := true, lo := -2147483648, hi := 2147483647, iHi := 255 }

/-- PIN.PMU_MV_KP: 14_calibration.md R440, present value. -/
def PIN.PMU_MV_KP : Prm :=
  { blk := 5, num := 0x60E, str := 4, wid := 32, sgn := true, acc := .ro, iHi := 255 }

/-- PIN.PMU_FI_G: 14_calibration.md R439, target. -/
def PIN.PMU_FI_G : Prm :=
  { blk := 5, num := 0x510, cnt := 4, str := 4, wid := 32, hi := 4294967295, iHi := 255, rst := .c (0x40000000) }

/-- PIN.PMU_FI_GP: 14_calibration.md R440, present value. -/
def PIN.PMU_FI_GP : Prm :=
  { blk := 5, num := 0x610, cnt := 4, str := 4, wid := 32, acc := .ro, iHi := 255, rst := .c (0x40000000) }

/-- PIN.PMU_FI_O: 14_calibration.md R439, target. -/
def PIN.PMU_FI_O : Prm :=
  { blk := 5, num := 0x511, cnt := 4, str := 4, wid := 32, sgn := true, lo := -2147483648, hi := 2147483647, iHi := 255 }

/-- PIN.PMU_FI_OP: 14_calibration.md R440, present value. -/
def PIN.PMU_FI_OP : Prm :=
  { blk := 5, num := 0x611, cnt := 4, str := 4, wid := 32, sgn := true, acc := .ro, iHi := 255 }

/-- PIN.PMU_FI_K: 14_calibration.md R439, target. -/
def PIN.PMU_FI_K : Prm :=
  { blk := 5, num := 0x512, cnt := 4, str := 4, wid := 32, sgn := true, lo := -2147483648, hi := 2147483647, iHi := 255 }

/-- PIN.PMU_FI_KP: 14_calibration.md R440, present value. -/
def PIN.PMU_FI_KP : Prm :=
  { blk := 5, num := 0x612, cnt := 4, str := 4, wid := 32, sgn := true, acc := .ro, iHi := 255 }

/-- PIN.PMU_MI_G: 14_calibration.md R439, target. -/
def PIN.PMU_MI_G : Prm :=
  { blk := 5, num := 0x520, cnt := 4, str := 4, wid := 32, hi := 4294967295, iHi := 255, rst := .c (0x40000000) }

/-- PIN.PMU_MI_GP: 14_calibration.md R440, present value. -/
def PIN.PMU_MI_GP : Prm :=
  { blk := 5, num := 0x620, cnt := 4, str := 4, wid := 32, acc := .ro, iHi := 255, rst := .c (0x40000000) }

/-- PIN.PMU_MI_O: 14_calibration.md R439, target. -/
def PIN.PMU_MI_O : Prm :=
  { blk := 5, num := 0x521, cnt := 4, str := 4, wid := 32, sgn := true, lo := -2147483648, hi := 2147483647, iHi := 255 }

/-- PIN.PMU_MI_OP: 14_calibration.md R440, present value. -/
def PIN.PMU_MI_OP : Prm :=
  { blk := 5, num := 0x621, cnt := 4, str := 4, wid := 32, sgn := true, acc := .ro, iHi := 255 }

/-- PIN.PMU_MI_K: 14_calibration.md R439, target. -/
def PIN.PMU_MI_K : Prm :=
  { blk := 5, num := 0x522, cnt := 4, str := 4, wid := 32, sgn := true, lo := -2147483648, hi := 2147483647, iHi := 255 }

/-- PIN.PMU_MI_KP: 14_calibration.md R440, present value. -/
def PIN.PMU_MI_KP : Prm :=
  { blk := 5, num := 0x622, cnt := 4, str := 4, wid := 32, sgn := true, acc := .ro, iHi := 255 }

/-- PIN.DSK_DRV: 14_calibration.md R439. -/
def PIN.DSK_DRV : Prm :=
  { blk := 5, num := 0x530, wid := 13, sgn := true, lo := -4095, hi := 4095, iHi := 255 }

/-- PIN.DSK_CMP: 14_calibration.md R439. -/
def PIN.DSK_CMP : Prm :=
  { blk := 5, num := 0x531, wid := 13, sgn := true, lo := -4095, hi := 4095, iHi := 255 }

/-- PIN.DSK_DRV_P: 14_calibration.md R440. -/
def PIN.DSK_DRV_P : Prm :=
  { blk := 5, num := 0x630, wid := 13, sgn := true, acc := .ro, iHi := 255 }

/-- PIN.DSK_CMP_P: 14_calibration.md R440. -/
def PIN.DSK_CMP_P : Prm :=
  { blk := 5, num := 0x631, wid := 13, sgn := true, acc := .ro, iHi := 255 }

/-- SEQ.STATE: 07_vector_sequencer.md R253. -/
def SEQ.STATE : Prm :=
  { blk := 6, num := 0x001, wid := 3, acc := .ro, iHi := 1 }

/-- SEQ.END_CAUSE: 07_vector_sequencer.md R253. -/
def SEQ.END_CAUSE : Prm :=
  { blk := 6, num := 0x002, wid := 3, acc := .ro, iHi := 1 }

/-- SEQ.RUN_SLOT: 07_vector_sequencer.md R253. -/
def SEQ.RUN_SLOT : Prm :=
  { blk := 6, num := 0x003, wid := 3, acc := .ro, iHi := 1, rst := .c (7) }

/-- SEQ.EV_START: 07_vector_sequencer.md R253. -/
def SEQ.EV_START : Prm :=
  { blk := 6, num := 0x004, wid := 8, hi := 63, alt := some 255, iHi := 1, rst := .c (255) }

/-- SEQ.EV_STOP: 07_vector_sequencer.md R253. -/
def SEQ.EV_STOP : Prm :=
  { blk := 6, num := 0x005, wid := 8, hi := 63, alt := some 255, iHi := 1, rst := .c (255) }

/-- SEQ.EV_FAIL: 07_vector_sequencer.md R253. -/
def SEQ.EV_FAIL : Prm :=
  { blk := 6, num := 0x006, wid := 8, hi := 63, alt := some 255, iHi := 1, rst := .c (255) }

/-- SEQ.EV_DONE: 07_vector_sequencer.md R253. -/
def SEQ.EV_DONE : Prm :=
  { blk := 6, num := 0x007, wid := 8, hi := 63, alt := some 255, iHi := 1, rst := .c (255) }

/-- SEQ.JUMP_LEAD: 07_vector_sequencer.md R253. -/
def SEQ.JUMP_LEAD : Prm :=
  { blk := 6, num := 0x008, wid := 8, acc := .ro, iHi := 1, rst := .c (32) }

/-- SEQ.PIN_SIZE: 07_vector_sequencer.md R253. -/
def SEQ.PIN_SIZE : Prm :=
  { blk := 6, num := 0x009, wid := 11, hi := 1024, iHi := 1, rst := .c (512) }

/-- SEQ.PRIME_DEPTH: 07_vector_sequencer.md R253. -/
def SEQ.PRIME_DEPTH : Prm :=
  { blk := 6, num := 0x00A, wid := 12, lo := 4, hi := 2048, iHi := 1, rst := .c (256) }

/-- SEQ.PAD_SEG: 07_vector_sequencer.md R253. -/
def SEQ.PAD_SEG : Prm :=
  { blk := 6, num := 0x00B, wid := 14, hi := 16383, iHi := 1 }

/-- SEQ.PAD_RESUME: 07_vector_sequencer.md R253. -/
def SEQ.PAD_RESUME : Prm :=
  { blk := 6, num := 0x00C, wid := 11, lo := 4, hi := 1024, iHi := 1, rst := .c (16) }

/-- SEQ.HOLD_STM: 07_vector_sequencer.md R253. -/
def SEQ.HOLD_STM : Prm :=
  { blk := 6, num := 0x00D, wid := 8, hi := 30, alt := some 255, iHi := 1, rst := .c (255) }

/-- SEQ.HS_DIV: 07_vector_sequencer.md R253. -/
def SEQ.HS_DIV : Prm :=
  { blk := 6, num := 0x00E, wid := 9, lo := 1, hi := 256, iLo := 1, iHi := 1, rst := .c (1) }

/-- SEQ.CAP_MODE: 07_vector_sequencer.md R253. -/
def SEQ.CAP_MODE : Prm :=
  { blk := 6, num := 0x00F, wid := 1, hi := 1, iHi := 1, rst := .c (1) }

/-- SEQ.CAP_FULL: 07_vector_sequencer.md R253. -/
def SEQ.CAP_FULL : Prm :=
  { blk := 6, num := 0x010, wid := 1, hi := 1, iHi := 1, rst := .c (1) }

/-- SEQ.CAP_NEXT: 07_vector_sequencer.md R253. -/
def SEQ.CAP_NEXT : Prm :=
  { blk := 6, num := 0x011, wid := 32, acc := .ro, iHi := 1 }

/-- SEQ.CAP_LOST: 07_vector_sequencer.md R253. -/
def SEQ.CAP_LOST : Prm :=
  { blk := 6, num := 0x012, wid := 32, acc := .ro, iHi := 1 }

/-- SEQ.CYCLE: 07_vector_sequencer.md R253. -/
def SEQ.CYCLE : Prm :=
  { blk := 6, num := 0x013, wid := 64, acc := .ro, iHi := 1 }

/-- SEQ.CUR_SEG: 07_vector_sequencer.md R253. -/
def SEQ.CUR_SEG : Prm :=
  { blk := 6, num := 0x014, wid := 14, acc := .ro, iHi := 1 }

/-- SEQ.CUR_PASS: 07_vector_sequencer.md R253. -/
def SEQ.CUR_PASS : Prm :=
  { blk := 6, num := 0x015, wid := 24, acc := .ro, iHi := 1 }

/-- SEQ.PAD_VECTORS: 07_vector_sequencer.md R253. -/
def SEQ.PAD_VECTORS : Prm :=
  { blk := 6, num := 0x016, wid := 64, acc := .ro, iHi := 1 }

/-- SEQ.RESUME_GAP: 07_vector_sequencer.md R253. -/
def SEQ.RESUME_GAP : Prm :=
  { blk := 6, num := 0x017, wid := 64, acc := .ro, iHi := 1 }

/-- SEQ.FAIL_COUNT: 07_vector_sequencer.md R253. -/
def SEQ.FAIL_COUNT : Prm :=
  { blk := 6, num := 0x018, wid := 64, acc := .ro, iHi := 1 }

/-- SEQ.JUMP_DROP: 07_vector_sequencer.md R253. -/
def SEQ.JUMP_DROP : Prm :=
  { blk := 6, num := 0x019, wid := 32, acc := .ro, iHi := 1 }

/-- SEQ.PARK_CYCLE: 07_vector_sequencer.md R253. -/
def SEQ.PARK_CYCLE : Prm :=
  { blk := 6, num := 0x01A, wid := 64, acc := .ro, iHi := 1 }

/-- SEQ.MARK_EV: 07_vector_sequencer.md R253. -/
def SEQ.MARK_EV : Prm :=
  { blk := 6, num := 0x020, cnt := 4, wid := 8, hi := 63, alt := some 255, iHi := 1, rst := .c (255) }

/-- SEQ.FMASK: 07_vector_sequencer.md R253. -/
def SEQ.FMASK : Prm :=
  { blk := 6, num := 0x030, cnt := 16, wid := 128, hi := 340282366920938463463374607431768211455, iHi := 1 }

/-- SEQ.SLOT_STATE: 07_vector_sequencer.md R253. -/
def SEQ.SLOT_STATE : Prm :=
  { blk := 6, num := 0x100, cnt := 4, str := 16, wid := 3, acc := .ro, iHi := 1 }

/-- SEQ.START_SEG: 07_vector_sequencer.md R253. -/
def SEQ.START_SEG : Prm :=
  { blk := 6, num := 0x101, cnt := 4, str := 16, wid := 14, hi := 16383, iHi := 1 }

/-- SEQ.PRIORITY: 07_vector_sequencer.md R253. -/
def SEQ.PRIORITY : Prm :=
  { blk := 6, num := 0x102, cnt := 4, str := 16, wid := 2, hi := 3, iHi := 1, rst := .c (3) }

/-- SEQ.START_AT: 07_vector_sequencer.md R253. -/
def SEQ.START_AT : Prm :=
  { blk := 6, num := 0x103, cnt := 4, str := 16, wid := 64, hi := 18446744073709551615, iHi := 1 }

/-- SEQ.PIN_FAILS: 07_vector_sequencer.md R253. -/
def SEQ.PIN_FAILS : Prm :=
  { blk := 6, num := 0x200, cnt := 128, wid := 32, acc := .ro, iHi := 1 }

/-- SEQ.MK_DSK: 14_calibration.md R439. -/
def SEQ.MK_DSK : Prm :=
  { blk := 6, num := 0x500, cnt := 4, wid := 13, sgn := true, lo := -4095, hi := 4095, iHi := 1 }

/-- SEQ.MK_DSK_P: 14_calibration.md R440. -/
def SEQ.MK_DSK_P : Prm :=
  { blk := 6, num := 0x600, cnt := 4, wid := 13, sgn := true, acc := .ro, iHi := 1 }

/-- TB.REF_SEL: 08_timebase.md R278. -/
def TB.REF_SEL : Prm :=
  { blk := 7, num := 0x001, wid := 1, hi := 1, iHi := 0 }

/-- TB.REF_FREQ: 08_timebase.md R278. -/
def TB.REF_FREQ : Prm :=
  { blk := 7, num := 0x002, wid := 32, lo := 10000000, hi := 200000000, iHi := 0, rst := .c (100000000) }

/-- TB.REF_COND: 08_timebase.md R278. -/
def TB.REF_COND : Prm :=
  { blk := 7, num := 0x003, wid := 2, hi := 2, iHi := 0 }

/-- TB.FB_DIV: 08_timebase.md R278. -/
def TB.FB_DIV : Prm :=
  { blk := 7, num := 0x004, wid := 12, lo := 32, hi := 2048, iHi := 0, rst := .c (128) }

/-- TB.CP_I: 08_timebase.md R278. -/
def TB.CP_I : Prm :=
  { blk := 7, num := 0x005, wid := 3, hi := 7, iHi := 0, rst := .c (3) }

/-- TB.LOCK_WIN: 08_timebase.md R278. -/
def TB.LOCK_WIN : Prm :=
  { blk := 7, num := 0x006, wid := 6, lo := 1, hi := 32, iHi := 0, rst := .c (4) }

/-- TB.LOCK_N: 08_timebase.md R278. -/
def TB.LOCK_N : Prm :=
  { blk := 7, num := 0x007, wid := 13, lo := 16, hi := 4096, iHi := 0, rst := .c (256) }

/-- TB.A_REF_SEL: 08_timebase.md R278. -/
def TB.A_REF_SEL : Prm :=
  { blk := 7, num := 0x101, wid := 1, acc := .ro, iHi := 0 }

/-- TB.A_REF_FREQ: 08_timebase.md R278. -/
def TB.A_REF_FREQ : Prm :=
  { blk := 7, num := 0x102, wid := 32, acc := .ro, iHi := 0, rst := .c (100000000) }

/-- TB.A_REF_COND: 08_timebase.md R278. -/
def TB.A_REF_COND : Prm :=
  { blk := 7, num := 0x103, wid := 2, acc := .ro, iHi := 0 }

/-- TB.A_FB_DIV: 08_timebase.md R278. -/
def TB.A_FB_DIV : Prm :=
  { blk := 7, num := 0x104, wid := 12, acc := .ro, iHi := 0, rst := .c (128) }

/-- TB.A_CP_I: 08_timebase.md R278. -/
def TB.A_CP_I : Prm :=
  { blk := 7, num := 0x105, wid := 3, acc := .ro, iHi := 0, rst := .c (3) }

/-- TB.A_LOCK_WIN: 08_timebase.md R278. -/
def TB.A_LOCK_WIN : Prm :=
  { blk := 7, num := 0x106, wid := 6, acc := .ro, iHi := 0, rst := .c (4) }

/-- TB.A_LOCK_N: 08_timebase.md R278. -/
def TB.A_LOCK_N : Prm :=
  { blk := 7, num := 0x107, wid := 13, acc := .ro, iHi := 0, rst := .c (256) }

/-- TB.COAST_BUDGET: 08_timebase.md R278. -/
def TB.COAST_BUDGET : Prm :=
  { blk := 7, num := 0x010, wid := 14, hi := 10000, iHi := 0, rst := .c (100) }

/-- TB.REF_QUAL: 08_timebase.md R278. -/
def TB.REF_QUAL : Prm :=
  { blk := 7, num := 0x011, wid := 14, lo := 1, hi := 10000, iHi := 0, rst := .c (100) }

/-- TB.AUTO_RELOCK: 08_timebase.md R278. -/
def TB.AUTO_RELOCK : Prm :=
  { blk := 7, num := 0x012, wid := 1, hi := 1, iHi := 0, rst := .c (1) }

/-- TB.LOCK_TIMEOUT: 08_timebase.md R278. -/
def TB.LOCK_TIMEOUT : Prm :=
  { blk := 7, num := 0x013, wid := 14, lo := 10, hi := 10000, iHi := 0, rst := .c (100) }

/-- TB.EV_LOCK: 08_timebase.md R278. -/
def TB.EV_LOCK : Prm :=
  { blk := 7, num := 0x014, wid := 8, hi := 63, alt := some 255, iHi := 0, rst := .c (255) }

/-- TB.EV_UNLOCK: 08_timebase.md R278. -/
def TB.EV_UNLOCK : Prm :=
  { blk := 7, num := 0x015, wid := 8, hi := 63, alt := some 255, iHi := 0, rst := .c (255) }

/-- TB.EV_EXPIRE: 08_timebase.md R278. -/
def TB.EV_EXPIRE : Prm :=
  { blk := 7, num := 0x016, wid := 8, hi := 63, alt := some 255, iHi := 0, rst := .c (255) }

/-- TB.STATE: 08_timebase.md R278. -/
def TB.STATE : Prm :=
  { blk := 7, num := 0x020, wid := 3, acc := .ro, iHi := 0 }

/-- TB.RECOVERY: 08_timebase.md R278. -/
def TB.RECOVERY : Prm :=
  { blk := 7, num := 0x021, wid := 1, acc := .ro, iHi := 0 }

/-- TB.BUDGET_OUT: 08_timebase.md R278. -/
def TB.BUDGET_OUT : Prm :=
  { blk := 7, num := 0x022, wid := 1, acc := .ro, iHi := 0 }

/-- TB.VCO_BAND: 08_timebase.md R278. -/
def TB.VCO_BAND : Prm :=
  { blk := 7, num := 0x023, wid := 5, acc := .ro, iHi := 0 }

/-- TB.PHASE_ERR: 08_timebase.md R278. -/
def TB.PHASE_ERR : Prm :=
  { blk := 7, num := 0x024, wid := 16, sgn := true, acc := .ro, iHi := 0 }

/-- TB.F_MASTER: 08_timebase.md R278. -/
def TB.F_MASTER : Prm :=
  { blk := 7, num := 0x025, wid := 32, acc := .ro, iHi := 0, rst := .c (1600000000) }

/-- TB.PHASE_OFS: 08_timebase.md R278. -/
def TB.PHASE_OFS : Prm :=
  { blk := 7, num := 0x026, wid := 64, sgn := true, acc := .ro, iHi := 0 }

/-- TB.TIME_OWNER: 08_timebase.md R278. -/
def TB.TIME_OWNER : Prm :=
  { blk := 7, num := 0x027, wid := 1, acc := .ro, iHi := 0 }

/-- TB.GUARD_BLOCK: 08_timebase.md R278. -/
def TB.GUARD_BLOCK : Prm :=
  { blk := 7, num := 0x028, wid := 32, acc := .ro, iHi := 0 }

/-- TB.COAST_START: 08_timebase.md R278. -/
def TB.COAST_START : Prm :=
  { blk := 7, num := 0x029, wid := 64, acc := .ro, iHi := 0 }

/-- TB.SYSTIME_NS: 08_timebase.md R278. -/
def TB.SYSTIME_NS : Prm :=
  { blk := 7, num := 0x030, wid := 64, acc := .ro, iHi := 0 }

/-- TB.SYSTIME_FRAC: 08_timebase.md R278. -/
def TB.SYSTIME_FRAC : Prm :=
  { blk := 7, num := 0x031, wid := 16, acc := .ro, iHi := 0 }

/-- EVF.MODE: 09_event_fabric.md R310. -/
def EVF.MODE : Prm :=
  { blk := 8, num := 0x001, wid := 2, acc := .ro, iHi := 0 }

/-- EVF.GRP_EN: 09_event_fabric.md R310. -/
def EVF.GRP_EN : Prm :=
  { blk := 8, num := 0x002, wid := 8, hi := 255, iHi := 0, rst := .c (255) }

/-- EVF.CH_SEEN: 09_event_fabric.md R310. -/
def EVF.CH_SEEN : Prm :=
  { blk := 8, num := 0x003, wid := 64, acc := .w1c, hi := 18446744073709551615, iHi := 0 }

/-- EVF.LOOP_CEIL: 09_event_fabric.md R310. -/
def EVF.LOOP_CEIL : Prm :=
  { blk := 8, num := 0x004, wid := 16, lo := 1, hi := 65535, iHi := 0, rst := .c (100) }

/-- EVF.LOOP_CH: 09_event_fabric.md R310. -/
def EVF.LOOP_CH : Prm :=
  { blk := 8, num := 0x005, wid := 8, acc := .ro, iHi := 0, rst := .c (255) }

/-- EVF.LOG_MASK: 09_event_fabric.md R310. -/
def EVF.LOG_MASK : Prm :=
  { blk := 8, num := 0x006, wid := 64, hi := 18446744073709551615, iHi := 0 }

/-- EVF.SEV_ALIGN: 09_event_fabric.md R310. -/
def EVF.SEV_ALIGN : Prm :=
  { blk := 8, num := 0x007, wid := 16, lo := 64, hi := 65535, iHi := 0, rst := .c (3100) }

/-- EVF.SUSPENDED: 09_event_fabric.md R310. -/
def EVF.SUSPENDED : Prm :=
  { blk := 8, num := 0x008, wid := 16, acc := .ro, iHi := 0 }

/-- EVF.GRP_EN_EV: 09_event_fabric.md R310. -/
def EVF.GRP_EN_EV : Prm :=
  { blk := 8, num := 0x010, cnt := 8, wid := 8, hi := 63, alt := some 255, iHi := 0, rst := .c (255) }

/-- EVF.GRP_DIS_EV: 09_event_fabric.md R310. -/
def EVF.GRP_DIS_EV : Prm :=
  { blk := 8, num := 0x018, cnt := 8, wid := 8, hi := 63, alt := some 255, iHi := 0, rst := .c (255) }

/-- EVF.TICK_PERIOD: 09_event_fabric.md R310. -/
def EVF.TICK_PERIOD : Prm :=
  { blk := 8, num := 0x020, cnt := 8, wid := 32, hi := 4294967295, iHi := 0 }

/-- EVF.TICK_PHASE: 09_event_fabric.md R310. -/
def EVF.TICK_PHASE : Prm :=
  { blk := 8, num := 0x028, cnt := 8, wid := 32, hi := 4294967295, iHi := 0 }

/-- EVF.TICK_EV: 09_event_fabric.md R310. -/
def EVF.TICK_EV : Prm :=
  { blk := 8, num := 0x030, cnt := 8, wid := 8, hi := 63, alt := some 255, iHi := 0, rst := .c (255) }

/-- EVF.TRIG_CTL: 09_event_fabric.md R310. -/
def EVF.TRIG_CTL : Prm :=
  { blk := 8, num := 0x038, cnt := 8, wid := 32, hi := 4294967295, iHi := 0, rst := .c (1) }

/-- EVF.SEV_OUT: 09_event_fabric.md R310. -/
def EVF.SEV_OUT : Prm :=
  { blk := 8, num := 0x040, cnt := 16, wid := 8, hi := 63, alt := some 255, iHi := 0, rst := .c (255) }

/-- EVF.SEV_IN: 09_event_fabric.md R310. -/
def EVF.SEV_IN : Prm :=
  { blk := 8, num := 0x050, cnt := 16, wid := 8, hi := 63, alt := some 255, iHi := 0, rst := .c (255) }

/-- EVF.CU_EV: 09_event_fabric.md R310. -/
def EVF.CU_EV : Prm :=
  { blk := 8, num := 0x060, cnt := 16, wid := 8, hi := 63, alt := some 255, iHi := 0, rst := .c (255) }

/-- EVF.CU_LEVEL: 09_event_fabric.md R310. -/
def EVF.CU_LEVEL : Prm :=
  { blk := 8, num := 0x070, cnt := 16, wid := 5, acc := .ro, iHi := 0 }

/-- EVF.EDDY_IN: 09_event_fabric.md R310. -/
def EVF.EDDY_IN : Prm :=
  { blk := 8, num := 0x080, cnt := 32, wid := 32, hi := 4294967295, iHi := 0 }

/-- EVF.EDDY_CTL: 09_event_fabric.md R310. -/
def EVF.EDDY_CTL : Prm :=
  { blk := 8, num := 0x0A0, cnt := 32, wid := 32, hi := 4294967295, iHi := 0 }

/-- EVF.EDDY_STATE: 09_event_fabric.md R310. -/
def EVF.EDDY_STATE : Prm :=
  { blk := 8, num := 0x0C0, cnt := 32, wid := 6, acc := .ro, iHi := 0 }

/-- EVF.HOLDOFF: 09_event_fabric.md R310. -/
def EVF.HOLDOFF : Prm :=
  { blk := 8, num := 0x100, cnt := 64, wid := 8, hi := 255, iHi := 0, rst := .c (4) }

/-- EVF.CH_COUNT: 09_event_fabric.md R310. -/
def EVF.CH_COUNT : Prm :=
  { blk := 8, num := 0x140, cnt := 64, wid := 32, acc := .ro, iHi := 0 }

/-- EVF.CH_DROP: 09_event_fabric.md R310. -/
def EVF.CH_DROP : Prm :=
  { blk := 8, num := 0x180, cnt := 64, wid := 32, acc := .ro, iHi := 0 }

/-- EVF.SEV_STAT: 09_event_fabric.md R310. -/
def EVF.SEV_STAT : Prm :=
  { blk := 8, num := 0x1C0, cnt := 16, wid := 32, acc := .ro, iHi := 0 }

/-- EVF.CONS_STAT: 09_event_fabric.md R310. -/
def EVF.CONS_STAT : Prm :=
  { blk := 8, num := 0x400, cnt := 328, wid := 32, acc := .w1c, hi := 4294967295, iHi := 0 }

/-- STM.STATE: 12_streams_and_translation.md R408. -/
def STM.STATE : Prm :=
  { blk := 9, num := 0x001, wid := 3, acc := .ro, iHi := 31 }

/-- STM.HOLD_STATE: 12_streams_and_translation.md R408. -/
def STM.HOLD_STATE : Prm :=
  { blk := 9, num := 0x002, wid := 1, acc := .ro, iHi := 31 }

/-- STM.SRC_GROUPS: 12_streams_and_translation.md R408. -/
def STM.SRC_GROUPS : Prm :=
  { blk := 9, num := 0x003, wid := 17, hi := 131071, iHi := 31 }

/-- STM.POLICY: 12_streams_and_translation.md R408. -/
def STM.POLICY : Prm :=
  { blk := 9, num := 0x004, wid := 1, hi := 1, iHi := 31 }

/-- STM.QUOTA: 12_streams_and_translation.md R408. -/
def STM.QUOTA : Prm :=
  { blk := 9, num := 0x005, wid := 13, acc := .ro, iHi := 31, rst := .st31 0 16 }

/-- STM.HOLD_FREE: 12_streams_and_translation.md R408. -/
def STM.HOLD_FREE : Prm :=
  { blk := 9, num := 0x006, wid := 16, lo := 1, hi := 65535, iHi := 31, rst := .c (64) }

/-- STM.RESUME_FREE: 12_streams_and_translation.md R408. -/
def STM.RESUME_FREE : Prm :=
  { blk := 9, num := 0x007, wid := 18, lo := 1, hi := 131072, iHi := 31, rst := .c (128) }

/-- STM.PRIORITY: 12_streams_and_translation.md R408. -/
def STM.PRIORITY : Prm :=
  { blk := 9, num := 0x008, wid := 2, hi := 3, iHi := 31, rst := .c (2) }

/-- STM.CTX: 12_streams_and_translation.md R408. -/
def STM.CTX : Prm :=
  { blk := 9, num := 0x009, wid := 6, hi := 63, iHi := 31, rst := .inst }

/-- STM.MAX_AGE: 12_streams_and_translation.md R408. -/
def STM.MAX_AGE : Prm :=
  { blk := 9, num := 0x00A, wid := 16, hi := 65535, iHi := 31 }

/-- STM.MARK_EV: 12_streams_and_translation.md R408. -/
def STM.MARK_EV : Prm :=
  { blk := 9, num := 0x00B, wid := 8, hi := 63, alt := some 255, iHi := 31, rst := .c (255) }

/-- STM.EV_FILL: 12_streams_and_translation.md R408. -/
def STM.EV_FILL : Prm :=
  { blk := 9, num := 0x00C, wid := 8, hi := 63, alt := some 255, iHi := 31, rst := .c (255) }

/-- STM.FILL_THR: 12_streams_and_translation.md R408. -/
def STM.FILL_THR : Prm :=
  { blk := 9, num := 0x00D, wid := 21, lo := 1, hi := 1048576, iHi := 31, rst := .c (1024) }

/-- STM.EV_CALM: 12_streams_and_translation.md R408. -/
def STM.EV_CALM : Prm :=
  { blk := 9, num := 0x00E, wid := 8, hi := 63, alt := some 255, iHi := 31, rst := .c (255) }

/-- STM.IRQ_EN: 12_streams_and_translation.md R408. -/
def STM.IRQ_EN : Prm :=
  { blk := 9, num := 0x00F, wid := 1, hi := 1, iHi := 31 }

/-- STM.VECTOR: 12_streams_and_translation.md R408. -/
def STM.VECTOR : Prm :=
  { blk := 9, num := 0x010, wid := 6, hi := 63, iHi := 31 }

/-- STM.IRQ_BLOCKS: 12_streams_and_translation.md R408. -/
def STM.IRQ_BLOCKS : Prm :=
  { blk := 9, num := 0x011, wid := 16, lo := 1, hi := 65535, iHi := 31, rst := .c (1) }

/-- STM.NOTICE_SQ: 12_streams_and_translation.md R408. -/
def STM.NOTICE_SQ : Prm :=
  { blk := 9, num := 0x012, wid := 7, hi := 63, alt := some 127, iHi := 31, rst := .c (127) }

/-- STM.RING_BASE: 12_streams_and_translation.md R408. -/
def STM.RING_BASE : Prm :=
  { blk := 9, num := 0x020, wid := 64, acc := .ro, iHi := 31 }

/-- STM.RING_BLOCKS: 12_streams_and_translation.md R408. -/
def STM.RING_BLOCKS : Prm :=
  { blk := 9, num := 0x021, wid := 21, acc := .ro, iHi := 31 }

/-- STM.WIDX_ADDR: 12_streams_and_translation.md R408. -/
def STM.WIDX_ADDR : Prm :=
  { blk := 9, num := 0x022, wid := 64, acc := .ro, iHi := 31 }

/-- STM.WR_IDX: 12_streams_and_translation.md R408. -/
def STM.WR_IDX : Prm :=
  { blk := 9, num := 0x023, wid := 32, acc := .ro, iHi := 31 }

/-- STM.RD_IDX: 12_streams_and_translation.md R408. -/
def STM.RD_IDX : Prm :=
  { blk := 9, num := 0x024, wid := 32, acc := .ro, iHi := 31 }

/-- STM.BLOCK_SEQ: 12_streams_and_translation.md R408. -/
def STM.BLOCK_SEQ : Prm :=
  { blk := 9, num := 0x025, wid := 32, acc := .ro, iHi := 31 }

/-- STM.LOCAL_BLOCKS: 12_streams_and_translation.md R408. -/
def STM.LOCAL_BLOCKS : Prm :=
  { blk := 9, num := 0x026, wid := 21, acc := .ro, iHi := 31 }

/-- STM.LOST: 12_streams_and_translation.md R408. -/
def STM.LOST : Prm :=
  { blk := 9, num := 0x027, wid := 32, acc := .ro, iHi := 31 }

/-- STM.FAULT_ADDR: 12_streams_and_translation.md R408. -/
def STM.FAULT_ADDR : Prm :=
  { blk := 9, num := 0x028, wid := 64, acc := .ro, iHi := 31 }

/-- XLT.MODE: 12_streams_and_translation.md R409. -/
def XLT.MODE : Prm :=
  { blk := 10, num := 0x001, wid := 2, hi := 2, iHi := 63 }

/-- XLT.ROOT: 12_streams_and_translation.md R409. -/
def XLT.ROOT : Prm :=
  { blk := 10, num := 0x002, wid := 64, hi := 18446744073709551615, iHi := 63 }

/-- XLT.PASID: 12_streams_and_translation.md R409. -/
def XLT.PASID : Prm :=
  { blk := 10, num := 0x003, wid := 20, hi := 1048575, iHi := 63 }

/-- XLT.PASID_EN: 12_streams_and_translation.md R409. -/
def XLT.PASID_EN : Prm :=
  { blk := 10, num := 0x004, wid := 1, hi := 1, iHi := 63 }

/-- XLT.PRI_EN: 12_streams_and_translation.md R409. -/
def XLT.PRI_EN : Prm :=
  { blk := 10, num := 0x005, wid := 1, hi := 1, iHi := 63 }

/-- XLT.FAULT_COUNT: 12_streams_and_translation.md R409. -/
def XLT.FAULT_COUNT : Prm :=
  { blk := 10, num := 0x006, wid := 32, acc := .ro, iHi := 63 }

/-- XLT.FAULT_ADDR: 12_streams_and_translation.md R409. -/
def XLT.FAULT_ADDR : Prm :=
  { blk := 10, num := 0x007, wid := 64, acc := .ro, iHi := 63 }

/-- XLT.TLB_MISSES: 12_streams_and_translation.md R409. -/
def XLT.TLB_MISSES : Prm :=
  { blk := 10, num := 0x300, wid := 64, acc := .ro, shr := .module, iHi := 63 }

/-- MSH.ENUM_STATE: 13_mesh.md R435. -/
def MSH.ENUM_STATE : Prm :=
  { blk := 11, num := 0x001, wid := 2, acc := .ro, iLo := 0, iHi := 0 }

/-- MSH.NODE_ID: 13_mesh.md R435. -/
def MSH.NODE_ID : Prm :=
  { blk := 11, num := 0x002, wid := 14, acc := .ro, iLo := 0, iHi := 0, rst := .c (16383) }

/-- MSH.GENERATION: 13_mesh.md R435. -/
def MSH.GENERATION : Prm :=
  { blk := 11, num := 0x003, wid := 16, acc := .ro, iLo := 0, iHi := 0 }

/-- MSH.HOPS: 13_mesh.md R435. -/
def MSH.HOPS : Prm :=
  { blk := 11, num := 0x004, wid := 6, acc := .ro, iLo := 0, iHi := 0 }

/-- MSH.TREE: 13_mesh.md R435. -/
def MSH.TREE : Prm :=
  { blk := 11, num := 0x005, wid := 8, acc := .ro, iLo := 0, iHi := 0 }

/-- MSH.MEMBERS: 13_mesh.md R435. -/
def MSH.MEMBERS : Prm :=
  { blk := 11, num := 0x006, wid := 14, acc := .ro, iLo := 0, iHi := 0 }

/-- MSH.DIAMETER: 13_mesh.md R435. -/
def MSH.DIAMETER : Prm :=
  { blk := 11, num := 0x007, wid := 8, acc := .ro, iLo := 0, iHi := 0 }

/-- MSH.SYNC_STATE: 13_mesh.md R435. -/
def MSH.SYNC_STATE : Prm :=
  { blk := 11, num := 0x010, wid := 2, acc := .ro, iLo := 0, iHi := 0 }

/-- MSH.SYNC_OFFSET: 13_mesh.md R435. -/
def MSH.SYNC_OFFSET : Prm :=
  { blk := 11, num := 0x011, wid := 32, sgn := true, acc := .ro, iLo := 0, iHi := 0 }

/-- MSH.SYNC_FREQ: 13_mesh.md R435. -/
def MSH.SYNC_FREQ : Prm :=
  { blk := 11, num := 0x012, wid := 32, sgn := true, acc := .ro, iLo := 0, iHi := 0 }

/-- MSH.FWD_STREAMS: 13_mesh.md R435. -/
def MSH.FWD_STREAMS : Prm :=
  { blk := 11, num := 0x013, wid := 32, acc := .ro, iLo := 0, iHi := 0 }

/-- MSH.PORT_STATE: 13_mesh.md R435. -/
def MSH.PORT_STATE : Prm :=
  { blk := 11, num := 0x001, wid := 3, acc := .ro, iLo := 1, iHi := 4, rst := .c (1) }

/-- MSH.PORT_EN: 13_mesh.md R435. -/
def MSH.PORT_EN : Prm :=
  { blk := 11, num := 0x002, wid := 1, hi := 1, iLo := 1, iHi := 4, rst := .c (1) }

/-- MSH.LANES: 13_mesh.md R435. -/
def MSH.LANES : Prm :=
  { blk := 11, num := 0x003, wid := 3, acc := .ro, iLo := 1, iHi := 4 }

/-- MSH.DELAY: 13_mesh.md R435. -/
def MSH.DELAY : Prm :=
  { blk := 11, num := 0x004, wid := 16, acc := .ro, iLo := 1, iHi := 4 }

/-- MSH.PEER: 13_mesh.md R435. -/
def MSH.PEER : Prm :=
  { blk := 11, num := 0x005, wid := 64, acc := .ro, iLo := 1, iHi := 4 }

/-- MSH.CRC_ERR: 13_mesh.md R435. -/
def MSH.CRC_ERR : Prm :=
  { blk := 11, num := 0x006, wid := 32, acc := .ro, iLo := 1, iHi := 4 }

/-- MSH.SEV_LOST: 13_mesh.md R435. -/
def MSH.SEV_LOST : Prm :=
  { blk := 11, num := 0x007, wid := 32, acc := .ro, iLo := 1, iHi := 4 }

/-- MSH.LB_RESULT: 13_mesh.md R435. -/
def MSH.LB_RESULT : Prm :=
  { blk := 11, num := 0x008, wid := 32, acc := .ro, iLo := 1, iHi := 4 }

/-- CAL.COEF_SLEW: 14_calibration.md R458. -/
def CAL.COEF_SLEW : Prm :=
  { blk := 12, num := 0x001, wid := 16, lo := 1, hi := 65535, iHi := 0, rst := .c (10) }

/-- CAL.RAMPING: 14_calibration.md R458. -/
def CAL.RAMPING : Prm :=
  { blk := 12, num := 0x002, wid := 16, acc := .ro, iHi := 0 }

/-- CAL.EV_DONE: 14_calibration.md R458. -/
def CAL.EV_DONE : Prm :=
  { blk := 12, num := 0x003, wid := 8, hi := 63, alt := some 255, iHi := 0, rst := .c (255) }

/-- CAL.SYS_STATE: 14_calibration.md R458. -/
def CAL.SYS_STATE : Prm :=
  { blk := 12, num := 0x004, wid := 1, acc := .ro, iHi := 0 }

/-- CAL.SYS_SET: 14_calibration.md R458. -/
def CAL.SYS_SET : Prm :=
  { blk := 12, num := 0x005, wid := 32, acc := .ro, iHi := 0 }

/-- CAL.SYS_R0: 14_calibration.md R458. -/
def CAL.SYS_R0 : Prm :=
  { blk := 12, num := 0x006, wid := 32, sgn := true, acc := .ro, iHi := 0 }

/-- CAL.SAT_LAST: 14_calibration.md R458. -/
def CAL.SAT_LAST : Prm :=
  { blk := 12, num := 0x007, wid := 32, acc := .ro, iHi := 0 }

/-- CAL.SAT_COUNT: 14_calibration.md R458. -/
def CAL.SAT_COUNT : Prm :=
  { blk := 12, num := 0x008, wid := 32, acc := .ro, iHi := 0 }

/-- CAL.CLIP_COUNT: 14_calibration.md R458. -/
def CAL.CLIP_COUNT : Prm :=
  { blk := 12, num := 0x009, wid := 32, acc := .ro, iHi := 0 }

/-- CAL.ZREF_A: 14_calibration.md R458. -/
def CAL.ZREF_A : Prm :=
  { blk := 12, num := 0x010, wid := 32, sgn := true, lo := -2147483648, hi := 2147483647, iHi := 0, rst := .c (7000000) }

/-- CAL.ZREF_B: 14_calibration.md R458. -/
def CAL.ZREF_B : Prm :=
  { blk := 12, num := 0x011, wid := 32, sgn := true, lo := -2147483648, hi := 2147483647, iHi := 0, rst := .c (-7000000) }

/-- CAL.DIV_2: 14_calibration.md R458. -/
def CAL.DIV_2 : Prm :=
  { blk := 12, num := 0x012, wid := 32, hi := 4294967295, iHi := 0, rst := .c (0x20000000) }

/-- CAL.DIV_8: 14_calibration.md R458. -/
def CAL.DIV_8 : Prm :=
  { blk := 12, num := 0x013, wid := 32, hi := 4294967295, iHi := 0, rst := .c (0x08000000) }

/-- CAL.DIV_HV: 14_calibration.md R458. -/
def CAL.DIV_HV : Prm :=
  { blk := 12, num := 0x014, wid := 32, hi := 4294967295, iHi := 0, rst := .c (0x02000000) }

/-- CAL.R_1G: 14_calibration.md R458. -/
def CAL.R_1G : Prm :=
  { blk := 12, num := 0x015, wid := 32, hi := 4294967295, iHi := 0, rst := .c (1000000) }

/-- CAL.R_10M: 14_calibration.md R458. -/
def CAL.R_10M : Prm :=
  { blk := 12, num := 0x016, wid := 32, hi := 4294967295, iHi := 0, rst := .c (1000000) }

/-- CAL.REF_TRACK_PERIOD: 14_calibration.md R458. -/
def CAL.REF_TRACK_PERIOD : Prm :=
  { blk := 12, num := 0x020, wid := 12, lo := 1, hi := 3600, iHi := 0, rst := .c (60) }

/-- CAL.REF_DRIFT_LIM: 14_calibration.md R458. -/
def CAL.REF_DRIFT_LIM : Prm :=
  { blk := 12, num := 0x021, wid := 10, lo := 1, hi := 1000, iHi := 0, rst := .c (20) }

/-- CAL.REF_RATIO: 14_calibration.md R458. -/
def CAL.REF_RATIO : Prm :=
  { blk := 12, num := 0x022, wid := 32, sgn := true, acc := .ro, iHi := 0 }

/-- CAL.TEMP_LIM: 14_calibration.md R458. -/
def CAL.TEMP_LIM : Prm :=
  { blk := 12, num := 0x023, wid := 9, lo := 1, hi := 500, iHi := 0, rst := .c (50) }

/-- CAL.SELF_TEMP: 14_calibration.md R458. -/
def CAL.SELF_TEMP : Prm :=
  { blk := 12, num := 0x024, wid := 16, sgn := true, acc := .ro, iHi := 0 }

/-- CAL.SELF_TIME: 14_calibration.md R458. -/
def CAL.SELF_TIME : Prm :=
  { blk := 12, num := 0x025, wid := 64, acc := .ro, iHi := 0 }

/-- VANE.LOG_HEAD: 16_vane.md R512. -/
def VANE.LOG_HEAD : Prm :=
  { blk := 13, num := 0x001, wid := 48, acc := .ro, keep := true, iHi := 0, rst := .c (2) }

/-- VANE.LOG_FLUSHED: 16_vane.md R512. -/
def VANE.LOG_FLUSHED : Prm :=
  { blk := 13, num := 0x002, wid := 48, acc := .ro, keep := true, iHi := 0, rst := .c (2) }

/-- VANE.LOG_OLDEST: 16_vane.md R512. -/
def VANE.LOG_OLDEST : Prm :=
  { blk := 13, num := 0x003, wid := 48, acc := .ro, keep := true, iHi := 0, rst := .c (8192) }

/-- VANE.LOG_INIT_SEQ: 16_vane.md R512. -/
def VANE.LOG_INIT_SEQ : Prm :=
  { blk := 13, num := 0x004, wid := 48, acc := .ro, keep := true, iHi := 0 }

/-- VANE.LOG_BUF_LEVEL: 16_vane.md R512. -/
def VANE.LOG_BUF_LEVEL : Prm :=
  { blk := 13, num := 0x005, wid := 11, acc := .ro, iHi := 0 }

/-- VANE.LOG_LOST: 16_vane.md R512. -/
def VANE.LOG_LOST : Prm :=
  { blk := 13, num := 0x006, wid := 32, acc := .ro, iHi := 0 }

/-- VANE.LOG_MEDIA_FAIL: 16_vane.md R512. -/
def VANE.LOG_MEDIA_FAIL : Prm :=
  { blk := 13, num := 0x007, wid := 1, acc := .ro, iHi := 0 }

/-- VANE.FW_STATE: 16_vane.md R512. -/
def VANE.FW_STATE : Prm :=
  { blk := 13, num := 0x010, wid := 2, acc := .ro, iHi := 0 }

/-- VANE.FW_SV: 16_vane.md R512. -/
def VANE.FW_SV : Prm :=
  { blk := 13, num := 0x011, wid := 7, acc := .ro, keep := true, iHi := 0 }

/-- VANE.FW_ACT_WAIT: 16_vane.md R512. -/
def VANE.FW_ACT_WAIT : Prm :=
  { blk := 13, num := 0x012, wid := 16, lo := 100, hi := 60000, iHi := 0, rst := .c (10000) }

/-- VANE.PAUSE_LAST: 16_vane.md R512. -/
def VANE.PAUSE_LAST : Prm :=
  { blk := 13, num := 0x013, wid := 32, acc := .ro, iHi := 0 }

/-- VANE.LULL_WAKE_EV: 01_islands_and_paths.md R37. -/
def VANE.LULL_WAKE_EV : Prm :=
  { blk := 13, num := 0x020, wid := 64, hi := 18446744073709551615, iHi := 0 }

/-- VANE.LULL_WAKE_SMB: 01_islands_and_paths.md R37. -/
def VANE.LULL_WAKE_SMB : Prm :=
  { blk := 13, num := 0x021, wid := 1, hi := 1, iHi := 0, rst := .c (1) }

/-- VANE.LULL_WAKE_MON: 01_islands_and_paths.md R37. -/
def VANE.LULL_WAKE_MON : Prm :=
  { blk := 13, num := 0x022, wid := 24, hi := 16777215, iHi := 0 }

/-- VANE.SCRUB_DRAM_PERIOD: 15_status_and_background.md R481. -/
def VANE.SCRUB_DRAM_PERIOD : Prm :=
  { blk := 13, num := 0x040, wid := 8, lo := 1, hi := 168, iHi := 0, rst := .c (24) }

/-- VANE.SCRUB_PROGRESS: 15_status_and_background.md R481. -/
def VANE.SCRUB_PROGRESS : Prm :=
  { blk := 13, num := 0x041, wid := 14, acc := .ro, iHi := 0 }

/-- VANE.ECC_CORR_COUNT: 15_status_and_background.md R481. -/
def VANE.ECC_CORR_COUNT : Prm :=
  { blk := 13, num := 0x042, wid := 64, acc := .ro, iHi := 0 }

/-- VANE.ECC_UNCORR_COUNT: 15_status_and_background.md R481. -/
def VANE.ECC_UNCORR_COUNT : Prm :=
  { blk := 13, num := 0x043, wid := 32, acc := .ro, iHi := 0 }

/-- VANE.SHADOW_PERIOD: 15_status_and_background.md R481. -/
def VANE.SHADOW_PERIOD : Prm :=
  { blk := 13, num := 0x044, wid := 10, lo := 10, hi := 1000, iHi := 0, rst := .c (100) }

/-- VANE.TELEM_PERIOD: 15_status_and_background.md R481. -/
def VANE.TELEM_PERIOD : Prm :=
  { blk := 13, num := 0x045, wid := 10, lo := 1, hi := 1000, iHi := 0, rst := .c (100) }

/-- VANE.TELEM_EN: 15_status_and_background.md R481. -/
def VANE.TELEM_EN : Prm :=
  { blk := 13, num := 0x046, wid := 1, hi := 1, iHi := 0 }

/-- VANE.SMB_ADDR: 16_vane.md R512. -/
def VANE.SMB_ADDR : Prm :=
  { blk := 13, num := 0x050, wid := 7, keep := true, lo := 8, hi := 119, iHi := 0, rst := .c (76) }

/-- VANE.SMB_SPEED: 16_vane.md R512. -/
def VANE.SMB_SPEED : Prm :=
  { blk := 13, num := 0x051, wid := 2, keep := true, hi := 2, iHi := 0 }

/-- VANE.MCTP_EID: 16_vane.md R512. -/
def VANE.MCTP_EID : Prm :=
  { blk := 13, num := 0x052, wid := 8, acc := .ro, iHi := 0 }

/-- VANE.TEMP_WARN: 16_vane.md R512. -/
def VANE.TEMP_WARN : Prm :=
  { blk := 13, num := 0x060, wid := 16, sgn := true, lo := 960, hi := 1984, iHi := 0, rst := .c (1760) }

/-- VANE.PWR_STATE: 19_module_power_connectors.md R571. -/
def VANE.PWR_STATE : Prm :=
  { blk := 13, num := 0x070, wid := 3, acc := .ro, iHi := 0 }

/-- VANE.SHED_SRC: 19_module_power_connectors.md R571. -/
def VANE.SHED_SRC : Prm :=
  { blk := 13, num := 0x071, wid := 3, acc := .ro, iHi := 0 }

/-- VANE.PFAIL_EXT: 19_module_power_connectors.md R571. -/
def VANE.PFAIL_EXT : Prm :=
  { blk := 13, num := 0x072, wid := 1, keep := true, hi := 1, iHi := 0, rst := .c (1) }

/-- VANE.SHED_COUNT: 19_module_power_connectors.md R571. -/
def VANE.SHED_COUNT : Prm :=
  { blk := 13, num := 0x073, wid := 32, acc := .ro, keep := true, iHi := 0 }

/-- VANE.HOLDUP_V: 19_module_power_connectors.md R571. -/
def VANE.HOLDUP_V : Prm :=
  { blk := 13, num := 0x074, wid := 16, acc := .ro, iHi := 0 }

/-- VANE.HOLDUP_CAP: 19_module_power_connectors.md R571. -/
def VANE.HOLDUP_CAP : Prm :=
  { blk := 13, num := 0x075, wid := 16, acc := .ro, iHi := 0 }

/-- VANE.HOLDUP_TEST_PERIOD: 19_module_power_connectors.md R571. -/
def VANE.HOLDUP_TEST_PERIOD : Prm :=
  { blk := 13, num := 0x076, wid := 8, lo := 1, hi := 168, iHi := 0, rst := .c (24) }

/-- VANE.MON_CTL: 06_pin_electronics.md R209. -/
def VANE.MON_CTL : Prm :=
  { blk := 13, num := 0x100, cnt := 24, str := 16, wid := 32, hi := 4294967295, iHi := 0, rst := .c (0x40130000) }

/-- VANE.MON_THR: 06_pin_electronics.md R209. -/
def VANE.MON_THR : Prm :=
  { blk := 13, num := 0x101, cnt := 24, str := 16, wid := 12, hi := 4095, iHi := 0, rst := .idx [2200, 2200, 2200, 2200, 2200, 2200, 2200, 2200, 2200, 2200, 2200, 2200, 2200, 2200, 2200, 2200, 1360, 3200, 2240, 2240, 2240, 2240, 2240, 2240] }

/-- VANE.MON_SRC: 06_pin_electronics.md R209. -/
def VANE.MON_SRC : Prm :=
  { blk := 13, num := 0x232, cnt := 5, str := 16, wid := 5, hi := 23, iHi := 0, rst := .idx [0, 1, 2, 3, 4] }

/-- VANE.MON_STATE: 06_pin_electronics.md R209. -/
def VANE.MON_STATE : Prm :=
  { blk := 13, num := 0x103, cnt := 24, str := 16, wid := 4, acc := .ro, iHi := 0 }

/-- HL.LINK_STATUS: 11_host_link.md R378. -/
def HL.LINK_STATUS : Prm :=
  { blk := 15, num := 0x001, wid := 32, acc := .ro, iHi := 0 }

/-- HL.BAR2_WIN: 11_host_link.md R378. -/
def HL.BAR2_WIN : Prm :=
  { blk := 15, num := 0x002, wid := 6, hi := 63, iHi := 0 }

/-- HL.CORR_COUNT: 11_host_link.md R378. -/
def HL.CORR_COUNT : Prm :=
  { blk := 15, num := 0x003, wid := 32, acc := .ro, iHi := 0 }

/-- HL.UNCORR_COUNT: 11_host_link.md R378. -/
def HL.UNCORR_COUNT : Prm :=
  { blk := 15, num := 0x004, wid := 32, acc := .ro, iHi := 0 }

/-- HL.LINK_DOWN_COUNT: 11_host_link.md R378. -/
def HL.LINK_DOWN_COUNT : Prm :=
  { blk := 15, num := 0x005, wid := 32, acc := .ro, keep := true, iHi := 0 }

/-- HL.BLOCK_VEC: 11_host_link.md R378. -/
def HL.BLOCK_VEC : Prm :=
  { blk := 15, num := 0x011, cnt := 16, wid := 6, hi := 63, iHi := 0 }

/-- HL.LB_BOOT: 11_host_link.md R378. -/
def HL.LB_BOOT : Prm :=
  { blk := 15, num := 0x030, wid := 4, keep := true, hi := 15, iHi := 0 }

/-- HL.LB_RESULT: 11_host_link.md R378. -/
def HL.LB_RESULT : Prm :=
  { blk := 15, num := 0x031, wid := 32, acc := .ro, iHi := 0 }

/-- HL.INFLIGHT: 10_command_packets.md R348. -/
def HL.INFLIGHT : Prm :=
  { blk := 15, num := 0x040, wid := 13, acc := .ro, iHi := 0 }

/-- HL.FW_INFLIGHT: 10_command_packets.md R348. -/
def HL.FW_INFLIGHT : Prm :=
  { blk := 15, num := 0x041, wid := 13, acc := .ro, iHi := 0 }

/-- HL.FETCH_PAUSED: 10_command_packets.md R348. -/
def HL.FETCH_PAUSED : Prm :=
  { blk := 15, num := 0x042, wid := 2, acc := .ro, iHi := 0 }

/-- HL.IMM_RESERVE: 10_command_packets.md R348. -/
def HL.IMM_RESERVE : Prm :=
  { blk := 15, num := 0x043, wid := 7, acc := .ro, iHi := 0, rst := .c (64) }

/-- LC.STATE: 17_life_cycle.md R529. -/
def LC.STATE : Prm :=
  { blk := 16, num := 0x001, wid := 3, acc := .ro, keep := true, iHi := 0, rst := .c (1) }

/-- LC.OWNER_KEY_EN: 17_life_cycle.md R529. -/
def LC.OWNER_KEY_EN : Prm :=
  { blk := 16, num := 0x002, wid := 1, acc := .ro, keep := true, iHi := 0 }

/-- LC.TRANSITIONS: 17_life_cycle.md R529. -/
def LC.TRANSITIONS : Prm :=
  { blk := 16, num := 0x003, wid := 32, acc := .ro, keep := true, iHi := 0, rst := .c (1) }

/-- LC.FAILS: 17_life_cycle.md R529. -/
def LC.FAILS : Prm :=
  { blk := 16, num := 0x004, wid := 5, acc := .ro, iHi := 0 }

/-- LC.ERASE_PENDING: 17_life_cycle.md R529. -/
def LC.ERASE_PENDING : Prm :=
  { blk := 16, num := 0x005, wid := 1, acc := .ro, keep := true, iHi := 0 }

/-- Every parameter of block FCH (R13). -/
def prmsFCH : List Prm :=
  [FCH.OUT_REQ, FCH.SETPOINT, FCH.VRANGE, FCH.IRANGE, FCH.PROFILE_SEL, FCH.STATE, FCH.LIMIT_SRC, FCH.LIM_SYM, FCH.VLIM_POS, FCH.VLIM_NEG, FCH.ILIM_RANGE, FCH.ILIM_POS, FCH.ILIM_NEG, FCH.LIMIT_TIME, FCH.CLAMP_MARGIN, FCH.EV_LIMIT_IN] ++
  [FCH.EV_LIMIT_OUT, FCH.EV_CLAMP, FCH.CLAMP_COUNT, FCH.RP_EN, FCH.RP_MIN, FCH.RP_MAX, FCH.RP, FCH.SETTLE_DN, FCH.PATH_SEL, FCH.RELAY_COUNT, FCH.SENSE_TOL, FCH.SOA, FCH.WIN_CTL, FCH.WIN_VHI, FCH.WIN_VLO, FCH.WIN_STATE] ++
  [FCH.PROF, FCH.RAIL_FLOOR, FCH.RAIL_POS, FCH.RAIL_NEG, FCH.BUDGET_DELIV, FCH.BUDGET_DISS, FCH.FV_G, FCH.FV_GP, FCH.FV_O, FCH.FV_OP, FCH.FV_K, FCH.FV_KP, FCH.FI_G, FCH.FI_GP, FCH.FI_O, FCH.FI_OP] ++
  [FCH.FI_K, FCH.FI_KP, FCH.LOOP_V_G, FCH.LOOP_V_GP, FCH.LOOP_V_O, FCH.LOOP_V_OP, FCH.LOOP_V_K, FCH.LOOP_V_KP, FCH.LOOP_I_G, FCH.LOOP_I_GP, FCH.LOOP_I_O, FCH.LOOP_I_OP, FCH.LOOP_I_K, FCH.LOOP_I_KP]

/-- Every parameter of block MSR (R13). -/
def prmsMSR : List Prm :=
  [MSR.AVG_N, MSR.AVG_S, MSR.AVG_DISCARD, MSR.SEQ, MSR.LAST_REC, MSR.AZ_OFS_V, MSR.AZ_OFS_I, MSR.AZ_COUNT, MSR.TRIG_SRC, MSR.TRIG_EV, MSR.TIMER_PERIOD, MSR.TIMER_PHASE, MSR.PWR_MODE, MSR.AZ_STEAL, MSR.AZ_PERIOD, MSR.TDAC_CODE] ++
  [MSR.TDAC_MASK, MSR.TDAC_QTY, MSR.TRIG_OVERRUN, MSR.REC_LOST, MSR.MV_G, MSR.MV_GP, MSR.MV_O, MSR.MV_OP, MSR.MV_K, MSR.MV_KP, MSR.MV_HV_G, MSR.MV_HV_GP, MSR.MV_HV_O, MSR.MV_HV_OP, MSR.MV_HV_K, MSR.MV_HV_KP] ++
  [MSR.MI_G, MSR.MI_GP, MSR.MI_O, MSR.MI_OP, MSR.MI_K, MSR.MI_KP, MSR.MI_HV_G, MSR.MI_HV_GP, MSR.MI_HV_O, MSR.MI_HV_OP, MSR.MI_HV_K, MSR.MI_HV_KP, MSR.PAIR_G, MSR.PAIR_GP, MSR.PAIR_O, MSR.PAIR_OP] ++
  [MSR.PAIR_K, MSR.PAIR_KP]

/-- Every parameter of block SWE (R13). -/
def prmsSWE : List Prm :=
  [SWE.STATE, SWE.RUN_SLOT, SWE.EV_START, SWE.EV_NEXT, SWE.EV_HOLD, SWE.EV_ABORT, SWE.EV_DONE, SWE.WAIT_TIMEOUT, SWE.TRIP_ACTION, SWE.PT_REC, SWE.HOST_FLAG, SWE.PT_STATUS, SWE.POINT_COUNT, SWE.PT_RING, SWE.SLOT_STATE, SWE.REGION] ++
  [SWE.ENTRY, SWE.PRIORITY, SWE.PREEMPT_CUT, SWE.CHAN_SET, SWE.END_ACTION, SWE.START_AT, SWE.PC, SWE.CUT_INDEX, SWE.CUT_OFS, SWE.LOOP_CTR0, SWE.LOOP_CTR1, SWE.LOOP_CTR2, SWE.LOOP_CTR3, SWE.MEM_FREE, SWE.MEM_LARGEST, SWE.REGIONS]

/-- Every parameter of block HVC (R13). -/
def prmsHVC : List Prm :=
  [HVC.OUT_REQ, HVC.SETPOINT, HVC.IRANGE, HVC.PROFILE_SEL, HVC.STATE, HVC.LIMIT_SRC, HVC.LIM_SYM, HVC.VLIM_POS, HVC.VLIM_NEG, HVC.ILIM_RANGE, HVC.ILIM_POS, HVC.ILIM_NEG, HVC.LIMIT_TIME, HVC.EV_LIMIT_IN, HVC.EV_LIMIT_OUT, HVC.SLEW] ++
  [HVC.RAMP, HVC.DISCH_TIME, HVC.RP_EN, HVC.RP_MIN, HVC.RP_MAX, HVC.RP, HVC.SETTLE_DN, HVC.PROF, HVC.INTLK_STATE, HVC.EV_INTLK, HVC.BOOST_STATE, HVC.FV_G, HVC.FV_GP, HVC.FV_O, HVC.FV_OP, HVC.FV_K] ++
  [HVC.FV_KP, HVC.FI_G, HVC.FI_GP, HVC.FI_O, HVC.FI_OP, HVC.FI_K, HVC.FI_KP, HVC.LOOP_V_G, HVC.LOOP_V_GP, HVC.LOOP_V_O, HVC.LOOP_V_OP, HVC.LOOP_V_K, HVC.LOOP_V_KP, HVC.LOOP_I_G, HVC.LOOP_I_GP, HVC.LOOP_I_O] ++
  [HVC.LOOP_I_OP, HVC.LOOP_I_K, HVC.LOOP_I_KP]

/-- Every parameter of block PIN (R13). -/
def prmsPIN : List Prm :=
  [PIN.STATE, PIN.STATIC, PIN.Z_MODE, PIN.VIH, PIN.VIL, PIN.VIT, PIN.VCOM, PIN.ISRC, PIN.ISNK, PIN.SLEW, PIN.OVL_TIME, PIN.VOH, PIN.VOL, PIN.CMPH_CTL, PIN.CMPL_CTL, PIN.CMP_STATE] ++
  [PIN.PMU_EN, PIN.PMU_MODE, PIN.PMU_IRANGE, PIN.PMU_SET, PIN.PMU_VCL_HI, PIN.PMU_VCL_LO, PIN.ADC_SEL, PIN.ADC_GO, PIN.ADC_EV, PIN.ADC_DONE_EV, PIN.ACQ_TIME, PIN.ADC_RESULT, PIN.ADC_TIME, PIN.ADC_OVERRUN, PIN.TDAC, PIN.DRV_G] ++
  [PIN.DRV_GP, PIN.DRV_O, PIN.DRV_OP, PIN.DRV_K, PIN.DRV_KP, PIN.CMP_G, PIN.CMP_GP, PIN.CMP_O, PIN.CMP_OP, PIN.CMP_K, PIN.CMP_KP, PIN.PMU_FV_G, PIN.PMU_FV_GP, PIN.PMU_FV_O, PIN.PMU_FV_OP, PIN.PMU_FV_K] ++
  [PIN.PMU_FV_KP, PIN.PMU_MV_G, PIN.PMU_MV_GP, PIN.PMU_MV_O, PIN.PMU_MV_OP, PIN.PMU_MV_K, PIN.PMU_MV_KP, PIN.PMU_FI_G, PIN.PMU_FI_GP, PIN.PMU_FI_O, PIN.PMU_FI_OP, PIN.PMU_FI_K, PIN.PMU_FI_KP, PIN.PMU_MI_G, PIN.PMU_MI_GP, PIN.PMU_MI_O] ++
  [PIN.PMU_MI_OP, PIN.PMU_MI_K, PIN.PMU_MI_KP, PIN.DSK_DRV, PIN.DSK_CMP, PIN.DSK_DRV_P, PIN.DSK_CMP_P]

/-- Every parameter of block SEQ (R13). -/
def prmsSEQ : List Prm :=
  [SEQ.STATE, SEQ.END_CAUSE, SEQ.RUN_SLOT, SEQ.EV_START, SEQ.EV_STOP, SEQ.EV_FAIL, SEQ.EV_DONE, SEQ.JUMP_LEAD, SEQ.PIN_SIZE, SEQ.PRIME_DEPTH, SEQ.PAD_SEG, SEQ.PAD_RESUME, SEQ.HOLD_STM, SEQ.HS_DIV, SEQ.CAP_MODE, SEQ.CAP_FULL] ++
  [SEQ.CAP_NEXT, SEQ.CAP_LOST, SEQ.CYCLE, SEQ.CUR_SEG, SEQ.CUR_PASS, SEQ.PAD_VECTORS, SEQ.RESUME_GAP, SEQ.FAIL_COUNT, SEQ.JUMP_DROP, SEQ.PARK_CYCLE, SEQ.MARK_EV, SEQ.FMASK, SEQ.SLOT_STATE, SEQ.START_SEG, SEQ.PRIORITY, SEQ.START_AT] ++
  [SEQ.PIN_FAILS, SEQ.MK_DSK, SEQ.MK_DSK_P]

/-- Every parameter of block TB (R13). -/
def prmsTB : List Prm :=
  [TB.REF_SEL, TB.REF_FREQ, TB.REF_COND, TB.FB_DIV, TB.CP_I, TB.LOCK_WIN, TB.LOCK_N, TB.A_REF_SEL, TB.A_REF_FREQ, TB.A_REF_COND, TB.A_FB_DIV, TB.A_CP_I, TB.A_LOCK_WIN, TB.A_LOCK_N, TB.COAST_BUDGET, TB.REF_QUAL] ++
  [TB.AUTO_RELOCK, TB.LOCK_TIMEOUT, TB.EV_LOCK, TB.EV_UNLOCK, TB.EV_EXPIRE, TB.STATE, TB.RECOVERY, TB.BUDGET_OUT, TB.VCO_BAND, TB.PHASE_ERR, TB.F_MASTER, TB.PHASE_OFS, TB.TIME_OWNER, TB.GUARD_BLOCK, TB.COAST_START, TB.SYSTIME_NS] ++
  [TB.SYSTIME_FRAC]

/-- Every parameter of block EVF (R13). -/
def prmsEVF : List Prm :=
  [EVF.MODE, EVF.GRP_EN, EVF.CH_SEEN, EVF.LOOP_CEIL, EVF.LOOP_CH, EVF.LOG_MASK, EVF.SEV_ALIGN, EVF.SUSPENDED, EVF.GRP_EN_EV, EVF.GRP_DIS_EV, EVF.TICK_PERIOD, EVF.TICK_PHASE, EVF.TICK_EV, EVF.TRIG_CTL, EVF.SEV_OUT, EVF.SEV_IN] ++
  [EVF.CU_EV, EVF.CU_LEVEL, EVF.EDDY_IN, EVF.EDDY_CTL, EVF.EDDY_STATE, EVF.HOLDOFF, EVF.CH_COUNT, EVF.CH_DROP, EVF.SEV_STAT, EVF.CONS_STAT]

/-- Every parameter of block STM (R13). -/
def prmsSTM : List Prm :=
  [STM.STATE, STM.HOLD_STATE, STM.SRC_GROUPS, STM.POLICY, STM.QUOTA, STM.HOLD_FREE, STM.RESUME_FREE, STM.PRIORITY, STM.CTX, STM.MAX_AGE, STM.MARK_EV, STM.EV_FILL, STM.FILL_THR, STM.EV_CALM, STM.IRQ_EN, STM.VECTOR] ++
  [STM.IRQ_BLOCKS, STM.NOTICE_SQ, STM.RING_BASE, STM.RING_BLOCKS, STM.WIDX_ADDR, STM.WR_IDX, STM.RD_IDX, STM.BLOCK_SEQ, STM.LOCAL_BLOCKS, STM.LOST, STM.FAULT_ADDR]

/-- Every parameter of block XLT (R13). -/
def prmsXLT : List Prm :=
  [XLT.MODE, XLT.ROOT, XLT.PASID, XLT.PASID_EN, XLT.PRI_EN, XLT.FAULT_COUNT, XLT.FAULT_ADDR, XLT.TLB_MISSES]

/-- Every parameter of block MSH (R13). -/
def prmsMSH : List Prm :=
  [MSH.ENUM_STATE, MSH.NODE_ID, MSH.GENERATION, MSH.HOPS, MSH.TREE, MSH.MEMBERS, MSH.DIAMETER, MSH.SYNC_STATE, MSH.SYNC_OFFSET, MSH.SYNC_FREQ, MSH.FWD_STREAMS, MSH.PORT_STATE, MSH.PORT_EN, MSH.LANES, MSH.DELAY, MSH.PEER] ++
  [MSH.CRC_ERR, MSH.SEV_LOST, MSH.LB_RESULT]

/-- Every parameter of block CAL (R13). -/
def prmsCAL : List Prm :=
  [CAL.COEF_SLEW, CAL.RAMPING, CAL.EV_DONE, CAL.SYS_STATE, CAL.SYS_SET, CAL.SYS_R0, CAL.SAT_LAST, CAL.SAT_COUNT, CAL.CLIP_COUNT, CAL.ZREF_A, CAL.ZREF_B, CAL.DIV_2, CAL.DIV_8, CAL.DIV_HV, CAL.R_1G, CAL.R_10M] ++
  [CAL.REF_TRACK_PERIOD, CAL.REF_DRIFT_LIM, CAL.REF_RATIO, CAL.TEMP_LIM, CAL.SELF_TEMP, CAL.SELF_TIME]

/-- Every parameter of block VANE (R13). -/
def prmsVANE : List Prm :=
  [VANE.LOG_HEAD, VANE.LOG_FLUSHED, VANE.LOG_OLDEST, VANE.LOG_INIT_SEQ, VANE.LOG_BUF_LEVEL, VANE.LOG_LOST, VANE.LOG_MEDIA_FAIL, VANE.FW_STATE, VANE.FW_SV, VANE.FW_ACT_WAIT, VANE.PAUSE_LAST, VANE.LULL_WAKE_EV, VANE.LULL_WAKE_SMB, VANE.LULL_WAKE_MON, VANE.SCRUB_DRAM_PERIOD, VANE.SCRUB_PROGRESS] ++
  [VANE.ECC_CORR_COUNT, VANE.ECC_UNCORR_COUNT, VANE.SHADOW_PERIOD, VANE.TELEM_PERIOD, VANE.TELEM_EN, VANE.SMB_ADDR, VANE.SMB_SPEED, VANE.MCTP_EID, VANE.TEMP_WARN, VANE.PWR_STATE, VANE.SHED_SRC, VANE.PFAIL_EXT, VANE.SHED_COUNT, VANE.HOLDUP_V, VANE.HOLDUP_CAP, VANE.HOLDUP_TEST_PERIOD] ++
  [VANE.MON_CTL, VANE.MON_THR, VANE.MON_SRC, VANE.MON_STATE]

/-- Every parameter of block TST (R13). -/
def prmsTST : List Prm :=
  []

/-- Every parameter of block HL (R13). -/
def prmsHL : List Prm :=
  [HL.LINK_STATUS, HL.BAR2_WIN, HL.CORR_COUNT, HL.UNCORR_COUNT, HL.LINK_DOWN_COUNT, HL.BLOCK_VEC, HL.LB_BOOT, HL.LB_RESULT, HL.INFLIGHT, HL.FW_INFLIGHT, HL.FETCH_PAUSED, HL.IMM_RESERVE]

/-- Every parameter of block LC (R13). -/
def prmsLC : List Prm :=
  [LC.STATE, LC.OWNER_KEY_EN, LC.TRANSITIONS, LC.FAILS, LC.ERASE_PENDING]

/-- The parameters of a block by its code (R13). -/
def prmsOf : Nat → List Prm
  | 0x01 => prmsFCH | 0x02 => prmsMSR | 0x03 => prmsSWE | 0x04 => prmsHVC
  | 0x05 => prmsPIN | 0x06 => prmsSEQ | 0x07 => prmsTB | 0x08 => prmsEVF
  | 0x09 => prmsSTM | 0x0A => prmsXLT | 0x0B => prmsMSH | 0x0C => prmsCAL
  | 0x0D => prmsVANE | 0x0E => prmsTST | 0x0F => prmsHL | 0x10 => prmsLC
  | _ => []

/-- The instance whose storage an instance shares (R82, R123, R161, R178, R208, R409). -/
def Prm.home (p : Prm) (inst : Nat) : Nat :=
  match p.shr with
  | .inst => inst
  | .group => if inst < 128 then inst / 8 * 8 else 128
  | .chip => inst / 64 * 64
  | .module => 0

/-- The 32-bit parameter ID (R12) of index `i` of a parameter, at the instance that holds its storage. -/
def Prm.id (p : Prm) (inst i : Nat) : Nat :=
  0x1000000 * p.blk + 0x1000 * (p.home inst % 0x1000) + (p.num + p.str * i) % 0x1000

/-- Reset value of index `i` of a parameter of instance `inst`. -/
def Prm.reset (p : Prm) (inst i : Nat) : Int :=
  match p.rst with
  | .c v => v
  | .idx vs => vs.getD i 0
  | .hs fast high => if inst < 192 then fast else high
  | .hv prec hv => if inst < 128 then prec else hv
  | .inst => inst
  | .st31 other last => if inst = 31 then last else other
  | .prof code => (Config.stdProfile code (i % 16)).toInt

/-- A value cut to the parameter's width. -/
def Prm.wrap (p : Prm) (v : Int) : Int :=
  if p.sgn then Int.bmod v (2 ^ p.wid) else v % 2 ^ p.wid

/-- The largest value an unsigned parameter holds; counters that saturate stop there (R8, R483). -/
def Prm.top (p : Prm) : Int := 2 ^ p.wid - 1

/-- The values a write may place in a parameter (R11); rules beyond a range are `writeRule` of `ParamWrite`. -/
def Prm.accepts (p : Prm) (v : Int) : Bool :=
  (p.lo ≤ v && v ≤ p.hi) || (match p.alt with | some n => v == n | none => false)

/-- A parameter at an instance and index. -/
structure PRef where
  prm : Prm
  inst : Nat
  idx : Nat
deriving DecidableEq, Repr

/-- The index of parameter number `n` of instance `inst` in `p`, where `p` covers it. -/
def Prm.covers (p : Prm) (inst n : Nat) : Option Nat :=
  if p.iLo ≤ inst && inst ≤ p.iHi && p.num ≤ n && (n - p.num) % p.str == 0
      && (n - p.num) / p.str < p.cnt then
    some ((n - p.num) / p.str)
  else none

/-- First parameter of a list that covers a parameter number. -/
def findIn (inst n : Nat) : List Prm → Option PRef
  | [] => none
  | p :: ps =>
    match p.covers inst n with
    | some i => some ⟨p, inst, i⟩
    | none => findIn inst n ps

/-- The parameter an ID names (R12, R13); none for an unlisted block, instance or parameter (R2). Codes 0xB to
0xF of an HV profile are reserved (R165). -/
def findPrm (id : Nat) : Option PRef :=
  let blk := id / 0x1000000
  let inst := id / 0x1000 % 0x1000
  if inst < blockInstances blk then
    match findIn inst (id % 0x1000) (prmsOf blk) with
    | some r => if r.prm.blk = 4 ∧ r.prm.num = 0x200 ∧ 10 < r.idx % 16 then none else some r
    | none => none
  else none

/-- The reset value of the parameter an ID names, 0 where it names none (R2). -/
def paramReset (id : Nat) : Int :=
  match findPrm id with
  | some r => r.prm.reset r.inst r.idx
  | none => 0

/-- Whether a parameter keeps its value through every reset (R9, R500, R515). -/
def paramKept (id : Nat) : Bool :=
  match findPrm id with
  | some r => r.prm.keep
  | none => false

end Sys2Proof.Machine
end

