-- ==== Sys2Proof/Machine/Ops.lean ====
section
/-!
DEFINITION. The named operations over the state that every chapter uses: reading and writing parameters, windows,
channels, groups, engines, queues; the time; free values; publishing on a channel; what is sent out.
-/
namespace Sys2Proof.Machine

/-- The value a parameter holds (R8). -/
def State.rd (s : State) (p : Prm) (inst : Nat := 0) (i : Nat := 0) : Int :=
  Bank.get paramReset s.par (p.id inst i)

/-- The value a parameter holds, as a natural number. -/
def State.rdN (s : State) (p : Prm) (inst : Nat := 0) (i : Nat := 0) : Nat := (s.rd p inst i).toNat

/-- Place a value in a parameter, cut to its width. -/
def State.wr (s : State) (p : Prm) (inst i : Nat) (v : Int) : State :=
  { s with par := Bank.set paramReset s.par (p.id inst i) (p.wrap v) }

/-- The value of a parameter that takes effect at loop-cycle boundaries (R82, R123, R178): what it held at the last one. -/
def State.eff (s : State) (p : Prm) (inst : Nat := 0) (i : Nat := 0) : Int :=
  (Bank.get (fun _ => none) s.old (p.id inst i)).getD (s.rd p inst i)

/-- That value as a natural number. -/
def State.effN (s : State) (p : Prm) (inst : Nat := 0) (i : Nat := 0) : Nat := (s.eff p inst i).toNat

/-- Place a value in a parameter, for the next loop-cycle boundary. -/
def State.wrNext (s : State) (p : Prm) (inst i : Nat) (v : Int) : State :=
  { s with old := Bank.set (fun _ => none) s.old (p.id inst i) (some (s.eff p inst i)) }.wr p inst i v

/-- Place a value in what a parameter holds for the present loop cycle; a write that waits for the next boundary stands (R82). -/
def State.wrEff (s : State) (p : Prm) (inst i : Nat) (v : Int) : State :=
  if (Bank.get (fun _ => none) s.old (p.id inst i)).isSome then
    { s with old := Bank.set (fun _ => none) s.old (p.id inst i) (some v) }
  else s.wr p inst i v

/-- Place a value in index 0 of a parameter. -/
def State.put (s : State) (p : Prm) (inst : Nat) (v : Int) : State := s.wr p inst 0 v

/-- Count up, stopping at the parameter's top (R483). -/
def State.bump (s : State) (p : Prm) (inst : Nat := 0) (i : Nat := 0) (n : Nat := 1) : State :=
  s.wr p inst i (min (s.rd p inst i + n) p.top)

/-- Count up modulo the parameter's width. -/
def State.tally (s : State) (p : Prm) (inst : Nat := 0) (i : Nat := 0) (n : Nat := 1) : State :=
  s.wr p inst i (s.rd p inst i + n)

/-- SYSTIME in whole nanoseconds, as its accumulator counts it (R273). -/
def State.systime (s : State) : Nat := s.rdN TB.SYSTIME_NS

/-- The SYSTIME of the loop-cycle boundary with which the present loop cycle began: the last whole multiple of 125 ns (R90, R591). The
accumulator stands within one period of its clock beyond it. -/
def State.now (s : State) : Nat := s.systime / 125 * 125

/-- SYSTIME in units of 2^-16 ns, as its accumulator counts it. -/
def State.fine (s : State) : Nat := 65536 * s.systime + s.rdN TB.SYSTIME_FRAC

/-- The accumulator of SYSTIME, in 2^-48 ns (R273). -/
def State.acc (s : State) : Nat := s.fine * 2 ^ 32 + s.tb.accLow

/-- Whether the master-derived islands run on the guard clock (R266, R267): in SEARCH, ACQUIRE and GUARD_WAIT. -/
def onGuard (s : State) : Bool := s.rd TB.STATE == 0 || s.rd TB.STATE == 1 || s.rd TB.STATE == 4

/-- The period that the accumulator of SYSTIME adds at each edge of its clock, in 2^-48 ns (R273): 20 ns in Lull, 2.5 ns on the guard
clock, else the nominal master period, to the nearest. -/
def State.countPeriod (s : State) : Nat :=
  if s.pwr.lull = 3 then 20 * 2 ^ 48
  else if onGuard s then 5 * 2 ^ 47
  else let f := max 1 (s.rdN TB.F_MASTER); (1000000000 * 2 ^ 49 / f + 1) / 2

/-- Set the accumulator of SYSTIME. -/
def State.setAcc (s : State) (a : Nat) : State :=
  let s := (s.put TB.SYSTIME_NS 0 (a / 2 ^ 48 : Nat)).put TB.SYSTIME_FRAC 0 (a / 2 ^ 32 % 65536 : Nat)
  { s with tb := { s.tb with accLow := a % 2 ^ 32 } }

/-- SYSTIME counts on to the first edge of its clock at or after the next loop-cycle boundary (R16, R273, R591). At a change of clock the
first edge of the new one follows the last of the old by one of its periods (log 160). -/
def State.countCycle (s : State) : State :=
  s.setAcc (s.acc + s.countPeriod * (((s.now + 125) * 2 ^ 48 - s.acc + (s.countPeriod - 1)) / s.countPeriod))

/-- The first edge of the clock that SYSTIME counts, at or after a SYSTIME in 2^-16 ns (R273, R295, R304, R305), and `n` edges on. -/
def edgesAfter (s : State) (t n : Nat) : Nat :=
  let p : Int := s.countPeriod
  (((s.acc : Int) + -((s.acc - (t : Int) * 2 ^ 32) / p) * p + n * p) / 2 ^ 32).toNat

/-- The first such edge. -/
def edgeFrom (s : State) (t : Nat) : Nat := edgesAfter s t 0

/-- A SYSTIME in 2^-16 ns cut to 1/16 of the period of the clock that SYSTIME counts (R301). -/
def sixteenth (s : State) (t : Nat) : Nat :=
  let p : Int := s.countPeriod
  (((s.acc : Int) * 16 + ((t : Int) * 2 ^ 32 - s.acc) * 16 / p * p) / 2 ^ 36).toNat

/-- Time in whole nanoseconds that no explicit set moves (R274): SYSTIME less what sets have added. Durations are measured
with it. -/
def State.clock (s : State) : Nat := ((s.now : Int) - s.tb.shift).toNat

/-- That time in units of 2^-16 ns, as SYSTIME counts it. -/
def State.clockFine (s : State) : Nat := ((s.fine : Int) - s.tb.shift * 65536).toNat

/-- The SYSTIME, in 2^-16 ns, of a clock time. -/
def State.sysFine (s : State) (t : Nat) : Nat := ((t : Int) + s.tb.shift * 65536).toNat

/-- The clock time, in 2^-16 ns, of a SYSTIME. -/
def State.clockOf (s : State) (t : Nat) : Nat := ((t : Int) - s.tb.shift * 65536).toNat

/-- The end of the present loop cycle as a clock time in 2^-16 ns: what falls due before it happens in this cycle (log 4). -/
def cycleEnd (s : State) : Nat := 65536 * (s.clock + 125)

/-- Draw a free value (log 3): the answer is a constant without a body applied to a count that the draw advances. -/
def State.draw (s : State) : Nat × State := (Config.freeNat s.draws, { s with draws := s.draws + 1 })

/-- Draw a signed free value (log 3). -/
def State.drawInt (s : State) : Int × State := (Config.freeInt s.draws, { s with draws := s.draws + 1 })

/-- Draw `n` signed free values. -/
def drawMany : Nat → State → List Int × State
  | 0, s => ([], s)
  | n + 1, s =>
    let a := s.drawInt
    let r := drawMany n a.2
    (a.1 :: r.1, r.2)

/-- Whether BAR0 and BAR2 answer (R370 to R372): the link is up, the function is in D0 and configuration requests receive no CRS. -/
def State.barOpen (s : State) : Bool := s.hl.link == .up && !s.hl.d3 && !s.hl.crs

/-- Whether the module can reach host memory: the link is up and the host has enabled bus mastering (R27, R345). -/
def State.dmaOpen (s : State) : Bool := s.hl.link == .up && s.hl.busMaster

/-- Send something out. -/
def State.emit (s : State) (o : Out) : State := { s with sent := s.sent ++ [o] }

/-- Key of the status window of a block instance (R361). -/
def winKey (blk inst : Nat) : Nat := blk * 4096 + inst % 4096

/-- The status window of a block instance. -/
def State.win (s : State) (blk inst : Nat) : Win := Bank.get (fun _ => {}) s.wins (winKey blk inst)

/-- Replace a status window. -/
def State.setWin (s : State) (blk inst : Nat) (w : Win) : State :=
  { s with wins := Bank.set (fun _ => {}) s.wins (winKey blk inst) w }

/-- Publish one pulse on the channel a selector names; a selector that names none publishes nothing (R285). `at_` is
the clock time of the pulse, in 2^-16 ns, where a rule fixes it; `mark` the domain of the marker that it comes from. -/
def State.publish (s : State) (sel : Int) (at_ : Option Nat := none) (mark : Option Nat := none) : State :=
  if 0 ≤ sel ∧ sel < 64 then { s with evf := { s.evf with lines := s.evf.lines ++ [{ ch := sel.toNat, at_, mark }] } } else s

/-- What a channel's loop works with at reset: the reset values of its parameters (R82, R178). -/
def Act.init (ch : Nat) : Act :=
  if ch < 128 then
    { mode := 0, setp := 0, vr := 3, ir := 8, sir := 8, prof := 0, limSym := 1, vlp := 16384, vln := 16384, ilr := 8,
      ilp := 1024, iln := 1024, margin := 5 }
  else
    { mode := 0, setp := 0, vr := 4, ir := 6, sir := 6, prof := 0, limSym := 1, vlp := 16384, vln := 16384, ilr := 6,
      ilp := 819, iln := 819, margin := 0 }

/-- A channel's run state at reset. -/
def Fch.init (ch : Nat) : Fch :=
  if ch < 128 then { act := Act.init ch } else { act := Act.init ch, irTarget := 6, parVr := 4, parIr := 6 }

/-- The run state of a channel. -/
def State.ch (s : State) (c : Nat) : Fch := Bank.get Fch.init s.fch c

/-- Replace a channel's run state. -/
def State.setCh (s : State) (c : Nat) (f : Fch) : State := { s with fch := Bank.set Fch.init s.fch c f }

/-- A group at reset; the HV group's shortest period is 16 (R93). -/
def Grp.init (g : Nat) : Grp := { period := if g < 16 then 4 else 16 }

/-- A group. -/
def State.group (s : State) (g : Nat) : Grp := Bank.get Grp.init s.grp g

/-- Replace a group. -/
def State.setGroup (s : State) (g : Nat) (v : Grp) : State := { s with grp := Bank.set Grp.init s.grp g v }

/-- A channel's averager. -/
def State.avg (s : State) (c : Nat) : Msr := Bank.get (fun _ => {}) s.msr c

/-- Replace a channel's averager. -/
def State.setAvg (s : State) (c : Nat) (v : Msr) : State := { s with msr := Bank.set (fun _ => {}) s.msr c v }

/-- A sweep engine's timeline. -/
def State.engine (s : State) (e : Nat) : Swe := Bank.get (fun _ => {}) s.swe e

/-- Replace a sweep engine's timeline. -/
def State.setEngine (s : State) (e : Nat) (v : Swe) : State := { s with swe := Bank.set (fun _ => {}) s.swe e v }

/-- A consumer input. -/
def State.con (s : State) (n : Nat) : Cons := Bank.get (fun _ => {}) s.evf.cons n

/-- Replace a consumer input. -/
def State.setCon (s : State) (n : Nat) (v : Cons) : State :=
  { s with evf := { s.evf with cons := Bank.set (fun _ => {}) s.evf.cons n v } }

/-- A submission queue. -/
def State.sq (s : State) (n : Nat) : Sq := Bank.get (fun _ => {}) s.cmd.sqs n

/-- Replace a submission queue. -/
def State.setSq (s : State) (n : Nat) (v : Sq) : State :=
  { s with cmd := { s.cmd with sqs := Bank.set (fun _ => {}) s.cmd.sqs n v } }

/-- A completion queue. -/
def State.cq (s : State) (n : Nat) : Cq := Bank.get (fun _ => {}) s.cmd.cqs n

/-- Replace a completion queue. -/
def State.setCq (s : State) (n : Nat) (v : Cq) : State :=
  { s with cmd := { s.cmd with cqs := Bank.set (fun _ => {}) s.cmd.cqs n v } }

/-- The group of a channel: PG_0 to PG_15, 16 the HV group (R3). -/
def groupOf (ch : Nat) : Nat := if ch < 128 then ch / 8 else 16

/-- The channels of a group. -/
def groupChans (g : Nat) : List Nat :=
  if g < 16 then (List.range 8).map fun k => 8 * g + k else [128, 129, 130, 131]

/-- The first channel of a group, whose instance holds the group's parameters. -/
def groupHome (g : Nat) : Nat := if g < 16 then 8 * g else 128

/-- Raise an MSI-X vector (R367): nothing while MSI-X is disabled, the pending bit while masked, else the message; no
message in D3hot (R372). -/
def State.raise (s : State) (v : Nat) : State :=
  if !s.hl.msixEn then s
  else
    let e := Bank.get (fun _ => ({} : Vec)) s.hl.vecs v
    if e.masked || s.hl.fnMask then
      { s with hl := { s.hl with vecs := Bank.set (fun _ => {}) s.hl.vecs v { e with pending := true } } }
    else if s.hl.d3 then s
    else s.emit (.msix v)

/-- Writes that waited for a loop-cycle boundary are in force (R82). -/
def State.takenOver (s : State) : State := { s with old := [] }

/-- Hand a record to Vane (R473, R485): it waits in the queue; while Vane is down the queue holds 256 records and the
rest are counted. -/
def State.logRec (s : State) (r : Rec) : State :=
  if s.vane.up || s.vane.queue.length < 256 then
    { s with vane := { s.vane with queue := s.vane.queue ++ [(s.clock, r)] } }
  else { s with vane := { s.vane with queueLost := s.vane.queueLost + 1 } }

/-- A mesh port. -/
def State.port (s : State) (p : Nat) : PortRun := Bank.get (fun _ => {}) s.msh.ports p

/-- Replace a mesh port. -/
def State.setPort (s : State) (p : Nat) (v : PortRun) : State :=
  { s with msh := { s.msh with ports := Bank.set (fun _ => {}) s.msh.ports p v } }

/-- A class 1 or 2 frame leaves by a port, which keeps it for a replay (R413). -/
def State.sendFrame (s : State) (p cls : Nat) (ws : List Nat) : State :=
  let r := s.port p
  (s.setPort p (if cls = 1 then { r with last1 := ws } else { r with last2 := ws })).emit (.frame p cls ws)

/-- A class 1 or 2 frame leaves for a node on its route, with the links it will have crossed at the next node (R413, R419, R420); where the
route is not VALID it is held while a repair runs (R421), else lost, and a completion that is lost is logged by the node that produced it
(R422). The words of a frame are the model's own: the spec gives no layout (log 9). -/
def State.frameTo (s : State) (node cls : Nat) (words : List Nat) (note : Option (Nat × Nat × Bool) := none) (hops : Nat := 1) : State :=
  let e := Bank.get (fun _ => 0) s.msh.routes node
  if bit e 15 && !bit e 14 then s.sendFrame (fld e 12 2) cls (node :: hops :: words)
  else if s.msh.repairing then { s with msh := { s.msh with held := s.msh.held ++ [⟨node, cls, words, note, hops⟩] } }
  else match note with
    | some n => s.logRec { typ := 0x0A, time := s.now, blk := 0x0B, inst := 0, pay := [n.1, n.2.1, b2n n.2.2], sev := 0 }
    | none => s

/-- The FIFO of a capture unit, oldest first. -/
def State.cu (s : State) (u : Nat) : List Quad := Bank.get (fun _ => []) s.evf.cuFifo u

/-- Replace the FIFO of a capture unit. -/
def State.setCu (s : State) (u : Nat) (l : List Quad) : State :=
  { s with evf := { s.evf with cuFifo := Bank.set (fun _ => []) s.evf.cuFifo u l } }

/-- A step that completes. -/
abbrev Answer := Host.Outcome State Fault Refusal

end Sys2Proof.Machine
end

