-- ==== Sys2Proof/Machine/Status.lean ====
section
/-!
DEFINITION. Setting a cause in a status window (R461 to R473): flags, counts, history, interrupt and log record. The
reaction itself acts in `React`.
-/
namespace Sys2Proof.Machine

/-- The severity a hit carries (R471). -/
def hitSev (blk : Nat) (h : Hit) : Nat :=
  match findCause blk h.code with
  | some c => if h.high then c.sevHigh.getD c.sev else c.sev
  | none => 0

/-- The reaction set for a cause: the fixed consequence, what REACTION wrote, else the default (R468). -/
def reactionOf (s : State) (blk inst code : Nat) : Nat :=
  match findCause blk code with
  | some c =>
    if c.fixed then 6 else (Bank.get (fun _ => none) (s.win blk inst).reacts code).getD c.dflt
  | none => 0

/-- The layout of FIRST_CAUSE and LAST_CAUSE (R462). -/
def causeWord (sev : Nat) (inj : Bool) (action code : Nat) : Nat :=
  2 ^ (28 + sev) + b2n inj * 2 ^ 27 + action * 2 ^ 24 + code * 2 ^ 16

/-- STATUS (R461). -/
def statusWord (w : Win) : Nat :=
  b2n w.fatal * 2 ^ 31 + b2n w.fault * 2 ^ 30 + b2n w.degraded * 2 ^ 29 + b2n w.warn * 2 ^ 28 +
    b2n w.injected * 2 ^ 27 + fld w.last 16 8 * 2 ^ 16 + min w.count 0xFFFF

/-- Set the severity flag of a window. -/
def Win.flag (w : Win) : Nat → Win
  | 3 => { w with fatal := true }
  | 2 => { w with fault := true }
  | 1 => { w with degraded := true }
  | _ => { w with warn := true }

/-- Whether a severity is enabled in IRQ_EN (R463). -/
def Win.enabled (w : Win) (sev : Nat) : Bool := bit w.irqEn (28 + sev)

/-- One setting's flags, count and interrupt (R461 to R463). -/
def countHit (s : State) (blk inst : Nat) (h : Hit) (action : Nat) : State :=
  let w := s.win blk inst
  let w := { w.flag (hitSev blk h) with
    injected := w.injected || h.inj
    count := min (w.count + 1) 0xFFFFFFFF }
  let s := s.setWin blk inst w
  if w.enabled (hitSev blk h) && action != 0 && (!h.inj || bit w.irqEn 27) then
    s.raise (s.rdN HL.BLOCK_VEC 0 (blk - 1))
  else s

/-- The log record of one setting (R473): a WARN set again within 1 s of its last logged record is only counted. -/
def logHit (s : State) (blk inst : Nat) (h : Hit) (action : Nat) : State :=
  let w := s.win blk inst
  let sev := hitSev blk h
  let old := Bank.get (fun _ => none) w.logged h.code
  let recent := match old with
    | some l => decide (sev = 0 ∧ s.clock < l.at_ + 1000000000)
    | none => false
  if recent then
    let l := old.getD ⟨0, 0⟩
    s.setWin blk inst { w with
      logged := Bank.set (fun _ => none) w.logged h.code (some { l with missed := l.missed + 1 }) }
  else
    let missed := (old.map Logged.missed).getD 0
    let s := s.setWin blk inst { w with
      logged := Bank.set (fun _ => none) w.logged h.code (some ⟨s.clock, 0⟩) }
    s.logRec { typ := 0x01, time := s.now, blk := blk, inst := inst,
               pay := [causeWord sev h.inj action h.code, missed], sev := sev }

/-- The place of a cause code among codes of one severity: SOA before LIMIT_TIMEOUT (R80), INTERLOCK before LIMIT_TIMEOUT (R176) and
PIN_OVERVOLT before DRV_OVL (R206), otherwise the lower code first (R466). -/
def codeRank (blk code : Nat) : Nat :=
  if (blk = 1 ∨ blk = 4 ∨ blk = 5) ∧ (code = 1 ∨ code = 2) then 3 - code else code

/-- Whether a hit ranks before another (R466): real before injected, higher severity, then `codeRank`. -/
def ranksBefore (blk : Nat) (a b : Hit) : Bool :=
  if a.inj != b.inj then !a.inj
  else if hitSev blk a != hitSev blk b then decide (hitSev blk b < hitSev blk a)
  else decide (codeRank blk a.code < codeRank blk b.code)

/-- Put a hit in its rank. -/
def rankIn (blk : Nat) (h : Hit) : List Hit → List Hit
  | [] => [h]
  | x :: xs => if ranksBefore blk x h then x :: rankIn blk h xs else h :: x :: xs

/-- The hits in rank order. -/
def rank (blk : Nat) (hs : List Hit) : List Hit := hs.foldr (rankIn blk) []

/-- The action a hit records: its reaction, of which an injection that does not apply it takes no more than the interrupt (R471, log 235),
or the one a caller fixes (R470). -/
def hitAction (s : State) (blk inst : Nat) (fixed : Option Nat) (h : Hit) : Nat :=
  match fixed with
  | some a => a
  | none =>
    let a := reactionOf s blk inst h.code
    if h.apply then a else min a 1

/-- Count and log each hit; its reaction falls due within the step (R470). -/
def recordEach (s : State) (blk inst : Nat) (fixed : Option Nat) : List Hit → State
  | [] => s
  | h :: hs =>
    let a := hitAction s blk inst fixed h
    let s := logHit (countHit s blk inst h a) blk inst h a
    let s := if 2 ≤ a ∧ a ≤ 5 then { s with due := s.due ++ [.react blk inst a h] } else s
    recordEach s blk inst fixed hs

/-- Whether a cause set earlier in this loop cycle ranks before a hit in its window (R466; log 206). -/
def beaten (s : State) (blk : Nat) (w : Win) (h : Hit) : Bool :=
  match w.top with
  | some t => w.topAt == s.clock && ranksBefore blk t h
  | none => false

/-- Whether FIRST_CAUSE is open to a cause of this loop cycle: the history is clear, or was when the cycle began (R466). -/
def firstOpen (s : State) (w : Win) : Bool :=
  w.first == 0 || (w.top.isSome && w.topAt == s.clock && w.firstTime == s.now)

/-- LAST_CAUSE, and FIRST_CAUSE and FIRST_TIME while they are open, take a hit that none of its cycle ranks before (R466). -/
def recordHistory (s : State) (blk inst : Nat) (fixed : Option Nat) (h : Hit) : State :=
  let w := s.win blk inst
  let word := causeWord (hitSev blk h) h.inj (hitAction s blk inst fixed h) h.code
  if beaten s blk w h then s
  else s.setWin blk inst { w with
    top := some h, topAt := s.clock, last := word
    first := if firstOpen s w then word else w.first
    firstTime := if firstOpen s w then s.now else w.firstTime }

/-- Record hits of one detection in one window (R465, R466, R473); the reactions follow separately. -/
def recordHits (s : State) (blk inst : Nat) (fixed : Option Nat) (hs : List Hit) : State :=
  match rank blk (hs.filter fun h => (findCause blk h.code).isSome) with
  | [] => s
  | h :: rest => recordEach (recordHistory s blk inst fixed h) blk inst fixed (h :: rest)

/-- Record one real cause. -/
def record (s : State) (blk inst code : Nat) (high : Bool := false) : State :=
  recordHits s blk inst none [{ code := code, high := high }]

/-- A static consumer input discards a pulse while busy (R288, R309). -/
def consOverrun (s : State) (n : Nat) : State :=
  record (s.setCon n { s.con n with overrun := true }) 8 0 0x02

/-- A member that synchronises loses its parent or its lock (R429): HOLDOVER. The root follows no one. -/
def syncLost (s : State) : State :=
  if (s.rd MSH.SYNC_STATE = 1 ∨ s.rd MSH.SYNC_STATE = 2) ∧ s.rd MSH.NODE_ID ≠ 0 then
    record ({ s with msh := { s.msh with coarseDue := none } }.put MSH.SYNC_STATE 0 3) 0x0B 0 0x0B
  else s

/-- Record one real cause set by another instance's reaction (R470): ACTION 6. -/
def recordFixed (s : State) (blk inst : Nat) (h : Hit) : State := recordHits s blk inst (some 6) [h]

end Sys2Proof.Machine
end

