-- ==== Sys2Proof/Machine/Complete.lean ====
section
/-!
DEFINITION. Command packets and completions (R320 to R330): the fields of a packet, the status codes of R343, and
producing a completion.
-/
namespace Sys2Proof.Machine

/-- Word `i` of a packet (R320). -/
def pw (p : Pkt) (i : Nat) : Nat := p.words.getD i 0

/-- TAG of a packet. -/
def pTag (p : Pkt) : Nat := fld (pw p 0) 16 12

/-- POINTER of a packet. -/
def pPtr (p : Pkt) : Bool := bit (pw p 0) 31

/-- FENCE of a packet. -/
def pFence (p : Pkt) : Bool := bit (pw p 0) 30

/-- PRIORITY of a packet, 0 highest. -/
def pPrio (p : Pkt) : Nat := fld (pw p 0) 28 2

/-- CLASS and OP of a packet as one code of R342. -/
def pOpcode (p : Pkt) : Nat := fld (pw p 0) 0 16

/-- A 64-bit value in words `i` and `i + 1`, low word first. -/
def pw64 (p : Pkt) (i : Nat) : Nat := word64 (pw p i) (pw p (i + 1))

/-- R343. -/
abbrev St.SUCCESS : Nat := 0x0000
/-- R343. -/
abbrev St.SUCCESS_WARN : Nat := 0x0001
/-- R343. -/
abbrev St.BAD_OPCODE : Nat := 0x0101
/-- R343. -/
abbrev St.BAD_ID : Nat := 0x0102
/-- R343. -/
abbrev St.BAD_VALUE : Nat := 0x0103
/-- R343. -/
abbrev St.READ_ONLY : Nat := 0x0104
/-- R343. -/
abbrev St.BAD_POINTER : Nat := 0x0105
/-- R343. -/
abbrev St.RESERVED_SET : Nat := 0x0106
/-- R343. -/
abbrev St.BAD_ENTRY : Nat := 0x0107
/-- R343. -/
abbrev St.IMM_ONLY : Nat := 0x0108
/-- R343. -/
abbrev St.DUP_TAG : Nat := 0x0109
/-- R343. -/
abbrev St.MBX_NO_DMA : Nat := 0x010A
/-- R343. -/
abbrev St.WRONG_STATE : Nat := 0x0201
/-- R343. -/
abbrev St.OWNED : Nat := 0x0202
/-- R343. -/
abbrev St.ISLAND_STOPPED : Nat := 0x0203
/-- R343. -/
abbrev St.ACTIVE_PROFILE : Nat := 0x0204
/-- R343. -/
abbrev St.NO_SOLUTION : Nat := 0x0205
/-- R343. -/
abbrev St.TABLE_FULL : Nat := 0x0301
/-- R343. -/
abbrev St.POWER_BUDGET : Nat := 0x0302
/-- R343. -/
abbrev St.NODE_SPACE_FULL : Nat := 0x0303
/-- R343. -/
abbrev St.SINGLE_CONSUMER : Nat := 0x0304
/-- R343. -/
abbrev St.CONTEXT_FULL : Nat := 0x0305
/-- R343. -/
abbrev St.TRANSLATION : Nat := 0x0401
/-- R343. -/
abbrev St.MEDIA : Nat := 0x0402
/-- R343. -/
abbrev St.TIMEBASE : Nat := 0x0403
/-- R343. -/
abbrev St.LC_DENIED : Nat := 0x0501
/-- R343. -/
abbrev St.TOKEN_BAD : Nat := 0x0502
/-- R343. -/
abbrev St.ABORTED : Nat := 0x0601
/-- R343. -/
abbrev St.INTERRUPTED : Nat := 0x0602
/-- R343. -/
abbrev St.FLUSHED : Nat := 0x0603

/-- What a command came to: its status, the result words 2 to 5, and the state; or it goes on and completes later. -/
inductive Res where
  | done (status : Nat) (res : List Nat) (s : State)
  | later (s : State)

/-- A command that applies nothing and reports a status. -/
def refuse (s : State) (status : Nat) : Res := .done status [] s

/-- A command applied in full. -/
def ok (s : State) (res : List Nat := []) : Res := .done St.SUCCESS res s

/-- The eight words of a completion (R323). -/
def cplWords (c : Cpl) (phase mbx : Bool) (head sq : Nat) : List Nat :=
  [c.status * 65536 + c.tag, b2n phase * 2 ^ 31 + b2n mbx * 2 ^ 30 + head * 65536 + sq,
    c.res.getD 0 0, c.res.getD 1 0, c.res.getD 2 0, c.res.getD 3 0, lo32 c.time, hi32 c.time]

/-- Operations of one source and tag leave the list of those in flight. -/
def dropOp (ops : List Op) (src : Src) (tag : Nat) : List Op :=
  ops.filter fun o => !(o.pkt.src == src && pTag o.pkt == tag)

/-- Produce a completion (R323, R324, R345): a queue's completion waits in its completion queue to be written; the
mailbox is written at once; a forwarded packet's completion goes back over the mesh (R422); Vane answers its
requester (R493); an operation that a soft reset has abandoned has no completion (R324). -/
def State.complete (s : State) (src : Src) (tag status : Nat) (res : List Nat) (owns : Bool := true)
    (notice : Option (Option Nat × Nat) := none) : State :=
  let c : Cpl := { src := src, tag := tag, status := status, res := pad 4 res, time := s.systime, owns := owns, notice := notice }
  match src with
  | .sq n =>
    let q := s.cq (s.sq n).cq
    s.setCq (s.sq n).cq { q with pend := q.pend ++ [c] }
  | .mbx =>
    { s with cmd := { s.cmd with
        mbxCpl := cplWords c true true 0 0, mbxBusy := false, mbxDone := true,
        ops := dropOp s.cmd.ops .mbx tag } }
  | .mesh node fid =>
    let op := s.cmd.ops.find? fun o => o.pkt.src == src && pTag o.pkt == tag
    let word := (op.map fun o => pw o.pkt 0).getD 0
    let applied := decide (status ≤ 1)
    let s := { s with
      cmd := { s.cmd with ops := dropOp s.cmd.ops src tag }
      msh := { s.msh with answered := s.msh.answered ++ [(node, fid, word, applied)] } }
    s.frameTo node 1 ([2, s.rdN MSH.NODE_ID, fid, status] ++ pad 4 res) (some (node, word, applied))
  | .vane =>
    let s := { s with cmd := { s.cmd with ops := dropOp s.cmd.ops src tag } }
    s.emit (.management 0x7E (cplWords c true false 0 0))
  | .nobody => s

/-- The bulk transfer of a packet's command. -/
def pktXfer (s : State) (p : Pkt) : Option Xfer := s.xlt.xfers.find? fun x => x.who == .cmd p.src (pTag p)

/-- An operation that is on a core, or has its host data, moves on to a stage. -/
def setStage (s : State) (p : Pkt) (st : OpStage) : State :=
  { s with cmd := { s.cmd with ops := s.cmd.ops.map fun o =>
      if o.pkt.src == p.src && pTag o.pkt == pTag p && (o.stage == .running || o.stage == .reading) then { o with stage := st } else o } }

/-- A command has taken its effect, or goes on without a core (R328); the data it has read is used. -/
def freeCore (s : State) (p : Pkt) : State :=
  let t := setStage s p .released
  { t with xlt := { t.xlt with xfers := t.xlt.xfers.filter fun x => !(x.who == .cmd p.src (pTag p) && !x.write) } }

/-- Whether a command still waits for units of a read (R396). -/
def stillReads (s : State) (p : Pkt) : Bool :=
  match pktXfer s p with
  | some x => !x.write && x.left != 0
  | none => false

/-- Answer a command: its completion, or nothing yet. -/
def finish (p : Pkt) : Res → State
  | .done status res s => (freeCore s p).complete p.src (pTag p) status res
  | .later s => if stillReads s p then s else freeCore s p

end Sys2Proof.Machine
end

