-- ==== Sys2Proof/Machine/Comp.lean ====
section
/-!
DEFINITION. Comparators as operations (R195 to R203): their storage and control words, power-up, mode changes and hysteresis.
-/
namespace Sys2Proof.Machine

/-- Storage index of a comparator. -/
def cmpKey : Cmp → Nat
  | .pin n high => 2 * n + b2n !high
  | .window c k => 512 + 4 * c + k
  | .monitor n => 1024 + n

/-- The comparators there are (R195). -/
def cmpListed : Cmp → Bool
  | .pin n _ => n < 256
  | .window c k => c < 128 && k < 4
  | .monitor n => n < 24

/-- The control word of a comparator (R202). -/
def cmpCtl (s : State) : Cmp → Nat
  | .pin n true => s.rdN PIN.CMPH_CTL n
  | .pin n false => s.rdN PIN.CMPL_CTL n
  | .window c k => s.rdN FCH.WIN_CTL c k
  | .monitor n => s.rdN VANE.MON_CTL 0 n

/-- A comparator. -/
def State.comp (s : State) (c : Cmp) : CmpRun := Bank.get (fun _ => {}) s.cmp (cmpKey c)

/-- Replace a comparator. -/
def State.setComp (s : State) (c : Cmp) (v : CmpRun) : State :=
  { s with cmp := Bank.set (fun _ => {}) s.cmp (cmpKey c) v }

/-- MODE (R197). -/
def ctlMode (w : Nat) : Nat := fld w 30 2
/-- INIT_STATE (R196). -/
def ctlInit (w : Nat) : Bool := bit w 29
/-- HYST (R196). -/
def ctlHyst (w : Nat) : Nat := fld w 25 4
/-- The filter length n (R200). -/
def ctlN (w : Nat) : Nat := 3 + 2 * fld w 23 2
/-- FILT_K (R200). -/
def ctlK (w : Nat) : Nat := fld w 19 4

/-- A filter history of one value. -/
def fillHist (v : Bool) : List Bool := List.replicate 9 v

/-- A comparator powers up in a mode change (R196): outputs and history read INIT_STATE. Where its input stands, below its band, in it or
above it, is the bench's and a free value (log 34): with hysteresis an input in the band leaves it UNRESOLVED; else it shows the
input once the change is complete. -/
def powerUp (s : State) (c : Cmp) : State :=
  let w := cmpCtl s c
  let r := s.draw
  let unres := decide (0 < ctlHyst w) && r.1 % 3 == 1
  r.2.setComp c { raw := ctlInit w, filt := ctlInit w, unresolved := unres, changing := false,
                  waits := if unres then none else some (r.1 % 3 == 2), hist := fillHist (ctlInit w) }

/-- The mode in effect changes (R196, R197): outputs hold while CHANGING; from OFF the comparator powers up. -/
def modeChanges (old new : Nat) (s : State) (c : Cmp) : State :=
  if old = new then s
  else
    let s := if old = 3 then powerUp s c else s
    s.setComp c { s.comp c with changing := true }

/-- A threshold or the hysteresis is written (R196): the band of an UNRESOLVED comparator is formed anew, and an input outside it, a free
value (log 34), resolves the comparator at the next edge of the filter clock. A resolved one stays so. -/
def bandChanges (s : State) (c : Cmp) : State :=
  if (s.comp c).unresolved then
    let r := s.draw
    let inside := decide (0 < ctlHyst (cmpCtl s c)) && r.1 % 3 == 1
    r.2.setComp c { s.comp c with resolve := if inside then none else some (r.1 % 3 == 2) }
  else s

/-- The raw output that a window comparator shows while its quantity is inside the window (R72): an upper one, of even number, reads 0,
a lower one 1. -/
def insideRaw (k : Nat) : Bool := k % 2 == 1

/-- Whether every window comparator of a channel shows its quantity inside its window (R49). -/
def insideWindows (s : State) (c : Nat) : Bool :=
  (List.range 4).all fun k => (s.comp (.window c k)).raw == insideRaw k

/-- The window comparators of a channel run in Gale while it is connected and in their own modes else (R73, R197). At connection their
quantities stand inside the clamp windows until a crossing is seen (log 162). -/
def windowsFollow (s : State) (c : Nat) (on : Bool) : State :=
  (List.range 4).foldl (fun s k =>
    let w := Cmp.window c k
    let m := ctlMode (cmpCtl s w)
    if on then
      let s := modeChanges m 0 s w
      let v := s.comp w
      s.setComp w (if v.changing then { v with waits := some (insideRaw k) }
                   else { v with raw := insideRaw k, unresolved := false, resolve := none })
    else modeChanges 0 m s w) s

end Sys2Proof.Machine
end

