-- ==== Sys2Proof/Machine/Chan.lean ====
section
/-!
DEFINITION. Channels, precision (0 to 127) and HV (128 to 131), as one set of operations: scales, the parameter of
either block, group rails (R77), the power budget (R79, R334), and the moves between output states (R48 to R54, R169).
-/
namespace Sys2Proof.Machine

/-- The parameter a channel number means, of FCH or of HVC. -/
def cp (f h : Prm) (c : Nat) : Prm := if c < 128 then f else h

/-- The instance of a channel number in its block. -/
def ci (c : Nat) : Nat := if c < 128 then c else c - 128

/-- The block code of a channel number. -/
def cb (c : Nat) : Nat := if c < 128 then 1 else 4

/-- Read a parameter that FCH and HVC share. -/
def State.crd (s : State) (f h : Prm) (c : Nat) : Int := s.rd (cp f h c) (ci c)

/-- Write a parameter that FCH and HVC share. -/
def State.cput (s : State) (f h : Prm) (c : Nat) (v : Int) : State := s.put (cp f h c) (ci c) v

/-- A parameter that FCH and HVC share, as the loop cycle works with it. -/
def State.ceff (s : State) (f h : Prm) (c : Nat) (i : Nat := 0) : Int := s.eff (cp f h c) (ci c) i

/-- STATE of a channel (R48). -/
def State.chState (s : State) (c : Nat) : Nat := (s.crd FCH.STATE HVC.STATE c).toNat

/-- The averager of a channel restarts (R109); a sample under conversion still belongs to the sum that its instant met. -/
def restartAvg (s : State) (c : Nat) : State :=
  let r := s.group (groupOf c)
  let items := (s.avg c).items
  let s := s.setAvg c { s.avg c with items := [] }
  if r.shots.isEmpty then s
  else s.setGroup (groupOf c) { r with
    shots := r.shots.map fun x => if x.ch = c ∧ x.before.isNone then { x with before := some items } else x }

/-- Whether an HV state counts as quiet (R170): OFF or TRIPPED. -/
def quietSt (st : Nat) : Bool := st == 0 || st == 6

/-- ON_FV, ON_FI, LIMIT and CLAMP (R48). -/
def connected (st : Nat) : Bool := 2 ≤ st && st ≤ 5

/-- Enter a state. The averager restarts on a change into or out of OFF (R109); the window comparators follow the connection (R73); an HV
channel that becomes quiet stamps the time from which the boost's 1 s can run (R170). -/
def State.setChState (s : State) (c st : Nat) : State :=
  let old := s.chState c
  let s := if st < 6 ∧ (s.ch c).injectedNow then s.setCh c { s.ch c with injectedNow := false } else s
  let s := s.cput FCH.STATE HVC.STATE c st
  let s := if (old == 0) != (st == 0) then restartAvg s c else s
  if c < 128 then if connected old = connected st then s else windowsFollow s c (connected st)
  else if quietSt st && !quietSt old then { s with hv := { s.hv with quietAt := some s.clock } }
  else s

/-- SETPOINT of a channel. -/
def State.setpoint (s : State) (c : Nat) : Int := s.crd FCH.SETPOINT HVC.SETPOINT c

/-- Voltage full scale of a range code, in µV (R57, R163). -/
def vfs : Nat → Int
  | 0 => 1250000 | 1 => 4000000 | 2 => 12000000 | 3 => 30000000 | _ => 210000000

/-- Current full scale of a range code, in pA (R58). -/
def ifs (k : Nat) : Int := 1000 * 10 ^ k

/-- Current full scale of an HV range code, in pA (R163). -/
def hvIfs (k : Nat) : Int := if k = 6 then 20000000000 else 10000 * 10 ^ k

/-- Current full scale of a channel's range code, in pA. -/
def cifs (c k : Nat) : Int := if c < 128 then ifs k else hvIfs k

/-- A code on a new full scale, rounded to the nearest with halves away from zero (R65). -/
def reexpress (code old new : Int) : Int := roundDiv (code * old) new.toNat

/-- Absolute value. -/
def iabs (v : Int) : Int := if v < 0 then -v else v

/-- The requested current limit of a channel, positive side, then negative side, in pA × 16,384 (R68). -/
def limitCurrent (s : State) (c : Nat) : Int × Int :=
  let fs := cifs c (s.crd FCH.ILIM_RANGE HVC.ILIM_RANGE c).toNat
  let p := s.crd FCH.ILIM_POS HVC.ILIM_POS c
  let n := if s.crd FCH.LIM_SYM HVC.LIM_SYM c = 1 then p else s.crd FCH.ILIM_NEG HVC.ILIM_NEG c
  (p * fs, n * fs)

/-- The largest current a channel's limits allow, in pA × 16,384: the larger side, at most the full scale of the
reference range (R69). -/
def limitAdmitted (s : State) (c : Nat) : Int :=
  let l := limitCurrent s c
  let ref := if s.crd FCH.RP_EN HVC.RP_EN c = 1 then (s.crd FCH.RP_MAX HVC.RP_MAX c).toNat
    else (s.crd FCH.IRANGE HVC.IRANGE c).toNat
  min (max l.1 l.2) (cifs c ref * 16384)

/-- R71: in ON_FV above 12 V the current limit is at most 50 mA. Forced code, voltage range and limit of a channel. -/
def r71ok (code : Int) (vr : Nat) (limit : Int) : Bool :=
  iabs code * vfs vr ≤ 12000000 * 4194304 || limit ≤ 50000000000 * 16384

/-- A channel's demand on its rails in µV × 2^22, positive then negative (R77): in ON_FV that of its forced value, of a setpoint that waits
for the rails, and of one that the next boundary takes. -/
def demandOf (s : State) (c : Nat) : Int × Int :=
  let f := s.ch c
  if f.act.mode = 2 then
    let v := f.act.setp * vfs f.act.vr
    let w := (f.waitSet.getD 0) * vfs f.parVr
    let n := if f.dirty ∧ f.motion ≠ .ramping ∧ f.target = 2 then s.setpoint c * vfs f.parVr else 0
    (max 0 (max v (max w n)), min 0 (min v (min w n)))
  else if f.act.mode = 3 then (f.act.vlp * vfs f.act.vr * 256, -(f.act.vln * vfs f.act.vr * 256))
  else (0, 0)

/-- Rail targets in µV for demands in µV × 2^22 (R77). -/
def railsFor (floor : Int) (pos neg : Int) : Int × Int :=
  (max (roundDiv pos 4194304 + 2500000) (floor * 1000000),
   min (roundDiv neg 4194304 - 2500000) (-(floor * 1000000)))

/-- The largest positive and negative demand of a group: of its channels, and of the point in hand of its sweep engine (R143). -/
def groupDemand (s : State) (g : Nat) : Int × Int :=
  (groupChans g).foldl (fun a c => let d := demandOf s c; (max a.1 d.1, min a.2 d.2)) (s.engine g).demand

/-- Rail targets of a group for its present demand, and one further demand. -/
def railTargets (s : State) (g : Nat) (more : Int × Int) : Int × Int :=
  let d := groupDemand s g
  railsFor (s.rd FCH.RAIL_FLOOR (groupHome g)) (max d.1 more.1) (min d.2 more.2)

/-- The rails of a group aim at what its channels and its engine need (R77). They do not fall while a channel of the group still ramps. -/
def aimRails (s : State) (g : Nat) : State :=
  if g < 16 then
    let r := s.group g
    let t := railTargets s g (0, 0)
    let ramping := (groupChans g).any fun c => (s.ch c).motion == .ramping
    s.setGroup g { r with
      tgtP := if ramping then max t.1 r.tgtP else t.1
      tgtN := if ramping then min t.2 r.tgtN else t.2 }
  else s

/-- Loop cycles until rails reach targets: 2 V/µs is 250 mV a cycle, rounded up (R78). -/
def railDelayFor (r : Grp) (t : Int × Int) : Nat :=
  max (ceilDiv (t.1 - r.railP).toNat 250000) (ceilDiv (r.railN - t.2).toNat 250000)

/-- The demand of a forced value in ON_FV, µV × 2^22. -/
def forceDemand (code : Int) (vr : Nat) : Int × Int := (max 0 (code * vfs vr), min 0 (code * vfs vr))

/-- Delay of a forced voltage of a channel in loop cycles, in units of VRANGE (R78): a voltage that needs a rail beyond the present one
waits until that rail stands at the group's target, which the value it replaces no longer moves. HV channels have no rails (R169). -/
def setpointDelay (s : State) (c : Nat) (code : Int) : Nat :=
  if c < 128 ∧ (s.ch c).act.mode = 2 then
    let s := s.setCh c { s.ch c with waitSet := none, dirty := false }
    let r := s.group (groupOf c)
    let own := forceDemand code (s.rdN FCH.VRANGE c)
    let need := railsFor 0 own.1 own.2
    let t := railTargets s (groupOf c) own
    max (if r.railP < need.1 then ceilDiv (t.1 - r.railP).toNat 250000 else 0)
      (if need.2 < r.railN then ceilDiv (r.railN - t.2).toNat 250000 else 0)
  else 0

/-- The setpoint magnitude a channel's admission covers: its setpoint, or its immediate ceiling (R334). -/
def ceilingOf (s : State) (c : Nat) : Nat := Bank.get (fun _ => 0) s.cmd.ceilings c

/-- The ON mode whose requests a channel answers to (R49, R71, R79): while connected the mode it has or is to take, on the way from OFF the
mode asked for, else none. A start that REARM asked for leads to STANDBY (R51). -/
def State.onMode (s : State) (c : Nat) : Nat :=
  let f := s.ch c
  if connected (s.chState c) then (if 2 ≤ f.target then f.target else f.act.mode)
  else if f.motion = .starting then f.target
  else 0

/-- The magnitude that a channel's requested values at a forced code put on its group's rails, in µV × 2^22 (R77, R79). -/
def askAt (s : State) (c : Nat) (code : Int) : Int :=
  if s.onMode c = 2 then iabs code * vfs (s.ch c).parVr
  else if s.onMode c = 3 then max (s.rd FCH.VLIM_POS c) (s.rd FCH.VLIM_NEG c) * vfs (s.rdN FCH.VRANGE c) * 256
  else 0

/-- The largest such magnitude of the other channels of a channel's group, each up to its immediate ceiling (R334), with the demand of the
group's sweep engine's point and one further demand. -/
def groupAsk (s : State) (c : Nat) (more : Int) : Int :=
  let g := groupOf c
  ((groupChans g).filter (· != c)).foldl (fun m d => max m (askAt s d (max (iabs (s.setpoint d)) (ceilingOf s d))))
    (max more (max (s.engine g).demand.1 (-(s.engine g).demand.2)))

/-- The larger rail magnitude, in µV, that a channel's group aims at with everything else requested and the channel's own demand. -/
def railAsk (s : State) (c : Nat) (own : Int) : Int :=
  (railsFor (s.rd FCH.RAIL_FLOOR (groupHome (groupOf c))) (groupAsk s c own) 0).1

/-- What a channel delivers and what its stage dissipates (R79), in 10^-18 W × 2^36, at a forced code, in the ON mode it has or is asked
to take; in every other state nothing. The output voltage in
ON_FI is the last loop reading on the active range (log 165). -/
def estimateAt (s : State) (c : Nat) (code : Int) : Int × Int :=
  let f := s.ch c
  let r := railAsk s c (askAt s c code)
  if s.onMode c = 2 then
    let v := iabs code * vfs f.parVr
    (v * limitAdmitted s c, max 0 (r * 4194304 - v) * limitAdmitted s c)
  else if s.onMode c = 3 then
    let i := iabs code * cifs c f.parIr
    let vl := max (s.crd FCH.VLIM_POS HVC.VLIM_POS c) (s.crd FCH.VLIM_NEG HVC.VLIM_NEG c) * vfs (s.rdN FCH.VRANGE c)
    (i * vl, max 0 (r * 16384 - iabs f.v * vfs f.act.vr / 256) * i)
  else (0, 0)

/-- A channel's estimates: the larger of those at its setpoint, at 0 and at its ceiling, and of what running programs
reserve for it (R149, R334). -/
def estimate (s : State) (c : Nat) : Int × Int :=
  let a := estimateAt s c (s.setpoint c)
  let ceil := ceilingOf s c
  let b := if iabs (s.setpoint c) < ceil then estimateAt s c ceil else a
  let z := if iabs (s.setpoint c) < ceil then estimateAt s c 0 else a
  let own := (Bank.get (fun _ => {}) s.swe (groupOf c)).slots.foldl (init := ((0, 0) : Int × Int)) fun acc e =>
    e.2.reserve.foldl (fun acc r => if r.1 = c then (max acc.1 r.2.1, max acc.2 r.2.2.1) else acc) acc
  (max (max a.1 b.1) own.1, max (max a.2 (max b.2 z.2)) own.2)

/-- The sums over all precision channels (R79). Channels never touched contribute nothing. -/
def budgetSums (s : State) : Int × Int :=
  (List.range 128).foldl (fun acc c =>
    if (Bank.find c s.fch).isSome then
      let e := estimate s c
      (acc.1 + e.1, acc.2 + e.2)
    else acc) (0, 0)

/-- One watt in the units of `estimate`. -/
def watt : Int := 1000000000000000000 * 68719476736

/-- Whether sums are within the budget (R79): 180 W delivered, 125 W plus stages at most 220 W. -/
def withinBudget (b : Int × Int) : Bool := b.1 ≤ 180 * watt && b.2 ≤ 95 * watt

/-- BUDGET_DELIV and BUDGET_DISS report the sums admitted, in 0.1 W, rounded to the nearest (log 8). -/
def reportBudget (s : State) : State :=
  let b := budgetSums s
  (s.put FCH.BUDGET_DELIV 0 (roundDiv (b.1 * 10) watt.toNat)).put FCH.BUDGET_DISS 0
    (1250 + roundDiv (b.2 * 10) watt.toNat)

/-- Mark a channel so that the next loop-cycle boundary takes over its requested values. -/
def touch (s : State) (c : Nat) : State := s.setCh c { s.ch c with dirty := true }

/-- The window of R107 that follows a transition or a voltage-range change. -/
def settleFor (s : State) (c ns : Nat) : State :=
  s.setCh c { s.ch c with flagEnd := max (s.ch c).flagEnd (s.clock + ns) }

/-- LOOP_TUNE on the channel ends without a profile (R47). -/
def abortTune (s : State) (c : Nat) : State :=
  match (s.ch c).tune with
  | some t => (s.setCh c { s.ch c with tune := none }).complete t.src t.tag St.INTERRUPTED []
  | none => s

/-- A trip of a channel ends a built-in check on it (R542). -/
def abortRuns (s : State) (c : Nat) : State :=
  let id := cb c * 0x1000000 + ci c * 0x1000
  let mine := s.tst.runs.filter fun r => r.target == id
  if mine.isEmpty then s
  else
    let s := { s with tst := { s.tst with runs := s.tst.runs.filter fun r => r.target != id } }
    mine.foldl (fun s r => s.complete r.src r.tag St.INTERRUPTED []) s

/-- LIMIT_TIME has elapsed in LIMIT on a programmed limit (R49, R70). -/
def limitDue (s : State) (c : Nat) : Bool :=
  let t := (s.ceff FCH.LIMIT_TIME HVC.LIMIT_TIME c).toNat
  s.chState c == 4 && t != 0 && 8 * t ≤ (s.ch c).limCyc

/-- A safe-operating-area row has reached its TIME (R75, R76). -/
def soaDue (s : State) (c row : Nat) : Bool :=
  let w := s.effN FCH.SOA c row
  c < 128 && connected (s.chState c) && fld w 20 12 != 0 && 8 * fld w 0 20 ≤ (s.ch c).soa.getD row 0

/-- 64 loop cycles in CLAMP (R49). -/
def clampDue (s : State) (c : Nat) : Bool := c < 128 && s.chState c == 5 && 64 ≤ (s.ch c).clampCyc

/-- The protection causes of a channel that are due in this cycle (R80). -/
def protectionHits (s : State) (c : Nat) : List Hit :=
  (if (List.range 4).any (soaDue s c) then [{ code := 0x02 }] else []) ++
  (if limitDue s c then [{ code := 0x01 }] else []) ++
  (if clampDue s c then [{ code := 0x03 }] else [])

/-- Open the output paths, without a ramp (R50); a ramp of an HV channel stops. The safe-operating-area timers go on counting down (R75). -/
def openPaths (s : State) (c : Nat) : State :=
  let s := s.setCh c { s.ch c with
    paths := {}, motion := .still, waitSet := none, ramp := none, rampN := none, limCyc := 0, clampCyc := 0,
    clampMain := 0, clampLim := 0, clampHeld := false }
  if 128 ≤ c then s.put HVC.RAMP (ci c) 0 else s

/-- Enter TRIPPED or FAULT (R49 to R51): the protection causes that are due in this cycle are recorded, whatever opens the output (R80); the
paths open, the setpoint is forced to 0, SETPOINT keeps its value; the sums admitted follow (R79). The state left is kept for the
happenings of the same loop cycle (R80). -/
def enterOpen (s : State) (c st : Nat) : State :=
  let s := recordHits s (cb c) (ci c) none (protectionHits s c)
  let s := openPaths (abortRuns (abortTune s c) c) c
  let f := s.ch c
  let was := s.chState c
  let s := s.setCh c { f with
    act := { f.act with mode := 1, setp := 0 }
    leftAt := if connected was then some (s.clock, was) else f.leftAt }
  let s := aimRails (s.setChState c st) (groupOf c)
  let s := if c < 128 then reportBudget s else s
  if (s.ch c).owner.isSome then { s with due := s.due ++ [.tripped c] } else s

/-- Move a channel to FAULT: any state except OFF (R49). -/
def toFault (s : State) (c : Nat) : State := if s.chState c = 0 then s else enterOpen s c 7

/-- Move a channel to TRIPPED; FAULT stands over it (R466). -/
def toTripped (s : State) (c : Nat) : State := if s.chState c = 7 then s else enterOpen s c 6

/-- A channel enters OFF or STANDBY with its paths open; the loop is forced to 0 there, and the sums admitted follow (R79). -/
def settleOpen (s : State) (c st : Nat) : State :=
  let s := openPaths s c
  let f := s.ch c
  let s := s.setCh c { f with policyOff := false, act := { f.act with
    mode := st, setp := 0
    vlp := s.crd FCH.VLIM_POS HVC.VLIM_POS c, vln := s.crd FCH.VLIM_NEG HVC.VLIM_NEG c } }
  let s := aimRails (s.setChState c st) (groupOf c)
  if c < 128 then reportBudget s else s

/-- The forced quantity starts to ramp to 0 at the next boundary, before the paths open (R50, R169). -/
def startRampDown (s : State) (c tgt : Nat) : State :=
  s.setCh c { s.ch c with motion := .ramping, target := tgt, waitSet := none, dirty := true, rampNew := true }

/-- Whether the relay is to be closed on the active range (R52). -/
def relayWanted (s : State) (c : Nat) : Bool :=
  match s.rdN FCH.PATH_SEL c with
  | 0 => true
  | 1 => (s.ch c).act.ir ≤ 2
  | _ => false

/-- A forced voltage that needs a rail beyond the present one waits for it (R78). -/
def waitForRails (s : State) (c : Nat) : State :=
  if 0 < setpointDelay s c (s.setpoint c) then s.setCh c { s.ch c with waitSet := some (s.setpoint c) } else s

/-- Connect: the solid-state path closes, and the relay where PATH_SEL asks for it (R49, R53). HV channels have one path. The window of R107
runs from the loop-cycle boundary at which the transition takes effect. A forced voltage that needs a rail beyond the present one waits for
it (R78), which the write that enables the output does not report (log 207). -/
def connect (s : State) (c mode : Nat) : State :=
  let f := s.ch c
  let rel := c < 128 && relayWanted s c
  let s := s.setCh c { f with
    motion := .still, target := mode, dirty := true, rampNew := true, act := { f.act with mode := mode, setp := 0 },
    paths := { ssr := true, relay := false, relayPending := rel, ssrOpens := false } }
  let s := settleFor (s.setChState c mode) c (125 + if c < 128 then 5000 else 50000)
  aimRails (waitForRails s c) (groupOf c)

/-- The output moves as OUT_REQ asks, its checks made (R49): from OFF the loop starts; between ON modes the mode changes at the next boundary; from an ON state toward OFF or STANDBY the ramp starts, and a clamp that an OFF meets holds (R80). -/
def moveOutput (s : State) (c req : Nat) : State :=
  let st := s.chState c
  let f := s.ch c
  if st = 0 then
    if req = 0 then s.setCh c { f with motion := .still }
    else s.setCh c { f with motion := .starting, target := req }
  else if st = 6 ∨ st = 7 then
    if req = 0 then settleOpen s c 0 else s
  else if st = 1 then
    if req = 0 then settleOpen s c 0
    else if req = 1 then s.setCh c { f with motion := .still, target := 1 }
    else connect s c req
  else if req ≤ 1 then
    let s := startRampDown s c req
    if st = 5 ∧ req = 0 then s.setCh c { s.ch c with clampHeld := true } else s
  else
    let s := s.setCh c { f with target := req, motion := .still, clampHeld := false, dirty := true, rampNew := f.rampNew || f.target != req }
    aimRails (if f.motion = .ramping ∧ req = 2 then waitForRails s c else s) (groupOf c)

/-- A channel's limit entry or exit publishes on its channel when the limit is the programmed one (R70). -/
def publishLimit (s : State) (c : Nat) (entry : Bool) : State :=
  if s.crd FCH.LIMIT_SRC HVC.LIMIT_SRC c = 0 then
    s.publish (if entry then s.ceff FCH.EV_LIMIT_IN HVC.EV_LIMIT_IN c else s.ceff FCH.EV_LIMIT_OUT HVC.EV_LIMIT_OUT c)
  else s

/-- The active current range of a channel. -/
def State.irange (s : State) (c : Nat) : Nat := (s.ch c).act.ir

/-- SETTLE_DN of the change from `k` to `k − 1`, in ns (R61, R172). -/
def settleDn (s : State) (c k : Nat) : Nat :=
  500 * (s.ceff FCH.SETTLE_DN HVC.SETTLE_DN c (k - 1)).toNat

/-- Every shunt's ratio for a decade or, on HV range 6, the ratio of its full scales; the current feedback and the loop state are
rescaled so that the normalised state is unchanged (R42). -/
def rescale (c fromR toR : Nat) (f : Fch) : Fch :=
  let ratio : Rat := (cifs c fromR : Rat) / (cifs c toR : Rat)
  let m := fun (x : Rat) => x * ratio
  { f with i := reexpress f.i (cifs c fromR) (cifs c toR), integ := m f.integ, linP := m f.linP, linN := m f.linN }

/-- The paths after a range change (R52, R53): PATH_SEL takes effect here; the solid-state path is closed wherever the
relay is open or a range above code 1 is active. -/
def pathsAfterRange (s : State) (c : Nat) : State :=
  let f := s.ch c
  if c < 128 ∧ connected (s.chState c) then
    let want := relayWanted s c
    let keep := want && f.paths.relay
    let low := keep && decide (f.act.ir ≤ 1)
    s.setCh c { f with paths := {
      ssr := !low || f.paths.ssr
      relay := keep
      relayPending := want && !keep
      ssrOpens := low && f.paths.ssr } }
  else s

/-- One decade up (R60, R172): the swap cycle and the next carry PAIR, or SETTLING on HV; an open settle window ends;
policy counts restart; the averager restarts. -/
def stepUp (s : State) (c : Nat) : State :=
  let f := s.ch c
  let k := f.act.ir
  let f := rescale c k (k + 1) f
  let f := { f with act := { f.act with ir := k + 1 }, up := 0, dn := 0, settleEnd := 0 }
  pathsAfterRange (restartAvg (s.setCh c { f with pairEnd := s.clock + 250 }) c) c

/-- One decade down (R61, R172): the settle window of the change opens. A swap window that is still open goes on (log 208). -/
def stepDown (s : State) (c : Nat) : State :=
  let f := s.ch c
  let k := f.act.ir
  let f := rescale c k (k - 1) f
  let f := { f with act := { f.act with ir := k - 1 }, up := 0, dn := 0, settleEnd := s.clock + settleDn s c k }
  pathsAfterRange (restartAvg (s.setCh c f) c) c

/-- The next step of a chain of one-decade changes toward `irTarget` (R63): up at once, down when no settle window is
open. -/
def chainStep (s : State) (c : Nat) : State :=
  let f := s.ch c
  if f.act.ir < f.irTarget then stepUp s c
  else if f.irTarget < f.act.ir ∧ f.settleEnd ≤ s.clock then stepDown s c
  else s

/-- The immediate ceiling of a channel returns to its setpoint's magnitude (R334). -/
def resetCeiling (s : State) (c : Nat) : State :=
  let v := Bank.set (fun _ => 0) s.cmd.ceilings c (iabs (s.setpoint c)).toNat
  { s with cmd := { s.cmd with ceilings := v } }

/-- The values of a channel's parameters that its loop works with (R82). A setpoint that waits for the rails, a value
that ramps, and a channel that is not on keep what they have. -/
def requested (s : State) (c : Nat) (a : Act) : Act :=
  let f := s.ch c
  let hold := f.waitSet.isSome || a.mode ≤ 1 || f.motion == .ramping || (128 ≤ c && a.mode == 2)
  let holdV := 128 ≤ c && a.mode == 3
  { a with
    setp := if hold then a.setp else s.setpoint c
    sir := if hold then a.sir else f.parIr
    vr := if c < 128 then s.rdN FCH.VRANGE c else 4
    prof := (s.crd FCH.PROFILE_SEL HVC.PROFILE_SEL c).toNat
    limSym := (s.crd FCH.LIM_SYM HVC.LIM_SYM c).toNat
    vlp := if holdV then a.vlp else s.crd FCH.VLIM_POS HVC.VLIM_POS c
    vln := if holdV then a.vln else s.crd FCH.VLIM_NEG HVC.VLIM_NEG c
    ilr := (s.crd FCH.ILIM_RANGE HVC.ILIM_RANGE c).toNat
    ilp := s.crd FCH.ILIM_POS HVC.ILIM_POS c
    iln := s.crd FCH.ILIM_NEG HVC.ILIM_NEG c
    margin := if c < 128 then s.rd FCH.CLAMP_MARGIN c else 0 }

/-- A ramp of an HV channel between two codes of which `unit` is full scale, at SLEW (R167); 1 V/ms is 1 µV/ns. -/
def hvRamp (s : State) (c : Nat) (unit : Int) (cur goal : Int) : Option Ramp :=
  if cur = goal then none
  else
    let ns := 125 * ceilDiv (iabs (goal - cur) * vfs 4).toNat (unit.toNat * s.rdN HVC.SLEW (ci c) * 125)
    some { from_ := cur, to_ := goal, t0 := s.clock, t1 := s.clock + ns }

/-- The value of a ramp at a time. -/
def rampAt (r : Ramp) (t : Nat) : Int :=
  if r.t1 ≤ t then r.to_
  else r.from_ + roundDiv ((r.to_ - r.from_) * (t - r.t0 : Nat)) (r.t1 - r.t0)

/-- The ramps of an HV channel start anew from the values reached (R167, R169): to 0 when the output is to open. -/
def startHvRamps (s : State) (c : Nat) : State :=
  let f := s.ch c
  let down := f.motion == .ramping
  let goal := fun (v : Int) => if down then 0 else v
  let f :=
    if f.act.mode = 2 then
      { f with ramp := hvRamp s c 4194304 f.act.setp (goal (s.setpoint c)), rampN := none }
    else if f.act.mode = 3 then
      { f with ramp := hvRamp s c 16384 f.act.vlp (goal (s.rd HVC.VLIM_POS (ci c)))
               rampN := hvRamp s c 16384 f.act.vln (goal (s.rd HVC.VLIM_NEG (ci c))) }
    else { f with ramp := none, rampN := none }
  (s.setCh c { f with rampNew := false }).put HVC.RAMP (ci c) (b2n (f.ramp.isSome || f.rampN.isSome))

/-- One loop cycle of an HV channel's ramps. -/
def rampCycle (s : State) (f : Fch) : Fch :=
  let at_ := fun (r : Option Ramp) (v : Int) => match r with
    | some r => rampAt r s.clock
    | none => v
  if f.act.mode = 2 then { f with act := { f.act with setp := at_ f.ramp f.act.setp } }
  else { f with act := { f.act with vlp := at_ f.ramp f.act.vlp, vln := at_ f.rampN f.act.vln } }

/-- A change of voltage range takes effect (R65): in ON_FV the forced voltage, its ramp and a setpoint that waits are kept, and SETPOINT is
expressed in units of the new range where it is not yet; else the codes stand. -/
def rangeV (s : State) (c : Nat) (keep : Bool) : State :=
  let f := s.ch c
  let vr := s.rdN FCH.VRANGE c
  if 128 ≤ c then s
  else
    let into := fun (old : Nat) (v : Int) => if old = vr then v else reexpress v (vfs old) (vfs vr)
    let s := if keep ∧ f.parVr ≠ vr then resetCeiling (s.put FCH.SETPOINT c (into f.parVr (s.setpoint c))) c else s
    s.setCh c { f with
      parVr := vr
      waitSet := if keep then f.waitSet.map (into f.parVr) else f.waitSet
      act := { f.act with setp := if keep then into f.act.vr f.act.setp else f.act.setp } }

/-- A written IRANGE takes effect as the chain's target (R63); in ON_FI the forced current is kept (R65), and the policy counts restart
(R80). -/
def rangeI (s : State) (c : Nat) (keep : Bool) : State :=
  let f := s.ch c
  let ir := (s.crd FCH.IRANGE HVC.IRANGE c).toNat
  if !f.irNew then s
  else
    let into := fun (old : Nat) (v : Int) => if old = ir then v else reexpress v (cifs c old) (cifs c ir)
    let s := if keep ∧ f.parIr ≠ ir then
        resetCeiling (s.cput FCH.SETPOINT HVC.SETPOINT c (into f.parIr (s.setpoint c))) c
      else s
    s.setCh c { f with
      irNew := false, irTarget := ir, parIr := ir, up := 0, dn := 0
      act := { f.act with sir := ir, setp := if keep then into f.act.sir f.act.setp else f.act.setp } }

/-- A loop-cycle boundary takes over what was written since the last (R82): ranges first (R65, R80), then the rest; a change
of ON mode preloads the main integrator from the present output (R49) and marks samples (R107), and a forced voltage that follows a forced
current starts from the present one where it waits for the rails or ramps (R78, R167). A new voltage range scales the thresholds that the
voltage window comparators have while nothing is connected (R196, R203). -/
def takeOver (s : State) (c : Nat) : State :=
  let f := s.ch c
  if !f.dirty then s
  else
    let on := connected (s.chState c)
    let newMode := on ∧ f.motion ≠ .ramping ∧ f.act.mode ≠ f.target ∧ 2 ≤ f.target
    let vrNew := c < 128 ∧ s.rdN FCH.VRANGE c ≠ f.act.vr
    let s := rangeV s c (on && !newMode && f.act.mode == 2)
    let s := rangeI s c (on && !newMode && f.act.mode == 3)
    let f := s.ch c
    let s := if newMode then
        let f := { f with
          integ := f.out
          act := { f.act with mode := f.target, setp := if f.target = 2 then f.v else f.act.setp } }
        waitForRails (s.setCh c f) c
      else s
    let f := s.ch c
    let s := s.setCh c { f with dirty := false, act := requested s c f.act }
    let s := if 128 ≤ c ∧ on ∧ f.rampNew then startHvRamps s c else s
    let s := if vrNew then restartAvg s c else s
    let s := if vrNew ∧ !on then bandChanges (bandChanges s (.window c 0)) (.window c 1) else s
    let s := if c < 128 ∧ (vrNew ∨ newMode) then settleFor s c 5000 else s
    let s := if newMode then resetCeiling s c else s
    let s := if newMode ∧ 2 ≤ s.chState c ∧ s.chState c ≤ 3 then s.setChState c f.act.mode else s
    aimRails s (groupOf c)

end Sys2Proof.Machine
end

