-- ==== Sys2Proof/Machine/Coef.lean ====
section
/-!
DEFINITION. Coefficient sets in use (R437, R438): the polynomial, the present terms of each kind of set, and limiting.
-/
namespace Sys2Proof.Machine

/-- G × x + K × x² / 2^N + O / 256, rounded to the nearest unit (R438): G in 1/2^30, K in 1/2^31. -/
def calibrate (g o k : Int) (n : Nat) (x : Int) : Int :=
  roundDiv (g * x * 2 ^ (n + 9) + k * x * x * 2 ^ 8 + o * 2 ^ (31 + n)) (2 ^ (39 + n))

/-- A set's result with its present terms. -/
def State.coef (s : State) (g o k : Prm) (inst i n : Nat) (x : Int) : Int :=
  calibrate (s.rd g inst i) (s.rd o inst i) (s.rd k inst i) n x

/-- The probe that LOOP_TUNE superimposes on the setpoint, in its units (R46, R166): ±0.1 % of full scale, ±210 mV on HV, at most 20 ms, on
HV 200 ms. -/
def probeCode (s : State) (c : Nat) : Int :=
  match (s.ch c).tune with
  | some t => if t.ran < (if c < 128 then 160000 else 1600000) then (if t.high then 4194 else -4194) else 0
  | none => 0

/-- The present forced value in units of the active range of the forced quantity, with a probe. -/
def forcedCode (s : State) (c : Nat) : Int :=
  let a := (s.ch c).act
  (if a.mode = 3 ∧ a.sir ≠ a.ir then reexpress a.setp (cifs c a.sir) (cifs c a.ir) else a.setp) + probeCode s c

/-- The calibrated setpoint of a channel's present forced value, before its limit (R438). -/
def rawForce (s : State) (c : Nat) : Int :=
  let a := (s.ch c).act
  let x := forcedCode s c
  if c < 128 then
    if a.mode = 3 then s.coef FCH.FI_GP FCH.FI_OP FCH.FI_KP c a.ir 22 x
    else s.coef FCH.FV_GP FCH.FV_OP FCH.FV_KP c a.vr 22 x
  else if a.mode = 3 then s.coef HVC.FI_GP HVC.FI_OP HVC.FI_KP (ci c) a.ir 22 x
  else s.coef HVC.FV_GP HVC.FV_OP HVC.FV_KP (ci c) 0 22 x

/-- A loop-converter reading of V or I after calibration (R438). -/
def loopCal (s : State) (c : Nat) (amps : Bool) (x : Int) : Int :=
  if c < 128 then
    if amps then s.coef FCH.LOOP_I_GP FCH.LOOP_I_OP FCH.LOOP_I_KP c 0 22 x
    else s.coef FCH.LOOP_V_GP FCH.LOOP_V_OP FCH.LOOP_V_KP c 0 22 x
  else if amps then s.coef HVC.LOOP_I_GP HVC.LOOP_I_OP HVC.LOOP_I_KP (ci c) 0 22 x
  else s.coef HVC.LOOP_V_GP HVC.LOOP_V_OP HVC.LOOP_V_KP (ci c) 0 22 x

/-- A result was limited (R438): counted, and cause OUT_CLIP (0x05, R457) in the CAL window. -/
def clipped (s : State) : State := record (s.bump CAL.CLIP_COUNT) 0x0C 0 0x05

/-- The force DAC takes the calibrated setpoint, limited to 24 bits (R438). -/
def writeForce (s : State) (c : Nat) : State :=
  let v := rawForce s c
  let w := clampInt (-8388608) 8388607 v
  let f := s.ch c
  let s := s.setCh c { f with force := w }
  if v ≠ w ∧ f.force ≠ w then clipped s else s

end Sys2Proof.Machine
end

