-- ==== Sys2Proof/Machine/Sweep.lean ====
section
/-!
DEFINITION. Sweep engines (R126 to R161): entries and their checks, admission, applying a point, CONTROL entries,
slots, holds, pre-emption and point status. Rows of the table act through these.
-/
namespace Sys2Proof.Machine

/-- An all-zero record. -/
def Quad.zero : Quad := ⟨0, 0, 0, 0⟩

/-- A region by its handle. -/
def State.region (s : State) (h : Nat) : Option Region := Bank.get (fun _ => none) s.regions h

/-- Replace a region. -/
def State.setRegion (s : State) (h : Nat) (r : Option Region) : State :=
  { s with regions := Bank.set (fun _ => none) s.regions h r }

/-- A slot parameter of an engine. -/
def State.slotRd (s : State) (p : Prm) (e k : Nat) : Nat := s.rdN p e k

/-- SLOT_STATE of a slot (R150). -/
def State.slotState (s : State) (e k : Nat) : Nat := s.rdN SWE.SLOT_STATE e k

/-- Enter a slot state. -/
def State.setSlotState (s : State) (e k v : Nat) : State := s.wr SWE.SLOT_STATE e k v

/-- A slot's run state. -/
def State.slot (s : State) (e k : Nat) : SweSlot := Bank.get (fun _ => {}) (s.engine e).slots k

/-- Replace a slot's run state. -/
def State.setSlot (s : State) (e k : Nat) (v : SweSlot) : State :=
  s.setEngine e { s.engine e with slots := Bank.set (fun _ => {}) (s.engine e).slots k v }

/-- The slot in control of an engine, 7 none (R161). -/
def State.runSlot (s : State) (e : Nat) : Nat := s.rdN SWE.RUN_SLOT e

/-- The channels a mask selects in an engine's group (R134). -/
def maskChans (e mask : Nat) : List Nat :=
  if e < 16 then (maskBits 8 mask).map fun k => 8 * e + k else (maskBits 4 mask).map fun k => 128 + k

/-- The channels of a slot's CHAN_SET. -/
def slotChans (s : State) (e k : Nat) : List Nat := maskChans e (s.slotRd SWE.CHAN_SET e k)

/-- The entry at an index of a slot's region; past the end it is END (R138). -/
def entryAt (s : State) (h i : Nat) : Quad :=
  match s.region h with
  | some r => if i < r.count then Bank.get (fun _ => Quad.zero) s.sweMem (r.base + i) else ⟨0x703, 0, 0, 0⟩
  | none => ⟨0x703, 0, 0, 0⟩

/-- KIND of an entry (R133). -/
def eKind (q : Quad) : Nat := fld q.w0 0 2

/-- MODE of a point entry: 0 FV, 1 FI, 2 OFF, 3 HOLD (R134). -/
def eMode (q : Quad) : Nat := fld q.w0 2 2

/-- FRANGE of a point, or PRANGE of a pulse. -/
def eRange (q : Quad) : Nat := fld q.w0 4 4

/-- FORCE of a point, or PFORCE of a pulse. -/
def eForce (q : Quad) : Int := sfld 24 (fld q.w0 8 24)

/-- LIMIT of a point, or PLIMIT of a pulse. -/
def eLimit (q : Quad) : Nat := fld q.w1 16 16

/-- LRANGE of a point. -/
def eLrange (q : Quad) : Nat := fld q.w1 12 4

/-- DWELL of a point, or PSTART of a pulse. -/
def eDwell (q : Quad) : Nat := fld q.w2 8 24

/-- PWIDTH of a pulse. -/
def ePwidth (q : Quad) : Nat := fld q.w3 8 24

/-- Delay to the first sample instant in loop cycles (R134). -/
def eMdelay (q : Quad) : Nat := fld q.w3 2 10 * 16 ^ fld q.w3 0 2

/-- A pulse above 100 mA (R139). -/
def bigPulse (base ext : Quad) : Bool :=
  if eMode base = 0 then eLrange base == 8 && 16384 < eLimit ext else eRange ext == 9

/-- Whether the range codes of an FV or FI point are those of the region's kind (R139). -/
def rangesOk (hv : Bool) (mode fr lr : Nat) : Bool :=
  let v := if mode = 0 then fr else lr
  let i := if mode = 0 then lr else fr
  if hv then v == 4 && i ≤ 6 else v ≤ 3 && i ≤ 8

/-- The checks of a POINT or PULSE entry of its own (R139). -/
def pointOk (hv : Bool) (q : Quad) : Bool :=
  let forced := eMode q ≤ 1
  fld q.w1 8 4 ≤ 8 && fld q.w1 4 4 ≤ 8 && 8 ≤ eDwell q && (!hv || fld q.w2 4 4 == 0) &&
  (eKind q == 0 || forced) &&
  (!forced ||
    (rangesOk hv (eMode q) (eRange q) (eLrange q) && 1 ≤ eLimit q && eLimit q ≤ 16384 &&
     iabs (eForce q) ≤ 4194304 &&
     (hv || eMode q != 0 || eRange q != 3 || r71ok (eForce q) 3 (eLimit q * ifs (eLrange q)))))

/-- The checks of a PULSE_EXT entry against its PULSE (R135, R139). -/
def pulseOk (hv : Bool) (base ext : Quad) : Bool :=
  let fi := eMode base == 1
  eKind ext == 2 && fld ext.w0 2 2 == 0 && fld ext.w1 0 16 == 0 && fld ext.w2 0 8 == 0 && fld ext.w3 0 8 == 0 &&
  (eRange ext == eRange base || (fi && !hv && eRange ext == 9 && eRange base == 8)) &&
  1 ≤ eLimit ext && (eLimit ext ≤ 16384 || (!fi && !hv && eLrange base == 8)) &&
  8 ≤ eDwell ext && 8 ≤ ePwidth ext && eDwell ext + ePwidth ext + 8 ≤ eDwell base &&
  iabs (eForce ext) ≤ 4194304 &&
  (hv || fi || eRange ext != 3 || r71ok (eForce ext) 3 (eLimit ext * ifs (eLrange base))) &&
  (!bigPulse base ext ||
    (!hv && ePwidth ext ≤ 8000 && 20 * ePwidth ext ≤ eDwell base &&
     (if fi then decide (eLimit ext * vfs (eLrange base) ≤ 12000000 * 16384) && iabs (eForce ext) ≤ 1677721
      else iabs (eForce ext) * vfs (eRange ext) ≤ 12000000 * 4194304)))

/-- The checks of a CONTROL entry of its own (R136, R139), the target within a region of `count` entries. -/
def controlOk (count : Nat) (q : Quad) : Bool :=
  fld q.w0 8 4 ≤ 7 && fld q.w0 2 6 == 0 && fld q.w0 12 20 < count && q.w2 == 0 && q.w3 == 0

/-- Whether no CONTROL entry names a PULSE_EXT entry (R139). -/
def targetsOk (all : List Quad) (q : Quad) : Bool :=
  eKind q != 3 || eKind (all.getD (fld q.w0 12 20) Quad.zero) != 2

/-- Index of the first entry an upload does not accept, counted from `i` (R128); none when all are accepted. Where a fault cuts the
upload short, a PULSE that came last lacks its PULSE_EXT by that fault alone. -/
def firstBad (hv cut : Bool) (all : List Quad) : Nat → List Quad → Option Nat
  | _, [] => none
  | i, [q] =>
    match eKind q with
    | 0 => if pointOk hv q then none else some i
    | 1 => if cut && pointOk hv q then none else some i
    | 3 => if controlOk all.length q && targetsOk all q then none else some i
    | _ => some i
  | i, q :: x :: r =>
    match eKind q with
    | 0 => if pointOk hv q then firstBad hv cut all (i + 1) (x :: r) else some i
    | 1 =>
      if !pointOk hv q then some i
      else if pulseOk hv q x then firstBad hv cut all (i + 2) r else some (i + 1)
    | 3 => if controlOk all.length q && targetsOk all q then firstBad hv cut all (i + 1) (x :: r) else some i
    | _ => some i

/-- The lowest base of a free run of `n` entries (a whole multiple of 16), given regions sorted by base (R127). -/
def lowestRun (n : Nat) : Nat → List (Nat × Nat) → Option Nat
  | at_, [] => if at_ + n ≤ 1048576 then some at_ else none
  | at_, (b, c) :: r => if at_ + n ≤ b then some at_ else lowestRun n (max at_ (b + c)) r

/-- The largest free run, given regions sorted by base. -/
def largestRun : Nat → Nat → List (Nat × Nat) → Nat
  | at_, best, [] => max best (1048576 - at_)
  | at_, best, (b, c) :: r => largestRun (max at_ (b + c)) (max best (b - at_)) r

/-- Insert a run by its base. -/
def putRun (x : Nat × Nat) : List (Nat × Nat) → List (Nat × Nat)
  | [] => [x]
  | y :: ys => if x.1 < y.1 then x :: y :: ys else y :: putRun x ys

/-- The space a count of entries takes: a whole multiple of 16 (R126). -/
def roomFor (count : Nat) : Nat := ceilDiv count 16 * 16

/-- The allocated runs, sorted by base. -/
def runs (s : State) : List (Nat × Nat) :=
  s.regions.foldl (fun acc e => match e.2 with
    | some r => putRun (r.base, roomFor r.count) acc
    | none => acc) []

/-- MEM_FREE, MEM_LARGEST and REGIONS follow the regions (R161). -/
def reportMem (s : State) : State :=
  let rs := runs s
  let used := rs.foldl (fun a r => a + r.2) 0
  ((s.put SWE.MEM_FREE 0 (1048576 - used : Nat)).put SWE.MEM_LARGEST 0 (largestRun 0 0 rs)).put SWE.REGIONS 0 rs.length

/-- The lowest handle not in use (R126). -/
def lowestHandle (s : State) : Nat :=
  ((List.range 4097).map (· + 1)).find? (fun h => (s.region h).isNone) |>.getD 0

/-- Whether a slot that is not EMPTY references a region (R129). -/
def regionUsed (s : State) (h : Nat) : Bool :=
  (List.range 17).any fun e => (List.range 4).any fun k =>
    s.slotState e k != 0 && s.slotRd SWE.REGION e k == h

/-- A stream. -/
def State.stream (s : State) (n : Nat) : Stm := Bank.get (fun _ => {}) s.stm n

/-- Replace a stream. -/
def State.setStream (s : State) (n : Nat) (v : Stm) : State := { s with stm := Bank.set (fun _ => {}) s.stm n v }

/-- STM.STATE (R394). -/
def State.stmState (s : State) (n : Nat) : Nat := s.rdN STM.STATE n

/-- Whether a stream accepts records (R379, R394): a started one from the next loop-cycle boundary. -/
def accepts (s : State) (n : Nat) : Bool :=
  (s.stmState n == 2 || s.stmState n == 3 || s.stmState n == 5) && decide ((s.stream n).openAt ≤ s.clock)

/-- The stream that carries a group, if any accepts its records (R379). -/
def carrier (s : State) (g : Nat) : Option Nat :=
  (List.range 31).find? fun n => bit (s.rdN STM.SRC_GROUPS n) g && accepts s n

/-- One lost record of an instant in ns enters a gap (R385): first and last are by the order in which the records would have been placed,
that of their instants (log 211). -/
def Gap.add (g : Gap) (who : Option (Nat × Nat)) (time cause : Nat) : Gap :=
  let first := who.isSome && (g.first.isNone || decide (time < g.firstAt))
  let last := who.isSome && (g.last.isNone || decide (g.lastAt ≤ time))
  let lead := g.count == 0 || decide (time < g.causeAt)
  { count := min (g.count + 1) 0xFFFFFFFF
    first := if first then who else g.first
    firstAt := if first then time else g.firstAt
    last := if last then who else g.last
    lastAt := if last then time else g.lastAt
    cause := if lead then cause else g.cause
    causeAt := if lead then time else g.causeAt
    multi := g.multi || (g.count != 0 && g.cause != cause) }

/-- A loss enters the gap of the stream's next block (R385). -/
def loseIn (s : State) (n : Nat) (who : Option (Nat × Nat)) (time cause : Nat) : State :=
  let t := s.stream n
  s.setStream n { t with gap := t.gap.add who time cause }

/-- A record of a group is lost ahead of the crossing or by CONV_FAULT (R20, R385). -/
def loseAhead (s : State) (g : Nat) (who : Option (Nat × Nat)) (time : Nat) : State :=
  match carrier s g with
  | some n => loseIn s n who time 1
  | none => s

/-- Write a point status into PT_STATUS and the ring, newest first (R156). -/
def pushStatus (s : State) (e : Nat) (q : Quad) : State :=
  let v : Int := q.w0 + 2 ^ 32 * q.w1 + 2 ^ 64 * q.w2 + 2 ^ 96 * q.w3
  let old := (List.range 63).map fun i => s.rd SWE.PT_RING e i
  let s := s.put SWE.PT_STATUS e v
  let s := s.wr SWE.PT_RING e 0 v
  (old.zipIdx).foldl (fun s p => s.wr SWE.PT_RING e (p.2 + 1) p.1) s

/-- The delay from Ta to the first sample instant of a point, in loop cycles (R143 step 5). -/
def sampleOfs (q ext : Quad) : Nat := (if eKind q = 1 then eDwell ext else 0) + eMdelay q

/-- The number of the next sample instant of a point that applies at `ta`, at the present boundary: none that has passed, whether it was taken
or TRIG_SRC was not SWEEP then (R143 step 5, R144). -/
def nextIndex (s : State) (e : Nat) (q ext : Quad) (ta : Nat) : Nat :=
  max (s.engine e).taken (ceilDiv (s.clock - (ta + 125 * sampleOfs q ext)) (125 * (s.group e).period))

/-- The sample instants of the present point that count in TRUNC: those at or after Ta + DWELL (R144), or where EV_NEXT ends it those not
yet taken (R157); none while TRIG_SRC is not SWEEP. -/
def truncOf (s : State) (e : Nat) : Nat :=
  let t := s.engine e
  let h := s.slotRd SWE.REGION e (s.runSlot e)
  let q := entryAt s h t.entry
  let ext := entryAt s h (t.entry + 1)
  let within := ceilDiv (eDwell q - sampleOfs q ext) (s.group e).period
  if (s.group e).src ≠ 3 then 0
  else fld q.w3 12 8 - (if t.nexted then nextIndex s e q ext t.ta else within)

/-- The point status of the present point (R156). -/
def statusOf (s : State) (e : Nat) (cut held aborted : Bool) (cutOfs : Nat) : Quad :=
  let t := s.engine e
  { w0 := t.entry * 4096 + s.runSlot e * 1024 + b2n cut * 512 + b2n t.restarted * 256 + b2n t.limitSeen * 128 +
      b2n t.tripSeen * 64 + b2n t.nexted * 32 + b2n held * 16 + b2n aborted * 8
    w1 := min t.railDelay 0xFFFF * 65536 + min (truncOf s e) 0xFF * 256
    w2 := min t.waited 0xFFFFFFFF
    w3 := cutOfs % 2 ^ 24 }

/-- The group's stream takes a copy of a point status while PT_REC is 1 (R156, R386): it waits ahead of the crossing as other records of the
group do, and is lost where 2,048 wait (R20, R385). -/
def recordStatus (s : State) (e : Nat) (q : Quad) : State :=
  if s.eff SWE.PT_REC e = 1 then
    let g := s.group e
    let r : Held := { q := { q with w1 := q.w1 + e, w3 := 0xF1000000 }, time := s.now }
    if g.fifo.length < 2048 then s.setGroup e { g with fifo := g.fifo ++ [r] }
    else record (loseAhead (s.bump MSR.REC_LOST (groupHome e)) e none s.now) 2 (groupHome e) 0x02
  else s

/-- Write and copy the point status. -/
def closeStatus (s : State) (e : Nat) (cut held aborted : Bool) (cutOfs : Nat) : State :=
  let q := statusOf s e cut held aborted cutOfs
  recordStatus (pushStatus s e q) e q

/-- Ownership of a slot's channels begins or ends (R140). -/
def own (s : State) (e k : Nat) (on : Bool) : State :=
  (slotChans s e k).foldl (fun s c => s.setCh c { s.ch c with owner := if on then some e else none }) s

/-- END_ACTION for a slot's channels (R155). -/
def endAction (s : State) (e k : Nat) : State :=
  match s.slotRd SWE.END_ACTION e k with
  | 1 => (slotChans s e k).foldl (fun s c => moveOutput (s.cput FCH.OUT_REQ HVC.OUT_REQ c 1) c 1) s
  | 2 => (slotChans s e k).foldl (fun s c => moveOutput (s.cput FCH.OUT_REQ HVC.OUT_REQ c 0) c 0) s
  | _ => s

/-- Reserved budget goes back (R149, R151), and no start or abort of the slot waits any more. -/
def unreserve (s : State) (e k : Nat) : State :=
  reportBudget (s.setSlot e k { s.slot e k with reserve := [], goAt := none, abortAt := none })

/-- The writes of R141 for one channel; `off` while a pulse above 100 mA has the policy treat RP_EN as 0 (R147). A forced voltage beyond
the present rails waits for them (R78), which after step 3 of R143 none does. -/
def applyTo (s : State) (off : Bool) (c : Nat) (q : Quad) : State :=
  let newForce := decide (s.onMode c ≠ 2 + eMode q) || decide ((if eMode q = 0 then (s.ch c).parVr else (s.ch c).parIr) ≠ eRange q)
  let s := if eMode q ≤ 1 then s.setCh c { s.ch c with waitSet := none, rampNew := true, policyOff := off } else s
  let s := match eMode q with
    | 0 =>
      let s := s.cput FCH.OUT_REQ HVC.OUT_REQ c 2
      let s := if c < 128 then (s.put FCH.VRANGE c (eRange q)).setCh c { s.ch c with parVr := eRange q } else s
      let s := s.cput FCH.SETPOINT HVC.SETPOINT c (eForce q)
      let s := if newForce then resetCeiling s c else s
      let s := s.cput FCH.LIM_SYM HVC.LIM_SYM c 1
      let s := s.cput FCH.ILIM_RANGE HVC.ILIM_RANGE c (eLrange q)
      let s := s.cput FCH.ILIM_POS HVC.ILIM_POS c (eLimit q)
      let s := if off || s.crd FCH.RP_EN HVC.RP_EN c == 0 then
          (s.cput FCH.IRANGE HVC.IRANGE c (eLrange q)).setCh c { s.ch c with irNew := true }
        else s
      waitForRails (moveOutput s c 2) c
    | 1 =>
      let s := s.cput FCH.OUT_REQ HVC.OUT_REQ c 3
      let s := s.cput FCH.IRANGE HVC.IRANGE c (eRange q)
      let s := s.setCh c { s.ch c with irNew := true, parIr := eRange q }
      let s := s.cput FCH.SETPOINT HVC.SETPOINT c (eForce q)
      let s := if newForce then resetCeiling s c else s
      let s := if c < 128 then s.put FCH.VRANGE c (eLrange q) else s
      let s := s.cput FCH.VLIM_POS HVC.VLIM_POS c (eLimit q)
      let s := s.cput FCH.VLIM_NEG HVC.VLIM_NEG c (eLimit q)
      moveOutput s c 3
    | 2 => moveOutput (s.cput FCH.OUT_REQ HVC.OUT_REQ c 1) c 1
    | _ => s
  let s := s.put MSR.AVG_N c (2 ^ fld q.w1 8 4 : Nat)
  let s := s.put MSR.AVG_S c (fld q.w1 4 4)
  takeOver (touch (restartAvg s c) c) c

/-- The masked channels of a point that the slot may drive (R141). -/
def pointChans (s : State) (e k : Nat) (q : Quad) : List Nat :=
  (maskChans e (fld q.w2 0 8)).filter fun c => (slotChans s e k).contains c

/-- The pulses seen that reach the engine after the present boundary (R137). -/
def lateSeen (s : State) (e : Nat) : List (Nat × Nat) := (s.engine e).evSeen.filter fun x => decide (s.clock * 65536 < x.2)

/-- The pulses seen that had reached the engine by the present boundary: one at the point's end boundary counts for that point (R137, R158). -/
def sweepSeen (s : State) (e : Nat) : List (Nat × Nat) := (s.engine e).evSeen.filter fun x => decide (x.2 ≤ s.clock * 65536)

/-- Apply the point at Ta (R143 step 4). The range policy that a pulse above 100 mA suspended returns, and stays out for the channels of
the next such pulse (R147). -/
def applyPoint (s : State) (e : Nat) : State :=
  let k := s.runSlot e
  let q := entryAt s (s.slotRd SWE.REGION e k) (s.engine e).entry
  let ext := entryAt s (s.slotRd SWE.REGION e k) ((s.engine e).entry + 1)
  let s := (slotChans s e k).foldl (fun s c => s.setCh c { s.ch c with policyOff := false }) s
  let s := (pointChans s e k q).foldl (applyTo · (eKind q == 1 && bigPulse q ext) · q) s
  let s := s.setEngine e { s.engine e with pt := .applied, ta := s.clock, limitSeen := false, evSeen := lateSeen s e, pulsed := false }
  let s := s.setSlot e k { s.slot e k with lastPoint := some (s.engine e).entry, restart := false }
  let s := s.bump SWE.POINT_COUNT e
  let s := s.put SWE.STATE e 1
  let s := s.setSlotState e k 4
  if bit q.w1 2 && fld q.w1 0 2 == 0 then s.publish (fld q.w3 20 6) else s

/-- The writes of a pulse's edge on one channel (R135, R147): force, in units of its range, and limit of the mode. -/
def pulseWrite (s : State) (c : Nat) (q : Quad) (fr : Nat) (force : Int) (limit : Nat) : State :=
  let s := s.cput FCH.SETPOINT HVC.SETPOINT c force
  let s := if eMode q = 1 ∧ (s.ch c).parIr ≠ fr then resetCeiling s c else s
  let s := if eMode q = 0 then s.cput FCH.ILIM_POS HVC.ILIM_POS c limit
    else (s.cput FCH.VLIM_POS HVC.VLIM_POS c limit).cput FCH.VLIM_NEG HVC.VLIM_NEG c limit
  takeOver (touch (s.setCh c { s.ch c with rampNew := true, parIr := if eMode q = 1 then fr else (s.ch c).parIr }) c) c

/-- Up to range 9 within one loop cycle (R147). -/
def swapUp (s : State) (c : Nat) : State :=
  let s := (List.range (9 - (s.ch c).act.ir)).foldl (fun s _ => stepUp s c) s
  s.setCh c { s.ch c with irTarget := 9 }

/-- Back to range 8 with the window of SETTLE_DN[9] (R147). -/
def swapDown (s : State) (c : Nat) : State :=
  let s := if (s.ch c).act.ir = 9 then stepDown s c else s
  s.setCh c { s.ch c with irTarget := 8 }

/-- The pulse starts on every channel of the point. -/
def pulseOn (s : State) (e : Nat) : State :=
  let k := s.runSlot e
  let h := s.slotRd SWE.REGION e k
  let q := entryAt s h (s.engine e).entry
  let x := entryAt s h ((s.engine e).entry + 1)
  let s := (pointChans s e k q).foldl (fun s c =>
    let s := if bigPulse q x then swapUp s c else s
    pulseWrite s c q (eRange x) (eForce x) (eLimit x)) s
  s.setEngine e { s.engine e with pt := .pulse, pulsed := true }

/-- The pulse ends: base force and limit again. -/
def pulseOff (s : State) (e : Nat) : State :=
  let k := s.runSlot e
  let h := s.slotRd SWE.REGION e k
  let q := entryAt s h (s.engine e).entry
  let x := entryAt s h ((s.engine e).entry + 1)
  let s := (pointChans s e k q).foldl (fun s c =>
    let s := if bigPulse q x then swapDown s c else s
    pulseWrite s c q (eRange q) (eForce q) (eLimit q)) s
  s.setEngine e { s.engine e with pt := .applied }

/-- The rails the point needs (R143 step 1): the larger of base and pulse per channel, in µV × 2^22. -/
def pointDemand (s : State) (e k : Nat) (q ext : Quad) : Int × Int :=
  (pointChans s e k q).foldl (fun acc _ =>
    let one := fun (force : Int) (lim fr : Nat) =>
      if eMode q = 0 then forceDemand force fr
      else (lim * vfs (eLrange q) * 256, -(lim * vfs (eLrange q) * 256))
    if eMode q ≤ 1 then
      let b := one (eForce q) (eLimit q) (eRange q)
      let p := if eKind q = 1 then one (eForce ext) (eLimit ext) (eRange ext) else b
      (max acc.1 (max b.1 p.1), min acc.2 (min b.2 p.2))
    else acc) (0, 0)

/-- The causes that a hold by a source or by coast expiry sets (R160). -/
def holdCause (s : State) (e : Nat) : Hold → State
  | .source => record s 3 e 0x09
  | .coast => record s 3 e 0x08
  | _ => s

/-- Hold the slot in control now, for the reasons given; PC is the entry it goes on with. -/
def holdNow (s : State) (e : Nat) (why : List Hold) : State :=
  let k := s.runSlot e
  if k < 4 then
    let s := why.foldl (fun s h => holdCause s e h) s
    let s := (s.setSlotState e k 6).put SWE.STATE e 3
    aimRails (s.setEngine e { s.engine e with
      heldBy := why, holdReq := [], pt := .none, waitCapt := none, resumeAt := none, demand := (0, 0), evSeen := sweepSeen s e }) e
  else s

/-- Whether the entry at an index of a region has an uncorrectable error (R132). -/
def entryBad (s : State) (h i : Nat) : Bool :=
  match s.region h with
  | some r => decide (i < r.count) && s.sweBad.contains (r.base + i)
  | none => false

/-- A point starts at its boundary T (R143 steps 1 to 3): it waits, is delayed by the rails, or applies. -/
def startPoint (s : State) (e i : Nat) : State :=
  let k := s.runSlot e
  let h := s.slotRd SWE.REGION e k
  let q := entryAt s h i
  let s := s.wr SWE.PC e k i
  let s := aimRails (s.setEngine e { s.engine e with demand := pointDemand s e k q (entryAt s h (i + 1)) }) e
  let delay := if e < 16 then railDelayFor (s.group e) ((s.group e).tgtP, (s.group e).tgtN) else 0
  let t := { s.engine e with
    entry := i, t := s.clock, railDelay := 0, waited := 0, taken := 0, tripSeen := false, waitCapt := none
    restarted := (s.slot e k).restart, nexted := false }
  if bit q.w1 3 then
    ((s.setEngine e { t with pt := .waiting }).put SWE.STATE e 2).setSlotState e k 5
  else if 0 < delay then s.setEngine e { t with pt := .delay, railDelay := delay, ta := s.clock + 125 * delay }
  else applyPoint (s.setEngine e t) e

/-- Whether a stream that carries an engine's group is BECALMED (R393). -/
def becalmedEngine (s : State) (e : Nat) : Bool :=
  (List.range 31).any fun n => s.rd STM.HOLD_STATE n == 1 && bit (s.rdN STM.SRC_GROUPS n) e

/-- The slot in control comes to a point at its boundary: it starts, or holds before it while a stream of the group is BECALMED (R151, R393). -/
def beginPoint (s : State) (e i : Nat) : State :=
  if becalmedEngine s e then holdNow (s.wr SWE.PC e (s.runSlot e) i) e [.source] else startPoint s e i

/-- An entry to be used has an uncorrectable error (R132): its region is INVALID, and the slot holds before it. -/
def eccHold (s : State) (e i : Nat) : State :=
  let k := s.runSlot e
  let h := s.slotRd SWE.REGION e k
  let s := match s.region h with
    | some r => s.setRegion h (some { r with state := 2 })
    | none => s
  holdNow (record (s.wr SWE.PC e k i) 3 e 0x03) e [.ecc]

/-- What walking CONTROL entries leads to (R137, R138). -/
inductive Walk where
  | point (i : Nat) (s : State)
  | bad (i : Nat) (s : State)
  | ended (s : State)
  | tooMany (s : State)

/-- LOOP (R137). -/
def loopEntry (s : State) (e k : Nat) (q : Quad) (i : Nat) : Nat × State :=
  let ctr := fld q.w1 6 2
  let count := fld q.w1 8 24
  let p := [SWE.LOOP_CTR0, SWE.LOOP_CTR1, SWE.LOOP_CTR2, SWE.LOOP_CTR3].getD ctr SWE.LOOP_CTR0
  let sl := s.slot e k
  let on := sl.ctrOn.getD ctr false
  let s := if on then s else
    (s.wr p e k count).setSlot e k { sl with ctrOn := sl.ctrOn.set ctr true }
  if count = 0 then (fld q.w0 12 20, s)
  else
    let left := s.rd p e k - 1
    let s := s.wr p e k left
    if 0 < left then (fld q.w0 12 20, s)
    else (i + 1, s.setSlot e k { s.slot e k with ctrOn := (s.slot e k).ctrOn.set ctr false })

/-- Where one CONTROL entry leads: none ends the program (R137). Before any point has been executed nothing counts as seen (log 212). -/
def controlStep (s : State) (e k i : Nat) (q : Quad) : Option Nat × State :=
  let seen := (sweepSeen s e).any fun x => x.1 == fld q.w1 0 6
  let jump := fun (b : Bool) => (some (if b then fld q.w0 12 20 else i + 1), s)
  match fld q.w0 8 4 with
  | 0 => (some (i + 1), s)
  | 1 => let r := loopEntry s e k q i; (some r.1, r.2)
  | 2 => jump true
  | 3 => jump seen
  | 4 => jump (!seen)
  | 5 => jump (s.engine e).limitSeen
  | 6 => if s.eff SWE.HOST_FLAG e = 1 then (some (fld q.w0 12 20), s.wrEff SWE.HOST_FLAG e 0 0) else (some (i + 1), s)
  | _ => (none, s)

/-- Walk CONTROL entries from an index to the next point; the 16th CONTROL entry without a point is too many (R138), and an entry with an
uncorrectable error ends the walk where it is used (R132). A PULSE_EXT entry that a start entry names counts as a point (log 213). -/
def walk (e k : Nat) : Nat → Nat → State → Walk
  | 0, _, s => .tooMany s
  | n + 1, i, s =>
    let h := s.slotRd SWE.REGION e k
    let q := entryAt s h i
    if entryBad s h i || (eKind q == 1 && entryBad s h (i + 1)) then .bad i s
    else if eKind q = 3 then
      match controlStep s e k i q with
      | (none, s) => .ended s
      | (some j, s) => walk e k n j s
    else .point i s

/-- Among READY and PREEMPTED slots, the one that takes a free engine (R153). -/
def nextSlot (s : State) (e : Nat) : Option Nat :=
  let ks := (List.range 4).filter fun k => s.slotState e k == 3 || s.slotState e k == 7
  let better := fun (a b : Nat) =>
    let pa := s.slotRd SWE.PRIORITY e a
    let pb := s.slotRd SWE.PRIORITY e b
    decide (pa < pb) || (pa == pb && (s.slotState e a == 7 && s.slotState e b == 3))
  ks.foldl (fun acc k => match acc with
    | none => some k
    | some b => if better k b then some k else some b) none

/-- The slot in control ends with a state and the engine has none. What a pre-empted slot's last point saw stays with it (R137); a hold
that was asked and has not acted falls to the slot that takes control (log 169). -/
def leave (s : State) (e k st : Nat) : State :=
  let s := if st = 7 then s.setSlot e k { s.slot e k with evSeen := sweepSeen s e, limitSeen := (s.engine e).limitSeen }
    else (slotChans s e k).foldl (fun s c => s.setCh c { s.ch c with policyOff := false }) s
  let s := s.setSlotState e k st
  let s := s.setEngine e { s.engine e with
    pt := .none, heldBy := [], holdReq := if st = 7 then (s.engine e).holdReq else [], waitCapt := none, resumeAt := none
    demand := (0, 0) }
  aimRails ((s.put SWE.RUN_SLOT e 7).put SWE.STATE e 0) e

/-- A slot takes over its engine (R151, R153): ownership, and of a slot that was pre-empted what it had seen and the writes of its
current point again. The answer names the entry it goes on from, and says whether the point's own entry is found uncorrectable (R132). -/
def enterSlot (s : State) (e k : Nat) : State × Nat × Bool :=
  let pre := s.slotState e k == 7
  let s := (s.put SWE.RUN_SLOT e k).put SWE.STATE e 1
  let s := own (s.setSlotState e k 4) e k true
  let sl := s.slot e k
  let h := s.slotRd SWE.REGION e k
  let s := s.setEngine e { s.engine e with
    evSeen := (if pre then sl.evSeen else []) ++ lateSeen s e, limitSeen := pre && sl.limitSeen }
  let from_ := if !pre then s.slotRd SWE.ENTRY e k
    else if sl.cut then s.slotRd SWE.CUT_INDEX e k
    else s.slotRd SWE.PC e k
  let again := if pre then sl.lastPoint else none
  let lost := again.any fun i => entryBad s h i
  let s := if lost then s else
      match again with
      | some i =>
        let q := entryAt s h i
        (slotChans s e k).foldl (applyTo · (eKind q == 1 && bigPulse q (entryAt s h (i + 1))) · q) s
      | none => s
  (s.setSlot e k { s.slot e k with restart := sl.cut || sl.restart, cut := false, evSeen := [], limitSeen := false }, from_, lost)

/-- Take control with a slot at the present boundary (R151, R153), and play its first or next point. `fuel` bounds how many programs can
end at one boundary. -/
def takeControl (e : Nat) : Nat → State → State
  | 0, s => s
  | n + 1, s =>
    match nextSlot s e with
    | none => s
    | some k =>
      let r := enterSlot s e k
      if r.2.2 then eccHold r.1 e r.2.1
      else match walk e k 16 r.2.1 r.1 with
      | .point i s => beginPoint s e i
      | .bad i s => eccHold s e i
      | .ended s => takeControl e n (finishProgram s e k)
      | .tooMany s => takeControl e n (abortControl (record s 3 e 0x05) e k)
where
  /-- The program ends by END (R151): END_ACTION, ownership released, EV_DONE. -/
  finishProgram (s : State) (e k : Nat) : State :=
    let s := endAction (own s e k false) e k
    let s := unreserve (leave s e k 8) e k
    s.publish (s.eff SWE.EV_DONE e)
  /-- The slot in control is aborted; a pulse ends with its base values (R155). -/
  abortControl (s : State) (e k : Nat) : State :=
    let on := (s.engine e).pt = .applied ∨ (s.engine e).pt = .pulse
    let s := if (s.engine e).pt = .pulse then pulseOff s e else s
    let s := if on then closeStatus s e false false true 0 else s
    unreserve (leave (endAction (own s e k false) e k) e k 9) e k

/-- The engine is free: the next waiting slot takes control at this boundary (R153). -/
def freeEngine (s : State) (e : Nat) : State :=
  if s.runSlot e = 7 then takeControl e 5 s else s

/-- Abort one slot (R151); EMPTY, LOADED, DONE and ABORTED slots are unchanged, but for a LOADED one whose start has been accepted and
waits for its boundary. -/
def abortSlot (s : State) (e k : Nat) : State :=
  let st := s.slotState e k
  if (st < 2 ∧ (s.slot e k).goAt.isNone) ∨ 7 < st then s.setSlot e k { s.slot e k with abortAt := none }
  else if s.runSlot e = k then freeEngine (takeControl.abortControl s e k) e
  else unreserve (s.setSlotState e k 9) e k

/-- Abort some slots of an engine together: none of them takes control meanwhile. -/
def abortSlots (s : State) (e : Nat) (ks : List Nat) : State :=
  let s := ks.foldl (fun s k => if s.runSlot e = k then s else abortSlot s e k) s
  if ks.contains (s.runSlot e) then abortSlot s e (s.runSlot e) else s

/-- Abort every slot of an engine. -/
def abortEngine (s : State) (e : Nat) : State := abortSlots s e (List.range 4)

/-- A program reaches the boundary that ends its point, or starts: CONTROL entries, then the next point or the end. -/
def proceed (s : State) (e k i : Nat) : State :=
  match walk e k 16 i s with
  | .point j s => beginPoint s e j
  | .bad j s => eccHold s e j
  | .ended s => freeEngine (takeControl.finishProgram s e k) e
  | .tooMany s => freeEngine (takeControl.abortControl (record s 3 e 0x05) e k) e

/-- Ask the engine to hold at its next point boundary; a waiting slot is at one (R151). -/
def requestHold (s : State) (e : Nat) (why : Hold) : State :=
  let t := s.engine e
  if s.runSlot e = 7 then s
  else if s.slotState e (s.runSlot e) = 6 then
    if t.heldBy.contains why then s else holdCause (s.setEngine e { t with heldBy := t.heldBy ++ [why] }) e why
  else if t.pt = .waiting then
    let s := s.wr SWE.PC e (s.runSlot e) t.entry
    holdNow s e (t.holdReq ++ [why])
  else s.setEngine e { t with holdReq := if t.holdReq.contains why then t.holdReq else t.holdReq ++ [why] }

/-- A READY slot of higher priority than the one in control that pre-empts at a point boundary (R151, R152): one with PREEMPT_CUT does so
no sooner than 250 ns after it became READY. -/
def preemptor (s : State) (e : Nat) : Option Nat :=
  let k := s.runSlot e
  (List.range 4).find? fun j => s.slotState e j == 3 && decide (s.slotRd SWE.PRIORITY e j < s.slotRd SWE.PRIORITY e k) &&
    (s.slotRd SWE.PREEMPT_CUT e j == 0 || decide ((s.slot e j).readyAt + 250 ≤ s.clock))

/-- Pre-empt the slot in control at this boundary (R151). `next` is the entry it will go on with. -/
def preempt (s : State) (e next : Nat) : State :=
  let k := s.runSlot e
  let s := own (s.wr SWE.PC e k next) e k false
  freeEngine (leave s e k 7) e

/-- Resume the held slot: it takes the running row again, is pre-empted at this boundary or walks on (R151, R158). PC is the entry it goes
on with. -/
def resumeSlot (s : State) (e : Nat) : State :=
  let k := s.runSlot e
  if k < 4 ∧ s.slotState e k = 6 then
    let s := (s.setSlotState e k 4).put SWE.STATE e 1
    let s := s.setEngine e { s.engine e with heldBy := [], resumeAt := none }
    match preemptor s e with
    | some _ => preempt s e (s.slotRd SWE.PC e k)
    | none => proceed s e k (s.slotRd SWE.PC e k)
  else s

/-- Whether the walk to the next point meets an entry with an uncorrectable error. -/
def meetsBad (s : State) (e k i : Nat) : Bool :=
  match walk e k 16 i s with
  | .bad _ _ => true
  | _ => false

/-- A point ends (R143 step 8, R144, R151, R156, R158): publish, truncated samples, status; then a hold, a pre-emption,
or the next point. Instants that EV_NEXT leaves
over set the cause as well (log 214). -/
def endPoint (s : State) (e : Nat) : State :=
  let k := s.runSlot e
  let h := s.slotRd SWE.REGION e k
  let s := if (s.engine e).pt = .pulse then pulseOff s e else s
  let t := s.engine e
  let q := entryAt s h t.entry
  let s := if bit q.w1 2 && fld q.w1 0 2 == 2 then s.publish (fld q.w3 20 6) else s
  let s := if 0 < truncOf s e then record s 3 e 0x06 else s
  let next := t.entry + (if eKind q = 1 then 2 else 1)
  let pre := (preemptor s e).isSome
  let s := closeStatus s e false (!t.holdReq.isEmpty || (!pre && meetsBad s e k next)) false 0
  let s := s.wr SWE.PC e k next
  let s := s.setEngine e { s.engine e with pt := .none }
  if !t.holdReq.isEmpty then holdNow s e t.holdReq
  else if pre then preempt s e next
  else proceed s e k next

/-- The SYSTIME in ns of a clock time in ns. -/
def sysNs (s : State) (t : Nat) : Nat := s.sysFine (t * 65536) / 65536

/-- The clock time in ns of sample instant `i` of a point that applies at `ta` (R143 step 5), where the point has it (R144). -/
def pointInstant (s : State) (g : Nat) (q ext : Quad) (ta i : Nat) : Option Nat :=
  let ofs := sampleOfs q ext + i * (s.group g).period
  if i < fld q.w3 12 8 ∧ ofs < eDwell q then some (ta + 125 * ofs) else none

/-- The next scheduled instant of the point in hand, as a SYSTIME in ns. -/
def nextInPoint (s : State) (g : Nat) : Option Nat :=
  let e := s.engine g
  let k := s.runSlot g
  if k < 4 ∧ (e.pt = .delay ∨ e.pt = .applied ∨ e.pt = .pulse) then
    let h := s.slotRd SWE.REGION g k
    let q := entryAt s h e.entry
    let x := entryAt s h (e.entry + 1)
    (pointInstant s g q x e.ta (nextIndex s g q x e.ta)).map (sysNs s)
  else none

/-- A rail after some loop cycles of slew, 2 V/µs (R77). -/
def slewBy (n : Nat) (x t : Int) : Int := if x < t then min t (x + 250000 * n) else max t (x - 250000 * n)

/-- The state as it is foreseen at a later boundary, in clock time, where only the rails of a group move until then. -/
def foresee (s : State) (g t : Nat) : State :=
  let n := (t - s.clock) / 125
  let r := s.group g
  (s.setAcc (s.sysFine (t * 65536) * 2 ^ 32)).setGroup g { r with
    railP := slewBy n r.railP r.tgtP, railN := slewBy n r.railN r.tgtN }

/-- The first scheduled instant of the point in hand and of those that follow it, whichever slot they are of, walked ahead as things stand
(R95, R114, R153). -/
def sweepAhead (g : Nat) : Nat → State → Option Nat
  | 0, _ => none
  | n + 1, s =>
    let e := s.engine g
    match nextInPoint s g with
    | some t => some t
    | none =>
      if s.runSlot g < 4 ∧ e.pt = .delay then sweepAhead g n (applyPoint (foresee s g e.ta) g)
      else if s.runSlot g < 4 ∧ (e.pt = .applied ∨ e.pt = .pulse) then
        let q := entryAt s (s.slotRd SWE.REGION g (s.runSlot g)) e.entry
        sweepAhead g n (endPoint (foresee s g (e.ta + 125 * eDwell q)) g)
      else none

/-- The next scheduled instant of a group's sweep engine as it can be foreseen, as a SYSTIME in ns (R95, R143). -/
def nextSweepInstant (s : State) (g : Nat) : Option Nat := sweepAhead g 24 s

/-- An auto-zero is abandoned (R118): the old offset stays; it counts as an attempt, and the inputs are reconnected after a time of at most
1 µs that is a free value (log 3). -/
def abandonAz (s : State) (g : Nat) : State :=
  match (s.group g).az with
  | some a =>
    if a.till.isSome then s
    else
      let s := a.chans.foldl (fun s c => s.bump MSR.AZ_COUNT c) s
      let r := s.draw
      r.2.setGroup g { r.2.group g with az := some { a with till := some (s.clockFine + r.1 % 1001 * 65536) } }
  | none => s

/-- An auto-zero that an instant of the engine's program now falls into is abandoned (R118). -/
def bringForward (s : State) (e : Nat) : State :=
  match (s.group e).az, nextSweepInstant s e with
  | some a, some t => if s.clockOf (t * 65536) < (a.start + 8000) * 65536 then abandonAz s e else s
  | _, _ => s

/-- A trip or fault on a channel acts on the engine that owns it (R154): CHANNEL_TRIP, TRIP_SEEN, TRIP_ACTION. -/
def tripAction (s : State) (c : Nat) : State :=
  match (s.ch c).owner with
  | none => s
  | some e =>
    let s := record s 3 e 0x07
    let s := s.setEngine e { s.engine e with tripSeen := true }
    match s.effN SWE.TRIP_ACTION e with
    | 1 => requestHold s e .trip
    | 2 => bringForward (abortSlot s e (s.runSlot e)) e
    | _ => s

end Sys2Proof.Machine
end

