-- ==== Sys2Proof/Machine/PinOps.lean ====
section
/-!
DEFINITION. Vector pins and comparators as operations (R184 to R203): pin states, what a pin drives, comparator modes,
hysteresis and the majority filter.
-/
namespace Sys2Proof.Machine

/-- A pin. -/
def State.pin (s : State) (n : Nat) : PinRun := Bank.get (fun _ => {}) s.pins n

/-- Replace a pin. -/
def State.setPin (s : State) (n : Nat) (v : PinRun) : State := { s with pins := Bank.set (fun _ => {}) s.pins n v }

/-- PIN.STATE (R184). -/
def State.pinState (s : State) (n : Nat) : Nat := s.rdN PIN.STATE n

/-- A domain's sequencer. -/
def State.sequencer (s : State) (d : Nat) : Seq := Bank.get (fun _ => {}) s.seq d

/-- Replace a domain's sequencer. -/
def State.setSequencer (s : State) (d : Nat) (v : Seq) : State :=
  { s with seq := Bank.set (fun _ => {}) s.seq d v }

/-- SEQ.STATE (R240). -/
def State.seqState (s : State) (d : Nat) : Nat := s.rdN SEQ.STATE d

/-- The pins of a domain (R210). -/
def domPins (d : Nat) : List Nat := (List.range 128).map fun p => 128 * d + p

/-- The pins of a chip. -/
def chipPins (chip : Nat) : List Nat := (List.range 64).map fun i => 64 * chip + i

/-- A chip's converter. -/
def State.conv (s : State) (chip : Nat) : Adc := Bank.get (fun _ => {}) s.adc chip

/-- Replace a chip's converter. -/
def State.setConv (s : State) (chip : Nat) (v : Adc) : State := { s with adc := Bank.set (fun _ => {}) s.adc chip v }

/-- The state the sequencer and PMU_EN give a pin (R184). -/
def givenState (s : State) (n : Nat) : Nat :=
  if s.rd PIN.PMU_EN n = 1 then 3 else (s.sequencer (n / 128)).pinsAs

/-- What STATIC drives (R185): 0 low, 1 high, 2 off. -/
def staticDrive (s : State) (n : Nat) : Nat := s.rdN PIN.STATIC n

/-- A pin takes a state of R184 other than FAULT and drives what it gives: in STATIC what STATIC says, in PARKED its park state, in PMU
nothing. -/
def enterPin (s : State) (n st : Nat) : State :=
  let p := s.pin n
  let drive := match st with
    | 0 => staticDrive s n
    | 2 => p.parkedAs
    | 3 => 2
    | _ => p.drive
  (s.setPin n { p with drive := drive, drove := false, held := false }).put PIN.STATE n st

/-- A pin's driver is on, be it for a part of the vector in play (R183, R221). -/
def PinRun.driving (p : PinRun) : Bool := p.drive != 2 || p.drove

/-- A reaction takes a pin to FAULT: high impedance (R183, R184). -/
def pinFault (s : State) (n : Nat) : State :=
  let p := s.pin n
  (s.setPin n { p with
    drive := 2, drove := false, switching := false, held := false
    faultAt := if p.driving then some s.clock else p.faultAt }).put PIN.STATE n 4

/-- A pin leaves FAULT when FAULT is cleared in its STATUS (R184). -/
def pinRecovers (s : State) (n : Nat) : State :=
  if s.pinState n = 4 then enterPin s n (givenState s n) else s

/-- A conversion has ended: the converter is off, and a selection change that waited takes effect (R191). -/
def convEnds (s : State) (chip : Nat) : State :=
  let a := s.conv chip
  s.setConv chip (if a.selWaits then { a with st := 0, dead := false, selWaits := false, selAt := s.clock, first := true }
                  else { a with st := 0, dead := false, first := false })

/-- A conversion in progress is abandoned without a result (R194). -/
def abandonConv (s : State) (chip : Nat) : State := if (s.conv chip).st = 0 then s else convEnds s chip

/-- Park codes at reset: every code 2 (R218). -/
def parkReset : Nat := (List.range 128).foldl (fun w p => w + 2 * 4 ^ p) 0

/-- What a park code makes a pin drive (R218): LAST is the last drive data, off where there is none or the driver was
off. -/
def parkDrive (p : PinRun) (code : Nat) : Nat :=
  match code with
  | 0 => 0
  | 1 => 1
  | 2 => 2
  | _ => if p.drive = 2 then 2 else (p.last.map b2n).getD 2

/-- A park of one pin (R184, R218): it takes its code of the park set. A pin in PMU or in FAULT stays there, and takes that park state when
it comes to be PARKED. -/
def parkPin (word : Nat) (s : State) (n : Nat) : State :=
  let p := s.pin n
  let d := parkDrive p (fld word (2 * (n % 128)) 2)
  if s.pinState n ≤ 2 then (s.setPin n { p with drive := d, drove := false, parkedAs := d, held := false }).put PIN.STATE n 2
  else s.setPin n { p with parkedAs := d }

/-- The reaction "park" takes a pin to PARKED until the sequencer resumes (R183, R184): from PMU too, whose PMU is disconnected (log 171). A
pin in FAULT stays there. -/
def reactPark (word : Nat) (s : State) (n : Nat) : State :=
  if s.pinState n = 4 then s
  else
    let was := s.pin n
    let s := parkPin word (if s.pinState n = 3 then (s.put PIN.PMU_EN n 0).put PIN.STATE n 2 else s) n
    s.setPin n { s.pin n with
      held := true, switching := false, faultAt := if was.driving && !(s.pin n).driving then some s.clock else was.faultAt }

/-- A control word that R202 accepts: FILT_K from (n + 1) / 2 to n, FILT_CLK at most 12. -/
def ctlOk (w : Nat) : Bool := (ctlN w + 1) / 2 ≤ ctlK w && ctlK w ≤ ctlN w && fld w 15 4 ≤ 12

/-- The mode in effect (R73, R184, R198): Gale while the domain's sequencer is not idle, or the channel connected; OFF while
the pin is at high impedance, and for window comparators in Lull; a monitor in Gale runs in Breeze in Lull (R34). -/
def effMode (s : State) (c : Cmp) : Nat :=
  match c with
  | .pin n _ => if (s.pin n).hiz then 3 else if s.seqState (n / 128) ≠ 0 then 0 else ctlMode (cmpCtl s c)
  | .window ch _ => if 3 ≤ s.pwr.lull then 3 else if connected (s.chState ch) then 0 else ctlMode (cmpCtl s c)
  | .monitor _ => if 3 ≤ s.pwr.lull ∧ ctlMode (cmpCtl s c) = 0 then 1 else ctlMode (cmpCtl s c)

/-- The four bits of CMP_STATE, WIN_STATE and MON_STATE (R208): CHANGING, UNRESOLVED, filtered, raw. -/
def cmpNibble (s : State) (c : Cmp) : Nat :=
  let v := s.comp c
  let off := effMode s c == 3 && !v.changing
  let i := ctlInit (cmpCtl s c)
  8 * b2n v.changing + 4 * b2n (v.unresolved && !off) + 2 * b2n (if off then i else v.filt) + b2n (if off then i else v.raw)

/-- Both comparators of a pin. -/
def pinCmps (n : Nat) : List Cmp := [.pin n true, .pin n false]

/-- The comparators of a domain change between their own mode and Gale (R198). -/
def galeForced (s : State) (d : Nat) (force : Bool) : State :=
  (domPins d).foldl (fun s n => (pinCmps n).foldl (fun s c =>
    let m := ctlMode (cmpCtl s c)
    if (s.pin n).hiz then s else if force then modeChanges m 0 s c else modeChanges 0 m s c) s) s

/-- A mode change of a comparator is complete, and what its input did meanwhile shows (R197, R206). -/
def changeEnds (v : CmpRun) : CmpRun :=
  { v with
    changing := false, waits := none, raw := v.waits.getD v.raw, unresolved := v.unresolved && v.waits.isNone
    resolve := if v.waits.isSome then none else v.resolve }

/-- Mode changes of a domain's comparators are complete (R198). -/
def galeDone (s : State) (d : Nat) : State :=
  (domPins d).foldl (fun s n => (pinCmps n).foldl (fun s c =>
    let v := s.comp c
    if v.changing then s.setComp c (changeEnds v) else s) s) s

end Sys2Proof.Machine
end

