-- ==== Sys2Proof/Machine/SeqOps.lean ====
section
/-!
DEFINITION. The vector sequencers as operations (R210 to R250): segments, timing sets, parks, holds, slots, and what a
program does at its ends.
-/
namespace Sys2Proof.Machine

/-- Fields of a segment entry (R227). -/
def segMap (q : Quad) : Nat := fld q.w0 24 8
/-- First granule. -/
def segStart (q : Quad) : Nat := fld q.w0 0 21
/-- Channel of JCOND EVENT. -/
def segJev (q : Quad) : Nat := fld q.w1 24 6
/-- END. -/
def segEnd (q : Quad) : Bool := bit q.w1 23
/-- UNDERRUN: true for PAD. -/
def segPad (q : Quad) : Bool := bit q.w1 22
/-- CACHE_PIN. -/
def segPinned (q : Quad) : Bool := bit q.w1 21
/-- LENGTH in granules. -/
def segLen (q : Quad) : Nat := fld q.w1 0 21
/-- PARK. -/
def segPark (q : Quad) : Nat := fld q.w2 24 4
/-- REPEAT. -/
def segRepeat (q : Quad) : Nat := fld q.w2 0 24
/-- JCOND. -/
def segJcond (q : Quad) : Nat := fld q.w3 28 3
/-- JTARGET. -/
def segTarget (q : Quad) : Nat := fld q.w3 14 14
/-- NEXT. -/
def segNext (q : Quad) : Nat := fld q.w3 0 14

/-- The entry of a segment (R227). -/
def Seq.seg (q : Seq) (n : Nat) : Quad := Bank.get (fun _ => ⟨0, 0, 0, 0⟩) q.segs n

/-- The entry of a segment as it stood when the pass in progress began (R229). -/
def Seq.segView (q : Seq) (n : Nat) : Quad := (Bank.get (fun _ => none) q.oldSegs n).getD (q.seg n)

/-- Where a segment lies in the pin area (R231); none when its entry does not name what lies there (log 219). -/
def Seq.pinnedAt (q : Seq) (n : Nat) : Option PinSeg :=
  q.pinSegs.find? fun p => p.seg == n && segPinned (q.seg n) && p.start == segStart (q.seg n) && p.len == segLen (q.seg n)

/-- A pin record of a timing set at reset (R225): NR, D_DATA at 0, C_OPEN at 20,480. -/
def PinTs.init : PinTs := { fmt := 0, en := 0x12, edges := [0, 0, 0, 0, 20480, 0] }

/-- A timing set at reset (R225). -/
def Ts.init : Ts := { period := 40960, rise := [0, 0, 0, 0], fall := [20480, 20480, 20480, 20480], pins := [] }

/-- The active copy of a timing set. -/
def Seq.ts (q : Seq) (k : Nat) : Ts := Bank.get (fun _ => Ts.init) q.active k

/-- The pin record of a domain pin. -/
def Ts.pin (t : Ts) (p : Nat) : PinTs := Bank.get (fun _ => PinTs.init) t.pins p

/-- A slot parameter. -/
def State.seqSlot (s : State) (p : Prm) (d k : Nat) : Nat := s.rdN p d k

/-- SLOT_STATE (R243). -/
def State.seqSlotState (s : State) (d k : Nat) : Nat := s.rdN SEQ.SLOT_STATE d k

/-- Enter a slot state. -/
def State.setSeqSlot (s : State) (d k st : Nat) : State := s.wr SEQ.SLOT_STATE d k st

/-- The slot in control, 7 for none. -/
def State.seqRun (s : State) (d : Nat) : Nat := s.rdN SEQ.RUN_SLOT d

/-- Every pin of a domain that the sequencer governs parks under a park set (R218). -/
def parkPins (s : State) (d set : Nat) : State :=
  let word := Bank.get (fun _ => parkReset) (s.sequencer d).parks set
  let s := (domPins d).foldl (parkPin word) s
  s.setSequencer d { s.sequencer d with pinsAs := 2 }

/-- The pins of a domain return to STATIC (R184). -/
def staticPins (s : State) (d : Nat) : State :=
  let s := s.setSequencer d { s.sequencer d with pinsAs := 0 }
  (domPins d).foldl (fun s n => if s.pinState n = 1 ∨ s.pinState n = 2 then enterPin s n 0 else s) s

/-- What a sequencer forgets when it stops playing: requests, holds, the vector in hand. -/
def Seq.quiet (q : Seq) : Seq :=
  { q with asks := [], latched := [], due := [], carry := [], holds := [], idx := none, fresh := true, failed := false,
           failIn := [], jevs := [], gapFrom := none, startAt := none }

/-- The entry that governs a park: of the segment played last, or of the one that was to start. -/
def Seq.parkEntry (q : Seq) : Quad := if q.idx.isSome then q.entry else q.segView q.target.1

/-- Slots that R245 finishes: every one that is neither EMPTY nor LOADED; resume points are gone. -/
def finishAll (s : State) (d : Nat) : State :=
  let s := (List.range 4).foldl (fun s k => if 2 ≤ s.seqSlotState d k then s.setSeqSlot d k 7 else s) s
  s.setSequencer d { s.sequencer d with resume := [] }

/-- Units of 2^-16 ns that a number of steps of 1/256 master period last (R211, R273). -/
def stepsFine (s : State) (steps : Nat) : Nat := steps * 65536 * 1000000000 / (256 * s.rdN TB.F_MASTER)

/-- Clock time of the present vector's start, in 2^-16 ns. -/
def vectorTime (s : State) (d : Nat) : Nat := (s.sequencer d).t0 + stepsFine s (s.sequencer d).steps

/-- The edges of a cut vector: those later than a number of steps from the run's first vector are not placed, and a marker that is high
then falls (R242). -/
def cutEdges (lim : Int) (l : List (Nat × Nat × Int)) : List (Nat × Nat × Int) :=
  let high := fun (m : Nat) => l.any fun y => y.1 == m && y.2.1 == 6 && decide (y.2.2 ≤ lim)
  l.filterMap fun x =>
    if x.2.2 ≤ lim then some x
    else if x.2.1 = 7 ∧ high x.1 then some (x.1, 7, lim)
    else none

/-- The vector that a domain issued last is cut. -/
def cutFirst (d : Nat) (lim : Int) : List Out → List Out
  | [] => []
  | .vector e l :: r => if e = d then .vector e (cutEdges lim l) :: r else .vector e l :: cutFirst d lim r
  | o :: r => o :: cutFirst d lim r

/-- The delay from a marker's rising edge to its pulse, in 2^-16 ns: at most 3 ns (R247). -/
def markLag (d m : Nat) : Nat := Config.markDelay d m % (3 * 65536 + 1)

/-- The pulses of a domain's markers that rise after a clock time are not published (R247). -/
def dropMarks (s : State) (d t : Nat) : State :=
  let keep := fun (p : Pulse) => match p.mark with
    | some m => m / 4 != d || decide (p.at_.getD 0 ≤ t + markLag d (m % 4))
    | none => true
  { s with evf := { s.evf with lines := s.evf.lines.filter keep } }

/-- The vector in progress is cut now, at or after its start (R242, R247, R251): the edges after the cut are not placed, those of markers
neither, and no pulse goes with them. -/
def cutVector (s : State) (d : Nat) : State :=
  let q := s.sequencer d
  if (s.seqState d = 3 ∨ s.seqState d = 4) ∧ !q.fresh then
    let gone := (s.clockFine - q.t0) * (256 * s.rdN TB.F_MASTER) / (65536 * 1000000000)
    let lim := max gone q.steps
    dropMarks { s with sent := (cutFirst d (lim : Nat) s.sent.reverse).reverse } d (q.t0 + stepsFine s lim)
  else s

/-- Sets enter the active copy. -/
def applyTs (s : State) (d : Nat) (sets : List (Nat × Ts)) : State :=
  let q := s.sequencer d
  s.setSequencer d { q with active := sets.foldl (fun b e => Bank.set (fun _ => Ts.init) b e.1 e.2) q.active }

/-- Timing sets that R212 refuses in domain B: PERIOD × HS_DIV below 8,192 steps. -/
def tooFast (dom hsDiv : Nat) (t : Ts) : Bool := dom == 1 && t.period * hsDiv < 8192

/-- The shadow copies of sets, with their numbers. -/
def Seq.shadows (q : Seq) (ks : List Nat) : List (Nat × Ts) := ks.map fun k => (k, Bank.get (fun _ => Ts.init) q.shadow k)

/-- A commit copies the shadow of its sets into the active copy; one that fails R212 applies none of them (R225). -/
def commitSets (d : Nat) (s : State) (ks : List Nat) : State :=
  let sets := (s.sequencer d).shadows ks
  if sets.any fun e => tooFast d (s.rdN SEQ.HS_DIV 1) e.2 then s else applyTs s d sets

/-- The commits that wait apply as the domain stops, where there is no vector boundary to wait for (R225, log 220). -/
def stopCommits (s : State) (d : Nat) : State :=
  let q := s.sequencer d
  (q.commits.map Prod.snd).foldl (commitSets d) (s.setSequencer d { q with commits := [] })

/-- The sequencer enters PARKED (R240, R242): END_CAUSE, PARK_CYCLE, pins parked. -/
def enterParked (s : State) (d cause : Nat) : State :=
  let q := s.sequencer d
  let s := parkPins s d (segPark q.parkEntry)
  let s := stopCommits (s.setSequencer d (s.sequencer d).quiet) d
  let s := s.put SEQ.PARK_CYCLE d (max 0 (s.rd SEQ.CYCLE d - 1))
  ((s.put SEQ.STATE d 6).put SEQ.END_CAUSE d cause).put SEQ.RUN_SLOT d 7

/-- PRIMING to HELD (R240). -/
def seqBusy (s : State) (d : Nat) : Bool := 1 ≤ s.seqState d && s.seqState d ≤ 5

/-- The sequencer parks for ABORT, GUARD, FAULT, UNDERRUN or VEC_ECC (R240, R245): every started slot is finished. -/
def parkSeq (s : State) (d cause : Nat) : State := enterParked (finishAll s d) d cause

/-- The sequencer parks if it is PRIMING to HELD. -/
def parkIfBusy (cause : Nat) (s : State) (d : Nat) : State := if seqBusy s d then parkSeq s d cause else s

/-- Switch to the guard clock (R240, R242, R267). -/
def guardPark (s : State) : State :=
  (List.range 2).foldl (fun s d => if seqBusy s d then record (parkSeq (cutVector s d) d 5) 6 d 0x07 else s) s

/-- The cause of a hold (R252); a hold by a reaction has none of its own. -/
def holdHit (s : State) (d : Nat) : SeqHold → State
  | .coast => record s 6 d 0x08
  | .source => record s 6 d 0x09
  | .reaction => s

/-- A hold is asked of a sequencer (R237, R240): it acts at a pass end; a HELD one is held for one reason more. -/
def holdSeq (s : State) (d : Nat) (why : SeqHold) : State :=
  let q := s.sequencer d
  if q.holds.contains why then s
  else if s.seqState d = 5 then holdHit (s.setSequencer d { q with holds := q.holds ++ [why] }) d why
  else if 1 ≤ s.seqState d ∧ s.seqState d ≤ 4 then
    s.setSequencer d { q with
      holds := q.holds ++ [why]
      asks := if q.holds.isEmpty then q.asks ++ [{ kind := .hold, at_ := s.clockFine }] else q.asks }
  else s

/-- A HELD sequencer resumes (R240): it primes, and runs on at the segment the flow gives next. -/
def resumeSeq (s : State) (d : Nat) : State :=
  let q := s.sequencer d
  let s := s.setSequencer d { q with holds := [], autoRun := true, fresh := true, newRun := false }
  (s.put SEQ.STATE d 1).setSeqSlot d (s.seqRun d) 4

/-- A reason to hold ends. A hold that no reason is left for is withdrawn, and a later one in its pass is captured anew. -/
def releaseSeq (s : State) (d : Nat) (why : SeqHold) : State :=
  let q := s.sequencer d
  let rest := q.holds.filter (· != why)
  if !q.holds.contains why then s
  else if s.seqState d = 5 then
    let s := s.setSequencer d { q with holds := rest }
    if rest.isEmpty then resumeSeq s d else s
  else
    let keep := fun (k : ReqKind) => !rest.isEmpty || k != .hold
    s.setSequencer d { q with
      holds := rest
      latched := q.latched.filter keep
      asks := q.asks.filter fun a => keep a.kind
      due := q.due.filter fun r => keep r.kind
      carry := q.carry.filter fun r => keep r.kind }

/-- A stream of a domain's HOLD_STM becomes, or ceases to be, BECALMED (R240, R393); a HELD domain is held for that too (R251). -/
def seqSource (s : State) (d : Nat) (on : Bool) : State :=
  if on then (if 3 ≤ s.seqState d ∧ s.seqState d ≤ 5 then holdSeq s d .source else s) else releaseSeq s d .source

/-- The granules of a segment (R227), at most `n` of them. -/
def segGrans (n : Nat) (q : Quad) : List Nat := (List.range (min n (segLen q))).map fun i => segStart q + i

/-- The entry that will govern a pass `k` after the one in progress (R229): the next one has been read. -/
def Seq.entryAhead (q : Seq) (k seg : Nat) : Quad :=
  if k = 0 ∧ q.idx.isSome then q.entry else if k ≤ 1 then q.segView seg else q.seg seg

/-- What the flow gives after a pass of an entry (R236): none at END. -/
def flowNext (e : Quad) (seg pass : Nat) : Option (Nat × Nat) :=
  if segRepeat e = 0 ∨ pass ≠ segRepeat e then some (seg, pass + 1)
  else if segEnd e then none else some (segNext e, 1)

/-- The granules that play will need, from a granule of the pass `k` on, following repeats and NEXT (R232); pinned segments need
none. Fuel counts granules and pinned passes. -/
def upcoming (q : Seq) : Nat → Nat → Nat → Nat → Nat → List Nat
  | 0, _, _, _, _ => []
  | fuel + 1, k, seg, pass, gi =>
    let e := q.entryAhead k seg
    let after := fun (_ : Unit) => match flowNext e seg pass with
      | some (sg, ps) => upcoming q fuel (k + 1) sg ps 0
      | none => []
    if segLen e = 0 then []
    else if (q.pinnedAt seg).isSome then after ()
    else if gi + 1 < segLen e then (segStart e + gi) :: upcoming q fuel k seg pass (gi + 1)
    else (segStart e + gi) :: after ()

/-- Where play stands or will start: segment, pass, granule. -/
def playPoint (s : State) (d : Nat) : Nat × Nat × Nat :=
  let q := s.sequencer d
  match q.idx with
  | some i => (s.rdN SEQ.CUR_SEG d, s.rdN SEQ.CUR_PASS d, i / 64)
  | none => (q.target.1, q.target.2, 0)

/-- Granules that the refill ring holds (R231). -/
def Seq.ringSize (q : Seq) : Nat := 2048 - q.pinSize

/-- The distinct granules that play needs next, as many as the ring holds (R231, R232). -/
def wanted (s : State) (d : Nat) : List Nat :=
  let p := playPoint s d
  ((upcoming (s.sequencer d) 4096 0 p.1 p.2.1 p.2.2).eraseDups).take (s.sequencer d).ringSize

/-- Whether the ring holds a granule. -/
def Seq.holdsGran (q : Seq) (g : Nat) : Bool := q.ring.any fun r => r.gran == g

/-- Whether the ring holds the first `n` granules that play needs. -/
def ringReady (s : State) (d n : Nat) : Bool := ((wanted s d).take n).all (s.sequencer d).holdsGran

/-- A program takes control of the domain: its slot runs, and play starts at a segment and pass. -/
def seqControl (s : State) (d k seg pass : Nat) : State :=
  let q := s.sequencer d
  let s := s.setSequencer d { q with target := (seg, pass), fresh := true, idx := none }
  (s.setSeqSlot d k 4).put SEQ.RUN_SLOT d k

/-- Where a slot's program starts: its resume point, or its start segment. -/
def slotPoint (s : State) (d k : Nat) : Nat × Nat :=
  (Bank.get (fun _ => none) (s.sequencer d).resume k).getD (s.rdN SEQ.START_SEG d k, 1)

/-- The slot that goes on when a program has ended (R244, R245): of the PREEMPTED slots the one of highest priority; where there is none, of
the READY slots; the lower number among equals. -/
def seqNextSlot (s : State) (d : Nat) : Option Nat :=
  let key := fun (k : Nat) => (if s.seqSlotState d k = 5 then 0 else 16) + 4 * s.rdN SEQ.PRIORITY d k + k
  ((List.range 4).filter fun k => s.seqSlotState d k == 5 || s.seqSlotState d k == 3).foldl
    (fun b k => match b with
      | some j => if key k < key j then some k else some j
      | none => some k) none

/-- A hold whose reasons stand is asked again where none is on its way: a stop went before it (R239). -/
def Seq.reask (q : Seq) (t : Nat) : List Ask :=
  if q.holds.isEmpty || q.asks.any (fun a => a.kind == .hold) || q.carry.any (fun r => r.kind == .hold) then q.asks
  else q.asks ++ [{ kind := .hold, at_ := t }]

/-- The waiting program of a slot goes on (R245): from the next vector where its segment is pinned, else the domain primes
with the pins parked, and the gap runs from the vector boundary. What is still asked of the domain stays (R238). -/
def goOn (s : State) (d k : Nat) : State :=
  let p := slotPoint s d k
  let q := s.sequencer d
  let set := segPark q.parkEntry
  let s := s.setSequencer d { q with resume := Bank.set (fun _ => none) q.resume k none, asks := q.reask (vectorTime s d) }
  let s := seqControl s d k p.1 p.2
  if ((s.sequencer d).pinnedAt p.1).isSome then
    (s.setSequencer d { s.sequencer d with newRun := false }).put SEQ.STATE d 3
  else
    let s := (parkPins s d set).put SEQ.PARK_CYCLE d (max 0 (s.rd SEQ.CYCLE d - 1))
    let s := s.setSequencer d { s.sequencer d with autoRun := true, newRun := false, gapFrom := some (vectorTime s d) }
    s.put SEQ.STATE d 1

/-- A program ends by END or stop (R240, R245): its slot is FINISHED, and a waiting one goes on, or the domain parks. -/
def endProgram (s : State) (d cause : Nat) : State :=
  let s := if s.seqRun d < 4 then s.setSeqSlot d (s.seqRun d) 7 else s
  let s := if cause = 1 then s.publish (s.rd SEQ.EV_DONE d) else s
  match seqNextSlot s d with
  | some k => goOn s d k
  | none => enterParked s d cause

/-- The domain returns to IDLE (R240, R245): pins STATIC, comparators to their own modes, slots to LOADED. -/
def seqToIdle (s : State) (d : Nat) : State :=
  let s := stopCommits (s.setSequencer d { (s.sequencer d).quiet with resume := [] }) d
  let s := (List.range 4).foldl (fun s k => if 2 ≤ s.seqSlotState d k then s.setSeqSlot d k 1 else s) s
  let s := galeForced s d false
  staticPins ((s.put SEQ.STATE d 0).put SEQ.RUN_SLOT d 7) d

/-- Pins at high impedance, comparators OFF, converters off, sequencers IDLE: Lull entry, PFAIL, a TCXO failure (R184, R194,
R240). -/
def pinsHigh (s : State) : State :=
  let s := (List.range 2).foldl (fun s d => if s.seqState d = 0 then s else seqToIdle s d) s
  let s := (List.range 256).foldl (fun s n =>
    let s := s.setPin n { s.pin n with hiz := true, drive := 2, drove := false, switching := false }
    if s.pinState n = 3 then (s.put PIN.PMU_EN n 0).put PIN.STATE n 0 else s) s
  (List.range 4).foldl abandonConv s

/-- A sequencer's program starts or is armed (R240): the domain primes, its comparators forced to Gale; the ring is filled anew (log 172). -/
def prime (s : State) (d : Nat) (auto : Bool) (seg : Nat) : State :=
  let s := if s.seqState d = 0 then galeForced s d true else s
  let q := s.sequencer d
  (s.setSequencer d { q.quiet with autoRun := auto, newRun := true, target := (seg, 1), ring := [], oldSegs := [] }).put SEQ.STATE d 1

end Sys2Proof.Machine
end

