-- ==== Sys2Proof/Machine/StreamOps.lean ====
section
/-!
DEFINITION. Streams (R379 to R394, R400 to R402) as operations: placing records, closing blocks, losses and gaps, stall
policies, parking; and the translation of one address (R397 to R399). Rows of the table act through these.
-/
namespace Sys2Proof.Machine

/-- Slots of a stream's quota: blocks of 4 KiB (R391). -/
def quotaSlots (s : State) (n : Nat) : Nat := 256 * s.rdN STM.QUOTA n

/-- Free slots of a stream's quota. -/
def freeSlots (s : State) (n : Nat) : Nat := quotaSlots s n - s.rdN STM.LOCAL_BLOCKS n

/-- The channel and sequence of a sample record; none for another kind (R103). -/
def sampleId (q : Quad) : Option (Nat × Nat) :=
  let c := fld q.w3 24 8
  if c < 132 then some (c, q.w2) else none

/-- The engines and sequencers that a becalmed stream holds begin, or cease, to hold (R393). -/
def holdSources (s : State) (n : Nat) (on : Bool) : State :=
  let gs := (List.range 17).filter fun g => bit (s.rdN STM.SRC_GROUPS n) g
  let s := gs.foldl (fun s e => if on then requestHold s e .source else releaseSource s e) s
  (List.range 2).foldl (fun s d => if s.rdN SEQ.HOLD_STM d = n then seqSource s d on else s) s
where
  /-- A hold by a source ends: the slot goes on at the next loop-cycle boundary when nothing else holds it (R151). -/
  releaseSource (s : State) (e : Nat) : State :=
    let t := s.engine e
    let next := if t.heldBy == [.source] then some (t.resumeAt.getD (s.clockFine + 1)) else t.resumeAt
    s.setEngine e { t with
      holdReq := t.holdReq.filter (· != .source), heldBy := t.heldBy.filter (· != .source), resumeAt := next }

/-- BECALMED begins (R390, R393). -/
def becalm (s : State) (n : Nat) : State :=
  if s.rd STM.POLICY n = 1 ∧ s.rd STM.HOLD_STATE n = 0 ∧ (freeSlots s n : Int) ≤ s.rd STM.HOLD_FREE n then
    let s := record (s.put STM.HOLD_STATE n 1) 9 n 0x04
    holdSources (s.publish (s.rd STM.EV_CALM n)) n true
  else s

/-- BECALMED ends. -/
def unbecalm (s : State) (n : Nat) : State :=
  if s.rd STM.HOLD_STATE n = 1 then holdSources (s.put STM.HOLD_STATE n 0) n false else s

/-- BECALMED ends when the free slots have risen to RESUME_FREE (R393). -/
def becalmedCheck (s : State) (n : Nat) : State :=
  if s.rd STM.RESUME_FREE n ≤ freeSlots s n then unbecalm s n else s

/-- The groups of a stream that are in AUTO_PD (R381). -/
def autoPdMask (s : State) (n : Nat) : Nat :=
  (List.range 17).foldl (fun m g =>
    if bit (s.rdN STM.SRC_GROUPS n) g && (s.group g).pmode == 1 then m + 2 ^ g else m) 0

/-- A slot of the local buffer is freed (R391). -/
def freeSlot (s : State) (n : Nat) : State :=
  becalmedCheck (s.put STM.LOCAL_BLOCKS n (s.rd STM.LOCAL_BLOCKS n - 1)) n

/-- A block that cannot be read is not written: its records count as lost, and its slot is freed (R400). -/
def loseBlock (s : State) (n : Nat) (b : Closed) : State :=
  let s := b.recs.foldl (fun s q => loseIn s n (sampleId q) (b.base + 8 * fld q.w3 0 24) 3) s
  record (freeSlot s n) 9 n 0x06

/-- The open block closes with a reason (R382, R383); one that an injected BLOCK_MEDIA awaits is dropped (R539). -/
def closeBlock (s : State) (n reason : Nat) : State :=
  let t := s.stream n
  match t.open_ with
  | none => s
  | some b =>
    let c : Closed := ⟨s.rdN STM.BLOCK_SEQ n, reason, b.base, b.recs, autoPdMask s n, s.rdN STM.SRC_GROUPS n, b.gap, false⟩
    let s := s.tally STM.BLOCK_SEQ n
    if t.dropNext then loseBlock (s.setStream n { t with open_ := none, dropNext := false }) n c
    else s.setStream n { t with open_ := none, blocks := t.blocks ++ [c] }

/-- A new block opens with a record's instant (R382, R390, R391). -/
def openBlock (s : State) (n time : Nat) : State :=
  let t := s.stream n
  let s := s.setStream n { t with
    open_ := some { base := time - 65536, recs := [], since := s.clock, gap := t.gap }, gap := {} }
  let s := s.bump STM.LOCAL_BLOCKS n
  let s := if s.rd STM.LOCAL_BLOCKS n = s.rd STM.FILL_THR n then s.publish (s.rd STM.EV_FILL n) else s
  becalm s n

/-- A record finds no slot (R392, R393). -/
def dropRecord (s : State) (n : Nat) (h : Held) : State :=
  let s := loseIn (s.bump STM.LOST n) n (sampleId h.q) h.time 2
  let hs : List Hit := if s.rd STM.HOLD_STATE n = 1 then [{ code := 0x03 }, { code := 0x05 }] else [{ code := 0x03 }]
  recordHits s 9 n none hs

/-- Put a record into the open block (R382, R383). -/
def putRecord (s : State) (n : Nat) (h : Held) : State :=
  let t := s.stream n
  match t.open_ with
  | none => s
  | some b =>
    let q := { h.q with w3 := h.q.w3 / 2 ^ 24 * 2 ^ 24 + (h.time - b.base) / 8 % 2 ^ 24 }
    let recs := b.recs ++ [q]
    let s := s.setStream n { t with open_ := some { b with recs := recs } }
    if recs.length = 252 then closeBlock s n 0 else s

/-- A record arrives at a stream that accepts records (R380, R382, R383, R392). -/
def place (s : State) (n : Nat) (h : Held) : State :=
  let s := match (s.stream n).open_ with
    | some b =>
      if h.time < b.base then closeBlock s n 2
      else if 0xFFFFFF < (h.time - b.base) / 8 then closeBlock s n 1
      else s
    | none => s
  if (s.stream n).open_.isSome then putRecord s n h
  else if freeSlots s n = 0 then dropRecord s n h
  else putRecord (openBlock s n h.time) n h

/-- Every stream that carries a group closes its open block (R97). -/
def closeForGroup (s : State) (g : Nat) : State :=
  match carrier s g with
  | some n => closeBlock s n 3
  | none => s

/-- Every open block closes (R274). -/
def closeAll (s : State) (reason : Nat) : State := (List.range 32).foldl (fun s n => closeBlock s n reason) s

/-- SYSTIME is set at a loop-cycle boundary (R274, R428, R496): open blocks close, the fraction stays, the log says so.
`kind` is 0 for TB_TIME_SET, 1 for a coarse set by the mesh. -/
def setTime (s : State) (v kind : Nat) : State :=
  let old := s.now
  let s := closeAll s 4
  let s := (s.put TB.SYSTIME_NS 0 v).logRec
    { typ := 0x05, time := old, blk := 7, inst := 0, pay := [lo32 old, hi32 old, lo32 v, hi32 v, kind], sev := 0 }
  { s with tb := { s.tb with shift := s.tb.shift + v - old } }

/-- The 1,024 words of a block (R381, R384). -/
def blockWords (n : Nat) (b : Closed) : List Nat :=
  let g := b.gap
  let f := g.first.getD (0, 0)
  let l := g.last.getD (0, 0)
  let head := [n * 2 ^ 24 + 2 ^ 16 + b.close * 2 ^ 12 + b.recs.length, b.seq, lo32 b.base, hi32 b.base, b.autoPd,
    g.count, f.2, l.2, f.1 * 2 ^ 24 + l.1 * 2 ^ 16 + b2n g.multi * 2 ^ 7 + g.cause, b.src, 0, 0, 0, 0, 0]
  let body := pad 1008 (b.recs.flatMap fun q => [q.w0, q.w1, q.w2, q.w3])
  head ++ [crcWords (head ++ [0] ++ body)] ++ body

/-- What the translation of an address comes to (R397 to R399). -/
inductive Xl where
  | ok (pa : Nat)
  | miss
  | fault (cause : Nat)
deriving DecidableEq, Repr

/-- Whether a page covers an address of a context. -/
def Page.covers (p : Page) (ctx va : Nat) : Bool := p.ctx == ctx && p.va ≤ va && va < p.va + p.size

/-- Translate an address for a write or a read, from the cached translations (R397 to R399). -/
def translate (s : State) (ctx va : Nat) (write : Bool) : Xl :=
  match s.rdN XLT.MODE ctx with
  | 0 => .ok va
  | m =>
    if m = 1 ∧ 2 ^ 48 ≤ va then .fault 4
    else match s.xlt.tlb.find? fun p => p.covers ctx va with
      | some p => if (if write then p.w else p.r) then .ok (p.pa + (va - p.va)) else .fault (if m = 1 then 2 else 6)
      | none => .miss

/-- A fault of a context (R400, R407); an injected one has its cause set already (R539). -/
def xltFault (s : State) (ctx va cause : Nat) (inj : Bool := false) : State :=
  let s := (s.bump XLT.FAULT_COUNT ctx).put XLT.FAULT_ADDR ctx va
  if inj then s else record s 0x0A ctx cause

/-- The cause with which an injection makes the next translation of a context fault (R539); BYPASS translates nothing. -/
def xltInjected (s : State) (ctx : Nat) : Option Nat :=
  if s.rd XLT.MODE ctx = 0 then none else Bank.get (fun _ => none) s.xlt.failNext ctx

/-- The injection on a context's translation is spent. -/
def spendInjected (s : State) (ctx : Nat) : State :=
  { s with xlt := { s.xlt with failNext := Bank.set (fun _ => none) s.xlt.failNext ctx none } }

/-- The status of a command that met a fault (R322, R343). -/
def hostStatus : HostFault → Nat
  | .translation _ => St.TRANSLATION
  | .media => St.MEDIA

/-- AER takes an uncorrectable error (R351, R354): its status bit and, where it is not masked, the header of the first such error, of which
the spec states nothing (log 3), and a message of the severity that the host programmed. -/
def aerTakes (s : State) (n : Nat) : State :=
  let a := s.hl.aer
  let held := bit a.uncStatus a.first
  let aer := { a with uncStatus := a.uncStatus.lor (2 ^ n) }
  if bit a.uncMask n then { s with hl := { s.hl with aer := aer } }
  else
    let h := drawMany 4 s
    let s := if held then { s with hl := { s.hl with aer := aer } }
      else { h.2 with hl := { s.hl with aer := { aer with first := n, header := h.1.map fun v => (v % 2 ^ 32).toNat, prefixes := [0, 0, 0, 0] } } }
    s.emit (.errMsg (if bit a.uncSev n then 2 else 1))

/-- An uncorrectable error at the link (R351, R354, R377): counted, reported through AER, AER_UNCORR. -/
def linkError (s : State) (n : Nat) : State := record (aerTakes (s.bump HL.UNCORR_COUNT) n) 0x0F 0 0x04

/-- The AER bit of an error of a read that the module made (R354; the bits of the PCIe standard, log 224): Completer Abort or Unsupported
Request, a completion timeout or a poisoned completion, of which the fault does not say which: a free choice (log 3). -/
def readErrorBit (s : State) (media : Bool) : Nat × State :=
  let x := s.draw
  (if media then (if x.1 % 2 = 0 then 14 else 12) else if x.1 % 2 = 0 then 15 else 20, x.2)

/-- A fault of a transfer sets its context's cause, address and count (R354, R400, R407); one that a completion of a read reported
(a walk read, 5, a read refused, 9, or MEDIA) is an uncorrectable error of the link as well. -/
def hostFaulted (s : State) (ctx va : Nat) (f : HostFault) : State :=
  let c := match f with | .translation c => c | .media => 0x0A
  if c = 5 ∨ c = 9 ∨ c = 0x0A then
    let b := readErrorBit s (decide (f = .media))
    xltFault (linkError b.2 b.1) ctx va c
  else xltFault s ctx va c

/-- The fault a read of the module met at the link (R354): refused, or MEDIA. -/
def readStatus : HostFault → HostFault
  | .translation _ => .translation 9
  | .media => .media

/-- The walk or ATS request of a context. -/
def State.walk (s : State) (ctx : Nat) : Option WalkRun := Bank.get (fun _ => none) s.xlt.walks ctx

/-- Replace the walk or ATS request of a context. -/
def State.setWalk (s : State) (ctx : Nat) (w : Option WalkRun) : State :=
  { s with xlt := { s.xlt with walks := Bank.set (fun _ => none) s.xlt.walks ctx w } }

/-- Whether a transfer waits for the walk or ATS request of its context. -/
def awaits (s : State) (w : Waiter) (ctx : Nat) : Bool :=
  match s.walk ctx with
  | some r => r.waiters.contains w
  | none => false

/-- A request with the PASID of its context, where the context has one and the host has enabled PASID (R368, R397). -/
def prefixed (s : State) (ctx : Nat) (o : Out) : Out :=
  if s.hl.pasid && s.rd XLT.PASID_EN ctx == 1 then .prefixed (s.rdN XLT.PASID ctx) o else o

/-- A read or write of host memory goes out, in ATS mode as a Translated request (R397, R399). -/
def State.request (s : State) (ctx : Nat) (o : Out) : State :=
  s.emit (prefixed s ctx (if s.rd XLT.MODE ctx = 2 then .translated o else o))

/-- A translation enters the TLB; the oldest goes where it is full (R399, log 7). -/
def cachePage (s : State) (p : Page) : State :=
  let old := s.xlt.tlb.filter fun x => !(x.ctx == p.ctx && x.va == p.va && x.size == p.size)
  let l := old ++ [p]
  { s with xlt := { s.xlt with tlb := if 8192 < l.length then l.tail else l } }

/-- The walk or ATS request of a context is stale (R397, R399): what it brings is not kept. -/
def staleWalk (s : State) (ctx : Nat) (hit : WalkRun → Bool) : State :=
  { s with xlt := { s.xlt with walks := match Bank.get (fun _ => none) s.xlt.walks ctx with
      | some w => if hit w then Bank.set (fun _ => none) s.xlt.walks ctx (some { w with stale := true }) else s.xlt.walks
      | none => s.xlt.walks } }

/-- The cached translations of a context, or those of a range of its addresses, are gone (R397, R399). -/
def dropPages (s : State) (ctx : Nat) (range : Option (Nat × Nat)) : State :=
  let hit := fun (va size : Nat) => match range with
    | none => true
    | some (a, n) => decide (va < a + n) && decide (a < va + size)
  let s := staleWalk s ctx fun w => hit (w.va / 4096 * 4096) 4096
  { s with xlt := { s.xlt with
      tlb := s.xlt.tlb.filter fun p => !(p.ctx == ctx && hit p.va p.size)
      wcache := s.xlt.wcache.filter fun e =>
        !(e.ctx == ctx && hit (e.pre * 2 ^ (12 + 9 * e.level)) (2 ^ (12 + 9 * e.level))) } }

/-- The address of the write a stream makes next: its block's data, or its write index (R387, R388). -/
def nextAddr (s : State) (n : Nat) : Nat :=
  if (s.stream n).dataDone then s.rdN STM.WIDX_ADDR n
  else s.rdN STM.RING_BASE n + 4096 * (s.rdN STM.WR_IDX n % s.rdN STM.RING_BLOCKS n)

/-- The fault notice of a parked stream (R402): at most one in flight, which of a forwarded stream the node that holds the queue sees to
(R425). -/
def postNotice (s : State) (n status addr : Nat) : State :=
  let q := s.rdN STM.NOTICE_SQ n
  let t := s.stream n
  let seq := ((t.blocks.head?).map Closed.seq).getD (s.rdN STM.BLOCK_SEQ n)
  let res := [n + b2n t.dataDone * 256, lo32 addr, hi32 addr, seq]
  if q = 0x7F then s
  else match t.node with
    | some d => s.frameTo d.1 1 ([3, s.rdN MSH.NODE_ID, q, status] ++ res)
    | none =>
      if t.notice then s
      else (s.setStream n { t with notice := true }).complete (.sq q) 0xFFF status res false (some (none, n))

/-- The commands that wait for a retry of a parked stream's write are answered. -/
def answerRetries (s : State) (n status : Nat) : State :=
  let t := s.stream n
  let s := s.setStream n { t with retries := [] }
  t.retries.foldl (fun s r => s.complete r.1 r.2 status []) s

/-- A stream's write faults (R394, R401, R403): the stream parks, or stays parked; one that has ended meanwhile does neither. -/
def parkStream (s : State) (n addr : Nat) (k : HostFault) (inj : Bool := false) : State :=
  let st := s.stmState n
  if st ≠ 2 ∧ st ≠ 3 ∧ st ≠ 4 ∧ st ≠ 6 then s.setStream n { s.stream n with waiting := false } else
  let s := s.setStream n { s.stream n with waiting := false, held := true }
  let s := s.put STM.STATE n (if st = 2 then 3 else if st = 4 then 6 else st)
  let s := s.put STM.FAULT_ADDR n addr
  let s := if inj then s else record s 9 n (match k with | .translation _ => 0x01 | .media => 0x02)
  answerRetries (postNotice s n (hostStatus k) addr) n (hostStatus k)

/-- Flushes of a stream whose blocks have left the local buffer complete (R410): written, or freed unwritten. -/
def flushCheck (s : State) (n status : Nat) : State :=
  let t := s.stream n
  let open_ := fun (f : Src × Nat × Nat) => t.blocks.any fun b => b.seq == f.2.2
  let s := s.setStream n { t with flushes := t.flushes.filter open_ }
  (t.flushes.filter fun f => !open_ f).foldl (fun s f => s.complete f.1 f.2.1 status [f.2.2]) s

/-- STOPPING ends (R394, R410): CONFIGURED, or IDLE with RELEASE, and STM_STOP completes; what waits on blocks freed
unwritten ends too. -/
def endStop (s : State) (n status : Nat) : State :=
  let s := answerRetries s n St.INTERRUPTED
  let s := flushCheck (s.setStream n { s.stream n with blocks := [] }) n St.INTERRUPTED
  let t := s.stream n
  let rel := (t.stop.map StopOp.release).getD false
  let s := s.setStream n { t with stop := none, blocks := [], dataDone := false, held := false, waiting := false }
  let s := (s.put STM.STATE n (if rel then 0 else 1)).put STM.LOCAL_BLOCKS n 0
  let s := if rel then s.put STM.QUOTA n (if n = 31 then 16 else 0) else s
  match t.stop with
  | some o => s.complete o.src o.tag status []
  | none => s

/-- STOPPING ends once no local block is left. -/
def stopCheck (s : State) (n : Nat) : State :=
  if s.stmState n = 4 ∧ (s.stream n).blocks.isEmpty then endStop s n St.SUCCESS else s

/-- A parked stream's retried write has its translation (R394, R403): RUNNING, or STOPPING again, which ends where no local block is left. -/
def unpark (s : State) (n : Nat) : State :=
  let st := s.stmState n
  let s := s.setStream n { s.stream n with waiting := false, held := false }
  let s := s.put STM.STATE n (if st = 3 then 2 else if st = 6 then 4 else st)
  stopCheck (answerRetries s n St.SUCCESS) n

/-- An STM_STOP takes effect at a loop-cycle boundary (R394, R405, R410): no further records, and the open block closes. -/
def takeStop (s : State) (n : Nat) : State :=
  match (s.stream n).stop with
  | none => s
  | some o =>
    if !o.due then s
    else
      let st := s.stmState n
      let s := unbecalm (closeBlock s n 7) n
      let s := s.put STM.STATE n (if st = 3 ∧ !o.discard then 6 else 4)
      let s := s.setStream n { s.stream n with stop := some { o with due := false } }
      if o.discard then endStop s n St.SUCCESS else stopCheck s n

end Sys2Proof.Machine
end

