-- ==== Sys2Proof/Machine/Gate.lean ====
section
/-!
DEFINITION. The checks every command passes before its own (R2, R22, R321, R342, R345, R522, R525), and the islands of
the blocks (R15, R24).
-/
namespace Sys2Proof.Machine

/-- The island that holds a block instance (R15, R24). The timebase, the fabric, CAL, TST and LC are in none by R15: the model counts
the first four as CMD and LC as VANE (DESIGN CHOICE, log 159). -/
def islandOf (blk inst : Nat) : Island :=
  match blk with
  | 1 => .pg (inst / 8)
  | 2 => if inst < 128 then .pg (inst / 8) else .hv
  | 3 => if inst < 16 then .pg inst else .hv
  | 4 => .hv
  | 5 => .seq (inst / 128)
  | 6 => .seq inst
  | 9 => .mem
  | 10 => .mem
  | 11 => .msh
  | 13 => .vane
  | 16 => .vane
  | 15 => .hl
  | _ => .cmd

/-- Whether an island counts as stopped (R22, R467): in Lull all but Vane; held in reset, the controller's islands while their supplies
are not up (R560, R567) and Vane until it is up; or after a FATAL in one of its windows. -/
def stopped (s : State) (i : Island) : Bool :=
  (if i = .vane then !s.vane.up else s.pwr.lull == 3 || !s.hl.supplies) ||
  s.wins.any fun e => e.2.fatal && islandOf (e.1 / 4096) (e.1 % 4096) == i

/-- Life-cycle state (R514). -/
def State.lcState (s : State) : Nat := s.rdN LC.STATE

/-- The life-cycle state that a command is checked against (R519): the one in which it was dispatched (log 237). -/
def lcFor (s : State) (p : Pkt) : Nat := ((s.lc.before.find? fun e => e.1 == p).map Prod.snd).getD s.lcState

/-- Whether a life-cycle state grants what FIELD_SEALED, CORRUPT and SCRAPPED do not (R515, R524). -/
def grantsOpen (st : Nat) : Bool := [0, 1, 3].contains st

/-- Whether a life-cycle state grants a loopback (R524): the serial ones are denied in FIELD_SEALED, and SCRAPPED denies all. -/
def grantsLoop (st : Nat) (serial : Bool) : Bool := st != 4 && !(serial && (st == 2 || st == 7))

/-- Whether the module sheds or has shed (R565): PWR_STATE SHEDDING, SHED or HOLDUP. -/
def shedding (s : State) : Bool := 2 ≤ s.rdN VANE.PWR_STATE

/-- What a command's definition says of its packet: whether it takes a pointer block, the block lengths it allows,
whether it carries a host address, and which bits of words 1 to 15 it uses. -/
structure Form where
  ptr : Bool := false
  needPtr : Bool := false
  unit : Nat := 1
  maxUnits : Nat := 65536
  exact : Bool := false
  host : Bool := false
  used : List (Nat × Nat) := []

/-- All 32 bits. -/
def allBits : Nat := 0xFFFFFFFF

/-- Whether a reserved bit or an unused word is set (R320, R343): words 2 to 4 belong to a pointer block when there is
one. -/
def reservedSet (p : Pkt) (f : Form) : Bool :=
  (List.range 15).any fun j =>
    let i := j + 1
    let mask := ((f.used.find? fun u => u.1 == i).map Prod.snd).getD 0
    if pPtr p && 2 ≤ i && i ≤ 4 then false else (pw p i).land (allBits - mask) != 0

/-- Whether a pointer block is refused (R321). -/
def badPointer (p : Pkt) (f : Form) : Bool :=
  if pPtr p then
    let len := pw p 4
    !f.ptr || len == 0 || 65536 < len || len % f.unit != 0 || f.maxUnits < len / f.unit ||
      (f.exact && len != f.unit) || pw p 2 % 16 != 0
  else f.needPtr

/-- The opcodes SCRAPPED accepts (R525). -/
def scrappedOk (code : Nat) : Bool :=
  [0x0001, 0x0002, 0x0003, 0x0204, 0x0C03, 0x0902, 0x0904, 0x0907].contains code

/-- The opcodes accepted while ERASE_PENDING is set (R522). -/
def erasingOk (code : Nat) : Bool := [0x0001, 0x0002, 0x0003, 0x0C03].contains code

/-- The opcodes of the immediate path (R331, R342). -/
def immediateOk (code : Nat) : Bool := [0x0201, 0x0202, 0x0203, 0x0204, 0x0604].contains code

/-- Whether a packet came by a queue on the immediate path (R331). -/
def immediateSq (s : State) (p : Pkt) : Bool :=
  match p.src with
  | .sq n => (s.sq n).imm
  | _ => false

/-- The status with which a command is refused before its own checks; none when it passes. The reserved bits of a command with a pointer
block are checked once the block is there (R322). -/
def gate (s : State) (p : Pkt) (code : Nat) (f : Form) : Option Nat :=
  if immediateSq s p ∧ !immediateOk code then some St.IMM_ONLY
  else if lcFor s p = 4 ∧ !scrappedOk code then some St.LC_DENIED
  else if s.rd LC.ERASE_PENDING = 1 ∧ !erasingOk code then some St.WRONG_STATE
  else if p.src = .mbx ∧ (pPtr p ∨ f.host) then some St.MBX_NO_DMA
  else if badPointer p f then some St.BAD_POINTER
  else if !pPtr p && reservedSet p f then some St.RESERVED_SET
  else none

/-- The translation context of a packet's host addresses: that of its queue (R314, R397). -/
def pktCtx (p : Pkt) : Nat :=
  match p.src with
  | .sq n => n
  | _ => 0

/-- Whether a packet came over the mesh: its issuing node translates its addresses and reports their faults (R424). -/
def overMesh (p : Pkt) : Bool :=
  match p.src with
  | .mesh _ _ => true
  | _ => false

/-- A transfer of a command failed (R322, R354, R400). -/
def transferFails (s : State) (p : Pkt) (addr : Nat) (f : HostFault) : Res :=
  refuse (if overMesh p then s else hostFaulted s (pktCtx p) addr f) (hostStatus f)

/-- A bulk transfer begins (R396): the DMA engine issues its units. -/
def startXfer (s : State) (x : Xfer) : State := { s with xlt := { s.xlt with xfers := s.xlt.xfers ++ [x] } }

/-- The data a command reads from an address (R322, R354, R396): the command waits without a core until every unit of the read has been
issued; what a completion of the read then reports fails it. -/
def withData (s : State) (p : Pkt) (addr bytes : Nat) (d : HostData) (body : List Nat → Res) : Res :=
  match pktXfer s p with
  | some x =>
    if x.left ≠ 0 then .later s
    else match d with
      | .words ws => body ws
      | .fault f => transferFails s p addr (readStatus f)
  | none =>
    if bytes = 0 then body []
    else .later (startXfer (setStage s p .reading)
      { who := .cmd p.src (pTag p), ctx := pktCtx p, prio := pPrio p, addr := addr, left := bytes, write := false })

/-- The pointer block of a command is fetched completely before any other check (R322): its words, none without one. -/
def withBlock (s : State) (p : Pkt) (f : Form) (d : HostData) (body : List Nat → Res) : Res :=
  if pPtr p then withData s p (pw64 p 2) (pw p 4) d fun ws => if reservedSet p f then refuse s St.RESERVED_SET else body ws
  else body []

/-- Result words 3 to 5 of LOG_READ (R513). -/
def logWords (s : State) : List Nat :=
  let o := s.rdN VANE.LOG_OLDEST
  let h := s.rdN VANE.LOG_HEAD
  [lo32 o, lo32 h, o / 2 ^ 32 % 65536 * 65536 + h / 2 ^ 32 % 65536]

/-- What the end of a command's transfer brings (R311, R513): the completion, with its result words. -/
def xferEnds (s : State) (src : Src) (tag : Nat) : XferEnd → State
  | .data => s
  | .plain res => s.complete src tag St.SUCCESS res
  | .cu u n => (s.setCu u ((s.cu u).drop n)).complete src tag St.SUCCESS [n]
  | .log n => s.complete src tag St.SUCCESS (n :: logWords s)

/-- A command writes words to host memory (R324, R396): it completes once the last unit has been issued. -/
def hostPut (s : State) (p : Pkt) (addr : Nat) (ws : List Nat) (fin : XferEnd) : Res :=
  .later (startXfer s
    { who := .cmd p.src (pTag p), ctx := pktCtx p, prio := pPrio p, addr := addr, left := 4 * ws.length, write := true, words := ws, fin := fin })

/-- The instance a command names in word 1 by an ID of a block with PARAM 0. -/
def targetInst (p : Pkt) (blk : Nat) : Option Nat :=
  let id := pw p 1
  if id / 0x1000000 = blk ∧ id % 0x1000 = 0 ∧ id / 0x1000 % 0x1000 < blockInstances blk then
    some (id / 0x1000 % 0x1000)
  else none

/-- The channel number a command names in word 1 by an FCH or HVC ID with PARAM 0. -/
def targetChan (p : Pkt) : Option Nat :=
  match targetInst p 1 with
  | some c => some c
  | none => (targetInst p 4).map (· + 128)

end Sys2Proof.Machine
end

