-- ==== Sys2Proof/Machine/Queue.lean ====
section
/-!
DEFINITION. The queues as the DMA engine sees them (R313 to R331): operations in flight, when fetching pauses, the queue that is served next.
-/
namespace Sys2Proof.Machine

/-- Entries of a ring (R317). -/
def ringLen (size : Nat) : Nat := size + 1

/-- A cause of command handling (R347). -/
def hlCause (s : State) (code : Nat) : State := record s 0x0F 0 code

/-- Whether an operation's completion has been produced and waits to be written. -/
def opDone (s : State) (o : Op) : Bool :=
  match o.pkt.src with
  | .sq n => (s.cq (s.sq n).cq).pend.any fun c => c.owns && c.src == o.pkt.src && c.tag == pTag o.pkt
  | _ => false

/-- Operations in flight (R327, R348): those fetched, and completions that answer no other. -/
def inFlight (s : State) : Nat :=
  s.cmd.ops.length + s.cmd.cqs.foldl (fun n e => n + (e.2.pend.filter fun c => !c.owns).length) 0

/-- Whether a packet of a source counts against 4,032 (R327). -/
def ordinary (s : State) : Src → Bool
  | .sq n => !(s.sq n).imm
  | .mbx => true
  | _ => false

/-- Operations that count against 4,032 (R327): a packet with a duplicate tag is one until its completion is written. -/
def fwInFlight (s : State) : Nat :=
  (s.cmd.ops.filter fun o => ordinary s o.pkt.src).length +
  s.cmd.cqs.foldl (fun n e => n + (e.2.pend.filter fun c => !c.owns && c.status == St.DUP_TAG && ordinary s c.src).length) 0

/-- Packets whose fetch read is under way. -/
def fetchingNow (s : State) : Nat := s.cmd.sqs.foldl (fun n e => n + e.2.fetching) 0

/-- Those of them that count against 4,032. -/
def fwFetching (s : State) : Nat := s.cmd.sqs.foldl (fun n e => n + if e.2.imm then 0 else e.2.fetching) 0

/-- Whether a firmware activation pauses command acceptance (R506). -/
def fwPaused (s : State) : Bool := s.rd VANE.FW_STATE == 3

/-- Whether Lull entry has stopped fetching (R373), or CMD stands. -/
def cmdAsleep (s : State) : Bool := decide (2 ≤ s.pwr.lull) || stopped s .cmd

/-- Whether a completion queue has room for an entry (R325). -/
def cqRoom (k : Cq) : Bool := (k.tail + 1) % ringLen k.size != k.head

/-- Whether the module may fetch from a queue, or, without one, from the mailbox (R327, R331, R373, R506). -/
def mayFetch (s : State) (imm : Bool) : Bool :=
  !cmdAsleep s && decide (inFlight s + fetchingNow s < 4096) &&
    (imm || (!fwPaused s && decide (fwInFlight s + fwFetching s < 4032)))

/-- Whether a queue holds packets and may fetch (R328). -/
def sqReady (s : State) (n : Nat) : Bool :=
  let k := s.sq n
  k.enable && !k.fault && k.fetching == 0 && k.head != k.tail && mayFetch s k.imm && !awaits s (.ring n) n

/-- The queue whose turn it is (R328): the lowest QPRIO, and in turn among equals, after the one of that QPRIO served last. -/
def nextSq (s : State) : Option Nat :=
  (List.range 4).findSome? fun p =>
    let last := Bank.get (fun _ => 63) s.cmd.lastSq p
    ((List.range 64).map fun i => (last + 1 + i) % 64).find? fun n => sqReady s n && (s.sq n).qprio == p

/-- Whether control traffic of the queues waits for the DMA engine (R396): a fetch that may be issued, or a completion with room. -/
def queueTraffic (s : State) : Bool :=
  (nextSq s).isSome ||
  (List.range 64).any fun n =>
    let k := s.cq n
    k.enable && !k.fault && !k.pend.isEmpty && cqRoom k && !awaits s (.post n) n

end Sys2Proof.Machine
end

