-- ==== Sys2Proof/Machine/React.lean ====
section
/-!
DEFINITION. What falls due within a step: the reactions of the causes it set (R469, R470) and the response of sweep
engines to trips (R154); and the two shapes of every meaning, an event and a command.
-/
namespace Sys2Proof.Machine

/-- TRIP_GROUP on a channel (R469, R470): every channel of its group, or every HV channel, goes to TRIPPED, and the same
cause, an injected one as such, is set in the windows of the others. -/
def tripGroup (s : State) (c : Nat) (h : Hit) : State :=
  (groupChans (groupOf c)).foldl (fun s d =>
    let s := toTripped s d
    if d = c then s else recordFixed s (cb d) (ci d) h) s

/-- RELAY_WEAR with the reaction hold also moves RELAY_ALL to RELAY_LOW (R54). -/
def wearPath (s : State) (c code : Nat) : State :=
  if c < 128 ∧ code = 0x07 ∧ s.rd FCH.PATH_SEL c = 0 then s.put FCH.PATH_SEL c 1 else s

/-- The owning sweep engine holds at its next point boundary. -/
def holdOwner (s : State) (c : Nat) : State :=
  match (s.ch c).owner with
  | some e => requestHold s e .reaction
  | none => s

/-- A reaction of a channel's cause. -/
def reactChan (s : State) (c action : Nat) (h : Hit) : State :=
  match action with
  | 2 => toFault s c
  | 3 => wearPath (holdOwner s c) c h.code
  | 5 => tripGroup s c h
  | _ => s

/-- A reaction of a channel's measure path (R469): OUTPUT_OFF moves the channel to FAULT, HOLD holds the group's
sweep engine. -/
def reactMsr (s : State) (c action : Nat) : State :=
  match action with
  | 2 => toFault s c
  | 3 => requestHold s (groupOf c) .reaction
  | _ => s

/-- A reaction of a sweep engine's cause (R469). -/
def reactSwe (s : State) (e action : Nat) : State :=
  let k := s.runSlot e
  match action with
  | 2 => if k < 4 then
      let cs := slotChans s e k
      cs.foldl toFault (bringForward (abortSlot s e k) e)
    else s
  | 3 => requestHold s e .reaction
  | 5 => if k < 4 then (slotChans s e k).foldl toTripped s else s
  | _ => s

/-- TRIP_GROUP on a pin (R183, R469, R470): the 64 pins of its chip go to FAULT; a chip-level cause stands in all their
windows already (R207), another is set in the others' windows. -/
def tripChip (s : State) (n : Nat) (h : Hit) : State :=
  let chipLevel := h.code = 3 ∨ h.code = 4 ∨ h.code = 5
  (chipPins (n / 64)).foldl (fun s m =>
    let s := pinFault s m
    if m = n ∨ chipLevel then s else recordFixed s 5 m h) s

/-- A reaction of a pin's cause (R183, R469). -/
def reactPin (s : State) (n action : Nat) (h : Hit) : State :=
  let q := s.sequencer (n / 128)
  match action with
  | 2 => pinFault s n
  | 3 => holdSeq s (n / 128) .reaction
  | 4 => reactPark (Bank.get (fun _ => parkReset) q.parks (segPark q.parkEntry)) s n
  | 5 => tripChip s n h
  | _ => s

/-- A reaction of a sequencer's cause (R240, R469). -/
def reactSeq (s : State) (d action : Nat) : State :=
  match action with
  | 2 => (domPins d).foldl pinFault (parkIfBusy 6 s d)
  | 3 => holdSeq s d .reaction
  | 4 => parkIfBusy 6 s d
  | _ => s

/-- A reaction of a timebase cause (R469). -/
def reactTb (s : State) (action : Nat) : State :=
  match action with
  | 3 =>
    let s := (List.range 17).foldl (fun s e => requestHold s e .reaction) s
    (List.range 2).foldl (fun s d => holdSeq s d .reaction) s
  | 4 => (List.range 2).foldl (parkIfBusy 6) s
  | _ => s

/-- A reaction of any cause (R469). -/
def reactAny (s : State) (blk inst action : Nat) (h : Hit) : State :=
  match blk with
  | 1 => reactChan s inst action h
  | 2 => reactMsr s inst action
  | 3 => reactSwe s inst action
  | 4 => reactChan s (inst + 128) action h
  | 5 => reactPin s inst action h
  | 6 => reactSeq s inst action
  | 7 => reactTb s action
  | _ => s

/-- One thing that is due. -/
def settleOne (s : State) : Due → State
  | .react blk inst action h => reactAny s blk inst action h
  | .tripped c => tripAction s c

/-- Everything that is due, and what it brings about in its turn. -/
def settleN : Nat → State → State
  | 0, s => s
  | n + 1, s =>
    match s.due with
    | [] => s
    | d :: ds => settleN n (settleOne { s with due := ds } d)

/-- The end of every step: what it made due acts within it (R469, R470). -/
def settle (s : State) : State := settleN 65536 s

/-- An event's answer. -/
def done (s : State) : Answer := .next (settle s)

/-- Whether a packet is an operation that has been dispatched with this opcode and has not taken effect (R320, R324, R329, R342): only
then does its row act (log 223). While boundary scan holds the links down, commands wait (R541). -/
def dispatched (s : State) (p : Pkt) (code : Nat) : Bool :=
  pOpcode p == code && (!s.tst.extest || p.src == .vane) && s.cmd.ops.any fun o => o.pkt == p && (o.stage == .running || o.stage == .reading)

/-- A command packet's answer: refused by a common check, or what its own meaning comes to; nothing where it is not dispatched. -/
def runCmd (s : State) (p : Pkt) (code : Nat) (f : Form) (body : Res) : Answer :=
  if dispatched s p code then
    done (finish p (match gate s p code f with
      | some st => refuse s st
      | none => body))
  else .next s

/-- The answer of a command that may take a pointer block (R321, R322). -/
def runBlock (s : State) (p : Pkt) (code : Nat) (f : Form) (d : HostData) (body : List Nat → Res) : Answer :=
  runCmd s p code f (withBlock s p f d body)

end Sys2Proof.Machine
end

