-- ==== Sys2Proof/Machine/Loop.lean ====
section
/-!
DEFINITION. LOOP_CYCLE (R39 to R42, R49, R66, R69, R70, R75): one 125 ns loop cycle of every channel in use. Loop
arithmetic is exact (log 5).
-/
namespace Sys2Proof.Machine

/-- Coefficient of the active profile of a channel (R43, R165), Q2.29. `f` and `h` are its codes in the two layouts. -/
def coefOf (s : State) (c f h : Nat) : Rat :=
  let a := (s.ch c).act
  let v := if c < 128 then s.rd FCH.PROF c (16 * a.prof + f) else s.rd HVC.PROF (ci c) (16 * a.prof + h)
  (v : Rat) / 536870912

/-- A rational held between two bounds. -/
def clampRat (lo hi v : Rat) : Rat := if v < lo then lo else if hi < v then hi else v

/-- One second-order section (R41): input, coefficients b0 b1 b2 a1 a2, history x1 x2 y1 y2; the output and the new
history. -/
def biquad (u : Rat) (b : List Rat) (h : List Rat) : Rat × List Rat :=
  let y := b.getD 0 0 * u + b.getD 1 0 * h.getD 0 0 + b.getD 2 0 * h.getD 1 0 - b.getD 3 0 * h.getD 2 0 -
    b.getD 4 0 * h.getD 3 0
  (y, [u, h.getD 0 0, y, h.getD 2 0])

/-- The effective limit of one side in the limited quantity's own unit, and whether the programmed one is in effect
(R68, R69). In ON_FV the unit is pA × 16,384, in ON_FI µV × 16,384. Above 12 V no more than 50 mA is delivered (R57). -/
def effLimit (s : State) (c : Nat) (pos : Bool) : Int × Bool :=
  let a := (s.ch c).act
  if a.mode = 3 then
    ((if pos then a.vlp else a.vln) * vfs a.vr, true)
  else
    let code := if pos || a.limSym == 1 then a.ilp else a.iln
    let prog := code * cifs c a.ilr
    let top := if s.ceff FCH.RP_EN HVC.RP_EN c = 1 ∧ !(s.ch c).policyOff then
        min (cifs c (s.ceff FCH.RP_MAX HVC.RP_MAX c).toNat) (cifs c a.ir)
      else cifs c a.ir
    let top := if c < 128 ∧ !r71ok a.setp a.vr (top * 16384) then min top 50000000000 else top
    (min prog (top * 16384), decide (prog ≤ top * 16384))

/-- The effective limit of a side as a fraction of the active range's full scale. -/
def limitNorm (s : State) (c : Nat) (pos : Bool) : Rat :=
  let a := (s.ch c).act
  let fs := if a.mode = 3 then vfs a.vr else cifs c a.ir
  ((effLimit s c pos).1 : Rat) / ((fs * 16384 : Int) : Rat)

/-- The forced value as a fraction of the active range's full scale, the probe of LOOP_TUNE included (R46); in ON_FI a setpoint counts in
units of its own range while a chain runs (R63, R65). -/
def setNorm (s : State) (c : Nat) : Rat :=
  let a := (s.ch c).act
  let n : Rat := (a.setp : Rat) / 4194304
  (if a.mode = 3 then n * (cifs c a.sir : Rat) / (cifs c a.ir : Rat) else n) + (probeCode s c : Rat) / 4194304

/-- Which controller a loop cycle selected. -/
inductive Cmd3 where
  | main | limPos | limNeg
deriving DecidableEq, Repr

/-- The controllers of one loop cycle (R41): the selected one and the channel with its new loop state. -/
def controllers (s : State) (c : Nat) : Cmd3 × Fch :=
  let f := s.ch c
  let fi := f.act.mode == 3
  let v : Rat := (f.v : Rat) / 4194304
  let i : Rat := (f.i : Rat) / 4194304
  let fb := if fi then i else v
  let other := if fi then v else i
  let k := coefOf s c
  let sp := setNorm s c
  let e := sp - fb
  let uPi := k 0 0 * e + f.integ
  let r1 := biquad uPi [k 2 2, k 3 3, k 4 4, k 5 5, k 6 6] f.b1
  let r2 := if c < 128 then biquad r1.1 [k 7 0, k 8 0, k 9 0, k 10 0, k 11 0] f.b2 else (r1.1, f.b2)
  let uMain := r2.1 + k 12 7 * sp
  let lkp := k 13 8
  let lki := k 14 9
  let lim := k 15 10
  let eP := limitNorm s c true - other
  let eN := -(limitNorm s c false) - other
  let uP := lkp * eP + f.linP
  let uN := lkp * eN + f.linN
  let inner := if uP < uMain then uP else uMain
  let u := if inner < uN then uN else inner
  let sel := if inner < uN then Cmd3.limNeg else if uP < uMain then Cmd3.limPos else Cmd3.main
  let f := { f with b1 := r1.2, b2 := r2.2, out := u }
  let f := match sel with
    | .main => { f with
        integ := clampRat (-lim) lim (f.integ + k 1 1 * e)
        linP := clampRat (-1) 1 (uMain - lkp * eP)
        linN := clampRat (-1) 1 (uMain - lkp * eN) }
    | .limPos => { f with linP := clampRat (-lim) lim (f.linP + lki * eP) }
    | .limNeg => { f with linN := clampRat (-lim) lim (f.linN + lki * eN) }
  (sel, f)

/-- The code of a clamp DAC for a threshold of a limit plus a margin in per cent of full scale: 12 bits over ±1.25 full scale, rounded
away from zero (R72). `limit` is in 1/16,384 of the unit of `fs`. -/
def clampCode (limit margin fs : Int) : Int :=
  min 2047 (ceilDiv ((limit * 100 + margin * 16384 * fs) * 8192).toNat (5 * 100 * 16384 * fs).toNat : Nat)

/-- The codes of a channel's four thresholds, voltage upper and lower, then current upper and lower (R72). -/
def clampCodes (s : State) (c : Nat) : List Int :=
  let a := (s.ch c).act
  let fs := cifs c a.ir
  if a.mode = 3 then
    [clampCode (effLimit s c true).1 a.margin (vfs a.vr), -clampCode (effLimit s c false).1 a.margin (vfs a.vr),
     clampCode (16384 * fs) a.margin fs, -clampCode (16384 * fs) a.margin fs]
  else
    [clampCode (16384 * vfs a.vr) a.margin (vfs a.vr), -clampCode (16384 * vfs a.vr) a.margin (vfs a.vr),
     clampCode (effLimit s c true).1 a.margin fs, -clampCode (effLimit s c false).1 a.margin fs]

/-- Whether the effective limit is the programmed one (R69): that of the side in command or, with none in command, of both sides
(log 193). -/
def limitProgrammed (s : State) (c : Nat) : Option Bool → Bool
  | some pos => (effLimit s c pos).2
  | none => (effLimit s c true).2 && (effLimit s c false).2

/-- LIMIT_SRC follows the effective limit (R69), as `lim` has it. -/
def setLimitSrc (lim s : State) (c : Nat) (side : Option Bool) : State :=
  s.cput FCH.LIMIT_SRC HVC.LIMIT_SRC c (b2n !(limitProgrammed lim c side))

/-- The side of the limit that a controller holds. -/
def Cmd3.side : Cmd3 → Option Bool
  | .main => none
  | .limPos => some true
  | .limNeg => some false

/-- The state moves that the selected controller brings (R49): into and out of LIMIT, and out of CLAMP after two cycles, except where OFF has
met the clamp (R80). `lim` is the state whose effective limits count. -/
def loopMoves (lim s : State) (c : Nat) (sel : Cmd3) : State :=
  let st := s.chState c
  let f := s.ch c
  let src := fun (s : State) => setLimitSrc lim s c sel.side
  if st = 2 ∨ st = 3 then
    if sel = .main then src s
    else publishLimit ((src s).setChState c 4) c true
  else if st = 4 then
    if sel = .main then
      src (publishLimit ((s.setCh c { f with limCyc := 0 }).setChState c f.act.mode) c false)
    else
      let s := src s
      if s.crd FCH.LIMIT_SRC HVC.LIMIT_SRC c = 0 then s.setCh c { s.ch c with limCyc := f.limCyc + 1 } else s
  else if st = 5 then
    let f := { f with
      clampCyc := f.clampCyc + 1
      clampLim := if sel = .main then 0 else f.clampLim + 1
      clampMain := if sel = .main ∧ insideWindows s c then f.clampMain + 1 else 0 }
    let s := s.setCh c f
    let s := if sel = .main then s else src s
    if f.clampHeld then s
    else if 2 ≤ f.clampLim then
      (s.setCh c { f with clampCyc := 0, clampLim := 0, clampMain := 0, limCyc := 0 }).setChState c 4
    else if 2 ≤ f.clampMain then
      src (publishLimit ((s.setCh c { f with clampCyc := 0, clampLim := 0, clampMain := 0 }).setChState c f.act.mode) c false)
    else s
  else s

/-- Output-stage dissipation (R75) in 10^-18 W × 2^44: the rail on the side that carries the current against the
output voltage. -/
def dissipation (s : State) (c : Nat) : Int :=
  let f := s.ch c
  let g := s.group (groupOf c)
  let v := f.v * vfs f.act.vr
  let i := f.i * cifs c f.act.ir
  ((if 0 ≤ i then g.railP else g.railN) * 4194304 - v) * i

/-- The four safe-operating-area timers after a cycle (R75, R76): up above PMAX, else down, also while nothing is connected; a disabled
row stands at 0. -/
def soaCycle (s : State) (c : Nat) : List Nat :=
  let on := connected (s.chState c)
  let d := dissipation s c
  (List.range 4).map fun r =>
    let row := s.effN FCH.SOA c r
    let t := (s.ch c).soa.getD r 0
    if fld row 20 12 = 0 then 0
    else if on ∧ (fld row 20 12 : Int) * 10000000000000000 * 17592186044416 < d then t + 1 else t - 1

/-- Whether the range policy acts on a channel (R66). -/
def policyOn (s : State) (c : Nat) : Bool :=
  let st := s.chState c
  s.ceff FCH.RP_EN HVC.RP_EN c == 1 && !(s.ch c).policyOff && (s.ch c).act.mode == 2 &&
    (st == 2 || st == 4 || st == 5)

/-- The policy entry of the active range. -/
def policyEntry (s : State) (c : Nat) : Nat := (s.ceff FCH.RP HVC.RP c (s.ch c).act.ir).toNat

/-- The up condition is complete; an IRANGE written in the same cycle wins (R66, R80). -/
def upDue (s : State) (c : Nat) : Bool :=
  policyOn s c && decide (fld (policyEntry s c) 16 16 ≤ (s.ch c).up) &&
    decide (((s.ch c).act.ir : Int) < s.ceff FCH.RP_MAX HVC.RP_MAX c) && !(s.ch c).irNew

/-- The range-policy counts after a cycle (R66): a down count runs from the first whole cycle after a settle window on. -/
def policyCycle (s : State) (c : Nat) (f : Fch) : Fch :=
  if policyOn s c then
    let e := policyEntry s c
    let x := (iabs f.i).toNat * 65536
    { f with
      up := if fld e 48 16 * 4194304 ≤ x then f.up + 1 else 0
      dn := if x < fld e 32 16 * 4194304 ∧ (f.settleEnd = 0 ∨ f.settleEnd < s.clock) then f.dn + 1 else 0 }
  else { f with up := 0, dn := 0 }

/-- One cycle of the ramp of R50 that takes the forced quantity to 0: 2 V/µs in ON_FV, 20 % of the active current range's full scale per µs
in ON_FI, each rounded to the nearest code a cycle (log 5). -/
def rampDown (c : Nat) (f : Fch) : Fch :=
  let by_ : Int := if f.act.mode = 3 then roundDiv (4194304 * cifs c f.act.ir) (40 * cifs c f.act.sir).toNat
    else roundDiv (250000 * 4194304) (vfs f.act.vr).toNat
  let v := f.act.setp
  { f with act := { f.act with setp := if iabs v ≤ by_ then 0 else if 0 < v then v - by_ else v + by_ } }

/-- One cycle of the probe of LOOP_TUNE (R46, R166): a square wave whose half waves grow shorter, from those of 1 kHz to those of 200 kHz,
on HV of 100 Hz and 20 kHz; the steps between are free values (log 3). -/
def probeCycle (s : State) (c : Nat) : State :=
  match (s.ch c).tune with
  | none => s
  | some t =>
    let long := if c < 128 then 4000 else 40000
    let short := if c < 128 then 20 else 200
    if 0 < t.left then s.setCh c { s.ch c with tune := some { t with left := t.left - 1, ran := t.ran + 1 } }
    else
      let r := s.draw
      let half := if t.half = 0 then long else short + r.1 % (t.half - short + 1)
      r.2.setCh c { r.2.ch c with tune := some { t with high := !t.high, half := half, left := half - 1, ran := t.ran + 1 } }

/-- A rational rounded to the nearest integer, halves away from zero. -/
def roundRat (x : Rat) : Int := roundDiv x.num x.den

/-- The DACs take their codes (R39, R40, R164): the force DAC the upper bits of the calibrated setpoint; the loop DAC, 16 bits over ±1.0
of the active range's full scale, the selected output together with the bits below. Their sum goes to the voltage or the current node. -/
def driveDacs (s : State) (c : Nat) : State :=
  let f := s.ch c
  let low : Int := if c < 128 then 16 else 64
  let rest : Rat := (f.force % low : Int)
  s.setCh c { f with
    forceDac := f.force / low
    loopDac := clampInt (-32768) 32767 (roundRat (f.out * 32768 + rest / 128))
    node := if s.chState c = 0 then none else if f.act.mode = 3 then some .amps else some .volts }

/-- One loop cycle of one channel: the values its ramps reach at the boundary, the boundary's new values and thresholds, a step of the range chain, readings, policy counts,
controllers, state moves, DACs, protection timers. Where the policy's up change falls in this cycle, limit entry is evaluated against the
effective limit of the new range (R80). -/
def cycleChan (readings : List LoopReading) (s : State) (c : Nat) : State :=
  let s := takeOver (if 128 ≤ c then s.setCh c (rampCycle s (s.ch c)) else s) c
  let s := if c < 128 then s.setCh c { s.ch c with clampDac := clampCodes s c } else s
  let s := probeCycle (chainStep s c) c
  let f := s.ch c
  let f := if c < 128 ∧ f.motion = .ramping then rampDown c f else f
  let f := match readings.find? fun r => r.ch == c with
    | some r => { f with v := loopCal s c false r.v, i := loopCal s c true r.i }
    | none => f
  let s := writeForce (s.setCh c f) c
  let s := if connected (s.chState c) then s.setCh c (policyCycle s c (s.ch c)) else s
  let s := if s.chState c = 0 then s
    else
      let r := controllers s c
      let next := if upDue s c then stepUp s c else s
      loopMoves next (s.setCh c r.2) c (if upDue s c then (controllers next c).1 else r.1)
  let s := driveDacs s c
  if c < 128 then s.setCh c { s.ch c with soa := soaCycle s c } else s

/-- A list without repeats. -/
def noRepeats : List Nat → List Nat
  | [] => []
  | x :: xs => if xs.contains x then noRepeats xs else x :: noRepeats xs

/-- The channels a loop cycle concerns: those in use and those read, whose islands run (R22). A channel never touched
is OFF at its reset values, where a loop cycle changes nothing. -/
def cycleChans (s : State) (readings : List LoopReading) : List Nat :=
  let extra := (readings.map LoopReading.ch).filter fun c => c < 132 && (Bank.find c s.fch).isNone
  (s.fch.map Prod.fst ++ noRepeats extra).filter fun c => !stopped s (if c < 128 then .pg (c / 8) else .hv)

/-- One cycle of a rail's slew, 2 V/µs (R77). -/
def slewRail (x t : Int) : Int := if x < t then min t (x + 250000) else max t (x - 250000)

/-- One cycle of a group's rails (R77); RAIL_POS and RAIL_NEG report them in units of 10 mV, rounded to the nearest (log 166). -/
def railCycle (s : State) (g : Nat) : State :=
  let r := s.group g
  if 16 ≤ g ∨ (r.railP = r.tgtP ∧ r.railN = r.tgtN) then s
  else
    let p := slewRail r.railP r.tgtP
    let n := slewRail r.railN r.tgtN
    ((s.setGroup g { r with railP := p, railN := n }).put FCH.RAIL_POS (groupHome g) (roundDiv p 10000)).put
      FCH.RAIL_NEG (groupHome g) (roundDiv n 10000)

/-- A running point sees whether a channel of its mask is in LIMIT or CLAMP (R137, R156). -/
def seeLimit (s : State) (e : Nat) : State :=
  let t := s.engine e
  let k := s.runSlot e
  if k < 4 ∧ (t.pt = .applied ∨ t.pt = .pulse) ∧ !t.limitSeen then
    let q := entryAt s (s.slotRd SWE.REGION e k) t.entry
    let lim := (pointChans s e k q).any fun c => s.chState c == 4 || s.chState c == 5
    s.setEngine e { t with limitSeen := lim }
  else s

end Sys2Proof.Machine
end

