-- ==== Sys2Proof/Machine/Force.lean ====
section
/-!
DEFINITION. The rows of the force loop (R46 to R81) and of HV channels where they share them: output states, ranges,
rails, trips, LOOP_TUNE, LOOP_PRESET, REARM and CLEAR_COUNTS; and the write rules of the channel parameters they write.
-/
namespace Sys2Proof.Machine

/-- A write of a parameter: the status that refuses it, or the state that results. -/
abbrev Wr := Except Nat State

/-- The island of a channel. -/
def chanIsland (c : Nat) : Island := if c < 128 then .pg (c / 8) else .hv

/-- Whether a sweep engine owns a channel (R140). -/
def owned (s : State) (c : Nat) : Bool := (s.ch c).owner.isSome

/-- Apply a change under the power budget (R79): refused where it raises an estimate beyond the budget. HV commands never
meet it (R171). -/
def grantCh (s t : State) (c : Nat) : Wr :=
  if 128 ≤ c then .ok t
  else
    let old := budgetSums s
    let new := budgetSums t
    if (old.1 < new.1 ∨ old.2 < new.2) ∧ !withinBudget new then .error St.POWER_BUDGET
    else .ok (reportBudget t)

/-- R71 for a channel that would be in a mode with a setpoint on a voltage range. -/
def r71Holds (s : State) (c req : Nat) (code : Int) (vr : Nat) : Bool :=
  if c < 128 ∧ req = 2 then
    let l := limitCurrent s c
    r71ok code vr (max l.1 l.2)
  else true

/-- Channels a CAL_SELF has as targets emit no records and are not auto-zeroed (R446). -/
def calTarget (s : State) (c : Nat) : Bool :=
  s.cal.selfs.any fun o => o.chans.contains c

/-- Whether the test DAC feeds a channel (R119). -/
def tdacMasked (s : State) (c : Nat) : Bool :=
  bit (s.rdN MSR.TDAC_MASK (groupHome (groupOf c))) (c - groupHome (groupOf c))

/-- The boost starts for an HV channel that leaves OFF, or TRIPPED by REARM, where it stands still (R169, R170; logs 17 and 168). -/
def startBoost (s : State) (c : Nat) : State :=
  if 128 ≤ c ∧ (s.rd HVC.BOOST_STATE = 0 ∨ s.rd HVC.BOOST_STATE = 3) then
    { s.put HVC.BOOST_STATE 0 1 with hv := { s.hv with quietAt := some s.clock } }
  else s

/-- A write of OUT_REQ but for the power budget (R49, R51, R71, R120, R169, R446, R565). -/
def setOutReq (s : State) (c : Nat) (v : Int) : Wr :=
  let st := s.chState c
  if v < 0 ∨ 3 < v then .error St.BAD_VALUE
  else if stopped s (chanIsland c) then .error St.ISLAND_STOPPED
  else if owned s c then .error St.OWNED
  else if (st = 6 ∨ st = 7) ∧ v ≠ 0 then .error St.WRONG_STATE
  else if st = 7 ∧ (s.win (cb c) (ci c)).fault then .error St.WRONG_STATE
  else if 2 ≤ v ∧ (shedding s ∨ tdacMasked s c) then .error St.WRONG_STATE
  else if calTarget s c then .error St.WRONG_STATE
  else if 128 ≤ c ∧ v ≠ 0 ∧ s.rd HVC.INTLK_STATE = 0 then .error St.WRONG_STATE
  else if !r71Holds s c v.toNat (s.setpoint c) (s.ch c).parVr then .error St.BAD_VALUE
  else
    let t := (abortTune s c).cput FCH.OUT_REQ HVC.OUT_REQ c v
    let t := if 2 ≤ v then resetCeiling t c else t
    .ok (moveOutput (if st = 0 ∧ v ≠ 0 then startBoost t c else t) c v.toNat)

/-- Write OUT_REQ under the power budget (R79). -/
def writeOutReq (s : State) (c : Nat) (v : Int) : Wr :=
  match setOutReq s c v with
  | .ok t => grantCh s t c
  | .error e => .error e

/-- A write of SETPOINT but for the power budget (R40, R71, R78, R167): the state, and the delay in loop cycles while rails
move. SET_NOW is held against the ceiling instead (R333, R334). -/
def setSetpoint (s : State) (c : Nat) (v : Int) (now : Bool := false) : Except Nat (State × Nat) :=
  let on := connected (s.chState c)
  if v < -4194304 ∨ 4194304 < v then .error St.BAD_VALUE
  else if stopped s (chanIsland c) then .error St.ISLAND_STOPPED
  else if owned s c then .error St.OWNED
  else if !r71Holds s c (s.onMode c) v (s.rdN FCH.VRANGE c) then .error St.BAD_VALUE
  else if shedding s ∧ iabs (s.setpoint c) < iabs v then .error St.WRONG_STATE
  else if now ∧ c < 128 ∧ ceilingOf s c < (iabs v).toNat then .error St.POWER_BUDGET
  else
    let delay := if on ∧ (s.ch c).motion ≠ .ramping then setpointDelay s c v else 0
    let t := s.cput FCH.SETPOINT HVC.SETPOINT c v
    let t := t.setCh c { t.ch c with
      parVr := if c < 128 then s.rdN FCH.VRANGE c else 4
      parIr := if (t.ch c).irNew then (s.crd FCH.IRANGE HVC.IRANGE c).toNat else (t.ch c).irTarget
      waitSet := if 0 < delay then some v else none, rampNew := true }
    let t := if now then t else resetCeiling t c
    .ok (if 0 < delay then aimRails t (groupOf c) else touch t c, delay)

/-- Write SETPOINT under the power budget (R79). -/
def writeSetpoint (s : State) (c : Nat) (v : Int) : Wr :=
  match setSetpoint s c v with
  | .ok r => grantCh s r.1 c
  | .error e => .error e

/-- A write of IRANGE but for the power budget (R63, R65, R80): the chain's target from the next boundary on; in ON_FI that boundary keeps
the forced current, and a range that could not hold it is refused. A new forced range returns the ceiling (R334). -/
def setIrange (s : State) (c : Nat) (v : Int) : Wr :=
  let hi : Int := if c < 128 then 8 else 6
  let fi := connected (s.chState c) && (s.ch c).act.mode == 3
  let code := reexpress (s.setpoint c) (cifs c (s.ch c).parIr) (cifs c v.toNat)
  if v < 0 ∨ hi < v then .error St.BAD_VALUE
  else if stopped s (chanIsland c) then .error St.ISLAND_STOPPED
  else if owned s c then .error St.OWNED
  else if fi ∧ 4194304 < iabs code then .error St.BAD_VALUE
  else
    let t := s.cput FCH.IRANGE HVC.IRANGE c v
    let t := if !fi ∧ s.onMode c ≠ 2 ∧ v ≠ s.crd FCH.IRANGE HVC.IRANGE c then resetCeiling t c else t
    .ok (touch (t.setCh c { t.ch c with irNew := true, parIr := if fi then (t.ch c).parIr else v.toNat }) c)

/-- Write IRANGE under the power budget (R79). -/
def writeIrange (s : State) (c : Nat) (v : Int) : Wr :=
  match setIrange s c v with
  | .ok t => grantCh s t c
  | .error e => .error e

/-- A write of VRANGE but for the power budget (R65): in ON_FV the boundary that takes it keeps the forced voltage, and a range
that could not hold it is refused. A new forced range returns the ceiling (R334). -/
def setVrange (s : State) (c : Nat) (v : Int) : Wr :=
  let fv := connected (s.chState c) && (s.ch c).act.mode == 2
  let code := reexpress (s.setpoint c) (vfs (s.ch c).parVr) (vfs v.toNat)
  if v < 0 ∨ 3 < v then .error St.BAD_VALUE
  else if stopped s (chanIsland c) then .error St.ISLAND_STOPPED
  else if owned s c then .error St.OWNED
  else if fv ∧ 4194304 < iabs code then .error St.BAD_VALUE
  else
    let t := s.put FCH.VRANGE c v
    let t := if !fv ∧ s.onMode c ≠ 3 ∧ v ≠ s.rd FCH.VRANGE c then resetCeiling t c else t
    .ok (touch (t.setCh c { t.ch c with parVr := if fv then (t.ch c).parVr else v.toNat }) c)

/-- Write VRANGE under the power budget (R79). -/
def writeVrange (s : State) (c : Nat) (v : Int) : Wr :=
  match setVrange s c v with
  | .ok t => grantCh s t c
  | .error e => .error e

/-- What a register write of a parameter comes to: a refused one changes nothing (R11); in SCRAPPED, and while an erasure runs, every one
is refused (R522, R525). -/
def written (s : State) (w : Wr) : Answer :=
  match w with
  | .ok t => if s.lcState = 4 ∨ s.rd LC.ERASE_PENDING = 1 then .next s else done t
  | .error _ => .next s

/-- OUT_REQ_WRITE. -/
def execOutReqWrite (ch : Nat) (value : Int) (s : State) : Answer :=
  if ch < 132 then written s (writeOutReq s ch value) else .next s

/-- SETPOINT_WRITE. -/
def execSetpointWrite (ch : Nat) (value : Int) (s : State) : Answer :=
  if ch < 132 then written s (writeSetpoint s ch value) else .next s

/-- IRANGE_WRITE. -/
def execIrangeWrite (ch : Nat) (value : Int) (s : State) : Answer :=
  if ch < 132 then written s (writeIrange s ch value) else .next s

/-- VRANGE_WRITE; HV channels have no VRANGE (R178). -/
def execVrangeWrite (ch : Nat) (value : Int) (s : State) : Answer :=
  if ch < 128 then written s (writeVrange s ch value) else .next s

/-- The side of the limited quantity that a clamp window stands on, if it stands on that quantity (R72). -/
def windowSide (s : State) (c k : Nat) : Option Bool :=
  if decide (k < 2) == ((s.ch c).act.mode == 3) then some (k % 2 == 0) else none

/-- The clamp engages in ON_FV, ON_FI and LIMIT (R49, R69, R70, R74): CLAMP, counted and published; a further crossing is neither. -/
def engageClamp (s : State) (c k : Nat) : State :=
  let st := s.chState c
  if c < 128 ∧ 2 ≤ st ∧ st ≤ 4 then
    let s := if st = 4 then s else setLimitSrc s s c (windowSide s c k)
    let s := s.setCh c { s.ch c with clampCyc := 0, clampMain := 0, clampLim := 0, limCyc := 0 }
    let s := (s.setChState c 5).bump FCH.CLAMP_COUNT c
    let s := s.publish (s.eff FCH.EV_CLAMP c)
    if st = 4 then s else publishLimit s c true
  else s

/-- A quantity is seen beyond the threshold of a window comparator (R73, R74, R197): its raw output engages the clamp, once a mode change in
progress is complete. -/
def windowOut (s : State) (c k : Nat) : State :=
  let w := Cmp.window c k
  let v := s.comp w
  if v.changing then s.setComp w { v with waits := some !(insideRaw k) }
  else engageClamp (s.setComp w { v with raw := !(insideRaw k), unresolved := false, resolve := none }) c k

/-- The number of a window comparator (R209). -/
def windowOf (q : Quantity) (upper : Bool) : Nat := (if q = .volts then 0 else 2) + (if upper then 0 else 1)

/-- WINDOW_CROSSING (R49, R70, R73, R74). -/
def execWindowCrossing (ch : Nat) (quantity : Quantity) (upper : Bool) (s : State) : Answer :=
  if ch < 128 ∧ connected (s.chState ch) then done (windowOut s ch (windowOf quantity upper)) else .next s

/-- A fault cause of a channel, with the protection causes of the same loop cycle (R80): all are recorded, and a trip among them acts. -/
def recordChan (s : State) (c code : Nat) : State :=
  let due := !(protectionHits s c).isEmpty
  let s := record s (cb c) (ci c) code
  if due then toTripped s c else s

/-- CLAMP_TIMEOUT (R49, R80). -/
def execClampTimeout (ch : Nat) (s : State) : Answer :=
  if clampDue s ch then done (toTripped s ch) else .next s

/-- LIMIT_TIMEOUT (R49, R80). -/
def execLimitTimeout (ch : Nat) (s : State) : Answer :=
  if limitDue s ch then done (toTripped s ch) else .next s

/-- SOA_TIMEOUT (R75, R80). -/
def execSoaTimeout (ch : Nat) (row : Nat) (s : State) : Answer :=
  if soaDue s ch row then done (toTripped s ch) else .next s

/-- Whether a trip of this loop cycle has opened a channel (R80). -/
def justTripped (s : State) (c : Nat) : Bool :=
  match (s.ch c).leftAt with
  | some l => l.1 == s.clock && s.chState c == 6
  | none => false

/-- SENSE_LOSS (R56, R80, R177): evaluated in the ON states and LIMIT, after the clamp releases or the output opens. In the loop cycle of a
trip it is counted and logged as well, and its reaction acts. -/
def execSenseLoss (ch : Nat) (s : State) : Answer :=
  let st := s.chState ch
  let code := if ch < 128 then 0x04 else 0x05
  if ch < 132 ∧ 2 ≤ st ∧ st ≤ 4 then done (recordChan s ch code)
  else if ch < 132 ∧ justTripped s ch then done (record s (cb ch) (ci ch) code)
  else .next s

/-- GUARD_OVL (R55, R80). -/
def execGuardOvl (ch : Nat) (s : State) : Answer :=
  if ch < 128 then done (recordChan s ch 0x05) else .next s

/-- RAIL_FAULT (R81): the group's first channel detects it (log 6). -/
def execRailFault (group : Nat) (s : State) : Answer :=
  if group < 16 then done (recordChan s (groupHome group) 0x08) else .next s

/-- STANDBY_REACHED (R49): the loop has started into the dummy load with cleared loop state (log 5); a further request
connects at once. -/
def execStandbyReached (ch : Nat) (s : State) : Answer :=
  let f := s.ch ch
  let st := s.chState ch
  if f.motion = .starting ∧ (st = 0 ∨ st = 6) ∧ (ch < 128 ∨ s.rd HVC.BOOST_STATE = 2) then
    let f := { f with
      motion := .still, policyOff := false, integ := 0, linP := 0, linN := 0, b1 := [0, 0, 0, 0], b2 := [0, 0, 0, 0], out := 0
      act := { f.act with mode := 1, setp := 0 }, dirty := true }
    let s := (s.setCh ch f).setChState ch 1
    done (if 2 ≤ f.target then connect s ch f.target else s)
  else .next s

/-- OUTPUT_RAMP_DONE (R50, R168, R169): the forced quantity stands at 0, so the paths open; an HV output is discharged for 10 ms, and the
50 µs after its ramp carry SETTLING. -/
def execOutputRampDone (ch : Nat) (s : State) : Answer :=
  let f := s.ch ch
  let zero := if f.act.mode = 3 ∧ 128 ≤ ch then f.act.vlp == 0 && f.act.vln == 0 else f.act.setp == 0
  if f.motion = .ramping ∧ zero then
    let s := settleOpen (if f.ramp.isSome ∨ f.rampN.isSome then settleFor s ch 50000 else s) ch f.target
    done (if 128 ≤ ch then (s.setCh ch { s.ch ch with dischPeriod := some s.clock }).put HVC.RAMP (ci ch) 0 else s)
  else .next s

/-- RELAY_CLOSURE_VERIFIED (R53, R54): counted; RELAY_WEAR when the count reaches 180,000,000. -/
def execRelayClosureVerified (ch : Nat) (s : State) : Answer :=
  let f := s.ch ch
  if ch < 128 ∧ f.paths.relayPending then
    let s := s.setCh ch { f with paths := { f.paths with
      relay := true, relayPending := false, ssrOpens := decide (f.act.ir ≤ 1) } }
    let s := s.bump FCH.RELAY_COUNT ch
    done (if s.rd FCH.RELAY_COUNT ch = 180000000 then record s 1 ch 0x07 else s)
  else .next s

/-- RELAY_VERIFY_TIMEOUT (R53). -/
def execRelayVerifyTimeout (ch : Nat) (s : State) : Answer :=
  let f := s.ch ch
  if ch < 128 ∧ f.paths.relayPending then
    let s := s.setCh ch { f with paths := { f.paths with ssr := true, relayPending := false, ssrOpens := false } }
    done ((record s 1 ch 0x06).put FCH.PATH_SEL ch 2)
  else .next s

/-- SSR_OPEN_DELAY (R53). -/
def execSsrOpenDelay (ch : Nat) (s : State) : Answer :=
  let f := s.ch ch
  if ch < 128 ∧ f.paths.relay ∧ f.paths.ssrOpens ∧ f.act.ir ≤ 1 then
    done (s.setCh ch { f with paths := { f.paths with ssr := false, ssrOpens := false } })
  else .next s

/-- The range policy has moved the active range: it is the range chained to, and the one in whose units a current setpoint counts from now
on (log 167). -/
def policyMoved (s : State) (c : Nat) : State :=
  let f := s.ch c
  s.setCh c { f with irTarget := f.act.ir, parIr := f.act.ir, act := { f.act with sir := f.act.ir } }

/-- The down condition is complete (R66, R80). -/
def downDue (s : State) (c : Nat) : Bool :=
  policyOn s c && decide (fld (policyEntry s c) 0 16 ≤ (s.ch c).dn) && decide ((s.ch c).settleEnd ≤ s.clock) &&
    decide (s.ceff FCH.RP_MIN HVC.RP_MIN c < ((s.ch c).act.ir : Int)) && !(s.ch c).irNew

/-- RANGE_UP_CHANGE (R66). -/
def execRangeUpChange (ch : Nat) (s : State) : Answer :=
  if upDue s ch then done (policyMoved (stepUp s ch) ch) else .next s

/-- RANGE_DOWN_CHANGE (R66, R80): the up change wins. -/
def execRangeDownChange (ch : Nat) (s : State) : Answer :=
  if downDue s ch ∧ !upDue s ch then done (policyMoved (stepDown s ch) ch) else .next s

/-- SETTLE_WINDOW_END (R61, R63). -/
def execSettleWindowEnd (ch : Nat) (s : State) : Answer :=
  let f := s.ch ch
  if f.settleEnd ≠ 0 ∧ f.settleEnd ≤ s.clock then
    done (chainStep (s.setCh ch { f with settleEnd := 0 }) ch)
  else .next s

/-- A delayed setpoint of a channel applies (R78), in units of the active voltage range. -/
def applyWaiting (s : State) (c : Nat) : State :=
  let f := s.ch c
  match f.waitSet with
  | some v =>
    let v := if f.parVr = f.act.vr then v else reexpress v (vfs f.parVr) (vfs f.act.vr)
    touch (s.setCh c { f with waitSet := none, act := { f.act with setp := v } }) c
  | none => s

/-- Whether the rail that a channel's delayed setpoint waits for stands at its target (R78). -/
def railThere (s : State) (c : Nat) : Bool :=
  let g := s.group (groupOf c)
  match (s.ch c).waitSet with
  | some v => if v < 0 then g.railN == g.tgtN else g.railP == g.tgtP
  | none => false

/-- RAIL_TARGET_REACHED (R77, R78): the setpoints that waited for a rail which has slewed to its target apply. -/
def execRailTargetReached (group : Nat) (s : State) : Answer :=
  if group < 16 then done (((groupChans group).filter (railThere s)).foldl applyWaiting s) else .next s

/-- The active profile slot of a channel: the one PROFILE_SEL names, from the write on (log 209). -/
def activeProfile (s : State) (c : Nat) : Nat := (s.crd FCH.PROFILE_SEL HVC.PROFILE_SEL c).toNat

/-- LOOP_TUNE (R46, R166). -/
def execLoopTune (p : Pkt) (s : State) : Answer :=
  runCmd s p 0x0101 { used := [(1, allBits), (2, 0x107)] } <|
    match targetChan p with
    | none => refuse s St.BAD_ID
    | some c =>
      let slot := fld (pw p 2) 0 3
      let st := s.chState c
      if 128 ≤ c ∧ 3 < slot then refuse s St.BAD_VALUE
      else if stopped s (chanIsland c) then refuse s St.ISLAND_STOPPED
      else if slot = activeProfile s c then refuse s St.ACTIVE_PROFILE
      else if (st ≠ 1 ∧ st ≠ 2) ∨ (s.ch c).tune.isSome then refuse s St.WRONG_STATE
      else .later (s.setCh c { s.ch c with tune := some { src := p.src, tag := pTag p, slot := slot, select := bit (pw p 2) 8 } })

/-- Write the 16 coefficients of a profile slot of a channel. -/
def writeProfile (s : State) (c slot : Nat) (vs : List Int) : State :=
  (vs.zipIdx).foldl (fun s e => s.wr (cp FCH.PROF HVC.PROF c) (ci c) (16 * slot + e.2) e.1) s

/-- LOOP_TUNE_DONE (R46, R47, R166): the load, the margin and the profile are what the probe found, which the spec does
not give: free values (log 3), the margin at least 45°, the capacitance within the ceiling, and INT_LIM within 0 to 1.0 (R43). The slot is
written even where PROFILE_SEL has come to name it while the tune ran (log 210). -/
def execLoopTuneDone (ch : Nat) (solved : Bool) (s : State) : Answer :=
  match (s.ch ch).tune with
  | none => .next s
  | some t =>
    let s := s.setCh ch { s.ch ch with tune := none }
    if solved then
      let n := if ch < 128 then 16 else 11
      let a := drawMany n s
      let lim := (a.1.getD (n - 1) 0).toNat % 536870913
      let s := writeProfile a.2 ch t.slot (a.1.set (n - 1) lim)
      let cap := s.draw
      let res := cap.2.draw
      let mar := res.2.draw
      let s := mar.2
      let s := if t.select then touch (s.cput FCH.PROFILE_SEL HVC.PROFILE_SEL ch t.slot) ch else s
      done (s.complete t.src t.tag St.SUCCESS
        [cap.1 % ((if ch < 128 then 100000000 else 10000000) + 1), res.1 % 2 ^ 32, 450 + mar.1 % (2 ^ 32 - 450), t.slot])
    else
      let s := record s (cb ch) (ci ch) (if ch < 128 then 0x09 else 0x08)
      done (s.complete t.src t.tag St.NO_SOLUTION [])

/-- The up and down thresholds and dwells of a standard policy (R67), as one entry of RP. -/
def policyWord : Nat → Nat
  | 1 => 0xF333147B00010010
  | 2 => 0xF3330CCD00010FA0
  | _ => 0xFAE1170A00020040

/-- LOOP_PRESET (R342, R67, R44); AR_HOLD, which may raise the effective limit, is held against the power budget (R79). -/
def execLoopPreset (p : Pkt) (s : State) : Answer :=
  runCmd s p 0x0102 { used := [(1, allBits), (2, 0x7F), (3, 0xF)] } <|
    match targetChan p with
    | none => refuse s St.BAD_ID
    | some c =>
      let prof := fld (pw p 2) 0 4
      let slot := fld (pw p 2) 4 3
      let pol := fld (pw p 3) 0 4
      if 4 < prof ∨ 4 < pol ∨ (128 ≤ c ∧ 3 < slot) then refuse s St.BAD_VALUE
      else if stopped s (chanIsland c) then refuse s St.ISLAND_STOPPED
      else if prof ≠ 0 ∧ slot = activeProfile s c then refuse s St.ACTIVE_PROFILE
      else
        let t := s
        let s := if prof = 0 then s else
          writeProfile s c slot ((List.range (if c < 128 then 16 else 11)).map fun i => (Config.stdProfile prof i).toInt)
        let n := if c < 128 then 9 else 7
        let s := if pol = 0 then s
          else if pol = 4 then s.wrNext (cp FCH.RP_EN HVC.RP_EN c) (ci c) 0 0
          else (List.range n).foldl (fun s k => s.wrNext (cp FCH.RP HVC.RP c) (ci c) k (policyFor c pol k)) s
        match grantCh t (touch (if pol = 0 then s else s.setCh c { s.ch c with up := 0, dn := 0 }) c) c with
        | .ok s => ok s
        | .error e => refuse t e
where
  /-- The entry of range `k`: HV range 6 keeps the DN_THR that R173 admits, and no larger one of a policy. -/
  policyFor (c pol k : Nat) : Int :=
    let w := policyWord pol
    if 128 ≤ c ∧ k = 6 then (w - fld w 32 16 * 2 ^ 32 + min (fld w 32 16) 0x0A3D * 2 ^ 32 : Nat) else w

/-- REARM (R49, R80, R175). -/
def execRearm (p : Pkt) (s : State) : Answer :=
  runCmd s p 0x0103 { used := [(1, allBits)] } <|
    match targetChan p with
    | none => refuse s St.BAD_ID
    | some c =>
      if stopped s (chanIsland c) then refuse s St.ISLAND_STOPPED
      else if s.chState c ≠ 6 ∨ (128 ≤ c ∧ s.rd HVC.INTLK_STATE = 0) then
        refuse s St.WRONG_STATE
      else
        let s := startBoost s c
        ok (s.setCh c { s.ch c with motion := .starting, target := 1 })

/-- CLEAR_COUNTS (R342). -/
def execClearCounts (p : Pkt) (s : State) : Answer :=
  runCmd s p 0x0104 { used := [(1, allBits)] } <|
    match targetInst p 1 with
    | none => refuse s St.BAD_ID
    | some c =>
      if stopped s (chanIsland c) then refuse s St.ISLAND_STOPPED
      else ok (s.put FCH.CLAMP_COUNT c 0)

end Sys2Proof.Machine
end

