-- ==== Sys2Proof/Machine/Measure.lean ====
section
/-!
DEFINITION. The measurement path (R85 to R125): sample instants, records and their flags, averaging, auto-zero, test DAC,
and the writes that govern sampling.
-/
namespace Sys2Proof.Machine

/-- The timebase coasts, or relocks after a coast (R266). -/
def coasting (s : State) : Bool := s.rd TB.STATE == 3 || s.rd TB.RECOVERY == 1

/-- Whether a coefficient set is ramping (R442): some term differs from its present value. -/
def setRamps (s : State) (g o k gp op kp : Prm) (inst i : Nat) : Bool :=
  s.rd g inst i != s.rd gp inst i || s.rd o inst i != s.rd op inst i || s.rd k inst i != s.rd kp inst i

/-- CAL_SLEW for the sets of a record's range codes and of the forced range (R104, R442). -/
def calSlew (s : State) (c vr ir : Nat) : Bool :=
  let a := (s.ch c).act
  if c < 128 then
    setRamps s MSR.MV_G MSR.MV_O MSR.MV_K MSR.MV_GP MSR.MV_OP MSR.MV_KP c vr ||
    setRamps s MSR.MI_G MSR.MI_O MSR.MI_K MSR.MI_GP MSR.MI_OP MSR.MI_KP c ir ||
    (1 ≤ ir && setRamps s MSR.PAIR_G MSR.PAIR_O MSR.PAIR_K MSR.PAIR_GP MSR.PAIR_OP MSR.PAIR_KP c (ir - 1)) ||
    (if a.mode = 3 then setRamps s FCH.FI_G FCH.FI_O FCH.FI_K FCH.FI_GP FCH.FI_OP FCH.FI_KP c a.ir
     else setRamps s FCH.FV_G FCH.FV_O FCH.FV_K FCH.FV_GP FCH.FV_OP FCH.FV_KP c a.vr)
  else
    setRamps s MSR.MV_HV_G MSR.MV_HV_O MSR.MV_HV_K MSR.MV_HV_GP MSR.MV_HV_OP MSR.MV_HV_KP c 0 ||
    setRamps s MSR.MI_HV_G MSR.MI_HV_O MSR.MI_HV_K MSR.MI_HV_GP MSR.MI_HV_OP MSR.MI_HV_KP c ir ||
    (if a.mode = 3 then setRamps s HVC.FI_G HVC.FI_O HVC.FI_K HVC.FI_GP HVC.FI_OP HVC.FI_KP (ci c) a.ir
     else setRamps s HVC.FV_G HVC.FV_O HVC.FV_K HVC.FV_GP HVC.FV_OP HVC.FV_KP (ci c) 0)

/-- Flag bits that a sample takes from its instant (R104, R107), at a time in 2^-16 ns. On an HV channel the cycles of an up change count
as settling (R172), and no window counts during a ramp but those of range changes (R168). -/
def instantFlags (s : State) (c t : Nat) : Nat :=
  let f := s.ch c
  let st := s.chState c
  let within := fun (e : Nat) => decide (t < s.sysFine (e * 65536))
  let quiet := f.ramp.isNone && f.rampN.isNone
  b2n (within f.settleEnd || ((within f.flagEnd || within (s.group (groupOf c)).tdacTill) && quiet) ||
    (128 ≤ c && within f.pairEnd)) * 2 +
  b2n (st == 4 || st == 5) * 4 + b2n (coasting s) * 8 + b2n (onGuard s) * 16 + b2n f.injectedNow * 128

/-- SEQ of a channel advances (R101). -/
def nextSeq (s : State) (c : Nat) : State := s.tally MSR.SEQ c

/-- A record is lost at the crossing, by CONV_FAULT or by an injected cause: counted and reported in its stream's next
block (R20, R385, R539). -/
def loseRecord (s : State) (c seq time : Nat) : State :=
  loseAhead (s.bump MSR.REC_LOST c) (groupOf c) (some (c, seq)) time

/-- A record leaves a channel (R20, R99, R446): it waits ahead of the crossing, or is lost where 2,048 wait. -/
def emitRecord (s : State) (c : Nat) (q : Quad) (time : Nat) : State :=
  if calTarget s c then s
  else if (s.avg c).loseNext then loseRecord (s.setAvg c { s.avg c with loseNext := false }) c q.w2 time
  else
    let s := s.put MSR.LAST_REC c (q.w0 + 2 ^ 32 * q.w1 + 2 ^ 64 * q.w2 + 2 ^ 96 * q.w3 : Nat)
    let g := s.group (groupOf c)
    if g.fifo.length < 2048 then s.setGroup (groupOf c) { g with fifo := g.fifo ++ [⟨q, time⟩] }
    else record (loseRecord s c q.w2 time) 2 c 0x02

/-- A record of R99, TIME_OFS left to its block. -/
def sampleWords (c seq vr ir flags : Nat) (v i : Int) : Quad :=
  { w0 := toField 24 i * 256 + ir * 16 + vr, w1 := toField 24 v * 256 + flags, w2 := seq, w3 := c * 2 ^ 24 }

/-- The flags of an auto-zero record of the present loop cycle (R104, R105). -/
def azFlags (s : State) : Nat := b2n (coasting s) * 8 + b2n (onGuard s) * 16 + 128

/-- An auto-zero record (R105, R116); its I_RANGE is 0 (log 215). -/
def azRecord (flags : Nat) (s : State) (c time : Nat) : State :=
  let q := sampleWords c (s.rdN MSR.SEQ c) 15 0 flags 0 0
  emitRecord (nextSeq s c) c q time

/-- The span of a reading: ±1.25 × full scale (R105). -/
def span : Int := 5242880

/-- A reading as a record states it: beyond its span it reads the span (R105). -/
def limited (v : Int) : Int := clampInt (-span) span v

/-- The test DAC's code where it feeds a channel, and whether it feeds I (R119, R120). -/
def tdacOf (s : State) (c : Nat) : Option (Int × Bool) :=
  let h := groupHome (groupOf c)
  if bit (s.effN MSR.TDAC_MASK h) (c - h) then some (s.eff MSR.TDAC_CODE h, s.eff MSR.TDAC_QTY h == 1) else none

/-- What one channel's converters take from a sample instant at a time in 2^-16 ns (R101, R104, R107). -/
def shotOf (s : State) (c t : Nat) : Shot :=
  let f := s.ch c
  let vr := if c < 128 then f.act.vr else 4
  { ch := c, seq := s.rdN MSR.SEQ c, vr := vr, ir := f.act.ir, flags := instantFlags s c t
    swap := c < 128 && t < s.sysFine (f.pairEnd * 65536)
    slew := calSlew s c vr f.act.ir, slewUp := calSlew s c vr (f.act.ir + 1)
    avgN := s.rdN MSR.AVG_N c, avgS := s.rdN MSR.AVG_S c, discard := s.rd MSR.AVG_DISCARD c == 1, dac := tdacOf s c }

/-- The input of a channel's V or I set at one instant (R115, R119, R438): ten times the code, or the test DAC's, less the offset. -/
def rawInput (s : State) (sh : Shot) (m : MeasureCode) (amps : Bool) : Int :=
  let x := match sh.dac with
    | some d => if d.2 == amps then d.1 * 2560 else 10 * (if amps then m.i else m.v)
    | none => 10 * (if amps then m.i else m.v)
  x - s.rd (if amps then MSR.AZ_OFS_I else MSR.AZ_OFS_V) sh.ch

/-- What a channel's converters make of one instant (R59, R60, R64, R87, R105, R115, R119): V, I, I range, and the flag
bits PAIR and OVER; whether I is an over-range substitution (R111), which a test DAC on I rules out. -/
def reading (s : State) (sh : Shot) (m : MeasureCode) : Int × Int × Nat × Nat × Bool :=
  let c := sh.ch
  let feeds := fun (amps : Bool) => match sh.dac with
    | some d => d.2 == amps
    | none => false
  let d := (sh.dac.map Prod.fst).getD 0
  let xv := rawInput s sh m false
  let xi := rawInput s sh m true
  let v := if c < 128 then s.coef MSR.MV_GP MSR.MV_OP MSR.MV_KP c sh.vr 22 xv
    else s.coef MSR.MV_HV_GP MSR.MV_HV_OP MSR.MV_HV_KP c 0 22 xv
  let i := if c < 128 then s.coef MSR.MI_GP MSR.MI_OP MSR.MI_KP c sh.ir 22 xi
    else s.coef MSR.MI_HV_GP MSR.MI_HV_OP MSR.MI_HV_KP c sh.ir 22 xi
  let pair := fun (k : Nat) =>
    let x := if feeds true then d * 2560 else 160 * m.pair
    s.coef MSR.PAIR_GP MSR.PAIR_OP MSR.PAIR_KP c (k - 1) 22 (x - (s.avg c).azPair)
  let overV := b2n (span < iabs v) * 64
  if sh.swap ∧ 1 ≤ sh.ir then
    let p := pair sh.ir
    (limited v, limited p, sh.ir, 1 + (if span < iabs p then 64 else overV), false)
  else if span < iabs i ∧ c < 128 ∧ sh.ir < 9 ∧ !feeds true then
    let p := pair (sh.ir + 1)
    (limited v, limited p, sh.ir + 1, 1 + (if span < iabs p then 64 else overV), true)
  else (limited v, limited i, sh.ir, (if span < iabs i then 64 else overV), false)

/-- A value shifted as R108 shifts a sum. -/
def shiftSum (sum : Int) (sh : Nat) : Int := if sh = 0 then sum else (sum + 2 ^ (sh - 1)) / 2 ^ sh

/-- A quotient by 10, halves upward (R111). -/
def tenth (v : Int) : Int := (v + 5) / 10

/-- The averaging limits (R108). -/
def avgLimit (v : Int) : Int := clampInt (-8388608) 8388607 v

/-- The limit of R108 nearer to a value, for an injected AVG_SAT (R539). -/
def satToward (v : Int) : Int := if v < 0 then -8388608 else 8388607

/-- An injected AVG_SAT saturates a channel's next record (R539); a value that is saturated in fact keeps its own (R121). -/
def saturated (s : State) (c : Nat) (v i : Int) (flags : Nat) : State × Int × Int × Nat :=
  let a := s.avg c
  if a.saturateNext then
    let s := s.setAvg c { a with saturateNext := false }
    if bit flags 6 then (s, v, i, flags.lor 128) else (s, satToward v, satToward i, (flags.lor 64).lor 128)
  else (s, v, i, flags)

/-- One averaged record from its contributors and the shift of their sum (R108, R110, R111). -/
def averaged (s : State) (c seq vr ir n : Nat) (items : List Contrib) (time : Nat) : State :=
  let sub := items.any Contrib.sub
  let sumV := (items.map Contrib.v).foldl (· + ·) 0
  let sumI := (items.map fun x => if sub && !x.sub then tenth x.i else x.i).foldl (· + ·) 0
  let v := shiftSum sumV n
  let i := shiftSum sumI n
  let flags := items.foldl (fun f x => f.lor x.flags) 0
  let clips := v ≠ avgLimit v ∨ i ≠ avgLimit i
  let flags := if clips then flags.lor 64 else flags
  let r := saturated s c (avgLimit v) (avgLimit i) flags
  let s := if clips then record r.1 2 c 0x05 else r.1
  emitRecord s c (sampleWords c seq vr (if sub then ir + 1 else ir) r.2.2.2 r.2.1 r.2.2.1) time

/-- Which input of an instant a set of system calibration takes (R449): I or not, where its channel is on the set's range. -/
def sysTakes (set : Nat) (sh : Shot) : Option Bool :=
  let n := set % 0x1000
  if set / 0x1000 ≠ 0x2000 + sh.ch then none
  else if n < 0x510 then (if n = 0x500 + 4 * sh.vr then some false else none)
  else if n < 0x520 then some false
  else if n = 0x520 + 4 * sh.ir then some true
  else none

/-- System calibration takes its inputs (R449): the next N whose records carry none of PAIR, SETTLING and OVER. -/
def gatherSys (s : State) (sh : Shot) (m : MeasureCode) (flags : Nat) : State :=
  match s.cal.sys with
  | none => s
  | some o =>
    match sysTakes o.set sh with
    | some amps =>
      if o.n ≤ o.count ∨ flags % 4 ≠ 0 ∨ bit flags 6 then s
      else { s with cal := { s.cal with sys := some { o with sum := o.sum + rawInput s sh m amps, count := o.count + 1 } } }
    | none => s

/-- The conversion of one channel (R98, R108 to R112): its record goes out, is averaged, or is dropped. A channel without a result waits
for CONV_FAULT (R122). -/
def convertChan (codes : List MeasureCode) (time : Nat) (s : State) (sh : Shot) : State :=
  match codes.find? fun m => m.ch == sh.ch with
  | none =>
    let r := s.group (groupOf sh.ch)
    s.setGroup (groupOf sh.ch) { r with missing := r.missing ++ [(sh, r.instant.getD 0)] }
  | some m =>
    let c := sh.ch
    let r := reading s sh m
    let flags := (sh.flags.lor r.2.2.2.1).lor (b2n (if r.2.2.2.2 then sh.slewUp else sh.slew) * 32)
    let s := gatherSys s sh m flags
    if sh.discard ∧ bit flags 1 then s
    else if sh.avgN = 1 then
      let z := saturated s c r.1 r.2.1 flags
      emitRecord z.1 c (sampleWords c sh.seq sh.vr r.2.2.1 z.2.2.2 z.2.1 z.2.2.1) time
    else
      let a := s.avg c
      let old := sh.before.getD a.items
      let items := (if a.vr = sh.vr ∧ a.ir = sh.ir then old else []) ++ [⟨r.1, r.2.1, r.2.2.2.2, flags⟩]
      let s := if sh.before.isSome then s
        else s.setAvg c { a with items := if sh.avgN ≤ items.length then [] else items, vr := sh.vr, ir := sh.ir }
      if sh.avgN ≤ items.length then averaged s c sh.seq sh.vr sh.ir sh.avgS items time else s

/-- How long a group is busy after an instant, in 2^-16 ns (R92, R93). -/
def busyFor (g : Nat) : Nat := (if g < 16 then 500 else 2000) * 65536

/-- Whether a SYSTIME in ns is a scheduled instant of a group (R90, R143). -/
def scheduledAt (s : State) (g t : Nat) : Bool :=
  let r := s.group g
  if r.src = 1 then decide (t % 125 = 0) && decide (((t / 125 : Nat) - (r.phase : Int)) % (r.period : Int) = 0)
  else if r.src = 3 then nextInPoint s g == some t
  else false

/-- The next scheduled instant of a group after a SYSTIME in ns; none where it has none. -/
def nextScheduled (s : State) (g t : Nat) : Option Nat :=
  let r := s.group g
  if r.src = 1 then
    let n : Int := (t / 125 : Nat)
    some (125 * (n + 1 + (((r.phase : Int) - n - 1) % (r.period : Int))).toNat)
  else if r.src = 3 then (nextSweepInstant s g).filter fun x => t < x
  else none

/-- A sweep engine counts a sample instant of its point and publishes by PUB_WHEN (R134, R143, R146). -/
def sweepInstant (s : State) (g : Nat) : State :=
  let e := s.engine g
  if (s.group g).src = 3 ∧ s.runSlot g < 4 ∧ (e.released ∨ e.pt = .applied ∨ e.pt = .pulse) then
    let h := s.slotRd SWE.REGION g (s.runSlot g)
    let q := entryAt s h e.entry
    let when_ := fld q.w1 0 2
    let i := nextIndex s g q (entryAt s h (e.entry + 1)) e.ta
    let first := e.released || i == 0
    let s := s.setEngine g { e with taken := if e.released then e.taken else i + 1, released := false }
    if bit q.w1 2 && (when_ == 3 || (when_ == 1 && first)) then s.publish (fld q.w3 20 6) else s
  else s

/-- Where a group rests between conversions (R95, R96, R98). -/
def restState (s : State) (g : Nat) : Samp :=
  let r := s.group g
  if r.az.isSome then .autoZero
  else if r.src = 0 then .idle
  else if r.pmode = 0 then .ready
  else if r.src = 2 || r.byTrig then .asleep
  else match nextScheduled s g s.now with
    | some t => if t ≤ s.now + 4000 then .ready else .asleep
    | none => .asleep

/-- A group comes to rest (R98). -/
def restGroup (s : State) (g : Nat) : State := s.setGroup g { s.group g with samp := restState s g }

/-- The record of an auto-zero in which no instant fell (R102, R116): it carries the start, and is known to be due at the end (log 216). -/
def azAlone (s : State) (g : Nat) (a : AzRun) : State :=
  let s := if a.seen then s else a.chans.foldl (fun s c => azRecord a.flags s c (sysNs s a.start)) s
  s.setGroup g { s.group g with az := some { a with seen := true } }

/-- An auto-zero is over: a group that wakes or converts goes on. -/
def azEnd (s : State) (g : Nat) : State :=
  let s := s.setGroup g { s.group g with az := none }
  if (s.group g).samp = .autoZero then restGroup (s.setGroup g { s.group g with byTrig := false }) g else s

/-- An abandoned auto-zero ends where its inputs are reconnected by a clock time in 2^-16 ns; without an instant it leaves its one record
(R116). -/
def azReconnects (s : State) (g t : Nat) : State :=
  match (s.group g).az with
  | some a =>
    match a.till with
    | some e => if e ≤ t then azEnd (azAlone s g a) g else s
    | none => s
  | none => s

/-- A sample instant of a group, at a SYSTIME in 2^-16 ns (R98, R101, R116): every channel's slot is numbered; a channel in
auto-zero gives its auto-zero record, the others convert. -/
def takeInstant (s : State) (g t : Nat) : State :=
  let s := azReconnects s g (s.clockOf t)
  let az := match (s.group g).az with
    | some a => if s.clockOf t < (a.start + 8000) * 65536 then a.chans else []
    | none => []
  let s := az.foldl (fun s c => azRecord (azFlags s) s c (t / 65536)) s
  let cs := (groupChans g).filter fun c => !az.contains c
  let shots := cs.map fun c => shotOf s c t
  let s := cs.foldl nextSeq s
  let r := s.group g
  let s := s.setGroup g { r with
    instant := some (s.clockOf t), stamp := t / 65536, shots := shots
    busyTill := if cs.isEmpty then r.busyTill else s.clockOf t + busyFor g
    samp := if cs.isEmpty then .autoZero else .converting
    az := r.az.map fun a => { a with seen := a.seen || !az.isEmpty } }
  sweepInstant s g

/-- A trigger reaches a busy group and is discarded (R92, R121). -/
def overrun (s : State) (g : Nat) : State :=
  let s := consOverrun s (0x50 + g)
  let s := s.bump MSR.TRIG_OVERRUN (groupHome g)
  (groupChans g).foldl (fun s c => record s 2 c 0x01) s

/-- The island of a group. -/
def groupIsland (g : Nat) : Island := if g < 16 then .pg g else .hv

/-- Whether the converters of a sleeping group could not be woken 2 µs ahead of an instant of the sweep engine: the group was busy, or the
point was not in hand, within that time (log 170). -/
def wokenLate (s : State) (g : Nat) : Bool :=
  let e := s.engine g
  (s.group g).src == 3 && (s.clockFine < (s.group g).busyTill + 2000 * 65536 || s.clock < e.t + 125 * e.waited + 2000)

/-- A scheduled instant of a group falls at this boundary (R90, R92, R98): a group that is powered, or auto-zeroing, takes it; a busy one
loses it. -/
def timerInstant (s : State) (g : Nat) : State :=
  let r := s.group g
  let t := s.clock * 65536
  if !scheduledAt s g s.now ∨ stopped s (groupIsland g) ∨ r.samp = .idle ∨ (r.instant = some t ∧ r.samp ≠ .waking) then s
  else if r.samp = .waking ∧ r.instant = some t ∧ !r.byTrig then takeInstant s g (s.now * 65536)
  else if t < r.busyTill then
    let s := overrun s g
    let e := s.engine g
    let h := s.slotRd SWE.REGION g (s.runSlot g)
    if r.src = 3 then
      s.setEngine g { e with taken := nextIndex s g (entryAt s h e.entry) (entryAt s h (e.entry + 1)) e.ta + 1 }
    else s
  else if r.samp = .ready ∨ r.samp = .autoZero ∨ (r.samp = .asleep ∧ wokenLate s g) then
    takeInstant (s.setGroup g { r with byTrig := false }) g (s.now * 65536)
  else s

/-- SAMPLE_TIMER_INSTANT (R90, R92, R98). -/
def execSampleTimerInstant (group : Nat) (s : State) : Answer := done (timerInstant s group)

/-- The auto-zero that covers every channel of a group and has not been abandoned (R116, R117). -/
def fullAz (s : State) (g : Nat) : Option AzRun :=
  (s.group g).az.filter fun a => a.till.isNone && (groupChans g).all a.chans.contains

/-- Whether a trigger captured at a clock time in 2^-16 ns finds its group busy (R92, R95, R96). -/
def trigBusy (s : State) (g t : Nat) : Bool :=
  let r := s.group g
  t < r.busyTill || r.samp == .converting || r.samp == .waking

/-- A trigger's instant, at a clock time in 2^-16 ns: it is taken with the state of the loop cycle that contains it (R104, R121), so one of a
later cycle waits. -/
def trigInstant (s : State) (g t : Nat) : State :=
  if t < cycleEnd s then takeInstant s g (s.sysFine t)
  else s.setGroup g { s.group g with trigs := (s.group g).trigs ++ [t] }

/-- At the end of a loop cycle the instants of triggers that fell in it have been taken (R104). -/
def takeTrigs (s : State) (g : Nat) : State :=
  let due := (s.group g).trigs.filter fun t => decide (t < cycleEnd s)
  if due.isEmpty then s
  else due.foldl (fun s t => takeInstant s g (s.sysFine t))
    (s.setGroup g { s.group g with trigs := (s.group g).trigs.filter fun t => !decide (t < cycleEnd s) })

/-- A fabric trigger captured at a clock time in 2^-16 ns acts on its group (R91, R92, R96, R116). One whose instant falls in an auto-zero
of the whole group meets no conversion. An HV group in AUTO_PD stays busy for its 2 µs after the instant, 4 µs after the trigger
(log 217). -/
def fabricTrigger (s : State) (g t : Nat) : State :=
  let r := s.group g
  let at_ := t + if r.pmode = 1 then 2000 * 65536 else Config.trigLatency % 61 * 65536
  let zero := match fullAz s g with
    | some a => decide (at_ < (a.start + 8000) * 65536)
    | none => false
  if r.samp = .idle then s
  else if !zero && trigBusy s g t then overrun s g
  else
    let s := s.setGroup g { r with byTrig := true, busyTill := if zero then r.busyTill else at_ + busyFor g }
    if zero then trigInstant s g at_
    else if r.pmode = 1 then s.setGroup g { s.group g with samp := .waking, instant := some at_ }
    else trigInstant s g at_

/-- SAMPLE_TRIGGER_PULSE (R92): the pulse that the group's sample-trigger input has captured. A group whose source is not
the fabric ignores it (R121). -/
def execSampleTriggerPulse (group : Nat) (s : State) : Answer :=
  let c := s.con (0x50 + group)
  match c.capt with
  | none => .next s
  | some t =>
    let s := s.setCon (0x50 + group) { c with capt := none }
    if (s.group group).src = 2 ∧ !stopped s (groupIsland group) then done (fabricTrigger s group t) else done s

/-- CONV_FAULT (R122): no result within 1 µs of the instant; the slot produces no record and counts in REC_LOST. -/
def execConvFault (ch : Nat) (s : State) : Answer :=
  let g := groupOf ch
  let r := s.group g
  let due := fun (t : Nat) => decide (t + 1000 * 65536 < cycleEnd s)
  match r.missing.find? fun x => x.1.ch == ch && due x.2 with
  | some x =>
    let s := s.setGroup g { r with missing := r.missing.filter fun y => !(y.1.ch == ch && y.1.seq == x.1.seq) }
    done (record (loseRecord s ch x.1.seq (s.sysFine x.2 / 65536)) 2 ch 0x03)
  | none =>
    match r.shots.find? fun x => x.ch == ch && due (r.instant.getD 0) with
    | some x =>
      let s := s.setGroup g { r with shots := r.shots.filter fun y => y.ch != ch }
      done (record (loseRecord s ch x.seq r.stamp) 2 ch 0x03)
    | none => .next s

/-- CONVERTER_WAKE_START (R95): 2.0 µs before a scheduled instant of a group whose converters sleep. -/
def execConverterWakeStart (group : Nat) (s : State) : Answer :=
  let r := s.group group
  if r.samp = .asleep ∧ nextScheduled s group s.now = some (s.now + 2000) ∧ !stopped s (groupIsland group) then
    let t := (s.clock + 2000) * 65536
    done (s.setGroup group { r with samp := .waking, instant := some t, busyTill := t + busyFor group, byTrig := false })
  else .next s

/-- CONVERTER_WAKE_COMPLETE (R98): the instant is taken unless it was a scheduled one that the grid or the program no longer has. -/
def execConverterWakeComplete (group : Nat) (s : State) : Answer :=
  let r := s.group group
  match r.instant with
  | some t =>
    if r.samp = .waking ∧ t < cycleEnd s ∧ !stopped s (groupIsland group) then
      if r.byTrig || scheduledAt s group s.now then done (takeInstant s group (s.sysFine t))
      else done (restGroup (s.setGroup group { r with busyTill := 0, instant := none }) group)
    else .next s
  | none => .next s

/-- Whether a channel falls due for auto-zero (R477): AZ_PERIOD, in units of 10 ms, after its last one or attempt. -/
def azDue (s : State) (c : Nat) : Bool :=
  decide ((s.avg c).azLast + 10000000 * s.effN MSR.AZ_PERIOD (groupHome (groupOf c)) ≤ s.clock) && !calTarget s c

/-- Whether a group stands where an auto-zero of a dwell gap starts (R114): 2 µs after the last instant before the gap, and 18 µs before the
next; where no instant is scheduled, at any time from 2 µs after the last. -/
def inGap (s : State) (g : Nat) : Bool :=
  let from_ := fun (t : Nat) => decide (t + 2000 * 65536 ≤ s.clockFine)
  match nextScheduled s g s.now, (s.group g).instant with
  | some n, some t => decide (s.now + 18000 ≤ n) && from_ t && decide (s.clock * 65536 < t + (2000 + 125) * 65536)
  | some n, none => decide (s.now + 18000 ≤ n)
  | none, some t => from_ t
  | none, none => true

/-- An auto-zero of some channels starts (R115). -/
def startAz (s : State) (g : Nat) (cs : List Nat) : State :=
  let s := cs.foldl (fun s c => s.setAvg c { s.avg c with azLast := s.clock }) s
  s.setGroup g { s.group g with
    samp := .autoZero, az := some { chans := cs, start := s.clock, flags := azFlags s, seen := false } }

/-- AUTO_ZERO_START (R114, R477): a due channel in OFF or STANDBY alone, or the whole group in a dwell gap. -/
def execAutoZeroStart (group : Nat) (ch : Nat) (s : State) : Answer :=
  let r := s.group group
  let still := r.samp ≠ .converting ∧ r.samp ≠ .waking ∧ r.trigs.isEmpty ∧ r.az.isNone ∧ !stopped s (groupIsland group)
  if groupOf ch = group ∧ still ∧ azDue s ch then
    if s.chState ch ≤ 1 then done (startAz s group [ch])
    else if s.eff MSR.AZ_STEAL (groupHome group) = 1 ∧ inGap s group then
      done (startAz s group ((groupChans group).filter fun c => !calTarget s c))
    else .next s
  else .next s

/-- One channel leaves a group's auto-zero; the last one ends it (R98, R116). -/
def azLeave (s : State) (g c : Nat) : State :=
  match (s.group g).az with
  | none => s
  | some a =>
    let s := azAlone s g a
    let cs := a.chans.filter (· != c)
    if cs.isEmpty then azEnd s g
    else s.setGroup g { s.group g with az := some { a with chans := cs, seen := true } }

/-- The offsets an auto-zero found (R115): counted, and taken, or AZ_FAIL beyond ±0.1 % of full scale, which is 4,194
units. -/
def takeOffsets (s : State) (ch : Nat) (v i pair : Int) (ok : Bool) : State :=
  let s := s.bump MSR.AZ_COUNT ch
  if ok ∧ iabs v ≤ 4194 ∧ iabs i ≤ 4194 ∧ iabs pair ≤ 4194 then
    let s := (s.put MSR.AZ_OFS_V ch v).put MSR.AZ_OFS_I ch i
    s.setAvg ch { s.avg ch with azPair := pair }
  else record s 2 ch 0x04

/-- AUTO_ZERO_COMPLETE (R115). -/
def execAutoZeroComplete (ch : Nat) (v i pair : Int) (ok : Bool) (s : State) : Answer :=
  let g := groupOf ch
  match (s.group g).az with
  | none => .next s
  | some a =>
    if a.chans.contains ch ∧ a.till.isNone ∧ a.start + 8000 ≤ s.clock then done (takeOffsets (azLeave s g ch) ch v i pair ok)
    else .next s

/-- Write TRIG_SRC (R98, R123). -/
def writeTrigSrc (s : State) (g : Nat) (v : Int) : Wr :=
  if v < 0 ∨ 3 < v then .error St.BAD_VALUE
  else if stopped s (groupIsland g) then .error St.ISLAND_STOPPED
  else
    let s := s.put MSR.TRIG_SRC (groupHome g) v
    .ok (s.setGroup g { s.group g with srcPending := true })

/-- TRIG_SRC_WRITE. -/
def execTrigSrcWrite (group : Nat) (value : Int) (s : State) : Answer :=
  if group < 17 then written s (writeTrigSrc s group value) else .next s

/-- Write PWR_MODE (R97). -/
def writePwrMode (s : State) (g : Nat) (v : Int) : Wr :=
  if v < 0 ∨ 1 < v then .error St.BAD_VALUE
  else if stopped s (groupIsland g) then .error St.ISLAND_STOPPED
  else
    let s := s.put MSR.PWR_MODE (groupHome g) v
    .ok (s.setGroup g { s.group g with modePending := true })

/-- PWR_MODE_WRITE. -/
def execPwrModeWrite (group : Nat) (value : Int) (s : State) : Answer :=
  if group < 17 then written s (writePwrMode s group value) else .next s

/-- Write TIMER_PERIOD (R93, R124). -/
def writeTimerPeriod (s : State) (g : Nat) (v : Int) : Wr :=
  if v < (if g < 16 then 4 else 16) ∨ 4294967295 < v then .error St.BAD_VALUE
  else if stopped s (groupIsland g) then .error St.ISLAND_STOPPED
  else
    let s := s.put MSR.TIMER_PERIOD (groupHome g) v
    let s := if v ≤ s.rd MSR.TIMER_PHASE (groupHome g) then s.put MSR.TIMER_PHASE (groupHome g) 0 else s
    .ok (s.setGroup g { s.group g with gridPending := true })

/-- Write TIMER_PHASE (R124): below the period. -/
def writeTimerPhase (s : State) (g : Nat) (v : Int) : Wr :=
  if v < 0 ∨ s.rd MSR.TIMER_PERIOD (groupHome g) ≤ v then .error St.BAD_VALUE
  else if stopped s (groupIsland g) then .error St.ISLAND_STOPPED
  else
    let s := s.put MSR.TIMER_PHASE (groupHome g) v
    .ok (s.setGroup g { s.group g with gridPending := true })

/-- TIMER_PERIOD_WRITE: of the period, or of the phase. -/
def execTimerPeriodWrite (group : Nat) (phase : Bool) (value : Int) (s : State) : Answer :=
  if 17 ≤ group then .next s
  else written s (if phase then writeTimerPhase s group value else writeTimerPeriod s group value)

/-- The test DAC of a group changes at the next boundary, and samples are marked for 2 µs from there (R107, R120, R125). -/
def tdacChanged (s : State) (g : Nat) : State := s.setGroup g { s.group g with tdacPending := true }

/-- Write TDAC_MASK (R120): only onto channels in OFF or STANDBY. -/
def writeTdacMask (s : State) (g : Nat) (v : Int) : Wr :=
  if v < 0 ∨ (if g < 16 then 255 else 15) < v then .error St.BAD_VALUE
  else if stopped s (groupIsland g) then .error St.ISLAND_STOPPED
  else if (groupChans g).any fun c => bit v.toNat (c - groupHome g) && decide (1 < s.chState c) then
    .error St.WRONG_STATE
  else .ok (tdacChanged (s.wrNext MSR.TDAC_MASK (groupHome g) 0 v) g)

/-- TDAC_MASK_WRITE. -/
def execTdacMaskWrite (group : Nat) (value : Int) (s : State) : Answer :=
  if group < 17 then written s (writeTdacMask s group value) else .next s

/-- The records that wait ahead of a group's crossing reach its stream (R97). -/
def crossAll (s : State) (g : Nat) : State :=
  let l := (s.group g).fifo
  match carrier s g with
  | some n => l.foldl (fun s h => place s n h) (s.setGroup g { s.group g with fifo := [] })
  | none => s

/-- A group's island stops (R98): IDLE, whatever ran, until TRIG_SRC is written. -/
def stopGroup (s : State) (g : Nat) : State :=
  s.setGroup g { s.group g with
    samp := .idle, src := 0, srcPending := false, instant := none, busyTill := 0, shots := [], missing := [], az := none, trigs := [] }

/-- A written TRIG_SRC takes effect (R98, R109, R121): the averagers restart on a change; a source of none waits for a conversion in
progress and ends all else. -/
def takeSrc (s : State) (g : Nat) : State :=
  let r := s.group g
  let v := s.rdN MSR.TRIG_SRC (groupHome g)
  if !r.srcPending ∨ (v = 0 ∧ (r.samp = .converting ∨ !r.trigs.isEmpty)) then s
  else
    let s := if r.src = v then s else (groupChans g).foldl restartAvg s
    let s := s.setGroup g { s.group g with src := v, srcPending := false }
    if v = 0 then
      let s := (s.setGroup g { s.group g with samp := .idle, instant := none, busyTill := 0 })
      match r.az with
      | some a => azEnd (azAlone s g a) g
      | none => s
    else if r.samp = .converting ∨ r.samp = .waking then s
    else restGroup s g

/-- A written PWR_MODE takes effect where no conversion or wake is in progress (R97): streams close their blocks with the records of the old
mode. -/
def takeMode (s : State) (g : Nat) : State :=
  let r := s.group g
  if !r.modePending ∨ r.samp = .converting ∨ r.samp = .waking then s
  else
    let s := closeForGroup (crossAll s g) g
    let s := s.setGroup g { s.group g with pmode := s.rdN MSR.PWR_MODE (groupHome g), modePending := false }
    if r.samp = .idle then s else restGroup s g

/-- A loop-cycle boundary of a group's measurement path (R95, R97, R98, R107, R118, R124): what was written takes effect, and a group at rest
is powered or not as the new grid asks. -/
def groupBoundary (s : State) (g : Nat) : State :=
  if stopped s (groupIsland g) then stopGroup s g
  else
    let s := azReconnects s g s.clockFine
    let r := s.group g
    let s := s.setGroup g { r with
      period := if r.gridPending then s.rdN MSR.TIMER_PERIOD (groupHome g) else r.period
      phase := if r.gridPending then s.rdN MSR.TIMER_PHASE (groupHome g) else r.phase
      gridPending := false
      tdacTill := if r.tdacPending then s.clock + 2000 else r.tdacTill
      tdacPending := false }
    let s := if r.gridPending ∧ (r.samp = .ready ∨ r.samp = .asleep) then restGroup s g else s
    takeMode (takeSrc s g) g

/-- CONVERSION_COMPLETE (R98): every slot's record is built, in ascending channel order (R380). A conversion that ends at a boundary is not
in progress at it, so what waits for that takes effect there (R97). -/
def execConversionComplete (group : Nat) (codes : List MeasureCode) (s : State) : Answer :=
  let r := s.group group
  if r.samp = .converting ∧ (r.instant.getD 0) + busyFor group < cycleEnd s ∧ !stopped s (groupIsland group) then
    let past := decide ((r.instant.getD 0) + busyFor group ≤ s.clock * 65536)
    let s := r.shots.foldl (convertChan codes r.stamp) s
    let s := restGroup (s.setGroup group { s.group group with shots := [] }) group
    done (if past then takeMode (takeSrc s group) group else s)
  else .next s

end Sys2Proof.Machine
end

