-- ==== Sys2Proof/Machine/SweepRows.lean ====
section
/-!
DEFINITION. The rows of the sweep engines (R126 to R161): uploads, slots, admission, events, points, pulses, pre-emption
and the scrub of sweep memory.
-/
namespace Sys2Proof.Machine

/-- The engine a command names in word 1. -/
def targetEngine (p : Pkt) : Option Nat := targetInst p 3

/-- The island of a sweep engine. -/
def engineIsland (e : Nat) : Island := if e < 16 then .pg e else .hv

/-- The upload that writes a region. -/
def uploaderOf (s : State) (h : Nat) : Option Upload := s.uploads.find? fun u => u.handle == h

/-- The result words of SWE_UPLOAD (R159). -/
def uploadResult (s : State) (h third : Nat) : List Nat :=
  [h, ((s.region h).map Region.base).getD 0, third, s.rdN SWE.MEM_LARGEST]

/-- The transfer of an upload begins (R127, R396). -/
def startUpload (s : State) (p : Pkt) (h n : Nat) : Res :=
  .later (startXfer { s with uploads := s.uploads ++ [⟨p.src, pTag p, h⟩] }
    { who := .cmd p.src (pTag p), ctx := pktCtx p, prio := pPrio p, addr := pw64 p 2, left := 16 * n, write := false })

/-- SWE_UPLOAD (R126, R127, R129, R159): a region is allocated, or rewritten, and its transfer begins. -/
def execSweUpload (p : Pkt) (s : State) : Answer :=
  runCmd s p 0x0301
    { host := true, used := [(2, allBits), (3, allBits), (4, allBits), (5, 3), (6, if bit (pw p 5) 1 then allBits else 0)] } <|
    let n := pw p 4
    let hv := bit (pw p 5) 0
    if n = 0 ∨ 1048576 < n ∨ pw p 2 % 16 ≠ 0 then refuse s St.BAD_VALUE
    else if bit (pw p 5) 1 then
      let h := pw p 6
      match s.region h with
      | none => refuse s St.BAD_ID
      | some r =>
        if r.hv ≠ hv ∨ r.count ≠ n then refuse s St.BAD_VALUE
        else if regionUsed s h ∨ r.state = 0 then refuse s St.WRONG_STATE
        else
          let s := s.setRegion h (some { r with state := 0 })
          startUpload s p h n
    else
      let rs := runs s
      match lowestRun (roomFor n) 0 rs with
      | none => refuse s St.TABLE_FULL
      | some base =>
        if 4096 ≤ rs.length then refuse s St.TABLE_FULL
        else
          let h := lowestHandle s
          let s := reportMem (s.setRegion h (some ⟨base, n, hv, 0⟩))
          startUpload s p h n

/-- Entries from the words of a transfer. -/
def quadsOf : List Nat → List Quad
  | a :: b :: c :: d :: r => ⟨a, b, c, d⟩ :: quadsOf r
  | _ => []

/-- Accepted entries enter sweep memory and are free of earlier errors there. -/
def storeEntries (s : State) (base : Nat) (qs : List Quad) : State :=
  let bad := s.sweBad.filter fun i => !(decide (base ≤ i) && decide (i < base + qs.length))
  { s with sweMem := Bank.setAll (fun _ => Quad.zero) s.sweMem base qs, sweBad := bad }

/-- An upload is no longer in progress, nor is its transfer. -/
def endUpload (s : State) (u : Upload) : State :=
  { s with
    uploads := s.uploads.filter (· != u)
    xlt := { s.xlt with xfers := s.xlt.xfers.filter fun x => x.who != .cmd u.src u.tag } }

/-- The transfer of an upload. -/
def uploadXfer (s : State) (u : Upload) : Option Xfer := s.xlt.xfers.find? fun x => x.who == .cmd u.src u.tag

/-- Whether an upload's transfer is over (R396): every unit issued, or a fault. -/
def uploadRead (s : State) (u : Upload) : Bool := (uploadXfer s u).all fun x => x.left == 0 || x.fault.isSome

/-- The fault that an upload's transfer met, and the state that shows it (R354, R400): one of its translation is in its context already; one
that a completion of the read reports sets the context's cause, but over the mesh, where the issuing node reports it (R424). -/
def uploadFault (s : State) (u : Upload) (got : Option HostFault) : Option HostFault × State :=
  match uploadXfer s u, got with
  | some x, got =>
    match x.fault, got, u.src with
    | some f, _, _ => (some f, s)
    | none, some f, .sq _ => (some (readStatus f), hostFaulted s x.ctx x.addr (readStatus f))
    | none, some f, _ => (some (readStatus f), s)
    | none, none, _ => (none, s)
  | none, got => (got.map readStatus, s)

/-- An upload ends short (R128): the region INVALID, the cause in SE_00, and the completion. -/
def uploadFails (s : State) (u : Upload) (code status idx : Nat) : State :=
  let s := endUpload s u
  let s := match s.region u.handle with
    | some r => s.setRegion u.handle (some { r with state := 2 })
    | none => s
  (record s 3 0 code).complete u.src u.tag status (uploadResult s u.handle idx)

/-- SWE_UPLOAD_DONE (R128): the entries that arrived are checked in order and the accepted ones written. -/
def execSweUploadDone (src : Src) (tag : Nat) (got : List Nat) (fault : Option HostFault) (s : State) : Answer :=
  match s.uploads.find? fun u => u.src == src && u.tag == tag with
  | none => .next s
  | some u =>
    if fault.isNone ∧ !uploadRead s u then .next s
    else match s.region u.handle with
      | none => .next s
      | some r =>
        let met := uploadFault s u fault
        let s := met.2
        let qs := (quadsOf got).take r.count
        let bad := firstBad r.hv met.1.isSome (qs ++ List.replicate (r.count - qs.length) ⟨0x703, 0, 0, 0⟩) 0 qs
        match bad, met.1 with
        | some i, _ => done (uploadFails (storeEntries s r.base (qs.take i)) u 0x01 St.BAD_ENTRY i)
        | none, some f => done (uploadFails (storeEntries s r.base qs) u 0x02 (hostStatus f) qs.length)
        | none, none =>
          if qs.length = r.count then
            let s := endUpload (s.setRegion u.handle (some { r with state := 1 })) u
            let s := storeEntries s r.base qs
            done (s.complete src tag St.SUCCESS (uploadResult s u.handle (s.rdN SWE.MEM_FREE)))
          else .next s

/-- SWE_FREE (R130): a LOADING region ends the command that writes it. -/
def execSweFree (p : Pkt) (s : State) : Answer :=
  runCmd s p 0x0302 { used := [(2, allBits)] } <|
    let h := pw p 2
    match s.region h with
    | none => refuse s St.BAD_ID
    | some _ =>
      if regionUsed s h then refuse s St.WRONG_STATE
      else
        let s := match uploaderOf s h with
          | some u => uploadFails s u 0x02 St.ABORTED 0
          | none => s
        ok (reportMem (s.setRegion h none))

/-- The slot a program is placed into (R150). -/
def freeSlotOf (s : State) (e : Nat) : Option Nat :=
  let pick := fun (f : Nat → Bool) => (List.range 4).find? fun k => f (s.slotState e k)
  (pick (· == 0)).or (pick fun st => st == 8 || st == 9)

/-- SWE_LOAD (R150, R151, R159, R161). -/
def execSweLoad (p : Pkt) (s : State) : Answer :=
  runCmd s p 0x0303 { used := [(1, allBits), (2, allBits), (3, allBits), (4, 0x3FF), (5, 7)] } <|
    match targetEngine p with
    | none => refuse s St.BAD_ID
    | some e =>
      let h := pw p 2
      match s.region h with
      | none => refuse s St.BAD_ID
      | some r =>
        if r.count ≤ pw p 3 ∨ fld (pw p 4) 8 2 = 3 ∨ (e = 16 ∧ 16 ≤ fld (pw p 4) 0 8) then refuse s St.BAD_VALUE
        else if stopped s (engineIsland e) then refuse s St.ISLAND_STOPPED
        else match freeSlotOf s e with
          | none => refuse s St.CONTEXT_FULL
          | some k =>
            if r.state ≠ 1 ∨ r.hv ≠ decide (e = 16) then refuse (record s 3 e 0x0A) St.WRONG_STATE
            else
              let s := [(SWE.REGION, h), (SWE.ENTRY, pw p 3), (SWE.PRIORITY, fld (pw p 5) 0 2),
                (SWE.PREEMPT_CUT, fld (pw p 5) 2 1), (SWE.CHAN_SET, fld (pw p 4) 0 8),
                (SWE.END_ACTION, fld (pw p 4) 8 2), (SWE.START_AT, 0), (SWE.PC, pw p 3), (SWE.CUT_INDEX, 0),
                (SWE.CUT_OFS, 0), (SWE.LOOP_CTR0, 0), (SWE.LOOP_CTR1, 0), (SWE.LOOP_CTR2, 0), (SWE.LOOP_CTR3, 0),
                (SWE.SLOT_STATE, 1)].foldl (fun s x => s.wr x.1 e k (x.2 : Nat)) s
              ok (s.setSlot e k {}) [k]

/-- Entries a program can reach from its start (R149), in the order found: past a CONTROL entry but END both by entry order and at its TARGET,
whatever its operation (log 218). -/
def reach (s : State) (h count : Nat) : Nat → List Nat → List Nat → List Nat
  | 0, _, seen => seen
  | _, [], seen => seen
  | n + 1, i :: todo, seen =>
    if seen.contains i ∨ count ≤ i then reach s h count n todo seen
    else
      let q := entryAt s h i
      let next := match eKind q with
        | 3 => if fld q.w0 8 4 = 7 then [] else [i + 1, fld q.w0 12 20]
        | 1 => [i + 2]
        | _ => [i + 1]
      reach s h count n (next ++ todo) (seen ++ [i])

/-- The larger rail magnitude, in µV, that a point puts on its group with the magnitude of its own demand, in µV × 2^22 (R77, R143): channels
outside the point keep what they ask. -/
def pointRail (s : State) (e k : Nat) (q : Quad) (more : Int) : Int :=
  let cs := (groupChans e).filter fun c => !(pointChans s e k q).contains c
  let m := cs.foldl (fun m c => max m (askAt s c (max (iabs (s.setpoint c)) (ceilingOf s c)))) more
  (railsFor (s.rd FCH.RAIL_FLOOR (groupHome e)) m 0).1

/-- The delivered and stage estimates of a channel at one force and limit of a point (R79, R149), in 10^-18 W × 2^36, with the rail of the
point and the range that caps the limit (R69). -/
def forceEstimate (s : State) (c mode fr lr ref : Nat) (force : Int) (limit : Nat) (rail : Int) : Int × Int :=
  if mode = 0 then
    let cur := min (limit * ifs lr) (16384 * ifs ref)
    let v := iabs force * vfs fr
    (v * cur, max 0 (rail * 4194304 - v) * cur)
  else if mode = 1 then
    let i := iabs force * ifs fr
    (i * (limit * vfs lr), max 0 (rail * 16384 - iabs (s.ch c).v * vfs (s.ch c).act.vr / 256) * i)
  else (0, 0)

/-- Estimates of one point for one channel: delivered, stage, and peak (R149). The rail is that of the point, which covers its base and its
pulse; in a pulse above 100 mA RP_EN counts as 0 (R147). -/
def pointEstimate (s : State) (e k h c i : Nat) : Int × Int × Int :=
  let q := entryAt s h i
  if eKind q = 0 ∨ eKind q = 1 then
    let x := entryAt s h (i + 1)
    let d := pointDemand s e k q x
    let rail := pointRail s e k q (max d.1 (-d.2))
    let big := eKind q == 1 && bigPulse q x
    let ref := if s.rd FCH.RP_EN c = 1 ∧ !big then s.rdN FCH.RP_MAX c else eLrange q
    let b := forceEstimate s c (eMode q) (eRange q) (eLrange q) ref (eForce q) (eLimit q) rail
    if eKind q = 1 then
      let u := forceEstimate s c (eMode q) (eRange x) (eLrange q) (if big then 9 else ref) (eForce x) (eLimit x) rail
      let mix := fun (a p : Int) => ((eDwell q - ePwidth x : Nat) * a + ePwidth x * p + (eDwell q - 1)) / eDwell q
      (mix b.1 u.1, mix b.2 u.2, max b.1 u.1)
    else (b.1, b.2, b.1)
  else (0, 0, 0)

/-- What a program reserves: per channel of its CHAN_SET the largest estimates over its points (R149). HV engines reserve
nothing (R171). -/
def reservation (s : State) (e k : Nat) : List (Nat × Nat × Nat × Nat) :=
  if e = 16 then []
  else
    let h := s.slotRd SWE.REGION e k
    let count := ((s.region h).map Region.count).getD 0
    let is := reach s h count (4 * count + 4) [s.slotRd SWE.ENTRY e k] []
    (slotChans s e k).map fun c =>
      let used := is.filter fun i => bit (fld (entryAt s h i).w2 0 8) (c % 8)
      let m := used.foldl (fun a i =>
        let x := pointEstimate s e k h c i
        (max a.1 x.1, max a.2.1 x.2.1, max a.2.2 x.2.2)) ((0, 0, 0) : Int × Int × Int)
      (c, m.1.toNat, m.2.1.toNat, m.2.2.toNat)

/-- The sum of peak estimates over all admitted channels: a channel of several slots counts once (R149). -/
def peakSum (s : State) : Nat :=
  s.swe.foldl (fun acc e =>
    let all := e.2.slots.flatMap fun k => k.2.reserve
    let cs := noRepeats (all.map Prod.fst)
    acc + (cs.map fun c => (all.filter fun r => r.1 == c).foldl (fun m r => max m r.2.2.2) 0).foldl (· + ·) 0) 0

/-- Admit a LOADED slot (R142, R149, R565): the state with its reservation, or the refusal. -/
def admitSlot (s : State) (e k : Nat) : Wr :=
  let h := s.slotRd SWE.REGION e k
  let valid := ((s.region h).map fun r => r.state == 1).getD false
  if shedding s ∨ s.slotState e k ≠ 1 ∨ (s.slot e k).goAt.isSome ∨ !valid then .error St.WRONG_STATE
  else if (slotChans s e k).any fun c => s.chState c == 0 || 6 ≤ s.chState c then .error St.WRONG_STATE
  else
    let t := s.setSlot e k { s.slot e k with reserve := reservation s e k }
    let old := budgetSums s
    let new := budgetSums t
    if e < 16 ∧ (((old.1 < new.1 ∨ old.2 < new.2) ∧ !withinBudget new) ∨ 240 * watt < peakSum t) then
      .error St.POWER_BUDGET
    else .ok (reportBudget t)

/-- The boundary, in clock time of 2^-16 ns, at or after which an event of this moment acts (R145). -/
def actsAt (s : State) : Nat := s.clockFine + 250 * 65536

/-- A hold by EV_HOLD ends (R151); other holds stay. -/
def endEventHold (s : State) (e : Nat) : State :=
  let t := s.engine e
  if t.heldBy.contains .event then
    let left := t.heldBy.filter (· != .event)
    let s := s.setEngine e { t with heldBy := left }
    if left.isEmpty && t.resumeAt.isNone then resumeSlot s e else s
  else s

/-- Slots become READY together at one boundary, and a hold by EV_HOLD may end there (R151, R153, R158): then one takes a free engine, or
pre-empts a waiting slot of lower priority. -/
def sweReady (s : State) (e : Nat) (ks : List Nat) (resume : Bool) : State :=
  let s := ks.foldl (fun s k => (s.setSlotState e k 3).setSlot e k { s.slot e k with readyAt := s.clock, goAt := none }) s
  let s := if resume then endEventHold s e else s
  let r := s.runSlot e
  let higher := fun (k : Nat) => s.slotState e k == 3 && decide (s.slotRd SWE.PRIORITY e k < s.slotRd SWE.PRIORITY e r)
  let s := if r = 7 then takeControl e 5 s
    else if s.slotState e r = 5 && ks.any higher then preempt s e (s.engine e).entry
    else s
  bringForward s e

/-- Whether a time that an event of a slot or an engine waits for has come (R145). -/
def dueNow (s : State) (t : Option Nat) : Bool :=
  match t with
  | some t => decide (t ≤ s.clock * 65536)
  | none => false

/-- A captured pulse whose boundary has come: arrival + 250 ns (R145). -/
def captDue (s : State) (n : Nat) : Bool :=
  match (s.con n).capt with
  | some t => decide (t + 250 * 65536 ≤ s.clockFine)
  | none => false

/-- A consumer input has acted. -/
def clearCapt (s : State) (n : Nat) : State := s.setCon n { s.con n with capt := none }

/-- Everything that starts at this boundary starts together, whatever starts it (R145, R151, R158): accepted starts, armed slots whose
START_AT has come, and a captured EV_START. Where an EV_ABORT acts at the same boundary, it alone acts. -/
def startTogether (s : State) (e : Nat) : State :=
  let pick := fun (f : Nat → Bool) => (List.range 4).filter f
  let pulse := captDue s (4 * e)
  let ks := pick fun k => dueNow s (s.slot e k).goAt ||
    (s.slotState e k == 2 &&
      (if s.slotRd SWE.START_AT e k = 0 then pulse else decide (s.slotRd SWE.START_AT e k ≤ s.now)))
  let s := if pulse then clearCapt s (4 * e) else s
  if captDue s (4 * e + 3) then bringForward (abortEngine (clearCapt s (4 * e + 3)) e) e
  else sweReady s e ks pulse

/-- What commands have asked of an engine acts at a loop-cycle boundary (R151, R158): aborts, then a resumption, then starts. -/
def sweBoundary (s : State) (e : Nat) : State :=
  let due := fun (f : SweSlot → Option Nat) => (List.range 4).filter fun k => dueNow s (f (s.slot e k))
  let aborts := due SweSlot.abortAt
  let resumes := dueNow s (s.engine e).resumeAt && !aborts.contains (s.runSlot e)
  let s := if aborts.isEmpty then s else bringForward (abortSlots s e aborts) e
  let s := if resumes then
      let s := s.setEngine e { s.engine e with resumeAt := none }
      if (s.engine e).heldBy.isEmpty then bringForward (resumeSlot s e) e else s
    else s
  if (due SweSlot.goAt).all fun k => aborts.contains k then s else startTogether s e

/-- The slot a command names in word 2. -/
def slotArg (p : Pkt) : Option Nat := if pw p 2 < 4 then some (pw p 2) else none

/-- A command on one slot of an engine. -/
def slotCmd (p : Pkt) (s : State) (body : Nat → Nat → Res) : Res :=
  match targetEngine p, slotArg p with
  | none, _ => refuse s St.BAD_ID
  | some _, none => refuse s St.BAD_VALUE
  | some e, some k => if stopped s (engineIsland e) then refuse s St.ISLAND_STOPPED else body e k

/-- SWE_START (R151): the slot becomes READY or RUNNING at the first boundary 250 ns or more after acceptance. -/
def execSweStart (p : Pkt) (s : State) : Answer :=
  runCmd s p 0x0304 { used := [(1, allBits), (2, allBits)] } <| slotCmd p s fun e k =>
    match admitSlot s e k with
    | .error st => refuse s st
    | .ok t => ok (t.setSlot e k { t.slot e k with goAt := some (actsAt t) })

/-- SWE_ARM (R151). -/
def execSweArm (p : Pkt) (s : State) : Answer :=
  runCmd s p 0x0305 { used := [(1, allBits), (2, allBits), (3, allBits), (4, allBits)] } <| slotCmd p s fun e k =>
    match admitSlot s e k with
    | .error st => refuse s st
    | .ok t => ok ((t.wr SWE.START_AT e k (pw64 p 3)).setSlotState e k 2)

/-- SWE_RESUME (R151, R158, R271, R565): it acts at the first boundary 250 ns or more after acceptance; a hold by a source stays. -/
def execSweResume (p : Pkt) (s : State) : Answer :=
  runCmd s p 0x0306 { used := [(1, allBits), (2, allBits)] } <| slotCmd p s fun e k =>
    let t := s.engine e
    if t.heldBy.contains .coast ∧ s.runSlot e = k ∧ s.rd TB.STATE ≠ 2 then refuse s St.TIMEBASE
    else if shedding s ∨ s.runSlot e ≠ k ∨ s.slotState e k ≠ 6 then refuse s St.WRONG_STATE
    else
      ok (s.setEngine e { t with
        heldBy := t.heldBy.filter (· == .source), resumeAt := some (t.resumeAt.getD (actsAt s)) })

/-- SWE_ABORT (R145, R151): on a slot of the row it acts at the first boundary 250 ns or more after acceptance. -/
def execSweAbort (p : Pkt) (s : State) : Answer :=
  runCmd s p 0x0307 { used := [(1, allBits), (2, allBits)] } <|
    match targetEngine p with
    | none => refuse s St.BAD_ID
    | some e =>
      if stopped s (engineIsland e) then refuse s St.ISLAND_STOPPED
      else if pw p 2 ≠ 0xFFFFFFFF ∧ 4 ≤ pw p 2 then refuse s St.BAD_VALUE
      else
        let ks := if pw p 2 = 0xFFFFFFFF then List.range 4 else [pw p 2]
        let live := ks.filter fun k => (2 ≤ s.slotState e k && s.slotState e k ≤ 7) || (s.slot e k).goAt.isSome
        ok (live.foldl (fun s k => s.setSlot e k { s.slot e k with abortAt := some ((s.slot e k).abortAt.getD (actsAt s)) }) s)

/-- SWE_RELEASE (R151): LOADED, ARMED, DONE and ABORTED slots become EMPTY. -/
def execSweRelease (p : Pkt) (s : State) : Answer :=
  runCmd s p 0x0308 { used := [(1, allBits), (2, allBits)] } <| slotCmd p s fun e k =>
    let st := s.slotState e k
    if st = 1 ∨ st = 2 ∨ st = 8 ∨ st = 9 then
      let s := unreserve (s.setSlotState e k 0) e k
      ok ((s.wr SWE.REGION e k 0).setSlot e k {})
    else refuse s St.WRONG_STATE

/-- SWE_SIGNAL (R159). -/
def execSweSignal (p : Pkt) (s : State) : Answer :=
  runCmd s p 0x0309 { used := [(1, allBits)] } <|
    match targetEngine p with
    | none => refuse s St.BAD_ID
    | some e =>
      if stopped s (engineIsland e) then refuse s St.ISLAND_STOPPED else ok (s.put SWE.HOST_FLAG e 1)

/-- SWE_EV_START (R145, R151, R158): armed slots without a START_AT start; a slot held by EV_HOLD resumes. -/
def execSweEvStart (engine : Nat) (s : State) : Answer :=
  if captDue s (4 * engine) then done (startTogether s engine) else .next s

/-- Whether a point of the engine is applied. -/
def pointOn (s : State) (e : Nat) : Bool :=
  s.runSlot e < 4 && ((s.engine e).pt == .applied || (s.engine e).pt == .pulse)

/-- SWE_EV_NEXT (R157, R158): no effect while waiting or delayed, nor on a point that applies at this very boundary. -/
def execSweEvNext (engine : Nat) (s : State) : Answer :=
  if captDue s (4 * engine + 1) then
    let s := clearCapt s (4 * engine + 1)
    if pointOn s engine ∧ (s.engine engine).ta < s.clock then
      done (bringForward (endPoint (s.setEngine engine { s.engine engine with nexted := true }) engine) engine)
    else done s
  else .next s

/-- SWE_EV_HOLD (R151). -/
def execSweEvHold (engine : Nat) (s : State) : Answer :=
  if captDue s (4 * engine + 2) then done (requestHold (clearCapt s (4 * engine + 2)) engine .event) else .next s

/-- SWE_EV_ABORT (R151). -/
def execSweEvAbort (engine : Nat) (s : State) : Answer :=
  if captDue s (4 * engine + 3) then done (bringForward (abortEngine (clearCapt s (4 * engine + 3)) engine) engine) else .next s

/-- The release boundary of a wait has come (R145). -/
def waitDue (s : State) (e : Nat) : Bool :=
  (s.engine e).pt == .waiting && (match (s.engine e).waitCapt with
    | some t => decide (t + 250 * 65536 ≤ s.clockFine)
    | none => false)

/-- A wait pulse releases sample 0 of a point with MDELAY 0 as a fabric trigger, as it arrives (R146): where the group is busy the sample is
lost as any other trigger is. -/
def releaseSample (s : State) (e at_ : Nat) : State :=
  let q := entryAt s (s.slotRd SWE.REGION e (s.runSlot e)) (s.engine e).entry
  if (s.group e).src = 3 ∧ eMdelay q = 0 ∧ 0 < fld q.w3 12 8 then
    let s := abandonAz s e
    let takes := !trigBusy s e at_ && (s.group e).samp != .idle
    fabricTrigger (s.setEngine e { s.engine e with taken := 1, released := takes }) e at_
  else s

/-- SWE_WAIT_RELEASE (R143 step 3, R145). -/
def execSweWaitRelease (engine : Nat) (s : State) : Answer :=
  if waitDue s engine then
    let delay := if engine < 16 then
        railDelayFor (s.group engine) ((s.group engine).tgtP, (s.group engine).tgtN) else 0
    let t := { s.engine engine with waitCapt := none, waited := (s.clock - (s.engine engine).t) / 125 }
    if 0 < delay then
      let s := s.setEngine engine { t with pt := .delay, railDelay := delay, ta := s.clock + 125 * delay }
      done (bringForward ((s.put SWE.STATE engine 1).setSlotState engine (s.runSlot engine) 4) engine)
    else done (bringForward (applyPoint (s.setEngine engine t) engine) engine)
  else .next s

/-- SWE_START_AT (R151): slots whose time has come start together. -/
def execSweStartAt (engine : Nat) (slot : Nat) (s : State) : Answer :=
  if slot < 4 ∧ s.slotState engine slot = 2 ∧ s.slotRd SWE.START_AT engine slot ≠ 0 ∧ s.slotRd SWE.START_AT engine slot ≤ s.now then
    done (startTogether s engine)
  else .next s

/-- SWE_WAIT_TIMEOUT (R151, R158): a pulse whose release boundary is this one wins. -/
def execSweWaitTimeout (engine : Nat) (s : State) : Answer :=
  let t := s.engine engine
  let lim := s.effN SWE.WAIT_TIMEOUT engine
  if t.pt = .waiting ∧ lim ≠ 0 ∧ t.t + 125 * lim ≤ s.clock ∧ !waitDue s engine then
    done (bringForward (abortSlot (record s 3 engine 0x04) engine (s.runSlot engine)) engine)
  else .next s

/-- POINT_END (R143 step 8). -/
def execPointEnd (engine : Nat) (s : State) : Answer :=
  let t := s.engine engine
  let q := entryAt s (s.slotRd SWE.REGION engine (s.runSlot engine)) t.entry
  if pointOn s engine ∧ t.ta + 125 * eDwell q ≤ s.clock then done (bringForward (endPoint s engine) engine) else .next s

/-- POINT_APPLY (R143 step 4): the rail delay is over. -/
def execPointApply (engine : Nat) (s : State) : Answer :=
  let t := s.engine engine
  if t.pt = .delay ∧ t.ta ≤ s.clock then done (applyPoint s engine) else .next s

/-- Whether a slot in control is cut at this boundary (R152, R158): a READY slot of higher priority with PREEMPT_CUT has been READY for
250 ns; a hold by a source comes first. In a wait the boundary is one before the point (R152). -/
def cutDue (s : State) (e : Nat) : Bool :=
  let k := s.runSlot e
  k < 4 && (s.slotState e k == 4 || s.slotState e k == 5) && !(s.engine e).holdReq.contains .source &&
  (List.range 4).any fun j => s.slotState e j == 3 && s.slotRd SWE.PREEMPT_CUT e j == 1 &&
    decide (s.slotRd SWE.PRIORITY e j < s.slotRd SWE.PRIORITY e k) && decide ((s.slot e j).readyAt + 250 ≤ s.clock)

/-- PULSE_EDGE_START (R143 step 6, R147): none at the boundary of a cut (R152). -/
def execPulseEdgeStart (engine : Nat) (s : State) : Answer :=
  let t := s.engine engine
  let h := s.slotRd SWE.REGION engine (s.runSlot engine)
  if s.runSlot engine < 4 ∧ t.pt = .applied ∧ !t.pulsed ∧ !cutDue s engine ∧ eKind (entryAt s h t.entry) = 1 ∧
      t.ta + 125 * eDwell (entryAt s h (t.entry + 1)) ≤ s.clock then
    done (pulseOn s engine)
  else .next s

/-- PULSE_EDGE_END (R143 step 7, R147): none at the boundary of a cut (R152). -/
def execPulseEdgeEnd (engine : Nat) (s : State) : Answer :=
  let t := s.engine engine
  let x := entryAt s (s.slotRd SWE.REGION engine (s.runSlot engine)) (t.entry + 1)
  if s.runSlot engine < 4 ∧ t.pt = .pulse ∧ !cutDue s engine ∧ t.ta + 125 * (eDwell x + ePwidth x) ≤ s.clock then
    done (pulseOff s engine)
  else .next s

/-- SWE_PREEMPT_CUT (R152): a READY slot of higher priority with PREEMPT_CUT cuts the point; before Ta, or at the
boundary that ends it, the pre-emption is one at a boundary. -/
def execSwePreemptCut (engine : Nat) (s : State) : Answer :=
  let k := s.runSlot engine
  let t := s.engine engine
  if cutDue s engine then
    let q := entryAt s (s.slotRd SWE.REGION engine k) t.entry
    if t.pt = .delay ∨ t.pt = .waiting then done (bringForward (preempt s engine t.entry) engine)
    else if pointOn s engine then
      if t.ta + 125 * eDwell q ≤ s.clock then done (bringForward (endPoint s engine) engine)
      else
        let ofs := (s.clock - t.ta) / 125
        let s := closeStatus s engine true false false ofs
        let s := (s.wr SWE.CUT_INDEX engine k t.entry).wr SWE.CUT_OFS engine k ofs
        let s := s.setSlot engine k { s.slot engine k with cut := true }
        done (bringForward (preempt s engine t.entry) engine)
    else .next s
  else .next s

/-- One corrected error of a memory whose owner is a block instance (R475). -/
def corrected (s : State) (blk inst : Nat) : State := record (s.bump VANE.ECC_CORR_COUNT) blk inst 0xF1

/-- One uncorrectable error of a memory whose owner is a block instance (R475). -/
def uncorrected (s : State) (blk inst : Nat) : State := record (s.bump VANE.ECC_UNCORR_COUNT) blk inst 0xF2

/-- SWEEP_MEMORY_SCRUB (R132, R475): errors are set in SE_00; a region with an uncorrectable entry becomes INVALID. -/
def execSweepMemoryScrub (fixed bad : List Nat) (s : State) : Answer :=
  let s := { s with vane := { s.vane with scrubAt := s.vane.scrubAt.set 1 s.clock } }
  let s := fixed.foldl (fun s _ => corrected s 3 0) s
  let s := bad.foldl (fun s i => if s.sweBad.contains i then s else { s with sweBad := s.sweBad ++ [i] }) s
  let s := bad.foldl (fun s _ => uncorrected s 3 0) s
  let hit := fun (r : Region) => bad.any fun i => decide (r.base ≤ i) && decide (i < r.base + r.count)
  done (s.regions.foldl (fun s e => match e.2 with
    | some r => if hit r && r.state == 1 then s.setRegion e.1 (some { r with state := 2 }) else s
    | none => s) s)

end Sys2Proof.Machine
end

