-- ==== Sys2Proof/Machine/Cal.lean ====
section
/-!
DEFINITION. Calibration (R437 to R460): coefficient targets and present values, gradual application, deskew,
self-calibration, system calibration, images, and reference tracking.
-/
namespace Sys2Proof.Machine

/-- The numbers of the coefficient terms of a block's instances (R439), rising. -/
def coefNums (blk inst : Nat) : List Nat :=
  let sets := fun (base n : Nat) => (List.range n).flatMap fun i => (List.range 3).map fun t => base + 4 * i + t
  match blk with
  | 1 => sets 0x500 4 ++ sets 0x510 10 ++ sets 0x540 2
  | 2 => if inst < 128 then sets 0x500 4 ++ sets 0x520 10 ++ sets 0x554 9 else sets 0x510 1 ++ sets 0x520 7
  | 4 => sets 0x500 1 ++ sets 0x510 7 ++ sets 0x540 2
  | 5 => sets 0x500 4 ++ sets 0x510 4 ++ sets 0x520 4
  | _ => []

/-- The numbers of the deskew values of a block (R439). -/
def deskewNums : Nat → List Nat
  | 5 => [0x530, 0x531]
  | 6 => [0x500, 0x501, 0x502, 0x503]
  | _ => []

/-- The numbers of the certified reference values (R458). -/
def refNums : List Nat := [0x10, 0x11, 0x12, 0x13, 0x14, 0x15, 0x16]

/-- Block, instance and number of an ID (R12). -/
def idParts (id : Nat) : Nat × Nat × Nat := (id / 0x1000000, id / 0x1000 % 0x1000, id % 0x1000)

/-- Whether an ID names the target of a coefficient term. -/
def isCoef (id : Nat) : Bool :=
  let p := idParts id
  p.2.1 < blockInstances p.1 && (coefNums p.1 p.2.1).contains p.2.2

/-- Whether an ID names the target of a deskew value. -/
def isDeskew (id : Nat) : Bool :=
  let p := idParts id
  p.2.1 < blockInstances p.1 && (deskewNums p.1).contains p.2.2

/-- Whether an ID names a certified reference value. -/
def isRef (id : Nat) : Bool := id / 0x1000 == 0xC000 && refNums.contains (id % 0x1000)

/-- What an ID's parameter holds. -/
def State.atId (s : State) (id : Nat) : Int := Bank.get paramReset s.par id

/-- Place a value at an ID. -/
def State.putId (s : State) (id : Nat) (v : Int) : State := { s with par := Bank.set paramReset s.par id v }

/-- The present value of a term or deskew value (R440). -/
def presentId (id : Nat) : Nat := id + 0x100

/-- The ID of the G term of a term's set. -/
def setOf (id : Nat) : Nat := id / 4 * 4

/-- The scale of a term, in LSB (R441): G 2^30, O 2^N × 256, K 2^31. -/
def termScale (id : Nat) : Nat :=
  let p := idParts id
  let n := if p.1 = 5 then (if setOf id % 0x1000 = 0x504 then 11 else 15) else 22
  match id % 4 with
  | 0 => 2 ^ 30
  | 1 => 2 ^ (n + 8)
  | _ => 2 ^ 31

/-- The terms whose target differs from their present value: only terms that the store lists can differ. -/
def rampingTerms (s : State) : List Nat :=
  let ids := s.par.flatMap fun e =>
    if isCoef e.1 then [e.1] else if 0x100 ≤ e.1 ∧ isCoef (e.1 - 0x100) then [e.1 - 0x100] else []
  (ids.filter fun id => s.atId id != s.atId (presentId id)).eraseDups

/-- The sets that ramp. -/
def rampingSets (s : State) : List Nat := ((rampingTerms s).map setOf).eraseDups

/-- The codes of a pin's voltage span, in the units of PMU_SET (R188). -/
def pinSpan (n : Nat) : Int × Int := if n < 192 then (-6000, 26000) else (-32000, 32000)

/-- The codes PMU_SET may hold (R188). -/
def pmuSpan (s : State) (n : Nat) : Int × Int := if s.rd PIN.PMU_MODE n = 1 then (-16384, 16384) else pinSpan n

/-- What a pin's calibration turns into a code (R438): 0 to 3 the driver's levels, 4 and 5 the comparators', 6 the PMU setting. -/
def pinPrm : Nat → Prm
  | 0 => PIN.VIH
  | 1 => PIN.VIL
  | 2 => PIN.VIT
  | 3 => PIN.VCOM
  | 4 => PIN.VOH
  | 5 => PIN.VOL
  | _ => PIN.PMU_SET

/-- The calibrated result before its limit, and its limits (R188, R438): levels about the code of 0 V. -/
def pinResult (s : State) (n k : Nat) : Int × Int × Int :=
  let v := s.rd (pinPrm k) n
  let drv : Int := if n < 192 then 12288 else 32768
  let cmp : Int := if n < 192 then 768 else 2048
  if k < 4 then (drv + s.coef PIN.DRV_GP PIN.DRV_OP PIN.DRV_KP n 0 15 (v - drv), 0, 65535)
  else if k < 6 then (cmp + s.coef PIN.CMP_GP PIN.CMP_OP PIN.CMP_KP n 0 11 (v - cmp), 0, 4095)
  else if s.rd PIN.PMU_MODE n = 1 then
    (s.coef PIN.PMU_FI_GP PIN.PMU_FI_OP PIN.PMU_FI_KP n (s.rdN PIN.PMU_IRANGE n) 15 v, pmuSpan s n)
  else (s.coef PIN.PMU_FV_GP PIN.PMU_FV_OP PIN.PMU_FV_KP n 0 15 v, pmuSpan s n)

/-- A code that a pin's hardware holds: a level's DAC code, or the PMU's forced value (R438). -/
def State.pinOut (s : State) (n k : Nat) : Int := Bank.get (fun k => paramReset ((pinPrm k).id n 0)) (s.pin n).codes k

/-- A pin's code follows its level, mode, range or coefficients (R438): a result that a write or a new limit has limited is counted, OUT_CLIP. -/
def pinCode (n : Nat) (wrote : Bool) (s : State) (k : Nat) : State :=
  let y := pinResult s n k
  let w := clampInt y.2.1 y.2.2 y.1
  let old := s.pinOut n k
  let s := s.setPin n { s.pin n with codes := Bank.set (fun k => paramReset ((pinPrm k).id n 0)) (s.pin n).codes k w }
  if y.1 ≠ w ∧ (wrote ∨ old ≠ w) then clipped s else s

/-- Every code of a pin follows its settings; a high-swing pin has neither VIT nor VCOM. -/
def pinCodes (s : State) (n : Nat) : State := (if n < 192 then [0, 1, 2, 3, 4, 5, 6] else [0, 1, 4, 5, 6]).foldl (pinCode n false) s

/-- The codes of the pins whose terms have moved (R438, R441). -/
def pinsMoved (s : State) (terms : List Nat) : State :=
  (((terms.map idParts).filter fun p => p.1 == 5).map fun p => p.2.1).eraseDups.foldl pinCodes s

/-- One step of one term (R441): the accumulator holds what is below one LSB; the last step lands on the target. -/
def stepTerm (s : State) (id : Nat) : State :=
  let d := s.atId id - s.atId (presentId id)
  let acc := Bank.get (fun _ => 0) s.cal.frac id + s.rdN CAL.COEF_SLEW * termScale id
  let move : Int := (acc / 1000000000 : Nat)
  let lands := decide (iabs d ≤ move)
  let s := s.putId (presentId id) (if lands then s.atId id else s.atId (presentId id) + (if d < 0 then -move else move))
  { s with cal := { s.cal with
      frac := Bank.set (fun _ => 0) s.cal.frac id (if lands then 0 else acc % 1000000000) } }

/-- COEF_RAMP_STEP (R438, R441, R442, R444): once in a microsecond every ramping term steps; EV_DONE when no set ramps any longer. Lull pauses
ramps. -/
def execCoefRampStep (s : State) : Answer :=
  if 3 ≤ s.pwr.lull ∨ s.cal.stepAt = some (s.clock / 1000) then .next s
  else
    let s := { s with cal := { s.cal with stepAt := some (s.clock / 1000) } }
    let before := rampingTerms s
    let old := s.rd CAL.RAMPING
    let s := pinsMoved (before.foldl stepTerm s) before
    let n := (rampingSets s).length
    let s := s.put CAL.RAMPING 0 n
    done (if n = 0 ∧ (0 < old ∨ !before.isEmpty) then s.publish (s.rd CAL.EV_DONE) else s)

/-- Duration of the ramp of one term from its present value to a new target, in µs, rounded up (R441). -/
def rampMicros (s : State) (id : Nat) (v : Int) : Nat :=
  ceilDiv ((iabs (v - s.atId (presentId id))).toNat * 1000000000) (s.rdN CAL.COEF_SLEW * termScale id)

/-- The longest ramp that a list of new targets gives, in ms, rounded up. -/
def longestRamp (s : State) (terms : List (Nat × Int)) : Nat :=
  ceilDiv ((terms.filter fun t => isCoef t.1).foldl (fun m t => max m (rampMicros s t.1 t.2)) 0) 1000

/-- Whether a domain's written deskew applies at once (R443): IDLE, HELD and PARKED. -/
def deskewAtOnce (s : State) (dom : Nat) : Bool := [0, 5, 6].contains (s.rdN SEQ.STATE dom)

/-- The domain of a deskew value. -/
def deskewDom (id : Nat) : Nat := let p := idParts id; if p.1 = 5 then p.2.1 / 128 else p.2.1

/-- Write a calibration value's target (R440, R443). -/
def writeCal (s : State) (id : Nat) (v : Int) : State :=
  let s := s.putId id v
  if isDeskew id ∧ deskewAtOnce s (deskewDom id) then s.putId (presentId id) v else s

/-- The deskew values of a domain that the store lists. -/
def deskewIds (s : State) (dom : Nat) : List Nat :=
  let ids := s.par.flatMap fun e =>
    if isDeskew e.1 then [e.1] else if 0x100 ≤ e.1 ∧ isDeskew (e.1 - 0x100) then [e.1 - 0x100] else []
  (ids.filter fun id => deskewDom id == dom).eraseDups

/-- One deskew value moves one step toward its target, or lands where the domain does not run (R443). -/
def stepDeskew (s : State) (id : Nat) : State :=
  let cur := s.atId (presentId id)
  let tgt := s.atId id
  let v := if deskewAtOnce s (deskewDom id) then tgt else if cur < tgt then cur + 1 else if tgt < cur then cur - 1 else cur
  s.putId (presentId id) v

/-- DESKEW_STEP (R443): at the first vector boundary of each microsecond. -/
def execDeskewStep (dom : Nat) (s : State) : Answer :=
  if dom < 2 ∧ (s.sequencer dom).dskAt ≠ some (s.clock / 1000) then
    let s := s.setSequencer dom { s.sequencer dom with dskAt := some (s.clock / 1000) }
    done ((deskewIds s dom).foldl stepDeskew s)
  else .next s

/-- A computed term saturated (R450). -/
def saturate (s : State) (id : Nat) : State :=
  record ((s.put CAL.SAT_LAST 0 id).bump CAL.SAT_COUNT) 0x0C 0 0x01

/-- What a CAL_SELF names in word 1 (R446): channels and pins. -/
def selfTargets (p : Pkt) : Option (List Nat × List Nat) :=
  match targetChan p with
  | some c => some ([c], [])
  | none =>
    match targetInst p 5 with
    | some n => some ([], [n])
    | none => (targetInst p 0x0C).map fun _ => (List.range 132, List.range 256)

/-- Whether a pin may be self-calibrated (R446). -/
def pinIdle (s : State) (n : Nat) : Bool :=
  s.rd PIN.STATE n == 0 && s.rd PIN.STATIC n == 2 && s.rd PIN.PMU_EN n == 0 && s.rd SEQ.STATE (n / 128) == 0

/-- Pins a CAL_SELF has as targets. -/
def calPin (s : State) (n : Nat) : Bool := s.cal.selfs.any fun o => o.pins.contains n

/-- CAL_SELF (R446): checked, and then it runs until its steps are done. -/
def execCalSelf (p : Pkt) (s : State) : Answer :=
  runCmd s p 0x0801 { used := [(1, allBits)] } <|
    match selfTargets p with
    | none => refuse s St.BAD_ID
    | some (cs, ps) =>
      if cs.any (fun c => stopped s (chanIsland c)) ∨ ps.any (fun n => stopped s (.seq (n / 128))) then
        refuse s St.ISLAND_STOPPED
      else if cs.any (owned s) then refuse s St.OWNED
      else if cs.any (fun c => s.chState c != 0 || (128 ≤ c && s.rd HVC.INTLK_STATE == 0)) ∨ ps.any (fun n => !pinIdle s n) ∨
          cs.any (calTarget s) ∨ ps.any (calPin s) then
        refuse s St.WRONG_STATE
      else .later { s with cal := { s.cal with selfs := s.cal.selfs ++ [⟨p.src, pTag p, cs, ps⟩] } }

/-- What a self-calibration computes of a set by the ID of its G term (R447, R448): 0 not its set, 1 O only, 2 two points
(G and O, K = 0), 3 three points. -/
def selfPoints (o : SelfCal) (set : Nat) : Nat :=
  let p := idParts set
  let n := p.2.2
  if !isCoef set || set % 4 != 0 then 0
  else match p.1 with
    | 1 => if !o.chans.contains p.2.1 then 0 else if n = 0x534 then 2 else 3
    | 2 => if !o.chans.contains p.2.1 then 0
      else if p.2.1 < 128 then (if n < 0x520 then 3 else 2)
      else if 0x52C ≤ n then 1 else if n = 0x510 then 3 else 2
    | 4 => if !o.chans.contains (p.2.1 + 128) then 0 else if 0x51C ≤ n ∧ n < 0x540 then 1 else 3
    | 5 => if !o.pins.contains p.2.1 then 0
      else if (0x510 ≤ n ∧ n < 0x520) ∨ 0x524 ≤ n then 1 else if n = 0x520 then 2 else 3
    | _ => 0

/-- The terms a self-calibration writes: those of its sets that got a result, K = 0 where two points give a set. -/
def selfTerms (o : SelfCal) (f : SelfFound) : List (Nat × Int) :=
  (f.terms.filter fun t =>
      let k := selfPoints o (setOf t.1)
      isCoef t.1 && !f.failed.contains (setOf t.1) && (k == 2 || k == 3 || (k == 1 && t.1 % 4 == 1))).map
    fun t => if selfPoints o (setOf t.1) = 2 ∧ t.1 % 4 = 2 then (t.1, 0) else t

/-- A term cut to its width; whether it saturated. -/
def satTerm (t : Nat × Int) : Int :=
  if t.1 % 4 = 0 then clampInt 0 0xFFFFFFFF t.2 else clampInt (-2147483648) 2147483647 t.2

/-- The baseplate temperature (R487). -/
def baseplate (s : State) : Int := (Bank.get (fun _ => ({} : Sensor)) s.vane.sensors 24).reading

/-- CAL_SELF_DONE (R446 to R448): every set is written as a target at one boundary, and the command completes. -/
def execCalSelfDone (src : Src) (tag : Nat) (found : SelfFound) (s : State) : Answer :=
  match s.cal.selfs.find? fun o => o.src == src && o.tag == tag with
  | none => .next s
  | some o =>
    let terms := (selfTerms o found).map fun t => (t.1, satTerm t)
    let sat := (selfTerms o found).filter fun t => satTerm t != t.2 || found.saturated.contains t.1
    let failed := (found.failed.filter fun x => selfPoints o x != 0).eraseDups
    let sets := ((terms.map Prod.fst).map setOf).eraseDups
    let longest := longestRamp s terms
    let s := { s with cal := { s.cal with
      selfs := s.cal.selfs.filter fun x => !(x.src == src && x.tag == tag), selfDone := true } }
    let s := found.offsets.foldl (fun s m => if o.chans.contains m.ch then takeOffsets s m.ch m.v m.i m.pair true else s) s
    let s := terms.foldl (fun s t => writeCal s t.1 t.2) s
    let s := sat.foldl (fun s t => saturate s t.1) s
    let s := failed.foldl (fun s _ => record s 0x0C 0 0x04) s
    let s := (s.put CAL.SELF_TEMP 0 (baseplate s)).put CAL.SELF_TIME 0 s.systime
    let satSets := ((sat.map Prod.fst).map setOf).eraseDups
    let warn := !sat.isEmpty || !failed.isEmpty
    done (s.complete src tag (if warn then St.SUCCESS_WARN else St.SUCCESS)
      [sets.length, satSets.length, failed.length, longest])

/-- A set that system calibration applies to, by the ID of its G term (R449): its instance, and whether it is a pin's; the
range that must be active, none where any is. -/
def sysSet (id : Nat) : Option (Nat × Bool × Bool × Option Nat) :=
  match findPrm id with
  | some r =>
    if r.prm = MSR.MV_G then some (r.inst, false, true, some r.idx)
    else if r.prm = MSR.MI_G then some (r.inst, false, false, some r.idx)
    else if r.prm = MSR.MV_HV_G then some (r.inst, false, true, some 4)
    else if r.prm = MSR.MI_HV_G then some (r.inst, false, false, some r.idx)
    else if r.prm = PIN.PMU_MV_G then some (r.inst, true, true, none)
    else if r.prm = PIN.PMU_MI_G then some (r.inst, true, false, some r.idx)
    else none
  | none => none

/-- Whether a step of system calibration can take its inputs (R449). -/
def sysReady (s : State) (t : Nat × Bool × Bool × Option Nat) : Bool :=
  match t with
  | (n, true, _, range) => s.rd PIN.PMU_EN n == 1 && (range.map fun r => s.rdN PIN.PMU_IRANGE n == r).getD true
  | (c, false, volts, range) =>
    [2, 3, 4].contains (s.chState c) && (s.group (groupOf c)).src != 0 &&
      range == some (if volts then (if c < 128 then (s.ch c).act.vr else 4) else (s.ch c).act.ir)

/-- The number of inputs a step takes (R449): 0 means 1,024; none outside 16 to 65,536. -/
def sysCount (n : Nat) : Option Nat :=
  if n = 0 then some 1024 else if 16 ≤ n ∧ n ≤ 65536 then some n else none

/-- The island of a set's inputs. -/
def sysIsland (t : Nat × Bool × Bool × Option Nat) : Island := if t.2.1 then .seq (t.1 / 128) else chanIsland t.1

/-- A step of system calibration begins (R449, R450). -/
def startSys (s : State) (p : Pkt) (n : Nat) (full : Option Int) : Res :=
  match sysSet (pw p 1) with
  | none => refuse s St.BAD_ID
  | some t =>
    match sysCount n with
    | none => refuse s St.BAD_VALUE
    | some n =>
      if stopped s (sysIsland t) then refuse s St.ISLAND_STOPPED
      else if s.cal.sys.isSome ∨ !sysReady s t ∨
          (full.isSome ∧ (s.rd CAL.SYS_STATE = 0 ∨ s.rdN CAL.SYS_SET ≠ pw p 1)) then
        refuse s St.WRONG_STATE
      else
        let o : SysCal := { src := p.src, tag := pTag p, set := pw p 1, n, full, start := s.clock }
        .later { s with cal := { s.cal with sys := some o } }

/-- CAL_SYS_ZERO (R449, R451). -/
def execCalSysZero (p : Pkt) (s : State) : Answer :=
  runCmd s p 0x0802 { used := [(1, allBits), (2, allBits)] } (startSys s p (pw p 2) none)

/-- CAL_SYS_FULL (R450, R451). -/
def execCalSysFull (p : Pkt) (s : State) : Answer :=
  runCmd s p 0x0803 { used := [(1, allBits), (2, allBits), (3, allBits)] }
    (startSys s p (pw p 3) (some (sfld 32 (pw p 2))))

/-- g of R450 in 1/2^30, before it saturates; none where r1 = r0. -/
def sysGain (a r0 r1 : Int) : Option Int :=
  if r1 = r0 then none
  else
    let d := r1 - r0
    some (roundDiv ((if d < 0 then -a else a) * 2 ^ 30) (iabs d).toNat)

/-- The mean of the N inputs of a step in 1/256 LSB (R449): those that a channel's records have brought, or of a pin's own conversions;
none while a channel has not brought them all. -/
def sysMean (o : SysCal) (pinMean : Int) : Option Int :=
  if o.set / 0x1000000 = 5 then some pinMean
  else if o.count < o.n then none
  else some (roundDiv (256 * o.sum) o.n)

/-- CAL_SYS_INPUTS_TAKEN (R449 to R451); `mean` is of a pin's conversions. -/
def execCalSysInputsTaken (mean : Int) (s : State) : Answer :=
  match s.cal.sys.bind fun o => (sysMean o mean).map fun m => (o, m) with
  | none => .next s
  | some (o, mean) =>
    let s := { s with cal := { s.cal with sys := none } }
    let r := clampInt (-2147483648) 2147483647 mean
    match o.full with
    | none =>
      let s := ((s.put CAL.SYS_STATE 0 1).put CAL.SYS_SET 0 o.set).put CAL.SYS_R0 0 r
      done (s.complete o.src o.tag St.SUCCESS [toField 32 r])
    | some a =>
      let r0 := s.rd CAL.SYS_R0
      let g := clampInt 0 0xFFFFFFFF ((sysGain a r0 r).getD 0xFFFFFFFF)
      let gSat := sysGain a r0 r != some g
      let off := roundDiv (-(g * r0)) (2 ^ 30)
      let ofs := clampInt (-2147483648) 2147483647 off
      let s := writeCal (writeCal (writeCal s o.set g) (o.set + 1) ofs) (o.set + 2) 0
      let s := if gSat then saturate s o.set else s
      let s := if off ≠ ofs then saturate s (o.set + 1) else s
      let s := s.put CAL.SYS_STATE 0 0
      done (s.complete o.src o.tag St.SUCCESS [g.toNat, toField 32 ofs, toField 32 r, b2n (gSat || off != ofs)])

/-- CAL_SYS_TIMEOUT (R449): 10 s without N inputs. -/
def execCalSysTimeout (s : State) : Answer :=
  match s.cal.sys with
  | none => .next s
  | some o =>
    if o.start + 10000000000 ≤ s.clock then
      done ({ s with cal := { s.cal with sys := none } }.complete o.src o.tag St.WRONG_STATE [])
    else .next s

/-- The IDs of every coefficient, deskew and reference value, rising (R453). -/
def imageIds : List Nat :=
  ([1, 2, 4, 5, 6].flatMap fun blk => (List.range (blockInstances blk)).flatMap fun inst =>
    (coefNums blk inst ++ deskewNums blk).map fun n => blk * 0x1000000 + inst * 0x1000 + n) ++
  refNums.map fun n => 0x0C000000 + n

/-- The words of a saved image (R453), its CRC in word 7. -/
def imageWords (s : State) (present : Bool) : List Nat :=
  let entries := imageIds.flatMap fun id =>
    [id, toField 32 (s.atId (if present && !isRef id then presentId id else id))]
  let head := [0x00010000, imageIds.length, (Config.identity 8).toNat, (Config.identity 9).toNat, lo32 s.systime, hi32 s.systime,
    toField 16 (baseplate s) * 65536]
  head ++ [crcWords (head ++ [0] ++ entries)] ++ entries

/-- The certificate's bytes are whole: its CRC is that of its words (R452, R453). -/
def imageCrcOk (ws : List Nat) : Bool := 8 ≤ ws.length && ws.getD 7 0 == crcWords (ws.take 7 ++ [0] ++ ws.drop 8)

/-- CAL_CERT_READ (R452, R459). -/
def execCalCertRead (p : Pkt) (_wr : Option HostFault) (s : State) : Answer :=
  runCmd s p 0x0804 { host := true, used := [(2, allBits), (3, allBits), (4, allBits)] } <|
    let ws := Config.certificate
    if pw p 2 % 64 ≠ 0 ∨ pw p 4 < 4 * ws.length then refuse s St.BAD_VALUE
    else if stopped s .vane then refuse s St.ISLAND_STOPPED
    else hostPut s p (pw64 p 2) ws (.plain [4 * ws.length])

/-- The entries of an image: IDs and values. -/
def imageEntries : List Nat → List (Nat × Nat)
  | id :: v :: r => (id, v) :: imageEntries r
  | _ => []

/-- Whether an entry of an image may be written: its ID, then its value (R454). -/
def entryStatus (e : Nat × Nat) : Option Nat :=
  if isCoef e.1 ∨ isDeskew e.1 ∨ isRef e.1 then
    match findPrm e.1 with
    | some r =>
      let v : Int := if r.prm.sgn then sfld 32 e.2 else e.2
      if r.prm.accepts v then none else some St.BAD_VALUE
    | none => some St.BAD_ID
  else some St.BAD_ID

/-- The value an image entry gives its parameter. -/
def entryValue (e : Nat × Nat) : Int :=
  match findPrm e.1 with
  | some r => if r.prm.sgn then sfld 32 e.2 else e.2
  | none => 0

/-- Apply an image (R22, R454): the whole is checked before any entry is written, the islands of its targets last. -/
def restoreImage (s : State) (ws : List Nat) : Res :=
  let n := ws.getD 1 0
  let w0 := ws.getD 0 0
  if ws.length ≠ 8 + 2 * n ∨ n = 0 ∨ 24935 < n ∨ fld w0 16 16 ≠ 1 ∨ 1 < fld w0 8 8 ∨ !imageCrcOk ws then
    .done St.BAD_VALUE [0xFFFFFFFF] s
  else
    let es := imageEntries (ws.drop 8)
    match es.zipIdx.find? fun e => (entryStatus e.1).isSome with
    | some (e, i) => .done ((entryStatus e).getD St.BAD_ID) [i] s
    | none =>
      if es.any fun e => stopped s (islandOf (idParts e.1).1 (idParts e.1).2.1) then refuse s St.ISLAND_STOPPED else
      let terms := es.map fun e => (e.1, entryValue e)
      let other := ws.getD 2 0 ≠ (Config.identity 8).toNat ∨ ws.getD 3 0 ≠ (Config.identity 9).toNat
      let longest := longestRamp s terms
      let s := terms.foldl (fun s t => writeCal s t.1 t.2) s
      .done (if other then St.SUCCESS_WARN else St.SUCCESS) [n, b2n (decide other), 0, longest] s

/-- CAL_CERT_LOAD (R452, R454). -/
def execCalCertLoad (p : Pkt) (s : State) : Answer :=
  runCmd s p 0x0805 {} <|
    if stopped s .vane then refuse s St.ISLAND_STOPPED
    else if !imageCrcOk Config.certificate then refuse (record s 0x0C 0 0x06) St.MEDIA
    else restoreImage s Config.certificate

/-- CAL_SAVE (R453, R459). -/
def execCalSave (p : Pkt) (_wr : Option HostFault) (s : State) : Answer :=
  runCmd s p 0x0806 { host := true, used := [(2, allBits), (3, allBits), (4, allBits), (5, 1)] } <|
    if pw p 2 % 64 ≠ 0 ∨ pw p 4 < 199512 then refuse s St.BAD_VALUE
    else hostPut s p (pw64 p 2) (imageWords s (bit (pw p 5) 0)) (.plain [])

/-- CAL_RESTORE (R454, R459). -/
def execCalRestore (p : Pkt) (d : HostData) (s : State) : Answer :=
  runCmd s p 0x0807 { host := true, used := [(2, allBits), (3, allBits), (4, allBits)] } <|
    if pw p 2 % 64 ≠ 0 then refuse s St.BAD_VALUE
    else withData s p (pw64 p 2) (pw p 4) d fun ws =>
      if pw p 4 < 32 ∨ pw p 4 % 8 ≠ 0 then .done St.BAD_VALUE [0xFFFFFFFF] s
      else restoreImage s (pad (pw p 4 / 4) ws)

/-- The deviation of a measured ratio of ZREF_A to −ZREF_B, in 10^-8, from that of their certified values, in 0.01 ppm (R455); the spec
states none where ZREF_A is 0. -/
def refDeviation (s : State) (measured : Int) : Int × State :=
  let a := s.rd CAL.ZREF_A
  let b := s.rd CAL.ZREF_B
  if a = 0 then s.drawInt
  else (roundDiv (measured * (if a < 0 then b else -b)) (iabs a).toNat - 100000000, s)

/-- REF_TRACK (R34, R455): every REF_TRACK_PERIOD but in Lull, with the ratio measured; REF_DRIFT ranks before TEMP_SHIFT (R456). -/
def execRefTrack (measured : Int) (s : State) : Answer :=
  if s.pwr.lull = 3 ∨ s.clock < s.cal.trackAt + 1000000000 * s.rdN CAL.REF_TRACK_PERIOD then .next s
  else
    let d := refDeviation { s with cal := { s.cal with trackAt := s.clock } } measured
    let r := clampInt (-2147483648) 2147483647 d.1
    let s := d.2.put CAL.REF_RATIO 0 r
    let drift : List Hit := if 100 * s.rd CAL.REF_DRIFT_LIM < iabs r then [{ code := 0x02 }] else []
    let temp : List Hit :=
      if s.cal.selfDone ∧ s.rd CAL.TEMP_LIM * 16 < iabs (baseplate s - s.rd CAL.SELF_TEMP) * 10 then [{ code := 0x03 }] else []
    done (recordHits s 0x0C 0 none (drift ++ temp))

end Sys2Proof.Machine
end

