-- ==== Sys2Proof/Machine/Stream.lean ====
section
/-!
DEFINITION. The rows of streams, DMA and address translation (R379 to R410): the stream commands, records and closes,
DMA units, walks, ATS and page requests.
-/
namespace Sys2Proof.Machine

/-- A stream waits for a translation of its next write. -/
def awaitXlt (s : State) (n : Nat) : State := s.setStream n { s.stream n with waiting := true }

/-- The bits of an address above the index of a table level. -/
def levelPre (va level : Nat) : Nat := va / 2 ^ (12 + 9 * level)

/-- Where a walk starts (R398, R399): at the table of the lowest level that the walk cache holds, else at ROOT. -/
def walkStart (s : State) (ctx va : Nat) : Nat × Nat :=
  let hit := fun (l : Nat) => s.xlt.wcache.find? fun e => e.ctx == ctx && e.level == l && e.pre == levelPre va l
  match hit 1 with
  | some e => (1, e.table)
  | none =>
    match hit 2 with
    | some e => (2, e.table)
    | none =>
      match hit 3 with
      | some e => (3, e.table)
      | none => (4, s.rdN XLT.ROOT ctx)

/-- The address of the entry a walk reads next (R398). -/
def entryAddr (w : WalkRun) : Nat := w.table + 8 * (w.va / 2 ^ (12 + 9 * (w.level - 1)) % 512)

/-- What a transfer finds as its next unit is translated (R397 to R399): a bus address; a walk or ATS request that it waits for; or a fault, with
the state that shows it in the context. -/
inductive Reach where
  | go (pa : Nat)
  | wait (s : State)
  | fail (s : State) (f : HostFault)

/-- A transfer misses the TLB (R398, R399): it waits for the walk or the ATS request of its context. -/
def awaitWalk (s : State) (w : Waiter) (ctx va : Nat) : State :=
  let s := match w with
    | .stream n => awaitXlt s n
    | _ => s
  match s.walk ctx with
  | some r => s.setWalk ctx (some { r with waiters := if r.waiters.contains w then r.waiters else r.waiters ++ [w] })
  | none =>
    if s.rd XLT.MODE ctx = 2 then
      let page := va / 4096 * 4096
      (s.setWalk ctx (some { va, level := 0, table := 0, waiters := [w] })).emit (prefixed s ctx (.atsRequest ctx page))
    else
      let b := walkStart s ctx va
      let r : WalkRun := { va, level := b.1, table := b.2, waiters := [w] }
      (s.setWalk ctx (some r)).emit (.walkRead (entryAddr r))

/-- Translate the next unit of a transfer (R396 to R399, R539): an injected fault first. With ATS not enabled by the host a request is
refused: ATS_FAIL. -/
def reachBus (s : State) (w : Waiter) (ctx va : Nat) (write : Bool) : Reach :=
  match xltInjected s ctx with
  | some c => .fail (xltFault (spendInjected s ctx) ctx va c true) (.translation c)
  | none =>
    match translate s ctx va write with
    | .ok pa => .go pa
    | .fault c => .fail (xltFault s ctx va c) (.translation c)
    | .miss =>
      let s := s.tally XLT.TLB_MISSES
      if s.rd XLT.MODE ctx = 2 ∧ !s.hl.ats then .fail (xltFault s ctx va 6) (.translation 6)
      else .wait (awaitWalk s w ctx va)

/-- What a stream's next write finds (R396, R397): go on, or the state after a fault or a miss. A forwarded stream's is translated by the
node that configured it (R424). -/
def reachWrite (s : State) (n : Nat) : Except State Nat :=
  let t := s.stream n
  let addr := nextAddr s n
  match t.failNext with
  | some f => .error (parkStream (s.setStream n { t with failNext := none }) n addr f true)
  | none =>
    if t.node.isSome then .ok addr
    else match reachBus s (.stream n) (s.rdN STM.CTX n) addr true with
      | .go pa => .ok pa
      | .wait u => .error u
      | .fail u f => .error (parkStream u n addr f)

/-- The interrupt of a stream (R390). -/
def streamIrq (s : State) (n : Nat) : State :=
  let c := (s.stream n).sinceIrq + 1
  if s.rd STM.IRQ_EN n = 1 ∧ s.rdN STM.IRQ_BLOCKS n ≤ c then
    (s.setStream n { s.stream n with sinceIrq := 0 }).raise (s.rdN STM.VECTOR n)
  else s.setStream n { s.stream n with sinceIrq := c }

/-- The write-index write of a stream has been issued (R388, R391): its block's slot is freed. -/
def indexDone (s : State) (n : Nat) : State :=
  match (s.stream n).blocks with
  | [] => s
  | _ :: rest =>
    let s := s.put STM.WR_IDX n ((s.rdN STM.WR_IDX n + 1) % 2 ^ 32 : Nat)
    let s := s.setStream n { s.stream n with blocks := rest, dataDone := false }
    let s := streamIrq (freeSlot s n) n
    stopCheck (flushCheck s n St.SUCCESS) n

/-- The data of a stream's block has been issued (R388). -/
def dataIssued (s : State) (n : Nat) : State := s.setStream n { s.stream n with dataDone := true }

/-- A stream's unit goes to the node that configured it (R424, R425), which answers once it has issued it. -/
def forwardUnit (s : State) (n : Nat) (d : Nat × Nat) (ws : List Nat) : State :=
  let a := nextAddr s n
  (awaitXlt s n).frameTo d.1 2 ([0, s.rdN MSH.NODE_ID, d.2, n + 1, lo32 a, hi32 a] ++ ws)

/-- A forwarded stream's unit has been issued by the node that configured it (R424, R425). -/
def forwardDone (s : State) (n : Nat) : State :=
  let s := s.setStream n { s.stream n with waiting := false }
  if (s.stream n).dataDone then indexDone s n else dataIssued s n

/-- The write-index write of a stream goes out, without Relaxed Ordering (R353, R388). -/
def issueIndex (s : State) (n addr : Nat) : State :=
  match (s.stream n).blocks with
  | [] => s
  | b :: _ =>
    let ws := [(s.rdN STM.WR_IDX n + 1) % 2 ^ 32, b.seq]
    match (s.stream n).node with
    | some d => forwardUnit s n d ws
    | none => indexDone (s.request (s.rdN STM.CTX n) (.hostWrite (s.rdN STM.CTX n) addr ws)) n

/-- The data of a stream's block goes out, with Relaxed Ordering (R353, R388), or the block proves unreadable (R400). -/
def issueData (s : State) (n addr : Nat) (media : Bool) : State :=
  let t := s.stream n
  match t.blocks with
  | [] => s
  | b :: rest =>
    if media || b.bad then
      stopCheck (flushCheck (loseBlock (s.setStream n { t with blocks := rest }) n b) n St.INTERRUPTED) n
    else match t.node with
      | some d => forwardUnit s n d (blockWords n b)
      | none => dataIssued (s.request (s.rdN STM.CTX n) (.blockWrite (s.rdN STM.CTX n) addr (blockWords n b))) n

/-- Whether class 2 frames reach another node now (R419, R424). -/
def farOpen (s : State) (node : Nat) : Bool :=
  decide (s.rdN MSH.ENUM_STATE % 2 = 1) && bit (Bank.get (fun _ => 0) s.msh.routes node) 15

/-- Whether host memory can be reached: this node's, or that of the node that forwarded a command or stream (R27, R424, R425). -/
def wayOpen (s : State) (node : Option (Nat × Nat)) : Bool :=
  match node with
  | some d => farOpen s d.1
  | none => s.dmaOpen

/-- Whether a stream has a write that may be issued (R27, R388, R394, R425). -/
def mayIssue (s : State) (n : Nat) : Bool :=
  let t := s.stream n
  (s.stmState n == 2 || s.stmState n == 4) && !t.waiting && !t.blocks.isEmpty && wayOpen s t.node &&
    (t.dataDone || (s.rdN STM.WR_IDX n + 2 ^ 32 - s.rdN STM.RD_IDX n) % 2 ^ 32 < s.rdN STM.RING_BLOCKS n)

/-- The bulk transfer of a command, or of another node. -/
def xferOf (s : State) (w : Waiter) : Option Xfer := s.xlt.xfers.find? fun x => x.who == w

/-- Replace a bulk transfer in progress. -/
def setXfer (s : State) (x : Xfer) : State :=
  { s with xlt := { s.xlt with xfers := s.xlt.xfers.map fun y => if y.who == x.who then x else y } }

/-- A bulk transfer is over. -/
def dropXfer (s : State) (w : Waiter) : State :=
  { s with xlt := { s.xlt with
      xfers := s.xlt.xfers.filter fun x => x.who != w
      served := s.xlt.served.filter fun v => v != w } }

/-- The node whose host memory a transfer addresses, with the exchange number: that of a forwarded packet (R424); none for this node's own. -/
def xferNode (x : Xfer) : Option (Nat × Nat) :=
  match x.who with
  | .cmd (.mesh d fid) _ => some (d, fid)
  | _ => none

/-- Whether a transfer is for another node, which has a fault to hear of when its read is issued. -/
def farOf (x : Xfer) : Bool :=
  match x.who with
  | .far _ _ _ => true
  | _ => false

/-- Whether a bulk transfer has a unit that may be issued (R396, R424). -/
def mayMove (s : State) (x : Xfer) : Bool :=
  x.left != 0 && !x.asked && (x.fault.isNone || farOf x) && !awaits s x.who x.ctx && wayOpen s (xferNode x)

/-- The priority of what waits (R396): of a stream or of a command's packet. -/
def waiterPrio (s : State) : Waiter → Nat
  | .stream n => s.rdN STM.PRIORITY n
  | w => ((xferOf s w).map Xfer.prio).getD 3

/-- The streams and transfers with a unit that may be issued, in turn: those the engine has not served yet, then the one served longest ago. -/
def inTurn (s : State) : List Waiter :=
  let ready := ((List.range 32).filter (mayIssue s)).map Waiter.stream ++ (s.xlt.xfers.filter (mayMove s)).map Xfer.who
  ready.filter (fun w => !s.xlt.served.contains w) ++ s.xlt.served.filter ready.contains

/-- Whether a unit is a write-index write. -/
def isIndex (s : State) : Waiter → Bool
  | .stream n => (s.stream n).dataDone
  | _ => false

/-- What the DMA engine serves next (R396): control traffic first, of which write-index writes are its own and the rows of the queues see to the
rest; then the lowest priority value, in turn. -/
def nextUnit (s : State) : Option Waiter :=
  if s.dmaOpen && queueTraffic s then none
  else match (inTurn s).find? (isIndex s) with
    | some w => some w
    | none => (List.range 4).findSome? fun p => (inTurn s).find? fun w => waiterPrio s w == p

/-- The bytes of a transfer's next unit (R396): 4 KiB at most, none of them past a 4 KiB boundary. -/
def unitBytes (x : Xfer) : Nat := min x.left (4096 - x.addr % 4096)

/-- A unit of a transfer has been issued: the transfer goes on with the next, or is over. -/
def unitDone (s : State) (x : Xfer) : State :=
  let b := unitBytes x
  let y := { x with addr := x.addr + b, left := x.left - b, words := if x.write then x.words.drop (b / 4) else x.words, asked := false }
  if y.left ≠ 0 then setXfer s y
  else match x.who with
    | .cmd src tag => if x.write then xferEnds (dropXfer s x.who) src tag x.fin else setXfer s y
    | .far node fid st =>
      let head := [s.rdN MSH.NODE_ID, fid, (st.map (· + 1)).getD 0, lo32 x.addr, hi32 x.addr]
      match x.write, x.fault with
      | true, _ => (dropXfer s x.who).frameTo node 2 (3 :: head)
      | false, none => (dropXfer s x.who).frameTo node 2 ([4] ++ head ++ x.words)
      | false, some f =>
        (hostFaulted (dropXfer s x.who) x.ctx x.addr (readStatus f)).frameTo node 2 ([2] ++ head ++ [hostStatus f])
    | _ => setXfer s y

/-- A transfer's unit faults (R322, R400, R424): the command completes with nothing applied, an upload ends as its own row sees to it (R128), and
another node hears of it. -/
def xferFails (s : State) (x : Xfer) (f : HostFault) : State :=
  match x.who with
  | .cmd src tag =>
    if s.uploads.any fun u => u.src == src && u.tag == tag then setXfer s { x with fault := some f, asked := false }
    else match s.cmd.ops.find? fun o => o.pkt.src == src && pTag o.pkt == tag with
      | some o => finish o.pkt (refuse (dropXfer s x.who) (hostStatus f))
      | none => dropXfer s x.who
  | .far node fid st =>
    (dropXfer s x.who).frameTo node 2 [2, s.rdN MSH.NODE_ID, fid, (st.map (· + 1)).getD 0, lo32 x.addr, hi32 x.addr, hostStatus f]
  | _ => s

/-- The next unit of a bulk transfer (R396, R424): translated, then issued whole. -/
def issueUnit (s : State) (x : Xfer) : State :=
  let b := unitBytes x
  match xferNode x with
  | some d =>
    let head := [s.rdN MSH.NODE_ID, d.2, 0, lo32 x.addr, hi32 x.addr]
    (setXfer s { x with asked := true }).frameTo d.1 2 (if x.write then [0] ++ head ++ x.words.take (b / 4) else [1] ++ head ++ [b])
  | none => match reachBus s x.who x.ctx x.addr x.write with
    | .go pa =>
      unitDone (s.request x.ctx (if x.write then .hostWrite x.ctx pa (x.words.take (b / 4)) else .hostRead x.ctx pa b)) x
    | .wait u => u
    | .fail u f => xferFails u x f

/-- The unit of a stream (R388). -/
def issueStream (s : State) (n : Nat) (media : Bool) : State :=
  match reachWrite s n with
  | .error t => t
  | .ok a => if (s.stream n).dataDone then issueIndex s n a else issueData s n a media

/-- The unit of whatever the engine serves. -/
def issueFor (s : State) (media : Bool) : Waiter → State
  | .stream n => issueStream s n media
  | w => match xferOf s w with
    | some x => issueUnit s x
    | none => s

/-- DMA_UNIT_ISSUE (R388, R396, R400): `media` says that the local block proves unreadable. -/
def execDmaUnitIssue (media : Bool) (s : State) : Answer :=
  match nextUnit s with
  | none => .next s
  | some w => done (issueFor { s with xlt := { s.xlt with served := s.xlt.served.filter (fun v => v != w) ++ [w] } } media w)

/-- A parked stream's write is tried again, or the stream simply goes on where it holds none (R394, R403). -/
def retryStream (s : State) (n : Nat) : State :=
  if !(s.stream n).held then unpark s n
  else match reachWrite s n with
    | .ok _ => unpark s n
    | .error t => t

/-- A stream no longer waits for a page request: a retry has overtaken it (R403). -/
def overtake (s : State) (n : Nat) : State :=
  { s with xlt := { s.xlt with
      pages := s.xlt.pages.map fun e => (e.1, e.2.map fun r => { r with streams := r.streams.filter (· != n) }) } }

/-- A stream that waited goes on: a parked one tries again, another when its turn comes. -/
def resumeStream (s : State) (n : Nat) : State :=
  let s := s.setStream n { s.stream n with waiting := false }
  if s.stmState n = 3 ∨ s.stmState n = 6 then retryStream s n else s

/-- A ring read faults (R319): the queue stops. -/
def ringFails (s : State) (q : Nat) : State :=
  let k := s.sq q
  if k.enable ∧ !k.fault then record (s.setSq q { k with fetching := 0, fault := true }) 0x0F 0 0x41 else s

/-- A completion write faults (R319): the queue stops. -/
def postFails (s : State) (q : Nat) : State :=
  let k := s.cq q
  if k.enable ∧ !k.fault then record (s.setCq q { k with fault := true }) 0x0F 0 0x42 else s

/-- The address of the unit that waits, and whether it is a write; none where nothing waits any more. -/
def waitingUnit (s : State) : Waiter → Option (Nat × Bool)
  | .stream n => some (nextAddr s n, true)
  | .ring q => if (s.sq q).enable then some ((s.sq q).base + 64 * (s.sq q).head, false) else none
  | .post q => if (s.cq q).enable then some ((s.cq q).base + 32 * (s.cq q).tail, true) else none
  | w => (xferOf s w).map fun x => (x.addr, x.write)

/-- What waits faults (R319, R322, R400). -/
def waiterFails (s : State) (f : HostFault) : Waiter → State
  | .stream n => parkStream s n (nextAddr s n) f
  | .ring q => ringFails s q
  | .post q => postFails s q
  | w => match xferOf s w with
    | some x => xferFails s x f
    | none => s

/-- What waited goes on: a stream as its state has it, anything else when its turn comes. -/
def waiterResumes (s : State) : Waiter → State
  | .stream n => resumeStream s n
  | _ => s

/-- A walk or ATS request ends with a fault (R398, R399): what waits for it and `hit` takes faults; the rest goes on. -/
def walkFails (s : State) (ctx : Nat) (w : WalkRun) (f : HostFault) (hit : Waiter → Bool) : State :=
  let s := hostFaulted (s.setWalk ctx none) ctx w.va f
  w.waiters.foldl (fun s x => if hit x then waiterFails s f x else waiterResumes s x) s

/-- Whether the unit of what waits lies in a walk's page. -/
def inPage (s : State) (w : WalkRun) (x : Waiter) : Bool :=
  match waitingUnit s x with
  | some u => u.1 / 4096 == w.va / 4096
  | none => false

/-- Whether what waits in a walk's page needs a permission that a leaf or a grant does not give (R398, R399). -/
def lacks (s : State) (w : WalkRun) (p : Page) (x : Waiter) : Bool :=
  inPage s w x && match waitingUnit s x with
    | some u => if u.2 then !p.w else !p.r
    | none => false

/-- A walk or ATS request ends with translations; a stale one brings none, and what waited misses again. -/
def walkEnds (s : State) (ctx : Nat) (w : WalkRun) (ps : List Page) : State :=
  let s := s.setWalk ctx none
  w.waiters.foldl waiterResumes (if w.stale then s else ps.foldl cachePage s)

/-- A non-leaf entry enters the walk cache, of 512 entries (R399, log 7). -/
def cacheWalk (s : State) (e : WalkEnt) : State :=
  let l := s.xlt.wcache ++ [e]
  { s with xlt := { s.xlt with wcache := if 512 < l.length then l.tail else l } }

/-- The fault of a page-table entry read at a level, if it has one (R398). -/
def entryFault (level e : Nat) : Option Nat :=
  let leaf := bit e 3
  let addr := fld e 12 40
  if !bit e 0 then some 1
  else if fld e 52 12 ≠ 0 ∨ (leaf ∧ level = 4) ∨ (!leaf ∧ level = 1) ∨ (leaf ∧ addr % 2 ^ (9 * (level - 1)) ≠ 0) then some 3
  else none

/-- WALK_READ_COMPLETION (R398). -/
def execWalkReadCompletion (ctx : Nat) (entry : HostEntry) (s : State) : Answer :=
  match s.walk ctx with
  | none => .next s
  | some w =>
    if w.level = 0 then .next s
    else match entry with
      | .fault f => done (walkFails s ctx w (match f with | .translation _ => .translation 5 | .media => .media) (inPage s w))
      | .entry e =>
        match entryFault w.level e with
        | some c => done (walkFails s ctx w (.translation c) (inPage s w))
        | none =>
          let addr := fld e 12 40 * 4096
          if bit e 3 then
            let size := 2 ^ (12 + 9 * (w.level - 1))
            let page : Page := ⟨ctx, w.va / size * size, size, addr, bit e 2, bit e 1, false⟩
            if w.waiters.any (lacks s w page) then done (walkFails s ctx w (.translation 2) (lacks s w page))
            else done (walkEnds s ctx w [page])
          else
            let w' : WalkRun := { w with level := w.level - 1, table := addr }
            let s := if w.stale then s else cacheWalk s ⟨ctx, w.level - 1, levelPre w.va (w.level - 1), addr⟩
            done ((s.setWalk ctx (some w')).emit (.walkRead (entryAddr w')))

/-- The translations that a grant brings (R399): one at its size where that is 4 KiB, 2 MiB or 1 GiB, else one of 4 KiB for each page, the one
asked for last. -/
def grantPages (ctx va : Nat) (g : AtsGrant) : List Page :=
  if g.size = 2 ^ 12 ∨ g.size = 2 ^ 21 ∨ g.size = 2 ^ 30 then [⟨ctx, va / g.size * g.size, g.size, g.pa, g.w, g.r, true⟩]
  else
    let base := va / g.size * g.size
    let one := fun (a : Nat) => (⟨ctx, a, 4096, g.pa + (a - base), g.w, g.r, true⟩ : Page)
    let mine := va / 4096 * 4096
    (((List.range (g.size / 4096)).map fun i => base + 4096 * i).filter (· != mine)).map one ++ [one mine]

/-- ATS_TRANSLATION_COMPLETION (R399): what is granted is cached; a denial faults, and sends one page request where PRI is enabled on both
sides. -/
def execAtsTranslationCompletion (ctx : Nat) (va : Nat) (res : Option AtsGrant) (s : State) : Answer :=
  match s.walk ctx with
  | none => .next s
  | some w =>
    if w.level ≠ 0 ∨ w.va / 4096 ≠ va / 4096 then .next s
    else match res with
      | some g =>
        let ps := grantPages ctx va g
        let page : Page := ps.getLastD ⟨ctx, va, 4096, g.pa, g.w, g.r, true⟩
        if w.waiters.any (lacks s w page) then done (deny s w (lacks s w page)) else done (walkEnds s ctx w ps)
      | none => done (deny s w (inPage s w))
where
  /-- The access is denied. -/
  deny (s : State) (w : WalkRun) (hit : Waiter → Bool) : State :=
    let page := w.va / 4096 * 4096
    let streams := w.waiters.filterMap fun x => match x with
      | .stream n => if hit x then some n else none
      | _ => none
    let s := walkFails s ctx w (.translation 6) hit
    if s.rd XLT.PRI_EN ctx = 1 ∧ s.hl.pri then
      let l := Bank.get (fun _ => []) s.xlt.pages ctx ++ [⟨page, streams⟩]
      let s := { s with xlt := { s.xlt with pages := Bank.set (fun _ => []) s.xlt.pages ctx l } }
      s.emit (prefixed s ctx (.pageRequest ctx page))
    else s

/-- PRI_RESPONSE (R368, R403): Success retries the streams that still wait; any other is a fault for them. With none left it is ignored. -/
def execPriResponse (ctx : Nat) (success : Bool) (s : State) : Answer :=
  match Bank.get (fun _ => []) s.xlt.pages ctx with
  | [] => .next s
  | r :: rest =>
    let s := { s with xlt := { s.xlt with pages := Bank.set (fun _ => []) s.xlt.pages ctx rest } }
    if r.streams.isEmpty then .next s
    else if success then done (r.streams.foldl retryStream s)
    else
      let s := xltFault s ctx r.va 7
      done (r.streams.foldl (fun s n => parkStream s n (nextAddr s n) (.translation 7)) s)

/-- ATS_INVALIDATION (R368, R399): every unit that used the translations has been issued whole already. -/
def execAtsInvalidation (ctx : Nat) (addr size : Nat) (s : State) : Answer :=
  let gone := fun (p : Page) => p.ats && p.ctx == ctx && decide (p.va < addr + size) && decide (addr < p.va + p.size)
  let s := staleWalk s ctx fun w => w.level == 0 && decide (w.va / 4096 * 4096 < addr + size) && decide (addr < w.va / 4096 * 4096 + 4096)
  let s := { s with xlt := { s.xlt with tlb := s.xlt.tlb.filter fun p => !gone p } }
  done (s.emit (.atsInvalidated ctx addr))

/-- The contexts whose requests go through a translation service (R368): those in ATS mode; with PASID, those bound to one. -/
def serviceCtx (s : State) (svc : Service) (ctx : Nat) : Bool :=
  s.rd XLT.MODE ctx == 2 && (svc != .pasid || s.rd XLT.PASID_EN ctx == 1)

/-- The transfers of a context that wait on a translation service fault (R368). -/
def serviceFaults (svc : Service) (s : State) (ctx : Nat) : State :=
  match svc with
  | .pri =>
    let rs := Bank.get (fun _ => []) s.xlt.pages ctx
    let s := { s with xlt := { s.xlt with pages := Bank.set (fun _ => []) s.xlt.pages ctx [] } }
    (rs.filter fun r => !r.streams.isEmpty).foldl (fun s r =>
      r.streams.foldl (fun s n => parkStream s n (nextAddr s n) (.translation 7)) (xltFault s ctx r.va 7)) s
  | _ =>
    if serviceCtx s svc ctx then
      match s.walk ctx with
      | some w => if w.level = 0 then walkFails s ctx w (.translation 6) (fun _ => true) else s
      | none => s
    else s

/-- A translation service is disabled by the host (R368): what it gave is invalid. -/
def disableService (s : State) (svc : Service) : State :=
  let s := match svc with
    | .ats => { s with hl := { s.hl with ats := false } }
    | .pri => { s with hl := { s.hl with pri := false } }
    | .pasid => { s with hl := { s.hl with pasid := false } }
  let gone := fun (p : Page) => p.ats && svc != .pri && serviceCtx s svc p.ctx
  let s := { s with xlt := { s.xlt with tlb := s.xlt.tlb.filter fun p => !gone p } }
  (List.range 64).foldl (serviceFaults svc) s

/-- TRANSLATION_SERVICE_DISABLE (R368). -/
def execTranslationServiceDisable (svc : Service) (s : State) : Answer := done (disableService s svc)

/-- The stream a command names in word 1. -/
def targetStream (p : Pkt) : Option Nat := targetInst p 9

/-- Whether a value is a power of two from 2 to 2^20 (R387). -/
def ringSize (n : Nat) : Bool := (List.range 20).any fun k => n == 2 ^ (k + 1)

/-- The quotas of ST_00 to ST_30 that are not IDLE, one stream left out (R391). -/
def quotaSum (s : State) (n : Nat) : Nat :=
  ((List.range 31).filter fun m => m != n && s.stmState m != 0).foldl (fun a m => a + s.rdN STM.QUOTA m) 0

/-- STM_CONFIG (R387, R391, R394, R401, R410, R425). -/
def execStmConfig (p : Pkt) (s : State) : Answer :=
  runCmd s p 0x0701
    { host := true
      used := [(1, allBits), (2, allBits), (3, allBits), (4, allBits), (5, allBits), (6, allBits), (7, allBits)] } <|
    match targetStream p with
    | none => refuse s St.BAD_ID
    | some n =>
      let st := s.stmState n
      let parked := st = 3 ∨ st = 5
      let quota := pw p 7
      if pw p 2 % 4096 ≠ 0 ∨ !ringSize (pw p 4) ∨ pw p 5 % 8 ≠ 0 ∨ (n = 31 ∧ quota ≠ 16) ∨ quota = 0 ∨ 4080 < quota ∨
          (parked ∧ quota ≠ s.rdN STM.QUOTA n) then refuse s St.BAD_VALUE
      else if stopped s .mem then refuse s St.ISLAND_STOPPED
      else if st = 2 ∨ st = 4 ∨ st = 6 then refuse s St.WRONG_STATE
      else if n ≠ 31 ∧ 4080 < quotaSum s n + quota then refuse s St.TABLE_FULL
      else
        let s := (s.put STM.RING_BASE n (pw64 p 2)).put STM.RING_BLOCKS n (pw p 4)
        let s := (s.put STM.WIDX_ADDR n (pw64 p 5)).put STM.QUOTA n quota
        let s := ((s.put STM.WR_IDX n 0).put STM.RD_IDX n 0).put STM.STATE n (if parked then 3 else 1)
        let node := match p.src with
          | .mesh d fid => some (d, fid)
          | _ => none
        let s := s.setStream n { s.stream n with dataDone := false, waiting := false, node := node }
        ok (s.put MSH.FWD_STREAMS 0 (setBit (s.rdN MSH.FWD_STREAMS) n node.isSome))

/-- A command retries a parked stream's write (R403): it completes now, or when the walk it needs ends. -/
def resolveStream (s : State) (p : Pkt) (n : Nat) : Res :=
  let t := s.stream n
  .later (retryStream (overtake (s.setStream n { t with retries := t.retries ++ [(p.src, pTag p)] }) n) n)

/-- STM_START (R394, R403): records are accepted from the next loop-cycle boundary. -/
def execStmStart (p : Pkt) (s : State) : Answer :=
  runCmd s p 0x0702 { used := [(1, allBits)] } <|
    match targetStream p with
    | none => refuse s St.BAD_ID
    | some n =>
      if stopped s .mem then refuse s St.ISLAND_STOPPED
      else if s.stmState n = 1 then ok ((s.setStream n { s.stream n with openAt := s.clock + 125 }).put STM.STATE n 2)
      else if s.stmState n = 3 then resolveStream s p n
      else refuse s St.WRONG_STATE

/-- STM_STOP (R394, R405, R410): it takes effect at the next loop-cycle boundary; BECALMED ends at once. -/
def execStmStop (p : Pkt) (s : State) : Answer :=
  runCmd s p 0x0703 { used := [(1, allBits), (2, 3)] } <|
    match targetStream p with
    | none => refuse s St.BAD_ID
    | some n =>
      let st := s.stmState n
      let release := bit (pw p 2) 1
      if stopped s .mem then refuse s St.ISLAND_STOPPED
      else if st = 1 then
        ok (if release then (s.put STM.STATE n 0).put STM.QUOTA n (if n = 31 then 16 else 0) else s)
      else if (st = 2 ∨ st = 3) ∧ (s.stream n).stop.isNone then
        .later (unbecalm (s.setStream n { s.stream n with
          stop := some { src := p.src, tag := pTag p, release, discard := bit (pw p 2) 0, due := true } }) n)
      else refuse s St.WRONG_STATE

/-- STM_FLUSH (R383, R405, R410). -/
def execStmFlush (p : Pkt) (s : State) : Answer :=
  runCmd s p 0x0704 { used := [(1, allBits)] } <|
    match targetStream p with
    | none => refuse s St.BAD_ID
    | some n =>
      let st := s.stmState n
      if stopped s .mem then refuse s St.ISLAND_STOPPED
      else if (s.stream n).open_.isNone then ok s [0xFFFFFFFF]
      else
        let seq := s.rdN STM.BLOCK_SEQ n
        let s := closeBlock s n 5
        if st = 3 ∨ st = 5 then .done St.SUCCESS_WARN [seq, 0, 0, 1] s
        else
          let t := s.stream n
          .later (flushCheck (s.setStream n { t with flushes := t.flushes ++ [(p.src, pTag p, seq)] }) n St.INTERRUPTED)

/-- STM_RESOLVE (R403). -/
def execStmResolve (p : Pkt) (s : State) : Answer :=
  runCmd s p 0x0705 { used := [(1, allBits)] } <|
    match targetStream p with
    | none => refuse s St.BAD_ID
    | some n =>
      if stopped s .mem then refuse s St.ISLAND_STOPPED
      else if s.stmState n = 3 ∨ s.stmState n = 6 then resolveStream s p n
      else refuse s St.WRONG_STATE

/-- XLT_INVALIDATE (R399, R410). -/
def execXltInvalidate (p : Pkt) (s : State) : Answer :=
  let range := bit (pw p 2) 0
  runCmd s p 0x0706
    { used := [(1, allBits), (2, 1)] ++ (if range then [(3, allBits), (4, allBits), (5, allBits)] else []) } <|
    match targetInst p 0x0A with
    | none => refuse s St.BAD_ID
    | some c =>
      if range ∧ (pw p 3 % 4096 ≠ 0 ∨ pw p 5 = 0 ∨ 1048576 < pw p 5) then refuse s St.BAD_VALUE
      else if stopped s .mem then refuse s St.ISLAND_STOPPED
      else ok (dropPages s c (if range then some (pw64 p 3, 4096 * pw p 5) else none))

/-- STREAM_RECORD_ARRIVE (R20, R379, R380): the record that has waited longest ahead of a group's crossing reaches MEM; with
no stream that carries the group it is discarded without count. -/
def execStreamRecordArrive (group : Nat) (s : State) : Answer :=
  let g := s.group group
  match g.fifo with
  | [] => .next s
  | h :: rest =>
    let s := s.setGroup group { g with fifo := rest }
    match carrier s group with
    | some n => done (place s n h)
    | none => done s

/-- BLOCK_AGE_EXPIRY (R383). -/
def execBlockAgeExpiry (st : Nat) (s : State) : Answer :=
  match (s.stream st).open_ with
  | some b =>
    if s.rd STM.MAX_AGE st ≠ 0 ∧ b.since + 1000 * s.rdN STM.MAX_AGE st ≤ s.clock then done (closeBlock s st 6) else .next s
  | none => .next s

/-- A new read index of a stream (R389). -/
def takeReadIndex (s : State) (n value : Nat) : State :=
  let rd := s.rdN STM.RD_IDX n
  let ahead := (value + 2 ^ 32 - rd) % 2 ^ 32
  if s.stmState n = 0 ∨ s.stmState n = 5 ∨ (s.rdN STM.WR_IDX n + 2 ^ 32 - rd) % 2 ^ 32 < ahead then record s 9 n 0x07
  else s.put STM.RD_IDX n value

/-- RD_IDX_DOORBELL (R389, R425): a forwarded stream ignores it. -/
def execRdIdxDoorbell (st value : Nat) (s : State) : Answer :=
  if 32 ≤ st ∨ (s.stream st).node.isSome ∨ !s.barOpen then .next s else done (takeReadIndex s st (value % 2 ^ 32))

/-- FWD_RD_IDX_POLL (R425): a forwarded stream reads its read index from host memory through the issuing node, every 10 µs while closed
blocks wait for ring space. -/
def execFwdRdIdxPoll (st value : Nat) (s : State) : Answer :=
  let t := s.stream st
  let full := s.rdN STM.RING_BLOCKS st ≤ (s.rdN STM.WR_IDX st + 2 ^ 32 - s.rdN STM.RD_IDX st) % 2 ^ 32
  let due := match t.polledAt with
    | some l => decide (l + 10000 ≤ s.clock)
    | none => true
  match t.node with
  | some d =>
    if st < 32 ∧ !t.blocks.isEmpty ∧ full ∧ due = true then
      let addr := s.rdN STM.WIDX_ADDR st + 8
      let s := (s.setStream st { t with polledAt := some s.clock }).frameTo d.1 2 [1, s.rdN MSH.NODE_ID, d.2, st + 1, lo32 addr, hi32 addr, 4]
      done (takeReadIndex s st (value % 2 ^ 32))
    else .next s
  | none => .next s

end Sys2Proof.Machine
end

