-- ==== Sys2Proof/Machine/Pins.lean ====
section
/-!
DEFINITION. The rows of pin electronics and comparators (R179 to R209): overloads, the pin PMU, the chips' converters, and
comparator inputs, filters and mode changes.
-/
namespace Sys2Proof.Machine

/-- The pin carries a driver or PMU that can overload: any pin not at high impedance. -/
def pinLive (s : State) (n : Nat) : Bool := n < 256 && !(s.pin n).hiz

/-- DRV_OVL (R183). In the cycle in which a reaction takes the driver off it is counted and logged all the same (R206). -/
def execDrvOvl (pin : Nat) (s : State) : Answer :=
  if pinLive s pin ∧ (s.pin pin).driving then done (record s 5 pin 0x01)
  else if pin < 256 ∧ (s.pin pin).faultAt = some s.clock then done (record s 5 pin 0x01)
  else .next s

/-- PIN_OVERVOLT (R183): whatever drives the pin. It ranks before a DRV_OVL of the same cycle (R206). -/
def execPinOvervolt (pin : Nat) (s : State) : Answer :=
  if pin < 256 then done (record s 5 pin 0x02) else .next s

/-- Write PMU_EN (R184, R206, R446, R565). -/
def writePmuEn (s : State) (n : Nat) (v : Int) : Wr :=
  if v < 0 ∨ 1 < v then .error St.BAD_VALUE
  else if stopped s (.seq (n / 128)) then .error St.ISLAND_STOPPED
  else if calPin s n ∨ (v = 1 ∧ shedding s) then .error St.WRONG_STATE
  else if s.rd PIN.PMU_EN n = v then .ok s
  else
    let s := s.put PIN.PMU_EN n v
    if s.pinState n = 4 then .ok s
    else
      let s := if v = 1 then enterPin s n 3 else s
      .ok (s.setPin n { s.pin n with switching := true, drive := 2, drove := false })

/-- PMU_EN_WRITE. -/
def execPmuEnWrite (pin : Nat) (value : Int) (s : State) : Answer :=
  if pin < 256 then written s (writePmuEn s pin value) else .next s

/-- PMU_SWITCH_DONE (R184): the PMU is connected, or the pin takes the state the sequencer gives it. -/
def execPmuSwitchDone (pin : Nat) (s : State) : Answer :=
  if (s.pin pin).switching then
    let s := s.setPin pin { s.pin pin with switching := false }
    done (if s.pinState pin = 4 then s else enterPin s pin (givenState s pin))
  else .next s

/-- Set a chip-level cause in all 64 pin instances (R207). -/
def chipCause (s : State) (chip code : Nat) : State := (chipPins chip).foldl (fun s n => record s 5 n code) s

/-- The pin whose instance holds a chip's parameters. -/
def chipHome (chip : Nat) : Nat := 64 * chip

/-- A conversion is requested (R190, R194, R206): discarded as an overrun while one runs; a channel pulse and ADC_GO of one
cycle ask for one conversion. -/
def requestConv (s : State) (chip : Nat) (byEvent : Bool) : State :=
  let a := s.conv chip
  let h := chipHome chip
  if a.st = 0 then
    s.setConv chip { a with
      st := 1, reqAt := s.clock, byEvent := byEvent, sel := s.rdN PIN.ADC_SEL h, tdac := s.rdN PIN.TDAC h
      dead := a.failNext, failNext := false }
  else if a.st = 1 ∧ a.reqAt = s.clock ∧ a.byEvent ≠ byEvent then s
  else chipCause ((if byEvent then consOverrun s (0x130 + chip) else s).bump PIN.ADC_OVERRUN h) chip 0x03

/-- Write ADC_GO (R190). -/
def writeAdcGo (s : State) (n : Nat) : Wr :=
  if stopped s (.seq (n / 128)) then .error St.ISLAND_STOPPED else .ok (requestConv s (n / 64) false)

/-- ADC_GO. -/
def execAdcGo (chip : Nat) (s : State) : Answer :=
  if chip < 4 then written s (writeAdcGo s (chipHome chip)) else .next s

/-- ADC_EV_REQUEST (R190): the pulse that the request input captured. -/
def execAdcEvRequest (chip : Nat) (s : State) : Answer :=
  let k := s.con (0x130 + chip)
  if chip < 4 ∧ k.capt.isSome then done (requestConv (s.setCon (0x130 + chip) { k with capt := none }) chip true)
  else .next s

/-- The pin a selection names (R189). -/
def selPin (chip sel : Nat) : Nat := 64 * chip + fld sel 0 6

/-- ADC_SAMPLE (R190, R191, R194): 20 µs after the request; `lim` says whether the selected pin's PMU is in its limit or
clamp. -/
def execAdcSample (chip : Nat) (lim : Bool) (s : State) : Answer :=
  let a := s.conv chip
  let n := selPin chip a.sel
  if chip < 4 ∧ a.st = 1 ∧ a.reqAt + 20000 ≤ s.clock then
    let pmu := s.pinState n == 3 && !(s.pin n).switching
    done (s.setConv chip { a with
      st := 2, sampAt := s.clock, lim := lim && pmu && !bit a.sel 7, irange := s.rdN PIN.PMU_IRANGE n
      acqOk := decide (1000 * s.rdN PIN.ACQ_TIME (chipHome chip) ≤ s.clock - a.selAt)
      noPmu := bit a.sel 6 && !bit a.sel 7 && !pmu })
  else .next s

/-- The value of a conversion before it saturates (R192, R193, R438). -/
def convValue (s : State) (chip : Nat) (a : Adc) (code : Int) : Int :=
  let n := selPin chip a.sel
  if bit a.sel 7 then (if chip < 3 then -32768 + 16 * (a.tdac : Int) else -16384 + 8 * (a.tdac : Int))
  else if a.noPmu then 0
  else if bit a.sel 6 then s.coef PIN.PMU_MI_GP PIN.PMU_MI_OP PIN.PMU_MI_KP n a.irange 15 code
  else s.coef PIN.PMU_MV_GP PIN.PMU_MV_OP PIN.PMU_MV_KP n 0 15 code

/-- ADC_RESULT (R190, R192). -/
def execAdcResult (chip : Nat) (code : Int) (s : State) : Answer :=
  let a := s.conv chip
  let h := chipHome chip
  if chip < 4 ∧ a.st = 2 ∧ !a.dead ∧ a.sampAt + 2000 ≤ s.clock then
    let v := convValue s chip a code
    let w := clampInt (-32767) 32767 v
    let clips := v ≠ w
    let word : Nat := b2n a.first * 2 ^ 31 + b2n a.acqOk * 2 ^ 30 + b2n a.lim * 2 ^ 29 + b2n clips * 2 ^ 28 + b2n a.noPmu * 2 ^ 27 +
      a.irange * 2 ^ 24 + a.sel * 2 ^ 16 + toField 16 w
    let s := (s.put PIN.ADC_RESULT h word).put PIN.ADC_TIME h (s.sysFine (a.sampAt * 65536) / 65536 : Nat)
    let s := if clips then clipped s else s
    done ((convEnds s chip).publish (s.rd PIN.ADC_DONE_EV h))
  else .next s

/-- ADC_FAULT (R194): 30 µs after the request without a result. -/
def execAdcFault (chip : Nat) (s : State) : Answer :=
  let a := s.conv chip
  if chip < 4 ∧ a.st ≠ 0 ∧ a.reqAt + 30000 ≤ s.clock then
    done (if a.dead then convEnds s chip else chipCause (convEnds s chip) chip 0x04)
  else .next s

/-- A selection change (R191): during a conversion it takes effect when that ends, but in the cycle of its request before it (R206). -/
def selChanged (s : State) (chip : Nat) : State :=
  let a := s.conv chip
  let h := chipHome chip
  s.setConv chip (
    if a.st = 0 then { a with selAt := s.clock, first := true }
    else if a.st = 1 ∧ a.reqAt = s.clock then
      { a with selAt := s.clock, first := true, sel := s.rdN PIN.ADC_SEL h, tdac := s.rdN PIN.TDAC h }
    else { a with selWaits := true })

/-- The channel and the window comparator that serve the clamp, where this one does and its quantity lies outside (R73). -/
def clampSees (s : State) (cmp : Cmp) (above : Bool) : Option (Nat × Nat) :=
  match cmp with
  | .window c k => if connected (s.chState c) && above != insideRaw k then some (c, k) else none
  | _ => none

/-- COMPARATOR_INPUT_CROSSING (R195, R196, R206): the input is seen above or below the threshold and its hysteresis. A window comparator of
a connected channel that sees its quantity outside engages the clamp (R73, R74). -/
def execComparatorInputCrossing (cmp : Cmp) (above : Bool) (s : State) : Answer :=
  let v := s.comp cmp
  if !cmpListed cmp ∨ (effMode s cmp = 3 ∧ !v.changing) then .next s
  else if v.changing then done (s.setComp cmp { v with waits := some above })
  else match clampSees s cmp above with
    | some (c, k) => done (windowOut s c k)
    | none => done (s.setComp cmp { v with raw := above, unresolved := false, resolve := none })

/-- Whether a comparator's edges go out (R196, R203): not while UNRESOLVED; of the window comparators only the voltage ones,
in OFF and STANDBY. -/
def cmpPublishes (s : State) (c : Cmp) : Bool :=
  !(s.comp c).unresolved &&
  match c with
  | .window ch k => k < 2 && s.chState ch ≤ 1
  | _ => true

/-- One edge of the filter clock (R200, R201). A comparator whose band a write has moved off its input resolves here (R196). -/
def filterEdge (s : State) (c : Cmp) : State :=
  let w := cmpCtl s c
  let v := resolved (s.comp c)
  let hist := (v.raw :: v.hist).take 9
  let agree := ((hist.take (ctlN w)).filter (· == v.raw)).length
  if v.filt ≠ v.raw ∧ ctlK w ≤ agree then
    let s := s.setComp c { v with hist := hist, filt := v.raw }
    let sel := fld w 13 2
    if cmpPublishes s c ∧ (sel = 3 ∨ (sel = 1 ∧ v.raw) ∨ (sel = 2 ∧ !v.raw)) then s.publish (fld w 7 6) else s
  else s.setComp c { v with hist := hist }
where
  /-- The comparator after the value that awaited this edge. -/
  resolved (v : CmpRun) : CmpRun :=
    match v.resolve with
    | some b => { v with raw := b, unresolved := false, resolve := none }
    | none => v

/-- Several edges of the filter clock. -/
def filterEdges (c : Cmp) : Nat → State → State
  | 0, s => s
  | n + 1, s => filterEdges c n (filterEdge s c)

/-- COMPARATOR_FILTER_ACCEPT (R200): the filter takes `edges` samples of the raw output. -/
def execComparatorFilterAccept (cmp : Cmp) (edges : Nat) (s : State) : Answer :=
  let v := s.comp cmp
  if cmpListed cmp ∧ !v.changing ∧ effMode s cmp ≠ 3 then done (filterEdges cmp edges s) else .next s

/-- COMPARATOR_MODE_CHANGE_DONE (R197, R206): the change completes first; then the input acts, on the clamp of a connected channel too
(R73). -/
def execComparatorModeChangeDone (cmp : Cmp) (s : State) : Answer :=
  let v := s.comp cmp
  if v.changing then
    let s := s.setComp cmp (changeEnds v)
    done (match v.waits.bind (clampSees s cmp) with
      | some (c, k) => windowOut s c k
      | none => s)
  else .next s

/-- Write a comparator's control word (R196, R197, R200, R202). -/
def writeCmpCtl (s : State) (c : Cmp) (put : Nat → State) (v : Nat) : Wr :=
  let w := v / 128 * 128
  if !ctlOk w then .error St.BAD_VALUE
  else
    let old := cmpCtl s c
    let m0 := effMode s c
    let s := put w
    let s := modeChanges m0 (effMode s c) s c
    let r := s.comp c
    let refill := fld old 15 10 ≠ fld w 15 10
    let r := if refill then { r with hist := fillHist r.filt } else r
    let r := if r.unresolved then { r with raw := ctlInit w, filt := ctlInit w, hist := fillHist (ctlInit w) } else r
    let s := s.setComp c r
    .ok (if ctlHyst old = ctlHyst w then s else bandChanges s c)

end Sys2Proof.Machine
end

