-- ==== Sys2Proof/Machine/SeqPlay.lean ====
section
/-!
DEFINITION. One vector of a sequencer (R211 to R250): where play goes next, granules and underruns, the edges of the
vector, its compares, markers and capture.
-/
namespace Sys2Proof.Machine

/-- Vectors of a pass (R236). -/
def passLen (q : Seq) : Nat := 64 * segLen q.entry

/-- What the flow gives after the pass in hand (R236): none at END. -/
def naturalNext (s : State) (d : Nat) : Option (Nat × Nat) :=
  flowNext (s.sequencer d).entry (s.rdN SEQ.CUR_SEG d) (s.rdN SEQ.CUR_PASS d)

/-- A pass begins (R216, R229, R238): its entry is the one read when the pass before began; its map is taken at the segment's start, or
where the entry now names another. -/
def enterPass (s : State) (d seg pass : Nat) : State :=
  let q := s.sequencer d
  let e := q.segView seg
  let map := if pass = 1 ∨ q.fresh ∨ seg ≠ s.rdN SEQ.CUR_SEG d ∨ segMap e ≠ segMap q.entry then Bank.get (fun _ => 0) q.maps (segMap e) else q.map
  let s := s.setSequencer d { q with
    entry := e, map := map, oldSegs := [], idx := some 0, fresh := false, latched := [], failed := false
    due := q.carry.map fun r => { r with carried := true }, carry := [] }
  (s.put SEQ.CUR_SEG d seg).put SEQ.CUR_PASS d pass

/-- The jump that is due at a pass end (R239): a carried one overrides one of the pass itself. -/
def dueJump (q : Seq) : Option Nat :=
  let jumps := q.due.filter fun r => r.kind == .jump
  match jumps.find? Captured.carried with
  | some r => some r.target
  | none => (jumps.head?).map Captured.target

/-- A jump that a carried one overrides is discarded (R239). -/
def dropJump (s : State) (d : Nat) : State :=
  let jumps := (s.sequencer d).due.filter fun r => r.kind == .jump
  if (jumps.any Captured.carried) && jumps.any (fun r => !r.carried) then record (s.bump SEQ.JUMP_DROP d) 6 d 0x0A else s

/-- The READY slot that pre-empts (R244). -/
def seqPreemptor (s : State) (d : Nat) : Option Nat :=
  let run := s.seqRun d
  let fits := fun (k : Nat) => s.seqSlotState d k == 3 && ((s.sequencer d).pinnedAt (s.rdN SEQ.START_SEG d k)).isSome &&
    (7 ≤ run || s.rdN SEQ.PRIORITY d k < s.rdN SEQ.PRIORITY d run)
  ((List.range 4).filter fits).foldl (fun b k => match b with
    | some j => if s.rdN SEQ.PRIORITY d k < s.rdN SEQ.PRIORITY d j then some k else some j
    | none => some k) none

/-- HELD is entered (R240): the pins park, and play will go on where the flow goes next. Other requests carried into the next pass, or not
yet captured, wait with it (R238), and EV_FAIL of the pass that ends is still to come (R248). -/
def enterHeld (s : State) (d : Nat) (next : Nat × Nat) : State :=
  let q := s.sequencer d
  let s := stopCommits (parkPins s d (segPark q.entry)) d
  let s := s.setSequencer d { (s.sequencer d).quiet with
    holds := q.holds, target := next, entry := q.entry, failIn := q.failIn
    carry := q.carry.filter fun r => r.kind != .hold
    asks := q.asks.filter fun a => a.kind != .hold }
  let s := s.put SEQ.PARK_CYCLE d (max 0 (s.rd SEQ.CYCLE d - 1))
  let s := (s.put SEQ.STATE d 5).setSeqSlot d (s.seqRun d) 6
  q.holds.foldl (fun s w => holdHit s d w) s

/-- A pre-emption (R239, R244): the running slot keeps its resume point, and the other plays on from the next vector. -/
def seqPreempt (s : State) (d k : Nat) (next : Nat × Nat) : State :=
  let run := s.seqRun d
  let q := s.sequencer d
  let s := s.setSequencer d { q with resume := Bank.set (fun _ => none) q.resume run (some next) }
  let s := if run < 4 then s.setSeqSlot d run 5 else s
  let s := (s.setSeqSlot d k 4).put SEQ.RUN_SLOT d k
  enterPass s d (s.rdN SEQ.START_SEG d k) 1

/-- A pass has ended (R236 to R239): the first of stop, hold, pre-emption, jump acts; else the flow goes on. -/
def passEnd (s : State) (d : Nat) : State :=
  let s := dropJump s d
  let q := s.sequencer d
  let has := fun (k : ReqKind) => q.due.any fun r => r.kind == k
  let onward := (naturalNext s d).getD (segNext q.entry, 1)
  let jump := (dueJump q).map fun t => (t, 1)
  if has .stop then endProgram s d 2
  else if has .hold then enterHeld s d onward
  else match (if has .preempt then seqPreemptor s d else none), jump, naturalNext s d with
    | some k, j, _ => seqPreempt s d k (j.getD onward)
    | none, some j, _ => enterPass s d j.1 j.2
    | none, none, some n => enterPass s d n.1 n.2
    | none, none, none => endProgram s d 1

/-- Whether a number is the lead that acts at its own pass's end (R238). -/
def leads (len c : Nat) : Bool := c + 33 ≤ len

/-- Latch a captured request (R237, R238): of each kind the first in a pass. -/
def capture (q : Seq) (k : ReqKind) (c : Nat) : Seq :=
  if q.latched.contains k then q
  else
    let r : Captured := ⟨k, segTarget q.entry, false⟩
    let q := { q with latched := q.latched ++ [k] }
    if leads (passLen q) c then { q with due := q.due ++ [r] } else { q with carry := q.carry ++ [r] }

/-- One request whose capture vector this is (R237): a jump is captured only where the segment has its JCOND, and for EVENT its JEV. -/
def captureAsk (c : Nat) (q : Seq) (a : Ask) : Seq :=
  if a.kind = .jump ∧ (segJcond q.entry ≠ a.jcond ∨ (a.jcond = 1 ∧ segJev q.entry ≠ a.ch)) then q else capture q a.kind c

/-- A pulse on a channel as a jump request of JCOND EVENT. -/
def jevAsk (e : Nat × Nat) : Ask := { kind := .jump, at_ := e.2, jcond := 1, ch := e.1 }

/-- The requests that this vector captures: those that arrived at least 8 ns before its start (R237). -/
def captureAsks (s : State) (d : Nat) : State :=
  let q := s.sequencer d
  let asks := q.asks ++ q.jevs.map jevAsk
  let ripe := fun (a : Ask) => decide (a.at_ + 8 * 65536 ≤ vectorTime s d)
  let c := q.idx.getD 0
  s.setSequencer d ((asks.filter ripe).foldl (captureAsk c) { q with asks := asks.filter fun a => !ripe a, jevs := [] })

/-- What lies ahead of a vector: it plays, or the domain parks or pads (R233, R235). -/
inductive Ahead where
  | plays
  | missing
  | vecEcc
  | cacheEcc
deriving DecidableEq, Repr

/-- What the vector to be issued finds (R233, R235). -/
def lookAhead (s : State) (d : Nat) : Ahead :=
  let q := s.sequencer d
  let i := q.idx.getD 0
  if segLen q.entry = 0 then .missing
  else match q.pinnedAt (s.rdN SEQ.CUR_SEG d) with
    | some p => if q.pinBad.contains (64 * p.base + i) then .cacheEcc else .plays
    | none =>
      if i % 64 ≠ 0 then .plays
      else match q.ring.find? fun r => r.gran == segStart q.entry + i / 64 with
        | none => .missing
        | some r => if r.bad then .vecEcc else .plays

/-- The vector word to be issued. -/
def vectorWord (s : State) (d : Nat) : VecWord :=
  let q := s.sequencer d
  let i := q.idx.getD 0
  match q.pinnedAt (s.rdN SEQ.CUR_SEG d) with
  | some p => Bank.get (fun _ => ⟨0, 0⟩) q.pinVecs (64 * p.base + i)
  | none =>
    match q.ring.find? fun r => r.gran == segStart q.entry + i / 64 with
    | some r => r.vecs.getD (i % 64) ⟨0, 0⟩
    | none => ⟨0, 0⟩

/-- Whether an edge of a pin record is enabled: 0 D_ON, 1 D_DATA, 2 D_RET, 3 D_OFF, 4 C_OPEN, 5 C_CLOSE (R220). -/
def PinTs.on (r : PinTs) (e : Nat) : Bool := bit r.en e

/-- The code a drive pin acts on (R212 to R214): KEEP repeats the last drive data, Z where there is none. -/
def driveCode (p : PinRun) (code : Nat) (hsIdle : Bool) : Nat :=
  if code = 2 ∨ hsIdle then (p.last.map b2n).getD 3 else code

/-- What a vector makes of a drive pin (R221): the driver is on in it where it was on before, or D_DATA drives. -/
def drivePin (p : PinRun) (r : PinTs) (code : Nat) : PinRun :=
  let p := { p with drove := p.drive != 2 || (code != 3 && r.on 1) }
  if code = 3 then (if r.on 3 || r.on 1 then { p with drive := 2 } else p)
  else if !r.on 1 then p
  else
    { p with last := some (code == 1)
             drive := if r.on 3 then 2 else if r.fmt = 1 then 0 else if r.fmt = 2 then 1 else code }

/-- The edges a vector places on a pin (R221, R222), by their numbers in the pin record. -/
def pinEdges (p : PinRun) (r : PinTs) (compare : Bool) (code : Nat) : List Nat :=
  if compare then (if r.on 4 && code != 2 then 4 :: (if r.on 5 then [5] else []) else [])
  else if code = 3 then (if r.on 3 then [3] else if r.on 1 then [1] else [])
  else if !r.on 1 then []
  else (if p.drive = 2 ∧ r.on 0 then [0] else []) ++ [1] ++ (if r.fmt ≠ 0 then [2] else []) ++ (if r.on 3 then [3] else [])

/-- Whether a high-swing pin sits a vector out (R212). -/
def hsIdle (s : State) (d p : Nat) : Bool :=
  d == 1 && 64 ≤ p && s.rdN SEQ.CYCLE 1 % s.rdN SEQ.HS_DIV 1 != 0

/-- Whether SEQ_CAPTURE is armed on a domain (R533, R536): its pins stay at high impedance, and what they would drive is kept. -/
def capturing (s : State) (d : Nat) : Bool := s.tst.armed.contains (0x06000000 + 0x1000 * d, 1)

/-- Whether PIN_DRIVER is armed on a domain (R533, R537): every pin drives its own node, and its own comparators read it. -/
def selfDriving (s : State) (d : Nat) : Bool := s.tst.armed.contains (0x06000000 + 0x1000 * d, 2)

/-- One pin of a vector: its drive, and the edges it is given, in steps from the run's first vector, deskewed (R224). -/
def playPin (d map data : Nat) (t : Ts) (a : State × List (Nat × Nat × Int)) (p : Nat) : State × List (Nat × Nat × Int) :=
  let s := a.1
  let n := 128 * d + p
  if 3 ≤ s.pinState n ∨ (s.pin n).hiz ∨ (s.pin n).held then a
  else
    let idle := hsIdle s d p
    let own := selfDriving s d
    let compare := bit map p && !own
    let pin := s.pin n
    let r := t.pin p
    let code := if compare then (if idle then 2 else fld data (2 * p) 2) else driveCode pin (fld data (2 * p) 2) idle
    let skew := fun (e : Nat) => if 4 ≤ e then s.rd PIN.DSK_CMP_P n else s.rd PIN.DSK_DRV_P n
    let start : Int := (s.sequencer d).steps
    let strobes := if own && !idle then pinEdges pin r true (fld data (2 * p) 2) else []
    let edges := (pinEdges pin r compare code ++ strobes).map fun e => (p, e, start + (r.edges.getD e 0 : Int) + skew e)
    let s := s.setPin n (if compare then { pin with drive := 2, drove := false } else drivePin pin r code)
    (s.put PIN.STATE n 1, if capturing s d then a.2 else a.2 ++ edges)

/-- Whether a compare code is met by raw outputs (R199). -/
def codeMet (code : Nat) (high low : Bool) : Bool :=
  match code with
  | 0 => !low
  | 1 => high
  | 3 => low && !high
  | _ => true

/-- The logical drive state of a domain pin at its D_DATA in a vector (R536): 0 low, 1 high, 2 off. -/
def logicalDrive (s : State) (d map data : Nat) (t : Ts) (p : Nat) : Nat :=
  let pin := s.pin (128 * d + p)
  let code := fld data (2 * p) 2
  if (bit map p && !selfDriving s d) ∨ code = 3 then 2
  else if (t.pin p).on 1 then (pin.last.map b2n).getD 2 else pin.drive

/-- What the compare logic receives while SEQ_CAPTURE is armed (R536): the drive state of the pin's partner. -/
def partnerSeen (s : State) (d map data : Nat) (t : Ts) : List PinSeen :=
  (List.range 128).map fun p =>
    let v := logicalDrive s d map data t (if p % 2 = 0 then p + 1 else p - 1)
    ⟨128 * d + p, v == 1, v != 0⟩

/-- What the comparators of an unloaded pin read of the level it drives (R537): its thresholds are in steps of 16 codes of its levels
(R179, R180, R195). -/
def ownSeen (s : State) (n : Nat) (high : Bool) : PinSeen :=
  let level := s.rd (if high then PIN.VIH else PIN.VIL) n
  ⟨n, decide (16 * s.rd PIN.VOH n < level), decide (16 * s.rd PIN.VOL n < level)⟩

/-- What the comparators show while PIN_DRIVER is armed (R537): what the event brings of the pins it names, else the level each drives. -/
def selfSeen (s : State) (d map data : Nat) (t : Ts) (seen : List PinSeen) : List PinSeen :=
  seen ++ (List.range 128).filterMap fun p =>
    let v := logicalDrive s d map data t p
    if v = 2 ∨ seen.any (fun e => e.pin == 128 * d + p) then none else some (ownSeen s (128 * d + p) (v == 1))

/-- What a pin's comparators showed at its strobe or through its window: what the event brings, else their raw outputs. -/
def shown (s : State) (seen : List PinSeen) (n : Nat) : List (Bool × Bool) :=
  match seen.filter fun e => e.pin == n with
  | [] => [((s.comp (.pin n true)).raw, (s.comp (.pin n false)).raw)]
  | l => l.map fun e => (e.high, e.low)

/-- The code a pin's compare is to meet: in PIN_DRIVER the level it drives (R537), X where it drives none. -/
def expects (s : State) (d map data : Nat) (t : Ts) (p : Nat) : Nat :=
  if selfDriving s d then logicalDrive s d map data t p else fld data (2 * p) 2

/-- Whether a domain pin compares in a run: those its map names, in PIN_DRIVER every one (R537). -/
def compares (s : State) (d map p : Nat) : Bool := (bit map p || selfDriving s d) && s.pinState (128 * d + p) == 1

/-- The domain pins that are compared in a vector. -/
def comparedPins (s : State) (d map data : Nat) (t : Ts) : List Nat :=
  (List.range 128).filter fun p =>
    compares s d map p && (t.pin p).on 4 && fld data (2 * p) 2 != 2 && expects s d map data t p != 2 && !hsIdle s d p

/-- The compare pins of a vector with a strobe, whatever they expect, and whatever state they are in (R206, R249). -/
def strobedPins (s : State) (d map : Nat) (t : Ts) : List Nat :=
  (List.range 128).filter fun p => (bit map p || selfDriving s d) && (t.pin p).on 4

/-- The domain pins that fail in a vector (R222, R248). -/
def failingPins (s : State) (d map : Nat) (w : VecWord) (t : Ts) (seen : List PinSeen) : List Nat :=
  let mask := s.rdN SEQ.FMASK d (fld w.tag 9 4)
  (comparedPins s d map w.data t).filter fun p =>
    !bit mask p && (shown s seen (128 * d + p)).any fun e => !codeMet (expects s d map w.data t p) e.1 e.2

/-- A mask of pins as four words. -/
def mapWords (ps : List Nat) : List Nat :=
  (List.range 4).map fun i => (ps.filter fun p => p / 32 == i).foldl (fun w p => w + 2 ^ (p % 32)) 0

/-- Records a capture area holds (R249). -/
def capRecords : Nat := 8388608

/-- A capture record reaches the FIFO at its vector's start (R250), which drains one record each 20 ns. A full FIFO sets the cause also
where an injection had the record lost (R251). -/
def putCapture (s : State) (d : Nat) (words : Bool → List Nat) : State :=
  let q := s.sequencer d
  let t := vectorTime s d
  let drained := min q.capLevel ((t - q.capAt) / (20 * 65536))
  let level := q.capLevel - drained
  let q := { q with capLevel := level, capAt := if level = 0 then t else q.capAt + 20 * 65536 * drained }
  if q.loseNext ∨ level = 4096 then
    let s := s.setSequencer d { q with loseNext := false, capLostBefore := true }
    let s := s.bump SEQ.CAP_LOST d
    if level = 4096 then record s 6 d 0x06 else s
  else if s.rd SEQ.CAP_FULL d = 1 ∧ capRecords ≤ q.capPos then
    (s.setSequencer d { q with capLostBefore := true }).bump SEQ.CAP_LOST d
  else
    let rec_ := words q.capLostBefore ++ [s.rdN SEQ.CAP_NEXT d]
    let s := s.setSequencer d { q with
      capLevel := level + 1, capLostBefore := false, capPos := q.capPos + 1
      cap := Bank.set (fun _ => []) q.cap (q.capPos % capRecords) rec_
      badCaps := q.badCaps.filter (· != q.capPos % capRecords) }
    s.tally SEQ.CAP_NEXT d

/-- The capture record of a vector (R249), without its last word. -/
def captureWords (s : State) (d : Nat) (w : VecWord) (fails highs : List Nat) (forced lost : Bool) : List Nat :=
  let q := s.sequencer d
  let cyc := s.rdN SEQ.CYCLE d
  let time := s.sysFine (vectorTime s d) / 65536
  [lo32 cyc, hi32 cyc, fld w.tag 0 5 * 2 ^ 27 + (64 * segStart q.entry + q.idx.getD 0) % 2 ^ 27,
    s.rdN SEQ.CUR_PASS d % 2 ^ 18 * 2 ^ 14 + s.rdN SEQ.CUR_SEG d] ++ mapWords fails ++ mapWords highs ++
  [lo32 time, hi32 time, b2n lost * 2 ^ 15 + b2n forced * 2 ^ 14 + fld w.tag 9 4 * 2 ^ 8 + fld w.tag 5 4 * 2 ^ 4]

/-- What the compare logic receives: from the pins, or as an armed loopback has it (R536, R537). -/
def seenBy (s : State) (d map data : Nat) (t : Ts) (seen : List PinSeen) : List PinSeen :=
  if capturing s d then partnerSeen s d map data t
  else if selfDriving s d then selfSeen s d map data t seen
  else seen

/-- The compares of a vector: counts, EV_FAIL 16 vectors after the first fail of a pass, a FAIL jump, capture (R248,
R249). -/
def compareVector (s : State) (d map : Nat) (w : VecWord) (t : Ts) (seen : List PinSeen) : State :=
  let fails := failingPins s d map w t seen
  let highs := (strobedPins s d map t).filter fun p => ((shown s seen (128 * d + p)).head?.map Prod.fst).getD false
  let s := fails.foldl (fun s p => s.bump SEQ.PIN_FAILS d p) s
  let s :=
    if fails.isEmpty then s
    else
      let s := s.bump SEQ.FAIL_COUNT d
      let q := s.sequencer d
      let q := if q.failed then q else { q with failed := true, failIn := q.failIn ++ [16] }
      s.setSequencer d (if segJcond q.entry = 2 then capture q .jump (q.idx.getD 0 + 16) else q)
  let cap := fld w.tag 13 2
  if s.rd SEQ.CAP_MODE d = 1 ∧ (cap = 1 ∨ (!fails.isEmpty ∧ (cap = 0 ∨ cap = 3))) then
    putCapture s d (captureWords s d w fails highs (cap == 1))
  else s

/-- EV_FAIL counts vectors (R248), for each pass that failed. -/
def failClock (s : State) (d : Nat) : State :=
  let q := s.sequencer d
  let s' := s.setSequencer d { q with failIn := (q.failIn.filter fun n => n != 1).map fun n => n - 1 }
  (q.failIn.filter fun n => n == 1).foldl (fun s _ => s.publish (s.rd SEQ.EV_FAIL d)) s'

/-- The clock time of a number of steps from the run's first vector, in 2^-16 ns. -/
def stepTime (s : State) (d : Nat) (n : Int) : Nat :=
  if n < 0 then (s.sequencer d).t0 - stepsFine s n.natAbs else (s.sequencer d).t0 + stepsFine s n.toNat

/-- The markers of a vector: their edges (R224, R246), numbered 128 + m, and the pulses on MARK_EV, which follow the rising edges (R247). -/
def markVector (s : State) (d : Nat) (w : VecWord) (t : Ts) : State × List (Nat × Nat × Int) :=
  let start : Int := (s.sequencer d).steps
  let ms := (List.range 4).filter fun m => bit w.tag (5 + m)
  let edges := ms.flatMap fun m =>
    let skew := s.rd SEQ.MK_DSK_P d m
    [(128 + m, 6, start + (t.rise.getD m 0 : Int) + skew), (128 + m, 7, start + (t.fall.getD m 0 : Int) + skew)]
  let rise := fun (s : State) (m : Nat) => stepTime s d (start + (t.rise.getD m 0 : Int) + s.rd SEQ.MK_DSK_P d m)
  (ms.foldl (fun s m => s.publish (s.rd SEQ.MARK_EV d m) (some (rise s m + markLag d m)) (some (4 * d + m))) s, edges)

/-- A vector is issued (R211): pad vectors drive, and do nothing else (R234). -/
def issueVector (s : State) (d map : Nat) (w : VecWord) (pad : Bool) (seen : List PinSeen) : State :=
  let t := (s.sequencer d).ts (fld w.tag 0 5)
  let a := (List.range 128).foldl (playPin d map w.data t) (s, [])
  let s := a.1
  let m := if pad then (s, []) else markVector s d w t
  let s := m.1.emit (.vector d (a.2 ++ m.2))
  let s := if pad then s.tally SEQ.PAD_VECTORS d else 
    compareVector (failClock s d) d map w t (seenBy s d map w.data t seen)
  let s := s.setSequencer d { s.sequencer d with period := t.period, pinsAs := 1 }
  s.tally SEQ.CYCLE d

/-- A pad vector (R233 to R235, R254): the pad segment's map is taken where a pad pass starts; an uncorrectable word of the pin area parks
the pins, and a pad segment that is not pinned has the STOP policy apply. -/
def padVector (s : State) (d i : Nat) : State :=
  let q := s.sequencer d
  match q.pinnedAt (s.rdN SEQ.PAD_SEG d) with
  | none => record (parkSeq s d 3) 6 d 0x03
  | some p =>
    if q.pinBad.contains (64 * p.base + i) then record (parkSeq s d 7) 6 d 0x05
    else
      let e := q.segView (s.rdN SEQ.PAD_SEG d)
      let map := if i = 0 then Bank.get (fun _ => 0) q.maps (segMap e) else q.padMap
      let s := captureAsks (s.setSequencer d { q with padIdx := i, padSeg := s.rdN SEQ.PAD_SEG d, padMap := map }) d
      issueVector s d map (Bank.get (fun _ => ⟨0, 0⟩) q.pinVecs (64 * p.base + i)) true []

/-- The next vector is issued, or its granule is missing, or its data bad (R233, R235). -/
def issueNext (s : State) (d : Nat) (seen : List PinSeen) : State :=
  match lookAhead s d with
  | .plays =>
    let s := captureAsks s d
    issueVector s d (s.sequencer d).map (vectorWord s d) false seen
  | .vecEcc => record (parkSeq s d 7) 6 d 0x04
  | .cacheEcc => record (parkSeq s d 7) 6 d 0x05
  | .missing =>
    let q := s.sequencer d
    if !segPad q.entry ∨ segLen q.entry = 0 then record (parkSeq s d 3) 6 d 0x01
    else if (q.pinnedAt (s.rdN SEQ.PAD_SEG d)).isNone then record (parkSeq s d 3) 6 d 0x03
    else padVector (record (s.put SEQ.STATE d 4) 6 d 0x02) d 0

/-- The start of a run, or of play after a pause: what a run begins with (R214, R241), the gap it ends (R245), and pins that a reaction has
parked (R184). -/
def beginPlay (s : State) (d : Nat) : State :=
  let q := s.sequencer d
  let s := if q.newRun then (s.put SEQ.CYCLE d 0).put SEQ.PAD_VECTORS d 0 else s
  let s := (domPins d).foldl (fun s n =>
    s.setPin n { s.pin n with held := false, last := if q.newRun then none else (s.pin n).last }) s
  let s := match q.gapFrom with
    | some g => s.put SEQ.RESUME_GAP d ((vectorTime s d - g) / 65536 : Nat)
    | none => s
  let s := s.setSequencer d { s.sequencer d with newRun := false, gapFrom := none }
  enterPass s d q.target.1 q.target.2

/-- The time of this vector's start: the previous start plus its period (R211), or for a first vector the time fixed for it (R241). -/
def vectorClock (s : State) (d : Nat) : State :=
  let q := s.sequencer d
  s.setSequencer d (if q.period = 0 then { q with t0 := q.startAt.getD s.clockFine, steps := 0, startAt := none }
    else { q with steps := q.steps + q.period })

/-- The commits whose boundary a vector start at a clock time is are applied, in order (R225, R226). -/
def applyCommits (s : State) (d t : Nat) : State :=
  let q := s.sequencer d
  let s := s.setSequencer d { q with commits := q.commits.filter fun c => t < c.1 }
  ((q.commits.filter fun c => c.1 ≤ t).map Prod.snd).foldl (commitSets d) s

/-- The built-in PIN_DRIVER run of a domain (R537). -/
def driverRun (s : State) (d : Nat) : Option LoopRun :=
  s.tst.runs.find? fun r => r.target == 0x06000000 + 0x1000 * d && r.depth == 2

/-- Vectors of the built-in PIN_DRIVER run (R537). -/
def driverVectors : Nat := 4096

/-- The temporary levels of a pin in the built-in PIN_DRIVER run (R537), as codes (R179, R180, R195): SLEW is a high-swing pin's. -/
def driverLevels (n : Nat) : List (Prm × Int) :=
  if 192 ≤ n then [(PIN.VIH, 49152), (PIN.VIL, 16384), (PIN.VOH, 2560), (PIN.VOL, 1536), (PIN.SLEW, 100), (PIN.Z_MODE, 0)]
  else [(PIN.VIH, 36864), (PIN.VIL, 12288), (PIN.VOH, 1792), (PIN.VOL, 1280), (PIN.Z_MODE, 0)]

/-- The parameters that a PIN_DRIVER run changes, as they stand (R534). -/
def driverSaved (s : State) (d : Nat) : List (Nat × Int) :=
  (domPins d).flatMap fun n => (driverLevels n).map fun e => (e.1.id n 0, s.rd e.1 n)

/-- The levels of a domain's pins have changed: their codes follow (R438), and the bands of the comparators are formed anew (R196). -/
def domBands (s : State) (d : Nat) : State := (domPins d).foldl (fun s n => (pinCmps n).foldl bandChanges (pinCodes s n)) s

/-- The drivers of a domain's pins go on or off, whatever their data. -/
def driversOn (s : State) (d : Nat) (on : Bool) : State :=
  (domPins d).foldl (fun s n => s.setPin n { s.pin n with drove := on && !(s.pin n).hiz }) s

/-- A PIN_DRIVER run sets its levels (R196, R537). -/
def driverBegins (s : State) (d : Nat) : State :=
  domBands ((domPins d).foldl (fun s n => (driverLevels n).foldl (fun s e => s.put e.1 n e.2) s) s) d

/-- What a run changed stands as before it (R534, R542): the levels of a PIN_DRIVER run, whose drivers go off again. -/
def restoreRun (s : State) (r : LoopRun) : State :=
  let s := r.saved.foldl (fun s e => s.putId e.1 e.2) s
  if r.depth = 2 then driversOn (domBands s (r.target / 0x1000 % 2)) (r.target / 0x1000 % 2) false else s

/-- CMP_STATE of a pin with the raw outputs that its strobe found (R208, R537). -/
def strobeState (s : State) (n : Nat) (e : Bool × Bool) : Nat :=
  16 * (cmpNibble s (.pin n true) / 2 * 2 + b2n e.1) + (cmpNibble s (.pin n false) / 2 * 2 + b2n e.2)

/-- One vector of the built-in PIN_DRIVER run (R537): 100 ns, which are 40,960 steps; each pin's data at step 0 and its strobe at 60 ns,
deskewed (R224). A pin fails when its strobe misses the level it drives. -/
def driverVector (s : State) (d : Nat) (r : LoopRun) (seen : List PinSeen) : State :=
  let start : Int := 40960 * r.played
  let data := Config.driverPattern r.played
  let s := driversOn s d true
  let edges := (List.range 128).flatMap fun p =>
    [(p, 1, start + s.rd PIN.DSK_DRV_P (128 * d + p)), (p, 4, start + 24576 + s.rd PIN.DSK_CMP_P (128 * d + p))]
  let all := seen ++ (List.range 128).filterMap fun p =>
    if seen.any (fun e => e.pin == 128 * d + p) then none else some (ownSeen s (128 * d + p) (data p))
  let missed := (List.range 128).filterMap fun p =>
    ((shown s all (128 * d + p)).find? fun e => if data p then !e.1 else e.2).map fun e => (p, strobeState s (128 * d + p) e)
  let r' := { r with
    played := r.played + 1, errors := r.errors + missed.length
    fail := if r.fail.isSome then r.fail else missed.head? }
  { s with tst := { s.tst with runs := s.tst.runs.map fun x => if x = r then r' else x } }.emit (.vector d edges)

/-- VECTOR_START (R211, R225, R233, R236, R253, R537): what comparators show at compare edges and over compare windows. A PAD_SEG written
while PADDING starts its own pad pass with the next vector (log 221). In an IDLE domain it is a vector of a built-in PIN_DRIVER run. -/
def execVectorStart (dom : Nat) (edge window : List PinSeen) (s : State) : Answer :=
  let seen := edge ++ window
  let st := s.seqState dom
  let q := s.sequencer dom
  if 2 ≤ dom ∨ (st ≠ 3 ∧ st ≠ 4) then
    match driverRun s dom with
    | some r => done (if r.played < driverVectors then driverVector s dom r seen else s)
    | none => .next s
  else
    let s := vectorClock s dom
    let s := applyCommits s dom (vectorTime s dom)
    if st = 4 then
      let len := ((q.pinnedAt (s.rdN SEQ.PAD_SEG dom)).map PinSeg.len).getD 0 * 64
      if q.padSeg ≠ s.rdN SEQ.PAD_SEG dom then done (padVector s dom 0)
      else if q.padIdx + 1 < len then done (padVector s dom (q.padIdx + 1))
      else if ringReady s dom (s.rdN SEQ.PAD_RESUME dom) then done (issueNext (s.put SEQ.STATE dom 3) dom seen)
      else done (padVector s dom 0)
    else
      let s :=
        if q.fresh then beginPlay s dom
        else if q.idx.getD 0 + 1 < passLen q then
          s.setSequencer dom { s.sequencer dom with idx := some (q.idx.getD 0 + 1) }
        else
          let s := passEnd s dom
          if s.seqState dom = 3 ∧ (s.sequencer dom).fresh then beginPlay s dom else s
      done (if s.seqState dom = 3 then issueNext s dom seen else s)

end Sys2Proof.Machine
end

