-- ==== Sys2Proof/Machine/Seq.lean ====
section
/-!
DEFINITION. The rows of the vector sequencers but the vector itself (R216 to R254): vectors, segments, maps, park and
timing sets, programs, requests, priming, refill and the start inputs.
-/
namespace Sys2Proof.Machine

/-- The domain a command names in word 1 (R254). -/
def targetDom (p : Pkt) : Option Nat := targetInst p 6

/-- A command for a domain whose island runs. -/
def domCmd (p : Pkt) (s : State) (bad : Nat → Bool) (k : Nat → Res) : Res :=
  match targetDom p with
  | none => refuse s St.BAD_ID
  | some d =>
    if bad d then refuse s St.BAD_VALUE
    else if stopped s (.seq d) then refuse s St.ISLAND_STOPPED
    else k d

/-- Granules of a domain's vector area (R230). -/
def areaGrans : Nat := 2097152

/-- Words of a list in groups of ten: vectors (R213). -/
def vectorsOf : Nat → List Nat → List VecWord
  | 0, _ => []
  | n + 1, ws =>
    let v := pad 10 (ws.take 10)
    let data := (List.range 8).foldl (fun a i => a + v.getD i 0 * 2 ^ (32 * i)) 0
    ⟨data, word64 (v.getD 8 0) (v.getD 9 0)⟩ :: vectorsOf n (ws.drop 10)

/-- Vectors enter the vector area; the granules written are good again (R230). -/
def storeVectors (s : State) (d gran : Nat) (vs : List VecWord) : State :=
  let q := s.sequencer d
  s.setSequencer d { q with
    vecs := Bank.setAll (fun _ => ⟨0, 0⟩) q.vecs (64 * gran) vs
    badGrans := q.badGrans.filter fun g => !(gran ≤ g && g < gran + vs.length / 64) }

/-- SEQ_VEC_LOAD (R230). -/
def execSeqVecLoad (p : Pkt) (d : HostData) (s : State) : Answer :=
  runCmd s p 0x0401 { host := true, used := [(1, allBits), (2, allBits), (3, allBits), (4, allBits), (5, allBits)] } <|
    domCmd p s (fun _ => pw p 2 % 64 != 0 || pw p 5 == 0 || areaGrans < pw p 4 + pw p 5) fun dom =>
      withData s p (pw64 p 2) (2560 * pw p 5) d fun ws => ok (storeVectors s dom (pw p 4) (vectorsOf (64 * pw p 5) ws))

/-- An entry that R228 accepts: LENGTH, extent, JCOND, pinned length, reserved bits. -/
def segOk (q : Quad) : Bool :=
  4 ≤ segLen q && segStart q + segLen q ≤ areaGrans && segJcond q ≤ 3 && !(segPinned q && 1024 < segLen q) &&
    fld q.w0 21 3 == 0 && fld q.w1 30 2 == 0 && fld q.w2 28 4 == 0 && !bit q.w3 31

/-- Four words as an entry, for a number of entries. -/
def segsOf : Nat → List Nat → List Quad
  | 0, _ => []
  | n + 1, ws => ⟨ws.getD 0 0, ws.getD 1 0, ws.getD 2 0, ws.getD 3 0⟩ :: segsOf n (ws.drop 4)

/-- Write one entry (R229): while a pass is in progress, or a run waits between passes, the entry as it stood governs the pass after it. -/
def writeSeg (playing : Bool) (q : Seq) (e : Quad × Nat) : Seq :=
  let keep := playing && (Bank.get (fun _ => none) q.oldSegs e.2).isNone
  { q with
    segs := Bank.set (fun _ => ⟨0, 0, 0, 0⟩) q.segs e.2 e.1
    oldSegs := if keep then Bank.set (fun _ => none) q.oldSegs e.2 (some (q.seg e.2)) else q.oldSegs }

/-- SEQ_SEG_WRITE (R228, R229). -/
def execSeqSegWrite (p : Pkt) (d : HostData) (s : State) : Answer :=
  runCmd s p 0x0402 { host := true, used := [(1, allBits), (2, allBits), (3, allBits), (4, allBits), (5, allBits)] } <|
    domCmd p s (fun _ => pw p 2 % 64 != 0 || pw p 5 == 0) fun dom =>
      if 16384 < pw p 4 + pw p 5 then refuse s St.TABLE_FULL
      else withData s p (pw64 p 2) (16 * pw p 5) d fun ws =>
        let es := segsOf (pw p 5) ws
        if es.any (fun e => !segOk e) then refuse s St.BAD_VALUE
        else
          let q := s.sequencer dom
          let pinned := (es.zipIdx (pw p 4)).any fun e => segPinned e.1 || segPinned (q.seg e.2)
          let st := s.seqState dom
          if st ≠ 0 ∧ pinned then refuse s St.WRONG_STATE
          else
            let playing := (3 ≤ st && st ≤ 5) || (st == 1 && !q.newRun)
            ok (s.setSequencer dom ((es.zipIdx (pw p 4)).foldl (writeSeg playing) q))

/-- SEQ_MAP_WRITE (R216): a map acts from the next segment start that names it. -/
def execSeqMapWrite (p : Pkt) (s : State) : Answer :=
  runCmd s p 0x0403
    { used := [(1, allBits), (2, allBits), (3, allBits), (4, allBits), (5, allBits), (6, allBits)] } <|
    domCmd p s (fun _ => decide (256 ≤ pw p 2)) fun d =>
      let q := s.sequencer d
      let w := pw64 p 3 + 2 ^ 64 * pw64 p 5
      ok (s.setSequencer d { q with maps := Bank.set (fun _ => 0) q.maps (pw p 2) w })

/-- SEQ_PARK_WRITE (R218): a park set acts from the next park. -/
def execSeqParkWrite (p : Pkt) (s : State) : Answer :=
  runCmd s p 0x0404
    { used := [(1, allBits), (2, allBits), (3, allBits), (4, allBits), (5, allBits), (6, allBits), (7, allBits),
        (8, allBits), (9, allBits), (10, allBits)] } <|
    domCmd p s (fun _ => decide (16 ≤ pw p 2)) fun d =>
      let q := s.sequencer d
      let w := (List.range 8).foldl (fun a i => a + pw p (3 + i) * 2 ^ (32 * i)) 0
      ok (s.setSequencer d { q with parks := Bank.set (fun _ => parkReset) q.parks (pw p 2) w })

/-- The segments with CACHE_PIN = 1, in segment-number order, each with its place in the pin area (R231). -/
def pinPlan (q : Seq) : List PinSeg :=
  (q.segs.filter fun e => segPinned e.2).foldl (fun (l : List PinSeg) e =>
    let base := match l.getLast? with
      | some x => x.base + x.len
      | none => 0
    l ++ [⟨e.1, base, segLen e.2, segStart e.2⟩]) []

/-- The vectors of a pinned segment, at its place in the pin area. -/
def pinCopy (q : Seq) (x : PinSeg) : Bank VecWord :=
  let start := 64 * segStart (q.seg x.seg)
  (q.vecs.filter fun e => start ≤ e.1 && e.1 < start + 64 * x.len).map fun e => (64 * x.base + (e.1 - start), e.2)

/-- SEQ_PIN_LOAD (R231): only in IDLE; an uncorrectable granule of a segment ends it. -/
def execSeqPinLoad (p : Pkt) (s : State) : Answer :=
  runCmd s p 0x0405 { used := [(1, allBits)] } <|
    domCmd p s (fun _ => false) fun d =>
      let q := s.sequencer d
      let plan := pinPlan q
      if s.seqState d ≠ 0 then refuse s St.WRONG_STATE
      else if s.rdN SEQ.PIN_SIZE d < plan.foldl (fun n x => n + x.len) 0 then refuse s St.TABLE_FULL
      else if plan.any fun x => (segGrans x.len (q.seg x.seg)).any q.badGrans.contains then refuse s St.MEDIA
      else ok (s.setSequencer d { q with pinSegs := plan, pinVecs := plan.flatMap (pinCopy q), pinBad := [], pinSize := s.rdN SEQ.PIN_SIZE d })

/-- A timing-set image's pin record (R220). -/
def imagePin (ws : List Nat) (p : Nat) : PinTs :=
  let at_ := fun (i : Nat) => ws.getD (16 + 8 * p + i) 0
  { fmt := fld (at_ 0) 0 2, en := fld (at_ 0) 2 6, edges := (List.range 6).map fun i => at_ (1 + i) }

/-- Whether a list does not fall. -/
def rising : List Nat → Bool
  | a :: b :: r => a ≤ b && rising (b :: r)
  | _ => true

/-- The checks of one pin record (R223); `w0` and `w7` are its words with reserved fields. -/
def pinRecordOk (period w0 w7 : Nat) (r : PinTs) : Bool :=
  let e := fun (i : Nat) => r.edges.getD i 0
  let used := (List.range 6).filter r.on
  used.all (fun i => e i < period) &&
    rising (((List.range 4).filter r.on).map e) &&
    (r.fmt == 0 || (r.fmt != 3 && r.on 1 && r.on 2 && e 1 + 256 ≤ e 2 && 256 + e 2 ≤ period + e 1)) &&
    (!r.on 5 || e 4 < e 5) && fld w0 8 24 == 0 && w7 == 0

/-- The timing set of an image (R219). -/
def imageTs (ws : List Nat) : Ts :=
  { period := ws.getD 0 0 + 2 ^ 32 * fld (ws.getD 1 0) 0 8
    rise := (List.range 4).map fun m => ws.getD (2 + 2 * m) 0
    fall := (List.range 4).map fun m => ws.getD (3 + 2 * m) 0
    pins := Bank.setAll (fun _ => PinTs.init) [] 0 ((List.range 128).map (imagePin ws)) }

/-- The checks of an image's header (R219, R223). -/
def headerOk (ws : List Nat) : Bool :=
  let t := imageTs ws
  512 ≤ t.period && fld (ws.getD 1 0) 8 24 == 0 && ((List.range 6).all fun i => ws.getD (10 + i) 0 == 0) &&
    ((List.range 4).all fun m => t.fall.getD m 0 < t.period && t.rise.getD m 0 < t.fall.getD m 0)

/-- The first pin record of an image that fails (R223). -/
def firstBadPin (ws : List Nat) : Option Nat :=
  let t := imageTs ws
  (List.range 128).find? fun p =>
    !pinRecordOk t.period (ws.getD (16 + 8 * p) 0) (ws.getD (23 + 8 * p) 0) (imagePin ws p)

/-- TS_WRITE (R219, R220, R223, R225): result word 2 names the first record that fails. -/
def execTsWrite (p : Pkt) (d : HostData) (s : State) : Answer :=
  runBlock s p 0x0406 { ptr := true, needPtr := true, unit := 4160, exact := true, used := [(1, allBits), (5, allBits)] } d fun got =>
    domCmd p s (fun _ => decide (32 ≤ pw p 5) || pw p 2 % 64 != 0) fun dom =>
        let ws := pad 1040 got
        if !headerOk ws then .done St.BAD_VALUE [0xFFFFFFFF] s
        else match firstBadPin ws with
          | some n => .done St.BAD_VALUE [n] s
          | none =>
            let q := s.sequencer dom
            ok (s.setSequencer dom { q with shadow := Bank.set (fun _ => Ts.init) q.shadow (pw p 5) (imageTs ws) })
              [0xFFFFFFFF]

/-- TS_COMMIT (R212, R225): at once in IDLE, PARKED and HELD, else at the first vector start at least 100 ns on, as the shadow stands then. -/
def execTsCommit (p : Pkt) (s : State) : Answer :=
  runCmd s p 0x0407 { used := [(1, allBits), (2, allBits)] } <|
    domCmd p s (fun _ => false) fun d =>
      let q := s.sequencer d
      let ks := maskBits 32 (pw p 2)
      let st := s.seqState d
      if (q.shadows ks).any fun e => tooFast d (s.rdN SEQ.HS_DIV 1) e.2 then refuse s St.BAD_VALUE
      else if st = 0 ∨ st = 5 ∨ st = 6 then ok (applyTs s d (q.shadows ks))
      else ok (s.setSequencer d { q with commits := q.commits ++ [(s.clockFine + 100 * 65536, ks)] })

/-- TS_COMMIT_BOUNDARY (R225, R226, R251): the commits whose boundary the next vector start is, in order; once the domain has
stopped, all of them. -/
def execTsCommitBoundary (dom : Nat) (s : State) : Answer :=
  let st := s.seqState dom
  let q := s.sequencer dom
  if 2 ≤ dom then .next s
  else if st = 0 ∨ st = 5 ∨ st = 6 then
    done (stopCommits s dom)
  else if (st = 3 ∨ st = 4) ∧ q.period ≠ 0 then done (applyCommits s dom (q.t0 + stepsFine s (q.steps + q.period)))
  else .next s

/-- The words of a timing set's image (R219, R220). -/
def tsWords (t : Ts) : List Nat :=
  let marks := (List.range 4).flatMap fun m => [t.rise.getD m 0, t.fall.getD m 0]
  let pinW := fun (p : Nat) => let r := t.pin p; (r.fmt + 4 * r.en) :: pad 6 r.edges ++ [0]
  [lo32 t.period, fld t.period 32 8] ++ marks ++ List.replicate 6 0 ++ (List.range 128).flatMap pinW

/-- TS_READ (R225, R254). -/
def execTsRead (p : Pkt) (_wr : Option HostFault) (s : State) : Answer :=
  runCmd s p 0x0408 { host := true, used := [(1, allBits), (2, allBits), (3, allBits), (4, allBits), (5, allBits)] } <|
    domCmd p s (fun _ => decide (32 ≤ pw p 2) || decide (1 < pw p 3) || pw p 4 % 64 != 0) fun d =>
      let q := s.sequencer d
      let t := Bank.get (fun _ => Ts.init) (if pw p 3 = 0 then q.active else q.shadow) (pw p 2)
      hostPut s p (pw64 p 4) (tsWords t) (.plain [])

/-- SEQ_LOAD (R243): the lowest EMPTY slot. -/
def execSeqLoad (p : Pkt) (s : State) : Answer :=
  runCmd s p 0x0409 { used := [(1, allBits), (2, allBits), (3, 3)] } <|
    domCmd p s (fun _ => decide (16384 ≤ pw p 2)) fun d =>
      match (List.range 4).find? fun k => s.seqSlotState d k == 0 with
      | none => refuse s St.CONTEXT_FULL
      | some k =>
        let s := (s.wr SEQ.START_SEG d k (pw p 2)).wr SEQ.PRIORITY d k (fld (pw p 3) 0 2)
        ok ((s.wr SEQ.START_AT d k 0).setSeqSlot d k 1) [k]

/-- Whether a loopback run or a self-test has the domain's pins (R542). -/
def pinRun (s : State) (d : Nat) : Bool :=
  s.tst.runs.any fun r => r.target == 0x06000000 + 0x1000 * d

/-- A command for a slot (R254, R271, R565). -/
def seqSlotCmd (p : Pkt) (s : State) (k : Nat → Nat → Res) : Res :=
  domCmd p s (fun _ => decide (4 ≤ pw p 2)) fun d =>
    if s.rd TB.STATE ≠ 2 then refuse s St.TIMEBASE
    else if shedding s ∨ pinRun s d ∨ s.seqSlotState d (pw p 2) ≠ 1 then refuse s St.WRONG_STATE
    else k d (pw p 2)

/-- A started program waits for the running one, and asks to pre-empt it where it may (R237, R243, R244); `at_` is when the start reached
the sequencer, in 2^-16 ns. -/
def seqReady (s : State) (d k at_ : Nat) : State :=
  let run := s.seqRun d
  let q := s.sequencer d
  let asks := run < 4 && s.seqSlotState d run == 4 && s.rdN SEQ.PRIORITY d k < s.rdN SEQ.PRIORITY d run &&
    (q.pinnedAt (s.rdN SEQ.START_SEG d k)).isSome
  let s := s.setSeqSlot d k 3
  if asks then s.setSequencer d { q with asks := q.asks ++ [{ kind := .preempt, at_ := at_ }] } else s

/-- A program starts from rest (R240): the domain primes for it, and it is the one in control. -/
def seqBegin (s : State) (d k : Nat) : State :=
  let s := prime s d true (s.rdN SEQ.START_SEG d k)
  (s.setSeqSlot d k 4).put SEQ.RUN_SLOT d k

/-- Whether a domain plays nothing and has nothing primed. -/
def seqAtRest (s : State) (d : Nat) : Bool := s.seqState d == 0 || s.seqState d == 6

/-- SEQ_START (R240, R243, R244, R271). -/
def execSeqStart (p : Pkt) (s : State) : Answer :=
  runCmd s p 0x040A { used := [(1, allBits), (2, allBits)] } <| seqSlotCmd p s fun d k =>
    ok (if seqAtRest s d then seqBegin s d k else seqReady s d k s.clockFine)

/-- SEQ_ARM (R240, R243, R271). -/
def execSeqArm (p : Pkt) (s : State) : Answer :=
  runCmd s p 0x040B { used := [(1, allBits), (2, allBits), (3, allBits), (4, allBits)] } <| seqSlotCmd p s fun d k =>
    let s := (s.wr SEQ.START_AT d k (pw64 p 3)).setSeqSlot d k 2
    ok (if seqAtRest s d then prime s d false (s.rdN SEQ.START_SEG d k) else s)

/-- A request is asked of a sequencer that plays (R237). -/
def askSeq (s : State) (d : Nat) (a : Ask) : State :=
  let q := s.sequencer d
  s.setSequencer d { q with asks := q.asks ++ [a] }

/-- Whether a sequencer plays. -/
def seqPlays (s : State) (d : Nat) : Bool := s.seqState d == 3 || s.seqState d == 4

/-- SEQ_STOP (R237). -/
def execSeqStop (p : Pkt) (s : State) : Answer :=
  runCmd s p 0x040C { used := [(1, allBits)] } <| domCmd p s (fun _ => false) fun d =>
    if seqPlays s d then ok (askSeq s d { kind := .stop, at_ := s.clockFine }) else refuse s St.WRONG_STATE

/-- SEQ_JUMP (R237). -/
def execSeqJump (p : Pkt) (s : State) : Answer :=
  runCmd s p 0x040D { used := [(1, allBits)] } <| domCmd p s (fun _ => false) fun d =>
    if seqPlays s d then ok (askSeq s d { kind := .jump, at_ := s.clockFine, jcond := 3 }) else refuse s St.WRONG_STATE

/-- SEQ_RESUME (R240, R251, R271, R565): holds by coast expiry or reaction end; a source hold stays. -/
def execSeqResume (p : Pkt) (s : State) : Answer :=
  runCmd s p 0x040E { used := [(1, allBits)] } <| domCmd p s (fun _ => false) fun d =>
    if s.rd TB.STATE ≠ 2 then refuse s St.TIMEBASE
    else if shedding s ∨ s.seqState d ≠ 5 then refuse s St.WRONG_STATE
    else ok (releaseSeq (releaseSeq s d .reaction) d .coast)

/-- SEQ_ABORT (R240, R245): a domain at rest stays so. -/
def execSeqAbort (p : Pkt) (s : State) : Answer :=
  runCmd s p 0x040F { used := [(1, allBits)] } <| domCmd p s (fun _ => false) fun d => ok (parkIfBusy 4 s d)

/-- SEQ_IDLE (R240, R245). -/
def execSeqIdle (p : Pkt) (s : State) : Answer :=
  runCmd s p 0x0410 { used := [(1, allBits)] } <| domCmd p s (fun _ => false) fun d =>
    let st := s.seqState d
    if st = 6 ∨ st = 5 ∨ st = 2 then ok (seqToIdle s d) else refuse s St.WRONG_STATE

/-- SEQ_RELEASE (R254). -/
def execSeqRelease (p : Pkt) (s : State) : Answer :=
  runCmd s p 0x0411 { used := [(1, allBits), (2, allBits)] } <| domCmd p s (fun _ => decide (4 ≤ pw p 2)) fun d =>
    let st := s.seqSlotState d (pw p 2)
    if st = 1 ∨ st = 7 then ok (s.setSeqSlot d (pw p 2) 0) else refuse s St.WRONG_STATE

/-- SEQ_CLEAR_FAILS (R250): CAP_SEQ goes on. -/
def execSeqClearFails (p : Pkt) (s : State) : Answer :=
  runCmd s p 0x0412 { used := [(1, allBits)] } <| domCmd p s (fun _ => false) fun d =>
    let s := (List.range 128).foldl (fun s i => s.wr SEQ.PIN_FAILS d i 0) s
    let s := (s.put SEQ.FAIL_COUNT d 0).put SEQ.CAP_LOST d 0
    ok (s.setSequencer d { s.sequencer d with capPos := 0 })

/-- SEQ_CAP_READ (R249, R254). -/
def execSeqCapRead (p : Pkt) (_wr : Option HostFault) (s : State) : Answer :=
  runCmd s p 0x0413 { host := true, used := [(1, allBits), (2, allBits), (3, allBits), (4, allBits), (5, allBits)] } <|
    domCmd p s (fun _ => pw p 2 % 64 != 0 || pw p 5 == 0 || capRecords < pw p 4 + pw p 5) fun d =>
      let q := s.sequencer d
      let ws := (Bank.slice (fun _ => []) q.cap (pw p 4) (pw p 5)).flatMap (pad 16)
      if (List.range (pw p 5)).any fun i => q.badCaps.contains (pw p 4 + i) then refuse s St.MEDIA
      else hostPut s p (pw64 p 2) ws (.plain [])

/-- Whether priming is complete (R240): the segment pinned, or PRIME_DEPTH granules in the ring. -/
def primed (s : State) (d : Nat) : Bool :=
  let q := s.sequencer d
  (q.pinnedAt q.target.1).isSome || ringReady s d (s.rdN SEQ.PRIME_DEPTH d)

/-- A stream of HOLD_STM that is BECALMED asks the hold of a domain that comes to play (R240, R393). -/
def sourceNow (s : State) (d : Nat) : State :=
  let n := s.rdN SEQ.HOLD_STM d
  if n < 31 ∧ s.rd STM.HOLD_STATE n = 1 then holdSeq s d .source else s

/-- PRIMING_COMPLETE (R240, R241): Gale is complete, and the start segment is at hand, at a SYSTIME of the present loop cycle in 2^-16 ns; the
first vector starts 128 master periods later. A hold asked while priming acts at the first pass end (R237). -/
def execPrimingComplete (primed : PrimeEnd) (s : State) : Answer :=
  let dom := primed.dom
  if s.seqState dom = 1 ∧ Sys2Proof.Machine.primed s dom then
    let s := galeDone s dom
    let q := s.sequencer dom
    let t := min (max primed.at_ (65536 * s.now)) (65536 * (s.now + 125))
    let s := s.setSequencer dom { q with
      period := 0, startAt := if q.autoRun then some (s.clockOf (edgesAfter s t 128)) else none }
    done (if q.autoRun then sourceNow (s.put SEQ.STATE dom 3) dom else s.put SEQ.STATE dom 2)
  else .next s

/-- The granules of the targets of captured jumps (R232), as many as the ring holds beside the granule in play. -/
def jumpGrans (s : State) (d : Nat) : List Nat :=
  let q := s.sequencer d
  let targets := ((q.due ++ q.carry).filter fun r => r.kind == .jump).map Captured.target
  ((targets.filter fun t => (q.pinnedAt t).isNone).flatMap fun t => segGrans q.ringSize (q.segView t)).take (q.ringSize - 1)

/-- The granule that refill fetches next (R232): of a captured jump's target, or what play needs. -/
def fetchNext (s : State) (d : Nat) (jump : Bool) : Option Nat :=
  (if jump then jumpGrans s d else wanted s d).find? fun g => !(s.sequencer d).holdsGran g

/-- The ring with room for one granule more (R231, R233): the oldest that neither play nor a captured jump needs goes, else the one that play
or, for a granule of play, the jump needs last; the granule in play stays. -/
def ringRoom (s : State) (d : Nat) (jump : Bool) : List RingGran :=
  let q := s.sequencer d
  if q.ring.length < q.ringSize then q.ring
  else
    let near := wanted s d
    let far := jumpGrans s d
    let later := (near.drop 1).reverse
    let jumps := far.reverse.filter fun g => !near.contains g
    match q.ring.find? (fun r => !near.contains r.gran && !far.contains r.gran),
        (if jump then later ++ jumps else jumps ++ later).find? q.holdsGran with
    | some old, _ => q.ring.filter fun r => r.gran != old.gran
    | none, some g => q.ring.filter fun r => r.gran != g
    | none, none => q.ring

/-- GRANULE_FETCH_DONE (R230, R232, R235, R539): `good` says the granule is correctable. -/
def execGranuleFetchDone (dom : Nat) (jump good : Bool) (s : State) : Answer :=
  if !seqBusy s dom then .next s
  else match fetchNext s dom jump with
    | none => .next s
    | some g =>
      let q := s.sequencer dom
      let r : RingGran := ⟨g, Bank.slice (fun _ => ⟨0, 0⟩) q.vecs (64 * g) 64, !good || q.badGrans.contains g || q.missNext⟩
      done (s.setSequencer dom { q with ring := ringRoom s dom jump ++ [r], missNext := false })

/-- An ARMED slot's start has come (R240, R241, R245, R271): a primed domain runs it, its first vector starting `n` master edges after the
first one at or after a SYSTIME `t`; one that still primes runs it once primed, one at rest primes for it, and one that plays has it
READY. Where the timebase is not locked, a domain that plays nothing parks. -/
def seqFire (s : State) (d k t n : Nat) : State :=
  let waits := s.seqState d == 2 || (s.seqState d == 1 && 4 ≤ s.seqRun d)
  if s.rd TB.STATE ≠ 2 ∧ (waits ∨ seqAtRest s d) then record (parkSeq s d 5) 6 d 0x07
  else if waits then
    let p := slotPoint s d k
    let s := seqControl s d k p.1 p.2
    let q := s.sequencer d
    if s.seqState d = 1 then s.setSequencer d { q with autoRun := true }
    else
      let s := s.setSequencer d { q with period := 0, newRun := true, startAt := some (s.clockOf (edgesAfter s t n)) }
      sourceNow (s.put SEQ.STATE d 3) d
  else if seqAtRest s d then seqBegin s d k
  else seqReady s d k (s.clockOf t)

/-- SEQ_EV_START (R241, R245): the lowest-numbered ARMED slot that waits for EV_START. -/
def execSeqEvStart (dom : Nat) (s : State) : Answer :=
  let n := 0x48 + 2 * dom
  match (s.con n).capt with
  | none => .next s
  | some a =>
    if 2 ≤ dom then .next s
    else
      let s := clearCapt s n
      match (List.range 4).find? fun k => s.seqSlotState dom k == 2 && s.seqSlot SEQ.START_AT dom k == 0 with
      | some k => done (seqFire s dom k (s.sysFine a) 128)
      | none => done s

/-- SEQ_EV_STOP (R237). -/
def execSeqEvStop (dom : Nat) (s : State) : Answer :=
  let n := 0x49 + 2 * dom
  match (s.con n).capt with
  | some t => if 2 ≤ dom then .next s else
    let s := clearCapt s n
    done (if seqPlays s dom then askSeq s dom { kind := .stop, at_ := t } else s)
  | none => .next s

/-- SEQ_JEV_PULSE (R237): the pulses seen on event channels await their capture vectors. -/
def execSeqJevPulse (dom : Nat) (s : State) : Answer :=
  let q := s.sequencer dom
  if q.jevs.isEmpty then .next s
  else
    let s := s.setSequencer dom { q with jevs := [] }
    done (if seqPlays s dom then (q.jevs.map jevAsk).foldl (askSeq · dom ·) s else s)

/-- SEQ_START_AT (R241). -/
def execSeqStartAt (dom slot : Nat) (s : State) : Answer :=
  let t := s.seqSlot SEQ.START_AT dom slot
  if dom < 2 ∧ slot < 4 ∧ s.seqSlotState dom slot = 2 ∧ t ≠ 0 ∧ t ≤ s.now then
    done (seqFire s dom slot (65536 * t) 0) else .next s

end Sys2Proof.Machine
end

