-- ==== Sys2Proof/Machine/Telem.lean ====
section
/-!
DEFINITION. The telemetry set (R479).
-/
namespace Sys2Proof.Machine

/-- A sensor (R487). -/
def State.sensor (s : State) (n : Nat) : Sensor := Bank.get (fun _ => {}) s.vane.sensors n

/-- Replace a sensor. -/
def State.setSensor (s : State) (n : Nat) (v : Sensor) : State :=
  { s with vane := { s.vane with sensors := Bank.set (fun _ => {}) s.vane.sensors n v } }

/-- A reading as a 16-bit field. -/
def sensorHalf (s : State) (n : Nat) : Nat := toField 16 (s.sensor n).reading

/-- A record with six 16-bit values, two per word, low half first. -/
def sixHalves (v : Nat → Nat) (code : Nat) : Quad :=
  ⟨v 0 + v 1 * 65536, v 2 + v 3 * 65536, v 4 + v 5 * 65536, code * 2 ^ 24⟩

/-- The blocks of which some window has a flag set, as a mask with bit b - 1 for block b. -/
def blocksWith (s : State) (f : Win → Bool) : Nat :=
  (List.range 16).foldl (fun m b => m + b2n (s.wins.any fun e => e.1 / 4096 == b + 1 && f e.2) * 2 ^ b) 0

/-- The 11 records of a telemetry set (R479). -/
def telemetryRecords (s : State) : List Quad :=
  let temps := (List.range 5).map fun r =>
    sixHalves (fun i => if 6 * r + i ≤ 24 then sensorHalf s (6 * r + i) else 0) (0xE0 + r)
  let rails := (List.range 3).map fun r =>
    sixHalves (fun i => if 6 * r + i < 16 then sensorHalf s (32 + 6 * r + i) else 0) (0xE5 + r)
  let input : Quad := ⟨toField 32 (s.sensor 48).reading, toField 32 (s.sensor 49).reading,
    s.rdN FCH.BUDGET_DELIV * 65536 + s.rdN FCH.BUDGET_DISS, 0xE8 * 2 ^ 24⟩
  let summary : Quad := ⟨blocksWith s (fun w => w.degraded || w.warn) * 65536 + blocksWith s (fun w => w.fault || w.fatal),
    b2n s.pwr.toggles * 2 ^ 31 + s.rdN VANE.LOG_MEDIA_FAIL * 2 ^ 30 + s.rdN MSH.SYNC_STATE * 16 + s.rdN TB.STATE,
    lo32 (s.rdN VANE.LOG_HEAD), 0xE9 * 2 ^ 24⟩
  let background : Quad := ⟨s.rdN VANE.SCRUB_PROGRESS, lo32 (s.rdN VANE.ECC_CORR_COUNT), s.rdN VANE.ECC_UNCORR_COUNT,
    0xEA * 2 ^ 24⟩
  temps ++ rails ++ [input, summary, background]

/-- Whether the set needs a slot of ST_31's quota: no block is open, or the open one cannot take the whole set. -/
def telemetryNeedsSlot (s : State) : Bool :=
  match (s.stream 31).open_ with
  | none => true
  | some b => decide (252 < b.recs.length + 11) || decide (s.now < b.base) || decide (0xFFFFFF < (s.now - b.base) / 8)

/-- A telemetry instant (R479, R481, R482): a new period governs from the boundary that it falls on. -/
def telemetryInstant (s : State) : State :=
  let period := 1000000 * s.vane.telemPeriod
  if s.now % period ≠ 0 ∨ s.vane.telemAt = some s.clock then s
  else
    let s := { s with vane := { s.vane with telemAt := some s.clock, telemPeriod := s.rdN VANE.TELEM_PERIOD } }
    if s.rd VANE.TELEM_EN ≠ 1 ∨ !accepts s 31 ∨ stopped s .mem then s
    else
      let rs := telemetryRecords s
      if telemetryNeedsSlot s ∧ freeSlots s 31 = 0 then
        record (rs.foldl (fun s q => dropRecord s 31 ⟨q, s.now⟩) s) 0x0D 0 0x82
      else closeBlock (rs.foldl (fun s q => place s 31 ⟨q, s.now⟩) s) 31 5

/-- TELEMETRY_INSTANT (R479). -/
def execTelemetryInstant (s : State) : Answer := done (telemetryInstant s)

end Sys2Proof.Machine
end

