-- ==== Sys2Proof/Machine/Tb.lean ====
section
/-!
DEFINITION. The timebase (R256 to R280): commits, relocks, coasting, lock, the coast budget, phase steps and SYSTIME; and the
loop cycle, by which SYSTIME advances.
-/
namespace Sys2Proof.Machine

/-- TB.STATE (R262): 0 SEARCH, 1 ACQUIRE, 2 LOCKED, 3 COAST, 4 GUARD_WAIT. -/
def State.tbState (s : State) : Nat := s.rdN TB.STATE

/-- The double-buffered parameters with their active copies (R259). -/
def tbPairs : List (Prm × Prm) :=
  [(TB.REF_SEL, TB.A_REF_SEL), (TB.REF_FREQ, TB.A_REF_FREQ), (TB.REF_COND, TB.A_REF_COND), (TB.FB_DIV, TB.A_FB_DIV),
    (TB.CP_I, TB.A_CP_I), (TB.LOCK_WIN, TB.A_LOCK_WIN), (TB.LOCK_N, TB.A_LOCK_N)]

/-- The active copy. -/
def activeCopy (s : State) : List Int := tbPairs.map fun p => s.rd p.2

/-- The shadow copy. -/
def shadowCopy (s : State) : List Int := tbPairs.map fun p => s.rd p.1

/-- Twice the phase-detector frequency of a copy, in Hz (R256, R257). -/
def twicePd (c : List Int) : Nat :=
  let f := if c.getD 0 0 = 0 then 50000000 else (c.getD 1 0).toNat
  match c.getD 2 0 with
  | 1 => 4 * f
  | 2 => f
  | _ => 2 * f

/-- Twice the VCO frequency of a copy, in Hz (R257). -/
def twiceVco (c : List Int) : Nat := twicePd c * (c.getD 3 0).toNat

/-- A configuration that R257 calls valid. -/
def tbValid (c : List Int) : Bool :=
  10000000 ≤ twicePd c && twicePd c ≤ 400000000 && 11200000000 ≤ twiceVco c && twiceVco c ≤ 12800000000

/-- Whether two copies differ in what moves the VCO (R259). -/
def movesVco (a b : List Int) : Bool := a.take 4 != b.take 4

/-- Replace the timebase's own state. -/
def State.setTb (s : State) (t : Tb) : State := { s with tb := t }

/-- The commands that await lock complete (R259, R262). -/
def answerTb (s : State) (status : Nat) : State :=
  s.tb.waiting.foldl (fun s w => s.complete w.1 w.2 status []) (s.setTb { s.tb with waiting := [] })

/-- A sequence of phase steps ends by a loss of lock (R272). -/
def endPhase (s : State) : State :=
  s.tb.phase.foldl (fun s r => s.complete r.src r.tag St.TIMEBASE [r.applied]) (s.setTb { s.tb with phase := [] })

/-- Pin loopback runs end at a guard-clock switch (R542). -/
def endPinRuns (s : State) : State :=
  let mine := fun (r : LoopRun) => r.target / 0x1000000 == 6
  let s' := { s with tst := { s.tst with runs := s.tst.runs.filter fun r => !mine r } }
  (s.tst.runs.filter mine).foldl (fun s r => (restoreRun s r).complete r.src r.tag St.TIMEBASE []) s'

/-- Entry into SEARCH (R262, R266, R267): sequencers park, the guard clock runs; from COAST it is a recovery relock. -/
def startSearch (s : State) : State :=
  let s := if s.tbState = 3 then s.put TB.RECOVERY 0 1 else s
  let s := endPinRuns (guardPark (endPhase s))
  syncLost ((s.put TB.STATE 0 0).setTb { s.tb with enteredAt := s.clock, holdDac := false, halted := false })

/-- A relock that a command asks (R259, R262, R279): a lock that was awaited before is abandoned. -/
def relock (s : State) (p : Pkt) (old : List Int) : State :=
  let s := answerTb s St.INTERRUPTED
  let s := s.setTb { s.tb with
    waiting := [(p.src, pTag p)]
    oldActive := if s.tbState = 2 then old else s.tb.oldActive }
  startSearch s

/-- Whether R260 refuses a relock: a sequencer is PRIMING to HELD and FORCE is 0. -/
def relockBarred (s : State) (p : Pkt) : Bool := !bit (pw p 2) 0 && (seqBusy s 0 || seqBusy s 1)

/-- The shadow copy becomes the active one (R257, R259). -/
def takeShadow (s : State) : State :=
  let s := tbPairs.foldl (fun s p => s.put p.2 0 (s.rd p.1)) s
  s.put TB.F_MASTER 0 (twiceVco (activeCopy s) / 8 : Nat)

/-- The running absence of the reference, from COAST entry on, is added to the time that a TIMEBASE_GAP record tells (R275). -/
def countAbsent (s : State) : State :=
  if s.tb.present then s
  else
    let gone := s.clock - max s.tb.since s.tb.coastAt
    s.setTb { s.tb with absent := s.tb.absent + gone }

/-- TB_COMMIT (R257, R259, R260, R262, R263). -/
def execTbCommit (p : Pkt) (s : State) : Answer :=
  runCmd s p 0x0501 { used := [(2, 1)] } <|
    let old := activeCopy s
    let new := shadowCopy s
    if !tbValid new then refuse s St.BAD_VALUE
    else if !movesVco old new then
      if s.tbState = 4 then .later (relock (takeShadow s) p old) else ok (takeShadow s)
    else if relockBarred s p then refuse s St.WRONG_STATE
    else
      let s' := takeShadow s
      let s' := if old.getD 0 0 = new.getD 0 0 then s' else s'.setTb { (countAbsent s').tb with present := true, since := s.clock }
      .later (relock s' p old)

/-- TB_RELOCK (R260, R263, R279). -/
def execTbRelock (p : Pkt) (s : State) : Answer :=
  runCmd s p 0x0502 { used := [(2, 1)] } <|
    if relockBarred s p then refuse s St.WRONG_STATE else .later (relock s p (activeCopy s))

/-- The coast budget runs out (R265): engines hold at their next point boundary, running sequencers at their pass end. -/
def budgetOut (s : State) : State :=
  let s := s.setTb { s.tb with budget := none }
  let s := (record (s.put TB.BUDGET_OUT 0 1) 7 0 0x03).publish (s.rd TB.EV_EXPIRE)
  let s := (List.range 17).foldl (fun s e => requestHold s e .coast) s
  (List.range 2).foldl (fun s d => if [3, 4, 5].contains (s.seqState d) then holdSeq s d .coast else s) s

/-- Entry into COAST (R262, R263, R265, R272, R276): the cause of the coast, recorded unless an injection has recorded it, comes before that
of a budget of 0. -/
def enterCoast (s : State) (cause : Nat) (real : Bool) : State :=
  let s := endPhase s
  let s := ((s.put TB.STATE 0 3).put TB.COAST_START 0 s.now).publish (s.rd TB.EV_UNLOCK)
  let s := s.setTb { s.tb with
    enteredAt := s.clock, coastAt := s.clock, absent := 0, coastCause := cause, holdDac := false
    budget := some (s.clock + 1000000 * s.rdN TB.COAST_BUDGET) }
  let s := syncLost s
  let s := if real then record s 7 0 cause else s
  if s.rd TB.COAST_BUDGET = 0 then budgetOut s else s

/-- Entry into GUARD_WAIT (R259, R262): what awaited lock ends. The cause is recorded unless an injection has recorded it. -/
def guardWait (s : State) (cause : Nat) (real : Bool := true) : State :=
  let s := s.put TB.STATE 0 4
  let s := if real then record s 7 0 cause else s
  answerTb (s.setTb { s.tb with enteredAt := s.clock }) St.TIMEBASE

/-- The reference is lost (R256, R262, R276): a coast that loss of lock began in this moment has REF_LOSS as its cause, and a real loss in the
moment of an injected one is recorded. -/
def refLost (s : State) (inj : Bool) : State :=
  let was := s.tb
  let st := s.tbState
  let s := if was.present then s.setTb { was with present := false, since := s.clock, lossInj := inj } else s
  if st = 2 then enterCoast s 1 (!inj)
  else if st = 0 ∨ st = 1 then guardWait s 1 (!inj)
  else if inj ∨ was.enteredAt ≠ s.clock then s
  else if st = 3 ∧ was.coastCause = 2 then record (s.setTb { s.tb with coastCause := 1 }) 7 0 0x01
  else if !was.present ∧ was.lossInj then record (s.setTb { s.tb with lossInj := false }) 7 0 0x01
  else s

/-- REF_LOSS. -/
def execRefLoss (s : State) : Answer := if s.pwr.lull = 3 then .next s else done (refLost s false)

/-- REF_RETURN (R263, R275): the first valid edge after a loss; a reference that an injection holds absent stays so
(R539). -/
def execRefReturn (s : State) : Answer :=
  if s.tb.present ∨ s.clock < s.tb.injTill then .next s
  else
    done (s.setTb { (countAbsent s).tb with present := true, since := s.clock })

/-- The lock window in ps (R258). -/
def lockWin (s : State) : Int := 20 * s.rd TB.A_LOCK_WIN

/-- LOCK_LOSS (R258, R262, R276): the phase error, in ps, beyond 4 × LOCK_WIN. -/
def execLockLoss (err : Int) (s : State) : Answer :=
  let s' := s.put TB.PHASE_ERR 0 (clampInt (-32768) 32767 err)
  if iabs err ≤ 4 * lockWin s then .next s
  else if s.tbState = 2 then done (enterCoast s' 2 true)
  else if s.tbState = 3 ∧ s.tb.enteredAt = s.clock ∧ s.tb.coastCause = 1 then done (record s' 7 0 0x02)
  else .next s

/-- REF_QUAL_ELAPSED (R262, R263). -/
def execRefQualElapsed (s : State) : Answer :=
  let t := s.tb
  if (s.tbState = 3 ∨ s.tbState = 4) ∧ t.present ∧ s.rd TB.AUTO_RELOCK = 1 ∧ s.pwr.lull ≠ 3 ∧ !s.tb.halted ∧
      max t.enteredAt t.since + 1000000 * s.rdN TB.REF_QUAL ≤ s.clock then done (startSearch s)
  else .next s

/-- BAND_SEARCH_DONE (R258, R262). -/
def execBandSearchDone (band : Option Nat) (s : State) : Answer :=
  if s.tbState ≠ 0 ∨ s.pwr.lull = 3 ∨ s.tb.halted then .next s
  else match band with
    | some b => if b < 32 then done ((s.put TB.VCO_BAND 0 b).put TB.STATE 0 1) else .next s
    | none => done (guardWait s 0x04)

/-- The words of a copy in a TIMEBASE_RELOCK record (R496). -/
def copyWords (c : List Int) : List Nat :=
  let a := fun (i : Nat) => (c.getD i 0).toNat
  [a 0 * 2 ^ 31 + a 2 * 2 ^ 29 + a 3 * 2 ^ 17 + a 4 * 2 ^ 14 + a 5 * 2 ^ 8, a 1, a 6]

/-- The log record of a lock (R275, R496): none where nothing was replaced and no coast ended. -/
def lockRecord (s : State) : State :=
  if s.rd TB.RECOVERY = 1 then
    s.logRec { typ := 0x03, time := s.now, blk := 7, inst := 0, sev := 0,
               pay := [lo32 (s.rdN TB.COAST_START), hi32 (s.rdN TB.COAST_START), lo32 s.tb.absent, hi32 s.tb.absent,
                 s.tb.coastCause * 256 + s.rdN TB.BUDGET_OUT] }
  else if s.tb.oldActive.isEmpty then s
  else s.logRec { typ := 0x04, time := s.now, blk := 7, inst := 0, sev := 0,
                  pay := copyWords s.tb.oldActive ++ copyWords (activeCopy s) }

/-- LOCK_DECLARED (R258, R262, R265, R268, R276): the phase error, in ps, has stayed within the window. -/
def execLockDeclared (err : Int) (s : State) : Answer :=
  if s.tbState ≠ 1 ∨ lockWin s < iabs err ∨ s.pwr.lull = 3 ∨ s.tb.halted then .next s
  else
    let s := lockRecord ((s.put TB.PHASE_ERR 0 err).put TB.STATE 0 2)
    let s := ((s.put TB.RECOVERY 0 0).put TB.BUDGET_OUT 0 0).publish (s.rd TB.EV_LOCK)
    done (answerTb (s.setTb { s.tb with budget := none, oldActive := [] }) St.SUCCESS)

/-- LOCK_TIMEOUT (R262). -/
def execLockTimeout (s : State) : Answer :=
  if (s.tbState = 0 ∨ s.tbState = 1) ∧ s.tb.enteredAt + 1000000 * s.rdN TB.LOCK_TIMEOUT ≤ s.clock ∧ s.pwr.lull ≠ 3 ∧ !s.tb.halted then
    done (guardWait s 0x05)
  else .next s

/-- COAST_BUDGET_EXPIRY (R265, R276). -/
def execCoastBudgetExpiry (s : State) : Answer :=
  match s.tb.budget with
  | some t => if t ≤ s.clock ∧ s.tbState ≠ 2 then done (budgetOut s) else .next s
  | none => .next s

/-- HOLD_DAC_TRANSFER (R264). -/
def execHoldDacTransfer (s : State) : Answer :=
  if s.tbState = 3 ∧ s.tb.enteredAt + 1000000000 ≤ s.clock ∧ !s.tb.holdDac then done (s.setTb { s.tb with holdDac := true })
  else .next s

/-- FREQ_GUARD_SUPPRESS (R269, R276). -/
def execFreqGuardSuppress (s : State) : Answer := done (record (s.bump TB.GUARD_BLOCK) 7 0 0x06)

/-- TB_PHASE_STEP (R272, R276). -/
def execTbPhaseStep (p : Pkt) (s : State) : Answer :=
  runCmd s p 0x0503 { used := [(2, allBits)] } <|
    let n := sfld 32 (pw p 2)
    if 32767 < iabs n then refuse s St.BAD_VALUE
    else if s.tbState ≠ 2 ∨ s.rd TB.TIME_OWNER = 1 then refuse s St.WRONG_STATE
    else if n = 0 then ok s [0]
    else .later (s.setTb { s.tb with phase := s.tb.phase ++ [⟨p.src, pTag p, n, 0⟩] })

/-- PHASE_STEP_APPLY (R272): one step of the sequence in hand. -/
def execPhaseStepApply (s : State) : Answer :=
  match s.tb.phase with
  | [] => .next s
  | r :: rest =>
    let one : Int := if r.left < 0 then -1 else 1
    let s := s.put TB.PHASE_OFS 0 (s.rd TB.PHASE_OFS + one)
    if iabs r.left ≤ 1 then
      done ((s.setTb { s.tb with phase := rest }).complete r.src r.tag St.SUCCESS [r.applied + 1])
    else done (s.setTb { s.tb with phase := { r with left := r.left - one, applied := r.applied + 1 } :: rest })

/-- A power failure stops the loop in a relock (R276); a command that awaits lock ends. It stands until shedding is over (log 161). -/
def haltLoop (s : State) : State :=
  if (s.tbState = 0 ∨ s.tbState = 1) ∧ (s.rd TB.RECOVERY = 1 ∨ !s.tb.oldActive.isEmpty) then
    answerTb (s.setTb { s.tb with halted := true }) St.TIMEBASE
  else s

/-- Whether a program waits for a SYSTIME (R274). -/
def armedAtTime (s : State) : Bool :=
  ((List.range 17).any fun e => (List.range 4).any fun k => s.slotState e k == 2 && s.slotRd SWE.START_AT e k != 0) ||
  ((List.range 2).any fun d => (List.range 4).any fun k => s.seqSlotState d k == 2 && s.seqSlot SEQ.START_AT d k != 0)

/-- TB_TIME_SET (R274): it completes at the boundary that takes the value. -/
def execTbTimeSet (p : Pkt) (s : State) : Answer :=
  runCmd s p 0x0504 { used := [(2, allBits), (3, allBits)] } <|
    if pw64 p 2 % 125 ≠ 0 then refuse s St.BAD_VALUE
    else if s.rd TB.TIME_OWNER = 1 ∨ armedAtTime s then refuse s St.WRONG_STATE
    else .later (s.setTb { s.tb with timeSet := s.tb.timeSet ++ [(p.src, pTag p, pw64 p 2)] })

/-- The scheduled instants of a boundary that sets SYSTIME are taken on the old grid (R276, R482). -/
def oldGrid (s : State) : State := (List.range 17).foldl timerInstant s

/-- The SYSTIME sets that await a loop-cycle boundary (R274, R428): those of TB_TIME_SET, and a coarse set by the mesh. -/
def applySets (s : State) : State :=
  if s.tb.timeSet.isEmpty ∧ s.msh.coarseDue.isNone then s
  else
    let old := telemetryInstant (oldGrid s)
    let s' := { old.setTb { old.tb with timeSet := [] } with msh := { old.msh with coarseDue := none } }
    let s' := s.tb.timeSet.foldl (fun s t => (setTime s t.2.2 0).complete t.1 t.2.1 St.SUCCESS []) s'
    match s.msh.coarseDue with
    | some move => setTime s' ((s'.systime : Int) - move).toNat 1
    | none => s'

/-- What the boundary of a loop cycle does before the channels run: writes that waited for it take effect (R82, R123), rails slew (R77), the groups
take their sources, modes and grids, and streams stop (R394). -/
def boundary (s : State) : State :=
  let s := s.countCycle.takenOver
  let s := (s.grp.map Prod.fst).foldl railCycle s
  (s.stm.map Prod.fst).foldl takeStop ((s.grp.map Prod.fst).foldl groupBoundary s)

/-- LOOP_CYCLE: the instants of triggers of the cycle that ends have been taken (R104), and SYSTIME has advanced by one cycle of 125 ns (R16,
R39, log 4); then what commands have asked of sweep engines acts. -/
def execLoopCycle (readings : List LoopReading) (s : State) : Answer :=
  let s := boundary ((s.grp.map Prod.fst).foldl takeTrigs s)
  let s := (cycleChans s readings).foldl (cycleChan readings) s
  let s := (s.swe.map Prod.fst).foldl sweBoundary s
  done (applySets ((s.swe.map Prod.fst).foldl seeLimit s))

end Sys2Proof.Machine
end

