-- ==== Sys2Proof/Machine/Evf.lean ====
section
/-!
DEFINITION. The event fabric (R281 to R312): the stages of a channel pulse, delivery to consumer inputs and observers, modes and
suspension, the loop monitor, ticks, triggers, Eddy cells, capture units, the recorder and system channels.
-/
namespace Sys2Proof.Machine

/-- EVF.MODE (R291): 0 START, 1 NORMAL, 2 TEST, 3 RECOVERY. -/
def State.evfMode (s : State) : Nat := s.rdN EVF.MODE

/-- A channel. -/
def State.chan (s : State) (c : Nat) : Chan := Bank.get (fun _ => {}) s.evf.chans c

/-- Replace a channel. -/
def State.setChan (s : State) (c : Nat) (v : Chan) : State :=
  { s with evf := { s.evf with chans := Bank.set (fun _ => {}) s.evf.chans c v } }

/-- An Eddy cell. -/
def State.cell (s : State) (n : Nat) : Eddy := Bank.get (fun _ => {}) s.evf.eddy n

/-- Replace an Eddy cell. -/
def State.setCell (s : State) (n : Nat) (v : Eddy) : State :=
  { s with evf := { s.evf with eddy := Bank.set (fun _ => {}) s.evf.eddy n v } }

/-- A tick generator. -/
def State.ticker (s : State) (n : Nat) : TickGen := Bank.get (fun _ => {}) s.evf.ticks n

/-- Replace a tick generator. -/
def State.setTicker (s : State) (n : Nat) (v : TickGen) : State :=
  { s with evf := { s.evf with ticks := Bank.set (fun _ => {}) s.evf.ticks n v } }

/-- Nanoseconds in units of 2^-16 ns. -/
def nsFine (n : Nat) : Nat := 65536 * n

/-- Every consumer number (R286). -/
def consumers : List Nat :=
  List.range 0x44 ++ (List.range 4).map (· + 0x48) ++ (List.range 17).map (· + 0x50) ++ (List.range 0xCC).map (· + 0x68) ++
  (List.range 16).map (· + 0x138)

/-- What a consumer's selector holds (R286): a channel, or a number that names none. -/
def selOf (s : State) (n : Nat) : Int :=
  if n < 0x44 then
    s.eff (match n % 4 with | 0 => SWE.EV_START | 1 => SWE.EV_NEXT | 2 => SWE.EV_HOLD | _ => SWE.EV_ABORT) (n / 4)
  else if n < 0x48 then 255
  else if n < 0x4C then s.rd (if n % 2 = 0 then SEQ.EV_START else SEQ.EV_STOP) ((n - 0x48) / 2)
  else if n < 0x50 then 255
  else if n < 0x61 then s.eff MSR.TRIG_EV (groupHome (n - 0x50))
  else if n < 0x68 then 255
  else if n < 0x70 then
    let w := s.rdN EVF.TRIG_CTL 0 (n - 0x68)
    if bit w 31 && bit w 21 then fld w 22 6 else 255
  else if n < 0x90 then s.rd STM.MARK_EV (n - 0x70)
  else if n < 0x110 then
    let w := s.rdN EVF.EDDY_IN 0 ((n - 0x90) / 4)
    let i := (n - 0x90) % 4
    if fld w (8 * i + 6) 2 = 0 then 255 else fld w (8 * i) 6
  else if n < 0x120 then s.rd (if n % 2 = 0 then EVF.GRP_EN_EV else EVF.GRP_DIS_EV) 0 ((n - 0x110) / 2)
  else if n < 0x130 then s.rd EVF.CU_EV 0 (n - 0x120)
  else if n < 0x134 then s.rd PIN.ADC_EV (chipHome (n - 0x130))
  else if n < 0x138 then 255
  else if n < 0x148 then s.rd EVF.SEV_OUT 0 (n - 0x138)
  else 255

/-- The channel a consumer subscribes to, if any. -/
def chanOf (s : State) (n : Nat) : Option Nat :=
  let v := selOf s n
  if 0 ≤ v ∧ v < 64 then some v.toNat else none

/-- Whether a consumer stands in a stopped island (R35); capture units stop in Lull. -/
def conStopped (s : State) (n : Nat) : Bool :=
  if n < 0x44 then stopped s (engineIsland (n / 4))
  else if n < 0x4C then stopped s (.seq ((n - 0x48) / 2))
  else if n < 0x68 then stopped s (groupIsland (n - 0x50))
  else if n < 0x70 then false
  else if n < 0x90 then stopped s .mem
  else if n < 0x120 then false
  else if n < 0x130 then s.pwr.lull == 3
  else if n < 0x138 then stopped s (.seq ((n - 0x130) / 2))
  else stopped s .msh

/-- When a pulse that left its producer at a clock time reaches a consumer (R284, R306): 4 ns later through the delay-matched
distribution, except that sweep-engine inputs and EV_START of a sequencer take a release edge as the arrival; elsewhere after a hop
whose delay the spec does not fix. -/
def arrival (n a : Nat) (rel : Bool) : Nat :=
  if n < 0x68 then
    if rel && (n < 0x44 || n == 0x48 || n == 0x4A) then a else a + nsFine 4
  else a + Config.hopDelay n % (nsFine 5 + 1)

/-- Suspended consumers, counted into EVF.SUSPENDED (R293). -/
def countSuspended (s : State) : State :=
  s.put EVF.SUSPENDED 0 ((consumers.filter fun n => (s.con n).suspended).length : Nat)

/-- On entry into a single-consumer mode each channel serves the lowest of its consumers (R293). -/
def suspendShared (s : State) : State :=
  countSuspended (consumers.foldl (fun t n =>
    match chanOf s n with
    | some c =>
      if consumers.any fun m => decide (m < n) && chanOf s m == some c then t.setCon n { t.con n with suspended := true } else t
    | none => t) s)

/-- On return to NORMAL every suspended consumer resumes (R293). -/
def resumeConsumers (s : State) : State :=
  countSuspended (consumers.foldl (fun t n =>
    if (t.con n).suspended then t.setCon n { t.con n with suspended := false } else t) s)

/-- Entry into a mode (R291, R293). -/
def enterMode (s : State) (m : Nat) : State :=
  let s := s.put EVF.MODE 0 m
  if m = 1 then resumeConsumers s else if m = 0 then s else suspendShared s

/-- The fabric after a soft reset (R291, R369): START, everything kept, R293 applied. -/
def evfSoftReset (s : State) : State := suspendShared (s.put EVF.MODE 0 0)

/-- A trip of the loop monitor ends an EVF_ECHO run (R542). -/
def abortEcho (s : State) : State :=
  let mine := s.tst.runs.filter fun r => r.target == 0x08000000
  if mine.isEmpty then s
  else
    let s := { s with tst := { s.tst with runs := s.tst.runs.filter fun r => r.target != 0x08000000 } }
    mine.foldl (fun s r => s.complete r.src r.tag St.WRONG_STATE []) s

/-- The loop monitor trips (R294); the pulse has been dropped. -/
def loopTrip (s : State) (c : Nat) : State :=
  let s := abortEcho s
  let s := s.put EVF.GRP_EN 0 (setBit (s.rdN EVF.GRP_EN) (c / 8) false : Nat)
  enterMode (record (s.put EVF.LOOP_CH 0 c) 8 0 0x01) 3

/-- A capture unit takes a pulse (R301). -/
def cuTake (s : State) (u b : Nat) (rel : Bool) : State :=
  let t := sixteenth s (s.sysFine b)
  let n := (Bank.get (fun _ => 0) s.evf.cuSeq u + 1) % 2 ^ 32
  let s := { s with evf := { s.evf with cuSeq := Bank.set (fun _ => 0) s.evf.cuSeq u n } }
  let ns := t / 65536
  s.setCu u (s.cu u ++ [⟨lo32 ns, hi32 ns,
    t % 65536 * 65536 + b2n (coasting s) * 32768 + b2n (onGuard s) * 16384 + b2n rel * 8192, n⟩])

/-- A stream's marker input takes a pulse (R386, R410). -/
def markerTake (s : State) (st ch b : Nat) : State :=
  let t := s.sysFine b
  let n := ((s.stream st).markCount + 1) % 2 ^ 32
  let s := s.setStream st { s.stream st with markCount := n }
  if accepts s st then
    place s st ⟨⟨n, t % 65536 * 65536 + ch, lo32 (t / 65536), 0xF0 * 2 ^ 24⟩, t / 65536⟩
  else s

/-- SEV_LATE, SEV_DROP of EVF.SEV_STAT count up (R304, R307). -/
def sevCount (s : State) (n : Nat) (late : Bool) : State :=
  let w := s.rdN EVF.SEV_STAT 0 n
  let l := fld w 16 16
  let d := fld w 0 16
  let v : Nat := if late then min (l + 1) 0xFFFF * 65536 + d else l * 65536 + min (d + 1) 0xFFFF
  s.wr EVF.SEV_STAT 0 n v

/-- Whether this node sends and receives system channels (R431): MEMBER or ISOLATED. -/
def inMesh (s : State) : Bool := s.rd MSH.ENUM_STATE == 1 || s.rd MSH.ENUM_STATE == 3

/-- A class 0 frame is sent twice, in consecutive blocks (R413). -/
def sendTwice (s : State) (p : Nat) (ws : List Nat) : State := (s.emit (.frame p 0 ws)).emit (.frame p 0 ws)

/-- A system-channel frame leaves on every UP port that leads to a member, but for the one it came by (R431). -/
def sevSend (s : State) (n t0 node gen : Nat) (but : Option Nat) : State :=
  (List.range 4).foldl (fun s p =>
    if (s.port p).member && s.rd MSH.PORT_STATE (p + 1) == 3 && but != some p then
      sendTwice s p [n, lo32 t0, t0 / 2 ^ 32, node, gen]
    else s) s

/-- SEV_ALIGN as it stood at a T0: a write applies to pulses stamped after it (R310). -/
def sevAlign (s : State) (t0 : Nat) : Nat :=
  ((s.evf.aligns.reverse.find? fun w => decide (t0 ≤ w.1)).map Prod.snd).getD (s.rdN EVF.SEV_ALIGN)

/-- The release edge of a pulse: the first master edge at or after T0 + SEV_ALIGN (R305). -/
def sevDue (s : State) (t0 : Nat) : Nat := edgeFrom s (t0 + nsFine (sevAlign s t0))

/-- SEV_ALIGN is written (R310): what it was is kept as long as a pulse stamped before can still arrive. -/
def alignWritten (s : State) : State :=
  let old := s.evf.aligns.filter fun w => decide (s.fine ≤ w.1 + nsFine 70000)
  { s with evf := { s.evf with aligns := (s.fine, s.rdN EVF.SEV_ALIGN) :: old } }

/-- A pulse waits for its release (R305). -/
def sevQueue (s : State) (n t0 : Nat) : State :=
  { s with evf := { s.evf with releases := s.evf.releases ++ [⟨n, t0, sevDue s t0⟩] } }

/-- An outbound bridge takes a pulse (R304, R305, R431). -/
def sevTake (s : State) (n b : Nat) : State :=
  let near := match Bank.get (fun _ => none) s.evf.sevLast n with
    | some l => decide (b < l + nsFine 64)
    | none => false
  if near then record (sevCount s n false) 8 0 0x04
  else
    let t0 := edgeFrom s (s.sysFine b)
    let s := { s with evf := { s.evf with sevLast := Bank.set (fun _ => none) s.evf.sevLast n (some b) } }
    let s := if inMesh s then sevSend s n t0 (s.rdN MSH.NODE_ID) (s.rdN MSH.GENERATION) none else s
    sevQueue s n t0

/-- A group-enable input takes a pulse (R290, R292, R308): in NORMAL only; a disable within 2 ns wins. -/
def groupTake (s : State) (n b : Nat) : State :=
  let g := (n - 0x110) / 2
  let disabled := match (s.con (n + 1)).last with
    | some l => decide (b < l + nsFine 2)
    | none => false
  if s.evfMode ≠ 1 then s
  else if n % 2 = 1 then s.put EVF.GRP_EN 0 (setBit (s.rdN EVF.GRP_EN) g false : Nat)
  else if disabled then s
  else s.put EVF.GRP_EN 0 (setBit (s.rdN EVF.GRP_EN) g true : Nat)

/-- The LUT output of a cell for its input levels, with Q in place of input 3 where FF is set (R299). -/
def eddyLut (ctl : Nat) (c : Eddy) : Bool :=
  bit ctl (16 + fld c.levels 0 3 + 8 * b2n (if bit ctl 7 then c.q else bit c.levels 3))

/-- The output level of a cell (R299). -/
def eddyLevel (ctl : Nat) (c : Eddy) : Bool := if bit ctl 7 then c.q else eddyLut ctl c

/-- FILT of a cell in 2^-16 ns (R299). -/
def eddyFilt (ctl : Nat) : Nat := if fld ctl 4 3 = 0 then 0 else nsFine (2 ^ (fld ctl 4 3 + 1))

/-- The edge that waits on a cell is published (R299). -/
def eddyPublish (s : State) (n : Nat) : State :=
  let c := s.cell n
  match c.edge with
  | none => s
  | some e =>
    let ctl := s.rdN EVF.EDDY_CTL 0 n
    let s := s.setCell n { c with out := e.level, edge := none }
    if bit ctl (if e.level then 8 else 9) then s.publish (fld ctl 10 6) else s

/-- An edge that has held for FILT by a time is published. -/
def eddyRipe (s : State) (n t : Nat) : State :=
  match (s.cell n).edge with
  | some e => if e.at_ + eddyFilt (s.rdN EVF.EDDY_CTL 0 n) ≤ t then eddyPublish s n else s
  | none => s

/-- The inputs or the flip-flop of a cell have changed at a clock time (R299). -/
def eddyMove (s : State) (n t : Nat) (c : Eddy) : State :=
  let s := eddyRipe s n t
  let c := { c with out := (s.cell n).out, edge := (s.cell n).edge }
  let l := eddyLevel (s.rdN EVF.EDDY_CTL 0 n) c
  if l = c.out then s.setCell n { c with edge := none }
  else if c.edge.isSome then s.setCell n c
  else s.setCell n { c with edge := some ⟨l, t⟩ }

/-- The stretch times of a cell that end by a time, in the order they end (R298). -/
def eddyExpire (t : Nat) : Nat → State → Nat → State
  | 0, s, _ => s
  | k + 1, s, n =>
    let c := s.cell n
    match (c.ends.filter fun e => decide (e.2 ≤ t)).foldr
        (fun (e : Nat × Nat) (m : Option (Nat × Nat)) => match m with
          | some x => if e.2 < x.2 then some e else some x
          | none => some e) none with
    | some e =>
      eddyExpire t k (eddyMove s n e.2 { c with levels := setBit c.levels e.1 false, ends := Bank.drop e.1 c.ends }) n
    | none => s

/-- A pulse on input `i` of a cell (R298, R299). -/
def eddyTake (s : State) (n i t : Nat) : State :=
  let s := eddyExpire t 4 s n
  let c := s.cell n
  let ctl := s.rdN EVF.EDDY_CTL 0 n
  let c' := if fld (s.rdN EVF.EDDY_IN 0 n) (8 * i + 6) 2 = 2 then { c with levels := setBit c.levels i (!bit c.levels i) }
    else { c with levels := setBit c.levels i true,
                  ends := Bank.set (fun _ => 0) c.ends i (t + nsFine (2 ^ (fld ctl 0 3 + 1))) }
  eddyMove s n t (if bit ctl 7 && i == 3 then { c' with q := eddyLut ctl c } else c')

/-- Whether a consumer input is busy when a pulse reaches it (R92, R190, R288). -/
def conBusy (s : State) (n b : Nat) : Bool :=
  if n < 0x50 then (s.con n).capt.isSome
  else if n < 0x68 then (s.con n).capt.isSome && (s.group (n - 0x50)).src == 2 && (s.group (n - 0x50)).samp != .idle
  else if n < 0x70 then decide (b < (s.con n).busyTill)
  else if 0x120 ≤ n ∧ n < 0x130 then decide (16 ≤ (s.cu (n - 0x120)).length)
  else if 0x130 ≤ n ∧ n < 0x138 then (s.con n).capt.isSome
  else false

/-- The level that a trigger output drives between its pulses (R296): none at an input, which is at high impedance; the level its pulses
do not have at an output, whether OUT_EN is set or not. -/
def trigIdle (s : State) (trig : Nat) : Option Bool :=
  let w := s.rdN EVF.TRIG_CTL 0 trig
  if bit w 31 then some (bit w 28) else none

/-- A pulse reaches a busy input (R92, R190, R288). -/
def conOverrun (s : State) (n : Nat) : State :=
  if 0x50 ≤ n ∧ n < 0x68 then overrun s (n - 0x50)
  else if 0x130 ≤ n ∧ n < 0x138 then
    chipCause ((consOverrun s n).bump PIN.ADC_OVERRUN (chipHome (n - 0x130))) (n - 0x130) 0x03
  else consOverrun s n

/-- A consumer input takes an activation. -/
def conTake (s : State) (n ch b : Nat) (rel : Bool) : State :=
  if n < 0x68 ∨ (0x130 ≤ n ∧ n < 0x138) then s.setCon n { s.con n with capt := some b }
  else if n < 0x70 then
    let ctl := s.rdN EVF.TRIG_CTL 0 (n - 0x68)
    let w := fld ctl 0 9
    (s.setCon n { s.con n with busyTill := b + nsFine (4 * w + 4) }).emit (.trigger (n - 0x68) (4 * w) (!bit ctl 28))
  else if n < 0x90 then markerTake s (n - 0x70) ch b
  else if n < 0x110 then eddyTake s ((n - 0x90) / 4) ((n - 0x90) % 4) b
  else if n < 0x120 then groupTake s n b
  else if n < 0x130 then cuTake s (n - 0x120) b rel
  else sevTake s (n - 0x138) b

/-- A pulse that left its producer at a clock time reaches a consumer input (R35, R288, R308). -/
def deliver (s : State) (n ch a : Nat) (rel : Bool) : State :=
  let k := s.con n
  let b := arrival n a rel
  let merged := match k.last with
    | some l => decide (b < l + nsFine 2)
    | none => false
  if conStopped s n then s
  else if merged then s.setCon n { k with merges := min (k.merges + 1) 0xFFFF }
  else
    let s := s.setCon n { k with last := some b }
    if conBusy s n b then conOverrun s n else conTake s n ch b rel

/-- The event recorder sees an accepted pulse (R302, R496). -/
def recordPulse (s : State) (ch a : Nat) : State :=
  let c := s.chan ch
  let near := match c.loggedAt with
    | some l => decide (a < l + nsFine 1000000)
    | none => false
  if !bit (s.rdN EVF.LOG_MASK) ch then s
  else if near then record (s.setChan ch { c with notLogged := c.notLogged + 1 }) 8 0 0x05
  else
    let t := s.sysFine a
    (s.setChan ch { c with loggedAt := some a, notLogged := 0 }).logRec
      { typ := 0x02, time := t / 65536, blk := 8, inst := 0, sev := 0, pay := [ch, c.notLogged, t % 65536 * 65536] }

/-- The point in hand of a sweep engine sees an accepted pulse (R137, R145, R146, R287): with its arrival, which tells the point it counts
for; and a wait's pulse releases sample 0. -/
def sweepSees (s : State) (ch a : Nat) (rel : Bool) (e : Nat) : State :=
  let t := s.engine e
  let b := arrival 0 a rel
  if t.pt = .none ∨ stopped s (engineIsland e) then s
  else
    let q := entryAt s (s.slotRd SWE.REGION e (s.runSlot e)) t.entry
    let waits := t.pt == .waiting && t.waitCapt.isNone && bit q.w1 3 && fld q.w3 26 6 == ch
    let s := s.setEngine e { t with
      evSeen := t.evSeen ++ [(ch, b)]
      waitCapt := if waits then some b else t.waitCapt }
    if waits then releaseSample s e b else s

/-- A sequencer that plays sees an accepted pulse, which may be on the JEV of its capture vector's segment (R237, R287). -/
def seqSees (s : State) (ch a d : Nat) : State :=
  let q := s.sequencer d
  if seqPlays s d ∧ !stopped s (.seq d) then
    s.setSequencer d { q with jevs := q.jevs ++ [(ch, a + nsFine 4)] }
  else s

/-- The Lull wake mask sees an accepted pulse (R37, R287). -/
def wakeSees (s : State) (ch : Nat) : State :=
  if 1 ≤ s.pwr.lull ∧ bit s.pwr.wakeEv ch ∧ !s.pwr.wakeSeen.contains ch then
    { s with pwr := { s.pwr with wakeSeen := s.pwr.wakeSeen ++ [ch] } }
  else s

/-- An echo unit sees an accepted pulse that is no echo (R538). -/
def echoSees (s : State) (ch a : Nat) (echo : Bool) : State :=
  if s.evf.echo.contains ch && !echo then
    { s with evf := { s.evf with echoDue := s.evf.echoDue ++ [(ch, a + nsFine 64)] } }
  else s

/-- The observers of an accepted pulse (R282, R287). -/
def observe (s : State) (ch a : Nat) (rel echo : Bool) : State :=
  let s := s.put EVF.CH_SEEN 0 (setBit (s.rdN EVF.CH_SEEN) ch true : Nat)
  let s := (List.range 17).foldl (sweepSees · ch a rel ·) s
  let s := (List.range 2).foldl (seqSees · ch a ·) s
  echoSees (wakeSees (recordPulse s ch a) ch) ch a echo

/-- The consumers a channel serves, in order of number. -/
def servedBy (s : State) (ch : Nat) : List Nat :=
  consumers.filter fun n => chanOf s n == some ch && !(s.con n).suspended

/-- A pulse is accepted (R282, R283). -/
def acceptPulse (s : State) (ch a : Nat) (rel echo : Bool) : State :=
  let c := s.chan ch
  let s := s.setChan ch { c with last := some a, hold := s.rdN EVF.HOLDOFF 0 ch, inWindow := c.inWindow + 1 }
  let s := observe (s.tally EVF.CH_COUNT 0 ch) ch a rel echo
  (servedBy s ch).foldl (fun s n => deliver s n ch a rel) s

/-- The stages of a channel pulse (R282, R290, R294). -/
def stages (s : State) (ch a : Nat) (rel echo : Bool) : State :=
  let c := s.chan ch
  let s := s.setChan ch { c with raw := some a }
  let c := s.chan ch
  let held := match c.last with
    | some l => decide (a < l + nsFine (4 * c.hold))
    | none => false
  if !bit (s.rdN EVF.GRP_EN) (ch / 8) || held then s.bump EVF.CH_DROP 0 ch
  else if s.rdN EVF.LOOP_CEIL < c.inWindow + 1 then loopTrip (s.bump EVF.CH_DROP 0 ch) ch
  else acceptPulse s ch a rel echo

/-- A released pulse overlaps one that its channel has taken from `a0` (R308): the pulse is treated as released at `a`. -/
def turnReleased (s : State) (ch a0 a : Nat) : State :=
  let s := (servedBy s ch).foldl (fun s n =>
    let k := s.con n
    if n < 0x68 then
      if k.capt = some (arrival n a0 false) then
        s.setCon n { k with capt := some (arrival n a true), last := some (arrival n a true) }
      else s
    else if 0x120 ≤ n ∧ n < 0x130 ∧ k.last = some (arrival n a0 false) then
      let l := s.cu (n - 0x120)
      match l.getLast? with
      | some q => s.setCu (n - 0x120) (l.dropLast ++ [{ q with w2 := setBit q.w2 13 true }])
      | none => s
    else s) s
  (List.range 17).foldl (fun s e =>
    let t := s.engine e
    if t.waitCapt = some (arrival 0 a0 false) then s.setEngine e { t with waitCapt := some (arrival 0 a true) } else s) s

/-- The clock time at which a published pulse leaves: the time its rule fixes, else a SYSTIME given. -/
def Pulse.leaves (s : State) (at_ : Nat) (p : Pulse) : Nat := p.at_.getD (s.clockOf at_)

/-- The published pulse of a channel that leaves next in the present loop cycle, a SYSTIME given for those whose rule fixes no time: the
earliest, and of equal ones the first published. -/
def nextPulse (s : State) (ch at_ : Nat) : Option Pulse :=
  let ripe := s.evf.lines.filter fun p =>
    p.ch == ch && decide (p.leaves s at_ < cycleEnd s) && (p.at_.isSome || decide (nsFine s.clock ≤ p.leaves s at_))
  ripe.foldl (fun (m : Option Pulse) p => match m with
    | some x => if p.leaves s at_ < x.leaves s at_ then some p else some x
    | none => some p) none

/-- EVENT_CHANNEL_PULSE (R281, R282): a published pulse leaves its producer in the present loop cycle, at the time that the rule of its
producer fixes, else at a SYSTIME given in 2^-16 ns; one that overlaps the channel's last pulse is part of it (R308). -/
def execEventChannelPulse (ch at_ : Nat) (s : State) : Answer :=
  match nextPulse s ch at_ with
  | none => .next s
  | some p =>
    let a := p.leaves s at_
    let s := { s with evf := { s.evf with lines := s.evf.lines.erase p } }
    match (s.chan ch).raw with
    | some a0 =>
      if a0 ≤ a ∧ a < a0 + nsFine 1 then done (if p.rel then turnReleased s ch a0 a else s)
      else done (stages s ch a p.rel p.echo)
    | none => done (stages s ch a p.rel p.echo)

/-- LOOP_MONITOR_WINDOW (R294): a window of 10 µs ends, and the next one follows it. -/
def execLoopMonitorWindow (s : State) : Answer :=
  if s.clock < s.evf.winAt + 10000 then .next s
  else
    let s := (s.evf.chans.map Prod.fst).foldl (fun s c => s.setChan c { s.chan c with inWindow := 0 }) s
    done { s with evf := { s.evf with winAt := s.evf.winAt + (s.clock - s.evf.winAt) / 10000 * 10000 } }

/-- A tick generator takes the setting its parameters hold (R295). -/
def tickAdopt (s : State) (g : Nat) : State :=
  s.setTicker g { s.ticker g with period := s.rdN EVF.TICK_PERIOD 0 g, phase := s.rdN EVF.TICK_PHASE 0 g }

/-- TICK (R295): a grid time of the setting in force falls in the present loop cycle; the pulse leaves at the first edge that SYSTIME counts
at or after it. A setting written since governs later ticks. -/
def execTick (gen at_ : Nat) (s : State) : Answer :=
  let t := s.ticker gen
  let c := s.clockOf (nsFine at_) / 65536
  let again := match t.last with
    | some l => decide (c ≤ l)
    | none => false
  if gen < 8 ∧ 0 < t.period ∧ at_ % t.period = t.phase % t.period ∧ s.now ≤ at_ ∧ at_ < s.now + 125 ∧ !again then
    let s := s.setTicker gen { t with last := some c }
    done (tickAdopt (s.publish (s.rd EVF.TICK_EV 0 gen) (some (s.clockOf (edgeFrom s (nsFine at_))))) gen)
  else .next s

/-- TRIG_INPUT_EDGE (R296). -/
def execTrigInputEdge (trig : Nat) (rising : Bool) (s : State) : Answer :=
  let w := s.rdN EVF.TRIG_CTL 0 trig
  if trig < 8 ∧ !bit w 31 ∧ bit w (if rising then 29 else 30) then done (s.publish (fld w 22 6)) else .next s

/-- EDDY_OUTPUT_EDGE (R299): an edge has held for FILT. -/
def execEddyOutputEdge (cell : Nat) (s : State) : Answer :=
  match (s.cell cell).edge with
  | none => .next s
  | some e =>
    let ripe := e.at_ + eddyFilt (s.rdN EVF.EDDY_CTL 0 cell)
    if cycleEnd s ≤ ripe then .next s
    else
      let s := eddyExpire (ripe - 1) 4 s cell
      if (s.cell cell).edge = some e then done (eddyPublish s cell) else done s

/-- EDDY_STRETCH_END (R298). -/
def execEddyStretchEnd (cell input : Nat) (s : State) : Answer :=
  match Bank.find input (s.cell cell).ends with
  | some t => if t < cycleEnd s then done (eddyExpire t 4 s cell) else .next s
  | none => .next s

/-- The waiting pulse of a system channel that is due first. -/
def nextRelease (s : State) (sev : Nat) : Option Release :=
  (s.evf.releases.filter fun r => r.sev == sev).foldl (fun (m : Option Release) r => match m with
    | some x => if r.due < x.due then some r else some x
    | none => some r) none

/-- SEV_RELEASE (R303, R305, R306): the pulse of a system channel that is due first, where its release edge falls in the present loop cycle. -/
def execSevRelease (sev : Nat) (s : State) : Answer :=
  match nextRelease s sev with
  | none => .next s
  | some r =>
    if nsFine (s.now + 125) ≤ r.due then .next s
    else
      let ch := s.rd EVF.SEV_IN 0 sev
      let lines := if 0 ≤ ch ∧ ch < 64 then s.evf.lines ++ [{ ch := ch.toNat, rel := true, at_ := some (s.clockOf r.due) }] else s.evf.lines
      .next { s with evf := { s.evf with releases := s.evf.releases.erase r, lines := lines } }

/-- EVF_ECHO_PULSE (R538): an echo is due 64 ns after its pulse. -/
def execEvfEchoPulse (s : State) : Answer :=
  match s.evf.echoDue with
  | [] => .next s
  | (ch, t) :: rest =>
    if cycleEnd s ≤ t then .next s
    else .next { s with evf := { s.evf with echoDue := rest, lines := s.evf.lines ++ [{ ch := ch, echo := true, at_ := some t }] } }

/-- FABRIC_ARM (R291, R308). -/
def execFabricArm (p : Pkt) (s : State) : Answer :=
  runCmd s p 0x0601 {} <|
    if s.evfMode = 1 then ok s
    else if s.evfMode = 2 ∨ s.rd EVF.LOOP_CH ≠ 0xFF then refuse s St.WRONG_STATE
    else ok (enterMode s 1)

/-- EVF_TEST_ENTER (R291, R524). -/
def execEvfTestEnter (p : Pkt) (s : State) : Answer :=
  runCmd s p 0x0602 {} <|
    if lcFor s p = 4 then refuse s St.LC_DENIED
    else if s.evfMode = 2 ∨ s.evfMode = 3 then refuse s St.WRONG_STATE
    else ok (enterMode { s with evf := { s.evf with beforeTest := s.evfMode } } 2)

/-- EVF_TEST_EXIT (R291). -/
def execEvfTestExit (p : Pkt) (s : State) : Answer :=
  runCmd s p 0x0603 {} <|
    if s.evfMode = 2 then ok (enterMode s s.evf.beforeTest) else refuse s St.WRONG_STATE

/-- EVENT_FIRE (R297): one pulse on every selected channel, all at one instant. -/
def execEventFire (p : Pkt) (s : State) : Answer :=
  runCmd s p 0x0604 { used := [(2, allBits), (3, allBits)] } <|
    ok ((maskBits 64 (pw64 p 2)).foldl (fun (s : State) (c : Nat) => s.publish c (some s.clockFine)) s)

/-- EVF_CLEAR (R311). -/
def execEvfClear (p : Pkt) (s : State) : Answer :=
  runCmd s p 0x0605 {} <|
    let s := (List.range 64).foldl (fun s c => s.wr EVF.CH_DROP 0 c 0) s
    let s := (List.range 16).foldl (fun s n => s.wr EVF.SEV_STAT 0 n 0) s
    ok (consumers.foldl (fun s n => if (s.con n).merges = 0 then s else s.setCon n { s.con n with merges := 0 }) s)

/-- The entries of a capture unit that reads in progress will take from it (R311). -/
def leaving (s : State) (u : Nat) : Nat :=
  s.xlt.xfers.foldl (fun n x => match x.fin with
    | .cu v k => if v = u then n + k else n
    | _ => n) 0

/-- CU_READ (R311): entries leave the FIFO, oldest first, once they are written. -/
def execCuRead (p : Pkt) (_wr : Option HostFault) (s : State) : Answer :=
  runCmd s p 0x0606 { host := true, used := [(2, allBits), (3, allBits), (4, allBits), (5, allBits)] } <|
    let u := pw p 2
    let n := pw p 5
    if 15 < u ∨ n = 0 ∨ 16 < n ∨ pw p 3 % 16 ≠ 0 then refuse s St.BAD_VALUE
    else
      let got := ((s.cu u).drop (leaving s u)).take n
      if got.isEmpty then ok s [0]
      else hostPut s p (pw64 p 3) (got.flatMap fun q => [q.w0, q.w1, q.w2, q.w3]) (.cu u got.length)

/-- The consumer a parameter selects a channel for (R286), where it selects for one alone. -/
def selectorOf (r : PRef) : Option Nat :=
  let p := r.prm
  if p.blk = 3 then
    if p.num = SWE.EV_START.num then some (4 * r.inst)
    else if p.num = SWE.EV_NEXT.num then some (4 * r.inst + 1)
    else if p.num = SWE.EV_HOLD.num then some (4 * r.inst + 2)
    else if p.num = SWE.EV_ABORT.num then some (4 * r.inst + 3)
    else none
  else if p.blk = 6 then
    if p.num = SEQ.EV_START.num then some (0x48 + 2 * r.inst)
    else if p.num = SEQ.EV_STOP.num then some (0x49 + 2 * r.inst)
    else none
  else if p.blk = 2 then if p.num = MSR.TRIG_EV.num then some (0x50 + groupOf r.inst) else none
  else if p.blk = 9 then if p.num = STM.MARK_EV.num then some (0x70 + r.inst) else none
  else if p.blk = 5 then if p.num = PIN.ADC_EV.num then some (0x130 + r.inst / 64) else none
  else if p.blk = 8 then
    if p.num = EVF.GRP_EN_EV.num then some (0x110 + 2 * r.idx)
    else if p.num = EVF.GRP_DIS_EV.num then some (0x111 + 2 * r.idx)
    else if p.num = EVF.CU_EV.num then some (0x120 + r.idx)
    else if p.num = EVF.SEV_OUT.num then some (0x138 + r.idx)
    else none
  else none

/-- The consumers whose subscription a parameter write concerns (R286, R292): its own, or those of a control word that change. -/
def resubscribed (old new : State) (r : PRef) : List Nat :=
  match selectorOf r with
  | some n => [n]
  | none =>
    let l := if r.prm.blk = 8 ∧ r.prm.num = EVF.TRIG_CTL.num then [0x68 + r.idx]
      else if r.prm.blk = 8 ∧ r.prm.num = EVF.EDDY_IN.num then (List.range 4).map fun i => 0x90 + 4 * r.idx + i
      else []
    l.filter fun n => selOf old n != selOf new n

/-- A selector write in a single-consumer mode (R292, R293): refused where the channel would have a second consumer; else the written
consumer leaves its suspension. -/
def reselect (old new : State) (r : PRef) : Except Nat State :=
  let ns := resubscribed old new r
  let next := new.takenOver
  if new.evfMode ≠ 1 ∧ ns.any (fun n => match chanOf next n with
      | some c => consumers.any fun m => m != n && chanOf next m == some c
      | none => false) then .error St.SINGLE_CONSUMER
  else .ok (ns.foldl (fun s n =>
    if (s.con n).suspended then countSuspended (s.setCon n { s.con n with suspended := false }) else s) new)

/-- CONS_STAT as it reads (R289). -/
def consStat (s : State) (n : Nat) : Nat :=
  let k := s.con n
  let c := chanOf s n
  b2n k.overrun * 2 ^ 31 + b2n k.suspended * 2 ^ 30 + b2n c.isSome * 2 ^ 29 + c.getD 0 * 2 ^ 23 + k.merges

/-- EDDY_STATE as it reads (R310). -/
def eddyState (s : State) (n : Nat) : Nat :=
  let c := s.cell n
  b2n (eddyLevel (s.rdN EVF.EDDY_CTL 0 n) c) * 32 + b2n c.q * 16 + c.levels

/-- What a write of EDDY_IN or EDDY_CTL does beside placing the value (R298 to R300): an input that is OFF reads 0, one in STRETCH reads 1
only while a stretch time runs, FF 0 clears Q, and the edge detector starts from the output that results. -/
def eddyWritten (s : State) (n : Nat) : State :=
  let c := s.cell n
  let ins := s.rdN EVF.EDDY_IN 0 n
  let ctl := s.rdN EVF.EDDY_CTL 0 n
  let c := (List.range 4).foldl (fun (c : Eddy) i =>
    let c := if fld ins (8 * i + 6) 2 = 0 then { c with levels := setBit c.levels i false } else c
    if fld ins (8 * i + 6) 2 = 1 then
      if (Bank.find i c.ends).isSome then c else { c with levels := setBit c.levels i false }
    else { c with ends := Bank.drop i c.ends }) c
  let c := if bit ctl 7 then c else { c with q := false }
  s.setCell n { c with out := eddyLevel ctl c, edge := none }

/-- A stopped tick generator takes a written setting at once (R295). -/
def tickWritten (s : State) (g : Nat) : State := if (s.ticker g).period = 0 then tickAdopt s g else s

end Sys2Proof.Machine
end

