-- ==== Sys2Proof/Machine/Hv.lean ====
section
/-!
DEFINITION. The rows of the high-voltage channels (R167 to R177): ramps, boost, interlock and discharge.
-/
namespace Sys2Proof.Machine

/-- The four HV channels. -/
def hvChans : List Nat := [128, 129, 130, 131]

/-- HV_RAMP_END (R167, R168): the ramp has reached its end; the next 50 µs carry SETTLING. -/
def execHvRampEnd (ch : Nat) (s : State) : Answer :=
  let f := s.ch ch
  let ended := fun (r : Option Ramp) => match r with
    | some r => decide (r.t1 ≤ s.clock)
    | none => true
  if 128 ≤ ch ∧ (f.ramp.isSome ∨ f.rampN.isSome) ∧ (ended f.ramp && ended f.rampN) then
    let f := { rampCycle s f with ramp := none, rampN := none, flagEnd := max f.flagEnd (s.clock + 50000) }
    done ((s.setCh ch f).put HVC.RAMP (ci ch) 0)
  else .next s

/-- HV_BOOST_STARTED (R169, R170). -/
def execHvBoostStarted (s : State) : Answer :=
  if s.rd HVC.BOOST_STATE = 1 then done (s.put HVC.BOOST_STATE 0 2) else .next s

/-- HV_BOOST_STOP (R170): all four channels have been OFF or TRIPPED for 1 s. -/
def execHvBoostStop (s : State) : Answer :=
  let quiet := hvChans.all fun c => quietSt (s.chState c) && (s.ch c).motion != .starting
  let long := match s.hv.quietAt with
    | some t => decide (t + 1000000000 ≤ s.clock)
    | none => true
  if quiet ∧ long = true ∧ (s.rd HVC.BOOST_STATE = 1 ∨ s.rd HVC.BOOST_STATE = 2) then done (s.put HVC.BOOST_STATE 0 0) else .next s

/-- A channel that is not OFF goes to FAULT; a discharge that runs keeps its path (R170, R174). -/
def faultHv (s : State) (c : Nat) : State :=
  let f := s.ch c
  let s := toFault s c
  if f.disch.isSome then s.setCh c { s.ch c with paths := { ssr := f.paths.ssr } } else s

/-- Whether the interlock has opened in this cycle while the boost ran (R176). -/
def openedNow (s : State) : Bool :=
  s.hv.openedAt == some s.clock && (s.hv.boostWas == 1 || s.hv.boostWas == 2)

/-- HV_BOOST_FAULT (R170, R176, R177): the cause in all four windows, and every channel that is not OFF to FAULT. It counts also in the cycle in
which the interlock opens. -/
def execHvBoostFault (s : State) : Answer :=
  let st := s.rd HVC.BOOST_STATE
  let on := decide (st = 1 ∨ st = 2)
  if on ∨ (st = 0 ∧ openedNow s) then
    let s := hvChans.foldl (fun s c => record s 4 (ci c) 0x04) s
    let s := { s.put HVC.BOOST_STATE 0 3 with hv := { s.hv with faultAt := some s.clock } }
    done (hvChans.foldl faultHv s)
  else .next s

/-- HV_HW_ILIMIT (R169): the analogue 25 mA limit holds the current; the state follows the limit controller. -/
def execHvHwIlimit (ch : Nat) (s : State) : Answer :=
  if 128 ≤ ch ∧ ch < 132 ∧ connected (s.chState ch) then done (record s 4 (ci ch) 0x06) else .next s

/-- Steps 1 and 2 of R174 for one channel: active discharge starts, the path staying closed until the output is below
1 V; a channel that is not OFF goes to TRIPPED, and a start out of OFF does not resume (R175). -/
def dischargeChan (s : State) (c : Nat) : State :=
  let path := (s.ch c).paths.ssr
  let s := if s.chState c = 0 then s else toTripped s c
  s.setCh c { s.ch c with motion := .still, disch := some s.clock, paths := { ssr := path } }

/-- Steps 1 and 2 of R174 for the module: boost disabled, discharge on every channel. A boost fault of the same cycle stands. -/
def interlockActs (s : State) : State :=
  hvChans.foldl dischargeChan (if s.hv.faultAt = some s.clock then s else s.put HVC.BOOST_STATE 0 0)

/-- The loop counts as open from this moment (R174, R176): its 50 ms start anew. -/
def stampOpen (s : State) : State :=
  { s with hv := { s.hv with
    openedAt := some s.clock
    boostWas := if s.hv.openedAt = some s.clock then s.hv.boostWas else s.rdN HVC.BOOST_STATE } }

/-- The loop opens (R174): INTLK_STATE, steps 1 and 2, and the pulse of EV_INTLK. -/
def openLoop (s : State) : State :=
  (interlockActs ((stampOpen s).put HVC.INTLK_STATE 0 0)).publish (s.eff HVC.EV_INTLK)

/-- The interlock opens, or a PFAIL or a failure of the TCXO starts the same steps (R174, R175): the cause in all four windows (R177) and
what follows; a loop that is OPEN stays so, and a discharge goes on (R176). -/
def openInterlock (s : State) : State :=
  if s.rd HVC.INTLK_STATE = 1 then openLoop (hvChans.foldl (fun s c => record s 4 (ci c) 0x02) s) else s

/-- INTERLOCK_OPEN (R174, R176): a loop that was OPEN stays OPEN and its 50 ms count restarts. -/
def execInterlockOpen (s : State) : Answer :=
  if s.rd HVC.INTLK_STATE = 1 then done (openInterlock s) else .next (stampOpen s)

/-- INTERLOCK_CLOSED (R174, R175): the loop current has stayed at or above 4 mA for 50 ms; nothing resumes. -/
def execInterlockClosed (s : State) : Answer :=
  let long := match s.hv.openedAt with
    | some t => decide (t + 50000000 ≤ s.clock)
    | none => true
  if s.rd HVC.INTLK_STATE = 0 ∧ long = true then done (s.put HVC.INTLK_STATE 0 1) else .next s

/-- HV_DISCHARGE_DONE (R174): the output is below 1 V, `past` ns past the instant of the last loop cycle, so the path opens; DISCH_TIME takes
the whole µs since the discharge started. -/
def execHvDischargeDone (ch past : Nat) (s : State) : Answer :=
  match (s.ch ch).disch with
  | some t =>
    if 128 ≤ ch then
      let us := (s.clock + past % 125 - t) / 1000
      done ((s.setCh ch { s.ch ch with disch := none, paths := {} }).put HVC.DISCH_TIME (ci ch) us)
    else .next s
  | none => .next s

/-- DISCHARGE_SLOW (R174, R177): 10 ms after the discharge started the output is still above 30 V. -/
def execDischargeSlow (ch : Nat) (s : State) : Answer :=
  match (s.ch ch).disch with
  | some t => if 128 ≤ ch ∧ t + 10000000 ≤ s.clock then done (record s 4 (ci ch) 0x03) else .next s
  | none => .next s

/-- HV_DISCHARGE_PERIOD_END (R169): 10 ms after the output opened. -/
def execHvDischargePeriodEnd (ch : Nat) (s : State) : Answer :=
  match (s.ch ch).dischPeriod with
  | some t => if t + 10000000 ≤ s.clock then done (s.setCh ch { s.ch ch with dischPeriod := none }) else .next s
  | none => .next s

end Sys2Proof.Machine
end

