-- ==== Sys2Proof/Machine/StatusRows.lean ====
section
/-!
DEFINITION. Writes of status windows, injection with its effects, and the background work that finds errors (R461 to R476, R539).
-/
namespace Sys2Proof.Machine

/-- Whether a window exists (R361). -/
def winExists (blk inst : Nat) : Bool := decide (inst < blockInstances blk)

/-- The instances whose windows a cause is set in (R122, R177, R207): every channel of a group for a group-level cause, all four for a
module-level one, the 64 pins of a chip for a chip-level one. -/
def causeInsts (blk inst code : Nat) : List Nat :=
  if blk = 2 ∧ code = 0x01 then groupChans (groupOf inst)
  else if blk = 4 ∧ (code = 0x02 ∨ code = 0x04) then hvChans.map ci
  else if blk = 5 ∧ 3 ≤ code ∧ code ≤ 5 then chipPins (inst / 64)
  else [inst]

/-- The consequence that a chapter fixes for a cause (R81, R177, R470), beside the cause itself in this window: channels trip, an opened
interlock and a boost fault act on all four HV channels. A real one, detected again in this window, is set in the other windows too; an
injected one stands in them. -/
def fixedEffect (s : State) (blk inst code : Nat) (inj : Bool) : State :=
  let others := fun (s : State) => if inj then s else
    (causeInsts blk inst code).foldl (fun s i => if i = inst then s else recordFixed s blk i { code := code }) s
  match blk with
  | 1 => if 1 ≤ code ∧ code ≤ 3 then toTripped s inst else s
  | 4 =>
    if code = 0x01 then toTripped s (inst + 128)
    else if code = 0x02 then
      if s.rd HVC.INTLK_STATE = 1 then openLoop (others s) else s
    else if code = 0x04 then hvChans.foldl faultHv (others (if inj then s else s.put HVC.BOOST_STATE 0 3))
    else s
  | 2 => if code = 0x01 then others s else s
  | 5 => others s
  | _ => s

/-- Causes detected again in the island cycle of a write (R10, R465, R482), with the consequences their chapters fix. -/
def recordAgain (s : State) (blk inst : Nat) (again : List Nat) : State :=
  let hits := again.filter fun c => (findCause blk c).isSome
  hits.foldl (fun s c => fixedEffect s blk inst c false) (recordHits s blk inst none (hits.map fun c => { code := c }))

/-- The W1C bits of STATUS (R461, R465) and what follows from them: a pin leaves FAULT (R183), LOOP_CH reads none again unless the
monitor trips in the same cycle (R294). FATAL stays. -/
def clearFlags (s : State) (blk inst mask : Nat) (again : List Nat) : State :=
  let w := s.win blk inst
  let s := s.setWin blk inst { w with
    fault := w.fault && !bit mask 30
    degraded := w.degraded && !bit mask 29
    warn := w.warn && !bit mask 28
    injected := w.injected && !bit mask 27 }
  let s := if blk = 5 ∧ bit mask 30 then pinRecovers s inst else s
  if blk = 8 ∧ bit mask 30 && !again.contains 0x01 then s.put EVF.LOOP_CH 0 0xFF else s

/-- STATUS_W1C (R10, R465): causes of the same cycle are set after the clear. -/
def execStatusW1c (blk inst mask : Nat) (again : List Nat) (s : State) : Answer :=
  if winExists blk inst && s.barOpen then done (recordAgain (clearFlags s blk inst mask again) blk inst again) else .next s

/-- Clear the history of a window (R462). -/
def clearHistory (s : State) (blk inst : Nat) : State :=
  s.setWin blk inst { s.win blk inst with count := 0, first := 0, last := 0, firstTime := 0, top := none }

/-- STATUS_CLR_HIST (R462, R482): the history is cleared before a cause of the same cycle. -/
def execStatusClrHist (blk inst : Nat) (again : List Nat) (s : State) : Answer :=
  if winExists blk inst && s.barOpen then done (recordAgain (clearHistory s blk inst) blk inst again) else .next s

/-- Write REACTION (R11, R468, R469): a code that the block does not list keeps the selection. -/
def writeReaction (s : State) (blk inst v : Nat) : State :=
  let w := s.win blk inst
  let code := fld v 16 8
  let action := fld v 0 3
  if !bit v 31 then if (findCause blk code).isSome then s.setWin blk inst { w with reactSel := code } else s
  else match findCause blk code with
    | some c =>
      if c.fixed ∨ code = 0xF0 ∨ !offers blk action then s
      else s.setWin blk inst { w with
        reactSel := code
        reacts := Bank.set (fun _ => none) w.reacts code (if action = c.dflt then none else some action) }
    | none => s

/-- REACTION as it reads (R468). -/
def reactionWord (s : State) (blk inst : Nat) : Nat :=
  let c := (s.win blk inst).reactSel
  c * 65536 + reactionOf s blk inst c

/-- REACTION_WRITE. -/
def execReactionWrite (blk inst value : Nat) (s : State) : Answer :=
  if winExists blk inst && s.barOpen then done (writeReaction s blk inst value) else .next s

/-- Whether the life-cycle state grants what FIELD_SEALED and SCRAPPED do not (R524): serial loopbacks, boundary scan, injection,
downgrade, LOG_CLEAR. -/
def openAccess (s : State) : Bool := grantsOpen s.lcState

/-- The effect that an injected cause has on data (R539), once its reaction has acted. -/
def injectEffect (s : State) (blk inst code : Nat) : State :=
  match blk with
  | 2 =>
    let a := s.avg inst
    if code = 0x05 then s.setAvg inst { a with saturateNext := true }
    else if code = 0x02 ∨ code = 0x03 then s.setAvg inst { a with loseNext := true }
    else s
  | 5 => if code = 0x04 then s.setConv (inst / 64) { s.conv (inst / 64) with failNext := true } else s
  | 6 =>
    let q := s.sequencer inst
    if code = 0x04 then s.setSequencer inst { q with missNext := true }
    else if code = 0x06 then s.setSequencer inst { q with loseNext := true }
    else s
  | 7 => if code = 0x01 then refLost (s.setTb { s.tb with injTill := s.clock + 1000000 }) true else s
  | 9 =>
    let t := s.stream inst
    if code = 0x01 then s.setStream inst { t with failNext := some (.translation 1) }
    else if code = 0x02 then s.setStream inst { t with failNext := some .media }
    else if code = 0x06 then s.setStream inst { t with dropNext := true }
    else s
  | 10 =>
    if 1 ≤ code ∧ code ≤ 7 then
      { s with xlt := { s.xlt with failNext := Bank.set (fun _ => none) s.xlt.failNext inst (some code) } }
    else s
  | 11 => if code = 0x05 ∧ 1 ≤ inst then s.setPort (inst - 1) { s.port (inst - 1) with loseNext := true } else s
  | _ => fixedEffect s blk inst code true

/-- Samples of every channel whose output an injected cause has opened carry AZ_INJ (R539, log 233); `t` is the state before it. -/
def markInjected (t s : State) : State :=
  (List.range 132).foldl (fun s c =>
    if t.chState c < 6 ∧ 6 ≤ s.chState c then s.setCh c { s.ch c with injectedNow := true } else s) s

/-- Inject the cause that INJECT holds (R471, R472, R539); nothing where it names none or the island stands. -/
def injectNow (s : State) (blk inst : Nat) : State :=
  let v := (s.win blk inst).inject
  let code := fld v 16 8
  if (findCause blk code).isNone ∨ stopped s (islandOf blk inst) then s
  else
    let apply := bit v 29
    let t := s
    let s := s.setWin blk inst { s.win blk inst with injAt := s.clock }
    let hit : Hit := { code := code, inj := true, high := bit v 28, apply := apply }
    let s := (causeInsts blk inst code).foldl (fun s i => recordHits s blk i none [hit]) s
    if apply then markInjected t (settle (injectEffect s blk inst code)) else s

/-- Write INJECT (R11, R471): an unlisted CAUSE and a PERIOD of 0 keep their previous values; GO injects at the next island cycle. -/
def writeInject (s : State) (blk inst v : Nat) : State :=
  if (bit v 31 || bit v 30) && !openAccess s then s
  else
    let w := s.win blk inst
    let code := if (findCause blk (fld v 16 8)).isSome then fld v 16 8 else fld w.inject 16 8
    let period := if fld v 0 16 = 0 then fld w.inject 0 16 else fld v 0 16
    let s := s.setWin blk inst { w with
      inject := fld v 28 3 * 2 ^ 28 + code * 65536 + period
      injAt := if bit v 30 then s.clock else w.injAt }
    if bit v 31 then injectNow s blk inst else s

/-- INJECT_GO. -/
def execInjectGo (blk inst value : Nat) (s : State) : Answer :=
  if winExists blk inst && s.barOpen then done (writeInject s blk inst (setBit value 31 true)) else .next s

/-- INJECT_REPEAT (R471): PERIOD ms since the last injection. -/
def execInjectRepeat (blk inst : Nat) (s : State) : Answer :=
  let w := s.win blk inst
  if winExists blk inst && bit w.inject 30 && decide (w.injAt + 1000000 * fld w.inject 0 16 ≤ s.clock) then
    done (injectNow s blk inst)
  else .next s

/-- The block instance that owns a DRAM word (R475). -/
def DramWord.owner : DramWord → Nat × Nat
  | .vector d _ => (6, d)
  | .capture d _ => (6, d)
  | .stream n _ => (9, n)
  | .firmware => (13, 0)

/-- The block instance that owns an SRAM word (R475). -/
def SramWord.owner : SramWord → Nat × Nat
  | .pinArea d _ => (6, d)
  | .ring d _ => (6, d)
  | .other b i => (b, i)

/-- Add to a list what it does not hold. -/
def insertNew (l : List Nat) (x : Nat) : List Nat := if l.contains x then l else l ++ [x]

/-- An uncorrectable DRAM word is remembered until it is used or written (R132, R235, R400). -/
def spoilDram (s : State) : DramWord → State
  | .vector d g => s.setSequencer d { s.sequencer d with badGrans := insertNew (s.sequencer d).badGrans g }
  | .capture d r => s.setSequencer d { s.sequencer d with badCaps := insertNew (s.sequencer d).badCaps r }
  | .stream n q =>
    let t := s.stream n
    s.setStream n { t with blocks := t.blocks.map fun b => if b.seq = q then { b with bad := true } else b }
  | .firmware => s

/-- An uncorrectable SRAM word is remembered where the model holds its use (R235). -/
def spoilSram (s : State) : SramWord → State
  | .pinArea d v => s.setSequencer d { s.sequencer d with pinBad := insertNew (s.sequencer d).pinBad v }
  | .ring d g =>
    let q := s.sequencer d
    s.setSequencer d { q with ring := q.ring.map fun r => if r.gran = g then { r with bad := true } else r }
  | .other _ _ => s

/-- What a scrub pass finds (R474, R475): counts and causes in the owners' windows, and SCRUB_LATE. -/
def scrubFound (s : State) (fixed bad : List (Nat × Nat)) (late : Bool) : State :=
  let s := fixed.foldl (fun s o => corrected s o.1 o.2) s
  let s := bad.foldl (fun s o => uncorrected s o.1 o.2) s
  if late then record s 0x0D 0 0x80 else s

/-- A pass of a scrubber, 0 of DRAM, 1 of sweep memory, 2 of other SRAM, begins a new period (R474). -/
def newScrub (s : State) (k : Nat) : State :=
  { s with vane := { s.vane with scrubAt := s.vane.scrubAt.set k s.clock } }

/-- Whether the period of a scrubber is over (R474). -/
def scrubDue (s : State) (k period : Nat) : Bool := decide (s.vane.scrubAt.getD k 0 + period ≤ s.clock)

/-- The fixed period of the SRAM scrubs, in ns (R474). -/
def sramPeriod : Nat := 10000000000

/-- DRAM_SCRUB (R474, R475, R481, R482): `progress` is how far the pass has come, in 0.01 %; one that falls back begins the next pass, in
a new period. A pass pauses in Lull, and is late only once its period is over. -/
def execDramScrub (corrected bad : List DramWord) (late : Bool) (progress : Nat) (s : State) : Answer :=
  if s.pwr.lull = 3 then .next s
  else
    let missed := late && scrubDue s 0 (3600000000000 * s.vane.scrubHours)
    let s := if progress < s.rdN VANE.SCRUB_PROGRESS then
        let t := newScrub s 0
        { t with vane := { t.vane with scrubHours := t.rdN VANE.SCRUB_DRAM_PERIOD } }
      else s
    let s := s.put VANE.SCRUB_PROGRESS 0 (min progress 10000 : Nat)
    done (scrubFound (bad.foldl spoilDram s) (corrected.map DramWord.owner) (bad.map DramWord.owner) missed)

/-- SRAM_SCRUB (R474, R475): a pass that ends; it is late only once its period is over. -/
def execSramScrub (corrected bad : List SramWord) (late : Bool) (s : State) : Answer :=
  if s.pwr.lull = 3 then .next s
  else
    let missed := late && scrubDue s 2 sramPeriod
    done (scrubFound (bad.foldl spoilSram (newScrub s 2)) (corrected.map SramWord.owner) (bad.map SramWord.owner) missed)

/-- The code of SHADOW_MISMATCH in a block's window (R81, R122, R160, R177, R207, R252, R277, R309, R377, R406, R407, R434, R457, R511, R528,
R544); 0 where the block has none. -/
def shadowCode (blk : Nat) : Nat :=
  [0, 0x0B, 0x06, 0x0B, 0x09, 0x06, 0x0B, 0x07, 0x06, 0x09, 0x08, 0x0E, 0x07, 0x0E, 0x03, 0x0A, 0x05].getD blk 0

/-- SHADOW_COMPARE (R474, R476, R481): once in a period, whose length is SHADOW_PERIOD as it stood at its start. The register has its shadow's
value again, and its block's cause is set; a channel's beside the protection causes of its cycle (R80). None in Lull. -/
def execShadowCompare (mismatches : List (Nat × Nat)) (s : State) : Answer :=
  if s.pwr.lull = 3 ∨ s.clock < s.vane.shadowAt + 1000000 * s.vane.shadowMs then .next s
  else
    let s := { s with vane := { s.vane with shadowAt := s.clock, shadowMs := s.rdN VANE.SHADOW_PERIOD } }
    done (mismatches.foldl (fun s m =>
      if m.1 = 1 ∨ m.1 = 4 then recordChan s (if m.1 = 1 then m.2 else m.2 + 128) (shadowCode m.1)
      else record s m.1 m.2 (shadowCode m.1)) s)

end Sys2Proof.Machine
end

