-- ==== Sys2Proof/Machine/Cmd.lean ====
section
/-!
DEFINITION. Command handling (R313 to R345): queues, doorbells, fetch, dispatch, completions, the mailbox, the immediate path and the
commands that read what the module is.
-/
namespace Sys2Proof.Machine

/-- A write of SQ_TAIL (R317). -/
def ringTail (s : State) (q value : Nat) : State :=
  let v := fld value 0 12
  let k := s.sq q
  if !k.enable ∨ k.size < v then hlCause s 0x40 else s.setSq q { k with tail := v }

/-- SQ_TAIL_DOORBELL (R317, R363). -/
def execSqTailDoorbell (q value : Nat) (s : State) : Answer :=
  if q < 64 ∧ s.barOpen then done (ringTail s q value) else .next s

/-- The completions of an enabled queue that find it full wait (R325): FULL, and CQ_FULL for each of them once. -/
def cqWaits (s : State) (q : Nat) : State :=
  let k := s.cq q
  if !k.enable ∨ k.fault ∨ k.pend.isEmpty ∨ cqRoom k then s
  else
    let fresh := k.pend.filter fun c => !c.waited
    fresh.foldl (fun s _ => hlCause s 0x43) (s.setCq q { k with full := true, pend := k.pend.map fun c => { c with waited := true } })

/-- A write of CQ_HEAD (R317, R325, R346): what was waiting till then had found the queue full. -/
def ringHead (s : State) (q value : Nat) : State :=
  let v := fld value 0 12
  let k := s.cq q
  let e := ringLen k.size
  if !k.enable ∨ k.size < v ∨ (k.tail + e - k.head) % e < (v + e - k.head) % e then hlCause s 0x40
  else
    let s := cqWaits s q
    let k := { s.cq q with head := v }
    s.setCq q { k with full := k.full && !cqRoom k }

/-- CQ_HEAD_DOORBELL (R317, R325, R346). -/
def execCqHeadDoorbell (q value : Nat) (s : State) : Answer :=
  if q < 64 ∧ s.barOpen then done (ringHead s q value) else .next s

/-- Packets of a queue that wait for dispatch complete with FLUSHED (R316, R346). -/
def flushQueue (s : State) (q : Nat) : State :=
  let hit := fun (o : Op) => o.stage == .waiting && o.pkt.src == .sq q
  let s' := { s with cmd := { s.cmd with ops := s.cmd.ops.map fun o => if hit o then { o with stage := .released } else o } }
  (s.cmd.ops.filter hit).foldl (fun s o => s.complete (.sq q) (pTag o.pkt) St.FLUSHED []) s'

/-- Write SQ ENABLE (R316, R319): a write that changes nothing does nothing. -/
def setSqEnable (s : State) (q : Nat) (on : Bool) : State :=
  let k := s.sq q
  if on then
    if !(s.cq k.cq).enable then hlCause s 0x44
    else if k.enable then s
    else s.setSq q { k with enable := true, head := 0, tail := 0, fetching := 0, fault := false }
  else if k.enable then flushQueue (s.setSq q { k with enable := false, fault := false, fetching := 0 }) q
  else s.setSq q { k with fault := false }

/-- A fault notice of this module's own stream is no longer in flight (R402). -/
def noticeGone (s : State) (c : Cpl) : State :=
  match c.notice with
  | some (none, n) => s.setStream n { s.stream n with notice := false }
  | _ => s

/-- Write CQ ENABLE (R316, R319): disabling discards the completions that wait, and their operations leave. -/
def setCqEnable (s : State) (q : Nat) (on : Bool) : State :=
  let k := s.cq q
  if on then
    if k.enable then s
    else s.setCq q { k with enable := true, head := 0, tail := 0, phase := true, fault := false, full := false, unsig := 0 }
  else if s.cmd.sqs.any fun e => e.2.enable && e.2.cq == q then hlCause s 0x44
  else
    let gone := fun (o : Op) => k.pend.any fun c => c.owns && c.src == o.pkt.src && c.tag == pTag o.pkt
    let s := { s with cmd := { s.cmd with ops := s.cmd.ops.filter fun o => !gone o } }
    let s := k.pend.foldl noticeGone s
    s.setCq q { k with enable := false, fault := false, full := false, pend := [], unsig := 0 }

/-- SQ_ENABLE_WRITE. -/
def execSqEnableWrite (q : Nat) (value : Bool) (s : State) : Answer :=
  if q < 64 ∧ s.barOpen then done (setSqEnable s q value) else .next s

/-- CQ_ENABLE_WRITE. -/
def execCqEnableWrite (q : Nat) (value : Bool) (s : State) : Answer :=
  if q < 64 ∧ s.barOpen then done (setCqEnable s q value) else .next s

/-- A fetched packet is an operation in flight (R327). -/
def addOp (s : State) (p : Pkt) : State := { s with cmd := { s.cmd with ops := s.cmd.ops ++ [⟨p, .waiting⟩] } }

/-- PACKET_FETCH (R319, R327, R328, R345, R396): a mailbox packet that waited is taken; else a read of up to 8 packets, not past the end of the
ring nor a 4 KiB boundary, is issued for the queue whose turn it is, once it is translated. -/
def execPacketFetch (s : State) : Answer :=
  if s.cmd.mbxWaiting ∧ mayFetch s false then
    .next (addOp { s with cmd := { s.cmd with mbxWaiting := false } } ⟨.mbx, s.cmd.mbxCmd⟩)
  else match nextSq s with
    | none => .next s
    | some n =>
      if !s.dmaOpen then .next s
      else
        let k := s.sq n
        let e := ringLen k.size
        let room := if k.imm then 4096 - (inFlight s + fetchingNow s)
          else min (4096 - (inFlight s + fetchingNow s)) (4032 - (fwInFlight s + fwFetching s))
        let va := k.base + 64 * k.head
        let count := min (min 8 room) (min (min ((k.tail + e - k.head) % e) (e - k.head)) (64 - k.head % 64))
        let s := { s with cmd := { s.cmd with lastSq := Bank.set (fun _ => 63) s.cmd.lastSq k.qprio n } }
        match reachBus s (.ring n) n va false with
        | .go pa => .next ((s.setSq n { k with fetching := count }).request n (.hostRead n pa (64 * count)))
        | .wait t => .next t
        | .fail t _ => done (ringFails t n)

/-- Whether a queue is named for fault notices, whose tag is then reserved (R402). -/
def noticeQueue (s : State) (q : Nat) : Bool := (List.range 32).any fun n => s.rd STM.NOTICE_SQ n == q

/-- A fetched packet takes its place among the operations in flight, or completes for its duplicate tag (R330, R402), which is in flight
until its own completion is written (R327). -/
def arriveOne (q : Nat) (s : State) (ws : List Nat) : State :=
  let p : Pkt := ⟨.sq q, pad 16 ws⟩
  let waits := fun (c : Cpl) => !c.owns && c.status == St.DUP_TAG && c.src == .sq q && c.tag == pTag p
  if (s.cmd.ops.any fun o => o.pkt.src == .sq q && pTag o.pkt == pTag p) || (s.cmd.cqs.any fun e => e.2.pend.any waits) || (pTag p == 0xFFF && noticeQueue s q) then
    s.complete (.sq q) (pTag p) St.DUP_TAG [] false
  else addOp s p

/-- PACKET_ARRIVE (R318, R319, R330, R354): the packets of the read under way, or the fault that its completion reports. -/
def execPacketArrive (q : Nat) (packets : List (List Nat)) (fault : Option HostFault) (s : State) : Answer :=
  let k := s.sq q
  if 64 ≤ q ∨ k.fetching = 0 then .next s
  else match fault with
    | some f => done (ringFails (hostFaulted s q (k.base + 64 * k.head) (readStatus f)) q)
    | none =>
      if packets.length ≠ k.fetching then .next s
      else
        let s := s.setSq q { k with fetching := 0, head := (k.head + packets.length) % ringLen k.size }
        done (packets.foldl (arriveOne q) s)

/-- Whether fences and ring order let an operation be dispatched, given those fetched before it (R329, R331). -/
def fenceAllows (s : State) (before : List Op) (o : Op) : Bool :=
  match o.pkt.src with
  | .sq n =>
    let mine := before.filter fun b => b.pkt.src == o.pkt.src
    if (s.sq n).imm then mine.all fun b => b.stage == .released || opDone s b
    else
      let open_ := mine.filter fun b => !opDone s b
      if pFence o.pkt then open_.isEmpty else !(open_.any fun b => pFence b.pkt)
  | _ => true

/-- The waiting operations that may be dispatched, in fetch order. -/
def readyOps (s : State) : List Op → List Op → List Op
  | _, [] => []
  | before, o :: os =>
    let rest := readyOps s (before ++ [o]) os
    if o.stage == .waiting && fenceAllows s before o then o :: rest else rest

/-- Cores that firmware commands may use (R328, R506). -/
def coreCount (s : State) : Nat :=
  match s.vane.act with
  | some a => if a.kind = 0 ∧ 2 ≤ a.step then 2 else 4
  | none => 4

/-- Cores in use. -/
def coresBusy (s : State) : Nat :=
  (s.cmd.ops.filter fun o => o.stage == .running && !immediateOk (pOpcode o.pkt) && !opDone s o).length

/-- Whether an operation needs no core (R331). -/
def onImmediatePath (s : State) (o : Op) : Bool := immediateOk (pOpcode o.pkt) || immediateSq s o.pkt

/-- The operation dispatched next (R328, R331): the immediate path takes its own in fetch order; a free core takes the lowest PRIORITY. -/
def nextOp (s : State) : Option Op :=
  let ready := readyOps s [] s.cmd.ops
  match ready.find? (onImmediatePath s) with
  | some o => some o
  | none =>
    if fwPaused s ∨ coreCount s ≤ coresBusy s then none
    else (List.range 4).findSome? fun p => ready.find? fun o => pPrio o.pkt == p

/-- The opcodes of R342. -/
def listedOpcode (code : Nat) : Bool :=
  let c := code / 256
  let o := code % 256
  if c = 0 then 1 ≤ o && o ≤ 4
  else if c = 1 then 1 ≤ o && o ≤ 4
  else if c = 2 then 1 ≤ o && o ≤ 5
  else if c = 3 then 1 ≤ o && o ≤ 9
  else if c = 4 then 1 ≤ o && o ≤ 0x13
  else if c = 5 then 1 ≤ o && o ≤ 4
  else if c = 6 then 1 ≤ o && o ≤ 6
  else if c = 7 then 1 ≤ o && o ≤ 6
  else if c = 8 then 1 ≤ o && o ≤ 7
  else if c = 9 then 1 ≤ o && o ≤ 7
  else if c = 0xA then 1 ≤ o && o ≤ 5
  else if c = 0xB then 1 ≤ o && o ≤ 3
  else if c = 0xC then 1 ≤ o && o ≤ 3
  else false

/-- A command that is dispatched now is checked against the present life-cycle state (R519). -/
def judgedNow (s : State) (p : Pkt) : State := { s with lc := { s.lc with before := s.lc.before.filter fun e => e.1 != p } }

/-- COMMAND_DISPATCH (R328 to R331, R342, R519, R541): an unlisted opcode completes at once, and so does one that an immediate queue does not take; any
other operation is dispatched, and its own row says what it does. -/
def execCommandDispatch (s : State) : Answer :=
  if stopped s .cmd ∨ s.tst.extest then .next s
  else match nextOp s with
    | none => .next s
    | some o =>
      let set := fun (st : OpStage) => { s with cmd := { s.cmd with ops := s.cmd.ops.map fun x =>
        if x == o then { x with stage := st } else x } }
      if immediateSq s o.pkt && !immediateOk (pOpcode o.pkt) then
        done ((set .released).complete o.pkt.src (pTag o.pkt) St.IMM_ONLY [])
      else if !listedOpcode (pOpcode o.pkt) then
        done ((set .released).complete o.pkt.src (pTag o.pkt) St.BAD_OPCODE [])
      else .next (judgedNow (set .running) o.pkt)

/-- The interrupt of a completion queue (R326): what it has signalled is counted anew. -/
def cqInterrupt (s : State) (q : Nat) : State :=
  let k := s.cq q
  (s.setCq q { k with unsig := 0 }).raise k.vector

/-- A completion that was written leaves its operation (R327); a fault notice is no longer in flight (R402); once the completion of
LULL_ENTER is posted the module fetches no more (R373). -/
def completionWritten (s : State) (c : Cpl) : State :=
  let s := if c.owns then { s with cmd := { s.cmd with ops := dropOp s.cmd.ops c.src c.tag } } else noticeGone s c
  if s.pwr.lull = 1 ∧ s.pwr.lullCmd = some (c.src, c.tag) ∧ c.owns then
    { s with pwr := { s.pwr with lull := 2, lullAt := s.clock }, hl := { s.hl with hostState := 2 } }
  else s

/-- The oldest completion of a queue is written at a bus address (R323, R326). -/
def postOne (s : State) (q pa : Nat) (c : Cpl) (rest : List Cpl) : State :=
  let k := s.cq q
  let n := match c.src with | .sq n => n | _ => 0
  let s := s.request q (.hostWrite q pa (cplWords c k.phase false (s.sq n).head n))
  let tail := (k.tail + 1) % ringLen k.size
  let k' := { k with
    pend := rest, tail := tail, phase := if tail = 0 then !k.phase else k.phase
    unsig := k.unsig + 1, unsigAt := if k.unsig = 0 then s.clock else k.unsigAt, full := false }
  let s := completionWritten (cqWaits (s.setCq q k') q) c
  if k'.irqEn && decide (max 1 k'.coalCount ≤ k'.unsig) then cqInterrupt s q else s

/-- COMPLETION_POST (R319, R323 to R326, R396): the oldest completion of a queue is written once it is translated, waits for room, or meets a
fault of its translation, the only one that a write meets (R354). -/
def execCompletionPost (q : Nat) (_fault : Option HostFault) (s : State) : Answer :=
  let k := s.cq q
  match k.pend with
  | [] => .next s
  | c :: rest =>
    if !k.enable ∨ k.fault ∨ !s.dmaOpen ∨ 64 ≤ q ∨ awaits s (.post q) q then .next s
    else if !cqRoom k then done (cqWaits s q)
    else match reachBus s (.post q) q (k.base + 32 * k.tail) true with
      | .go pa => done (postOne s q pa c rest)
      | .wait t => .next t
      | .fail t _ => done (postFails t q)

/-- CQ_INTERRUPT_TIMER (R326). -/
def execCqInterruptTimer (q : Nat) (s : State) : Answer :=
  let k := s.cq q
  if q < 64 ∧ k.irqEn ∧ 0 < k.unsig ∧ k.unsigAt + 1000 * 2 ^ k.coalTime ≤ s.clock then .next (cqInterrupt s q) else .next s

/-- A write of GO (R345): a mailbox packet that finds fetching paused waits. -/
def mbxGo (s : State) : State :=
  if s.cmd.mbxBusy then hlCause s 0x40
  else
    let s := { s with cmd := { s.cmd with mbxBusy := true, mbxDone := false } }
    if mayFetch s false then addOp s ⟨.mbx, pad 16 s.cmd.mbxCmd⟩
    else { s with cmd := { s.cmd with mbxWaiting := true, mbxCmd := pad 16 s.cmd.mbxCmd } }

/-- MBX_GO (R345). -/
def execMbxGo (s : State) : Answer := if s.barOpen then done (mbxGo s) else .next s

/-- NOP (R338). -/
def execNop (p : Pkt) (s : State) : Answer := runCmd s p 0x0001 {} (ok s)

/-- A flash slot (R502). -/
def State.flash (s : State) (i : Nat) : FlashSlot := Bank.get slotInit s.vane.slots i

/-- The slot an image kind runs from. -/
def runningSlot (s : State) (kind : Nat) : Nat := 2 * kind + Bank.get (fun _ => 0) s.vane.running kind

/-- The version of the image of a kind that runs (R338, R357). -/
def runningVersion (s : State) (kind : Nat) : Nat := (s.flash (runningSlot s kind)).version

/-- Word 2 of IDENTIFY page 0 (R338): the part, the grade and the hardware revision of the module. -/
def idPart : Nat := 0x0128 * 65536 + (Config.identity 0).toNat % 512

/-- The words of the serial number (R338). -/
def serialWords : List Nat := (List.range 4).map fun i => (Config.identity (8 + i)).toNat

/-- The pages of IDENTIFY (R338). -/
def identityPage (s : State) : Nat → Option (List Nat)
  | 0 => some [idPart, runningVersion s 0, runningVersion s 1, runningVersion s 2]
  | 1 => some serialWords
  | 2 => some [4096 * 65536 + 64, 4096, 65536, 64]
  | _ => none

/-- IDENTIFY (R338). -/
def execIdentify (p : Pkt) (s : State) : Answer :=
  runCmd s p 0x0002 { used := [(2, allBits)] } <|
    match identityPage s (pw p 2) with
    | some ws => ok s ws
    | none => refuse s St.BAD_VALUE

/-- The channel whose SETPOINT an ID names (R333). -/
def setpointChan (id : Nat) : Option Nat :=
  let inst := id / 0x1000 % 0x1000
  if id % 0x1000 ≠ 2 then none
  else if id / 0x1000000 = 1 ∧ inst < 128 then some inst
  else if id / 0x1000000 = 4 ∧ inst < 4 then some (inst + 128)
  else none

/-- SET_NOW (R78, R333, R334): the result words carry the SYSTIME of the boundary that takes the value. -/
def execSetNow (p : Pkt) (s : State) : Answer :=
  runCmd s p 0x0201 { used := [(1, allBits), (2, allBits)] } <|
    match setpointChan (pw p 1) with
    | none => refuse s St.BAD_ID
    | some c =>
      let v := sfld 24 (pw p 2)
      if toField 32 v ≠ pw p 2 then refuse s St.BAD_VALUE
      else match setSetpoint s c v true with
        | .error e => refuse s e
        | .ok (t, delay) =>
          let at_ := s.now + 125 + 125 * delay
          if delay = 0 then ok t [lo32 at_, hi32 at_]
          else .done St.SUCCESS_WARN [lo32 at_, hi32 at_, 0, delay] t

/-- TRIGGER (R335): a pulse at each input it selects, past channels and observers. -/
def execTrigger (p : Pkt) (s : State) : Answer :=
  runCmd s p 0x0202 { used := [(2, 0x1FFFF), (3, 0x1FFFF), (4, 3)] } <|
    let ns := (maskBits 17 (pw p 2)).map (0x50 + ·) ++ (maskBits 17 (pw p 3)).map (4 * ·) ++
      (maskBits 2 (pw p 4)).map (0x48 + 2 * ·)
    if ns.any (conStopped s) then refuse s St.ISLAND_STOPPED else
    let t := ns.foldl (fun s n => deliver s n 0 s.clockFine false) s
    ok t [lo32 s.systime, hi32 s.systime]

/-- STATUS_READ (R22, R337). -/
def execStatusRead (p : Pkt) (s : State) : Answer :=
  runCmd s p 0x0204 { used := [(1, allBits)] } <|
    let id := pw p 1
    let blk := id / 0x1000000
    let inst := id / 0x1000 % 0x1000
    if id % 0x1000 ≠ 0 ∨ !winExists blk inst then refuse s St.BAD_ID
    else if stopped s (islandOf blk inst) then refuse s St.ISLAND_STOPPED
    else
      let w := s.win blk inst
      ok s [statusWord w, w.count, w.first, w.last]

/-- NOW_RESERVE (R334, R565): the ceiling is admitted for every setpoint up to it. -/
def execNowReserve (p : Pkt) (s : State) : Answer :=
  runCmd s p 0x0205 { used := [(1, allBits), (2, allBits)] } <|
    match targetInst p 1 with
    | none => refuse s St.BAD_ID
    | some c =>
      if 4194304 < pw p 2 then refuse s St.BAD_VALUE
      else if stopped s (chanIsland c) then refuse s St.ISLAND_STOPPED
      else
        let t := { s with cmd := { s.cmd with ceilings := Bank.set (fun _ => 0) s.cmd.ceilings c (pw p 2) } }
        match grantCh s (t.setCh c (t.ch c)) c with
        | .ok t => ok t
        | .error e => refuse s e

end Sys2Proof.Machine
end

