-- ==== Sys2Proof/Machine/Mesh.lean ====
section
/-!
DEFINITION. The mesh (R411 to R436): ports, enumeration, route tables and their repair, forwarded commands and host memory, time
synchronisation, system-channel frames and port loopbacks.
-/
namespace Sys2Proof.Machine

/-- ENUM_STATE (R435): 0 UNENUMERATED, 1 MEMBER, 2 STANDALONE, 3 ISOLATED. -/
def enumState (s : State) : Nat := s.rdN MSH.ENUM_STATE

/-- This node's ID. -/
def nodeId (s : State) : Nat := s.rdN MSH.NODE_ID

/-- PORT_STATE of a port (R412): 0 DISABLED, 1 DOWN, 2 TRAINING, 3 UP, 4 LOOPBACK. -/
def portState (s : State) (p : Nat) : Nat := s.rdN MSH.PORT_STATE (p + 1)

/-- A cause of the mesh, in the node's instance or a port's (R434). -/
def mshCause (s : State) (inst code : Nat) : State := record s 0x0B inst code

/-- The entry of a node ID in the route table (R419). -/
def routeOf (s : State) (n : Nat) : Nat := Bank.get (fun _ => 0) s.msh.routes n

/-- Whether a route leads to another node (R419). -/
def routeValid (s : State) (n : Nat) : Bool := bit (routeOf s n) 15 && !bit (routeOf s n) 14

/-- Replace what the mesh holds. -/
def State.setMsh (s : State) (m : Msh) : State := { s with msh := m }

/-- The node behind a port of a node, where there is one that `ok` takes. -/
def behind (g : MeshGraph) (ok : Nat → Bool) (i p : Nat) : Option Nat :=
  match (g.nodes[i]?).bind fun n => (n.links[p]?).join with
  | some k => if k < g.nodes.length && ok k then some k else none
  | none => none

/-- The nodes behind the ports of a node, MESH_A first. -/
def around (g : MeshGraph) (ok : Nat → Bool) (i : Nat) : List Nat := (List.range 4).filterMap (behind g ok i)

/-- The ID of a node of the graph. -/
def idAt (g : MeshGraph) (i : Nat) : Option Nat := (g.nodes[i]?).bind MeshNode.id

/-- Whether a node is a member. -/
def isMember (g : MeshGraph) (i : Nat) : Bool := (idAt g i).isSome

/-- Hop counts from the nodes of a queue over members, by node: breadth first (R419). -/
def spread (g : MeshGraph) : Nat → List (Nat × Nat) → List (Nat × Nat) → List (Nat × Nat)
  | 0, _, seen => seen
  | _, [], seen => seen
  | n + 1, (i, h) :: q, seen =>
    let new := (((around g (isMember g) i).filter fun k => !(seen.any fun e => e.1 == k)).eraseDups).map fun k => (k, h + 1)
    spread g n (q ++ new) (seen ++ new)

/-- The hop counts from a member. -/
def hopsFrom (g : MeshGraph) (i : Nat) : List (Nat × Nat) := spread g (g.nodes.length + 1) [(i, 0)] [(i, 0)]

/-- The hop count between two members, where there is a path. -/
def hopsBetween (g : MeshGraph) (i j : Nat) : Option Nat := ((hopsFrom g i).find? fun e => e.1 == j).map Prod.snd

/-- What discovery has found (R415, R416): the nodes claimed, in the order of their IDs, with hop counts; those left STANDALONE by the
ID space and by the hop limit. -/
structure Found where
  claimed : List (Nat × Nat)
  full : List Nat
  far : List Nat
deriving DecidableEq, Repr

/-- Discovery examines one neighbour at a hop count (R415, R416). -/
def examine (h : Nat) (f : Found) (k : Nat) : Found :=
  if (f.claimed.any fun e => e.1 == k) || f.full.contains k || f.far.contains k then f
  else if 63 < h then { f with far := f.far ++ [k] }
  else if 16383 ≤ f.claimed.length then { f with full := f.full ++ [k] }
  else { f with claimed := f.claimed ++ [(k, h)] }

/-- Discovery processes the claimed nodes in the order of their IDs (R415). -/
def discover (g : MeshGraph) : Nat → Nat → Found → Found
  | 0, _, f => f
  | n + 1, k, f =>
    match f.claimed[k]? with
    | some (i, h) => discover g n (k + 1) ((around g (fun _ => true) i).foldl (examine (h + 1)) f)
    | none => f

/-- The graph with the IDs that discovery assigned. -/
def withIds (g : MeshGraph) (f : Found) : MeshGraph :=
  { g with nodes := (g.nodes.zipIdx).map fun e => { e.1 with id := f.claimed.findIdx? fun c => c.1 == e.2 } }

/-- The route entry of this node, the first of the graph, for a member (R419): the fewest hops, the lower port on a tie. Hop counts
above 63 read 63. -/
def routeEntry (g : MeshGraph) (j : Nat) : Nat :=
  let way := fun p => match behind g (isMember g) 0 p with
    | some k => (hopsBetween g k j).map fun h => (h + 1, p)
    | none => none
  let best := ((List.range 4).filterMap way).foldl (fun (m : Option (Nat × Nat)) e => match m with
    | some b => if e.1 < b.1 then some e else some b
    | none => some e) none
  match best with
  | some (h, p) => 0x8000 + p * 4096 + min h 63 * 64
  | none => 0

/-- The route table (R419). -/
def routeTable (g : MeshGraph) : Bank Nat :=
  (List.range g.nodes.length).foldl (fun b j => match idAt g j with
    | some n => Bank.set (fun _ => 0) b n (if j = 0 then 0xC000 else routeEntry g j)
    | none => b) []

/-- DIAMETER (R417): the largest hop count between two members that this node can reach. -/
def diameter (g : MeshGraph) : Nat :=
  ((hopsFrom g 0).map Prod.fst).foldl (fun m i => (hopsFrom g i).foldl (fun m e => max m e.2) m) 0

/-- The port of a member that leads to the neighbour with the fewest hops to the root, the lower letter on a tie, with that neighbour
(R421). -/
def parentOf (g : MeshGraph) (i : Nat) : Option (Nat × Nat) :=
  let way := fun p => match behind g (isMember g) i p with
    | some k => (hopsBetween g g.root k).map fun h => (h, p, k)
    | none => none
  (((List.range 4).filterMap way).foldl (fun (m : Option (Nat × Nat × Nat)) e => match m with
    | some b => if e.1 < b.1 then some e else some b
    | none => some e) none).map Prod.snd

/-- The neighbour that claimed a node in discovery: the lowest ID among those with the fewest hops (R415). -/
def claimerOf (g : MeshGraph) (i : Nat) : Option Nat :=
  let near := (around g (isMember g) i).filterMap fun k => (hopsBetween g g.root k).map fun h => (h, (idAt g k).getD 0, k)
  (near.foldl (fun (m : Option (Nat × Nat × Nat)) e => match m with
    | some b => if e.1 < b.1 ∨ (e.1 = b.1 ∧ e.2.1 < b.2.1) then some e else some b
    | none => some e) none).map fun e => e.2.2

/-- The ports behind which this node's children lie (R435): one port for each. -/
def childPorts (g : MeshGraph) (parent : Nat → Option Nat) : Nat :=
  (List.range 4).foldl (fun m p =>
    match behind g (isMember g) 0 p with
    | some k =>
      let earlier := (List.range p).any fun q => behind g (isMember g) 0 q == some k
      if k ≠ 0 ∧ k ≠ g.root ∧ parent k = some 0 ∧ !earlier then m + 2 ^ p else m
    | none => m) 0

/-- Put a waiting repair's frames on the routes that it found (R421); a completion that still has none is logged (R422). -/
def releaseHeld (s : State) : State :=
  let l := s.msh.held
  l.foldl (fun s h => s.frameTo h.node h.cls h.words h.note h.hops) (s.setMsh { s.msh with held := [], repairing := false })

/-- A class 2 request that has not been answered is made again once routes are rebuilt (R421, R424, R425), in place of any that the repair
holds (log 226). -/
def askAgain (s : State) : State :=
  let mine := fun (h : HeldFrame) => h.cls == 2 && decide (h.words.headD 2 < 2) && h.words.getD 1 0 == nodeId s
  let s := s.setMsh { s.msh with held := s.msh.held.filter fun h => !mine h }
  let s := { s with xlt := { s.xlt with xfers := s.xlt.xfers.map fun x => { x with asked := false } } }
  (List.range 32).foldl (fun s n => if (s.stream n).node.isSome then s.setStream n { s.stream n with waiting := false } else s) s

/-- A route repair begins (R421): members hear of it. -/
def startRepair (s : State) : State :=
  if s.msh.repairing then s
  else (List.range 4).foldl (fun s p =>
    if (s.port p).member && portState s p == 3 then s.sendFrame p 1 [10] else s) (s.setMsh { s.msh with repairing := true })

/-- A port went down in enumeration (R433): a repair follows its completion. -/
def repairOwed (s : State) : State :=
  if s.msh.repairAfter then startRepair (s.setMsh { s.msh with repairAfter := false }) else s

/-- This node takes what members have learnt (R419, R421): routes, hop count, tree, members, diameter, and which ports lead to members.
`claimed` says that discovery, and not a repair, made the tree. -/
def learn (s : State) (g : MeshGraph) (claimed : Bool) : State :=
  let home := hopsBetween g g.root 0
  let child := childPorts g (if claimed then claimerOf g else fun k => (parentOf g k).map Prod.snd)
  let par := if claimed then fld (s.rdN MSH.TREE) 2 2 else ((parentOf g 0).map Prod.fst).getD 0
  let s := s.put MSH.TREE 0 (child * 16 + par * 4 + b2n (g.root = 0) * 2 : Nat)
  let s := (s.put MSH.HOPS 0 (home.getD 0 : Nat)).put MSH.MEMBERS 0 ((hopsFrom g 0).length : Nat)
  let s := s.put MSH.DIAMETER 0 (diameter g : Nat)
  let s := (List.range 4).foldl (fun s p =>
    s.setPort p { s.port p with member := portState s p == 3 && (behind g (isMember g) 0 p).isSome }) s
  s.setMsh { s.msh with routes := routeTable g }

/-- The exchanges outstanding with other members end (R417). -/
def dropForwards (s : State) : State :=
  let l := s.msh.fwds
  l.foldl (fun s f => s.complete f.src f.tag St.INTERRUPTED []) (s.setMsh { s.msh with fwds := [] })

/-- Synchronisation ends (R429). -/
def syncOff (s : State) : State :=
  ((s.put MSH.SYNC_STATE 0 0).put TB.TIME_OWNER 0 0).setMsh { s.msh with
    near := 0, far := 0, coarseDue := none, sentAt := none, heardAt := none, sample := none, samples := [] }

/-- MESH_TIME_CTL in progress at the root loses what it waits for. -/
def dropTimeCtl (s : State) : State :=
  match s.msh.time with
  | some t => (s.setMsh { s.msh with time := none }).complete t.1 t.2.1 St.INTERRUPTED []
  | none => s

/-- MESH_ENUMERATE in progress loses to another (R433). -/
def loseEnum (s : State) : State :=
  match s.msh.enum with
  | some e => (s.setMsh { s.msh with enum := none }).complete e.1 e.2 St.WRONG_STATE []
  | none => s

/-- Host traffic with other nodes ends with the membership (R415, R424): transfers for others are dropped; a forwarded command that waits
for its data is interrupted; a forwarded stream asks again once it has a route. -/
def dropFar (s : State) : State :=
  let gone := fun (x : Xfer) => farOf x || (xferNode x).isSome
  let lost := s.cmd.ops.filter fun o => overMesh o.pkt && o.stage == .reading
  let s := { s with xlt := { s.xlt with xfers := s.xlt.xfers.filter fun x => !gone x, served := s.xlt.served.filter fun w => s.xlt.xfers.all fun x => !(x.who == w && gone x) } }
  let s := lost.foldl (fun s o => finish o.pkt (refuse s St.INTERRUPTED)) s
  askAgain s

/-- A node leaves its old membership (R415, R416, R417, R429). -/
def leaveMesh (s : State) : State :=
  let s := syncOff (dropTimeCtl (dropForwards (dropFar s)))
  let s := (List.range 4).foldl (fun s p => s.setPort p { s.port p with member := false }) s
  s.setMsh { s.msh with
    routes := [], seen := [], floods := [], newer := none, repairing := false, repairAfter := false, unclaimed := false, held := [] }

/-- A node becomes STANDALONE in a generation (R416). -/
def standAlone (s : State) (gen : Nat) : State :=
  let s := leaveMesh s
  let s := ((s.put MSH.ENUM_STATE 0 2).put MSH.NODE_ID 0 0x3FFF).put MSH.GENERATION 0 gen
  (((s.put MSH.HOPS 0 0).put MSH.TREE 0 0).put MSH.MEMBERS 0 0).put MSH.DIAMETER 0 0

/-- A newer generation is passed on to the neighbours (R416). -/
def passNewer (s : State) (gen : Nat) (but : Option Nat) : State :=
  (List.range 4).foldl (fun s p =>
    if portState s p = 3 ∧ but ≠ some p then s.sendFrame p 1 [6, gen] else s) s

/-- A port no longer leads anywhere (R412, R421, R429, R433): routes over it are lost until the repair that begins, or that follows an
enumeration under way. -/
def portGone (s : State) (p : Nat) : State :=
  let was := (s.port p).member
  let up := s.rd MSH.LANES (p + 1) ≠ 0
  let s := (s.setPort p { s.port p with member := false }).put MSH.LANES (p + 1) 0
  if was ∧ inMesh s then
    let passes := fun (e : Nat) => bit e 15 && !bit e 14 && fld e 12 2 == p
    let s := startRepair (s.setMsh { s.msh with routes := s.msh.routes.filter fun e => !passes e.2 })
    if fld (s.rdN MSH.TREE) 2 2 = p then syncLost s else s
  else if up ∧ inMesh s ∧ s.msh.routes.isEmpty then s.setMsh { s.msh with repairAfter := true }
  else s

/-- The result word of a loopback (R378, R432): DONE, PASS, failing lanes, errors. -/
def loopbackResult (lanes errors : Nat) : Nat :=
  2 ^ 31 + b2n (lanes = 0 ∧ errors = 0) * 2 ^ 30 + lanes % 256 * 65536 + min errors 65535

/-- A port's loopback ends because the port is taken away. -/
def dropLoopback (s : State) (p : Nat) : State :=
  match (s.port p).lb with
  | some l => (s.setPort p { s.port p with lb := none }).complete l.1 l.2.1 St.INTERRUPTED []
  | none => s

/-- A port goes to DISABLED (R412). -/
def disablePort (s : State) (p : Nat) : State := dropLoopback (portGone (s.put MSH.PORT_STATE (p + 1) 0) p) p

/-- All ports go to DISABLED (R34, R564); PORT_EN is kept. -/
def meshDown (s : State) : State := (List.range 4).foldl disablePort s

/-- Ports that are enabled go to DOWN again (R412). -/
def meshBack (s : State) : State :=
  (List.range 4).foldl (fun s p =>
    if s.rd MSH.PORT_EN (p + 1) = 1 ∧ portState s p = 0 then s.put MSH.PORT_STATE (p + 1) 1 else s) s

/-- Write PORT_EN (R412). -/
def writePortEn (s : State) (p : Nat) (v : Int) : Wr :=
  if v < 0 ∨ 1 < v then .error St.BAD_VALUE
  else if stopped s .msh then .error St.ISLAND_STOPPED
  else
    let s := s.put MSH.PORT_EN (p + 1) v
    if v = 0 then .ok (disablePort s p)
    else .ok (if portState s p = 0 then s.put MSH.PORT_STATE (p + 1) 1 else s)

/-- PORT_EN_WRITE. -/
def execPortEnWrite (port : Nat) (value : Int) (s : State) : Answer :=
  if port < 4 then written s (writePortEn s port value) else .next s

/-- PORT_SIGNAL_DETECT (R412). -/
def execPortSignalDetect (port : Nat) (s : State) : Answer :=
  if port < 4 ∧ portState s port = 1 ∧ !stopped s .msh ∧ !s.tst.extest then .next (s.put MSH.PORT_STATE (port + 1) 2) else .next s

/-- PORT_TRAINING_DONE (R412, R414, R418, R421): `lanes` are the lanes aligned, `delay` the one-way delay in ps, `peer` the low half of the
peer's serial number; `same` says that the peer is a member of this node's generation. -/
def execPortTrainingDone (port lanes delay peer : Nat) (same : Bool) (s : State) : Answer :=
  let all := lanes % 16 = 15
  let pair := lanes % 4 = 3 ∨ fld lanes 2 2 = 3
  if port < 4 ∧ portState s port = 2 ∧ (all ∨ pair) then
    let i := port + 1
    let s := ((s.put MSH.PORT_STATE i 3).put MSH.LANES i (if all then 4 else 2)).put MSH.DELAY i (min delay 65535 : Nat)
    let s := s.put MSH.PEER i (peer % 2 ^ 64 : Nat)
    let s := if all then s else mshCause s i 0x02
    let s := if 3000 < delay then mshCause s i 0x03 else s
    if !inMesh s then done s
    else if same then done (startRepair (s.setPort port { s.port port with member := true }))
    else done (mshCause s 0 0x0A)
  else .next s

/-- PORT_TRAINING_FAIL (R412). -/
def execPortTrainingFail (port : Nat) (s : State) : Answer :=
  if port < 4 ∧ portState s port = 2 then
    .next ((s.setPort port { s.port port with failAt := some s.clock }).put MSH.PORT_STATE (port + 1) 1)
  else .next s

/-- Whether a failed training of a port is due to be tried again (R412): after 100 ms. -/
def retryDue (s : State) (p : Nat) : Bool :=
  match (s.port p).failAt with
  | some t => decide (t + 100000000 ≤ s.clock)
  | none => false

/-- PORT_TRAINING_RETRY (R412). -/
def execPortTrainingRetry (port : Nat) (s : State) : Answer :=
  if port < 4 ∧ portState s port = 1 ∧ retryDue s port ∧ !stopped s .msh ∧ !s.tst.extest then .next (s.put MSH.PORT_STATE (port + 1) 2) else .next s

/-- An UP port goes DOWN (R412). -/
def portDrops (s : State) (p : Nat) : State :=
  dropLoopback (mshCause (portGone (s.put MSH.PORT_STATE (p + 1) 1) p) (p + 1) 0x01) p

/-- PORT_LINK_LOSS (R412, R421, R429). -/
def execPortLinkLoss (port : Nat) (s : State) : Answer :=
  if port < 4 ∧ portState s port = 3 then done (portDrops s port) else .next s

/-- A mesh command whose island runs. -/
def meshCmd (s : State) (k : Res) : Res := if stopped s .msh then refuse s St.ISLAND_STOPPED else k

/-- MESH_ENUMERATE (R415, R417, R433): this node is the root of a new generation; a discovery of its own that still runs loses to it. -/
def execMeshEnumerate (p : Pkt) (s : State) : Answer :=
  runCmd s p 0x0A01 {} <| meshCmd s <|
    let s := leaveMesh (loseEnum s)
    let gen := (s.msh.maxGen + 1) % 65536
    let s := ((s.put MSH.ENUM_STATE 0 1).put MSH.NODE_ID 0 0).put MSH.GENERATION 0 gen
    let s := (s.put MSH.HOPS 0 0).put MSH.TREE 0 2
    .later (s.setMsh { s.msh with maxGen := gen, rootSerial := serialNumber, enum := some (p.src, pTag p), assigned := 1 })
where
  /-- This module's serial number (R338). -/
  serialNumber : Nat := (serialWords.zipIdx).foldl (fun n e => n + e.1 * 2 ^ (32 * e.2)) 0

/-- MESH_ENUMERATE_DONE (R415 to R417, R419): `g` is the connection graph that discovery met, this node first. -/
def execMeshEnumerateDone (g : MeshGraph) (s : State) : Answer :=
  match s.msh.enum with
  | none => .next s
  | some e =>
    let f := discover g (g.nodes.length + 1) 0 ⟨[(0, 0)], [], []⟩
    let g := { withIds g f with root := 0 }
    let most := f.claimed.foldl (fun m c => max m c.2) 0
    let s := learn (s.setMsh { s.msh with enum := none, assigned := f.claimed.length }) g true
    let status := if f.full.isEmpty then (if f.far.isEmpty then St.SUCCESS else St.SUCCESS_WARN) else St.NODE_SPACE_FULL
    done ((repairOwed s).complete e.1 e.2 status [f.claimed.length, f.full.length, f.far.length, most * 256 + diameter g])

/-- Discovery claims this node, or leaves it (R415, R416, R433): a newer generation, or at equal generation the root with the lower
serial number, wins; a node that its own generation has not claimed takes its claim. -/
def claimed (s : State) (port gen hops : Nat) (id : Option Nat) (rootSerial : Nat) : State :=
  let old := s.rdN MSH.GENERATION
  let wins := decide (old < gen) || (gen == old && decide (rootSerial < s.msh.rootSerial))
  if enumState s ≠ 0 ∧ !wins ∧ !(s.msh.unclaimed && gen == old) then s
  else
    let s := loseEnum s
    let s := s.setMsh { s.msh with maxGen := max s.msh.maxGen gen, rootSerial := rootSerial }
    match id with
    | some n =>
      if 63 ≤ hops then mshCause (standAlone s gen) 0 0x07
      else
        let s := leaveMesh s
        let s := ((s.put MSH.ENUM_STATE 0 1).put MSH.NODE_ID 0 n).put MSH.GENERATION 0 gen
        (s.put MSH.HOPS 0 (hops + 1 : Nat)).put MSH.TREE 0 (4 * port : Nat)
    | none => mshCause (standAlone s gen) 0 (if 63 ≤ hops then 0x07 else 0x06)

/-- A neighbour announces a newer generation that has not claimed this node (R416). -/
def newerSeen (s : State) (port gen : Nat) : State :=
  let s' := s.setMsh { s.msh with maxGen := max s.msh.maxGen gen }
  if s.rdN MSH.GENERATION < gen ∧ inMesh s ∧ s.msh.newer.isNone then s'.setMsh { s'.msh with newer := some (port, gen) } else s'

/-- GENERATION_TIMEOUT (R415, R416): the node becomes STANDALONE, not claimed in the newer generation, and passes it on. -/
def execGenerationTimeout (s : State) : Answer :=
  match s.msh.newer with
  | some (port, gen) =>
    let s := standAlone (loseEnum s) gen
    done (passNewer (s.setMsh { s.msh with unclaimed := true }) gen (some port))
  | none => .next s

/-- A single target's answer has come, or will not come. -/
def answerOne (s : State) (f : Fwd) (status : Nat) (res : List Nat) : State :=
  (s.setMsh { s.msh with fwds := s.msh.fwds.filter fun x => x.fid != f.fid }).complete f.src f.tag status res

/-- A broadcast completes once no member is left to answer (R423). -/
def broadcastCheck (s : State) (f : Fwd) : State :=
  if f.left.isEmpty then
    let low := f.low.getD (0x3FFF, 0)
    answerOne s f low.2 [f.good, low.1, low.2, f.unreach]
  else s.setMsh { s.msh with fwds := s.msh.fwds.map fun x => if x.fid = f.fid then f else x }

/-- A member answers a forwarded packet (R422, R423). -/
def memberAnswers (s : State) (node fid status : Nat) (res : List Nat) : State :=
  match s.msh.fwds.find? fun f => f.fid == fid && f.left.contains node with
  | none => s
  | some f =>
    if f.target ≠ 0x3FFF then answerOne s f status (pad 4 res)
    else
      let f := { f with left := f.left.filter (· != node) }
      let lower := match f.low with
        | some l => decide (node < l.1)
        | none => true
      broadcastCheck s (if status ≤ 1 then { f with good := f.good + 1 }
        else if lower then { f with low := some (node, status) } else f)

/-- Members that no route reaches any longer do not answer (R422, R423). -/
def lostMembers (s : State) (f : Fwd) : State :=
  let lost := f.left.filter fun n => !routeValid s n
  if lost.isEmpty then s
  else if f.target ≠ 0x3FFF then answerOne s f St.INTERRUPTED []
  else broadcastCheck s { f with left := f.left.filter (routeValid s ·), unreach := f.unreach + lost.length }

/-- MESH_TIME_CTL completes once every reachable member has applied it (R426). -/
def timeCtlCheck (s : State) : State :=
  match s.msh.time with
  | some (src, tag, left) =>
    let left := left.filter fun n => routeValid s n
    if left.isEmpty then (s.setMsh { s.msh with time := none }).complete src tag St.SUCCESS []
    else s.setMsh { s.msh with time := some (src, tag, left) }
  | none => s

/-- Whether a path leads from this node, the first of the graph, to the root. -/
def rooted (g : MeshGraph) : Bool := (hopsBetween g g.root 0).isSome

/-- ROUTE_REPAIR_DONE (R421 to R423, R429): `g` is what members have learnt; a member without a path to the root is ISOLATED. -/
def execRouteRepairDone (g : MeshGraph) (s : State) : Answer :=
  if !inMesh s ∨ !s.msh.repairing then .next s
  else
    let s := learn s g false
    let s := if rooted g then s.put MSH.ENUM_STATE 0 1
      else syncLost (if enumState s = 3 then s else mshCause (s.put MSH.ENUM_STATE 0 3) 0 0x09)
    let s := releaseHeld (askAgain s)
    done (timeCtlCheck (s.msh.fwds.foldl lostMembers s))

/-- The members other than this node that a route reaches. -/
def reachable (s : State) : List Nat :=
  (s.msh.routes.filter fun e => bit e.2 15 && !bit e.2 14).map Prod.fst

/-- The opcodes MESH_FORWARD does not carry (R422). -/
def notForwarded (w : Nat) : Bool := [0x0A01, 0x0A03, 0x0A05].contains (w % 65536)

/-- A broadcast leaves on every UP port that leads to a member, but for the one it came by (R419, R431). -/
def floodOn (s : State) (words : List Nat) (hops : Nat) (but : Option Nat) : State :=
  (List.range 4).foldl (fun s p =>
    if (s.port p).member && portState s p == 3 && but != some p then s.sendFrame p 1 (0x3FFF :: hops :: words) else s) s

/-- MESH_FORWARD (R422, R423). -/
def execMeshForward (p : Pkt) (d : HostData) (s : State) : Answer :=
  runBlock s p 0x0A03 { ptr := true, needPtr := true, unit := 64, exact := true, used := [(5, 0x3FFF)] } d fun ws => meshCmd s <|
      let t := pw p 5
      let packet := pad 16 ws
      if notForwarded (packet.getD 0 0) ∨ (t ≠ 0x3FFF ∧ (s.msh.assigned ≤ t ∨ t = nodeId s)) then refuse s St.BAD_VALUE
      else if enumState s ≠ 1 ∨ (t ≠ 0x3FFF ∧ !routeValid s t) then refuse s St.WRONG_STATE
      else
        let targets := if t = 0x3FFF then reachable s else [t]
        let fid := s.msh.nextFid
        let f : Fwd := { src := p.src, tag := pTag p, fid := fid, target := t, left := targets
                         unreach := if t = 0x3FFF then s.msh.assigned - 1 - targets.length else 0 }
        let s := s.setMsh { s.msh with
          nextFid := fid + 1, fwds := s.msh.fwds ++ [f], ctxs := Bank.set (fun _ => 0) s.msh.ctxs fid (pktCtx p)
          prios := Bank.set (fun _ => 0) s.msh.prios fid (pPrio ⟨p.src, packet⟩) }
        let frame := [0, nodeId s, fid] ++ packet
        let s := if t = 0x3FFF then floodOn s frame 1 none else s.frameTo t 1 frame
        if targets.isEmpty then
          .done St.SUCCESS [0, 0x3FFF, 0, f.unreach] (s.setMsh { s.msh with fwds := s.msh.fwds.filter fun x => x.fid != fid })
        else .later s

/-- MESH_ROUTE_READ (R436): two entries a word, the lower in the low half. -/
def execMeshRouteRead (p : Pkt) (_wr : Option HostFault) (s : State) : Answer :=
  runCmd s p 0x0A02 { host := true, used := [(2, allBits), (3, allBits), (4, allBits), (5, allBits)] } <| meshCmd s <|
    let n := pw p 5
    if pw p 2 % 64 ≠ 0 ∨ n = 0 ∨ 16384 < pw p 4 + n then refuse s St.BAD_VALUE
    else
      let word := fun (i : Nat) =>
        routeOf s (pw p 4 + 2 * i) + (if 2 * i + 1 < n then routeOf s (pw p 4 + 2 * i + 1) * 65536 else 0)
      hostPut s p (pw64 p 2) ((List.range (ceilDiv n 2)).map word) (.plain [])

/-- MESH_PORT_CTL (R412, R432, R436, R524): ECHO sends 1,000 frames. -/
def execMeshPortCtl (p : Pkt) (s : State) : Answer :=
  runCmd s p 0x0A04 { used := [(1, allBits), (2, 0x71)] } <|
    match targetInst p 0x0B with
    | none => refuse s St.BAD_ID
    | some i =>
      let lb := fld (pw p 2) 4 3
      let n := i - 1
      let st := portState s n
      if i = 0 then refuse s St.BAD_ID
      else if 4 < lb then refuse s St.BAD_VALUE
      else if lb ≠ 0 ∧ !grantsLoop (lcFor s p) (lb != 4) then refuse s St.LC_DENIED
      else meshCmd s <|
        if st = 0 ∨ st = 4 ∨ (s.port n).lb.isSome ∨ (lb = 4 ∧ st ≠ 3) ∨ (lb ≠ 0 ∧ lb ≠ 4 ∧ st = 2) then refuse s St.WRONG_STATE
        else if lb = 0 then ok (if bit (pw p 2) 0 ∧ st = 3 then portDrops s n else s)
        else
          let s := s.setPort n { s.port n with lb := some (p.src, pTag p, lb), lbAt := s.clock, echoes := 0 }
          if lb = 4 then .later { s with sent := s.sent ++ List.replicate 1000 (.frame n 1 [7]) }
          else .later (portGone (s.put MSH.PORT_STATE i 4) n)

/-- MESH_LOOPBACK_END (R432): `lanes` are the lanes that counted errors. A serial loopback runs for 10 ms; the errors of ECHO are the frames of
its 1,000 that have not returned. -/
def execMeshLoopbackEnd (port lanes errors : Nat) (s : State) : Answer :=
  match (s.port port).lb with
  | none => .next s
  | some (src, tag, lb) =>
    if lb ≠ 4 ∧ s.clock < (s.port port).lbAt + 10000000 then .next s else
    let errors := if lb = 4 then 1000 - (s.port port).echoes else errors
    let s := (s.setPort port { s.port port with lb := none }).put MSH.LB_RESULT (port + 1) (loopbackResult lanes errors : Nat)
    let s := if lb = 4 then s else s.put MSH.PORT_STATE (port + 1) 1
    let s := if lanes = 0 ∧ errors = 0 then s else mshCause s (port + 1) 0x0D
    done (s.complete src tag St.SUCCESS [])

/-- A member takes MESH_TIME_CTL (R426, R429). -/
def timeCtl (s : State) (enable coarse : Bool) : State :=
  if enable then
    ((s.put TB.TIME_OWNER 0 1).put MSH.SYNC_STATE 0 1).setMsh { s.msh with
      near := 0, far := 0, coarse := coarse, setDone := false, sentAt := none, heardAt := none, sample := none, samples := [] }
  else syncOff s

/-- MESH_TIME_CTL (R426). -/
def execMeshTimeCtl (p : Pkt) (s : State) : Answer :=
  runCmd s p 0x0A05 { used := [(2, 3)] } <| meshCmd s <|
    if nodeId s ≠ 0 ∨ !inMesh s ∨ s.msh.time.isSome then refuse s St.WRONG_STATE
    else
      let on := bit (pw p 2) 0
      let s := if on then (s.put TB.TIME_OWNER 0 0).put MSH.SYNC_STATE 0 2 else syncOff s
      let l := reachable s
      let s := l.foldl (fun s n => s.frameTo n 1 [8, pw p 2]) s
      if l.isEmpty then ok s else .later (s.setMsh { s.msh with time := some (p.src, pTag p, l) })

/-- A frame of an exchange is discarded (R420): its source hears of it, with the issuing node, the exchange, the member, and the class and
kind of the frame. Packets, and the answers that the issuing node gives in class 2, come from the issuing node; the others go to it. -/
def discardFrame (s : State) (target source fid cls kind : Nat) : State :=
  let own := if cls = 1 then kind == 0 else decide (2 ≤ kind)
  (mshCause s 0 0x08).frameTo source 1 [4, if own then source else target, fid, if own then target else source, cls, kind]

/-- A frame for another node is passed on (R420): it crosses 63 links at most. -/
def passOn (s : State) (target source fid hops cls : Nat) (words : List Nat) : State :=
  if 63 ≤ hops then discardFrame s target source fid cls (words.headD 0) else s.frameTo target cls words none (hops + 1)

/-- The first copy of a broadcast packet (R419, R423, R431): an operation of this node, and passed on. -/
def floodArrives (s : State) (port source fid hops : Nat) (words : List Nat) : State :=
  if source = nodeId s ∨ s.msh.floods.contains (source, fid) then s
  else
    let s := addOp (s.setMsh { s.msh with floods := s.msh.floods ++ [(source, fid)] }) ⟨.mesh source fid, pad 16 words⟩
    let on := (List.range 4).any fun p => (s.port p).member && portState s p == 3 && p != port
    if !on then s
    else if 63 ≤ hops then discardFrame s 0x3FFF source fid 1 0
    else floodOn s ([0, source, fid] ++ words) (hops + 1) (some port)

/-- A packet arrives (R420, R422, R423): for this node it is an operation to dispatch; another is passed on. -/
def packetArrives (s : State) (port target source fid hops : Nat) (words : List Nat) : State :=
  if target = 0x3FFF then floodArrives s port source fid hops words
  else if target = nodeId s then addOp s ⟨.mesh source fid, pad 16 words⟩
  else passOn s target source fid hops 1 ([0, source, fid] ++ words)

/-- A notice says that a frame of an exchange was discarded (R420, R422, R423). At the issuing node the member is interrupted; of a
broadcast, every member that has not answered and lies 63 hops away or more (log 227). At the member, the answer of its packet has not
arrived, which is logged, or the access of its command has not, which interrupts the command. -/
def discardNotice (s : State) (issuer fid member cls kind : Nat) : State :=
  if issuer = nodeId s then
    match s.msh.fwds.find? fun f => f.fid == fid with
    | some f =>
      let lost := if member = 0x3FFF then f.left.filter fun n => fld (routeOf s n) 6 6 == 63 else [member]
      lost.foldl (fun s n => memberAnswers s n fid St.INTERRUPTED []) s
    | none => s
  else if cls = 1 then
    match s.msh.answered.find? fun a => kind == 2 && a.1 == issuer && a.2.1 == fid with
    | some a => s.logRec { typ := 0x0A, time := s.now, blk := 0x0B, inst := 0, sev := 0, pay := [issuer, a.2.2.1, b2n a.2.2.2] }
    | none => s
  else match s.xlt.xfers.find? fun x => xferNode x == some (issuer, fid) && x.asked with
    | some x => match s.cmd.ops.find? fun o => .cmd o.pkt.src (pTag o.pkt) == x.who with
      | some o => finish o.pkt (refuse (dropXfer s x.who) St.INTERRUPTED)
      | none => dropXfer s x.who
    | none => s

/-- A class 1 or 2 frame fails its CRC (R413): counted, LINK_CRC, and the peer is asked to replay it. -/
def frameBad (s : State) (port cls : Nat) : State :=
  (mshCause (s.bump MSH.CRC_ERR (port + 1)) (port + 1) 0x04).emit (.frame port cls [11])

/-- This node replays its last frame of a class on a port (R413). -/
def replayFrame (s : State) (port cls : Nat) : State :=
  let ws := if cls = 1 then (s.port port).last1 else (s.port port).last2
  if ws.isEmpty then s else s.emit (.frame port cls ws)

/-- A fault notice of a stream that a node holds for this one (R402, R425): at most one of each stream is in flight. -/
def farNotice (s : State) (source q status : Nat) (res : List Nat) : State :=
  let n := res.headD 0 % 256
  if s.cmd.cqs.any fun e => e.2.pend.any fun c => c.notice == some (some source, n) then s
  else s.complete (.sq q) 0xFFF status res false (some (some source, n))

/-- CONTROL_FRAME_RX (R413, R415 to R423, R426, R432): only a member takes what concerns the mesh. -/
def execControlFrameRx (port : Nat) (f : ControlFrame) (s : State) : Answer :=
  if 4 ≤ port ∨ portState s port ≠ 3 then .next s
  else match f with
    | .crcError => done (frameBad s port 1)
    | .replay => .next (replayFrame s port 1)
    | .claim gen hops id serial => done (claimed s port gen hops id serial)
    | .newer gen => done (newerSeen s port gen)
    | .pass target source fid hops words => if inMesh s then done (passOn s target source fid hops 1 words) else .next s
    | .echo => .next (s.sendFrame port 1 [9])
    | .echoed =>
      match (s.port port).lb with
      | some (_, _, lb) => if lb = 4 then .next (s.setPort port { s.port port with echoes := (s.port port).echoes + 1 }) else .next s
      | none => .next s
    | .tables g =>
      if enumState s = 1 ∧ s.msh.enum.isNone then
        let s := s.setMsh { s.msh with assigned := (g.nodes.filterMap MeshNode.id).length }
        done (repairOwed (learn s g true))
      else .next s
    | .repair => if inMesh s then .next (startRepair s) else .next s
    | .packet target source fid hops words =>
      if inMesh s then done (packetArrives s port target source fid hops words) else .next s
    | .completion source fid status res => if inMesh s then done (memberAnswers s source fid status res) else .next s
    | .discarded issuer fid member cls kind => if inMesh s then done (discardNotice s issuer fid member cls kind) else .next s
    | .notice source q status res => if inMesh s ∧ q < 64 then done (farNotice s source q status res) else .next s
    | .timeCtl enable coarse =>
      if inMesh s then done ((timeCtl s enable coarse).frameTo 0 1 [5, nodeId s]) else .next s
    | .timeAck node =>
      match s.msh.time with
      | some (src, tag, left) =>
        done (timeCtlCheck (s.setMsh { s.msh with time := some (src, tag, left.filter (· != node)) }))
      | none => .next s

/-- Another node asks for an access of this node's host memory (R424): a transfer in the context of the queue that carried the MESH_FORWARD,
at the PRIORITY of its packet (log 228). A later request of the same command or stream takes the place of an earlier one. -/
def farAsks (s : State) (source fid : Nat) (st : Option Nat) (addr bytes : Nat) (write : Bool) (words : List Nat) (f : Option HostFault) :
    State :=
  startXfer (dropXfer s (.far source fid st))
    { who := .far source fid st, ctx := Bank.get (fun _ => 0) s.msh.ctxs fid, prio := Bank.get (fun _ => 0) s.msh.prios fid
      addr, left := bytes, write, words, fault := f }

/-- Whether a frame answers the request that a forwarded stream has made. -/
def streamAsked (s : State) (source fid n addr : Nat) : Bool :=
  decide (n < 32) && (s.stream n).node == some (source, fid) && (s.stream n).waiting && nextAddr s n == addr

/-- The transfer of a forwarded command whose unit a frame answers. -/
def xferAsked (s : State) (source fid addr : Nat) : Option Xfer :=
  s.xlt.xfers.find? fun x => xferNode x == some (source, fid) && x.asked && x.addr == addr

/-- The issuing node answers an access of this node's command or stream (R424, R425). -/
def farAnswers (s : State) (source fid : Nat) (st : Option Nat) (addr : Nat) (f : Option HostFault) : State :=
  match st with
  | some n =>
    if !streamAsked s source fid n addr then s
    else match f with
      | none => forwardDone s n
      | some f => parkStream s n addr f
  | none => match xferAsked s source fid addr, f with
    | some x, none => unitDone s x
    | some x, some f => xferFails s x f
    | none, _ => s

/-- BULK_FRAME_RX (R413, R424, R425). -/
def execBulkFrameRx (port : Nat) (f : BulkFrame) (s : State) : Answer :=
  if 4 ≤ port ∨ portState s port ≠ 3 then .next s
  else match f with
    | .crcError => done (frameBad s port 2)
    | .replay => .next (replayFrame s port 2)
    | .write source fid st addr words =>
      if inMesh s then .next (farAsks s source fid st addr (4 * words.length) true words none) else .next s
    | .read source fid st addr bytes d =>
      if inMesh s then .next (match d with
        | .words ws => farAsks s source fid st addr bytes false (pad (bytes / 4) ws) none
        | .fault f => farAsks s source fid st addr bytes false [] (some f)) else .next s
    | .ack source fid st addr => if inMesh s then done (farAnswers s source fid st addr none) else .next s
    | .data source fid st addr _ => if inMesh s then done (farAnswers s source fid st addr none) else .next s
    | .fault source fid st addr f => if inMesh s then done (farAnswers s source fid st addr (some f)) else .next s
    | .pass target source fid hops words => if inMesh s then done (passOn s target source fid hops 2 words) else .next s

/-- A system-channel frame is lost on a port (R413); an injected loss has set its cause already (R539). -/
def sevLost (s : State) (port : Nat) (cause : Bool) : State :=
  let s := s.bump MSH.SEV_LOST (port + 1)
  if cause then mshCause s (port + 1) 0x05 else s

/-- When a system-channel frame reaches the node: a SYSTIME of the present loop cycle, in 2^-16 ns. -/
def sevAt (s : State) (f : SevFrame) : Nat := min (max f.at_ (65536 * s.now)) (65536 * (s.now + 125))

/-- The first copy of a system-channel frame passes on and is released (R305, R307, R431). -/
def sevArrives (s : State) (port : Nat) (f : SevFrame) : State :=
  let old := fun (e : Nat × Nat × Nat) => decide (s.fine ≤ e.2.1 + nsFine 70000)
  let s := s.setMsh { s.msh with seen := s.msh.seen.filter old ++ [(f.sev, f.t0, f.node)] }
  let s := sevSend s f.sev f.t0 f.node f.gen (some port)
  if sevDue s f.t0 < sevAt s f then
    let s := { s with evf := { s.evf with releases := s.evf.releases ++ [⟨f.sev, f.t0, edgeFrom s (sevAt s f)⟩] } }
    record (sevCount s f.sev true) 8 0 0x03
  else sevQueue s f.sev f.t0

/-- SEV_FRAME_RX (R413, R431). -/
def execSevFrameRx (port : Nat) (f : SevFrame) (s : State) : Answer :=
  if 4 ≤ port ∨ portState s port ≠ 3 ∨ !inMesh s ∨ 16 ≤ f.sev then .next s
  else if (s.port port).loseNext then
    done (sevLost (s.setPort port { s.port port with loseNext := false }) port false)
  else if !f.good then done (sevLost s port true)
  else if f.gen ≠ s.rdN MSH.GENERATION ∨ f.t0 + nsFine 70000 < s.fine then done (sevLost s port false)
  else if f.node = nodeId s ∨ s.msh.seen.contains (f.sev, f.t0, f.node) then .next s
  else done (sevArrives s port f)

/-- A difference of time stamps in 2^-16 ns, in ps. -/
def stampPs (d : Int) : Int := roundDiv (d * 1000) 65536

/-- What an exchange shows (R427), the link taken to be symmetric: from the stamps of its first two frames at this node, sent and heard, and
at the parent, the offset of this node's SYSTIME from the parent's, and the link delay, in ps. -/
def exchangeShows (sent heard : Nat) (far : Nat × Nat) : Int × Int :=
  (stampPs (((sent : Int) - far.1 + ((heard : Int) - far.2)) / 2), stampPs (((heard : Int) - sent - ((far.2 : Int) - far.1)) / 2))

/-- The parent's stamps have come (R427): the exchange is complete. -/
def exchangeEnds (s : State) (far : Nat × Nat) : State :=
  match s.msh.sentAt, s.msh.heardAt with
  | some t1, some t4 => s.setMsh { s.msh with sentAt := none, heardAt := none, sample := some (exchangeShows t1 t4 far) }
  | _, _ => s

/-- TIME_FRAME_RX (R416, R427, R433): a member stamps the frame to 1/16 of the master period. The four frames of an exchange (log 229): the
member's first is answered; at the answer the member sends its second, which the parent answers with its stamps of the first two. A frame
whose copies both fail is skipped. -/
def execTimeFrameRx (port : Nat) (f : TimeFrame) (s : State) : Answer :=
  if port < 4 ∧ portState s port = 3 ∧ inMesh s ∧ f.good then
    let a := sixteenth s f.at_
    let r := { s.port port with stamp := a }
    match f.kind with
    | 0 => .next (sendTwice (s.setPort port { r with asked := (a, sixteenth s f.out) }) port [17])
    | 1 => .next (sendTwice ((s.setPort port r).setMsh { (s.setPort port r).msh with heardAt := some a }) port [18])
    | 2 => .next (sendTwice (s.setPort port r) port
        [19, lo32 r.asked.1, r.asked.1 / 2 ^ 32, lo32 r.asked.2, r.asked.2 / 2 ^ 32])
    | _ => .next (exchangeEnds (s.setPort port r) f.stamps)
  else .next s

/-- The phase steps that steer an offset within one exchange (R428): one step in 64 master cycles at most; beyond 50 ppm at the highest
rate. -/
def steerSteps (s : State) (offset freq : Int) : Int :=
  let most : Int := (s.rdN TB.F_MASTER / 6400000 : Nat)
  if 50000 < iabs freq then (if freq < 0 then -most else most)
  else clampInt (-most) most (roundDiv (offset * 256 * s.rd TB.F_MASTER) 1000000000000)

/-- This node's SYSTIME moves back against its parent's by `d` ps: the exchanges seen before are corrected by it (log 230). -/
def offsetMoved (s : State) (d : Int) : State :=
  s.setMsh { s.msh with samples := s.msh.samples.map fun x => (x.1 - d, x.2) }

/-- A member steers its SYSTIME (R428): a coarse set waits for the next loop-cycle boundary. -/
def steer (s : State) (offset freq : Int) : State :=
  let s := if 50000 < iabs freq then mshCause s 0 0x0C else s
  if s.rd MSH.SYNC_STATE = 1 ∧ 1000000 < iabs offset ∧ s.msh.coarse ∧ !s.msh.setDone then
    let move := roundDiv offset 125000 * 125
    offsetMoved (s.setMsh { s.msh with setDone := true, coarseDue := some move }) (move * 1000)
  else
    let n := steerSteps s offset freq
    offsetMoved (s.put TB.PHASE_OFS 0 (s.rd TB.PHASE_OFS + n)) (roundDiv (n * 1000000000000) (256 * s.rdN TB.F_MASTER))

/-- SYNC_STATE after an exchange (R429). -/
def syncStep (s : State) (offset : Int) : State :=
  let st := s.rd MSH.SYNC_STATE
  if st = 1 then
    let near := if iabs offset ≤ 100 then s.msh.near + 1 else 0
    let s := s.setMsh { s.msh with near := near, far := 0 }
    if 64 ≤ near then
      let pay := [2, toField 32 (s.rd MSH.SYNC_OFFSET), toField 32 (s.rd MSH.SYNC_FREQ)]
      (s.put MSH.SYNC_STATE 0 2).logRec { typ := 0x06, time := s.now, blk := 0x0B, inst := 0, pay := pay, sev := 0 }
    else s
  else if st = 2 then
    let far := if 1000 < iabs offset then s.msh.far + 1 else 0
    let s := s.setMsh { s.msh with far := far }
    if 16 ≤ far then (s.put MSH.SYNC_STATE 0 1).setMsh { s.msh with near := 0, far := 0, setDone := false } else s
  else s

/-- The mean of a quantity over exchanges, cut to 32 bits: the filter of R427, whose kind the spec leaves open (log 230). -/
def meanOf (q : Int × Int × Int → Int) (l : List (Int × Int × Int)) : Int :=
  clampInt (-2147483648) 2147483647 (roundDiv (l.foldl (fun a x => a + q x) 0) (l.length : Nat))

/-- The last exchange takes its place among the last 64 (R427): SYNC_OFFSET and SYNC_FREQ are filtered over them. -/
def takeSample (s : State) (x : Int × Int) (freq : Int) : State :=
  let l := s.msh.samples ++ [(x.1, x.2, freq)]
  let l := l.drop (l.length - 64)
  ((s.setMsh { s.msh with sample := none, samples := l }).put MSH.SYNC_OFFSET 0 (meanOf Prod.fst l)).put MSH.SYNC_FREQ 0
    (meanOf (fun x => x.2.2) l)

/-- What the exchange that has ended brings (R427 to R429): the filtered offset steers while the timebase is LOCKED. -/
def exchangeActs (s : State) (x : Int × Int) (freq : Int) : State :=
  let s := takeSample s x freq
  if s.tbState ≠ 2 then syncLost s
  else
    let s := if s.rd MSH.SYNC_STATE = 3 then
        (s.put MSH.SYNC_STATE 0 1).setMsh { s.msh with near := 0, far := 0, setDone := false }
      else s
    syncStep (steer s (s.rd MSH.SYNC_OFFSET) (s.rd MSH.SYNC_FREQ)) (s.rd MSH.SYNC_OFFSET)

/-- TIME_EXCHANGE (R427 to R429): the exchange that has ended acts, unless one of its frames was lost; then the next begins with its first
frame, whose first bit crosses the port at `sent`. `freq` is the frequency offset that the exchange shows, in 0.001 ppm: the spec does not say how
it is computed (log 230). -/
def execTimeExchange (sent : Nat) (freq : Int) (good : Bool) (s : State) : Answer :=
  let parent := fld (s.rdN MSH.TREE) 2 2
  if nodeId s = 0 ∨ enumState s ≠ 1 ∨ s.rd MSH.SYNC_STATE = 0 ∨ portState s parent ≠ 3 then .next s
  else
    let s := match s.msh.sample with
      | some x => if good then exchangeActs s x freq else s
      | none => s
    done (sendTwice (s.setMsh { s.msh with sample := none, heardAt := none, sentAt := some (sixteenth s sent) }) parent [16])

end Sys2Proof.Machine
end

