-- ==== Sys2Proof/Machine/Shed.lean ====
section
/-!
DEFINITION. Shedding, hold-up and Lull (R32 to R38, R373, R558 to R569): what every source of a shed does, what Lull entry and wake do,
and their rows. Resets are in `Reset`.
-/
namespace Sys2Proof.Machine

/-- A cause of Vane (R480, R511, R570). -/
def vaneCause (s : State) (code : Nat) (high : Bool := false) : State := record s 0x0D 0 code high

/-- A PLDM sensor event, once a receiver is set (R489, R491): sensor, state. 64 and 65 stand for the state sensors of ALIVE and of
the event log, which the spec does not number (log 9). -/
def sensorEvent (s : State) (n st : Nat) : State :=
  if s.vane.eventReceiver = 0 then s else s.emit (.management 0x01 [s.vane.eventReceiver, n, st])

/-- PWR_STATE (R571). -/
def pwrState (s : State) : Nat := s.rdN VANE.PWR_STATE

/-- A POWER record (R496). -/
def powerRec (s : State) (kind w6 w7 : Nat) : State :=
  s.logRec { typ := 0x07, time := s.now, blk := 0x0D, inst := 0, pay := [kind, w6, w7], sev := 0 }

/-- A FIRMWARE record (R496). -/
def firmwareRec (s : State) (kind image slot old new reason : Nat) : State :=
  s.logRec { typ := 0x08, time := s.now, blk := 0x0D, inst := 0,
             pay := [kind, image, slot, old, new, s.rdN VANE.FW_SV, reason], sev := 0 }

/-- An activation or a staging of a command completes; one of PLDM answers its requester (R491). -/
def answerImage (s : State) (cmd : Option (Src × Nat)) (status : Nat) (res : List Nat) : State :=
  match cmd with
  | some c => s.complete c.1 c.2 status res
  | none => s.emit (.management 0x01 (status :: res))

/-- FW_STATE when no pause runs (R512). -/
def fwState (s : State) : State :=
  s.put VANE.FW_STATE 0 (if s.vane.act.isSome then 2 else if s.vane.stage.isSome then 1 else 0 : Nat)

/-- The slot that an image kind does not run from (R505, R506). -/
def standbySlot (s : State) (kind : Nat) : Nat := 2 * kind + (1 - (runningSlot s kind - 2 * kind))

/-- Replace a flash slot. -/
def State.setFlash (s : State) (i : Nat) (v : FlashSlot) : State :=
  { s with vane := { s.vane with slots := Bank.set slotInit s.vane.slots i v } }

/-- Configuration requests complete again once nothing holds them (R36, R370, R371). -/
def crsEnds (s : State) : State :=
  if s.hl.link = .up ∧ s.pwr.booted ∧ s.pwr.lull ≤ 2 ∧ !fwPaused s ∧ !s.hl.flr then { s with hl := { s.hl with crs := false } } else s

/-- An activation fails before its swap (R371, R509): the old image goes on, a pause it has made is over, the record and the cause are written, the command completes. -/
def activationFails (s : State) (a : Activation) (reason status : Nat) : State :=
  let i := standbySlot s a.kind
  let s := { s with vane := { s.vane with act := none }, hl := { s.hl with hostState := if s.hl.hostState = 1 then 0 else s.hl.hostState } }
  let s := firmwareRec (fwState s) 2 a.kind (i % 2) (runningVersion s a.kind) (s.flash i).version reason
  crsEnds (answerImage (vaneCause s 0x0B) a.cmd status [reason])

/-- Whether an activation has not swapped yet (R506, R509). -/
def beforeSwap (a : Activation) : Bool := decide (a.step < 6)

/-- A staging ends with its slot INVALID (R505). -/
def stagingFails (s : State) (g : Staging) (status : Nat) : State :=
  let i := 2 * g.kind + g.slot
  let s := (s.setFlash i { s.flash i with state := 2 })
  let s := fwState { s with vane := { s.vane with stage := none } }
  answerImage s g.cmd status [g.slot]

/-- Staging and activation at a shed (R505, R509, R569): a staging slot becomes INVALID, an activation before its swap is
interrupted. -/
def shedImages (s : State) : State :=
  let s := match s.vane.stage with
    | some g => stagingFails s g St.INTERRUPTED
    | none => s
  match s.vane.act with
  | some a => if beforeSwap a then activationFails s a 5 St.INTERRUPTED else s
  | none => s

/-- A sweep engine at PFAIL (R151): every slot with a program is ABORTED, a LOADED one as well. -/
def shedEngine (s : State) (e : Nat) : State :=
  (List.range 4).foldl (fun s k => if s.slotState e k = 1 then unreserve (s.setSlotState e k 9) e k else s) (abortEngine s e)

/-- Calibration at PFAIL (R446, R451): the commands end, nothing is applied. -/
def shedCal (s : State) : State :=
  let runs := s.cal.selfs
  let sys := s.cal.sys
  let s := { s with cal := { s.cal with selfs := [], sys := none } }
  let s := runs.foldl (fun s o => s.complete o.src o.tag St.INTERRUPTED []) s
  match sys with
  | some o => s.complete o.src o.tag St.INTERRUPTED []
  | none => s

/-- A built-in check ends before its result (R534, R542). -/
def endRun (status : Nat) (s : State) (r : LoopRun) : State :=
  (restoreRun { s with tst := { s.tst with runs := s.tst.runs.filter (· != r) } } r).complete r.src r.tag status []

/-- Runs on pins and channels end at PFAIL (R542). -/
def shedRuns (s : State) : State :=
  (s.tst.runs.filter fun r => [1, 4, 6].contains (r.target / 0x1000000)).foldl (endRun St.INTERRUPTED) s

/-- A precision channel at PFAIL (R49, R50, R80): a connected one ramps to 0 and then opens; any other is OFF. Range changes under way are
abandoned: a chain stops on its range, and the policy makes no further change until OFF. -/
def shedChan (s : State) (c : Nat) : State :=
  let s := abortTune s c
  let s := s.setCh c { s.ch c with irTarget := (s.ch c).act.ir, irNew := false, policyOff := true }
  if connected (s.chState c) then startRampDown s c 0
  else if s.chState c = 0 ∧ (s.ch c).motion = .still then s
  else settleOpen s c 0

/-- Steps 2 to 4 of R563 begin; in Lull only the log flush applies (R32). -/
def shedLoads (s : State) : State :=
  if s.pwr.lull = 3 then s
  else
    let s := pinsHigh s
    let s := (List.range 17).foldl shedEngine s
    let s := s.uploads.foldl (fun s u => uploadFails s u 0x02 St.INTERRUPTED 0) s
    let s := openInterlock s
    let s := (List.range 128).foldl shedChan s
    haltLoop (shedImages (shedRuns (shedCal s)))

/-- A source of R561 while PWR_STATE is RUN or BOOT starts a shed (R562, R563); a second one of the same Vane cycle makes SHED_SRC
the lower code, drives PFAIL as its own shed would, and is logged (R569). -/
def beginShed (s : State) (src : Nat) : State :=
  if pwrState s ≤ 1 then
    let s := (s.put VANE.PWR_STATE 0 2).put VANE.SHED_SRC 0 src
    let s := s.bump VANE.SHED_COUNT
    let s := { s with pwr := { s.pwr with
      shedAt := some s.clock, testing := false, pfailDriven := s.pwr.pfailDriven || decide (src ≤ 3) } }
    let s := powerRec (vaneCause s 0x10) 1 s.pwr.vin 0
    shedLoads { s with vane := { s.vane with flushing := true } }
  else if s.pwr.shedAt = some s.clock then
    let s := { s with pwr := { s.pwr with pfailDriven := s.pwr.pfailDriven || decide (src ≤ 3) } }
    powerRec (if src < s.rdN VANE.SHED_SRC then s.put VANE.SHED_SRC 0 src else s) 1 s.pwr.vin 0
  else s

/-- The input voltage as last seen, in mV. -/
def State.setVin (s : State) (mv : Nat) : State := { s with pwr := { s.pwr with vin := mv } }

/-- POWER_FAIL_DETECT (R558, R561): VIN below 33 V for 50 µs. -/
def execPowerFailDetect (vin : Nat) (s : State) : Answer :=
  if vin < 33000 then done (beginShed (s.setVin vin) 1) else .next s

/-- INPUT_OVLO (R558, R561, R570). -/
def execInputOvlo (vin : Nat) (s : State) : Answer :=
  if 80000 < vin then done (beginShed (vaneCause (s.setVin vin) 0x12) 3) else .next s

/-- EXTERNAL_PFAIL (R561, R562, R569): the contact is read only while the module does not drive it. -/
def execExternalPfail (s : State) : Answer :=
  if s.pwr.pfailDriven then .next s
  else if s.rd VANE.PFAIL_EXT = 1 then done (beginShed s 4)
  else done (vaneCause s 0x13)

/-- INPUT_UVLO_FALL (R34, R412, R564, R569): HOLDUP; paths not yet open open without a ramp, and the mesh ports go DISABLED. -/
def execInputUvloFall (vin : Nat) (s : State) : Answer :=
  if vin < 32500 ∧ pwrState s ≠ 4 then
    let s := s.setVin vin
    let s := if pwrState s = 1 then beginShed s 2 else s
    let s := (List.range 128).foldl (fun s c =>
      if s.chState c = 0 ∧ (s.ch c).motion = .still then s else settleOpen (abortTune s c) c 0) s
    done (meshDown (s.put VANE.PWR_STATE 0 4))
  else .next s

/-- Whether the log has been flushed as far as it can (R498, R501). -/
def logFlushed (s : State) : Bool :=
  !s.vane.up || s.rd VANE.LOG_MEDIA_FAIL == 1 || (s.vane.buf.isEmpty && s.vane.queue.isEmpty)

/-- The comparators of every pin power up as high impedance ends (R184, R196). -/
def pinCmpsBack (s : State) (n : Nat) : State :=
  (pinCmps n).foldl (fun s c => modeChanges 3 (effMode s c) s c) s

/-- Pins leave the high impedance of Lull or of a shed (R184, R564): after Lull each is in STATIC, a FAULT one too, and follows STATIC;
after a shed drivers stay off until STATIC is written, and FAULT stands. In SCRAPPED they stay as they are (R525). -/
def pinsAfterShed (s : State) (wake : Bool) : State :=
  if s.lcState = 4 then s
  else (List.range 256).foldl (fun s n =>
    if (s.pin n).hiz then
      let s := s.setPin n { s.pin n with hiz := false, drive := if wake then staticDrive s n else 2 }
      pinCmpsBack (if !wake ∧ s.pinState n = 4 then s else s.put PIN.STATE n 0) n
    else s) s

/-- SHED_RECOVERY (R558, R562, R564, R569): 100 ms within 34 V to 78 V with PFAIL high. Nothing reconnects. -/
def execShedRecovery (vin : Nat) (s : State) : Answer :=
  if pwrState s = 3 ∧ [1, 3, 4].contains (s.rdN VANE.SHED_SRC) ∧ 34000 ≤ vin ∧ vin ≤ 78000 ∧ !s.pwr.barred ∧
      !s.pwr.nresetLow ∧ s.pwr.booted ∧ (s.pwr.shedAt.getD 0) + 100000000 ≤ s.clock then
    let s := (s.setVin vin).put VANE.PWR_STATE 0 1
    let s := { s with pwr := { s.pwr with pfailDriven := false, shedAt := none } }
    let s := powerRec s 0 vin 0
    let s := if s.tb.halted then startSearch s else s
    done (if 3 ≤ s.pwr.lull then s else pinsAfterShed s false)
  else .next s

/-- HOLDUP_TEST (R566, R571), once in the period that the last test took over: the charger is off and the load of 0.5 A on. -/
def execHoldupTest (s : State) : Answer :=
  if pwrState s = 1 ∧ s.pwr.testAt + 3600000000000 * s.pwr.testHours ≤ s.clock then
    .next { s with pwr := { s.pwr with
      testing := true, testAt := s.clock, testHours := s.rdN VANE.HOLDUP_TEST_PERIOD } }
  else .next s

/-- HOLDUP_TEST_MEASURED (R566): `us` is the time of the 2 V fall; 0.5 A × t / 2 V. -/
def execHoldupTestMeasured (us : Nat) (s : State) : Answer :=
  if s.pwr.testing then
    let s := { s with pwr := { s.pwr with testing := false } }
    let s := s.put VANE.HOLDUP_CAP 0 (min (us / 4) 65535 : Nat)
    done (if us < 480 then vaneCause s 0x11 else s)
  else .next s

/-- NRESET (R561, R567): nRESET has been low for 10 µs. -/
def execNreset (s : State) : Answer :=
  done (beginShed { s with pwr := { s.pwr with nresetLow := true } } 7)

/-- The channel islands and HV, and the others that are clocked (R15). -/
def clockedIslands : List Island :=
  [.hl, .cmd, .mem, .seq 0, .seq 1, .hv, .msh, .vane] ++ (List.range 16).map Island.pg

/-- Storage index of an island. -/
def islandKey : Island → Nat
  | .hl => 0 | .cmd => 1 | .mem => 2 | .hv => 3 | .msh => 4 | .vane => 5
  | .seq d => 8 + d
  | .pg g => 16 + g

/-- The windows of an island's blocks (R13, R15). -/
def islandWindows (i : Island) : List (Nat × Nat) :=
  (List.range 16).flatMap fun b => ((List.range (blockInstances (b + 1))).filter fun n => islandOf (b + 1) n == i).map fun n => (b + 1, n)

/-- HEARTBEAT_ROUND (R23). -/
def execHeartbeatRound (s : State) : Answer :=
  if s.vane.up then .next { s with pwr := { s.pwr with round := true } } else .next s

/-- An island returned its token, or missed a round: WARN at the first, FATAL at the second in a row (R23, R467). -/
def beat (returned : List Island) (s : State) (i : Island) : State :=
  let n := Bank.get (fun _ => 0) s.pwr.missed (islandKey i)
  let set := fun (s : State) (v : Nat) =>
    { s with pwr := { s.pwr with missed := Bank.set (fun _ => 0) s.pwr.missed (islandKey i) v } }
  if returned.contains i then set s 0
  else if n = 0 then (islandWindows i).foldl (fun s w => record s w.1 w.2 0xF0) (set s 1)
  else if n = 1 then (islandWindows i).foldl (fun s w => record s w.1 w.2 0xF0 true) (set s 2)
  else s

/-- HEARTBEAT_TIMEOUT (R23, R467): ALIVE toggles when every island that takes part returned its token and no window shows FATAL. Only
Vane takes part in Lull, and before the controller has its supplies. -/
def execHeartbeatTimeout (returned : List Island) (s : State) : Answer :=
  if !s.pwr.round ∨ !s.vane.up then .next s
  else
    let parts := if s.pwr.lull = 3 ∨ !s.hl.supplies then [Island.vane] else clockedIslands
    let s := parts.foldl (beat returned) { s with pwr := { s.pwr with round := false } }
    let alive := parts.all (returned.contains ·) && !(s.wins.any fun e => e.2.fatal)
    let s := if s.pwr.toggles = alive then s else sensorEvent s 64 (b2n alive)
    done { s with pwr := { s.pwr with toggles := alive, alive := if alive then !s.pwr.alive else s.pwr.alive } }

/-- Whether Lull may be entered (R33). -/
def mayLull (s : State) (p : Pkt) : Bool :=
  s.pwr.lull == 0 && (List.range 132).all (fun c => s.chState c == 0 && (s.ch c).motion == .still) &&
  (List.range 2).all (fun d => s.seqState d == 0) && (List.range 17).all (fun e => s.runSlot e == 7) &&
  (List.range 32).all (fun n => (s.stream n).blocks.isEmpty && (s.stream n).open_.isNone) &&
  s.cmd.ops.all (fun o => o.pkt.src == p.src && pTag o.pkt == pTag p) && fetchingNow s == 0 &&
  s.cmd.cqs.all (fun e => e.2.pend.isEmpty) && s.uploads.isEmpty && s.cal.selfs.isEmpty && s.cal.sys.isNone &&
  s.tst.runs.isEmpty && s.tst.selfTest.isNone && s.vane.stage.isNone && s.vane.act.isNone && s.msh.fwds.isEmpty &&
  s.msh.enum.isNone && s.msh.time.isNone && s.tb.waiting.isEmpty && s.tb.phase.isEmpty && s.tb.timeSet.isEmpty

/-- LULL_ENTER (R32, R33, R37): the wake masks take effect; a completion that goes through a queue is still to be posted. -/
def execLullEnter (p : Pkt) (s : State) : Answer :=
  runCmd s p 0x0901 {} <|
    if !mayLull s p then refuse s St.WRONG_STATE
    else
      let posted := match p.src with | .sq _ => false | _ => true
      ok { s with
        pwr := { s.pwr with
          lull := if posted then 2 else 1, lullCmd := some (p.src, pTag p), lullAt := s.clock, wake := none, wakeSeen := [],
          wakeEv := s.rdN VANE.LULL_WAKE_EV, wakeSmb := s.rd VANE.LULL_WAKE_SMB == 1, wakeMon := s.rdN VANE.LULL_WAKE_MON }
        hl := { s.hl with hostState := if posted then 2 else s.hl.hostState } }

/-- The comparators whose mode in effect Lull changes: the monitors and the window comparators (R34, R196). -/
def lullCmps : List Cmp :=
  (List.range 24).map Cmp.monitor ++ (List.range 128).flatMap fun c => (List.range 4).map fun k => Cmp.window c k

/-- A change of the Lull state, with what it does to the modes of comparators. -/
def setLull (s : State) (v : Nat) : State :=
  let t := { s with pwr := { s.pwr with lull := v } }
  lullCmps.foldl (fun t c => if effMode s c = effMode t c then t else modeChanges (effMode s c) (effMode t c) t c) t

/-- The entry into Lull is abandoned: the module stays in RUN (R32, R373). -/
def leaveEntry (s : State) : State :=
  { setLull s 0 with hl := { s.hl with hostState := 0 } }

/-- The module wakes (R32, R36, R373): WAKE# is asserted, the timebase locks anew, which is no recovery relock (R262), scrub periods count on (R482), the link trains from Detect unless PERST# is asserted,
and the function is in D0 again. -/
def beginWake (s : State) : State :=
  let slept := s.clock - s.pwr.lullAt
  (startSearch { s with
    vane := { s.vane with scrubAt := s.vane.scrubAt.map (· + slept) }
    pwr := { s.pwr with lull := 4, wakeLow := true }
    hl := { s.hl with link := if s.hl.perst then .down else .training, crs := true, d3 := false } }).put TB.RECOVERY 0 0

/-- LULL_ENTRY_DONE (R32, R34, R184, R194, R301, R412): the islands stop, and capture units lose their entries; a wake that came meanwhile follows at once. -/
def execLullEntryDone (s : State) : Answer :=
  if s.pwr.lull = 2 ∧ s.hl.link = .l2 then
    let s := meshDown (pinsHigh s)
    let s := (List.range 17).foldl (fun s g => stopGroup s g) s
    let s := { s with evf := { s.evf with cuFifo := [] } }
    let s := powerRec (setLull s 3) 4 0 0
    done (if s.pwr.wake.isSome then beginWake s else s)
  else .next s

/-- LULL_L2_TIMEOUT (R32, R373): 1 s after the completion the link is not in L2/L3 Ready. -/
def execLullL2Timeout (s : State) : Answer :=
  if s.pwr.lull = 2 ∧ s.hl.link ≠ .l2 ∧ s.pwr.lullAt + 1000000000 ≤ s.clock then
    done (record (leaveEntry s) 0x0F 0 0x0B)
  else .next s

/-- Whether the masks that govern the present Lull enable a wake source (R37). -/
def wakeEnabled (s : State) : WakeSource → Bool
  | .event ch => bit s.pwr.wakeEv ch && s.pwr.wakeSeen.contains ch
  | .smbus => s.pwr.wakeSmb
  | .monitor n => bit s.pwr.wakeMon n

/-- The completion of LULL_ENTER that waits to be posted becomes INTERRUPTED (R32). -/
def interruptLull (s : State) (c : Src × Nat) : State :=
  let fix := fun (k : Cpl) => if k.owns && k.src == c.1 && k.tag == c.2 then { k with status := St.INTERRUPTED } else k
  match c.1 with
  | .sq n => s.setCq (s.sq n).cq { s.cq (s.sq n).cq with pend := (s.cq (s.sq n).cq).pend.map fix }
  | _ => s

/-- LULL_WAKE_SOURCE (R32, R37, R38). -/
def execLullWakeSource (w : WakeSource) (s : State) : Answer :=
  if !wakeEnabled s w then .next s
  else match s.pwr.lull with
    | 1 => done (leaveEntry (match s.pwr.lullCmd with | some c => interruptLull s c | none => s))
    | 2 => .next { s with pwr := { s.pwr with wake := s.pwr.wake <|> some w } }
    | 3 => done (beginWake { s with pwr := { s.pwr with wake := some w } })
    | _ => .next s

/-- Words 6 and 7 of the POWER record of a wake (R496). -/
def wakeWords : Option WakeSource → Nat × Nat
  | some (.event ch) => (0, ch)
  | some (.monitor n) => (2, n)
  | _ => (1, 0)

end Sys2Proof.Machine
end

