-- ==== Sys2Proof/Machine/Vane.lean ====
section
/-!
DEFINITION. The management subsystem (R484 to R500, R511 to R513): the event recorder, the sensors, Vane's own supervision, and the
commands that read them. Images and activation are in `Image`, messages in `Oob`.
-/
namespace Sys2Proof.Machine

/-- Put a parameter whose value is a natural number. -/
def State.putN (s : State) (p : Prm) (v : Nat) : State := s.put p 0 (v : Int)

/-- Change what Vane holds. -/
def State.setVane (s : State) (v : Vane) : State := { s with vane := v }

/-- LOG_BUF_LEVEL follows the volatile buffer (R512). -/
def levelBuf (s : State) : State := s.putN VANE.LOG_BUF_LEVEL (s.vane.buf.length + s.vane.ring.length)

/-- Where a sequence number is stored (R494): a permanent slot, or a circulating one. -/
def slotOf (init seq : Nat) : Nat ⊕ Nat :=
  if init ≤ seq ∧ seq < init + 8192 then .inl (seq - init) else .inr ((seq - init - 8192) % 49152)

/-- Write one record to its slot; a permanent slot is never overwritten (R494). -/
def storeRecord (s : State) (n : Numbered) : State :=
  let none_ : Nat → Option Numbered := fun _ => none
  match slotOf (s.rdN VANE.LOG_INIT_SEQ) n.seq with
  | .inl i =>
    if (Bank.get none_ s.vane.perm i).isSome then s
    else s.setVane { s.vane with perm := Bank.set none_ s.vane.perm i (some n) }
  | .inr i => s.setVane { s.vane with circ := Bank.set none_ s.vane.circ i (some n) }

/-- LOG_OLDEST (R499): the greatest of the permanent range's end, the boundary of the last LOG_CLEAR, and LOG_FLUSHED − 49,152; it never
falls, so what it held stands for the boundary. -/
def renewOldest (s : State) : State :=
  s.putN VANE.LOG_OLDEST (max (max (s.rdN VANE.LOG_OLDEST) (s.rdN VANE.LOG_INIT_SEQ + 8192)) (s.rdN VANE.LOG_FLUSHED - 49152))

/-- Records lost at the full buffer are told once there is room again (R498). -/
def tellLost (s : State) : State :=
  if s.vane.lostUnwritten = 0 then s
  else
    let n := s.vane.lostUnwritten
    (s.setVane { s.vane with lostUnwritten := 0 }).logRec
      { typ := 0x09, time := s.now, blk := 0x0D, inst := 0, pay := [2, n, 0], sev := 0 }

/-- The buffered records are written, in sequence order (R498). -/
def flushAll (s : State) : State :=
  let s' := s.vane.buf.foldl storeRecord s
  let s' := match s.vane.buf.getLast? with
    | some n => s'.putN VANE.LOG_FLUSHED (n.seq + 1)
    | none => s'
  levelBuf (renewOldest (s'.setVane { s'.vane with buf := [], flushing := false }))

/-- A record of the media-fail ring (R501): slots 1 to 1,023 take it, the oldest is overwritten first; slot 0 stands. -/
def ringPut (ring : List Numbered) (n : Numbered) : List Numbered :=
  match ring with
  | [] => [n]
  | first :: rest => first :: (if 1023 ≤ rest.length then rest.drop 1 ++ [n] else rest ++ [n])

/-- Number a record and buffer it (R495, R497, R498): one that finds the buffer full is lost; a FAULT or FATAL one, or the 512th, starts a
flush. -/
def numberRecord (s : State) (r : Rec) (late : Bool) : State :=
  let n : Numbered := ⟨s.rdN VANE.LOG_HEAD, r, decide (2 ≤ pwrState s), late⟩
  if s.rd VANE.LOG_MEDIA_FAIL = 1 then
    levelBuf ((s.setVane { s.vane with ring := ringPut s.vane.ring n }).putN VANE.LOG_HEAD (n.seq + 1))
  else if 1024 ≤ s.vane.buf.length then
    let s := (s.bump VANE.LOG_LOST).setVane { s.vane with lostUnwritten := s.vane.lostUnwritten + 1 }
    vaneCause s 0x02
  else
    let buf := s.vane.buf ++ [n]
    levelBuf ((s.setVane { s.vane with
      buf := buf, flushing := s.vane.flushing || decide (2 ≤ r.sev) || decide (512 ≤ buf.length) }).putN VANE.LOG_HEAD (n.seq + 1))

/-- Whether a record goes before another of the same time (R473). -/
def recBefore (a b : Rec) : Bool := decide (b.sev < a.sev) || (a.sev == b.sev && decide (a.blk < b.blk))

/-- The record that is numbered next (R473, R497): of those on one time scale, the earliest, then the highest severity, then the lowest
block; a TIME_SET record ends its scale. -/
def nextRecord : List (Nat × Rec) → Option (Nat × Rec)
  | [] => none
  | x :: xs =>
    let same := if x.2.typ = 0x05 then [] else xs.takeWhile fun y => y.2.typ != 0x05
    some (same.foldl (fun b y =>
      if y.2.time < b.2.time ∨ (y.2.time = b.2.time ∧ recBefore y.2 b.2 = true) then y else b) x)

/-- LOG_RECORD_ARRIVE (R485, R497, R498). -/
def execLogRecordArrive (s : State) : Answer :=
  if !s.vane.up then .next s
  else match nextRecord s.vane.queue with
    | none => .next s
    | some e =>
      let s := s.setVane { s.vane with queue := s.vane.queue.erase e }
      done (numberRecord s e.2 (decide (e.1 + 100000 < s.clock)))

/-- MRAM fails its verify (R501): the failing record, the first of the flush, and the later ones stay in the ring behind a record of kind
MEDIA_FAIL. -/
def mediaFails (s : State) : State :=
  match s.vane.buf with
  | [] => s
  | bad :: rest =>
    let slot := match slotOf (s.rdN VANE.LOG_INIT_SEQ) bad.seq with
      | .inl i => i
      | .inr i => 8192 + i
    let told : Numbered := ⟨s.rdN VANE.LOG_HEAD,
      { typ := 0x09, time := s.now, blk := 0x0D, inst := 0, pay := [0, lo32 slot, hi32 slot], sev := 0 }, decide (2 ≤ pwrState s), false⟩
    let ring := rest.foldl ringPut [told, bad]
    let s := (s.setVane { s.vane with buf := [], flushing := false, ring := ring }).putN VANE.LOG_HEAD (told.seq + 1)
    sensorEvent (vaneCause (levelBuf (s.putN VANE.LOG_MEDIA_FAIL 1)) 0x01) 65 2

/-- The first records of the buffer are written and verified; the rest still wait (R498, R501). -/
def flushFirst (s : State) (k : Nat) : State :=
  let t := flushAll { s with vane := { s.vane with buf := s.vane.buf.take k } }
  levelBuf (t.setVane { t.vane with buf := s.vane.buf.drop k })

/-- LOG_FLUSH (R498, R501): every record is verified, or all before one that fails twice. -/
def execLogFlush (fails : Option Nat) (s : State) : Answer :=
  if !s.vane.flushing ∨ !s.vane.up ∨ s.vane.buf.isEmpty then .next s
  else match fails with
    | none => done (tellLost (flushAll s))
    | some k => done (tellLost (mediaFails (flushFirst s k)))

/-- The entry of one record (R495). -/
def recordWords (perm : Bool) (n : Numbered) : List Nat :=
  let body := [lo32 n.seq,
    b2n n.holdup * 2 ^ 27 + b2n n.late * 2 ^ 26 + b2n perm * 2 ^ 25 + n.r.typ * 65536 + n.seq / 2 ^ 32 % 65536,
    lo32 n.r.time, hi32 n.r.time, n.r.blk * 2 ^ 24 + n.r.inst * 4096] ++ pad 10 n.r.pay
  body ++ [crcWords (body ++ [0])]

/-- The entry LOG_READ gives for a sequence number (R499): the record of the buffer, the ring or its slot, else one that only carries its
own number. -/
def logEntry (s : State) (seq : Nat) : List Nat :=
  let init := s.rdN VANE.LOG_INIT_SEQ
  let place := slotOf init seq
  let stored := match place with
    | .inl i => Bank.get (fun _ => none) s.vane.perm i
    | .inr i => Bank.get (fun _ => none) s.vane.circ i
  let held := (s.vane.buf ++ s.vane.ring).find? fun n => n.seq == seq
  match held, stored with
  | some n, _ => recordWords place.isLeft n
  | none, some n => if n.seq = seq then recordWords place.isLeft n else [lo32 seq, seq / 2 ^ 32 % 65536] ++ List.replicate 14 0
  | none, none => [lo32 seq, seq / 2 ^ 32 % 65536] ++ List.replicate 14 0

/-- A command to Vane: a FATAL of its window stops it for the host, not for its own path (R22, R486). -/
def vaneCmd (s : State) (p : Pkt) (k : Res) : Res :=
  if p.src ≠ .vane ∧ stopped s .vane then refuse s St.ISLAND_STOPPED else k

/-- LOG_READ (R493, R499, R513): out of band it answers with one record. -/
def execLogRead (p : Pkt) (_wr : Option HostFault) (s : State) : Answer :=
  runCmd s p 0x0902 { host := true, used := [(2, allBits), (3, allBits), (4, allBits), (5, 0xFFFF), (6, allBits)] } <|
    vaneCmd s p <|
      let addr := pw64 p 2
      let first := pw p 4 + 2 ^ 32 * pw p 5
      let count := pw p 6
      if addr % 64 ≠ 0 ∨ count = 0 ∨ 4096 < count then refuse s St.BAD_VALUE
      else
        let n := min (if p.src = .vane then 1 else count) (s.rdN VANE.LOG_HEAD - first)
        let ws := (List.range n).flatMap fun i => logEntry s (first + i)
        if n = 0 then ok s (0 :: logWords s)
        else if p.src = .vane then ok (s.emit (.management 0x7E ws)) (n :: logWords s)
        else hostPut s p addr ws (.log n)

/-- LOG_CLEAR (R500): the buffer is flushed; the CLEARED record is the first of the new range. -/
def execLogClear (p : Pkt) (s : State) : Answer :=
  runCmd s p 0x0903 {} <|
    if !grantsOpen (lcFor s p) then refuse s St.LC_DENIED
    else vaneCmd s p <|
      let old := s.rdN VANE.LOG_OLDEST
      let s := if s.rd VANE.LOG_MEDIA_FAIL = 1 then s else flushAll s
      let s := s.putN VANE.LOG_OLDEST (s.rdN VANE.LOG_HEAD)
      let s := numberRecord s { typ := 0x09, time := s.now, blk := 0x0D, inst := 0, pay := [1, lo32 old, hi32 old], sev := 0 } false
      ok (tellLost s)

/-- The sensors there are (R487). -/
def sensorListed (n : Nat) : Bool := decide (n ≤ 24) || (decide (32 ≤ n) && decide (n ≤ 50))

/-- SENSOR_READ (R490). -/
def execSensorRead (p : Pkt) (s : State) : Answer :=
  runCmd s p 0x0904 { used := [(2, allBits)] } <|
    vaneCmd s p <|
      let n := pw p 2
      if !sensorListed n then refuse s St.BAD_VALUE
      else
        let v := s.sensor n
        ok s [toField 32 v.reading, v.state, lo32 v.time, hi32 v.time]

/-- The baseplate range of the module's grade, in °C (R4, R5). -/
def gradeRange : Int × Int := if bit idPart 8 then (-20, 70) else (0, 60)

/-- The state a reading gives a sensor (R489), with samples in a row beyond its two limits, and for PIN_W its readings. -/
def sensorState (s : State) (n : Nat) (v : Int) (w c : Nat) (watts : List Nat) : Nat :=
  if n < 24 then (if 2000 ≤ v then 2 else if s.rd VANE.TEMP_WARN ≤ v then 1 else 0)
  else if n = 24 then
    let r := gradeRange
    if v < (r.1 - 10) * 16 ∨ (r.2 + 10) * 16 < v then 2 else if v < r.1 * 16 ∨ r.2 * 16 < v then 1 else 0
  else if n < 48 then (if 2 ≤ c then 2 else if 2 ≤ w then 1 else 0)
  else if n = 48 then (if 80000 < v then 2 else if v < 36000 ∨ 75000 < v then 1 else 0)
  else if n = 50 then
    if 11 ≤ c then 2
    else if watts.length = 1000 ∧ 360000 * 1000 < watts.foldl (· + ·) 0 then 1
    else 0
  else 0

/-- Whether a reading lies beyond the limits that must last (R489): the warning and the critical one; of the baseplate the one that
sheds. -/
def beyond (n : Nat) (v : Int) : Bool × Bool :=
  if 32 ≤ n ∧ n < 48 then (decide (500 < iabs (v - 10000)), decide (1000 < iabs (v - 10000)))
  else if n = 24 then (decide ((gradeRange.2 + 15) * 16 ≤ v), false)
  else if n = 50 then (false, decide (420000 < v))
  else (false, false)

/-- The first instance whose window carries the over-temperature cause of a front end, the HV front end or a chip (R81, R177, R207,
R489; log 6). -/
def overTemp (s : State) (n : Nat) : State :=
  if n < 16 then recordChan s (8 * n) 0x0A
  else if n = 16 then recordChan s 128 0x07
  else if n ≤ 20 then chipCause s (n - 17) 0x05
  else s

/-- What a sensor sets on entry into a state (R489). -/
def enterSensor (s : State) (n st : Nat) : State :=
  if st = 1 then
    if n < 24 then vaneCause s 0x03
    else if n = 24 then vaneCause s 0x05
    else if n < 48 then vaneCause s 0x08
    else vaneCause s 0x07
  else if st = 2 then
    if n < 24 then overTemp (vaneCause s 0x04) n
    else if 32 ≤ n ∧ n < 48 then vaneCause s 0x08 true
    else s
  else s

/-- One sensor is sampled (R487 to R489): 10 ms without a reading make it UNAVAILABLE, and PIN_W has
one where VIN and IIN have. -/
def sampleSensor (readings : List (Nat × Option Int)) (s : State) (n : Nat) : State :=
  let old := s.sensor n
  let got : Option Int :=
    if n = 50 then
      if (s.sensor 48).silent = 0 ∧ (s.sensor 49).silent = 0 then some ((s.sensor 48).reading * (s.sensor 49).reading / 1000) else none
    else ((readings.find? fun r => r.1 == n).map Prod.snd).join
  if !sensorListed n ∨ ((n = 40 ∨ n = 41) ∧ s.rd HVC.BOOST_STATE ≠ 2) then s
  else
    let new := match got with
      | none => { old with silent := old.silent + 1, state := if 10 ≤ old.silent + 1 then 3 else old.state }
      | some v =>
        let b := beyond n v
        let w := if b.1 then old.overW + 1 else 0
        let c := if b.2 then old.overC + 1 else 0
        let watts := if n = 50 then (v.toNat :: s.vane.watts).take 1000 else s.vane.watts
        { reading := v, state := sensorState s n v w c watts, time := s.now, silent := 0, overW := w, overC := c }
    let s := if n = 50 ∧ got.isSome then s.setVane { s.vane with watts := (new.reading.toNat :: s.vane.watts).take 1000 } else s
    let s := if n = 48 ∧ got.isSome then s.setVin new.reading.toNat else s
    let s := s.setSensor n new
    if new.state = old.state then s else sensorEvent (enterSensor s n new.state) n new.state

/-- SENSOR_SAMPLE (R487 to R489, R510): once in a millisecond, in sensor-number order. -/
def execSensorSample (readings : List (Nat × Option Int)) (s : State) : Answer :=
  if s.vane.up ∧ s.vane.sampleAt ≠ some (s.clock / 1000000) then
    done ((List.range 51).foldl (sampleSensor readings) (s.setVane { s.vane with sampleAt := some (s.clock / 1000000) }))
  else .next s

/-- SMB_ALERT (R493): some sensor is CRITICAL, or some window shows FATAL. -/
def State.smbAlert (s : State) : Bool := s.vane.sensors.any (fun e => e.2.state == 2) || s.wins.any fun e => e.2.fatal

/-- A FATAL that bars the return to RUN (R564). -/
def barRun (s : State) : State := { s with pwr := { s.pwr with barred := true } }

/-- OVERTEMP_SHED_TIMER (R489, R561): the baseplate has been at the grade maximum plus 15 °C for 1 s, the span of 1,001 samples. -/
def execOvertempShedTimer (s : State) : Answer :=
  if s.vane.up ∧ 1001 ≤ (s.sensor 24).overW then done (beginShed (barRun (vaneCause s 0x06)) 6) else .next s

/-- TCXO_CHECK (R27, R486, R561). -/
def execTcxoCheck (good : Bool) (s : State) : Answer :=
  if good ∨ !s.vane.up ∨ s.vane.tcxoFailed then .next s
  else done (beginShed (barRun (vaneCause (s.setVane { s.vane with tcxoFailed := true }) 0x09)) 5)

/-- VANE_WATCHDOG (R27, R485, R510): an activation of Vane firmware is abandoned. -/
def execVaneWatchdog (s : State) : Answer :=
  if !s.vane.up then .next s
  else
    let s := match s.vane.act with
      | some a => if a.kind = 2 then activationFails s a 5 St.INTERRUPTED else s
      | none => s
    done { s.setVane { s.vane with up := false, why := 2 } with pwr := { s.pwr with toggles := false, round := false } }

end Sys2Proof.Machine
end

