-- ==== Sys2Proof/Machine/Image.lean ====
section
/-!
DEFINITION. Firmware images: staging and activation (R502 to R510, R513), and how Vane comes up (R484, R485, R507, R560).
-/
namespace Sys2Proof.Machine

/-- Bytes of a slot of an image kind (R502). -/
def slotBytes (kind : Nat) : Nat := if kind = 0 then 16 * 1048576 else 4 * 1048576

/-- Whether a header's format is right for a kind (R503, R504): FORMAT, KIND, reserved fields, SV and LENGTH. -/
def imageHeaderOk (kind : Nat) (h : List Nat) (bytes : Nat) : Bool :=
  let w := fun i => h.getD i 0
  w 0 == 0x10000 + kind * 256 && fld (w 2) 7 25 == 0 && decide (w 2 ≤ 64) && w 6 == 0 && w 7 == 0 &&
  (h.drop 68).all (· == 0) && decide (w 3 ≤ slotBytes kind - 512) && w 3 + 512 == bytes

/-- Whether an owner's signature verifies against the enrolled key (R504, R520). -/
def ownerSigned (s : State) (header sig : List Nat) : Bool :=
  s.rd LC.OWNER_KEY_EN == 1 && Config.sigVerifies s.lc.ownerKey (header.take 20) sig

/-- Whether the life-cycle state asks for the owner's signature (R504, R515): FIELD_SEALED, and CORRUPT. -/
def needsOwner (st : Nat) : Bool := [2, 7].contains st

/-- The check of R504, but for the owner's signature. -/
def imageOk (s : State) (kind bytes : Nat) (ws : List Nat) : Bool :=
  let h := ws.take 128
  imageHeaderOk kind h bytes && Config.sigVerifies (Config.vendorKey 1) (h.take 20) ((h.drop 20).take 24) &&
  (h.drop 8).take 12 == Config.sha384 (ws.drop 128) && decide (s.rdN VANE.FW_SV ≤ h.getD 2 0)

/-- An image that passed its checks is written to the standby slot (R505): the erase is counted (R478). -/
def beginStage (s : State) (cmd : Option (Src × Nat)) (kind : Nat) (ws : List Nat) : State :=
  let i := standbySlot s kind
  let h := ws.take 128
  let erases := (s.flash i).erases + 1
  let s := s.setFlash i { state := 3, version := h.getD 1 0, sv := h.getD 2 0, compatMin := h.getD 4 0, compatMax := h.getD 5 0,
                          length := h.getD 3 0, digest := (h.drop 8).take 12, header := h, ownerSig := (h.drop 44).take 24,
                          erases := erases }
  let s := if erases = 90000 then vaneCause s 0x81 else s
  fwState (s.setVane { s.vane with stage := some ⟨cmd, kind, i % 2⟩ })

/-- Stage an image (R504, R505, R510, R519, R524), checked against a life-cycle state: the status with which it is refused, and what that leaves. -/
def stageImage (s : State) (st : Nat) (cmd : Option (Src × Nat)) (kind bytes : Nat) (ws : List Nat) : Nat × State :=
  if s.vane.stage.isSome ∨ (s.vane.act.map fun a => a.kind == kind) = some true then (St.WRONG_STATE, s)
  else if !imageOk s kind bytes ws then (St.BAD_VALUE, vaneCause s 0x0C)
  else if needsOwner st && !ownerSigned s (ws.take 128) (((ws.take 128).drop 44).take 24) then (St.LC_DENIED, vaneCause s 0x0C)
  else (St.SUCCESS, beginStage s cmd kind ws)

/-- FW_STAGE (R504, R505, R510, R513). -/
def execFwStage (p : Pkt) (d : HostData) (s : State) : Answer :=
  runCmd s p 0x0905 { host := true, used := [(2, 3), (3, allBits), (4, allBits), (5, allBits)] } <|
    vaneCmd s p <|
      let kind := pw p 2
      let addr := pw64 p 3
      let bytes := pw p 5
      if kind = 3 ∨ addr % 64 ≠ 0 ∨ bytes < 512 ∨ slotBytes kind < bytes ∨ bytes % 4 ≠ 0 then refuse s St.BAD_VALUE
      else if shedding s then refuse s St.WRONG_STATE
      else withData s p addr bytes d fun ws =>
        let r := stageImage s (lcFor s p) (some (p.src, pTag p)) kind bytes (pad (bytes / 4) ws)
        if r.1 = St.SUCCESS then .later r.2 else refuse r.2 r.1

/-- FW_STAGE_DONE (R505, R513). -/
def execFwStageDone (good : Bool) (s : State) : Answer :=
  match s.vane.stage with
  | none => .next s
  | some g =>
    if !good then done (stagingFails s g St.MEDIA)
    else
      let i := 2 * g.kind + g.slot
      let s := s.setFlash i { s.flash i with state := 1 }
      let s := fwState (s.setVane { s.vane with stage := none })
      let s := firmwareRec s 0 g.kind g.slot (runningVersion s g.kind) (s.flash i).version 0
      done (answerImage s g.cmd St.SUCCESS [g.slot])

/-- Whether a slot's COMPAT fields allow the running images of the other kinds (R503, R506). -/
def compatible (s : State) (kind : Nat) (f : FlashSlot) : Bool :=
  let meets := fun (v : Nat) => decide (f.compatMin ≤ v) && decide (v ≤ f.compatMax)
  match kind with
  | 0 => meets (runningVersion s 1)
  | 1 => meets (runningVersion s 0)
  | _ => true

/-- Start an activation (R504, R506, R507, R509, R510, R519), checked against a life-cycle state: the status, with what it leaves. A refusal by the life cycle or an absent image
touches nothing; every other failure is one of R509. -/
def activate (s : State) (st : Nat) (cmd : Option (Src × Nat)) (kind : Nat) (raise : Bool) : Nat × List Nat × State :=
  let i := standbySlot s kind
  let f := s.flash i
  let fail := fun (reason status : Nat) =>
    (status, [reason], vaneCause (firmwareRec s 2 kind (i % 2) (runningVersion s kind) f.version reason) 0x0B)
  if s.vane.act.isSome ∨ s.vane.stage.isSome then fail 3 St.WRONG_STATE
  else if f.state ≠ 1 then (St.WRONG_STATE, [], s)
  else if f.version < runningVersion s kind ∧ !grantsOpen st then (St.LC_DENIED, [], s)
  else if f.sv < s.rdN VANE.FW_SV ∨ (needsOwner st && !ownerSigned s f.header f.ownerSig) then fail 1 St.BAD_VALUE
  else if !compatible s kind f then fail 2 St.BAD_VALUE
  else (St.SUCCESS, [], fwState (s.setVane { s.vane with act := some ⟨cmd, kind, raise, 2, s.clock⟩ }))

/-- FW_ACTIVATE (R504 to R509, R513, R527). -/
def execFwActivate (p : Pkt) (s : State) : Answer :=
  runCmd s p 0x0906 { used := [(2, 0x103)] } <|
    vaneCmd s p <|
      let kind := fld (pw p 2) 0 2
      if kind = 3 then refuse s St.BAD_VALUE
      else if shedding s ∨ (s.cmd.ops.any fun o => pOpcode o.pkt == 0x0C01 && o.stage != .waiting && !opDone s o) then
        refuse s St.WRONG_STATE
      else
        let r := activate s (lcFor s p) (some (p.src, pTag p)) kind (bit (pw p 2) 8)
        if r.1 = St.SUCCESS then .later r.2.2 else .done r.1 r.2.1 r.2.2

/-- The activation goes on to a step. -/
def actStep (s : State) (a : Activation) (n : Nat) : State := s.setVane { s.vane with act := some { a with step := n, at_ := s.clock } }

/-- The commands whose own chapters state a longer duration (R30), FW_ACTIVATE left out. -/
def longOpcodes : List Nat :=
  [0x0101, 0x0301, 0x0401, 0x040A, 0x0501, 0x0502, 0x0503, 0x0703, 0x0704, 0x0801, 0x0802, 0x0803, 0x0804, 0x0805, 0x0806, 0x0807,
   0x0901, 0x0902, 0x0905, 0x0A01, 0x0A03, 0x0A04, 0x0A05, 0x0B02, 0x0B03, 0x0C01]

/-- Whether a command that R30 grants a longer duration is in flight, besides FW_ACTIVATE (R506). -/
def longRunning (s : State) : Bool :=
  s.vane.stage.isSome || s.cmd.ops.any fun o =>
    o.stage != .waiting && !opDone s o && longOpcodes.contains (pOpcode o.pkt)

/-- FW_ACT_DRAINED (R506): step 2 ends. -/
def execFwActDrained (s : State) : Answer :=
  match s.vane.act with
  | some a => if a.kind = 0 ∧ a.step = 2 ∧ !longRunning s then .next (actStep s a 3) else .next s
  | none => .next s

/-- FW_ACT_WAIT_EXPIRY (R506, R509): BUSY. -/
def execFwActWaitExpiry (s : State) : Answer :=
  match s.vane.act with
  | some a =>
    if a.kind = 0 ∧ a.step = 2 ∧ a.at_ + 1000000 * s.rdN VANE.FW_ACT_WAIT ≤ s.clock then done (activationFails s a 3 St.WRONG_STATE)
    else .next s
  | none => .next s

/-- FW_ACT_INIT_TIMEOUT (R506, R509): INIT_FAIL. -/
def execFwActInitTimeout (s : State) : Answer :=
  match s.vane.act with
  | some a =>
    if a.kind = 0 ∧ a.step = 3 ∧ a.at_ + 2000000000 ≤ s.clock then done (activationFails s a 4 St.INTERRUPTED) else .next s
  | none => .next s

/-- FW_ACT_PAUSE_START (R506, R357): fetching from ordinary queues and the mailbox stops. -/
def execFwActPauseStart (s : State) : Answer :=
  match s.vane.act with
  | some a =>
    if a.kind = 0 ∧ a.step = 3 then
      .next { (actStep s a 4).putN VANE.FW_STATE 3 with hl := { s.hl with hostState := 1 } }
    else .next s
  | none => .next s

/-- The image of a kind runs from its other slot (R506, R507). -/
def swapImage (s : State) (kind : Nat) : State :=
  let i := standbySlot s kind
  s.setVane { s.vane with running := Bank.set (fun _ => 0) s.vane.running kind (i % 2), notBooted := s.vane.notBooted ++ [kind] }

/-- FW_SWAP (R357, R371, R506): the new image takes service. -/
def execFwSwap (s : State) : Answer :=
  match s.vane.act with
  | some a =>
    if a.kind = 0 ∧ a.step = 4 then
      let pause := min ((s.clock - a.at_) / 1000) 0xFFFFFFFF
      let s := { actStep (swapImage s 0) a 6 with hl := { s.hl with hostState := 0 } }
      .next (crsEnds (fwState (s.putN VANE.PAUSE_LAST pause)))
    else .next s
  | none => .next s

/-- The boot-selection word of an activation is verified (R504, R506, R507): ACTIVATED, RAISE_SV, and the completion with the new
version. -/
def activated (s : State) (a : Activation) (old : Nat) : State :=
  let i := runningSlot s a.kind
  let f := s.flash i
  let s := s.setVane { s.vane with
    act := none, notBooted := s.vane.notBooted.filter (· != a.kind),
    boot := Bank.set (fun _ => 0) s.vane.boot a.kind (i % 2) }
  let s := firmwareRec (fwState s) 1 a.kind (i % 2) old f.version 0
  let s := if a.raise ∧ s.rdN VANE.FW_SV < f.sv then
      let s := s.putN VANE.FW_SV f.sv
      firmwareRec s 4 a.kind (i % 2) old f.version 0
    else s
  answerImage s a.cmd St.SUCCESS [f.version]

/-- The version that the slot an image left holds. -/
def leftVersion (s : State) (kind : Nat) : Nat := (s.flash (standbySlot s kind)).version

/-- FW_ACT_COMPLETE (R506): step 7. -/
def execFwActComplete (s : State) : Answer :=
  match s.vane.act with
  | some a => if a.kind = 0 ∧ a.step = 6 then done (activated s a (leftVersion s 0)) else .next s
  | none => .next s

/-- MICROCODE_BANK_SWITCH (R507): all 21 chips at one boundary. -/
def execMicrocodeBankSwitch (s : State) : Answer :=
  match s.vane.act with
  | some a =>
    if a.kind = 1 then
      let s := swapImage s 1
      done (activated s a (leftVersion s 1))
    else .next s
  | none => .next s

/-- VANE_FW_RESTART (R498, R507): the buffer is flushed and Vane restarts on the new image; ALIVE holds. -/
def execVaneFwRestart (s : State) : Answer :=
  match s.vane.act with
  | some a =>
    if a.kind = 2 ∧ a.step = 2 ∧ s.vane.up then
      let s := if s.rd VANE.LOG_MEDIA_FAIL = 1 then s else flushAll s
      let s := swapImage (actStep s a 6) 2
      done { s.setVane { s.vane with up := false, why := 3 } with pwr := { s.pwr with toggles := false, round := false } }
    else .next s
  | none => .next s

/-- The record of what CMD's queue could not hold (R27, R485): after a watchdog restart always, else only if something was lost. -/
def tellQueueLost (s : State) (always : Bool) : State :=
  let n := s.vane.queueLost
  let s := s.setVane { s.vane with queueLost := 0 }
  if always ∨ n ≠ 0 then
    s.logRec { typ := 0x09, time := s.now, blk := 0x0D, inst := 0, pay := [3, n, 0], sev := 0 }
  else s

/-- Images whose boot word was never written are lost with the power (R509): the old image runs and ACT_LOST is logged. -/
def tellActLost (s : State) : State :=
  let lost := s.vane.notBooted
  let s := s.setVane { s.vane with notBooted := [] }
  lost.foldl (fun s k => firmwareRec s 3 k (runningSlot s k - 2 * k) (leftVersion s k) (runningVersion s k) 0) s

/-- After a failure Vane retries the MRAM at power-up (R501): whether the verified write to the recorder state area fails twice again is a
free value, as is what stands for the failing slot, which is none (log 234). -/
def retryMedia (s : State) : State :=
  if s.vane.mediaFailed then
    let a := (s.setVane { s.vane with mediaFailed := false }).draw
    if a.1 % 2 = 0 then a.2
    else
      let b := a.2.draw
      let s := b.2
      let told : Numbered := ⟨s.rdN VANE.LOG_HEAD,
        { typ := 0x09, time := s.now, blk := 0x0D, inst := 0, pay := [0, lo32 b.1, hi32 b.1], sev := 0 }, false, false⟩
      let s := (s.setVane { s.vane with ring := [told] }).putN VANE.LOG_HEAD (told.seq + 1)
      sensorEvent (vaneCause (levelBuf (s.putN VANE.LOG_MEDIA_FAIL 1)) 0x01) 65 2
  else s

/-- VANE_UP (R484, R485, R496, R501, R507, R509, R560). -/
def execVaneUp (s : State) : Answer :=
  if s.vane.up ∨ !s.pwr.powered then .next s
  else
    let why := s.vane.why
    let s := s.setVane { s.vane with up := true }
    if why = 0 then done (tellQueueLost (tellActLost (powerRec (retryMedia s) 0 s.pwr.vin 0)) false)
    else if why = 1 then done (tellQueueLost (powerRec (retryMedia s) 2 0 0) false)
    else if why = 2 then done (tellQueueLost (vaneCause s 0x0A) true)
    else
      let s := tellQueueLost s false
      match s.vane.act with
      | some a => done (if a.kind = 2 ∧ a.step = 6 then activated s a (leftVersion s 2) else s)
      | none => done s

/-- FW_STATUS (R513). -/
def execFwStatus (p : Pkt) (s : State) : Answer :=
  runCmd s p 0x0907 { used := [(2, 3)] } <|
    vaneCmd s p <|
      let k := pw p 2
      if k = 3 then refuse s St.BAD_VALUE
      else
        let a := s.flash (2 * k)
        let b := s.flash (2 * k + 1)
        ok s [runningSlot s k - 2 * k + 16 * a.state + 256 * b.state, a.version, b.version,
          a.sv + 256 * b.sv + 65536 * s.rdN VANE.FW_SV]

end Sys2Proof.Machine
end

