-- ==== Sys2Proof/Machine/Test.lean ====
section
/-!
DEFINITION. Loopbacks and self-test (R531 to R538, R542, R543).
-/
namespace Sys2Proof.Machine

/-- The channel that a target ID names (R532). -/
def runChan (target : Nat) : Nat := target / 0x1000 % 0x1000 + (if target / 0x1000000 = 4 then 128 else 0)

/-- A loopback armed on a target ends (R533): the test DAC is disconnected, the echo units stop. -/
def disarm (s : State) (target : Nat) : State :=
  let mine := s.tst.armed.filter fun a => a.1 == target
  let s := { s with tst := { s.tst with armed := s.tst.armed.filter fun a => a.1 != target } }
  mine.foldl (fun s a =>
    if a.2 = 5 then { s with evf := { s.evf with echo := [], echoDue := [] } }
    else if a.2 = 4 then
      let c := runChan target
      let h := groupHome (groupOf c)
      tdacChanged (s.wrNext MSR.TDAC_MASK h 0 (setBit (s.rdN MSR.TDAC_MASK h) (c - h) false : Nat)) (groupOf c)
    else s) s

/-- Every armed loopback ends (R533). -/
def disarmAll (s : State) : State := (s.tst.armed.map Prod.fst).foldl disarm s

/-- Where a loopback acts (R532): a domain, a channel, the fabric, the SMBus; nowhere on an instance of any other block. -/
inductive LoopTarget where
  | dom (d : Nat)
  | chan (c : Nat)
  | fabric
  | smbus
  | none_
deriving DecidableEq, Repr

/-- The target a command names in word 1 (R532). -/
def loopTarget (p : Pkt) : Option LoopTarget :=
  match targetChan p, targetInst p 6, targetInst p 8, targetInst p 0x0D with
  | some c, _, _, _ => some (.chan c)
  | _, some d, _, _ => some (.dom d)
  | _, _, some _, _ => some .fabric
  | _, _, _, some _ => some .smbus
  | none, none, none, none => if (List.range 16).any fun b => (targetInst p (b + 1)).isSome then some .none_ else none

/-- Whether a depth applies to a target (R532). -/
def depthApplies (t : LoopTarget) (depth : Nat) : Bool :=
  match t with
  | .dom _ => depth == 1 || depth == 2
  | .chan _ => depth == 3 || depth == 4
  | .fabric => depth == 5
  | .smbus => depth == 6
  | .none_ => false

/-- The island a target stands in. -/
def LoopTarget.island : LoopTarget → Island
  | .dom d => .seq d
  | .chan c => chanIsland c
  | .fabric => .cmd
  | .smbus => .vane
  | .none_ => islandOf 14 0

/-- The words that a loopback command uses (R532): the channel mask belongs to EVF_ECHO. -/
def loopForm (p : Pkt) : Form :=
  { used := [(1, allBits), (2, allBits)] ++ (if pw p 2 = 5 then [(3, allBits), (4, allBits)] else []) }

/-- LOOPBACK_SET (R119, R120, R524, R532, R533): SELF_LOAD and SMB_ECHO can only be run. -/
def execLoopbackSet (p : Pkt) (s : State) : Answer :=
  runCmd s p 0x0B01 (loopForm p) <|
    let depth := pw p 2
    match loopTarget p with
    | none => refuse s St.BAD_ID
    | some t =>
      if depth ≠ 0 ∧ (!depthApplies t depth ∨ depth = 3 ∨ depth = 6) then refuse s St.BAD_VALUE
      else if depth ≠ 0 ∧ !grantsLoop (lcFor s p) false then refuse s St.LC_DENIED
      else if stopped s t.island then refuse s St.ISLAND_STOPPED
      else
        let s' := disarm s (pw p 1)
        let arm := fun (s : State) => { s with tst := { s.tst with armed := s.tst.armed ++ [(pw p 1, depth)] } }
        match t, depth with
        | _, 0 => ok s'
        | .chan c, _ =>
          let h := groupHome (groupOf c)
          match writeTdacMask s' (groupOf c) (setBit (s'.rdN MSR.TDAC_MASK h) (c - h) true : Nat) with
          | .ok s' => ok (arm s')
          | .error e => refuse s e
        | .fabric, _ => ok (arm { s' with evf := { s'.evf with echo := maskBits 64 (pw64 p 3), echoDue := [] } })
        | _, _ => ok (arm s')

/-- Whether a run can be made (R535). -/
def mayRun (s : State) (t : LoopTarget) (depth mask : Nat) : Bool :=
  match t with
  | .dom d =>
    s.seqState d == 0 &&
    (if depth = 1 then s.tbState == 2
     else (domPins d).all fun n => s.pinState n == 0 && s.rd PIN.STATIC n == 2 && s.rd PIN.PMU_EN n == 0)
  | .chan c =>
    !calTarget s c && (s.ch c).motion == .still &&
    (if depth = 3 then s.chState c == 0 && (decide (c < 128) || s.rd HVC.INTLK_STATE == 1)
     else decide (s.chState c ≤ 1) && !owned s c)
  | .fabric => s.evfMode == 2 && (maskBits 64 mask).all fun n => decide (s.rdN EVF.HOLDOFF 0 n < 16)
  | .smbus => (s.vane.smbAt.map fun t => decide (t + 1000000 ≤ s.clock)).getD true
  | .none_ => false

/-- LOOPBACK_RUN (R524, R532, R534, R535): the built-in check runs until its row ends it. -/
def execLoopbackRun (p : Pkt) (s : State) : Answer :=
  runCmd s p 0x0B02 (loopForm p) <|
    let depth := pw p 2
    match loopTarget p with
    | none => refuse s St.BAD_ID
    | some t =>
      if !depthApplies t depth then refuse s St.BAD_VALUE
      else if !grantsLoop (lcFor s p) false then refuse s St.LC_DENIED
      else if stopped s t.island then refuse s St.ISLAND_STOPPED
      else if !mayRun s t depth (pw64 p 3) ∨ s.tst.runs.any (fun r => r.target == pw p 1) then refuse s St.WRONG_STATE
      else
        let add := fun (s : State) (saved : List (Nat × Int)) =>
          let r : LoopRun := { src := p.src, tag := pTag p, target := pw p 1, depth, mask := pw64 p 3, start := s.clock, saved }
          { s with tst := { s.tst with runs := s.tst.runs ++ [r] } }
        match t, depth with
        | .dom d, 2 => .later (driverBegins (add s (driverSaved s d)) d)
        | _, _ => .later (add s [])

/-- The outcome of a check (R534): errors, and the first failing item with the value measured there. -/
structure LoopVerdict where
  errors : Nat := 0
  item : Nat := 0
  value : Nat := 0
deriving DecidableEq, Repr

/-- The lowest set bit of a map. -/
def lowestBit (n : Nat) : Nat := ((List.range 128).find? fun i => bit n i).getD 0

/-- SEQ_CAPTURE (R536): fails that were not planted, and planted ones that are missing. -/
def judgeCapture (fails : List (Nat × Nat)) (value : Nat) : LoopVerdict :=
  let planted := (List.range 16).map Config.plantedFail
  let wrong := fails.filter (!planted.contains ·) ++ planted.filter (!fails.contains ·)
  { errors := wrong.length, item := lowestBit ((wrong.head?.map Prod.snd).getD 0), value }

/-- The points of a channel's check, each with k, e and t: its reading r passes where |k·r − e| ≤ t (R538). TEST_DAC takes its three codes on
the current, on the pair range where the channel has one, then on the voltage; SELF_LOAD forces three voltages, and sinks on current
ranges 3 to 8. -/
def loopPoints (c depth : Nat) : List (Int × Int × Int) :=
  let full : Int := 4194304
  let codes : List Int := [-1600, 0, 1600]
  let at_ := fun (k : Int) => codes.map fun d => ((1 : Int), d * k, (8389 : Int))
  if depth = 4 then at_ 2560 ++ (if c < 128 then at_ 256 else []) ++ at_ 2560
  else if c < 128 then
    ([-1, 0, 1] : List Int).map (fun v => (200, v * 140 * full, full)) ++ List.replicate 6 (200, -140 * full, full)
  else ([-1, 0, 1] : List Int).map fun v => (4200, v * 1000 * full, 21 * full)

/-- TEST_DAC and SELF_LOAD (R538): the points whose reading is off; the item is the channel. -/
def judgeReadings (c depth : Nat) (means : List Int) : LoopVerdict :=
  let off := ((loopPoints c depth).zipIdx.filter fun e =>
    decide (e.1.2.2 < (iabs (e.1.1 * means.getD e.2 0 - e.1.2.1)))).map fun e => means.getD e.2 0
  { errors := off.length, item := c, value := toField 32 (off.headD 0) }

/-- EVF_ECHO (R538): a channel passes when CH_COUNT has risen by exactly 2,000 and every echo came 64 ns ± 10 ns after its pulse. -/
def judgeEcho (mask : Nat) (channels : List (Nat × Nat × Nat × Nat)) : LoopVerdict :=
  let of_ := fun (n : Nat) => ((channels.find? fun e => e.1 == n).map Prod.snd).getD (0, 0, 0)
  let wrong := (maskBits 64 mask).filter fun n =>
    let e := of_ n
    !(e.1 == 2000 && decide (54 ≤ e.2.1) && decide (e.2.2 ≤ 74))
  let value := fun (n : Nat) =>
    let e := of_ n
    if e.1 ≠ 2000 then e.1 else if e.2.1 < 54 then e.2.1 else e.2.2
  { errors := wrong.length, item := wrong.headD 0, value := (wrong.head?.map value).getD 0 }

/-- SMB_ECHO (R538): every one of the 256 bytes, and the PEC of each MCTP packet of 64, comes back unchanged. -/
def judgeBytes (bytes : List Nat) (pecs : List Bool) : LoopVerdict :=
  let wrong := (List.range 256).filter fun i =>
    bytes[i]? != some (Config.smbPattern i).toNat || (i % 64 == 0 && !pecs.getD (i / 64) false)
  { errors := wrong.length, item := wrong.headD 0, value := bytes.getD (wrong.headD 0) 0 }

/-- What the results say of a run (R536 to R538), by its depth; a PIN_DRIVER run counts its own once it has played its last vector, and has
no verdict before. -/
def judge (r : LoopRun) (captured : CaptureRun) (means : List Int) (echoes : List (Nat × Nat × Nat × Nat)) (looped : Looped) :
    Option LoopVerdict :=
  match r.depth with
  | 1 => some (judgeCapture captured.fails captured.value)
  | 2 =>
    if driverVectors ≤ r.played then
      some { errors := r.errors, item := (r.fail.getD (0, 0)).1, value := (r.fail.getD (0, 0)).2 }
    else none
  | 5 => some (judgeEcho r.mask echoes)
  | 6 => some (judgeBytes looped.bytes looped.pecs)
  | _ => some (judgeReadings (runChan r.target) r.depth means)

/-- Result words 2 to 5 of a run (R534). -/
def verdictWords (v : LoopVerdict) (us : Nat) : List Nat :=
  [b2n (v.errors = 0) * 2 ^ 31 + min v.errors 65535, if v.errors = 0 then 0xFFFFFFFF else v.item,
    if v.errors = 0 then 0 else v.value, us]

/-- LOOPBACK_RUN_DONE (R534, R536 to R538, R544): what the run changed stands as before it, and the verdict completes the command. -/
def execLoopbackRunDone (src : Src) (tag : Nat) (captured : CaptureRun) (means : List Int)
    (echoes : List (Nat × Nat × Nat × Nat)) (looped : Looped) (s : State) : Answer :=
  match (s.tst.runs.find? fun r => r.src == src && r.tag == tag).bind fun r =>
      (judge r captured means echoes looped).map fun v => (r, v) with
  | none => .next s
  | some (r, v) =>
    let s := restoreRun { s with tst := { s.tst with runs := s.tst.runs.filter (· != r) } } r
    let s := if v.errors = 0 then s else record s 0x0E 0 0x01
    done (s.complete src tag St.SUCCESS (verdictWords v ((s.clock - r.start) / 1000)))

/-- The steps of a SELF_TEST that skip a target whose precondition is unmet (R535, R543); the ports of step MESH are those that are UP. -/
def skippedSteps (s : State) : Nat :=
  let none_ := fun (ts : List (LoopTarget × Nat)) => b2n (ts.any fun t => !mayRun s t.1 t.2 (2 ^ 64 - 1))
  let chans := fun (depth : Nat) => (List.range 132).map fun c => (LoopTarget.chan c, depth)
  let doms := (List.range 2).flatMap fun d => [(LoopTarget.dom d, 1), (LoopTarget.dom d, 2)]
  none_ [(.fabric, 5)] + 2 * none_ (chans 4) + 4 * none_ (chans 3) + 8 * none_ doms

/-- SELF_TEST (R543): preconditions are judged as they stand at its dispatch (log 175). -/
def execSelfTest (p : Pkt) (s : State) : Answer :=
  runCmd s p 0x0B03 { used := [(2, 0x7F)] } <|
    if !grantsLoop (lcFor s p) false then refuse s St.LC_DENIED
    else if s.tst.selfTest.isSome then refuse s St.WRONG_STATE
    else
      let r : SelfRun :=
        { src := p.src, tag := pTag p, mask := pw p 2, skipped := (skippedSteps s).land (pw p 2), start := s.clock }
      .later { s with tst := { s.tst with selfTest := some r } }

/-- SELF_TEST_DONE (R534, R543, R544): the masks of the steps that failed, and that skipped a target which no longer met its precondition when
its step came, of those selected; the duration in ms. -/
def execSelfTestDone (failed skipped : Nat) (s : State) : Answer :=
  match s.tst.selfTest with
  | none => .next s
  | some t =>
    let s := { s with tst := { s.tst with selfTest := none } }
    let bad := failed.land t.mask
    let s := if bad % 64 = 0 then s else record s 0x0E 0 0x01
    done (s.complete t.src t.tag St.SUCCESS [bad, t.skipped.lor (skipped.land t.mask), 0, (s.clock - t.start) / 1000000])

end Sys2Proof.Machine
end

