-- ==== Sys2Proof/Machine/Reset.lean ====
section
/-!
DEFINITION. Resets, power-up and the link's coming and going (R9, R32, R36, R369 to R377, R484, R515, R522, R560 to R567): power-on, nRESET
and soft reset, boot, and the rows of PERST#, the near loopback, wake and Function Level Reset.
-/
namespace Sys2Proof.Machine

/-- Whether an operation came from the host by a queue or the mailbox: those a soft reset abandons (R324, R369). -/
def hostSrc : Src → Bool
  | .sq _ => true
  | .mbx => true
  | _ => false

/-- The requester of work that outlives a soft reset: nobody where it was the host (R324, R369). -/
def orphan (o : Src) : Src := if hostSrc o then .nobody else o

/-- The same for a command's source and tag. -/
def orphanPair (c : Src × Nat) : Src × Nat := (orphan c.1, c.2)

/-- The link leaves L0 other than by L2 entry (R358, R377); nothing where it was not up. -/
def linkLost (s : State) : State :=
  if s.hl.link = .up ∨ s.hl.link = .slave then
    let s := (s.bump HL.LINK_DOWN_COUNT).putN HL.LINK_STATUS (s.rdN HL.LINK_STATUS % 256)
    record { s with hl := { s.hl with link := .down } } 0x0F 0 0x01
  else s

/-- A soft reset detaches a stream (R369, R394, R406, R410): its ring is forgotten, its commands abandoned. -/
def detach (s : State) (n : Nat) : State :=
  let st := s.stmState n
  let t := s.stream n
  let s := s.setStream n { t with
    waiting := false, notice := false
    flushes := t.flushes.filter fun f => !hostSrc f.1
    retries := t.retries.filter fun r => !hostSrc r.1 }
  if st = 2 ∨ st = 3 ∨ st = 4 ∨ st = 6 then
    let s := s.setStream n { s.stream n with dataDone := false, held := false, stop := none, node := none }
    let s := ((s.put STM.STATE n 5).put STM.RING_BASE n 0).put STM.RING_BLOCKS n 0
    record (((s.put STM.WIDX_ADDR n 0).put STM.WR_IDX n 0).put STM.RD_IDX n 0) 9 n 0x08
  else s

/-- Whether a soft reset returns a parameter to its reset value (R369): those of the host link, but for the sticky ones and LINK_STATUS
(R358), and those of the translation contexts. -/
def softCleared (id : Nat) : Bool :=
  let blk := id / 0x1000000
  blk == 0x0A || (blk == 0x0F && !paramKept id && id != HL.LINK_STATUS.id 0 0)

/-- Host operations in progress are abandoned (R324, R369, R451, R533): what cannot go on without them ends and applies nothing, and what
goes on answers nobody. -/
def abandon (s : State) : State :=
  let s := s.uploads.foldl (fun s u =>
    if hostSrc u.src then match s.region u.handle with
      | some r => s.setRegion u.handle (some { r with state := 2 })
      | none => s
    else s) s
  let s := (s.fch.map Prod.fst).foldl (fun s c =>
    match (s.ch c).tune with
    | some t => if hostSrc t.src then s.setCh c { s.ch c with tune := none } else s
    | none => s) s
  let s := match s.cal.sys with
    | some o => s.complete (orphan o.src) o.tag St.INTERRUPTED []
    | none => s
  let s := s.put CAL.SYS_STATE 0 0
  let s := (s.tst.runs.filter fun r => hostSrc r.src).foldl restoreRun s
  let s := { s with
    uploads := s.uploads.filter fun u => !hostSrc u.src
    cal := { s.cal with sys := none, selfs := s.cal.selfs.filter fun o => !hostSrc o.src }
    tb := { s.tb with
      waiting := s.tb.waiting.map orphanPair
      phase := s.tb.phase.filter fun r => !hostSrc r.src
      timeSet := s.tb.timeSet.filter fun t => !hostSrc t.1 }
    msh := { s.msh with
      enum := s.msh.enum.map orphanPair
      time := s.msh.time.map fun t => (orphan t.1, t.2)
      fwds := s.msh.fwds.map fun f => { f with src := orphan f.src } }
    vane := { s.vane with
      stage := s.vane.stage.map fun g => { g with cmd := g.cmd.map orphanPair }
      act := s.vane.act.map fun a => { a with cmd := a.cmd.map orphanPair } }
    lc := { s.lc with nonce := none, eraseCmd := s.lc.eraseCmd.map orphanPair }
    tst := { s.tst with
      runs := s.tst.runs.filter fun r => !hostSrc r.src
      selfTest := s.tst.selfTest.filter fun t => !hostSrc t.src } }
  (List.range 4).foldl (fun s p => s.setPort p { s.port p with lb := (s.port p).lb.map fun l => (orphan l.1, l.2) }) s

/-- A soft reset (R9, R291, R324, R369, R394, R464, R516, R533): status windows, channels, engines, sequencers, timebase, coefficients and
the immediate ceilings stay. -/
def softReset (s : State) : State :=
  let s := if s.pwr.lull = 1 then leaveEntry s else s
  let s := (List.range 32).foldl detach (abandon s)
  let s := { s with
    par := s.par.filter fun e => !softCleared e.1
    cmd := { ops := s.cmd.ops.filter fun o => !hostSrc o.pkt.src, ceilings := s.cmd.ceilings }
    xlt := { xfers := s.xlt.xfers.filter fun x => (xferNode x).isSome }
    hl := { s.hl with
      held := [], latch := [], vecs := [], msixEn := false, fnMask := false, busMaster := false, ats := false
      pri := false, pasid := false, d3 := false, crs := true, timeout := 0, timeoutOff := false, aer := {} } }
  powerRec (disarmAll (evfSoftReset s)) 3 0 0

/-- Whether the link stands still for Lull, so that PERST# has no effect on it (R373, R376). -/
def linkAsleep (s : State) : Bool := decide (3 ≤ s.pwr.lull) || (s.pwr.lull == 2 && s.hl.link == .l2)

/-- The link that has trained in a wake is lost, or reset by the host: the soft reset this means takes effect with RUN, as that of a release of
PERST# does (R369, R373). -/
def resetInWake (s : State) : State :=
  if s.pwr.lull = 4 ∧ (s.hl.link = .up ∨ s.hl.link = .slave) then
    let s := linkLost s
    { s with hl := { s.hl with link := .training, perstInLull := true } }
  else s

/-- PERST# falls while the link sleeps in Lull: it is held, and the link drops where the entry is done (R373). -/
def perstAsleep (s : State) : State :=
  { s with hl := { s.hl with perst := true, link := if s.pwr.lull = 4 then .down else s.hl.link } }

/-- A hot reset, or DL_Down: the link trains again (R369, R370). -/
def dlReset (s : State) : Answer :=
  if s.hl.link = .up ∨ s.hl.link = .slave ∨ s.hl.link = .l2 ∨ s.hl.link = .training then
    let s := softReset (linkLost s)
    done { s with hl := { s.hl with link := .training, flr := false } }
  else .next s

/-- SOFT_RESET (R369, R370, R373, R376). -/
def execSoftReset (why : SoftReset) (s : State) : Answer :=
  if linkAsleep s then
    done (match why with
      | .perst => perstAsleep (resetInWake s)
      | .flr => s
      | _ => resetInWake s)
  else match why with
    | .perst =>
      let s := softReset (linkLost s)
      done { s with hl := { s.hl with perst := true, link := .down, flr := false } }
    | .flr => if s.hl.link = .up then done { softReset s with hl := { (softReset s).hl with flr := true } } else .next s
    | .hotReset => dlReset s
    | .dlDown => dlReset s

/-- Whether a near loopback is due before the link first trains after power-up (R375, R524): a stored value is not run where the state grants
none. -/
def nearDue (s : State) : Bool :=
  let c := s.rdN HL.LB_BOOT % 4
  (c == 1 || c == 2) && openAccess s && !s.hl.lbRun

/-- The clock of R370 starts: the link trains, or waits for its near loopback. -/
def startLink (s : State) : State :=
  if s.hl.link = .down ∧ s.hl.supplies ∧ !s.hl.perst ∧ !nearDue s then
    { s with hl := { s.hl with link := .training, lbRun := true } }
  else s

/-- PERST_RELEASE (R370, R373): in Lull or a wake the soft reset it means takes effect with RUN. -/
def execPerstRelease (s : State) : Answer :=
  if !s.hl.perst then .next s
  else if linkAsleep s then
    .next { s with hl := { s.hl with
      perst := false, perstInLull := true, link := if s.pwr.lull = 4 then .training else s.hl.link } }
  else .next (startLink { s with hl := { s.hl with perst := false } })

/-- CONTROLLER_SUPPLIES_UP (R370, R560). -/
def execControllerSuppliesUp (s : State) : Answer :=
  if s.hl.supplies ∨ !s.pwr.powered then .next s
  else .next (startLink { s with hl := { s.hl with supplies := true } })

/-- NEAR_LOOPBACK_START (R370, R375, R524). -/
def execNearLoopbackStart (s : State) : Answer :=
  if s.hl.link = .down ∧ s.hl.supplies ∧ !s.hl.perst ∧ nearDue s then .next { s with hl := { s.hl with link := .nearLoop, lbAt := s.clock } }
  else .next s

/-- How long the near loopback runs, in ns (R375): 10 ms on each rate. -/
def nearTime (s : State) : Nat := if bit (s.rdN HL.LB_BOOT) 3 then 30000000 else 10000000

/-- NEAR_LOOPBACK_END (R375, R378): `lanes` failed, with `errors` bit errors. -/
def execNearLoopbackEnd (lanes errors : Nat) (s : State) : Answer :=
  if s.hl.link = .nearLoop ∧ s.hl.lbAt + nearTime s ≤ s.clock then
    let s := (s.putN HL.LB_RESULT (loopbackResult lanes errors))
    let s := { s with hl := { s.hl with link := .training, lbRun := true } }
    done (if lanes = 0 ∧ errors = 0 then s else record s 0x0F 0 0x09)
  else .next s

/-- FLR_COMPLETE (R370, R371). -/
def execFlrComplete (s : State) : Answer :=
  if s.hl.flr then .next (crsEnds { s with hl := { s.hl with flr := false } }) else .next s

/-- The life-cycle state that the module takes at power-up (R515): state, transitions; none where no copy is valid. -/
def bestCopy (l : Lc) : Option (Nat × Nat) :=
  ((List.range 2).filter fun i => l.copyValid.getD i false).foldl (fun (b : Option (Nat × Nat)) i =>
    let c := (l.copyState.getD i 0, l.copyCount.getD i 0)
    match b with
    | some x => if x.2 < c.2 then some c else some x
    | none => some c) none

/-- LC at power-up (R515, R522, R525): the fuse, else the better copy; an erasure that was cut goes on; in SCRAPPED the pins stay at high
impedance. -/
def bootLc (s : State) : State :=
  let s := match bestCopy s.lc with
    | some c => (s.putN LC.STATE (if s.lc.scrapFuse then 4 else c.1)).putN LC.TRANSITIONS c.2
    | none =>
      if s.lc.scrapFuse then s.putN LC.STATE 4
      else record ((s.putN LC.STATE 7).putN LC.OWNER_KEY_EN 0) 0x10 0 0x04
  let s := if s.lcState = 4 then pinsHigh s else s
  if s.rd LC.ERASE_PENDING = 1 then record { s with lc := { s.lc with eraseCmd := none } } 0x10 0 0x03 else s

/-- A power-on reset, or nRESET with the input power kept (R9, R464, R494, R500, R502, R509, R515, R560, R567): everything takes its reset
value but sticky parameters, the recorder, flash, fuses and the stored state; an image that runs without its boot word goes on running
until the power is lost. -/
def resetAll (s : State) (power : Bool) (vin : Nat) : State :=
  let v := s.vane
  let t : State := { State.reset with
    pending := s.pending, draws := s.draws, sent := s.sent
    par := s.par.filter fun e => paramKept e.1
    vane := { mediaFailed := s.rd VANE.LOG_MEDIA_FAIL == 1 || v.mediaFailed, perm := v.perm, circ := v.circ, slots := v.slots, boot := v.boot, notBooted := v.notBooted,
              running := if power then v.boot else v.running, why := if power then 0 else 1 }
    lc := { s.lc with nonce := none, nonceAt := 0, before := [] }
    hl := { perst := s.hl.perst }
    pwr := { vin := vin, pfailDriven := power } }
  let t := t.vane.slots.foldl (fun t e => if e.2.state = 3 then t.setFlash e.1 { e.2 with state := 2 } else t) t
  bootLc t

/-- POWER_ON_RESET (R558, R560, R564): the input rises through 34 V. -/
def execPowerOnReset (vin : Nat) (s : State) : Answer :=
  if 34000 ≤ vin then done (resetAll s true vin) else .next s

/-- The reset that nRESET asks for (R567). -/
def nresetAll (s : State) (vin : Nat) : State := resetAll (s.bump HL.LINK_DOWN_COUNT) false vin

/-- NRESET_RELEASE (R564, R567, R569): the reset comes when both the low level and the shedding have ended. -/
def execNresetRelease (vin : Nat) (s : State) : Answer :=
  if !s.pwr.nresetLow then .next s
  else if pwrState s = 3 then done (nresetAll s vin)
  else .next { s.setVin vin with pwr := { (s.setVin vin).pwr with nresetLow := false, resetOwed := decide (pwrState s = 2) } }

/-- SHED_COMPLETE (R563, R567): steps 2 to 5 are complete; a reset that waited for that follows. -/
def execShedComplete (s : State) : Answer :=
  if pwrState s = 2 ∧ logFlushed s ∧ (List.range 128).all (fun c => s.chState c == 0) then
    let t := s.put VANE.PWR_STATE 0 3
    done (if s.pwr.resetOwed then nresetAll t s.pwr.vin else t)
  else .next s

/-- HOLDUP_SPENT (R564): the module loses its power; sticky parameters, the recorder, flash and fuses keep their contents (R9). -/
def execHoldupSpent (s : State) : Answer :=
  if pwrState s = 4 then
    let t := resetAll s true s.pwr.vin
    .next { t with pwr := { t.pwr with powered := false, pfailDriven := false } }
  else .next s

/-- HOLDUP_BUS_CHARGED (R560, R562): PFAIL is released, unless a shed of the input holds it. -/
def execHoldupBusCharged (s : State) : Answer :=
  if !s.pwr.powered then .next s
  else
    let s := s.putN VANE.HOLDUP_V 58000
    let mine := decide (2 ≤ pwrState s) && [1, 2, 3].contains (s.rdN VANE.SHED_SRC)
    .next { s with pwr := { s.pwr with pfailDriven := s.pwr.pfailDriven && mine } }

/-- BOOT_COMPLETE (R370, R560, R564, R569): after a power failure in BOOT only SHED_RECOVERY leads to RUN. -/
def execBootComplete (s : State) : Answer :=
  if s.pwr.powered ∧ !s.pwr.booted ∧ s.vane.up ∧ s.hl.supplies ∧ s.tbState = 2 ∧ s.pwr.toggles then
    let s := { s with pwr := { s.pwr with booted := true } }
    done (crsEnds (if pwrState s = 0 then s.putN VANE.PWR_STATE 1 else s))
  else .next s

/-- WAKE_COMPLETE (R32, R34, R36, R373, R412, R496): a PERST# release during the wake is now a soft reset. -/
def execWakeComplete (s : State) : Answer :=
  if s.pwr.lull = 4 ∧ s.tbState = 2 ∧ s.hl.link = .up then
    let w := wakeWords s.pwr.wake
    let owed := s.hl.perstInLull
    let s := setLull s 0
    let s := if shedding s then s else pinsAfterShed s true
    let s := powerRec (meshBack s) 5 w.1 w.2
    let s := { s with
      pwr := { s.pwr with wake := none, lullCmd := none, wakeLow := false }
      hl := { s.hl with hostState := 0, perstInLull := false } }
    done (crsEnds (if owed then softReset s else s))
  else .next s

end Sys2Proof.Machine
end

