-- ==== Sys2Proof/Machine/HostLink.lean ====
section
/-!
DEFINITION. The host link (R349 to R377): training, configuration requests, BAR0 as registers, BAR2 as a view of DRAM, MSI-X, errors of
reads, power states.
-/
namespace Sys2Proof.Machine

/-- LINK_STATUS of a trained link (R352, R358): RETRAINS counts every training after the first since power-on. -/
def linkWord (s : State) (speed width : Nat) : Nat :=
  let old := s.rdN HL.LINK_STATUS % 256
  let n := if s.hl.trained then min (old + 1) 255 else old
  2 ^ 31 + b2n (speed < 5 ∨ width < 8) * 2 ^ 30 + speed % 16 * 4096 + width % 16 * 256 + n

/-- LINK_UP (R349, R352, R358, R370, R373): training, a retrain or a change of an up link, or the end of the loopback slave; a departure
from L2 outside Lull counts as a soft reset. WAKE# is released. -/
def execLinkUp (speed width : Nat) (s : State) : Answer :=
  let from_ := s.hl.link = .training ∨ s.hl.link = .up ∨ s.hl.link = .slave ∨ (s.hl.link = .l2 ∧ s.pwr.lull ≤ 1)
  if from_ ∧ [3, 4, 5].contains speed ∧ [1, 2, 4, 8].contains width ∧ !s.hl.perst ∧ !s.tst.extest then
    let s := if s.hl.link = .l2 then softReset s else s
    let s := s.putN HL.LINK_STATUS (linkWord s speed width)
    let s := { s with hl := { s.hl with link := .up, trained := true }, pwr := { s.pwr with wakeLow := false } }
    done (crsEnds (if speed < 5 ∨ width < 8 then record s 0x0F 0 0x02 else s))
  else .next s

/-- LINK_DOWN (R377); what it resets is SOFT_RESET (R369). -/
def execLinkDown (s : State) : Answer :=
  if s.hl.link = .up ∨ s.hl.link = .slave then
    let s := linkLost s
    done { s with hl := { s.hl with link := .training } }
  else .next s

/-- A vector of the MSI-X table. -/
def State.vec (s : State) (v : Nat) : Vec := Bank.get (fun _ => {}) s.hl.vecs v

/-- Replace a vector of the MSI-X table. -/
def State.setVec (s : State) (v : Nat) (e : Vec) : State :=
  { s with hl := { s.hl with vecs := Bank.set (fun _ => {}) s.hl.vecs v e } }

/-- The message that a vector owes is sent once neither its mask nor the Function Mask stands (R367, R372). -/
def sendPending (s : State) (v : Nat) : State :=
  let e := s.vec v
  if e.pending && !e.masked && !s.hl.fnMask && s.hl.msixEn && !s.hl.d3 then
    (s.setVec v { e with pending := false }).emit (.msix v)
  else s

/-- A vector's mask clears (R367). -/
def unmaskVector (s : State) (v : Nat) : State := sendPending (s.setVec v { s.vec v with masked := false }) v

/-- The Function Mask clears (R367). -/
def unmaskFunction (s : State) : State :=
  (List.range 64).foldl sendPending { s with hl := { s.hl with fnMask := false } }

/-- MSIX_UNMASK (R367): one vector, or, without one, the Function Mask. -/
def execMsixUnmask (vector : Option Nat) (s : State) : Answer :=
  match vector with
  | some v => if v < 64 ∧ s.barOpen then done (unmaskVector s v) else .next s
  | none => if s.hl.link = .up ∧ !s.hl.crs then done (unmaskFunction s) else .next s

/-- A write of configuration space (R367, R368, R376): enabling MSI-X again restarts the coalescing counts. -/
def configure (s : State) : ConfigReq → State
  | .msixEnable on =>
    let s := if on && !s.hl.msixEn then
        s.cmd.cqs.foldl (fun s e => s.setCq e.1 { s.cq e.1 with unsig := 0 }) s
      else s
    { s with hl := { s.hl with msixEn := on } }
  | .functionMask on => if on then { s with hl := { s.hl with fnMask := true } } else unmaskFunction s
  | .ats on => if on then { s with hl := { s.hl with ats := true } } else disableService s .ats
  | .pri on => if on then { s with hl := { s.hl with pri := true } } else disableService s .pri
  | .pasid on => if on then { s with hl := { s.hl with pasid := true } } else disableService s .pasid
  | .busMaster on => { s with hl := { s.hl with busMaster := on } }
  | .timeout range off => { s with hl := { s.hl with timeout := range % 16, timeoutOff := off } }
  | .uncorrClear m => { s with hl := { s.hl with aer := { s.hl.aer with
      uncStatus := s.hl.aer.uncStatus - s.hl.aer.uncStatus.land m } } }
  | .uncorrMask m => { s with hl := { s.hl with aer := { s.hl.aer with uncMask := m % 2 ^ 32 } } }
  | .uncorrSeverity m => { s with hl := { s.hl with aer := { s.hl.aer with uncSev := m % 2 ^ 32 } } }
  | .corrClear m => { s with hl := { s.hl with aer := { s.hl.aer with
      corStatus := s.hl.aer.corStatus - s.hl.aer.corStatus.land m } } }
  | .corrMask m => { s with hl := { s.hl with aer := { s.hl.aer with corMask := m % 2 ^ 32 } } }
  | .ecrc g c => { s with hl := { s.hl with aer := { s.hl.aer with ecrcGen := g, ecrcCheck := c } } }
  | .read _ => s
  | .other => s

/-- What a configuration read answers (R350, R351): the identity, the figures of the capabilities and the enables; a register of which
the spec gives no value reads a free one. -/
def configData (s : State) : ConfigReg → Nat × State
  | .vendorId => (Config.vendorId.toNat, s)
  | .subsystemVendorId => (Config.vendorId.toNat, s)
  | .deviceId => (0x0128, s)
  | .subsystemId => (if bit idPart 8 then 2 else 1, s)
  | .revisionId => (fld idPart 0 8, s)
  | .classCode => (0x118000, s)
  | .interruptPin => (0, s)
  | .maxPayload => (512, s)
  | .maxReadRequest => (4096, s)
  | .tags => (512, s)
  | .noSoftReset => (1, s)
  | .msixTableSize => (64, s)
  | .invalidateQueueDepth => (32, s)
  | .pageAlignedRequest => (1, s)
  | .pageRequestCapacity => (256, s)
  | .pasidWidth => (20, s)
  | .pasidExecute => (0, s)
  | .pasidPrivileged => (0, s)
  | .serialLow => (serialWords.getD 0 0, s)
  | .serialHigh => (serialWords.getD 1 0, s)
  | .msixEnabled => (b2n s.hl.msixEn, s)
  | .functionMasked => (b2n s.hl.fnMask, s)
  | .atsEnabled => (b2n s.hl.ats, s)
  | .priEnabled => (b2n s.hl.pri, s)
  | .pasidEnabled => (b2n s.hl.pasid, s)
  | .busMastering => (b2n s.hl.busMaster, s)
  | .powerState => (if s.hl.d3 then 3 else 0, s)
  | .functionReset => (1, s)
  | .timeoutRanges => (0xF, s)
  | .timeoutDisable => (1, s)
  | .timeout => (s.hl.timeout, s)
  | .timeoutOff => (b2n s.hl.timeoutOff, s)
  | .uncorrStatus => (s.hl.aer.uncStatus, s)
  | .uncorrMask => (s.hl.aer.uncMask, s)
  | .uncorrSeverity => (s.hl.aer.uncSev, s)
  | .corrStatus => (s.hl.aer.corStatus, s)
  | .corrMask => (s.hl.aer.corMask, s)
  | .firstError => (s.hl.aer.first, s)
  | .headerLog i => (s.hl.aer.header.getD i 0, s)
  | .prefixLog i => (s.hl.aer.prefixes.getD i 0, s)
  | .ecrcGeneration => (1, s)
  | .ecrcCheck => (1, s)
  | .ecrcGenerated => (b2n s.hl.aer.ecrcGen, s)
  | .ecrcChecked => (b2n s.hl.aer.ecrcCheck, s)
  | .unlisted => s.draw

/-- CONFIG_REQUEST (R36, R350, R370, R371): answered with CRS, which applies nothing, or normally. -/
def execConfigRequest (req : ConfigReq) (s : State) : Answer :=
  if s.hl.link ≠ .up then .next s
  else if s.hl.crs then .next (s.emit (.config true none))
  else match req with
    | .read reg => let a := configData s reg; .next (a.2.emit (.config false (some a.1)))
    | _ => done (configure (s.emit (.config false none)) req)

/-- POWER_STATE_WRITE (R372): in D0 the messages that vectors owe are sent. -/
def execPowerStateWrite (d3 : Bool) (s : State) : Answer :=
  if s.hl.link = .up ∧ !s.hl.crs then
    let s := { s with hl := { s.hl with d3 := d3 } }
    .next (if d3 then s else (List.range 64).foldl sendPending s)
  else .next s

/-- PME_TURN_OFF (R373): PME_TO_Ack, and the link enters L2/L3 Ready. -/
def execPmeTurnOff (s : State) : Answer :=
  if s.hl.link = .up then
    let s := (s.putN HL.LINK_STATUS (s.rdN HL.LINK_STATUS % 256)).emit .pmeToAck
    .next { s with hl := { s.hl with link := .l2 } }
  else .next s

/-- FAR_LOOPBACK_ENTRY (R374, R375, R524). -/
def execFarLoopbackEntry (s : State) : Answer :=
  if (s.hl.link = .up ∨ s.hl.link = .training) ∧ openAccess s then .next { s with hl := { s.hl with link := .slave } } else .next s

/-- AER takes a correctable error (R351): its status bit and, where it is not masked, a message. -/
def aerCorrected (s : State) (n : Nat) : State :=
  let a := s.hl.aer
  let s := { s with hl := { s.hl with aer := { a with corStatus := a.corStatus.lor (2 ^ n) } } }
  if bit a.corMask n then s else s.emit (.errMsg 0)

/-- PCIE_ERROR_DETECTED (R351, R377, R378): the row does not say which error of its severity it is, so its AER bit is a free choice (log 3). -/
def execPcieErrorDetected (corr : Bool) (s : State) : Answer :=
  let x := s.draw
  if corr then done (record (aerCorrected (x.2.bump HL.CORR_COUNT) (x.1 % 32)) 0x0F 0 0x03) else done (linkError x.2 (x.1 % 32))

/-- The address that a command reads host memory from (R321, R513). -/
def readAddr (p : Pkt) : Nat := if pOpcode p = 0x0905 then pw64 p 3 else pw64 p 2

/-- HOST_READ_ERROR (R319, R322, R354): the ring stops, the upload fails, or the command in flight completes with nothing applied. -/
def execHostReadError (unit : ReadUnit) (fault : HostFault) (s : State) : Answer :=
  let f := readStatus fault
  match unit with
  | .ring q => execPacketArrive q [] (some f) s
  | .cmd src tag =>
    if s.uploads.any fun u => u.src == src && u.tag == tag then execSweUploadDone src tag [] (some f) s
    else match s.cmd.ops.find? fun o => o.pkt.src == src && pTag o.pkt == tag && o.stage == .reading with
      | some o => done (finish o.pkt (transferFails (dropXfer s (.cmd src tag)) o.pkt (readAddr o.pkt) f))
      | none => .next s

/-- Words in packets of 16 (R320). -/
def packetsOf : Nat → List Nat → List (List Nat)
  | 0, _ => []
  | n + 1, ws => ws.take 16 :: packetsOf n (ws.drop 16)

/-- HOST_READ_COMPLETION (R318, R322): data of a ring read or an upload; data of any other command comes with its own row. -/
def execHostReadCompletion (unit : ReadUnit) (data : List Nat) (s : State) : Answer :=
  match unit with
  | .ring q => execPacketArrive q (packetsOf (s.sq q).fetching data) none s
  | .cmd src tag => execSweUploadDone src tag data none s

/-- Operations of a queue in flight (R315): those fetched, and completions that answer no other. -/
def queueFlight (s : State) (n : Nat) : Nat :=
  (s.cmd.ops.filter fun o => o.pkt.src == .sq n).length +
    s.cmd.cqs.foldl (fun a e => a + (e.2.pend.filter fun c => !c.owns && c.src == .sq n).length) 0

/-- SQ_CFG as it reads (R315). -/
def sqCfg (k : Sq) : Nat :=
  b2n k.enable * 2 ^ 31 + b2n k.imm * 2 ^ 30 + k.qprio * 2 ^ 28 + k.cq * 2 ^ 22 + k.size

/-- SQ_STATUS (R315). -/
def sqStatus (s : State) (n : Nat) : Nat :=
  let k := s.sq n
  let f := queueFlight s n
  b2n k.enable * 2 ^ 31 + b2n (f = 0) * 2 ^ 30 + b2n k.fault * 2 ^ 29 + k.head * 65536 + f

/-- CQ_CFG as it reads (R315). -/
def cqCfg (k : Cq) : Nat :=
  b2n k.enable * 2 ^ 31 + b2n k.irqEn * 2 ^ 30 + k.vector * 2 ^ 24 + k.coalCount * 65536 + k.coalTime * 4096 + k.size

/-- CQ_STATUS (R315). -/
def cqStatus (k : Cq) : Nat :=
  b2n k.enable * 2 ^ 31 + b2n k.fault * 2 ^ 30 + b2n (k.full || (k.enable && !k.fault && !k.pend.isEmpty && !cqRoom k)) * 2 ^ 29 + k.tail * 65536 + k.pend.length

/-- A word of the identity page (R357). -/
def identityWord (s : State) (o : Nat) : Nat :=
  if o < 0x10 then ((identityPage s 0).getD []).getD (o / 4) 0
  else if o < 0x20 then serialWords.getD (o / 4 - 4) 0
  else if o = 0x20 then 1
  else if o = 0x24 then s.hl.hostState
  else 0

/-- A word of the host-link control page (R358 to R360, R378). -/
def controlWord (s : State) (o : Nat) : Nat :=
  if o = 0x000 then s.rdN HL.LINK_STATUS
  else if o = 0x008 then s.rdN HL.BAR2_WIN
  else if o = 0x010 then s.rdN HL.CORR_COUNT
  else if o = 0x014 then s.rdN HL.UNCORR_COUNT
  else if o = 0x018 then s.rdN HL.LINK_DOWN_COUNT
  else if 0x020 ≤ o ∧ o < 0x060 then s.rdN HL.BLOCK_VEC 0 ((o - 0x20) / 4)
  else if o = 0x080 then s.rdN HL.LB_BOOT
  else if o = 0x084 then s.rdN HL.LB_RESULT
  else 0

/-- A word of the mailbox (R344, R363). -/
def mailboxWord (s : State) (o : Nat) : Nat :=
  if o < 0x40 then s.cmd.mbxCmd.getD (o / 4) 0
  else if o < 0x60 then s.cmd.mbxCpl.getD ((o - 0x40) / 4) 0
  else if o = 0x60 then b2n s.cmd.mbxBusy * 2 ^ 30 + b2n s.cmd.mbxDone * 2 ^ 29
  else 0

/-- A word of a queue's registers (R315, R362). -/
def queueWord (s : State) (n o : Nat) : Nat :=
  match o with
  | 0x00 => lo32 (s.sq n).base
  | 0x04 => hi32 (s.sq n).base
  | 0x08 => sqCfg (s.sq n)
  | 0x0C => sqStatus s n
  | 0x10 => lo32 (s.cq n).base
  | 0x14 => hi32 (s.cq n).base
  | 0x18 => cqCfg (s.cq n)
  | 0x1C => cqStatus (s.cq n)
  | _ => 0

/-- A word of the MSI-X table (R351, R355). -/
def msixWord (s : State) (v o : Nat) : Nat :=
  let e := s.vec v
  match o with
  | 0x0 => lo32 e.addr
  | 0x4 => hi32 e.addr
  | 0x8 => e.data
  | _ => b2n e.masked

/-- The MSI-X pending bits (R367). -/
def pendingBits (s : State) : Nat := (List.range 64).foldl (fun a v => a + b2n (s.vec v).pending * 2 ^ v) 0

/-- A word of a status window (R361). -/
def windowWord (s : State) (blk inst o : Nat) : Nat :=
  let w := s.win blk inst
  if !winExists blk inst then 0
  else match o with
    | 0x00 => statusWord w
    | 0x04 => w.irqEn
    | 0x08 => w.inject
    | 0x0C => reactionWord s blk inst
    | 0x10 => w.count
    | 0x14 => w.first
    | 0x18 => w.last
    | 0x20 => lo32 w.firstTime
    | 0x24 => hi32 w.firstTime
    | _ => 0

/-- The word of BAR0 at an offset that is a multiple of 4 (R355); every offset not listed reads 0, and doorbells are write-only. -/
def bar0Word (s : State) (o : Nat) : Nat :=
  if o < 0x1000 then identityWord s o
  else if o < 0x2000 then controlWord s (o - 0x1000)
  else if o < 0x3000 then mailboxWord s (o - 0x2000)
  else if 0x10000 ≤ o ∧ o < 0x11000 then queueWord s ((o - 0x10000) / 0x40) (o % 0x40)
  else if 0x30000 ≤ o ∧ o < 0x30400 then msixWord s ((o - 0x30000) / 16) (o % 16)
  else if o = 0x30800 then lo32 (pendingBits s)
  else if o = 0x30804 then hi32 (pendingBits s)
  else if 0x1000000 ≤ o ∧ o < 0x2000000 then
    windowWord s ((o - 0x1000000) / 0x100000 + 1) (o % 0x100000 / 0x100) (o % 0x100)
  else 0

/-- Whether a 64-bit register lies at an offset (R356, R361, R362): queue bases, the pending-bit array, FIRST_TIME. -/
def wideAt (o : Nat) : Bool :=
  (decide (0x10000 ≤ o) && decide (o < 0x11000) && (o % 0x40 == 0 || o % 0x40 == 0x10)) || o == 0x30800 ||
  (decide (0x1000000 ≤ o) && decide (o < 0x2000000) && o % 0x100 == 0x20)

/-- Whether a doorbell lies in the 8 bytes at an offset (R355, R362): the two of a queue's page, or the one of a stream's. -/
def doorbellAt (o : Nat) : Bool := decide (0x40000 ≤ o) && decide (o < 0xA0000) && o % 0x1000 == 0

/-- Whether an access has a form that BAR0 takes (R356, R363). -/
def bar0Form (o size : Nat) (write : Bool) : Bool :=
  (size == 4 && o % 4 == 0) || (size == 8 && o % 8 == 0 && !(write && doorbellAt o))

/-- The high half of a 64-bit register that a read of its low half latched (R356). -/
def latched (s : State) (o : Nat) : Option Nat := Bank.get (fun _ => none) s.hl.latch o

/-- Latch a high half, or forget it. -/
def setLatch (s : State) (o : Nat) (v : Option Nat) : State :=
  { s with hl := { s.hl with latch := Bank.set (fun _ => none) s.hl.latch o v } }

/-- Answer a BAR0 read with words. -/
def bar0Answer (s : State) (o : Nat) (ws : List Nat) : State := s.emit (.barRead 0 o (ws.flatMap wordBytes) false)

/-- The offset of the register that an offset lies in. -/
def registerOf (o : Nat) : Nat := if wideAt (o / 8 * 8) then o / 8 * 8 else o / 4 * 4

/-- A BAR0 read (R356): of 4 bytes with the latch, of 8 bytes whole; of another form the register whole, with BAR_ACCESS. -/
def readBar0 (s : State) (o size : Nat) : State :=
  if !bar0Form o size false then
    let r := registerOf o
    let ws := if wideAt r then [bar0Word s r, bar0Word s (r + 4)] else [bar0Word s r]
    hlCause (bar0Answer s o ws) 0x05
  else if size = 8 then bar0Answer s o [bar0Word s o, bar0Word s (o + 4)]
  else if wideAt o then setLatch (bar0Answer s o [bar0Word s o]) (o + 4) (some (bar0Word s (o + 4)))
  else match latched s o with
    | some h => setLatch (bar0Answer s o [h]) o none
    | none => bar0Answer s o [bar0Word s o]

/-- BAR0_READ (R355, R356, R372): rejected in D3hot. -/
def execBar0Read (offset size : Nat) (s : State) : Answer :=
  if s.barOpen then done (readBar0 s offset size)
  else if s.hl.link = .up ∧ s.hl.d3 then .next (s.emit (.barRefused 0 offset))
  else .next s

/-- Write SQ_BASE or CQ_BASE (R315): ignored while the queue is enabled, with QUEUE_CFG. -/
def writeBase (s : State) (n : Nat) (cq : Bool) (v : Nat) : State :=
  let b := v % 2 ^ 64 / 4096 * 4096
  if cq then
    if (s.cq n).enable then hlCause s 0x44 else s.setCq n { s.cq n with base := b }
  else if (s.sq n).enable then hlCause s 0x44
  else s.setSq n { s.sq n with base := b }

/-- A written SIZE: 0 is out of range and keeps the previous value (R11, R315). -/
def newSize (old v : Nat) : Nat := if fld v 0 12 = 0 then old else fld v 0 12

/-- Write SQ_CFG (R11, R315, R316): the fields but ENABLE only while the queue is disabled. -/
def writeSqCfg (s : State) (n v : Nat) : State :=
  let k := s.sq n
  let k' := { k with imm := bit v 30, qprio := fld v 28 2, cq := fld v 22 6, size := newSize k.size v }
  let s := if k.enable then (if k' = k then s else hlCause s 0x44) else s.setSq n k'
  setSqEnable s n (bit v 31)

/-- Write CQ_CFG (R11, R315, R316). -/
def writeCqCfg (s : State) (n v : Nat) : State :=
  let k := s.cq n
  let k' := { k with
    irqEn := bit v 30, vector := fld v 24 6, coalCount := fld v 16 8, coalTime := fld v 12 4, size := newSize k.size v }
  let s := if k.enable then (if k' = k then s else hlCause s 0x44) else s.setCq n k'
  setCqEnable s n (bit v 31)

/-- Write MBX_CTL (R344, R345). -/
def writeMbxCtl (s : State) (v : Nat) : State :=
  let s := if bit v 29 then { s with cmd := { s.cmd with mbxDone := false } } else s
  if bit v 31 then mbxGo s else s

/-- Write a word of MBX_CMD (R344, R345). -/
def writeMbxCmd (s : State) (i v : Nat) : State :=
  if s.cmd.mbxBusy then hlCause s 0x40
  else { s with cmd := { s.cmd with mbxCmd := (pad 16 s.cmd.mbxCmd).set i v } }

/-- Write LB_BOOT (R11, R374, R378, R524): an unlisted code keeps the previous one; no loopback can be stored where the state grants
none. -/
def writeLbBoot (s : State) (v : Nat) : State :=
  let old := s.rdN HL.LB_BOOT
  let code := if fld v 0 2 = 3 then fld old 0 2 else fld v 0 2
  if code ≠ 0 ∧ !openAccess s then s else s.putN HL.LB_BOOT (b2n (bit v 3) * 8 + code)

/-- Write a word of the MSI-X table (R367). -/
def writeMsix (s : State) (v o w : Nat) : State :=
  let e := s.vec v
  match o with
  | 0x0 => s.setVec v { e with addr := word64 w (hi32 e.addr) / 4 * 4 }
  | 0x4 => s.setVec v { e with addr := word64 (lo32 e.addr) w }
  | 0x8 => s.setVec v { e with data := w }
  | _ => if bit w 0 then s.setVec v { e with masked := true } else unmaskVector s v

/-- Write a register of a status window (R361, R461 to R471). -/
def writeWindow (s : State) (blk inst o v : Nat) : State :=
  if !winExists blk inst then s
  else match o with
    | 0x00 =>
      let s := clearFlags s blk inst v []
      if bit v 26 then clearHistory s blk inst else s
    | 0x04 => s.setWin blk inst { s.win blk inst with irqEn := fld v 27 5 * 2 ^ 27 }
    | 0x08 => writeInject s blk inst v
    | 0x0C => writeReaction s blk inst v
    | _ => s

/-- Write the 32-bit register of BAR0 at an offset (R355, R360, R362); other offsets ignore it. -/
def writeBar0Word (s : State) (o v : Nat) : State :=
  if o = 0x1008 then s.putN HL.BAR2_WIN (fld v 0 6)
  else if 0x1020 ≤ o ∧ o < 0x1060 then s.wr HL.BLOCK_VEC 0 ((o - 0x1020) / 4) (fld v 0 6 : Nat)
  else if o = 0x1080 then writeLbBoot s v
  else if 0x2000 ≤ o ∧ o < 0x2040 then writeMbxCmd s ((o - 0x2000) / 4) v
  else if o = 0x2060 then writeMbxCtl s v
  else if 0x10000 ≤ o ∧ o < 0x11000 then
    let n := (o - 0x10000) / 0x40
    if o % 0x40 = 0x08 then writeSqCfg s n v else if o % 0x40 = 0x18 then writeCqCfg s n v else s
  else if 0x30000 ≤ o ∧ o < 0x30400 then writeMsix s ((o - 0x30000) / 16) (o % 16) v
  else if 0x40000 ≤ o ∧ o < 0x80000 then
    let n := (o - 0x40000) / 0x1000
    if o % 0x1000 = 0 then ringTail s n v else if o % 0x1000 = 4 then ringHead s n v else s
  else if 0x80000 ≤ o ∧ o < 0xA0000 then
    let n := (o - 0x80000) / 0x1000
    if o % 0x1000 = 0 ∧ (s.stream n).node.isNone then takeReadIndex s n v else s
  else if 0x1000000 ≤ o ∧ o < 0x2000000 then
    writeWindow s ((o - 0x1000000) / 0x100000 + 1) (o % 0x100000 / 0x100) (o % 0x100) v
  else s

/-- Write the 64-bit register of BAR0 at an offset; of those, hosts write only the queue bases. -/
def writeBar0Wide (s : State) (o v : Nat) : State :=
  if 0x10000 ≤ o ∧ o < 0x11000 then writeBase s ((o - 0x10000) / 0x40) (o % 0x40 == 0x10) v else s

/-- The low half of a 64-bit register that waits for its high half (R356), by the offset of the high half. -/
def heldLow (s : State) (o : Nat) : Option Nat := Bank.get (fun _ => none) s.hl.held o

/-- Hold a low half, or forget it. -/
def setHeld (s : State) (o : Nat) (v : Option Nat) : State :=
  { s with hl := { s.hl with held := Bank.set (fun _ => none) s.hl.held o v } }

/-- A BAR0 write (R356): the halves of a 64-bit register apply together with the high one; a high half alone keeps the low one. -/
def writeBar0 (s : State) (o size v : Nat) : State :=
  if !bar0Form o size true then hlCause s 0x05
  else if size = 8 then
    if wideAt o then writeBar0Wide (setHeld s (o + 4) none) o v
    else writeBar0Word (writeBar0Word s o (lo32 v)) (o + 4) (hi32 v)
  else if wideAt o then setHeld s (o + 4) (some (lo32 v))
  else if wideAt (o - 4) ∧ 4 ≤ o then
    writeBar0Wide (setHeld s o none) (o - 4) (word64 ((heldLow s o).getD (bar0Word s (o - 4))) v)
  else writeBar0Word s o (lo32 v)

/-- REGISTER_WRITE (R355, R356, R363, R372): memory requests are rejected in D3hot. -/
def execRegisterWrite (offset size value : Nat) (s : State) : Answer :=
  if s.barOpen ∧ offset < 0x2000000 then done (writeBar0 s offset size value) else .next s

/-- POISONED_WRITE (R356, R365, R376): discarded. -/
def execPoisonedWrite (_bar _offset : Nat) (s : State) : Answer :=
  if s.barOpen then done (hlCause s 0x06) else .next s

/-- An area of DRAM (R364): of a domain's vectors, or of its capture records, with the byte within the area; the stream buffers; firmware
working space. -/
inductive DramArea where
  | vectors (dom byte : Nat)
  | streams
  | captures (dom byte : Nat)
  | firmware
deriving DecidableEq, Repr

/-- The area a DRAM address lies in (R364). -/
def dramArea (a : Nat) : DramArea :=
  if a < 0x140000000 then .vectors 0 a
  else if a < 0x280000000 then .vectors 1 (a - 0x140000000)
  else if a < 0x380000000 then .streams
  else if a < 0x3A0000000 then .captures 0 (a - 0x380000000)
  else if a < 0x3C0000000 then .captures 1 (a - 0x3A0000000)
  else .firmware

/-- The DRAM address of a BAR2 offset (R359). -/
def bar2Addr (s : State) (o : Nat) : Nat := 0x10000000 * s.rdN HL.BAR2_WIN + o % 0x10000000

/-- The 40 bytes of a vector (R213): eight words of pin data, two of tag. -/
def vectorBytes (w : VecWord) : List Nat :=
  ((List.range 8).map fun i => fld w.data (32 * i) 32).flatMap wordBytes ++ [lo32 w.tag, hi32 w.tag].flatMap wordBytes

/-- The vector of 40 bytes (R213). -/
def vectorOfBytes (bs : List Nat) : VecWord := (vectorsOf 1 (bytesWords bs)).headD ⟨0, 0⟩

/-- A vector of a domain's vector area. -/
def areaVector (s : State) (d i : Nat) : VecWord := Bank.get (fun _ => ⟨0, 0⟩) (s.sequencer d).vecs i

/-- One byte of DRAM as BAR2 reads it (R364), with the state after it: the spec does not say how stream buffers hold their blocks, so
a byte of theirs is a free value (log 3); firmware working space reads 0. -/
def dramByte (s : State) (a : Nat) : Nat × State :=
  match dramArea a with
  | .vectors d b => ((vectorBytes (areaVector s d (b / 40))).getD (b % 40) 0, s)
  | .captures d b =>
    let r := Bank.get (fun _ => []) (s.sequencer d).cap (b / 64)
    ((((pad 16 r).flatMap wordBytes)).getD (b % 64) 0, s)
  | .streams => let x := s.draw; (x.1 % 256, x.2)
  | .firmware => (0, s)

/-- The block instance whose uncorrectable word a DRAM address meets, as remembered (R365, R475). -/
def badAt (s : State) (a : Nat) : Option (Nat × Nat) :=
  match dramArea a with
  | .vectors d b => if (s.sequencer d).badGrans.contains (b / 2560) then some (6, d) else none
  | .captures d b => if (s.sequencer d).badCaps.contains (b / 64) then some (6, d) else none
  | _ => none

/-- The owner of a DRAM address (R475), a stream's number being supplied. -/
def dramOwner (a st : Nat) : Nat × Nat :=
  match dramArea a with
  | .vectors d _ => (6, d)
  | .captures d _ => (6, d)
  | .streams => (9, st)
  | .firmware => (13, 0)

/-- The bytes of DRAM at some addresses, in order. -/
def dramBytes (s : State) : List Nat → List Nat × State
  | [] => ([], s)
  | a :: l =>
    let x := dramByte s a
    let y := dramBytes x.2 l
    (x.1 :: y.1, y.2)

/-- BAR2_READ (R359, R364, R365, R372): `media` says that the read meets an uncorrectable error not known before, in stream buffers one of
that stream. -/
def execBar2Read (offset len : Nat) (media : Option Nat) (s : State) : Answer :=
  let a := bar2Addr s offset
  let addrs := (List.range len).map fun i => bar2Addr s (offset + i)
  if !s.barOpen then
    if s.hl.link = .up ∧ s.hl.d3 then .next (s.emit (.barRefused 2 offset)) else .next s
  else
    let r := dramBytes s addrs
    let bad := (addrs.findSome? fun b => badAt s b) <|> media.map (dramOwner a)
    let s := if addrs.any fun b => dramArea b == .firmware then hlCause r.2 0x07 else r.2
    match bad with
    | some o => done (uncorrected (hlCause (s.emit (.barRead 2 offset r.1 true)) 0x08) o.1 o.2)
    | none => done (s.emit (.barRead 2 offset r.1 false))

/-- One byte written to a domain's vectors (R230, R364). -/
def writeVectorByte (s : State) (d b v : Nat) : State :=
  let w := vectorOfBytes ((vectorBytes (areaVector s d (b / 40))).set (b % 40) v)
  let q := s.sequencer d
  s.setSequencer d { q with vecs := Bank.set (fun _ => ⟨0, 0⟩) q.vecs (b / 40) w }

/-- Granules that a write covers whole are good again (R475). -/
def mendGranules (s : State) (addrs : List Nat) : State :=
  (List.range 2).foldl (fun s d =>
    let mine := addrs.filterMap fun a => match dramArea a with
      | .vectors e b => if e = d then some b else none
      | _ => none
    let q := s.sequencer d
    s.setSequencer d { q with badGrans := q.badGrans.filter fun g =>
      2560 ≠ (mine.filter fun b => b / 2560 == g).length }) s

/-- An address lies in a domain's vectors, the one area that BAR2 writes (R364). -/
def inVectors (a : Nat) : Bool :=
  match dramArea a with
  | .vectors _ _ => true
  | _ => false

/-- A byte that BAR2 writes: nothing outside the vectors (R364). -/
def writeDramByte (s : State) (c : Nat × Nat) : State :=
  match dramArea c.1 with
  | .vectors d b => writeVectorByte s d b c.2
  | _ => s

/-- BAR2_WRITE (R359, R364, R365, R372). -/
def execBar2Write (offset : Nat) (bytes : List Byte) (s : State) : Answer :=
  if !s.barOpen then .next s
  else
    let cells := (bytes.zipIdx).map fun e => (bar2Addr s (offset + e.2), e.1.toNat)
    let s := mendGranules (cells.foldl writeDramByte s) (cells.map Prod.fst)
    done (if cells.any fun c => !inVectors c.1 then hlCause s 0x07 else s)

end Sys2Proof.Machine
end

