-- ==== Sys2Proof/Machine/Life.lean ====
section
/-!
DEFINITION. The life cycle and boundary scan (R514 to R530, R540, R541): tokens, transitions, erasure, the removal of access, and the TAP.
-/
namespace Sys2Proof.Machine

/-- Quiet (R519). -/
def quiet (s : State) : Bool :=
  (List.range 132).all (fun c => s.chState c == 0 && (s.ch c).motion == .still) && (List.range 2).all (fun d => s.seqState d == 0) &&
  (List.range 17).all (fun e => (List.range 4).all fun k => decide (s.slotState e k ≤ 1)) && s.vane.stage.isNone && s.vane.act.isNone

/-- A sequencer's tables and memories written to 0 (R523). -/
def zeroSeq (s : State) (d : Nat) : State :=
  let zero := imageTs []
  s.setSequencer d { s.sequencer d with
    maps := [], segs := [], oldSegs := [], vecs := [], badGrans := [], badCaps := [], pinVecs := [], pinSegs := [], pinBad := []
    ring := [], cap := [], commits := []
    parks := Bank.setAll (fun _ => parkReset) [] 0 (List.replicate 16 0)
    active := Bank.setAll (fun _ => Ts.init) [] 0 (List.replicate 32 zero)
    shadow := Bank.setAll (fun _ => Ts.init) [] 0 (List.replicate 32 zero) }

/-- The blocks of a stream in the local buffer are gone (R523). -/
def dropBlocks (s : State) (n : Nat) : State :=
  let t := s.stream n
  flushCheck ((s.setStream n { t with open_ := none, blocks := [], dataDone := false }).put STM.LOCAL_BLOCKS n 0) n St.INTERRUPTED

/-- Whether RETURN gives a parameter its reset value again (R523): coefficients, deskew and references, with their present values, and
the sticky configuration fields. -/
def erasedPar (id : Nat) : Bool :=
  let coef := fun (i : Nat) => isCoef i || isDeskew i || isRef i
  coef id || (decide (0x100 ≤ id) && coef (id - 0x100)) ||
  [HL.LB_BOOT.id 0 0, VANE.SMB_ADDR.id 0 0, VANE.SMB_SPEED.id 0 0, VANE.PFAIL_EXT.id 0 0].contains id

/-- What RETURN erases (R523): buffered records are in their areas before the circulating one goes. -/
def eraseAll (s : State) : State :=
  let s := if s.rd VANE.LOG_MEDIA_FAIL = 1 then s else flushAll s
  let s := (List.range 2).foldl zeroSeq s
  let s := (List.range 32).foldl dropBlocks s
  let s := { s with
    par := s.par.filter fun e => !erasedPar e.1
    sweMem := [], sweBad := []
    cal := { s.cal with frac := [] }
    lc := { s.lc with ownerKey := [] }
    vane := { s.vane with circ := [] } }
  let s := (List.range 256).foldl pinCodes s
  (s.putN LC.OWNER_KEY_EN 0).putN VANE.LOG_OLDEST (s.rdN VANE.LOG_HEAD)

/-- The recorder is initialised (R500): both areas are erased, and the INIT record is the first. -/
def initRecorder (s : State) : State :=
  let old := s.rdN VANE.LOG_OLDEST
  let s := s.setVane { s.vane with perm := [], circ := [], buf := [], ring := [], lostUnwritten := 0 }
  let s := s.putN VANE.LOG_INIT_SEQ (s.rdN VANE.LOG_HEAD)
  let s := renewOldest (s.putN VANE.LOG_FLUSHED (s.rdN VANE.LOG_HEAD))
  numberRecord s { typ := 0x09, time := s.now, blk := 0x0D, inst := 0, pay := [4, lo32 old, hi32 old], sev := 0 } false

/-- The LIFE_CYCLE record of a transition (R496, R519). -/
def lifeRecord (s : State) (old new : Nat) : State :=
  s.logRec { typ := 0x0B, time := s.now, blk := 0x10, inst := 0, pay := [new * 16 + old, St.SUCCESS], sev := 0 }

/-- The copy that a transition writes (R522): one that is not valid, else the older. -/
def olderCopy (l : Lc) : Nat :=
  if !l.copyValid.getD 0 false then 0
  else if !l.copyValid.getD 1 false then 1
  else if l.copyCount.getD 1 0 < l.copyCount.getD 0 0 then 1 else 0

/-- The commands that a transition finds dispatched and not yet checked, with the state that each was dispatched in (R519). -/
def dispatchedBefore (s : State) : List (Pkt × Nat) :=
  (s.cmd.ops.filter fun o => o.stage == .running || o.stage == .reading).map fun o => (o.pkt, lcFor s o.pkt)

/-- The new state is written, verified and in force (R515, R522); from CORRUPT both copies are rewritten (R519). -/
def commitState (s : State) (new : Nat) : State :=
  let n := (s.rdN LC.TRANSITIONS + 1) % 2 ^ 32
  let one := fun (l : Lc) (i : Nat) =>
    { l with copyState := l.copyState.set i new, copyCount := l.copyCount.set i n, copyValid := l.copyValid.set i true }
  let l := if s.lcState = 7 then one (one s.lc 0) 1 else one s.lc (olderCopy s.lc)
  let s := { s with lc := { l with scrapFuse := l.scrapFuse || new == 4, before := dispatchedBefore s } }
  (s.putN LC.STATE new).putN LC.TRANSITIONS n

/-- A mesh loopback whose access is removed ends, and its port goes to DOWN (R526, R542). -/
def denyLoopback (s : State) (p : Nat) : State :=
  match (s.port p).lb with
  | some (src, tag, lb) =>
    if grantsLoop s.lcState (lb != 4) then s
    else
      let s := s.setPort p { s.port p with lb := none }
      (if lb = 4 then s else s.put MSH.PORT_STATE (p + 1) 1).complete src tag St.LC_DENIED []
  | none => s

/-- Injection is not permitted any more: GO and REPEAT clear in every window (R526). -/
def clearInjections (s : State) : State :=
  s.wins.foldl (fun (s : State) (e : Nat × Win) =>
    { s with wins := Bank.set (fun _ => {}) s.wins e.1 { e.2 with inject := e.2.inject % 2 ^ 30 } }) s

/-- A TAP instruction that stopped the links is no longer loaded (R541): the pins are in STATIC again, the links retrain. -/
def leaveExtest (s : State) : State :=
  if s.tst.extest then
    let s := { s with tst := { s.tst with extest := false } }
    startLink ((List.range 256).foldl (fun s n =>
      if s.pinState n = 4 ∨ (s.pin n).hiz then s else enterPin s n (givenState s n)) s)
  else s

/-- Whether a state grants vendor debug (R524). -/
def vendorAccess (st : Nat) : Bool := st == 0 || st == 3

/-- The use of an access that a transition removes ends (R525, R526, R533, R542). -/
def removeAccess (s : State) (old : Nat) : State :=
  let new := s.lcState
  let lost := [0, 1, 3].contains old && !openAccess s
  let s := if lost then clearInjections s else s
  let s := (List.range 4).foldl denyLoopback s
  let s := if lost ∧ s.hl.link = .slave then
      let s := linkLost s
      { s with hl := { s.hl with link := .training } }
    else if lost ∧ s.hl.link = .nearLoop then { s with hl := { s.hl with link := .training, lbRun := true } }
    else s
  let s := if lost ∨ (vendorAccess old ∧ !vendorAccess new) then leaveExtest { s with tst := { s.tst with tap := .reset, cells := [] } } else s
  if new ≠ 4 then s
  else
    let s := if s.evfMode = 2 then enterMode s s.evf.beforeTest else s
    let s := s.tst.runs.foldl (endRun St.LC_DENIED) (disarmAll s)
    let test := s.tst.selfTest
    let s := { s with tst := { s.tst with selfTest := none } }
    let s := match test with
      | some t => s.complete t.src t.tag St.LC_DENIED []
      | none => s
    pinsHigh s

/-- What R519 says of one change of state: the signers it takes, vendor and owner, and whether it asks for quiet. -/
def lcArrow (s : State) (from_ to_ : Nat) : Option (Bool × Bool × Bool) :=
  let owned := s.rd LC.OWNER_KEY_EN == 1
  match from_, to_ with
  | 0, 1 => some (true, false, false)
  | 1, 2 => some (false, true, false)
  | 2, 1 => some (false, true, false)
  | 1, 3 => some (!owned, owned, true)
  | 2, 3 => some (!owned, owned, true)
  | 3, 0 => some (true, false, true)
  | 0, 4 => some (true, false, true)
  | 3, 4 => some (true, false, true)
  | 1, 4 => some (true, true, true)
  | 2, 4 => some (true, true, true)
  | 7, 3 => some (true, false, true)
  | _, _ => none

/-- The key that a token's signature must verify against (R518, R520); none where the key it carries is not the one it may carry. -/
def tokenKey (s : State) (t : List Nat) : Option (List Nat) :=
  let carried := (t.drop 8).take 24
  let zero := carried.all (· == 0)
  if t.getD 1 0 = 0 then (if zero then some (Config.vendorKey 0) else none)
  else if s.rd LC.OWNER_KEY_EN = 1 then (if zero ∨ carried = s.lc.ownerKey then some s.lc.ownerKey else none)
  else if fld (t.getD 0 0) 4 4 = 1 ∧ fld (t.getD 0 0) 0 4 = 2 ∧ !zero then some carried
  else none

/-- Whether the nonce of the module is unspent and not older than 600 s (R516). -/
def nonceLives (s : State) : Bool := s.lc.nonce.isSome && decide (s.clock ≤ s.lc.nonceAt + 600000000000)

/-- TOKEN_BAD (R518, R521): the failure is counted, and the 16th locks. -/
def tokenBad (s : State) : Res :=
  let n := min (s.rdN LC.FAILS + 1) 16
  let s := record (s.putN LC.FAILS n) 0x10 0 0x01
  refuse (if n = 16 then record s 0x10 0 0x02 else s) St.TOKEN_BAD

/-- A token that passes brings its transition about (R519 to R522); RETURN goes on with the erasure. -/
def transit (s : State) (p : Pkt) (t : List Nat) (from_ to_ : Nat) : Res :=
  let enrol := from_ = 1 ∧ to_ = 2 ∧ s.rd LC.OWNER_KEY_EN = 0
  let s := if enrol then
      { (s.putN LC.OWNER_KEY_EN 1) with lc := { s.lc with ownerKey := (t.drop 8).take 24 } }
    else s
  let s := removeAccess (commitState s to_) from_
  if to_ = 3 then
    let s := s.putN LC.ERASE_PENDING 1
    .later { s with lc := { s.lc with eraseCmd := some (p.src, pTag p), eraseFrom := from_ } }
  else ok (lifeRecord (if to_ = 0 then initRecorder s else s) from_ to_)

/-- LC_TRANSITION (R517 to R522, R527): the checks in the order of R518. -/
def execLcTransition (p : Pkt) (d : HostData) (s : State) : Answer :=
  runBlock s p 0x0C01 { ptr := true, needPtr := true, unit := 224, exact := true } d fun ws =>
    vaneCmd s p <|
      let t := pad 56 ws
      let w := t.getD 0 0
      let from_ := fld w 4 4
      let to_ := fld w 0 4
      let form := fld w 16 16 == 1 && fld w 8 8 == 0 && decide (t.getD 1 0 ≤ 1) && t.getD 6 0 == 0 && t.getD 7 0 == 0
      match lcArrow s from_ to_ with
      | none => refuse s St.LC_DENIED
      | some (vendor, owner, still) =>
        if !form ∨ from_ ≠ s.lcState then refuse s St.LC_DENIED
        else if (still ∧ !quiet s) ∨ s.vane.act.isSome then refuse s St.WRONG_STATE
        else if s.rd LC.FAILS = 16 then refuse s St.LC_DENIED
        else
          let fresh := nonceLives s && s.lc.nonce == some (word64 (t.getD 4 0) (t.getD 5 0))
          let serial := t.getD 2 0 == serialWords.getD 0 0 && t.getD 3 0 == serialWords.getD 1 0
          let signer := if t.getD 1 0 = 0 then vendor else owner
          let s := { s with lc := { s.lc with nonce := none } }
          if !serial || !fresh || !signer then tokenBad s
          else match tokenKey s t with
            | none => tokenBad s
            | some k => if Config.sigVerifies k (t.take 32) ((t.drop 32).take 24) then transit s p t from_ to_ else tokenBad s

/-- LC_CHALLENGE (R516, R521, R530): the nonce is a value the module draws (log 3). -/
def execLcChallenge (p : Pkt) (s : State) : Answer :=
  runCmd s p 0x0C02 {} <|
    vaneCmd s p <|
      if s.rd LC.FAILS = 16 then refuse s St.LC_DENIED
      else
        let x := s.draw
        let n := x.1 % 2 ^ 64
        let t := x.2
        ok { t with lc := { t.lc with nonce := some n, nonceAt := t.clock } } [lo32 n, hi32 n, s.lcState]

/-- LC_STATUS (R530). -/
def execLcStatus (p : Pkt) (s : State) : Answer :=
  runCmd s p 0x0C03 {} <|
    vaneCmd s p <|
      ok s [s.lcState + s.rdN LC.OWNER_KEY_EN * 16 + s.rdN LC.ERASE_PENDING * 32 + s.rdN LC.FAILS * 256, s.rdN LC.TRANSITIONS]

/-- NONCE_EXPIRY (R516). -/
def execNonceExpiry (s : State) : Answer :=
  if s.lc.nonce.isSome ∧ s.lc.nonceAt + 600000000000 ≤ s.clock then .next { s with lc := { s.lc with nonce := none } } else .next s

/-- ERASURE_DONE (R522, R523): everything of R523 is erased, ERASE_PENDING clears last, and the LIFE_CYCLE record follows. -/
def execErasureDone (s : State) : Answer :=
  if s.rd LC.ERASE_PENDING = 1 ∧ s.vane.up then
    let cmd := s.lc.eraseCmd
    let from_ := s.lc.eraseFrom
    let s := lifeRecord ((eraseAll s).putN LC.ERASE_PENDING 0) from_ 3
    let s := { s with lc := { s.lc with eraseCmd := none } }
    done (match cmd with
      | some c => s.complete c.1 c.2 St.SUCCESS []
      | none => s)
  else .next s

/-- Whether an instruction drives or tests pins and lanes, for which the links stand (R541). -/
def isExtest : TapInstr → Bool
  | .extest => true
  | .extestPulse => true
  | .extestTrain => true
  | _ => false

/-- The links go DOWN for boundary scan (R541): for the host link a soft reset (R369), for a mesh port a lost link (R412). -/
def stopLinks (s : State) : State :=
  let s := if s.hl.link = .up ∨ s.hl.link = .slave ∨ s.hl.link = .l2 then softReset (linkLost s) else s
  let s := { s with hl := { s.hl with link := .down }, tst := { s.tst with extest := true } }
  (List.range 4).foldl (fun s p =>
    if portState s p = 3 then portDrops s p
    else if portState s p = 2 ∨ portState s p = 4 then dropLoopback (s.put MSH.PORT_STATE (p + 1) 1) p
    else s) s

/-- The instruction that an instruction decodes as (R524, R541). -/
def tapDecodes (s : State) (i : TapInstr) : TapInstr :=
  match i with
  | .samplePreload => if openAccess s then i else .bypass
  | .vendor => if vendorAccess s.lcState then i else .bypass
  | .reset => i
  | .bypass => i
  | .idcode => i
  | _ => if openAccess s && quiet s then i else .bypass

/-- What IDCODE shifts out (R540); of the hardware revision, its four low bits (log 173). -/
def tapIdcode : Nat := fld idPart 0 4 * 2 ^ 28 + 0x0128 * 2 ^ 12 + Config.jedecCode.toNat * 2 + 1

/-- Whether a signal has a control and an output cell (R540). -/
def scanDrives : ScanSig → Bool
  | .perst => false
  | .nreset => false
  | .pfail => false
  | .refclkIn _ => false
  | .hvIntlk => false
  | .pcie _ tx => tx
  | .mesh _ _ tx => tx
  | _ => true

/-- Whether a signal has an input cell (R540). -/
def scanSenses : ScanSig → Bool
  | .pcie _ tx => !tx
  | .mesh _ _ tx => !tx
  | _ => true

/-- Whether a signal is a lane, which the instructions of 1149.6 test (R540). -/
def scanLane : ScanSig → Bool
  | .pcie _ _ => true
  | .mesh _ _ _ => true
  | _ => false

/-- The millivolts that a driven cell puts out (R540, R551): a high-swing pin 5.0 V, a fast one 3.0 V, other outputs 3.3 V; a lane, which
carries no level, 1 for the pattern of a 1. -/
def scanLevel (c : ScanCell) : ScanSig × Int :=
  (c.sig, if !c.level then 0 else match c.sig with
    | .vp n => if 192 ≤ n then 5000 else 3000
    | .pcie _ _ => 1
    | .mesh _ _ _ => 1
    | _ => 3300)

/-- What an input cell captures (R540): a vector pin receives at 1.5 V, a high-swing one at 2.5 V. -/
def scanCapture (e : ScanSig × Int) : ScanSig × Bool :=
  (e.1, match e.1 with
    | .vp n => decide ((if 192 ≤ n then 2500 else 1500) < e.2)
    | _ => e.2 != 0)

/-- The boundary register under an instruction (R540): SAMPLE/PRELOAD captures and takes new cells; the EXTEST instructions also drive
them, those of 1149.6 the lanes too. -/
def scanCells (s : State) (i : TapInstr) (scan : Scan) : State :=
  let s := if scan.cells.isEmpty then s else { s with tst := { s.tst with cells := scan.cells.filter fun c => scanDrives c.sig } }
  let lanes := i == .extestPulse || i == .extestTrain
  let held := s.tst.cells.filter fun c => isExtest i && c.drive && (lanes || !scanLane c.sig)
  s.emit (.scanCells (held.map scanLevel)
    ((scan.seen.filter fun e => scanSenses e.1 && (lanes || !scanLane e.1)).map scanCapture))

/-- What an instruction that is loaded shifts (R540): IDCODE the identification, SAMPLE/PRELOAD and the EXTEST instructions the boundary
register; Test-Logic-Reset clears it. -/
def scanWith (s : State) (i : TapInstr) (scan : Scan) : State :=
  match i with
  | .idcode => s.emit (.scanWord tapIdcode)
  | .samplePreload => scanCells s i scan
  | .extest => scanCells s i scan
  | .extestPulse => scanCells s i scan
  | .extestTrain => scanCells s i scan
  | .reset => { s with tst := { s.tst with cells := [] } }
  | .bypass => s
  | .vendor => s

/-- TAP_INSTRUCTION (R524, R540, R541, R544). -/
def execTapInstruction (load : TapLoad) (s : State) : Answer :=
  let j := tapDecodes s load.tap
  let s := if isExtest load.tap ∧ openAccess s ∧ !quiet s then record s 0x0E 0 0x02 else s
  let s := { s with tst := { s.tst with tap := j } }
  done (scanWith (if isExtest j then (if s.tst.extest then s else stopLinks s) else leaveExtest s) j load.scan)

end Sys2Proof.Machine
end

