-- ==== Sys2Proof/Machine/ParamWrite.lean ====
section
/-!
DEFINITION. PARAM_GET and PARAM_SET (R339 to R341): a parameter's value as it reads, and the write rules of every block's
parameters (R82, R123, R161, R178, R208, R209, R253, R278, R310, R378, R408, R409, R435, R439, R458, R481, R512, R571).
-/
namespace Sys2Proof.Machine

/-- What a parameter write comes to: the status that refuses it and, where R161 says so, the engine whose REGION_INVALID it sets; or the
state that results and the delay in loop cycles that R78 reports. -/
abbrev Pw := Except (Nat × Option Nat) (State × Nat)

/-- A write refused with a status. -/
def nack (status : Nat) : Pw := .error (status, none)

/-- A write that took effect. -/
def ack (s : State) : Pw := .ok (s, 0)

/-- A write rule without a delay. -/
def plainWr (w : Wr) : Pw :=
  match w with
  | .ok s => ack s
  | .error e => nack e

/-- The storage of a parameter. -/
def PRef.id (r : PRef) : Nat := r.prm.id r.inst r.idx

/-- Place a value in the parameter. -/
def PRef.put (r : PRef) (s : State) (v : Int) : State := s.wr r.prm r.inst r.idx v

/-- Place a value in the parameter, for the next loop-cycle boundary (R82, R123, R178). -/
def PRef.putNext (r : PRef) (s : State) (v : Int) : State := s.wrNext r.prm r.inst r.idx v

/-- Whether a reference is to a parameter. -/
def PRef.is (r : PRef) (p : Prm) : Bool := r.prm.blk == p.blk && r.prm.num == p.num

/-- 128 bits from four words, low word first (R339). -/
def rawValue (ws : List Nat) : Nat :=
  ws.getD 0 0 + 2 ^ 32 * ws.getD 1 0 + 2 ^ 64 * ws.getD 2 0 + 2 ^ 96 * ws.getD 3 0

/-- The value that 128 bits carry: bits above the width are 0, or the sign (R339). -/
def decodeValue (p : Prm) (raw : Nat) : Option Int :=
  if p.sgn then (if toField 128 (sfld p.wid raw) = raw then some (sfld p.wid raw) else none)
  else if raw < 2 ^ p.wid then some raw
  else none

/-- Four words of a value (R339). -/
def valueWords (v : Int) : List Nat :=
  let n := toField 128 v
  [fld n 0 32, fld n 32 32, fld n 64 32, fld n 96 32]

/-- The four nibbles of WIN_STATE (R209). -/
def winState (s : State) (c : Nat) : Nat :=
  (List.range 4).foldl (fun a k => a + cmpNibble s (.window c k) * 16 ^ k) 0

/-- A parameter's value as it reads (R8, R339): what is write-only reads 0, and what follows other state reads that state. -/
def readPrm (s : State) (r : PRef) : Int :=
  if r.prm.acc = .wo then 0
  else if r.is EVF.CONS_STAT then consStat s r.idx
  else if r.is EVF.EDDY_STATE then eddyState s r.idx
  else if r.is EVF.CU_LEVEL then (s.cu r.idx).length
  else if r.is PIN.CMP_STATE then (16 * cmpNibble s (.pin r.inst true) + cmpNibble s (.pin r.inst false) : Nat)
  else if r.is FCH.WIN_STATE then winState s r.inst
  else if r.is VANE.MON_STATE then cmpNibble s (.monitor r.idx)
  else if r.is CAL.RAMPING then (rampingSets s).length
  else if r.is HL.INFLIGHT then inFlight s
  else if r.is HL.FW_INFLIGHT then fwInFlight s
  else if r.is HL.FETCH_PAUSED then (b2n (decide (4032 ≤ fwInFlight s ∨ 4096 ≤ inFlight s)) + 2 * b2n (decide (4096 ≤ inFlight s)) : Nat)
  else s.rd r.prm r.inst r.idx

/-- PARAM_GET of one parameter: the status that refuses it, or its words. -/
def getParam (s : State) (id : Nat) : Except Nat (List Nat) :=
  match findPrm id with
  | none => .error St.BAD_ID
  | some r =>
    if stopped s (islandOf r.prm.blk r.inst) then .error St.ISLAND_STOPPED else .ok (valueWords (readPrm s r))

/-- PARAM_GET of a list: the first entry that fails and its status, or all words. -/
def getParams (s : State) : Nat → List Nat → Except (Nat × Nat) (List Nat)
  | _, [] => .ok []
  | i, id :: ids =>
    match getParam s id with
    | .error e => .error (e, i)
    | .ok ws =>
      match getParams s (i + 1) ids with
      | .error e => .error e
      | .ok rest => .ok (ws ++ rest)

/-- PARAM_GET (R339, R341). -/
def execParamGet (p : Pkt) (d : HostData) (_wr : Option HostFault) (s : State) : Answer :=
  runBlock s p 0x0003 (if pPtr p then { ptr := true, unit := 4, maxUnits := 4096, used := [(5, allBits), (6, allBits)] }
      else { used := [(1, allBits)] }) d fun ws =>
    if pPtr p then
      if pw p 5 % 16 ≠ 0 then refuse s St.BAD_VALUE
      else match getParams s 0 (pad (pw p 4 / 4) ws) with
      | .error e => .done e.1 [e.2] s
      | .ok out => hostPut s p (pw64 p 5) out (.plain [])
    else match getParam s (pw p 1) with
      | .error e => refuse s e
      | .ok ws => ok s ws

/-- An admission under R79 that raises a channel's estimate returns its immediate ceiling to its setpoint (R334). -/
def reviseCeiling (old s : State) (c : Nat) : State :=
  let a := estimate old c
  let b := estimate s c
  if a.1 < b.1 ∨ a.2 < b.2 then resetCeiling s c else s

/-- A write of a limit (R68, R71, R140); one of a voltage limit starts a new ramp of an HV channel (R167). -/
def writeLimit (s : State) (c : Nat) (r : PRef) (v : Int) : Pw :=
  if owned s c then nack St.OWNED
  else
    let t := r.put s v
    let volts := r.prm.num = FCH.VLIM_POS.num ∨ r.prm.num = FCH.VLIM_NEG.num
    if !r71Holds t c (s.onMode c) (s.setpoint c) (s.ch c).parVr then nack St.BAD_VALUE
    else
      let t := if volts then t.setCh c { t.ch c with rampNew := true } else t
      ack (reviseCeiling s (touch t c) c)

/-- A range-policy entry that R67 and R173 accept: no dwell of 0, and a down change that cannot land above the up threshold of the range
below. -/
def policyOk (c k w : Nat) : Bool :=
  let up := fld w 48 16
  let dn := fld w 32 16
  let apart := if c < 128 ∨ k = 0 then decide (10 * dn < up) else decide (dn * hvIfs k < up * hvIfs (k - 1))
  fld w 16 16 != 0 && fld w 0 16 != 0 && apart

/-- A safe-operating-area row that R76 accepts: rows 0 to 2 stand at or below their reset values. -/
def soaOk (k w : Nat) : Bool :=
  let r := (FCH.SOA.reset 0 k).toNat
  k == 3 || (fld w 20 12 ≤ fld r 20 12 && fld w 0 20 ≤ fld r 0 20)

/-- Write rules of the channel parameters, precision and HV (R44, R46, R63, R66 to R68, R76, R77, R82, R140, R165, R173, R178, R209). -/
def writeChan (s : State) (c : Nat) (r : PRef) (v : Int) : Pw :=
  let n := r.prm.num
  if n = FCH.OUT_REQ.num then plainWr (setOutReq s c v)
  else if n = FCH.SETPOINT.num then
    match setSetpoint s c v with
    | .ok a => .ok a
    | .error e => nack e
  else if n = FCH.VRANGE.num then plainWr (setVrange s c v)
  else if n = FCH.IRANGE.num then plainWr (setIrange s c v)
  else if n = FCH.PROFILE_SEL.num then if owned s c then nack St.OWNED else ack (touch (r.put s v) c)
  else if FCH.LIM_SYM.num ≤ n ∧ n ≤ FCH.ILIM_NEG.num then writeLimit s c r v
  else if n = FCH.RP_EN.num ∨ n = FCH.RP_MIN.num ∨ n = FCH.RP_MAX.num then
    let t := r.putNext s v
    if t.crd FCH.RP_MAX HVC.RP_MAX c < t.crd FCH.RP_MIN HVC.RP_MIN c then nack St.BAD_VALUE
    else ack (reviseCeiling s t c)
  else if n = FCH.RP.num then
    if policyOk c r.idx v.toNat then
      let t := r.putNext s v
      ack (t.setCh c { t.ch c with up := 0, dn := 0 })
    else nack St.BAD_VALUE
  else if n = FCH.PROF.num then
    let lim := if c < 128 then 0xF else 0xA
    if r.idx / 16 = activeProfile s c then nack St.ACTIVE_PROFILE
    else if r.idx % 16 = lim ∧ (v < 0 ∨ 536870912 < v) then nack St.BAD_VALUE
    else ack (r.put s v)
  else if c < 128 ∧ n = FCH.SOA.num then if soaOk r.idx v.toNat then ack (r.putNext s v) else nack St.BAD_VALUE
  else if c < 128 ∧ n = FCH.WIN_CTL.num then
    if v.toNat % 128 ≠ 0 then nack St.RESERVED_SET
    else plainWr (writeCmpCtl s (.window c r.idx) (fun w => r.put s (w : Nat)) v.toNat)
  else if c < 128 ∧ n = FCH.RAIL_FLOOR.num then ack (aimRails (r.put s v) (groupOf c))
  else if c < 128 ∧ n = FCH.CLAMP_MARGIN.num then ack (touch (r.put s v) c)
  else if c < 128 ∧ (n = FCH.WIN_VHI.num ∨ n = FCH.WIN_VLO.num) then
    let t := r.put s v
    ack (if connected (s.chState c) then t else bandChanges t (.window c (b2n (n == FCH.WIN_VLO.num))))
  else if (c < 128 ∧ n = FCH.PATH_SEL.num) ∨ (128 ≤ c ∧ n = HVC.SLEW.num) then ack (r.put s v)
  else ack (r.putNext s v)

/-- Write rules of the measure parameters (R97, R98, R107, R109, R120, R123, R124, R140). -/
def writeMsr (s : State) (r : PRef) (v : Int) : Pw :=
  let c := r.inst
  let g := groupOf c
  let n := r.prm.num
  if n = MSR.AVG_N.num ∨ n = MSR.AVG_S.num then
    if owned s c then nack St.OWNED else ack (restartAvg (r.put s v) c)
  else if n = MSR.AVG_DISCARD.num then ack (restartAvg (r.put s v) c)
  else if n = MSR.TRIG_SRC.num then plainWr (writeTrigSrc s g v)
  else if n = MSR.TIMER_PERIOD.num then plainWr (writeTimerPeriod s g v)
  else if n = MSR.TIMER_PHASE.num then plainWr (writeTimerPhase s g v)
  else if n = MSR.PWR_MODE.num then plainWr (writePwrMode s g v)
  else if n = MSR.TDAC_MASK.num then plainWr (writeTdacMask s g v)
  else if n = MSR.TDAC_CODE.num ∨ n = MSR.TDAC_QTY.num then ack (tdacChanged (r.putNext s v) g)
  else if n = MSR.TRIG_EV.num then plainWr (reselect s (r.putNext s v) r)
  else ack (r.putNext s v)

/-- The pair of REGION and ENTRY that a command leaves in a slot (R161); `fin` gives what each ID holds after the whole command. -/
def regionPair (s : State) (fin : Nat → Int) (e k : Nat) (t : State) : Pw :=
  match s.region (fin (SWE.REGION.id e k)).toNat with
  | none => nack St.BAD_ID
  | some g =>
    if (g.count : Int) ≤ fin (SWE.ENTRY.id e k) then nack St.BAD_VALUE
    else if g.state ≠ 1 ∨ g.hv ≠ decide (e = 16) then .error (St.WRONG_STATE, some e)
    else ack t

/-- Write rules of the sweep-engine parameters (R161): those of a slot only while it is LOADED. -/
def writeSwe (s : State) (fin : Nat → Int) (r : PRef) (v : Int) : Pw :=
  let e := r.inst
  let k := r.idx
  let n := r.prm.num
  if SWE.SLOT_STATE.num ≤ n ∧ n ≤ SWE.LOOP_CTR3.num then
    if s.slotState e k ≠ 1 then nack St.WRONG_STATE
    else if n = SWE.REGION.num then regionPair s fin e k (r.put s v)
    else if n = SWE.ENTRY.num then regionPair s fin e k ((r.put s v).wr SWE.PC e k v)
    else if n = SWE.END_ACTION.num ∧ v = 3 then nack St.BAD_VALUE
    else if n = SWE.CHAN_SET.num ∧ e = 16 ∧ 16 ≤ v then nack St.BAD_VALUE
    else ack (r.put s v)
  else plainWr (reselect s (r.putNext s v) r)

/-- A write of STATIC (R184, R185, R446, R565). -/
def writeStatic (s : State) (r : PRef) (v : Int) : Pw :=
  let n := r.inst
  if calPin s n ∨ (shedding s ∧ v ≠ 2) then nack St.WRONG_STATE
  else
    let t := r.put s v
    ack (if s.pinState n = 0 then enterPin t n 0 else t)

/-- A PMU's mode or range changes under a selected current or voltage reading (R191). -/
def pmuChanged (s : State) (n : Nat) : State :=
  let sel := s.rdN PIN.ADC_SEL (chipHome (n / 64))
  if bit sel 7 ∨ selPin (n / 64) sel ≠ n then s else selChanged s (n / 64)

/-- Write rules of the pin parameters (R180, R182, R184 to R194, R202, R208, R438, R446, R565). -/
def writePin (s : State) (r : PRef) (v : Int) : Pw :=
  let n := r.inst
  let p := r.prm.num
  if p = PIN.STATIC.num then writeStatic s r v
  else if p = PIN.Z_MODE.num then if 192 ≤ n ∧ v ≠ 0 then nack St.BAD_VALUE else ack (r.put s v)
  else if PIN.VIH.num ≤ p ∧ p ≤ PIN.VCOM.num then ack (pinCode n true (r.put s v) (p - PIN.VIH.num))
  else if p = PIN.VOH.num ∨ p = PIN.VOL.num then ack (pinCode n true (bandChanges (r.put s v) (.pin n (p == PIN.VOH.num))) (4 + (p - PIN.VOH.num)))
  else if p = PIN.CMPH_CTL.num ∨ p = PIN.CMPL_CTL.num then
    if v.toNat % 128 ≠ 0 then nack St.RESERVED_SET
    else plainWr (writeCmpCtl s (.pin n (p == PIN.CMPH_CTL.num)) (fun w => r.put s (w : Nat)) v.toNat)
  else if p = PIN.PMU_EN.num then plainWr (writePmuEn s n v)
  else if p = PIN.PMU_MODE.num ∨ p = PIN.PMU_IRANGE.num then ack (if s.rd r.prm n = v then s else pinCode n false (pmuChanged (r.put s v) n) 6)
  else if p = PIN.PMU_SET.num then
    if v < (pmuSpan s n).1 ∨ (pmuSpan s n).2 < v then nack St.BAD_VALUE else ack (pinCode n true (r.put s v) 6)
  else if p = PIN.PMU_VCL_HI.num ∨ p = PIN.PMU_VCL_LO.num then
    if v < (pinSpan n).1 ∨ (pinSpan n).2 < v then nack St.BAD_VALUE else ack (r.put s v)
  else if p = PIN.ADC_SEL.num then
    if bit v.toNat 7 && bit v.toNat 6 then nack St.BAD_VALUE else ack (selChanged (r.put s v) (n / 64))
  else if p = PIN.ADC_GO.num then plainWr (writeAdcGo s n)
  else if p = PIN.TDAC.num then
    let t := r.put s v
    ack (if bit (s.rdN PIN.ADC_SEL (chipHome (n / 64))) 7 then selChanged t (n / 64) else t)
  else plainWr (reselect s (r.put s v) r)

/-- Whether the stream a domain's HOLD_STM names is BECALMED (R240, R393). -/
def heldByStream (s : State) (d : Nat) : Bool :=
  let n := s.rdN SEQ.HOLD_STM d
  decide (n < 31) && s.rd STM.HOLD_STATE n == 1

/-- Write rules of the sequencer parameters (R212, R253). -/
def writeSeq (s : State) (r : PRef) (v : Int) : Pw :=
  let d := r.inst
  let p := r.prm.num
  if p = SEQ.PIN_SIZE.num then if s.seqState d ≠ 0 then nack St.WRONG_STATE else ack (r.put s v)
  else if p = SEQ.HS_DIV.num then
    if s.seqState d ≠ 0 then nack St.WRONG_STATE
    else if (List.range 32).any fun k => tooFast d v.toNat ((s.sequencer d).ts k) then nack St.BAD_VALUE
    else ack (r.put s v)
  else if p = SEQ.PRIME_DEPTH.num then
    if 2048 - s.rd SEQ.PIN_SIZE d < v then nack St.BAD_VALUE else ack (r.put s v)
  else if p = SEQ.HOLD_STM.num then
    let t := r.put s v
    let was := heldByStream s d
    let now := heldByStream t d
    ack (if was == now then t else seqSource t d now)
  else plainWr (reselect s (r.put s v) r)

/-- Write rules of the fabric parameters (R289, R290, R292, R295, R296, R298 to R300, R310). -/
def writeEvf (s : State) (fin : Nat → Int) (r : PRef) (v : Int) : Pw :=
  let p := r.prm.num
  let w := v.toNat
  if p = EVF.SEV_ALIGN.num then ack ((alignWritten s).put EVF.SEV_ALIGN 0 v)
  else if p = EVF.CH_SEEN.num then ack (r.put s (s.rdN EVF.CH_SEEN - (s.rdN EVF.CH_SEEN).land w : Nat))
  else if p = EVF.CONS_STAT.num then
    if fld w 16 7 ≠ 0 then nack St.RESERVED_SET
    else ack (if bit w 31 then s.setCon r.idx { s.con r.idx with overrun := false } else s)
  else if p = EVF.TICK_PERIOD.num then
    if 0 < v ∧ v < 100 then nack St.BAD_VALUE
    else
      let t := r.put s v
      ack (if 0 < v ∧ v ≤ s.rd EVF.TICK_PHASE 0 r.idx then t.wr EVF.TICK_PHASE 0 r.idx 0 else t)
  else if p = EVF.TICK_PHASE.num then
    let q := fin (EVF.TICK_PERIOD.id 0 r.idx)
    if q ≠ 0 ∧ q ≤ v then nack St.BAD_VALUE else ack (r.put s v)
  else if p = EVF.TRIG_CTL.num then
    if fld w 9 12 ≠ 0 then nack St.RESERVED_SET
    else if fld w 0 9 = 0 then nack St.BAD_VALUE
    else plainWr (reselect s (r.put s v) r)
  else if p = EVF.EDDY_IN.num then
    if (List.range 4).any fun i => fld w (8 * i + 6) 2 == 3 then nack St.BAD_VALUE
    else match reselect s (r.put s v) r with
      | .ok t => ack (eddyWritten t r.idx)
      | .error e => nack e
  else if p = EVF.EDDY_CTL.num then
    if bit w 3 then nack St.RESERVED_SET else ack (eddyWritten (r.put s v) r.idx)
  else plainWr (reselect s (r.put s v) r)

/-- Write rules of the stream parameters (R379, R393, R408). -/
def writeStm (s : State) (r : PRef) (v : Int) : Pw :=
  let n := r.inst
  let p := r.prm.num
  if p = STM.SRC_GROUPS.num then
    if n = 31 then nack St.READ_ONLY
    else if 1 < s.stmState n then nack St.WRONG_STATE
    else if (List.range 31).any fun m => m != n && (s.rdN STM.SRC_GROUPS m).land v.toNat != 0 then nack St.BAD_VALUE
    else ack (r.put s v)
  else if p = STM.CTX.num then if 1 < s.stmState n then nack St.WRONG_STATE else ack (r.put s v)
  else if p = STM.POLICY.num then
    if n = 31 ∧ v ≠ 0 then nack St.BAD_VALUE
    else
      let t := r.put s v
      ack (if v = 0 then unbecalm t n else if 2 ≤ s.stmState n then becalm t n else t)
  else if p = STM.RESUME_FREE.num then
    if v < s.rd STM.HOLD_FREE n then nack St.BAD_VALUE else ack (becalmedCheck (r.put s v) n)
  else if p = STM.HOLD_FREE.num then
    let t := r.put s v
    ack (if 2 ≤ s.stmState n then becalm t n else t)
  else plainWr (reselect s (r.put s v) r)

/-- Write rules of the translation parameters (R397, R409). -/
def writeXlt (s : State) (r : PRef) (v : Int) : Pw :=
  let p := r.prm.num
  if p = XLT.PRI_EN.num then ack (r.put s v)
  else if p = XLT.ROOT.num ∧ (v % 4096 ≠ 0 ∨ 2 ^ 52 ≤ v) then nack St.BAD_VALUE
  else ack (dropPages (r.put s v) r.inst none)

/-- Write rules of the Vane parameters (R202, R209, R481, R512, R571). -/
def writeVane (s : State) (r : PRef) (v : Int) : Pw :=
  if r.prm.num = VANE.MON_CTL.num then
    if v.toNat % 128 ≠ 0 then nack St.RESERVED_SET
    else plainWr (writeCmpCtl s (.monitor r.idx) (fun w => r.put s (w : Nat)) v.toNat)
  else if r.prm.num = VANE.MON_THR.num then ack (bandChanges (r.put s v) (.monitor r.idx))
  else ack (r.put s v)

/-- Write rules of the host-link parameters (R374, R378, R519, R524), checked against a life-cycle state. -/
def writeHl (s : State) (lc : Nat) (r : PRef) (v : Int) : Pw :=
  if r.prm.num = HL.LB_BOOT.num then
    if bit v.toNat 2 then nack St.RESERVED_SET
    else if fld v.toNat 0 2 = 3 then nack St.BAD_VALUE
    else if fld v.toNat 0 2 ≠ 0 ∧ !grantsOpen lc then nack St.LC_DENIED
    else ack (r.put s v)
  else ack (r.put s v)

/-- The write rules of a block. -/
def writeBlock (s : State) (lc : Nat) (fin : Nat → Int) (r : PRef) (v : Int) : Pw :=
  match r.prm.blk with
  | 1 => writeChan s r.inst r v
  | 2 => writeMsr s r v
  | 3 => writeSwe s fin r v
  | 4 => writeChan s (r.inst + 128) r v
  | 5 => writePin s r v
  | 6 => writeSeq s r v
  | 8 => writeEvf s fin r v
  | 9 => writeStm s r v
  | 10 => writeXlt s r v
  | 11 => plainWr (writePortEn s (r.inst - 1) v)
  | 13 => writeVane s r v
  | 15 => writeHl s lc r v
  | _ => ack (r.put s v)

/-- VIT, VCOM, ISRC or ISNK of a high-swing pin, which has none (R180). -/
def fastOnly (id : Nat) : Bool :=
  id / 0x1000000 == 5 && 192 ≤ id / 0x1000 % 4096 && id / 0x1000 % 4096 < 256 && 0x12 ≤ id % 0x1000 && id % 0x1000 ≤ 0x15

/-- A parameter write but for the power budget (R11, R22, R83, R339): the ID, the access, the value and the island, and then the write
rules of the parameter's own chapter. -/
def writeParam (s : State) (lc : Nat) (fin : Nat → Int) (id raw : Nat) : Pw :=
  match findPrm id with
  | none => nack (if fastOnly id then St.BAD_VALUE else St.BAD_ID)
  | some r =>
    if r.prm.acc = .ro then nack St.READ_ONLY
    else match decodeValue r.prm raw with
      | none => nack St.BAD_VALUE
      | some v =>
        if !r.prm.accepts v then nack St.BAD_VALUE
        else if stopped s (islandOf r.prm.blk r.inst) then nack St.ISLAND_STOPPED
        else if isCoef r.id ∨ isDeskew r.id ∨ isRef r.id then ack (writeCal s r.id v)
        else writeBlock s lc fin r v

/-- What an ID holds after a list of writes: the last value the list gives it, else what it holds now. -/
def finalValue (s : State) (es : List (Nat × Nat)) (key : Nat) : Int :=
  es.foldl (fun acc e =>
    match findPrm e.1 with
    | some r => if r.id = key then (decodeValue r.prm e.2).getD acc else acc
    | none => acc) (s.atId key)

/-- The writes of a list in order, on a working copy (R340): the first that fails with its index, or the state and the longest delay. -/
def writeEach (lc : Nat) (fin : Nat → Int) : Nat → List (Nat × Nat) → State → Nat → Except (Nat × Option Nat × Nat) (State × Nat)
  | _, [], s, d => .ok (s, d)
  | i, e :: es, s, d =>
    match writeParam s lc fin e.1 e.2 with
    | .error x => .error (x.1, x.2, i)
    | .ok a => writeEach lc fin (i + 1) es a.1 (max d a.2)

/-- Tick generators that stood still take the setting that the whole command leaves them (R295). -/
def adoptTicks (old s : State) : State :=
  (List.range 8).foldl (fun s g => if (old.ticker g).period = 0 then tickWritten s g else s) s

/-- Whether a write concerns a precision channel's force (R79, R171). -/
def weighs (e : Nat × Nat) : Bool := e.1 / 0x1000000 == 1

/-- A list of writes applied as a whole or not at all (R11, R79, R340): the status and the index of the entry that fails, 0xFFFF_FFFF for
the budget; what a refused one sets is the cause of R161. -/
def applyWrites (s : State) (lc : Nat) (es : List (Nat × Nat)) : Except (Nat × Nat × State) (State × Nat) :=
  match writeEach lc (finalValue s es) 0 es s 0 with
  | .error (st, cause, i) =>
    .error (st, i, match cause with
      | some e => record s 3 e 0x0A
      | none => s)
  | .ok (t, d) =>
    let t := adoptTicks s t
    if es.any weighs then
      match grantCh s t 0 with
      | .ok t => .ok (t, d)
      | .error st => .error (st, 0xFFFFFFFF, s)
    else .ok (t, d)

/-- The entries of a pointer block: ID, whether the reserved word is 0, and value (R340). -/
def listEntries : Nat → List Nat → List (Nat × Bool × Nat)
  | 0, _ => []
  | n + 1, ws => (ws.getD 0 0, ws.getD 1 0 == 0, rawValue (ws.drop 2)) :: listEntries n (ws.drop 6)

/-- The answer to writes that took effect (R78). -/
def written78 (a : State × Nat) : Res :=
  if a.2 = 0 then ok a.1 else .done St.SUCCESS_WARN [0, 0, 0, a.2] a.1

/-- A list, up to the first entry whose reserved word is not 0. -/
def setList (s : State) (lc : Nat) (es : List (Nat × Bool × Nat)) : Res :=
  let good := es.takeWhile fun e => e.2.1
  match applyWrites s lc (good.map fun e => (e.1, e.2.2)) with
  | .error (st, i, t) =>
    if st = St.POWER_BUDGET ∧ good.length < es.length then .done St.RESERVED_SET [good.length] s else .done st [i] t
  | .ok a => if good.length < es.length then .done St.RESERVED_SET [good.length] s else written78 a

/-- PARAM_SET (R339, R340). -/
def execParamSet (p : Pkt) (d : HostData) (s : State) : Answer :=
  runBlock s p 0x0004 (if pPtr p then { ptr := true, unit := 24, maxUnits := 2048 }
      else { used := [(1, allBits), (2, allBits), (3, allBits), (4, allBits), (5, allBits)] }) d fun ws =>
    if pPtr p then setList s (lcFor s p) (listEntries (pw p 4 / 24) ws)
    else match applyWrites s (lcFor s p) [(pw p 1, rawValue (p.words.drop 2))] with
      | .error (st, _, t) => refuse t st
      | .ok a => written78 a

end Sys2Proof.Machine
end

