-- ==== Sys2Proof/Machine/Oob.lean ====
section
/-!
DEFINITION. Management messages to Vane (R491 to R493, R510, R511): MCTP control, PLDM, SPDM and the commands of vendor-defined
messages. The standards fix the layout of a message and of its reply; the words of a reply here are the model's own (log 9): a completion
code, 0 for success, and what the spec says the reply carries.
-/
namespace Sys2Proof.Machine

/-- Vane's reply to a message of a type. -/
def reply (s : State) (kind : Nat) (ws : List Nat) : State := s.emit (.management kind ws)

/-- The error completion code of a message's own standard (R491). -/
def errorReply (s : State) (kind : Nat) : State := reply s kind [1]

/-- A message that Vane takes (R37, R493): none while it restarts. In Lull it arrives by SMBus, the host link being in L2, and wakes the
module where LULL_WAKE_SMB says so. It counts as traffic of the SMBus (R535, log 106). -/
def takeMessage (s : State) (k : State → State) : Answer :=
  if !s.vane.up then .next s
  else
    let s := s.setVane { s.vane with smbAt := some s.clock }
    let s := if s.pwr.lull = 3 ∧ s.pwr.wakeSmb then beginWake { s with pwr := { s.pwr with wake := some .smbus } } else s
    done (k s)

/-- A malformed message is discarded with MCTP_ERR (R511). -/
def malformed (s : State) : State := vaneCause s 0x0D

/-- MCTP_CONTROL_MESSAGE (R491, R512): an endpoint ID of 0 or 0xFF is none (PRESUMED, log 60). -/
def execMctpControlMessage (m : MctpControl) (s : State) : Answer :=
  takeMessage s fun s =>
    match m with
    | .setEid e => if e = 0 ∨ 255 ≤ e then errorReply s 0 else reply (s.putN VANE.MCTP_EID e) 0 [0, e]
    | .getEid => reply s 0 [0, s.rdN VANE.MCTP_EID]
    | .getVersion => reply s 0 [0, 1, 3]
    | .getTypes => reply s 0 [0, 0x00, 0x01, 0x05, 0x7E]
    | .getVendor => reply s 0 [0, (Config.identity 4).toNat]
    | .other => errorReply s 0
    | .malformed => malformed s

/-- The firmware kind of a PLDM component (R491). -/
def componentKind (c : Nat) : Option Nat := if 1 ≤ c ∧ c ≤ 3 then some (c - 1) else none

/-- The status with which the module's state refuses a firmware update (R522, R524, R565). -/
def updateBarred (s : State) : Option Nat :=
  if s.lcState = 4 then some St.LC_DENIED
  else if s.rd LC.ERASE_PENDING = 1 ∨ shedding s then some St.WRONG_STATE
  else none

/-- A firmware update or activation by PLDM (R491, R505, R506, R510): it is answered when it ends, or at once where it is refused. -/
def updateReply (s : State) (component : Nat) (k : Nat → Nat × State) : State :=
  match componentKind component, updateBarred s with
  | none, _ => errorReply s 1
  | some _, some st => reply s 1 [st]
  | some kind, none =>
    let r := k kind
    if r.1 = St.SUCCESS then r.2 else reply r.2 1 [r.1]

/-- The PLDM types (R491). -/
def pldmTypes : List Nat := [0, 2, 5]

/-- The sensors a PDR describes (R487, R491): the numeric ones, ALIVE and the event log. -/
def pdrCount : Nat := ((List.range 51).filter sensorListed).length + 2

/-- A reply whose content another standard fixes: a free value (log 3). -/
def freeReply (s : State) (kind : Nat) : State :=
  let a := s.draw
  reply a.2 kind [0, a.1]

/-- PLDM_MESSAGE (R491, R505, R506, R510, R511). -/
def execPldmMessage (m : Pldm) (s : State) : Answer :=
  takeMessage s fun s =>
    match m with
    | .getTid => reply s 1 [0, s.vane.tid]
    | .setTid t => if t = 0 ∨ 255 ≤ t then errorReply s 1 else reply (s.setVane { s.vane with tid := t }) 1 [0]
    | .getVersion => freeReply s 1
    | .getTypes => reply s 1 (0 :: pldmTypes)
    | .getCommands t => if pldmTypes.contains t then freeReply s 1 else errorReply s 1
    | .readSensor n =>
      if sensorListed n then reply s 1 [0, toField 32 (s.sensor n).reading, (s.sensor n).state] else errorReply s 1
    | .readAlive => reply s 1 [0, b2n s.pwr.toggles]
    | .readLog => reply s 1 [0, 2 * s.rdN VANE.LOG_MEDIA_FAIL]
    | .getPdr n => if n < pdrCount then freeReply s 1 else errorReply s 1
    | .pdrInfo => reply s 1 [0, pdrCount]
    | .setEventReceiver e => reply (s.setVane { s.vane with eventReceiver := e }) 1 [0]
    | .update c image =>
      updateReply s c fun kind =>
        if image.length * 4 < 512 ∨ slotBytes kind < image.length * 4 then (St.BAD_VALUE, vaneCause s 0x0C)
        else stageImage s s.lcState none kind (image.length * 4) image
    | .activate c => updateReply s c fun kind =>
        let r := activate s s.lcState none kind false
        (r.1, r.2.2)
    | .other => errorReply s 1
    | .malformed => malformed s

/-- The value of an SPDM measurement (R492). -/
def measurement (s : State) (index : Nat) : Option (List Nat) :=
  if 1 ≤ index ∧ index ≤ 3 then some (s.flash (runningSlot s (index - 1))).digest
  else if index = 4 then some [s.lcState]
  else if index = 5 then some [s.rdN VANE.FW_SV]
  else none

/-- SPDM_MESSAGE (R491, R492): version 1.2, ECDSA P-384 and SHA-384, slot 0 only. -/
def execSpdmMessage (m : Spdm) (s : State) : Answer :=
  takeMessage s fun s =>
    match m with
    | .getVersion => reply s 5 [0, 1, 2]
    | .getCapabilities => reply s 5 [0, 1, 1, 1]
    | .negotiate p384 sha384 => if p384 && sha384 then reply s 5 [0] else errorReply s 5
    | .getDigests => reply s 5 (0 :: Config.sha384 Config.certChain)
    | .getCertificate slot => if slot = 0 then reply s 5 (0 :: Config.certChain) else errorReply s 5
    | .challenge slot nonce =>
      if slot = 0 then reply s 5 (0 :: Config.deviceSign (Config.sha384 Config.certChain ++ nonce)) else errorReply s 5
    | .getMeasurements index nonce =>
      match measurement s index with
      | some v => reply s 5 (0 :: v ++ Config.deviceSign (index :: v ++ nonce))
      | none => errorReply s 5
    | .other => errorReply s 5

/-- VENDOR_DEFINED_MESSAGE (R493): five commands, dispatched as they arrive, with POINTER 0; every other opcode is BAD_OPCODE. -/
def execVendorDefinedMessage (vendor : Bool) (p : Pkt) (s : State) : Answer :=
  let p := { p with src := .vane }
  if !vendor then takeMessage s fun s => errorReply s 0x7E
  else if !s.vane.up then .next s
  else
    let s := judgedNow (s.setVane { s.vane with smbAt := some s.clock }) p
    let s := if s.pwr.lull = 3 ∧ s.pwr.wakeSmb then beginWake { s with pwr := { s.pwr with wake := some .smbus } } else s
    let s := { s with cmd := { s.cmd with ops := s.cmd.ops ++ [⟨p, .running⟩] } }
    if pPtr p then done (finish p (refuse s St.BAD_POINTER))
    else match pOpcode p with
      | 0x0902 => execLogRead p none s
      | 0x0904 => execSensorRead p s
      | 0x0907 => execFwStatus p s
      | 0x0003 => execParamGet p (.words []) none s
      | 0x0002 => execIdentify p s
      | _ => done (finish p (refuse s St.BAD_OPCODE))

end Sys2Proof.Machine
end

