-- ==== Sys2Proof/Machine/Abort.lean ====
section
/-!
DEFINITION. ABORT (R336): sweep engines, sequencers, and one operation in flight, by the abort rule of its own chapter.
-/
namespace Sys2Proof.Machine

/-- The operation that ABORT names: its source and its TAG; none where word 4 [31] is 0. -/
def abortTarget (p : Pkt) : Option (Src × Nat) :=
  let w := pw p 4
  if !bit w 31 then none
  else some (if bit w 30 then .mbx else .sq (fld w 12 6), fld w 0 12)

/-- A LOOP_TUNE ends without a profile (R46, R336). -/
def tuneAborted (s : State) (src : Src) (tag : Nat) : Option State :=
  ((List.range 132).find? fun c => ((s.ch c).tune.map fun t => t.src == src && t.tag == tag) = some true).map fun c =>
    (s.setCh c { s.ch c with tune := none }).complete src tag St.ABORTED []

/-- An upload ends short (R128). -/
def uploadAborted (s : State) (src : Src) (tag : Nat) : Option State :=
  (s.uploads.find? fun u => u.src == src && u.tag == tag).map fun u => uploadFails s u 0x02 St.ABORTED 0

/-- An STM_STOP frees what is left (R394, R410). -/
def stopAborted (s : State) (src : Src) (tag : Nat) : Option State :=
  ((List.range 32).find? fun n => ((s.stream n).stop.map fun o => o.src == src && o.tag == tag) = some true).map fun n =>
    let s := if ((s.stream n).stop.map StopOp.due).getD false then unbecalm (closeBlock s n 7) n else s
    endStop s n St.ABORTED

/-- A CAL_SELF ends with nothing applied (R446). -/
def selfAborted (s : State) (src : Src) (tag : Nat) : Option State :=
  if s.cal.selfs.any fun o => o.src == src && o.tag == tag then
    some ({ s with cal := { s.cal with selfs := s.cal.selfs.filter fun o => !(o.src == src && o.tag == tag) } }.complete
      src tag St.ABORTED [])
  else none

/-- An activation that has not swapped ends with reason INTERRUPTED (R509). -/
def activationAborted (s : State) (src : Src) (tag : Nat) : Option State :=
  match s.vane.act with
  | some a => if a.cmd = some (src, tag) ∧ beforeSwap a then some (activationFails s a 5 St.ABORTED) else none
  | none => none

/-- A LOOPBACK_RUN ends, what it changed stands as before it (R542). -/
def runAborted (s : State) (src : Src) (tag : Nat) : Option State :=
  (s.tst.runs.find? fun r => r.src == src && r.tag == tag).map (endRun St.ABORTED s)

/-- An operation that has not been dispatched completes with nothing applied (R336). -/
def waitingAborted (s : State) (src : Src) (tag : Nat) : Option State :=
  let mine := fun (o : Op) => o.pkt.src == src && pTag o.pkt == tag && o.stage == .waiting
  if s.cmd.ops.any mine then
    let ops := s.cmd.ops.map fun o => if mine o then { o with stage := .released } else o
    some ({ s with cmd := { s.cmd with ops := ops } }.complete src tag St.ABORTED [])
  else none

/-- An operation ends by ABORT; none where it runs to its own completion or is not in flight (R336). -/
def abortOp (s : State) (src : Src) (tag : Nat) : Option State :=
  waitingAborted s src tag <|> tuneAborted s src tag <|> uploadAborted s src tag <|> stopAborted s src tag <|>
  selfAborted s src tag <|> activationAborted s src tag <|> runAborted s src tag

/-- Whether an engine or a sequencer that ABORT selects lies in a stopped island (R22, log 57). -/
def abortStopped (s : State) (p : Pkt) : Bool :=
  ((maskBits 17 (pw p 2)).any fun e => stopped s (engineIsland e)) || (maskBits 2 (pw p 3)).any fun d => stopped s (.seq d)

/-- ABORT (R22, R336, R346): result word 2 says whether the operation was found in flight, and whether it was aborted. -/
def execAbort (p : Pkt) (s : State) : Answer :=
  runCmd s p 0x0203 { used := [(2, 0x1FFFF), (3, 3), (4, 0xC003FFFF)] } <|
   if abortStopped s p then refuse s St.ISLAND_STOPPED
   else
    let s := (maskBits 17 (pw p 2)).foldl (fun s e => bringForward (abortEngine s e) e) s
    let s := (maskBits 2 (pw p 3)).foldl (parkIfBusy 4) s
    match abortTarget p with
    | none => ok s [0]
    | some (src, tag) =>
      match abortOp s src tag with
      | some t => ok t [3]
      | none => ok s [b2n (s.cmd.ops.any fun o => o.pkt.src == src && pTag o.pkt == tag && !opDone s o)]

end Sys2Proof.Machine
end

