-- ==== Sys2Proof/Machine/Dispatch.lean ====
section
/-!
DEFINITION. Which meaning each command has: one arm per constructor, one direct call per arm.
-/
namespace Sys2Proof.Machine
open Sys2Proof

def exec (i : Instr) (s : State) : Host.Outcome State Fault Refusal :=
  match i with
  | .powerOnReset vin => Sys2Proof.Machine.execPowerOnReset vin s
  | .holdupBusCharged => Sys2Proof.Machine.execHoldupBusCharged s
  | .bootComplete => Sys2Proof.Machine.execBootComplete s
  | .nreset => Sys2Proof.Machine.execNreset s
  | .nresetRelease vin => Sys2Proof.Machine.execNresetRelease vin s
  | .softReset why => Sys2Proof.Machine.execSoftReset why s
  | .powerFailDetect vin => Sys2Proof.Machine.execPowerFailDetect vin s
  | .inputUvloFall vin => Sys2Proof.Machine.execInputUvloFall vin s
  | .inputOvlo vin => Sys2Proof.Machine.execInputOvlo vin s
  | .externalPfail => Sys2Proof.Machine.execExternalPfail s
  | .shedComplete => Sys2Proof.Machine.execShedComplete s
  | .shedRecovery vin => Sys2Proof.Machine.execShedRecovery vin s
  | .holdupSpent => Sys2Proof.Machine.execHoldupSpent s
  | .holdupTest => Sys2Proof.Machine.execHoldupTest s
  | .holdupTestMeasured us => Sys2Proof.Machine.execHoldupTestMeasured us s
  | .heartbeatRound => Sys2Proof.Machine.execHeartbeatRound s
  | .heartbeatTimeout returned => Sys2Proof.Machine.execHeartbeatTimeout returned s
  | .lullEnter p => Sys2Proof.Machine.execLullEnter p s
  | .lullEntryDone => Sys2Proof.Machine.execLullEntryDone s
  | .lullL2Timeout => Sys2Proof.Machine.execLullL2Timeout s
  | .lullWakeSource w => Sys2Proof.Machine.execLullWakeSource w s
  | .wakeComplete => Sys2Proof.Machine.execWakeComplete s
  | .loopCycle readings => Sys2Proof.Machine.execLoopCycle readings s
  | .windowCrossing ch quantity upper => Sys2Proof.Machine.execWindowCrossing ch quantity upper s
  | .clampTimeout ch => Sys2Proof.Machine.execClampTimeout ch s
  | .limitTimeout ch => Sys2Proof.Machine.execLimitTimeout ch s
  | .soaTimeout ch row => Sys2Proof.Machine.execSoaTimeout ch row s
  | .senseLoss ch => Sys2Proof.Machine.execSenseLoss ch s
  | .guardOvl ch => Sys2Proof.Machine.execGuardOvl ch s
  | .railFault group => Sys2Proof.Machine.execRailFault group s
  | .outReqWrite ch value => Sys2Proof.Machine.execOutReqWrite ch value s
  | .setpointWrite ch value => Sys2Proof.Machine.execSetpointWrite ch value s
  | .irangeWrite ch value => Sys2Proof.Machine.execIrangeWrite ch value s
  | .vrangeWrite ch value => Sys2Proof.Machine.execVrangeWrite ch value s
  | .standbyReached ch => Sys2Proof.Machine.execStandbyReached ch s
  | .outputRampDone ch => Sys2Proof.Machine.execOutputRampDone ch s
  | .relayClosureVerified ch => Sys2Proof.Machine.execRelayClosureVerified ch s
  | .relayVerifyTimeout ch => Sys2Proof.Machine.execRelayVerifyTimeout ch s
  | .ssrOpenDelay ch => Sys2Proof.Machine.execSsrOpenDelay ch s
  | .rangeUpChange ch => Sys2Proof.Machine.execRangeUpChange ch s
  | .rangeDownChange ch => Sys2Proof.Machine.execRangeDownChange ch s
  | .settleWindowEnd ch => Sys2Proof.Machine.execSettleWindowEnd ch s
  | .railTargetReached group => Sys2Proof.Machine.execRailTargetReached group s
  | .loopTune p => Sys2Proof.Machine.execLoopTune p s
  | .loopTuneDone ch solved => Sys2Proof.Machine.execLoopTuneDone ch solved s
  | .loopPreset p => Sys2Proof.Machine.execLoopPreset p s
  | .rearm p => Sys2Proof.Machine.execRearm p s
  | .clearCounts p => Sys2Proof.Machine.execClearCounts p s
  | .sampleTimerInstant group => Sys2Proof.Machine.execSampleTimerInstant group s
  | .sampleTriggerPulse group => Sys2Proof.Machine.execSampleTriggerPulse group s
  | .conversionComplete group codes => Sys2Proof.Machine.execConversionComplete group codes s
  | .convFault ch => Sys2Proof.Machine.execConvFault ch s
  | .converterWakeStart group => Sys2Proof.Machine.execConverterWakeStart group s
  | .converterWakeComplete group => Sys2Proof.Machine.execConverterWakeComplete group s
  | .autoZeroStart group ch => Sys2Proof.Machine.execAutoZeroStart group ch s
  | .autoZeroComplete ch volts amps pair ok => Sys2Proof.Machine.execAutoZeroComplete ch volts amps pair ok s
  | .trigSrcWrite group value => Sys2Proof.Machine.execTrigSrcWrite group value s
  | .pwrModeWrite group value => Sys2Proof.Machine.execPwrModeWrite group value s
  | .timerPeriodWrite group phase value => Sys2Proof.Machine.execTimerPeriodWrite group phase value s
  | .tdacMaskWrite group value => Sys2Proof.Machine.execTdacMaskWrite group value s
  | .sweUpload p => Sys2Proof.Machine.execSweUpload p s
  | .sweUploadDone src tag got fault => Sys2Proof.Machine.execSweUploadDone src tag got fault s
  | .sweFree p => Sys2Proof.Machine.execSweFree p s
  | .sweLoad p => Sys2Proof.Machine.execSweLoad p s
  | .sweStart p => Sys2Proof.Machine.execSweStart p s
  | .sweArm p => Sys2Proof.Machine.execSweArm p s
  | .sweResume p => Sys2Proof.Machine.execSweResume p s
  | .sweAbort p => Sys2Proof.Machine.execSweAbort p s
  | .sweRelease p => Sys2Proof.Machine.execSweRelease p s
  | .sweSignal p => Sys2Proof.Machine.execSweSignal p s
  | .sweEvStart engine => Sys2Proof.Machine.execSweEvStart engine s
  | .sweEvNext engine => Sys2Proof.Machine.execSweEvNext engine s
  | .sweEvHold engine => Sys2Proof.Machine.execSweEvHold engine s
  | .sweEvAbort engine => Sys2Proof.Machine.execSweEvAbort engine s
  | .sweWaitRelease engine => Sys2Proof.Machine.execSweWaitRelease engine s
  | .sweStartAt engine slot => Sys2Proof.Machine.execSweStartAt engine slot s
  | .sweWaitTimeout engine => Sys2Proof.Machine.execSweWaitTimeout engine s
  | .pointEnd engine => Sys2Proof.Machine.execPointEnd engine s
  | .pointApply engine => Sys2Proof.Machine.execPointApply engine s
  | .pulseEdgeStart engine => Sys2Proof.Machine.execPulseEdgeStart engine s
  | .pulseEdgeEnd engine => Sys2Proof.Machine.execPulseEdgeEnd engine s
  | .swePreemptCut engine => Sys2Proof.Machine.execSwePreemptCut engine s
  | .sweepMemoryScrub corrected bad => Sys2Proof.Machine.execSweepMemoryScrub corrected bad s
  | .hvRampEnd ch => Sys2Proof.Machine.execHvRampEnd ch s
  | .hvBoostStarted => Sys2Proof.Machine.execHvBoostStarted s
  | .hvBoostStop => Sys2Proof.Machine.execHvBoostStop s
  | .hvBoostFault => Sys2Proof.Machine.execHvBoostFault s
  | .hvHwIlimit ch => Sys2Proof.Machine.execHvHwIlimit ch s
  | .interlockOpen => Sys2Proof.Machine.execInterlockOpen s
  | .interlockClosed => Sys2Proof.Machine.execInterlockClosed s
  | .hvDischargeDone ch past => Sys2Proof.Machine.execHvDischargeDone ch past s
  | .dischargeSlow ch => Sys2Proof.Machine.execDischargeSlow ch s
  | .drvOvl pin => Sys2Proof.Machine.execDrvOvl pin s
  | .pinOvervolt pin => Sys2Proof.Machine.execPinOvervolt pin s
  | .pmuEnWrite pin value => Sys2Proof.Machine.execPmuEnWrite pin value s
  | .adcGo chip => Sys2Proof.Machine.execAdcGo chip s
  | .adcEvRequest chip => Sys2Proof.Machine.execAdcEvRequest chip s
  | .adcSample chip lim => Sys2Proof.Machine.execAdcSample chip lim s
  | .adcResult chip code => Sys2Proof.Machine.execAdcResult chip code s
  | .adcFault chip => Sys2Proof.Machine.execAdcFault chip s
  | .comparatorInputCrossing cmp above => Sys2Proof.Machine.execComparatorInputCrossing cmp above s
  | .comparatorFilterAccept cmp edges => Sys2Proof.Machine.execComparatorFilterAccept cmp edges s
  | .comparatorModeChangeDone cmp => Sys2Proof.Machine.execComparatorModeChangeDone cmp s
  | .seqVecLoad p d => Sys2Proof.Machine.execSeqVecLoad p d s
  | .seqSegWrite p d => Sys2Proof.Machine.execSeqSegWrite p d s
  | .seqMapWrite p => Sys2Proof.Machine.execSeqMapWrite p s
  | .seqParkWrite p => Sys2Proof.Machine.execSeqParkWrite p s
  | .seqPinLoad p => Sys2Proof.Machine.execSeqPinLoad p s
  | .tsWrite p d => Sys2Proof.Machine.execTsWrite p d s
  | .tsCommit p => Sys2Proof.Machine.execTsCommit p s
  | .tsCommitBoundary dom => Sys2Proof.Machine.execTsCommitBoundary dom s
  | .tsRead p wr => Sys2Proof.Machine.execTsRead p wr s
  | .seqLoad p => Sys2Proof.Machine.execSeqLoad p s
  | .seqStart p => Sys2Proof.Machine.execSeqStart p s
  | .seqArm p => Sys2Proof.Machine.execSeqArm p s
  | .seqStop p => Sys2Proof.Machine.execSeqStop p s
  | .seqJump p => Sys2Proof.Machine.execSeqJump p s
  | .seqResume p => Sys2Proof.Machine.execSeqResume p s
  | .seqAbort p => Sys2Proof.Machine.execSeqAbort p s
  | .seqIdle p => Sys2Proof.Machine.execSeqIdle p s
  | .seqRelease p => Sys2Proof.Machine.execSeqRelease p s
  | .seqClearFails p => Sys2Proof.Machine.execSeqClearFails p s
  | .seqCapRead p wr => Sys2Proof.Machine.execSeqCapRead p wr s
  | .primingComplete primed => Sys2Proof.Machine.execPrimingComplete primed s
  | .vectorStart dom edge window => Sys2Proof.Machine.execVectorStart dom edge window s
  | .granuleFetchDone dom jump good => Sys2Proof.Machine.execGranuleFetchDone dom jump good s
  | .seqEvStart dom => Sys2Proof.Machine.execSeqEvStart dom s
  | .seqEvStop dom => Sys2Proof.Machine.execSeqEvStop dom s
  | .seqJevPulse dom => Sys2Proof.Machine.execSeqJevPulse dom s
  | .seqStartAt dom slot => Sys2Proof.Machine.execSeqStartAt dom slot s
  | .refLoss => Sys2Proof.Machine.execRefLoss s
  | .lockLoss err => Sys2Proof.Machine.execLockLoss err s
  | .refQualElapsed => Sys2Proof.Machine.execRefQualElapsed s
  | .bandSearchDone band => Sys2Proof.Machine.execBandSearchDone band s
  | .lockDeclared err => Sys2Proof.Machine.execLockDeclared err s
  | .lockTimeout => Sys2Proof.Machine.execLockTimeout s
  | .coastBudgetExpiry => Sys2Proof.Machine.execCoastBudgetExpiry s
  | .holdDacTransfer => Sys2Proof.Machine.execHoldDacTransfer s
  | .freqGuardSuppress => Sys2Proof.Machine.execFreqGuardSuppress s
  | .tbCommit p => Sys2Proof.Machine.execTbCommit p s
  | .tbRelock p => Sys2Proof.Machine.execTbRelock p s
  | .tbPhaseStep p => Sys2Proof.Machine.execTbPhaseStep p s
  | .phaseStepApply => Sys2Proof.Machine.execPhaseStepApply s
  | .tbTimeSet p => Sys2Proof.Machine.execTbTimeSet p s
  | .eventChannelPulse ch at_ => Sys2Proof.Machine.execEventChannelPulse ch at_ s
  | .loopMonitorWindow => Sys2Proof.Machine.execLoopMonitorWindow s
  | .tick gen at_ => Sys2Proof.Machine.execTick gen at_ s
  | .trigInputEdge trig rising => Sys2Proof.Machine.execTrigInputEdge trig rising s
  | .eddyOutputEdge cell => Sys2Proof.Machine.execEddyOutputEdge cell s
  | .eddyStretchEnd cell input => Sys2Proof.Machine.execEddyStretchEnd cell input s
  | .sevRelease sev => Sys2Proof.Machine.execSevRelease sev s
  | .evfEchoPulse => Sys2Proof.Machine.execEvfEchoPulse s
  | .fabricArm p => Sys2Proof.Machine.execFabricArm p s
  | .evfTestEnter p => Sys2Proof.Machine.execEvfTestEnter p s
  | .evfTestExit p => Sys2Proof.Machine.execEvfTestExit p s
  | .eventFire p => Sys2Proof.Machine.execEventFire p s
  | .evfClear p => Sys2Proof.Machine.execEvfClear p s
  | .cuRead p wr => Sys2Proof.Machine.execCuRead p wr s
  | .sqTailDoorbell q value => Sys2Proof.Machine.execSqTailDoorbell q value s
  | .cqHeadDoorbell q value => Sys2Proof.Machine.execCqHeadDoorbell q value s
  | .sqEnableWrite q value => Sys2Proof.Machine.execSqEnableWrite q value s
  | .cqEnableWrite q value => Sys2Proof.Machine.execCqEnableWrite q value s
  | .packetFetch => Sys2Proof.Machine.execPacketFetch s
  | .packetArrive q packets fault => Sys2Proof.Machine.execPacketArrive q packets fault s
  | .commandDispatch => Sys2Proof.Machine.execCommandDispatch s
  | .completionPost q fault => Sys2Proof.Machine.execCompletionPost q fault s
  | .cqInterruptTimer q => Sys2Proof.Machine.execCqInterruptTimer q s
  | .mbxGo => Sys2Proof.Machine.execMbxGo s
  | .nop p => Sys2Proof.Machine.execNop p s
  | .identify p => Sys2Proof.Machine.execIdentify p s
  | .paramGet p d wr => Sys2Proof.Machine.execParamGet p d wr s
  | .paramSet p d => Sys2Proof.Machine.execParamSet p d s
  | .setNow p => Sys2Proof.Machine.execSetNow p s
  | .trigger p => Sys2Proof.Machine.execTrigger p s
  | .abort p => Sys2Proof.Machine.execAbort p s
  | .statusRead p => Sys2Proof.Machine.execStatusRead p s
  | .nowReserve p => Sys2Proof.Machine.execNowReserve p s
  | .linkUp speed width => Sys2Proof.Machine.execLinkUp speed width s
  | .linkDown => Sys2Proof.Machine.execLinkDown s
  | .configRequest req => Sys2Proof.Machine.execConfigRequest req s
  | .registerWrite offset size value => Sys2Proof.Machine.execRegisterWrite offset size value s
  | .poisonedWrite bar offset => Sys2Proof.Machine.execPoisonedWrite bar offset s
  | .bar2Read offset len media => Sys2Proof.Machine.execBar2Read offset len media s
  | .bar2Write offset bytes => Sys2Proof.Machine.execBar2Write offset bytes s
  | .msixUnmask vector => Sys2Proof.Machine.execMsixUnmask vector s
  | .hostReadError unit fault => Sys2Proof.Machine.execHostReadError unit fault s
  | .powerStateWrite d3 => Sys2Proof.Machine.execPowerStateWrite d3 s
  | .pmeTurnOff => Sys2Proof.Machine.execPmeTurnOff s
  | .atsInvalidation ctx addr size => Sys2Proof.Machine.execAtsInvalidation ctx addr size s
  | .translationServiceDisable svc => Sys2Proof.Machine.execTranslationServiceDisable svc s
  | .priResponse ctx success => Sys2Proof.Machine.execPriResponse ctx success s
  | .atsTranslationCompletion ctx va res => Sys2Proof.Machine.execAtsTranslationCompletion ctx va res s
  | .walkReadCompletion ctx entry => Sys2Proof.Machine.execWalkReadCompletion ctx entry s
  | .nearLoopbackStart => Sys2Proof.Machine.execNearLoopbackStart s
  | .nearLoopbackEnd lanes errors => Sys2Proof.Machine.execNearLoopbackEnd lanes errors s
  | .farLoopbackEntry => Sys2Proof.Machine.execFarLoopbackEntry s
  | .stmConfig p => Sys2Proof.Machine.execStmConfig p s
  | .stmStart p => Sys2Proof.Machine.execStmStart p s
  | .stmStop p => Sys2Proof.Machine.execStmStop p s
  | .stmFlush p => Sys2Proof.Machine.execStmFlush p s
  | .stmResolve p => Sys2Proof.Machine.execStmResolve p s
  | .xltInvalidate p => Sys2Proof.Machine.execXltInvalidate p s
  | .streamRecordArrive group => Sys2Proof.Machine.execStreamRecordArrive group s
  | .blockAgeExpiry st => Sys2Proof.Machine.execBlockAgeExpiry st s
  | .dmaUnitIssue media => Sys2Proof.Machine.execDmaUnitIssue media s
  | .rdIdxDoorbell st value => Sys2Proof.Machine.execRdIdxDoorbell st value s
  | .fwdRdIdxPoll st value => Sys2Proof.Machine.execFwdRdIdxPoll st value s
  | .portEnWrite port value => Sys2Proof.Machine.execPortEnWrite port value s
  | .portSignalDetect port => Sys2Proof.Machine.execPortSignalDetect port s
  | .portTrainingDone port lanes delay peer same => Sys2Proof.Machine.execPortTrainingDone port lanes delay peer same s
  | .portTrainingFail port => Sys2Proof.Machine.execPortTrainingFail port s
  | .portTrainingRetry port => Sys2Proof.Machine.execPortTrainingRetry port s
  | .portLinkLoss port => Sys2Proof.Machine.execPortLinkLoss port s
  | .sevFrameRx port f => Sys2Proof.Machine.execSevFrameRx port f s
  | .timeFrameRx port f => Sys2Proof.Machine.execTimeFrameRx port f s
  | .controlFrameRx port f => Sys2Proof.Machine.execControlFrameRx port f s
  | .bulkFrameRx port f => Sys2Proof.Machine.execBulkFrameRx port f s
  | .timeExchange sent freq good => Sys2Proof.Machine.execTimeExchange sent freq good s
  | .routeRepairDone g => Sys2Proof.Machine.execRouteRepairDone g s
  | .generationTimeout => Sys2Proof.Machine.execGenerationTimeout s
  | .meshEnumerate p => Sys2Proof.Machine.execMeshEnumerate p s
  | .meshEnumerateDone g => Sys2Proof.Machine.execMeshEnumerateDone g s
  | .meshRouteRead p wr => Sys2Proof.Machine.execMeshRouteRead p wr s
  | .meshForward p d => Sys2Proof.Machine.execMeshForward p d s
  | .meshPortCtl p => Sys2Proof.Machine.execMeshPortCtl p s
  | .meshLoopbackEnd port lanes errors => Sys2Proof.Machine.execMeshLoopbackEnd port lanes errors s
  | .meshTimeCtl p => Sys2Proof.Machine.execMeshTimeCtl p s
  | .calSelf p => Sys2Proof.Machine.execCalSelf p s
  | .calSelfDone src tag found => Sys2Proof.Machine.execCalSelfDone src tag found s
  | .calSysZero p => Sys2Proof.Machine.execCalSysZero p s
  | .calSysFull p => Sys2Proof.Machine.execCalSysFull p s
  | .calSysInputsTaken mean => Sys2Proof.Machine.execCalSysInputsTaken mean s
  | .calSysTimeout => Sys2Proof.Machine.execCalSysTimeout s
  | .calCertRead p wr => Sys2Proof.Machine.execCalCertRead p wr s
  | .calCertLoad p => Sys2Proof.Machine.execCalCertLoad p s
  | .calSave p wr => Sys2Proof.Machine.execCalSave p wr s
  | .calRestore p d => Sys2Proof.Machine.execCalRestore p d s
  | .coefRampStep => Sys2Proof.Machine.execCoefRampStep s
  | .deskewStep dom => Sys2Proof.Machine.execDeskewStep dom s
  | .refTrack ratio => Sys2Proof.Machine.execRefTrack ratio s
  | .statusW1c blk inst mask again => Sys2Proof.Machine.execStatusW1c blk inst mask again s
  | .statusClrHist blk inst again => Sys2Proof.Machine.execStatusClrHist blk inst again s
  | .reactionWrite blk inst value => Sys2Proof.Machine.execReactionWrite blk inst value s
  | .injectGo blk inst value => Sys2Proof.Machine.execInjectGo blk inst value s
  | .injectRepeat blk inst => Sys2Proof.Machine.execInjectRepeat blk inst s
  | .dramScrub corrected bad late progress => Sys2Proof.Machine.execDramScrub corrected bad late progress s
  | .sramScrub corrected bad late => Sys2Proof.Machine.execSramScrub corrected bad late s
  | .shadowCompare mismatches => Sys2Proof.Machine.execShadowCompare mismatches s
  | .telemetryInstant => Sys2Proof.Machine.execTelemetryInstant s
  | .sensorSample readings => Sys2Proof.Machine.execSensorSample readings s
  | .overtempShedTimer => Sys2Proof.Machine.execOvertempShedTimer s
  | .tcxoCheck good => Sys2Proof.Machine.execTcxoCheck good s
  | .vaneWatchdog => Sys2Proof.Machine.execVaneWatchdog s
  | .mctpControlMessage m => Sys2Proof.Machine.execMctpControlMessage m s
  | .pldmMessage m => Sys2Proof.Machine.execPldmMessage m s
  | .spdmMessage m => Sys2Proof.Machine.execSpdmMessage m s
  | .vendorDefinedMessage vendor p => Sys2Proof.Machine.execVendorDefinedMessage vendor p s
  | .logRecordArrive => Sys2Proof.Machine.execLogRecordArrive s
  | .logFlush fails => Sys2Proof.Machine.execLogFlush fails s
  | .logRead p wr => Sys2Proof.Machine.execLogRead p wr s
  | .logClear p => Sys2Proof.Machine.execLogClear p s
  | .sensorRead p => Sys2Proof.Machine.execSensorRead p s
  | .fwStage p d => Sys2Proof.Machine.execFwStage p d s
  | .fwStageDone good => Sys2Proof.Machine.execFwStageDone good s
  | .fwActivate p => Sys2Proof.Machine.execFwActivate p s
  | .fwActDrained => Sys2Proof.Machine.execFwActDrained s
  | .fwActWaitExpiry => Sys2Proof.Machine.execFwActWaitExpiry s
  | .fwActPauseStart => Sys2Proof.Machine.execFwActPauseStart s
  | .fwSwap => Sys2Proof.Machine.execFwSwap s
  | .fwActComplete => Sys2Proof.Machine.execFwActComplete s
  | .microcodeBankSwitch => Sys2Proof.Machine.execMicrocodeBankSwitch s
  | .vaneFwRestart => Sys2Proof.Machine.execVaneFwRestart s
  | .fwStatus p => Sys2Proof.Machine.execFwStatus p s
  | .lcTransition p d => Sys2Proof.Machine.execLcTransition p d s
  | .lcChallenge p => Sys2Proof.Machine.execLcChallenge p s
  | .lcStatus p => Sys2Proof.Machine.execLcStatus p s
  | .nonceExpiry => Sys2Proof.Machine.execNonceExpiry s
  | .erasureDone => Sys2Proof.Machine.execErasureDone s
  | .tapInstruction load => Sys2Proof.Machine.execTapInstruction load s
  | .loopbackSet p => Sys2Proof.Machine.execLoopbackSet p s
  | .loopbackRun p => Sys2Proof.Machine.execLoopbackRun p s
  | .selfTest p => Sys2Proof.Machine.execSelfTest p s
  | .refReturn => Sys2Proof.Machine.execRefReturn s
  | .perstRelease => Sys2Proof.Machine.execPerstRelease s
  | .controllerSuppliesUp => Sys2Proof.Machine.execControllerSuppliesUp s
  | .vaneUp => Sys2Proof.Machine.execVaneUp s
  | .flrComplete => Sys2Proof.Machine.execFlrComplete s
  | .pcieErrorDetected corr => Sys2Proof.Machine.execPcieErrorDetected corr s
  | .hostReadCompletion unit data => Sys2Proof.Machine.execHostReadCompletion unit data s
  | .bar0Read offset size => Sys2Proof.Machine.execBar0Read offset size s
  | .fwActInitTimeout => Sys2Proof.Machine.execFwActInitTimeout s
  | .loopbackRunDone src tag captured means echoes looped => Sys2Proof.Machine.execLoopbackRunDone src tag captured means echoes looped s
  | .selfTestDone failed skipped => Sys2Proof.Machine.execSelfTestDone failed skipped s
  | .hvDischargePeriodEnd ch => Sys2Proof.Machine.execHvDischargePeriodEnd ch s
  | .pmuSwitchDone pin => Sys2Proof.Machine.execPmuSwitchDone pin s

end Sys2Proof.Machine
end

