-- ==== Sys2Proof/Safety.lean ====
section
/-!
DEFINITION. What counts as a safe run: every step answers a next state. A fault of the hardware is state of the block (a
cause in a status window), so a run is unsafe only where a step faults or refuses. And what holds of every state a run
can reach: the canonical form of its stores.
-/
namespace Sys2Proof

/-- The canonical form of every store of the block: parameters and what they held before waiting writes, status windows, channels, groups, averagers, regions, sweep memory,
sweep engines, streams, pins, converters, comparators, sequencers. -/
structure Machine.State.Canonical (s : Machine.State) : Prop where
  par : Machine.Bank.wf Machine.paramReset s.par = true
  old : Machine.Bank.wf (fun _ => none) s.old = true
  wins : Machine.Bank.wf (fun _ => {}) s.wins = true
  fch : Machine.Bank.wf Machine.Fch.init s.fch = true
  grp : Machine.Bank.wf Machine.Grp.init s.grp = true
  msr : Machine.Bank.wf (fun _ => {}) s.msr = true
  regions : Machine.Bank.wf (fun _ => none) s.regions = true
  sweMem : Machine.Bank.wf (fun _ => Machine.Quad.zero) s.sweMem = true
  swe : Machine.Bank.wf (fun _ => {}) s.swe = true
  stm : Machine.Bank.wf (fun _ => {}) s.stm = true
  pins : Machine.Bank.wf (fun _ => {}) s.pins = true
  adc : Machine.Bank.wf (fun _ => {}) s.adc = true
  cmp : Machine.Bank.wf (fun _ => {}) s.cmp = true
  seq : Machine.Bank.wf (fun _ => {}) s.seq = true

/-- An outcome is a next state. -/
def Outcome.goesOn (o : Host.Outcome Machine.State Machine.Fault Machine.Refusal) : Prop := ∃ t, o = .next t

/-- Every one of the next `n` steps answers a next state. -/
def safeFor : Nat → Machine.State → Prop
  | 0, _ => True
  | n + 1, s => ∃ t, Machine.step s = .next t ∧ safeFor n t

end Sys2Proof
end

