-- ==== Sys2Proof/Certificates/Slice0/Obligations.lean ====
section
/-!
DEFINITION. The statements about the block: what every step keeps, what each command does, and where it is refused. The names of
`Sys2Proof.Claims` are the words they are said in.
-/
namespace Sys2Proof.Claims
open Sys2Proof.Machine

/-- A command takes a state to the next state: `t`, then the consequences of the causes it set (R154, R469), none where it set
none (`settle_none`). -/
def goes (c : Instr) (s t : State) : Prop := exec c s = .next (settle t)

/-- A command answers exactly this state. -/
def moves (c : Instr) (s t : State) : Prop := exec c s = .next t

/-- A command packet `p` leaves the state `t` and completes with a status and result words (R323, R329). -/
def replies (c : Instr) (p : Pkt) (s : State) (status : Nat) (res : List Nat) (t : State) : Prop :=
  goes c s ((freeCore t p).complete p.src (pTag p) status res)

/-- A command packet `p` leaves the state `t` and completes later. -/
def waits (c : Instr) (p : Pkt) (s t : State) : Prop := goes c s (freeCore t p)

/-- The commands that packets ask for: the packet, its opcode (R342) and the form its row gives it. -/
def packetOf : Instr → Option (Pkt × Nat × Form)
  | .lullEnter p => some (p, 0x0901, {})
  | .loopTune p => some (p, 0x0101, { used := [(1, allBits), (2, 0x107)] })
  | .loopPreset p => some (p, 0x0102, { used := [(1, allBits), (2, 0x7F), (3, 0xF)] })
  | .rearm p => some (p, 0x0103, { used := [(1, allBits)] })
  | .clearCounts p => some (p, 0x0104, { used := [(1, allBits)] })
  | .sweUpload p =>
      some (p, 0x0301, { host := true, used := [(2, allBits), (3, allBits), (4, allBits), (5, 3), (6, if bit (pw p 5) 1 then
        allBits else 0)] })
  | .sweFree p => some (p, 0x0302, { used := [(2, allBits)] })
  | .sweLoad p => some (p, 0x0303, { used := [(1, allBits), (2, allBits), (3, allBits), (4, 0x3FF), (5, 7)] })
  | .sweStart p => some (p, 0x0304, { used := [(1, allBits), (2, allBits)] })
  | .sweArm p => some (p, 0x0305, { used := [(1, allBits), (2, allBits), (3, allBits), (4, allBits)] })
  | .sweResume p => some (p, 0x0306, { used := [(1, allBits), (2, allBits)] })
  | .sweAbort p => some (p, 0x0307, { used := [(1, allBits), (2, allBits)] })
  | .sweRelease p => some (p, 0x0308, { used := [(1, allBits), (2, allBits)] })
  | .sweSignal p => some (p, 0x0309, { used := [(1, allBits)] })
  | .seqVecLoad p _ =>
      some (p, 0x0401, { host := true, used := [(1, allBits), (2, allBits), (3, allBits), (4, allBits), (5, allBits)] })
  | .seqSegWrite p _ =>
      some (p, 0x0402, { host := true, used := [(1, allBits), (2, allBits), (3, allBits), (4, allBits), (5, allBits)] })
  | .seqMapWrite p =>
      some (p, 0x0403, { used := [(1, allBits), (2, allBits), (3, allBits), (4, allBits), (5, allBits), (6, allBits)] })
  | .seqParkWrite p =>
      some (p, 0x0404, { used := [(1, allBits), (2, allBits), (3, allBits), (4, allBits), (5, allBits), (6, allBits),
        (7, allBits), (8, allBits), (9, allBits), (10, allBits)] })
  | .seqPinLoad p => some (p, 0x0405, { used := [(1, allBits)] })
  | .tsWrite p _ =>
      some (p, 0x0406, { ptr := true, needPtr := true, unit := 4160, exact := true, used := [(1, allBits), (5, allBits)] })
  | .tsCommit p => some (p, 0x0407, { used := [(1, allBits), (2, allBits)] })
  | .tsRead p _ =>
      some (p, 0x0408, { host := true, used := [(1, allBits), (2, allBits), (3, allBits), (4, allBits), (5, allBits)] })
  | .seqLoad p => some (p, 0x0409, { used := [(1, allBits), (2, allBits), (3, 3)] })
  | .seqStart p => some (p, 0x040A, { used := [(1, allBits), (2, allBits)] })
  | .seqArm p => some (p, 0x040B, { used := [(1, allBits), (2, allBits), (3, allBits), (4, allBits)] })
  | .seqStop p => some (p, 0x040C, { used := [(1, allBits)] })
  | .seqJump p => some (p, 0x040D, { used := [(1, allBits)] })
  | .seqResume p => some (p, 0x040E, { used := [(1, allBits)] })
  | .seqAbort p => some (p, 0x040F, { used := [(1, allBits)] })
  | .seqIdle p => some (p, 0x0410, { used := [(1, allBits)] })
  | .seqRelease p => some (p, 0x0411, { used := [(1, allBits), (2, allBits)] })
  | .seqClearFails p => some (p, 0x0412, { used := [(1, allBits)] })
  | .seqCapRead p _ =>
      some (p, 0x0413, { host := true, used := [(1, allBits), (2, allBits), (3, allBits), (4, allBits), (5, allBits)] })
  | .tbCommit p => some (p, 0x0501, { used := [(2, 1)] })
  | .tbRelock p => some (p, 0x0502, { used := [(2, 1)] })
  | .tbPhaseStep p => some (p, 0x0503, { used := [(2, allBits)] })
  | .tbTimeSet p => some (p, 0x0504, { used := [(2, allBits), (3, allBits)] })
  | .fabricArm p => some (p, 0x0601, {})
  | .evfTestEnter p => some (p, 0x0602, {})
  | .evfTestExit p => some (p, 0x0603, {})
  | .eventFire p => some (p, 0x0604, { used := [(2, allBits), (3, allBits)] })
  | .evfClear p => some (p, 0x0605, {})
  | .cuRead p _ => some (p, 0x0606, { host := true, used := [(2, allBits), (3, allBits), (4, allBits), (5, allBits)] })
  | .nop p => some (p, 0x0001, {})
  | .identify p => some (p, 0x0002, { used := [(2, allBits)] })
  | .paramGet p _ _ =>
      some (p, 0x0003, (if pPtr p then { ptr := true, unit := 4, maxUnits := 4096, used := [(5, allBits), (6, allBits)] }
        else { used := [(1, allBits)] }))
  | .paramSet p _ =>
      some (p, 0x0004, (if pPtr p then { ptr := true, unit := 24, maxUnits := 2048 } else { used := [(1, allBits),
        (2, allBits), (3, allBits), (4, allBits), (5, allBits)] }))
  | .setNow p => some (p, 0x0201, { used := [(1, allBits), (2, allBits)] })
  | .trigger p => some (p, 0x0202, { used := [(2, 0x1FFFF), (3, 0x1FFFF), (4, 3)] })
  | .abort p => some (p, 0x0203, { used := [(2, 0x1FFFF), (3, 3), (4, 0xC003FFFF)] })
  | .statusRead p => some (p, 0x0204, { used := [(1, allBits)] })
  | .nowReserve p => some (p, 0x0205, { used := [(1, allBits), (2, allBits)] })
  | .stmConfig p =>
      some (p, 0x0701, { host := true, used := [(1, allBits), (2, allBits), (3, allBits), (4, allBits), (5, allBits),
        (6, allBits), (7, allBits)] })
  | .stmStart p => some (p, 0x0702, { used := [(1, allBits)] })
  | .stmStop p => some (p, 0x0703, { used := [(1, allBits), (2, 3)] })
  | .stmFlush p => some (p, 0x0704, { used := [(1, allBits)] })
  | .stmResolve p => some (p, 0x0705, { used := [(1, allBits)] })
  | .xltInvalidate p =>
      some (p, 0x0706, { used := [(1, allBits), (2, 1)] ++ (if bit (pw p 2) 0 then [(3, allBits), (4, allBits), (5, allBits)]
        else []) })
  | .meshEnumerate p => some (p, 0x0A01, {})
  | .meshRouteRead p _ => some (p, 0x0A02, { host := true, used := [(2, allBits), (3, allBits), (4, allBits), (5, allBits)] })
  | .meshForward p _ => some (p, 0x0A03, { ptr := true, needPtr := true, unit := 64, exact := true, used := [(5, 0x3FFF)] })
  | .meshPortCtl p => some (p, 0x0A04, { used := [(1, allBits), (2, 0x71)] })
  | .meshTimeCtl p => some (p, 0x0A05, { used := [(2, 3)] })
  | .calSelf p => some (p, 0x0801, { used := [(1, allBits)] })
  | .calSysZero p => some (p, 0x0802, { used := [(1, allBits), (2, allBits)] })
  | .calSysFull p => some (p, 0x0803, { used := [(1, allBits), (2, allBits), (3, allBits)] })
  | .calCertRead p _ => some (p, 0x0804, { host := true, used := [(2, allBits), (3, allBits), (4, allBits)] })
  | .calCertLoad p => some (p, 0x0805, {})
  | .calSave p _ => some (p, 0x0806, { host := true, used := [(2, allBits), (3, allBits), (4, allBits), (5, 1)] })
  | .calRestore p _ => some (p, 0x0807, { host := true, used := [(2, allBits), (3, allBits), (4, allBits)] })
  | .logRead p _ =>
      some (p, 0x0902, { host := true, used := [(2, allBits), (3, allBits), (4, allBits), (5, 0xFFFF), (6, allBits)] })
  | .logClear p => some (p, 0x0903, {})
  | .sensorRead p => some (p, 0x0904, { used := [(2, allBits)] })
  | .fwStage p _ => some (p, 0x0905, { host := true, used := [(2, 3), (3, allBits), (4, allBits), (5, allBits)] })
  | .fwActivate p => some (p, 0x0906, { used := [(2, 0x103)] })
  | .fwStatus p => some (p, 0x0907, { used := [(2, 3)] })
  | .lcTransition p _ => some (p, 0x0C01, { ptr := true, needPtr := true, unit := 224, exact := true })
  | .lcChallenge p => some (p, 0x0C02, {})
  | .lcStatus p => some (p, 0x0C03, {})
  | .loopbackSet p => some (p, 0x0B01, (loopForm p))
  | .loopbackRun p => some (p, 0x0B02, (loopForm p))
  | .selfTest p => some (p, 0x0B03, { used := [(2, 0x7F)] })
  | _ => none

/-- The status with which the checks common to all packets refuse a command, none where they pass it. -/
def refusal (c : Instr) (s : State) : Option Nat :=
  match packetOf c with
  | some (p, code, f) => gate s p code f
  | none => none

/-- A packet's row acts and the common checks pass it: its packet is a dispatched operation of that opcode (R320, R324) with no unit of
a read still to be issued (R322), no check refuses it, and no reserved bit is set. -/
def accepted (c : Instr) (s : State) : Prop :=
  match packetOf c with
  | some (p, code, f) => dispatched s p code = true ∧ stillReads s p = false ∧ gate s p code f = none ∧ reservedSet p f = false
  | none => True

/-- Host memory has given a packet's command the words it reads: every unit of its read has been issued (R322, R396). -/
def hostGives (s : State) (p : Pkt) (d : HostData) (ws : List Nat) : Prop :=
  d = .words ws ∧ ∃ x, pktXfer s p = some x ∧ x.left = 0

/-- A packet's command writes words at a host address (R396): the DMA engine has its units to issue, and its end is to come. -/
def writing (s : State) (p : Pkt) (addr : Nat) (ws : List Nat) (fin : XferEnd) : State :=
  startXfer s { who := .cmd p.src (pTag p), ctx := pktCtx p, prio := pPrio p, addr := addr, left := 4 * ws.length, write := true,
                words := ws, fin := fin }

/-- The rows that leave alone what reactions, records and completions leave alone: those whose own effect
lies in channels, groups, engines, pins, sequencers, streams, windows, queues and the fabric. -/
def sparing (c : Instr) : Bool :=
  match c with
  | .windowCrossing _ _ _ | .clampTimeout _ | .limitTimeout _ | .soaTimeout _ _ | .senseLoss _ | .guardOvl _ | .railFault _
  | .outReqWrite _ _ | .setpointWrite _ _ | .irangeWrite _ _ | .vrangeWrite _ _ | .standbyReached _ | .outputRampDone _
  | .relayClosureVerified _ | .relayVerifyTimeout _ | .ssrOpenDelay _ | .rangeUpChange _ | .rangeDownChange _
  | .settleWindowEnd _ | .railTargetReached _ | .loopTune _ | .rearm _ | .clearCounts _ | .sampleTimerInstant _
  | .sampleTriggerPulse _ | .convFault _ | .converterWakeStart _ | .converterWakeComplete _ | .autoZeroStart _ _
  | .autoZeroComplete _ _ _ _ _ | .trigSrcWrite _ _ | .pwrModeWrite _ _ | .timerPeriodWrite _ _ _ | .tdacMaskWrite _ _
  | .sweStart _ | .sweArm _ | .sweResume _ | .sweAbort _ | .sweRelease _ | .sweSignal _ | .sweEvStart _ | .sweEvNext _
  | .sweEvHold _ | .sweEvAbort _ | .sweWaitRelease _ | .sweStartAt _ _ | .sweWaitTimeout _ | .pointEnd _ | .pointApply _
  | .pulseEdgeStart _ | .pulseEdgeEnd _ | .swePreemptCut _ | .hvRampEnd _ | .hvHwIlimit _ | .hvDischargeDone _ _
  | .dischargeSlow _ | .drvOvl _ | .pinOvervolt _ | .pmuEnWrite _ _ | .comparatorInputCrossing _ _
  | .comparatorFilterAccept _ _ | .comparatorModeChangeDone _ | .seqMapWrite _ | .seqParkWrite _ | .seqPinLoad _
  | .tsCommit _ | .tsCommitBoundary _ | .seqLoad _ | .seqStart _ | .seqArm _ | .seqStop _ | .seqJump _ | .seqResume _
  | .seqAbort _ | .seqIdle _ | .seqRelease _ | .seqClearFails _ | .primingComplete _ | .vectorStart _ _ _
  | .granuleFetchDone _ _ _ | .seqEvStart _ | .seqEvStop _ | .seqJevPulse _ | .seqStartAt _ _ | .tick _ _
  | .trigInputEdge _ _ | .eddyOutputEdge _ | .eddyStretchEnd _ _ | .sevRelease _ | .eventFire _ | .sqTailDoorbell _ _
  | .cqHeadDoorbell _ _ | .sqEnableWrite _ _ | .cqEnableWrite _ _ | .cqInterruptTimer _ | .nop _ | .identify _ | .setNow _
  | .statusRead _ | .nowReserve _ | .poisonedWrite _ _ | .bar2Write _ _ | .stmStop _ | .stmFlush _ | .streamRecordArrive _
  | .blockAgeExpiry _ | .rdIdxDoorbell _ _ | .fwdRdIdxPoll _ _ | .timeFrameRx _ _ | .statusClrHist _ _ _
  | .reactionWrite _ _ _ | .sensorRead _ | .fwStatus _ | .lcStatus _ | .loopbackSet _ | .selfTest _ | .selfTestDone _ _
  | .hvDischargePeriodEnd _ | .pmuSwitchDone _ | .hvBoostStarted | .hvBoostStop | .hvBoostFault | .interlockOpen
  | .interlockClosed | .loopMonitorWindow | .evfEchoPulse | .commandDispatch | .mbxGo => true
  | _ => false

/-- Neither SCRAPPED nor an erasure bars register writes of parameters (R522, R525). -/
def writable (s : State) : Prop := s.lcState ≠ 4 ∧ s.rd LC.ERASE_PENDING ≠ 1

end Sys2Proof.Claims

open Sys2Proof Sys2Proof.Machine Sys2Proof.Claims

/-- A step runs the command at the front of the queue on the rest (the block's own rule, log 1). -/
def Obligations.StepRunsFrontCommand : Prop :=
  ∀ (c : Instr) (l : List Instr) (s : State), step { s with pending := c :: l } = exec c { s with pending := l }

/-- On an empty queue the block idles: the model's choice (log 1). -/
def Obligations.EmptyQueueIdles : Prop := ∀ s : State, s.pending = [] → step s = .next s

/-- Every command answers a next state: nothing faults, nothing is refused (R2 names no behaviour that stops the block). -/
def Obligations.EveryCommandGoesOn : Prop := ∀ (c : Instr) (s : State), ∃ t, exec c s = .next t

/-- No command touches the commands that wait behind it. -/
def Obligations.NoCommandTouchesQueue : Prop :=
  ∀ (c : Instr) (s t : State), s.Canonical → exec c s = .next t → t.pending = s.pending

/-- Every step keeps every store in its canonical form: equal contents are equal data. -/
def Obligations.EveryStepKeepsCanonicalForm : Prop := ∀ s t : State, s.Canonical → step s = .next t → t.Canonical

/-- The state after reset is in canonical form. -/
def Obligations.ResetIsCanonical : Prop := State.reset.Canonical

/-- The fuse of SCRAPPED stays blown, whatever is commanded and whatever power does (R515, R525). -/
def Obligations.ScrapFuseStaysBlown : Prop :=
  ∀ s t : State, s.Canonical → s.lc.scrapFuse = true → step s = .next t → t.lc.scrapFuse = true

/-- A packet's row does nothing unless its packet is a dispatched operation of its opcode (R320, R324); a command that a common check then
refuses completes with that check's status and changes nothing else. -/
def Obligations.RefusedCommandOnlyCompletes : Prop :=
  ∀ (c : Instr) (p : Pkt) (code : Nat) (f : Form) (s : State), packetOf c = some (p, code, f) →
    (dispatched s p code = false → moves c s s) ∧
    (∀ st, dispatched s p code = true → refusal c s = some st → replies c p s st [] s)

/-- To a command checked in SCRAPPED (`lcFor`: the state it was dispatched in, R519) an opcode outside the list of R525 completes LC_DENIED, whatever else is wrong with its packet. -/
def Obligations.ScrappedDeniesOtherOpcodes : Prop :=
  ∀ (c : Instr) (p : Pkt) (code : Nat) (f : Form) (s : State),
    packetOf c = some (p, code, f) → dispatched s p code = true → lcFor s p = 4 →
    code ∉ [0x0001, 0x0002, 0x0003, 0x0204, 0x0C03, 0x0902, 0x0904, 0x0907] →
    immediateSq s p = false → replies c p s St.LC_DENIED [] s

/-- While an erasure runs, an opcode outside the list of R522 completes WRONG_STATE. -/
def Obligations.ErasureBarsOtherOpcodes : Prop :=
  ∀ (c : Instr) (p : Pkt) (code : Nat) (f : Form) (s : State),
    packetOf c = some (p, code, f) → dispatched s p code = true → lcFor s p ≠ 4 → s.rd LC.ERASE_PENDING = 1 →
    code ∉ [0x0001, 0x0002, 0x0003, 0x0C03] → immediateSq s p = false → replies c p s St.WRONG_STATE [] s

/-- On a queue of the immediate path every opcode outside the immediate ones completes IMM_ONLY (R331). -/
def Obligations.ImmediateQueueTakesImmediateOnly : Prop :=
  ∀ (c : Instr) (p : Pkt) (code : Nat) (f : Form) (s : State),
    packetOf c = some (p, code, f) → dispatched s p code = true → immediateSq s p = true →
    code ∉ [0x0201, 0x0202, 0x0203, 0x0204, 0x0604] → replies c p s St.IMM_ONLY [] s

/-- The state in which a reset of the module leaves everything before the life cycle's own power-up (R9, R560, R567): what is kept of
`s`, the rest at its reset value; staging slots are INVALID. -/
def Sys2Proof.Claims.restored (s u : State) (power : Bool) (vin : Nat) : Prop :=
  u.pending = s.pending ∧ u.old = [] ∧ u.hv = {} ∧ u.par = s.par.filter (fun e => paramKept e.1) ∧ u.wins = [] ∧
  u.cmd = {} ∧ u.evf = {} ∧ u.fch = [] ∧
  u.grp = [] ∧ u.msr = [] ∧ u.regions = [] ∧ u.sweMem = [] ∧ u.uploads = [] ∧ u.swe = [] ∧ u.cal = {} ∧ u.stm = [] ∧
  u.xlt = {} ∧ u.pins = [] ∧ u.adc = [] ∧ u.cmp = [] ∧ u.seq = [] ∧ u.tb = {} ∧ u.tst = {} ∧ u.msh = {} ∧
  u.hl = { perst := s.hl.perst } ∧ u.lc = { s.lc with nonce := none, nonceAt := 0 } ∧
  u.pwr = { vin := vin, pfailDriven := power } ∧ u.vane.perm = s.vane.perm ∧ u.vane.circ = s.vane.circ ∧
  u.vane.boot = s.vane.boot ∧ u.vane.notBooted = s.vane.notBooted ∧
  u.vane.running = (if power then s.vane.boot else s.vane.running) ∧ u.vane.up = false ∧ u.vane.why = (if power then 0 else 1)

/-- POWER_ON_RESET, NRESET_RELEASE and HOLDUP_SPENT take the module to its reset values; HOLDUP_BUS_CHARGED, BOOT_COMPLETE,
CONTROLLER_SUPPLIES_UP and VANE_UP are the steps of power-up (R560, R562, R564, R567); Vane's first steps after a
reset retry the log's MRAM (`retryMedia`, R501, the model's choice of log 234). -/
def Obligations.PowerUpRowsComplete : Prop :=
  (∀ s vin, 34000 ≤ vin → ∃ u, restored s u true vin ∧ goes (.powerOnReset vin) s (bootLc u)) ∧
  (∀ s vin, s.pwr.nresetLow = true → pwrState s = 3 →
    ∃ u, restored (s.bump HL.LINK_DOWN_COUNT) u false vin ∧ goes (.nresetRelease vin) s (bootLc u)) ∧
  (∀ s vin, s.pwr.nresetLow = true → pwrState s ≠ 3 → moves (.nresetRelease vin) s { s.setVin vin with
    pwr := { (s.setVin vin).pwr with nresetLow := false, resetOwed := decide (pwrState s = 2) } }) ∧
  (∀ s, pwrState s = 4 → ∃ u, restored s u true s.pwr.vin ∧
    moves .holdupSpent s { bootLc u with pwr := { (bootLc u).pwr with powered := false, pfailDriven := false } }) ∧
  (∀ s, s.pwr.powered = true → ∃ t, moves .holdupBusCharged s t ∧ t.rd VANE.HOLDUP_V = 58000 ∧
    t.pwr = { s.pwr with pfailDriven :=
      s.pwr.pfailDriven && (decide (2 ≤ pwrState s) && [1, 2, 3].contains (s.rdN VANE.SHED_SRC)) }) ∧
  (∀ s, s.pwr.powered = true → s.pwr.booted = false → s.vane.up = true → s.hl.supplies = true → s.tbState = 2 →
    s.pwr.toggles = true → ∃ u, goes .bootComplete s (crsEnds u) ∧ u.pwr = { s.pwr with booted := true } ∧
      pwrState u = (if pwrState s = 0 then 1 else pwrState s)) ∧
  (∀ s, s.hl.supplies = false → s.pwr.powered = true →
    moves .controllerSuppliesUp s (startLink { s with hl := { s.hl with supplies := true } })) ∧
  (∀ s, s.vane.up = false → s.pwr.powered = true → ∃ u : State, u = s.setVane { s.vane with up := true } ∧
    goes .vaneUp s (match s.vane.why with
      | 0 => tellQueueLost (tellActLost (powerRec (retryMedia u) 0 s.pwr.vin 0)) false
      | 1 => tellQueueLost (powerRec (retryMedia u) 2 0 0) false
      | 2 => tellQueueLost (vaneCause u 0x0A) true
      | _ => match (tellQueueLost u false).vane.act with
        | some a => if a.kind = 2 ∧ a.step = 6 then activated (tellQueueLost u false) a (leftVersion (tellQueueLost u false) 2)
          else tellQueueLost u false
        | none => tellQueueLost u false))

/-- A state at the start of a shed (R562, R563): PWR_STATE SHEDDING, the source, the contact, the record, the cause 0x10 and a flush of
the log due. -/
def Sys2Proof.Claims.shedStarted (s u : State) (src : Nat) : Prop :=
  pwrState u = 2 ∧ u.rdN VANE.SHED_SRC = src ∧ u.pwr.shedAt = some s.clock ∧ u.pwr.testing = false ∧
  u.pwr.resetOwed = s.pwr.resetOwed ∧ u.pwr.pfailDriven = (s.pwr.pfailDriven || decide (src ≤ 3)) ∧ u.vane.flushing = true

/-- Every precision channel that is not OFF opens its paths without a ramp (R569). -/
def Sys2Proof.Claims.dropPaths (s : State) : State :=
  (List.range 128).foldl (fun s c =>
    if s.chState c = 0 ∧ (s.ch c).motion = .still then s else settleOpen (abortTune s c) c 0) s

/-- Each source of a shed in RUN or BOOT starts one: steps 2 to 4 of R563 (`shedLoads`) follow (R561 to R563, R569). INPUT_UVLO_FALL leads
to HOLDUP, SHED_COMPLETE to SHED, SHED_RECOVERY back to RUN (R564). -/
def Obligations.ShedRowsComplete : Prop :=
  (∀ s vin, vin < 33000 → pwrState s ≤ 1 → ∃ u, shedStarted s u 1 ∧ u.pwr.vin = vin ∧
    goes (.powerFailDetect vin) s (shedLoads u)) ∧
  (∀ s vin, 80000 < vin → pwrState s ≤ 1 → ∃ u, shedStarted s u 3 ∧ u.pwr.vin = vin ∧ goes (.inputOvlo vin) s (shedLoads u)) ∧
  (∀ s, s.pwr.pfailDriven = false → s.rd VANE.PFAIL_EXT = 1 → pwrState s ≤ 1 → ∃ u, shedStarted s u 4 ∧
    goes .externalPfail s (shedLoads u)) ∧
  (∀ s, s.pwr.pfailDriven = false → s.rd VANE.PFAIL_EXT ≠ 1 → goes .externalPfail s (vaneCause s 0x13)) ∧
  (∀ s, pwrState s ≤ 1 → ∃ u, shedStarted s u 7 ∧ u.pwr.nresetLow = true ∧ goes .nreset s (shedLoads u)) ∧
  (∀ s, s.vane.up = true → 1001 ≤ (s.sensor 24).overW → pwrState s ≤ 1 → ∃ u, shedStarted s u 6 ∧
    u.pwr.barred = true ∧ goes .overtempShedTimer s (shedLoads u)) ∧
  (∀ s, s.vane.up = true → s.vane.tcxoFailed = false → pwrState s ≤ 1 → ∃ u, shedStarted s u 5 ∧
    u.pwr.barred = true ∧ u.vane.tcxoFailed = true ∧ goes (.tcxoCheck false) s (shedLoads u)) ∧
  (∀ s vin, vin < 32500 → pwrState s ≠ 4 → goes (.inputUvloFall vin) s
    (meshDown ((dropPaths (if pwrState s = 1 then beginShed (s.setVin vin) 2 else s.setVin vin)).put VANE.PWR_STATE 0 4))) ∧
  (∀ s, pwrState s = 2 → logFlushed s = true → (∀ c, c < 128 → s.chState c = 0) → s.pwr.resetOwed = false →
    goes .shedComplete s (s.put VANE.PWR_STATE 0 3)) ∧
  (∀ s, pwrState s = 2 → logFlushed s = true → (∀ c, c < 128 → s.chState c = 0) → s.pwr.resetOwed = true →
    ∃ u, restored ((s.put VANE.PWR_STATE 0 3).bump HL.LINK_DOWN_COUNT) u false s.pwr.vin ∧ goes .shedComplete s (bootLc u)) ∧
  (∀ s vin, pwrState s = 3 → s.rdN VANE.SHED_SRC ∈ [1, 3, 4] → 34000 ≤ vin → vin ≤ 78000 → s.pwr.barred = false →
    s.pwr.nresetLow = false → s.pwr.booted = true → (s.pwr.shedAt.getD 0) + 100000000 ≤ s.clock →
    ∃ u v, pwrState u = 1 ∧ u.pwr = { s.pwr with vin := vin, pfailDriven := false, shedAt := none } ∧ u.tb = s.tb ∧
      v = (if s.tb.halted then startSearch u else u) ∧
      goes (.shedRecovery vin) s (if 3 ≤ v.pwr.lull then v else pinsAfterShed v false))

/-- The hold-up test, the heartbeat and the checks of the supervisor (R23, R566). -/
def Obligations.SupervisorRowsComplete : Prop :=
  (∀ s, pwrState s = 1 → s.pwr.testAt + 3600000000000 * s.pwr.testHours ≤ s.clock → moves .holdupTest s { s with pwr :=
    { s.pwr with testing := true, testAt := s.clock, testHours := s.rdN VANE.HOLDUP_TEST_PERIOD } }) ∧
  (∀ s us, s.pwr.testing = true → ∃ u, u.rdN VANE.HOLDUP_CAP = min (us / 4) 65535 ∧ u.pwr = { s.pwr with testing := false } ∧
    goes (.holdupTestMeasured us) s (if us < 480 then vaneCause u 0x11 else u)) ∧
  (∀ s, s.vane.up = true → moves .heartbeatRound s { s with pwr := { s.pwr with round := true } }) ∧
  (∀ s back, s.pwr.round = true → s.vane.up = true → ∃ (parts : List Island) (u : State),
    parts = (if s.pwr.lull = 3 ∨ s.hl.supplies = false then [Island.vane] else clockedIslands) ∧
    u = parts.foldl (beat back) { s with pwr := { s.pwr with round := false } } ∧
    ∃ t, goes (.heartbeatTimeout back) s t ∧
      t.pwr.toggles = (parts.all (fun i => back.contains i) && !(u.wins.any fun e => e.2.fatal)) ∧
      t.pwr.alive = (if t.pwr.toggles then !u.pwr.alive else u.pwr.alive)) ∧
  (∀ s, s.vane.up = true → ∃ u, u.vane.up = false ∧ u.vane.why = 2 ∧ u.pwr.toggles = false ∧ u.pwr.round = false ∧
    goes .vaneWatchdog s u)

/-- Lull (R32, R34, R37): entry, the islands' stop, the L2 timeout, a wake, and the return to RUN. -/
def Obligations.LullRowsComplete : Prop :=
  (∀ s p n, p.src = .sq n → accepted (.lullEnter p) s → mayLull s p = true →
    ∃ u, replies (.lullEnter p) p s St.SUCCESS [] u ∧ u.pwr.lull = 1 ∧ u.pwr.lullCmd = some (p.src, pTag p) ∧
      u.pwr.wakeEv = s.rdN VANE.LULL_WAKE_EV ∧ u.pwr.wakeMon = s.rdN VANE.LULL_WAKE_MON ∧ u.hl = s.hl) ∧
  (∀ s p, (∀ n, p.src ≠ .sq n) → accepted (.lullEnter p) s → mayLull s p = true →
    ∃ u, replies (.lullEnter p) p s St.SUCCESS [] u ∧ u.pwr.lull = 2 ∧ u.hl = { s.hl with hostState := 2 }) ∧
  (∀ s, s.pwr.lull = 2 → s.hl.link = .l2 → ∃ u, u.pwr = s.pwr ∧
    (∀ g, g < 17 → (u.group g).samp = .idle ∧ (u.group g).instant = none) ∧ u.evf.cuFifo = [] ∧
    goes .lullEntryDone s (if s.pwr.wake.isSome then beginWake (powerRec (setLull u 3) 4 0 0)
      else powerRec (setLull u 3) 4 0 0)) ∧
  (∀ s, s.pwr.lull = 2 → s.hl.link ≠ .l2 → s.pwr.lullAt + 1000000000 ≤ s.clock →
    goes .lullL2Timeout s (record (leaveEntry s) 0x0F 0 0x0B)) ∧
  (∀ s w c, wakeEnabled s w = true → s.pwr.lull = 1 → s.pwr.lullCmd = some c →
    goes (.lullWakeSource w) s (leaveEntry (interruptLull s c))) ∧
  (∀ s w, wakeEnabled s w = true → s.pwr.lull = 3 →
    goes (.lullWakeSource w) s (beginWake { s with pwr := { s.pwr with wake := some w } })) ∧
  (∀ s w, wakeEnabled s w = true → s.pwr.lull = 2 → s.pwr.wake = none →
    moves (.lullWakeSource w) s { s with pwr := { s.pwr with wake := some w } }) ∧
  (∀ s, s.pwr.lull = 4 → s.tbState = 2 → s.hl.link = .up →
    let v := setLull s 0
    let w := powerRec (meshBack (if shedding v then v else pinsAfterShed v true)) 5 (wakeWords s.pwr.wake).1 (wakeWords s.pwr.wake).2
    let u := { w with pwr := { w.pwr with wake := none, lullCmd := none, wakeLow := false }
                      hl := { w.hl with hostState := 0, perstInLull := false } }
    goes .wakeComplete s (crsEnds (if s.hl.perstInLull then softReset u else u)))

/-- One loop cycle of all channels in use, and the protection events of the force loop (R39, R49, R55, R56, R74, R75, R81): each with the
cause or the state it leads to. -/
def Obligations.LoopRowsComplete : Prop :=
  (∀ s l, ∃ b u v, b = boundary ((s.grp.map Prod.fst).foldl takeTrigs s) ∧ u = (cycleChans b l).foldl (cycleChan l) b ∧ v = (u.swe.map Prod.fst).foldl sweBoundary u ∧
    goes (.loopCycle l) s (applySets ((v.swe.map Prod.fst).foldl seeLimit v))) ∧
  (∀ (s : State) (p : Prm) (n i : Nat) (x : Int), (s.wrNext p n i x).eff p n i = s.eff p n i ∧ (s.wrNext p n i x).rd p n i = p.wrap x ∧
    (s.wrNext p n i x).takenOver.eff p n i = p.wrap x) ∧
  (∀ s ch q up, ch < 128 → s.chState ch = 2 ∨ s.chState ch = 3 → (s.comp (.window ch (windowOf q up))).changing = false →
    ∃ u : State, goes (.windowCrossing ch q up) s (publishLimit (u.publish (s.eff FCH.EV_CLAMP ch)) ch true) ∧ (u.ch ch).clampCyc = 0 ∧
      (u.ch ch).limCyc = 0 ∧ u.rdN FCH.STATE ch = 5 ∧ (u.comp (.window ch (windowOf q up))).raw = up) ∧
  (∀ s ch q up, ch < 128 → s.chState ch = 4 → (s.comp (.window ch (windowOf q up))).changing = false →
    ∃ u : State, goes (.windowCrossing ch q up) s (u.publish (s.eff FCH.EV_CLAMP ch)) ∧ u.rdN FCH.STATE ch = 5 ∧
      (u.comp (.window ch (windowOf q up))).raw = up) ∧
  (∀ s ch q up, ch < 128 → connected (s.chState ch) = true → (s.comp (.window ch (windowOf q up))).changing = true →
    goes (.windowCrossing ch q up) s (s.setComp (.window ch (windowOf q up))
      { s.comp (.window ch (windowOf q up)) with waits := some up })) ∧
  (∀ s ch, ch < 128 → s.chState ch = 5 → 64 ≤ (s.ch ch).clampCyc →
    goes (.clampTimeout ch) s (enterOpen s ch 6) ∧ { code := 0x03 } ∈ protectionHits s ch) ∧
  (∀ s ch, limitDue s ch = true → goes (.limitTimeout ch) s (enterOpen s ch 6) ∧ { code := 0x01 } ∈ protectionHits s ch) ∧
  (∀ s ch row, row < 4 → soaDue s ch row = true →
    goes (.soaTimeout ch row) s (enterOpen s ch 6) ∧ { code := 0x02 } ∈ protectionHits s ch) ∧
  (∀ s ch, ch < 128 → 2 ≤ s.chState ch → s.chState ch ≤ 4 → goes (.senseLoss ch) s (recordChan s ch 0x04)) ∧
  (∀ s ch, 128 ≤ ch → ch < 132 → 2 ≤ s.chState ch → s.chState ch ≤ 4 → goes (.senseLoss ch) s (recordChan s ch 0x05)) ∧
  (∀ s ch, ch < 132 → justTripped s ch = true →
    goes (.senseLoss ch) s (record s (cb ch) (ci ch) (if ch < 128 then 0x04 else 0x05))) ∧
  (∀ s ch, ch < 128 → goes (.guardOvl ch) s (recordChan s ch 0x05)) ∧
  (∀ s g, g < 16 → goes (.railFault g) s (recordChan s (8 * g) 0x08))

/-- The power budget lets a change of a channel pass (R79): neither sum rises, or both stand within it; HV channels are not counted. -/
def Sys2Proof.Claims.budgetAllows (s t : State) (c : Nat) : Prop :=
  128 ≤ c ∨ ((budgetSums t).1 ≤ (budgetSums s).1 ∧ (budgetSums t).2 ≤ (budgetSums s).2) ∨ withinBudget (budgetSums t) = true

/-- The sums of a precision channel's change are reported (R79). -/
def Sys2Proof.Claims.reported (t : State) (c : Nat) : State := if 128 ≤ c then t else reportBudget t

/-- OUT_REQ holds a value, and the output moves to it (R49). -/
def Sys2Proof.Claims.outReqSet (s : State) (c : Nat) (v : Int) : State :=
  let t := (abortTune s c).cput FCH.OUT_REQ HVC.OUT_REQ c v
  let t := if 2 ≤ v then resetCeiling t c else t
  moveOutput (if s.chState c = 0 ∧ v ≠ 0 then startBoost t c else t) c v.toNat

/-- SETPOINT holds a code, which the next loop-cycle boundary or the rails' arrival takes over (R40, R78). -/
def Sys2Proof.Claims.setpointSet (s : State) (c : Nat) (v : Int) : State :=
  let wait := connected (s.chState c) && (s.ch c).motion != .ramping && decide (0 < setpointDelay s c v)
  let t := s.cput FCH.SETPOINT HVC.SETPOINT c v
  let t := resetCeiling (t.setCh c { t.ch c with
    parVr := if c < 128 then s.rdN FCH.VRANGE c else 4
    parIr := if (t.ch c).irNew then (s.crd FCH.IRANGE HVC.IRANGE c).toNat else (t.ch c).irTarget
    waitSet := if wait then some v else none, rampNew := true }) c
  if wait then aimRails t (groupOf c) else touch t c

/-- Whether a channel forces current, or voltage. -/
def Sys2Proof.Claims.forces (s : State) (c mode : Nat) : Bool := connected (s.chState c) && (s.ch c).act.mode == mode

/-- IRANGE holds a range (R63); in ON_FI the setpoint is kept in amperes (R65). -/
def Sys2Proof.Claims.irangeSet (s : State) (c : Nat) (v : Int) : State :=
  let t := s.cput FCH.IRANGE HVC.IRANGE c v
  let t := if !forces s c 3 ∧ s.onMode c ≠ 2 ∧ v ≠ s.crd FCH.IRANGE HVC.IRANGE c then resetCeiling t c else t
  touch (t.setCh c { t.ch c with irNew := true, parIr := if forces s c 3 then (t.ch c).parIr else v.toNat }) c

/-- VRANGE holds a range (R65); in ON_FV the setpoint is kept in volts. -/
def Sys2Proof.Claims.vrangeSet (s : State) (c : Nat) (v : Int) : State :=
  let t := s.put FCH.VRANGE c v
  let t := if !forces s c 2 ∧ s.onMode c ≠ 3 ∧ v ≠ s.rd FCH.VRANGE c then resetCeiling t c else t
  touch (t.setCh c { t.ch c with parVr := if forces s c 2 then (t.ch c).parVr else v.toNat }) c

/-- The register writes of channel parameters (R11, R40, R49, R63, R65, R71, R79): a write that the rules of its parameter grant takes
effect, one that they refuse changes nothing. -/
def Obligations.ChannelWriteRowsComplete : Prop :=
  (∀ s ch v, writable s → ch < 132 → 0 ≤ v → v ≤ 3 → stopped s (chanIsland ch) = false → owned s ch = false → calTarget s ch = false →
    s.chState ch < 6 ∨ v = 0 → (s.chState ch = 7 → (s.win (cb ch) (ci ch)).fault = false) →
    (2 ≤ v → shedding s = false ∧ tdacMasked s ch = false) → (128 ≤ ch → v ≠ 0 → s.rd HVC.INTLK_STATE ≠ 0) →
    r71Holds s ch v.toNat (s.setpoint ch) (s.ch ch).parVr = true → budgetAllows s (outReqSet s ch v) ch →
    goes (.outReqWrite ch v) s (reported (outReqSet s ch v) ch)) ∧
  (∀ s ch v, writable s → ch < 132 → iabs v ≤ 4194304 → stopped s (chanIsland ch) = false → owned s ch = false →
    r71Holds s ch (s.onMode ch) v (s.rdN FCH.VRANGE ch) = true → (shedding s = true → iabs v ≤ iabs (s.setpoint ch)) →
    budgetAllows s (setpointSet s ch v) ch → goes (.setpointWrite ch v) s (reported (setpointSet s ch v) ch)) ∧
  (∀ s ch v, writable s → ch < 132 → 0 ≤ v → v ≤ (if ch < 128 then 8 else 6) → stopped s (chanIsland ch) = false → owned s ch = false →
    (forces s ch 3 = true → iabs (reexpress (s.setpoint ch) (cifs ch (s.ch ch).parIr) (cifs ch v.toNat)) ≤ 4194304) →
    budgetAllows s (irangeSet s ch v) ch → goes (.irangeWrite ch v) s (reported (irangeSet s ch v) ch)) ∧
  (∀ s ch v, writable s → ch < 128 → 0 ≤ v → v ≤ 3 → stopped s (chanIsland ch) = false → owned s ch = false →
    (forces s ch 2 = true → iabs (reexpress (s.setpoint ch) (vfs (s.ch ch).parVr) (vfs v.toNat)) ≤ 4194304) →
    budgetAllows s (vrangeSet s ch v) ch → goes (.vrangeWrite ch v) s (reported (vrangeSet s ch v) ch)) ∧
  (∀ s ch v t, writable s → ch < 132 → writeOutReq s ch v = .ok t → goes (.outReqWrite ch v) s t) ∧
  (∀ s ch v t, writable s → ch < 132 → writeSetpoint s ch v = .ok t → goes (.setpointWrite ch v) s t) ∧
  (∀ s ch v t, writable s → ch < 132 → writeIrange s ch v = .ok t → goes (.irangeWrite ch v) s t) ∧
  (∀ s ch v t, writable s → ch < 128 → writeVrange s ch v = .ok t → goes (.vrangeWrite ch v) s t) ∧
  (∀ s ch v e, ch < 132 → writeOutReq s ch v = .error e → moves (.outReqWrite ch v) s s) ∧
  (∀ s ch v e, ch < 132 → writeSetpoint s ch v = .error e → moves (.setpointWrite ch v) s s) ∧
  (∀ s ch v e, ch < 132 → writeIrange s ch v = .error e → moves (.irangeWrite ch v) s s) ∧
  (∀ s ch v e, ch < 128 → writeVrange s ch v = .error e → moves (.vrangeWrite ch v) s s) ∧
  (∀ s ch v, ¬writable s → moves (.outReqWrite ch v) s s ∧ moves (.setpointWrite ch v) s s ∧ moves (.irangeWrite ch v) s s ∧
    moves (.vrangeWrite ch v) s s)

/-- The output path of a channel (R49, R50, R53, R54): start into STANDBY, the end of a ramp, the relay and its verification, the
delayed opening of the solid-state switch. -/
def Obligations.OutputPathRowsComplete : Prop :=
  (∀ s ch, ch < 132 → (s.ch ch).motion = .starting → s.chState ch = 0 ∨ s.chState ch = 6 → ch < 128 ∨ s.rd HVC.BOOST_STATE = 2 →
    ∃ u, goes (.standbyReached ch) s (if 2 ≤ (s.ch ch).target then connect u ch (s.ch ch).target else u) ∧ u.chState ch = 1 ∧
      (u.ch ch).motion = .still ∧ (u.ch ch).integ = 0 ∧ (u.ch ch).act = { (s.ch ch).act with mode := 1, setp := 0 } ∧
      (∀ k, k ≠ ch → u.ch k = s.ch k)) ∧
  (∀ s ch, ch < 128 → (s.ch ch).motion = .ramping → (s.ch ch).act.setp = 0 →
    goes (.outputRampDone ch) s (settleOpen (if (s.ch ch).ramp.isSome ∨ (s.ch ch).rampN.isSome then settleFor s ch 50000 else s) ch
      (s.ch ch).target)) ∧
  (∀ s ch, 128 ≤ ch → (s.ch ch).motion = .ramping →
    (if (s.ch ch).act.mode = 3 then (s.ch ch).act.vlp = 0 ∧ (s.ch ch).act.vln = 0 else (s.ch ch).act.setp = 0) →
    ∃ u, u = settleOpen (if (s.ch ch).ramp.isSome ∨ (s.ch ch).rampN.isSome then settleFor s ch 50000 else s) ch (s.ch ch).target ∧ goes (.outputRampDone ch) s
      ((u.setCh ch { u.ch ch with dischPeriod := some u.clock }).put HVC.RAMP (ci ch) 0)) ∧
  (∀ s ch, ch < 128 → (s.ch ch).paths.relayPending = true →
    ∃ u, goes (.relayClosureVerified ch) s (if s.rd FCH.RELAY_COUNT ch = 179999999 then record u 1 ch 0x07 else u) ∧
      u.rd FCH.RELAY_COUNT ch = min (s.rd FCH.RELAY_COUNT ch + 1) 4294967295 ∧
      u.ch ch = { s.ch ch with paths := { (s.ch ch).paths with
        relay := true, relayPending := false, ssrOpens := decide ((s.ch ch).act.ir ≤ 1) } } ∧ (∀ k, k ≠ ch → u.ch k = s.ch k)) ∧
  (∀ s ch, ch < 128 → (s.ch ch).paths.relayPending = true →
    goes (.relayVerifyTimeout ch) s ((record (s.setCh ch { s.ch ch with paths := { (s.ch ch).paths with
      ssr := true, relayPending := false, ssrOpens := false } }) 1 ch 0x06).put FCH.PATH_SEL ch 2)) ∧
  (∀ s ch, ch < 128 → (s.ch ch).paths.relay = true → (s.ch ch).paths.ssrOpens = true → (s.ch ch).act.ir ≤ 1 →
    goes (.ssrOpenDelay ch) s (s.setCh ch { s.ch ch with paths := { (s.ch ch).paths with ssr := false, ssrOpens := false } })) ∧
  (∀ s ch, upDue s ch = true → goes (.rangeUpChange ch) s (policyMoved (stepUp s ch) ch)) ∧
  (∀ s ch, downDue s ch = true → upDue s ch = false → goes (.rangeDownChange ch) s
    (policyMoved (stepDown s ch) ch)) ∧
  (∀ s ch, (s.ch ch).settleEnd ≠ 0 → (s.ch ch).settleEnd ≤ s.clock →
    goes (.settleWindowEnd ch) s (chainStep (s.setCh ch { s.ch ch with settleEnd := 0 }) ch)) ∧
  (∀ s g, g < 16 → goes (.railTargetReached g) s (((groupChans g).filter (railThere s)).foldl applyWaiting s)) ∧
  (∀ s g, g < 16 → iabs (((railCycle s g).group g).railP - (s.group g).railP) ≤ 250000 ∧
    iabs (((railCycle s g).group g).railN - (s.group g).railN) ≤ 250000 ∧
    (iabs ((s.group g).tgtP - (s.group g).railP) ≤ 250000 → ((railCycle s g).group g).railP = (s.group g).tgtP) ∧
    (iabs ((s.group g).tgtN - (s.group g).railN) ≤ 250000 → ((railCycle s g).group g).railN = (s.group g).tgtN))

/-- A channel holds the coefficients of a standard profile in a slot, and a standard policy (R47, R67): profile 0 and policy 0 change
nothing, policy 4 turns the policy off. -/
def Sys2Proof.Claims.presetSet (s : State) (c prof slot pol : Nat) : State :=
  let u := if prof = 0 then s else
    writeProfile s c slot ((List.range (if c < 128 then 16 else 11)).map fun i => (Config.stdProfile prof i).toInt)
  let v := if pol = 0 then u
    else if pol = 4 then u.wrNext (cp FCH.RP_EN HVC.RP_EN c) (ci c) 0 0
    else (List.range (if c < 128 then 9 else 7)).foldl
      (fun u k => u.wrNext (cp FCH.RP HVC.RP c) (ci c) k (execLoopPreset.policyFor c pol k)) u
  touch (if pol = 0 then v else v.setCh c { v.ch c with up := 0, dn := 0 }) c

/-- The commands of the force loop (R44, R46, R47, R49, R67, R342) and the end of a tune. -/
def Obligations.LoopCommandsComplete : Prop :=
  (∀ s p c, accepted (.loopTune p) s → targetChan p = some c → (128 ≤ c → fld (pw p 2) 0 3 ≤ 3) → stopped s (chanIsland c) = false →
    fld (pw p 2) 0 3 ≠ activeProfile s c → s.chState c = 1 ∨ s.chState c = 2 → (s.ch c).tune = none →
    waits (.loopTune p) p s (s.setCh c { s.ch c with
      tune := some (⟨p.src, pTag p, fld (pw p 2) 0 3, bit (pw p 2) 8, true, 0, 0, 0⟩ : Tune) })) ∧
  (∀ s ch t, (s.ch ch).tune = some t → goes (.loopTuneDone ch false) s
    ((record (s.setCh ch { s.ch ch with tune := none }) (cb ch) (ci ch) (if ch < 128 then 0x09 else 0x08)).complete
      t.src t.tag St.NO_SOLUTION [])) ∧
  (∀ s ch t, (s.ch ch).tune = some t → ∃ (u : State) (res : List Nat), goes (.loopTuneDone ch true) s (u.complete t.src t.tag St.SUCCESS res) ∧
    res.length = 4 ∧ res.getD 0 0 ≤ (if ch < 128 then 100000000 else 10000000) ∧ 450 ≤ res.getD 2 0 ∧ res.getD 3 0 = t.slot ∧
    u.draws = s.draws + (if ch < 128 then 19 else 14)) ∧
  (∀ s p c, accepted (.loopPreset p) s → targetChan p = some c → fld (pw p 2) 0 4 ≤ 4 → fld (pw p 3) 0 4 ≤ 4 →
    (128 ≤ c → fld (pw p 2) 4 3 ≤ 3) → stopped s (chanIsland c) = false →
    (fld (pw p 2) 0 4 ≠ 0 → fld (pw p 2) 4 3 ≠ activeProfile s c) →
    budgetAllows s (presetSet s c (fld (pw p 2) 0 4) (fld (pw p 2) 4 3) (fld (pw p 3) 0 4)) c →
    replies (.loopPreset p) p s St.SUCCESS []
      (reported (presetSet s c (fld (pw p 2) 0 4) (fld (pw p 2) 4 3) (fld (pw p 3) 0 4)) c)) ∧
  (∀ s p c, accepted (.rearm p) s → targetChan p = some c → stopped s (chanIsland c) = false → s.chState c = 6 →
    (128 ≤ c → s.rd HVC.INTLK_STATE ≠ 0) →
    replies (.rearm p) p s St.SUCCESS [] 
      ((startBoost s c).setCh c { (startBoost s c).ch c with motion := .starting, target := 1 })) ∧
  (∀ s p c, accepted (.clearCounts p) s → targetInst p 1 = some c → stopped s (chanIsland c) = false →
    replies (.clearCounts p) p s St.SUCCESS [] (s.put FCH.CLAMP_COUNT c 0))

/-- The measurement path (R90 to R98, R114, R115, R122): instants, triggers, conversions, wakes of the converters, auto-zero. -/
def Obligations.MeasureRowsComplete : Prop :=
  (∀ s g, (s.group g).samp = .ready ∨ (s.group g).samp = .autoZero → scheduledAt s g s.now = true →
    stopped s (groupIsland g) = false → (s.group g).instant ≠ some (s.clock * 65536) → (s.group g).busyTill ≤ s.clock * 65536 →
    goes (.sampleTimerInstant g) s (takeInstant (s.setGroup g { s.group g with byTrig := false }) g (s.now * 65536))) ∧
  (∀ s g, (s.group g).samp ≠ .idle → (s.group g).samp ≠ .waking → scheduledAt s g s.now = true → stopped s (groupIsland g) = false →
    (s.group g).instant ≠ some (s.clock * 65536) → s.clock * 65536 < (s.group g).busyTill → (s.group g).src = 1 →
    goes (.sampleTimerInstant g) s (overrun s g)) ∧
  (∀ s g, (s.group g).samp = .ready → (s.group g).src = 1 → s.now % 125 = 0 →
    (((s.now / 125 : Nat) : Int) - (s.group g).phase) % ((s.group g).period : Int) = 0 → stopped s (groupIsland g) = false →
    (s.group g).instant ≠ some (s.clock * 65536) → (s.group g).busyTill ≤ s.clock * 65536 →
    ∃ t, exec (.sampleTimerInstant g) s = .next (settle t) ∧
      t = takeInstant (s.setGroup g { s.group g with byTrig := false }) g (s.now * 65536)) ∧
  (∀ s g, (s.group g).samp = .waking → (s.group g).byTrig = false → (s.group g).instant = some (s.clock * 65536) →
    scheduledAt s g s.now = true → stopped s (groupIsland g) = false →
    goes (.sampleTimerInstant g) s (takeInstant s g (s.now * 65536))) ∧
  (∀ s g t, (s.con (0x50 + g)).capt = some t → (s.group g).src = 2 → stopped s (groupIsland g) = false →
    ∃ u, goes (.sampleTriggerPulse g) s (fabricTrigger u g t) ∧ u.con (0x50 + g) = { s.con (0x50 + g) with capt := none } ∧
      u.group g = s.group g) ∧
  (∀ s g t, (s.con (0x50 + g)).capt = some t → (s.group g).src = 2 → stopped s (groupIsland g) = false →
    (s.group g).samp ≠ .idle → fullAz s g = none → trigBusy s g t = false → (s.group g).pmode ≠ 1 →
    ∃ u, u = (s.setCon (0x50 + g) { s.con (0x50 + g) with capt := none }).setGroup g { s.group g with
        byTrig := true, busyTill := t + Config.trigLatency % 61 * 65536 + busyFor g } ∧
      goes (.sampleTriggerPulse g) s (trigInstant u g (t + Config.trigLatency % 61 * 65536))) ∧
  (∀ s g t, (s.con (0x50 + g)).capt = some t → (s.group g).src = 2 → stopped s (groupIsland g) = false →
    (s.group g).samp ≠ .idle → fullAz s g = none → trigBusy s g t = false → (s.group g).pmode = 1 →
    ∃ u, goes (.sampleTriggerPulse g) s u ∧ (u.group g).samp = .waking ∧ (u.group g).instant = some (t + 2000 * 65536) ∧
      (u.group g).byTrig = true) ∧
  (∀ s g codes, (s.group g).samp = .converting → ((s.group g).instant.getD 0) + busyFor g < cycleEnd s →
    stopped s (groupIsland g) = false → ∃ u v : State, u = (s.group g).shots.foldl (convertChan codes (s.group g).stamp) s ∧
    v = restGroup (u.setGroup g { u.group g with shots := [] }) g ∧ goes (.conversionComplete g codes) s
      (if ((s.group g).instant.getD 0) + busyFor g ≤ s.clock * 65536 then takeMode (takeSrc v g) g else v)) ∧
  (∀ s ch x, (s.group (groupOf ch)).missing.find? (fun y => y.1.ch == ch && decide (y.2 + 1000 * 65536 < cycleEnd s)) = some x →
    ∃ u, goes (.convFault ch) s (record (loseRecord u ch x.1.seq (s.sysFine x.2 / 65536)) 2 ch 0x03) ∧ u = s.setGroup (groupOf ch)
      { s.group (groupOf ch) with missing := (s.group (groupOf ch)).missing.filter fun y => !(y.1.ch == ch && y.1.seq == x.1.seq) }) ∧
  (∀ s ch x, (s.group (groupOf ch)).missing = [] → (s.group (groupOf ch)).shots.find? (fun y => y.ch == ch) = some x →
    ((s.group (groupOf ch)).instant.getD 0) + 1000 * 65536 < cycleEnd s →
    ∃ u, goes (.convFault ch) s (record (loseRecord u ch x.seq (s.group (groupOf ch)).stamp) 2 ch 0x03) ∧
      u = s.setGroup (groupOf ch) { s.group (groupOf ch) with shots := (s.group (groupOf ch)).shots.filter fun y => y.ch != ch }) ∧
  (∀ s g, (s.group g).samp = .asleep → nextScheduled s g s.now = some (s.now + 2000) → stopped s (groupIsland g) = false →
    goes (.converterWakeStart g) s (s.setGroup g { s.group g with
      samp := .waking, instant := some ((s.clock + 2000) * 65536), busyTill := (s.clock + 2000) * 65536 + busyFor g, byTrig := false })) ∧
  (∀ s g t, (s.group g).samp = .waking → (s.group g).instant = some t → t < cycleEnd s → stopped s (groupIsland g) = false →
    ((s.group g).byTrig = true ∨ scheduledAt s g s.now = true) → goes (.converterWakeComplete g) s (takeInstant s g (s.sysFine t))) ∧
  (∀ s g t, (s.group g).samp = .waking → (s.group g).instant = some t → t < cycleEnd s → stopped s (groupIsland g) = false →
    (s.group g).byTrig = false → scheduledAt s g s.now = false →
    goes (.converterWakeComplete g) s (restGroup (s.setGroup g { s.group g with busyTill := 0, instant := none }) g)) ∧
  (∀ s g ch, groupOf ch = g → (s.group g).samp ≠ .converting → (s.group g).samp ≠ .waking → (s.group g).trigs = [] →
    (s.group g).az = none → stopped s (groupIsland g) = false → azDue s ch = true → s.chState ch ≤ 1 → goes (.autoZeroStart g ch) s (startAz s g [ch])) ∧
  (∀ s ch v i pair ok a, (s.group (groupOf ch)).az = some a → ch ∈ a.chans → a.till = none → a.start + 8000 ≤ s.clock →
    goes (.autoZeroComplete ch v i pair ok) s (takeOffsets (azLeave s (groupOf ch) ch) ch v i pair ok))

/-- A timer's period is held, with a phase that lies within it, for the next boundary (R93). -/
def Sys2Proof.Claims.periodSet (s : State) (g : Nat) (v : Int) : State :=
  let u := s.put MSR.TIMER_PERIOD (groupHome g) v
  let u := if v ≤ u.rd MSR.TIMER_PHASE (groupHome g) then u.put MSR.TIMER_PHASE (groupHome g) 0 else u
  u.setGroup g { u.group g with gridPending := true }

/-- A pin's PMU is switched (R190): in FAULT the write only holds its value, else the pin enters PMU with 1, and the switch runs. -/
def Sys2Proof.Claims.pmuSet (s : State) (n : Nat) (v : Int) : State :=
  let u := s.put PIN.PMU_EN n v
  if u.pinState n = 4 then u
  else
    let u := if v = 1 then enterPin u n 3 else u
    u.setPin n { u.pin n with switching := true, drive := 2, drove := false }

/-- The register writes of the measurement path and of the pins (R11, R93, R97, R98, R120, R190, R193, R412): granted ones take effect,
refused ones change nothing. -/
def Obligations.MeasureAndPinWriteRowsComplete : Prop :=
  (∀ s g v, writable s → g < 17 → 0 ≤ v → v ≤ 3 → stopped s (groupIsland g) = false → ∃ u, u = s.put MSR.TRIG_SRC (groupHome g) v ∧
    goes (.trigSrcWrite g v) s (u.setGroup g { u.group g with srcPending := true })) ∧
  (∀ s g v, writable s → g < 17 → 0 ≤ v → v ≤ 1 → stopped s (groupIsland g) = false → ∃ u, u = s.put MSR.PWR_MODE (groupHome g) v ∧
    goes (.pwrModeWrite g v) s (u.setGroup g { u.group g with modePending := true })) ∧
  (∀ s g v, writable s → g < 17 → (if g < 16 then 4 else 16) ≤ v → v ≤ 4294967295 → stopped s (groupIsland g) = false →
    goes (.timerPeriodWrite g false v) s (periodSet s g v)) ∧
  (∀ s g v, writable s → g < 17 → 0 ≤ v → v < s.rd MSR.TIMER_PERIOD (groupHome g) → stopped s (groupIsland g) = false →
    ∃ u, u = s.put MSR.TIMER_PHASE (groupHome g) v ∧
    goes (.timerPeriodWrite g true v) s (u.setGroup g { u.group g with gridPending := true })) ∧
  (∀ s g v, writable s → g < 17 → 0 ≤ v → v ≤ (if g < 16 then 255 else 15) → stopped s (groupIsland g) = false →
    (∀ c ∈ groupChans g, bit v.toNat (c - groupHome g) = true → s.chState c ≤ 1) → ∃ u, u = s.wrNext MSR.TDAC_MASK (groupHome g) 0 v ∧
    goes (.tdacMaskWrite g v) s (u.setGroup g { u.group g with tdacPending := true })) ∧
  (∀ s n v, writable s → n < 256 → 0 ≤ v → v ≤ 1 → stopped s (.seq (n / 128)) = false → calPin s n = false →
    (v = 1 → shedding s = false) → s.rd PIN.PMU_EN n ≠ v → goes (.pmuEnWrite n v) s (pmuSet s n v)) ∧
  (∀ s n v, writable s → n < 256 → 0 ≤ v → v ≤ 1 → stopped s (.seq (n / 128)) = false → calPin s n = false →
    (v = 1 → shedding s = false) → s.rd PIN.PMU_EN n = v → goes (.pmuEnWrite n v) s s) ∧
  (∀ s n, writable s → n < 4 → stopped s (.seq (chipHome n / 128)) = false →
    goes (.adcGo n) s (requestConv s (chipHome n / 64) false)) ∧
  (∀ s n, writable s → n < 4 → stopped s .msh = false → goes (.portEnWrite n 0) s (disablePort (s.put MSH.PORT_EN (n + 1) 0) n)) ∧
  (∀ s n, writable s → n < 4 → stopped s .msh = false → ∃ u, u = s.put MSH.PORT_EN (n + 1) 1 ∧
    goes (.portEnWrite n 1) s (if portState u n = 0 then u.put MSH.PORT_STATE (n + 1) 1 else u)) ∧
  (∀ s g v e, g < 17 → writeTrigSrc s g v = .error e → moves (.trigSrcWrite g v) s s) ∧
  (∀ s g v e, g < 17 → writePwrMode s g v = .error e → moves (.pwrModeWrite g v) s s) ∧
  (∀ s g v e, g < 17 → writeTimerPeriod s g v = .error e → moves (.timerPeriodWrite g false v) s s) ∧
  (∀ s g v e, g < 17 → writeTimerPhase s g v = .error e → moves (.timerPeriodWrite g true v) s s) ∧
  (∀ s g v e, g < 17 → writeTdacMask s g v = .error e → moves (.tdacMaskWrite g v) s s) ∧
  (∀ s n v e, n < 256 → writePmuEn s n v = .error e → moves (.pmuEnWrite n v) s s) ∧
  (∀ s n v e, n < 4 → writePortEn s n v = .error e → moves (.portEnWrite n v) s s)

/-- A slot holds the power that its program reserves (R149). -/
def Sys2Proof.Claims.reserved (s : State) (e k : Nat) : State := s.setSlot e k { s.slot e k with reserve := reservation s e k }

/-- What SWE_START and SWE_ARM ask of a slot (R149, R565): LOADED and not started, its region VALID, its channels on, the power there. -/
def Sys2Proof.Claims.admissible (s : State) (e k : Nat) : Prop :=
  shedding s = false ∧ s.slotState e k = 1 ∧ (s.slot e k).goAt = none ∧
  (∃ r, s.region (s.slotRd SWE.REGION e k) = some r ∧ r.state = 1) ∧ (∀ c ∈ slotChans s e k, s.chState c ≠ 0 ∧ s.chState c < 6) ∧
  budgetAllows s (reserved s e k) (8 * e) ∧ (e < 16 → peakSum (reserved s e k) ≤ 240 * watt)

/-- Whether a slot has something to abort (R151): it is armed, ready or running, or its start is due. -/
def Sys2Proof.Claims.abortable (s : State) (e k : Nat) : Bool :=
  (2 ≤ s.slotState e k && s.slotState e k ≤ 7) || (s.slot e k).goAt.isSome

/-- The commands of the sweep engines (R126 to R130, R149 to R152, R159). -/
def Obligations.SweepCommandsComplete : Prop :=
  (∀ s p base, accepted (.sweUpload p) s → pktXfer s p = none → 1 ≤ pw p 4 → pw p 4 ≤ 1048576 → pw p 2 % 16 = 0 → bit (pw p 5) 1 = false →
    lowestRun (roomFor (pw p 4)) 0 (runs s) = some base → (runs s).length < 4096 →
    ∃ u, goes (.sweUpload p) s (startXfer { u with uploads := u.uploads ++ [⟨p.src, pTag p, lowestHandle s⟩] }
      { who := .cmd p.src (pTag p), ctx := pktCtx p, prio := pPrio p, addr := pw64 p 2, left := 16 * pw p 4, write := false }) ∧
      u = reportMem (s.setRegion (lowestHandle s) (some ⟨base, pw p 4, bit (pw p 5) 0, 0⟩))) ∧
  (∀ s p r, accepted (.sweUpload p) s → pktXfer s p = none → 1 ≤ pw p 4 → pw p 4 ≤ 1048576 → pw p 2 % 16 = 0 → bit (pw p 5) 1 = true →
    s.region (pw p 6) = some r → r.hv = bit (pw p 5) 0 → r.count = pw p 4 → regionUsed s (pw p 6) = false → r.state ≠ 0 →
    ∃ u, goes (.sweUpload p) s (startXfer { u with uploads := u.uploads ++ [⟨p.src, pTag p, pw p 6⟩] }
      { who := .cmd p.src (pTag p), ctx := pktCtx p, prio := pPrio p, addr := pw64 p 2, left := 16 * pw p 4, write := false }) ∧
      u = s.setRegion (pw p 6) (some { r with state := 0 })) ∧
  (∀ s src tag ws u r, s.uploads.find? (fun x => x.src == src && x.tag == tag) = some u → s.region u.handle = some r →
    uploadRead s u = true → (∀ x, uploadXfer s u = some x → x.fault = none) → (quadsOf ws).length = r.count → firstBad r.hv false (quadsOf ws) 0 (quadsOf ws) = none →
    ∃ t, goes (.sweUploadDone src tag ws none) s (t.complete src tag St.SUCCESS (uploadResult t u.handle (t.rdN SWE.MEM_FREE))) ∧
      t = storeEntries (endUpload (s.setRegion u.handle (some { r with state := 1 })) u) r.base (quadsOf ws)) ∧
  (∀ s p r, accepted (.sweFree p) s → s.region (pw p 2) = some r → regionUsed s (pw p 2) = false → ∃ u,
    u = (match uploaderOf s (pw p 2) with
      | some x => uploadFails s x 0x02 St.ABORTED 0
      | none => s) ∧
    replies (.sweFree p) p s St.SUCCESS [] (reportMem (u.setRegion (pw p 2) none))) ∧
  (∀ s p e r k, accepted (.sweLoad p) s → targetEngine p = some e → s.region (pw p 2) = some r → pw p 3 < r.count →
    fld (pw p 4) 8 2 ≠ 3 → (e = 16 → fld (pw p 4) 0 8 < 16) → stopped s (engineIsland e) = false → freeSlotOf s e = some k →
    r.state = 1 → r.hv = decide (e = 16) →
    ∃ u, replies (.sweLoad p) p s St.SUCCESS [k] u ∧ u.slot e k = {} ∧ u.slotState e k = 1) ∧
  (∀ s p e k, accepted (.sweStart p) s → targetEngine p = some e → slotArg p = some k → stopped s (engineIsland e) = false →
    admissible s e k → ∃ t, t = reportBudget (reserved s e k) ∧
    replies (.sweStart p) p s St.SUCCESS [] (t.setSlot e k { t.slot e k with goAt := some (actsAt t) })) ∧
  (∀ s p e k, accepted (.sweArm p) s → targetEngine p = some e → slotArg p = some k → stopped s (engineIsland e) = false →
    admissible s e k → ∃ t, t = reportBudget (reserved s e k) ∧
    replies (.sweArm p) p s St.SUCCESS [] ((t.wr SWE.START_AT e k (pw64 p 3)).setSlotState e k 2)) ∧
  (∀ s p e k, accepted (.sweResume p) s → targetEngine p = some e → slotArg p = some k → stopped s (engineIsland e) = false →
    shedding s = false → s.runSlot e = k → s.slotState e k = 6 → .coast ∉ (s.engine e).heldBy ∨ s.rd TB.STATE = 2 →
    replies (.sweResume p) p s St.SUCCESS [] (s.setEngine e { s.engine e with
      heldBy := (s.engine e).heldBy.filter (· == .source), resumeAt := some ((s.engine e).resumeAt.getD (actsAt s)) })) ∧
  (∀ s p e, accepted (.sweAbort p) s → targetEngine p = some e → stopped s (engineIsland e) = false → pw p 2 = 0xFFFFFFFF →
    replies (.sweAbort p) p s St.SUCCESS [] (((List.range 4).filter (abortable s e)).foldl (fun s k =>
      s.setSlot e k { s.slot e k with abortAt := some ((s.slot e k).abortAt.getD (actsAt s)) }) s)) ∧
  (∀ s p e k, accepted (.sweAbort p) s → targetEngine p = some e → stopped s (engineIsland e) = false → pw p 2 = k → k < 4 →
    replies (.sweAbort p) p s St.SUCCESS [] (if abortable s e k then
      s.setSlot e k { s.slot e k with abortAt := some ((s.slot e k).abortAt.getD (actsAt s)) } else s)) ∧
  (∀ s p e k, accepted (.sweRelease p) s → targetEngine p = some e → slotArg p = some k → stopped s (engineIsland e) = false →
    s.slotState e k ∈ [1, 2, 8, 9] →
    replies (.sweRelease p) p s St.SUCCESS [] (((unreserve (s.setSlotState e k 0) e k).wr SWE.REGION e k 0).setSlot e k {})) ∧
  (∀ s p e, accepted (.sweSignal p) s → targetEngine p = some e → stopped s (engineIsland e) = false →
    replies (.sweSignal p) p s St.SUCCESS [] (s.put SWE.HOST_FLAG e 1))

/-- Whether a slot starts at the present boundary (R145, R151): an accepted start is due, or it is armed and its START_AT has come, or it has
none and the engine's EV_START has been captured. -/
def Sys2Proof.Claims.startsNow (s : State) (e k : Nat) : Bool :=
  dueNow s (s.slot e k).goAt || (s.slotState e k == 2 &&
    (if s.slotRd SWE.START_AT e k = 0 then captDue s (4 * e) else decide (s.slotRd SWE.START_AT e k ≤ s.now)))

/-- The events of the sweep engines (R131 to R157): pulses on their consumers, the steps of a point, waits, pre-emption, and the scrub of
sweep memory. -/
def Obligations.SweepEventRowsComplete : Prop :=
  (∀ s e, captDue s (4 * e) = true → captDue s (4 * e + 3) = false →
    goes (.sweEvStart e) s (sweReady (clearCapt s (4 * e)) e ((List.range 4).filter (startsNow s e)) true)) ∧
  (∀ s e, captDue s (4 * e) = true → captDue s (4 * e + 3) = true → ∃ u, u = clearCapt (clearCapt s (4 * e)) (4 * e + 3) ∧
    goes (.sweEvStart e) s (bringForward (abortEngine u e) e)) ∧
  (∀ s e, captDue s (4 * e + 1) = true → pointOn (clearCapt s (4 * e + 1)) e = true → (s.engine e).ta < s.clock →
    ∃ u, u = clearCapt s (4 * e + 1) ∧
    goes (.sweEvNext e) s (bringForward (endPoint (u.setEngine e { u.engine e with nexted := true }) e) e)) ∧
  (∀ s e, captDue s (4 * e + 2) = true → goes (.sweEvHold e) s (requestHold (clearCapt s (4 * e + 2)) e .event)) ∧
  (∀ s e, captDue s (4 * e + 3) = true → goes (.sweEvAbort e) s (bringForward (abortEngine (clearCapt s (4 * e + 3)) e) e)) ∧
  (∀ s e a, (s.engine e).waitCapt = some a → waitDue s e = true →
    16 ≤ e ∨ railDelayFor (s.group e) ((s.group e).tgtP, (s.group e).tgtN) = 0 →
    goes (.sweWaitRelease e) s (bringForward (applyPoint (s.setEngine e { s.engine e with
      waitCapt := none, waited := (s.clock - (s.engine e).t) / 125 }) e) e)) ∧
  (∀ s e a d, (s.engine e).waitCapt = some a → waitDue s e = true → e < 16 →
    railDelayFor (s.group e) ((s.group e).tgtP, (s.group e).tgtN) = d → 0 < d → ∃ u, u = s.setEngine e { s.engine e with
      waitCapt := none, waited := (s.clock - (s.engine e).t) / 125, pt := .delay, railDelay := d, ta := s.clock + 125 * d } ∧
    goes (.sweWaitRelease e) s (bringForward ((u.put SWE.STATE e 1).setSlotState e (u.runSlot e) 4) e)) ∧
  (∀ s e k, k < 4 → s.slotState e k = 2 → s.slotRd SWE.START_AT e k ≠ 0 → s.slotRd SWE.START_AT e k ≤ s.now →
    captDue s (4 * e) = false → captDue s (4 * e + 3) = false →
    goes (.sweStartAt e k) s (sweReady s e ((List.range 4).filter (startsNow s e)) false)) ∧
  (∀ s e, (s.engine e).pt = .waiting → s.effN SWE.WAIT_TIMEOUT e ≠ 0 →
    (s.engine e).t + 125 * s.effN SWE.WAIT_TIMEOUT e ≤ s.clock → waitDue s e = false → ∃ u, u = record s 3 e 0x04 ∧
    goes (.sweWaitTimeout e) s (bringForward (abortSlot u e (u.runSlot e)) e)) ∧
  (∀ s e, pointOn s e = true →
    (s.engine e).ta + 125 * eDwell (entryAt s (s.slotRd SWE.REGION e (s.runSlot e)) (s.engine e).entry) ≤ s.clock →
    goes (.pointEnd e) s (bringForward (endPoint s e) e)) ∧
  (∀ s e, (s.engine e).pt = .delay → (s.engine e).ta ≤ s.clock → goes (.pointApply e) s (applyPoint s e)) ∧
  (∀ s e, s.runSlot e < 4 → (s.engine e).pt = .applied → (s.engine e).pulsed = false → cutDue s e = false →
    eKind (entryAt s (s.slotRd SWE.REGION e (s.runSlot e)) (s.engine e).entry) = 1 →
    (s.engine e).ta + 125 * eDwell (entryAt s (s.slotRd SWE.REGION e (s.runSlot e)) ((s.engine e).entry + 1)) ≤ s.clock →
    goes (.pulseEdgeStart e) s (pulseOn s e)) ∧
  (∀ s e x, s.runSlot e < 4 → (s.engine e).pt = .pulse → cutDue s e = false →
    x = entryAt s (s.slotRd SWE.REGION e (s.runSlot e)) ((s.engine e).entry + 1) →
    (s.engine e).ta + 125 * (eDwell x + ePwidth x) ≤ s.clock → goes (.pulseEdgeEnd e) s (pulseOff s e)) ∧
  (∀ s e, cutDue s e = true → (s.engine e).pt = .delay ∨ (s.engine e).pt = .waiting →
    goes (.swePreemptCut e) s (bringForward (preempt s e (s.engine e).entry) e)) ∧
  (∀ s e, cutDue s e = true → pointOn s e = true →
    (s.engine e).ta + 125 * eDwell (entryAt s (s.slotRd SWE.REGION e (s.runSlot e)) (s.engine e).entry) ≤ s.clock →
    goes (.swePreemptCut e) s (bringForward (endPoint s e) e)) ∧
  (∀ s e, cutDue s e = true → pointOn s e = true →
    s.clock < (s.engine e).ta + 125 * eDwell (entryAt s (s.slotRd SWE.REGION e (s.runSlot e)) (s.engine e).entry) →
    ∃ k ofs w, k = s.runSlot e ∧ ofs = (s.clock - (s.engine e).ta) / 125 ∧
    w = ((closeStatus s e true false false ofs).wr SWE.CUT_INDEX e k (s.engine e).entry).wr SWE.CUT_OFS e k ofs ∧
    goes (.swePreemptCut e) s (bringForward (preempt (w.setSlot e k { w.slot e k with cut := true }) e (s.engine e).entry) e)) ∧
  (∀ s i, i ∉ s.sweBad → ∃ u, goes (.sweepMemoryScrub [] [i]) s u ∧ u.sweBad = s.sweBad ++ [i] ∧
    u.vane.scrubAt = s.vane.scrubAt.set 1 s.clock) ∧
  (∀ s fixed, goes (.sweepMemoryScrub fixed []) s (fixed.foldl (fun s _ => corrected s 3 0)
    { s with vane := { s.vane with scrubAt := s.vane.scrubAt.set 1 s.clock } }))

/-- The high-voltage channels (R163 to R177): ramps, the boost converter, the hardware limit, the interlock, discharge. -/
def Obligations.HvRowsComplete : Prop :=
  (∀ s ch r, 128 ≤ ch → (s.ch ch).ramp = some r → (s.ch ch).rampN = none → r.t1 ≤ s.clock →
    goes (.hvRampEnd ch) s ((s.setCh ch { rampCycle s (s.ch ch) with
      ramp := none, rampN := none, flagEnd := max (s.ch ch).flagEnd (s.clock + 50000) }).put HVC.RAMP (ci ch) 0)) ∧
  (∀ s, s.rd HVC.BOOST_STATE = 1 → goes .hvBoostStarted s (s.put HVC.BOOST_STATE 0 2)) ∧
  (∀ s a, (∀ c, c ∈ hvChans → (s.chState c = 0 ∨ s.chState c = 6) ∧ (s.ch c).motion ≠ .starting) →
    s.hv.quietAt = some a → a + 1000000000 ≤ s.clock →
    s.rd HVC.BOOST_STATE = 1 ∨ s.rd HVC.BOOST_STATE = 2 → goes .hvBoostStop s (s.put HVC.BOOST_STATE 0 0)) ∧
  (∀ s, s.rd HVC.BOOST_STATE = 1 ∨ s.rd HVC.BOOST_STATE = 2 ∨ (s.rd HVC.BOOST_STATE = 0 ∧ openedNow s = true) → ∃ u v : State,
    u = hvChans.foldl (fun s c => record s 4 (ci c) 0x04) s ∧
    v = { u.put HVC.BOOST_STATE 0 3 with hv := { u.hv with faultAt := some u.clock } } ∧
    goes .hvBoostFault s (hvChans.foldl faultHv v)) ∧
  (∀ s ch, 128 ≤ ch → ch < 132 → connected (s.chState ch) = true → goes (.hvHwIlimit ch) s (record s 4 (ch - 128) 0x06)) ∧
  (∀ s, s.rd HVC.INTLK_STATE = 1 → ∃ u v : State, u = hvChans.foldl (fun s c => record s 4 (ci c) 0x02) s ∧
    v = interlockActs ((stampOpen u).put HVC.INTLK_STATE 0 0) ∧
    goes .interlockOpen s (v.publish (u.eff HVC.EV_INTLK))) ∧
  (∀ s, s.rd HVC.INTLK_STATE ≠ 1 → moves .interlockOpen s (stampOpen s)) ∧
  (∀ s a, s.rd HVC.INTLK_STATE = 0 → s.hv.openedAt = some a → a + 50000000 ≤ s.clock →
    goes .interlockClosed s (s.put HVC.INTLK_STATE 0 1)) ∧
  (∀ s, s.rd HVC.INTLK_STATE = 0 → s.hv.openedAt = none → goes .interlockClosed s (s.put HVC.INTLK_STATE 0 1)) ∧
  (∀ s ch t past, 128 ≤ ch → (s.ch ch).disch = some t → goes (.hvDischargeDone ch past) s ((s.setCh ch
    { s.ch ch with disch := none, paths := {} }).put HVC.DISCH_TIME (ci ch) ((s.clock + past % 125 - t) / 1000 : Nat))) ∧
  (∀ s ch t, 128 ≤ ch → (s.ch ch).disch = some t → t + 10000000 ≤ s.clock →
    goes (.dischargeSlow ch) s (record s 4 (ci ch) 0x03)) ∧
  (∀ s ch t, (s.ch ch).dischPeriod = some t → t + 10000000 ≤ s.clock →
    goes (.hvDischargePeriodEnd ch) s (s.setCh ch { s.ch ch with dischPeriod := none }))


/-- ADC_RESULT of a conversion (R191 to R194): MUX_FIRST, ACQ_OK, LIM, CLIP, NO_PMU, the range, the selection, the code. -/
def Sys2Proof.Claims.adcWord (a : Adc) (clips : Bool) (w : Int) : Nat :=
  b2n a.first * 2 ^ 31 + b2n a.acqOk * 2 ^ 30 + b2n a.lim * 2 ^ 29 + b2n clips * 2 ^ 28 + b2n a.noPmu * 2 ^ 27 +
    a.irange * 2 ^ 24 + a.sel * 2 ^ 16 + toField 16 w

/-- SEQ_START and SEQ_ARM find a LOADED slot of a domain whose island runs, with the timebase locked and no shed (R224, R565). -/
def Sys2Proof.Claims.seqSlotReady (s : State) (p : Pkt) (d k : Nat) : Prop :=
  targetDom p = some d ∧ stopped s (.seq d) = false ∧ pw p 2 = k ∧ k < 4 ∧ shedding s = false ∧ pinRun s d = false ∧
  s.seqSlotState d k = 1 ∧ s.rd TB.STATE = 2

/-- The pins (R183 to R202): driver overload, overvoltage, the PMU switch, the converters and the comparators. -/
def Obligations.PinRowsComplete : Prop :=
  (∀ s n, pinLive s n = true → (s.pin n).driving = true → goes (.drvOvl n) s (record s 5 n 0x01)) ∧
  (∀ s n, n < 256 → (s.pin n).faultAt = some s.clock → goes (.drvOvl n) s (record s 5 n 0x01)) ∧
  (∀ s n, n < 256 → goes (.pinOvervolt n) s (record s 5 n 0x02)) ∧
  (∀ s n, (s.pin n).switching = true → ∃ u, u = s.setPin n { s.pin n with switching := false } ∧
    goes (.pmuSwitchDone n) s (if u.pinState n = 4 then u else enterPin u n (givenState u n))) ∧
  (∀ s x t, x < 4 → (s.con (0x130 + x)).capt = some t →
    goes (.adcEvRequest x) s (requestConv (s.setCon (0x130 + x) { s.con (0x130 + x) with capt := none }) x true)) ∧
  (∀ s x lim, x < 4 → (s.conv x).st = 1 → (s.conv x).reqAt + 20000 ≤ s.clock → ∃ a, goes (.adcSample x lim) s (s.setConv x a) ∧
    a.st = 2 ∧ a.sampAt = s.clock ∧ a.sel = (s.conv x).sel ∧ a.tdac = (s.conv x).tdac ∧
    a.acqOk = decide (1000 * s.rdN PIN.ACQ_TIME (chipHome x) ≤ s.clock - (s.conv x).selAt) ∧
    a.noPmu = (bit a.sel 6 && !bit a.sel 7 && !(decide (s.pinState (selPin x a.sel) = 3) && !(s.pin (selPin x a.sel)).switching))) ∧
  (∀ s x code, x < 4 → (s.conv x).st = 2 → (s.conv x).dead = false → (s.conv x).sampAt + 2000 ≤ s.clock →
    let v := convValue s x (s.conv x) code
    let w := clampInt (-32767) 32767 v
    let u := (s.put PIN.ADC_RESULT (chipHome x) (adcWord (s.conv x) (decide (v ≠ w)) w)).put PIN.ADC_TIME (chipHome x)
      (s.sysFine ((s.conv x).sampAt * 65536) / 65536 : Nat)
    let u := if v ≠ w then clipped u else u
    goes (.adcResult x code) s ((convEnds u x).publish (u.rd PIN.ADC_DONE_EV (chipHome x)))) ∧
  (∀ s x, x < 4 → (s.conv x).st ≠ 0 → (s.conv x).dead = false → (s.conv x).reqAt + 30000 ≤ s.clock →
    goes (.adcFault x) s (chipCause (convEnds s x) x 0x04)) ∧
  (∀ s x, x < 4 → (s.conv x).st ≠ 0 → (s.conv x).dead = true → (s.conv x).reqAt + 30000 ≤ s.clock →
    goes (.adcFault x) s (convEnds s x)) ∧
  (∀ s c above, cmpListed c = true → (s.comp c).changing = true →
    goes (.comparatorInputCrossing c above) s (s.setComp c { s.comp c with waits := some above })) ∧
  (∀ s c above, cmpListed c = true → (s.comp c).changing = false → effMode s c ≠ 3 → clampSees s c above = none →
    goes (.comparatorInputCrossing c above) s (s.setComp c { s.comp c with raw := above, unresolved := false, resolve := none })) ∧
  (∀ s ch k, ch < 128 → k < 4 → connected (s.chState ch) = true → (s.comp (.window ch k)).changing = false →
    effMode s (.window ch k) ≠ 3 → goes (.comparatorInputCrossing (.window ch k) !(insideRaw k)) s (windowOut s ch k)) ∧
  (∀ s c n, cmpListed c = true → (s.comp c).changing = false → effMode s c ≠ 3 →
    goes (.comparatorFilterAccept c n) s (filterEdges c n s)) ∧
  (∀ s c, (s.comp c).changing = true → (s.comp c).waits.bind (clampSees (s.setComp c (changeEnds (s.comp c))) c) = none →
    goes (.comparatorModeChangeDone c) s (s.setComp c { s.comp c with
      changing := false, waits := none, raw := (s.comp c).waits.getD (s.comp c).raw
      unresolved := (s.comp c).unresolved && (s.comp c).waits.isNone
      resolve := if (s.comp c).waits.isSome then none else (s.comp c).resolve })) ∧
  (∀ s c ch k, (s.comp c).changing = true → (s.comp c).waits.bind (clampSees (s.setComp c (changeEnds (s.comp c))) c) = some (ch, k) →
    goes (.comparatorModeChangeDone c) s (windowOut (s.setComp c (changeEnds (s.comp c))) ch k))

/-- The tables and the stores of a domain (R212 to R222, R231, R249): vectors, segments, maps, park sets, the pin area, timing sets,
capture records. -/
def Obligations.SequencerTableRowsComplete : Prop :=
  (∀ s p d ws, accepted (.seqVecLoad p (.words ws)) s → targetDom p = some d → stopped s (.seq d) = false →
    pw p 2 % 64 = 0 → pw p 5 ≠ 0 → pw p 4 + pw p 5 ≤ areaGrans → hostGives s p (.words ws) ws →
    replies (.seqVecLoad p (.words ws)) p s St.SUCCESS [] (storeVectors s d (pw p 4) (vectorsOf (64 * pw p 5) ws))) ∧
  (∀ s p d ws, accepted (.seqSegWrite p (.words ws)) s → targetDom p = some d → stopped s (.seq d) = false →
    pw p 2 % 64 = 0 → pw p 5 ≠ 0 → pw p 4 + pw p 5 ≤ 16384 → hostGives s p (.words ws) ws →
    (∀ e, e ∈ segsOf (pw p 5) ws → segOk e = true) →
    s.seqState d = 0 ∨ (∀ e, e ∈ (segsOf (pw p 5) ws).zipIdx (pw p 4) →
      segPinned e.1 = false ∧ segPinned ((s.sequencer d).seg e.2) = false) →
    replies (.seqSegWrite p (.words ws)) p s St.SUCCESS [] (s.setSequencer d (((segsOf (pw p 5) ws).zipIdx (pw p 4)).foldl
      (writeSeg (decide (s.seqState d ∈ [3, 4, 5] ∨ (s.seqState d = 1 ∧ (s.sequencer d).newRun = false)))) (s.sequencer d)))) ∧
  (∀ s p d, accepted (.seqMapWrite p) s → targetDom p = some d → stopped s (.seq d) = false → pw p 2 < 256 →
    replies (.seqMapWrite p) p s St.SUCCESS [] (s.setSequencer d { s.sequencer d with
      maps := Bank.set (fun _ => 0) (s.sequencer d).maps (pw p 2) (pw64 p 3 + 2 ^ 64 * pw64 p 5) })) ∧
  (∀ s p d, accepted (.seqParkWrite p) s → targetDom p = some d → stopped s (.seq d) = false → pw p 2 < 16 →
    replies (.seqParkWrite p) p s St.SUCCESS [] (s.setSequencer d { s.sequencer d with
      parks := Bank.set (fun _ => parkReset) (s.sequencer d).parks (pw p 2)
        ((List.range 8).foldl (fun a i => a + pw p (3 + i) * 2 ^ (32 * i)) 0) })) ∧
  (∀ s p d, accepted (.seqPinLoad p) s → targetDom p = some d → stopped s (.seq d) = false → s.seqState d = 0 →
    (pinPlan (s.sequencer d)).foldl (fun n x => n + x.len) 0 ≤ s.rdN SEQ.PIN_SIZE d →
    (∀ x g, x ∈ pinPlan (s.sequencer d) → g ∈ segGrans x.len ((s.sequencer d).seg x.seg) → g ∉ (s.sequencer d).badGrans) →
    replies (.seqPinLoad p) p s St.SUCCESS [] (s.setSequencer d { s.sequencer d with
      pinSegs := pinPlan (s.sequencer d), pinVecs := (pinPlan (s.sequencer d)).flatMap (pinCopy (s.sequencer d)), pinBad := []
      pinSize := s.rdN SEQ.PIN_SIZE d })) ∧
  (∀ s p d ws, accepted (.tsWrite p (.words ws)) s → targetDom p = some d → stopped s (.seq d) = false → pw p 5 < 32 →
    pw p 2 % 64 = 0 → hostGives s p (.words ws) ws → headerOk (pad 1040 ws) = true → firstBadPin (pad 1040 ws) = none →
    replies (.tsWrite p (.words ws)) p s St.SUCCESS [0xFFFFFFFF] (s.setSequencer d { s.sequencer d with
      shadow := Bank.set (fun _ => Ts.init) (s.sequencer d).shadow (pw p 5) (imageTs (pad 1040 ws)) })) ∧
  (∀ s p d ks, accepted (.tsCommit p) s → targetDom p = some d → stopped s (.seq d) = false → s.seqState d ∈ [0, 5, 6] →
    ks = maskBits 32 (pw p 2) → (∀ e, e ∈ (s.sequencer d).shadows ks → tooFast d (s.rdN SEQ.HS_DIV 1) e.2 = false) →
    replies (.tsCommit p) p s St.SUCCESS [] (applyTs s d ((s.sequencer d).shadows ks))) ∧
  (∀ s p d ks, accepted (.tsCommit p) s → targetDom p = some d → stopped s (.seq d) = false → s.seqState d ∉ [0, 5, 6] →
    ks = maskBits 32 (pw p 2) → (∀ e, e ∈ (s.sequencer d).shadows ks → tooFast d (s.rdN SEQ.HS_DIV 1) e.2 = false) →
    replies (.tsCommit p) p s St.SUCCESS []
      (s.setSequencer d { s.sequencer d with commits := (s.sequencer d).commits ++ [(s.clockFine + 100 * 65536, ks)] })) ∧
  (∀ s d, d < 2 → s.seqState d ∈ [0, 5, 6] → goes (.tsCommitBoundary d) s (((s.sequencer d).commits.map Prod.snd).foldl
    (commitSets d) (s.setSequencer d { s.sequencer d with commits := [] }))) ∧
  (∀ s d t, d < 2 → s.seqState d = 3 ∨ s.seqState d = 4 → (s.sequencer d).period ≠ 0 →
    t = (s.sequencer d).t0 + stepsFine s ((s.sequencer d).steps + (s.sequencer d).period) →
    goes (.tsCommitBoundary d) s ((((s.sequencer d).commits.filter fun c => c.1 ≤ t).map Prod.snd).foldl (commitSets d)
      (s.setSequencer d { s.sequencer d with commits := (s.sequencer d).commits.filter fun c => t < c.1 }))) ∧
  (∀ s p d wr, accepted (.tsRead p wr) s → targetDom p = some d → stopped s (.seq d) = false → pw p 2 < 32 → pw p 3 ≤ 1 →
    pw p 4 % 64 = 0 → waits (.tsRead p wr) p s (writing s p (pw64 p 4) (tsWords (Bank.get (fun _ => Ts.init)
      (if pw p 3 = 0 then (s.sequencer d).active else (s.sequencer d).shadow) (pw p 2))) (.plain []))) ∧
  (∀ s p d wr, accepted (.seqCapRead p wr) s → targetDom p = some d → stopped s (.seq d) = false → pw p 2 % 64 = 0 → pw p 5 ≠ 0 →
    pw p 4 + pw p 5 ≤ capRecords → (∀ i, i < pw p 5 → pw p 4 + i ∉ (s.sequencer d).badCaps) →
    waits (.seqCapRead p wr) p s (writing s p (pw64 p 2)
      ((Bank.slice (fun _ => []) (s.sequencer d).cap (pw p 4) (pw p 5)).flatMap (pad 16)) (.plain []))) ∧
  (∀ s p d, accepted (.seqClearFails p) s → targetDom p = some d → stopped s (.seq d) = false →
    ∃ u, replies (.seqClearFails p) p s St.SUCCESS [] u ∧ u.sequencer d = { s.sequencer d with capPos := 0 } ∧
      u.rd SEQ.FAIL_COUNT d = 0 ∧ u.rd SEQ.CAP_LOST d = 0)

/-- The commands that run a domain (R224 to R243). -/
def Obligations.SequencerCommandsComplete : Prop :=
  (∀ s p d k, accepted (.seqLoad p) s → targetDom p = some d → stopped s (.seq d) = false → pw p 2 < 16384 →
    (List.range 4).find? (fun k => s.seqSlotState d k == 0) = some k →
    replies (.seqLoad p) p s St.SUCCESS [k]
      ((((s.wr SEQ.START_SEG d k (pw p 2)).wr SEQ.PRIORITY d k (fld (pw p 3) 0 2)).wr SEQ.START_AT d k 0).setSeqSlot d k 1)) ∧
  (∀ s p d, accepted (.seqStart p) s → targetDom p = some d → pw p 2 < 4 → stopped s (.seq d) = false → s.rd TB.STATE ≠ 2 →
    replies (.seqStart p) p s St.TIMEBASE [] s) ∧
  (∀ s p d k, accepted (.seqStart p) s → seqSlotReady s p d k → seqAtRest s d = true →
    replies (.seqStart p) p s St.SUCCESS [] (seqBegin s d k)) ∧
  (∀ s p d k, accepted (.seqStart p) s → seqSlotReady s p d k → seqAtRest s d = false →
    replies (.seqStart p) p s St.SUCCESS [] (seqReady s d k s.clockFine)) ∧
  (∀ s p d k, accepted (.seqArm p) s → seqSlotReady s p d k →
    ∃ u, u = (s.wr SEQ.START_AT d k (pw64 p 3)).setSeqSlot d k 2 ∧
      replies (.seqArm p) p s St.SUCCESS [] (if seqAtRest u d then prime u d false (u.rdN SEQ.START_SEG d k) else u)) ∧
  (∀ s p d, accepted (.seqStop p) s → targetDom p = some d → stopped s (.seq d) = false → seqPlays s d = true →
    replies (.seqStop p) p s St.SUCCESS [] (askSeq s d { kind := .stop, at_ := s.clockFine })) ∧
  (∀ s p d, accepted (.seqJump p) s → targetDom p = some d → stopped s (.seq d) = false → seqPlays s d = true →
    replies (.seqJump p) p s St.SUCCESS [] (askSeq s d { kind := .jump, at_ := s.clockFine, jcond := 3 })) ∧
  (∀ s p d, accepted (.seqResume p) s → targetDom p = some d → stopped s (.seq d) = false → shedding s = false → s.seqState d = 5 →
    s.rd TB.STATE = 2 → replies (.seqResume p) p s St.SUCCESS [] (releaseSeq (releaseSeq s d .reaction) d .coast)) ∧
  (∀ s p d, accepted (.seqAbort p) s → targetDom p = some d → stopped s (.seq d) = false →
    replies (.seqAbort p) p s St.SUCCESS [] (parkIfBusy 4 s d)) ∧
  (∀ s p d, accepted (.seqIdle p) s → targetDom p = some d → stopped s (.seq d) = false → s.seqState d ∈ [2, 5, 6] →
    replies (.seqIdle p) p s St.SUCCESS [] (seqToIdle s d)) ∧
  (∀ s p d, accepted (.seqRelease p) s → targetDom p = some d → stopped s (.seq d) = false → pw p 2 < 4 →
    s.seqSlotState d (pw p 2) = 1 ∨ s.seqSlotState d (pw p 2) = 7 →
    replies (.seqRelease p) p s St.SUCCESS [] (s.setSeqSlot d (pw p 2) 0))

/-- The events of a domain (R225 to R243): priming, a vector, a refill, pulses on its consumers, a start time. -/
def Obligations.SequencerEventRowsComplete : Prop :=
  (∀ s d at_, s.seqState d = 1 → primed s d = true → ((galeDone s d).sequencer d).autoRun = true → ∃ (u : State) (t : Nat),
    u = galeDone s d ∧ t = min (max at_ (65536 * u.now)) (65536 * (u.now + 125)) ∧
    goes (.primingComplete ⟨d, at_⟩) s (sourceNow ((u.setSequencer d { u.sequencer d with
      period := 0, startAt := some (u.clockOf (edgesAfter u t 128)) }).put SEQ.STATE d 3) d)) ∧
  (∀ s d at_, s.seqState d = 1 → primed s d = true → ((galeDone s d).sequencer d).autoRun = false → ∃ u : State,
    u = galeDone s d ∧ goes (.primingComplete ⟨d, at_⟩) s ((u.setSequencer d { u.sequencer d with
      period := 0, startAt := none }).put SEQ.STATE d 2)) ∧
  (∀ s d edge window, d < 2 → s.seqState d = 3 → (s.sequencer d).fresh = false →
    (s.sequencer d).idx.getD 0 + 1 < passLen (s.sequencer d) → ∃ u v : State, u = vectorClock s d ∧
    v = applyCommits u d (vectorTime u d) ∧ goes (.vectorStart d edge window) s
      (let w := v.setSequencer d { v.sequencer d with idx := some ((s.sequencer d).idx.getD 0 + 1) }
       if w.seqState d = 3 then issueNext w d (edge ++ window) else w)) ∧
  (∀ s d edge window, d < 2 → s.seqState d = 3 → (s.sequencer d).fresh = true → ∃ u v : State, u = vectorClock s d ∧
    v = beginPlay (applyCommits u d (vectorTime u d)) d ∧
    goes (.vectorStart d edge window) s (if v.seqState d = 3 then issueNext v d (edge ++ window) else v)) ∧
  (∀ s d edge window, d < 2 → s.seqState d = 3 → (s.sequencer d).fresh = false →
    passLen (s.sequencer d) ≤ (s.sequencer d).idx.getD 0 + 1 → ∃ u v w : State, u = vectorClock s d ∧
    v = passEnd (applyCommits u d (vectorTime u d)) d ∧
    (w = if v.seqState d = 3 ∧ (v.sequencer d).fresh = true then beginPlay v d else v) ∧
    goes (.vectorStart d edge window) s (if w.seqState d = 3 then issueNext w d (edge ++ window) else w)) ∧
  (∀ s d edge window n, d < 2 → s.seqState d = 4 →
    n = (((s.sequencer d).pinnedAt (s.rdN SEQ.PAD_SEG d)).map PinSeg.len).getD 0 * 64 → ∃ u v : State, u = vectorClock s d ∧
    v = applyCommits u d (vectorTime u d) ∧
    ((s.sequencer d).padSeg ≠ v.rdN SEQ.PAD_SEG d → goes (.vectorStart d edge window) s (padVector v d 0)) ∧
    ((s.sequencer d).padSeg = v.rdN SEQ.PAD_SEG d → v.rdN SEQ.PAD_SEG d = s.rdN SEQ.PAD_SEG d → (s.sequencer d).padIdx + 1 < n →
      goes (.vectorStart d edge window) s (padVector v d ((s.sequencer d).padIdx + 1))) ∧
    ((s.sequencer d).padSeg = v.rdN SEQ.PAD_SEG d → v.rdN SEQ.PAD_SEG d = s.rdN SEQ.PAD_SEG d → n ≤ (s.sequencer d).padIdx + 1 →
      goes (.vectorStart d edge window) s (if ringReady v d (v.rdN SEQ.PAD_RESUME d) then
        issueNext (v.put SEQ.STATE d 3) d (edge ++ window) else padVector v d 0))) ∧
  (∀ s d edge window r, d < 2 → s.seqState d ≠ 3 → s.seqState d ≠ 4 → driverRun s d = some r → r.played < driverVectors →
    goes (.vectorStart d edge window) s (driverVector s d r (edge ++ window))) ∧
  (∀ s d j good g, seqBusy s d = true → fetchNext s d j = some g →
    goes (.granuleFetchDone d j good) s (s.setSequencer d { s.sequencer d with
      missNext := false
      ring := ringRoom s d j ++ [⟨g, Bank.slice (fun _ => ⟨0, 0⟩) (s.sequencer d).vecs (64 * g) 64,
        !good || (s.sequencer d).badGrans.contains g || (s.sequencer d).missNext⟩] })) ∧
  (∀ s d t k, d < 2 → (s.con (0x48 + 2 * d)).capt = some t →
    (List.range 4).find? (fun k => s.seqSlotState d k == 2 && s.seqSlot SEQ.START_AT d k == 0) = some k →
    goes (.seqEvStart d) s (seqFire (clearCapt s (0x48 + 2 * d)) d k (s.sysFine t) 128)) ∧
  (∀ s d t, d < 2 → (s.con (0x49 + 2 * d)).capt = some t → seqPlays s d = true →
    goes (.seqEvStop d) s (askSeq (clearCapt s (0x49 + 2 * d)) d { kind := .stop, at_ := t })) ∧
  (∀ s d, (s.sequencer d).jevs ≠ [] → seqPlays s d = true → goes (.seqJevPulse d) s (((s.sequencer d).jevs.map jevAsk).foldl
    (fun s a => askSeq s d a) (s.setSequencer d { s.sequencer d with jevs := [] }))) ∧
  (∀ s d k, d < 2 → k < 4 → s.seqSlotState d k = 2 → s.seqSlot SEQ.START_AT d k ≠ 0 → s.seqSlot SEQ.START_AT d k ≤ s.now →
    goes (.seqStartAt d k) s (seqFire s d k (65536 * s.seqSlot SEQ.START_AT d k) 0))


/-- The timebase's events (R256 to R272): loss and return of the reference and of lock, qualification, band search, lock, timeouts, the
coast budget, the hold DAC, the frequency guard. -/
def Obligations.TimebaseEventRowsComplete : Prop :=
  (∀ s, s.pwr.lull ≠ 3 → goes .refLoss s (refLost s false)) ∧
  (∀ s err, 4 * lockWin s < iabs err → s.tbState = 2 →
    goes (.lockLoss err) s (enterCoast (s.put TB.PHASE_ERR 0 (clampInt (-32768) 32767 err)) 2 true)) ∧
  (∀ s, s.tbState = 3 ∨ s.tbState = 4 → s.tb.present = true → s.rd TB.AUTO_RELOCK = 1 → s.pwr.lull ≠ 3 → s.tb.halted = false →
    max s.tb.enteredAt s.tb.since + 1000000 * s.rdN TB.REF_QUAL ≤ s.clock → goes .refQualElapsed s (startSearch s)) ∧
  (∀ s b, s.tbState = 0 → s.pwr.lull ≠ 3 → s.tb.halted = false → b < 32 →
    goes (.bandSearchDone (some b)) s ((s.put TB.VCO_BAND 0 b).put TB.STATE 0 1)) ∧
  (∀ s, s.tbState = 0 → s.pwr.lull ≠ 3 → s.tb.halted = false → goes (.bandSearchDone none) s (guardWait s 0x04)) ∧
  (∀ s err, s.tbState = 1 → iabs err ≤ lockWin s → s.pwr.lull ≠ 3 → s.tb.halted = false → ∃ v w : State,
    v = lockRecord ((s.put TB.PHASE_ERR 0 err).put TB.STATE 0 2) ∧
    w = ((v.put TB.RECOVERY 0 0).put TB.BUDGET_OUT 0 0).publish (v.rd TB.EV_LOCK) ∧
    goes (.lockDeclared err) s (answerTb (w.setTb { w.tb with budget := none, oldActive := [] }) St.SUCCESS)) ∧
  (∀ s, s.tbState = 0 ∨ s.tbState = 1 → s.tb.enteredAt + 1000000 * s.rdN TB.LOCK_TIMEOUT ≤ s.clock → s.pwr.lull ≠ 3 →
    s.tb.halted = false → goes .lockTimeout s (guardWait s 0x05)) ∧
  (∀ s t, s.tb.budget = some t → t ≤ s.clock → s.tbState ≠ 2 → goes .coastBudgetExpiry s (budgetOut s)) ∧
  (∀ s, s.tbState = 3 → s.tb.enteredAt + 1000000000 ≤ s.clock → s.tb.holdDac = false →
    goes .holdDacTransfer s (s.setTb { s.tb with holdDac := true })) ∧
  (∀ s, goes .freqGuardSuppress s (record (s.bump TB.GUARD_BLOCK) 7 0 0x06)) ∧
  (∀ s, s.tb.present = false → s.tb.injTill ≤ s.clock → ∃ a, goes .refReturn s (s.setTb { s.tb with
    present := true, since := s.clock, absent := a }) ∧ s.tb.absent ≤ a) ∧
  (∀ s r l, s.tb.phase = r :: l → iabs r.left ≤ 1 → ∃ u : State, u.rd TB.PHASE_OFS = TB.PHASE_OFS.wrap (s.rd TB.PHASE_OFS +
      (if r.left < 0 then -1 else 1)) ∧ u.tb = { s.tb with phase := l } ∧
    goes .phaseStepApply s (u.complete r.src r.tag St.SUCCESS [r.applied + 1])) ∧
  (∀ s r l, s.tb.phase = r :: l → 1 < iabs r.left → ∃ u, goes .phaseStepApply s u ∧ u.tb = { s.tb with
    phase := { r with left := r.left - (if r.left < 0 then -1 else 1), applied := r.applied + 1 } :: l })

/-- The timebase's commands (R261, R268, R272, R274). -/
def Obligations.TimebaseCommandsComplete : Prop :=
  (∀ s p, accepted (.tbCommit p) s → tbValid (shadowCopy s) = true → movesVco (activeCopy s) (shadowCopy s) = false → s.tbState ≠ 4 →
    replies (.tbCommit p) p s St.SUCCESS [] (takeShadow s)) ∧
  (∀ s p, accepted (.tbCommit p) s → tbValid (shadowCopy s) = true → movesVco (activeCopy s) (shadowCopy s) = false → s.tbState = 4 →
    waits (.tbCommit p) p s (relock (takeShadow s) p (activeCopy s))) ∧
  (∀ s p, accepted (.tbCommit p) s → tbValid (shadowCopy s) = true → movesVco (activeCopy s) (shadowCopy s) = true →
    relockBarred s p = false → (activeCopy s).getD 0 0 = (shadowCopy s).getD 0 0 →
    waits (.tbCommit p) p s (relock (takeShadow s) p (activeCopy s))) ∧
  (∀ s p, accepted (.tbRelock p) s → relockBarred s p = false → waits (.tbRelock p) p s (relock s p (activeCopy s))) ∧
  (∀ s p, accepted (.tbPhaseStep p) s → sfld 32 (pw p 2) ≠ 0 → iabs (sfld 32 (pw p 2)) ≤ 32767 → s.tbState = 2 →
    s.rd TB.TIME_OWNER ≠ 1 →
    waits (.tbPhaseStep p) p s (s.setTb { s.tb with phase := s.tb.phase ++ [⟨p.src, pTag p, sfld 32 (pw p 2), 0⟩] })) ∧
  (∀ s p, accepted (.tbPhaseStep p) s → sfld 32 (pw p 2) = 0 → s.tbState = 2 → s.rd TB.TIME_OWNER ≠ 1 →
    replies (.tbPhaseStep p) p s St.SUCCESS [0] s) ∧
  (∀ s p, accepted (.tbTimeSet p) s → pw64 p 2 % 125 = 0 → s.rd TB.TIME_OWNER ≠ 1 → armedAtTime s = false →
    waits (.tbTimeSet p) p s (s.setTb { s.tb with timeSet := s.tb.timeSet ++ [(p.src, pTag p, pw64 p 2)] }))

/-- The fabric's events (R282 to R306, R538): a pulse, the monitor window, ticks, trigger inputs, Eddy cells, releases, echoes. -/
def Obligations.FabricEventRowsComplete : Prop :=
  (∀ s ch t p a, nextPulse s ch t = some p → a = p.leaves s t → (∀ b, (s.chan ch).raw = some b → a < b ∨ b + nsFine 1 ≤ a) →
    goes (.eventChannelPulse ch t) s (stages { s with evf := { s.evf with lines := s.evf.lines.erase p } } ch a p.rel p.echo)) ∧
  (∀ s ch t p a b, nextPulse s ch t = some p → a = p.leaves s t → (s.chan ch).raw = some b → b ≤ a → a < b + nsFine 1 → ∃ u : State,
    u = { s with evf := { s.evf with lines := s.evf.lines.erase p } } ∧
    goes (.eventChannelPulse ch t) s (if p.rel then turnReleased u ch b a else u)) ∧
  (∀ s, s.evf.winAt + 10000 ≤ s.clock → ∃ u : State,
    u = (s.evf.chans.map Prod.fst).foldl (fun s c => s.setChan c { s.chan c with inWindow := 0 }) s ∧ goes .loopMonitorWindow s
      { u with evf := { u.evf with winAt := u.evf.winAt + (u.clock - u.evf.winAt) / 10000 * 10000 } }) ∧
  (∀ s g t, g < 8 → 0 < (s.ticker g).period → t % (s.ticker g).period = (s.ticker g).phase % (s.ticker g).period → s.now ≤ t →
    t < s.now + 125 → (s.ticker g).last = none →
    ∃ u, u = s.setTicker g { s.ticker g with last := some (s.clockOf (nsFine t) / 65536) } ∧
      goes (.tick g t) s (tickAdopt (u.publish (s.rd EVF.TICK_EV 0 g) (some (s.clockOf (edgeFrom s (nsFine t))))) g)) ∧
  (∀ s n rising, n < 8 → bit (s.rdN EVF.TRIG_CTL 0 n) 31 = false → bit (s.rdN EVF.TRIG_CTL 0 n) (if rising then 29 else 30) = true →
    goes (.trigInputEdge n rising) s (s.publish (fld (s.rdN EVF.TRIG_CTL 0 n) 22 6))) ∧
  (∀ s n e, (s.cell n).edge = some e → e.at_ + eddyFilt (s.rdN EVF.EDDY_CTL 0 n) < cycleEnd s → (s.cell n).ends = [] →
    goes (.eddyOutputEdge n) s (eddyPublish s n)) ∧
  (∀ s n i t, Bank.find i (s.cell n).ends = some t → t < cycleEnd s → goes (.eddyStretchEnd n i) s (eddyExpire t 4 s n)) ∧
  (∀ s sev r, nextRelease s sev = some r → r.due < nsFine (s.now + 125) → 0 ≤ s.rd EVF.SEV_IN 0 sev →
    s.rd EVF.SEV_IN 0 sev < 64 → moves (.sevRelease sev) s { s with evf := { s.evf with
      releases := s.evf.releases.erase r
      lines := s.evf.lines ++ [{ ch := s.rdN EVF.SEV_IN 0 sev, rel := true, at_ := some (s.clockOf r.due) }] } }) ∧
  (∀ s ch t rest, s.evf.echoDue = (ch, t) :: rest → t < cycleEnd s → moves .evfEchoPulse s { s with evf := { s.evf with
    echoDue := rest, lines := s.evf.lines ++ [{ ch := ch, echo := true, at_ := some t }] } })

/-- The fabric's commands (R287, R291, R311, R312, R342). -/
def Obligations.FabricCommandsComplete : Prop :=
  (∀ s p, accepted (.fabricArm p) s → s.evfMode = 1 → replies (.fabricArm p) p s St.SUCCESS [] s) ∧
  (∀ s p, accepted (.fabricArm p) s → s.evfMode ≠ 1 → s.evfMode ≠ 2 → s.rd EVF.LOOP_CH = 0xFF →
    replies (.fabricArm p) p s St.SUCCESS [] (enterMode s 1)) ∧
  (∀ s p, accepted (.evfTestEnter p) s → lcFor s p ≠ 4 → s.evfMode ≠ 2 → s.evfMode ≠ 3 →
    replies (.evfTestEnter p) p s St.SUCCESS [] (enterMode { s with evf := { s.evf with beforeTest := s.evfMode } } 2)) ∧
  (∀ s p, accepted (.evfTestExit p) s → s.evfMode = 2 →
    replies (.evfTestExit p) p s St.SUCCESS [] (enterMode s s.evf.beforeTest)) ∧
  (∀ s p, accepted (.eventFire p) s → ∃ u, replies (.eventFire p) p s St.SUCCESS [] u ∧
    u = { s with evf := { s.evf with lines := s.evf.lines ++ (maskBits 64 (pw64 p 2)).map fun c =>
      { ch := c, at_ := some s.clockFine } } }) ∧
  (∀ s p, accepted (.evfClear p) s → ∃ u, replies (.evfClear p) p s St.SUCCESS [] u ∧
    (∀ c, c < 64 → u.rd EVF.CH_DROP 0 c = 0) ∧ (∀ n, n < 16 → u.rd EVF.SEV_STAT 0 n = 0) ∧
    (∀ n, n ∈ consumers → (u.con n).merges = 0)) ∧
  (∀ s p wr, accepted (.cuRead p wr) s → pw p 2 ≤ 15 → 1 ≤ pw p 5 → pw p 5 ≤ 16 → pw p 3 % 16 = 0 →
    (s.cu (pw p 2)).length ≤ leaving s (pw p 2) → replies (.cuRead p wr) p s St.SUCCESS [0] s) ∧
  (∀ s p wr got, accepted (.cuRead p wr) s → pw p 2 ≤ 15 → 1 ≤ pw p 5 → pw p 5 ≤ 16 → pw p 3 % 16 = 0 →
    leaving s (pw p 2) < (s.cu (pw p 2)).length → got = ((s.cu (pw p 2)).drop (leaving s (pw p 2))).take (pw p 5) →
    waits (.cuRead p wr) p s (writing s p (pw64 p 3) (got.flatMap fun q => [q.w0, q.w1, q.w2, q.w3])
      (.cu (pw p 2) got.length)))

/-- The queue registers' rows (R316, R317): a doorbell moves a ring's index or is refused, an enable starts or ends a queue. -/
def Obligations.QueueRegisterRowsComplete : Prop :=
  (∀ s q v, q < 64 → s.barOpen = true → (s.sq q).enable = true → v % 4096 ≤ (s.sq q).size →
    goes (.sqTailDoorbell q v) s (s.setSq q { s.sq q with tail := v % 4096 })) ∧
  (∀ s q v, q < 64 → s.barOpen = true → (s.sq q).enable = false ∨ (s.sq q).size < v % 4096 →
    goes (.sqTailDoorbell q v) s (record s 0x0F 0 0x40)) ∧
  (∀ s q v, q < 64 → s.barOpen = true → (s.cq q).enable = true → v % 4096 ≤ (s.cq q).size →
    (v % 4096 + ((s.cq q).size + 1) - (s.cq q).head) % ((s.cq q).size + 1) ≤
      ((s.cq q).tail + ((s.cq q).size + 1) - (s.cq q).head) % ((s.cq q).size + 1) →
    ∃ u : State, ∃ k : Cq, u = cqWaits s q ∧ k = { u.cq q with head := v % 4096 } ∧
      goes (.cqHeadDoorbell q v) s (u.setCq q { k with full := k.full && !cqRoom k })) ∧
  (∀ s q v, q < 64 → s.barOpen = true → (s.cq q).enable = false ∨ (s.cq q).size < v % 4096 →
    goes (.cqHeadDoorbell q v) s (record s 0x0F 0 0x40)) ∧
  (∀ s q, q < 64 → s.barOpen = true → (s.cq (s.sq q).cq).enable = true → (s.sq q).enable = false → goes (.sqEnableWrite q true) s
    (s.setSq q { s.sq q with enable := true, head := 0, tail := 0, fetching := 0, fault := false })) ∧
  (∀ s q, q < 64 → s.barOpen = true → (s.cq (s.sq q).cq).enable = false →
    goes (.sqEnableWrite q true) s (record s 0x0F 0 0x44)) ∧
  (∀ s q, q < 64 → s.barOpen = true → (s.sq q).enable = true → goes (.sqEnableWrite q false) s
    (flushQueue (s.setSq q { s.sq q with enable := false, fault := false, fetching := 0 }) q)) ∧
  (∀ s q, q < 64 → s.barOpen = true → (s.cq q).enable = false → goes (.cqEnableWrite q true) s (s.setCq q { s.cq q with
    enable := true, head := 0, tail := 0, phase := true, fault := false, full := false, unsig := 0 })) ∧
  (∀ s q, q < 64 → s.barOpen = true → (s.cmd.sqs.any fun e => e.2.enable && e.2.cq == q) = true →
    goes (.cqEnableWrite q false) s (record s 0x0F 0 0x44)) ∧
  (∀ s q, q < 64 → s.barOpen = true → (s.cmd.sqs.any fun e => e.2.enable && e.2.cq == q) = false → (s.cq q).pend = [] →
    goes (.cqEnableWrite q false) s (s.setCq q { s.cq q with enable := false, fault := false, full := false, unsig := 0 }))

/-- The command path's rows (R318 to R328, R345): a fetch of up to eight packets, their arrival, the dispatch of one command, the
posting of one completion, the interrupt timer, the mailbox. -/
def Obligations.CommandPathRowsComplete : Prop :=
  (∀ s n u va pa, ¬ (s.cmd.mbxWaiting = true ∧ mayFetch s false = true) → nextSq s = some n → s.dmaOpen = true →
    u = { s with cmd := { s.cmd with lastSq := Bank.set (fun _ => 63) s.cmd.lastSq (s.sq n).qprio n } } →
    va = (s.sq n).base + 64 * (s.sq n).head → inFlight s + fetchingNow s ≤ 4096 →
    (s.rd XLT.MODE n = 0 ∧ pa = va) ∨ reachBus u (.ring n) n va false = .go pa →
    ∃ count, count ≤ 8 ∧ inFlight s + fetchingNow s + count ≤ 4096 ∧
      ((s.sq n).imm = true ∨ count ≤ 4032 - (fwInFlight s + fwFetching s)) ∧
      count ≤ ((s.sq n).tail + ((s.sq n).size + 1) - (s.sq n).head) % ((s.sq n).size + 1) ∧
      moves .packetFetch s ((u.setSq n { s.sq n with fetching := count }).request n (.hostRead n pa (64 * count)))) ∧
  (∀ s, s.cmd.mbxWaiting = true → mayFetch s false = true →
    moves .packetFetch s (addOp { s with cmd := { s.cmd with mbxWaiting := false } } ⟨.mbx, s.cmd.mbxCmd⟩)) ∧
  (∀ s q ps fault, q < 64 → 0 < (s.sq q).fetching → ps.length = (s.sq q).fetching → fault = none →
    goes (.packetArrive q ps fault) s (ps.foldl (arriveOne q) (s.setSq q { s.sq q with
      fetching := 0, head := ((s.sq q).head + ps.length) % ((s.sq q).size + 1) }))) ∧
  (∀ s q ps f, q < 64 → 0 < (s.sq q).fetching → (s.sq q).enable = true → (s.sq q).fault = false → ∃ u : State,
    u = hostFaulted s q ((s.sq q).base + 64 * (s.sq q).head) (readStatus f) ∧
    goes (.packetArrive q ps (some f)) s (record (u.setSq q { s.sq q with fetching := 0, fault := true }) 0x0F 0 0x41)) ∧
  (∀ s o, stopped s .cmd = false → s.tst.extest = false → nextOp s = some o → listedOpcode (pOpcode o.pkt) = true →
    (immediateSq s o.pkt = true → immediateOk (pOpcode o.pkt) = true) →
    moves .commandDispatch s (judgedNow { s with cmd := { s.cmd with ops := s.cmd.ops.map fun x =>
      if x == o then { x with stage := .running } else x } } o.pkt)) ∧
  (∀ s o, stopped s .cmd = false → s.tst.extest = false → nextOp s = some o → listedOpcode (pOpcode o.pkt) = false →
    immediateSq s o.pkt = false → goes .commandDispatch s (State.complete { s with cmd := { s.cmd with
      ops := s.cmd.ops.map fun x => if x == o then { x with stage := .released } else x } }
      o.pkt.src (pTag o.pkt) St.BAD_OPCODE [])) ∧
  (∀ s q n c rest fault pa va, (s.cq q).pend = c :: rest → c.src = .sq n → (s.cq q).enable = true → (s.cq q).fault = false →
    s.dmaOpen = true → q < 64 → cqRoom (s.cq q) = true → awaits s (.post q) q = false → va = (s.cq q).base + 32 * (s.cq q).tail →
    (s.rd XLT.MODE q = 0 ∧ pa = va) ∨ reachBus s (.post q) q va true = .go pa →
    ∃ k : Cq, ∃ u : State, k.pend = rest ∧ k.tail = ((s.cq q).tail + 1) % ((s.cq q).size + 1) ∧
      k.phase = (if k.tail = 0 then !(s.cq q).phase else (s.cq q).phase) ∧ k.unsig = (s.cq q).unsig + 1 ∧
      k.head = (s.cq q).head ∧ k.full = false ∧ u = completionWritten (cqWaits ((s.request q (.hostWrite q pa
        (cplWords c (s.cq q).phase false (s.sq n).head n))).setCq q k) q) c ∧
      goes (.completionPost q fault) s (if (s.cq q).irqEn && decide (max 1 (s.cq q).coalCount ≤ k.unsig) then cqInterrupt u q
        else u)) ∧
  (∀ s q fault, (s.cq q).pend ≠ [] → (s.cq q).enable = true → (s.cq q).fault = false → s.dmaOpen = true → q < 64 →
    awaits s (.post q) q = false → cqRoom (s.cq q) = false → ∃ u : State, u = s.setCq q { s.cq q with
      full := true, pend := (s.cq q).pend.map fun c => { c with waited := true } } ∧
    goes (.completionPost q fault) s (((s.cq q).pend.filter fun c => !c.waited).foldl (fun s _ => record s 0x0F 0 0x43) u)) ∧
  (∀ s q, q < 64 → (s.cq q).irqEn = true → 0 < (s.cq q).unsig → (s.cq q).unsigAt + 1000 * 2 ^ (s.cq q).coalTime ≤ s.clock →
    moves (.cqInterruptTimer q) s ((s.setCq q { s.cq q with unsig := 0 }).raise (s.cq q).vector)) ∧
  (∀ s, s.barOpen = true → s.cmd.mbxBusy = false → mayFetch s false = true → goes .mbxGo s
    (addOp { s with cmd := { s.cmd with mbxBusy := true, mbxDone := false } } ⟨.mbx, pad 16 s.cmd.mbxCmd⟩)) ∧
  (∀ s, s.barOpen = true → s.cmd.mbxBusy = true → goes .mbxGo s (record s 0x0F 0 0x40))

/-- Parameters whose write only stores the value (R11): those of the timebase (R278), XLT.PRI_EN (R409), the Vane's but for its monitors
(R512), the host link's but for LB_BOOT (R378). -/
def Sys2Proof.Claims.storesOnly (r : PRef) : Bool :=
  !isCoef r.id && !isDeskew r.id && !isRef r.id && (r.prm.blk == 7 || r.is XLT.PRI_EN ||
    (r.prm.blk == 13 && !r.is VANE.MON_CTL && !r.is VANE.MON_THR) || (r.prm.blk == 15 && !r.is HL.LB_BOOT))

/-- The common commands (R333 to R340): NOP, the identity pages, parameter reads and writes, SET_NOW, TRIGGER, ABORT, STATUS_READ,
NOW_RESERVE. -/
def Obligations.CommonCommandsComplete : Prop :=
  (∀ s p, accepted (.nop p) s → replies (.nop p) p s St.SUCCESS [] s) ∧
  (∀ s p ws, accepted (.identify p) s → identityPage s (pw p 2) = some ws → replies (.identify p) p s St.SUCCESS ws s) ∧
  (∀ s p d wr r, accepted (.paramGet p d wr) s → pPtr p = false → findPrm (pw p 1) = some r →
    stopped s (islandOf r.prm.blk r.inst) = false →
    replies (.paramGet p d wr) p s St.SUCCESS (valueWords (readPrm s r)) s) ∧
  (∀ s p d wr ws out, accepted (.paramGet p d wr) s → pPtr p = true → pw p 5 % 16 = 0 → hostGives s p d ws →
    (∀ k i, i < pw p 4 / 4 → k = (pad (pw p 4 / 4) ws).getD i 0 → ∃ r, findPrm k = some r ∧
      stopped s (islandOf r.prm.blk r.inst) = false) →
    out = (pad (pw p 4 / 4) ws).flatMap (fun k => match findPrm k with
      | some r => valueWords (readPrm s r)
      | none => []) →
    waits (.paramGet p d wr) p s (writing s p (pw64 p 5) out (.plain []))) ∧
  (∀ s p d r v, accepted (.paramSet p d) s → pPtr p = false → findPrm (pw p 1) = some r → storesOnly r = true → r.prm.acc = .rw →
    stopped s (islandOf r.prm.blk r.inst) = false → decodeValue r.prm (rawValue (p.words.drop 2)) = some v → r.prm.accepts v = true →
    replies (.paramSet p d) p s St.SUCCESS [] (adoptTicks s (s.wr r.prm r.inst r.idx v))) ∧
  (∀ s p d t, accepted (.paramSet p d) s → pPtr p = false → applyWrites s (lcFor s p) [(pw p 1, rawValue (p.words.drop 2))] = .ok (t, 0) →
    replies (.paramSet p d) p s St.SUCCESS [] t) ∧
  (∀ s p d t n, accepted (.paramSet p d) s → pPtr p = false → 0 < n →
    applyWrites s (lcFor s p) [(pw p 1, rawValue (p.words.drop 2))] = .ok (t, n) →
    replies (.paramSet p d) p s St.SUCCESS_WARN [0, 0, 0, n] t) ∧
  (∀ s p d ws t, accepted (.paramSet p d) s → pPtr p = true → hostGives s p d ws →
    (∀ e ∈ listEntries (pw p 4 / 24) ws, e.2.1 = true) →
    applyWrites s (lcFor s p) ((listEntries (pw p 4 / 24) ws).map fun e => (e.1, e.2.2)) = .ok (t, 0) →
    replies (.paramSet p d) p s St.SUCCESS [] t) ∧
  (∀ s p c v u, accepted (.setNow p) s → setpointChan (pw p 1) = some c → v = sfld 24 (pw p 2) → toField 32 v = pw p 2 →
    iabs v ≤ 4194304 → stopped s (chanIsland c) = false → owned s c = false → shedding s = false ∨ iabs v ≤ iabs (s.setpoint c) →
    r71Holds s c (s.onMode c) v (s.rdN FCH.VRANGE c) = true → 128 ≤ c ∨ (iabs v).toNat ≤ ceilingOf s c →
    u = s.cput FCH.SETPOINT HVC.SETPOINT c v →
    (connected (s.chState c) = false ∨ (s.ch c).motion = .ramping ∨ setpointDelay s c v = 0 → replies (.setNow p) p s St.SUCCESS
      [lo32 (s.now + 125), hi32 (s.now + 125)] (touch (u.setCh c { u.ch c with
        parVr := if c < 128 then s.rdN FCH.VRANGE c else 4
        parIr := if (u.ch c).irNew then (s.crd FCH.IRANGE HVC.IRANGE c).toNat else (u.ch c).irTarget
        waitSet := none, rampNew := true }) c)) ∧
    (∀ d, connected (s.chState c) = true → (s.ch c).motion ≠ .ramping → setpointDelay s c v = d → 0 < d →
      replies (.setNow p) p s St.SUCCESS_WARN
        [lo32 (s.now + 125 + 125 * d), hi32 (s.now + 125 + 125 * d), 0, d] (aimRails (u.setCh c { u.ch c with
          parVr := if c < 128 then s.rdN FCH.VRANGE c else 4
          parIr := if (u.ch c).irNew then (s.crd FCH.IRANGE HVC.IRANGE c).toNat else (u.ch c).irTarget
          waitSet := some v, rampNew := true }) (groupOf c)))) ∧
  (∀ s p ns, accepted (.trigger p) s → ns = (maskBits 17 (pw p 2)).map (0x50 + ·) ++ (maskBits 17 (pw p 3)).map (4 * ·) ++
      (maskBits 2 (pw p 4)).map (0x48 + 2 * ·) → (∀ n, n ∈ ns → conStopped s n = false) →
    replies (.trigger p) p s St.SUCCESS [lo32 s.systime, hi32 s.systime] (ns.foldl (fun s n => deliver s n 0 s.clockFine false) s)) ∧
  (∀ s p n, accepted (.trigger p) s → n ∈ (maskBits 17 (pw p 2)).map (0x50 + ·) ++ (maskBits 17 (pw p 3)).map (4 * ·) ++
      (maskBits 2 (pw p 4)).map (0x48 + 2 * ·) → conStopped s n = true → replies (.trigger p) p s St.ISLAND_STOPPED [] s) ∧
  (∀ s p, accepted (.abort p) s → bit (pw p 4) 31 = false →
    (∀ e, e ∈ maskBits 17 (pw p 2) → stopped s (engineIsland e) = false) →
    (∀ d, d ∈ maskBits 2 (pw p 3) → stopped s (.seq d) = false) → replies (.abort p) p s St.SUCCESS [0]
    ((maskBits 2 (pw p 3)).foldl (parkIfBusy 4) ((maskBits 17 (pw p 2)).foldl (fun s e => bringForward (abortEngine s e) e) s))) ∧
  (∀ s p, accepted (.abort p) s → (∃ e, e ∈ maskBits 17 (pw p 2) ∧ stopped s (engineIsland e) = true) ∨
    (∃ d, d ∈ maskBits 2 (pw p 3) ∧ stopped s (.seq d) = true) → replies (.abort p) p s St.ISLAND_STOPPED [] s) ∧
  (∀ s p src tag t, accepted (.abort p) s → pw p 2 = 0 → pw p 3 = 0 → abortTarget p = some (src, tag) →
    abortOp s src tag = some t → replies (.abort p) p s St.SUCCESS [3] t) ∧
  (∀ s p blk inst, accepted (.statusRead p) s → pw p 1 = blk * 0x1000000 + inst * 0x1000 → inst < 0x1000 →
    winExists blk inst = true → stopped s (islandOf blk inst) = false → replies (.statusRead p) p s St.SUCCESS
      [statusWord (s.win blk inst), (s.win blk inst).count, (s.win blk inst).first, (s.win blk inst).last] s) ∧
  (∀ s p c t, accepted (.nowReserve p) s → targetInst p 1 = some c → pw p 2 ≤ 4194304 → stopped s (chanIsland c) = false →
    t = { s with cmd := { s.cmd with ceilings := Bank.set (fun _ => 0) s.cmd.ceilings c (pw p 2) } } →
    budgetAllows s (t.setCh c (t.ch c)) c → replies (.nowReserve p) p s St.SUCCESS [] (reported (t.setCh c (t.ch c)) c))

/-- The host link's rows (R354, R369 to R377): the soft resets and their ends, training, loss, the loopbacks, power states, errors. -/
def Obligations.HostLinkRowsComplete : Prop :=
  (∀ s, linkAsleep s = false → goes (.softReset .perst) s
    { softReset (linkLost s) with hl := { (softReset (linkLost s)).hl with perst := true, link := .down, flr := false } }) ∧
  (∀ s, linkAsleep s = false → s.hl.link = .up →
    goes (.softReset .flr) s { softReset s with hl := { (softReset s).hl with flr := true } }) ∧
  (∀ s w, w = .hotReset ∨ w = .dlDown → linkAsleep s = false → s.hl.link = .up ∨ s.hl.link = .training →
    goes (.softReset w) s
      { softReset (linkLost s) with hl := { (softReset (linkLost s)).hl with link := .training, flr := false } }) ∧
  (∀ s, linkAsleep s = true → goes (.softReset .perst) s (perstAsleep (resetInWake s)) ∧ goes (.softReset .flr) s s ∧
    goes (.softReset .hotReset) s (resetInWake s) ∧ goes (.softReset .dlDown) s (resetInWake s)) ∧
  (∀ s, linkAsleep s = false → s.hl.perst = true →
    moves .perstRelease s (startLink { s with hl := { s.hl with perst := false } })) ∧
  (∀ s, s.hl.flr = true → moves .flrComplete s (crsEnds { s with hl := { s.hl with flr := false } })) ∧
  (∀ s speed width, s.hl.link = .training → speed ∈ [3, 4, 5] → width ∈ [1, 2, 4, 8] → s.hl.perst = false →
    s.tst.extest = false → ∃ u w : State, u = s.putN HL.LINK_STATUS (linkWord s speed width) ∧
    w = { u with hl := { u.hl with link := .up, trained := true }, pwr := { u.pwr with wakeLow := false } } ∧
    goes (.linkUp speed width) s (crsEnds (if speed < 5 ∨ width < 8 then record w 0x0F 0 0x02 else w))) ∧
  (∀ s, s.hl.link = .up ∨ s.hl.link = .slave → ∃ u : State,
    u = record { (s.bump HL.LINK_DOWN_COUNT).putN HL.LINK_STATUS (s.rdN HL.LINK_STATUS % 256) with
      hl := { s.hl with link := .down } } 0x0F 0 0x01 ∧
    goes .linkDown s { u with hl := { u.hl with link := .training } }) ∧
  (∀ s, s.hl.link = .down → s.hl.supplies = true → s.hl.perst = false → nearDue s = true →
    moves .nearLoopbackStart s { s with hl := { s.hl with link := .nearLoop, lbAt := s.clock } }) ∧
  (∀ s lanes errors, s.hl.link = .nearLoop → s.hl.lbAt + nearTime s ≤ s.clock → ∃ u w : State, u = s.putN HL.LB_RESULT (loopbackResult lanes errors) ∧
    w = { u with hl := { u.hl with link := .training, lbRun := true } } ∧
    goes (.nearLoopbackEnd lanes errors) s (if lanes = 0 ∧ errors = 0 then w else record w 0x0F 0 0x09)) ∧
  (∀ s, s.hl.link = .up ∨ s.hl.link = .training → openAccess s = true →
    moves .farLoopbackEntry s { s with hl := { s.hl with link := .slave } }) ∧
  (∀ s, s.hl.link = .up → s.hl.crs = false → moves (.powerStateWrite true) s { s with hl := { s.hl with d3 := true } }) ∧
  (∀ s, s.hl.link = .up → s.hl.crs = false → moves (.powerStateWrite false) s
    ((List.range 64).foldl sendPending { s with hl := { s.hl with d3 := false } })) ∧
  (∀ s, s.hl.link = .up → ∃ u : State, u = (s.putN HL.LINK_STATUS (s.rdN HL.LINK_STATUS % 256)).emit .pmeToAck ∧
    moves .pmeTurnOff s { u with hl := { u.hl with link := .l2 } }) ∧
  (∀ s x, x = s.draw →
    goes (.pcieErrorDetected true) s (record (aerCorrected (x.2.bump HL.CORR_COUNT) (x.1 % 32)) 0x0F 0 0x03)) ∧
  (∀ s x, x = s.draw →
    goes (.pcieErrorDetected false) s (record (aerTakes (x.2.bump HL.UNCORR_COUNT) (x.1 % 32)) 0x0F 0 0x04))

/-- The rows of the BARs, of configuration and of host reads (R354, R356, R364, R365, R367, R371). -/
def Obligations.BarRowsComplete : Prop :=
  (∀ s o n v, s.barOpen = true → o < 0x2000000 → bar0Form o n true = false →
    goes (.registerWrite o n v) s (record s 0x0F 0 0x05)) ∧
  (∀ s o v, s.barOpen = true → o < 0x2000000 → o % 4 = 0 → wideAt o = false → wideAt (o - 4) = false →
    goes (.registerWrite o 4 v) s (writeBar0Word s o (v % 2 ^ 32))) ∧
  (∀ s o v, s.barOpen = true → o < 0x2000000 → o % 8 = 0 → doorbellAt o = false → wideAt o = true →
    goes (.registerWrite o 8 v) s (writeBar0Wide (setHeld s (o + 4) none) o v)) ∧
  (∀ s bar o, s.barOpen = true → goes (.poisonedWrite bar o) s (record s 0x0F 0 0x06)) ∧
  (∀ s o, s.barOpen = true → o % 8 = 0 →
    goes (.bar0Read o 8) s (bar0Answer s o [bar0Word s o, bar0Word s (o + 4)])) ∧
  (∀ s o, s.barOpen = true → o % 4 = 0 → wideAt o = false → latched s o = none →
    goes (.bar0Read o 4) s (bar0Answer s o [bar0Word s o])) ∧
  (∀ s o size, s.barOpen = false → s.hl.link = .up → s.hl.d3 = true → moves (.bar0Read o size) s (s.emit (.barRefused 0 o))) ∧
  (∀ s o d b, s.barOpen = true → dramArea (bar2Addr s o) = .vectors d b → (s.sequencer d).badGrans = [] →
    goes (.bar2Read o 1 none) s (s.emit (.barRead 2 o [(vectorBytes (areaVector s d (b / 40))).getD (b % 40) 0] false))) ∧
  (∀ s o d b, s.barOpen = true → dramArea (bar2Addr s o) = .captures d b → (s.sequencer d).badCaps = [] →
    goes (.bar2Read o 1 none) s (s.emit (.barRead 2 o
      [((pad 16 (Bank.get (fun _ => []) (s.sequencer d).cap (b / 64))).flatMap wordBytes).getD (b % 64) 0] false))) ∧
  (∀ s o x d b, s.barOpen = true → dramArea (bar2Addr s o) = .vectors d b → (s.sequencer 0).badGrans = [] →
    (s.sequencer 1).badGrans = [] → d < 2 →
    ∃ u, goes (.bar2Write o [x]) s u ∧ (u.sequencer d).vecs = ((writeVectorByte s d b x.toNat).sequencer d).vecs ∧
      (∀ e, e ≠ d → (u.sequencer e).vecs = (s.sequencer e).vecs) ∧ u.par = s.par ∧ u.wins = s.wins) ∧
  (∀ s o x d b, s.barOpen = true → dramArea (bar2Addr s o) = .captures d b → (s.sequencer 0).badGrans = [] →
    (s.sequencer 1).badGrans = [] → ∃ u, goes (.bar2Write o [x]) s (record u 0x0F 0 0x07) ∧ u.par = s.par ∧ u.wins = s.wins) ∧
  (∀ s v, v < 64 → s.barOpen = true →
    goes (.msixUnmask (some v)) s (sendPending (s.setVec v { s.vec v with masked := false }) v)) ∧
  (∀ s, s.hl.link = .up → s.hl.crs = false → goes (.msixUnmask none) s
    ((List.range 64).foldl sendPending { s with hl := { s.hl with fnMask := false } })) ∧
  (∀ s r, s.hl.link = .up → s.hl.crs = true → moves (.configRequest r) s (s.emit (.config true none))) ∧
  (∀ s reg, s.hl.link = .up → s.hl.crs = false → moves (.configRequest (.read reg)) s
    ((configData s reg).2.emit (.config false (some (configData s reg).1)))) ∧
  (∀ s r, s.hl.link = .up → s.hl.crs = false → (∀ reg, r ≠ .read reg) →
    goes (.configRequest r) s (configure (s.emit (.config false none)) r)) ∧
  (∀ s : State, configData s .vendorId = (Config.vendorId.toNat, s) ∧ configData s .deviceId = (0x0128, s) ∧
    configData s .classCode = (0x118000, s)) ∧
  (∀ s q f, q < 64 → 0 < (s.sq q).fetching → (s.sq q).enable = true → (s.sq q).fault = false → ∃ u : State,
    u = hostFaulted s q ((s.sq q).base + 64 * (s.sq q).head) (readStatus f) ∧
    goes (.hostReadError (.ring q) f) s (record (u.setSq q { s.sq q with fetching := 0, fault := true }) 0x0F 0 0x41)) ∧
  (∀ s src tag f o, (s.uploads.any fun u => u.src == src && u.tag == tag) = false →
    s.cmd.ops.find? (fun o => o.pkt.src == src && pTag o.pkt == tag && o.stage == .reading) = some o →
    goes (.hostReadError (.cmd src tag) f) s
      (finish o.pkt (transferFails (dropXfer s (.cmd src tag)) o.pkt (readAddr o.pkt) (readStatus f)))) ∧
  (∀ s q data, q < 64 → 0 < (s.sq q).fetching → ∃ u : State,
    u = s.setSq q { s.sq q with fetching := 0, head := ((s.sq q).head + (s.sq q).fetching) % ((s.sq q).size + 1) } ∧
    goes (.hostReadCompletion (.ring q) data) s ((packetsOf (s.sq q).fetching data).foldl (arriveOne q) u))

/-- The rows of translation (R368, R398, R399, R403): invalidations, services switched off, page request responses, ATS completions,
table entries. -/
def Obligations.TranslationRowsComplete : Prop :=
  (∀ s ctx addr size, ∃ u : State, goes (.atsInvalidation ctx addr size) s (u.emit (.atsInvalidated ctx addr)) ∧
    u = { s with xlt := { s.xlt with tlb := u.xlt.tlb, walks := u.xlt.walks } } ∧
    (∀ p, p ∈ u.xlt.tlb ↔ p ∈ s.xlt.tlb ∧ ¬ (p.ats = true ∧ p.ctx = ctx ∧ p.va < addr + size ∧ addr < p.va + p.size)) ∧
    (∀ w, s.walk ctx = some w → w.level = 0 → w.va / 4096 * 4096 < addr + size → addr < w.va / 4096 * 4096 + 4096 →
      u.walk ctx = some { w with stale := true })) ∧
  (∀ s svc, goes (.translationServiceDisable svc) s (disableService s svc)) ∧
  (∀ s ctx r rest u, Bank.get (fun _ => []) s.xlt.pages ctx = r :: rest →
    u = { s with xlt := { s.xlt with pages := Bank.set (fun _ => []) s.xlt.pages ctx rest } } →
    (r.streams = [] → ∀ ok, moves (.priResponse ctx ok) s u) ∧
    (r.streams ≠ [] → goes (.priResponse ctx true) s (r.streams.foldl retryStream u)) ∧
    (r.streams ≠ [] → goes (.priResponse ctx false) s
      (r.streams.foldl (fun s n => parkStream s n (nextAddr s n) (.translation 7)) (xltFault u ctx r.va 7)))) ∧
  (∀ s ctx va w g page, s.walk ctx = some w → w.level = 0 → w.va / 4096 = va / 4096 →
    g.size = 2 ^ 12 ∨ g.size = 2 ^ 21 ∨ g.size = 2 ^ 30 → page = ⟨ctx, va / g.size * g.size, g.size, g.pa, g.w, g.r, true⟩ →
    (∀ x, x ∈ w.waiters → lacks s w page x = false) →
    goes (.atsTranslationCompletion ctx va (some g)) s (walkEnds s ctx w [page])) ∧
  (∀ s ctx va w g, s.walk ctx = some w → w.level = 0 → w.va / 4096 = va / 4096 →
    g.size ≠ 2 ^ 12 → g.size ≠ 2 ^ 21 → g.size ≠ 2 ^ 30 → g.r = true → g.w = true →
    goes (.atsTranslationCompletion ctx va (some g)) s (walkEnds s ctx w (grantPages ctx va g)) ∧
      (4096 ∣ g.size → ∀ e, e ∈ grantPages ctx va g → e.size = 4096 ∧ e.pa + va / g.size * g.size = g.pa + e.va)) ∧
  (∀ s ctx va w, s.walk ctx = some w → w.level = 0 → w.va / 4096 = va / 4096 → ∃ u, u = walkFails s ctx w (.translation 6) (inPage s w) ∧
    (u.rd XLT.PRI_EN ctx ≠ 1 ∨ u.hl.pri = false → goes (.atsTranslationCompletion ctx va none) s u)) ∧
  (∀ s ctx w f, s.walk ctx = some w → w.level ≠ 0 → goes (.walkReadCompletion ctx (.fault (.translation f))) s
    (walkFails s ctx w (.translation 5) (inPage s w))) ∧
  (∀ s ctx w e c, s.walk ctx = some w → w.level ≠ 0 → entryFault w.level e = some c →
    goes (.walkReadCompletion ctx (.entry e)) s (walkFails s ctx w (.translation c) (inPage s w))) ∧
  (∀ s ctx w e size page, s.walk ctx = some w → w.level ≠ 0 → entryFault w.level e = none → bit e 3 = true →
    size = 2 ^ (12 + 9 * (w.level - 1)) → page = ⟨ctx, w.va / size * size, size, fld e 12 40 * 4096, bit e 2, bit e 1, false⟩ →
    ((∀ x, x ∈ w.waiters → lacks s w page x = false) → goes (.walkReadCompletion ctx (.entry e)) s (walkEnds s ctx w [page])) ∧
    ((∃ x, x ∈ w.waiters ∧ lacks s w page x = true) →
      goes (.walkReadCompletion ctx (.entry e)) s (walkFails s ctx w (.translation 2) (lacks s w page)))) ∧
  (∀ s ctx w e, s.walk ctx = some w → w.level ≠ 0 → entryFault w.level e = none → bit e 3 = false → w.stale = false →
    ∃ u w' : _,
    u = cacheWalk s ⟨ctx, w.level - 1, levelPre w.va (w.level - 1), fld e 12 40 * 4096⟩ ∧
    w' = { w with level := w.level - 1, table := fld e 12 40 * 4096 } ∧
    goes (.walkReadCompletion ctx (.entry e)) s ((u.setWalk ctx (some w')).emit (.walkRead (entryAddr w')))) ∧
  (∀ s ctx w e, s.walk ctx = some w → w.level ≠ 0 → entryFault w.level e = none → bit e 3 = false → w.stale = true →
    ∃ w' : _, w' = { w with level := w.level - 1, table := fld e 12 40 * 4096 } ∧
    goes (.walkReadCompletion ctx (.entry e)) s ((s.setWalk ctx (some w')).emit (.walkRead (entryAddr w')))) ∧
  (∀ s ctx w ps, w.stale = true → walkEnds s ctx w ps = w.waiters.foldl waiterResumes (s.setWalk ctx none)) ∧
  (∀ s p c, accepted (.xltInvalidate p) s → targetInst p 0x0A = some c → bit (pw p 2) 0 = false → stopped s .mem = false →
    replies (.xltInvalidate p) p s St.SUCCESS [] (dropPages s c none)) ∧
  (∀ s p c, accepted (.xltInvalidate p) s → targetInst p 0x0A = some c → bit (pw p 2) 0 = true → pw p 3 % 4096 = 0 →
    1 ≤ pw p 5 → pw p 5 ≤ 1048576 → stopped s .mem = false →
    replies (.xltInvalidate p) p s St.SUCCESS [] (dropPages s c (some (pw64 p 3, 4096 * pw p 5))))

/-- The commands of streams (R383, R387, R394, R403): configure, start, stop, flush, resolve. -/
def Obligations.StreamCommandsComplete : Prop :=
  (∀ s p n, accepted (.stmConfig p) s → targetStream p = some n → pw p 2 % 4096 = 0 → ringSize (pw p 4) = true →
    pw p 5 % 8 = 0 → 1 ≤ pw p 7 → pw p 7 ≤ 4080 → (n = 31 → pw p 7 = 16) → s.stmState n = 0 ∨ s.stmState n = 1 →
    quotaSum s n + pw p 7 ≤ 4080 → stopped s .mem = false → ∃ u : State, replies (.stmConfig p) p s St.SUCCESS [] u ∧
      u.rd STM.RING_BASE n = (pw64 p 2 % 2 ^ 64 : Nat) ∧ u.rd STM.RING_BLOCKS n = pw p 4 ∧ u.rd STM.WIDX_ADDR n = (pw64 p 5 % 2 ^ 64 : Nat) ∧
      u.rd STM.QUOTA n = pw p 7 ∧ u.rd STM.WR_IDX n = 0 ∧ u.rd STM.RD_IDX n = 0 ∧ u.rd STM.STATE n = 1) ∧
  (∀ s p n, accepted (.stmConfig p) s → targetStream p = some n → pw p 2 % 4096 = 0 → ringSize (pw p 4) = true →
    pw p 5 % 8 = 0 → 1 ≤ pw p 7 → pw p 7 ≤ 4080 → (n = 31 → pw p 7 = 16) → s.stmState n = 3 ∨ s.stmState n = 5 →
    s.rd STM.QUOTA n = pw p 7 → (n = 31 ∨ quotaSum s n + pw p 7 ≤ 4080) → stopped s .mem = false →
    ∃ u : State, replies (.stmConfig p) p s St.SUCCESS [] u ∧ u.rd STM.RING_BASE n = (pw64 p 2 % 2 ^ 64 : Nat) ∧
      u.rd STM.RING_BLOCKS n = pw p 4 ∧ u.rd STM.WIDX_ADDR n = (pw64 p 5 % 2 ^ 64 : Nat) ∧ u.rd STM.WR_IDX n = 0 ∧
      u.rd STM.RD_IDX n = 0 ∧ u.rd STM.STATE n = 3) ∧
  (∀ s p n, accepted (.stmConfig p) s → targetStream p = some n → pw p 2 % 4096 = 0 → ringSize (pw p 4) = true →
    pw p 5 % 8 = 0 → 1 ≤ pw p 7 → pw p 7 ≤ 4080 → (n = 31 → pw p 7 = 16) → s.stmState n ∈ [2, 4, 6] →
    stopped s .mem = false → replies (.stmConfig p) p s St.WRONG_STATE [] s) ∧
  (∀ s p n, accepted (.stmStart p) s → targetStream p = some n → stopped s .mem = false → s.stmState n = 1 →
    replies (.stmStart p) p s St.SUCCESS [] ((s.setStream n { s.stream n with openAt := s.clock + 125 }).put STM.STATE n 2)) ∧
  (∀ s p n, accepted (.stmStop p) s → targetStream p = some n → stopped s .mem = false → s.stmState n = 1 →
    bit (pw p 2) 1 = false → replies (.stmStop p) p s St.SUCCESS [] s) ∧
  (∀ s p n, accepted (.stmStop p) s → targetStream p = some n → stopped s .mem = false → s.stmState n = 1 →
    bit (pw p 2) 1 = true → replies (.stmStop p) p s St.SUCCESS []
      ((s.put STM.STATE n 0).put STM.QUOTA n (if n = 31 then 16 else 0))) ∧
  (∀ s p n, accepted (.stmStop p) s → targetStream p = some n → stopped s .mem = false → s.stmState n = 2 ∨ s.stmState n = 3 →
    (s.stream n).stop = none → waits (.stmStop p) p s (unbecalm (s.setStream n { s.stream n with
      stop := some { src := p.src, tag := pTag p, release := bit (pw p 2) 1, discard := bit (pw p 2) 0, due := true } }) n)) ∧
  (∀ s p n, accepted (.stmStop p) s → targetStream p = some n → stopped s .mem = false → s.stmState n = 2 →
    (s.stream n).stop ≠ none → replies (.stmStop p) p s St.WRONG_STATE [] s) ∧
  (∀ s p n, accepted (.stmFlush p) s → targetStream p = some n → stopped s .mem = false → (s.stream n).open_ = none →
    replies (.stmFlush p) p s St.SUCCESS [0xFFFFFFFF] s) ∧
  (∀ s p n b, accepted (.stmFlush p) s → targetStream p = some n → stopped s .mem = false → (s.stream n).open_ = some b →
    s.stmState n = 3 ∨ s.stmState n = 5 →
    replies (.stmFlush p) p s St.SUCCESS_WARN [s.rdN STM.BLOCK_SEQ n, 0, 0, 1] (closeBlock s n 5)) ∧
  (∀ s p n b, accepted (.stmFlush p) s → targetStream p = some n → stopped s .mem = false → (s.stream n).open_ = some b →
    s.stmState n = 2 → ∃ u : State, u = closeBlock s n 5 ∧ waits (.stmFlush p) p s (flushCheck (u.setStream n { u.stream n with
      flushes := (u.stream n).flushes ++ [(p.src, pTag p, s.rdN STM.BLOCK_SEQ n)] }) n St.INTERRUPTED)) ∧
  (∀ s p n, accepted (.stmResolve p) s → targetStream p = some n → stopped s .mem = false → s.stmState n = 3 ∨ s.stmState n = 6 →
    waits (.stmResolve p) p s (retryStream (overtake (s.setStream n { s.stream n with
      retries := (s.stream n).retries ++ [(p.src, pTag p)] }) n) n))

/-- The bulk transfer of a command in flight. -/
def Sys2Proof.Claims.pktXferOf (s : State) (src : Src) (tag : Nat) : Option Xfer := s.xlt.xfers.find? fun x => x.who == .cmd src tag

/-- The events of streams (R380 to R389, R396, R425): a record, a block's age, a unit of the DMA engine for a stream
or for a command, the host's read index. -/
def Obligations.StreamEventRowsComplete : Prop :=
  (∀ s g h rest n, (s.group g).fifo = h :: rest →
    carrier (s.setGroup g { s.group g with fifo := rest }) g = some n →
    goes (.streamRecordArrive g) s (place (s.setGroup g { s.group g with fifo := rest }) n h)) ∧
  (∀ s g h rest, (s.group g).fifo = h :: rest → carrier (s.setGroup g { s.group g with fifo := rest }) g = none →
    goes (.streamRecordArrive g) s (s.setGroup g { s.group g with fifo := rest })) ∧
  (∀ s n b, (s.stream n).open_ = some b → s.rd STM.MAX_AGE n ≠ 0 → b.since + 1000 * s.rdN STM.MAX_AGE n ≤ s.clock →
    goes (.blockAgeExpiry n) s (closeBlock s n 6)) ∧
  (∀ s media w, nextUnit s = some w → goes (.dmaUnitIssue media) s
    (issueFor { s with xlt := { s.xlt with served := s.xlt.served.filter (fun v => v != w) ++ [w] } } media w)) ∧
  (∀ s media n a, reachWrite s n = .ok a →
    issueFor s media (.stream n) = if (s.stream n).dataDone then issueIndex s n a else issueData s n a media) ∧
  (∀ s n, (s.stream n).failNext = none → (s.stream n).node.isSome = true ∨ s.rd XLT.MODE (s.rdN STM.CTX n) = 0 →
    reachWrite s n = .ok (nextAddr s n)) ∧
  (∀ s media src tag x b, pktXferOf s src tag = some x → xferNode x = none → s.rd XLT.MODE x.ctx = 0 → b = unitBytes x →
    issueFor s media (.cmd src tag) = unitDone (s.request x.ctx
      (if x.write then .hostWrite x.ctx x.addr (x.words.take (b / 4)) else .hostRead x.ctx x.addr b)) x) ∧
  (∀ s x src tag, x.who = .cmd src tag → x.left = unitBytes x → x.write = true →
    unitDone s x = xferEnds (dropXfer s x.who) src tag x.fin) ∧
  (∀ s x, x.left ≠ unitBytes x → unitDone s x = setXfer s { x with
    addr := x.addr + unitBytes x, left := x.left - unitBytes x
    words := if x.write then x.words.drop (unitBytes x / 4) else x.words, asked := false }) ∧
  (∀ s src tag res, xferEnds s src tag (.plain res) = s.complete src tag St.SUCCESS res) ∧
  (∀ s n v, n < 32 → s.barOpen = true → (s.stream n).node = none → v < 2 ^ 32 → s.stmState n ≠ 0 → s.stmState n ≠ 5 →
    (v + 2 ^ 32 - s.rdN STM.RD_IDX n) % 2 ^ 32 ≤ (s.rdN STM.WR_IDX n + 2 ^ 32 - s.rdN STM.RD_IDX n) % 2 ^ 32 →
    goes (.rdIdxDoorbell n v) s (s.put STM.RD_IDX n v)) ∧
  (∀ s n v, n < 32 → s.barOpen = true → (s.stream n).node = none → v < 2 ^ 32 →
    (s.rdN STM.WR_IDX n + 2 ^ 32 - s.rdN STM.RD_IDX n) % 2 ^ 32 < (v + 2 ^ 32 - s.rdN STM.RD_IDX n) % 2 ^ 32 →
    goes (.rdIdxDoorbell n v) s (record s 9 n 0x07)) ∧
  (∀ s n v d, n < 32 → (s.stream n).node = some d → (s.stream n).blocks ≠ [] → v < 2 ^ 32 →
    s.rdN STM.RING_BLOCKS n ≤ (s.rdN STM.WR_IDX n + 2 ^ 32 - s.rdN STM.RD_IDX n) % 2 ^ 32 →
    (∀ l, (s.stream n).polledAt = some l → l + 10000 ≤ s.clock) → ∃ a : Nat, a = s.rdN STM.WIDX_ADDR n + 8 ∧
    goes (.fwdRdIdxPoll n v) s (takeReadIndex ((s.setStream n { s.stream n with polledAt := some s.clock }).frameTo d.1 2
      [1, s.rdN MSH.NODE_ID, d.2, n + 1, lo32 a, hi32 a, 4]) n v)) ∧
  (∀ s n v, s.stmState n ≠ 0 → s.stmState n ≠ 5 →
    (v + 2 ^ 32 - s.rdN STM.RD_IDX n) % 2 ^ 32 ≤ (s.rdN STM.WR_IDX n + 2 ^ 32 - s.rdN STM.RD_IDX n) % 2 ^ 32 →
    takeReadIndex s n v = s.put STM.RD_IDX n v)

/-- The port and frame rows of the mesh (R305, R412 to R432): signal, training, loss, frames, time exchanges, repair, generations. -/
def Obligations.MeshEventRowsComplete : Prop :=
  (∀ s n, n < 4 → portState s n = 1 → stopped s .msh = false → s.tst.extest = false →
    moves (.portSignalDetect n) s (s.put MSH.PORT_STATE (n + 1) 2)) ∧
  (∀ s n, n < 4 → portState s n = 1 → stopped s .msh = false → s.tst.extest = false → retryDue s n = true →
    moves (.portTrainingRetry n) s (s.put MSH.PORT_STATE (n + 1) 2)) ∧
  (∀ s n, n < 4 → portState s n = 2 → moves (.portTrainingFail n) s
    ((s.setPort n { s.port n with failAt := some s.clock }).put MSH.PORT_STATE (n + 1) 1)) ∧
  (∀ s n delay peer same, n < 4 → portState s n = 2 → delay ≤ 3000 → s.rd MSH.ENUM_STATE = 0 →
    ∃ u : State, goes (.portTrainingDone n 15 delay peer same) s u ∧ u.rd MSH.PORT_STATE (n + 1) = 3 ∧
      u.rd MSH.LANES (n + 1) = 4 ∧ u.rd MSH.DELAY (n + 1) = delay ∧ u.rd MSH.PEER (n + 1) = (peer % 2 ^ 64 : Nat) ∧
      u = { s with par := u.par }) ∧
  (∀ s n, n < 4 → portState s n = 3 → goes (.portLinkLoss n) s (portDrops s n)) ∧
  (∀ s n f, n < 4 → portState s n = 3 → inMesh s = true → f.sev < 16 → (s.port n).loseNext = false → f.good = true →
    f.gen = s.rdN MSH.GENERATION → s.fine ≤ f.t0 + nsFine 70000 → f.node ≠ nodeId s → (f.sev, f.t0, f.node) ∉ s.msh.seen →
    goes (.sevFrameRx n f) s (sevArrives s n f)) ∧
  (∀ s n f, n < 4 → portState s n = 3 → inMesh s = true → f.sev < 16 → (s.port n).loseNext = false → f.good = false →
    goes (.sevFrameRx n f) s (record (s.bump MSH.SEV_LOST (n + 1)) 0x0B (n + 1) 0x05)) ∧
  (∀ s n f a u, n < 4 → portState s n = 3 → inMesh s = true → f.good = true → a = sixteenth s f.at_ →
    u = s.setPort n { s.port n with stamp := a } →
    (f.kind = 0 → moves (.timeFrameRx n f) s
      (sendTwice (s.setPort n { s.port n with stamp := a, asked := (a, sixteenth s f.out) }) n [17])) ∧
    (f.kind = 1 → moves (.timeFrameRx n f) s (sendTwice (u.setMsh { u.msh with heardAt := some a }) n [18])) ∧
    (f.kind = 2 → moves (.timeFrameRx n f) s (sendTwice u n [19, lo32 (s.port n).asked.1, (s.port n).asked.1 / 2 ^ 32,
      lo32 (s.port n).asked.2, (s.port n).asked.2 / 2 ^ 32])) ∧
    (3 ≤ f.kind → moves (.timeFrameRx n f) s (exchangeEnds u f.stamps))) ∧
  (∀ s sent heard far, s.msh.sentAt = some sent → s.msh.heardAt = some heard → exchangeEnds s far = s.setMsh { s.msh with
    sentAt := none, heardAt := none
    sample := some (stampPs (((sent : Int) - far.1 + ((heard : Int) - far.2)) / 2),
      stampPs (((heard : Int) - sent - ((far.2 : Int) - far.1)) / 2)) }) ∧
  (∀ s n, n < 4 → portState s n = 3 →
    goes (.controlFrameRx n .crcError) s ((record (s.bump MSH.CRC_ERR (n + 1)) 0x0B (n + 1) 0x04).emit (.frame n 1 [11])) ∧
    goes (.bulkFrameRx n .crcError) s ((record (s.bump MSH.CRC_ERR (n + 1)) 0x0B (n + 1) 0x04).emit (.frame n 2 [11])) ∧
    moves (.controlFrameRx n .echo) s (s.sendFrame n 1 [9]) ∧
    ((s.port n).last1 ≠ [] → moves (.controlFrameRx n .replay) s (s.emit (.frame n 1 (s.port n).last1))) ∧
    ((s.port n).last2 ≠ [] → moves (.bulkFrameRx n .replay) s (s.emit (.frame n 2 (s.port n).last2))) ∧
    (∀ g h id r, goes (.controlFrameRx n (.claim g h id r)) s (claimed s n g h id r)) ∧
    (∀ g, goes (.controlFrameRx n (.newer g)) s (newerSeen s n g))) ∧
  (∀ s n, n < 4 → portState s n = 3 → inMesh s = true →
    moves (.controlFrameRx n .repair) s (startRepair s) ∧
    (∀ source fid hops words, nodeId s ≠ 0x3FFF → goes (.controlFrameRx n (.packet (nodeId s) source fid hops words)) s
      (addOp s ⟨.mesh source fid, pad 16 words⟩)) ∧
    (∀ source fid hops words, goes (.controlFrameRx n (.packet 0x3FFF source fid hops words)) s
      (floodArrives s n source fid hops words)) ∧
    (∀ source fid st res, goes (.controlFrameRx n (.completion source fid st res)) s (memberAnswers s source fid st res)) ∧
    (∀ target source fid hops words, 63 ≤ hops → goes (.bulkFrameRx n (.pass target source fid hops words)) s
      (discardFrame s target source fid 2 (words.headD 0))) ∧
    (∀ target source fid hops words, hops < 63 → goes (.bulkFrameRx n (.pass target source fid hops words)) s
      (s.frameTo target 2 words none (hops + 1)))) ∧
  (∀ s n source fid st addr ws bytes f, n < 4 → portState s n = 3 → inMesh s = true →
    moves (.bulkFrameRx n (.write source fid st addr ws)) s (farAsks s source fid st addr (4 * ws.length) true ws none) ∧
    moves (.bulkFrameRx n (.read source fid st addr bytes (.words ws))) s
      (farAsks s source fid st addr bytes false (pad (bytes / 4) ws) none) ∧
    moves (.bulkFrameRx n (.read source fid st addr bytes (.fault f))) s (farAsks s source fid st addr bytes false [] (some f)) ∧
    goes (.bulkFrameRx n (.ack source fid st addr)) s (farAnswers s source fid st addr none) ∧
    goes (.bulkFrameRx n (.data source fid st addr ws)) s (farAnswers s source fid st addr none) ∧
    goes (.bulkFrameRx n (.fault source fid st addr f)) s (farAnswers s source fid st addr (some f))) ∧
  (∀ s sent f good, nodeId s ≠ 0 → enumState s = 1 → s.rd MSH.SYNC_STATE ≠ 0 → portState s (fld (s.rdN MSH.TREE) 2 2) = 3 →
    s.msh.sample = none ∨ good = false → goes (.timeExchange sent f good) s (sendTwice (s.setMsh { s.msh with
      sample := none, heardAt := none, sentAt := some (sixteenth s sent) }) (fld (s.rdN MSH.TREE) 2 2) [16])) ∧
  (∀ s sent f x, nodeId s ≠ 0 → enumState s = 1 → s.rd MSH.SYNC_STATE ≠ 0 → portState s (fld (s.rdN MSH.TREE) 2 2) = 3 →
    s.msh.sample = some x → ∃ u, u = exchangeActs s x f ∧ goes (.timeExchange sent f true) s (sendTwice (u.setMsh { u.msh with
      sample := none, heardAt := none, sentAt := some (sixteenth u sent) }) (fld (s.rdN MSH.TREE) 2 2) [16])) ∧
  (∀ s x f u, u = takeSample s x f → (s.tbState ≠ 2 → exchangeActs s x f = syncLost u) ∧
    (s.tbState = 2 → s.rd MSH.SYNC_STATE ≠ 3 → exchangeActs s x f =
      syncStep (steer u (u.rd MSH.SYNC_OFFSET) (u.rd MSH.SYNC_FREQ)) (u.rd MSH.SYNC_OFFSET))) ∧
  (∀ s g, inMesh s = true → s.msh.repairing = true → rooted g = true → ∃ u : State,
    u = releaseHeld (askAgain ((learn s g false).put MSH.ENUM_STATE 0 1)) ∧
    goes (.routeRepairDone g) s (timeCtlCheck (u.msh.fwds.foldl lostMembers u))) ∧
  (∀ s port gen, s.msh.newer = some (port, gen) → ∃ u : State, u = standAlone (loseEnum s) gen ∧
    goes .generationTimeout s (passNewer (u.setMsh { u.msh with unclaimed := true }) gen (some port)))

/-- The commands of the mesh (R415 to R436): enumeration, route reads, forwarded packets, ports, loopbacks, time. -/
def Obligations.MeshCommandsComplete : Prop :=
  (∀ s p, accepted (.meshEnumerate p) s → stopped s .msh = false → ∃ u : State, waits (.meshEnumerate p) p s u ∧
    u.rd MSH.ENUM_STATE = 1 ∧ u.rd MSH.NODE_ID = 0 ∧ u.rd MSH.HOPS = 0 ∧ u.msh.enum = some (p.src, pTag p) ∧
    u.msh.assigned = 1 ∧ u.msh.routes = []) ∧
  (∀ s g e, s.msh.enum = some e → ∃ u status res, goes (.meshEnumerateDone g) s (State.complete u e.1 e.2 status res) ∧
    status ∈ [St.SUCCESS, St.SUCCESS_WARN, St.NODE_SPACE_FULL] ∧ res.length = 4 ∧ u.msh.enum = none) ∧
  (∀ s p wr, accepted (.meshRouteRead p wr) s → stopped s .msh = false → pw p 2 % 64 = 0 → 1 ≤ pw p 5 →
    pw p 4 + pw p 5 ≤ 16384 → ∃ ws : List Nat, ws.length = (pw p 5 + 1) / 2 ∧
    (∀ i, 2 * i + 1 < pw p 5 → ws.getD i 0 = routeOf s (pw p 4 + 2 * i) + routeOf s (pw p 4 + 2 * i + 1) * 65536) ∧
    waits (.meshRouteRead p wr) p s (writing s p (pw64 p 2) ws (.plain []))) ∧
  (∀ s p d ws, accepted (.meshForward p d) s → stopped s .msh = false → pPtr p = true → hostGives s p d ws →
    notForwarded ((pad 16 ws).getD 0 0) = false → pw p 5 ≠ 0x3FFF → pw p 5 < s.msh.assigned → pw p 5 ≠ nodeId s →
    enumState s = 1 → routeValid s (pw p 5) = true → ∃ u : State, waits (.meshForward p d) p s u ∧
    u = (s.setMsh { s.msh with
      nextFid := s.msh.nextFid + 1
      fwds := s.msh.fwds ++ [
        { src := p.src, tag := pTag p, fid := s.msh.nextFid, target := pw p 5, left := [pw p 5], unreach := 0 }]
      ctxs := Bank.set (fun _ => 0) s.msh.ctxs s.msh.nextFid (pktCtx p)
      prios := Bank.set (fun _ => 0) s.msh.prios s.msh.nextFid (pPrio ⟨p.src, pad 16 ws⟩) }).frameTo (pw p 5) 1
      ([0, nodeId s, s.msh.nextFid] ++ pad 16 ws)) ∧
  (∀ s p d ws, accepted (.meshForward p d) s → stopped s .msh = false → pPtr p = true → hostGives s p d ws →
    notForwarded ((pad 16 ws).getD 0 0) = false → pw p 5 = 0x3FFF → enumState s = 1 → reachable s ≠ [] →
    ∃ u : State, waits (.meshForward p d) p s u ∧ u = floodOn (s.setMsh { s.msh with
      nextFid := s.msh.nextFid + 1
      fwds := s.msh.fwds ++ [{ src := p.src, tag := pTag p, fid := s.msh.nextFid, target := 0x3FFF, left := reachable s
                               unreach := s.msh.assigned - 1 - (reachable s).length }]
      ctxs := Bank.set (fun _ => 0) s.msh.ctxs s.msh.nextFid (pktCtx p)
      prios := Bank.set (fun _ => 0) s.msh.prios s.msh.nextFid (pPrio ⟨p.src, pad 16 ws⟩) })
      ([0, nodeId s, s.msh.nextFid] ++ pad 16 ws) 1 none) ∧
  (∀ s p i, accepted (.meshPortCtl p) s → targetInst p 0x0B = some i → i ≠ 0 → fld (pw p 2) 4 3 = 0 → stopped s .msh = false →
    portState s (i - 1) ∉ [0, 4] → (s.port (i - 1)).lb = none → replies (.meshPortCtl p) p s St.SUCCESS []
      (if bit (pw p 2) 0 ∧ portState s (i - 1) = 3 then portDrops s (i - 1) else s)) ∧
  (∀ s p i, accepted (.meshPortCtl p) s → targetInst p 0x0B = some i → i ≠ 0 → fld (pw p 2) 4 3 = 4 → stopped s .msh = false →
    grantsLoop (lcFor s p) false = true → portState s (i - 1) = 3 → (s.port (i - 1)).lb = none → ∃ u : State,
    u = s.setPort (i - 1) { s.port (i - 1) with lb := some (p.src, pTag p, 4), lbAt := s.clock, echoes := 0 } ∧
    waits (.meshPortCtl p) p s { u with sent := u.sent ++ List.replicate 1000 (.frame (i - 1) 1 [7]) }) ∧
  (∀ s n lanes errors src tag e, (s.port n).lb = some (src, tag, 4) → e = 1000 - (s.port n).echoes → ∃ u : State,
    u = (s.setPort n { s.port n with lb := none }).put MSH.LB_RESULT (n + 1) (loopbackResult lanes e : Nat) ∧
    goes (.meshLoopbackEnd n lanes errors) s
      (State.complete (if lanes = 0 ∧ e = 0 then u else record u 0x0B (n + 1) 0x0D) src tag St.SUCCESS [])) ∧
  (∀ s n lanes errors src tag lb, (s.port n).lb = some (src, tag, lb) → lb ≠ 4 →
    (s.port n).lbAt + 10000000 ≤ s.clock → ∃ u : State,
    u = ((s.setPort n { s.port n with lb := none }).put MSH.LB_RESULT (n + 1) (loopbackResult lanes errors : Nat)).put
      MSH.PORT_STATE (n + 1) 1 ∧ goes (.meshLoopbackEnd n lanes errors) s
      (State.complete (if lanes = 0 ∧ errors = 0 then u else record u 0x0B (n + 1) 0x0D) src tag St.SUCCESS [])) ∧
  (∀ s p, accepted (.meshTimeCtl p) s → stopped s .msh = false → nodeId s = 0 → inMesh s = true → s.msh.time = none →
    bit (pw p 2) 0 = true → reachable s = [] → replies (.meshTimeCtl p) p s St.SUCCESS []
      ((s.put TB.TIME_OWNER 0 0).put MSH.SYNC_STATE 0 2)) ∧
  (∀ s p, accepted (.meshTimeCtl p) s → stopped s .msh = false → nodeId s = 0 → inMesh s = true → s.msh.time = none →
    bit (pw p 2) 0 = false → reachable (syncOff s) ≠ [] → ∃ u : State,
      u = (reachable (syncOff s)).foldl (fun s n => s.frameTo n 1 [8, pw p 2]) (syncOff s) ∧
      waits (.meshTimeCtl p) p s (u.setMsh { u.msh with time := some (p.src, pTag p, reachable (syncOff s)) }))

/-- A calibration image that R449 and R453 accept: its form, its CRC, and entries that name coefficients and hold values of their ranges. -/
def Sys2Proof.Claims.imageGood (ws : List Nat) : Prop :=
  ws.length = 8 + 2 * ws.getD 1 0 ∧ 0 < ws.getD 1 0 ∧ ws.getD 1 0 ≤ 24935 ∧ fld (ws.getD 0 0) 16 16 = 1 ∧ fld (ws.getD 0 0) 8 8 ≤ 1 ∧
  imageCrcOk ws = true ∧ ∀ e ∈ imageEntries (ws.drop 8), entryStatus e = none

/-- The image's values become the targets of their coefficients (R449). -/
def Sys2Proof.Claims.imageTaken (s : State) (ws : List Nat) : State :=
  ((imageEntries (ws.drop 8)).map fun e => (e.1, entryValue e)).foldl (fun s t => writeCal s t.1 t.2) s

/-- The commands of calibration (R446, R449, R450, R452 to R454): self, system zero and full, the certificate, saved images. -/
def Obligations.CalCommandsComplete : Prop :=
  (∀ s p c, accepted (.calSelf p) s → targetChan p = some c → c < 128 → stopped s (chanIsland c) = false → owned s c = false →
    s.chState c = 0 → calTarget s c = false → waits (.calSelf p) p s
      { s with cal := { s.cal with selfs := s.cal.selfs ++ [⟨p.src, pTag p, [c], []⟩] } }) ∧
  (∀ s p n, accepted (.calSelf p) s → targetChan p = none → targetInst p 5 = some n → stopped s (.seq (n / 128)) = false →
    pinIdle s n = true → calPin s n = false → waits (.calSelf p) p s
      { s with cal := { s.cal with selfs := s.cal.selfs ++ [⟨p.src, pTag p, [], [n]⟩] } }) ∧
  (∀ s p t n, accepted (.calSysZero p) s → sysSet (pw p 1) = some t → sysCount (pw p 2) = some n →
    stopped s (sysIsland t) = false → s.cal.sys = none → sysReady s t = true → waits (.calSysZero p) p s
      { s with cal := { s.cal with sys := some ⟨p.src, pTag p, pw p 1, n, none, s.clock, 0, 0⟩ } }) ∧
  (∀ s p t n, accepted (.calSysFull p) s → sysSet (pw p 1) = some t → sysCount (pw p 3) = some n →
    stopped s (sysIsland t) = false → s.cal.sys = none → sysReady s t = true → s.rd CAL.SYS_STATE ≠ 0 →
    s.rdN CAL.SYS_SET = pw p 1 → waits (.calSysFull p) p s
      { s with cal := { s.cal with sys := some ⟨p.src, pTag p, pw p 1, n, some (sfld 32 (pw p 2)), s.clock, 0, 0⟩ } }) ∧
  (∀ s p t n, accepted (.calSysFull p) s → sysSet (pw p 1) = some t → sysCount (pw p 3) = some n →
    stopped s (sysIsland t) = false → s.rd CAL.SYS_STATE = 0 → replies (.calSysFull p) p s St.WRONG_STATE [] s) ∧
  (∀ s p wr, accepted (.calCertRead p wr) s → pw p 2 % 64 = 0 → 4 * Config.certificate.length ≤ pw p 4 →
    stopped s .vane = false → waits (.calCertRead p wr) p s
      (writing s p (pw64 p 2) Config.certificate (.plain [4 * Config.certificate.length]))) ∧
  (∀ s p, accepted (.calCertLoad p) s → stopped s .vane = false → imageCrcOk Config.certificate = false →
    replies (.calCertLoad p) p s St.MEDIA [] (record s 0x0C 0 0x06)) ∧
  (∀ s p, accepted (.calCertLoad p) s → stopped s .vane = false → imageGood Config.certificate →
    (∀ e ∈ imageEntries (Config.certificate.drop 8), stopped s (islandOf (idParts e.1).1 (idParts e.1).2.1) = false) →
    ∃ st res, replies (.calCertLoad p) p s st res (imageTaken s Config.certificate) ∧
      st ∈ [St.SUCCESS, St.SUCCESS_WARN] ∧ res.head? = some (Config.certificate.getD 1 0)) ∧
  (∀ s p wr, accepted (.calSave p wr) s → pw p 2 % 64 = 0 → 199512 ≤ pw p 4 →
    waits (.calSave p wr) p s (writing s p (pw64 p 2) (imageWords s (bit (pw p 5) 0)) (.plain []))) ∧
  (∀ s p d got ws, accepted (.calRestore p d) s → pw p 2 % 64 = 0 → hostGives s p d got → 32 ≤ pw p 4 → pw p 4 % 8 = 0 →
    ws = pad (pw p 4 / 4) got → imageGood ws →
    (∀ e ∈ imageEntries (ws.drop 8), stopped s (islandOf (idParts e.1).1 (idParts e.1).2.1) = false) →
    ∃ st res, replies (.calRestore p d) p s st res (imageTaken s ws) ∧ st ∈ [St.SUCCESS, St.SUCCESS_WARN] ∧
      res.head? = some (ws.getD 1 0)) ∧
  (∀ s p d got, accepted (.calRestore p d) s → pw p 2 % 64 = 0 → hostGives s p d got → 32 ≤ pw p 4 → pw p 4 % 8 = 0 →
    imageCrcOk (pad (pw p 4 / 4) got) = false → replies (.calRestore p d) p s St.BAD_VALUE [0xFFFFFFFF] s) ∧
  (∀ s ws, imageGood ws →
    (∀ e ∈ imageEntries (ws.drop 8), stopped s (islandOf (idParts e.1).1 (idParts e.1).2.1) = false) →
    ∃ st res, restoreImage s ws = .done st res (imageTaken s ws) ∧
      st ∈ [St.SUCCESS, St.SUCCESS_WARN] ∧ res.head? = some (ws.getD 1 0)) ∧
  (∀ s ws e, imageGood ws → e ∈ imageEntries (ws.drop 8) →
    stopped s (islandOf (idParts e.1).1 (idParts e.1).2.1) = true → restoreImage s ws = refuse s St.ISLAND_STOPPED)

/-- The events of calibration (R441 to R451, R455): measurements taken, the ramps, deskew steps, the reference's track. -/
def Obligations.CalEventRowsComplete : Prop :=
  (∀ s src tag found o, (s.cal.selfs.find? fun o => o.src == src && o.tag == tag) = some o → ∃ u status res,
    goes (.calSelfDone src tag found) s (State.complete u src tag status res) ∧ status ∈ [St.SUCCESS, St.SUCCESS_WARN] ∧
      res.length = 4 ∧ u.cal.selfDone = true) ∧
  (∀ s v m o, s.cal.sys = some o → o.full = none → sysMean o v = some m → -2147483648 ≤ m → m ≤ 2147483647 → ∃ u : State,
    u = ((({ s with cal := { s.cal with sys := none } } : State).put CAL.SYS_STATE 0 1).put CAL.SYS_SET 0 o.set).put
      CAL.SYS_R0 0 m ∧ goes (.calSysInputsTaken v) s (u.complete o.src o.tag St.SUCCESS [toField 32 m])) ∧
  (∀ s v m o a g, s.cal.sys = some o → o.full = some a → sysMean o v = some m → -2147483648 ≤ m → m ≤ 2147483647 →
    sysGain a (s.rd CAL.SYS_R0) m = some g → 0 ≤ g → g ≤ 0xFFFFFFFF →
    -2147483648 ≤ roundDiv (-(g * s.rd CAL.SYS_R0)) (2 ^ 30) → roundDiv (-(g * s.rd CAL.SYS_R0)) (2 ^ 30) ≤ 2147483647 →
    ∃ u : State, u = (writeCal (writeCal (writeCal { s with cal := { s.cal with sys := none } } o.set g) (o.set + 1)
      (roundDiv (-(g * s.rd CAL.SYS_R0)) (2 ^ 30))) (o.set + 2) 0).put CAL.SYS_STATE 0 0 ∧
    goes (.calSysInputsTaken v) s (u.complete o.src o.tag St.SUCCESS
      [g.toNat, toField 32 (roundDiv (-(g * s.rd CAL.SYS_R0)) (2 ^ 30)), toField 32 m, 0])) ∧
  (∀ o v, sysMean o v = if o.set / 0x1000000 = 5 then some v else if o.count < o.n then none
    else some (roundDiv (256 * o.sum) o.n)) ∧
  (∀ s o, s.cal.sys = some o → o.start + 10000000000 ≤ s.clock → goes .calSysTimeout s
    (State.complete { s with cal := { s.cal with sys := none } } o.src o.tag St.WRONG_STATE [])) ∧
  (∀ s, s.pwr.lull < 3 → s.cal.stepAt ≠ some (s.clock / 1000) → ∃ v u w : State,
    v = { s with cal := { s.cal with stepAt := some (s.clock / 1000) } } ∧ u = pinsMoved ((rampingTerms v).foldl stepTerm v) (rampingTerms v) ∧
    w = u.put CAL.RAMPING 0 (rampingSets u).length ∧
    goes .coefRampStep s (if (rampingSets u).length = 0 ∧ (0 < s.rd CAL.RAMPING ∨ rampingTerms v ≠ []) then
      w.publish (w.rd CAL.EV_DONE) else w)) ∧
  (∀ s d, d < 2 → (s.sequencer d).dskAt ≠ some (s.clock / 1000) → ∃ u : State,
    u = s.setSequencer d { s.sequencer d with dskAt := some (s.clock / 1000) } ∧
    goes (.deskewStep d) s ((deskewIds u d).foldl stepDeskew u)) ∧
  (∀ s m, s.pwr.lull ≠ 3 → s.cal.trackAt + 1000000000 * s.rdN CAL.REF_TRACK_PERIOD ≤ s.clock → s.rd CAL.ZREF_A ≠ 0 → s.cal.selfDone = false →
    ∃ (r : Int) (u : State), r = clampInt (-2147483648) 2147483647
      (roundDiv (m * (if s.rd CAL.ZREF_A < 0 then s.rd CAL.ZREF_B else -s.rd CAL.ZREF_B)) (iabs (s.rd CAL.ZREF_A)).toNat
        - 100000000) ∧
    u = ({ s with cal := { s.cal with trackAt := s.clock } } : State).put CAL.REF_RATIO 0 r ∧
    goes (.refTrack m) s (if 100 * u.rd CAL.REF_DRIFT_LIM < iabs r then record u 0x0C 0 0x02 else u))

/-- The rows of the status windows (R462 to R471): flags cleared, histories cleared, reactions, injections. -/
def Obligations.StatusRowsComplete : Prop :=
  (∀ s blk inst mask, winExists blk inst = true → s.barOpen = true → blk ≠ 5 → blk ≠ 8 →
    goes (.statusW1c blk inst mask []) s (s.setWin blk inst { s.win blk inst with
      fault := (s.win blk inst).fault && !bit mask 30
      degraded := (s.win blk inst).degraded && !bit mask 29
      warn := (s.win blk inst).warn && !bit mask 28
      injected := (s.win blk inst).injected && !bit mask 27 })) ∧
  (∀ s blk inst mask again, winExists blk inst = true → s.barOpen = true →
    goes (.statusW1c blk inst mask again) s (recordAgain (clearFlags s blk inst mask again) blk inst again)) ∧
  (∀ s blk inst, winExists blk inst = true → s.barOpen = true → goes (.statusClrHist blk inst []) s
    (s.setWin blk inst { s.win blk inst with count := 0, first := 0, last := 0, firstTime := 0, top := none })) ∧
  (∀ s blk inst v, winExists blk inst = true → s.barOpen = true → bit v 31 = false →
    goes (.reactionWrite blk inst v) s (if (findCause blk (fld v 16 8)).isSome then
      s.setWin blk inst { s.win blk inst with reactSel := fld v 16 8 } else s)) ∧
  (∀ s blk inst v c, winExists blk inst = true → s.barOpen = true → bit v 31 = true → findCause blk (fld v 16 8) = some c →
    c.fixed = false → fld v 16 8 ≠ 0xF0 → offers blk (fld v 0 3) = true → ∃ w : Win,
    goes (.reactionWrite blk inst v) s (s.setWin blk inst w) ∧ w.reactSel = fld v 16 8 ∧
      (Bank.get (fun _ => none) w.reacts (fld v 16 8)).getD c.dflt = fld v 0 3 ∧
      w = { s.win blk inst with reactSel := w.reactSel, reacts := w.reacts }) ∧
  (∀ s blk inst v c, winExists blk inst = true → s.barOpen = true → openAccess s = true → fld v 16 8 < 256 →
    findCause blk (fld v 16 8) = some c → bit v 30 = false → ∃ w : Win, w.inject / 65536 % 256 = fld v 16 8 ∧
      goes (.injectGo blk inst v) s (injectNow (s.setWin blk inst w) blk inst) ∧
      w = { s.win blk inst with inject := w.inject }) ∧
  (∀ s blk inst v, winExists blk inst = true → s.barOpen = true → openAccess s = false → moves (.injectGo blk inst v) s (settle s)) ∧
  (∀ s blk inst, winExists blk inst = true → bit (s.win blk inst).inject 30 = true →
    (s.win blk inst).injAt + 1000000 * fld (s.win blk inst).inject 0 16 ≤ s.clock →
    goes (.injectRepeat blk inst) s (injectNow s blk inst))

/-- The background's rows (R475 to R479, R489): scrubbing, register copies, telemetry, sensors. -/
def Obligations.BackgroundRowsComplete : Prop :=
  (∀ s n late, s.pwr.lull ≠ 3 → s.rdN VANE.SCRUB_PROGRESS ≤ n → n ≤ 10000 → goes (.dramScrub [] [] late n) s
    (if late && scrubDue s 0 (3600000000000 * s.vane.scrubHours) then record (s.put VANE.SCRUB_PROGRESS 0 n) 0x0D 0 0x80
     else s.put VANE.SCRUB_PROGRESS 0 n)) ∧
  (∀ s n, s.pwr.lull ≠ 3 → n < s.rdN VANE.SCRUB_PROGRESS → n ≤ 10000 → goes (.dramScrub [] [] false n) s
    (State.put { newScrub s 0 with vane := { (newScrub s 0).vane with scrubHours := s.rdN VANE.SCRUB_DRAM_PERIOD } }
      VANE.SCRUB_PROGRESS 0 n)) ∧
  (∀ s w n, s.pwr.lull ≠ 3 → s.rdN VANE.SCRUB_PROGRESS ≤ n → n ≤ 10000 → goes (.dramScrub [] [w] false n) s
    (uncorrected (spoilDram (s.put VANE.SCRUB_PROGRESS 0 n) w) (DramWord.owner w).1 (DramWord.owner w).2)) ∧
  (∀ s w, s.pwr.lull ≠ 3 → goes (.sramScrub [w] [] false) s
    (corrected (newScrub s 2) (SramWord.owner w).1 (SramWord.owner w).2)) ∧
  (∀ s w, s.pwr.lull ≠ 3 → goes (.sramScrub [] [w] false) s
    (uncorrected (spoilSram (newScrub s 2) w) (SramWord.owner w).1 (SramWord.owner w).2)) ∧
  (∀ s, s.pwr.lull ≠ 3 → scrubDue s 2 10000000000 = true → goes (.sramScrub [] [] true) s (record (newScrub s 2) 0x0D 0 0x80)) ∧
  (∀ s l, s.pwr.lull ≠ 3 → s.vane.shadowAt + 1000000 * s.vane.shadowMs ≤ s.clock →
    (∀ m ∈ l, m.1 ≠ 1 ∧ m.1 ≠ 4) → ∃ u : State,
      u = { s with vane := { s.vane with shadowAt := s.clock, shadowMs := s.rdN VANE.SHADOW_PERIOD } } ∧
      goes (.shadowCompare l) s (l.foldl (fun s m => record s m.1 m.2 (shadowCode m.1)) u)) ∧
  (∀ s c, s.pwr.lull ≠ 3 → s.vane.shadowAt + 1000000 * s.vane.shadowMs ≤ s.clock → ∃ u : State,
      u = { s with vane := { s.vane with shadowAt := s.clock, shadowMs := s.rdN VANE.SHADOW_PERIOD } } ∧
      goes (.shadowCompare [(1, c)]) s (recordChan u c (shadowCode 1)) ∧
      goes (.shadowCompare [(4, c)]) s (recordChan u (c + 128) (shadowCode 4))) ∧
  (∀ s, goes .telemetryInstant s (telemetryInstant s)) ∧
  (∀ s l, s.vane.up = true → s.vane.sampleAt ≠ some (s.clock / 1000000) → ∃ u : State,
    u = s.setVane { s.vane with sampleAt := some (s.clock / 1000000) } ∧
    goes (.sensorSample l) s ((List.range 51).foldl (sampleSensor l) u)) ∧
  (∀ s l, s.vane.sampleAt = some (s.clock / 1000000) → moves (.sensorSample l) s s)

/-- The block has taken a management message: SMBus traffic for R535's idle time (log 106). -/
def Sys2Proof.Claims.heard (s : State) : State := s.setVane { s.vane with smbAt := some s.clock }

/-- The management messages (R491 to R494): MCTP control, PLDM, SPDM, the vendor's own. -/
def Obligations.ManagementRowsComplete : Prop :=
  (∀ s e, s.vane.up = true → s.pwr.lull ≠ 3 → e < 256 → goes (.mctpControlMessage (.setEid e)) s
    (if e = 0 ∨ e = 255 then (heard s).emit (.management 0 [1]) else ((heard s).putN VANE.MCTP_EID e).emit (.management 0 [0, e]))) ∧
  (∀ s, s.vane.up = true → s.pwr.lull ≠ 3 →
    goes (.mctpControlMessage .getEid) s ((heard s).emit (.management 0 [0, s.rdN VANE.MCTP_EID])) ∧
    goes (.mctpControlMessage .getTypes) s ((heard s).emit (.management 0 [0, 0x00, 0x01, 0x05, 0x7E])) ∧
    goes (.mctpControlMessage .malformed) s (record (heard s) 0x0D 0 0x0D)) ∧
  (∀ s t, s.vane.up = true → s.pwr.lull ≠ 3 → 0 < t → t < 255 →
    goes (.pldmMessage (.setTid t)) s (((heard s).setVane { (heard s).vane with tid := t }).emit (.management 1 [0])) ∧
    goes (.pldmMessage .getTid) s ((heard s).emit (.management 1 [0, s.vane.tid]))) ∧
  (∀ s n, s.vane.up = true → s.pwr.lull ≠ 3 → sensorListed n = true → goes (.pldmMessage (.readSensor n)) s
    ((heard s).emit (.management 1 [0, toField 32 (s.sensor n).reading, (s.sensor n).state]))) ∧
  (∀ s, s.vane.up = true → s.pwr.lull ≠ 3 →
    goes (.spdmMessage .getVersion) s ((heard s).emit (.management 5 [0, 1, 2])) ∧
    goes (.spdmMessage .getDigests) s ((heard s).emit (.management 5 (0 :: Config.sha384 Config.certChain))) ∧
    goes (.spdmMessage (.getCertificate 0)) s ((heard s).emit (.management 5 (0 :: Config.certChain))) ∧
    (∀ nonce, goes (.spdmMessage (.challenge 0 nonce)) s ((heard s).emit (.management 5
      (0 :: Config.deviceSign (Config.sha384 Config.certChain ++ nonce)))))) ∧
  (∀ s i nonce v, s.vane.up = true → s.pwr.lull ≠ 3 → measurement s i = some v → goes (.spdmMessage (.getMeasurements i nonce)) s
    ((heard s).emit (.management 5 (0 :: v ++ Config.deviceSign (i :: v ++ nonce))))) ∧
  (∀ s p u, s.vane.up = true → s.pwr.lull ≠ 3 → p.src = .vane →
    u = { judgedNow (heard s) p with cmd := { s.cmd with ops := s.cmd.ops ++ [⟨p, .running⟩] } } →
    (pPtr p = true → replies (.vendorDefinedMessage true p) p s St.BAD_POINTER [] u) ∧
    (pPtr p = false → pOpcode p ∉ [0x0902, 0x0904, 0x0907, 0x0003, 0x0002] →
      replies (.vendorDefinedMessage true p) p s St.BAD_OPCODE [] u) ∧
    (pPtr p = false → pOpcode p = 0x0904 → accepted (.sensorRead p) u → sensorListed (pw p 2) = true →
      replies (.vendorDefinedMessage true p) p s St.SUCCESS [toField 32 (s.sensor (pw p 2)).reading, (s.sensor (pw p 2)).state,
        lo32 (s.sensor (pw p 2)).time, hi32 (s.sensor (pw p 2)).time] u)) ∧
  (∀ s p, s.vane.up = true → s.pwr.lull ≠ 3 → goes (.vendorDefinedMessage false p) s ((heard s).emit (.management 0x7E [1])))

/-- The rows of the event log and of the sensors (R490, R497 to R500): arrival, flush, read, clear; SENSOR_READ. -/
def Obligations.LogRowsComplete : Prop :=
  (∀ s e, s.vane.up = true → nextRecord s.vane.queue = some e → goes .logRecordArrive s
    (numberRecord (s.setVane { s.vane with queue := s.vane.queue.erase e }) e.2 (decide (e.1 + 100000 < s.clock)))) ∧
  (∀ s, s.vane.flushing = true → s.vane.up = true → s.vane.buf ≠ [] →
    goes (.logFlush none) s (tellLost (flushAll s)) ∧
    ∀ k, goes (.logFlush (some k)) s (tellLost (mediaFails (flushFirst s k)))) ∧
  (∀ s p wr, accepted (.logRead p wr) s → p.src ≠ .vane → stopped s .vane = false → s.vane.up = true → pw64 p 2 % 64 = 0 →
    0 < pw p 6 → pw p 6 ≤ 4096 → s.rdN VANE.LOG_HEAD ≤ pw p 4 + 2 ^ 32 * pw p 5 →
    replies (.logRead p wr) p s St.SUCCESS (0 :: logWords s) s) ∧
  (∀ s p wr n, accepted (.logRead p wr) s → p.src ≠ .vane → stopped s .vane = false → s.vane.up = true → pw64 p 2 % 64 = 0 →
    0 < pw p 6 → pw p 6 ≤ 4096 → n = min (pw p 6) (s.rdN VANE.LOG_HEAD - (pw p 4 + 2 ^ 32 * pw p 5)) → 0 < n →
    waits (.logRead p wr) p s (writing s p (pw64 p 2)
      ((List.range n).flatMap fun i => logEntry s (pw p 4 + 2 ^ 32 * pw p 5 + i)) (.log n))) ∧
  (∀ s src tag n, xferEnds s src tag (.log n) = s.complete src tag St.SUCCESS (n :: logWords s)) ∧
  (∀ s p, accepted (.logClear p) s → grantsOpen (lcFor s p) = true → p.src ≠ .vane → stopped s .vane = false → s.vane.up = true →
    s.rd VANE.LOG_MEDIA_FAIL ≠ 1 → ∃ u : State, u = (flushAll s).putN VANE.LOG_OLDEST ((flushAll s).rdN VANE.LOG_HEAD) ∧
    replies (.logClear p) p s St.SUCCESS [] (tellLost (numberRecord u
      ⟨0x09, u.now, 0x0D, 0, [1, lo32 (s.rdN VANE.LOG_OLDEST), hi32 (s.rdN VANE.LOG_OLDEST)], 0⟩ false))) ∧
  (∀ s p, accepted (.sensorRead p) s → p.src ≠ .vane → stopped s .vane = false → s.vane.up = true → sensorListed (pw p 2) = true →
    replies (.sensorRead p) p s St.SUCCESS [toField 32 (s.sensor (pw p 2)).reading, (s.sensor (pw p 2)).state,
      lo32 (s.sensor (pw p 2)).time, hi32 (s.sensor (pw p 2)).time] s) ∧
  (∀ s p, accepted (.sensorRead p) s → p.src ≠ .vane → stopped s .vane = false → s.vane.up = true → sensorListed (pw p 2) = false →
    replies (.sensorRead p) p s St.BAD_VALUE [] s)

/-- The rows of firmware images (R505 to R513): staging, the steps of an activation, the status. -/
def Obligations.ImageRowsComplete : Prop :=
  (∀ s p d got ws, accepted (.fwStage p d) s → p.src ≠ .vane → stopped s .vane = false → s.vane.up = true → pw p 2 ≠ 3 →
    pw64 p 3 % 64 = 0 → 512 ≤ pw p 5 → pw p 5 ≤ slotBytes (pw p 2) → pw p 5 % 4 = 0 → shedding s = false →
    hostGives s p d got → ws = pad (pw p 5 / 4) got → s.vane.stage = none → (∀ a, s.vane.act = some a → a.kind ≠ pw p 2) →
    imageOk s (pw p 2) (pw p 5) ws = true →
    (needsOwner (lcFor s p) = false ∨ ownerSigned s (ws.take 128) (((ws.take 128).drop 44).take 24) = true) →
    waits (.fwStage p d) p s (beginStage s (some (p.src, pTag p)) (pw p 2) ws)) ∧
  (∀ s p d got ws, accepted (.fwStage p d) s → p.src ≠ .vane → stopped s .vane = false → s.vane.up = true → pw p 2 ≠ 3 →
    pw64 p 3 % 64 = 0 → 512 ≤ pw p 5 → pw p 5 ≤ slotBytes (pw p 2) → pw p 5 % 4 = 0 → shedding s = false →
    hostGives s p d got → ws = pad (pw p 5 / 4) got → s.vane.stage = none → (∀ a, s.vane.act = some a → a.kind ≠ pw p 2) →
    imageOk s (pw p 2) (pw p 5) ws = false → replies (.fwStage p d) p s St.BAD_VALUE [] (record s 0x0D 0 0x0C)) ∧
  (∀ s g, s.vane.stage = some g → ∃ u w : State,
    u = s.setFlash (2 * g.kind + g.slot) { s.flash (2 * g.kind + g.slot) with state := 1 } ∧
    w = fwState (u.setVane { u.vane with stage := none }) ∧ goes (.fwStageDone true) s (answerImage
      (firmwareRec w 0 g.kind g.slot (runningVersion w g.kind) (w.flash (2 * g.kind + g.slot)).version 0) g.cmd St.SUCCESS [g.slot])) ∧
  (∀ s g, s.vane.stage = some g → goes (.fwStageDone false) s (stagingFails s g St.MEDIA)) ∧
  (∀ s p k f, accepted (.fwActivate p) s → p.src ≠ .vane → stopped s .vane = false → s.vane.up = true → fld (pw p 2) 0 2 ≠ 3 →
    shedding s = false → (∀ o, o ∈ s.cmd.ops → pOpcode o.pkt = 0x0C01 → o.stage = .waiting ∨ opDone s o = true) →
    k = fld (pw p 2) 0 2 → f = s.flash (standbySlot s k) → s.vane.act = none → s.vane.stage = none → f.state = 1 →
    (runningVersion s k ≤ f.version ∨ grantsOpen (lcFor s p) = true) → s.rdN VANE.FW_SV ≤ f.sv →
    (needsOwner (lcFor s p) = false ∨ ownerSigned s f.header f.ownerSig = true) → compatible s k f = true → waits (.fwActivate p) p s
      (fwState (s.setVane { s.vane with act := some ⟨some (p.src, pTag p), k, bit (pw p 2) 8, 2, s.clock⟩ }))) ∧
  (∀ s a, s.vane.act = some a → a.kind = 0 → a.step = 2 → longRunning s = false → moves .fwActDrained s
    (s.setVane { s.vane with act := some { a with step := 3, at_ := s.clock } })) ∧
  (∀ s a, s.vane.act = some a → a.kind = 0 → a.step = 2 → a.at_ + 1000000 * s.rdN VANE.FW_ACT_WAIT ≤ s.clock →
    goes .fwActWaitExpiry s (activationFails s a 3 St.WRONG_STATE)) ∧
  (∀ s a, s.vane.act = some a → a.kind = 0 → a.step = 3 → moves .fwActPauseStart s
    { (actStep s a 4).putN VANE.FW_STATE 3 with hl := { s.hl with hostState := 1 } }) ∧
  (∀ s a, s.vane.act = some a → a.kind = 0 → a.step = 3 → a.at_ + 2000000000 ≤ s.clock →
    goes .fwActInitTimeout s (activationFails s a 4 St.INTERRUPTED)) ∧
  (∀ s a, s.vane.act = some a → a.kind = 0 → a.step = 4 → ∃ u w : State, u = actStep (swapImage s 0) a 6 ∧
    w = { u with hl := { u.hl with hostState := 0 } } ∧
    moves .fwSwap s (crsEnds (fwState (w.putN VANE.PAUSE_LAST (min ((s.clock - a.at_) / 1000) 0xFFFFFFFF))))) ∧
  (∀ s a, s.vane.act = some a → a.kind = 0 → a.step = 6 → goes .fwActComplete s (activated s a (leftVersion s 0))) ∧
  (∀ s a, s.vane.act = some a → a.kind = 1 →
    goes .microcodeBankSwitch s (activated (swapImage s 1) a (leftVersion (swapImage s 1) 1))) ∧
  (∀ s a, s.vane.act = some a → a.kind = 2 → a.step = 2 → s.vane.up = true → s.rd VANE.LOG_MEDIA_FAIL = 1 → ∃ u w : State,
    u = swapImage (actStep s a 6) 2 ∧ w = u.setVane { u.vane with up := false, why := 3 } ∧
    goes .vaneFwRestart s { w with pwr := { w.pwr with toggles := false, round := false } }) ∧
  (∀ s p k, accepted (.fwStatus p) s → p.src ≠ .vane → stopped s .vane = false → s.vane.up = true → k = pw p 2 → k < 3 →
    replies (.fwStatus p) p s St.SUCCESS [runningSlot s k - 2 * k + 16 * (s.flash (2 * k)).state +
      256 * (s.flash (2 * k + 1)).state, (s.flash (2 * k)).version, (s.flash (2 * k + 1)).version,
      (s.flash (2 * k)).sv + 256 * (s.flash (2 * k + 1)).sv + 65536 * s.rdN VANE.FW_SV] s)

/-- The rows of the life cycle and of the TAP (R515 to R530, R541): transitions, challenges, status, the nonce's age, the end of an
erasure, instructions. -/
def Obligations.LifeRowsComplete : Prop :=
  (∀ s p d t from_ to_ vendor owner still k, accepted (.lcTransition p d) s → p.src ≠ .vane → stopped s .vane = false →
    s.vane.up = true → pPtr p = true → hostGives s p d t → t.length = 56 → fld (t.getD 0 0) 4 4 = from_ → fld (t.getD 0 0) 0 4 = to_ →
    lcArrow s from_ to_ = some (vendor, owner, still) → fld (t.getD 0 0) 16 16 = 1 → fld (t.getD 0 0) 8 8 = 0 →
    t.getD 1 0 ≤ 1 → t.getD 6 0 = 0 → t.getD 7 0 = 0 → from_ = s.lcState → (still = true → quiet s = true) → s.vane.act = none →
    s.rd LC.FAILS ≠ 16 → nonceLives s = true → s.lc.nonce = some (word64 (t.getD 4 0) (t.getD 5 0)) →
    t.getD 2 0 = serialWords.getD 0 0 → t.getD 3 0 = serialWords.getD 1 0 → (if t.getD 1 0 = 0 then vendor else owner) = true →
    tokenKey { s with lc := { s.lc with nonce := none } } t = some k →
    Config.sigVerifies k (t.take 32) ((t.drop 32).take 24) = true → to_ ≠ 3 → ∃ u, replies (.lcTransition p d) p s St.SUCCESS [] u ∧
      transit { s with lc := { s.lc with nonce := none } } p t from_ to_ = .done St.SUCCESS [] u ∧ u.lc.nonce = none) ∧
  (∀ s p d t, accepted (.lcTransition p d) s → p.src ≠ .vane → stopped s .vane = false → s.vane.up = true →
    pPtr p = true → hostGives s p d t → t.length = 56 → lcArrow s (fld (t.getD 0 0) 4 4) (fld (t.getD 0 0) 0 4) = none →
    replies (.lcTransition p d) p s St.LC_DENIED [] s) ∧
  (∀ s p, accepted (.lcChallenge p) s → p.src ≠ .vane → stopped s .vane = false → s.vane.up = true → s.rd LC.FAILS ≠ 16 →
    ∃ u n, n < 2 ^ 64 ∧ u = { s with draws := u.draws, lc := { s.lc with nonce := some n, nonceAt := s.clock } } ∧
      replies (.lcChallenge p) p s St.SUCCESS [lo32 n, hi32 n, s.lcState] u) ∧
  (∀ s p, accepted (.lcChallenge p) s → p.src ≠ .vane → stopped s .vane = false → s.vane.up = true → s.rd LC.FAILS = 16 →
    replies (.lcChallenge p) p s St.LC_DENIED [] s) ∧
  (∀ s p, accepted (.lcStatus p) s → p.src ≠ .vane → stopped s .vane = false → s.vane.up = true →
    replies (.lcStatus p) p s St.SUCCESS [s.lcState + s.rdN LC.OWNER_KEY_EN * 16 + s.rdN LC.ERASE_PENDING * 32 +
      s.rdN LC.FAILS * 256, s.rdN LC.TRANSITIONS] s) ∧
  (∀ s, s.lc.nonce ≠ none → s.lc.nonceAt + 600000000000 ≤ s.clock →
    moves .nonceExpiry s { s with lc := { s.lc with nonce := none } }) ∧
  (∀ s, s.rd LC.ERASE_PENDING = 1 → s.vane.up = true → ∃ u : State,
    u = lifeRecord ((eraseAll s).putN LC.ERASE_PENDING 0) s.lc.eraseFrom 3 ∧ goes .erasureDone s (match s.lc.eraseCmd with
      | some c => State.complete { u with lc := { u.lc with eraseCmd := none } } c.1 c.2 St.SUCCESS []
      | none => { u with lc := { u.lc with eraseCmd := none } })) ∧
  (∀ s scan, s.tst.extest = false →
    goes (.tapInstruction ⟨.bypass, scan⟩) s { s with tst := { s.tst with tap := .bypass } } ∧
    goes (.tapInstruction ⟨.idcode, scan⟩) s
      (State.emit { s with tst := { s.tst with tap := .idcode } } (.scanWord tapIdcode))) ∧
  (∀ s scan, s.tst.extest = false → openAccess s = true → goes (.tapInstruction ⟨.samplePreload, scan⟩) s
    (scanCells { s with tst := { s.tst with tap := .samplePreload } } .samplePreload scan)) ∧
  (∀ s i scan, i ∈ [TapInstr.extest, .extestPulse, .extestTrain] → openAccess s = true → quiet s = true → s.tst.extest = false →
    goes (.tapInstruction ⟨i, scan⟩) s (scanCells (stopLinks { s with tst := { s.tst with tap := i } }) i scan)) ∧
  (∀ s i scan, i ∈ [TapInstr.extest, .extestPulse, .extestTrain] → openAccess s = true → quiet s = false → s.tst.extest = false →
    ∃ u : State, u = record s 0x0E 0 0x02 ∧
    (u.tst.extest = false → goes (.tapInstruction ⟨i, scan⟩) s { u with tst := { u.tst with tap := .bypass } }))

/-- The rows of loopback and self-test (R532 to R534, R543). -/
def Obligations.TestRowsComplete : Prop :=
  (∀ s p t, accepted (.loopbackSet p) s → loopTarget p = some t → pw p 2 = 0 → stopped s t.island = false →
    replies (.loopbackSet p) p s St.SUCCESS [] (disarm s (pw p 1))) ∧
  (∀ s p d, accepted (.loopbackSet p) s → loopTarget p = some (.dom d) → pw p 2 = 1 ∨ pw p 2 = 2 → grantsLoop (lcFor s p) false = true →
    stopped s (.seq d) = false → ∃ u : State, u = disarm s (pw p 1) ∧ replies (.loopbackSet p) p s St.SUCCESS []
      { u with tst := { u.tst with armed := u.tst.armed ++ [(pw p 1, pw p 2)] } }) ∧
  (∀ s p t, accepted (.loopbackRun p) s → loopTarget p = some t → depthApplies t (pw p 2) = true → grantsLoop (lcFor s p) false = true →
    stopped s t.island = false → mayRun s t (pw p 2) (pw64 p 3) = true → (s.tst.runs.any fun r => r.target == pw p 1) = false →
    pw p 2 ≠ 2 → waits (.loopbackRun p) p s { s with tst := { s.tst with runs := s.tst.runs ++
      [{ src := p.src, tag := pTag p, target := pw p 1, depth := pw p 2, mask := pw64 p 3, start := s.clock }] } }) ∧
  (∀ s p d, accepted (.loopbackRun p) s → loopTarget p = some (.dom d) → pw p 2 = 2 → grantsLoop (lcFor s p) false = true →
    stopped s (.seq d) = false → mayRun s (.dom d) 2 (pw64 p 3) = true →
    (s.tst.runs.any fun r => r.target == pw p 1) = false → ∃ u : State,
    u = { s with tst := { s.tst with runs := s.tst.runs ++ [{ src := p.src, tag := pTag p, target := pw p 1, depth := 2
                                                              mask := pw64 p 3, start := s.clock
                                                              saved := driverSaved s d }] } } ∧
    waits (.loopbackRun p) p s (driverBegins u d)) ∧
  (∀ s src tag captured means echoes looped r v, (s.tst.runs.find? fun r => r.src == src && r.tag == tag) = some r → judge r captured means echoes looped = some v →
    v.errors ≤ 65535 → ∃ u : State,
    u = restoreRun { s with tst := { s.tst with runs := s.tst.runs.filter (· != r) } } r ∧
    goes (.loopbackRunDone src tag captured means echoes looped) s (if v.errors = 0 then
        u.complete src tag St.SUCCESS [2 ^ 31, 0xFFFFFFFF, 0, (u.clock - r.start) / 1000]
      else State.complete (record u 0x0E 0 0x01) src tag St.SUCCESS
        [v.errors, v.item, v.value, ((record u 0x0E 0 0x01).clock - r.start) / 1000])) ∧
  (∀ s p, accepted (.selfTest p) s → grantsLoop (lcFor s p) false = true → s.tst.selfTest = none → ∃ r : SelfRun,
    r = ⟨p.src, pTag p, pw p 2, (skippedSteps s).land (pw p 2), s.clock⟩ ∧
    waits (.selfTest p) p s { s with tst := { s.tst with selfTest := some r } }) ∧
  (∀ s failed skipped r, s.tst.selfTest = some r → failed.land r.mask % 64 = 0 → ∃ u : State,
    u = { s with tst := { s.tst with selfTest := none } } ∧ goes (.selfTestDone failed skipped) s (u.complete r.src r.tag St.SUCCESS
      [failed.land r.mask, r.skipped.lor (skipped.land r.mask), 0, (s.clock - r.start) / 1000000])) ∧
  (∀ s failed skipped r, s.tst.selfTest = some r → failed.land r.mask % 64 ≠ 0 → ∃ u : State,
    u = record { s with tst := { s.tst with selfTest := none } } 0x0E 0 0x01 ∧
    goes (.selfTestDone failed skipped) s (u.complete r.src r.tag St.SUCCESS
      [failed.land r.mask, r.skipped.lor (skipped.land r.mask), 0, (u.clock - r.start) / 1000000]))

/-- The frame of the rows that act in channels, groups, engines, pins, sequencers, streams, windows, queues and the fabric: whatever
they do, and whatever their causes bring about, the parameters of the blocks from TB on, the host link but for its interrupt
vectors, Vane but for its queue of records, the life cycle, power, sweep memory, uploads, calibration, translation but for its
transfers, the ADCs and the timebase are as they were. -/
def Obligations.SparingRowsKeepTheRest : Prop :=
  ∀ (c : Instr) (s t : State), sparing c = true → exec c s = .next t →
    (∀ id, 7 ≤ id / 0x1000000 → id / 0x1000000 ≠ 9 → Bank.get paramReset t.par id = Bank.get paramReset s.par id) ∧
    { t.hl with vecs := [] } = { s.hl with vecs := [] } ∧
    { t.vane with queue := [], queueLost := 0 } = { s.vane with queue := [], queueLost := 0 } ∧ t.lc = s.lc ∧ t.pwr = s.pwr ∧
    t.sweMem = s.sweMem ∧ t.sweBad = s.sweBad ∧ t.uploads = s.uploads ∧ t.cal = s.cal ∧
    { t.xlt with xfers := [], served := [] } = { s.xlt with xfers := [], served := [] } ∧ t.adc = s.adc ∧ t.tb = s.tb

/-- The commands that only read, from a queue or the mailbox, change nothing but the record of commands and completions (R337 to R339,
R490, R513, R530). -/
def Obligations.ReadingCommandsChangeNothing : Prop :=
  ∀ (c : Instr) (p : Pkt) (code : Nat) (f : Form) (s t : State), packetOf c = some (p, code, f) →
    code ∈ [0x0001, 0x0002, 0x0003, 0x0204, 0x0904, 0x0907, 0x0C03] → (code = 0x0003 → pPtr p = false) →
    p.src = .mbx ∨ (∃ q, p.src = .sq q) → s.due = [] → exec c s = .next t →
    t = { s with cmd := t.cmd, xlt := { s.xlt with xfers := t.xlt.xfers } } ∧
    ∀ x, x ∈ t.xlt.xfers ↔ x ∈ s.xlt.xfers ∧ (dispatched s p code = true → ¬ (x.who = .cmd p.src (pTag p) ∧ x.write = false))

/-- A packet whose tag another operation in flight of its SQ has, or a packet refused for its tag whose completion is still to be posted,
completes DUP_TAG and applies nothing; the tags of other SQs and of the mailbox do not count (R327, R330). -/
def Obligations.DuplicateTagRefused : Prop :=
  (∀ (s : State) (q : Nat) (ws : List Nat) (o : Op), o ∈ s.cmd.ops → o.pkt.src = .sq q → pTag o.pkt = pTag ⟨.sq q, pad 16 ws⟩ →
    arriveOne q s ws = s.complete (.sq q) (pTag ⟨.sq q, pad 16 ws⟩) 0x0109 [] false) ∧
  (∀ (s : State) (q : Nat) (ws : List Nat) (k : Nat) (e : Cq) (c : Cpl), (k, e) ∈ s.cmd.cqs → c ∈ e.pend → c.owns = false →
    c.status = 0x0109 → c.src = .sq q → c.tag = pTag ⟨.sq q, pad 16 ws⟩ →
    arriveOne q s ws = s.complete (.sq q) (pTag ⟨.sq q, pad 16 ws⟩) 0x0109 [] false) ∧
  (∀ (s : State) (q : Nat) (ws : List Nat), (∀ o ∈ s.cmd.ops, o.pkt.src = .sq q → pTag o.pkt ≠ pTag ⟨.sq q, pad 16 ws⟩) →
    (∀ e ∈ s.cmd.cqs, ∀ c ∈ e.2.pend, c.owns = false → c.status = 0x0109 → c.src = .sq q → c.tag ≠ pTag ⟨.sq q, pad 16 ws⟩) →
    pTag ⟨.sq q, pad 16 ws⟩ ≠ 0xFFF ∨ noticeQueue s q = false →
    arriveOne q s ws = { s with cmd := { s.cmd with ops := s.cmd.ops ++ [⟨⟨.sq q, pad 16 ws⟩, .waiting⟩] } })

/-- STATUS_READ answers the words of the window that word 1 names, as they stand, and clears nothing. -/
def Obligations.StatusReadGivesItsWindow : Prop :=
  ∀ (s : State) (p : Pkt) (blk inst : Nat), accepted (.statusRead p) s → inst < 0x1000 →
    pw p 1 = blk * 0x1000000 + inst * 0x1000 → winExists blk inst = true → stopped s (islandOf blk inst) = false → s.due = [] → ∃ t, exec (.statusRead p) s = .next t ∧
      (∀ b n, t.win b n = s.win b n) ∧ t = (freeCore s p).complete p.src (pTag p) St.SUCCESS
        [b2n (s.win blk inst).fatal * 2 ^ 31 + b2n (s.win blk inst).fault * 2 ^ 30 + b2n (s.win blk inst).degraded * 2 ^ 29 +
          b2n (s.win blk inst).warn * 2 ^ 28 + b2n (s.win blk inst).injected * 2 ^ 27 +
          fld (s.win blk inst).last 16 8 * 2 ^ 16 + min (s.win blk inst).count 0xFFFF,
        (s.win blk inst).count, (s.win blk inst).first, (s.win blk inst).last]

/-- RD_IDX: the host advances it by a write to the stream's doorbell page; a value beyond what was written, or a stream in IDLE or
DETACHED, sets RD_IDX_BAD and nothing else; a forwarded stream
ignores the write (R425). -/
def Obligations.ReadIndexAdvancesWithinWritten : Prop :=
  ∀ (s : State) (n v : Nat), n < 32 → v < 2 ^ 32 → s.barOpen = true →
    ((s.stream n).node ≠ none → goes (.registerWrite (0x80000 + 0x1000 * n) 4 v) s s) ∧
    ((s.stream n).node = none ∧ s.stmState n ≠ 0 ∧ s.stmState n ≠ 5 ∧
        (v + 2 ^ 32 - s.rdN STM.RD_IDX n) % 2 ^ 32 ≤ (s.rdN STM.WR_IDX n + 2 ^ 32 - s.rdN STM.RD_IDX n) % 2 ^ 32 →
      goes (.registerWrite (0x80000 + 0x1000 * n) 4 v) s (s.put STM.RD_IDX n v)) ∧
    ((s.stream n).node = none ∧ (s.stmState n = 0 ∨ s.stmState n = 5 ∨
        (s.rdN STM.WR_IDX n + 2 ^ 32 - s.rdN STM.RD_IDX n) % 2 ^ 32 < (v + 2 ^ 32 - s.rdN STM.RD_IDX n) % 2 ^ 32) →
      goes (.registerWrite (0x80000 + 0x1000 * n) 4 v) s (record s 9 n 0x07))

/-- An upload that ends well stores its entries in its region, and nothing else of sweep memory changes (R127, R128). -/
def Obligations.UploadStoresItsRegionOnly : Prop :=
  ∀ (s : State) (src : Src) (tag : Nat) (got : List Nat) (u : Upload) (r : Region), s.due = [] →
    (s.uploads.find? fun u => u.src == src && u.tag == tag) = some u → s.region u.handle = some r →
    uploadRead s u = true → (∀ x, uploadXfer s u = some x → x.fault = none) → (quadsOf got).length = r.count → firstBad r.hv false (quadsOf got) 0 (quadsOf got) = none →
    ∃ t, exec (.sweUploadDone src tag got none) s = .next t ∧ ∀ i, Bank.get (fun _ => Quad.zero) t.sweMem i =
      if r.base ≤ i ∧ i < r.base + r.count then (quadsOf got).getD (i - r.base) Quad.zero
      else Bank.get (fun _ => Quad.zero) s.sweMem i

/-- A vector load stores its vectors in its own domain's area from its first granule on, and no other vector of either domain changes
(R212, R230). -/
def Obligations.VectorLoadStoresItsVectorsOnly : Prop :=
  ∀ (s : State) (p : Pkt) (d : Nat) (ws : List Nat), s.due = [] → accepted (.seqVecLoad p (.words ws)) s → targetDom p = some d →
    stopped s (.seq d) = false → pw p 2 % 64 = 0 → pw p 5 ≠ 0 → pw p 4 + pw p 5 ≤ areaGrans →
    hostGives s p (.words ws) ws → ∃ t, exec (.seqVecLoad p (.words ws)) s = .next t ∧
    ∀ e i, Bank.get (fun _ => ⟨0, 0⟩) (t.sequencer e).vecs i =
      if e = d ∧ 64 * pw p 4 ≤ i ∧ i < 64 * (pw p 4 + pw p 5) then (vectorsOf (64 * pw p 5) ws).getD (i - 64 * pw p 4) ⟨0, 0⟩
      else Bank.get (fun _ => ⟨0, 0⟩) (s.sequencer e).vecs i

/-- What the setting of a real cause writes in its window, and that no other window changes (R462, R465, R466): a cause that one of the
same loop cycle outranks leaves LAST_CAUSE and FIRST_CAUSE alone; one that outranks the cause that was first takes its place. -/
def Obligations.CauseWritesItsWindow : Prop :=
  (∀ (sev action code : Nat) (inj : Bool), sev < 4 → action < 8 → code < 256 → fld (causeWord sev inj action code) 28 4 = 2 ^ sev ∧
    bit (causeWord sev inj action code) 27 = inj ∧ fld (causeWord sev inj action code) 24 3 = action ∧
    fld (causeWord sev inj action code) 16 8 = code ∧ fld (causeWord sev inj action code) 0 16 = 0) ∧
  ∀ (s : State) (blk inst code : Nat) (c : Cause) (high : Bool), findCause blk code = some c → ∃ (w : Win) (word sev : Nat) (h : Hit),
    h = { code := code, high := high } ∧ sev = (if high then c.sevHigh.getD c.sev else c.sev) ∧
    word = causeWord sev false (reactionOf s blk inst code) code ∧ (record s blk inst code high).win blk inst = w ∧
    w.count = min ((s.win blk inst).count + 1) 0xFFFFFFFF ∧
    (beaten s blk (s.win blk inst) h = false → w.last = word ∧ w.top = some h ∧ w.topAt = s.clock ∧
      w.first = (if firstOpen s (s.win blk inst) then word else (s.win blk inst).first) ∧
      w.firstTime = (if firstOpen s (s.win blk inst) then s.now else (s.win blk inst).firstTime)) ∧
    (beaten s blk (s.win blk inst) h = true → w.last = (s.win blk inst).last ∧ w.first = (s.win blk inst).first ∧
      w.firstTime = (s.win blk inst).firstTime ∧ w.top = (s.win blk inst).top) ∧
    w.fatal = ((s.win blk inst).fatal || decide (sev = 3)) ∧ w.fault = ((s.win blk inst).fault || decide (sev = 2)) ∧
    w.degraded = ((s.win blk inst).degraded || decide (sev = 1)) ∧ w.warn = ((s.win blk inst).warn || decide (sev = 0 ∨ 3 < sev)) ∧
    w.injected = (s.win blk inst).injected ∧
    ∀ b n, winKey b n ≠ winKey blk inst → (record s blk inst code high).win b n = s.win b n

/-- What reset leaves, of the values the spec gives (R49, R85, R89, R209, R256, R291, R393, R415, R461, R528): nothing waits, no window shows
a cause, outputs OFF, sequencers and streams IDLE, no triggers, ST_31's quota, no mesh, no queue. -/
def Obligations.ResetLeavesTheSpecsValues : Prop :=
  State.reset.pending = [] ∧ (∀ b n, State.reset.win b n = {}) ∧ (∀ c, c < 132 → State.reset.chState c = 0) ∧
    (∀ g, g < 17 → State.reset.rd MSR.TRIG_SRC (groupHome g) = 0) ∧ (∀ d, d < 2 → State.reset.seqState d = 0) ∧
    (∀ n, n < 32 → State.reset.stmState n = 0) ∧ State.reset.rd STM.QUOTA 31 = 16 ∧ State.reset.evfMode = 0 ∧
    State.reset.tbState = 0 ∧ State.reset.rd VANE.PWR_STATE = 0 ∧ State.reset.rd MSH.ENUM_STATE = 0 ∧
    (∀ p, p < 4 → portState State.reset p ≤ 1) ∧ (∀ q, (State.reset.sq q).enable = false ∧ (State.reset.cq q).enable = false) ∧
    State.reset.rd LC.FAILS = 0
end

