-- ==== Sys2Proof/Laws/Answers.lean ====
section
/-!
SUPPORT. What the operations answer that every meaning ends in: `done`, `runCmd`, `runBlock`, `finish`, `withData` and `hostPut`.
-/
namespace Sys2Proof.Machine

variable {s u : State} {p : Pkt} {code : Nat} {f : Form} {body : Res}

/-- Where no cause waits there is nothing to bring about. -/
theorem settle_none (h : s.due = []) : settle s = s := by
  unfold settle settleN
  rw [h]

/-- The row of a packet that is no dispatched operation of its opcode does nothing. -/
theorem runCmd_idle (h : dispatched s p code = false) : runCmd s p code f body = .next s := by
  simp [runCmd, h]

/-- A command that a common check refuses completes with that check's status. -/
theorem runCmd_refused {st : Nat} (hd : dispatched s p code = true) (h : gate s p code f = some st) :
    runCmd s p code f body = .next (settle ((freeCore s p).complete p.src (pTag p) st [])) := by
  simp only [runCmd, hd, h, done, finish, refuse, if_true]

/-- A command that the common checks pass does what its definition says. -/
theorem runCmd_passed (hd : dispatched s p code = true) (h : gate s p code f = none) :
    runCmd s p code f body = done (finish p body) := by
  simp only [runCmd, hd, h, if_true]

/-- A command that is carried out completes. -/
theorem finish_done (st : Nat) (res : List Nat) :
    finish p (.done st res u) = (freeCore u p).complete p.src (pTag p) st res := rfl

/-- A command that goes on completes later, and needs its core no more. -/
theorem finish_later (h : stillReads u p = false) : finish p (.later u) = freeCore u p := by
  simp [finish, h]

/-- A command that waits for units of a read keeps its place. -/
theorem finish_reads (h : stillReads u p = true) : finish p (.later u) = u := by
  simp [finish, h]

/-- Data whose read has issued every unit goes to the command. -/
theorem withData_words {addr bytes : Nat} {ws : List Nat} {x : Xfer} {k : List Nat → Res} (h : pktXfer s p = some x) (hl : x.left = 0) :
    withData s p addr bytes (.words ws) k = k ws := by
  simp [withData, h, hl]

/-- A fault that the completions of such a read report fails the command. -/
theorem withData_fault {addr bytes : Nat} {e : HostFault} {x : Xfer} {k : List Nat → Res} (h : pktXfer s p = some x) (hl : x.left = 0) :
    withData s p addr bytes (.fault e) k = transferFails s p addr (readStatus e) := by
  simp [withData, h, hl]

/-- A command whose read is under way waits. -/
theorem withData_waits {addr bytes : Nat} {d : HostData} {x : Xfer} {k : List Nat → Res} (h : pktXfer s p = some x) (hl : x.left ≠ 0) :
    withData s p addr bytes d k = .later s := by
  simp [withData, h, hl]

/-- A command without a pointer block has no words of one. -/
theorem withBlock_plain {d : HostData} {k : List Nat → Res} (h : pPtr p = false) : withBlock s p f d k = k [] := by
  simp [withBlock, h]

/-- A pointer block that is there, with no reserved bit set in its command, goes to the command. -/
theorem withBlock_words {ws : List Nat} {x : Xfer} {k : List Nat → Res} (hp : pPtr p = true) (h : pktXfer s p = some x) (hl : x.left = 0)
    (hr : reservedSet p f = false) : withBlock s p f (.words ws) k = k ws := by
  simp [withBlock, hp, withData_words h hl, hr]

end Sys2Proof.Machine
end

