-- ==== Sys2Proof/Laws/Bank.lean ====
section
/-!
SUPPORT. What the operations of sparse storage do: a read after a write, and that every operation keeps the canonical
form. Callers cite these and never unfold a bank.
-/
namespace Sys2Proof.Machine
variable {α : Type}

theorem Bank.find_drop_self (i : Nat) (b : Bank α) : Bank.find i (Bank.drop i b) = none := by
  induction b with
  | nil => rfl
  | cons e b ih =>
    obtain ⟨j, v⟩ := e
    by_cases h : i = j <;> simp [Bank.drop, Bank.find, h]
    all_goals simpa [h] using ih

theorem Bank.find_drop_ne {i k : Nat} (h : k ≠ i) (b : Bank α) : Bank.find k (Bank.drop i b) = Bank.find k b := by
  induction b with
  | nil => rfl
  | cons e b ih =>
    obtain ⟨j, v⟩ := e
    by_cases hij : i = j
    · subst hij; simp [Bank.drop, Bank.find, h, ih]
    · by_cases hkj : k = j <;> simp [Bank.drop, Bank.find, hij, hkj, ih]

theorem Bank.find_put_self (i : Nat) (v : α) (b : Bank α) (h : Bank.find i b = none) :
    Bank.find i (Bank.put i v b) = some v := by
  induction b with
  | nil => simp [Bank.put, Bank.find]
  | cons e b ih =>
    obtain ⟨j, w⟩ := e
    by_cases hij : i = j
    · simp [Bank.find, hij] at h
    · simp only [Bank.find, if_neg hij] at h
      by_cases hlt : i < j <;> simp [Bank.put, Bank.find, hlt, hij, ih h]

theorem Bank.find_put_ne {i k : Nat} (h : k ≠ i) (v : α) (b : Bank α) : Bank.find k (Bank.put i v b) = Bank.find k b := by
  induction b with
  | nil => simp [Bank.put, Bank.find, h]
  | cons e b ih =>
    obtain ⟨j, w⟩ := e
    by_cases hlt : i < j
    · simp [Bank.put, Bank.find, hlt, h]
    · by_cases hkj : k = j <;> simp [Bank.put, Bank.find, hlt, hkj, ih]

variable [DecidableEq α]

/-- A read after a write: the written index gives the value written, every other index what it gave. -/
theorem Bank.get_set (d : Nat → α) (b : Bank α) (i k : Nat) (v : α) :
    Bank.get d (Bank.set d b i v) k = if k = i then v else Bank.get d b k := by
  by_cases hk : k = i
  · subst hk
    by_cases hv : v = d k
    · simp [Bank.get, Bank.set, hv, Bank.find_drop_self]
    · simp [Bank.get, Bank.set, hv, Bank.find_put_self _ _ _ (Bank.find_drop_self k b)]
  · by_cases hv : v = d i <;>
      simp [Bank.get, Bank.set, hv, hk, Bank.find_drop_ne hk, Bank.find_put_ne hk]

@[simp] theorem Bank.get_set_self (d : Nat → α) (b : Bank α) (i : Nat) (v : α) :
    Bank.get d (Bank.set d b i v) i = v := by simp [Bank.get_set]

theorem Bank.get_set_ne (d : Nat → α) (b : Bank α) {i k : Nat} (v : α) (h : k ≠ i) :
    Bank.get d (Bank.set d b i v) k = Bank.get d b k := by simp [Bank.get_set, h]

@[simp] theorem Bank.get_nil (d : Nat → α) (i : Nat) : Bank.get d ([] : Bank α) i = d i := rfl

theorem Bank.wfFrom_mono (d : Nat → α) {b : Bank α} {lo lo' : Nat} (h : lo' ≤ lo) (hw : Bank.wfFrom d lo b = true) :
    Bank.wfFrom d lo' b = true := by
  cases b with
  | nil => rfl
  | cons e b =>
    simp only [Bank.wfFrom, Bool.and_eq_true, decide_eq_true_eq] at hw ⊢
    exact ⟨⟨by omega, hw.1.2⟩, hw.2⟩

theorem Bank.wfFrom_drop (d : Nat → α) (i : Nat) {b : Bank α} {lo : Nat} (hw : Bank.wfFrom d lo b = true) :
    Bank.wfFrom d lo (Bank.drop i b) = true := by
  induction b generalizing lo with
  | nil => rfl
  | cons e b ih =>
    obtain ⟨j, w⟩ := e
    simp only [Bank.wfFrom, Bool.and_eq_true, decide_eq_true_eq] at hw
    by_cases hij : i = j
    · simp only [Bank.drop, if_pos hij]
      exact Bank.wfFrom_mono d (by omega : lo ≤ j + 1) (ih hw.2)
    · simp only [Bank.drop, if_neg hij, Bank.wfFrom, Bool.and_eq_true, decide_eq_true_eq]
      exact ⟨hw.1, ih hw.2⟩

theorem Bank.wfFrom_put (d : Nat → α) {i : Nat} {v : α} {b : Bank α} {lo : Nat} (hlo : lo ≤ i) (hv : v ≠ d i)
    (hf : Bank.find i b = none) (hw : Bank.wfFrom d lo b = true) : Bank.wfFrom d lo (Bank.put i v b) = true := by
  induction b generalizing lo with
  | nil => simp [Bank.put, Bank.wfFrom, hlo, hv]
  | cons e b ih =>
    obtain ⟨j, w⟩ := e
    simp only [Bank.wfFrom, Bool.and_eq_true, decide_eq_true_eq] at hw
    by_cases hij : i = j
    · simp [Bank.find, hij] at hf
    · simp only [Bank.find, if_neg hij] at hf
      by_cases hlt : i < j
      · simp only [Bank.put, if_pos hlt, Bank.wfFrom, Bool.and_eq_true, decide_eq_true_eq]
        exact ⟨⟨hlo, hv⟩, ⟨by omega, hw.1.2⟩, hw.2⟩
      · simp only [Bank.put, if_neg hlt, Bank.wfFrom, Bool.and_eq_true, decide_eq_true_eq]
        exact ⟨hw.1, ih (by omega) hf hw.2⟩

/-- A write keeps the canonical form. -/
theorem Bank.wf_set (d : Nat → α) {b : Bank α} (i : Nat) (v : α) (hw : Bank.wf d b = true) :
    Bank.wf d (Bank.set d b i v) = true := by
  unfold Bank.wf Bank.set at *
  split
  · exact Bank.wfFrom_drop d i hw
  · rename_i hv
    exact Bank.wfFrom_put d (Nat.zero_le _) hv (Bank.find_drop_self i b) (Bank.wfFrom_drop d i hw)

/-- Writes at consecutive indexes keep the canonical form. -/
theorem Bank.wf_setAll (d : Nat → α) (vs : List α) {b : Bank α} (i : Nat) (hw : Bank.wf d b = true) :
    Bank.wf d (Bank.setAll d b i vs) = true := by
  induction vs generalizing b i with
  | nil => exact hw
  | cons v vs ih => exact ih (i + 1) (Bank.wf_set d i v hw)

theorem Bank.wfFrom_filter (d : Nat → α) (p : Nat × α → Bool) {b : Bank α} {lo : Nat} (hw : Bank.wfFrom d lo b = true) :
    Bank.wfFrom d lo (b.filter p) = true := by
  induction b generalizing lo with
  | nil => rfl
  | cons e b ih =>
    obtain ⟨j, w⟩ := e
    simp only [Bank.wfFrom, Bool.and_eq_true, decide_eq_true_eq] at hw
    by_cases hp : p (j, w) = true
    · simp only [List.filter_cons_of_pos hp, Bank.wfFrom, Bool.and_eq_true, decide_eq_true_eq]
      exact ⟨hw.1, ih hw.2⟩
    · simp only [List.filter_cons_of_neg hp]
      exact Bank.wfFrom_mono d (by omega : lo ≤ j + 1) (ih hw.2)

/-- Leaving entries out keeps the canonical form. -/
theorem Bank.wf_filter (d : Nat → α) (p : Nat × α → Bool) {b : Bank α} (hw : Bank.wf d b = true) :
    Bank.wf d (b.filter p) = true := Bank.wfFrom_filter d p hw

end Sys2Proof.Machine
end

