-- ==== Sys2Proof/Laws/Canon.lean ====
section
/-!
SUPPORT. What every operation of the block keeps: the queue of waiting commands, the canonical form of the stores, and a
blown SCRAPPED fuse. One lemma for each function that answers a state.
-/
namespace Sys2Proof.Machine

/-- What is kept, by components: the queue `qs`, the stores, and the fuse where `fu` says it is blown. -/
def KeptAt (qs : List Instr) (fu : Bool) (pending : List Instr) (par : Bank Int) (old : Bank (Option Int)) (wins : Bank Win) (fuse : Bool) (fch : Bank Fch)
    (grp : Bank Grp) (msr : Bank Msr) (regions : Bank (Option Region)) (sweMem : Bank Quad) (swe : Bank Swe) (stm : Bank Stm)
    (pins : Bank PinRun) (adc : Bank Adc) (cmp : Bank CmpRun) (seq : Bank Seq) : Prop :=
  pending = qs ∧ (fu = true → fuse = true) ∧ Bank.wf paramReset par = true ∧
  Bank.wf (fun _ => none) old = true ∧ Bank.wf (fun _ => {}) wins = true ∧
  Bank.wf Fch.init fch = true ∧ Bank.wf Grp.init grp = true ∧ Bank.wf (fun _ => {}) msr = true ∧
  Bank.wf (fun _ => none) regions = true ∧ Bank.wf (fun _ => Quad.zero) sweMem = true ∧ Bank.wf (fun _ => {}) swe = true ∧
  Bank.wf (fun _ => {}) stm = true ∧ Bank.wf (fun _ => {}) pins = true ∧ Bank.wf (fun _ => {}) adc = true ∧
  Bank.wf (fun _ => {}) cmp = true ∧ Bank.wf (fun _ => {}) seq = true

/-- A state with the queue `qs`, canonical stores, and the fuse blown if `fu` says so. -/
def Kept (qs : List Instr) (fu : Bool) (s : State) : Prop :=
  KeptAt qs fu s.pending s.par s.old s.wins s.lc.scrapFuse s.fch s.grp s.msr s.regions s.sweMem s.swe s.stm s.pins s.adc s.cmp s.seq

variable {qs : List Instr} {fu : Bool} {s : State}

theorem Kept.pending (h : Kept qs fu s) : s.pending = qs := h.1

theorem Kept.fuse (h : Kept qs fu s) (hf : fu = true) : s.lc.scrapFuse = true := h.2.1 hf

theorem Kept.canonical (h : Kept qs fu s) : s.Canonical :=
  let ⟨_, _, a, z, b, c, d, e, g, i, j, k, l, m, n, o⟩ := h
  ⟨a, z, b, c, d, e, g, i, j, k, l, m, n, o⟩

theorem Kept.of (h : s.Canonical) : Kept s.pending s.lc.scrapFuse s :=
  ⟨rfl, id, h.par, h.old, h.wins, h.fch, h.grp, h.msr, h.regions, h.sweMem, h.swe, h.stm, h.pins, h.adc, h.cmp, h.seq⟩

/-- A state written out is kept as its components are. -/
@[simp] theorem Kept_mk (pending : List Instr) (draws : Nat) (sent : List Out) (due : List Due) (par : Bank Int)
    (old : Bank (Option Int)) (wins : Bank Win) (cmd : Cmd) (hl : Hl) (evf : Evf) (vane : Vane) (lc : Lc) (pwr : Pwr) (fch : Bank Fch) (hv : Hv) (grp : Bank Grp)
    (msr : Bank Msr) (regions : Bank (Option Region)) (sweMem : Bank Quad) (sweBad : List Nat) (uploads : List Upload)
    (swe : Bank Swe) (cal : Cal) (stm : Bank Stm) (xlt : Xlt) (pins : Bank PinRun) (adc : Bank Adc) (cmp : Bank CmpRun)
    (seq : Bank Seq) (tb : Tb) (tst : Tst) (msh : Msh) :
    Kept qs fu ⟨pending, draws, sent, due, par, old, wins, cmd, hl, evf, vane, lc, pwr, fch, hv, grp, msr, regions, sweMem, sweBad, uploads,
        swe, cal, stm, xlt, pins, adc, cmp, seq, tb, tst, msh⟩ ↔
      KeptAt qs fu pending par old wins lc.scrapFuse fch grp msr regions sweMem swe stm pins adc cmp seq := Iff.rfl

/-- Components that are all one state's are that state's. -/
@[simp] theorem KeptAt_self (s : State) :
    KeptAt qs fu s.pending s.par s.old s.wins s.lc.scrapFuse s.fch s.grp s.msr s.regions s.sweMem s.swe s.stm s.pins s.adc s.cmp s.seq ↔
      Kept qs fu s := Iff.rfl

@[simp] theorem Kept_ite (c : Prop) [Decidable c] (a b : State) :
    Kept qs fu (if c then a else b) ↔ (c → Kept qs fu a) ∧ (¬c → Kept qs fu b) := by
  split <;> simp [*]

theorem Kept_if {c : Prop} [Decidable c] {a b : State} (ha : Kept qs fu a) (hb : Kept qs fu b) :
    Kept qs fu (if c then a else b) := by
  split <;> assumption

/-- A fold of an operation that keeps keeps. -/
theorem Kept_foldl {α : Type} {g : State → α → State} (hg : ∀ s a, Kept qs fu s → Kept qs fu (g s a)) (l : List α)
    (h : Kept qs fu s) : Kept qs fu (l.foldl g s) := by
  induction l generalizing s with
  | nil => exact h
  | cons a l ih => exact ih (hg s a h)

/-- What a command came to keeps. -/
def KeptRes (qs : List Instr) (fu : Bool) : Res → Prop
  | .done _ _ s => Kept qs fu s
  | .later s => Kept qs fu s

/-- What an operation that can be refused answers keeps. -/
def KeptEx {ε α : Type} (qs : List Instr) (fu : Bool) (g : α → State) : Except ε α → Prop
  | .ok a => Kept qs fu (g a)
  | .error _ => True

/-- What an operation that may answer nothing answers keeps. -/
def KeptOpt (qs : List Instr) (fu : Bool) : Option State → Prop
  | some s => Kept qs fu s
  | none => True

/-- The next state of a meaning keeps. -/
def KeptAns (qs : List Instr) (fu : Bool) : Answer → Prop
  | .next s => Kept qs fu s
  | _ => True

@[simp] theorem KeptRes_done (st : Nat) (r : List Nat) : KeptRes qs fu (.done st r s) ↔ Kept qs fu s := Iff.rfl
@[simp] theorem KeptRes_later : KeptRes qs fu (.later s) ↔ Kept qs fu s := Iff.rfl
@[simp] theorem KeptEx_ok {ε α : Type} (g : α → State) (a : α) : KeptEx (ε := ε) qs fu g (.ok a) ↔ Kept qs fu (g a) := Iff.rfl
@[simp] theorem KeptEx_error {ε α : Type} (g : α → State) (e : ε) : KeptEx qs fu g (.error e) ↔ True := Iff.rfl
@[simp] theorem KeptOpt_some : KeptOpt qs fu (some s) ↔ Kept qs fu s := Iff.rfl
@[simp] theorem KeptOpt_none : KeptOpt qs fu none ↔ True := Iff.rfl
@[simp] theorem KeptAns_next : KeptAns qs fu (.next s) ↔ Kept qs fu s := Iff.rfl

@[simp] theorem KeptRes_ite (c : Prop) [Decidable c] (a b : Res) :
    KeptRes qs fu (if c then a else b) ↔ (c → KeptRes qs fu a) ∧ (¬c → KeptRes qs fu b) := by
  split <;> simp [*]

@[simp] theorem KeptEx_ite {ε α : Type} (g : α → State) (c : Prop) [Decidable c] (a b : Except ε α) :
    KeptEx qs fu g (if c then a else b) ↔ (c → KeptEx qs fu g a) ∧ (¬c → KeptEx qs fu g b) := by
  split <;> simp [*]

@[simp] theorem KeptOpt_ite (c : Prop) [Decidable c] (a b : Option State) :
    KeptOpt qs fu (if c then a else b) ↔ (c → KeptOpt qs fu a) ∧ (¬c → KeptOpt qs fu b) := by
  split <;> simp [*]

@[simp] theorem KeptAns_ite (c : Prop) [Decidable c] (a b : Answer) :
    KeptAns qs fu (if c then a else b) ↔ (c → KeptAns qs fu a) ∧ (¬c → KeptAns qs fu b) := by
  split <;> simp [*]

theorem KeptRes_if {c : Prop} [Decidable c] {a b : Res} (ha : KeptRes qs fu a) (hb : KeptRes qs fu b) :
    KeptRes qs fu (if c then a else b) := by
  split <;> assumption

theorem KeptEx_if {ε α : Type} {g : α → State} {c : Prop} [Decidable c] {a b : Except ε α} (ha : KeptEx qs fu g a)
    (hb : KeptEx qs fu g b) : KeptEx qs fu g (if c then a else b) := by
  split <;> assumption

theorem KeptOpt_if {c : Prop} [Decidable c] {a b : Option State} (ha : KeptOpt qs fu a) (hb : KeptOpt qs fu b) :
    KeptOpt qs fu (if c then a else b) := by
  split <;> assumption

theorem KeptAns_if {c : Prop} [Decidable c] {a b : Answer} (ha : KeptAns qs fu a) (hb : KeptAns qs fu b) :
    KeptAns qs fu (if c then a else b) := by
  split <;> assumption

theorem KeptEx.ok {ε α : Type} {g : α → State} {w : Except ε α} {a : α} (h : KeptEx qs fu g w) (e : w = .ok a) :
    Kept qs fu (g a) := by subst e; exact h

theorem KeptEx.state {ε : Type} {w : Except ε State} {t : State} (h : KeptEx qs fu id w) (e : w = .ok t) : Kept qs fu t := by
  subst e; exact h

theorem KeptEx.fst {ε α : Type} {w : Except ε (State × α)} {t : State} {a : α} (h : KeptEx qs fu Prod.fst w)
    (e : w = .ok (t, a)) : Kept qs fu t := by subst e; exact h

theorem Kept.fst {α : Type} {x : State × α} {t : State} {a : α} (h : Kept qs fu x.1) (e : x = (t, a)) : Kept qs fu t := by
  subst e; exact h

theorem Kept.snd {α : Type} {x : α × State} {t : State} {a : α} (h : Kept qs fu x.2) (e : x = (a, t)) : Kept qs fu t := by
  subst e; exact h

theorem KeptOpt.some {o : Option State} {t : State} (h : KeptOpt qs fu o) (e : o = Option.some t) : Kept qs fu t := by
  subst e; exact h

/-! The setters: each writes one store through `Bank.set`. -/

@[simp] theorem kept_wr {s : State} (p : Prm) (inst i : Nat) (v : Int) (hs : Kept qs fu s) : Kept qs fu (s.wr p inst i v) :=
  let ⟨a, b, c0, d0, c1, c2, c3, c4, c5, c6, c7, c8, c9, c10, c11, c12⟩ := hs
  ⟨a, b, Bank.wf_set _ _ _ c0, d0, c1, c2, c3, c4, c5, c6, c7, c8, c9, c10, c11, c12⟩

@[simp] theorem kept_wrNext {s : State} (p : Prm) (inst i : Nat) (v : Int) (hs : Kept qs fu s) : Kept qs fu (s.wrNext p inst i v) :=
  let ⟨a, b, c0, d0, c1, c2, c3, c4, c5, c6, c7, c8, c9, c10, c11, c12⟩ := hs
  ⟨a, b, Bank.wf_set _ _ _ c0, Bank.wf_set (fun _ => none) (p.id inst i) (some (s.eff p inst i)) d0, c1, c2, c3, c4, c5, c6, c7, c8, c9, c10, c11, c12⟩

@[simp] theorem kept_wrEff {s : State} (p : Prm) (inst i : Nat) (v : Int) (hs : Kept qs fu s) : Kept qs fu (s.wrEff p inst i v) := by
  let ⟨a, b, c0, d0, c1, c2, c3, c4, c5, c6, c7, c8, c9, c10, c11, c12⟩ := hs
  refine Kept_if ?_ (kept_wr p inst i v hs)
  exact ⟨a, b, c0, Bank.wf_set (fun _ => none) (p.id inst i) (some v) d0, c1, c2, c3, c4, c5, c6, c7, c8, c9, c10, c11, c12⟩

@[simp] theorem kept_takenOver {s : State} (hs : Kept qs fu s) : Kept qs fu s.takenOver :=
  let ⟨a, b, c0, _, c1, c2, c3, c4, c5, c6, c7, c8, c9, c10, c11, c12⟩ := hs
  ⟨a, b, c0, rfl, c1, c2, c3, c4, c5, c6, c7, c8, c9, c10, c11, c12⟩

@[simp] theorem kept_setWin {s : State} (b i : Nat) (w : Win) (hs : Kept qs fu s) : Kept qs fu (s.setWin b i w) :=
  let ⟨a, b, c0, d0, c1, c2, c3, c4, c5, c6, c7, c8, c9, c10, c11, c12⟩ := hs
  ⟨a, b, c0, d0, Bank.wf_set _ _ _ c1, c2, c3, c4, c5, c6, c7, c8, c9, c10, c11, c12⟩

@[simp] theorem kept_setCh {s : State} (c : Nat) (v : Fch) (hs : Kept qs fu s) : Kept qs fu (s.setCh c v) :=
  let ⟨a, b, c0, d0, c1, c2, c3, c4, c5, c6, c7, c8, c9, c10, c11, c12⟩ := hs
  ⟨a, b, c0, d0, c1, Bank.wf_set _ _ _ c2, c3, c4, c5, c6, c7, c8, c9, c10, c11, c12⟩

@[simp] theorem kept_setGroup {s : State} (g : Nat) (v : Grp) (hs : Kept qs fu s) : Kept qs fu (s.setGroup g v) :=
  let ⟨a, b, c0, d0, c1, c2, c3, c4, c5, c6, c7, c8, c9, c10, c11, c12⟩ := hs
  ⟨a, b, c0, d0, c1, c2, Bank.wf_set _ _ _ c3, c4, c5, c6, c7, c8, c9, c10, c11, c12⟩

@[simp] theorem kept_setAvg {s : State} (c : Nat) (v : Msr) (hs : Kept qs fu s) : Kept qs fu (s.setAvg c v) :=
  let ⟨a, b, c0, d0, c1, c2, c3, c4, c5, c6, c7, c8, c9, c10, c11, c12⟩ := hs
  ⟨a, b, c0, d0, c1, c2, c3, Bank.wf_set _ _ _ c4, c5, c6, c7, c8, c9, c10, c11, c12⟩

@[simp] theorem kept_setEngine {s : State} (e : Nat) (v : Swe) (hs : Kept qs fu s) : Kept qs fu (s.setEngine e v) :=
  let ⟨a, b, c0, d0, c1, c2, c3, c4, c5, c6, c7, c8, c9, c10, c11, c12⟩ := hs
  ⟨a, b, c0, d0, c1, c2, c3, c4, c5, c6, Bank.wf_set _ _ _ c7, c8, c9, c10, c11, c12⟩

@[simp] theorem kept_setRegion {s : State} (h : Nat) (v : Option Region) (hs : Kept qs fu s) : Kept qs fu (s.setRegion h v) :=
  let ⟨a, b, c0, d0, c1, c2, c3, c4, c5, c6, c7, c8, c9, c10, c11, c12⟩ := hs
  ⟨a, b, c0, d0, c1, c2, c3, c4, Bank.wf_set _ _ _ c5, c6, c7, c8, c9, c10, c11, c12⟩

@[simp] theorem kept_setStream {s : State} (n : Nat) (v : Stm) (hs : Kept qs fu s) : Kept qs fu (s.setStream n v) :=
  let ⟨a, b, c0, d0, c1, c2, c3, c4, c5, c6, c7, c8, c9, c10, c11, c12⟩ := hs
  ⟨a, b, c0, d0, c1, c2, c3, c4, c5, c6, c7, Bank.wf_set _ _ _ c8, c9, c10, c11, c12⟩

@[simp] theorem kept_setPin {s : State} (n : Nat) (v : PinRun) (hs : Kept qs fu s) : Kept qs fu (s.setPin n v) :=
  let ⟨a, b, c0, d0, c1, c2, c3, c4, c5, c6, c7, c8, c9, c10, c11, c12⟩ := hs
  ⟨a, b, c0, d0, c1, c2, c3, c4, c5, c6, c7, c8, Bank.wf_set _ _ _ c9, c10, c11, c12⟩

@[simp] theorem kept_setConv {s : State} (n : Nat) (v : Adc) (hs : Kept qs fu s) : Kept qs fu (s.setConv n v) :=
  let ⟨a, b, c0, d0, c1, c2, c3, c4, c5, c6, c7, c8, c9, c10, c11, c12⟩ := hs
  ⟨a, b, c0, d0, c1, c2, c3, c4, c5, c6, c7, c8, c9, Bank.wf_set _ _ _ c10, c11, c12⟩

@[simp] theorem kept_setComp {s : State} (c : Cmp) (v : CmpRun) (hs : Kept qs fu s) : Kept qs fu (s.setComp c v) :=
  let ⟨a, b, c0, d0, c1, c2, c3, c4, c5, c6, c7, c8, c9, c10, c11, c12⟩ := hs
  ⟨a, b, c0, d0, c1, c2, c3, c4, c5, c6, c7, c8, c9, c10, Bank.wf_set _ _ _ c11, c12⟩

@[simp] theorem kept_setSequencer {s : State} (d : Nat) (v : Seq) (hs : Kept qs fu s) : Kept qs fu (s.setSequencer d v) :=
  let ⟨a, b, c0, d0, c1, c2, c3, c4, c5, c6, c7, c8, c9, c10, c11, c12⟩ := hs
  ⟨a, b, c0, d0, c1, c2, c3, c4, c5, c6, c7, c8, c9, c10, c11, Bank.wf_set _ _ _ c12⟩

end Sys2Proof.Machine
end

