-- ==== Sys2Proof/Laws/KeptOps.lean ====
section
/-!
SUPPORT. What each function keeps (the queue, the canonical form, a blown fuse): shared operations, status windows, completions, channels, sweep and sequencer operations, reactions.
-/
set_option linter.unusedTactic false
set_option linter.unreachableTactic false
set_option linter.unusedSimpArgs false
namespace Sys2Proof.Machine
variable {qs : List Instr} {fu : Bool}

theorem kept_put {s : State} (p : Prm) (inst : Nat) (v : Int) (hKs : Kept qs fu s) : Kept qs fu (State.put s p inst v) := by
  unfold State.put; (repeat' (first | with_reducible assumption | with_reducible (first | apply kept_wr)))

theorem kept_bump {s : State} (p : Prm) (inst : Nat) (i : Nat) (n : Nat) (hKs : Kept qs fu s)
    : Kept qs fu (State.bump s p inst i n) := by
  unfold State.bump; (repeat' (first | with_reducible assumption | with_reducible (first | apply kept_wr)))

theorem kept_tally {s : State} (p : Prm) (inst : Nat) (i : Nat) (n : Nat) (hKs : Kept qs fu s)
    : Kept qs fu (State.tally s p inst i n) := by
  unfold State.tally; (repeat' (first | with_reducible assumption | with_reducible (first | apply kept_wr)))

theorem kept_setAcc {s : State} (a : Nat) (hKs : Kept qs fu s) : Kept qs fu (State.setAcc s a) := by
  unfold State.setAcc
  (repeat' (first | with_reducible assumption | with_reducible (first | apply Kept_if | apply kept_put)
                  | (with_reducible apply Kept_foldl; intro _ _ _) | simp only [Kept_mk, KeptAt_self] | split | intro _))

theorem kept_countCycle {s : State} (hKs : Kept qs fu s) : Kept qs fu (State.countCycle s) := by
  unfold State.countCycle; (repeat' (first | with_reducible assumption | with_reducible (first | apply kept_setAcc)))

theorem kept_draw {s : State} (hKs : Kept qs fu s) : Kept qs fu (State.draw s).2 := by
  exact hKs

theorem kept_drawInt {s : State} (hKs : Kept qs fu s) : Kept qs fu (State.drawInt s).2 := by
  exact hKs

theorem kept_drawMany (n : Nat) {s : State} (hKs : Kept qs fu s) : Kept qs fu (drawMany n s).2 := by
  induction n generalizing s with
  | zero => exact hKs
  | succ n ih => exact ih (kept_drawInt hKs)

theorem kept_emit {s : State} (o : Out) (hKs : Kept qs fu s) : Kept qs fu (State.emit s o) := by
  exact hKs

theorem kept_publish {s : State} (sel : Int) (at_ : Option Nat) (mark : Option Nat) (hKs : Kept qs fu s)
    : Kept qs fu (State.publish s sel at_ mark) := by
  unfold State.publish
  (repeat' (first | with_reducible assumption | with_reducible (first | apply Kept_if)
                  | (with_reducible apply Kept_foldl; intro _ _ _) | simp only [Kept_mk, KeptAt_self] | split))

theorem kept_setCon {s : State} (n : Nat) (v : Cons) (hKs : Kept qs fu s) : Kept qs fu (State.setCon s n v) := by
  exact hKs

theorem kept_setSq {s : State} (n : Nat) (v : Sq) (hKs : Kept qs fu s) : Kept qs fu (State.setSq s n v) := by
  exact hKs

theorem kept_setCq {s : State} (n : Nat) (v : Cq) (hKs : Kept qs fu s) : Kept qs fu (State.setCq s n v) := by
  exact hKs

theorem kept_raise {s : State} (v : Nat) (hKs : Kept qs fu s) : Kept qs fu (State.raise s v) := by
  unfold State.raise
  (repeat' (first | with_reducible assumption | with_reducible (first | apply Kept_if | apply kept_emit)
                  | (with_reducible apply Kept_foldl; intro _ _ _) | simp only [Kept_mk, KeptAt_self] | split))

theorem kept_logRec {s : State} (r : Rec) (hKs : Kept qs fu s) : Kept qs fu (State.logRec s r) := by
  unfold State.logRec
  (repeat' (first | with_reducible assumption | with_reducible (first | apply Kept_if)
                  | (with_reducible apply Kept_foldl; intro _ _ _) | simp only [Kept_mk, KeptAt_self] | split))

theorem kept_setPort {s : State} (p : Nat) (v : PortRun) (hKs : Kept qs fu s) : Kept qs fu (State.setPort s p v) := by
  exact hKs

theorem kept_sendFrame {s : State} (p cls : Nat) (ws : List Nat) (hKs : Kept qs fu s)
    : Kept qs fu (State.sendFrame s p cls ws) := by
  unfold State.sendFrame
  (repeat' (first | with_reducible assumption | with_reducible (first | apply kept_emit | apply kept_setPort)))

theorem kept_frameTo {s : State} (node cls : Nat) (words : List Nat) (note : Option (Nat × Nat × Bool)) (hops : Nat)
    (hKs : Kept qs fu s) : Kept qs fu (State.frameTo s node cls words note hops) := by
  unfold State.frameTo
  (repeat' (first | with_reducible assumption
                  | with_reducible (first | apply Kept_if | apply kept_logRec | apply kept_sendFrame)
                  | (with_reducible apply Kept_foldl; intro _ _ _) | simp only [Kept_mk, KeptAt_self] | split | intro _))

theorem kept_setCu {s : State} (u : Nat) (l : List Quad) (hKs : Kept qs fu s) : Kept qs fu (State.setCu s u l) := by
  exact hKs

theorem kept_countHit {s : State} (blk inst : Nat) (h : Hit) (action : Nat) (hKs : Kept qs fu s)
    : Kept qs fu (countHit s blk inst h action) := by
  unfold countHit
  (repeat' (first | with_reducible assumption | with_reducible (first | apply Kept_if | apply kept_raise | apply kept_setWin)
                  | (with_reducible apply Kept_foldl; intro _ _ _) | simp only [Kept_mk, KeptAt_self] | split | intro _))

theorem kept_logHit {s : State} (blk inst : Nat) (h : Hit) (action : Nat) (hKs : Kept qs fu s)
    : Kept qs fu (logHit s blk inst h action) := by
  unfold logHit
  (repeat' (first | with_reducible assumption | with_reducible (first | apply Kept_if | apply kept_logRec | apply kept_setWin)
                  | (with_reducible apply Kept_foldl; intro _ _ _) | simp only [Kept_mk, KeptAt_self] | split | intro _))

theorem kept_recordEach {s : State} (blk inst : Nat) (fixed : Option Nat) (l : List Hit) (hKs : Kept qs fu s) :
    Kept qs fu (recordEach s blk inst fixed l) := by
  induction l generalizing s with
  | nil => exact hKs
  | cons a l ih =>
    have h :=
        kept_logHit blk inst a (hitAction s blk inst fixed a) (kept_countHit blk inst a (hitAction s blk inst fixed a) hKs)
    refine ih (Kept_if ?_ h)
    simp only [Kept_mk, KeptAt_self]
    exact h

theorem kept_recordHistory {s : State} (blk inst : Nat) (fixed : Option Nat) (h : Hit) (hKs : Kept qs fu s)
    : Kept qs fu (recordHistory s blk inst fixed h) := by
  unfold recordHistory
  (repeat' (first | with_reducible assumption | with_reducible (first | apply Kept_if | apply kept_setWin)
                  | (with_reducible apply Kept_foldl; intro _ _ _) | simp only [Kept_mk, KeptAt_self] | split | intro _))

theorem kept_recordHits {s : State} (blk inst : Nat) (fixed : Option Nat) (hs : List Hit) (hKs : Kept qs fu s)
    : Kept qs fu (recordHits s blk inst fixed hs) := by
  unfold recordHits
  (repeat' (first | with_reducible assumption
                  | with_reducible (first | apply Kept_if | apply kept_recordEach | apply kept_recordHistory)
                  | (with_reducible apply Kept_foldl; intro _ _ _) | simp only [Kept_mk, KeptAt_self] | split | intro _))

theorem kept_record {s : State} (blk inst code : Nat) (high : Bool) (hKs : Kept qs fu s)
    : Kept qs fu (record s blk inst code high) := by
  unfold record; (repeat' (first | with_reducible assumption | with_reducible (first | apply kept_recordHits)))

theorem kept_consOverrun {s : State} (n : Nat) (hKs : Kept qs fu s) : Kept qs fu (consOverrun s n) := by
  unfold consOverrun
  (repeat' (first | with_reducible assumption | with_reducible (first | apply kept_setCon | apply kept_record)))

theorem kept_syncLost {s : State} (hKs : Kept qs fu s) : Kept qs fu (syncLost s) := by
  unfold syncLost
  (repeat' (first | with_reducible assumption | with_reducible (first | apply Kept_if | apply kept_put | apply kept_record)
                  | (with_reducible apply Kept_foldl; intro _ _ _) | simp only [Kept_mk, KeptAt_self] | split | intro _))

theorem kept_recordFixed {s : State} (blk inst : Nat) (h : Hit) (hKs : Kept qs fu s)
    : Kept qs fu (recordFixed s blk inst h) := by
  unfold recordFixed; (repeat' (first | with_reducible assumption | with_reducible (first | apply kept_recordHits)))

theorem kept_refuse {s : State} (status : Nat) (hKs : Kept qs fu s) : KeptRes qs fu (refuse s status) := by
  exact hKs

theorem kept_ok {s : State} (res : List Nat) (hKs : Kept qs fu s) : KeptRes qs fu (ok s res) := by
  exact hKs

theorem kept_complete {s : State} (src : Src) (tag status : Nat) (res : List Nat) (owns : Bool) (notice : Option (Option Nat
    × Nat)) (hKs : Kept qs fu s) : Kept qs fu (State.complete s src tag status res owns notice) := by
  unfold State.complete
  (repeat' (first | with_reducible assumption
                  | with_reducible (first | apply Kept_if | apply kept_emit | apply kept_frameTo | apply kept_setCq)
                  | (with_reducible apply Kept_foldl; intro _ _ _) | simp only [Kept_mk, KeptAt_self] | split))

theorem kept_setStage {s : State} (p : Pkt) (st : OpStage) (hKs : Kept qs fu s) : Kept qs fu (setStage s p st) := by
  exact hKs

theorem kept_freeCore {s : State} (p : Pkt) (hKs : Kept qs fu s) : Kept qs fu (freeCore s p) := by
  exact hKs

theorem kept_finish (p : Pkt) {x : Res} (hKx : KeptRes qs fu x) : Kept qs fu (finish p x) := by
  cases x <;> simp_all [finish, kept_complete, kept_freeCore]

theorem kept_powerUp {s : State} (c : Cmp) (hKs : Kept qs fu s) : Kept qs fu (powerUp s c) := by
  unfold powerUp
  (repeat' (first | with_reducible assumption | with_reducible (first | apply kept_draw | apply kept_setComp)))

theorem kept_modeChanges (old new : Nat) {s : State} (c : Cmp) (hKs : Kept qs fu s) : Kept qs fu (modeChanges old new s c) :=
    by
  unfold modeChanges
  (repeat' (first | with_reducible assumption
                  | with_reducible (first | apply Kept_if | apply kept_setComp | apply kept_powerUp)
                  | (with_reducible apply Kept_foldl; intro _ _ _) | simp only [Kept_mk, KeptAt_self] | split))

theorem kept_bandChanges {s : State} (c : Cmp) (hKs : Kept qs fu s) : Kept qs fu (bandChanges s c) := by
  unfold bandChanges
  (repeat' (first | with_reducible assumption | with_reducible (first | apply Kept_if | apply kept_draw | apply kept_setComp)
                  | (with_reducible apply Kept_foldl; intro _ _ _) | simp only [Kept_mk, KeptAt_self] | split | intro _
                  | refine Kept.snd ?_ (by assumption)))

theorem kept_windowsFollow {s : State} (c : Nat) (on : Bool) (hKs : Kept qs fu s) : Kept qs fu (windowsFollow s c on) := by
  unfold windowsFollow
  (repeat' (first | with_reducible assumption
                  | with_reducible (first | apply Kept_if | apply kept_setComp | apply kept_modeChanges)
                  | (with_reducible apply Kept_foldl; intro _ _ _) | simp only [Kept_mk, KeptAt_self] | split | intro _))

theorem kept_cput {s : State} (f h : Prm) (c : Nat) (v : Int) (hKs : Kept qs fu s) : Kept qs fu (State.cput s f h c v) := by
  unfold State.cput; (repeat' (first | with_reducible assumption | with_reducible (first | apply kept_put)))

theorem kept_restartAvg {s : State} (c : Nat) (hKs : Kept qs fu s) : Kept qs fu (restartAvg s c) := by
  unfold restartAvg
  (repeat' (first | with_reducible assumption
                  | with_reducible (first | apply Kept_if | apply kept_setAvg | apply kept_setGroup)
                  | (with_reducible apply Kept_foldl; intro _ _ _) | simp only [Kept_mk, KeptAt_self] | split | intro _))

theorem kept_setChState {s : State} (c st : Nat) (hKs : Kept qs fu s) : Kept qs fu (State.setChState s c st) := by
  unfold State.setChState
  (repeat' (first | with_reducible assumption
                  | with_reducible (first | apply Kept_if | apply kept_cput | apply kept_setCh | apply kept_restartAvg
                                          | apply kept_windowsFollow) | (with_reducible apply Kept_foldl; intro _ _ _)
                  | simp only [Kept_mk, KeptAt_self] | split | intro _))

theorem kept_aimRails {s : State} (g : Nat) (hKs : Kept qs fu s) : Kept qs fu (aimRails s g) := by
  unfold aimRails
  (repeat' (first | with_reducible assumption | with_reducible (first | apply Kept_if | apply kept_setGroup)
                  | (with_reducible apply Kept_foldl; intro _ _ _) | simp only [Kept_mk, KeptAt_self] | split))

theorem kept_reportBudget {s : State} (hKs : Kept qs fu s) : Kept qs fu (reportBudget s) := by
  unfold reportBudget; (repeat' (first | with_reducible assumption | with_reducible (first | apply kept_put)))

theorem kept_touch {s : State} (c : Nat) (hKs : Kept qs fu s) : Kept qs fu (touch s c) := by
  unfold touch; (repeat' (first | with_reducible assumption | with_reducible (first | apply kept_setCh)))

theorem kept_settleFor {s : State} (c ns : Nat) (hKs : Kept qs fu s) : Kept qs fu (settleFor s c ns) := by
  unfold settleFor; (repeat' (first | with_reducible assumption | with_reducible (first | apply kept_setCh)))

theorem kept_abortTune {s : State} (c : Nat) (hKs : Kept qs fu s) : Kept qs fu (abortTune s c) := by
  unfold abortTune
  (repeat' (first | with_reducible assumption
                  | with_reducible (first | apply Kept_if | apply kept_complete | apply kept_setCh)
                  | (with_reducible apply Kept_foldl; intro _ _ _) | simp only [Kept_mk, KeptAt_self] | split))

theorem kept_abortRuns {s : State} (c : Nat) (hKs : Kept qs fu s) : Kept qs fu (abortRuns s c) := by
  unfold abortRuns
  (repeat' (first | with_reducible assumption | with_reducible (first | apply Kept_if | apply kept_complete)
                  | (with_reducible apply Kept_foldl; intro _ _ _) | simp only [Kept_mk, KeptAt_self] | split))

theorem kept_openPaths {s : State} (c : Nat) (hKs : Kept qs fu s) : Kept qs fu (openPaths s c) := by
  unfold openPaths
  (repeat' (first | with_reducible assumption | with_reducible (first | apply Kept_if | apply kept_put | apply kept_setCh)
                  | (with_reducible apply Kept_foldl; intro _ _ _) | simp only [Kept_mk, KeptAt_self] | split))

theorem kept_enterOpen {s : State} (c st : Nat) (hKs : Kept qs fu s) : Kept qs fu (enterOpen s c st) := by
  unfold enterOpen
  (repeat' (first | with_reducible assumption
                  | with_reducible (first | apply Kept_if | apply kept_setCh | apply kept_setChState | apply kept_abortRuns
                                          | apply kept_abortTune | apply kept_aimRails | apply kept_openPaths
                                          | apply kept_recordHits | apply kept_reportBudget)
                  | (with_reducible apply Kept_foldl; intro _ _ _) | simp only [Kept_mk, KeptAt_self] | split | intro _))

theorem kept_toFault {s : State} (c : Nat) (hKs : Kept qs fu s) : Kept qs fu (toFault s c) := by
  unfold toFault
  (repeat' (first | with_reducible assumption | with_reducible (first | apply Kept_if | apply kept_enterOpen)
                  | (with_reducible apply Kept_foldl; intro _ _ _) | simp only [Kept_mk, KeptAt_self] | split))

theorem kept_toTripped {s : State} (c : Nat) (hKs : Kept qs fu s) : Kept qs fu (toTripped s c) := by
  unfold toTripped
  (repeat' (first | with_reducible assumption | with_reducible (first | apply Kept_if | apply kept_enterOpen)
                  | (with_reducible apply Kept_foldl; intro _ _ _) | simp only [Kept_mk, KeptAt_self] | split))

theorem kept_settleOpen {s : State} (c st : Nat) (hKs : Kept qs fu s) : Kept qs fu (settleOpen s c st) := by
  unfold settleOpen
  (repeat' (first | with_reducible assumption
                  | with_reducible (first | apply Kept_if | apply kept_setCh | apply kept_setChState | apply kept_aimRails
                                          | apply kept_openPaths | apply kept_reportBudget)
                  | (with_reducible apply Kept_foldl; intro _ _ _) | simp only [Kept_mk, KeptAt_self] | split | intro _))

theorem kept_startRampDown {s : State} (c tgt : Nat) (hKs : Kept qs fu s) : Kept qs fu (startRampDown s c tgt) := by
  unfold startRampDown; (repeat' (first | with_reducible assumption | with_reducible (first | apply kept_setCh)))

theorem kept_waitForRails {s : State} (c : Nat) (hKs : Kept qs fu s) : Kept qs fu (waitForRails s c) := by
  unfold waitForRails
  (repeat' (first | with_reducible assumption | with_reducible (first | apply Kept_if | apply kept_setCh)
                  | (with_reducible apply Kept_foldl; intro _ _ _) | simp only [Kept_mk, KeptAt_self] | split | intro _))

theorem kept_connect {s : State} (c mode : Nat) (hKs : Kept qs fu s) : Kept qs fu (connect s c mode) := by
  unfold connect
  (repeat' (first | with_reducible assumption
                  | with_reducible (first | apply kept_setCh | apply kept_setChState | apply kept_aimRails
                                          | apply kept_settleFor | apply kept_waitForRails)))

theorem kept_moveOutput {s : State} (c req : Nat) (hKs : Kept qs fu s) : Kept qs fu (moveOutput s c req) := by
  unfold moveOutput
  (repeat' (first | with_reducible assumption
                  | with_reducible (first | apply Kept_if | apply kept_setCh | apply kept_aimRails | apply kept_connect
                                          | apply kept_settleOpen | apply kept_startRampDown | apply kept_waitForRails)
                  | (with_reducible apply Kept_foldl; intro _ _ _) | simp only [Kept_mk, KeptAt_self] | split | intro _))

theorem kept_publishLimit {s : State} (c : Nat) (entry : Bool) (hKs : Kept qs fu s) : Kept qs fu (publishLimit s c entry) :=
    by
  unfold publishLimit
  (repeat' (first | with_reducible assumption | with_reducible (first | apply Kept_if | apply kept_publish)
                  | (with_reducible apply Kept_foldl; intro _ _ _) | simp only [Kept_mk, KeptAt_self] | split))

theorem kept_pathsAfterRange {s : State} (c : Nat) (hKs : Kept qs fu s) : Kept qs fu (pathsAfterRange s c) := by
  unfold pathsAfterRange
  (repeat' (first | with_reducible assumption | with_reducible (first | apply Kept_if | apply kept_setCh)
                  | (with_reducible apply Kept_foldl; intro _ _ _) | simp only [Kept_mk, KeptAt_self] | split))

theorem kept_stepUp {s : State} (c : Nat) (hKs : Kept qs fu s) : Kept qs fu (stepUp s c) := by
  unfold stepUp
  (repeat' (first | with_reducible assumption
                  | with_reducible (first | apply kept_setCh | apply kept_pathsAfterRange | apply kept_restartAvg)))

theorem kept_stepDown {s : State} (c : Nat) (hKs : Kept qs fu s) : Kept qs fu (stepDown s c) := by
  unfold stepDown
  (repeat' (first | with_reducible assumption
                  | with_reducible (first | apply kept_setCh | apply kept_pathsAfterRange | apply kept_restartAvg)))

theorem kept_chainStep {s : State} (c : Nat) (hKs : Kept qs fu s) : Kept qs fu (chainStep s c) := by
  unfold chainStep
  (repeat' (first | with_reducible assumption
                  | with_reducible (first | apply Kept_if | apply kept_stepDown | apply kept_stepUp)
                  | (with_reducible apply Kept_foldl; intro _ _ _) | simp only [Kept_mk, KeptAt_self] | split))

theorem kept_resetCeiling {s : State} (c : Nat) (hKs : Kept qs fu s) : Kept qs fu (resetCeiling s c) := by
  exact hKs

theorem kept_startHvRamps {s : State} (c : Nat) (hKs : Kept qs fu s) : Kept qs fu (startHvRamps s c) := by
  unfold startHvRamps
  (repeat' (first | with_reducible assumption | with_reducible (first | apply kept_put | apply kept_setCh)))

theorem kept_rangeV {s : State} (c : Nat) (keep : Bool) (hKs : Kept qs fu s) : Kept qs fu (rangeV s c keep) := by
  unfold rangeV
  (repeat' (first | with_reducible assumption
                  | with_reducible (first | apply Kept_if | apply kept_put | apply kept_setCh | apply kept_resetCeiling)
                  | (with_reducible apply Kept_foldl; intro _ _ _) | simp only [Kept_mk, KeptAt_self] | split | intro _))

theorem kept_rangeI {s : State} (c : Nat) (keep : Bool) (hKs : Kept qs fu s) : Kept qs fu (rangeI s c keep) := by
  unfold rangeI
  (repeat' (first | with_reducible assumption
                  | with_reducible (first | apply Kept_if | apply kept_cput | apply kept_setCh | apply kept_resetCeiling)
                  | (with_reducible apply Kept_foldl; intro _ _ _) | simp only [Kept_mk, KeptAt_self] | split | intro _))

theorem kept_takeOver {s : State} (c : Nat) (hKs : Kept qs fu s) : Kept qs fu (takeOver s c) := by
  unfold takeOver
  (repeat' (first | with_reducible assumption
                  | with_reducible (first | apply Kept_if | apply kept_setCh | apply kept_setChState | apply kept_aimRails
                                          | apply kept_bandChanges | apply kept_rangeI | apply kept_rangeV
                                          | apply kept_resetCeiling | apply kept_restartAvg | apply kept_settleFor
                                          | apply kept_startHvRamps | apply kept_waitForRails)
                  | (with_reducible apply Kept_foldl; intro _ _ _) | simp only [Kept_mk, KeptAt_self] | split | intro _))

theorem kept_clipped {s : State} (hKs : Kept qs fu s) : Kept qs fu (clipped s) := by
  unfold clipped; (repeat' (first | with_reducible assumption | with_reducible (first | apply kept_bump | apply kept_record)))

theorem kept_writeForce {s : State} (c : Nat) (hKs : Kept qs fu s) : Kept qs fu (writeForce s c) := by
  unfold writeForce
  (repeat' (first | with_reducible assumption | with_reducible (first | apply Kept_if | apply kept_setCh | apply kept_clipped)
                  | (with_reducible apply Kept_foldl; intro _ _ _) | simp only [Kept_mk, KeptAt_self] | split | intro _))

theorem kept_setSlotState {s : State} (e k v : Nat) (hKs : Kept qs fu s) : Kept qs fu (State.setSlotState s e k v) := by
  unfold State.setSlotState; (repeat' (first | with_reducible assumption | with_reducible (first | apply kept_wr)))

theorem kept_setSlot {s : State} (e k : Nat) (v : SweSlot) (hKs : Kept qs fu s) : Kept qs fu (State.setSlot s e k v) := by
  unfold State.setSlot; (repeat' (first | with_reducible assumption | with_reducible (first | apply kept_setEngine)))

theorem kept_reportMem {s : State} (hKs : Kept qs fu s) : Kept qs fu (reportMem s) := by
  unfold reportMem; (repeat' (first | with_reducible assumption | with_reducible (first | apply kept_put)))

theorem kept_loseIn {s : State} (n : Nat) (who : Option (Nat × Nat)) (time cause : Nat) (hKs : Kept qs fu s)
    : Kept qs fu (loseIn s n who time cause) := by
  unfold loseIn; (repeat' (first | with_reducible assumption | with_reducible (first | apply kept_setStream)))

theorem kept_loseAhead {s : State} (g : Nat) (who : Option (Nat × Nat)) (time : Nat) (hKs : Kept qs fu s)
    : Kept qs fu (loseAhead s g who time) := by
  unfold loseAhead
  (repeat' (first | with_reducible assumption | with_reducible (first | apply Kept_if | apply kept_loseIn)
                  | (with_reducible apply Kept_foldl; intro _ _ _) | simp only [Kept_mk, KeptAt_self] | split | intro _))

theorem kept_pushStatus {s : State} (e : Nat) (q : Quad) (hKs : Kept qs fu s) : Kept qs fu (pushStatus s e q) := by
  unfold pushStatus
  (repeat' (first | with_reducible assumption | with_reducible (first | apply Kept_if | apply kept_put | apply kept_wr)
                  | (with_reducible apply Kept_foldl; intro _ _ _) | simp only [Kept_mk, KeptAt_self] | split))

theorem kept_recordStatus {s : State} (e : Nat) (q : Quad) (hKs : Kept qs fu s) : Kept qs fu (recordStatus s e q) := by
  unfold recordStatus
  (repeat' (first | with_reducible assumption
                  | with_reducible (first | apply Kept_if | apply kept_bump | apply kept_setGroup | apply kept_loseAhead
                                          | apply kept_record) | (with_reducible apply Kept_foldl; intro _ _ _)
                  | simp only [Kept_mk, KeptAt_self] | split | intro _))

theorem kept_closeStatus {s : State} (e : Nat) (cut held aborted : Bool) (cutOfs : Nat) (hKs : Kept qs fu s)
    : Kept qs fu (closeStatus s e cut held aborted cutOfs) := by
  unfold closeStatus
  (repeat' (first | with_reducible assumption | with_reducible (first | apply kept_pushStatus | apply kept_recordStatus)))

theorem kept_own {s : State} (e k : Nat) (on : Bool) (hKs : Kept qs fu s) : Kept qs fu (own s e k on) := by
  unfold own
  (repeat' (first | with_reducible assumption | with_reducible (first | apply Kept_if | apply kept_setCh)
                  | (with_reducible apply Kept_foldl; intro _ _ _) | simp only [Kept_mk, KeptAt_self] | split))

theorem kept_endAction {s : State} (e k : Nat) (hKs : Kept qs fu s) : Kept qs fu (endAction s e k) := by
  unfold endAction
  (repeat' (first | with_reducible assumption
                  | with_reducible (first | apply Kept_if | apply kept_cput | apply kept_moveOutput)
                  | (with_reducible apply Kept_foldl; intro _ _ _) | simp only [Kept_mk, KeptAt_self] | split))

theorem kept_unreserve {s : State} (e k : Nat) (hKs : Kept qs fu s) : Kept qs fu (unreserve s e k) := by
  unfold unreserve
  (repeat' (first | with_reducible assumption | with_reducible (first | apply kept_setSlot | apply kept_reportBudget)))

theorem kept_applyTo {s : State} (off : Bool) (c : Nat) (q : Quad) (hKs : Kept qs fu s) : Kept qs fu (applyTo s off c q) := by
  unfold applyTo
  (repeat' (first | with_reducible assumption
                  | with_reducible (first | apply Kept_if | apply kept_cput | apply kept_put | apply kept_setCh
                                          | apply kept_moveOutput | apply kept_resetCeiling | apply kept_restartAvg
                                          | apply kept_takeOver | apply kept_touch | apply kept_waitForRails)
                  | (with_reducible apply Kept_foldl; intro _ _ _) | simp only [Kept_mk, KeptAt_self] | split | intro _))

theorem kept_applyPoint {s : State} (e : Nat) (hKs : Kept qs fu s) : Kept qs fu (applyPoint s e) := by
  unfold applyPoint
  (repeat' (first | with_reducible assumption
                  | with_reducible (first | apply Kept_if | apply kept_bump | apply kept_publish | apply kept_put
                                          | apply kept_setCh | apply kept_setEngine | apply kept_setSlot
                                          | apply kept_setSlotState | apply kept_applyTo)
                  | (with_reducible apply Kept_foldl; intro _ _ _) | simp only [Kept_mk, KeptAt_self] | split))

theorem kept_pulseWrite {s : State} (c : Nat) (q : Quad) (fr : Nat) (force : Int) (limit : Nat) (hKs : Kept qs fu s)
    : Kept qs fu (pulseWrite s c q fr force limit) := by
  unfold pulseWrite
  (repeat' (first | with_reducible assumption
                  | with_reducible (first | apply Kept_if | apply kept_cput | apply kept_setCh | apply kept_resetCeiling
                                          | apply kept_takeOver | apply kept_touch)
                  | (with_reducible apply Kept_foldl; intro _ _ _) | simp only [Kept_mk, KeptAt_self] | split | intro _))

theorem kept_swapUp {s : State} (c : Nat) (hKs : Kept qs fu s) : Kept qs fu (swapUp s c) := by
  unfold swapUp
  (repeat' (first | with_reducible assumption | with_reducible (first | apply Kept_if | apply kept_setCh | apply kept_stepUp)
                  | (with_reducible apply Kept_foldl; intro _ _ _) | simp only [Kept_mk, KeptAt_self] | split | intro _))

theorem kept_swapDown {s : State} (c : Nat) (hKs : Kept qs fu s) : Kept qs fu (swapDown s c) := by
  unfold swapDown
  (repeat' (first | with_reducible assumption
                  | with_reducible (first | apply Kept_if | apply kept_setCh | apply kept_stepDown)
                  | (with_reducible apply Kept_foldl; intro _ _ _) | simp only [Kept_mk, KeptAt_self] | split | intro _))

theorem kept_pulseOn {s : State} (e : Nat) (hKs : Kept qs fu s) : Kept qs fu (pulseOn s e) := by
  unfold pulseOn
  (repeat' (first | with_reducible assumption
                  | with_reducible (first | apply Kept_if | apply kept_setEngine | apply kept_pulseWrite | apply kept_swapUp)
                  | (with_reducible apply Kept_foldl; intro _ _ _) | simp only [Kept_mk, KeptAt_self] | split | intro _))

theorem kept_pulseOff {s : State} (e : Nat) (hKs : Kept qs fu s) : Kept qs fu (pulseOff s e) := by
  unfold pulseOff
  (repeat' (first | with_reducible assumption
                  | with_reducible (first | apply Kept_if | apply kept_setEngine | apply kept_pulseWrite
                                          | apply kept_swapDown) | (with_reducible apply Kept_foldl; intro _ _ _)
                  | simp only [Kept_mk, KeptAt_self] | split | intro _))

theorem kept_holdCause {s : State} (e : Nat) (x : Hold) (hKs : Kept qs fu s) : Kept qs fu (holdCause s e x) := by
  cases x <;> (unfold holdCause; (repeat' (first | with_reducible assumption
                                                 | with_reducible (first | apply Kept_if | apply kept_record)
                                                 | (with_reducible apply Kept_foldl; intro _ _ _)
                                                 | simp only [Kept_mk, KeptAt_self] | split)))

theorem kept_holdNow {s : State} (e : Nat) (why : List Hold) (hKs : Kept qs fu s) : Kept qs fu (holdNow s e why) := by
  unfold holdNow
  (repeat' (first | with_reducible assumption
                  | with_reducible (first | apply Kept_if | apply kept_put | apply kept_setEngine | apply kept_setSlotState
                                          | apply kept_aimRails | apply kept_holdCause)
                  | (with_reducible apply Kept_foldl; intro _ _ _) | simp only [Kept_mk, KeptAt_self] | split | intro _))

theorem kept_startPoint {s : State} (e i : Nat) (hKs : Kept qs fu s) : Kept qs fu (startPoint s e i) := by
  unfold startPoint
  (repeat' (first | with_reducible assumption
                  | with_reducible (first | apply Kept_if | apply kept_put | apply kept_setEngine | apply kept_setRegion
                                          | apply kept_setSlotState | apply kept_wr | apply kept_aimRails
                                          | apply kept_applyPoint | apply kept_holdNow | apply kept_record)
                  | (with_reducible apply Kept_foldl; intro _ _ _) | simp only [Kept_mk, KeptAt_self] | split))

theorem kept_beginPoint {s : State} (e i : Nat) (hKs : Kept qs fu s) : Kept qs fu (beginPoint s e i) := by
  unfold beginPoint
  (repeat' (first | with_reducible assumption
                  | with_reducible (first | apply Kept_if | apply kept_wr | apply kept_holdNow | apply kept_startPoint)
                  | (with_reducible apply Kept_foldl; intro _ _ _) | simp only [Kept_mk, KeptAt_self] | split | intro _))

theorem kept_eccHold {s : State} (e i : Nat) (hKs : Kept qs fu s) : Kept qs fu (eccHold s e i) := by
  unfold eccHold
  (repeat' (first | with_reducible assumption
                  | with_reducible (first | apply Kept_if | apply kept_setRegion | apply kept_wr | apply kept_holdNow
                                          | apply kept_record) | (with_reducible apply Kept_foldl; intro _ _ _)
                  | simp only [Kept_mk, KeptAt_self] | split | intro _))

theorem kept_loopEntry {s : State} (e k : Nat) (q : Quad) (i : Nat) (hKs : Kept qs fu s)
    : Kept qs fu (loopEntry s e k q i).2 := by
  unfold loopEntry
  (repeat' (first | with_reducible assumption | with_reducible (first | apply Kept_if | apply kept_setSlot | apply kept_wr)
                  | (with_reducible apply Kept_foldl; intro _ _ _) | simp only [Kept_mk, KeptAt_self] | split))

theorem kept_controlStep {s : State} (e k i : Nat) (q : Quad) (hKs : Kept qs fu s) : Kept qs fu (controlStep s e k i q).2 :=
    by
  unfold controlStep
  (repeat' (first | with_reducible assumption
                  | with_reducible (first | apply Kept_if | apply kept_wrEff | apply kept_loopEntry)
                  | (with_reducible apply Kept_foldl; intro _ _ _) | simp only [Kept_mk, KeptAt_self] | split | intro _
                  | refine Kept.snd ?_ (by assumption)))

/-- Where a walk ends, a state is kept. -/
def KeptWalk (qs : List Instr) (fu : Bool) : Walk → Prop
  | .point _ s => Kept qs fu s
  | .bad _ s => Kept qs fu s
  | .ended s => Kept qs fu s
  | .tooMany s => Kept qs fu s

theorem kept_walk (e k n i : Nat) {s : State} (hKs : Kept qs fu s) : KeptWalk qs fu (walk e k n i s) := by
  induction n generalizing i s with
  | zero => exact hKs
  | succ n ih =>
    have hc := kept_controlStep (qs := qs) (fu := fu) e k i (entryAt s (s.slotRd SWE.REGION e k) i) hKs
    simp only [walk]
    split
    · exact hKs
    · split
      · split
        · exact Kept.snd hc (by assumption)
        · exact ih _ (Kept.snd hc (by assumption))
      · exact hKs

theorem kept_leave {s : State} (e k st : Nat) (hKs : Kept qs fu s) : Kept qs fu (leave s e k st) := by
  unfold leave
  (repeat' (first | with_reducible assumption
                  | with_reducible (first | apply Kept_if | apply kept_put | apply kept_setCh | apply kept_setEngine
                                          | apply kept_setSlot | apply kept_setSlotState | apply kept_aimRails)
                  | (with_reducible apply Kept_foldl; intro _ _ _) | simp only [Kept_mk, KeptAt_self] | split | intro _))

theorem kept_enterSlot {s : State} (e k : Nat) (hKs : Kept qs fu s) : Kept qs fu (enterSlot s e k).1 := by
  unfold enterSlot
  (repeat' (first | with_reducible assumption
                  | with_reducible (first | apply Kept_if | apply kept_put | apply kept_setEngine | apply kept_setSlot
                                          | apply kept_setSlotState | apply kept_applyTo | apply kept_own)
                  | (with_reducible apply Kept_foldl; intro _ _ _) | simp only [Kept_mk, KeptAt_self] | split | intro _))

theorem kept_takeControl_finishProgram {s : State} (e k : Nat) (hKs : Kept qs fu s)
    : Kept qs fu (takeControl.finishProgram s e k) := by
  unfold takeControl.finishProgram
  (repeat' (first | with_reducible assumption
                  | with_reducible (first | apply kept_publish | apply kept_endAction | apply kept_leave | apply kept_own
                                          | apply kept_unreserve)))

theorem kept_takeControl_abortControl {s : State} (e k : Nat) (hKs : Kept qs fu s)
    : Kept qs fu (takeControl.abortControl s e k) := by
  unfold takeControl.abortControl
  (repeat' (first | with_reducible assumption
                  | with_reducible (first | apply Kept_if | apply kept_closeStatus | apply kept_endAction | apply kept_leave
                                          | apply kept_own | apply kept_pulseOff | apply kept_unreserve)
                  | (with_reducible apply Kept_foldl; intro _ _ _) | simp only [Kept_mk, KeptAt_self] | split | intro _))

theorem kept_takeControl (e n : Nat) {s : State} (hKs : Kept qs fu s) : Kept qs fu (takeControl e n s) := by
  induction n generalizing s with
  | zero => exact hKs
  | succ n ih =>
    simp only [takeControl]
    split
    · exact hKs
    · rename_i k _
      have h := kept_enterSlot e k hKs
      have hw := kept_walk (qs := qs) (fu := fu) e k 16 (enterSlot s e k).2.1 h
      split
      · exact kept_eccHold _ _ h
      · split <;> rename_i heq <;> rw [heq] at hw
        · exact kept_beginPoint _ _ hw
        · exact kept_eccHold _ _ hw
        · exact ih (kept_takeControl_finishProgram _ _ hw)
        · exact ih (kept_takeControl_abortControl _ _ (kept_record _ _ _ _ hw))

theorem kept_freeEngine {s : State} (e : Nat) (hKs : Kept qs fu s) : Kept qs fu (freeEngine s e) := by
  unfold freeEngine
  (repeat' (first | with_reducible assumption | with_reducible (first | apply Kept_if | apply kept_takeControl)
                  | (with_reducible apply Kept_foldl; intro _ _ _) | simp only [Kept_mk, KeptAt_self] | split))

theorem kept_abortSlot {s : State} (e k : Nat) (hKs : Kept qs fu s) : Kept qs fu (abortSlot s e k) := by
  unfold abortSlot
  exact Kept_if (kept_setSlot _ _ _ hKs) (Kept_if (kept_freeEngine _ (kept_takeControl_abortControl _ _ hKs)) (kept_unreserve
      _ _ (kept_setSlotState _ _ _ hKs)))

theorem kept_abortSlots {s : State} (e : Nat) (ks : List Nat) (hKs : Kept qs fu s) : Kept qs fu (abortSlots s e ks) := by
  unfold abortSlots
  (repeat' (first | with_reducible assumption | with_reducible (first | apply Kept_if | apply kept_abortSlot)
                  | (with_reducible apply Kept_foldl; intro _ _ _) | simp only [Kept_mk, KeptAt_self] | split | intro _))

theorem kept_abortEngine {s : State} (e : Nat) (hKs : Kept qs fu s) : Kept qs fu (abortEngine s e) := by
  unfold abortEngine; (repeat' (first | with_reducible assumption | with_reducible (first | apply kept_abortSlots)))

theorem kept_proceed {s : State} (e k i : Nat) (hKs : Kept qs fu s) : Kept qs fu (proceed s e k i) := by
  have h := kept_walk (qs := qs) (fu := fu) e k 16 i hKs
  unfold proceed
  split <;> rename_i heq <;> rw [heq] at h
  · exact kept_beginPoint _ _ h
  · exact kept_eccHold _ _ h
  · exact kept_freeEngine _ (kept_takeControl_finishProgram _ _ h)
  · exact kept_freeEngine _ (kept_takeControl_abortControl _ _ (kept_record _ _ _ _ h))

theorem kept_requestHold {s : State} (e : Nat) (why : Hold) (hKs : Kept qs fu s) : Kept qs fu (requestHold s e why) := by
  unfold requestHold
  (repeat' (first | with_reducible assumption
                  | with_reducible (first | apply Kept_if | apply kept_setEngine | apply kept_wr | apply kept_holdCause
                                          | apply kept_holdNow) | (with_reducible apply Kept_foldl; intro _ _ _)
                  | simp only [Kept_mk, KeptAt_self] | split))

theorem kept_preempt {s : State} (e next : Nat) (hKs : Kept qs fu s) : Kept qs fu (preempt s e next) := by
  unfold preempt
  (repeat' (first | with_reducible assumption
                  | with_reducible (first | apply kept_wr | apply kept_freeEngine | apply kept_leave | apply kept_own)))

theorem kept_resumeSlot {s : State} (e : Nat) (hKs : Kept qs fu s) : Kept qs fu (resumeSlot s e) := by
  unfold resumeSlot
  (repeat' (first | with_reducible assumption
                  | with_reducible (first | apply Kept_if | apply kept_put | apply kept_setEngine | apply kept_setSlotState
                                          | apply kept_preempt | apply kept_proceed)
                  | (with_reducible apply Kept_foldl; intro _ _ _) | simp only [Kept_mk, KeptAt_self] | split | intro _))

theorem kept_endPoint {s : State} (e : Nat) (hKs : Kept qs fu s) : Kept qs fu (endPoint s e) := by
  unfold endPoint
  (repeat' (first | with_reducible assumption
                  | with_reducible (first | apply Kept_if | apply kept_publish | apply kept_setEngine | apply kept_wr
                                          | apply kept_bringForward | apply kept_closeStatus | apply kept_holdNow
                                          | apply kept_preempt | apply kept_proceed | apply kept_pulseOff | apply kept_record)
                  | (with_reducible apply Kept_foldl; intro _ _ _) | simp only [Kept_mk, KeptAt_self] | split | intro _))

theorem kept_foresee {s : State} (g t : Nat) (hKs : Kept qs fu s) : Kept qs fu (foresee s g t) := by
  unfold foresee
  (repeat' (first | with_reducible assumption | with_reducible (first | apply kept_setAcc | apply kept_setGroup)))

theorem kept_abandonAz {s : State} (g : Nat) (hKs : Kept qs fu s) : Kept qs fu (abandonAz s g) := by
  unfold abandonAz
  (repeat' (first | with_reducible assumption
                  | with_reducible (first | apply Kept_if | apply kept_bump | apply kept_draw | apply kept_setGroup)
                  | (with_reducible apply Kept_foldl; intro _ _ _) | simp only [Kept_mk, KeptAt_self] | split | intro _
                  | refine Kept.snd ?_ (by assumption)))

theorem kept_bringForward {s : State} (e : Nat) (hKs : Kept qs fu s) : Kept qs fu (bringForward s e) := by
  unfold bringForward
  (repeat' (first | with_reducible assumption | with_reducible (first | apply Kept_if | apply kept_abandonAz)
                  | (with_reducible apply Kept_foldl; intro _ _ _) | simp only [Kept_mk, KeptAt_self] | split | intro _))

theorem kept_tripAction {s : State} (c : Nat) (hKs : Kept qs fu s) : Kept qs fu (tripAction s c) := by
  unfold tripAction
  (repeat' (first | with_reducible assumption
                  | with_reducible (first | apply Kept_if | apply kept_setEngine | apply kept_abortSlot
                                          | apply kept_bringForward | apply kept_record | apply kept_requestHold)
                  | (with_reducible apply Kept_foldl; intro _ _ _) | simp only [Kept_mk, KeptAt_self] | split | intro _))

theorem kept_enterPin {s : State} (n st : Nat) (hKs : Kept qs fu s) : Kept qs fu (enterPin s n st) := by
  unfold enterPin; (repeat' (first | with_reducible assumption | with_reducible (first | apply kept_put | apply kept_setPin)))

theorem kept_pinFault {s : State} (n : Nat) (hKs : Kept qs fu s) : Kept qs fu (pinFault s n) := by
  unfold pinFault; (repeat' (first | with_reducible assumption | with_reducible (first | apply kept_put | apply kept_setPin)))

theorem kept_pinRecovers {s : State} (n : Nat) (hKs : Kept qs fu s) : Kept qs fu (pinRecovers s n) := by
  unfold pinRecovers
  (repeat' (first | with_reducible assumption | with_reducible (first | apply Kept_if | apply kept_enterPin)
                  | (with_reducible apply Kept_foldl; intro _ _ _) | simp only [Kept_mk, KeptAt_self] | split))

theorem kept_convEnds {s : State} (chip : Nat) (hKs : Kept qs fu s) : Kept qs fu (convEnds s chip) := by
  unfold convEnds; (repeat' (first | with_reducible assumption | with_reducible (first | apply kept_setConv)))

theorem kept_abandonConv {s : State} (chip : Nat) (hKs : Kept qs fu s) : Kept qs fu (abandonConv s chip) := by
  unfold abandonConv
  (repeat' (first | with_reducible assumption | with_reducible (first | apply Kept_if | apply kept_convEnds)
                  | (with_reducible apply Kept_foldl; intro _ _ _) | simp only [Kept_mk, KeptAt_self] | split | intro _))

theorem kept_parkPin (word : Nat) {s : State} (n : Nat) (hKs : Kept qs fu s) : Kept qs fu (parkPin word s n) := by
  unfold parkPin
  (repeat' (first | with_reducible assumption | with_reducible (first | apply Kept_if | apply kept_put | apply kept_setPin)
                  | (with_reducible apply Kept_foldl; intro _ _ _) | simp only [Kept_mk, KeptAt_self] | split))

theorem kept_reactPark (word : Nat) {s : State} (n : Nat) (hKs : Kept qs fu s) : Kept qs fu (reactPark word s n) := by
  unfold reactPark
  (repeat' (first | with_reducible assumption
                  | with_reducible (first | apply Kept_if | apply kept_put | apply kept_setPin | apply kept_parkPin)
                  | (with_reducible apply Kept_foldl; intro _ _ _) | simp only [Kept_mk, KeptAt_self] | split | intro _))

theorem kept_galeForced {s : State} (d : Nat) (force : Bool) (hKs : Kept qs fu s) : Kept qs fu (galeForced s d force) := by
  unfold galeForced
  (repeat' (first | with_reducible assumption | with_reducible (first | apply Kept_if | apply kept_modeChanges)
                  | (with_reducible apply Kept_foldl; intro _ _ _) | simp only [Kept_mk, KeptAt_self] | split))

theorem kept_galeDone {s : State} (d : Nat) (hKs : Kept qs fu s) : Kept qs fu (galeDone s d) := by
  unfold galeDone
  (repeat' (first | with_reducible assumption | with_reducible (first | apply Kept_if | apply kept_setComp)
                  | (with_reducible apply Kept_foldl; intro _ _ _) | simp only [Kept_mk, KeptAt_self] | split))

theorem kept_setSeqSlot {s : State} (d k st : Nat) (hKs : Kept qs fu s) : Kept qs fu (State.setSeqSlot s d k st) := by
  unfold State.setSeqSlot; (repeat' (first | with_reducible assumption | with_reducible (first | apply kept_wr)))

theorem kept_parkPins {s : State} (d set : Nat) (hKs : Kept qs fu s) : Kept qs fu (parkPins s d set) := by
  unfold parkPins
  (repeat' (first | with_reducible assumption
                  | with_reducible (first | apply Kept_if | apply kept_setSequencer | apply kept_parkPin)
                  | (with_reducible apply Kept_foldl; intro _ _ _) | simp only [Kept_mk, KeptAt_self] | split))

theorem kept_staticPins {s : State} (d : Nat) (hKs : Kept qs fu s) : Kept qs fu (staticPins s d) := by
  unfold staticPins
  (repeat' (first | with_reducible assumption
                  | with_reducible (first | apply Kept_if | apply kept_setSequencer | apply kept_enterPin)
                  | (with_reducible apply Kept_foldl; intro _ _ _) | simp only [Kept_mk, KeptAt_self] | split))

theorem kept_finishAll {s : State} (d : Nat) (hKs : Kept qs fu s) : Kept qs fu (finishAll s d) := by
  unfold finishAll
  (repeat' (first | with_reducible assumption
                  | with_reducible (first | apply Kept_if | apply kept_setSeqSlot | apply kept_setSequencer)
                  | (with_reducible apply Kept_foldl; intro _ _ _) | simp only [Kept_mk, KeptAt_self] | split))

theorem kept_dropMarks {s : State} (d t : Nat) (hKs : Kept qs fu s) : Kept qs fu (dropMarks s d t) := by
  exact hKs

theorem kept_cutVector {s : State} (d : Nat) (hKs : Kept qs fu s) : Kept qs fu (cutVector s d) := by
  unfold cutVector
  (repeat' (first | with_reducible assumption | with_reducible (first | apply Kept_if | apply kept_dropMarks)
                  | (with_reducible apply Kept_foldl; intro _ _ _) | simp only [Kept_mk, KeptAt_self] | split | intro _))

theorem kept_applyTs {s : State} (d : Nat) (sets : List (Nat × Ts)) (hKs : Kept qs fu s) : Kept qs fu (applyTs s d sets) := by
  unfold applyTs; (repeat' (first | with_reducible assumption | with_reducible (first | apply kept_setSequencer)))

theorem kept_commitSets (d : Nat) {s : State} (ks : List Nat) (hKs : Kept qs fu s) : Kept qs fu (commitSets d s ks) := by
  unfold commitSets
  (repeat' (first | with_reducible assumption | with_reducible (first | apply Kept_if | apply kept_applyTs)
                  | (with_reducible apply Kept_foldl; intro _ _ _) | simp only [Kept_mk, KeptAt_self] | split | intro _))

theorem kept_stopCommits {s : State} (d : Nat) (hKs : Kept qs fu s) : Kept qs fu (stopCommits s d) := by
  unfold stopCommits
  (repeat' (first | with_reducible assumption
                  | with_reducible (first | apply Kept_if | apply kept_setSequencer | apply kept_commitSets)
                  | (with_reducible apply Kept_foldl; intro _ _ _) | simp only [Kept_mk, KeptAt_self] | split | intro _))

theorem kept_enterParked {s : State} (d cause : Nat) (hKs : Kept qs fu s) : Kept qs fu (enterParked s d cause) := by
  unfold enterParked
  (repeat' (first | with_reducible assumption
                  | with_reducible (first | apply kept_put | apply kept_setSequencer | apply kept_parkPins
                                          | apply kept_stopCommits)))

theorem kept_parkSeq {s : State} (d cause : Nat) (hKs : Kept qs fu s) : Kept qs fu (parkSeq s d cause) := by
  unfold parkSeq
  (repeat' (first | with_reducible assumption | with_reducible (first | apply kept_enterParked | apply kept_finishAll)))

theorem kept_parkIfBusy (cause : Nat) {s : State} (d : Nat) (hKs : Kept qs fu s) : Kept qs fu (parkIfBusy cause s d) := by
  unfold parkIfBusy
  (repeat' (first | with_reducible assumption | with_reducible (first | apply Kept_if | apply kept_parkSeq)
                  | (with_reducible apply Kept_foldl; intro _ _ _) | simp only [Kept_mk, KeptAt_self] | split))

theorem kept_guardPark {s : State} (hKs : Kept qs fu s) : Kept qs fu (guardPark s) := by
  unfold guardPark
  (repeat' (first | with_reducible assumption
                  | with_reducible (first | apply Kept_if | apply kept_cutVector | apply kept_parkSeq | apply kept_record)
                  | (with_reducible apply Kept_foldl; intro _ _ _) | simp only [Kept_mk, KeptAt_self] | split | intro _))

theorem kept_holdHit {s : State} (d : Nat) (x : SeqHold) (hKs : Kept qs fu s) : Kept qs fu (holdHit s d x) := by
  cases x <;> (unfold holdHit; (repeat' (first | with_reducible assumption
                                               | with_reducible (first | apply Kept_if | apply kept_record)
                                               | (with_reducible apply Kept_foldl; intro _ _ _)
                                               | simp only [Kept_mk, KeptAt_self] | split)))

theorem kept_holdSeq {s : State} (d : Nat) (why : SeqHold) (hKs : Kept qs fu s) : Kept qs fu (holdSeq s d why) := by
  unfold holdSeq
  (repeat' (first | with_reducible assumption
                  | with_reducible (first | apply Kept_if | apply kept_setSequencer | apply kept_holdHit)
                  | (with_reducible apply Kept_foldl; intro _ _ _) | simp only [Kept_mk, KeptAt_self] | split))

theorem kept_resumeSeq {s : State} (d : Nat) (hKs : Kept qs fu s) : Kept qs fu (resumeSeq s d) := by
  unfold resumeSeq
  (repeat' (first | with_reducible assumption
                  | with_reducible (first | apply kept_put | apply kept_setSeqSlot | apply kept_setSequencer)))

theorem kept_releaseSeq {s : State} (d : Nat) (why : SeqHold) (hKs : Kept qs fu s) : Kept qs fu (releaseSeq s d why) := by
  unfold releaseSeq
  (repeat' (first | with_reducible assumption
                  | with_reducible (first | apply Kept_if | apply kept_setSequencer | apply kept_resumeSeq)
                  | (with_reducible apply Kept_foldl; intro _ _ _) | simp only [Kept_mk, KeptAt_self] | split))

theorem kept_seqSource {s : State} (d : Nat) (on : Bool) (hKs : Kept qs fu s) : Kept qs fu (seqSource s d on) := by
  unfold seqSource
  (repeat' (first | with_reducible assumption
                  | with_reducible (first | apply Kept_if | apply kept_holdSeq | apply kept_releaseSeq)
                  | (with_reducible apply Kept_foldl; intro _ _ _) | simp only [Kept_mk, KeptAt_self] | split))

theorem kept_seqControl {s : State} (d k seg pass : Nat) (hKs : Kept qs fu s) : Kept qs fu (seqControl s d k seg pass) := by
  unfold seqControl
  (repeat' (first | with_reducible assumption
                  | with_reducible (first | apply kept_put | apply kept_setSeqSlot | apply kept_setSequencer)))

theorem kept_goOn {s : State} (d k : Nat) (hKs : Kept qs fu s) : Kept qs fu (goOn s d k) := by
  unfold goOn
  (repeat' (first | with_reducible assumption
                  | with_reducible (first | apply Kept_if | apply kept_put | apply kept_setSequencer | apply kept_parkPins
                                          | apply kept_seqControl) | (with_reducible apply Kept_foldl; intro _ _ _)
                  | simp only [Kept_mk, KeptAt_self] | split))

theorem kept_endProgram {s : State} (d cause : Nat) (hKs : Kept qs fu s) : Kept qs fu (endProgram s d cause) := by
  unfold endProgram
  (repeat' (first | with_reducible assumption
                  | with_reducible (first | apply Kept_if | apply kept_publish | apply kept_setSeqSlot
                                          | apply kept_enterParked | apply kept_goOn)
                  | (with_reducible apply Kept_foldl; intro _ _ _) | simp only [Kept_mk, KeptAt_self] | split))

theorem kept_seqToIdle {s : State} (d : Nat) (hKs : Kept qs fu s) : Kept qs fu (seqToIdle s d) := by
  unfold seqToIdle
  (repeat' (first | with_reducible assumption
                  | with_reducible (first | apply Kept_if | apply kept_put | apply kept_setSeqSlot | apply kept_setSequencer
                                          | apply kept_galeForced | apply kept_staticPins | apply kept_stopCommits)
                  | (with_reducible apply Kept_foldl; intro _ _ _) | simp only [Kept_mk, KeptAt_self] | split | intro _))

theorem kept_pinsHigh {s : State} (hKs : Kept qs fu s) : Kept qs fu (pinsHigh s) := by
  unfold pinsHigh
  (repeat' (first | with_reducible assumption
                  | with_reducible (first | apply Kept_if | apply kept_put | apply kept_setPin | apply kept_abandonConv
                                          | apply kept_seqToIdle) | (with_reducible apply Kept_foldl; intro _ _ _)
                  | simp only [Kept_mk, KeptAt_self] | split | intro _))

theorem kept_prime {s : State} (d : Nat) (auto : Bool) (seg : Nat) (hKs : Kept qs fu s) : Kept qs fu (prime s d auto seg) :=
    by
  unfold prime
  (repeat' (first | with_reducible assumption
                  | with_reducible (first | apply Kept_if | apply kept_put | apply kept_setSequencer | apply kept_galeForced)
                  | (with_reducible apply Kept_foldl; intro _ _ _) | simp only [Kept_mk, KeptAt_self] | split))

theorem kept_holdSources_releaseSource {s : State} (e : Nat) (hKs : Kept qs fu s)
    : Kept qs fu (holdSources.releaseSource s e) := by
  unfold holdSources.releaseSource
  (repeat' (first | with_reducible assumption
                  | with_reducible (first | apply Kept_if | apply kept_setEngine | apply kept_resumeSlot)
                  | (with_reducible apply Kept_foldl; intro _ _ _) | simp only [Kept_mk, KeptAt_self] | split))

theorem kept_holdSources {s : State} (n : Nat) (on : Bool) (hKs : Kept qs fu s) : Kept qs fu (holdSources s n on) := by
  unfold holdSources
  (repeat' (first | with_reducible assumption
                  | with_reducible (first | apply Kept_if | apply kept_setEngine | apply kept_holdSources_releaseSource
                                          | apply kept_requestHold | apply kept_resumeSlot | apply kept_seqSource)
                  | (with_reducible apply Kept_foldl; intro _ _ _) | simp only [Kept_mk, KeptAt_self] | split))

theorem kept_becalm {s : State} (n : Nat) (hKs : Kept qs fu s) : Kept qs fu (becalm s n) := by
  unfold becalm
  (repeat' (first | with_reducible assumption
                  | with_reducible (first | apply Kept_if | apply kept_publish | apply kept_put | apply kept_holdSources
                                          | apply kept_record) | (with_reducible apply Kept_foldl; intro _ _ _)
                  | simp only [Kept_mk, KeptAt_self] | split))

theorem kept_unbecalm {s : State} (n : Nat) (hKs : Kept qs fu s) : Kept qs fu (unbecalm s n) := by
  unfold unbecalm
  (repeat' (first | with_reducible assumption
                  | with_reducible (first | apply Kept_if | apply kept_put | apply kept_holdSources)
                  | (with_reducible apply Kept_foldl; intro _ _ _) | simp only [Kept_mk, KeptAt_self] | split))

theorem kept_becalmedCheck {s : State} (n : Nat) (hKs : Kept qs fu s) : Kept qs fu (becalmedCheck s n) := by
  unfold becalmedCheck
  (repeat' (first | with_reducible assumption | with_reducible (first | apply Kept_if | apply kept_unbecalm)
                  | (with_reducible apply Kept_foldl; intro _ _ _) | simp only [Kept_mk, KeptAt_self] | split))

theorem kept_freeSlot {s : State} (n : Nat) (hKs : Kept qs fu s) : Kept qs fu (freeSlot s n) := by
  unfold freeSlot
  (repeat' (first | with_reducible assumption | with_reducible (first | apply kept_put | apply kept_becalmedCheck)))

theorem kept_loseBlock {s : State} (n : Nat) (b : Closed) (hKs : Kept qs fu s) : Kept qs fu (loseBlock s n b) := by
  unfold loseBlock
  (repeat' (first | with_reducible assumption
                  | with_reducible (first | apply Kept_if | apply kept_freeSlot | apply kept_loseIn | apply kept_record)
                  | (with_reducible apply Kept_foldl; intro _ _ _) | simp only [Kept_mk, KeptAt_self] | split))

theorem kept_closeBlock {s : State} (n reason : Nat) (hKs : Kept qs fu s) : Kept qs fu (closeBlock s n reason) := by
  unfold closeBlock
  (repeat' (first | with_reducible assumption
                  | with_reducible (first | apply Kept_if | apply kept_setStream | apply kept_tally | apply kept_loseBlock)
                  | (with_reducible apply Kept_foldl; intro _ _ _) | simp only [Kept_mk, KeptAt_self] | split))

theorem kept_openBlock {s : State} (n time : Nat) (hKs : Kept qs fu s) : Kept qs fu (openBlock s n time) := by
  unfold openBlock
  (repeat' (first | with_reducible assumption
                  | with_reducible (first | apply Kept_if | apply kept_bump | apply kept_publish | apply kept_setStream
                                          | apply kept_becalm) | (with_reducible apply Kept_foldl; intro _ _ _)
                  | simp only [Kept_mk, KeptAt_self] | split))

theorem kept_dropRecord {s : State} (n : Nat) (h : Held) (hKs : Kept qs fu s) : Kept qs fu (dropRecord s n h) := by
  unfold dropRecord
  (repeat' (first | with_reducible assumption
                  | with_reducible (first | apply kept_bump | apply kept_loseIn | apply kept_recordHits)))

theorem kept_putRecord {s : State} (n : Nat) (h : Held) (hKs : Kept qs fu s) : Kept qs fu (putRecord s n h) := by
  unfold putRecord
  (repeat' (first | with_reducible assumption
                  | with_reducible (first | apply Kept_if | apply kept_setStream | apply kept_closeBlock)
                  | (with_reducible apply Kept_foldl; intro _ _ _) | simp only [Kept_mk, KeptAt_self] | split))

theorem kept_place {s : State} (n : Nat) (h : Held) (hKs : Kept qs fu s) : Kept qs fu (place s n h) := by
  unfold place
  (repeat' (first | with_reducible assumption
                  | with_reducible (first | apply Kept_if | apply kept_closeBlock | apply kept_dropRecord
                                          | apply kept_openBlock | apply kept_putRecord)
                  | (with_reducible apply Kept_foldl; intro _ _ _) | simp only [Kept_mk, KeptAt_self] | split))

theorem kept_closeForGroup {s : State} (g : Nat) (hKs : Kept qs fu s) : Kept qs fu (closeForGroup s g) := by
  unfold closeForGroup
  (repeat' (first | with_reducible assumption | with_reducible (first | apply Kept_if | apply kept_closeBlock)
                  | (with_reducible apply Kept_foldl; intro _ _ _) | simp only [Kept_mk, KeptAt_self] | split))

theorem kept_closeAll {s : State} (reason : Nat) (hKs : Kept qs fu s) : Kept qs fu (closeAll s reason) := by
  unfold closeAll
  (repeat' (first | with_reducible assumption | with_reducible (first | apply Kept_if | apply kept_closeBlock)
                  | (with_reducible apply Kept_foldl; intro _ _ _) | simp only [Kept_mk, KeptAt_self] | split))

theorem kept_setTime {s : State} (v kind : Nat) (hKs : Kept qs fu s) : Kept qs fu (setTime s v kind) := by
  unfold setTime
  (repeat' (first | with_reducible assumption
                  | with_reducible (first | apply Kept_if | apply kept_logRec | apply kept_put | apply kept_closeAll)
                  | (with_reducible apply Kept_foldl; intro _ _ _) | simp only [Kept_mk, KeptAt_self] | split))

theorem kept_xltFault {s : State} (ctx va cause : Nat) (inj : Bool) (hKs : Kept qs fu s)
    : Kept qs fu (xltFault s ctx va cause inj) := by
  unfold xltFault
  (repeat' (first | with_reducible assumption
                  | with_reducible (first | apply Kept_if | apply kept_bump | apply kept_put | apply kept_record)
                  | (with_reducible apply Kept_foldl; intro _ _ _) | simp only [Kept_mk, KeptAt_self] | split))

theorem kept_spendInjected {s : State} (ctx : Nat) (hKs : Kept qs fu s) : Kept qs fu (spendInjected s ctx) := by
  exact hKs

theorem kept_aerTakes {s : State} (n : Nat) (hKs : Kept qs fu s) : Kept qs fu (aerTakes s n) := by
  unfold aerTakes
  (repeat' (first | with_reducible assumption | with_reducible (first | apply Kept_if | apply kept_emit | apply kept_drawMany)
                  | (with_reducible apply Kept_foldl; intro _ _ _) | simp only [Kept_mk, KeptAt_self] | split | intro _
                  | refine Kept.snd ?_ (by assumption)))

theorem kept_linkError {s : State} (n : Nat) (hKs : Kept qs fu s) : Kept qs fu (linkError s n) := by
  unfold linkError
  (repeat' (first | with_reducible assumption
                  | with_reducible (first | apply kept_bump | apply kept_aerTakes | apply kept_record)))

theorem kept_readErrorBit {s : State} (media : Bool) (hKs : Kept qs fu s) : Kept qs fu (readErrorBit s media).2 := by
  unfold readErrorBit; (repeat' (first | with_reducible assumption | with_reducible (first | apply kept_draw)))

theorem kept_hostFaulted {s : State} (ctx va : Nat) (f : HostFault) (hKs : Kept qs fu s)
    : Kept qs fu (hostFaulted s ctx va f) := by
  unfold hostFaulted
  (repeat' (first | with_reducible assumption
                  | with_reducible (first | apply Kept_if | apply kept_linkError | apply kept_readErrorBit
                                          | apply kept_xltFault) | (with_reducible apply Kept_foldl; intro _ _ _)
                  | simp only [Kept_mk, KeptAt_self] | split | intro _ | refine Kept.snd ?_ (by assumption)))

theorem kept_setWalk {s : State} (ctx : Nat) (w : Option WalkRun) (hKs : Kept qs fu s)
    : Kept qs fu (State.setWalk s ctx w) := by
  exact hKs

theorem kept_request {s : State} (ctx : Nat) (o : Out) (hKs : Kept qs fu s) : Kept qs fu (State.request s ctx o) := by
  unfold State.request; (repeat' (first | with_reducible assumption | with_reducible (first | apply kept_emit)))

theorem kept_cachePage {s : State} (p : Page) (hKs : Kept qs fu s) : Kept qs fu (cachePage s p) := by
  exact hKs

theorem kept_staleWalk {s : State} (ctx : Nat) (hit : WalkRun → Bool) (hKs : Kept qs fu s)
    : Kept qs fu (staleWalk s ctx hit) := by
  exact hKs

theorem kept_dropPages {s : State} (ctx : Nat) (range : Option (Nat × Nat)) (hKs : Kept qs fu s)
    : Kept qs fu (dropPages s ctx range) := by
  exact hKs

theorem kept_postNotice {s : State} (n status addr : Nat) (hKs : Kept qs fu s) : Kept qs fu (postNotice s n status addr) := by
  unfold postNotice
  (repeat' (first | with_reducible assumption
                  | with_reducible (first | apply Kept_if | apply kept_complete | apply kept_frameTo | apply kept_setStream)
                  | (with_reducible apply Kept_foldl; intro _ _ _) | simp only [Kept_mk, KeptAt_self] | split))

theorem kept_answerRetries {s : State} (n status : Nat) (hKs : Kept qs fu s) : Kept qs fu (answerRetries s n status) := by
  unfold answerRetries
  (repeat' (first | with_reducible assumption
                  | with_reducible (first | apply Kept_if | apply kept_complete | apply kept_setStream)
                  | (with_reducible apply Kept_foldl; intro _ _ _) | simp only [Kept_mk, KeptAt_self] | split))

theorem kept_parkStream {s : State} (n addr : Nat) (k : HostFault) (inj : Bool) (hKs : Kept qs fu s)
    : Kept qs fu (parkStream s n addr k inj) := by
  unfold parkStream
  (repeat' (first | with_reducible assumption
                  | with_reducible (first | apply Kept_if | apply kept_put | apply kept_setStream | apply kept_answerRetries
                                          | apply kept_postNotice | apply kept_record)
                  | (with_reducible apply Kept_foldl; intro _ _ _) | simp only [Kept_mk, KeptAt_self] | split))

theorem kept_flushCheck {s : State} (n status : Nat) (hKs : Kept qs fu s) : Kept qs fu (flushCheck s n status) := by
  unfold flushCheck
  (repeat' (first | with_reducible assumption
                  | with_reducible (first | apply Kept_if | apply kept_complete | apply kept_setStream)
                  | (with_reducible apply Kept_foldl; intro _ _ _) | simp only [Kept_mk, KeptAt_self] | split))

theorem kept_endStop {s : State} (n status : Nat) (hKs : Kept qs fu s) : Kept qs fu (endStop s n status) := by
  unfold endStop
  (repeat' (first | with_reducible assumption
                  | with_reducible (first | apply Kept_if | apply kept_complete | apply kept_put | apply kept_setStream
                                          | apply kept_answerRetries | apply kept_flushCheck)
                  | (with_reducible apply Kept_foldl; intro _ _ _) | simp only [Kept_mk, KeptAt_self] | split))

theorem kept_stopCheck {s : State} (n : Nat) (hKs : Kept qs fu s) : Kept qs fu (stopCheck s n) := by
  unfold stopCheck
  (repeat' (first | with_reducible assumption | with_reducible (first | apply Kept_if | apply kept_endStop)
                  | (with_reducible apply Kept_foldl; intro _ _ _) | simp only [Kept_mk, KeptAt_self] | split))

theorem kept_unpark {s : State} (n : Nat) (hKs : Kept qs fu s) : Kept qs fu (unpark s n) := by
  unfold unpark
  (repeat' (first | with_reducible assumption
                  | with_reducible (first | apply kept_put | apply kept_setStream | apply kept_answerRetries
                                          | apply kept_stopCheck)))

theorem kept_takeStop {s : State} (n : Nat) (hKs : Kept qs fu s) : Kept qs fu (takeStop s n) := by
  unfold takeStop
  (repeat' (first | with_reducible assumption
                  | with_reducible (first | apply Kept_if | apply kept_put | apply kept_setStream | apply kept_closeBlock
                                          | apply kept_endStop | apply kept_stopCheck | apply kept_unbecalm)
                  | (with_reducible apply Kept_foldl; intro _ _ _) | simp only [Kept_mk, KeptAt_self] | split | intro _))

theorem kept_transferFails {s : State} (p : Pkt) (addr : Nat) (f : HostFault) (hKs : Kept qs fu s)
    : KeptRes qs fu (transferFails s p addr f) := by
  unfold transferFails
  (repeat' (first | with_reducible assumption
                  | with_reducible (first | apply Kept_if | apply KeptRes_if | apply kept_hostFaulted | apply kept_refuse)
                  | (with_reducible apply Kept_foldl; intro _ _ _) | simp only [Kept_mk, KeptAt_self] | split))

theorem kept_startXfer {s : State} (x : Xfer) (hKs : Kept qs fu s) : Kept qs fu (startXfer s x) := by
  cases x <;> (unfold startXfer; (repeat' (first | with_reducible assumption | with_reducible (first | apply Kept_if)
                                                 | (with_reducible apply Kept_foldl; intro _ _ _)
                                                 | simp only [Kept_mk, KeptAt_self] | split | intro _)))

theorem kept_withData {s : State} (p : Pkt) (addr bytes : Nat) (d : HostData) (body : List Nat → Res) (hKs : Kept qs fu s)
    (hKbody : ∀ y0 : List Nat, KeptRes qs fu (body y0)) : KeptRes qs fu (withData s p addr bytes d body) := by
  unfold withData
  (repeat' (first | with_reducible assumption
                  | with_reducible (first | apply Kept_if | apply KeptRes_if | apply kept_setStage | apply kept_startXfer
                                          | apply kept_transferFails) | (with_reducible apply Kept_foldl; intro _ _ _)
                  | simp only [Kept_mk, KeptAt_self, KeptRes_done, KeptRes_later] | split| apply hKbody | intro _))

theorem kept_withBlock {s : State} (p : Pkt) (f : Form) (d : HostData) (body : List Nat → Res) (hKs : Kept qs fu s)
    (hKbody : ∀ y0 : List Nat, KeptRes qs fu (body y0)) : KeptRes qs fu (withBlock s p f d body) := by
  unfold withBlock
  (repeat' (first | with_reducible assumption
                  | with_reducible (first | apply Kept_if | apply KeptRes_if | apply kept_refuse | apply kept_withData)
                  | (with_reducible apply Kept_foldl; intro _ _ _)
                  | simp only [Kept_mk, KeptAt_self, KeptRes_done, KeptRes_later] | split| apply hKbody | intro _))

theorem kept_xferEnds {s : State} (src : Src) (tag : Nat) (x : XferEnd) (hKs : Kept qs fu s)
    : Kept qs fu (xferEnds s src tag x) := by
  cases x <;> (unfold xferEnds; (repeat' (first | with_reducible assumption
                                                | with_reducible (first | apply Kept_if | apply kept_complete
                                                                        | apply kept_setCu)
                                                | (with_reducible apply Kept_foldl; intro _ _ _)
                                                | simp only [Kept_mk, KeptAt_self] | split | intro _)))

theorem kept_hostPut {s : State} (p : Pkt) (addr : Nat) (ws : List Nat) (fin : XferEnd) (hKs : Kept qs fu s)
    : KeptRes qs fu (hostPut s p addr ws fin) := by
  unfold hostPut
  (repeat' (first | with_reducible assumption
                  | with_reducible (first | apply Kept_if | apply KeptRes_if | apply kept_startXfer)
                  | (with_reducible apply Kept_foldl; intro _ _ _)
                  | simp only [Kept_mk, KeptAt_self, KeptRes_done, KeptRes_later] | split | intro _))

theorem kept_hlCause {s : State} (code : Nat) (hKs : Kept qs fu s) : Kept qs fu (hlCause s code) := by
  unfold hlCause; (repeat' (first | with_reducible assumption | with_reducible (first | apply kept_record)))

theorem kept_tripGroup {s : State} (c : Nat) (h : Hit) (hKs : Kept qs fu s) : Kept qs fu (tripGroup s c h) := by
  unfold tripGroup
  (repeat' (first | with_reducible assumption
                  | with_reducible (first | apply Kept_if | apply kept_recordFixed | apply kept_toTripped)
                  | (with_reducible apply Kept_foldl; intro _ _ _) | simp only [Kept_mk, KeptAt_self] | split | intro _))

theorem kept_wearPath {s : State} (c code : Nat) (hKs : Kept qs fu s) : Kept qs fu (wearPath s c code) := by
  unfold wearPath
  (repeat' (first | with_reducible assumption | with_reducible (first | apply Kept_if | apply kept_put)
                  | (with_reducible apply Kept_foldl; intro _ _ _) | simp only [Kept_mk, KeptAt_self] | split | intro _))

theorem kept_holdOwner {s : State} (c : Nat) (hKs : Kept qs fu s) : Kept qs fu (holdOwner s c) := by
  unfold holdOwner
  (repeat' (first | with_reducible assumption | with_reducible (first | apply Kept_if | apply kept_requestHold)
                  | (with_reducible apply Kept_foldl; intro _ _ _) | simp only [Kept_mk, KeptAt_self] | split | intro _))

theorem kept_reactChan {s : State} (c action : Nat) (h : Hit) (hKs : Kept qs fu s) : Kept qs fu (reactChan s c action h) := by
  unfold reactChan
  (repeat' (first | with_reducible assumption
                  | with_reducible (first | apply Kept_if | apply kept_holdOwner | apply kept_toFault | apply kept_tripGroup
                                          | apply kept_wearPath) | (with_reducible apply Kept_foldl; intro _ _ _)
                  | simp only [Kept_mk, KeptAt_self] | split | intro _))

theorem kept_reactMsr {s : State} (c action : Nat) (hKs : Kept qs fu s) : Kept qs fu (reactMsr s c action) := by
  unfold reactMsr
  (repeat' (first | with_reducible assumption
                  | with_reducible (first | apply Kept_if | apply kept_requestHold | apply kept_toFault)
                  | (with_reducible apply Kept_foldl; intro _ _ _) | simp only [Kept_mk, KeptAt_self] | split | intro _))

theorem kept_reactSwe {s : State} (e action : Nat) (hKs : Kept qs fu s) : Kept qs fu (reactSwe s e action) := by
  unfold reactSwe
  (repeat' (first | with_reducible assumption
                  | with_reducible (first | apply Kept_if | apply kept_abortSlot | apply kept_bringForward
                                          | apply kept_requestHold | apply kept_toFault | apply kept_toTripped)
                  | (with_reducible apply Kept_foldl; intro _ _ _) | simp only [Kept_mk, KeptAt_self] | split | intro _))

theorem kept_tripChip {s : State} (n : Nat) (h : Hit) (hKs : Kept qs fu s) : Kept qs fu (tripChip s n h) := by
  unfold tripChip
  (repeat' (first | with_reducible assumption
                  | with_reducible (first | apply Kept_if | apply kept_pinFault | apply kept_recordFixed)
                  | (with_reducible apply Kept_foldl; intro _ _ _) | simp only [Kept_mk, KeptAt_self] | split | intro _))

theorem kept_reactPin {s : State} (n action : Nat) (h : Hit) (hKs : Kept qs fu s) : Kept qs fu (reactPin s n action h) := by
  unfold reactPin
  (repeat' (first | with_reducible assumption
                  | with_reducible (first | apply Kept_if | apply kept_holdSeq | apply kept_pinFault | apply kept_reactPark
                                          | apply kept_tripChip) | (with_reducible apply Kept_foldl; intro _ _ _)
                  | simp only [Kept_mk, KeptAt_self] | split | intro _))

theorem kept_reactSeq {s : State} (d action : Nat) (hKs : Kept qs fu s) : Kept qs fu (reactSeq s d action) := by
  unfold reactSeq
  (repeat' (first | with_reducible assumption
                  | with_reducible (first | apply Kept_if | apply kept_holdSeq | apply kept_parkIfBusy | apply kept_pinFault)
                  | (with_reducible apply Kept_foldl; intro _ _ _) | simp only [Kept_mk, KeptAt_self] | split | intro _))

theorem kept_reactTb {s : State} (action : Nat) (hKs : Kept qs fu s) : Kept qs fu (reactTb s action) := by
  unfold reactTb
  (repeat' (first | with_reducible assumption
                  | with_reducible (first | apply Kept_if | apply kept_holdSeq | apply kept_parkIfBusy
                                          | apply kept_requestHold) | (with_reducible apply Kept_foldl; intro _ _ _)
                  | simp only [Kept_mk, KeptAt_self] | split | intro _))

theorem kept_reactAny {s : State} (blk inst action : Nat) (h : Hit) (hKs : Kept qs fu s)
    : Kept qs fu (reactAny s blk inst action h) := by
  unfold reactAny
  (repeat' (first | with_reducible assumption
                  | with_reducible (first | apply Kept_if | apply kept_reactChan | apply kept_reactMsr | apply kept_reactPin
                                          | apply kept_reactSeq | apply kept_reactSwe | apply kept_reactTb)
                  | (with_reducible apply Kept_foldl; intro _ _ _) | simp only [Kept_mk, KeptAt_self] | split | intro _))

theorem kept_settleOne {s : State} (x : Due) (hKs : Kept qs fu s) : Kept qs fu (settleOne s x) := by
  cases x <;> (unfold settleOne; (repeat' (first | with_reducible assumption
                                                 | with_reducible (first | apply Kept_if | apply kept_reactAny
                                                                         | apply kept_tripAction)
                                                 | (with_reducible apply Kept_foldl; intro _ _ _)
                                                 | simp only [Kept_mk, KeptAt_self] | split | intro _)))

theorem kept_settleN (n : Nat) {s : State} (hKs : Kept qs fu s) : Kept qs fu (settleN n s) := by
  induction n generalizing s with
  | zero => exact hKs
  | succ n ih =>
    simp only [settleN]
    split
    · exact hKs
    · exact ih (kept_settleOne _ (by simpa only [Kept_mk, KeptAt_self] using hKs))

theorem kept_settle {s : State} (hKs : Kept qs fu s) : Kept qs fu (settle s) := by
  unfold settle; (repeat' (first | with_reducible assumption | with_reducible (first | apply kept_settleN)))

theorem kept_done {s : State} (hKs : Kept qs fu s) : KeptAns qs fu (done s) := by
  unfold done
  (repeat' (first | with_reducible assumption | with_reducible (first | apply Kept_if | apply KeptAns_if | apply kept_settle)
                  | (with_reducible apply Kept_foldl; intro _ _ _) | simp only [Kept_mk, KeptAt_self, KeptAns_next] | split
                  | intro _))

theorem kept_runCmd {s : State} (p : Pkt) (code : Nat) (f : Form) {body : Res} (hKs : Kept qs fu s)
    (hKbody : KeptRes qs fu body) : KeptAns qs fu (runCmd s p code f body) := by
  unfold runCmd
  (repeat' (first | with_reducible assumption
                  | with_reducible (first | apply Kept_if | apply KeptRes_if | apply KeptAns_if | apply kept_done
                                          | apply kept_finish | apply kept_refuse)
                  | (with_reducible apply Kept_foldl; intro _ _ _)
                  | simp only [Kept_mk, KeptAt_self, KeptRes_done, KeptRes_later, KeptAns_next] | split | intro _))

theorem kept_runBlock {s : State} (p : Pkt) (code : Nat) (f : Form) (d : HostData) (body : List Nat → Res)
    (hKs : Kept qs fu s) (hKbody : ∀ y0 : List Nat, KeptRes qs fu (body y0)) : KeptAns qs fu (runBlock s p code f d body) :=
    by
  unfold runBlock
  (repeat' (first | with_reducible assumption | with_reducible (first | apply kept_runCmd | apply kept_withBlock)))

end Sys2Proof.Machine
end

