-- ==== Sys2Proof/Laws/KeptForce.lean ====
section
/-!
SUPPORT. What each function keeps (the queue, the canonical form, a blown fuse): force loop, measure path, sweep engines, calibration.
-/
set_option linter.unusedTactic false
set_option linter.unreachableTactic false
set_option linter.unusedSimpArgs false
namespace Sys2Proof.Machine
variable {qs : List Instr} {fu : Bool}

theorem kept_setLimitSrc {lim : State} {s : State} (c : Nat) (side : Option Bool) (hKlim : Kept qs fu lim)
    (hKs : Kept qs fu s) : Kept qs fu (setLimitSrc lim s c side) := by
  unfold setLimitSrc; (repeat' (first | with_reducible assumption | with_reducible (first | apply kept_cput)))

theorem kept_loopMoves {lim : State} {s : State} (c : Nat) (sel : Cmd3) (hKlim : Kept qs fu lim) (hKs : Kept qs fu s)
    : Kept qs fu (loopMoves lim s c sel) := by
  unfold loopMoves
  (repeat' (first | with_reducible assumption
                  | with_reducible (first | apply Kept_if | apply kept_setCh | apply kept_setChState | apply kept_publishLimit
                                          | apply kept_setLimitSrc) | (with_reducible apply Kept_foldl; intro _ _ _)
                  | simp only [Kept_mk, KeptAt_self] | split | intro _))

theorem kept_probeCycle {s : State} (c : Nat) (hKs : Kept qs fu s) : Kept qs fu (probeCycle s c) := by
  unfold probeCycle
  (repeat' (first | with_reducible assumption | with_reducible (first | apply Kept_if | apply kept_draw | apply kept_setCh)
                  | (with_reducible apply Kept_foldl; intro _ _ _) | simp only [Kept_mk, KeptAt_self] | split | intro _
                  | refine Kept.snd ?_ (by assumption)))

theorem kept_driveDacs {s : State} (c : Nat) (hKs : Kept qs fu s) : Kept qs fu (driveDacs s c) := by
  unfold driveDacs; (repeat' (first | with_reducible assumption | with_reducible (first | apply kept_setCh)))

theorem kept_cycleChan (readings : List LoopReading) {s : State} (c : Nat) (hKs : Kept qs fu s)
    : Kept qs fu (cycleChan readings s c) := by
  unfold cycleChan
  (repeat' (first | with_reducible assumption
                  | with_reducible (first | apply Kept_if | apply kept_setCh | apply kept_chainStep | apply kept_driveDacs
                                          | apply kept_loopMoves | apply kept_probeCycle | apply kept_stepUp
                                          | apply kept_takeOver | apply kept_writeForce)
                  | (with_reducible apply Kept_foldl; intro _ _ _) | simp only [Kept_mk, KeptAt_self] | split | intro _))

theorem kept_railCycle {s : State} (g : Nat) (hKs : Kept qs fu s) : Kept qs fu (railCycle s g) := by
  unfold railCycle
  (repeat' (first | with_reducible assumption | with_reducible (first | apply Kept_if | apply kept_put | apply kept_setGroup)
                  | (with_reducible apply Kept_foldl; intro _ _ _) | simp only [Kept_mk, KeptAt_self] | split | intro _))

theorem kept_seeLimit {s : State} (e : Nat) (hKs : Kept qs fu s) : Kept qs fu (seeLimit s e) := by
  unfold seeLimit
  (repeat' (first | with_reducible assumption | with_reducible (first | apply Kept_if | apply kept_setEngine)
                  | (with_reducible apply Kept_foldl; intro _ _ _) | simp only [Kept_mk, KeptAt_self] | split | intro _))

theorem kept_grantCh {s : State} {t : State} (c : Nat) (hKs : Kept qs fu s) (hKt : Kept qs fu t)
    : KeptEx qs fu id (grantCh s t c) := by
  unfold grantCh
  (repeat' (first | with_reducible assumption
                  | with_reducible (first | apply Kept_if | apply KeptRes_if | apply KeptEx_if | apply kept_ok
                                          | apply kept_reportBudget) | (with_reducible apply Kept_foldl; intro _ _ _)
                  | simp only [Kept_mk, KeptAt_self, KeptRes_done, KeptRes_later, KeptEx_ok, KeptEx_error, id] | split
                  | intro _))

theorem kept_startBoost {s : State} (c : Nat) (hKs : Kept qs fu s) : Kept qs fu (startBoost s c) := by
  unfold startBoost
  (repeat' (first | with_reducible assumption | with_reducible (first | apply Kept_if | apply kept_put)
                  | (with_reducible apply Kept_foldl; intro _ _ _) | simp only [Kept_mk, KeptAt_self] | split | intro _))

theorem kept_setOutReq {s : State} (c : Nat) (v : Int) (hKs : Kept qs fu s) : KeptEx qs fu id (setOutReq s c v) := by
  unfold setOutReq
  (repeat' (first | with_reducible assumption
                  | with_reducible (first | apply Kept_if | apply KeptRes_if | apply KeptEx_if | apply kept_cput
                                          | apply kept_abortTune | apply kept_moveOutput | apply kept_ok
                                          | apply kept_resetCeiling | apply kept_startBoost)
                  | (with_reducible apply Kept_foldl; intro _ _ _)
                  | simp only [Kept_mk, KeptAt_self, KeptRes_done, KeptRes_later, KeptEx_ok, KeptEx_error, id] | split
                  | intro _))

theorem kept_writeOutReq {s : State} (c : Nat) (v : Int) (hKs : Kept qs fu s) : KeptEx qs fu id (writeOutReq s c v) := by
  unfold writeOutReq
  (repeat' (first | with_reducible assumption
                  | with_reducible (first | apply Kept_if | apply KeptRes_if | apply KeptEx_if | apply kept_grantCh
                                          | apply kept_ok | apply kept_setOutReq)
                  | (with_reducible apply Kept_foldl; intro _ _ _)
                  | simp only [Kept_mk, KeptAt_self, KeptRes_done, KeptRes_later, KeptEx_ok, KeptEx_error, id] | split
                  | intro _ | refine KeptEx.state ?_ (by assumption)))

theorem kept_setSetpoint {s : State} (c : Nat) (v : Int) (now : Bool) (hKs : Kept qs fu s)
    : KeptEx qs fu Prod.fst (setSetpoint s c v now) := by
  unfold setSetpoint
  (repeat' (first | with_reducible assumption
                  | with_reducible (first | apply Kept_if | apply KeptRes_if | apply KeptEx_if | apply kept_cput
                                          | apply kept_setCh | apply kept_aimRails | apply kept_ok | apply kept_resetCeiling
                                          | apply kept_touch) | (with_reducible apply Kept_foldl; intro _ _ _)
                  | simp only [Kept_mk, KeptAt_self, KeptRes_done, KeptRes_later, KeptEx_ok, KeptEx_error, id] | split
                  | intro _))

theorem kept_writeSetpoint {s : State} (c : Nat) (v : Int) (hKs : Kept qs fu s) : KeptEx qs fu id (writeSetpoint s c v) := by
  unfold writeSetpoint
  (repeat' (first | with_reducible assumption
                  | with_reducible (first | apply Kept_if | apply KeptRes_if | apply KeptEx_if | apply kept_grantCh
                                          | apply kept_ok | apply kept_setSetpoint)
                  | (with_reducible apply Kept_foldl; intro _ _ _)
                  | simp only [Kept_mk, KeptAt_self, KeptRes_done, KeptRes_later, KeptEx_ok, KeptEx_error, id] | split
                  | intro _ | refine KeptEx.state ?_ (by assumption) | refine KeptEx.fst ?_ (by assumption)))

theorem kept_setIrange {s : State} (c : Nat) (v : Int) (hKs : Kept qs fu s) : KeptEx qs fu id (setIrange s c v) := by
  unfold setIrange
  (repeat' (first | with_reducible assumption
                  | with_reducible (first | apply Kept_if | apply KeptRes_if | apply KeptEx_if | apply kept_cput
                                          | apply kept_setCh | apply kept_ok | apply kept_resetCeiling | apply kept_touch)
                  | (with_reducible apply Kept_foldl; intro _ _ _)
                  | simp only [Kept_mk, KeptAt_self, KeptRes_done, KeptRes_later, KeptEx_ok, KeptEx_error, id] | split
                  | intro _))

theorem kept_writeIrange {s : State} (c : Nat) (v : Int) (hKs : Kept qs fu s) : KeptEx qs fu id (writeIrange s c v) := by
  unfold writeIrange
  (repeat' (first | with_reducible assumption
                  | with_reducible (first | apply Kept_if | apply KeptRes_if | apply KeptEx_if | apply kept_grantCh
                                          | apply kept_ok | apply kept_setIrange)
                  | (with_reducible apply Kept_foldl; intro _ _ _)
                  | simp only [Kept_mk, KeptAt_self, KeptRes_done, KeptRes_later, KeptEx_ok, KeptEx_error, id] | split
                  | intro _ | refine KeptEx.state ?_ (by assumption)))

theorem kept_setVrange {s : State} (c : Nat) (v : Int) (hKs : Kept qs fu s) : KeptEx qs fu id (setVrange s c v) := by
  unfold setVrange
  (repeat' (first | with_reducible assumption
                  | with_reducible (first | apply Kept_if | apply KeptRes_if | apply KeptEx_if | apply kept_put
                                          | apply kept_setCh | apply kept_ok | apply kept_resetCeiling | apply kept_touch)
                  | (with_reducible apply Kept_foldl; intro _ _ _)
                  | simp only [Kept_mk, KeptAt_self, KeptRes_done, KeptRes_later, KeptEx_ok, KeptEx_error, id] | split
                  | intro _))

theorem kept_writeVrange {s : State} (c : Nat) (v : Int) (hKs : Kept qs fu s) : KeptEx qs fu id (writeVrange s c v) := by
  unfold writeVrange
  (repeat' (first | with_reducible assumption
                  | with_reducible (first | apply Kept_if | apply KeptRes_if | apply KeptEx_if | apply kept_grantCh
                                          | apply kept_ok | apply kept_setVrange)
                  | (with_reducible apply Kept_foldl; intro _ _ _)
                  | simp only [Kept_mk, KeptAt_self, KeptRes_done, KeptRes_later, KeptEx_ok, KeptEx_error, id] | split
                  | intro _ | refine KeptEx.state ?_ (by assumption)))

theorem kept_written {s : State} {w : Wr} (hKs : Kept qs fu s) (hKw : KeptEx qs fu id w) :
    KeptAns qs fu (written s w) := by
  cases w with
  | ok t => exact KeptAns_if hKs (kept_done hKw)
  | error _ => exact hKs

theorem kept_execOutReqWrite (ch : Nat) (value : Int) {s : State} (hKs : Kept qs fu s)
    : KeptAns qs fu (execOutReqWrite ch value s) := by
  unfold execOutReqWrite
  (repeat' (first | with_reducible assumption
                  | with_reducible (first | apply Kept_if | apply KeptAns_if | apply kept_writeOutReq | apply kept_written)
                  | (with_reducible apply Kept_foldl; intro _ _ _) | simp only [Kept_mk, KeptAt_self, KeptAns_next] | split
                  | intro _ | refine KeptEx.state ?_ (by assumption)))

theorem kept_execSetpointWrite (ch : Nat) (value : Int) {s : State} (hKs : Kept qs fu s)
    : KeptAns qs fu (execSetpointWrite ch value s) := by
  unfold execSetpointWrite
  (repeat' (first | with_reducible assumption
                  | with_reducible (first | apply Kept_if | apply KeptAns_if | apply kept_writeSetpoint | apply kept_written)
                  | (with_reducible apply Kept_foldl; intro _ _ _) | simp only [Kept_mk, KeptAt_self, KeptAns_next] | split
                  | intro _ | refine KeptEx.state ?_ (by assumption)))

theorem kept_execIrangeWrite (ch : Nat) (value : Int) {s : State} (hKs : Kept qs fu s)
    : KeptAns qs fu (execIrangeWrite ch value s) := by
  unfold execIrangeWrite
  (repeat' (first | with_reducible assumption
                  | with_reducible (first | apply Kept_if | apply KeptAns_if | apply kept_writeIrange | apply kept_written)
                  | (with_reducible apply Kept_foldl; intro _ _ _) | simp only [Kept_mk, KeptAt_self, KeptAns_next] | split
                  | intro _ | refine KeptEx.state ?_ (by assumption)))

theorem kept_execVrangeWrite (ch : Nat) (value : Int) {s : State} (hKs : Kept qs fu s)
    : KeptAns qs fu (execVrangeWrite ch value s) := by
  unfold execVrangeWrite
  (repeat' (first | with_reducible assumption
                  | with_reducible (first | apply Kept_if | apply KeptAns_if | apply kept_writeVrange | apply kept_written)
                  | (with_reducible apply Kept_foldl; intro _ _ _) | simp only [Kept_mk, KeptAt_self, KeptAns_next] | split
                  | intro _ | refine KeptEx.state ?_ (by assumption)))

theorem kept_engageClamp {s : State} (c k : Nat) (hKs : Kept qs fu s) : Kept qs fu (engageClamp s c k) := by
  unfold engageClamp
  (repeat' (first | with_reducible assumption
                  | with_reducible (first | apply Kept_if | apply kept_bump | apply kept_publish | apply kept_setCh
                                          | apply kept_setChState | apply kept_publishLimit | apply kept_setLimitSrc)
                  | (with_reducible apply Kept_foldl; intro _ _ _) | simp only [Kept_mk, KeptAt_self] | split | intro _))

theorem kept_windowOut {s : State} (c k : Nat) (hKs : Kept qs fu s) : Kept qs fu (windowOut s c k) := by
  unfold windowOut
  (repeat' (first | with_reducible assumption
                  | with_reducible (first | apply Kept_if | apply kept_setComp | apply kept_engageClamp)
                  | (with_reducible apply Kept_foldl; intro _ _ _) | simp only [Kept_mk, KeptAt_self] | split | intro _))

theorem kept_execWindowCrossing (ch : Nat) (quantity : Quantity) (upper : Bool) {s : State} (hKs : Kept qs fu s)
    : KeptAns qs fu (execWindowCrossing ch quantity upper s) := by
  unfold execWindowCrossing
  (repeat' (first | with_reducible assumption
                  | with_reducible (first | apply Kept_if | apply KeptAns_if | apply kept_done | apply kept_windowOut)
                  | (with_reducible apply Kept_foldl; intro _ _ _) | simp only [Kept_mk, KeptAt_self, KeptAns_next] | split
                  | intro _))

theorem kept_recordChan {s : State} (c code : Nat) (hKs : Kept qs fu s) : Kept qs fu (recordChan s c code) := by
  unfold recordChan
  (repeat' (first | with_reducible assumption
                  | with_reducible (first | apply Kept_if | apply kept_record | apply kept_toTripped)
                  | (with_reducible apply Kept_foldl; intro _ _ _) | simp only [Kept_mk, KeptAt_self] | split | intro _))

theorem kept_execClampTimeout (ch : Nat) {s : State} (hKs : Kept qs fu s) : KeptAns qs fu (execClampTimeout ch s) := by
  unfold execClampTimeout
  (repeat' (first | with_reducible assumption
                  | with_reducible (first | apply Kept_if | apply KeptAns_if | apply kept_done | apply kept_toTripped)
                  | (with_reducible apply Kept_foldl; intro _ _ _) | simp only [Kept_mk, KeptAt_self, KeptAns_next] | split
                  | intro _))

theorem kept_execLimitTimeout (ch : Nat) {s : State} (hKs : Kept qs fu s) : KeptAns qs fu (execLimitTimeout ch s) := by
  unfold execLimitTimeout
  (repeat' (first | with_reducible assumption
                  | with_reducible (first | apply Kept_if | apply KeptAns_if | apply kept_done | apply kept_toTripped)
                  | (with_reducible apply Kept_foldl; intro _ _ _) | simp only [Kept_mk, KeptAt_self, KeptAns_next] | split
                  | intro _))

theorem kept_execSoaTimeout (ch : Nat) (row : Nat) {s : State} (hKs : Kept qs fu s)
    : KeptAns qs fu (execSoaTimeout ch row s) := by
  unfold execSoaTimeout
  (repeat' (first | with_reducible assumption
                  | with_reducible (first | apply Kept_if | apply KeptAns_if | apply kept_done | apply kept_toTripped)
                  | (with_reducible apply Kept_foldl; intro _ _ _) | simp only [Kept_mk, KeptAt_self, KeptAns_next] | split
                  | intro _))

theorem kept_execSenseLoss (ch : Nat) {s : State} (hKs : Kept qs fu s) : KeptAns qs fu (execSenseLoss ch s) := by
  unfold execSenseLoss
  (repeat' (first | with_reducible assumption
                  | with_reducible (first | apply Kept_if | apply KeptAns_if | apply kept_done | apply kept_record
                                          | apply kept_recordChan) | (with_reducible apply Kept_foldl; intro _ _ _)
                  | simp only [Kept_mk, KeptAt_self, KeptAns_next] | split | intro _))

theorem kept_execGuardOvl (ch : Nat) {s : State} (hKs : Kept qs fu s) : KeptAns qs fu (execGuardOvl ch s) := by
  unfold execGuardOvl
  (repeat' (first | with_reducible assumption
                  | with_reducible (first | apply Kept_if | apply KeptAns_if | apply kept_done | apply kept_recordChan)
                  | (with_reducible apply Kept_foldl; intro _ _ _) | simp only [Kept_mk, KeptAt_self, KeptAns_next] | split
                  | intro _))

theorem kept_execRailFault (group : Nat) {s : State} (hKs : Kept qs fu s) : KeptAns qs fu (execRailFault group s) := by
  unfold execRailFault
  (repeat' (first | with_reducible assumption
                  | with_reducible (first | apply Kept_if | apply KeptAns_if | apply kept_done | apply kept_recordChan)
                  | (with_reducible apply Kept_foldl; intro _ _ _) | simp only [Kept_mk, KeptAt_self, KeptAns_next] | split
                  | intro _))

theorem kept_execStandbyReached (ch : Nat) {s : State} (hKs : Kept qs fu s) : KeptAns qs fu (execStandbyReached ch s) := by
  unfold execStandbyReached
  (repeat' (first | with_reducible assumption
                  | with_reducible (first | apply Kept_if | apply KeptAns_if | apply kept_setCh | apply kept_setChState
                                          | apply kept_connect | apply kept_done)
                  | (with_reducible apply Kept_foldl; intro _ _ _) | simp only [Kept_mk, KeptAt_self, KeptAns_next] | split
                  | intro _))

theorem kept_execOutputRampDone (ch : Nat) {s : State} (hKs : Kept qs fu s) : KeptAns qs fu (execOutputRampDone ch s) := by
  unfold execOutputRampDone
  (repeat' (first | with_reducible assumption
                  | with_reducible (first | apply Kept_if | apply KeptAns_if | apply kept_put | apply kept_setCh
                                          | apply kept_done | apply kept_settleFor | apply kept_settleOpen)
                  | (with_reducible apply Kept_foldl; intro _ _ _) | simp only [Kept_mk, KeptAt_self, KeptAns_next] | split
                  | intro _))

theorem kept_execRelayClosureVerified (ch : Nat) {s : State} (hKs : Kept qs fu s)
    : KeptAns qs fu (execRelayClosureVerified ch s) := by
  unfold execRelayClosureVerified
  (repeat' (first | with_reducible assumption
                  | with_reducible (first | apply Kept_if | apply KeptAns_if | apply kept_bump | apply kept_setCh
                                          | apply kept_done | apply kept_record)
                  | (with_reducible apply Kept_foldl; intro _ _ _) | simp only [Kept_mk, KeptAt_self, KeptAns_next] | split
                  | intro _))

theorem kept_execRelayVerifyTimeout (ch : Nat) {s : State} (hKs : Kept qs fu s)
    : KeptAns qs fu (execRelayVerifyTimeout ch s) := by
  unfold execRelayVerifyTimeout
  (repeat' (first | with_reducible assumption
                  | with_reducible (first | apply Kept_if | apply KeptAns_if | apply kept_put | apply kept_setCh
                                          | apply kept_done | apply kept_record)
                  | (with_reducible apply Kept_foldl; intro _ _ _) | simp only [Kept_mk, KeptAt_self, KeptAns_next] | split
                  | intro _))

theorem kept_execSsrOpenDelay (ch : Nat) {s : State} (hKs : Kept qs fu s) : KeptAns qs fu (execSsrOpenDelay ch s) := by
  unfold execSsrOpenDelay
  (repeat' (first | with_reducible assumption
                  | with_reducible (first | apply Kept_if | apply KeptAns_if | apply kept_setCh | apply kept_done)
                  | (with_reducible apply Kept_foldl; intro _ _ _) | simp only [Kept_mk, KeptAt_self, KeptAns_next] | split
                  | intro _))

theorem kept_policyMoved {s : State} (c : Nat) (hKs : Kept qs fu s) : Kept qs fu (policyMoved s c) := by
  unfold policyMoved; (repeat' (first | with_reducible assumption | with_reducible (first | apply kept_setCh)))

theorem kept_execRangeUpChange (ch : Nat) {s : State} (hKs : Kept qs fu s) : KeptAns qs fu (execRangeUpChange ch s) := by
  unfold execRangeUpChange
  (repeat' (first | with_reducible assumption
                  | with_reducible (first | apply Kept_if | apply KeptAns_if | apply kept_done | apply kept_policyMoved
                                          | apply kept_stepUp) | (with_reducible apply Kept_foldl; intro _ _ _)
                  | simp only [Kept_mk, KeptAt_self, KeptAns_next] | split | intro _))

theorem kept_execRangeDownChange (ch : Nat) {s : State} (hKs : Kept qs fu s) : KeptAns qs fu (execRangeDownChange ch s) := by
  unfold execRangeDownChange
  (repeat' (first | with_reducible assumption
                  | with_reducible (first | apply Kept_if | apply KeptAns_if | apply kept_done | apply kept_policyMoved
                                          | apply kept_stepDown) | (with_reducible apply Kept_foldl; intro _ _ _)
                  | simp only [Kept_mk, KeptAt_self, KeptAns_next] | split | intro _))

theorem kept_execSettleWindowEnd (ch : Nat) {s : State} (hKs : Kept qs fu s) : KeptAns qs fu (execSettleWindowEnd ch s) := by
  unfold execSettleWindowEnd
  (repeat' (first | with_reducible assumption
                  | with_reducible (first | apply Kept_if | apply KeptAns_if | apply kept_setCh | apply kept_chainStep
                                          | apply kept_done) | (with_reducible apply Kept_foldl; intro _ _ _)
                  | simp only [Kept_mk, KeptAt_self, KeptAns_next] | split | intro _))

theorem kept_applyWaiting {s : State} (c : Nat) (hKs : Kept qs fu s) : Kept qs fu (applyWaiting s c) := by
  unfold applyWaiting
  (repeat' (first | with_reducible assumption | with_reducible (first | apply Kept_if | apply kept_setCh | apply kept_touch)
                  | (with_reducible apply Kept_foldl; intro _ _ _) | simp only [Kept_mk, KeptAt_self] | split | intro _))

theorem kept_execRailTargetReached (group : Nat) {s : State} (hKs : Kept qs fu s)
    : KeptAns qs fu (execRailTargetReached group s) := by
  unfold execRailTargetReached
  (repeat' (first | with_reducible assumption
                  | with_reducible (first | apply Kept_if | apply KeptAns_if | apply kept_put | apply kept_setGroup
                                          | apply kept_applyWaiting | apply kept_done)
                  | (with_reducible apply Kept_foldl; intro _ _ _) | simp only [Kept_mk, KeptAt_self, KeptAns_next] | split
                  | intro _))

theorem kept_execLoopTune (p : Pkt) {s : State} (hKs : Kept qs fu s) : KeptAns qs fu (execLoopTune p s) := by
  unfold execLoopTune
  (repeat' (first | with_reducible assumption
                  | with_reducible (first | apply Kept_if | apply KeptRes_if | apply KeptAns_if | apply kept_setCh
                                          | apply kept_refuse | apply kept_runCmd)
                  | (with_reducible apply Kept_foldl; intro _ _ _)
                  | simp only [Kept_mk, KeptAt_self, KeptRes_done, KeptRes_later, KeptAns_next] | split | intro _))

theorem kept_writeProfile {s : State} (c slot : Nat) (vs : List Int) (hKs : Kept qs fu s)
    : Kept qs fu (writeProfile s c slot vs) := by
  unfold writeProfile
  (repeat' (first | with_reducible assumption | with_reducible (first | apply Kept_if | apply kept_wr)
                  | (with_reducible apply Kept_foldl; intro _ _ _) | simp only [Kept_mk, KeptAt_self] | split | intro _))

theorem kept_execLoopTuneDone (ch : Nat) (solved : Bool) {s : State} (hKs : Kept qs fu s)
    : KeptAns qs fu (execLoopTuneDone ch solved s) := by
  unfold execLoopTuneDone
  (repeat' (first | with_reducible assumption
                  | with_reducible (first | apply Kept_if | apply KeptAns_if | apply kept_complete | apply kept_cput
                                          | apply kept_draw | apply kept_setCh | apply kept_done | apply kept_drawMany
                                          | apply kept_record | apply kept_touch | apply kept_writeProfile)
                  | (with_reducible apply Kept_foldl; intro _ _ _) | simp only [Kept_mk, KeptAt_self, KeptAns_next] | split
                  | intro _ | refine Kept.snd ?_ (by assumption)))

theorem kept_execLoopPreset (p : Pkt) {s : State} (hKs : Kept qs fu s) : KeptAns qs fu (execLoopPreset p s) := by
  unfold execLoopPreset
  (repeat' (first | with_reducible assumption
                  | with_reducible (first | apply Kept_if | apply KeptRes_if | apply KeptAns_if | apply kept_setCh
                                          | apply kept_wrNext | apply kept_grantCh | apply kept_ok | apply kept_refuse
                                          | apply kept_runCmd | apply kept_touch | apply kept_writeProfile)
                  | (with_reducible apply Kept_foldl; intro _ _ _)
                  | simp only [Kept_mk, KeptAt_self, KeptRes_done, KeptRes_later, KeptAns_next] | split | intro _
                  | refine KeptEx.state ?_ (by assumption)))

theorem kept_execRearm (p : Pkt) {s : State} (hKs : Kept qs fu s) : KeptAns qs fu (execRearm p s) := by
  unfold execRearm
  (repeat' (first | with_reducible assumption
                  | with_reducible (first | apply Kept_if | apply KeptRes_if | apply KeptAns_if | apply kept_setCh
                                          | apply kept_ok | apply kept_refuse | apply kept_runCmd | apply kept_startBoost)
                  | (with_reducible apply Kept_foldl; intro _ _ _)
                  | simp only [Kept_mk, KeptAt_self, KeptRes_done, KeptRes_later, KeptAns_next] | split | intro _))

theorem kept_execClearCounts (p : Pkt) {s : State} (hKs : Kept qs fu s) : KeptAns qs fu (execClearCounts p s) := by
  unfold execClearCounts
  (repeat' (first | with_reducible assumption
                  | with_reducible (first | apply Kept_if | apply KeptRes_if | apply KeptAns_if | apply kept_put
                                          | apply kept_ok | apply kept_refuse | apply kept_runCmd)
                  | (with_reducible apply Kept_foldl; intro _ _ _)
                  | simp only [Kept_mk, KeptAt_self, KeptRes_done, KeptRes_later, KeptAns_next] | split | intro _))

theorem kept_nextSeq {s : State} (c : Nat) (hKs : Kept qs fu s) : Kept qs fu (nextSeq s c) := by
  unfold nextSeq; (repeat' (first | with_reducible assumption | with_reducible (first | apply kept_tally)))

theorem kept_loseRecord {s : State} (c seq time : Nat) (hKs : Kept qs fu s) : Kept qs fu (loseRecord s c seq time) := by
  unfold loseRecord
  (repeat' (first | with_reducible assumption | with_reducible (first | apply kept_bump | apply kept_loseAhead)))

theorem kept_emitRecord {s : State} (c : Nat) (q : Quad) (time : Nat) (hKs : Kept qs fu s)
    : Kept qs fu (emitRecord s c q time) := by
  unfold emitRecord
  (repeat' (first | with_reducible assumption
                  | with_reducible (first | apply Kept_if | apply kept_put | apply kept_setAvg | apply kept_setGroup
                                          | apply kept_loseRecord | apply kept_record)
                  | (with_reducible apply Kept_foldl; intro _ _ _) | simp only [Kept_mk, KeptAt_self] | split | intro _))

theorem kept_azRecord (flags : Nat) {s : State} (c time : Nat) (hKs : Kept qs fu s) : Kept qs fu (azRecord flags s c time) :=
    by
  unfold azRecord
  (repeat' (first | with_reducible assumption | with_reducible (first | apply kept_emitRecord | apply kept_nextSeq)))

theorem kept_saturated {s : State} (c : Nat) (v i : Int) (flags : Nat) (hKs : Kept qs fu s)
    : Kept qs fu (saturated s c v i flags).1 := by
  unfold saturated
  (repeat' (first | with_reducible assumption | with_reducible (first | apply Kept_if | apply kept_setAvg)
                  | (with_reducible apply Kept_foldl; intro _ _ _) | simp only [Kept_mk, KeptAt_self] | split | intro _))

theorem kept_averaged {s : State} (c seq vr ir n : Nat) (items : List Contrib) (time : Nat) (hKs : Kept qs fu s)
    : Kept qs fu (averaged s c seq vr ir n items time) := by
  unfold averaged
  (repeat' (first | with_reducible assumption
                  | with_reducible (first | apply Kept_if | apply kept_emitRecord | apply kept_record | apply kept_saturated)
                  | (with_reducible apply Kept_foldl; intro _ _ _) | simp only [Kept_mk, KeptAt_self] | split | intro _
                  | refine Kept.fst ?_ (by assumption)))

theorem kept_gatherSys {s : State} (sh : Shot) (m : MeasureCode) (flags : Nat) (hKs : Kept qs fu s)
    : Kept qs fu (gatherSys s sh m flags) := by
  unfold gatherSys
  (repeat' (first | with_reducible assumption | with_reducible (first | apply Kept_if)
                  | (with_reducible apply Kept_foldl; intro _ _ _) | simp only [Kept_mk, KeptAt_self] | split | intro _))

theorem kept_convertChan (codes : List MeasureCode) (time : Nat) {s : State} (sh : Shot) (hKs : Kept qs fu s)
    : Kept qs fu (convertChan codes time s sh) := by
  unfold convertChan
  (repeat' (first | with_reducible assumption
                  | with_reducible (first | apply Kept_if | apply kept_setAvg | apply kept_setGroup | apply kept_averaged
                                          | apply kept_emitRecord | apply kept_gatherSys | apply kept_saturated)
                  | (with_reducible apply Kept_foldl; intro _ _ _) | simp only [Kept_mk, KeptAt_self] | split | intro _
                  | refine Kept.fst ?_ (by assumption)))

theorem kept_sweepInstant {s : State} (g : Nat) (hKs : Kept qs fu s) : Kept qs fu (sweepInstant s g) := by
  unfold sweepInstant
  (repeat' (first | with_reducible assumption
                  | with_reducible (first | apply Kept_if | apply kept_publish | apply kept_setEngine)
                  | (with_reducible apply Kept_foldl; intro _ _ _) | simp only [Kept_mk, KeptAt_self] | split | intro _))

theorem kept_restGroup {s : State} (g : Nat) (hKs : Kept qs fu s) : Kept qs fu (restGroup s g) := by
  unfold restGroup
  (repeat' (first | with_reducible assumption
                  | with_reducible (first | apply Kept_if | apply kept_setGroup | apply kept_closeForGroup)
                  | (with_reducible apply Kept_foldl; intro _ _ _) | simp only [Kept_mk, KeptAt_self] | split | intro _))

theorem kept_azAlone {s : State} (g : Nat) (a : AzRun) (hKs : Kept qs fu s) : Kept qs fu (azAlone s g a) := by
  unfold azAlone
  (repeat' (first | with_reducible assumption
                  | with_reducible (first | apply Kept_if | apply kept_setGroup | apply kept_azRecord)
                  | (with_reducible apply Kept_foldl; intro _ _ _) | simp only [Kept_mk, KeptAt_self] | split | intro _))

theorem kept_azEnd {s : State} (g : Nat) (hKs : Kept qs fu s) : Kept qs fu (azEnd s g) := by
  unfold azEnd
  (repeat' (first | with_reducible assumption
                  | with_reducible (first | apply Kept_if | apply kept_setGroup | apply kept_restGroup)
                  | (with_reducible apply Kept_foldl; intro _ _ _) | simp only [Kept_mk, KeptAt_self] | split | intro _))

theorem kept_azReconnects {s : State} (g t : Nat) (hKs : Kept qs fu s) : Kept qs fu (azReconnects s g t) := by
  unfold azReconnects
  (repeat' (first | with_reducible assumption | with_reducible (first | apply Kept_if | apply kept_azAlone | apply kept_azEnd)
                  | (with_reducible apply Kept_foldl; intro _ _ _) | simp only [Kept_mk, KeptAt_self] | split | intro _))

theorem kept_takeInstant {s : State} (g t : Nat) (hKs : Kept qs fu s) : Kept qs fu (takeInstant s g t) := by
  unfold takeInstant
  (repeat' (first | with_reducible assumption
                  | with_reducible (first | apply Kept_if | apply kept_setGroup | apply kept_azReconnects
                                          | apply kept_azRecord | apply kept_nextSeq | apply kept_sweepInstant)
                  | (with_reducible apply Kept_foldl; intro _ _ _) | simp only [Kept_mk, KeptAt_self] | split | intro _))

theorem kept_overrun {s : State} (g : Nat) (hKs : Kept qs fu s) : Kept qs fu (overrun s g) := by
  unfold overrun
  (repeat' (first | with_reducible assumption
                  | with_reducible (first | apply Kept_if | apply kept_bump | apply kept_consOverrun | apply kept_record)
                  | (with_reducible apply Kept_foldl; intro _ _ _) | simp only [Kept_mk, KeptAt_self] | split | intro _))

theorem kept_timerInstant {s : State} (g : Nat) (hKs : Kept qs fu s) : Kept qs fu (timerInstant s g) := by
  unfold timerInstant
  (repeat' (first | with_reducible assumption
                  | with_reducible (first | apply Kept_if | apply kept_setEngine | apply kept_setGroup | apply kept_overrun
                                          | apply kept_takeInstant) | (with_reducible apply Kept_foldl; intro _ _ _)
                  | simp only [Kept_mk, KeptAt_self] | split | intro _))

theorem kept_execSampleTimerInstant (group : Nat) {s : State} (hKs : Kept qs fu s)
    : KeptAns qs fu (execSampleTimerInstant group s) := by
  unfold execSampleTimerInstant
  (repeat' (first | with_reducible assumption | with_reducible (first | apply kept_done | apply kept_timerInstant)))

theorem kept_trigInstant {s : State} (g t : Nat) (hKs : Kept qs fu s) : Kept qs fu (trigInstant s g t) := by
  unfold trigInstant
  (repeat' (first | with_reducible assumption
                  | with_reducible (first | apply Kept_if | apply kept_setGroup | apply kept_takeInstant)
                  | (with_reducible apply Kept_foldl; intro _ _ _) | simp only [Kept_mk, KeptAt_self] | split | intro _))

theorem kept_takeTrigs {s : State} (g : Nat) (hKs : Kept qs fu s) : Kept qs fu (takeTrigs s g) := by
  unfold takeTrigs
  (repeat' (first | with_reducible assumption
                  | with_reducible (first | apply Kept_if | apply kept_setGroup | apply kept_takeInstant)
                  | (with_reducible apply Kept_foldl; intro _ _ _) | simp only [Kept_mk, KeptAt_self] | split | intro _))

theorem kept_fabricTrigger {s : State} (g t : Nat) (hKs : Kept qs fu s) : Kept qs fu (fabricTrigger s g t) := by
  unfold fabricTrigger
  (repeat' (first | with_reducible assumption
                  | with_reducible (first | apply Kept_if | apply kept_setGroup | apply kept_overrun | apply kept_trigInstant)
                  | (with_reducible apply Kept_foldl; intro _ _ _) | simp only [Kept_mk, KeptAt_self] | split | intro _))

theorem kept_execSampleTriggerPulse (group : Nat) {s : State} (hKs : Kept qs fu s)
    : KeptAns qs fu (execSampleTriggerPulse group s) := by
  unfold execSampleTriggerPulse
  (repeat' (first | with_reducible assumption
                  | with_reducible (first | apply Kept_if | apply KeptAns_if | apply kept_setCon | apply kept_done
                                          | apply kept_fabricTrigger) | (with_reducible apply Kept_foldl; intro _ _ _)
                  | simp only [Kept_mk, KeptAt_self, KeptAns_next] | split | intro _))

theorem kept_execConvFault (ch : Nat) {s : State} (hKs : Kept qs fu s) : KeptAns qs fu (execConvFault ch s) := by
  unfold execConvFault
  (repeat' (first | with_reducible assumption
                  | with_reducible (first | apply Kept_if | apply KeptAns_if | apply kept_setGroup | apply kept_done
                                          | apply kept_loseRecord | apply kept_record)
                  | (with_reducible apply Kept_foldl; intro _ _ _) | simp only [Kept_mk, KeptAt_self, KeptAns_next] | split
                  | intro _))

theorem kept_execConverterWakeStart (group : Nat) {s : State} (hKs : Kept qs fu s)
    : KeptAns qs fu (execConverterWakeStart group s) := by
  unfold execConverterWakeStart
  (repeat' (first | with_reducible assumption
                  | with_reducible (first | apply Kept_if | apply KeptAns_if | apply kept_setGroup | apply kept_done)
                  | (with_reducible apply Kept_foldl; intro _ _ _) | simp only [Kept_mk, KeptAt_self, KeptAns_next] | split
                  | intro _))

theorem kept_execConverterWakeComplete (group : Nat) {s : State} (hKs : Kept qs fu s)
    : KeptAns qs fu (execConverterWakeComplete group s) := by
  unfold execConverterWakeComplete
  (repeat' (first | with_reducible assumption
                  | with_reducible (first | apply Kept_if | apply KeptAns_if | apply kept_setGroup | apply kept_done
                                          | apply kept_restGroup | apply kept_takeInstant)
                  | (with_reducible apply Kept_foldl; intro _ _ _) | simp only [Kept_mk, KeptAt_self, KeptAns_next] | split
                  | intro _))

theorem kept_startAz {s : State} (g : Nat) (cs : List Nat) (hKs : Kept qs fu s) : Kept qs fu (startAz s g cs) := by
  unfold startAz
  (repeat' (first | with_reducible assumption
                  | with_reducible (first | apply Kept_if | apply kept_setAvg | apply kept_setGroup | apply kept_azAlone)
                  | (with_reducible apply Kept_foldl; intro _ _ _) | simp only [Kept_mk, KeptAt_self] | split | intro _))

theorem kept_execAutoZeroStart (group : Nat) (ch : Nat) {s : State} (hKs : Kept qs fu s)
    : KeptAns qs fu (execAutoZeroStart group ch s) := by
  unfold execAutoZeroStart
  (repeat' (first | with_reducible assumption
                  | with_reducible (first | apply Kept_if | apply KeptAns_if | apply kept_done | apply kept_startAz)
                  | (with_reducible apply Kept_foldl; intro _ _ _) | simp only [Kept_mk, KeptAt_self, KeptAns_next] | split
                  | intro _))

theorem kept_azLeave {s : State} (g c : Nat) (hKs : Kept qs fu s) : Kept qs fu (azLeave s g c) := by
  unfold azLeave
  (repeat' (first | with_reducible assumption
                  | with_reducible (first | apply Kept_if | apply kept_setGroup | apply kept_azAlone | apply kept_azEnd)
                  | (with_reducible apply Kept_foldl; intro _ _ _) | simp only [Kept_mk, KeptAt_self] | split | intro _))

theorem kept_takeOffsets {s : State} (ch : Nat) (v i pair : Int) (ok : Bool) (hKs : Kept qs fu s)
    : Kept qs fu (takeOffsets s ch v i pair ok) := by
  unfold takeOffsets
  (repeat' (first | with_reducible assumption
                  | with_reducible (first | apply Kept_if | apply KeptRes_if | apply kept_bump | apply kept_put
                                          | apply kept_setAvg | apply kept_ok | apply kept_record)
                  | (with_reducible apply Kept_foldl; intro _ _ _)
                  | simp only [Kept_mk, KeptAt_self, KeptRes_done, KeptRes_later] | split | intro _))

theorem kept_execAutoZeroComplete (ch : Nat) (v i pair : Int) (ok : Bool) {s : State} (hKs : Kept qs fu s)
    : KeptAns qs fu (execAutoZeroComplete ch v i pair ok s) := by
  unfold execAutoZeroComplete
  (repeat' (first | with_reducible assumption
                  | with_reducible (first | apply Kept_if | apply KeptRes_if | apply KeptAns_if | apply kept_azLeave
                                          | apply kept_done | apply kept_ok | apply kept_takeOffsets)
                  | (with_reducible apply Kept_foldl; intro _ _ _)
                  | simp only [Kept_mk, KeptAt_self, KeptRes_done, KeptRes_later, KeptAns_next] | split | intro _))

theorem kept_writeTrigSrc {s : State} (g : Nat) (v : Int) (hKs : Kept qs fu s) : KeptEx qs fu id (writeTrigSrc s g v) := by
  unfold writeTrigSrc
  (repeat' (first | with_reducible assumption
                  | with_reducible (first | apply Kept_if | apply KeptRes_if | apply KeptEx_if | apply kept_put
                                          | apply kept_setGroup | apply kept_ok | apply kept_restartAvg)
                  | (with_reducible apply Kept_foldl; intro _ _ _)
                  | simp only [Kept_mk, KeptAt_self, KeptRes_done, KeptRes_later, KeptEx_ok, KeptEx_error, id] | split
                  | intro _))

theorem kept_execTrigSrcWrite (group : Nat) (value : Int) {s : State} (hKs : Kept qs fu s)
    : KeptAns qs fu (execTrigSrcWrite group value s) := by
  unfold execTrigSrcWrite
  (repeat' (first | with_reducible assumption
                  | with_reducible (first | apply Kept_if | apply KeptAns_if | apply kept_writeTrigSrc | apply kept_written)
                  | (with_reducible apply Kept_foldl; intro _ _ _) | simp only [Kept_mk, KeptAt_self, KeptAns_next] | split
                  | intro _ | refine KeptEx.state ?_ (by assumption)))

theorem kept_writePwrMode {s : State} (g : Nat) (v : Int) (hKs : Kept qs fu s) : KeptEx qs fu id (writePwrMode s g v) := by
  unfold writePwrMode
  (repeat' (first | with_reducible assumption
                  | with_reducible (first | apply Kept_if | apply KeptRes_if | apply KeptEx_if | apply kept_put
                                          | apply kept_setGroup | apply kept_ok | apply kept_restGroup)
                  | (with_reducible apply Kept_foldl; intro _ _ _)
                  | simp only [Kept_mk, KeptAt_self, KeptRes_done, KeptRes_later, KeptEx_ok, KeptEx_error, id] | split
                  | intro _))

theorem kept_execPwrModeWrite (group : Nat) (value : Int) {s : State} (hKs : Kept qs fu s)
    : KeptAns qs fu (execPwrModeWrite group value s) := by
  unfold execPwrModeWrite
  (repeat' (first | with_reducible assumption
                  | with_reducible (first | apply Kept_if | apply KeptAns_if | apply kept_writePwrMode | apply kept_written)
                  | (with_reducible apply Kept_foldl; intro _ _ _) | simp only [Kept_mk, KeptAt_self, KeptAns_next] | split
                  | intro _ | refine KeptEx.state ?_ (by assumption)))

theorem kept_writeTimerPeriod {s : State} (g : Nat) (v : Int) (hKs : Kept qs fu s)
    : KeptEx qs fu id (writeTimerPeriod s g v) := by
  unfold writeTimerPeriod
  (repeat' (first | with_reducible assumption
                  | with_reducible (first | apply Kept_if | apply KeptRes_if | apply KeptEx_if | apply kept_put
                                          | apply kept_setGroup | apply kept_ok)
                  | (with_reducible apply Kept_foldl; intro _ _ _)
                  | simp only [Kept_mk, KeptAt_self, KeptRes_done, KeptRes_later, KeptEx_ok, KeptEx_error, id] | split
                  | intro _))

theorem kept_writeTimerPhase {s : State} (g : Nat) (v : Int) (hKs : Kept qs fu s)
    : KeptEx qs fu id (writeTimerPhase s g v) := by
  unfold writeTimerPhase
  (repeat' (first | with_reducible assumption
                  | with_reducible (first | apply Kept_if | apply KeptRes_if | apply KeptEx_if | apply kept_put
                                          | apply kept_setGroup | apply kept_ok)
                  | (with_reducible apply Kept_foldl; intro _ _ _)
                  | simp only [Kept_mk, KeptAt_self, KeptRes_done, KeptRes_later, KeptEx_ok, KeptEx_error, id] | split
                  | intro _))

theorem kept_execTimerPeriodWrite (group : Nat) (phase : Bool) (value : Int) {s : State} (hKs : Kept qs fu s)
    : KeptAns qs fu (execTimerPeriodWrite group phase value s) := by
  unfold execTimerPeriodWrite
  (repeat' (first | with_reducible assumption
                  | with_reducible (first | apply Kept_if | apply KeptAns_if | apply kept_writeTimerPeriod
                                          | apply kept_writeTimerPhase | apply kept_written)
                  | (with_reducible apply Kept_foldl; intro _ _ _) | simp only [Kept_mk, KeptAt_self, KeptAns_next] | split
                  | intro _ | refine KeptEx.state ?_ (by assumption)))

theorem kept_tdacChanged {s : State} (g : Nat) (hKs : Kept qs fu s) : Kept qs fu (tdacChanged s g) := by
  unfold tdacChanged; (repeat' (first | with_reducible assumption | with_reducible (first | apply kept_setGroup)))

theorem kept_writeTdacMask {s : State} (g : Nat) (v : Int) (hKs : Kept qs fu s) : KeptEx qs fu id (writeTdacMask s g v) := by
  unfold writeTdacMask
  (repeat' (first | with_reducible assumption
                  | with_reducible (first | apply Kept_if | apply KeptRes_if | apply KeptEx_if | apply kept_wrNext
                                          | apply kept_ok | apply kept_tdacChanged)
                  | (with_reducible apply Kept_foldl; intro _ _ _)
                  | simp only [Kept_mk, KeptAt_self, KeptRes_done, KeptRes_later, KeptEx_ok, KeptEx_error, id] | split
                  | intro _))

theorem kept_execTdacMaskWrite (group : Nat) (value : Int) {s : State} (hKs : Kept qs fu s)
    : KeptAns qs fu (execTdacMaskWrite group value s) := by
  unfold execTdacMaskWrite
  (repeat' (first | with_reducible assumption
                  | with_reducible (first | apply Kept_if | apply KeptAns_if | apply kept_writeTdacMask | apply kept_written)
                  | (with_reducible apply Kept_foldl; intro _ _ _) | simp only [Kept_mk, KeptAt_self, KeptAns_next] | split
                  | intro _ | refine KeptEx.state ?_ (by assumption)))

theorem kept_crossAll {s : State} (g : Nat) (hKs : Kept qs fu s) : Kept qs fu (crossAll s g) := by
  unfold crossAll
  (repeat' (first | with_reducible assumption
                  | with_reducible (first | apply Kept_if | apply kept_setGroup | apply kept_place)
                  | (with_reducible apply Kept_foldl; intro _ _ _) | simp only [Kept_mk, KeptAt_self] | split | intro _))

theorem kept_stopGroup {s : State} (g : Nat) (hKs : Kept qs fu s) : Kept qs fu (stopGroup s g) := by
  unfold stopGroup; (repeat' (first | with_reducible assumption | with_reducible (first | apply kept_setGroup)))

theorem kept_takeSrc {s : State} (g : Nat) (hKs : Kept qs fu s) : Kept qs fu (takeSrc s g) := by
  unfold takeSrc
  (repeat' (first | with_reducible assumption
                  | with_reducible (first | apply Kept_if | apply kept_setGroup | apply kept_azAlone | apply kept_azEnd
                                          | apply kept_restGroup | apply kept_restartAvg)
                  | (with_reducible apply Kept_foldl; intro _ _ _) | simp only [Kept_mk, KeptAt_self] | split | intro _))

theorem kept_takeMode {s : State} (g : Nat) (hKs : Kept qs fu s) : Kept qs fu (takeMode s g) := by
  unfold takeMode
  (repeat' (first | with_reducible assumption
                  | with_reducible (first | apply Kept_if | apply kept_setGroup | apply kept_closeForGroup
                                          | apply kept_crossAll | apply kept_restGroup)
                  | (with_reducible apply Kept_foldl; intro _ _ _) | simp only [Kept_mk, KeptAt_self] | split | intro _))

theorem kept_groupBoundary {s : State} (g : Nat) (hKs : Kept qs fu s) : Kept qs fu (groupBoundary s g) := by
  unfold groupBoundary
  (repeat' (first | with_reducible assumption
                  | with_reducible (first | apply Kept_if | apply kept_setGroup | apply kept_azReconnects
                                          | apply kept_restGroup | apply kept_stopGroup | apply kept_takeMode
                                          | apply kept_takeSrc) | (with_reducible apply Kept_foldl; intro _ _ _)
                  | simp only [Kept_mk, KeptAt_self] | split | intro _))

theorem kept_execConversionComplete (group : Nat) (codes : List MeasureCode) {s : State} (hKs : Kept qs fu s)
    : KeptAns qs fu (execConversionComplete group codes s) := by
  unfold execConversionComplete
  (repeat' (first | with_reducible assumption
                  | with_reducible (first | apply Kept_if | apply KeptAns_if | apply kept_setGroup | apply kept_convertChan
                                          | apply kept_done | apply kept_restGroup | apply kept_takeMode | apply kept_takeSrc)
                  | (with_reducible apply Kept_foldl; intro _ _ _) | simp only [Kept_mk, KeptAt_self, KeptAns_next] | split
                  | intro _))

theorem kept_startUpload {s : State} (p : Pkt) (h n : Nat) (hKs : Kept qs fu s) : KeptRes qs fu (startUpload s p h n) := by
  unfold startUpload
  (repeat' (first | with_reducible assumption
                  | with_reducible (first | apply Kept_if | apply KeptRes_if | apply kept_startXfer)
                  | (with_reducible apply Kept_foldl; intro _ _ _)
                  | simp only [Kept_mk, KeptAt_self, KeptRes_done, KeptRes_later] | split | intro _))

theorem kept_execSweUpload (p : Pkt) {s : State} (hKs : Kept qs fu s) : KeptAns qs fu (execSweUpload p s) := by
  unfold execSweUpload
  (repeat' (first | with_reducible assumption
                  | with_reducible (first | apply Kept_if | apply KeptRes_if | apply KeptAns_if | apply kept_setRegion
                                          | apply kept_refuse | apply kept_reportMem | apply kept_runCmd
                                          | apply kept_startUpload) | (with_reducible apply Kept_foldl; intro _ _ _)
                  | simp only [Kept_mk, KeptAt_self, KeptRes_done, KeptRes_later, KeptAns_next] | split | intro _))

theorem kept_storeEntries {s : State} (base : Nat) (es : List Quad) (hKs : Kept qs fu s) :
    Kept qs fu (storeEntries s base es) :=
  let ⟨a, b, c0, d0, c1, c2, c3, c4, c5, c6, c7, c8, c9, c10, c11, c12⟩ := hKs
  ⟨a, b, c0, d0, c1, c2, c3, c4, c5, Bank.wf_setAll _ _ _ c6, c7, c8, c9, c10, c11, c12⟩

theorem kept_endUpload {s : State} (u : Upload) (hKs : Kept qs fu s) : Kept qs fu (endUpload s u) := by
  exact hKs

theorem kept_uploadFault {s : State} (u : Upload) (got : Option HostFault) (hKs : Kept qs fu s)
    : Kept qs fu (uploadFault s u got).2 := by
  unfold uploadFault
  (repeat' (first | with_reducible assumption | with_reducible (first | apply Kept_if | apply kept_hostFaulted)
                  | (with_reducible apply Kept_foldl; intro _ _ _) | simp only [Kept_mk, KeptAt_self] | split | intro _))

theorem kept_uploadFails {s : State} (u : Upload) (code status idx : Nat) (hKs : Kept qs fu s)
    : Kept qs fu (uploadFails s u code status idx) := by
  unfold uploadFails
  (repeat' (first | with_reducible assumption
                  | with_reducible (first | apply Kept_if | apply kept_complete | apply kept_setRegion | apply kept_endUpload
                                          | apply kept_record) | (with_reducible apply Kept_foldl; intro _ _ _)
                  | simp only [Kept_mk, KeptAt_self] | split | intro _))

theorem kept_execSweUploadDone (src : Src) (tag : Nat) (got : List Nat) (fault : Option HostFault) {s : State}
    (hKs : Kept qs fu s) : KeptAns qs fu (execSweUploadDone src tag got fault s) := by
  unfold execSweUploadDone
  (repeat' (first | with_reducible assumption
                  | with_reducible (first | apply Kept_if | apply KeptAns_if | apply kept_complete | apply kept_setRegion
                                          | apply kept_done | apply kept_endUpload | apply kept_storeEntries
                                          | apply kept_uploadFails | apply kept_uploadFault)
                  | (with_reducible apply Kept_foldl; intro _ _ _) | simp only [Kept_mk, KeptAt_self, KeptAns_next] | split
                  | intro _ | refine Kept.snd ?_ (by assumption)))

theorem kept_execSweFree (p : Pkt) {s : State} (hKs : Kept qs fu s) : KeptAns qs fu (execSweFree p s) := by
  unfold execSweFree
  (repeat' (first | with_reducible assumption
                  | with_reducible (first | apply Kept_if | apply KeptRes_if | apply KeptAns_if | apply kept_setRegion
                                          | apply kept_ok | apply kept_refuse | apply kept_reportMem | apply kept_runCmd
                                          | apply kept_uploadFails) | (with_reducible apply Kept_foldl; intro _ _ _)
                  | simp only [Kept_mk, KeptAt_self, KeptRes_done, KeptRes_later, KeptAns_next] | split | intro _))

theorem kept_execSweLoad (p : Pkt) {s : State} (hKs : Kept qs fu s) : KeptAns qs fu (execSweLoad p s) := by
  unfold execSweLoad
  (repeat' (first | with_reducible assumption
                  | with_reducible (first | apply Kept_if | apply KeptRes_if | apply KeptAns_if | apply kept_setSlot
                                          | apply kept_wr | apply kept_ok | apply kept_record | apply kept_refuse
                                          | apply kept_runCmd) | (with_reducible apply Kept_foldl; intro _ _ _)
                  | simp only [Kept_mk, KeptAt_self, KeptRes_done, KeptRes_later, KeptAns_next] | split | intro _))

theorem kept_admitSlot {s : State} (e k : Nat) (hKs : Kept qs fu s) : KeptEx qs fu id (admitSlot s e k) := by
  unfold admitSlot
  (repeat' (first | with_reducible assumption
                  | with_reducible (first | apply Kept_if | apply KeptRes_if | apply KeptEx_if | apply kept_setSlot
                                          | apply kept_ok | apply kept_reportBudget)
                  | (with_reducible apply Kept_foldl; intro _ _ _)
                  | simp only [Kept_mk, KeptAt_self, KeptRes_done, KeptRes_later, KeptEx_ok, KeptEx_error, id] | split
                  | intro _))

theorem kept_endEventHold {s : State} (e : Nat) (hKs : Kept qs fu s) : Kept qs fu (endEventHold s e) := by
  unfold endEventHold
  (repeat' (first | with_reducible assumption
                  | with_reducible (first | apply Kept_if | apply kept_setEngine | apply kept_resumeSlot)
                  | (with_reducible apply Kept_foldl; intro _ _ _) | simp only [Kept_mk, KeptAt_self] | split | intro _))

theorem kept_sweReady {s : State} (e : Nat) (ks : List Nat) (resume : Bool) (hKs : Kept qs fu s)
    : Kept qs fu (sweReady s e ks resume) := by
  unfold sweReady
  (repeat' (first | with_reducible assumption
                  | with_reducible (first | apply Kept_if | apply kept_setSlot | apply kept_setSlotState
                                          | apply kept_bringForward | apply kept_endEventHold | apply kept_preempt
                                          | apply kept_takeControl) | (with_reducible apply Kept_foldl; intro _ _ _)
                  | simp only [Kept_mk, KeptAt_self] | split | intro _))

theorem kept_clearCapt {s : State} (n : Nat) (hKs : Kept qs fu s) : Kept qs fu (clearCapt s n) := by
  unfold clearCapt; (repeat' (first | with_reducible assumption | with_reducible (first | apply kept_setCon)))

theorem kept_startTogether {s : State} (e : Nat) (hKs : Kept qs fu s) : Kept qs fu (startTogether s e) := by
  unfold startTogether
  (repeat' (first | with_reducible assumption
                  | with_reducible (first | apply Kept_if | apply kept_abortEngine | apply kept_bringForward
                                          | apply kept_clearCapt | apply kept_sweReady)
                  | (with_reducible apply Kept_foldl; intro _ _ _) | simp only [Kept_mk, KeptAt_self] | split | intro _))

theorem kept_sweBoundary {s : State} (e : Nat) (hKs : Kept qs fu s) : Kept qs fu (sweBoundary s e) := by
  unfold sweBoundary
  (repeat' (first | with_reducible assumption
                  | with_reducible (first | apply Kept_if | apply kept_setEngine | apply kept_abortSlots
                                          | apply kept_bringForward | apply kept_resumeSlot | apply kept_startTogether)
                  | (with_reducible apply Kept_foldl; intro _ _ _) | simp only [Kept_mk, KeptAt_self] | split | intro _))

theorem kept_slotCmd (p : Pkt) {s : State} (body : Nat → Nat → Res) (hKs : Kept qs fu s)
    (hKbody : ∀ y0 : Nat, ∀ y1 : Nat, KeptRes qs fu (body y0 y1)) : KeptRes qs fu (slotCmd p s body) := by
  unfold slotCmd
  (repeat' (first | with_reducible assumption | with_reducible (first | apply Kept_if | apply KeptRes_if | apply kept_refuse)
                  | (with_reducible apply Kept_foldl; intro _ _ _)
                  | simp only [Kept_mk, KeptAt_self, KeptRes_done, KeptRes_later] | split| apply hKbody | intro _))

theorem kept_execSweStart (p : Pkt) {s : State} (hKs : Kept qs fu s) : KeptAns qs fu (execSweStart p s) := by
  unfold execSweStart
  (repeat' (first | with_reducible assumption
                  | with_reducible (first | apply Kept_if | apply KeptRes_if | apply KeptAns_if | apply kept_setSlot
                                          | apply kept_admitSlot | apply kept_ok | apply kept_refuse | apply kept_runCmd
                                          | apply kept_slotCmd) | (with_reducible apply Kept_foldl; intro _ _ _)
                  | simp only [Kept_mk, KeptAt_self, KeptRes_done, KeptRes_later, KeptAns_next] | split | intro _
                  | refine KeptEx.state ?_ (by assumption)))

theorem kept_execSweArm (p : Pkt) {s : State} (hKs : Kept qs fu s) : KeptAns qs fu (execSweArm p s) := by
  unfold execSweArm
  (repeat' (first | with_reducible assumption
                  | with_reducible (first | apply Kept_if | apply KeptRes_if | apply KeptAns_if | apply kept_setSlotState
                                          | apply kept_wr | apply kept_admitSlot | apply kept_ok | apply kept_refuse
                                          | apply kept_runCmd | apply kept_slotCmd)
                  | (with_reducible apply Kept_foldl; intro _ _ _)
                  | simp only [Kept_mk, KeptAt_self, KeptRes_done, KeptRes_later, KeptAns_next] | split | intro _
                  | refine KeptEx.state ?_ (by assumption)))

theorem kept_execSweResume (p : Pkt) {s : State} (hKs : Kept qs fu s) : KeptAns qs fu (execSweResume p s) := by
  unfold execSweResume
  (repeat' (first | with_reducible assumption
                  | with_reducible (first | apply Kept_if | apply KeptRes_if | apply KeptAns_if | apply kept_setEngine
                                          | apply kept_ok | apply kept_refuse | apply kept_resumeSlot | apply kept_runCmd
                                          | apply kept_slotCmd) | (with_reducible apply Kept_foldl; intro _ _ _)
                  | simp only [Kept_mk, KeptAt_self, KeptRes_done, KeptRes_later, KeptAns_next] | split | intro _))

theorem kept_execSweAbort (p : Pkt) {s : State} (hKs : Kept qs fu s) : KeptAns qs fu (execSweAbort p s) := by
  unfold execSweAbort
  (repeat' (first | with_reducible assumption
                  | with_reducible (first | apply Kept_if | apply KeptRes_if | apply KeptAns_if | apply kept_setSlot
                                          | apply kept_ok | apply kept_refuse | apply kept_runCmd)
                  | (with_reducible apply Kept_foldl; intro _ _ _)
                  | simp only [Kept_mk, KeptAt_self, KeptRes_done, KeptRes_later, KeptAns_next] | split | intro _))

theorem kept_execSweRelease (p : Pkt) {s : State} (hKs : Kept qs fu s) : KeptAns qs fu (execSweRelease p s) := by
  unfold execSweRelease
  (repeat' (first | with_reducible assumption
                  | with_reducible (first | apply Kept_if | apply KeptRes_if | apply KeptAns_if | apply kept_setSlot
                                          | apply kept_setSlotState | apply kept_wr | apply kept_ok | apply kept_refuse
                                          | apply kept_runCmd | apply kept_slotCmd | apply kept_unreserve)
                  | (with_reducible apply Kept_foldl; intro _ _ _)
                  | simp only [Kept_mk, KeptAt_self, KeptRes_done, KeptRes_later, KeptAns_next] | split | intro _))

theorem kept_execSweSignal (p : Pkt) {s : State} (hKs : Kept qs fu s) : KeptAns qs fu (execSweSignal p s) := by
  unfold execSweSignal
  (repeat' (first | with_reducible assumption
                  | with_reducible (first | apply Kept_if | apply KeptRes_if | apply KeptAns_if | apply kept_put
                                          | apply kept_ok | apply kept_refuse | apply kept_runCmd)
                  | (with_reducible apply Kept_foldl; intro _ _ _)
                  | simp only [Kept_mk, KeptAt_self, KeptRes_done, KeptRes_later, KeptAns_next] | split | intro _))

theorem kept_execSweEvStart (engine : Nat) {s : State} (hKs : Kept qs fu s) : KeptAns qs fu (execSweEvStart engine s) := by
  unfold execSweEvStart
  (repeat' (first | with_reducible assumption
                  | with_reducible (first | apply Kept_if | apply KeptAns_if | apply kept_done | apply kept_startTogether)
                  | (with_reducible apply Kept_foldl; intro _ _ _) | simp only [Kept_mk, KeptAt_self, KeptAns_next] | split
                  | intro _))

theorem kept_execSweEvNext (engine : Nat) {s : State} (hKs : Kept qs fu s) : KeptAns qs fu (execSweEvNext engine s) := by
  unfold execSweEvNext
  (repeat' (first | with_reducible assumption
                  | with_reducible (first | apply Kept_if | apply KeptAns_if | apply kept_setEngine | apply kept_bringForward
                                          | apply kept_clearCapt | apply kept_done | apply kept_endPoint)
                  | (with_reducible apply Kept_foldl; intro _ _ _) | simp only [Kept_mk, KeptAt_self, KeptAns_next] | split
                  | intro _))

theorem kept_execSweEvHold (engine : Nat) {s : State} (hKs : Kept qs fu s) : KeptAns qs fu (execSweEvHold engine s) := by
  unfold execSweEvHold
  (repeat' (first | with_reducible assumption
                  | with_reducible (first | apply Kept_if | apply KeptAns_if | apply kept_clearCapt | apply kept_done
                                          | apply kept_requestHold) | (with_reducible apply Kept_foldl; intro _ _ _)
                  | simp only [Kept_mk, KeptAt_self, KeptAns_next] | split | intro _))

theorem kept_execSweEvAbort (engine : Nat) {s : State} (hKs : Kept qs fu s) : KeptAns qs fu (execSweEvAbort engine s) := by
  unfold execSweEvAbort
  (repeat' (first | with_reducible assumption
                  | with_reducible (first | apply Kept_if | apply KeptAns_if | apply kept_abortEngine
                                          | apply kept_bringForward | apply kept_clearCapt | apply kept_done)
                  | (with_reducible apply Kept_foldl; intro _ _ _) | simp only [Kept_mk, KeptAt_self, KeptAns_next] | split
                  | intro _))

theorem kept_releaseSample {s : State} (e at_ : Nat) (hKs : Kept qs fu s) : Kept qs fu (releaseSample s e at_) := by
  unfold releaseSample
  (repeat' (first | with_reducible assumption
                  | with_reducible (first | apply Kept_if | apply kept_setEngine | apply kept_abandonAz
                                          | apply kept_fabricTrigger) | (with_reducible apply Kept_foldl; intro _ _ _)
                  | simp only [Kept_mk, KeptAt_self] | split | intro _))

theorem kept_execSweWaitRelease (engine : Nat) {s : State} (hKs : Kept qs fu s)
    : KeptAns qs fu (execSweWaitRelease engine s) := by
  unfold execSweWaitRelease
  (repeat' (first | with_reducible assumption
                  | with_reducible (first | apply Kept_if | apply KeptAns_if | apply kept_put | apply kept_setEngine
                                          | apply kept_setSlotState | apply kept_abandonAz | apply kept_applyPoint
                                          | apply kept_bringForward | apply kept_done | apply kept_fabricTrigger)
                  | (with_reducible apply Kept_foldl; intro _ _ _) | simp only [Kept_mk, KeptAt_self, KeptAns_next] | split
                  | intro _))

theorem kept_execSweStartAt (engine : Nat) (slot : Nat) {s : State} (hKs : Kept qs fu s)
    : KeptAns qs fu (execSweStartAt engine slot s) := by
  unfold execSweStartAt
  (repeat' (first | with_reducible assumption
                  | with_reducible (first | apply Kept_if | apply KeptAns_if | apply kept_done | apply kept_startTogether)
                  | (with_reducible apply Kept_foldl; intro _ _ _) | simp only [Kept_mk, KeptAt_self, KeptAns_next] | split
                  | intro _))

theorem kept_execSweWaitTimeout (engine : Nat) {s : State} (hKs : Kept qs fu s)
    : KeptAns qs fu (execSweWaitTimeout engine s) := by
  unfold execSweWaitTimeout
  (repeat' (first | with_reducible assumption
                  | with_reducible (first | apply Kept_if | apply KeptAns_if | apply kept_abortSlot | apply kept_bringForward
                                          | apply kept_done | apply kept_record)
                  | (with_reducible apply Kept_foldl; intro _ _ _) | simp only [Kept_mk, KeptAt_self, KeptAns_next] | split
                  | intro _))

theorem kept_execPointEnd (engine : Nat) {s : State} (hKs : Kept qs fu s) : KeptAns qs fu (execPointEnd engine s) := by
  unfold execPointEnd
  (repeat' (first | with_reducible assumption
                  | with_reducible (first | apply Kept_if | apply KeptAns_if | apply kept_bringForward | apply kept_done
                                          | apply kept_endPoint) | (with_reducible apply Kept_foldl; intro _ _ _)
                  | simp only [Kept_mk, KeptAt_self, KeptAns_next] | split | intro _))

theorem kept_execPointApply (engine : Nat) {s : State} (hKs : Kept qs fu s) : KeptAns qs fu (execPointApply engine s) := by
  unfold execPointApply
  (repeat' (first | with_reducible assumption
                  | with_reducible (first | apply Kept_if | apply KeptAns_if | apply kept_applyPoint | apply kept_done)
                  | (with_reducible apply Kept_foldl; intro _ _ _) | simp only [Kept_mk, KeptAt_self, KeptAns_next] | split
                  | intro _))

theorem kept_execPulseEdgeStart (engine : Nat) {s : State} (hKs : Kept qs fu s)
    : KeptAns qs fu (execPulseEdgeStart engine s) := by
  unfold execPulseEdgeStart
  (repeat' (first | with_reducible assumption
                  | with_reducible (first | apply Kept_if | apply KeptAns_if | apply kept_done | apply kept_pulseOn)
                  | (with_reducible apply Kept_foldl; intro _ _ _) | simp only [Kept_mk, KeptAt_self, KeptAns_next] | split
                  | intro _))

theorem kept_execPulseEdgeEnd (engine : Nat) {s : State} (hKs : Kept qs fu s) : KeptAns qs fu (execPulseEdgeEnd engine s) :=
    by
  unfold execPulseEdgeEnd
  (repeat' (first | with_reducible assumption
                  | with_reducible (first | apply Kept_if | apply KeptAns_if | apply kept_done | apply kept_pulseOff)
                  | (with_reducible apply Kept_foldl; intro _ _ _) | simp only [Kept_mk, KeptAt_self, KeptAns_next] | split
                  | intro _))

theorem kept_execSwePreemptCut (engine : Nat) {s : State} (hKs : Kept qs fu s)
    : KeptAns qs fu (execSwePreemptCut engine s) := by
  unfold execSwePreemptCut
  (repeat' (first | with_reducible assumption
                  | with_reducible (first | apply Kept_if | apply KeptAns_if | apply kept_setSlot | apply kept_wr
                                          | apply kept_bringForward | apply kept_closeStatus | apply kept_done
                                          | apply kept_endPoint | apply kept_preempt)
                  | (with_reducible apply Kept_foldl; intro _ _ _) | simp only [Kept_mk, KeptAt_self, KeptAns_next] | split
                  | intro _))

theorem kept_corrected {s : State} (blk inst : Nat) (hKs : Kept qs fu s) : Kept qs fu (corrected s blk inst) := by
  unfold corrected
  (repeat' (first | with_reducible assumption | with_reducible (first | apply kept_bump | apply kept_record)))

theorem kept_uncorrected {s : State} (blk inst : Nat) (hKs : Kept qs fu s) : Kept qs fu (uncorrected s blk inst) := by
  unfold uncorrected
  (repeat' (first | with_reducible assumption | with_reducible (first | apply kept_bump | apply kept_record)))

theorem kept_execSweepMemoryScrub (fixed bad : List Nat) {s : State} (hKs : Kept qs fu s)
    : KeptAns qs fu (execSweepMemoryScrub fixed bad s) := by
  unfold execSweepMemoryScrub
  (repeat' (first | with_reducible assumption
                  | with_reducible (first | apply Kept_if | apply KeptAns_if | apply kept_setRegion | apply kept_corrected
                                          | apply kept_done | apply kept_uncorrected)
                  | (with_reducible apply Kept_foldl; intro _ _ _) | simp only [Kept_mk, KeptAt_self, KeptAns_next] | split
                  | intro _))

theorem kept_putId {s : State} (id : Nat) (v : Int) (hKs : Kept qs fu s) : Kept qs fu (s.putId id v) :=
  let ⟨a, b, c0, h⟩ := hKs
  ⟨a, b, Bank.wf_set _ _ _ c0, h⟩

theorem kept_pinCode (n : Nat) (wrote : Bool) {s : State} (k : Nat) (hKs : Kept qs fu s)
    : Kept qs fu (pinCode n wrote s k) := by
  unfold pinCode
  (repeat' (first | with_reducible assumption
                  | with_reducible (first | apply Kept_if | apply kept_setPin | apply kept_clipped)
                  | (with_reducible apply Kept_foldl; intro _ _ _) | simp only [Kept_mk, KeptAt_self] | split | intro _))

theorem kept_pinCodes {s : State} (n : Nat) (hKs : Kept qs fu s) : Kept qs fu (pinCodes s n) := by
  unfold pinCodes
  (repeat' (first | with_reducible assumption | with_reducible (first | apply Kept_if | apply kept_pinCode)
                  | (with_reducible apply Kept_foldl; intro _ _ _) | simp only [Kept_mk, KeptAt_self] | split | intro _))

theorem kept_pinsMoved {s : State} (terms : List Nat) (hKs : Kept qs fu s) : Kept qs fu (pinsMoved s terms) := by
  unfold pinsMoved
  (repeat' (first | with_reducible assumption | with_reducible (first | apply Kept_if | apply kept_pinCodes)
                  | (with_reducible apply Kept_foldl; intro _ _ _) | simp only [Kept_mk, KeptAt_self] | split | intro _))

theorem kept_stepTerm {s : State} (id : Nat) (hKs : Kept qs fu s) : Kept qs fu (stepTerm s id) := by
  unfold stepTerm
  (repeat' (first | with_reducible assumption | with_reducible (first | apply Kept_if | apply kept_putId)
                  | (with_reducible apply Kept_foldl; intro _ _ _) | simp only [Kept_mk, KeptAt_self] | split | intro _))

theorem kept_execCoefRampStep {s : State} (hKs : Kept qs fu s) : KeptAns qs fu (execCoefRampStep s) := by
  unfold execCoefRampStep
  (repeat' (first | with_reducible assumption
                  | with_reducible (first | apply Kept_if | apply KeptAns_if | apply kept_publish | apply kept_put
                                          | apply kept_done | apply kept_pinsMoved | apply kept_stepTerm)
                  | (with_reducible apply Kept_foldl; intro _ _ _) | simp only [Kept_mk, KeptAt_self, KeptAns_next] | split
                  | intro _))

theorem kept_writeCal {s : State} (id : Nat) (v : Int) (hKs : Kept qs fu s) : Kept qs fu (writeCal s id v) := by
  unfold writeCal
  (repeat' (first | with_reducible assumption | with_reducible (first | apply Kept_if | apply kept_putId)
                  | (with_reducible apply Kept_foldl; intro _ _ _) | simp only [Kept_mk, KeptAt_self] | split | intro _))

theorem kept_stepDeskew {s : State} (id : Nat) (hKs : Kept qs fu s) : Kept qs fu (stepDeskew s id) := by
  unfold stepDeskew; (repeat' (first | with_reducible assumption | with_reducible (first | apply kept_putId)))

theorem kept_execDeskewStep (dom : Nat) {s : State} (hKs : Kept qs fu s) : KeptAns qs fu (execDeskewStep dom s) := by
  unfold execDeskewStep
  (repeat' (first | with_reducible assumption
                  | with_reducible (first | apply Kept_if | apply KeptAns_if | apply kept_setSequencer | apply kept_done
                                          | apply kept_stepDeskew) | (with_reducible apply Kept_foldl; intro _ _ _)
                  | simp only [Kept_mk, KeptAt_self, KeptAns_next] | split | intro _))

theorem kept_saturate {s : State} (id : Nat) (hKs : Kept qs fu s) : Kept qs fu (saturate s id) := by
  unfold saturate
  (repeat' (first | with_reducible assumption
                  | with_reducible (first | apply kept_bump | apply kept_put | apply kept_record)))

theorem kept_execCalSelf (p : Pkt) {s : State} (hKs : Kept qs fu s) : KeptAns qs fu (execCalSelf p s) := by
  unfold execCalSelf
  (repeat' (first | with_reducible assumption
                  | with_reducible (first | apply Kept_if | apply KeptRes_if | apply KeptAns_if | apply kept_refuse
                                          | apply kept_runCmd) | (with_reducible apply Kept_foldl; intro _ _ _)
                  | simp only [Kept_mk, KeptAt_self, KeptRes_done, KeptRes_later, KeptAns_next] | split | intro _))

theorem kept_execCalSelfDone (src : Src) (tag : Nat) (found : SelfFound) {s : State} (hKs : Kept qs fu s)
    : KeptAns qs fu (execCalSelfDone src tag found s) := by
  unfold execCalSelfDone
  (repeat' (first | with_reducible assumption
                  | with_reducible (first | apply Kept_if | apply KeptAns_if | apply kept_complete | apply kept_put
                                          | apply kept_done | apply kept_record | apply kept_saturate | apply kept_takeOffsets
                                          | apply kept_writeCal) | (with_reducible apply Kept_foldl; intro _ _ _)
                  | simp only [Kept_mk, KeptAt_self, KeptAns_next] | split | intro _))

theorem kept_startSys {s : State} (p : Pkt) (n : Nat) (full : Option Int) (hKs : Kept qs fu s)
    : KeptRes qs fu (startSys s p n full) := by
  unfold startSys
  (repeat' (first | with_reducible assumption | with_reducible (first | apply Kept_if | apply KeptRes_if | apply kept_refuse)
                  | (with_reducible apply Kept_foldl; intro _ _ _)
                  | simp only [Kept_mk, KeptAt_self, KeptRes_done, KeptRes_later] | split | intro _))

theorem kept_execCalSysZero (p : Pkt) {s : State} (hKs : Kept qs fu s) : KeptAns qs fu (execCalSysZero p s) := by
  unfold execCalSysZero
  (repeat' (first | with_reducible assumption | with_reducible (first | apply kept_runCmd | apply kept_startSys)))

theorem kept_execCalSysFull (p : Pkt) {s : State} (hKs : Kept qs fu s) : KeptAns qs fu (execCalSysFull p s) := by
  unfold execCalSysFull
  (repeat' (first | with_reducible assumption | with_reducible (first | apply kept_runCmd | apply kept_startSys)))

theorem kept_execCalSysInputsTaken (mean : Int) {s : State} (hKs : Kept qs fu s)
    : KeptAns qs fu (execCalSysInputsTaken mean s) := by
  unfold execCalSysInputsTaken
  (repeat' (first | with_reducible assumption
                  | with_reducible (first | apply Kept_if | apply KeptAns_if | apply kept_complete | apply kept_put
                                          | apply kept_done | apply kept_saturate | apply kept_writeCal)
                  | (with_reducible apply Kept_foldl; intro _ _ _) | simp only [Kept_mk, KeptAt_self, KeptAns_next] | split
                  | intro _))

theorem kept_execCalSysTimeout {s : State} (hKs : Kept qs fu s) : KeptAns qs fu (execCalSysTimeout s) := by
  unfold execCalSysTimeout
  (repeat' (first | with_reducible assumption
                  | with_reducible (first | apply Kept_if | apply KeptAns_if | apply kept_complete | apply kept_done)
                  | (with_reducible apply Kept_foldl; intro _ _ _) | simp only [Kept_mk, KeptAt_self, KeptAns_next] | split
                  | intro _))

theorem kept_execCalCertRead (p : Pkt) (_wr : Option HostFault) {s : State} (hKs : Kept qs fu s)
    : KeptAns qs fu (execCalCertRead p _wr s) := by
  unfold execCalCertRead
  (repeat' (first | with_reducible assumption
                  | with_reducible (first | apply Kept_if | apply KeptRes_if | apply KeptAns_if | apply kept_hostPut
                                          | apply kept_ok | apply kept_refuse | apply kept_runCmd)
                  | (with_reducible apply Kept_foldl; intro _ _ _)
                  | simp only [Kept_mk, KeptAt_self, KeptRes_done, KeptRes_later, KeptAns_next] | split | intro _))

theorem kept_restoreImage {s : State} (ws : List Nat) (hKs : Kept qs fu s) : KeptRes qs fu (restoreImage s ws) := by
  unfold restoreImage
  (repeat' (first | with_reducible assumption
                  | with_reducible (first | apply Kept_if | apply KeptRes_if | apply kept_done | apply kept_refuse
                                          | apply kept_writeCal) | (with_reducible apply Kept_foldl; intro _ _ _)
                  | simp only [Kept_mk, KeptAt_self, KeptRes_done, KeptRes_later] | split | intro _))

theorem kept_execCalCertLoad (p : Pkt) {s : State} (hKs : Kept qs fu s) : KeptAns qs fu (execCalCertLoad p s) := by
  unfold execCalCertLoad
  (repeat' (first | with_reducible assumption
                  | with_reducible (first | apply Kept_if | apply KeptRes_if | apply KeptAns_if | apply kept_record
                                          | apply kept_refuse | apply kept_restoreImage | apply kept_runCmd)
                  | (with_reducible apply Kept_foldl; intro _ _ _)
                  | simp only [Kept_mk, KeptAt_self, KeptRes_done, KeptRes_later, KeptAns_next] | split | intro _))

theorem kept_execCalSave (p : Pkt) (_wr : Option HostFault) {s : State} (hKs : Kept qs fu s)
    : KeptAns qs fu (execCalSave p _wr s) := by
  unfold execCalSave
  (repeat' (first | with_reducible assumption
                  | with_reducible (first | apply Kept_if | apply KeptRes_if | apply KeptAns_if | apply kept_hostPut
                                          | apply kept_ok | apply kept_refuse | apply kept_runCmd)
                  | (with_reducible apply Kept_foldl; intro _ _ _)
                  | simp only [Kept_mk, KeptAt_self, KeptRes_done, KeptRes_later, KeptAns_next] | split | intro _))

theorem kept_execCalRestore (p : Pkt) (d : HostData) {s : State} (hKs : Kept qs fu s)
    : KeptAns qs fu (execCalRestore p d s) := by
  unfold execCalRestore
  (repeat' (first | with_reducible assumption
                  | with_reducible (first | apply Kept_if | apply KeptRes_if | apply KeptAns_if | apply kept_done
                                          | apply kept_refuse | apply kept_restoreImage | apply kept_runCmd
                                          | apply kept_withData) | (with_reducible apply Kept_foldl; intro _ _ _)
                  | simp only [Kept_mk, KeptAt_self, KeptRes_done, KeptRes_later, KeptAns_next] | split | intro _))

theorem kept_refDeviation {s : State} (measured : Int) (hKs : Kept qs fu s) : Kept qs fu (refDeviation s measured).2 := by
  unfold refDeviation
  (repeat' (first | with_reducible assumption | with_reducible (first | apply Kept_if | apply kept_drawInt)
                  | (with_reducible apply Kept_foldl; intro _ _ _) | simp only [Kept_mk, KeptAt_self] | split | intro _
                  | refine Kept.snd ?_ (by assumption)))

theorem kept_execRefTrack (measured : Int) {s : State} (hKs : Kept qs fu s) : KeptAns qs fu (execRefTrack measured s) := by
  unfold execRefTrack
  (repeat' (first | with_reducible assumption
                  | with_reducible (first | apply Kept_if | apply KeptAns_if | apply kept_put | apply kept_done
                                          | apply kept_recordHits | apply kept_refDeviation)
                  | (with_reducible apply Kept_foldl; intro _ _ _) | simp only [Kept_mk, KeptAt_self, KeptAns_next] | split
                  | intro _ | refine Kept.snd ?_ (by assumption)))

end Sys2Proof.Machine
end

