-- ==== Sys2Proof/Laws/KeptStream.lean ====
section
/-!
SUPPORT. What each function keeps (the queue, the canonical form, a blown fuse): streams, pins, sequencers.
-/
set_option linter.unusedTactic false
set_option linter.unreachableTactic false
set_option linter.unusedSimpArgs false
namespace Sys2Proof.Machine
variable {qs : List Instr} {fu : Bool}

theorem kept_awaitXlt {s : State} (n : Nat) (hKs : Kept qs fu s) : Kept qs fu (awaitXlt s n) := by
  unfold awaitXlt; (repeat' (first | with_reducible assumption | with_reducible (first | apply kept_setStream)))

theorem kept_awaitWalk {s : State} (w : Waiter) (ctx va : Nat) (hKs : Kept qs fu s) : Kept qs fu (awaitWalk s w ctx va) := by
  unfold awaitWalk
  (repeat' (first | with_reducible assumption
                  | with_reducible (first | apply Kept_if | apply kept_emit | apply kept_setWalk | apply kept_awaitXlt)
                  | (with_reducible apply Kept_foldl; intro _ _ _) | simp only [Kept_mk, KeptAt_self] | split | intro _))

/-- What a transfer finds on the bus is kept. -/
def KeptReach (qs : List Instr) (fu : Bool) : Reach → Prop
  | .go _ => True
  | .wait s => Kept qs fu s
  | .fail s _ => Kept qs fu s

theorem kept_reachBus {s : State} (w : Waiter) (ctx va : Nat) (write : Bool) (hKs : Kept qs fu s) :
    KeptReach qs fu (reachBus s w ctx va write) := by
  unfold reachBus
  split
  · exact kept_xltFault _ _ _ _ (kept_spendInjected _ hKs)
  · split
    · trivial
    · exact kept_xltFault _ _ _ _ hKs
    · dsimp only
      split
      · exact kept_xltFault _ _ _ _ (kept_tally _ _ _ _ hKs)
      · exact kept_awaitWalk _ _ _ (kept_tally _ _ _ _ hKs)

/-- What waits for a translation is kept. -/
theorem kept_reachWait {s t : State} {w : Waiter} {ctx va : Nat} {write : Bool} (hKs : Kept qs fu s)
    (e : reachBus s w ctx va write = .wait t) : Kept qs fu t := by
  have h := kept_reachBus (qs := qs) (fu := fu) w ctx va write hKs
  rw [e] at h
  exact h

/-- What faults is kept. -/
theorem kept_reachFail {s t : State} {w : Waiter} {ctx va : Nat} {write : Bool} {f : HostFault} (hKs : Kept qs fu s)
    (e : reachBus s w ctx va write = .fail t f) : Kept qs fu t := by
  have h := kept_reachBus (qs := qs) (fu := fu) w ctx va write hKs
  rw [e] at h
  exact h

theorem kept_reachWrite {s t : State} (n : Nat) (hKs : Kept qs fu s) (e : reachWrite s n = .error t) : Kept qs fu t := by
  have hb := kept_reachBus (qs := qs) (fu := fu) (.stream n) (s.rdN STM.CTX n) (nextAddr s n) true hKs
  unfold reachWrite at e
  simp only [] at e
  split at e
  · cases e
    exact kept_parkStream _ _ _ _ (kept_setStream _ _ hKs)
  · split at e
    · cases e
    · split at e <;> rename_i heq <;> rw [heq] at hb <;> cases e
      · exact hb
      · exact kept_parkStream _ _ _ _ hb

theorem kept_streamIrq {s : State} (n : Nat) (hKs : Kept qs fu s) : Kept qs fu (streamIrq s n) := by
  unfold streamIrq
  (repeat' (first | with_reducible assumption
                  | with_reducible (first | apply Kept_if | apply kept_raise | apply kept_setStream)
                  | (with_reducible apply Kept_foldl; intro _ _ _) | simp only [Kept_mk, KeptAt_self] | split | intro _))

theorem kept_indexDone {s : State} (n : Nat) (hKs : Kept qs fu s) : Kept qs fu (indexDone s n) := by
  unfold indexDone
  (repeat' (first | with_reducible assumption
                  | with_reducible (first | apply Kept_if | apply kept_put | apply kept_setStream | apply kept_flushCheck
                                          | apply kept_freeSlot | apply kept_restGroup | apply kept_stopCheck
                                          | apply kept_streamIrq) | (with_reducible apply Kept_foldl; intro _ _ _)
                  | simp only [Kept_mk, KeptAt_self] | split | intro _))

theorem kept_dataIssued {s : State} (n : Nat) (hKs : Kept qs fu s) : Kept qs fu (dataIssued s n) := by
  unfold dataIssued; (repeat' (first | with_reducible assumption | with_reducible (first | apply kept_setStream)))

theorem kept_forwardUnit {s : State} (n : Nat) (d : Nat × Nat) (ws : List Nat) (hKs : Kept qs fu s)
    : Kept qs fu (forwardUnit s n d ws) := by
  unfold forwardUnit
  (repeat' (first | with_reducible assumption | with_reducible (first | apply kept_frameTo | apply kept_awaitXlt)))

theorem kept_forwardDone {s : State} (n : Nat) (hKs : Kept qs fu s) : Kept qs fu (forwardDone s n) := by
  unfold forwardDone
  (repeat' (first | with_reducible assumption
                  | with_reducible (first | apply Kept_if | apply kept_setStream | apply kept_dataIssued
                                          | apply kept_indexDone) | (with_reducible apply Kept_foldl; intro _ _ _)
                  | simp only [Kept_mk, KeptAt_self] | split | intro _))

theorem kept_issueIndex {s : State} (n addr : Nat) (hKs : Kept qs fu s) : Kept qs fu (issueIndex s n addr) := by
  unfold issueIndex
  (repeat' (first | with_reducible assumption
                  | with_reducible (first | apply Kept_if | apply kept_request | apply kept_forwardUnit
                                          | apply kept_indexDone) | (with_reducible apply Kept_foldl; intro _ _ _)
                  | simp only [Kept_mk, KeptAt_self] | split | intro _))

theorem kept_issueData {s : State} (n addr : Nat) (media : Bool) (hKs : Kept qs fu s)
    : Kept qs fu (issueData s n addr media) := by
  unfold issueData
  (repeat' (first | with_reducible assumption
                  | with_reducible (first | apply Kept_if | apply kept_request | apply kept_setStream | apply kept_dataIssued
                                          | apply kept_flushCheck | apply kept_forwardUnit | apply kept_loseBlock
                                          | apply kept_restGroup | apply kept_stopCheck)
                  | (with_reducible apply Kept_foldl; intro _ _ _) | simp only [Kept_mk, KeptAt_self] | split | intro _))

theorem kept_setXfer {s : State} (x : Xfer) (hKs : Kept qs fu s) : Kept qs fu (setXfer s x) := by
  cases x <;> (unfold setXfer; (repeat' (first | with_reducible assumption | with_reducible (first | apply Kept_if)
                                               | (with_reducible apply Kept_foldl; intro _ _ _)
                                               | simp only [Kept_mk, KeptAt_self] | split | intro _)))

theorem kept_dropXfer {s : State} (w : Waiter) (hKs : Kept qs fu s) : Kept qs fu (dropXfer s w) := by
  exact hKs

theorem kept_unitDone {s : State} (x : Xfer) (hKs : Kept qs fu s) : Kept qs fu (unitDone s x) := by
  cases x <;> (unfold unitDone; (repeat' (first | with_reducible assumption
                                                | with_reducible (first | apply Kept_if | apply kept_frameTo
                                                                        | apply kept_dropXfer | apply kept_hostFaulted
                                                                        | apply kept_setXfer | apply kept_xferEnds)
                                                | (with_reducible apply Kept_foldl; intro _ _ _)
                                                | simp only [Kept_mk, KeptAt_self] | split | intro _)))

theorem kept_xferFails {s : State} (x : Xfer) (f : HostFault) (hKs : Kept qs fu s) : Kept qs fu (xferFails s x f) := by
  unfold xferFails
  (repeat' (first | with_reducible assumption
                  | with_reducible (first | apply Kept_if | apply KeptRes_if | apply kept_frameTo | apply kept_dropXfer
                                          | apply kept_finish | apply kept_refuse | apply kept_setXfer)
                  | (with_reducible apply Kept_foldl; intro _ _ _)
                  | simp only [Kept_mk, KeptAt_self, KeptRes_done, KeptRes_later] | split | intro _))

theorem kept_issueUnit {s : State} (x : Xfer) (hKs : Kept qs fu s) : Kept qs fu (issueUnit s x) := by
  unfold issueUnit
  simp only []
  split
  · exact kept_frameTo _ _ _ _ _ (kept_setXfer _ hKs)
  · have hb := kept_reachBus (qs := qs) (fu := fu) x.who x.ctx x.addr x.write hKs
    split <;> rename_i heq <;> rw [heq] at hb
    · exact kept_unitDone _ (kept_request _ _ hKs)
    · exact hb
    · exact kept_xferFails _ _ hb

theorem kept_issueStream {s : State} (n : Nat) (media : Bool) (hKs : Kept qs fu s) : Kept qs fu (issueStream s n media) := by
  unfold issueStream
  split
  · exact kept_reachWrite n hKs (by assumption)
  · exact Kept_if (kept_issueIndex _ _ hKs) (kept_issueData _ _ _ hKs)

theorem kept_issueFor {s : State} (media : Bool) (x : Waiter) (hKs : Kept qs fu s) : Kept qs fu (issueFor s media x) := by
  cases x <;> (unfold issueFor; (repeat' (first | with_reducible assumption
                                                | with_reducible (first | apply Kept_if | apply kept_issueStream
                                                                        | apply kept_issueUnit)
                                                | (with_reducible apply Kept_foldl; intro _ _ _)
                                                | simp only [Kept_mk, KeptAt_self] | split | intro _)))

theorem kept_execDmaUnitIssue (media : Bool) {s : State} (hKs : Kept qs fu s) : KeptAns qs fu (execDmaUnitIssue media s) := by
  unfold execDmaUnitIssue
  (repeat' (first | with_reducible assumption
                  | with_reducible (first | apply Kept_if | apply KeptAns_if | apply kept_done | apply kept_issueFor)
                  | (with_reducible apply Kept_foldl; intro _ _ _) | simp only [Kept_mk, KeptAt_self, KeptAns_next] | split
                  | intro _))

theorem kept_retryStream {s : State} (n : Nat) (hKs : Kept qs fu s) : Kept qs fu (retryStream s n) := by
  unfold retryStream
  apply Kept_if (kept_unpark _ hKs)
  split
  · exact kept_unpark _ hKs
  · exact kept_reachWrite n hKs (by assumption)

theorem kept_overtake {s : State} (n : Nat) (hKs : Kept qs fu s) : Kept qs fu (overtake s n) := by
  exact hKs

theorem kept_resumeStream {s : State} (n : Nat) (hKs : Kept qs fu s) : Kept qs fu (resumeStream s n) := by
  unfold resumeStream
  (repeat' (first | with_reducible assumption
                  | with_reducible (first | apply Kept_if | apply kept_setStream | apply kept_retryStream)
                  | (with_reducible apply Kept_foldl; intro _ _ _) | simp only [Kept_mk, KeptAt_self] | split | intro _))

theorem kept_ringFails {s : State} (q : Nat) (hKs : Kept qs fu s) : Kept qs fu (ringFails s q) := by
  unfold ringFails
  (repeat' (first | with_reducible assumption | with_reducible (first | apply Kept_if | apply kept_setSq | apply kept_record)
                  | (with_reducible apply Kept_foldl; intro _ _ _) | simp only [Kept_mk, KeptAt_self] | split | intro _))

theorem kept_postFails {s : State} (q : Nat) (hKs : Kept qs fu s) : Kept qs fu (postFails s q) := by
  unfold postFails
  (repeat' (first | with_reducible assumption | with_reducible (first | apply Kept_if | apply kept_setCq | apply kept_record)
                  | (with_reducible apply Kept_foldl; intro _ _ _) | simp only [Kept_mk, KeptAt_self] | split | intro _))

theorem kept_waiterFails {s : State} (f : HostFault) (x : Waiter) (hKs : Kept qs fu s) : Kept qs fu (waiterFails s f x) := by
  cases x <;> (unfold waiterFails; (repeat' (first | with_reducible assumption
                                                   | with_reducible (first | apply Kept_if | apply kept_parkStream
                                                                           | apply kept_postFails | apply kept_ringFails
                                                                           | apply kept_xferFails)
                                                   | (with_reducible apply Kept_foldl; intro _ _ _)
                                                   | simp only [Kept_mk, KeptAt_self] | split | intro _)))

theorem kept_waiterResumes {s : State} (x : Waiter) (hKs : Kept qs fu s) : Kept qs fu (waiterResumes s x) := by
  cases x <;> (unfold waiterResumes; (repeat' (first | with_reducible assumption
                                                     | with_reducible (first | apply Kept_if | apply kept_resumeStream)
                                                     | (with_reducible apply Kept_foldl; intro _ _ _)
                                                     | simp only [Kept_mk, KeptAt_self] | split | intro _)))

theorem kept_walkFails {s : State} (ctx : Nat) (w : WalkRun) (f : HostFault) (hit : Waiter → Bool) (hKs : Kept qs fu s)
    : Kept qs fu (walkFails s ctx w f hit) := by
  unfold walkFails
  (repeat' (first | with_reducible assumption
                  | with_reducible (first | apply Kept_if | apply kept_setWalk | apply kept_hostFaulted
                                          | apply kept_waiterFails | apply kept_waiterResumes)
                  | (with_reducible apply Kept_foldl; intro _ _ _) | simp only [Kept_mk, KeptAt_self] | split | intro _))

theorem kept_walkEnds {s : State} (ctx : Nat) (w : WalkRun) (ps : List Page) (hKs : Kept qs fu s)
    : Kept qs fu (walkEnds s ctx w ps) := by
  unfold walkEnds
  (repeat' (first | with_reducible assumption
                  | with_reducible (first | apply Kept_if | apply kept_setWalk | apply kept_cachePage
                                          | apply kept_waiterResumes) | (with_reducible apply Kept_foldl; intro _ _ _)
                  | simp only [Kept_mk, KeptAt_self] | split | intro _))

theorem kept_cacheWalk {s : State} (e : WalkEnt) (hKs : Kept qs fu s) : Kept qs fu (cacheWalk s e) := by
  exact hKs

theorem kept_execWalkReadCompletion (ctx : Nat) (entry : HostEntry) {s : State} (hKs : Kept qs fu s)
    : KeptAns qs fu (execWalkReadCompletion ctx entry s) := by
  unfold execWalkReadCompletion
  (repeat' (first | with_reducible assumption
                  | with_reducible (first | apply Kept_if | apply KeptAns_if | apply kept_emit | apply kept_setWalk
                                          | apply kept_cacheWalk | apply kept_done | apply kept_walkEnds
                                          | apply kept_walkFails) | (with_reducible apply Kept_foldl; intro _ _ _)
                  | simp only [Kept_mk, KeptAt_self, KeptAns_next] | split | intro _))

theorem kept_execAtsTranslationCompletion_deny (ctx : Nat) {s : State} (w : WalkRun) (hit : Waiter → Bool)
    (hKs : Kept qs fu s) :
    Kept qs fu (execAtsTranslationCompletion.deny ctx s w hit) := by
  unfold execAtsTranslationCompletion.deny
  dsimp only
  refine Kept_if (kept_emit _ ?_) ?_
  · simp only [Kept_mk, KeptAt_self]
    exact kept_walkFails _ _ _ _ hKs
  · exact kept_walkFails _ _ _ _ hKs

theorem kept_execAtsTranslationCompletion (ctx : Nat) (va : Nat) (res : Option AtsGrant) {s : State} (hKs : Kept qs fu s)
    : KeptAns qs fu (execAtsTranslationCompletion ctx va res s) := by
  unfold execAtsTranslationCompletion
  (repeat' (first | with_reducible assumption
                  | with_reducible (first | apply Kept_if | apply KeptAns_if | apply kept_emit | apply kept_done
                                          | apply kept_execAtsTranslationCompletion_deny | apply kept_walkEnds
                                          | apply kept_walkFails) | (with_reducible apply Kept_foldl; intro _ _ _)
                  | simp only [Kept_mk, KeptAt_self, KeptAns_next] | split | intro _))

theorem kept_execPriResponse (ctx : Nat) (success : Bool) {s : State} (hKs : Kept qs fu s)
    : KeptAns qs fu (execPriResponse ctx success s) := by
  unfold execPriResponse
  (repeat' (first | with_reducible assumption
                  | with_reducible (first | apply Kept_if | apply KeptAns_if | apply kept_done | apply kept_parkStream
                                          | apply kept_restGroup | apply kept_retryStream | apply kept_xltFault)
                  | (with_reducible apply Kept_foldl; intro _ _ _) | simp only [Kept_mk, KeptAt_self, KeptAns_next] | split
                  | intro _))

theorem kept_execAtsInvalidation (ctx : Nat) (addr size : Nat) {s : State} (hKs : Kept qs fu s)
    : KeptAns qs fu (execAtsInvalidation ctx addr size s) := by
  unfold execAtsInvalidation
  (repeat' (first | with_reducible assumption
                  | with_reducible (first | apply Kept_if | apply KeptAns_if | apply kept_emit | apply kept_done
                                          | apply kept_staleWalk) | (with_reducible apply Kept_foldl; intro _ _ _)
                  | simp only [Kept_mk, KeptAt_self, KeptAns_next] | split | intro _))

theorem kept_serviceFaults (svc : Service) {s : State} (ctx : Nat) (hKs : Kept qs fu s)
    : Kept qs fu (serviceFaults svc s ctx) := by
  unfold serviceFaults
  (repeat' (first | with_reducible assumption
                  | with_reducible (first | apply Kept_if | apply kept_parkStream | apply kept_walkFails
                                          | apply kept_xltFault) | (with_reducible apply Kept_foldl; intro _ _ _)
                  | simp only [Kept_mk, KeptAt_self] | split | intro _))

theorem kept_disableService {s : State} (svc : Service) (hKs : Kept qs fu s) : Kept qs fu (disableService s svc) := by
  unfold disableService
  (repeat' (first | with_reducible assumption | with_reducible (first | apply Kept_if | apply kept_serviceFaults)
                  | (with_reducible apply Kept_foldl; intro _ _ _) | simp only [Kept_mk, KeptAt_self] | split | intro _))

theorem kept_execTranslationServiceDisable (svc : Service) {s : State} (hKs : Kept qs fu s)
    : KeptAns qs fu (execTranslationServiceDisable svc s) := by
  unfold execTranslationServiceDisable
  (repeat' (first | with_reducible assumption | with_reducible (first | apply kept_disableService | apply kept_done)))

theorem kept_execStmConfig (p : Pkt) {s : State} (hKs : Kept qs fu s) : KeptAns qs fu (execStmConfig p s) := by
  unfold execStmConfig
  (repeat' (first | with_reducible assumption
                  | with_reducible (first | apply Kept_if | apply KeptRes_if | apply KeptAns_if | apply kept_put
                                          | apply kept_setStream | apply kept_ok | apply kept_refuse | apply kept_runCmd)
                  | (with_reducible apply Kept_foldl; intro _ _ _)
                  | simp only [Kept_mk, KeptAt_self, KeptRes_done, KeptRes_later, KeptAns_next] | split | intro _))

theorem kept_resolveStream {s : State} (p : Pkt) (n : Nat) (hKs : Kept qs fu s) : KeptRes qs fu (resolveStream s p n) := by
  unfold resolveStream
  (repeat' (first | with_reducible assumption
                  | with_reducible (first | apply Kept_if | apply KeptRes_if | apply kept_setStream | apply kept_overtake
                                          | apply kept_retryStream) | (with_reducible apply Kept_foldl; intro _ _ _)
                  | simp only [Kept_mk, KeptAt_self, KeptRes_done, KeptRes_later] | split | intro _))

theorem kept_execStmStart (p : Pkt) {s : State} (hKs : Kept qs fu s) : KeptAns qs fu (execStmStart p s) := by
  unfold execStmStart
  (repeat' (first | with_reducible assumption
                  | with_reducible (first | apply Kept_if | apply KeptRes_if | apply KeptAns_if | apply kept_put
                                          | apply kept_setStream | apply kept_ok | apply kept_refuse
                                          | apply kept_resolveStream | apply kept_runCmd)
                  | (with_reducible apply Kept_foldl; intro _ _ _)
                  | simp only [Kept_mk, KeptAt_self, KeptRes_done, KeptRes_later, KeptAns_next] | split | intro _))

theorem kept_execStmStop (p : Pkt) {s : State} (hKs : Kept qs fu s) : KeptAns qs fu (execStmStop p s) := by
  unfold execStmStop
  (repeat' (first | with_reducible assumption
                  | with_reducible (first | apply Kept_if | apply KeptRes_if | apply KeptAns_if | apply kept_put
                                          | apply kept_setStream | apply kept_closeBlock | apply kept_endStop | apply kept_ok
                                          | apply kept_refuse | apply kept_runCmd | apply kept_stopCheck
                                          | apply kept_unbecalm) | (with_reducible apply Kept_foldl; intro _ _ _)
                  | simp only [Kept_mk, KeptAt_self, KeptRes_done, KeptRes_later, KeptAns_next] | split | intro _))

theorem kept_execStmFlush (p : Pkt) {s : State} (hKs : Kept qs fu s) : KeptAns qs fu (execStmFlush p s) := by
  unfold execStmFlush
  (repeat' (first | with_reducible assumption
                  | with_reducible (first | apply Kept_if | apply KeptRes_if | apply KeptAns_if | apply kept_setStream
                                          | apply kept_closeBlock | apply kept_done | apply kept_flushCheck | apply kept_ok
                                          | apply kept_refuse | apply kept_runCmd)
                  | (with_reducible apply Kept_foldl; intro _ _ _)
                  | simp only [Kept_mk, KeptAt_self, KeptRes_done, KeptRes_later, KeptAns_next] | split | intro _))

theorem kept_execStmResolve (p : Pkt) {s : State} (hKs : Kept qs fu s) : KeptAns qs fu (execStmResolve p s) := by
  unfold execStmResolve
  (repeat' (first | with_reducible assumption
                  | with_reducible (first | apply Kept_if | apply KeptRes_if | apply KeptAns_if | apply kept_refuse
                                          | apply kept_resolveStream | apply kept_runCmd)
                  | (with_reducible apply Kept_foldl; intro _ _ _)
                  | simp only [Kept_mk, KeptAt_self, KeptRes_done, KeptRes_later, KeptAns_next] | split | intro _))

theorem kept_execXltInvalidate (p : Pkt) {s : State} (hKs : Kept qs fu s) : KeptAns qs fu (execXltInvalidate p s) := by
  unfold execXltInvalidate
  (repeat' (first | with_reducible assumption
                  | with_reducible (first | apply Kept_if | apply KeptRes_if | apply KeptAns_if | apply kept_dropPages
                                          | apply kept_ok | apply kept_refuse | apply kept_runCmd)
                  | (with_reducible apply Kept_foldl; intro _ _ _)
                  | simp only [Kept_mk, KeptAt_self, KeptRes_done, KeptRes_later, KeptAns_next] | split | intro _))

theorem kept_execStreamRecordArrive (group : Nat) {s : State} (hKs : Kept qs fu s)
    : KeptAns qs fu (execStreamRecordArrive group s) := by
  unfold execStreamRecordArrive
  (repeat' (first | with_reducible assumption
                  | with_reducible (first | apply Kept_if | apply KeptAns_if | apply kept_setGroup | apply kept_done
                                          | apply kept_place | apply kept_restGroup)
                  | (with_reducible apply Kept_foldl; intro _ _ _) | simp only [Kept_mk, KeptAt_self, KeptAns_next] | split
                  | intro _))

theorem kept_execBlockAgeExpiry (st : Nat) {s : State} (hKs : Kept qs fu s) : KeptAns qs fu (execBlockAgeExpiry st s) := by
  unfold execBlockAgeExpiry
  (repeat' (first | with_reducible assumption
                  | with_reducible (first | apply Kept_if | apply KeptAns_if | apply kept_closeBlock | apply kept_done)
                  | (with_reducible apply Kept_foldl; intro _ _ _) | simp only [Kept_mk, KeptAt_self, KeptAns_next] | split
                  | intro _))

theorem kept_takeReadIndex {s : State} (n value : Nat) (hKs : Kept qs fu s) : Kept qs fu (takeReadIndex s n value) := by
  unfold takeReadIndex
  (repeat' (first | with_reducible assumption | with_reducible (first | apply Kept_if | apply kept_put | apply kept_record)
                  | (with_reducible apply Kept_foldl; intro _ _ _) | simp only [Kept_mk, KeptAt_self] | split | intro _))

theorem kept_execRdIdxDoorbell (st value : Nat) {s : State} (hKs : Kept qs fu s)
    : KeptAns qs fu (execRdIdxDoorbell st value s) := by
  unfold execRdIdxDoorbell
  (repeat' (first | with_reducible assumption
                  | with_reducible (first | apply Kept_if | apply KeptAns_if | apply kept_done | apply kept_takeReadIndex)
                  | (with_reducible apply Kept_foldl; intro _ _ _) | simp only [Kept_mk, KeptAt_self, KeptAns_next] | split
                  | intro _))

theorem kept_execFwdRdIdxPoll (st value : Nat) {s : State} (hKs : Kept qs fu s)
    : KeptAns qs fu (execFwdRdIdxPoll st value s) := by
  unfold execFwdRdIdxPoll
  (repeat' (first | with_reducible assumption
                  | with_reducible (first | apply Kept_if | apply KeptAns_if | apply kept_frameTo | apply kept_setStream
                                          | apply kept_done | apply kept_takeReadIndex)
                  | (with_reducible apply Kept_foldl; intro _ _ _) | simp only [Kept_mk, KeptAt_self, KeptAns_next] | split
                  | intro _))

theorem kept_execDrvOvl (pin : Nat) {s : State} (hKs : Kept qs fu s) : KeptAns qs fu (execDrvOvl pin s) := by
  unfold execDrvOvl
  (repeat' (first | with_reducible assumption
                  | with_reducible (first | apply Kept_if | apply KeptAns_if | apply kept_done | apply kept_record
                                          | apply kept_recordEach) | (with_reducible apply Kept_foldl; intro _ _ _)
                  | simp only [Kept_mk, KeptAt_self, KeptAns_next] | split | intro _))

theorem kept_execPinOvervolt (pin : Nat) {s : State} (hKs : Kept qs fu s) : KeptAns qs fu (execPinOvervolt pin s) := by
  unfold execPinOvervolt
  (repeat' (first | with_reducible assumption
                  | with_reducible (first | apply Kept_if | apply KeptAns_if | apply kept_done | apply kept_outrank
                                          | apply kept_record) | (with_reducible apply Kept_foldl; intro _ _ _)
                  | simp only [Kept_mk, KeptAt_self, KeptAns_next] | split | intro _))

theorem kept_writePmuEn {s : State} (n : Nat) (v : Int) (hKs : Kept qs fu s) : KeptEx qs fu id (writePmuEn s n v) := by
  unfold writePmuEn
  (repeat' (first | with_reducible assumption
                  | with_reducible (first | apply Kept_if | apply KeptRes_if | apply KeptEx_if | apply kept_put
                                          | apply kept_setPin | apply kept_enterPin | apply kept_ok)
                  | (with_reducible apply Kept_foldl; intro _ _ _)
                  | simp only [Kept_mk, KeptAt_self, KeptRes_done, KeptRes_later, KeptEx_ok, KeptEx_error, id] | split
                  | intro _))

theorem kept_execPmuEnWrite (pin : Nat) (value : Int) {s : State} (hKs : Kept qs fu s)
    : KeptAns qs fu (execPmuEnWrite pin value s) := by
  unfold execPmuEnWrite
  (repeat' (first | with_reducible assumption
                  | with_reducible (first | apply Kept_if | apply KeptAns_if | apply kept_writePmuEn | apply kept_written)
                  | (with_reducible apply Kept_foldl; intro _ _ _) | simp only [Kept_mk, KeptAt_self, KeptAns_next] | split
                  | intro _ | refine KeptEx.state ?_ (by assumption)))

theorem kept_execPmuSwitchDone (pin : Nat) {s : State} (hKs : Kept qs fu s) : KeptAns qs fu (execPmuSwitchDone pin s) := by
  unfold execPmuSwitchDone
  (repeat' (first | with_reducible assumption
                  | with_reducible (first | apply Kept_if | apply KeptAns_if | apply kept_setPin | apply kept_done
                                          | apply kept_enterPin) | (with_reducible apply Kept_foldl; intro _ _ _)
                  | simp only [Kept_mk, KeptAt_self, KeptAns_next] | split | intro _))

theorem kept_chipCause {s : State} (chip code : Nat) (hKs : Kept qs fu s) : Kept qs fu (chipCause s chip code) := by
  unfold chipCause
  (repeat' (first | with_reducible assumption | with_reducible (first | apply Kept_if | apply kept_record)
                  | (with_reducible apply Kept_foldl; intro _ _ _) | simp only [Kept_mk, KeptAt_self] | split | intro _))

theorem kept_requestConv {s : State} (chip : Nat) (byEvent : Bool) (hKs : Kept qs fu s)
    : Kept qs fu (requestConv s chip byEvent) := by
  unfold requestConv
  (repeat' (first | with_reducible assumption
                  | with_reducible (first | apply Kept_if | apply kept_bump | apply kept_setConv | apply kept_chipCause
                                          | apply kept_consOverrun) | (with_reducible apply Kept_foldl; intro _ _ _)
                  | simp only [Kept_mk, KeptAt_self] | split | intro _))

theorem kept_writeAdcGo {s : State} (n : Nat) (hKs : Kept qs fu s) : KeptEx qs fu id (writeAdcGo s n) := by
  unfold writeAdcGo
  (repeat' (first | with_reducible assumption
                  | with_reducible (first | apply Kept_if | apply KeptRes_if | apply KeptEx_if | apply kept_ok
                                          | apply kept_requestConv) | (with_reducible apply Kept_foldl; intro _ _ _)
                  | simp only [Kept_mk, KeptAt_self, KeptRes_done, KeptRes_later, KeptEx_ok, KeptEx_error, id] | split
                  | intro _))

theorem kept_execAdcGo (chip : Nat) {s : State} (hKs : Kept qs fu s) : KeptAns qs fu (execAdcGo chip s) := by
  unfold execAdcGo
  (repeat' (first | with_reducible assumption
                  | with_reducible (first | apply Kept_if | apply KeptAns_if | apply kept_writeAdcGo | apply kept_written)
                  | (with_reducible apply Kept_foldl; intro _ _ _) | simp only [Kept_mk, KeptAt_self, KeptAns_next] | split
                  | intro _ | refine KeptEx.state ?_ (by assumption)))

theorem kept_execAdcEvRequest (chip : Nat) {s : State} (hKs : Kept qs fu s) : KeptAns qs fu (execAdcEvRequest chip s) := by
  unfold execAdcEvRequest
  (repeat' (first | with_reducible assumption
                  | with_reducible (first | apply Kept_if | apply KeptAns_if | apply kept_setCon | apply kept_done
                                          | apply kept_requestConv) | (with_reducible apply Kept_foldl; intro _ _ _)
                  | simp only [Kept_mk, KeptAt_self, KeptAns_next] | split | intro _))

theorem kept_execAdcSample (chip : Nat) (lim : Bool) {s : State} (hKs : Kept qs fu s)
    : KeptAns qs fu (execAdcSample chip lim s) := by
  unfold execAdcSample
  (repeat' (first | with_reducible assumption
                  | with_reducible (first | apply Kept_if | apply KeptAns_if | apply kept_setConv | apply kept_done)
                  | (with_reducible apply Kept_foldl; intro _ _ _) | simp only [Kept_mk, KeptAt_self, KeptAns_next] | split
                  | intro _))

theorem kept_execAdcResult (chip : Nat) (code : Int) {s : State} (hKs : Kept qs fu s)
    : KeptAns qs fu (execAdcResult chip code s) := by
  unfold execAdcResult
  (repeat' (first | with_reducible assumption
                  | with_reducible (first | apply Kept_if | apply KeptAns_if | apply kept_publish | apply kept_put
                                          | apply kept_clipped | apply kept_convEnds | apply kept_done)
                  | (with_reducible apply Kept_foldl; intro _ _ _) | simp only [Kept_mk, KeptAt_self, KeptAns_next] | split
                  | intro _))

theorem kept_execAdcFault (chip : Nat) {s : State} (hKs : Kept qs fu s) : KeptAns qs fu (execAdcFault chip s) := by
  unfold execAdcFault
  (repeat' (first | with_reducible assumption
                  | with_reducible (first | apply Kept_if | apply KeptAns_if | apply kept_chipCause | apply kept_convEnds
                                          | apply kept_done) | (with_reducible apply Kept_foldl; intro _ _ _)
                  | simp only [Kept_mk, KeptAt_self, KeptAns_next] | split | intro _))

theorem kept_selChanged {s : State} (chip : Nat) (hKs : Kept qs fu s) : Kept qs fu (selChanged s chip) := by
  unfold selChanged; (repeat' (first | with_reducible assumption | with_reducible (first | apply kept_setConv)))

theorem kept_execComparatorInputCrossing (cmp : Cmp) (above : Bool) {s : State} (hKs : Kept qs fu s)
    : KeptAns qs fu (execComparatorInputCrossing cmp above s) := by
  unfold execComparatorInputCrossing
  (repeat' (first | with_reducible assumption
                  | with_reducible (first | apply Kept_if | apply KeptAns_if | apply kept_setComp | apply kept_done
                                          | apply kept_windowOut) | (with_reducible apply Kept_foldl; intro _ _ _)
                  | simp only [Kept_mk, KeptAt_self, KeptAns_next] | split | intro _))

theorem kept_filterEdge {s : State} (c : Cmp) (hKs : Kept qs fu s) : Kept qs fu (filterEdge s c) := by
  unfold filterEdge
  (repeat' (first | with_reducible assumption
                  | with_reducible (first | apply Kept_if | apply kept_publish | apply kept_setComp)
                  | (with_reducible apply Kept_foldl; intro _ _ _) | simp only [Kept_mk, KeptAt_self] | split | intro _))

theorem kept_filterEdges (c : Cmp) (n : Nat) {s : State} (hKs : Kept qs fu s) : Kept qs fu (filterEdges c n s) := by
  induction n generalizing s with
  | zero => exact hKs
  | succ n ih =>
    exact ih (kept_filterEdge _ hKs)

theorem kept_execComparatorFilterAccept (cmp : Cmp) (edges : Nat) {s : State} (hKs : Kept qs fu s)
    : KeptAns qs fu (execComparatorFilterAccept cmp edges s) := by
  unfold execComparatorFilterAccept
  (repeat' (first | with_reducible assumption
                  | with_reducible (first | apply Kept_if | apply KeptAns_if | apply kept_done | apply kept_filterEdges)
                  | (with_reducible apply Kept_foldl; intro _ _ _) | simp only [Kept_mk, KeptAt_self, KeptAns_next] | split
                  | intro _))

theorem kept_execComparatorModeChangeDone (cmp : Cmp) {s : State} (hKs : Kept qs fu s)
    : KeptAns qs fu (execComparatorModeChangeDone cmp s) := by
  unfold execComparatorModeChangeDone
  (repeat' (first | with_reducible assumption
                  | with_reducible (first | apply Kept_if | apply KeptAns_if | apply kept_setComp | apply kept_done
                                          | apply kept_windowOut) | (with_reducible apply Kept_foldl; intro _ _ _)
                  | simp only [Kept_mk, KeptAt_self, KeptAns_next] | split | intro _))

theorem kept_writeCmpCtl {s : State} (c : Cmp) (put : Nat → State) (v : Nat) (hKs : Kept qs fu s)
    (hKput : ∀ y0 : Nat, Kept qs fu (put y0)) : KeptEx qs fu id (writeCmpCtl s c put v) := by
  unfold writeCmpCtl
  (repeat' (first | with_reducible assumption
                  | with_reducible (first | apply Kept_if | apply KeptRes_if | apply KeptEx_if | apply kept_setComp
                                          | apply kept_bandChanges | apply kept_modeChanges | apply kept_ok)
                  | (with_reducible apply Kept_foldl; intro _ _ _)
                  | simp only [Kept_mk, KeptAt_self, KeptRes_done, KeptRes_later, KeptEx_ok, KeptEx_error, id]
                  | split| apply hKput | intro _))

theorem kept_enterPass {s : State} (d seg pass : Nat) (hKs : Kept qs fu s) : Kept qs fu (enterPass s d seg pass) := by
  unfold enterPass
  (repeat' (first | with_reducible assumption | with_reducible (first | apply kept_put | apply kept_setSequencer)))

theorem kept_dropJump {s : State} (d : Nat) (hKs : Kept qs fu s) : Kept qs fu (dropJump s d) := by
  unfold dropJump
  (repeat' (first | with_reducible assumption | with_reducible (first | apply Kept_if | apply kept_bump | apply kept_record)
                  | (with_reducible apply Kept_foldl; intro _ _ _) | simp only [Kept_mk, KeptAt_self] | split | intro _))

theorem kept_enterHeld {s : State} (d : Nat) (next : Nat × Nat) (hKs : Kept qs fu s) : Kept qs fu (enterHeld s d next) := by
  unfold enterHeld
  (repeat' (first | with_reducible assumption
                  | with_reducible (first | apply Kept_if | apply kept_put | apply kept_setSeqSlot | apply kept_setSequencer
                                          | apply kept_holdHit | apply kept_parkPins | apply kept_stopCommits)
                  | (with_reducible apply Kept_foldl; intro _ _ _) | simp only [Kept_mk, KeptAt_self] | split | intro _))

theorem kept_seqPreempt {s : State} (d k : Nat) (next : Nat × Nat) (hKs : Kept qs fu s)
    : Kept qs fu (seqPreempt s d k next) := by
  unfold seqPreempt
  (repeat' (first | with_reducible assumption
                  | with_reducible (first | apply Kept_if | apply kept_put | apply kept_setSeqSlot | apply kept_setSequencer
                                          | apply kept_enterPass) | (with_reducible apply Kept_foldl; intro _ _ _)
                  | simp only [Kept_mk, KeptAt_self] | split | intro _))

theorem kept_passEnd {s : State} (d : Nat) (hKs : Kept qs fu s) : Kept qs fu (passEnd s d) := by
  unfold passEnd
  (repeat' (first | with_reducible assumption
                  | with_reducible (first | apply Kept_if | apply kept_dropJump | apply kept_endProgram | apply kept_enterHeld
                                          | apply kept_enterPass | apply kept_preempt | apply kept_seqPreempt)
                  | (with_reducible apply Kept_foldl; intro _ _ _) | simp only [Kept_mk, KeptAt_self] | split | intro _))

theorem kept_captureAsks {s : State} (d : Nat) (hKs : Kept qs fu s) : Kept qs fu (captureAsks s d) := by
  unfold captureAsks; (repeat' (first | with_reducible assumption | with_reducible (first | apply kept_setSequencer)))

theorem kept_playPin (d map data : Nat) (t : Ts) {a : State × List (Nat × Nat × Int)} (p : Nat)
    (hKa : Kept qs fu a.1) : Kept qs fu (playPin d map data t a p).1 := by
  unfold playPin
  simp only []
  split
  · exact hKa
  · exact kept_put _ _ _ (kept_setPin _ _ hKa)

theorem kept_putCapture {s : State} (d : Nat) (words : Bool → List Nat) (hKs : Kept qs fu s)
    : Kept qs fu (putCapture s d words) := by
  unfold putCapture
  (repeat' (first | with_reducible assumption
                  | with_reducible (first | apply Kept_if | apply kept_bump | apply kept_setSequencer | apply kept_tally
                                          | apply kept_record) | (with_reducible apply Kept_foldl; intro _ _ _)
                  | simp only [Kept_mk, KeptAt_self] | split | intro _))

theorem kept_compareVector {s : State} (d map : Nat) (w : VecWord) (t : Ts) (seen : List PinSeen) (hKs : Kept qs fu s)
    : Kept qs fu (compareVector s d map w t seen) := by
  unfold compareVector
  (repeat' (first | with_reducible assumption
                  | with_reducible (first | apply Kept_if | apply kept_bump | apply kept_setSequencer | apply kept_putCapture)
                  | (with_reducible apply Kept_foldl; intro _ _ _) | simp only [Kept_mk, KeptAt_self] | split | intro _))

theorem kept_failClock {s : State} (d : Nat) (hKs : Kept qs fu s) : Kept qs fu (failClock s d) := by
  unfold failClock
  (repeat' (first | with_reducible assumption
                  | with_reducible (first | apply Kept_if | apply kept_publish | apply kept_setSequencer)
                  | (with_reducible apply Kept_foldl; intro _ _ _) | simp only [Kept_mk, KeptAt_self] | split | intro _))

theorem kept_markVector {s : State} (d : Nat) (w : VecWord) (t : Ts) (hKs : Kept qs fu s)
    : Kept qs fu (markVector s d w t).1 := by
  unfold markVector
  (repeat' (first | with_reducible assumption | with_reducible (first | apply Kept_if | apply kept_publish)
                  | (with_reducible apply Kept_foldl; intro _ _ _) | simp only [Kept_mk, KeptAt_self] | split | intro _))

theorem kept_issueVector {s : State} (d map : Nat) (w : VecWord) (pad : Bool) (seen : List PinSeen)
    (hKs : Kept qs fu s) : Kept qs fu (issueVector s d map w pad seen) := by
  have fold : ∀ (t : Ts) (l : List Nat) (a : State × List (Nat × Nat × Int)), Kept qs fu a.1 →
      Kept qs fu (l.foldl (playPin d map w.data t) a).1 := by
    intro t l
    induction l with
    | nil => exact fun _ h => h
    | cons p l ih => exact fun a h => ih _ (kept_playPin d map w.data t p h)
  have h := fold ((s.sequencer d).ts (fld w.tag 0 5)) (List.range 128) (s, []) hKs
  unfold issueVector
  simp only []
  apply kept_tally
  apply kept_setSequencer
  have he : Kept qs fu (if pad then ((List.range 128).foldl (playPin d map w.data ((s.sequencer d).ts (fld w.tag 0 5))) (s,
      [])).1
      else (markVector ((List.range 128).foldl (playPin d map w.data ((s.sequencer d).ts (fld w.tag 0 5))) (s, [])).1 d w
        ((s.sequencer d).ts (fld w.tag 0 5))).1) := Kept_if h (kept_markVector _ _ _ h)
  cases pad <;> simp only [if_true, if_false, Bool.false_eq_true] at he ⊢
  · exact kept_compareVector _ _ _ _ _ (kept_failClock _ (kept_emit _ he))
  · exact kept_tally _ _ _ _ (kept_emit _ he)

theorem kept_padVector {s : State} (d i : Nat) (hKs : Kept qs fu s) : Kept qs fu (padVector s d i) := by
  unfold padVector
  (repeat' (first | with_reducible assumption
                  | with_reducible (first | apply Kept_if | apply kept_setSequencer | apply kept_captureAsks
                                          | apply kept_issueVector | apply kept_parkSeq | apply kept_record)
                  | (with_reducible apply Kept_foldl; intro _ _ _) | simp only [Kept_mk, KeptAt_self] | split | intro _))

theorem kept_issueNext {s : State} (d : Nat) (seen : List PinSeen) (hKs : Kept qs fu s) : Kept qs fu (issueNext s d seen) :=
    by
  unfold issueNext
  (repeat' (first | with_reducible assumption
                  | with_reducible (first | apply Kept_if | apply kept_put | apply kept_captureAsks | apply kept_issueVector
                                          | apply kept_padVector | apply kept_parkSeq | apply kept_record)
                  | (with_reducible apply Kept_foldl; intro _ _ _) | simp only [Kept_mk, KeptAt_self] | split | intro _))

theorem kept_beginPlay {s : State} (d : Nat) (hKs : Kept qs fu s) : Kept qs fu (beginPlay s d) := by
  unfold beginPlay
  (repeat' (first | with_reducible assumption
                  | with_reducible (first | apply Kept_if | apply kept_put | apply kept_setPin | apply kept_setSequencer
                                          | apply kept_enterPass) | (with_reducible apply Kept_foldl; intro _ _ _)
                  | simp only [Kept_mk, KeptAt_self] | split | intro _))

theorem kept_vectorClock {s : State} (d : Nat) (hKs : Kept qs fu s) : Kept qs fu (vectorClock s d) := by
  unfold vectorClock; (repeat' (first | with_reducible assumption | with_reducible (first | apply kept_setSequencer)))

theorem kept_applyCommits {s : State} (d t : Nat) (hKs : Kept qs fu s) : Kept qs fu (applyCommits s d t) := by
  unfold applyCommits
  (repeat' (first | with_reducible assumption
                  | with_reducible (first | apply Kept_if | apply kept_setSequencer | apply kept_commitSets)
                  | (with_reducible apply Kept_foldl; intro _ _ _) | simp only [Kept_mk, KeptAt_self] | split | intro _))

theorem kept_domBands {s : State} (d : Nat) (hKs : Kept qs fu s) : Kept qs fu (domBands s d) := by
  unfold domBands
  (repeat' (first | with_reducible assumption
                  | with_reducible (first | apply Kept_if | apply kept_bandChanges | apply kept_pinCodes)
                  | (with_reducible apply Kept_foldl; intro _ _ _) | simp only [Kept_mk, KeptAt_self] | split | intro _))

theorem kept_driversOn {s : State} (d : Nat) (on : Bool) (hKs : Kept qs fu s) : Kept qs fu (driversOn s d on) := by
  unfold driversOn
  (repeat' (first | with_reducible assumption | with_reducible (first | apply Kept_if | apply kept_setPin)
                  | (with_reducible apply Kept_foldl; intro _ _ _) | simp only [Kept_mk, KeptAt_self] | split | intro _))

theorem kept_driverBegins {s : State} (d : Nat) (hKs : Kept qs fu s) : Kept qs fu (driverBegins s d) := by
  unfold driverBegins
  (repeat' (first | with_reducible assumption | with_reducible (first | apply Kept_if | apply kept_put | apply kept_domBands)
                  | (with_reducible apply Kept_foldl; intro _ _ _) | simp only [Kept_mk, KeptAt_self] | split | intro _))

theorem kept_restoreRun {s : State} (r : LoopRun) (hKs : Kept qs fu s) : Kept qs fu (restoreRun s r) := by
  unfold restoreRun
  (repeat' (first | with_reducible assumption
                  | with_reducible (first | apply Kept_if | apply kept_putId | apply kept_domBands | apply kept_driversOn)
                  | (with_reducible apply Kept_foldl; intro _ _ _) | simp only [Kept_mk, KeptAt_self] | split | intro _))

theorem kept_driverVector {s : State} (d : Nat) (r : LoopRun) (seen : List PinSeen) (hKs : Kept qs fu s)
    : Kept qs fu (driverVector s d r seen) := by
  unfold driverVector
  (repeat' (first | with_reducible assumption
                  | with_reducible (first | apply Kept_if | apply kept_emit | apply kept_driversOn)
                  | (with_reducible apply Kept_foldl; intro _ _ _) | simp only [Kept_mk, KeptAt_self] | split | intro _))

theorem kept_execVectorStart (dom : Nat) (edge window : List PinSeen) {s : State} (hKs : Kept qs fu s)
    : KeptAns qs fu (execVectorStart dom edge window s) := by
  unfold execVectorStart
  (repeat' (first | with_reducible assumption
                  | with_reducible (first | apply Kept_if | apply KeptAns_if | apply kept_put | apply kept_setSequencer
                                          | apply kept_applyCommits | apply kept_beginPlay | apply kept_done
                                          | apply kept_driverVector | apply kept_issueNext | apply kept_padVector
                                          | apply kept_passEnd | apply kept_vectorClock)
                  | (with_reducible apply Kept_foldl; intro _ _ _) | simp only [Kept_mk, KeptAt_self, KeptAns_next] | split
                  | intro _))

theorem kept_domCmd (p : Pkt) {s : State} (bad : Nat → Bool) (k : Nat → Res) (hKs : Kept qs fu s)
    (hKk : ∀ y0 : Nat, KeptRes qs fu (k y0)) : KeptRes qs fu (domCmd p s bad k) := by
  unfold domCmd
  (repeat' (first | with_reducible assumption | with_reducible (first | apply Kept_if | apply KeptRes_if | apply kept_refuse)
                  | (with_reducible apply Kept_foldl; intro _ _ _)
                  | simp only [Kept_mk, KeptAt_self, KeptRes_done, KeptRes_later] | split| apply hKk | intro _))

theorem kept_storeVectors {s : State} (d gran : Nat) (vs : List VecWord) (hKs : Kept qs fu s)
    : Kept qs fu (storeVectors s d gran vs) := by
  unfold storeVectors; (repeat' (first | with_reducible assumption | with_reducible (first | apply kept_setSequencer)))

theorem kept_execSeqVecLoad (p : Pkt) (d : HostData) {s : State} (hKs : Kept qs fu s)
    : KeptAns qs fu (execSeqVecLoad p d s) := by
  unfold execSeqVecLoad
  (repeat' (first | with_reducible assumption
                  | with_reducible (first | apply Kept_if | apply KeptRes_if | apply KeptAns_if | apply kept_domCmd
                                          | apply kept_ok | apply kept_runCmd | apply kept_storeVectors | apply kept_withData)
                  | (with_reducible apply Kept_foldl; intro _ _ _)
                  | simp only [Kept_mk, KeptAt_self, KeptRes_done, KeptRes_later, KeptAns_next] | split | intro _))

theorem kept_execSeqSegWrite (p : Pkt) (d : HostData) {s : State} (hKs : Kept qs fu s)
    : KeptAns qs fu (execSeqSegWrite p d s) := by
  unfold execSeqSegWrite
  (repeat' (first | with_reducible assumption
                  | with_reducible (first | apply Kept_if | apply KeptRes_if | apply KeptAns_if | apply kept_setSequencer
                                          | apply kept_domCmd | apply kept_ok | apply kept_refuse | apply kept_runCmd
                                          | apply kept_withData) | (with_reducible apply Kept_foldl; intro _ _ _)
                  | simp only [Kept_mk, KeptAt_self, KeptRes_done, KeptRes_later, KeptAns_next] | split | intro _))

theorem kept_execSeqMapWrite (p : Pkt) {s : State} (hKs : Kept qs fu s) : KeptAns qs fu (execSeqMapWrite p s) := by
  unfold execSeqMapWrite
  (repeat' (first | with_reducible assumption
                  | with_reducible (first | apply Kept_if | apply KeptRes_if | apply KeptAns_if | apply kept_setSequencer
                                          | apply kept_domCmd | apply kept_ok | apply kept_runCmd)
                  | (with_reducible apply Kept_foldl; intro _ _ _)
                  | simp only [Kept_mk, KeptAt_self, KeptRes_done, KeptRes_later, KeptAns_next] | split | intro _))

theorem kept_execSeqParkWrite (p : Pkt) {s : State} (hKs : Kept qs fu s) : KeptAns qs fu (execSeqParkWrite p s) := by
  unfold execSeqParkWrite
  (repeat' (first | with_reducible assumption
                  | with_reducible (first | apply Kept_if | apply KeptRes_if | apply KeptAns_if | apply kept_setSequencer
                                          | apply kept_domCmd | apply kept_ok | apply kept_runCmd)
                  | (with_reducible apply Kept_foldl; intro _ _ _)
                  | simp only [Kept_mk, KeptAt_self, KeptRes_done, KeptRes_later, KeptAns_next] | split | intro _))

theorem kept_execSeqPinLoad (p : Pkt) {s : State} (hKs : Kept qs fu s) : KeptAns qs fu (execSeqPinLoad p s) := by
  unfold execSeqPinLoad
  (repeat' (first | with_reducible assumption
                  | with_reducible (first | apply Kept_if | apply KeptRes_if | apply KeptAns_if | apply kept_setSequencer
                                          | apply kept_domCmd | apply kept_ok | apply kept_refuse | apply kept_runCmd)
                  | (with_reducible apply Kept_foldl; intro _ _ _)
                  | simp only [Kept_mk, KeptAt_self, KeptRes_done, KeptRes_later, KeptAns_next] | split | intro _))

theorem kept_execTsWrite (p : Pkt) (d : HostData) {s : State} (hKs : Kept qs fu s) : KeptAns qs fu (execTsWrite p d s) := by
  unfold execTsWrite
  (repeat' (first | with_reducible assumption
                  | with_reducible (first | apply Kept_if | apply KeptRes_if | apply KeptAns_if | apply kept_setSequencer
                                          | apply kept_domCmd | apply kept_done | apply kept_ok | apply kept_runBlock)
                  | (with_reducible apply Kept_foldl; intro _ _ _)
                  | simp only [Kept_mk, KeptAt_self, KeptRes_done, KeptRes_later, KeptAns_next] | split | intro _))

theorem kept_execTsCommit (p : Pkt) {s : State} (hKs : Kept qs fu s) : KeptAns qs fu (execTsCommit p s) := by
  unfold execTsCommit
  (repeat' (first | with_reducible assumption
                  | with_reducible (first | apply Kept_if | apply KeptRes_if | apply KeptAns_if | apply kept_setSequencer
                                          | apply kept_applyTs | apply kept_domCmd | apply kept_ok | apply kept_refuse
                                          | apply kept_runCmd) | (with_reducible apply Kept_foldl; intro _ _ _)
                  | simp only [Kept_mk, KeptAt_self, KeptRes_done, KeptRes_later, KeptAns_next] | split | intro _))

theorem kept_execTsCommitBoundary (dom : Nat) {s : State} (hKs : Kept qs fu s)
    : KeptAns qs fu (execTsCommitBoundary dom s) := by
  unfold execTsCommitBoundary
  (repeat' (first | with_reducible assumption
                  | with_reducible (first | apply Kept_if | apply KeptAns_if | apply kept_applyCommits | apply kept_done
                                          | apply kept_stopCommits) | (with_reducible apply Kept_foldl; intro _ _ _)
                  | simp only [Kept_mk, KeptAt_self, KeptAns_next] | split | intro _))

theorem kept_execTsRead (p : Pkt) (_wr : Option HostFault) {s : State} (hKs : Kept qs fu s)
    : KeptAns qs fu (execTsRead p _wr s) := by
  unfold execTsRead
  (repeat' (first | with_reducible assumption
                  | with_reducible (first | apply Kept_if | apply KeptRes_if | apply KeptAns_if | apply kept_domCmd
                                          | apply kept_hostPut | apply kept_ok | apply kept_runCmd)
                  | (with_reducible apply Kept_foldl; intro _ _ _)
                  | simp only [Kept_mk, KeptAt_self, KeptRes_done, KeptRes_later, KeptAns_next] | split | intro _))

theorem kept_execSeqLoad (p : Pkt) {s : State} (hKs : Kept qs fu s) : KeptAns qs fu (execSeqLoad p s) := by
  unfold execSeqLoad
  (repeat' (first | with_reducible assumption
                  | with_reducible (first | apply Kept_if | apply KeptRes_if | apply KeptAns_if | apply kept_setSeqSlot
                                          | apply kept_wr | apply kept_domCmd | apply kept_ok | apply kept_refuse
                                          | apply kept_runCmd) | (with_reducible apply Kept_foldl; intro _ _ _)
                  | simp only [Kept_mk, KeptAt_self, KeptRes_done, KeptRes_later, KeptAns_next] | split | intro _))

theorem kept_seqSlotCmd (p : Pkt) {s : State} (k : Nat → Nat → Res) (hKs : Kept qs fu s)
    (hKk : ∀ y0 : Nat, ∀ y1 : Nat, KeptRes qs fu (k y0 y1)) : KeptRes qs fu (seqSlotCmd p s k) := by
  unfold seqSlotCmd
  (repeat' (first | with_reducible assumption
                  | with_reducible (first | apply Kept_if | apply KeptRes_if | apply kept_domCmd | apply kept_refuse)
                  | (with_reducible apply Kept_foldl; intro _ _ _)
                  | simp only [Kept_mk, KeptAt_self, KeptRes_done, KeptRes_later] | split| apply hKk | intro _))

theorem kept_seqReady {s : State} (d k at_ : Nat) (hKs : Kept qs fu s) : Kept qs fu (seqReady s d k at_) := by
  unfold seqReady
  (repeat' (first | with_reducible assumption
                  | with_reducible (first | apply Kept_if | apply kept_setSeqSlot | apply kept_setSequencer
                                          | apply kept_preempt) | (with_reducible apply Kept_foldl; intro _ _ _)
                  | simp only [Kept_mk, KeptAt_self] | split | intro _))

theorem kept_seqBegin {s : State} (d k : Nat) (hKs : Kept qs fu s) : Kept qs fu (seqBegin s d k) := by
  unfold seqBegin
  (repeat' (first | with_reducible assumption
                  | with_reducible (first | apply kept_put | apply kept_setSeqSlot | apply kept_prime)))

theorem kept_execSeqStart (p : Pkt) {s : State} (hKs : Kept qs fu s) : KeptAns qs fu (execSeqStart p s) := by
  unfold execSeqStart
  (repeat' (first | with_reducible assumption
                  | with_reducible (first | apply Kept_if | apply KeptRes_if | apply KeptAns_if | apply kept_ok
                                          | apply kept_runCmd | apply kept_seqBegin | apply kept_seqReady
                                          | apply kept_seqSlotCmd) | (with_reducible apply Kept_foldl; intro _ _ _)
                  | simp only [Kept_mk, KeptAt_self, KeptRes_done, KeptRes_later, KeptAns_next] | split | intro _))

theorem kept_execSeqArm (p : Pkt) {s : State} (hKs : Kept qs fu s) : KeptAns qs fu (execSeqArm p s) := by
  unfold execSeqArm
  (repeat' (first | with_reducible assumption
                  | with_reducible (first | apply Kept_if | apply KeptRes_if | apply KeptAns_if | apply kept_setSeqSlot
                                          | apply kept_wr | apply kept_ok | apply kept_prime | apply kept_runCmd
                                          | apply kept_seqSlotCmd) | (with_reducible apply Kept_foldl; intro _ _ _)
                  | simp only [Kept_mk, KeptAt_self, KeptRes_done, KeptRes_later, KeptAns_next] | split | intro _))

theorem kept_askSeq {s : State} (d : Nat) (a : Ask) (hKs : Kept qs fu s) : Kept qs fu (askSeq s d a) := by
  unfold askSeq; (repeat' (first | with_reducible assumption | with_reducible (first | apply kept_setSequencer)))

theorem kept_execSeqStop (p : Pkt) {s : State} (hKs : Kept qs fu s) : KeptAns qs fu (execSeqStop p s) := by
  unfold execSeqStop
  (repeat' (first | with_reducible assumption
                  | with_reducible (first | apply Kept_if | apply KeptRes_if | apply KeptAns_if | apply kept_askSeq
                                          | apply kept_domCmd | apply kept_ok | apply kept_refuse | apply kept_runCmd)
                  | (with_reducible apply Kept_foldl; intro _ _ _)
                  | simp only [Kept_mk, KeptAt_self, KeptRes_done, KeptRes_later, KeptAns_next] | split | intro _))

theorem kept_execSeqJump (p : Pkt) {s : State} (hKs : Kept qs fu s) : KeptAns qs fu (execSeqJump p s) := by
  unfold execSeqJump
  (repeat' (first | with_reducible assumption
                  | with_reducible (first | apply Kept_if | apply KeptRes_if | apply KeptAns_if | apply kept_askSeq
                                          | apply kept_domCmd | apply kept_ok | apply kept_refuse | apply kept_runCmd)
                  | (with_reducible apply Kept_foldl; intro _ _ _)
                  | simp only [Kept_mk, KeptAt_self, KeptRes_done, KeptRes_later, KeptAns_next] | split | intro _))

theorem kept_execSeqResume (p : Pkt) {s : State} (hKs : Kept qs fu s) : KeptAns qs fu (execSeqResume p s) := by
  unfold execSeqResume
  (repeat' (first | with_reducible assumption
                  | with_reducible (first | apply Kept_if | apply KeptRes_if | apply KeptAns_if | apply kept_domCmd
                                          | apply kept_ok | apply kept_refuse | apply kept_releaseSeq | apply kept_runCmd)
                  | (with_reducible apply Kept_foldl; intro _ _ _)
                  | simp only [Kept_mk, KeptAt_self, KeptRes_done, KeptRes_later, KeptAns_next] | split | intro _))

theorem kept_execSeqAbort (p : Pkt) {s : State} (hKs : Kept qs fu s) : KeptAns qs fu (execSeqAbort p s) := by
  unfold execSeqAbort
  (repeat' (first | with_reducible assumption
                  | with_reducible (first | apply Kept_if | apply KeptRes_if | apply KeptAns_if | apply kept_domCmd
                                          | apply kept_ok | apply kept_parkIfBusy | apply kept_runCmd)
                  | (with_reducible apply Kept_foldl; intro _ _ _)
                  | simp only [Kept_mk, KeptAt_self, KeptRes_done, KeptRes_later, KeptAns_next] | split | intro _))

theorem kept_execSeqIdle (p : Pkt) {s : State} (hKs : Kept qs fu s) : KeptAns qs fu (execSeqIdle p s) := by
  unfold execSeqIdle
  (repeat' (first | with_reducible assumption
                  | with_reducible (first | apply Kept_if | apply KeptRes_if | apply KeptAns_if | apply kept_domCmd
                                          | apply kept_ok | apply kept_refuse | apply kept_runCmd | apply kept_seqToIdle)
                  | (with_reducible apply Kept_foldl; intro _ _ _)
                  | simp only [Kept_mk, KeptAt_self, KeptRes_done, KeptRes_later, KeptAns_next] | split | intro _))

theorem kept_execSeqRelease (p : Pkt) {s : State} (hKs : Kept qs fu s) : KeptAns qs fu (execSeqRelease p s) := by
  unfold execSeqRelease
  (repeat' (first | with_reducible assumption
                  | with_reducible (first | apply Kept_if | apply KeptRes_if | apply KeptAns_if | apply kept_setSeqSlot
                                          | apply kept_domCmd | apply kept_ok | apply kept_refuse | apply kept_runCmd)
                  | (with_reducible apply Kept_foldl; intro _ _ _)
                  | simp only [Kept_mk, KeptAt_self, KeptRes_done, KeptRes_later, KeptAns_next] | split | intro _))

theorem kept_execSeqClearFails (p : Pkt) {s : State} (hKs : Kept qs fu s) : KeptAns qs fu (execSeqClearFails p s) := by
  unfold execSeqClearFails
  (repeat' (first | with_reducible assumption
                  | with_reducible (first | apply Kept_if | apply KeptRes_if | apply KeptAns_if | apply kept_put
                                          | apply kept_setSequencer | apply kept_wr | apply kept_domCmd | apply kept_ok
                                          | apply kept_runCmd) | (with_reducible apply Kept_foldl; intro _ _ _)
                  | simp only [Kept_mk, KeptAt_self, KeptRes_done, KeptRes_later, KeptAns_next] | split | intro _))

theorem kept_execSeqCapRead (p : Pkt) (_wr : Option HostFault) {s : State} (hKs : Kept qs fu s)
    : KeptAns qs fu (execSeqCapRead p _wr s) := by
  unfold execSeqCapRead
  (repeat' (first | with_reducible assumption
                  | with_reducible (first | apply Kept_if | apply KeptRes_if | apply KeptAns_if | apply kept_domCmd
                                          | apply kept_hostPut | apply kept_ok | apply kept_refuse | apply kept_runCmd)
                  | (with_reducible apply Kept_foldl; intro _ _ _)
                  | simp only [Kept_mk, KeptAt_self, KeptRes_done, KeptRes_later, KeptAns_next] | split | intro _))

theorem kept_sourceNow {s : State} (d : Nat) (hKs : Kept qs fu s) : Kept qs fu (sourceNow s d) := by
  unfold sourceNow
  (repeat' (first | with_reducible assumption | with_reducible (first | apply Kept_if | apply kept_holdSeq)
                  | (with_reducible apply Kept_foldl; intro _ _ _) | simp only [Kept_mk, KeptAt_self] | split | intro _))

theorem kept_execPrimingComplete (primed : PrimeEnd) {s : State} (hKs : Kept qs fu s)
    : KeptAns qs fu (execPrimingComplete primed s) := by
  unfold execPrimingComplete
  (repeat' (first | with_reducible assumption
                  | with_reducible (first | apply Kept_if | apply KeptAns_if | apply kept_put | apply kept_setSequencer
                                          | apply kept_done | apply kept_galeDone | apply kept_sourceNow)
                  | (with_reducible apply Kept_foldl; intro _ _ _) | simp only [Kept_mk, KeptAt_self, KeptAns_next] | split
                  | intro _))

theorem kept_execGranuleFetchDone (dom : Nat) (jump good : Bool) {s : State} (hKs : Kept qs fu s)
    : KeptAns qs fu (execGranuleFetchDone dom jump good s) := by
  unfold execGranuleFetchDone
  (repeat' (first | with_reducible assumption
                  | with_reducible (first | apply Kept_if | apply KeptAns_if | apply kept_setSequencer | apply kept_done)
                  | (with_reducible apply Kept_foldl; intro _ _ _) | simp only [Kept_mk, KeptAt_self, KeptAns_next] | split
                  | intro _))

theorem kept_seqFire {s : State} (d k t n : Nat) (hKs : Kept qs fu s) : Kept qs fu (seqFire s d k t n) := by
  unfold seqFire
  (repeat' (first | with_reducible assumption
                  | with_reducible (first | apply Kept_if | apply kept_put | apply kept_setSequencer | apply kept_parkSeq
                                          | apply kept_record | apply kept_seqBegin | apply kept_seqControl
                                          | apply kept_seqReady | apply kept_sourceNow)
                  | (with_reducible apply Kept_foldl; intro _ _ _) | simp only [Kept_mk, KeptAt_self] | split | intro _))

theorem kept_execSeqEvStart (dom : Nat) {s : State} (hKs : Kept qs fu s) : KeptAns qs fu (execSeqEvStart dom s) := by
  unfold execSeqEvStart
  (repeat' (first | with_reducible assumption
                  | with_reducible (first | apply Kept_if | apply KeptAns_if | apply kept_clearCapt | apply kept_done
                                          | apply kept_seqFire) | (with_reducible apply Kept_foldl; intro _ _ _)
                  | simp only [Kept_mk, KeptAt_self, KeptAns_next] | split | intro _))

theorem kept_execSeqEvStop (dom : Nat) {s : State} (hKs : Kept qs fu s) : KeptAns qs fu (execSeqEvStop dom s) := by
  unfold execSeqEvStop
  (repeat' (first | with_reducible assumption
                  | with_reducible (first | apply Kept_if | apply KeptAns_if | apply kept_askSeq | apply kept_clearCapt
                                          | apply kept_done) | (with_reducible apply Kept_foldl; intro _ _ _)
                  | simp only [Kept_mk, KeptAt_self, KeptAns_next] | split | intro _))

theorem kept_execSeqJevPulse (dom : Nat) {s : State} (hKs : Kept qs fu s) : KeptAns qs fu (execSeqJevPulse dom s) := by
  unfold execSeqJevPulse
  (repeat' (first | with_reducible assumption
                  | with_reducible (first | apply Kept_if | apply KeptAns_if | apply kept_setSequencer | apply kept_askSeq
                                          | apply kept_done) | (with_reducible apply Kept_foldl; intro _ _ _)
                  | simp only [Kept_mk, KeptAt_self, KeptAns_next] | split | intro _))

theorem kept_execSeqStartAt (dom slot : Nat) {s : State} (hKs : Kept qs fu s) : KeptAns qs fu (execSeqStartAt dom slot s) :=
    by
  unfold execSeqStartAt
  (repeat' (first | with_reducible assumption
                  | with_reducible (first | apply Kept_if | apply KeptAns_if | apply kept_done | apply kept_seqFire)
                  | (with_reducible apply Kept_foldl; intro _ _ _) | simp only [Kept_mk, KeptAt_self, KeptAns_next] | split
                  | intro _))

end Sys2Proof.Machine
end

