-- ==== Sys2Proof/Laws/KeptTime.lean ====
section
/-!
SUPPORT. What each function keeps (the queue, the canonical form, a blown fuse): timebase, event fabric, high voltage, status rows, commands.
-/
set_option linter.unusedTactic false
set_option linter.unreachableTactic false
set_option linter.unusedSimpArgs false
namespace Sys2Proof.Machine
variable {qs : List Instr} {fu : Bool}

theorem kept_setSensor {s : State} (n : Nat) (v : Sensor) (hKs : Kept qs fu s) : Kept qs fu (State.setSensor s n v) := by
  exact hKs

theorem kept_telemetryInstant {s : State} (hKs : Kept qs fu s) : Kept qs fu (telemetryInstant s) := by
  unfold telemetryInstant
  (repeat' (first | with_reducible assumption
                  | with_reducible (first | apply Kept_if | apply kept_closeBlock | apply kept_dropRecord | apply kept_place
                                          | apply kept_record) | (with_reducible apply Kept_foldl; intro _ _ _)
                  | simp only [Kept_mk, KeptAt_self] | split | intro _))

theorem kept_execTelemetryInstant {s : State} (hKs : Kept qs fu s) : KeptAns qs fu (execTelemetryInstant s) := by
  unfold execTelemetryInstant
  (repeat' (first | with_reducible assumption | with_reducible (first | apply kept_done | apply kept_telemetryInstant)))

theorem kept_setTb {s : State} (t : Tb) (hKs : Kept qs fu s) : Kept qs fu (State.setTb s t) := by
  exact hKs

theorem kept_answerTb {s : State} (status : Nat) (hKs : Kept qs fu s) : Kept qs fu (answerTb s status) := by
  unfold answerTb
  (repeat' (first | with_reducible assumption
                  | with_reducible (first | apply Kept_if | apply kept_complete | apply kept_setTb)
                  | (with_reducible apply Kept_foldl; intro _ _ _) | simp only [Kept_mk, KeptAt_self] | split | intro _))

theorem kept_endPhase {s : State} (hKs : Kept qs fu s) : Kept qs fu (endPhase s) := by
  unfold endPhase
  (repeat' (first | with_reducible assumption
                  | with_reducible (first | apply Kept_if | apply kept_complete | apply kept_setTb)
                  | (with_reducible apply Kept_foldl; intro _ _ _) | simp only [Kept_mk, KeptAt_self] | split | intro _))

theorem kept_endPinRuns {s : State} (hKs : Kept qs fu s) : Kept qs fu (endPinRuns s) := by
  unfold endPinRuns
  (repeat' (first | with_reducible assumption
                  | with_reducible (first | apply Kept_if | apply kept_complete | apply kept_restoreRun)
                  | (with_reducible apply Kept_foldl; intro _ _ _) | simp only [Kept_mk, KeptAt_self] | split | intro _))

theorem kept_startSearch {s : State} (hKs : Kept qs fu s) : Kept qs fu (startSearch s) := by
  unfold startSearch
  (repeat' (first | with_reducible assumption
                  | with_reducible (first | apply Kept_if | apply kept_put | apply kept_setTb | apply kept_endPhase
                                          | apply kept_endPinRuns | apply kept_guardPark | apply kept_syncLost)
                  | (with_reducible apply Kept_foldl; intro _ _ _) | simp only [Kept_mk, KeptAt_self] | split | intro _))

theorem kept_relock {s : State} (p : Pkt) (old : List Int) (hKs : Kept qs fu s) : Kept qs fu (relock s p old) := by
  unfold relock
  (repeat' (first | with_reducible assumption
                  | with_reducible (first | apply kept_setTb | apply kept_answerTb | apply kept_startSearch)))

theorem kept_takeShadow {s : State} (hKs : Kept qs fu s) : Kept qs fu (takeShadow s) := by
  unfold takeShadow
  (repeat' (first | with_reducible assumption | with_reducible (first | apply Kept_if | apply kept_put)
                  | (with_reducible apply Kept_foldl; intro _ _ _) | simp only [Kept_mk, KeptAt_self] | split | intro _))

theorem kept_countAbsent {s : State} (hKs : Kept qs fu s) : Kept qs fu (countAbsent s) := by
  unfold countAbsent
  (repeat' (first | with_reducible assumption | with_reducible (first | apply Kept_if | apply kept_setTb)
                  | (with_reducible apply Kept_foldl; intro _ _ _) | simp only [Kept_mk, KeptAt_self] | split | intro _))

theorem kept_execTbCommit (p : Pkt) {s : State} (hKs : Kept qs fu s) : KeptAns qs fu (execTbCommit p s) := by
  unfold execTbCommit
  (repeat' (first | with_reducible assumption
                  | with_reducible (first | apply Kept_if | apply KeptRes_if | apply KeptAns_if | apply kept_setTb
                                          | apply kept_ok | apply kept_refuse | apply kept_relock | apply kept_runCmd
                                          | apply kept_takeShadow) | (with_reducible apply Kept_foldl; intro _ _ _)
                  | simp only [Kept_mk, KeptAt_self, KeptRes_done, KeptRes_later, KeptAns_next] | split | intro _))

theorem kept_execTbRelock (p : Pkt) {s : State} (hKs : Kept qs fu s) : KeptAns qs fu (execTbRelock p s) := by
  unfold execTbRelock
  (repeat' (first | with_reducible assumption
                  | with_reducible (first | apply Kept_if | apply KeptRes_if | apply KeptAns_if | apply kept_refuse
                                          | apply kept_relock | apply kept_runCmd)
                  | (with_reducible apply Kept_foldl; intro _ _ _)
                  | simp only [Kept_mk, KeptAt_self, KeptRes_done, KeptRes_later, KeptAns_next] | split | intro _))

theorem kept_budgetOut {s : State} (hKs : Kept qs fu s) : Kept qs fu (budgetOut s) := by
  unfold budgetOut
  (repeat' (first | with_reducible assumption
                  | with_reducible (first | apply Kept_if | apply kept_publish | apply kept_put | apply kept_setTb
                                          | apply kept_holdSeq | apply kept_record | apply kept_requestHold)
                  | (with_reducible apply Kept_foldl; intro _ _ _) | simp only [Kept_mk, KeptAt_self] | split | intro _))

theorem kept_enterCoast {s : State} (cause : Nat) (real : Bool) (hKs : Kept qs fu s)
    : Kept qs fu (enterCoast s cause real) := by
  unfold enterCoast
  (repeat' (first | with_reducible assumption
                  | with_reducible (first | apply Kept_if | apply kept_publish | apply kept_put | apply kept_setTb
                                          | apply kept_budgetOut | apply kept_endPhase | apply kept_record
                                          | apply kept_syncLost) | (with_reducible apply Kept_foldl; intro _ _ _)
                  | simp only [Kept_mk, KeptAt_self] | split | intro _))

theorem kept_guardWait {s : State} (cause : Nat) (real : Bool) (hKs : Kept qs fu s) : Kept qs fu (guardWait s cause real) :=
    by
  unfold guardWait
  (repeat' (first | with_reducible assumption
                  | with_reducible (first | apply Kept_if | apply kept_put | apply kept_setTb | apply kept_answerTb
                                          | apply kept_record) | (with_reducible apply Kept_foldl; intro _ _ _)
                  | simp only [Kept_mk, KeptAt_self] | split | intro _))

theorem kept_refLost {s : State} (inj : Bool) (hKs : Kept qs fu s) : Kept qs fu (refLost s inj) := by
  unfold refLost
  (repeat' (first | with_reducible assumption
                  | with_reducible (first | apply Kept_if | apply kept_setTb | apply kept_enterCoast | apply kept_guardWait
                                          | apply kept_outrank | apply kept_record)
                  | (with_reducible apply Kept_foldl; intro _ _ _) | simp only [Kept_mk, KeptAt_self] | split | intro _))

theorem kept_execRefLoss {s : State} (hKs : Kept qs fu s) : KeptAns qs fu (execRefLoss s) := by
  unfold execRefLoss
  (repeat' (first | with_reducible assumption
                  | with_reducible (first | apply Kept_if | apply KeptAns_if | apply kept_done | apply kept_refLost)
                  | (with_reducible apply Kept_foldl; intro _ _ _) | simp only [Kept_mk, KeptAt_self, KeptAns_next] | split
                  | intro _))

theorem kept_execRefReturn {s : State} (hKs : Kept qs fu s) : KeptAns qs fu (execRefReturn s) := by
  unfold execRefReturn
  (repeat' (first | with_reducible assumption
                  | with_reducible (first | apply Kept_if | apply KeptAns_if | apply kept_setTb | apply kept_done)
                  | (with_reducible apply Kept_foldl; intro _ _ _) | simp only [Kept_mk, KeptAt_self, KeptAns_next] | split
                  | intro _))

theorem kept_execLockLoss (err : Int) {s : State} (hKs : Kept qs fu s) : KeptAns qs fu (execLockLoss err s) := by
  unfold execLockLoss
  (repeat' (first | with_reducible assumption
                  | with_reducible (first | apply Kept_if | apply KeptAns_if | apply kept_put | apply kept_done
                                          | apply kept_enterCoast | apply kept_record)
                  | (with_reducible apply Kept_foldl; intro _ _ _) | simp only [Kept_mk, KeptAt_self, KeptAns_next] | split
                  | intro _))

theorem kept_execRefQualElapsed {s : State} (hKs : Kept qs fu s) : KeptAns qs fu (execRefQualElapsed s) := by
  unfold execRefQualElapsed
  (repeat' (first | with_reducible assumption
                  | with_reducible (first | apply Kept_if | apply KeptAns_if | apply kept_done | apply kept_startSearch)
                  | (with_reducible apply Kept_foldl; intro _ _ _) | simp only [Kept_mk, KeptAt_self, KeptAns_next] | split
                  | intro _))

theorem kept_execBandSearchDone (band : Option Nat) {s : State} (hKs : Kept qs fu s)
    : KeptAns qs fu (execBandSearchDone band s) := by
  unfold execBandSearchDone
  (repeat' (first | with_reducible assumption
                  | with_reducible (first | apply Kept_if | apply KeptAns_if | apply kept_put | apply kept_done
                                          | apply kept_guardWait) | (with_reducible apply Kept_foldl; intro _ _ _)
                  | simp only [Kept_mk, KeptAt_self, KeptAns_next] | split | intro _))

theorem kept_lockRecord {s : State} (hKs : Kept qs fu s) : Kept qs fu (lockRecord s) := by
  unfold lockRecord
  (repeat' (first | with_reducible assumption | with_reducible (first | apply Kept_if | apply kept_logRec)
                  | (with_reducible apply Kept_foldl; intro _ _ _) | simp only [Kept_mk, KeptAt_self] | split | intro _))

theorem kept_execLockDeclared (err : Int) {s : State} (hKs : Kept qs fu s) : KeptAns qs fu (execLockDeclared err s) := by
  unfold execLockDeclared
  (repeat' (first | with_reducible assumption
                  | with_reducible (first | apply Kept_if | apply KeptAns_if | apply kept_publish | apply kept_put
                                          | apply kept_setTb | apply kept_answerTb | apply kept_done | apply kept_lockRecord)
                  | (with_reducible apply Kept_foldl; intro _ _ _) | simp only [Kept_mk, KeptAt_self, KeptAns_next] | split
                  | intro _))

theorem kept_execLockTimeout {s : State} (hKs : Kept qs fu s) : KeptAns qs fu (execLockTimeout s) := by
  unfold execLockTimeout
  (repeat' (first | with_reducible assumption
                  | with_reducible (first | apply Kept_if | apply KeptAns_if | apply kept_done | apply kept_guardWait)
                  | (with_reducible apply Kept_foldl; intro _ _ _) | simp only [Kept_mk, KeptAt_self, KeptAns_next] | split
                  | intro _))

theorem kept_execCoastBudgetExpiry {s : State} (hKs : Kept qs fu s) : KeptAns qs fu (execCoastBudgetExpiry s) := by
  unfold execCoastBudgetExpiry
  (repeat' (first | with_reducible assumption
                  | with_reducible (first | apply Kept_if | apply KeptAns_if | apply kept_budgetOut | apply kept_done)
                  | (with_reducible apply Kept_foldl; intro _ _ _) | simp only [Kept_mk, KeptAt_self, KeptAns_next] | split
                  | intro _))

theorem kept_execHoldDacTransfer {s : State} (hKs : Kept qs fu s) : KeptAns qs fu (execHoldDacTransfer s) := by
  unfold execHoldDacTransfer
  (repeat' (first | with_reducible assumption
                  | with_reducible (first | apply Kept_if | apply KeptAns_if | apply kept_setTb | apply kept_done)
                  | (with_reducible apply Kept_foldl; intro _ _ _) | simp only [Kept_mk, KeptAt_self, KeptAns_next] | split
                  | intro _))

theorem kept_execFreqGuardSuppress {s : State} (hKs : Kept qs fu s) : KeptAns qs fu (execFreqGuardSuppress s) := by
  unfold execFreqGuardSuppress
  (repeat' (first | with_reducible assumption
                  | with_reducible (first | apply kept_bump | apply kept_done | apply kept_record)))

theorem kept_execTbPhaseStep (p : Pkt) {s : State} (hKs : Kept qs fu s) : KeptAns qs fu (execTbPhaseStep p s) := by
  unfold execTbPhaseStep
  generalize sfld 32 (pw p 2) = n
  exact kept_runCmd p _ _ hKs (KeptRes_if (kept_refuse _ hKs) (KeptRes_if (kept_refuse _ hKs) (KeptRes_if (kept_ok _ hKs)
    (kept_setTb _ hKs))))

theorem kept_execPhaseStepApply {s : State} (hKs : Kept qs fu s) : KeptAns qs fu (execPhaseStepApply s) := by
  unfold execPhaseStepApply
  (repeat' (first | with_reducible assumption
                  | with_reducible (first | apply Kept_if | apply KeptAns_if | apply kept_complete | apply kept_put
                                          | apply kept_setTb | apply kept_done | apply kept_restGroup)
                  | (with_reducible apply Kept_foldl; intro _ _ _) | simp only [Kept_mk, KeptAt_self, KeptAns_next] | split
                  | intro _))

theorem kept_haltLoop {s : State} (hKs : Kept qs fu s) : Kept qs fu (haltLoop s) := by
  unfold haltLoop
  (repeat' (first | with_reducible assumption
                  | with_reducible (first | apply Kept_if | apply kept_setTb | apply kept_answerTb)
                  | (with_reducible apply Kept_foldl; intro _ _ _) | simp only [Kept_mk, KeptAt_self] | split | intro _))

theorem kept_execTbTimeSet (p : Pkt) {s : State} (hKs : Kept qs fu s) : KeptAns qs fu (execTbTimeSet p s) := by
  unfold execTbTimeSet
  (repeat' (first | with_reducible assumption
                  | with_reducible (first | apply Kept_if | apply KeptRes_if | apply KeptAns_if | apply kept_setTb
                                          | apply kept_refuse | apply kept_runCmd)
                  | (with_reducible apply Kept_foldl; intro _ _ _)
                  | simp only [Kept_mk, KeptAt_self, KeptRes_done, KeptRes_later, KeptAns_next] | split | intro _))

theorem kept_oldGrid {s : State} (hKs : Kept qs fu s) : Kept qs fu (oldGrid s) := by
  unfold oldGrid
  (repeat' (first | with_reducible assumption | with_reducible (first | apply Kept_if | apply kept_timerInstant)
                  | (with_reducible apply Kept_foldl; intro _ _ _) | simp only [Kept_mk, KeptAt_self] | split | intro _))

theorem kept_applySets {s : State} (hKs : Kept qs fu s) : Kept qs fu (applySets s) := by
  unfold applySets
  (repeat' (first | with_reducible assumption
                  | with_reducible (first | apply Kept_if | apply kept_complete | apply kept_setTb | apply kept_oldGrid
                                          | apply kept_setTime | apply kept_telemetryInstant)
                  | (with_reducible apply Kept_foldl; intro _ _ _) | simp only [Kept_mk, KeptAt_self] | split | intro _))

theorem kept_boundary {s : State} (hKs : Kept qs fu s) : Kept qs fu (boundary s) := by
  unfold boundary
  (repeat' (first | with_reducible assumption
                  | with_reducible (first | apply Kept_if | apply kept_countCycle | apply kept_takenOver
                                          | apply kept_groupBoundary | apply kept_railCycle | apply kept_takeStop)
                  | (with_reducible apply Kept_foldl; intro _ _ _) | simp only [Kept_mk, KeptAt_self] | split | intro _))

theorem kept_execLoopCycle (readings : List LoopReading) {s : State} (hKs : Kept qs fu s)
    : KeptAns qs fu (execLoopCycle readings s) := by
  unfold execLoopCycle
  (repeat' (first | with_reducible assumption
                  | with_reducible (first | apply Kept_if | apply KeptAns_if | apply kept_applySets | apply kept_boundary
                                          | apply kept_cycleChan | apply kept_done | apply kept_seeLimit
                                          | apply kept_sweBoundary | apply kept_takeTrigs)
                  | (with_reducible apply Kept_foldl; intro _ _ _) | simp only [Kept_mk, KeptAt_self, KeptAns_next] | split
                  | intro _))

theorem kept_setChan {s : State} (c : Nat) (v : Chan) (hKs : Kept qs fu s) : Kept qs fu (State.setChan s c v) := by
  exact hKs

theorem kept_setCell {s : State} (n : Nat) (v : Eddy) (hKs : Kept qs fu s) : Kept qs fu (State.setCell s n v) := by
  exact hKs

theorem kept_setTicker {s : State} (n : Nat) (v : TickGen) (hKs : Kept qs fu s) : Kept qs fu (State.setTicker s n v) := by
  exact hKs

theorem kept_countSuspended {s : State} (hKs : Kept qs fu s) : Kept qs fu (countSuspended s) := by
  unfold countSuspended; (repeat' (first | with_reducible assumption | with_reducible (first | apply kept_put)))

theorem kept_suspendShared {s : State} (hKs : Kept qs fu s) : Kept qs fu (suspendShared s) := by
  unfold suspendShared
  (repeat' (first | with_reducible assumption
                  | with_reducible (first | apply Kept_if | apply kept_setCon | apply kept_countSuspended)
                  | (with_reducible apply Kept_foldl; intro _ _ _) | simp only [Kept_mk, KeptAt_self] | split | intro _))

theorem kept_resumeConsumers {s : State} (hKs : Kept qs fu s) : Kept qs fu (resumeConsumers s) := by
  unfold resumeConsumers
  (repeat' (first | with_reducible assumption
                  | with_reducible (first | apply Kept_if | apply kept_setCon | apply kept_countSuspended)
                  | (with_reducible apply Kept_foldl; intro _ _ _) | simp only [Kept_mk, KeptAt_self] | split | intro _))

theorem kept_enterMode {s : State} (m : Nat) (hKs : Kept qs fu s) : Kept qs fu (enterMode s m) := by
  unfold enterMode
  (repeat' (first | with_reducible assumption
                  | with_reducible (first | apply Kept_if | apply kept_put | apply kept_resumeConsumers
                                          | apply kept_suspendShared) | (with_reducible apply Kept_foldl; intro _ _ _)
                  | simp only [Kept_mk, KeptAt_self] | split | intro _))

theorem kept_evfSoftReset {s : State} (hKs : Kept qs fu s) : Kept qs fu (evfSoftReset s) := by
  unfold evfSoftReset
  (repeat' (first | with_reducible assumption | with_reducible (first | apply kept_put | apply kept_suspendShared)))

theorem kept_abortEcho {s : State} (hKs : Kept qs fu s) : Kept qs fu (abortEcho s) := by
  unfold abortEcho
  (repeat' (first | with_reducible assumption | with_reducible (first | apply Kept_if | apply kept_complete)
                  | (with_reducible apply Kept_foldl; intro _ _ _) | simp only [Kept_mk, KeptAt_self] | split | intro _))

theorem kept_loopTrip {s : State} (c : Nat) (hKs : Kept qs fu s) : Kept qs fu (loopTrip s c) := by
  unfold loopTrip
  (repeat' (first | with_reducible assumption
                  | with_reducible (first | apply kept_put | apply kept_abortEcho | apply kept_enterMode
                                          | apply kept_record)))

theorem kept_cuTake {s : State} (u b : Nat) (rel : Bool) (hKs : Kept qs fu s) : Kept qs fu (cuTake s u b rel) := by
  unfold cuTake
  (repeat' (first | with_reducible assumption | with_reducible (first | apply Kept_if | apply kept_setCu)
                  | (with_reducible apply Kept_foldl; intro _ _ _) | simp only [Kept_mk, KeptAt_self] | split | intro _))

theorem kept_markerTake {s : State} (st ch b : Nat) (hKs : Kept qs fu s) : Kept qs fu (markerTake s st ch b) := by
  unfold markerTake
  (repeat' (first | with_reducible assumption
                  | with_reducible (first | apply Kept_if | apply kept_setStream | apply kept_place)
                  | (with_reducible apply Kept_foldl; intro _ _ _) | simp only [Kept_mk, KeptAt_self] | split | intro _))

theorem kept_sevCount {s : State} (n : Nat) (late : Bool) (hKs : Kept qs fu s) : Kept qs fu (sevCount s n late) := by
  unfold sevCount; (repeat' (first | with_reducible assumption | with_reducible (first | apply kept_wr)))

theorem kept_sendTwice {s : State} (p : Nat) (ws : List Nat) (hKs : Kept qs fu s) : Kept qs fu (sendTwice s p ws) := by
  unfold sendTwice; (repeat' (first | with_reducible assumption | with_reducible (first | apply kept_emit)))

theorem kept_sevSend {s : State} (n t0 node gen : Nat) (but : Option Nat) (hKs : Kept qs fu s)
    : Kept qs fu (sevSend s n t0 node gen but) := by
  unfold sevSend
  (repeat' (first | with_reducible assumption | with_reducible (first | apply Kept_if | apply kept_sendTwice)
                  | (with_reducible apply Kept_foldl; intro _ _ _) | simp only [Kept_mk, KeptAt_self] | split | intro _))

theorem kept_alignWritten {s : State} (hKs : Kept qs fu s) : Kept qs fu (alignWritten s) := by
  exact hKs

theorem kept_sevQueue {s : State} (n t0 : Nat) (hKs : Kept qs fu s) : Kept qs fu (sevQueue s n t0) := by
  exact hKs

theorem kept_sevTake {s : State} (n b : Nat) (hKs : Kept qs fu s) : Kept qs fu (sevTake s n b) := by
  unfold sevTake
  (repeat' (first | with_reducible assumption
                  | with_reducible (first | apply Kept_if | apply kept_record | apply kept_sevCount | apply kept_sevQueue
                                          | apply kept_sevSend) | (with_reducible apply Kept_foldl; intro _ _ _)
                  | simp only [Kept_mk, KeptAt_self] | split | intro _))

theorem kept_groupTake {s : State} (n b : Nat) (hKs : Kept qs fu s) : Kept qs fu (groupTake s n b) := by
  unfold groupTake
  (repeat' (first | with_reducible assumption | with_reducible (first | apply Kept_if | apply kept_put)
                  | (with_reducible apply Kept_foldl; intro _ _ _) | simp only [Kept_mk, KeptAt_self] | split | intro _))

theorem kept_eddyPublish {s : State} (n : Nat) (hKs : Kept qs fu s) : Kept qs fu (eddyPublish s n) := by
  unfold eddyPublish
  (repeat' (first | with_reducible assumption
                  | with_reducible (first | apply Kept_if | apply kept_publish | apply kept_setCell)
                  | (with_reducible apply Kept_foldl; intro _ _ _) | simp only [Kept_mk, KeptAt_self] | split | intro _))

theorem kept_eddyRipe {s : State} (n t : Nat) (hKs : Kept qs fu s) : Kept qs fu (eddyRipe s n t) := by
  unfold eddyRipe
  (repeat' (first | with_reducible assumption | with_reducible (first | apply Kept_if | apply kept_eddyPublish)
                  | (with_reducible apply Kept_foldl; intro _ _ _) | simp only [Kept_mk, KeptAt_self] | split | intro _))

theorem kept_eddyMove {s : State} (n t : Nat) (c : Eddy) (hKs : Kept qs fu s) : Kept qs fu (eddyMove s n t c) := by
  unfold eddyMove
  (repeat' (first | with_reducible assumption
                  | with_reducible (first | apply Kept_if | apply kept_setCell | apply kept_eddyRipe)
                  | (with_reducible apply Kept_foldl; intro _ _ _) | simp only [Kept_mk, KeptAt_self] | split | intro _))

theorem kept_eddyExpire (t k : Nat) {s : State} (n : Nat) (hKs : Kept qs fu s) : Kept qs fu (eddyExpire t k s n) := by
  induction k generalizing s with
  | zero => exact hKs
  | succ k ih =>
    simp only [eddyExpire]
    split
    · exact ih (kept_eddyMove _ _ _ hKs)
    · exact hKs

theorem kept_eddyTake {s : State} (n i t : Nat) (hKs : Kept qs fu s) : Kept qs fu (eddyTake s n i t) := by
  unfold eddyTake
  (repeat' (first | with_reducible assumption | with_reducible (first | apply kept_eddyExpire | apply kept_eddyMove)))

theorem kept_conOverrun {s : State} (n : Nat) (hKs : Kept qs fu s) : Kept qs fu (conOverrun s n) := by
  unfold conOverrun
  (repeat' (first | with_reducible assumption
                  | with_reducible (first | apply Kept_if | apply kept_bump | apply kept_chipCause | apply kept_consOverrun
                                          | apply kept_overrun) | (with_reducible apply Kept_foldl; intro _ _ _)
                  | simp only [Kept_mk, KeptAt_self] | split | intro _))

theorem kept_conTake {s : State} (n ch b : Nat) (rel : Bool) (hKs : Kept qs fu s) : Kept qs fu (conTake s n ch b rel) := by
  unfold conTake
  (repeat' (first | with_reducible assumption
                  | with_reducible (first | apply Kept_if | apply kept_emit | apply kept_setCon | apply kept_cuTake
                                          | apply kept_eddyTake | apply kept_groupTake | apply kept_markerTake
                                          | apply kept_sevTake) | (with_reducible apply Kept_foldl; intro _ _ _)
                  | simp only [Kept_mk, KeptAt_self] | split | intro _))

theorem kept_deliver {s : State} (n ch a : Nat) (rel : Bool) (hKs : Kept qs fu s) : Kept qs fu (deliver s n ch a rel) := by
  unfold deliver
  (repeat' (first | with_reducible assumption
                  | with_reducible (first | apply Kept_if | apply kept_setCon | apply kept_conOverrun | apply kept_conTake)
                  | (with_reducible apply Kept_foldl; intro _ _ _) | simp only [Kept_mk, KeptAt_self] | split | intro _))

theorem kept_recordPulse {s : State} (ch a : Nat) (hKs : Kept qs fu s) : Kept qs fu (recordPulse s ch a) := by
  unfold recordPulse
  (repeat' (first | with_reducible assumption
                  | with_reducible (first | apply Kept_if | apply kept_logRec | apply kept_setChan | apply kept_record)
                  | (with_reducible apply Kept_foldl; intro _ _ _) | simp only [Kept_mk, KeptAt_self] | split | intro _))

theorem kept_sweepSees {s : State} (ch a : Nat) (rel : Bool) (e : Nat) (hKs : Kept qs fu s)
    : Kept qs fu (sweepSees s ch a rel e) := by
  unfold sweepSees
  (repeat' (first | with_reducible assumption
                  | with_reducible (first | apply Kept_if | apply kept_setEngine | apply kept_releaseSample)
                  | (with_reducible apply Kept_foldl; intro _ _ _) | simp only [Kept_mk, KeptAt_self] | split | intro _))

theorem kept_seqSees {s : State} (ch a d : Nat) (hKs : Kept qs fu s) : Kept qs fu (seqSees s ch a d) := by
  unfold seqSees
  (repeat' (first | with_reducible assumption | with_reducible (first | apply Kept_if | apply kept_setSequencer)
                  | (with_reducible apply Kept_foldl; intro _ _ _) | simp only [Kept_mk, KeptAt_self] | split | intro _))

theorem kept_wakeSees {s : State} (ch : Nat) (hKs : Kept qs fu s) : Kept qs fu (wakeSees s ch) := by
  unfold wakeSees
  (repeat' (first | with_reducible assumption | with_reducible (first | apply Kept_if)
                  | (with_reducible apply Kept_foldl; intro _ _ _) | simp only [Kept_mk, KeptAt_self] | split | intro _))

theorem kept_echoSees {s : State} (ch a : Nat) (echo : Bool) (hKs : Kept qs fu s) : Kept qs fu (echoSees s ch a echo) := by
  unfold echoSees
  (repeat' (first | with_reducible assumption | with_reducible (first | apply Kept_if)
                  | (with_reducible apply Kept_foldl; intro _ _ _) | simp only [Kept_mk, KeptAt_self] | split | intro _))

theorem kept_observe {s : State} (ch a : Nat) (rel echo : Bool) (hKs : Kept qs fu s)
    : Kept qs fu (observe s ch a rel echo) := by
  unfold observe
  (repeat' (first | with_reducible assumption
                  | with_reducible (first | apply Kept_if | apply kept_put | apply kept_echoSees | apply kept_recordPulse
                                          | apply kept_seqSees | apply kept_sweepSees | apply kept_wakeSees)
                  | (with_reducible apply Kept_foldl; intro _ _ _) | simp only [Kept_mk, KeptAt_self] | split | intro _))

theorem kept_acceptPulse {s : State} (ch a : Nat) (rel echo : Bool) (hKs : Kept qs fu s)
    : Kept qs fu (acceptPulse s ch a rel echo) := by
  unfold acceptPulse
  (repeat' (first | with_reducible assumption
                  | with_reducible (first | apply Kept_if | apply kept_setChan | apply kept_tally | apply kept_deliver
                                          | apply kept_observe) | (with_reducible apply Kept_foldl; intro _ _ _)
                  | simp only [Kept_mk, KeptAt_self] | split | intro _))

theorem kept_stages {s : State} (ch a : Nat) (rel echo : Bool) (hKs : Kept qs fu s) : Kept qs fu (stages s ch a rel echo) :=
    by
  unfold stages
  (repeat' (first | with_reducible assumption
                  | with_reducible (first | apply Kept_if | apply kept_bump | apply kept_setChan | apply kept_acceptPulse
                                          | apply kept_loopTrip) | (with_reducible apply Kept_foldl; intro _ _ _)
                  | simp only [Kept_mk, KeptAt_self] | split | intro _))

theorem kept_turnReleased {s : State} (ch a0 a : Nat) (hKs : Kept qs fu s) : Kept qs fu (turnReleased s ch a0 a) := by
  unfold turnReleased
  (repeat' (first | with_reducible assumption
                  | with_reducible (first | apply Kept_if | apply kept_setCon | apply kept_setCu | apply kept_setEngine)
                  | (with_reducible apply Kept_foldl; intro _ _ _) | simp only [Kept_mk, KeptAt_self] | split | intro _))

theorem kept_execEventChannelPulse (ch at_ : Nat) {s : State} (hKs : Kept qs fu s)
    : KeptAns qs fu (execEventChannelPulse ch at_ s) := by
  unfold execEventChannelPulse
  (repeat' (first | with_reducible assumption
                  | with_reducible (first | apply Kept_if | apply KeptAns_if | apply kept_done | apply kept_restGroup
                                          | apply kept_stages | apply kept_turnReleased)
                  | (with_reducible apply Kept_foldl; intro _ _ _) | simp only [Kept_mk, KeptAt_self, KeptAns_next] | split
                  | intro _))

theorem kept_execLoopMonitorWindow {s : State} (hKs : Kept qs fu s) : KeptAns qs fu (execLoopMonitorWindow s) := by
  unfold execLoopMonitorWindow
  (repeat' (first | with_reducible assumption
                  | with_reducible (first | apply Kept_if | apply KeptAns_if | apply kept_setChan | apply kept_done)
                  | (with_reducible apply Kept_foldl; intro _ _ _) | simp only [Kept_mk, KeptAt_self, KeptAns_next] | split
                  | intro _))

theorem kept_tickAdopt {s : State} (g : Nat) (hKs : Kept qs fu s) : Kept qs fu (tickAdopt s g) := by
  unfold tickAdopt; (repeat' (first | with_reducible assumption | with_reducible (first | apply kept_setTicker)))

theorem kept_execTick (gen at_ : Nat) {s : State} (hKs : Kept qs fu s) : KeptAns qs fu (execTick gen at_ s) := by
  unfold execTick
  (repeat' (first | with_reducible assumption
                  | with_reducible (first | apply Kept_if | apply KeptAns_if | apply kept_publish | apply kept_setTicker
                                          | apply kept_done | apply kept_tickAdopt)
                  | (with_reducible apply Kept_foldl; intro _ _ _) | simp only [Kept_mk, KeptAt_self, KeptAns_next] | split
                  | intro _))

theorem kept_execTrigInputEdge (trig : Nat) (rising : Bool) {s : State} (hKs : Kept qs fu s)
    : KeptAns qs fu (execTrigInputEdge trig rising s) := by
  unfold execTrigInputEdge
  (repeat' (first | with_reducible assumption
                  | with_reducible (first | apply Kept_if | apply KeptAns_if | apply kept_publish | apply kept_done)
                  | (with_reducible apply Kept_foldl; intro _ _ _) | simp only [Kept_mk, KeptAt_self, KeptAns_next] | split
                  | intro _))

theorem kept_execEddyOutputEdge (cell : Nat) {s : State} (hKs : Kept qs fu s) : KeptAns qs fu (execEddyOutputEdge cell s) :=
    by
  unfold execEddyOutputEdge
  (repeat' (first | with_reducible assumption
                  | with_reducible (first | apply Kept_if | apply KeptAns_if | apply kept_done | apply kept_eddyExpire
                                          | apply kept_eddyPublish) | (with_reducible apply Kept_foldl; intro _ _ _)
                  | simp only [Kept_mk, KeptAt_self, KeptAns_next] | split | intro _))

theorem kept_execEddyStretchEnd (cell input : Nat) {s : State} (hKs : Kept qs fu s)
    : KeptAns qs fu (execEddyStretchEnd cell input s) := by
  unfold execEddyStretchEnd
  (repeat' (first | with_reducible assumption
                  | with_reducible (first | apply Kept_if | apply KeptAns_if | apply kept_done | apply kept_eddyExpire)
                  | (with_reducible apply Kept_foldl; intro _ _ _) | simp only [Kept_mk, KeptAt_self, KeptAns_next] | split
                  | intro _))

theorem kept_execSevRelease (sev : Nat) {s : State} (hKs : Kept qs fu s) : KeptAns qs fu (execSevRelease sev s) := by
  unfold execSevRelease
  (repeat' (first | with_reducible assumption | with_reducible (first | apply Kept_if | apply KeptAns_if)
                  | (with_reducible apply Kept_foldl; intro _ _ _) | simp only [Kept_mk, KeptAt_self, KeptAns_next] | split
                  | intro _))

theorem kept_execEvfEchoPulse {s : State} (hKs : Kept qs fu s) : KeptAns qs fu (execEvfEchoPulse s) := by
  unfold execEvfEchoPulse
  (repeat' (first | with_reducible assumption
                  | with_reducible (first | apply Kept_if | apply KeptAns_if | apply kept_restGroup)
                  | (with_reducible apply Kept_foldl; intro _ _ _) | simp only [Kept_mk, KeptAt_self, KeptAns_next] | split
                  | intro _))

theorem kept_execFabricArm (p : Pkt) {s : State} (hKs : Kept qs fu s) : KeptAns qs fu (execFabricArm p s) := by
  unfold execFabricArm
  (repeat' (first | with_reducible assumption
                  | with_reducible (first | apply Kept_if | apply KeptRes_if | apply KeptAns_if | apply kept_enterMode
                                          | apply kept_ok | apply kept_refuse | apply kept_runCmd)
                  | (with_reducible apply Kept_foldl; intro _ _ _)
                  | simp only [Kept_mk, KeptAt_self, KeptRes_done, KeptRes_later, KeptAns_next] | split | intro _))

theorem kept_execEvfTestEnter (p : Pkt) {s : State} (hKs : Kept qs fu s) : KeptAns qs fu (execEvfTestEnter p s) := by
  unfold execEvfTestEnter
  (repeat' (first | with_reducible assumption
                  | with_reducible (first | apply Kept_if | apply KeptRes_if | apply KeptAns_if | apply kept_enterMode
                                          | apply kept_ok | apply kept_refuse | apply kept_runCmd)
                  | (with_reducible apply Kept_foldl; intro _ _ _)
                  | simp only [Kept_mk, KeptAt_self, KeptRes_done, KeptRes_later, KeptAns_next] | split | intro _))

theorem kept_execEvfTestExit (p : Pkt) {s : State} (hKs : Kept qs fu s) : KeptAns qs fu (execEvfTestExit p s) := by
  unfold execEvfTestExit
  (repeat' (first | with_reducible assumption
                  | with_reducible (first | apply Kept_if | apply KeptRes_if | apply KeptAns_if | apply kept_enterMode
                                          | apply kept_ok | apply kept_refuse | apply kept_runCmd)
                  | (with_reducible apply Kept_foldl; intro _ _ _)
                  | simp only [Kept_mk, KeptAt_self, KeptRes_done, KeptRes_later, KeptAns_next] | split | intro _))

theorem kept_execEventFire (p : Pkt) {s : State} (hKs : Kept qs fu s) : KeptAns qs fu (execEventFire p s) := by
  unfold execEventFire
  (repeat' (first | with_reducible assumption
                  | with_reducible (first | apply Kept_if | apply KeptRes_if | apply KeptAns_if | apply kept_publish
                                          | apply kept_ok | apply kept_runCmd)
                  | (with_reducible apply Kept_foldl; intro _ _ _)
                  | simp only [Kept_mk, KeptAt_self, KeptRes_done, KeptRes_later, KeptAns_next] | split | intro _))

theorem kept_execEvfClear (p : Pkt) {s : State} (hKs : Kept qs fu s) : KeptAns qs fu (execEvfClear p s) := by
  unfold execEvfClear
  (repeat' (first | with_reducible assumption
                  | with_reducible (first | apply Kept_if | apply KeptRes_if | apply KeptAns_if | apply kept_setCon
                                          | apply kept_wr | apply kept_ok | apply kept_runCmd)
                  | (with_reducible apply Kept_foldl; intro _ _ _)
                  | simp only [Kept_mk, KeptAt_self, KeptRes_done, KeptRes_later, KeptAns_next] | split | intro _))

theorem kept_execCuRead (p : Pkt) (_wr : Option HostFault) {s : State} (hKs : Kept qs fu s)
    : KeptAns qs fu (execCuRead p _wr s) := by
  unfold execCuRead
  (repeat' (first | with_reducible assumption
                  | with_reducible (first | apply Kept_if | apply KeptRes_if | apply KeptAns_if | apply kept_setCu
                                          | apply kept_hostPut | apply kept_ok | apply kept_refuse | apply kept_runCmd)
                  | (with_reducible apply Kept_foldl; intro _ _ _)
                  | simp only [Kept_mk, KeptAt_self, KeptRes_done, KeptRes_later, KeptAns_next] | split | intro _))

theorem kept_reselect {old new : State} (r : PRef) (hKnew : Kept qs fu new) :
    KeptEx qs fu id (reselect old new r) := by
  unfold reselect
  apply KeptEx_if
  · trivial
  · exact Kept_foldl (fun _ _ hK => Kept_if (kept_countSuspended (kept_setCon _ _ hK)) hK) _ hKnew

theorem kept_eddyWritten {s : State} (n : Nat) (hKs : Kept qs fu s) : Kept qs fu (eddyWritten s n) := by
  unfold eddyWritten; (repeat' (first | with_reducible assumption | with_reducible (first | apply kept_setCell)))

theorem kept_tickWritten {s : State} (g : Nat) (hKs : Kept qs fu s) : Kept qs fu (tickWritten s g) := by
  unfold tickWritten
  (repeat' (first | with_reducible assumption | with_reducible (first | apply Kept_if | apply kept_tickAdopt)
                  | (with_reducible apply Kept_foldl; intro _ _ _) | simp only [Kept_mk, KeptAt_self] | split | intro _))

theorem kept_execHvRampEnd (ch : Nat) {s : State} (hKs : Kept qs fu s) : KeptAns qs fu (execHvRampEnd ch s) := by
  unfold execHvRampEnd
  (repeat' (first | with_reducible assumption
                  | with_reducible (first | apply Kept_if | apply KeptAns_if | apply kept_put | apply kept_setCh
                                          | apply kept_done) | (with_reducible apply Kept_foldl; intro _ _ _)
                  | simp only [Kept_mk, KeptAt_self, KeptAns_next] | split | intro _))

theorem kept_execHvBoostStarted {s : State} (hKs : Kept qs fu s) : KeptAns qs fu (execHvBoostStarted s) := by
  unfold execHvBoostStarted
  (repeat' (first | with_reducible assumption
                  | with_reducible (first | apply Kept_if | apply KeptAns_if | apply kept_put | apply kept_done)
                  | (with_reducible apply Kept_foldl; intro _ _ _) | simp only [Kept_mk, KeptAt_self, KeptAns_next] | split
                  | intro _))

theorem kept_execHvBoostStop {s : State} (hKs : Kept qs fu s) : KeptAns qs fu (execHvBoostStop s) := by
  unfold execHvBoostStop
  (repeat' (first | with_reducible assumption
                  | with_reducible (first | apply Kept_if | apply KeptAns_if | apply kept_put | apply kept_done)
                  | (with_reducible apply Kept_foldl; intro _ _ _) | simp only [Kept_mk, KeptAt_self, KeptAns_next] | split
                  | intro _))

theorem kept_faultHv {s : State} (c : Nat) (hKs : Kept qs fu s) : Kept qs fu (faultHv s c) := by
  unfold faultHv
  (repeat' (first | with_reducible assumption | with_reducible (first | apply Kept_if | apply kept_setCh | apply kept_toFault)
                  | (with_reducible apply Kept_foldl; intro _ _ _) | simp only [Kept_mk, KeptAt_self] | split | intro _))

theorem kept_execHvBoostFault {s : State} (hKs : Kept qs fu s) : KeptAns qs fu (execHvBoostFault s) := by
  unfold execHvBoostFault
  (repeat' (first | with_reducible assumption
                  | with_reducible (first | apply Kept_if | apply KeptAns_if | apply kept_put | apply kept_done
                                          | apply kept_faultHv | apply kept_record | apply kept_recordEach)
                  | (with_reducible apply Kept_foldl; intro _ _ _) | simp only [Kept_mk, KeptAt_self, KeptAns_next] | split
                  | intro _))

theorem kept_execHvHwIlimit (ch : Nat) {s : State} (hKs : Kept qs fu s) : KeptAns qs fu (execHvHwIlimit ch s) := by
  unfold execHvHwIlimit
  (repeat' (first | with_reducible assumption
                  | with_reducible (first | apply Kept_if | apply KeptAns_if | apply kept_done | apply kept_record)
                  | (with_reducible apply Kept_foldl; intro _ _ _) | simp only [Kept_mk, KeptAt_self, KeptAns_next] | split
                  | intro _))

theorem kept_dischargeChan {s : State} (c : Nat) (hKs : Kept qs fu s) : Kept qs fu (dischargeChan s c) := by
  unfold dischargeChan
  (repeat' (first | with_reducible assumption
                  | with_reducible (first | apply Kept_if | apply kept_setCh | apply kept_toTripped)
                  | (with_reducible apply Kept_foldl; intro _ _ _) | simp only [Kept_mk, KeptAt_self] | split | intro _))

theorem kept_interlockActs {s : State} (hKs : Kept qs fu s) : Kept qs fu (interlockActs s) := by
  unfold interlockActs
  (repeat' (first | with_reducible assumption
                  | with_reducible (first | apply Kept_if | apply kept_put | apply kept_dischargeChan)
                  | (with_reducible apply Kept_foldl; intro _ _ _) | simp only [Kept_mk, KeptAt_self] | split | intro _))

theorem kept_stampOpen {s : State} (hKs : Kept qs fu s) : Kept qs fu (stampOpen s) := by
  exact hKs

theorem kept_openLoop {s : State} (hKs : Kept qs fu s) : Kept qs fu (openLoop s) := by
  unfold openLoop
  (repeat' (first | with_reducible assumption
                  | with_reducible (first | apply kept_publish | apply kept_put | apply kept_interlockActs
                                          | apply kept_stampOpen)))

theorem kept_openInterlock {s : State} (hKs : Kept qs fu s) : Kept qs fu (openInterlock s) := by
  unfold openInterlock
  (repeat' (first | with_reducible assumption
                  | with_reducible (first | apply Kept_if | apply kept_openLoop | apply kept_record)
                  | (with_reducible apply Kept_foldl; intro _ _ _) | simp only [Kept_mk, KeptAt_self] | split | intro _))

theorem kept_execInterlockOpen {s : State} (hKs : Kept qs fu s) : KeptAns qs fu (execInterlockOpen s) := by
  unfold execInterlockOpen
  (repeat' (first | with_reducible assumption
                  | with_reducible (first | apply Kept_if | apply KeptAns_if | apply kept_done | apply kept_openInterlock
                                          | apply kept_stampOpen) | (with_reducible apply Kept_foldl; intro _ _ _)
                  | simp only [Kept_mk, KeptAt_self, KeptAns_next] | split | intro _))

theorem kept_execInterlockClosed {s : State} (hKs : Kept qs fu s) : KeptAns qs fu (execInterlockClosed s) := by
  unfold execInterlockClosed
  (repeat' (first | with_reducible assumption
                  | with_reducible (first | apply Kept_if | apply KeptAns_if | apply kept_put | apply kept_done)
                  | (with_reducible apply Kept_foldl; intro _ _ _) | simp only [Kept_mk, KeptAt_self, KeptAns_next] | split
                  | intro _))

theorem kept_execHvDischargeDone (ch past : Nat) {s : State} (hKs : Kept qs fu s)
    : KeptAns qs fu (execHvDischargeDone ch past s) := by
  unfold execHvDischargeDone
  (repeat' (first | with_reducible assumption
                  | with_reducible (first | apply Kept_if | apply KeptAns_if | apply kept_put | apply kept_setCh
                                          | apply kept_done) | (with_reducible apply Kept_foldl; intro _ _ _)
                  | simp only [Kept_mk, KeptAt_self, KeptAns_next] | split | intro _))

theorem kept_execDischargeSlow (ch : Nat) {s : State} (hKs : Kept qs fu s) : KeptAns qs fu (execDischargeSlow ch s) := by
  unfold execDischargeSlow
  (repeat' (first | with_reducible assumption
                  | with_reducible (first | apply Kept_if | apply KeptAns_if | apply kept_done | apply kept_record)
                  | (with_reducible apply Kept_foldl; intro _ _ _) | simp only [Kept_mk, KeptAt_self, KeptAns_next] | split
                  | intro _))

theorem kept_execHvDischargePeriodEnd (ch : Nat) {s : State} (hKs : Kept qs fu s)
    : KeptAns qs fu (execHvDischargePeriodEnd ch s) := by
  unfold execHvDischargePeriodEnd
  (repeat' (first | with_reducible assumption
                  | with_reducible (first | apply Kept_if | apply KeptAns_if | apply kept_setCh | apply kept_done)
                  | (with_reducible apply Kept_foldl; intro _ _ _) | simp only [Kept_mk, KeptAt_self, KeptAns_next] | split
                  | intro _))

theorem kept_fixedEffect {s : State} (blk inst code : Nat) (inj : Bool) (hKs : Kept qs fu s)
    : Kept qs fu (fixedEffect s blk inst code inj) := by
  unfold fixedEffect
  (repeat' (first | with_reducible assumption
                  | with_reducible (first | apply Kept_if | apply kept_put | apply kept_faultHv | apply kept_openLoop
                                          | apply kept_recordFixed | apply kept_toTripped)
                  | (with_reducible apply Kept_foldl; intro _ _ _) | simp only [Kept_mk, KeptAt_self] | split | intro _))

theorem kept_recordAgain {s : State} (blk inst : Nat) (again : List Nat) (hKs : Kept qs fu s)
    : Kept qs fu (recordAgain s blk inst again) := by
  unfold recordAgain
  (repeat' (first | with_reducible assumption
                  | with_reducible (first | apply Kept_if | apply kept_fixedEffect | apply kept_recordHits)
                  | (with_reducible apply Kept_foldl; intro _ _ _) | simp only [Kept_mk, KeptAt_self] | split | intro _))

theorem kept_clearFlags {s : State} (blk inst mask : Nat) (again : List Nat) (hKs : Kept qs fu s)
    : Kept qs fu (clearFlags s blk inst mask again) := by
  unfold clearFlags
  (repeat' (first | with_reducible assumption
                  | with_reducible (first | apply Kept_if | apply kept_put | apply kept_setWin | apply kept_pinRecovers)
                  | (with_reducible apply Kept_foldl; intro _ _ _) | simp only [Kept_mk, KeptAt_self] | split | intro _))

theorem kept_execStatusW1c (blk inst mask : Nat) (again : List Nat) {s : State} (hKs : Kept qs fu s)
    : KeptAns qs fu (execStatusW1c blk inst mask again s) := by
  unfold execStatusW1c
  (repeat' (first | with_reducible assumption
                  | with_reducible (first | apply Kept_if | apply KeptAns_if | apply kept_clearFlags | apply kept_done
                                          | apply kept_recordAgain) | (with_reducible apply Kept_foldl; intro _ _ _)
                  | simp only [Kept_mk, KeptAt_self, KeptAns_next] | split | intro _))

theorem kept_clearHistory {s : State} (blk inst : Nat) (hKs : Kept qs fu s) : Kept qs fu (clearHistory s blk inst) := by
  unfold clearHistory; (repeat' (first | with_reducible assumption | with_reducible (first | apply kept_setWin)))

theorem kept_execStatusClrHist (blk inst : Nat) (again : List Nat) {s : State} (hKs : Kept qs fu s)
    : KeptAns qs fu (execStatusClrHist blk inst again s) := by
  unfold execStatusClrHist
  (repeat' (first | with_reducible assumption
                  | with_reducible (first | apply Kept_if | apply KeptAns_if | apply kept_clearHistory | apply kept_done
                                          | apply kept_recordAgain) | (with_reducible apply Kept_foldl; intro _ _ _)
                  | simp only [Kept_mk, KeptAt_self, KeptAns_next] | split | intro _))

theorem kept_writeReaction {s : State} (blk inst v : Nat) (hKs : Kept qs fu s) : Kept qs fu (writeReaction s blk inst v) := by
  unfold writeReaction
  (repeat' (first | with_reducible assumption | with_reducible (first | apply Kept_if | apply kept_setWin)
                  | (with_reducible apply Kept_foldl; intro _ _ _) | simp only [Kept_mk, KeptAt_self] | split | intro _))

theorem kept_execReactionWrite (blk inst value : Nat) {s : State} (hKs : Kept qs fu s)
    : KeptAns qs fu (execReactionWrite blk inst value s) := by
  unfold execReactionWrite
  (repeat' (first | with_reducible assumption
                  | with_reducible (first | apply Kept_if | apply KeptAns_if | apply kept_done | apply kept_writeReaction)
                  | (with_reducible apply Kept_foldl; intro _ _ _) | simp only [Kept_mk, KeptAt_self, KeptAns_next] | split
                  | intro _))

theorem kept_injectEffect {s : State} (blk inst code : Nat) (hKs : Kept qs fu s)
    : Kept qs fu (injectEffect s blk inst code) := by
  unfold injectEffect
  (repeat' (first | with_reducible assumption
                  | with_reducible (first | apply Kept_if | apply kept_setAvg | apply kept_setConv | apply kept_setPort
                                          | apply kept_setSequencer | apply kept_setStream | apply kept_setTb
                                          | apply kept_fixedEffect | apply kept_refLost)
                  | (with_reducible apply Kept_foldl; intro _ _ _) | simp only [Kept_mk, KeptAt_self] | split | intro _))

theorem kept_markInjected {t : State} {s : State} (hKt : Kept qs fu t) (hKs : Kept qs fu s)
    : Kept qs fu (markInjected t s) := by
  unfold markInjected
  (repeat' (first | with_reducible assumption | with_reducible (first | apply Kept_if | apply kept_setCh)
                  | (with_reducible apply Kept_foldl; intro _ _ _) | simp only [Kept_mk, KeptAt_self] | split | intro _))

theorem kept_injectNow {s : State} (blk inst : Nat) (hKs : Kept qs fu s) : Kept qs fu (injectNow s blk inst) := by
  unfold injectNow
  (repeat' (first | with_reducible assumption
                  | with_reducible (first | apply Kept_if | apply kept_setWin | apply kept_injectEffect
                                          | apply kept_markInjected | apply kept_recordHits | apply kept_settle)
                  | (with_reducible apply Kept_foldl; intro _ _ _) | simp only [Kept_mk, KeptAt_self] | split | intro _))

theorem kept_writeInject {s : State} (blk inst v : Nat) (hKs : Kept qs fu s) : Kept qs fu (writeInject s blk inst v) := by
  unfold writeInject
  (repeat' (first | with_reducible assumption
                  | with_reducible (first | apply Kept_if | apply kept_setWin | apply kept_injectNow)
                  | (with_reducible apply Kept_foldl; intro _ _ _) | simp only [Kept_mk, KeptAt_self] | split | intro _))

theorem kept_execInjectGo (blk inst value : Nat) {s : State} (hKs : Kept qs fu s)
    : KeptAns qs fu (execInjectGo blk inst value s) := by
  unfold execInjectGo
  (repeat' (first | with_reducible assumption
                  | with_reducible (first | apply Kept_if | apply KeptAns_if | apply kept_done | apply kept_writeInject)
                  | (with_reducible apply Kept_foldl; intro _ _ _) | simp only [Kept_mk, KeptAt_self, KeptAns_next] | split
                  | intro _))

theorem kept_execInjectRepeat (blk inst : Nat) {s : State} (hKs : Kept qs fu s)
    : KeptAns qs fu (execInjectRepeat blk inst s) := by
  unfold execInjectRepeat
  (repeat' (first | with_reducible assumption
                  | with_reducible (first | apply Kept_if | apply KeptAns_if | apply kept_done | apply kept_injectNow)
                  | (with_reducible apply Kept_foldl; intro _ _ _) | simp only [Kept_mk, KeptAt_self, KeptAns_next] | split
                  | intro _))

theorem kept_spoilDram {s : State} (x : DramWord) (hKs : Kept qs fu s) : Kept qs fu (spoilDram s x) := by
  cases x <;> (unfold spoilDram; (repeat' (first | with_reducible assumption
                                                 | with_reducible (first | apply Kept_if | apply kept_setSequencer
                                                                         | apply kept_setStream)
                                                 | (with_reducible apply Kept_foldl; intro _ _ _)
                                                 | simp only [Kept_mk, KeptAt_self] | split | intro _)))

theorem kept_spoilSram {s : State} (x : SramWord) (hKs : Kept qs fu s) : Kept qs fu (spoilSram s x) := by
  cases x <;> (unfold spoilSram; (repeat' (first | with_reducible assumption
                                                 | with_reducible (first | apply Kept_if | apply kept_setSequencer)
                                                 | (with_reducible apply Kept_foldl; intro _ _ _)
                                                 | simp only [Kept_mk, KeptAt_self] | split | intro _)))

theorem kept_scrubFound {s : State} (fixed bad : List (Nat × Nat)) (late : Bool) (hKs : Kept qs fu s)
    : Kept qs fu (scrubFound s fixed bad late) := by
  unfold scrubFound
  (repeat' (first | with_reducible assumption
                  | with_reducible (first | apply Kept_if | apply kept_corrected | apply kept_record | apply kept_uncorrected)
                  | (with_reducible apply Kept_foldl; intro _ _ _) | simp only [Kept_mk, KeptAt_self] | split | intro _))

theorem kept_newScrub {s : State} (k : Nat) (hKs : Kept qs fu s) : Kept qs fu (newScrub s k) := by
  exact hKs

theorem kept_execDramScrub (corrected bad : List DramWord) (late : Bool) (progress : Nat) {s : State} (hKs : Kept qs fu s)
    : KeptAns qs fu (execDramScrub corrected bad late progress s) := by
  unfold execDramScrub
  (repeat' (first | with_reducible assumption
                  | with_reducible (first | apply Kept_if | apply KeptAns_if | apply kept_put | apply kept_corrected
                                          | apply kept_done | apply kept_newScrub | apply kept_scrubFound
                                          | apply kept_spoilDram) | (with_reducible apply Kept_foldl; intro _ _ _)
                  | simp only [Kept_mk, KeptAt_self, KeptAns_next] | split | intro _))

theorem kept_execSramScrub (corrected bad : List SramWord) (late : Bool) {s : State} (hKs : Kept qs fu s)
    : KeptAns qs fu (execSramScrub corrected bad late s) := by
  unfold execSramScrub
  (repeat' (first | with_reducible assumption
                  | with_reducible (first | apply Kept_if | apply KeptAns_if | apply kept_corrected | apply kept_done
                                          | apply kept_newScrub | apply kept_scrubFound | apply kept_spoilSram)
                  | (with_reducible apply Kept_foldl; intro _ _ _) | simp only [Kept_mk, KeptAt_self, KeptAns_next] | split
                  | intro _))

theorem kept_execShadowCompare (mismatches : List (Nat × Nat)) {s : State} (hKs : Kept qs fu s)
    : KeptAns qs fu (execShadowCompare mismatches s) := by
  unfold execShadowCompare
  (repeat' (first | with_reducible assumption
                  | with_reducible (first | apply Kept_if | apply KeptAns_if | apply kept_done | apply kept_record
                                          | apply kept_recordChan) | (with_reducible apply Kept_foldl; intro _ _ _)
                  | simp only [Kept_mk, KeptAt_self, KeptAns_next] | split | intro _))

theorem kept_ringTail {s : State} (q value : Nat) (hKs : Kept qs fu s) : Kept qs fu (ringTail s q value) := by
  unfold ringTail
  (repeat' (first | with_reducible assumption | with_reducible (first | apply Kept_if | apply kept_setSq | apply kept_hlCause)
                  | (with_reducible apply Kept_foldl; intro _ _ _) | simp only [Kept_mk, KeptAt_self] | split | intro _))

theorem kept_execSqTailDoorbell (q value : Nat) {s : State} (hKs : Kept qs fu s)
    : KeptAns qs fu (execSqTailDoorbell q value s) := by
  unfold execSqTailDoorbell
  (repeat' (first | with_reducible assumption
                  | with_reducible (first | apply Kept_if | apply KeptAns_if | apply kept_done | apply kept_ringTail)
                  | (with_reducible apply Kept_foldl; intro _ _ _) | simp only [Kept_mk, KeptAt_self, KeptAns_next] | split
                  | intro _))

theorem kept_cqWaits {s : State} (q : Nat) (hKs : Kept qs fu s) : Kept qs fu (cqWaits s q) := by
  unfold cqWaits
  (repeat' (first | with_reducible assumption | with_reducible (first | apply Kept_if | apply kept_setCq | apply kept_hlCause)
                  | (with_reducible apply Kept_foldl; intro _ _ _) | simp only [Kept_mk, KeptAt_self] | split | intro _))

theorem kept_ringHead {s : State} (q value : Nat) (hKs : Kept qs fu s) : Kept qs fu (ringHead s q value) := by
  unfold ringHead
  (repeat' (first | with_reducible assumption
                  | with_reducible (first | apply Kept_if | apply kept_setCq | apply kept_cqWaits | apply kept_hlCause)
                  | (with_reducible apply Kept_foldl; intro _ _ _) | simp only [Kept_mk, KeptAt_self] | split | intro _))

theorem kept_execCqHeadDoorbell (q value : Nat) {s : State} (hKs : Kept qs fu s)
    : KeptAns qs fu (execCqHeadDoorbell q value s) := by
  unfold execCqHeadDoorbell
  (repeat' (first | with_reducible assumption
                  | with_reducible (first | apply Kept_if | apply KeptAns_if | apply kept_done | apply kept_ringHead)
                  | (with_reducible apply Kept_foldl; intro _ _ _) | simp only [Kept_mk, KeptAt_self, KeptAns_next] | split
                  | intro _))

theorem kept_flushQueue {s : State} (q : Nat) (hKs : Kept qs fu s) : Kept qs fu (flushQueue s q) := by
  unfold flushQueue
  (repeat' (first | with_reducible assumption | with_reducible (first | apply Kept_if | apply kept_complete)
                  | (with_reducible apply Kept_foldl; intro _ _ _) | simp only [Kept_mk, KeptAt_self] | split | intro _))

theorem kept_setSqEnable {s : State} (q : Nat) (on : Bool) (hKs : Kept qs fu s) : Kept qs fu (setSqEnable s q on) := by
  unfold setSqEnable
  (repeat' (first | with_reducible assumption
                  | with_reducible (first | apply Kept_if | apply kept_setSq | apply kept_flushQueue | apply kept_hlCause)
                  | (with_reducible apply Kept_foldl; intro _ _ _) | simp only [Kept_mk, KeptAt_self] | split | intro _))

theorem kept_noticeGone {s : State} (c : Cpl) (hKs : Kept qs fu s) : Kept qs fu (noticeGone s c) := by
  unfold noticeGone
  (repeat' (first | with_reducible assumption | with_reducible (first | apply Kept_if | apply kept_setStream)
                  | (with_reducible apply Kept_foldl; intro _ _ _) | simp only [Kept_mk, KeptAt_self] | split | intro _))

theorem kept_setCqEnable {s : State} (q : Nat) (on : Bool) (hKs : Kept qs fu s) : Kept qs fu (setCqEnable s q on) := by
  unfold setCqEnable
  (repeat' (first | with_reducible assumption
                  | with_reducible (first | apply Kept_if | apply kept_setCq | apply kept_hlCause | apply kept_noticeGone)
                  | (with_reducible apply Kept_foldl; intro _ _ _) | simp only [Kept_mk, KeptAt_self] | split | intro _))

theorem kept_execSqEnableWrite (q : Nat) (value : Bool) {s : State} (hKs : Kept qs fu s)
    : KeptAns qs fu (execSqEnableWrite q value s) := by
  unfold execSqEnableWrite
  (repeat' (first | with_reducible assumption
                  | with_reducible (first | apply Kept_if | apply KeptAns_if | apply kept_done | apply kept_setSqEnable)
                  | (with_reducible apply Kept_foldl; intro _ _ _) | simp only [Kept_mk, KeptAt_self, KeptAns_next] | split
                  | intro _))

theorem kept_execCqEnableWrite (q : Nat) (value : Bool) {s : State} (hKs : Kept qs fu s)
    : KeptAns qs fu (execCqEnableWrite q value s) := by
  unfold execCqEnableWrite
  (repeat' (first | with_reducible assumption
                  | with_reducible (first | apply Kept_if | apply KeptAns_if | apply kept_done | apply kept_setCqEnable)
                  | (with_reducible apply Kept_foldl; intro _ _ _) | simp only [Kept_mk, KeptAt_self, KeptAns_next] | split
                  | intro _))

theorem kept_addOp {s : State} (p : Pkt) (hKs : Kept qs fu s) : Kept qs fu (addOp s p) := by
  exact hKs

theorem kept_execPacketFetch {s : State} (hKs : Kept qs fu s) : KeptAns qs fu (execPacketFetch s) := by
  unfold execPacketFetch
  (repeat' (first | with_reducible assumption
                  | with_reducible (first | apply Kept_if | apply KeptAns_if | apply kept_request | apply kept_setSq
                                          | apply kept_addOp | apply kept_done | apply kept_ringFails)
                  | (with_reducible apply Kept_foldl; intro _ _ _) | simp only [Kept_mk, KeptAt_self, KeptAns_next] | split
                  | intro _ | refine kept_reachWait ?_ (by assumption) | refine kept_reachFail ?_ (by assumption)))

theorem kept_arriveOne (q : Nat) {s : State} (ws : List Nat) (hKs : Kept qs fu s) : Kept qs fu (arriveOne q s ws) := by
  unfold arriveOne
  (repeat' (first | with_reducible assumption
                  | with_reducible (first | apply Kept_if | apply kept_complete | apply kept_addOp)
                  | (with_reducible apply Kept_foldl; intro _ _ _) | simp only [Kept_mk, KeptAt_self] | split | intro _))

theorem kept_execPacketArrive (q : Nat) (packets : List (List Nat)) (fault : Option HostFault) {s : State}
    (hKs : Kept qs fu s) : KeptAns qs fu (execPacketArrive q packets fault s) := by
  unfold execPacketArrive
  (repeat' (first | with_reducible assumption
                  | with_reducible (first | apply Kept_if | apply KeptAns_if | apply kept_setSq | apply kept_arriveOne
                                          | apply kept_done | apply kept_hostFaulted | apply kept_ringFails)
                  | (with_reducible apply Kept_foldl; intro _ _ _) | simp only [Kept_mk, KeptAt_self, KeptAns_next] | split
                  | intro _))

theorem kept_judgedNow {s : State} (p : Pkt) (hKs : Kept qs fu s) : Kept qs fu (judgedNow s p) := by
  exact hKs

theorem kept_execCommandDispatch {s : State} (hKs : Kept qs fu s) : KeptAns qs fu (execCommandDispatch s) := by
  unfold execCommandDispatch
  (repeat' (first | with_reducible assumption
                  | with_reducible (first | apply Kept_if | apply KeptAns_if | apply kept_complete | apply kept_done
                                          | apply kept_judgedNow) | (with_reducible apply Kept_foldl; intro _ _ _)
                  | simp only [Kept_mk, KeptAt_self, KeptAns_next] | split | intro _))

theorem kept_cqInterrupt {s : State} (q : Nat) (hKs : Kept qs fu s) : Kept qs fu (cqInterrupt s q) := by
  unfold cqInterrupt
  (repeat' (first | with_reducible assumption | with_reducible (first | apply kept_raise | apply kept_setCq)))

theorem kept_completionWritten {s : State} (c : Cpl) (hKs : Kept qs fu s) : Kept qs fu (completionWritten s c) := by
  unfold completionWritten
  (repeat' (first | with_reducible assumption | with_reducible (first | apply Kept_if | apply kept_noticeGone)
                  | (with_reducible apply Kept_foldl; intro _ _ _) | simp only [Kept_mk, KeptAt_self] | split | intro _))

theorem kept_postOne {s : State} (q pa : Nat) (c : Cpl) (rest : List Cpl) (hKs : Kept qs fu s)
    : Kept qs fu (postOne s q pa c rest) := by
  unfold postOne
  (repeat' (first | with_reducible assumption
                  | with_reducible (first | apply Kept_if | apply kept_request | apply kept_setCq
                                          | apply kept_completionWritten | apply kept_cqInterrupt | apply kept_cqWaits
                                          | apply kept_restGroup) | (with_reducible apply Kept_foldl; intro _ _ _)
                  | simp only [Kept_mk, KeptAt_self] | split | intro _))

theorem kept_execCompletionPost (q : Nat) (_fault : Option HostFault) {s : State} (hKs : Kept qs fu s)
    : KeptAns qs fu (execCompletionPost q _fault s) := by
  unfold execCompletionPost
  (repeat' (first | with_reducible assumption
                  | with_reducible (first | apply Kept_if | apply KeptAns_if | apply kept_cqWaits | apply kept_done
                                          | apply kept_postFails | apply kept_postOne | apply kept_restGroup)
                  | (with_reducible apply Kept_foldl; intro _ _ _) | simp only [Kept_mk, KeptAt_self, KeptAns_next] | split
                  | intro _ | refine kept_reachWait ?_ (by assumption) | refine kept_reachFail ?_ (by assumption)))

theorem kept_execCqInterruptTimer (q : Nat) {s : State} (hKs : Kept qs fu s) : KeptAns qs fu (execCqInterruptTimer q s) := by
  unfold execCqInterruptTimer
  (repeat' (first | with_reducible assumption
                  | with_reducible (first | apply Kept_if | apply KeptAns_if | apply kept_cqInterrupt)
                  | (with_reducible apply Kept_foldl; intro _ _ _) | simp only [Kept_mk, KeptAt_self, KeptAns_next] | split
                  | intro _))

theorem kept_mbxGo {s : State} (hKs : Kept qs fu s) : Kept qs fu (mbxGo s) := by
  unfold mbxGo
  (repeat' (first | with_reducible assumption | with_reducible (first | apply Kept_if | apply kept_addOp | apply kept_hlCause)
                  | (with_reducible apply Kept_foldl; intro _ _ _) | simp only [Kept_mk, KeptAt_self] | split | intro _))

theorem kept_execMbxGo {s : State} (hKs : Kept qs fu s) : KeptAns qs fu (execMbxGo s) := by
  unfold execMbxGo
  (repeat' (first | with_reducible assumption
                  | with_reducible (first | apply Kept_if | apply KeptAns_if | apply kept_done | apply kept_mbxGo)
                  | (with_reducible apply Kept_foldl; intro _ _ _) | simp only [Kept_mk, KeptAt_self, KeptAns_next] | split
                  | intro _))

theorem kept_execNop (p : Pkt) {s : State} (hKs : Kept qs fu s) : KeptAns qs fu (execNop p s) := by
  unfold execNop; (repeat' (first | with_reducible assumption | with_reducible (first | apply kept_ok | apply kept_runCmd)))

theorem kept_execIdentify (p : Pkt) {s : State} (hKs : Kept qs fu s) : KeptAns qs fu (execIdentify p s) := by
  unfold execIdentify
  (repeat' (first | with_reducible assumption
                  | with_reducible (first | apply Kept_if | apply KeptRes_if | apply KeptAns_if | apply kept_ok
                                          | apply kept_refuse | apply kept_runCmd)
                  | (with_reducible apply Kept_foldl; intro _ _ _)
                  | simp only [Kept_mk, KeptAt_self, KeptRes_done, KeptRes_later, KeptAns_next] | split | intro _))

theorem kept_execSetNow (p : Pkt) {s : State} (hKs : Kept qs fu s) : KeptAns qs fu (execSetNow p s) := by
  unfold execSetNow
  generalize sfld 24 (pw p 2) = v
  apply kept_runCmd _ _ _ hKs
  split
  · exact kept_refuse _ hKs
  · rename_i c _
    have h := kept_setSetpoint c v true hKs
    apply KeptRes_if (kept_refuse _ hKs)
    split
    · exact kept_refuse _ hKs
    · have ht := KeptEx.fst h (by assumption)
      exact KeptRes_if (kept_ok _ ht) ht

theorem kept_execTrigger (p : Pkt) {s : State} (hKs : Kept qs fu s) : KeptAns qs fu (execTrigger p s) := by
  unfold execTrigger
  (repeat' (first | with_reducible assumption
                  | with_reducible (first | apply Kept_if | apply KeptRes_if | apply KeptAns_if | apply kept_deliver
                                          | apply kept_ok | apply kept_refuse | apply kept_runCmd)
                  | (with_reducible apply Kept_foldl; intro _ _ _)
                  | simp only [Kept_mk, KeptAt_self, KeptRes_done, KeptRes_later, KeptAns_next] | split | intro _))

theorem kept_execStatusRead (p : Pkt) {s : State} (hKs : Kept qs fu s) : KeptAns qs fu (execStatusRead p s) := by
  unfold execStatusRead
  (repeat' (first | with_reducible assumption
                  | with_reducible (first | apply Kept_if | apply KeptRes_if | apply KeptAns_if | apply kept_ok
                                          | apply kept_refuse | apply kept_runCmd)
                  | (with_reducible apply Kept_foldl; intro _ _ _)
                  | simp only [Kept_mk, KeptAt_self, KeptRes_done, KeptRes_later, KeptAns_next] | split | intro _))

theorem kept_execNowReserve (p : Pkt) {s : State} (hKs : Kept qs fu s) : KeptAns qs fu (execNowReserve p s) := by
  unfold execNowReserve
  (repeat' (first | with_reducible assumption
                  | with_reducible (first | apply Kept_if | apply KeptRes_if | apply KeptAns_if | apply kept_setCh
                                          | apply kept_grantCh | apply kept_ok | apply kept_refuse | apply kept_runCmd)
                  | (with_reducible apply Kept_foldl; intro _ _ _)
                  | simp only [Kept_mk, KeptAt_self, KeptRes_done, KeptRes_later, KeptAns_next] | split | intro _
                  | refine KeptEx.state ?_ (by assumption)))

end Sys2Proof.Machine
end

