-- ==== Sys2Proof/Laws/KeptVane.lean ====
section
/-!
SUPPORT. What each function keeps (the queue, the canonical form, a blown fuse): mesh, power, Vane, images, tests, resets.
-/
set_option linter.unusedTactic false
set_option linter.unreachableTactic false
set_option linter.unusedSimpArgs false
namespace Sys2Proof.Machine
variable {qs : List Instr} {fu : Bool}

theorem kept_mshCause {s : State} (inst code : Nat) (hKs : Kept qs fu s) : Kept qs fu (mshCause s inst code) := by
  unfold mshCause; (repeat' (first | with_reducible assumption | with_reducible (first | apply kept_record)))

theorem kept_setMsh {s : State} (m : Msh) (hKs : Kept qs fu s) : Kept qs fu (State.setMsh s m) := by
  exact hKs

theorem kept_releaseHeld {s : State} (hKs : Kept qs fu s) : Kept qs fu (releaseHeld s) := by
  unfold releaseHeld
  (repeat' (first | with_reducible assumption
                  | with_reducible (first | apply Kept_if | apply kept_frameTo | apply kept_setMsh)
                  | (with_reducible apply Kept_foldl; intro _ _ _) | simp only [Kept_mk, KeptAt_self] | split | intro _))

theorem kept_askAgain {s : State} (hKs : Kept qs fu s) : Kept qs fu (askAgain s) := by
  unfold askAgain
  (repeat' (first | with_reducible assumption
                  | with_reducible (first | apply Kept_if | apply kept_setMsh | apply kept_setStream)
                  | (with_reducible apply Kept_foldl; intro _ _ _) | simp only [Kept_mk, KeptAt_self] | split | intro _))

theorem kept_startRepair {s : State} (hKs : Kept qs fu s) : Kept qs fu (startRepair s) := by
  unfold startRepair
  (repeat' (first | with_reducible assumption
                  | with_reducible (first | apply Kept_if | apply kept_sendFrame | apply kept_setMsh)
                  | (with_reducible apply Kept_foldl; intro _ _ _) | simp only [Kept_mk, KeptAt_self] | split | intro _))

theorem kept_repairOwed {s : State} (hKs : Kept qs fu s) : Kept qs fu (repairOwed s) := by
  unfold repairOwed
  (repeat' (first | with_reducible assumption
                  | with_reducible (first | apply Kept_if | apply kept_setMsh | apply kept_startRepair)
                  | (with_reducible apply Kept_foldl; intro _ _ _) | simp only [Kept_mk, KeptAt_self] | split | intro _))

theorem kept_learn {s : State} (g : MeshGraph) (claimed : Bool) (hKs : Kept qs fu s) : Kept qs fu (learn s g claimed) := by
  unfold learn
  (repeat' (first | with_reducible assumption
                  | with_reducible (first | apply Kept_if | apply kept_put | apply kept_setMsh | apply kept_setPort)
                  | (with_reducible apply Kept_foldl; intro _ _ _) | simp only [Kept_mk, KeptAt_self] | split | intro _))

theorem kept_dropForwards {s : State} (hKs : Kept qs fu s) : Kept qs fu (dropForwards s) := by
  unfold dropForwards
  (repeat' (first | with_reducible assumption
                  | with_reducible (first | apply Kept_if | apply kept_complete | apply kept_setMsh)
                  | (with_reducible apply Kept_foldl; intro _ _ _) | simp only [Kept_mk, KeptAt_self] | split | intro _))

theorem kept_syncOff {s : State} (hKs : Kept qs fu s) : Kept qs fu (syncOff s) := by
  unfold syncOff; (repeat' (first | with_reducible assumption | with_reducible (first | apply kept_put | apply kept_setMsh)))

theorem kept_dropTimeCtl {s : State} (hKs : Kept qs fu s) : Kept qs fu (dropTimeCtl s) := by
  unfold dropTimeCtl
  (repeat' (first | with_reducible assumption
                  | with_reducible (first | apply Kept_if | apply kept_complete | apply kept_setMsh)
                  | (with_reducible apply Kept_foldl; intro _ _ _) | simp only [Kept_mk, KeptAt_self] | split | intro _))

theorem kept_loseEnum {s : State} (hKs : Kept qs fu s) : Kept qs fu (loseEnum s) := by
  unfold loseEnum
  (repeat' (first | with_reducible assumption
                  | with_reducible (first | apply Kept_if | apply kept_complete | apply kept_setMsh)
                  | (with_reducible apply Kept_foldl; intro _ _ _) | simp only [Kept_mk, KeptAt_self] | split | intro _))

theorem kept_dropFar {s : State} (hKs : Kept qs fu s) : Kept qs fu (dropFar s) := by
  unfold dropFar
  (repeat' (first | with_reducible assumption
                  | with_reducible (first | apply Kept_if | apply KeptRes_if | apply kept_askAgain | apply kept_finish
                                          | apply kept_refuse) | (with_reducible apply Kept_foldl; intro _ _ _)
                  | simp only [Kept_mk, KeptAt_self, KeptRes_done, KeptRes_later] | split | intro _))

theorem kept_leaveMesh {s : State} (hKs : Kept qs fu s) : Kept qs fu (leaveMesh s) := by
  unfold leaveMesh
  (repeat' (first | with_reducible assumption
                  | with_reducible (first | apply Kept_if | apply kept_setMsh | apply kept_setPort | apply kept_dropFar
                                          | apply kept_dropForwards | apply kept_dropTimeCtl | apply kept_syncOff)
                  | (with_reducible apply Kept_foldl; intro _ _ _) | simp only [Kept_mk, KeptAt_self] | split | intro _))

theorem kept_standAlone {s : State} (gen : Nat) (hKs : Kept qs fu s) : Kept qs fu (standAlone s gen) := by
  unfold standAlone
  (repeat' (first | with_reducible assumption | with_reducible (first | apply kept_put | apply kept_leaveMesh)))

theorem kept_passNewer {s : State} (gen : Nat) (but : Option Nat) (hKs : Kept qs fu s) : Kept qs fu (passNewer s gen but) :=
    by
  unfold passNewer
  (repeat' (first | with_reducible assumption | with_reducible (first | apply Kept_if | apply kept_sendFrame)
                  | (with_reducible apply Kept_foldl; intro _ _ _) | simp only [Kept_mk, KeptAt_self] | split | intro _))

theorem kept_portGone {s : State} (p : Nat) (hKs : Kept qs fu s) : Kept qs fu (portGone s p) := by
  unfold portGone
  (repeat' (first | with_reducible assumption
                  | with_reducible (first | apply Kept_if | apply kept_put | apply kept_setMsh | apply kept_setPort
                                          | apply kept_startRepair | apply kept_syncLost)
                  | (with_reducible apply Kept_foldl; intro _ _ _) | simp only [Kept_mk, KeptAt_self] | split | intro _))

theorem kept_dropLoopback {s : State} (p : Nat) (hKs : Kept qs fu s) : Kept qs fu (dropLoopback s p) := by
  unfold dropLoopback
  (repeat' (first | with_reducible assumption
                  | with_reducible (first | apply Kept_if | apply kept_complete | apply kept_setPort)
                  | (with_reducible apply Kept_foldl; intro _ _ _) | simp only [Kept_mk, KeptAt_self] | split | intro _))

theorem kept_disablePort {s : State} (p : Nat) (hKs : Kept qs fu s) : Kept qs fu (disablePort s p) := by
  unfold disablePort
  (repeat' (first | with_reducible assumption
                  | with_reducible (first | apply kept_put | apply kept_dropLoopback | apply kept_portGone)))

theorem kept_meshDown {s : State} (hKs : Kept qs fu s) : Kept qs fu (meshDown s) := by
  unfold meshDown
  (repeat' (first | with_reducible assumption | with_reducible (first | apply Kept_if | apply kept_disablePort)
                  | (with_reducible apply Kept_foldl; intro _ _ _) | simp only [Kept_mk, KeptAt_self] | split | intro _))

theorem kept_meshBack {s : State} (hKs : Kept qs fu s) : Kept qs fu (meshBack s) := by
  unfold meshBack
  (repeat' (first | with_reducible assumption | with_reducible (first | apply Kept_if | apply kept_put)
                  | (with_reducible apply Kept_foldl; intro _ _ _) | simp only [Kept_mk, KeptAt_self] | split | intro _))

theorem kept_writePortEn {s : State} (p : Nat) (v : Int) (hKs : Kept qs fu s) : KeptEx qs fu id (writePortEn s p v) := by
  unfold writePortEn
  (repeat' (first | with_reducible assumption
                  | with_reducible (first | apply Kept_if | apply KeptRes_if | apply KeptEx_if | apply kept_put
                                          | apply kept_disablePort | apply kept_ok)
                  | (with_reducible apply Kept_foldl; intro _ _ _)
                  | simp only [Kept_mk, KeptAt_self, KeptRes_done, KeptRes_later, KeptEx_ok, KeptEx_error, id] | split
                  | intro _))

theorem kept_execPortEnWrite (port : Nat) (value : Int) {s : State} (hKs : Kept qs fu s)
    : KeptAns qs fu (execPortEnWrite port value s) := by
  unfold execPortEnWrite
  (repeat' (first | with_reducible assumption
                  | with_reducible (first | apply Kept_if | apply KeptAns_if | apply kept_writePortEn | apply kept_written)
                  | (with_reducible apply Kept_foldl; intro _ _ _) | simp only [Kept_mk, KeptAt_self, KeptAns_next] | split
                  | intro _ | refine KeptEx.state ?_ (by assumption)))

theorem kept_execPortSignalDetect (port : Nat) {s : State} (hKs : Kept qs fu s)
    : KeptAns qs fu (execPortSignalDetect port s) := by
  unfold execPortSignalDetect
  (repeat' (first | with_reducible assumption | with_reducible (first | apply Kept_if | apply KeptAns_if | apply kept_put)
                  | (with_reducible apply Kept_foldl; intro _ _ _) | simp only [Kept_mk, KeptAt_self, KeptAns_next] | split
                  | intro _))

theorem kept_execPortTrainingDone (port lanes delay peer : Nat) (same : Bool) {s : State} (hKs : Kept qs fu s)
    : KeptAns qs fu (execPortTrainingDone port lanes delay peer same s) := by
  unfold execPortTrainingDone
  (repeat' (first | with_reducible assumption
                  | with_reducible (first | apply Kept_if | apply KeptAns_if | apply kept_put | apply kept_setPort
                                          | apply kept_done | apply kept_mshCause | apply kept_startRepair)
                  | (with_reducible apply Kept_foldl; intro _ _ _) | simp only [Kept_mk, KeptAt_self, KeptAns_next] | split
                  | intro _))

theorem kept_execPortTrainingFail (port : Nat) {s : State} (hKs : Kept qs fu s)
    : KeptAns qs fu (execPortTrainingFail port s) := by
  unfold execPortTrainingFail
  (repeat' (first | with_reducible assumption
                  | with_reducible (first | apply Kept_if | apply KeptAns_if | apply kept_put | apply kept_setPort)
                  | (with_reducible apply Kept_foldl; intro _ _ _) | simp only [Kept_mk, KeptAt_self, KeptAns_next] | split
                  | intro _))

theorem kept_execPortTrainingRetry (port : Nat) {s : State} (hKs : Kept qs fu s)
    : KeptAns qs fu (execPortTrainingRetry port s) := by
  unfold execPortTrainingRetry
  (repeat' (first | with_reducible assumption | with_reducible (first | apply Kept_if | apply KeptAns_if | apply kept_put)
                  | (with_reducible apply Kept_foldl; intro _ _ _) | simp only [Kept_mk, KeptAt_self, KeptAns_next] | split
                  | intro _))

theorem kept_portDrops {s : State} (p : Nat) (hKs : Kept qs fu s) : Kept qs fu (portDrops s p) := by
  unfold portDrops
  (repeat' (first | with_reducible assumption
                  | with_reducible (first | apply kept_put | apply kept_dropLoopback | apply kept_mshCause
                                          | apply kept_portGone)))

theorem kept_execPortLinkLoss (port : Nat) {s : State} (hKs : Kept qs fu s) : KeptAns qs fu (execPortLinkLoss port s) := by
  unfold execPortLinkLoss
  (repeat' (first | with_reducible assumption
                  | with_reducible (first | apply Kept_if | apply KeptAns_if | apply kept_done | apply kept_portDrops)
                  | (with_reducible apply Kept_foldl; intro _ _ _) | simp only [Kept_mk, KeptAt_self, KeptAns_next] | split
                  | intro _))

theorem kept_meshCmd {s : State} {k : Res} (hKs : Kept qs fu s) (hKk : KeptRes qs fu k) : KeptRes qs fu (meshCmd s k) := by
  unfold meshCmd
  (repeat' (first | with_reducible assumption | with_reducible (first | apply Kept_if | apply KeptRes_if | apply kept_refuse)
                  | (with_reducible apply Kept_foldl; intro _ _ _)
                  | simp only [Kept_mk, KeptAt_self, KeptRes_done, KeptRes_later] | split | intro _))

theorem kept_execMeshEnumerate (p : Pkt) {s : State} (hKs : Kept qs fu s) : KeptAns qs fu (execMeshEnumerate p s) := by
  unfold execMeshEnumerate
  (repeat' (first | with_reducible assumption
                  | with_reducible (first | apply Kept_if | apply KeptRes_if | apply KeptAns_if | apply kept_put
                                          | apply kept_setMsh | apply kept_leaveMesh | apply kept_loseEnum
                                          | apply kept_meshCmd | apply kept_runCmd)
                  | (with_reducible apply Kept_foldl; intro _ _ _)
                  | simp only [Kept_mk, KeptAt_self, KeptRes_done, KeptRes_later, KeptAns_next] | split | intro _))

theorem kept_execMeshEnumerateDone (g : MeshGraph) {s : State} (hKs : Kept qs fu s)
    : KeptAns qs fu (execMeshEnumerateDone g s) := by
  unfold execMeshEnumerateDone
  (repeat' (first | with_reducible assumption
                  | with_reducible (first | apply Kept_if | apply KeptAns_if | apply kept_complete | apply kept_setMsh
                                          | apply kept_done | apply kept_learn | apply kept_repairOwed)
                  | (with_reducible apply Kept_foldl; intro _ _ _) | simp only [Kept_mk, KeptAt_self, KeptAns_next] | split
                  | intro _))

theorem kept_claimed {s : State} (port gen hops : Nat) (id : Option Nat) (rootSerial : Nat) (hKs : Kept qs fu s)
    : Kept qs fu (claimed s port gen hops id rootSerial) := by
  unfold claimed
  (repeat' (first | with_reducible assumption
                  | with_reducible (first | apply Kept_if | apply kept_put | apply kept_setMsh | apply kept_leaveMesh
                                          | apply kept_loseEnum | apply kept_mshCause | apply kept_standAlone)
                  | (with_reducible apply Kept_foldl; intro _ _ _) | simp only [Kept_mk, KeptAt_self] | split | intro _))

theorem kept_newerSeen {s : State} (port gen : Nat) (hKs : Kept qs fu s) : Kept qs fu (newerSeen s port gen) := by
  unfold newerSeen
  (repeat' (first | with_reducible assumption | with_reducible (first | apply Kept_if | apply kept_setMsh)
                  | (with_reducible apply Kept_foldl; intro _ _ _) | simp only [Kept_mk, KeptAt_self] | split | intro _))

theorem kept_execGenerationTimeout {s : State} (hKs : Kept qs fu s) : KeptAns qs fu (execGenerationTimeout s) := by
  unfold execGenerationTimeout
  (repeat' (first | with_reducible assumption
                  | with_reducible (first | apply Kept_if | apply KeptAns_if | apply kept_setMsh | apply kept_done
                                          | apply kept_loseEnum | apply kept_passNewer | apply kept_standAlone)
                  | (with_reducible apply Kept_foldl; intro _ _ _) | simp only [Kept_mk, KeptAt_self, KeptAns_next] | split
                  | intro _))

theorem kept_answerOne {s : State} (f : Fwd) (status : Nat) (res : List Nat) (hKs : Kept qs fu s)
    : Kept qs fu (answerOne s f status res) := by
  unfold answerOne
  (repeat' (first | with_reducible assumption | with_reducible (first | apply kept_complete | apply kept_setMsh)))

theorem kept_broadcastCheck {s : State} (f : Fwd) (hKs : Kept qs fu s) : Kept qs fu (broadcastCheck s f) := by
  unfold broadcastCheck
  (repeat' (first | with_reducible assumption
                  | with_reducible (first | apply Kept_if | apply kept_setMsh | apply kept_answerOne)
                  | (with_reducible apply Kept_foldl; intro _ _ _) | simp only [Kept_mk, KeptAt_self] | split | intro _))

theorem kept_memberAnswers {s : State} (node fid status : Nat) (res : List Nat) (hKs : Kept qs fu s)
    : Kept qs fu (memberAnswers s node fid status res) := by
  unfold memberAnswers
  (repeat' (first | with_reducible assumption
                  | with_reducible (first | apply Kept_if | apply kept_answerOne | apply kept_broadcastCheck)
                  | (with_reducible apply Kept_foldl; intro _ _ _) | simp only [Kept_mk, KeptAt_self] | split | intro _))

theorem kept_lostMembers {s : State} (f : Fwd) (hKs : Kept qs fu s) : Kept qs fu (lostMembers s f) := by
  unfold lostMembers
  (repeat' (first | with_reducible assumption
                  | with_reducible (first | apply Kept_if | apply kept_answerOne | apply kept_broadcastCheck)
                  | (with_reducible apply Kept_foldl; intro _ _ _) | simp only [Kept_mk, KeptAt_self] | split | intro _))

theorem kept_timeCtlCheck {s : State} (hKs : Kept qs fu s) : Kept qs fu (timeCtlCheck s) := by
  unfold timeCtlCheck
  (repeat' (first | with_reducible assumption
                  | with_reducible (first | apply Kept_if | apply kept_complete | apply kept_setMsh)
                  | (with_reducible apply Kept_foldl; intro _ _ _) | simp only [Kept_mk, KeptAt_self] | split | intro _))

theorem kept_execRouteRepairDone (g : MeshGraph) {s : State} (hKs : Kept qs fu s)
    : KeptAns qs fu (execRouteRepairDone g s) := by
  unfold execRouteRepairDone
  (repeat' (first | with_reducible assumption
                  | with_reducible (first | apply Kept_if | apply KeptAns_if | apply kept_put | apply kept_askAgain
                                          | apply kept_done | apply kept_learn | apply kept_lostMembers | apply kept_mshCause
                                          | apply kept_releaseHeld | apply kept_syncLost | apply kept_timeCtlCheck)
                  | (with_reducible apply Kept_foldl; intro _ _ _) | simp only [Kept_mk, KeptAt_self, KeptAns_next] | split
                  | intro _))

theorem kept_floodOn {s : State} (words : List Nat) (hops : Nat) (but : Option Nat) (hKs : Kept qs fu s)
    : Kept qs fu (floodOn s words hops but) := by
  unfold floodOn
  (repeat' (first | with_reducible assumption | with_reducible (first | apply Kept_if | apply kept_sendFrame)
                  | (with_reducible apply Kept_foldl; intro _ _ _) | simp only [Kept_mk, KeptAt_self] | split | intro _))

theorem kept_execMeshForward (p : Pkt) (d : HostData) {s : State} (hKs : Kept qs fu s)
    : KeptAns qs fu (execMeshForward p d s) := by
  unfold execMeshForward
  (repeat' (first | with_reducible assumption
                  | with_reducible (first | apply Kept_if | apply KeptRes_if | apply KeptAns_if | apply kept_frameTo
                                          | apply kept_setMsh | apply kept_done | apply kept_floodOn | apply kept_meshCmd
                                          | apply kept_refuse | apply kept_runBlock)
                  | (with_reducible apply Kept_foldl; intro _ _ _)
                  | simp only [Kept_mk, KeptAt_self, KeptRes_done, KeptRes_later, KeptAns_next] | split | intro _))

theorem kept_execMeshRouteRead (p : Pkt) (_wr : Option HostFault) {s : State} (hKs : Kept qs fu s)
    : KeptAns qs fu (execMeshRouteRead p _wr s) := by
  unfold execMeshRouteRead
  (repeat' (first | with_reducible assumption
                  | with_reducible (first | apply Kept_if | apply KeptRes_if | apply KeptAns_if | apply kept_hostPut
                                          | apply kept_meshCmd | apply kept_ok | apply kept_refuse | apply kept_runCmd)
                  | (with_reducible apply Kept_foldl; intro _ _ _)
                  | simp only [Kept_mk, KeptAt_self, KeptRes_done, KeptRes_later, KeptAns_next] | split | intro _))

theorem kept_execMeshPortCtl (p : Pkt) {s : State} (hKs : Kept qs fu s) : KeptAns qs fu (execMeshPortCtl p s) := by
  unfold execMeshPortCtl
  (repeat' (first | with_reducible assumption
                  | with_reducible (first | apply Kept_if | apply KeptRes_if | apply KeptAns_if | apply kept_emit
                                          | apply kept_put | apply kept_setPort | apply kept_meshCmd | apply kept_ok
                                          | apply kept_portDrops | apply kept_portGone | apply kept_refuse
                                          | apply kept_runCmd) | (with_reducible apply Kept_foldl; intro _ _ _)
                  | simp only [Kept_mk, KeptAt_self, KeptRes_done, KeptRes_later, KeptAns_next] | split | intro _))

theorem kept_execMeshLoopbackEnd (port lanes errors : Nat) {s : State} (hKs : Kept qs fu s)
    : KeptAns qs fu (execMeshLoopbackEnd port lanes errors s) := by
  unfold execMeshLoopbackEnd
  (repeat' (first | with_reducible assumption
                  | with_reducible (first | apply Kept_if | apply KeptAns_if | apply kept_complete | apply kept_put
                                          | apply kept_setPort | apply kept_done | apply kept_mshCause)
                  | (with_reducible apply Kept_foldl; intro _ _ _) | simp only [Kept_mk, KeptAt_self, KeptAns_next] | split
                  | intro _))

theorem kept_timeCtl {s : State} (enable coarse : Bool) (hKs : Kept qs fu s) : Kept qs fu (timeCtl s enable coarse) := by
  unfold timeCtl
  (repeat' (first | with_reducible assumption
                  | with_reducible (first | apply Kept_if | apply kept_put | apply kept_setMsh | apply kept_syncOff)
                  | (with_reducible apply Kept_foldl; intro _ _ _) | simp only [Kept_mk, KeptAt_self] | split | intro _))

theorem kept_execMeshTimeCtl (p : Pkt) {s : State} (hKs : Kept qs fu s) : KeptAns qs fu (execMeshTimeCtl p s) := by
  unfold execMeshTimeCtl
  (repeat' (first | with_reducible assumption
                  | with_reducible (first | apply Kept_if | apply KeptRes_if | apply KeptAns_if | apply kept_frameTo
                                          | apply kept_put | apply kept_setMsh | apply kept_meshCmd | apply kept_ok
                                          | apply kept_refuse | apply kept_runCmd | apply kept_syncOff)
                  | (with_reducible apply Kept_foldl; intro _ _ _)
                  | simp only [Kept_mk, KeptAt_self, KeptRes_done, KeptRes_later, KeptAns_next] | split | intro _))

theorem kept_discardFrame {s : State} (target source fid cls kind : Nat) (hKs : Kept qs fu s)
    : Kept qs fu (discardFrame s target source fid cls kind) := by
  unfold discardFrame
  (repeat' (first | with_reducible assumption
                  | with_reducible (first | apply kept_frameTo | apply kept_mshCause | apply kept_own)))

theorem kept_passOn {s : State} (target source fid hops cls : Nat) (words : List Nat) (hKs : Kept qs fu s)
    : Kept qs fu (passOn s target source fid hops cls words) := by
  unfold passOn
  (repeat' (first | with_reducible assumption
                  | with_reducible (first | apply Kept_if | apply kept_frameTo | apply kept_discardFrame)
                  | (with_reducible apply Kept_foldl; intro _ _ _) | simp only [Kept_mk, KeptAt_self] | split | intro _))

theorem kept_floodArrives {s : State} (port source fid hops : Nat) (words : List Nat) (hKs : Kept qs fu s)
    : Kept qs fu (floodArrives s port source fid hops words) := by
  unfold floodArrives
  (repeat' (first | with_reducible assumption
                  | with_reducible (first | apply Kept_if | apply kept_setMsh | apply kept_addOp | apply kept_discardFrame
                                          | apply kept_floodOn) | (with_reducible apply Kept_foldl; intro _ _ _)
                  | simp only [Kept_mk, KeptAt_self] | split | intro _))

theorem kept_packetArrives {s : State} (port target source fid hops : Nat) (words : List Nat) (hKs : Kept qs fu s)
    : Kept qs fu (packetArrives s port target source fid hops words) := by
  unfold packetArrives
  (repeat' (first | with_reducible assumption
                  | with_reducible (first | apply Kept_if | apply kept_addOp | apply kept_floodArrives | apply kept_passOn)
                  | (with_reducible apply Kept_foldl; intro _ _ _) | simp only [Kept_mk, KeptAt_self] | split | intro _))

theorem kept_discardNotice {s : State} (issuer fid member cls kind : Nat) (hKs : Kept qs fu s)
    : Kept qs fu (discardNotice s issuer fid member cls kind) := by
  unfold discardNotice
  (repeat' (first | with_reducible assumption
                  | with_reducible (first | apply Kept_if | apply KeptRes_if | apply kept_logRec | apply kept_dropXfer
                                          | apply kept_finish | apply kept_memberAnswers | apply kept_refuse)
                  | (with_reducible apply Kept_foldl; intro _ _ _)
                  | simp only [Kept_mk, KeptAt_self, KeptRes_done, KeptRes_later] | split | intro _))

theorem kept_frameBad {s : State} (port cls : Nat) (hKs : Kept qs fu s) : Kept qs fu (frameBad s port cls) := by
  unfold frameBad
  (repeat' (first | with_reducible assumption
                  | with_reducible (first | apply kept_bump | apply kept_emit | apply kept_mshCause)))

theorem kept_replayFrame {s : State} (port cls : Nat) (hKs : Kept qs fu s) : Kept qs fu (replayFrame s port cls) := by
  unfold replayFrame
  (repeat' (first | with_reducible assumption | with_reducible (first | apply Kept_if | apply kept_emit)
                  | (with_reducible apply Kept_foldl; intro _ _ _) | simp only [Kept_mk, KeptAt_self] | split | intro _))

theorem kept_farNotice {s : State} (source q status : Nat) (res : List Nat) (hKs : Kept qs fu s)
    : Kept qs fu (farNotice s source q status res) := by
  unfold farNotice
  (repeat' (first | with_reducible assumption | with_reducible (first | apply Kept_if | apply kept_complete)
                  | (with_reducible apply Kept_foldl; intro _ _ _) | simp only [Kept_mk, KeptAt_self] | split | intro _))

theorem kept_execControlFrameRx (port : Nat) (f : ControlFrame) {s : State} (hKs : Kept qs fu s)
    : KeptAns qs fu (execControlFrameRx port f s) := by
  unfold execControlFrameRx
  (repeat' (first | with_reducible assumption
                  | with_reducible (first | apply Kept_if | apply KeptAns_if | apply kept_frameTo | apply kept_sendFrame
                                          | apply kept_setMsh | apply kept_setPort | apply kept_claimed
                                          | apply kept_discardNotice | apply kept_done | apply kept_farNotice
                                          | apply kept_frameBad | apply kept_learn | apply kept_memberAnswers
                                          | apply kept_newerSeen | apply kept_packetArrives | apply kept_passOn
                                          | apply kept_repairOwed | apply kept_replayFrame | apply kept_startRepair
                                          | apply kept_timeCtl | apply kept_timeCtlCheck)
                  | (with_reducible apply Kept_foldl; intro _ _ _) | simp only [Kept_mk, KeptAt_self, KeptAns_next] | split
                  | intro _))

theorem kept_farAsks {s : State} (source fid : Nat) (st : Option Nat) (addr bytes : Nat) (write : Bool) (words : List Nat) (f
    : Option HostFault) (hKs : Kept qs fu s) : Kept qs fu (farAsks s source fid st addr bytes write words f) := by
  unfold farAsks
  (repeat' (first | with_reducible assumption | with_reducible (first | apply kept_dropXfer | apply kept_startXfer)))

theorem kept_farAnswers {s : State} (source fid : Nat) (st : Option Nat) (addr : Nat) (f : Option HostFault)
    (hKs : Kept qs fu s) : Kept qs fu (farAnswers s source fid st addr f) := by
  unfold farAnswers
  (repeat' (first | with_reducible assumption
                  | with_reducible (first | apply Kept_if | apply kept_forwardDone | apply kept_parkStream
                                          | apply kept_unitDone | apply kept_xferFails)
                  | (with_reducible apply Kept_foldl; intro _ _ _) | simp only [Kept_mk, KeptAt_self] | split | intro _))

theorem kept_execBulkFrameRx (port : Nat) (f : BulkFrame) {s : State} (hKs : Kept qs fu s)
    : KeptAns qs fu (execBulkFrameRx port f s) := by
  unfold execBulkFrameRx
  (repeat' (first | with_reducible assumption
                  | with_reducible (first | apply Kept_if | apply KeptAns_if | apply kept_done | apply kept_farAnswers
                                          | apply kept_farAsks | apply kept_frameBad | apply kept_passOn
                                          | apply kept_replayFrame) | (with_reducible apply Kept_foldl; intro _ _ _)
                  | simp only [Kept_mk, KeptAt_self, KeptAns_next] | split | intro _))

theorem kept_sevLost {s : State} (port : Nat) (cause : Bool) (hKs : Kept qs fu s) : Kept qs fu (sevLost s port cause) := by
  unfold sevLost
  (repeat' (first | with_reducible assumption | with_reducible (first | apply Kept_if | apply kept_bump | apply kept_mshCause)
                  | (with_reducible apply Kept_foldl; intro _ _ _) | simp only [Kept_mk, KeptAt_self] | split | intro _))

theorem kept_sevArrives {s : State} (port : Nat) (f : SevFrame) (hKs : Kept qs fu s) : Kept qs fu (sevArrives s port f) := by
  unfold sevArrives
  (repeat' (first | with_reducible assumption
                  | with_reducible (first | apply Kept_if | apply kept_setMsh | apply kept_record | apply kept_sevCount
                                          | apply kept_sevQueue | apply kept_sevSend)
                  | (with_reducible apply Kept_foldl; intro _ _ _) | simp only [Kept_mk, KeptAt_self] | split | intro _))

theorem kept_execSevFrameRx (port : Nat) (f : SevFrame) {s : State} (hKs : Kept qs fu s)
    : KeptAns qs fu (execSevFrameRx port f s) := by
  unfold execSevFrameRx
  (repeat' (first | with_reducible assumption
                  | with_reducible (first | apply Kept_if | apply KeptAns_if | apply kept_setPort | apply kept_done
                                          | apply kept_sevArrives | apply kept_sevLost)
                  | (with_reducible apply Kept_foldl; intro _ _ _) | simp only [Kept_mk, KeptAt_self, KeptAns_next] | split
                  | intro _))

theorem kept_exchangeEnds {s : State} (far : Nat × Nat) (hKs : Kept qs fu s) : Kept qs fu (exchangeEnds s far) := by
  unfold exchangeEnds
  (repeat' (first | with_reducible assumption | with_reducible (first | apply Kept_if | apply kept_setMsh)
                  | (with_reducible apply Kept_foldl; intro _ _ _) | simp only [Kept_mk, KeptAt_self] | split | intro _))

theorem kept_execTimeFrameRx (port : Nat) (f : TimeFrame) {s : State} (hKs : Kept qs fu s)
    : KeptAns qs fu (execTimeFrameRx port f s) := by
  unfold execTimeFrameRx
  (repeat' (first | with_reducible assumption
                  | with_reducible (first | apply Kept_if | apply KeptAns_if | apply kept_setMsh | apply kept_setPort
                                          | apply kept_exchangeEnds | apply kept_sendTwice)
                  | (with_reducible apply Kept_foldl; intro _ _ _) | simp only [Kept_mk, KeptAt_self, KeptAns_next] | split
                  | intro _))

theorem kept_offsetMoved {s : State} (d : Int) (hKs : Kept qs fu s) : Kept qs fu (offsetMoved s d) := by
  unfold offsetMoved; (repeat' (first | with_reducible assumption | with_reducible (first | apply kept_setMsh)))

theorem kept_steer {s : State} (offset freq : Int) (hKs : Kept qs fu s) : Kept qs fu (steer s offset freq) := by
  unfold steer
  (repeat' (first | with_reducible assumption
                  | with_reducible (first | apply Kept_if | apply kept_put | apply kept_setMsh | apply kept_mshCause
                                          | apply kept_offsetMoved) | (with_reducible apply Kept_foldl; intro _ _ _)
                  | simp only [Kept_mk, KeptAt_self] | split | intro _))

theorem kept_syncStep {s : State} (offset : Int) (hKs : Kept qs fu s) : Kept qs fu (syncStep s offset) := by
  unfold syncStep
  (repeat' (first | with_reducible assumption
                  | with_reducible (first | apply Kept_if | apply kept_logRec | apply kept_put | apply kept_setMsh)
                  | (with_reducible apply Kept_foldl; intro _ _ _) | simp only [Kept_mk, KeptAt_self] | split | intro _))

theorem kept_takeSample {s : State} (x : Int × Int) (freq : Int) (hKs : Kept qs fu s) : Kept qs fu (takeSample s x freq) := by
  unfold takeSample
  (repeat' (first | with_reducible assumption | with_reducible (first | apply kept_put | apply kept_setMsh)))

theorem kept_exchangeActs {s : State} (x : Int × Int) (freq : Int) (hKs : Kept qs fu s)
    : Kept qs fu (exchangeActs s x freq) := by
  unfold exchangeActs
  (repeat' (first | with_reducible assumption
                  | with_reducible (first | apply Kept_if | apply kept_put | apply kept_setMsh | apply kept_steer
                                          | apply kept_syncLost | apply kept_syncStep | apply kept_takeSample)
                  | (with_reducible apply Kept_foldl; intro _ _ _) | simp only [Kept_mk, KeptAt_self] | split | intro _))

theorem kept_execTimeExchange (sent : Nat) (freq : Int) (good : Bool) {s : State} (hKs : Kept qs fu s)
    : KeptAns qs fu (execTimeExchange sent freq good s) := by
  unfold execTimeExchange
  (repeat' (first | with_reducible assumption
                  | with_reducible (first | apply Kept_if | apply KeptAns_if | apply kept_setMsh | apply kept_done
                                          | apply kept_exchangeActs | apply kept_sendTwice)
                  | (with_reducible apply Kept_foldl; intro _ _ _) | simp only [Kept_mk, KeptAt_self, KeptAns_next] | split
                  | intro _))

theorem kept_vaneCause {s : State} (code : Nat) (high : Bool) (hKs : Kept qs fu s) : Kept qs fu (vaneCause s code high) := by
  unfold vaneCause; (repeat' (first | with_reducible assumption | with_reducible (first | apply kept_record)))

theorem kept_sensorEvent {s : State} (n st : Nat) (hKs : Kept qs fu s) : Kept qs fu (sensorEvent s n st) := by
  unfold sensorEvent
  (repeat' (first | with_reducible assumption | with_reducible (first | apply Kept_if | apply kept_emit)
                  | (with_reducible apply Kept_foldl; intro _ _ _) | simp only [Kept_mk, KeptAt_self] | split | intro _))

theorem kept_powerRec {s : State} (kind w6 w7 : Nat) (hKs : Kept qs fu s) : Kept qs fu (powerRec s kind w6 w7) := by
  unfold powerRec; (repeat' (first | with_reducible assumption | with_reducible (first | apply kept_logRec)))

theorem kept_firmwareRec {s : State} (kind image slot old new reason : Nat) (hKs : Kept qs fu s)
    : Kept qs fu (firmwareRec s kind image slot old new reason) := by
  unfold firmwareRec; (repeat' (first | with_reducible assumption | with_reducible (first | apply kept_logRec)))

theorem kept_answerImage {s : State} (cmd : Option (Src × Nat)) (status : Nat) (res : List Nat) (hKs : Kept qs fu s)
    : Kept qs fu (answerImage s cmd status res) := by
  unfold answerImage
  (repeat' (first | with_reducible assumption | with_reducible (first | apply Kept_if | apply kept_complete | apply kept_emit)
                  | (with_reducible apply Kept_foldl; intro _ _ _) | simp only [Kept_mk, KeptAt_self] | split | intro _))

theorem kept_fwState {s : State} (hKs : Kept qs fu s) : Kept qs fu (fwState s) := by
  unfold fwState; (repeat' (first | with_reducible assumption | with_reducible (first | apply kept_put)))

theorem kept_setFlash {s : State} (i : Nat) (v : FlashSlot) (hKs : Kept qs fu s) : Kept qs fu (State.setFlash s i v) := by
  exact hKs

theorem kept_crsEnds {s : State} (hKs : Kept qs fu s) : Kept qs fu (crsEnds s) := by
  unfold crsEnds
  (repeat' (first | with_reducible assumption | with_reducible (first | apply Kept_if)
                  | (with_reducible apply Kept_foldl; intro _ _ _) | simp only [Kept_mk, KeptAt_self] | split | intro _))

theorem kept_activationFails {s : State} (a : Activation) (reason status : Nat) (hKs : Kept qs fu s)
    : Kept qs fu (activationFails s a reason status) := by
  unfold activationFails
  (repeat' (first | with_reducible assumption
                  | with_reducible (first | apply Kept_if | apply kept_answerImage | apply kept_crsEnds
                                          | apply kept_firmwareRec | apply kept_fwState | apply kept_vaneCause)
                  | (with_reducible apply Kept_foldl; intro _ _ _) | simp only [Kept_mk, KeptAt_self] | split | intro _))

theorem kept_stagingFails {s : State} (g : Staging) (status : Nat) (hKs : Kept qs fu s)
    : Kept qs fu (stagingFails s g status) := by
  unfold stagingFails
  (repeat' (first | with_reducible assumption
                  | with_reducible (first | apply Kept_if | apply kept_setFlash | apply kept_answerImage | apply kept_fwState)
                  | (with_reducible apply Kept_foldl; intro _ _ _) | simp only [Kept_mk, KeptAt_self] | split | intro _))

theorem kept_shedImages {s : State} (hKs : Kept qs fu s) : Kept qs fu (shedImages s) := by
  unfold shedImages
  (repeat' (first | with_reducible assumption
                  | with_reducible (first | apply Kept_if | apply kept_activationFails | apply kept_stagingFails)
                  | (with_reducible apply Kept_foldl; intro _ _ _) | simp only [Kept_mk, KeptAt_self] | split | intro _))

theorem kept_shedEngine {s : State} (e : Nat) (hKs : Kept qs fu s) : Kept qs fu (shedEngine s e) := by
  unfold shedEngine
  (repeat' (first | with_reducible assumption
                  | with_reducible (first | apply Kept_if | apply kept_setSlotState | apply kept_abortEngine
                                          | apply kept_unreserve) | (with_reducible apply Kept_foldl; intro _ _ _)
                  | simp only [Kept_mk, KeptAt_self] | split | intro _))

theorem kept_shedCal {s : State} (hKs : Kept qs fu s) : Kept qs fu (shedCal s) := by
  unfold shedCal
  (repeat' (first | with_reducible assumption | with_reducible (first | apply Kept_if | apply kept_complete)
                  | (with_reducible apply Kept_foldl; intro _ _ _) | simp only [Kept_mk, KeptAt_self] | split | intro _))

theorem kept_endRun (status : Nat) {s : State} (r : LoopRun) (hKs : Kept qs fu s) : Kept qs fu (endRun status s r) := by
  unfold endRun
  (repeat' (first | with_reducible assumption
                  | with_reducible (first | apply Kept_if | apply kept_complete | apply kept_restoreRun)
                  | (with_reducible apply Kept_foldl; intro _ _ _) | simp only [Kept_mk, KeptAt_self] | split | intro _))

theorem kept_shedRuns {s : State} (hKs : Kept qs fu s) : Kept qs fu (shedRuns s) := by
  unfold shedRuns
  (repeat' (first | with_reducible assumption | with_reducible (first | apply Kept_if | apply kept_endRun)
                  | (with_reducible apply Kept_foldl; intro _ _ _) | simp only [Kept_mk, KeptAt_self] | split | intro _))

theorem kept_shedChan {s : State} (c : Nat) (hKs : Kept qs fu s) : Kept qs fu (shedChan s c) := by
  unfold shedChan
  (repeat' (first | with_reducible assumption
                  | with_reducible (first | apply Kept_if | apply kept_setCh | apply kept_abortTune | apply kept_settleOpen
                                          | apply kept_startRampDown) | (with_reducible apply Kept_foldl; intro _ _ _)
                  | simp only [Kept_mk, KeptAt_self] | split | intro _))

theorem kept_shedLoads {s : State} (hKs : Kept qs fu s) : Kept qs fu (shedLoads s) := by
  unfold shedLoads
  (repeat' (first | with_reducible assumption
                  | with_reducible (first | apply Kept_if | apply kept_haltLoop | apply kept_openInterlock
                                          | apply kept_pinsHigh | apply kept_shedCal | apply kept_shedChan
                                          | apply kept_shedEngine | apply kept_shedImages | apply kept_shedRuns
                                          | apply kept_uploadFails) | (with_reducible apply Kept_foldl; intro _ _ _)
                  | simp only [Kept_mk, KeptAt_self] | split | intro _))

theorem kept_beginShed {s : State} (src : Nat) (hKs : Kept qs fu s) : Kept qs fu (beginShed s src) := by
  unfold beginShed
  (repeat' (first | with_reducible assumption
                  | with_reducible (first | apply Kept_if | apply kept_bump | apply kept_put | apply kept_powerRec
                                          | apply kept_shedLoads | apply kept_vaneCause)
                  | (with_reducible apply Kept_foldl; intro _ _ _) | simp only [Kept_mk, KeptAt_self] | split | intro _))

theorem kept_setVin {s : State} (mv : Nat) (hKs : Kept qs fu s) : Kept qs fu (State.setVin s mv) := by
  exact hKs

theorem kept_execPowerFailDetect (vin : Nat) {s : State} (hKs : Kept qs fu s) : KeptAns qs fu (execPowerFailDetect vin s) :=
    by
  unfold execPowerFailDetect
  (repeat' (first | with_reducible assumption
                  | with_reducible (first | apply Kept_if | apply KeptAns_if | apply kept_setVin | apply kept_beginShed
                                          | apply kept_done) | (with_reducible apply Kept_foldl; intro _ _ _)
                  | simp only [Kept_mk, KeptAt_self, KeptAns_next] | split | intro _))

theorem kept_execInputOvlo (vin : Nat) {s : State} (hKs : Kept qs fu s) : KeptAns qs fu (execInputOvlo vin s) := by
  unfold execInputOvlo
  (repeat' (first | with_reducible assumption
                  | with_reducible (first | apply Kept_if | apply KeptAns_if | apply kept_setVin | apply kept_beginShed
                                          | apply kept_done | apply kept_vaneCause)
                  | (with_reducible apply Kept_foldl; intro _ _ _) | simp only [Kept_mk, KeptAt_self, KeptAns_next] | split
                  | intro _))

theorem kept_execExternalPfail {s : State} (hKs : Kept qs fu s) : KeptAns qs fu (execExternalPfail s) := by
  unfold execExternalPfail
  (repeat' (first | with_reducible assumption
                  | with_reducible (first | apply Kept_if | apply KeptAns_if | apply kept_beginShed | apply kept_done
                                          | apply kept_vaneCause) | (with_reducible apply Kept_foldl; intro _ _ _)
                  | simp only [Kept_mk, KeptAt_self, KeptAns_next] | split | intro _))

theorem kept_execInputUvloFall (vin : Nat) {s : State} (hKs : Kept qs fu s) : KeptAns qs fu (execInputUvloFall vin s) := by
  unfold execInputUvloFall
  (repeat' (first | with_reducible assumption
                  | with_reducible (first | apply Kept_if | apply KeptAns_if | apply kept_put | apply kept_setVin
                                          | apply kept_abortTune | apply kept_beginShed | apply kept_done
                                          | apply kept_meshDown | apply kept_settleOpen)
                  | (with_reducible apply Kept_foldl; intro _ _ _) | simp only [Kept_mk, KeptAt_self, KeptAns_next] | split
                  | intro _))

theorem kept_pinCmpsBack {s : State} (n : Nat) (hKs : Kept qs fu s) : Kept qs fu (pinCmpsBack s n) := by
  unfold pinCmpsBack
  (repeat' (first | with_reducible assumption | with_reducible (first | apply Kept_if | apply kept_modeChanges)
                  | (with_reducible apply Kept_foldl; intro _ _ _) | simp only [Kept_mk, KeptAt_self] | split | intro _))

theorem kept_pinsAfterShed {s : State} (wake : Bool) (hKs : Kept qs fu s) : Kept qs fu (pinsAfterShed s wake) := by
  unfold pinsAfterShed
  (repeat' (first | with_reducible assumption
                  | with_reducible (first | apply Kept_if | apply kept_put | apply kept_setPin | apply kept_pinCmpsBack)
                  | (with_reducible apply Kept_foldl; intro _ _ _) | simp only [Kept_mk, KeptAt_self] | split | intro _))

theorem kept_execShedRecovery (vin : Nat) {s : State} (hKs : Kept qs fu s) : KeptAns qs fu (execShedRecovery vin s) := by
  unfold execShedRecovery
  (repeat' (first | with_reducible assumption
                  | with_reducible (first | apply Kept_if | apply KeptAns_if | apply kept_put | apply kept_setVin
                                          | apply kept_done | apply kept_pinsAfterShed | apply kept_powerRec
                                          | apply kept_startSearch) | (with_reducible apply Kept_foldl; intro _ _ _)
                  | simp only [Kept_mk, KeptAt_self, KeptAns_next] | split | intro _))

theorem kept_execHoldupTest {s : State} (hKs : Kept qs fu s) : KeptAns qs fu (execHoldupTest s) := by
  unfold execHoldupTest
  (repeat' (first | with_reducible assumption | with_reducible (first | apply Kept_if | apply KeptAns_if)
                  | (with_reducible apply Kept_foldl; intro _ _ _) | simp only [Kept_mk, KeptAt_self, KeptAns_next] | split
                  | intro _))

theorem kept_execHoldupTestMeasured (us : Nat) {s : State} (hKs : Kept qs fu s)
    : KeptAns qs fu (execHoldupTestMeasured us s) := by
  unfold execHoldupTestMeasured
  (repeat' (first | with_reducible assumption
                  | with_reducible (first | apply Kept_if | apply KeptAns_if | apply kept_put | apply kept_done
                                          | apply kept_vaneCause) | (with_reducible apply Kept_foldl; intro _ _ _)
                  | simp only [Kept_mk, KeptAt_self, KeptAns_next] | split | intro _))

theorem kept_execNreset {s : State} (hKs : Kept qs fu s) : KeptAns qs fu (execNreset s) := by
  unfold execNreset
  (repeat' (first | with_reducible assumption
                  | with_reducible (first | apply Kept_if | apply KeptAns_if | apply kept_beginShed | apply kept_done)
                  | (with_reducible apply Kept_foldl; intro _ _ _) | simp only [Kept_mk, KeptAt_self, KeptAns_next] | split
                  | intro _))

theorem kept_execHeartbeatRound {s : State} (hKs : Kept qs fu s) : KeptAns qs fu (execHeartbeatRound s) := by
  unfold execHeartbeatRound
  (repeat' (first | with_reducible assumption | with_reducible (first | apply Kept_if | apply KeptAns_if)
                  | (with_reducible apply Kept_foldl; intro _ _ _) | simp only [Kept_mk, KeptAt_self, KeptAns_next] | split
                  | intro _))

theorem kept_beat (returned : List Island) {s : State} (i : Island) (hKs : Kept qs fu s) : Kept qs fu (beat returned s i) :=
    by
  unfold beat
  (repeat' (first | with_reducible assumption | with_reducible (first | apply Kept_if | apply kept_record)
                  | (with_reducible apply Kept_foldl; intro _ _ _) | simp only [Kept_mk, KeptAt_self] | split | intro _))

theorem kept_execHeartbeatTimeout (returned : List Island) {s : State} (hKs : Kept qs fu s)
    : KeptAns qs fu (execHeartbeatTimeout returned s) := by
  unfold execHeartbeatTimeout
  (repeat' (first | with_reducible assumption
                  | with_reducible (first | apply Kept_if | apply KeptAns_if | apply kept_beat | apply kept_done
                                          | apply kept_sensorEvent) | (with_reducible apply Kept_foldl; intro _ _ _)
                  | simp only [Kept_mk, KeptAt_self, KeptAns_next] | split | intro _))

theorem kept_execLullEnter (p : Pkt) {s : State} (hKs : Kept qs fu s) : KeptAns qs fu (execLullEnter p s) := by
  unfold execLullEnter
  (repeat' (first | with_reducible assumption
                  | with_reducible (first | apply Kept_if | apply KeptRes_if | apply KeptAns_if | apply kept_ok
                                          | apply kept_refuse | apply kept_runCmd)
                  | (with_reducible apply Kept_foldl; intro _ _ _)
                  | simp only [Kept_mk, KeptAt_self, KeptRes_done, KeptRes_later, KeptAns_next] | split | intro _))

theorem kept_setLull {s : State} (v : Nat) (hKs : Kept qs fu s) : Kept qs fu (setLull s v) := by
  unfold setLull
  (repeat' (first | with_reducible assumption | with_reducible (first | apply Kept_if | apply kept_modeChanges)
                  | (with_reducible apply Kept_foldl; intro _ _ _) | simp only [Kept_mk, KeptAt_self] | split | intro _))

theorem kept_leaveEntry {s : State} (hKs : Kept qs fu s) : Kept qs fu (leaveEntry s) := by
  unfold leaveEntry
  (repeat' (first | with_reducible assumption | with_reducible (first | apply Kept_if | apply kept_setLull)
                  | (with_reducible apply Kept_foldl; intro _ _ _) | simp only [Kept_mk, KeptAt_self] | split | intro _))

theorem kept_beginWake {s : State} (hKs : Kept qs fu s) : Kept qs fu (beginWake s) := by
  unfold beginWake
  (repeat' (first | with_reducible assumption
                  | with_reducible (first | apply Kept_if | apply kept_put | apply kept_startSearch)
                  | (with_reducible apply Kept_foldl; intro _ _ _) | simp only [Kept_mk, KeptAt_self] | split | intro _))

theorem kept_execLullEntryDone {s : State} (hKs : Kept qs fu s) : KeptAns qs fu (execLullEntryDone s) := by
  unfold execLullEntryDone
  (repeat' (first | with_reducible assumption
                  | with_reducible (first | apply Kept_if | apply KeptAns_if | apply kept_beginWake | apply kept_done
                                          | apply kept_meshDown | apply kept_pinsHigh | apply kept_powerRec
                                          | apply kept_setLull | apply kept_stopGroup)
                  | (with_reducible apply Kept_foldl; intro _ _ _) | simp only [Kept_mk, KeptAt_self, KeptAns_next] | split
                  | intro _))

theorem kept_execLullL2Timeout {s : State} (hKs : Kept qs fu s) : KeptAns qs fu (execLullL2Timeout s) := by
  unfold execLullL2Timeout
  (repeat' (first | with_reducible assumption
                  | with_reducible (first | apply Kept_if | apply KeptAns_if | apply kept_done | apply kept_leaveEntry
                                          | apply kept_record) | (with_reducible apply Kept_foldl; intro _ _ _)
                  | simp only [Kept_mk, KeptAt_self, KeptAns_next] | split | intro _))

theorem kept_interruptLull {s : State} (c : Src × Nat) (hKs : Kept qs fu s) : Kept qs fu (interruptLull s c) := by
  unfold interruptLull
  (repeat' (first | with_reducible assumption | with_reducible (first | apply Kept_if | apply kept_setCq)
                  | (with_reducible apply Kept_foldl; intro _ _ _) | simp only [Kept_mk, KeptAt_self] | split | intro _))

theorem kept_execLullWakeSource (w : WakeSource) {s : State} (hKs : Kept qs fu s) : KeptAns qs fu (execLullWakeSource w s) :=
    by
  unfold execLullWakeSource
  (repeat' (first | with_reducible assumption
                  | with_reducible (first | apply Kept_if | apply KeptAns_if | apply kept_beginWake | apply kept_done
                                          | apply kept_interruptLull | apply kept_leaveEntry)
                  | (with_reducible apply Kept_foldl; intro _ _ _) | simp only [Kept_mk, KeptAt_self, KeptAns_next] | split
                  | intro _))

theorem kept_putN {s : State} (p : Prm) (v : Nat) (hKs : Kept qs fu s) : Kept qs fu (State.putN s p v) := by
  unfold State.putN; (repeat' (first | with_reducible assumption | with_reducible (first | apply kept_put)))

theorem kept_setVane {s : State} (v : Vane) (hKs : Kept qs fu s) : Kept qs fu (State.setVane s v) := by
  exact hKs

theorem kept_levelBuf {s : State} (hKs : Kept qs fu s) : Kept qs fu (levelBuf s) := by
  unfold levelBuf; (repeat' (first | with_reducible assumption | with_reducible (first | apply kept_putN)))

theorem kept_storeRecord {s : State} (n : Numbered) (hKs : Kept qs fu s) : Kept qs fu (storeRecord s n) := by
  unfold storeRecord
  (repeat' (first | with_reducible assumption | with_reducible (first | apply Kept_if | apply kept_setVane)
                  | (with_reducible apply Kept_foldl; intro _ _ _) | simp only [Kept_mk, KeptAt_self] | split | intro _))

theorem kept_renewOldest {s : State} (hKs : Kept qs fu s) : Kept qs fu (renewOldest s) := by
  unfold renewOldest; (repeat' (first | with_reducible assumption | with_reducible (first | apply kept_putN)))

theorem kept_tellLost {s : State} (hKs : Kept qs fu s) : Kept qs fu (tellLost s) := by
  unfold tellLost
  (repeat' (first | with_reducible assumption
                  | with_reducible (first | apply Kept_if | apply kept_logRec | apply kept_setVane)
                  | (with_reducible apply Kept_foldl; intro _ _ _) | simp only [Kept_mk, KeptAt_self] | split | intro _))

theorem kept_flushAll {s : State} (hKs : Kept qs fu s) : Kept qs fu (flushAll s) := by
  unfold flushAll
  (repeat' (first | with_reducible assumption
                  | with_reducible (first | apply Kept_if | apply kept_putN | apply kept_setVane | apply kept_levelBuf
                                          | apply kept_renewOldest | apply kept_storeRecord)
                  | (with_reducible apply Kept_foldl; intro _ _ _) | simp only [Kept_mk, KeptAt_self] | split | intro _))

theorem kept_numberRecord {s : State} (r : Rec) (late : Bool) (hKs : Kept qs fu s) : Kept qs fu (numberRecord s r late) := by
  unfold numberRecord
  (repeat' (first | with_reducible assumption
                  | with_reducible (first | apply Kept_if | apply kept_bump | apply kept_putN | apply kept_setVane
                                          | apply kept_levelBuf | apply kept_vaneCause)
                  | (with_reducible apply Kept_foldl; intro _ _ _) | simp only [Kept_mk, KeptAt_self] | split | intro _))

theorem kept_execLogRecordArrive {s : State} (hKs : Kept qs fu s) : KeptAns qs fu (execLogRecordArrive s) := by
  unfold execLogRecordArrive
  (repeat' (first | with_reducible assumption
                  | with_reducible (first | apply Kept_if | apply KeptAns_if | apply kept_setVane | apply kept_done
                                          | apply kept_numberRecord) | (with_reducible apply Kept_foldl; intro _ _ _)
                  | simp only [Kept_mk, KeptAt_self, KeptAns_next] | split | intro _))

theorem kept_mediaFails {s : State} (hKs : Kept qs fu s) : Kept qs fu (mediaFails s) := by
  unfold mediaFails
  (repeat' (first | with_reducible assumption
                  | with_reducible (first | apply Kept_if | apply kept_putN | apply kept_setVane | apply kept_levelBuf
                                          | apply kept_restGroup | apply kept_sensorEvent | apply kept_vaneCause)
                  | (with_reducible apply Kept_foldl; intro _ _ _) | simp only [Kept_mk, KeptAt_self] | split | intro _))

theorem kept_flushFirst {s : State} (k : Nat) (hKs : Kept qs fu s) : Kept qs fu (flushFirst s k) := by
  unfold flushFirst
  (repeat' (first | with_reducible assumption
                  | with_reducible (first | apply Kept_if | apply kept_setVane | apply kept_flushAll | apply kept_levelBuf)
                  | (with_reducible apply Kept_foldl; intro _ _ _) | simp only [Kept_mk, KeptAt_self] | split | intro _))

theorem kept_execLogFlush (fails : Option Nat) {s : State} (hKs : Kept qs fu s) : KeptAns qs fu (execLogFlush fails s) := by
  unfold execLogFlush
  (repeat' (first | with_reducible assumption
                  | with_reducible (first | apply Kept_if | apply KeptAns_if | apply kept_done | apply kept_flushAll
                                          | apply kept_flushFirst | apply kept_mediaFails | apply kept_tellLost)
                  | (with_reducible apply Kept_foldl; intro _ _ _) | simp only [Kept_mk, KeptAt_self, KeptAns_next] | split
                  | intro _))

theorem kept_vaneCmd {s : State} (p : Pkt) {k : Res} (hKs : Kept qs fu s) (hKk : KeptRes qs fu k)
    : KeptRes qs fu (vaneCmd s p k) := by
  unfold vaneCmd
  (repeat' (first | with_reducible assumption | with_reducible (first | apply Kept_if | apply KeptRes_if | apply kept_refuse)
                  | (with_reducible apply Kept_foldl; intro _ _ _)
                  | simp only [Kept_mk, KeptAt_self, KeptRes_done, KeptRes_later] | split | intro _))

theorem kept_execLogRead (p : Pkt) (_wr : Option HostFault) {s : State} (hKs : Kept qs fu s)
    : KeptAns qs fu (execLogRead p _wr s) := by
  unfold execLogRead
  (repeat' (first | with_reducible assumption
                  | with_reducible (first | apply Kept_if | apply KeptRes_if | apply KeptAns_if | apply kept_emit
                                          | apply kept_hostPut | apply kept_ok | apply kept_refuse | apply kept_runCmd
                                          | apply kept_vaneCmd) | (with_reducible apply Kept_foldl; intro _ _ _)
                  | simp only [Kept_mk, KeptAt_self, KeptRes_done, KeptRes_later, KeptAns_next] | split | intro _))

theorem kept_execLogClear (p : Pkt) {s : State} (hKs : Kept qs fu s) : KeptAns qs fu (execLogClear p s) := by
  unfold execLogClear
  (repeat' (first | with_reducible assumption
                  | with_reducible (first | apply Kept_if | apply KeptRes_if | apply KeptAns_if | apply kept_putN
                                          | apply kept_flushAll | apply kept_numberRecord | apply kept_ok | apply kept_refuse
                                          | apply kept_runCmd | apply kept_tellLost | apply kept_vaneCmd)
                  | (with_reducible apply Kept_foldl; intro _ _ _)
                  | simp only [Kept_mk, KeptAt_self, KeptRes_done, KeptRes_later, KeptAns_next] | split | intro _))

theorem kept_execSensorRead (p : Pkt) {s : State} (hKs : Kept qs fu s) : KeptAns qs fu (execSensorRead p s) := by
  unfold execSensorRead
  (repeat' (first | with_reducible assumption
                  | with_reducible (first | apply Kept_if | apply KeptRes_if | apply KeptAns_if | apply kept_ok
                                          | apply kept_refuse | apply kept_runCmd | apply kept_vaneCmd)
                  | (with_reducible apply Kept_foldl; intro _ _ _)
                  | simp only [Kept_mk, KeptAt_self, KeptRes_done, KeptRes_later, KeptAns_next] | split | intro _))

theorem kept_overTemp {s : State} (n : Nat) (hKs : Kept qs fu s) : Kept qs fu (overTemp s n) := by
  unfold overTemp
  (repeat' (first | with_reducible assumption
                  | with_reducible (first | apply Kept_if | apply kept_chipCause | apply kept_recordChan)
                  | (with_reducible apply Kept_foldl; intro _ _ _) | simp only [Kept_mk, KeptAt_self] | split | intro _))

theorem kept_enterSensor {s : State} (n st : Nat) (hKs : Kept qs fu s) : Kept qs fu (enterSensor s n st) := by
  unfold enterSensor
  (repeat' (first | with_reducible assumption
                  | with_reducible (first | apply Kept_if | apply kept_overTemp | apply kept_vaneCause)
                  | (with_reducible apply Kept_foldl; intro _ _ _) | simp only [Kept_mk, KeptAt_self] | split | intro _))

theorem kept_sampleSensor (readings : List (Nat × Option Int)) {s : State} (n : Nat) (hKs : Kept qs fu s)
    : Kept qs fu (sampleSensor readings s n) := by
  unfold sampleSensor
  (repeat' (first | with_reducible assumption
                  | with_reducible (first | apply Kept_if | apply kept_setSensor | apply kept_setVane | apply kept_setVin
                                          | apply kept_enterSensor | apply kept_sensorEvent)
                  | (with_reducible apply Kept_foldl; intro _ _ _) | simp only [Kept_mk, KeptAt_self] | split | intro _))

theorem kept_execSensorSample (readings : List (Nat × Option Int)) {s : State} (hKs : Kept qs fu s)
    : KeptAns qs fu (execSensorSample readings s) := by
  unfold execSensorSample
  (repeat' (first | with_reducible assumption
                  | with_reducible (first | apply Kept_if | apply KeptAns_if | apply kept_setVane | apply kept_done
                                          | apply kept_sampleSensor) | (with_reducible apply Kept_foldl; intro _ _ _)
                  | simp only [Kept_mk, KeptAt_self, KeptAns_next] | split | intro _))

theorem kept_barRun {s : State} (hKs : Kept qs fu s) : Kept qs fu (barRun s) := by
  exact hKs

theorem kept_execOvertempShedTimer {s : State} (hKs : Kept qs fu s) : KeptAns qs fu (execOvertempShedTimer s) := by
  unfold execOvertempShedTimer
  (repeat' (first | with_reducible assumption
                  | with_reducible (first | apply Kept_if | apply KeptAns_if | apply kept_barRun | apply kept_beginShed
                                          | apply kept_done | apply kept_vaneCause)
                  | (with_reducible apply Kept_foldl; intro _ _ _) | simp only [Kept_mk, KeptAt_self, KeptAns_next] | split
                  | intro _))

theorem kept_execTcxoCheck (good : Bool) {s : State} (hKs : Kept qs fu s) : KeptAns qs fu (execTcxoCheck good s) := by
  unfold execTcxoCheck
  (repeat' (first | with_reducible assumption
                  | with_reducible (first | apply Kept_if | apply KeptAns_if | apply kept_setVane | apply kept_barRun
                                          | apply kept_beginShed | apply kept_done | apply kept_vaneCause)
                  | (with_reducible apply Kept_foldl; intro _ _ _) | simp only [Kept_mk, KeptAt_self, KeptAns_next] | split
                  | intro _))

theorem kept_execVaneWatchdog {s : State} (hKs : Kept qs fu s) : KeptAns qs fu (execVaneWatchdog s) := by
  unfold execVaneWatchdog
  (repeat' (first | with_reducible assumption
                  | with_reducible (first | apply Kept_if | apply KeptAns_if | apply kept_setVane | apply kept_activationFails
                                          | apply kept_done) | (with_reducible apply Kept_foldl; intro _ _ _)
                  | simp only [Kept_mk, KeptAt_self, KeptAns_next] | split | intro _))

theorem kept_beginStage {s : State} (cmd : Option (Src × Nat)) (kind : Nat) (ws : List Nat) (hKs : Kept qs fu s)
    : Kept qs fu (beginStage s cmd kind ws) := by
  unfold beginStage
  (repeat' (first | with_reducible assumption
                  | with_reducible (first | apply Kept_if | apply kept_setFlash | apply kept_setVane | apply kept_fwState
                                          | apply kept_vaneCause) | (with_reducible apply Kept_foldl; intro _ _ _)
                  | simp only [Kept_mk, KeptAt_self] | split | intro _))

theorem kept_stageImage {s : State} (st : Nat) (cmd : Option (Src × Nat)) (kind bytes : Nat) (ws : List Nat)
    (hKs : Kept qs fu s) : Kept qs fu (stageImage s st cmd kind bytes ws).2 := by
  unfold stageImage
  (repeat' (first | with_reducible assumption
                  | with_reducible (first | apply Kept_if | apply kept_beginStage | apply kept_vaneCause)
                  | (with_reducible apply Kept_foldl; intro _ _ _) | simp only [Kept_mk, KeptAt_self] | split | intro _))

theorem kept_execFwStage (p : Pkt) (d : HostData) {s : State} (hKs : Kept qs fu s) : KeptAns qs fu (execFwStage p d s) := by
  unfold execFwStage
  (repeat' (first | with_reducible assumption
                  | with_reducible (first | apply Kept_if | apply KeptRes_if | apply KeptAns_if | apply kept_refuse
                                          | apply kept_runCmd | apply kept_stageImage | apply kept_vaneCmd
                                          | apply kept_withData) | (with_reducible apply Kept_foldl; intro _ _ _)
                  | simp only [Kept_mk, KeptAt_self, KeptRes_done, KeptRes_later, KeptAns_next] | split | intro _
                  | refine Kept.snd ?_ (by assumption)))

theorem kept_execFwStageDone (good : Bool) {s : State} (hKs : Kept qs fu s) : KeptAns qs fu (execFwStageDone good s) := by
  unfold execFwStageDone
  (repeat' (first | with_reducible assumption
                  | with_reducible (first | apply Kept_if | apply KeptAns_if | apply kept_setFlash | apply kept_setVane
                                          | apply kept_answerImage | apply kept_done | apply kept_firmwareRec
                                          | apply kept_fwState | apply kept_stagingFails)
                  | (with_reducible apply Kept_foldl; intro _ _ _) | simp only [Kept_mk, KeptAt_self, KeptAns_next] | split
                  | intro _))

theorem kept_activate {s : State} (st : Nat) (cmd : Option (Src × Nat)) (kind : Nat) (raise : Bool) (hKs : Kept qs fu s) :
    Kept qs fu (activate s st cmd kind raise).2.2 := by
  have hv : ∀ a b c d e f, Kept qs fu (vaneCause (firmwareRec s a b c d e f) 0x0B) := fun _ _ _ _ _ _ =>
    kept_vaneCause _ _ (kept_firmwareRec _ _ _ _ _ _ hKs)
  unfold activate
  simp only []
  repeat' split
  all_goals first | exact hKs | exact hv _ _ _ _ _ _ | exact kept_fwState (kept_setVane _ hKs)

theorem kept_execFwActivate (p : Pkt) {s : State} (hKs : Kept qs fu s) : KeptAns qs fu (execFwActivate p s) := by
  unfold execFwActivate
  exact kept_runCmd _ _ _ hKs (kept_vaneCmd _ hKs (KeptRes_if (kept_refuse _ hKs) (KeptRes_if (kept_refuse _ hKs)
    (KeptRes_if (kept_activate _ _ _ _ hKs) (kept_activate _ _ _ _ hKs)))))

theorem kept_actStep {s : State} (a : Activation) (n : Nat) (hKs : Kept qs fu s) : Kept qs fu (actStep s a n) := by
  unfold actStep; (repeat' (first | with_reducible assumption | with_reducible (first | apply kept_setVane)))

theorem kept_execFwActDrained {s : State} (hKs : Kept qs fu s) : KeptAns qs fu (execFwActDrained s) := by
  unfold execFwActDrained
  (repeat' (first | with_reducible assumption | with_reducible (first | apply Kept_if | apply KeptAns_if | apply kept_actStep)
                  | (with_reducible apply Kept_foldl; intro _ _ _) | simp only [Kept_mk, KeptAt_self, KeptAns_next] | split
                  | intro _))

theorem kept_execFwActWaitExpiry {s : State} (hKs : Kept qs fu s) : KeptAns qs fu (execFwActWaitExpiry s) := by
  unfold execFwActWaitExpiry
  (repeat' (first | with_reducible assumption
                  | with_reducible (first | apply Kept_if | apply KeptAns_if | apply kept_activationFails | apply kept_done)
                  | (with_reducible apply Kept_foldl; intro _ _ _) | simp only [Kept_mk, KeptAt_self, KeptAns_next] | split
                  | intro _))

theorem kept_execFwActInitTimeout {s : State} (hKs : Kept qs fu s) : KeptAns qs fu (execFwActInitTimeout s) := by
  unfold execFwActInitTimeout
  (repeat' (first | with_reducible assumption
                  | with_reducible (first | apply Kept_if | apply KeptAns_if | apply kept_activationFails | apply kept_done)
                  | (with_reducible apply Kept_foldl; intro _ _ _) | simp only [Kept_mk, KeptAt_self, KeptAns_next] | split
                  | intro _))

theorem kept_execFwActPauseStart {s : State} (hKs : Kept qs fu s) : KeptAns qs fu (execFwActPauseStart s) := by
  unfold execFwActPauseStart
  (repeat' (first | with_reducible assumption
                  | with_reducible (first | apply Kept_if | apply KeptAns_if | apply kept_putN | apply kept_actStep)
                  | (with_reducible apply Kept_foldl; intro _ _ _) | simp only [Kept_mk, KeptAt_self, KeptAns_next] | split
                  | intro _))

theorem kept_swapImage {s : State} (kind : Nat) (hKs : Kept qs fu s) : Kept qs fu (swapImage s kind) := by
  unfold swapImage; (repeat' (first | with_reducible assumption | with_reducible (first | apply kept_setVane)))

theorem kept_execFwSwap {s : State} (hKs : Kept qs fu s) : KeptAns qs fu (execFwSwap s) := by
  unfold execFwSwap
  (repeat' (first | with_reducible assumption
                  | with_reducible (first | apply Kept_if | apply KeptAns_if | apply kept_putN | apply kept_actStep
                                          | apply kept_crsEnds | apply kept_fwState | apply kept_swapImage)
                  | (with_reducible apply Kept_foldl; intro _ _ _) | simp only [Kept_mk, KeptAt_self, KeptAns_next] | split
                  | intro _))

theorem kept_activated {s : State} (a : Activation) (old : Nat) (hKs : Kept qs fu s) : Kept qs fu (activated s a old) := by
  unfold activated
  (repeat' (first | with_reducible assumption
                  | with_reducible (first | apply Kept_if | apply kept_putN | apply kept_raise | apply kept_setVane
                                          | apply kept_answerImage | apply kept_firmwareRec | apply kept_fwState)
                  | (with_reducible apply Kept_foldl; intro _ _ _) | simp only [Kept_mk, KeptAt_self] | split | intro _))

theorem kept_execFwActComplete {s : State} (hKs : Kept qs fu s) : KeptAns qs fu (execFwActComplete s) := by
  unfold execFwActComplete
  (repeat' (first | with_reducible assumption
                  | with_reducible (first | apply Kept_if | apply KeptAns_if | apply kept_activated | apply kept_done)
                  | (with_reducible apply Kept_foldl; intro _ _ _) | simp only [Kept_mk, KeptAt_self, KeptAns_next] | split
                  | intro _))

theorem kept_execMicrocodeBankSwitch {s : State} (hKs : Kept qs fu s) : KeptAns qs fu (execMicrocodeBankSwitch s) := by
  unfold execMicrocodeBankSwitch
  (repeat' (first | with_reducible assumption
                  | with_reducible (first | apply Kept_if | apply KeptAns_if | apply kept_activated | apply kept_done
                                          | apply kept_swapImage) | (with_reducible apply Kept_foldl; intro _ _ _)
                  | simp only [Kept_mk, KeptAt_self, KeptAns_next] | split | intro _))

theorem kept_execVaneFwRestart {s : State} (hKs : Kept qs fu s) : KeptAns qs fu (execVaneFwRestart s) := by
  unfold execVaneFwRestart
  (repeat' (first | with_reducible assumption
                  | with_reducible (first | apply Kept_if | apply KeptAns_if | apply kept_setVane | apply kept_actStep
                                          | apply kept_done | apply kept_flushAll | apply kept_swapImage)
                  | (with_reducible apply Kept_foldl; intro _ _ _) | simp only [Kept_mk, KeptAt_self, KeptAns_next] | split
                  | intro _))

theorem kept_tellQueueLost {s : State} (always : Bool) (hKs : Kept qs fu s) : Kept qs fu (tellQueueLost s always) := by
  unfold tellQueueLost
  (repeat' (first | with_reducible assumption
                  | with_reducible (first | apply Kept_if | apply kept_logRec | apply kept_setVane)
                  | (with_reducible apply Kept_foldl; intro _ _ _) | simp only [Kept_mk, KeptAt_self] | split | intro _))

theorem kept_tellActLost {s : State} (hKs : Kept qs fu s) : Kept qs fu (tellActLost s) := by
  unfold tellActLost
  (repeat' (first | with_reducible assumption
                  | with_reducible (first | apply Kept_if | apply kept_setVane | apply kept_firmwareRec)
                  | (with_reducible apply Kept_foldl; intro _ _ _) | simp only [Kept_mk, KeptAt_self] | split | intro _))

theorem kept_retryMedia {s : State} (hKs : Kept qs fu s) : Kept qs fu (retryMedia s) := by
  unfold retryMedia
  (repeat' (first | with_reducible assumption
                  | with_reducible (first | apply Kept_if | apply kept_draw | apply kept_putN | apply kept_setVane
                                          | apply kept_levelBuf | apply kept_sensorEvent | apply kept_vaneCause)
                  | (with_reducible apply Kept_foldl; intro _ _ _) | simp only [Kept_mk, KeptAt_self] | split | intro _
                  | refine Kept.snd ?_ (by assumption)))

theorem kept_execVaneUp {s : State} (hKs : Kept qs fu s) : KeptAns qs fu (execVaneUp s) := by
  unfold execVaneUp
  (repeat' (first | with_reducible assumption
                  | with_reducible (first | apply Kept_if | apply KeptAns_if | apply kept_setVane | apply kept_activated
                                          | apply kept_done | apply kept_powerRec | apply kept_retryMedia
                                          | apply kept_tellActLost | apply kept_tellQueueLost | apply kept_vaneCause)
                  | (with_reducible apply Kept_foldl; intro _ _ _) | simp only [Kept_mk, KeptAt_self, KeptAns_next] | split
                  | intro _))

theorem kept_execFwStatus (p : Pkt) {s : State} (hKs : Kept qs fu s) : KeptAns qs fu (execFwStatus p s) := by
  unfold execFwStatus
  (repeat' (first | with_reducible assumption
                  | with_reducible (first | apply Kept_if | apply KeptRes_if | apply KeptAns_if | apply kept_ok
                                          | apply kept_refuse | apply kept_runCmd | apply kept_vaneCmd)
                  | (with_reducible apply Kept_foldl; intro _ _ _)
                  | simp only [Kept_mk, KeptAt_self, KeptRes_done, KeptRes_later, KeptAns_next] | split | intro _))

theorem kept_disarm {s : State} (target : Nat) (hKs : Kept qs fu s) : Kept qs fu (disarm s target) := by
  unfold disarm
  (repeat' (first | with_reducible assumption
                  | with_reducible (first | apply Kept_if | apply kept_wrNext | apply kept_tdacChanged)
                  | (with_reducible apply Kept_foldl; intro _ _ _) | simp only [Kept_mk, KeptAt_self] | split | intro _))

theorem kept_disarmAll {s : State} (hKs : Kept qs fu s) : Kept qs fu (disarmAll s) := by
  unfold disarmAll
  (repeat' (first | with_reducible assumption | with_reducible (first | apply Kept_if | apply kept_disarm)
                  | (with_reducible apply Kept_foldl; intro _ _ _) | simp only [Kept_mk, KeptAt_self] | split | intro _))

theorem kept_execLoopbackSet (p : Pkt) {s : State} (hKs : Kept qs fu s) : KeptAns qs fu (execLoopbackSet p s) := by
  unfold execLoopbackSet
  (repeat' (first | with_reducible assumption
                  | with_reducible (first | apply Kept_if | apply KeptRes_if | apply KeptAns_if | apply kept_disarm
                                          | apply kept_ok | apply kept_refuse | apply kept_runCmd | apply kept_writeTdacMask)
                  | (with_reducible apply Kept_foldl; intro _ _ _)
                  | simp only [Kept_mk, KeptAt_self, KeptRes_done, KeptRes_later, KeptAns_next] | split | intro _
                  | refine KeptEx.state ?_ (by assumption)))

theorem kept_execLoopbackRun (p : Pkt) {s : State} (hKs : Kept qs fu s) : KeptAns qs fu (execLoopbackRun p s) := by
  unfold execLoopbackRun
  (repeat' (first | with_reducible assumption
                  | with_reducible (first | apply Kept_if | apply KeptRes_if | apply KeptAns_if | apply kept_driverBegins
                                          | apply kept_refuse | apply kept_runCmd)
                  | (with_reducible apply Kept_foldl; intro _ _ _)
                  | simp only [Kept_mk, KeptAt_self, KeptRes_done, KeptRes_later, KeptAns_next] | split | intro _))

theorem kept_execLoopbackRunDone (src : Src) (tag : Nat) (captured : CaptureRun) (means : List Int) (echoes : List (Nat × Nat
    × Nat × Nat)) (looped : Looped) {s : State} (hKs : Kept qs fu s)
    : KeptAns qs fu (execLoopbackRunDone src tag captured means echoes looped s) := by
  unfold execLoopbackRunDone
  (repeat' (first | with_reducible assumption
                  | with_reducible (first | apply Kept_if | apply KeptAns_if | apply kept_complete | apply kept_done
                                          | apply kept_record | apply kept_restoreRun)
                  | (with_reducible apply Kept_foldl; intro _ _ _) | simp only [Kept_mk, KeptAt_self, KeptAns_next] | split
                  | intro _))

theorem kept_execSelfTest (p : Pkt) {s : State} (hKs : Kept qs fu s) : KeptAns qs fu (execSelfTest p s) := by
  unfold execSelfTest
  (repeat' (first | with_reducible assumption
                  | with_reducible (first | apply Kept_if | apply KeptRes_if | apply KeptAns_if | apply kept_refuse
                                          | apply kept_runCmd) | (with_reducible apply Kept_foldl; intro _ _ _)
                  | simp only [Kept_mk, KeptAt_self, KeptRes_done, KeptRes_later, KeptAns_next] | split | intro _))

theorem kept_execSelfTestDone (failed skipped : Nat) {s : State} (hKs : Kept qs fu s)
    : KeptAns qs fu (execSelfTestDone failed skipped s) := by
  unfold execSelfTestDone
  (repeat' (first | with_reducible assumption
                  | with_reducible (first | apply Kept_if | apply KeptAns_if | apply kept_complete | apply kept_done
                                          | apply kept_record) | (with_reducible apply Kept_foldl; intro _ _ _)
                  | simp only [Kept_mk, KeptAt_self, KeptAns_next] | split | intro _))

theorem kept_linkLost {s : State} (hKs : Kept qs fu s) : Kept qs fu (linkLost s) := by
  unfold linkLost
  (repeat' (first | with_reducible assumption
                  | with_reducible (first | apply Kept_if | apply kept_bump | apply kept_putN | apply kept_record)
                  | (with_reducible apply Kept_foldl; intro _ _ _) | simp only [Kept_mk, KeptAt_self] | split | intro _))

theorem kept_detach {s : State} (n : Nat) (hKs : Kept qs fu s) : Kept qs fu (detach s n) := by
  unfold detach
  (repeat' (first | with_reducible assumption
                  | with_reducible (first | apply Kept_if | apply kept_put | apply kept_setStream | apply kept_record)
                  | (with_reducible apply Kept_foldl; intro _ _ _) | simp only [Kept_mk, KeptAt_self] | split | intro _))

theorem kept_abandon {s : State} (hKs : Kept qs fu s) : Kept qs fu (abandon s) := by
  unfold abandon
  (repeat' (first | with_reducible assumption
                  | with_reducible (first | apply Kept_if | apply kept_complete | apply kept_put | apply kept_setCh
                                          | apply kept_setPort | apply kept_setRegion | apply kept_restoreRun)
                  | (with_reducible apply Kept_foldl; intro _ _ _) | simp only [Kept_mk, KeptAt_self] | split | intro _))

theorem Kept.filterPar {s : State} (f : Nat × Int → Bool) (hKs : Kept qs fu s) :
    Kept qs fu { s with par := s.par.filter f } :=
  let ⟨a, b, c, h⟩ := hKs
  ⟨a, b, Bank.wf_filter _ _ c, h⟩

theorem kept_softReset {s : State} (hKs : Kept qs fu s) : Kept qs fu (softReset s) := by
  have h1 : Kept qs fu (if s.pwr.lull = 1 then leaveEntry s else s) := Kept_if (kept_leaveEntry hKs) hKs
  have hd : ∀ (x : State) (n : Nat), Kept qs fu x → Kept qs fu (detach x n) := fun _ n h => kept_detach n h
  have h2 := (Kept_foldl hd (List.range 32) (kept_abandon h1)).filterPar fun e => !softCleared e.1
  unfold softReset
  apply kept_powerRec
  apply kept_disarmAll
  apply kept_evfSoftReset
  simp only [Kept_mk] at h2 ⊢
  exact h2

theorem kept_resetInWake {s : State} (hKs : Kept qs fu s) : Kept qs fu (resetInWake s) := by
  unfold resetInWake
  (repeat' (first | with_reducible assumption | with_reducible (first | apply Kept_if | apply kept_linkLost)
                  | (with_reducible apply Kept_foldl; intro _ _ _) | simp only [Kept_mk, KeptAt_self] | split | intro _))

theorem kept_perstAsleep {s : State} (hKs : Kept qs fu s) : Kept qs fu (perstAsleep s) := by
  exact hKs

theorem kept_dlReset {s : State} (hKs : Kept qs fu s) : KeptAns qs fu (dlReset s) := by
  unfold dlReset
  (repeat' (first | with_reducible assumption
                  | with_reducible (first | apply Kept_if | apply KeptAns_if | apply kept_done | apply kept_linkLost
                                          | apply kept_softReset) | (with_reducible apply Kept_foldl; intro _ _ _)
                  | simp only [Kept_mk, KeptAt_self, KeptAns_next] | split | intro _))

theorem kept_execSoftReset (why : SoftReset) {s : State} (hKs : Kept qs fu s) : KeptAns qs fu (execSoftReset why s) := by
  unfold execSoftReset
  (repeat' (first | with_reducible assumption
                  | with_reducible (first | apply Kept_if | apply KeptAns_if | apply kept_dlReset | apply kept_done
                                          | apply kept_linkLost | apply kept_perstAsleep | apply kept_resetInWake
                                          | apply kept_softReset) | (with_reducible apply Kept_foldl; intro _ _ _)
                  | simp only [Kept_mk, KeptAt_self, KeptAns_next] | split | intro _))

theorem kept_startLink {s : State} (hKs : Kept qs fu s) : Kept qs fu (startLink s) := by
  unfold startLink
  (repeat' (first | with_reducible assumption | with_reducible (first | apply Kept_if)
                  | (with_reducible apply Kept_foldl; intro _ _ _) | simp only [Kept_mk, KeptAt_self] | split | intro _))

theorem kept_execPerstRelease {s : State} (hKs : Kept qs fu s) : KeptAns qs fu (execPerstRelease s) := by
  unfold execPerstRelease
  (repeat' (first | with_reducible assumption
                  | with_reducible (first | apply Kept_if | apply KeptAns_if | apply kept_startLink)
                  | (with_reducible apply Kept_foldl; intro _ _ _) | simp only [Kept_mk, KeptAt_self, KeptAns_next] | split
                  | intro _))

theorem kept_execControllerSuppliesUp {s : State} (hKs : Kept qs fu s) : KeptAns qs fu (execControllerSuppliesUp s) := by
  unfold execControllerSuppliesUp
  (repeat' (first | with_reducible assumption
                  | with_reducible (first | apply Kept_if | apply KeptAns_if | apply kept_startLink)
                  | (with_reducible apply Kept_foldl; intro _ _ _) | simp only [Kept_mk, KeptAt_self, KeptAns_next] | split
                  | intro _))

theorem kept_execNearLoopbackStart {s : State} (hKs : Kept qs fu s) : KeptAns qs fu (execNearLoopbackStart s) := by
  unfold execNearLoopbackStart
  (repeat' (first | with_reducible assumption | with_reducible (first | apply Kept_if | apply KeptAns_if)
                  | (with_reducible apply Kept_foldl; intro _ _ _) | simp only [Kept_mk, KeptAt_self, KeptAns_next] | split
                  | intro _))

theorem kept_execNearLoopbackEnd (lanes errors : Nat) {s : State} (hKs : Kept qs fu s)
    : KeptAns qs fu (execNearLoopbackEnd lanes errors s) := by
  unfold execNearLoopbackEnd
  (repeat' (first | with_reducible assumption
                  | with_reducible (first | apply Kept_if | apply KeptAns_if | apply kept_putN | apply kept_done
                                          | apply kept_record) | (with_reducible apply Kept_foldl; intro _ _ _)
                  | simp only [Kept_mk, KeptAt_self, KeptAns_next] | split | intro _))

theorem kept_execFlrComplete {s : State} (hKs : Kept qs fu s) : KeptAns qs fu (execFlrComplete s) := by
  unfold execFlrComplete
  (repeat' (first | with_reducible assumption | with_reducible (first | apply Kept_if | apply KeptAns_if | apply kept_crsEnds)
                  | (with_reducible apply Kept_foldl; intro _ _ _) | simp only [Kept_mk, KeptAt_self, KeptAns_next] | split
                  | intro _))

theorem kept_bootLc {s : State} (hKs : Kept qs fu s) : Kept qs fu (bootLc s) := by
  unfold bootLc
  (repeat' (first | with_reducible assumption
                  | with_reducible (first | apply Kept_if | apply kept_putN | apply kept_pinsHigh | apply kept_record)
                  | (with_reducible apply Kept_foldl; intro _ _ _) | simp only [Kept_mk, KeptAt_self] | split | intro _))

theorem kept_resetAll {s : State} (power : Bool) (vin : Nat) (hKs : Kept qs fu s) :
    Kept qs fu (resetAll s power vin) := by
  obtain ⟨a, b, c, _⟩ := hKs
  simp only [resetAll]
  refine kept_bootLc (Kept_foldl (fun t e h => ?_) _ ?_)
  · exact Kept_if (kept_setFlash _ _ h) h
  · exact ⟨a, b, Bank.wf_filter _ _ c, rfl, rfl, rfl, rfl, rfl, rfl, rfl, rfl, rfl, rfl, rfl, rfl, rfl⟩

theorem kept_execPowerOnReset (vin : Nat) {s : State} (hKs : Kept qs fu s) : KeptAns qs fu (execPowerOnReset vin s) := by
  unfold execPowerOnReset
  (repeat' (first | with_reducible assumption
                  | with_reducible (first | apply Kept_if | apply KeptAns_if | apply kept_done | apply kept_resetAll)
                  | (with_reducible apply Kept_foldl; intro _ _ _) | simp only [Kept_mk, KeptAt_self, KeptAns_next] | split
                  | intro _))

theorem kept_nresetAll {s : State} (vin : Nat) (hKs : Kept qs fu s) : Kept qs fu (nresetAll s vin) := by
  unfold nresetAll
  (repeat' (first | with_reducible assumption | with_reducible (first | apply kept_bump | apply kept_resetAll)))

theorem kept_execNresetRelease (vin : Nat) {s : State} (hKs : Kept qs fu s) : KeptAns qs fu (execNresetRelease vin s) := by
  unfold execNresetRelease
  (repeat' (first | with_reducible assumption
                  | with_reducible (first | apply Kept_if | apply KeptAns_if | apply kept_setVin | apply kept_done
                                          | apply kept_nresetAll) | (with_reducible apply Kept_foldl; intro _ _ _)
                  | simp only [Kept_mk, KeptAt_self, KeptAns_next] | split | intro _))

theorem kept_execShedComplete {s : State} (hKs : Kept qs fu s) : KeptAns qs fu (execShedComplete s) := by
  unfold execShedComplete
  (repeat' (first | with_reducible assumption
                  | with_reducible (first | apply Kept_if | apply KeptAns_if | apply kept_put | apply kept_done
                                          | apply kept_nresetAll) | (with_reducible apply Kept_foldl; intro _ _ _)
                  | simp only [Kept_mk, KeptAt_self, KeptAns_next] | split | intro _))

theorem kept_execHoldupSpent {s : State} (hKs : Kept qs fu s) : KeptAns qs fu (execHoldupSpent s) := by
  unfold execHoldupSpent
  (repeat' (first | with_reducible assumption
                  | with_reducible (first | apply Kept_if | apply KeptAns_if | apply kept_resetAll)
                  | (with_reducible apply Kept_foldl; intro _ _ _) | simp only [Kept_mk, KeptAt_self, KeptAns_next] | split
                  | intro _))

theorem kept_execHoldupBusCharged {s : State} (hKs : Kept qs fu s) : KeptAns qs fu (execHoldupBusCharged s) := by
  unfold execHoldupBusCharged
  (repeat' (first | with_reducible assumption | with_reducible (first | apply Kept_if | apply KeptAns_if | apply kept_putN)
                  | (with_reducible apply Kept_foldl; intro _ _ _) | simp only [Kept_mk, KeptAt_self, KeptAns_next] | split
                  | intro _))

theorem kept_execBootComplete {s : State} (hKs : Kept qs fu s) : KeptAns qs fu (execBootComplete s) := by
  unfold execBootComplete
  (repeat' (first | with_reducible assumption
                  | with_reducible (first | apply Kept_if | apply KeptAns_if | apply kept_putN | apply kept_crsEnds
                                          | apply kept_done) | (with_reducible apply Kept_foldl; intro _ _ _)
                  | simp only [Kept_mk, KeptAt_self, KeptAns_next] | split | intro _))

theorem kept_execWakeComplete {s : State} (hKs : Kept qs fu s) : KeptAns qs fu (execWakeComplete s) := by
  unfold execWakeComplete
  (repeat' (first | with_reducible assumption
                  | with_reducible (first | apply Kept_if | apply KeptAns_if | apply kept_crsEnds | apply kept_done
                                          | apply kept_meshBack | apply kept_pinsAfterShed | apply kept_powerRec
                                          | apply kept_setLull | apply kept_softReset)
                  | (with_reducible apply Kept_foldl; intro _ _ _) | simp only [Kept_mk, KeptAt_self, KeptAns_next] | split
                  | intro _))

end Sys2Proof.Machine
end

