-- ==== Sys2Proof/Laws/KeptHost.lean ====
section
/-!
SUPPORT. What each function keeps (the queue, the canonical form, a blown fuse): host link, life cycle, parameter writes, out-of-band messages, ABORT.
-/
set_option linter.unusedTactic false
set_option linter.unreachableTactic false
set_option linter.unusedSimpArgs false
namespace Sys2Proof.Machine
variable {qs : List Instr} {fu : Bool}

theorem kept_execLinkUp (speed width : Nat) {s : State} (hKs : Kept qs fu s) : KeptAns qs fu (execLinkUp speed width s) := by
  unfold execLinkUp
  (repeat' (first | with_reducible assumption
                  | with_reducible (first | apply Kept_if | apply KeptAns_if | apply kept_putN | apply kept_crsEnds
                                          | apply kept_done | apply kept_record | apply kept_softReset)
                  | (with_reducible apply Kept_foldl; intro _ _ _) | simp only [Kept_mk, KeptAt_self, KeptAns_next] | split
                  | intro _))

theorem kept_execLinkDown {s : State} (hKs : Kept qs fu s) : KeptAns qs fu (execLinkDown s) := by
  unfold execLinkDown
  (repeat' (first | with_reducible assumption
                  | with_reducible (first | apply Kept_if | apply KeptAns_if | apply kept_done | apply kept_linkLost)
                  | (with_reducible apply Kept_foldl; intro _ _ _) | simp only [Kept_mk, KeptAt_self, KeptAns_next] | split
                  | intro _))

theorem kept_setVec {s : State} (v : Nat) (e : Vec) (hKs : Kept qs fu s) : Kept qs fu (State.setVec s v e) := by
  exact hKs

theorem kept_sendPending {s : State} (v : Nat) (hKs : Kept qs fu s) : Kept qs fu (sendPending s v) := by
  unfold sendPending
  (repeat' (first | with_reducible assumption | with_reducible (first | apply Kept_if | apply kept_emit | apply kept_setVec)
                  | (with_reducible apply Kept_foldl; intro _ _ _) | simp only [Kept_mk, KeptAt_self] | split | intro _))

theorem kept_unmaskVector {s : State} (v : Nat) (hKs : Kept qs fu s) : Kept qs fu (unmaskVector s v) := by
  unfold unmaskVector
  (repeat' (first | with_reducible assumption | with_reducible (first | apply kept_setVec | apply kept_sendPending)))

theorem kept_unmaskFunction {s : State} (hKs : Kept qs fu s) : Kept qs fu (unmaskFunction s) := by
  unfold unmaskFunction
  (repeat' (first | with_reducible assumption | with_reducible (first | apply Kept_if | apply kept_sendPending)
                  | (with_reducible apply Kept_foldl; intro _ _ _) | simp only [Kept_mk, KeptAt_self] | split | intro _))

theorem kept_execMsixUnmask (vector : Option Nat) {s : State} (hKs : Kept qs fu s)
    : KeptAns qs fu (execMsixUnmask vector s) := by
  unfold execMsixUnmask
  (repeat' (first | with_reducible assumption
                  | with_reducible (first | apply Kept_if | apply KeptAns_if | apply kept_done | apply kept_unmaskFunction
                                          | apply kept_unmaskVector) | (with_reducible apply Kept_foldl; intro _ _ _)
                  | simp only [Kept_mk, KeptAt_self, KeptAns_next] | split | intro _))

theorem kept_configure {s : State} (x : ConfigReq) (hKs : Kept qs fu s) : Kept qs fu (configure s x) := by
  cases x <;> (unfold configure; (repeat' (first | with_reducible assumption
                                                 | with_reducible (first | apply Kept_if | apply kept_setCq
                                                                         | apply kept_disableService
                                                                         | apply kept_unmaskFunction)
                                                 | (with_reducible apply Kept_foldl; intro _ _ _)
                                                 | simp only [Kept_mk, KeptAt_self] | split | intro _)))

theorem kept_configData {s : State} (r : ConfigReg) (hKs : Kept qs fu s) : Kept qs fu (configData s r).2 := by
  cases r <;> first | exact hKs | exact kept_draw hKs

theorem kept_execConfigRequest (req : ConfigReq) {s : State} (hKs : Kept qs fu s) :
    KeptAns qs fu (execConfigRequest req s) := by
  unfold execConfigRequest
  refine KeptAns_if hKs (KeptAns_if (kept_emit _ hKs) ?_)
  split
  · exact kept_emit _ (kept_configData _ hKs)
  · exact kept_done (kept_configure _ (kept_emit _ hKs))

theorem kept_execPowerStateWrite (d3 : Bool) {s : State} (hKs : Kept qs fu s) : KeptAns qs fu (execPowerStateWrite d3 s) := by
  unfold execPowerStateWrite
  (repeat' (first | with_reducible assumption
                  | with_reducible (first | apply Kept_if | apply KeptAns_if | apply kept_sendPending)
                  | (with_reducible apply Kept_foldl; intro _ _ _) | simp only [Kept_mk, KeptAt_self, KeptAns_next] | split
                  | intro _))

theorem kept_execPmeTurnOff {s : State} (hKs : Kept qs fu s) : KeptAns qs fu (execPmeTurnOff s) := by
  unfold execPmeTurnOff
  (repeat' (first | with_reducible assumption
                  | with_reducible (first | apply Kept_if | apply KeptAns_if | apply kept_emit | apply kept_putN)
                  | (with_reducible apply Kept_foldl; intro _ _ _) | simp only [Kept_mk, KeptAt_self, KeptAns_next] | split
                  | intro _))

theorem kept_execFarLoopbackEntry {s : State} (hKs : Kept qs fu s) : KeptAns qs fu (execFarLoopbackEntry s) := by
  unfold execFarLoopbackEntry
  (repeat' (first | with_reducible assumption | with_reducible (first | apply Kept_if | apply KeptAns_if)
                  | (with_reducible apply Kept_foldl; intro _ _ _) | simp only [Kept_mk, KeptAt_self, KeptAns_next] | split
                  | intro _))

theorem kept_aerCorrected {s : State} (n : Nat) (hKs : Kept qs fu s) : Kept qs fu (aerCorrected s n) := by
  unfold aerCorrected
  (repeat' (first | with_reducible assumption | with_reducible (first | apply Kept_if | apply kept_emit)
                  | (with_reducible apply Kept_foldl; intro _ _ _) | simp only [Kept_mk, KeptAt_self] | split | intro _))

theorem kept_execPcieErrorDetected (corr : Bool) {s : State} (hKs : Kept qs fu s)
    : KeptAns qs fu (execPcieErrorDetected corr s) := by
  unfold execPcieErrorDetected
  (repeat' (first | with_reducible assumption
                  | with_reducible (first | apply Kept_if | apply KeptAns_if | apply kept_bump | apply kept_draw
                                          | apply kept_aerCorrected | apply kept_done | apply kept_linkError
                                          | apply kept_record) | (with_reducible apply Kept_foldl; intro _ _ _)
                  | simp only [Kept_mk, KeptAt_self, KeptAns_next] | split | intro _ | refine Kept.snd ?_ (by assumption)))

theorem kept_execHostReadError (unit : ReadUnit) (fault : HostFault) {s : State} (hKs : Kept qs fu s)
    : KeptAns qs fu (execHostReadError unit fault s) := by
  unfold execHostReadError
  (repeat' (first | with_reducible assumption
                  | with_reducible (first | apply Kept_if | apply KeptRes_if | apply KeptAns_if | apply kept_done
                                          | apply kept_dropXfer | apply kept_execPacketArrive | apply kept_execSweUploadDone
                                          | apply kept_finish | apply kept_transferFails)
                  | (with_reducible apply Kept_foldl; intro _ _ _)
                  | simp only [Kept_mk, KeptAt_self, KeptRes_done, KeptRes_later, KeptAns_next] | split | intro _))

theorem kept_execHostReadCompletion (unit : ReadUnit) (data : List Nat) {s : State} (hKs : Kept qs fu s)
    : KeptAns qs fu (execHostReadCompletion unit data s) := by
  unfold execHostReadCompletion
  (repeat' (first | with_reducible assumption
                  | with_reducible (first | apply Kept_if | apply KeptAns_if | apply kept_execPacketArrive
                                          | apply kept_execSweUploadDone) | (with_reducible apply Kept_foldl; intro _ _ _)
                  | simp only [Kept_mk, KeptAt_self, KeptAns_next] | split | intro _))

theorem kept_setLatch {s : State} (o : Nat) (v : Option Nat) (hKs : Kept qs fu s) : Kept qs fu (setLatch s o v) := by
  exact hKs

theorem kept_bar0Answer {s : State} (o : Nat) (ws : List Nat) (hKs : Kept qs fu s) : Kept qs fu (bar0Answer s o ws) := by
  unfold bar0Answer; (repeat' (first | with_reducible assumption | with_reducible (first | apply kept_emit)))

theorem kept_readBar0 {s : State} (o size : Nat) (hKs : Kept qs fu s) : Kept qs fu (readBar0 s o size) := by
  unfold readBar0
  (repeat' (first | with_reducible assumption
                  | with_reducible (first | apply Kept_if | apply kept_bar0Answer | apply kept_hlCause | apply kept_setLatch)
                  | (with_reducible apply Kept_foldl; intro _ _ _) | simp only [Kept_mk, KeptAt_self] | split | intro _))

theorem kept_execBar0Read (offset size : Nat) {s : State} (hKs : Kept qs fu s)
    : KeptAns qs fu (execBar0Read offset size s) := by
  unfold execBar0Read
  (repeat' (first | with_reducible assumption
                  | with_reducible (first | apply Kept_if | apply KeptAns_if | apply kept_emit | apply kept_done
                                          | apply kept_readBar0) | (with_reducible apply Kept_foldl; intro _ _ _)
                  | simp only [Kept_mk, KeptAt_self, KeptAns_next] | split | intro _))

theorem kept_writeBase {s : State} (n : Nat) (cq : Bool) (v : Nat) (hKs : Kept qs fu s) : Kept qs fu (writeBase s n cq v) :=
    by
  unfold writeBase
  (repeat' (first | with_reducible assumption
                  | with_reducible (first | apply Kept_if | apply kept_setCq | apply kept_setSq | apply kept_hlCause)
                  | (with_reducible apply Kept_foldl; intro _ _ _) | simp only [Kept_mk, KeptAt_self] | split | intro _))

theorem kept_writeSqCfg {s : State} (n v : Nat) (hKs : Kept qs fu s) : Kept qs fu (writeSqCfg s n v) := by
  unfold writeSqCfg
  (repeat' (first | with_reducible assumption
                  | with_reducible (first | apply Kept_if | apply kept_setSq | apply kept_hlCause | apply kept_setSqEnable)
                  | (with_reducible apply Kept_foldl; intro _ _ _) | simp only [Kept_mk, KeptAt_self] | split | intro _))

theorem kept_writeCqCfg {s : State} (n v : Nat) (hKs : Kept qs fu s) : Kept qs fu (writeCqCfg s n v) := by
  unfold writeCqCfg
  (repeat' (first | with_reducible assumption
                  | with_reducible (first | apply Kept_if | apply kept_setCq | apply kept_hlCause | apply kept_setCqEnable)
                  | (with_reducible apply Kept_foldl; intro _ _ _) | simp only [Kept_mk, KeptAt_self] | split | intro _))

theorem kept_writeMbxCtl {s : State} (v : Nat) (hKs : Kept qs fu s) : Kept qs fu (writeMbxCtl s v) := by
  unfold writeMbxCtl
  (repeat' (first | with_reducible assumption | with_reducible (first | apply Kept_if | apply kept_mbxGo)
                  | (with_reducible apply Kept_foldl; intro _ _ _) | simp only [Kept_mk, KeptAt_self] | split | intro _))

theorem kept_writeMbxCmd {s : State} (i v : Nat) (hKs : Kept qs fu s) : Kept qs fu (writeMbxCmd s i v) := by
  unfold writeMbxCmd
  (repeat' (first | with_reducible assumption | with_reducible (first | apply Kept_if | apply kept_hlCause)
                  | (with_reducible apply Kept_foldl; intro _ _ _) | simp only [Kept_mk, KeptAt_self] | split | intro _))

theorem kept_writeLbBoot {s : State} (v : Nat) (hKs : Kept qs fu s) : Kept qs fu (writeLbBoot s v) := by
  unfold writeLbBoot
  (repeat' (first | with_reducible assumption | with_reducible (first | apply Kept_if | apply kept_putN)
                  | (with_reducible apply Kept_foldl; intro _ _ _) | simp only [Kept_mk, KeptAt_self] | split | intro _))

theorem kept_writeMsix {s : State} (v o w : Nat) (hKs : Kept qs fu s) : Kept qs fu (writeMsix s v o w) := by
  unfold writeMsix
  (repeat' (first | with_reducible assumption
                  | with_reducible (first | apply Kept_if | apply kept_setVec | apply kept_unmaskVector)
                  | (with_reducible apply Kept_foldl; intro _ _ _) | simp only [Kept_mk, KeptAt_self] | split | intro _))

theorem kept_writeWindow {s : State} (blk inst o v : Nat) (hKs : Kept qs fu s) : Kept qs fu (writeWindow s blk inst o v) := by
  unfold writeWindow
  (repeat' (first | with_reducible assumption
                  | with_reducible (first | apply Kept_if | apply kept_setWin | apply kept_clearFlags
                                          | apply kept_clearHistory | apply kept_writeInject | apply kept_writeReaction)
                  | (with_reducible apply Kept_foldl; intro _ _ _) | simp only [Kept_mk, KeptAt_self] | split | intro _))

theorem kept_writeBar0Word {s : State} (o v : Nat) (hKs : Kept qs fu s) : Kept qs fu (writeBar0Word s o v) := by
  unfold writeBar0Word
  (repeat' (first | with_reducible assumption
                  | with_reducible (first | apply Kept_if | apply kept_putN | apply kept_wr | apply kept_ringHead
                                          | apply kept_ringTail | apply kept_takeReadIndex | apply kept_writeCqCfg
                                          | apply kept_writeLbBoot | apply kept_writeMbxCmd | apply kept_writeMbxCtl
                                          | apply kept_writeMsix | apply kept_writeSqCfg | apply kept_writeWindow)
                  | (with_reducible apply Kept_foldl; intro _ _ _) | simp only [Kept_mk, KeptAt_self] | split | intro _))

theorem kept_writeBar0Wide {s : State} (o v : Nat) (hKs : Kept qs fu s) : Kept qs fu (writeBar0Wide s o v) := by
  unfold writeBar0Wide
  (repeat' (first | with_reducible assumption | with_reducible (first | apply Kept_if | apply kept_writeBase)
                  | (with_reducible apply Kept_foldl; intro _ _ _) | simp only [Kept_mk, KeptAt_self] | split | intro _))

theorem kept_setHeld {s : State} (o : Nat) (v : Option Nat) (hKs : Kept qs fu s) : Kept qs fu (setHeld s o v) := by
  exact hKs

theorem kept_writeBar0 {s : State} (o size v : Nat) (hKs : Kept qs fu s) : Kept qs fu (writeBar0 s o size v) := by
  unfold writeBar0
  (repeat' (first | with_reducible assumption
                  | with_reducible (first | apply Kept_if | apply kept_hlCause | apply kept_setHeld | apply kept_writeBar0Wide
                                          | apply kept_writeBar0Word) | (with_reducible apply Kept_foldl; intro _ _ _)
                  | simp only [Kept_mk, KeptAt_self] | split | intro _))

theorem kept_execRegisterWrite (offset size value : Nat) {s : State} (hKs : Kept qs fu s)
    : KeptAns qs fu (execRegisterWrite offset size value s) := by
  unfold execRegisterWrite
  (repeat' (first | with_reducible assumption
                  | with_reducible (first | apply Kept_if | apply KeptAns_if | apply kept_done | apply kept_writeBar0)
                  | (with_reducible apply Kept_foldl; intro _ _ _) | simp only [Kept_mk, KeptAt_self, KeptAns_next] | split
                  | intro _))

theorem kept_execPoisonedWrite (_bar _offset : Nat) {s : State} (hKs : Kept qs fu s)
    : KeptAns qs fu (execPoisonedWrite _bar _offset s) := by
  unfold execPoisonedWrite
  (repeat' (first | with_reducible assumption
                  | with_reducible (first | apply Kept_if | apply KeptAns_if | apply kept_done | apply kept_hlCause)
                  | (with_reducible apply Kept_foldl; intro _ _ _) | simp only [Kept_mk, KeptAt_self, KeptAns_next] | split
                  | intro _))

theorem kept_dramByte {s : State} (a : Nat) (hKs : Kept qs fu s) : Kept qs fu (dramByte s a).2 := by
  unfold dramByte
  (repeat' (first | with_reducible assumption | with_reducible (first | apply Kept_if | apply kept_draw)
                  | (with_reducible apply Kept_foldl; intro _ _ _) | simp only [Kept_mk, KeptAt_self] | split | intro _
                  | refine Kept.snd ?_ (by assumption)))

theorem kept_dramBytes {s : State} (l : List Nat) (hKs : Kept qs fu s) : Kept qs fu (dramBytes s l).2 := by
  induction l generalizing s with
  | nil => exact hKs
  | cons a l ih => exact ih (kept_dramByte a hKs)

theorem kept_execBar2Read (offset len : Nat) (media : Option Nat) {s : State} (hKs : Kept qs fu s) :
    KeptAns qs fu (execBar2Read offset len media s) := by
  have h := kept_dramBytes ((List.range len).map fun i => bar2Addr s (offset + i)) hKs
  unfold execBar2Read
  simp only []
  apply KeptAns_if
  · exact KeptAns_if (kept_emit _ hKs) hKs
  · split
    · exact kept_done (kept_uncorrected _ _ (kept_hlCause _ (kept_emit _ (Kept_if (kept_hlCause _ h) h))))
    · exact kept_done (kept_emit _ (Kept_if (kept_hlCause _ h) h))

theorem kept_writeVectorByte {s : State} (d b v : Nat) (hKs : Kept qs fu s) : Kept qs fu (writeVectorByte s d b v) := by
  unfold writeVectorByte; (repeat' (first | with_reducible assumption | with_reducible (first | apply kept_setSequencer)))

theorem kept_mendGranules {s : State} (addrs : List Nat) (hKs : Kept qs fu s) : Kept qs fu (mendGranules s addrs) := by
  unfold mendGranules
  (repeat' (first | with_reducible assumption | with_reducible (first | apply Kept_if | apply kept_setSequencer)
                  | (with_reducible apply Kept_foldl; intro _ _ _) | simp only [Kept_mk, KeptAt_self] | split | intro _))

theorem kept_writeDramByte {s : State} (c : Nat × Nat) (hKs : Kept qs fu s) : Kept qs fu (writeDramByte s c) := by
  unfold writeDramByte
  (repeat' (first | with_reducible assumption | with_reducible (first | apply Kept_if | apply kept_writeVectorByte)
                  | (with_reducible apply Kept_foldl; intro _ _ _) | simp only [Kept_mk, KeptAt_self] | split | intro _))

theorem kept_execBar2Write (offset : Nat) (bytes : List Byte) {s : State} (hKs : Kept qs fu s)
    : KeptAns qs fu (execBar2Write offset bytes s) := by
  unfold execBar2Write
  (repeat' (first | with_reducible assumption
                  | with_reducible (first | apply Kept_if | apply KeptAns_if | apply kept_done | apply kept_hlCause
                                          | apply kept_mendGranules | apply kept_writeDramByte)
                  | (with_reducible apply Kept_foldl; intro _ _ _) | simp only [Kept_mk, KeptAt_self, KeptAns_next] | split
                  | intro _))

theorem kept_zeroSeq {s : State} (d : Nat) (hKs : Kept qs fu s) : Kept qs fu (zeroSeq s d) := by
  unfold zeroSeq; (repeat' (first | with_reducible assumption | with_reducible (first | apply kept_setSequencer)))

theorem kept_dropBlocks {s : State} (n : Nat) (hKs : Kept qs fu s) : Kept qs fu (dropBlocks s n) := by
  unfold dropBlocks
  (repeat' (first | with_reducible assumption
                  | with_reducible (first | apply kept_put | apply kept_setStream | apply kept_flushCheck)))

theorem kept_eraseAll {s : State} (hKs : Kept qs fu s) : Kept qs fu (eraseAll s) := by
  have h := Kept_foldl (g := dropBlocks) (fun _ n h => kept_dropBlocks n h) (List.range 32)
    (Kept_foldl (g := zeroSeq) (fun _ n h => kept_zeroSeq n h) (List.range 2)
      (Kept_if (c := s.rd VANE.LOG_MEDIA_FAIL = 1) hKs (kept_flushAll hKs)))
  obtain ⟨a, b, c0, d0, c1, c2, c3, c4, c5, _, c7⟩ := h
  unfold eraseAll
  apply kept_putN
  apply kept_putN
  refine Kept_foldl (g := pinCodes) (fun _ n h => kept_pinCodes n h) (List.range 256) ?_
  simp only [Kept_mk]
  exact ⟨a, b, Bank.wf_filter _ _ c0, d0, c1, c2, c3, c4, c5, rfl, c7⟩

theorem kept_initRecorder {s : State} (hKs : Kept qs fu s) : Kept qs fu (initRecorder s) := by
  unfold initRecorder
  (repeat' (first | with_reducible assumption
                  | with_reducible (first | apply kept_putN | apply kept_setVane | apply kept_numberRecord
                                          | apply kept_renewOldest)))

theorem kept_lifeRecord {s : State} (old new : Nat) (hKs : Kept qs fu s) : Kept qs fu (lifeRecord s old new) := by
  unfold lifeRecord; (repeat' (first | with_reducible assumption | with_reducible (first | apply kept_logRec)))

theorem kept_commitState {s : State} (new : Nat) (hKs : Kept qs fu s) : Kept qs fu (commitState s new) := by
  obtain ⟨a, b, c⟩ := hKs
  unfold commitState
  apply kept_putN
  apply kept_putN
  simp only [Kept_mk]
  refine ⟨a, fun hf => ?_, c⟩
  split <;> simp [b hf]

theorem kept_denyLoopback {s : State} (p : Nat) (hKs : Kept qs fu s) : Kept qs fu (denyLoopback s p) := by
  unfold denyLoopback
  (repeat' (first | with_reducible assumption
                  | with_reducible (first | apply Kept_if | apply kept_complete | apply kept_put | apply kept_setPort)
                  | (with_reducible apply Kept_foldl; intro _ _ _) | simp only [Kept_mk, KeptAt_self] | split | intro _))

theorem kept_clearInjections {s : State} (hKs : Kept qs fu s) : Kept qs fu (clearInjections s) := by
  unfold clearInjections
  exact Kept_foldl (fun _ _ ⟨a, b, c, o, d, h⟩ => ⟨a, b, c, o, Bank.wf_set _ _ _ d, h⟩) _ hKs

theorem kept_leaveExtest {s : State} (hKs : Kept qs fu s) : Kept qs fu (leaveExtest s) := by
  unfold leaveExtest
  (repeat' (first | with_reducible assumption
                  | with_reducible (first | apply Kept_if | apply kept_enterPin | apply kept_startLink)
                  | (with_reducible apply Kept_foldl; intro _ _ _) | simp only [Kept_mk, KeptAt_self] | split | intro _))

theorem kept_removeAccess {s : State} (old : Nat) (hKs : Kept qs fu s) : Kept qs fu (removeAccess s old) := by
  unfold removeAccess
  (repeat' (first | with_reducible assumption
                  | with_reducible (first | apply Kept_if | apply kept_complete | apply kept_clearInjections
                                          | apply kept_denyLoopback | apply kept_disarmAll | apply kept_endRun
                                          | apply kept_enterMode | apply kept_leaveExtest | apply kept_linkLost
                                          | apply kept_pinsHigh) | (with_reducible apply Kept_foldl; intro _ _ _)
                  | simp only [Kept_mk, KeptAt_self] | split | intro _))

theorem kept_tokenBad {s : State} (hKs : Kept qs fu s) : KeptRes qs fu (tokenBad s) := by
  unfold tokenBad
  (repeat' (first | with_reducible assumption
                  | with_reducible (first | apply Kept_if | apply KeptRes_if | apply kept_putN | apply kept_record
                                          | apply kept_refuse) | (with_reducible apply Kept_foldl; intro _ _ _)
                  | simp only [Kept_mk, KeptAt_self, KeptRes_done, KeptRes_later] | split | intro _))

theorem kept_transit {s : State} (p : Pkt) (t : List Nat) (from_ to_ : Nat) (hKs : Kept qs fu s) :
    KeptRes qs fu (transit s p t from_ to_) := by
  have h0 : Kept qs fu { (s.putN LC.OWNER_KEY_EN 1) with lc := { s.lc with ownerKey := (t.drop 8).take 24 } } := by
    obtain ⟨a, _, c⟩ := kept_putN (qs := qs) (fu := fu) LC.OWNER_KEY_EN 1 hKs
    exact ⟨a, hKs.fuse, c⟩
  unfold transit
  simp only []
  split
  · simp only [KeptRes_later, Kept_mk, KeptAt_self]
    exact kept_putN _ _ (kept_removeAccess _ (kept_commitState _ (Kept_if h0 hKs)))
  · have h1 := kept_removeAccess (qs := qs) (fu := fu) from_ (kept_commitState to_ (Kept_if (c :=
      from_ = 1 ∧ to_ = 2 ∧ s.rd LC.OWNER_KEY_EN = 0) h0 hKs))
    exact kept_ok _ (kept_lifeRecord _ _ (Kept_if (kept_initRecorder h1) h1))

theorem kept_execLcTransition (p : Pkt) (d : HostData) {s : State} (hKs : Kept qs fu s)
    : KeptAns qs fu (execLcTransition p d s) := by
  unfold execLcTransition
  (repeat' (first | with_reducible assumption
                  | with_reducible (first | apply Kept_if | apply KeptRes_if | apply KeptAns_if | apply kept_refuse
                                          | apply kept_runBlock | apply kept_tokenBad | apply kept_transit
                                          | apply kept_vaneCmd) | (with_reducible apply Kept_foldl; intro _ _ _)
                  | simp only [Kept_mk, KeptAt_self, KeptRes_done, KeptRes_later, KeptAns_next] | split | intro _))

theorem kept_execLcChallenge (p : Pkt) {s : State} (hKs : Kept qs fu s) : KeptAns qs fu (execLcChallenge p s) := by
  unfold execLcChallenge
  (repeat' (first | with_reducible assumption
                  | with_reducible (first | apply Kept_if | apply KeptRes_if | apply KeptAns_if | apply kept_draw
                                          | apply kept_ok | apply kept_refuse | apply kept_runCmd | apply kept_vaneCmd)
                  | (with_reducible apply Kept_foldl; intro _ _ _)
                  | simp only [Kept_mk, KeptAt_self, KeptRes_done, KeptRes_later, KeptAns_next] | split | intro _
                  | refine Kept.snd ?_ (by assumption)))

theorem kept_execLcStatus (p : Pkt) {s : State} (hKs : Kept qs fu s) : KeptAns qs fu (execLcStatus p s) := by
  unfold execLcStatus
  (repeat' (first | with_reducible assumption
                  | with_reducible (first | apply kept_ok | apply kept_runCmd | apply kept_vaneCmd)))

theorem kept_execNonceExpiry {s : State} (hKs : Kept qs fu s) : KeptAns qs fu (execNonceExpiry s) := by
  unfold execNonceExpiry
  (repeat' (first | with_reducible assumption | with_reducible (first | apply Kept_if | apply KeptAns_if)
                  | (with_reducible apply Kept_foldl; intro _ _ _) | simp only [Kept_mk, KeptAt_self, KeptAns_next] | split
                  | intro _))

theorem kept_execErasureDone {s : State} (hKs : Kept qs fu s) : KeptAns qs fu (execErasureDone s) := by
  have hl : ∀ {t : State} {c}, Kept qs fu t → Kept qs fu { t with lc := { t.lc with eraseCmd := c } } := fun h => by
    simpa only [Kept_mk, KeptAt_self] using h
  have h := hl (c := none) (kept_lifeRecord s.lc.eraseFrom 3 (kept_putN LC.ERASE_PENDING 0 (kept_eraseAll hKs)))
  unfold execErasureDone
  refine KeptAns_if (kept_done ?_) hKs
  split
  · exact kept_complete (hKs := h) ..
  · exact h

theorem kept_stopLinks {s : State} (hKs : Kept qs fu s) : Kept qs fu (stopLinks s) := by
  unfold stopLinks
  (repeat' (first | with_reducible assumption
                  | with_reducible (first | apply Kept_if | apply kept_put | apply kept_dropLoopback | apply kept_linkLost
                                          | apply kept_portDrops | apply kept_softReset)
                  | (with_reducible apply Kept_foldl; intro _ _ _) | simp only [Kept_mk, KeptAt_self] | split | intro _))

theorem kept_scanCells {s : State} (i : TapInstr) (scan : Scan) (hKs : Kept qs fu s) : Kept qs fu (scanCells s i scan) := by
  unfold scanCells
  (repeat' (first | with_reducible assumption | with_reducible (first | apply Kept_if | apply kept_emit)
                  | (with_reducible apply Kept_foldl; intro _ _ _) | simp only [Kept_mk, KeptAt_self] | split | intro _))

theorem kept_scanWith {s : State} (i : TapInstr) (scan : Scan) (hKs : Kept qs fu s) : Kept qs fu (scanWith s i scan) := by
  unfold scanWith
  (repeat' (first | with_reducible assumption
                  | with_reducible (first | apply Kept_if | apply kept_emit | apply kept_scanCells)
                  | (with_reducible apply Kept_foldl; intro _ _ _) | simp only [Kept_mk, KeptAt_self] | split | intro _))

theorem kept_execTapInstruction (load : TapLoad) {s : State} (hKs : Kept qs fu s)
    : KeptAns qs fu (execTapInstruction load s) := by
  unfold execTapInstruction
  (repeat' (first | with_reducible assumption
                  | with_reducible (first | apply Kept_if | apply KeptAns_if | apply kept_done | apply kept_leaveExtest
                                          | apply kept_record | apply kept_scanWith | apply kept_stopLinks)
                  | (with_reducible apply Kept_foldl; intro _ _ _) | simp only [Kept_mk, KeptAt_self, KeptAns_next] | split
                  | intro _))

theorem kept_nack (status : Nat) : KeptEx qs fu Prod.fst (nack status) := by
  unfold nack
  (repeat' (first | with_reducible assumption | with_reducible (first | apply Kept_if | apply KeptEx_if)
                  | (with_reducible apply Kept_foldl; intro _ _ _)
                  | simp only [Kept_mk, KeptAt_self, KeptEx_ok, KeptEx_error, id] | split | intro _))

theorem kept_ack {s : State} (hKs : Kept qs fu s) : KeptEx qs fu Prod.fst (ack s) := by
  unfold ack
  (repeat' (first | with_reducible assumption
                  | with_reducible (first | apply Kept_if | apply KeptRes_if | apply KeptEx_if | apply kept_ok)
                  | (with_reducible apply Kept_foldl; intro _ _ _)
                  | simp only [Kept_mk, KeptAt_self, KeptRes_done, KeptRes_later, KeptEx_ok, KeptEx_error, id] | split
                  | intro _))

theorem kept_plainWr {w : Wr} (hKw : KeptEx qs fu id w) : KeptEx qs fu Prod.fst (plainWr w) := by
  cases w with
  | ok t => exact hKw
  | error _ => trivial

theorem kept_PRef_put (r : PRef) {s : State} (v : Int) (hKs : Kept qs fu s) : Kept qs fu (PRef.put r s v) := by
  unfold PRef.put; (repeat' (first | with_reducible assumption | with_reducible (first | apply kept_put | apply kept_wr)))

theorem kept_PRef_putNext (r : PRef) {s : State} (v : Int) (hKs : Kept qs fu s) : Kept qs fu (PRef.putNext r s v) := by
  unfold PRef.putNext; (repeat' (first | with_reducible assumption | with_reducible (first | apply kept_wrNext)))

theorem kept_execParamGet (p : Pkt) (d : HostData) (_wr : Option HostFault) {s : State} (hKs : Kept qs fu s)
    : KeptAns qs fu (execParamGet p d _wr s) := by
  unfold execParamGet
  (repeat' (first | with_reducible assumption
                  | with_reducible (first | apply Kept_if | apply KeptRes_if | apply KeptAns_if | apply kept_done
                                          | apply kept_hostPut | apply kept_ok | apply kept_refuse | apply kept_runBlock)
                  | (with_reducible apply Kept_foldl; intro _ _ _)
                  | simp only [Kept_mk, KeptAt_self, KeptRes_done, KeptRes_later, KeptAns_next] | split | intro _))

theorem kept_reviseCeiling {old : State} {s : State} (c : Nat) (hKold : Kept qs fu old) (hKs : Kept qs fu s)
    : Kept qs fu (reviseCeiling old s c) := by
  unfold reviseCeiling
  (repeat' (first | with_reducible assumption | with_reducible (first | apply Kept_if | apply kept_resetCeiling)
                  | (with_reducible apply Kept_foldl; intro _ _ _) | simp only [Kept_mk, KeptAt_self] | split | intro _))

theorem kept_writeLimit {s : State} (c : Nat) (r : PRef) (v : Int) (hKs : Kept qs fu s)
    : KeptEx qs fu Prod.fst (writeLimit s c r v) := by
  unfold writeLimit
  (repeat' (first | with_reducible assumption
                  | with_reducible (first | apply Kept_if | apply KeptEx_if | apply kept_PRef_put | apply kept_put
                                          | apply kept_setCh | apply kept_ack | apply kept_nack | apply kept_reviseCeiling
                                          | apply kept_touch) | (with_reducible apply Kept_foldl; intro _ _ _)
                  | simp only [Kept_mk, KeptAt_self, KeptEx_ok, KeptEx_error, id] | split | intro _
                  | refine KeptEx.fst ?_ (by assumption) | refine KeptEx.ok (g := Prod.fst) ?_ (by assumption)))

theorem kept_writeChan {s : State} (c : Nat) (r : PRef) (v : Int) (hKs : Kept qs fu s)
    : KeptEx qs fu Prod.fst (writeChan s c r v) := by
  unfold writeChan
  (repeat' (first | with_reducible assumption
                  | with_reducible (first | apply Kept_if | apply KeptRes_if | apply KeptEx_if | apply kept_PRef_put
                                          | apply kept_PRef_putNext | apply kept_put | apply kept_setCh | apply kept_ack
                                          | apply kept_aimRails | apply kept_bandChanges | apply kept_nack | apply kept_ok
                                          | apply kept_plainWr | apply kept_reviseCeiling | apply kept_setIrange
                                          | apply kept_setOutReq | apply kept_setSetpoint | apply kept_setVrange
                                          | apply kept_touch | apply kept_writeCmpCtl | apply kept_writeLimit)
                  | (with_reducible apply Kept_foldl; intro _ _ _)
                  | simp only [Kept_mk, KeptAt_self, KeptRes_done, KeptRes_later, KeptEx_ok, KeptEx_error, id] | split
                  | intro _ | refine KeptEx.state ?_ (by assumption) | refine KeptEx.fst ?_ (by assumption)
                  | refine KeptEx.ok (g := Prod.fst) ?_ (by assumption)))

theorem kept_writeMsr {s : State} (r : PRef) (v : Int) (hKs : Kept qs fu s) : KeptEx qs fu Prod.fst (writeMsr s r v) := by
  unfold writeMsr
  (repeat' (first | with_reducible assumption
                  | with_reducible (first | apply Kept_if | apply KeptEx_if | apply kept_PRef_put | apply kept_PRef_putNext
                                          | apply kept_put | apply kept_ack | apply kept_nack | apply kept_plainWr
                                          | apply kept_reselect | apply kept_restartAvg | apply kept_tdacChanged
                                          | apply kept_writePwrMode | apply kept_writeTdacMask | apply kept_writeTimerPeriod
                                          | apply kept_writeTimerPhase | apply kept_writeTrigSrc)
                  | (with_reducible apply Kept_foldl; intro _ _ _)
                  | simp only [Kept_mk, KeptAt_self, KeptEx_ok, KeptEx_error, id] | split | intro _
                  | refine KeptEx.state ?_ (by assumption) | refine KeptEx.fst ?_ (by assumption)
                  | refine KeptEx.ok (g := Prod.fst) ?_ (by assumption)))

theorem kept_regionPair {s : State} (fin : Nat → Int) (e k : Nat) {t : State} (hKs : Kept qs fu s) (hKt : Kept qs fu t)
    : KeptEx qs fu Prod.fst (regionPair s fin e k t) := by
  unfold regionPair
  (repeat' (first | with_reducible assumption
                  | with_reducible (first | apply Kept_if | apply KeptEx_if | apply kept_ack | apply kept_nack)
                  | (with_reducible apply Kept_foldl; intro _ _ _)
                  | simp only [Kept_mk, KeptAt_self, KeptEx_ok, KeptEx_error, id] | split | intro _
                  | refine KeptEx.fst ?_ (by assumption)))

theorem kept_writeSwe {s : State} (fin : Nat → Int) (r : PRef) (v : Int) (hKs : Kept qs fu s)
    : KeptEx qs fu Prod.fst (writeSwe s fin r v) := by
  unfold writeSwe
  (repeat' (first | with_reducible assumption
                  | with_reducible (first | apply Kept_if | apply KeptEx_if | apply kept_PRef_put | apply kept_PRef_putNext
                                          | apply kept_put | apply kept_wr | apply kept_ack | apply kept_nack
                                          | apply kept_plainWr | apply kept_regionPair | apply kept_reselect)
                  | (with_reducible apply Kept_foldl; intro _ _ _)
                  | simp only [Kept_mk, KeptAt_self, KeptEx_ok, KeptEx_error, id] | split | intro _
                  | refine KeptEx.state ?_ (by assumption) | refine KeptEx.fst ?_ (by assumption)
                  | refine KeptEx.ok (g := Prod.fst) ?_ (by assumption)))

theorem kept_writeStatic {s : State} (r : PRef) (v : Int) (hKs : Kept qs fu s) : KeptEx qs fu Prod.fst (writeStatic s r v) :=
    by
  unfold writeStatic
  (repeat' (first | with_reducible assumption
                  | with_reducible (first | apply Kept_if | apply KeptEx_if | apply kept_PRef_put | apply kept_put
                                          | apply kept_ack | apply kept_enterPin | apply kept_nack)
                  | (with_reducible apply Kept_foldl; intro _ _ _)
                  | simp only [Kept_mk, KeptAt_self, KeptEx_ok, KeptEx_error, id] | split | intro _
                  | refine KeptEx.fst ?_ (by assumption) | refine KeptEx.ok (g := Prod.fst) ?_ (by assumption)))

theorem kept_pmuChanged {s : State} (n : Nat) (hKs : Kept qs fu s) : Kept qs fu (pmuChanged s n) := by
  unfold pmuChanged
  (repeat' (first | with_reducible assumption | with_reducible (first | apply Kept_if | apply kept_selChanged)
                  | (with_reducible apply Kept_foldl; intro _ _ _) | simp only [Kept_mk, KeptAt_self] | split | intro _))

theorem kept_writePin {s : State} (r : PRef) (v : Int) (hKs : Kept qs fu s) : KeptEx qs fu Prod.fst (writePin s r v) := by
  unfold writePin
  (repeat' (first | with_reducible assumption
                  | with_reducible (first | apply Kept_if | apply KeptEx_if | apply kept_PRef_put | apply kept_put
                                          | apply kept_ack | apply kept_bandChanges | apply kept_nack | apply kept_pinCode
                                          | apply kept_plainWr | apply kept_pmuChanged | apply kept_reselect
                                          | apply kept_selChanged | apply kept_writeAdcGo | apply kept_writeCmpCtl
                                          | apply kept_writePmuEn | apply kept_writeStatic)
                  | (with_reducible apply Kept_foldl; intro _ _ _)
                  | simp only [Kept_mk, KeptAt_self, KeptEx_ok, KeptEx_error, id] | split | intro _
                  | refine KeptEx.state ?_ (by assumption) | refine KeptEx.fst ?_ (by assumption)
                  | refine KeptEx.ok (g := Prod.fst) ?_ (by assumption)))

theorem kept_writeSeq {s : State} (r : PRef) (v : Int) (hKs : Kept qs fu s) : KeptEx qs fu Prod.fst (writeSeq s r v) := by
  unfold writeSeq
  (repeat' (first | with_reducible assumption
                  | with_reducible (first | apply Kept_if | apply KeptEx_if | apply kept_PRef_put | apply kept_put
                                          | apply kept_ack | apply kept_nack | apply kept_plainWr | apply kept_reselect
                                          | apply kept_seqSource) | (with_reducible apply Kept_foldl; intro _ _ _)
                  | simp only [Kept_mk, KeptAt_self, KeptEx_ok, KeptEx_error, id] | split | intro _
                  | refine KeptEx.state ?_ (by assumption) | refine KeptEx.fst ?_ (by assumption)
                  | refine KeptEx.ok (g := Prod.fst) ?_ (by assumption)))

theorem kept_writeEvf {s : State} (fin : Nat → Int) (r : PRef) (v : Int) (hKs : Kept qs fu s)
    : KeptEx qs fu Prod.fst (writeEvf s fin r v) := by
  unfold writeEvf
  (repeat' (first | with_reducible assumption
                  | with_reducible (first | apply Kept_if | apply KeptRes_if | apply KeptEx_if | apply kept_PRef_put
                                          | apply kept_put | apply kept_setCon | apply kept_wr | apply kept_ack
                                          | apply kept_alignWritten | apply kept_eddyWritten | apply kept_nack | apply kept_ok
                                          | apply kept_overrun | apply kept_plainWr | apply kept_reselect)
                  | (with_reducible apply Kept_foldl; intro _ _ _)
                  | simp only [Kept_mk, KeptAt_self, KeptRes_done, KeptRes_later, KeptEx_ok, KeptEx_error, id] | split
                  | intro _ | refine KeptEx.state ?_ (by assumption) | refine KeptEx.fst ?_ (by assumption)
                  | refine KeptEx.ok (g := Prod.fst) ?_ (by assumption)))

theorem kept_writeStm {s : State} (r : PRef) (v : Int) (hKs : Kept qs fu s) : KeptEx qs fu Prod.fst (writeStm s r v) := by
  unfold writeStm
  (repeat' (first | with_reducible assumption
                  | with_reducible (first | apply Kept_if | apply KeptEx_if | apply kept_PRef_put | apply kept_put
                                          | apply kept_ack | apply kept_becalm | apply kept_becalmedCheck | apply kept_nack
                                          | apply kept_plainWr | apply kept_reselect | apply kept_unbecalm)
                  | (with_reducible apply Kept_foldl; intro _ _ _)
                  | simp only [Kept_mk, KeptAt_self, KeptEx_ok, KeptEx_error, id] | split | intro _
                  | refine KeptEx.state ?_ (by assumption) | refine KeptEx.fst ?_ (by assumption)
                  | refine KeptEx.ok (g := Prod.fst) ?_ (by assumption)))

theorem kept_writeXlt {s : State} (r : PRef) (v : Int) (hKs : Kept qs fu s) : KeptEx qs fu Prod.fst (writeXlt s r v) := by
  unfold writeXlt
  (repeat' (first | with_reducible assumption
                  | with_reducible (first | apply Kept_if | apply KeptEx_if | apply kept_PRef_put | apply kept_put
                                          | apply kept_ack | apply kept_dropPages | apply kept_nack)
                  | (with_reducible apply Kept_foldl; intro _ _ _)
                  | simp only [Kept_mk, KeptAt_self, KeptEx_ok, KeptEx_error, id] | split | intro _
                  | refine KeptEx.fst ?_ (by assumption) | refine KeptEx.ok (g := Prod.fst) ?_ (by assumption)))

theorem kept_writeVane {s : State} (r : PRef) (v : Int) (hKs : Kept qs fu s) : KeptEx qs fu Prod.fst (writeVane s r v) := by
  unfold writeVane
  (repeat' (first | with_reducible assumption
                  | with_reducible (first | apply Kept_if | apply KeptEx_if | apply kept_PRef_put | apply kept_put
                                          | apply kept_ack | apply kept_bandChanges | apply kept_nack | apply kept_plainWr
                                          | apply kept_writeCmpCtl) | (with_reducible apply Kept_foldl; intro _ _ _)
                  | simp only [Kept_mk, KeptAt_self, KeptEx_ok, KeptEx_error, id] | split | intro _
                  | refine KeptEx.state ?_ (by assumption) | refine KeptEx.fst ?_ (by assumption)
                  | refine KeptEx.ok (g := Prod.fst) ?_ (by assumption)))

theorem kept_writeHl {s : State} (lc : Nat) (r : PRef) (v : Int) (hKs : Kept qs fu s)
    : KeptEx qs fu Prod.fst (writeHl s lc r v) := by
  unfold writeHl
  (repeat' (first | with_reducible assumption
                  | with_reducible (first | apply Kept_if | apply KeptEx_if | apply kept_PRef_put | apply kept_put
                                          | apply kept_ack | apply kept_nack) | (with_reducible apply Kept_foldl; intro _ _ _)
                  | simp only [Kept_mk, KeptAt_self, KeptEx_ok, KeptEx_error, id] | split | intro _
                  | refine KeptEx.fst ?_ (by assumption) | refine KeptEx.ok (g := Prod.fst) ?_ (by assumption)))

theorem kept_writeBlock {s : State} (lc : Nat) (fin : Nat → Int) (r : PRef) (v : Int) (hKs : Kept qs fu s)
    : KeptEx qs fu Prod.fst (writeBlock s lc fin r v) := by
  unfold writeBlock
  (repeat' (first | with_reducible assumption
                  | with_reducible (first | apply Kept_if | apply KeptEx_if | apply kept_PRef_put | apply kept_put
                                          | apply kept_ack | apply kept_plainWr | apply kept_writeChan | apply kept_writeEvf
                                          | apply kept_writeHl | apply kept_writeMsr | apply kept_writePin
                                          | apply kept_writePortEn | apply kept_writeSeq | apply kept_writeStm
                                          | apply kept_writeSwe | apply kept_writeVane | apply kept_writeXlt)
                  | (with_reducible apply Kept_foldl; intro _ _ _)
                  | simp only [Kept_mk, KeptAt_self, KeptEx_ok, KeptEx_error, id] | split | intro _
                  | refine KeptEx.state ?_ (by assumption) | refine KeptEx.fst ?_ (by assumption)
                  | refine KeptEx.ok (g := Prod.fst) ?_ (by assumption)))

theorem kept_writeParam {s : State} (lc : Nat) (fin : Nat → Int) (id raw : Nat) (hKs : Kept qs fu s)
    : KeptEx qs fu Prod.fst (writeParam s lc fin id raw) := by
  unfold writeParam
  (repeat' (first | with_reducible assumption
                  | with_reducible (first | apply Kept_if | apply KeptEx_if | apply kept_ack | apply kept_nack
                                          | apply kept_writeBlock | apply kept_writeCal)
                  | (with_reducible apply Kept_foldl; intro _ _ _)
                  | simp only [Kept_mk, KeptAt_self, KeptEx_ok, KeptEx_error, id] | split | intro _
                  | refine KeptEx.fst ?_ (by assumption)))

theorem kept_writeEach (lc : Nat) (fin : Nat → Int) (i : Nat) (es : List (Nat × Nat)) {s : State} (d : Nat)
    (hKs : Kept qs fu s) :
    KeptEx qs fu Prod.fst (writeEach lc fin i es s d) := by
  induction es generalizing i s d with
  | nil => exact hKs
  | cons e es ih =>
    have h := kept_writeParam lc fin e.1 e.2 hKs
    simp only [writeEach]
    split
    · trivial
    · exact ih _ _ (KeptEx.ok (g := Prod.fst) h (by assumption))

theorem kept_adoptTicks {old : State} {s : State} (hKold : Kept qs fu old) (hKs : Kept qs fu s)
    : Kept qs fu (adoptTicks old s) := by
  unfold adoptTicks
  (repeat' (first | with_reducible assumption | with_reducible (first | apply Kept_if | apply kept_tickWritten)
                  | (with_reducible apply Kept_foldl; intro _ _ _) | simp only [Kept_mk, KeptAt_self] | split | intro _))

theorem kept_applyWrites {s : State} (lc : Nat) (es : List (Nat × Nat)) (hKs : Kept qs fu s) :
    KeptEx qs fu Prod.fst (applyWrites s lc es) ∧ ∀ x, applyWrites s lc es = .error x → Kept qs fu x.2.2 := by
  have h := kept_writeEach (lc : Nat) (finalValue s es) 0 es 0 hKs
  unfold applyWrites
  split
  · refine ⟨trivial, fun x e => ?_⟩
    cases e
    split
    · exact kept_record _ _ _ _ hKs
    · exact hKs
  · rename_i t d e
    have ht := kept_adoptTicks hKs (KeptEx.fst h e)
    have hg := kept_grantCh 0 hKs ht
    simp only []
    split
    · split
      · exact ⟨KeptEx.state hg (by assumption), fun _ e => by cases e⟩
      · exact ⟨trivial, fun _ e => by cases e; exact hKs⟩
    · exact ⟨ht, fun _ e => by cases e⟩

theorem kept_written78 {a : State × Nat} (hKa : Kept qs fu a.1) : KeptRes qs fu (written78 a) :=
  KeptRes_if (kept_ok _ hKa) hKa

theorem kept_setList {s : State} (lc : Nat) (es : List (Nat × Bool × Nat)) (hKs : Kept qs fu s) :
    KeptRes qs fu (setList s lc es) := by
  have h := kept_applyWrites (qs := qs) (fu := fu) lc ((es.takeWhile fun e => e.2.1).map fun e => (e.1, e.2.2)) hKs
  unfold setList
  simp only []
  split
  · exact KeptRes_if hKs (show Kept qs fu _ from h.2 _ (by assumption))
  · exact KeptRes_if hKs (kept_written78 (h.1.ok (by assumption)))

theorem kept_execParamSet (p : Pkt) (d : HostData) {s : State} (hKs : Kept qs fu s) :
    KeptAns qs fu (execParamSet p d s) := by
  have h := kept_applyWrites (qs := qs) (fu := fu) (lcFor s p) [(pw p 1, rawValue (p.words.drop 2))] hKs
  unfold execParamSet
  apply kept_runBlock _ _ _ _ _ hKs
  intro _
  apply KeptRes_if
  · exact kept_setList _ _ hKs
  · split
    · exact kept_refuse _ (h.2 _ (by assumption))
    · exact kept_written78 (h.1.ok (by assumption))

theorem kept_reply {s : State} (kind : Nat) (ws : List Nat) (hKs : Kept qs fu s) : Kept qs fu (reply s kind ws) := by
  unfold reply; (repeat' (first | with_reducible assumption | with_reducible (first | apply kept_emit)))

theorem kept_errorReply {s : State} (kind : Nat) (hKs : Kept qs fu s) : Kept qs fu (errorReply s kind) := by
  unfold errorReply; (repeat' (first | with_reducible assumption | with_reducible (first | apply kept_reply)))

theorem kept_takeMessage {s : State} (k : State → State) (hKs : Kept qs fu s)
    (hKk : ∀ y0 : State, Kept qs fu y0 → Kept qs fu (k y0)) : KeptAns qs fu (takeMessage s k) := by
  unfold takeMessage
  (repeat' (first | with_reducible assumption
                  | with_reducible (first | apply Kept_if | apply KeptAns_if | apply kept_setVane | apply kept_beginWake
                                          | apply kept_done) | (with_reducible apply Kept_foldl; intro _ _ _)
                  | simp only [Kept_mk, KeptAt_self, KeptAns_next] | split| apply hKk | intro _))

theorem kept_malformed {s : State} (hKs : Kept qs fu s) : Kept qs fu (malformed s) := by
  unfold malformed; (repeat' (first | with_reducible assumption | with_reducible (first | apply kept_vaneCause)))

theorem kept_execMctpControlMessage (m : MctpControl) {s : State} (hKs : Kept qs fu s)
    : KeptAns qs fu (execMctpControlMessage m s) := by
  unfold execMctpControlMessage
  (repeat' (first | with_reducible assumption
                  | with_reducible (first | apply Kept_if | apply KeptAns_if | apply kept_putN | apply kept_errorReply
                                          | apply kept_malformed | apply kept_reply | apply kept_takeMessage)
                  | (with_reducible apply Kept_foldl; intro _ _ _) | simp only [Kept_mk, KeptAt_self, KeptAns_next] | split
                  | intro _))

theorem kept_updateReply {s : State} (component : Nat) (k : Nat → Nat × State) (hKs : Kept qs fu s)
    (hKk : ∀ y0 : Nat, Kept qs fu (k y0).2) : Kept qs fu (updateReply s component k) := by
  unfold updateReply
  (repeat' (first | with_reducible assumption
                  | with_reducible (first | apply Kept_if | apply kept_errorReply | apply kept_reply)
                  | (with_reducible apply Kept_foldl; intro _ _ _) | simp only [Kept_mk, KeptAt_self] | split| apply hKk
                  | intro _))

theorem kept_freeReply {s : State} (kind : Nat) (hKs : Kept qs fu s) : Kept qs fu (freeReply s kind) := by
  unfold freeReply
  (repeat' (first | with_reducible assumption | with_reducible (first | apply kept_draw | apply kept_reply)))

theorem kept_execPldmMessage (m : Pldm) {s : State} (hKs : Kept qs fu s) : KeptAns qs fu (execPldmMessage m s) := by
  unfold execPldmMessage
  (repeat' (first | with_reducible assumption
                  | with_reducible (first | apply Kept_if | apply KeptAns_if | apply kept_setVane | apply kept_activate
                                          | apply kept_errorReply | apply kept_freeReply | apply kept_malformed
                                          | apply kept_reply | apply kept_stageImage | apply kept_takeMessage
                                          | apply kept_updateReply | apply kept_vaneCause)
                  | (with_reducible apply Kept_foldl; intro _ _ _) | simp only [Kept_mk, KeptAt_self, KeptAns_next] | split
                  | intro _ | refine Kept.snd ?_ (by assumption)))

theorem kept_execSpdmMessage (m : Spdm) {s : State} (hKs : Kept qs fu s) : KeptAns qs fu (execSpdmMessage m s) := by
  unfold execSpdmMessage
  (repeat' (first | with_reducible assumption
                  | with_reducible (first | apply Kept_if | apply KeptAns_if | apply kept_errorReply | apply kept_reply
                                          | apply kept_takeMessage) | (with_reducible apply Kept_foldl; intro _ _ _)
                  | simp only [Kept_mk, KeptAt_self, KeptAns_next] | split | intro _))

theorem kept_execVendorDefinedMessage (vendor : Bool) (p : Pkt) {s : State} (hKs : Kept qs fu s)
    : KeptAns qs fu (execVendorDefinedMessage vendor p s) := by
  unfold execVendorDefinedMessage
  (repeat' (first | with_reducible assumption
                  | with_reducible (first | apply Kept_if | apply KeptRes_if | apply KeptAns_if | apply kept_setVane
                                          | apply kept_beginWake | apply kept_done | apply kept_errorReply
                                          | apply kept_execFwStatus | apply kept_execIdentify | apply kept_execLogRead
                                          | apply kept_execParamGet | apply kept_execSensorRead | apply kept_finish
                                          | apply kept_judgedNow | apply kept_refuse | apply kept_takeMessage)
                  | (with_reducible apply Kept_foldl; intro _ _ _)
                  | simp only [Kept_mk, KeptAt_self, KeptRes_done, KeptRes_later, KeptAns_next] | split | intro _))

theorem KeptOpt_map {α : Type} {g : α → State} (o : Option α) (h : ∀ a, Kept qs fu (g a)) : KeptOpt qs fu (o.map g) := by
  cases o with
  | none => trivial
  | some a => exact h a

theorem KeptOpt_orElse {a b : Option State} (ha : KeptOpt qs fu a) (hb : KeptOpt qs fu b) : KeptOpt qs fu (a <|> b) := by
  cases a with
  | none => exact hb
  | some _ => exact ha

theorem kept_tuneAborted {s : State} (src : Src) (tag : Nat) (hKs : Kept qs fu s) :
    KeptOpt qs fu (tuneAborted s src tag) :=
  KeptOpt_map _ fun _ => kept_complete _ _ _ _ _ _ (kept_setCh _ _ hKs)

theorem kept_uploadAborted {s : State} (src : Src) (tag : Nat) (hKs : Kept qs fu s) :
    KeptOpt qs fu (uploadAborted s src tag) := KeptOpt_map _ fun _ => kept_uploadFails _ _ _ _ hKs

theorem kept_stopAborted {s : State} (src : Src) (tag : Nat) (hKs : Kept qs fu s) :
    KeptOpt qs fu (stopAborted s src tag) :=
        KeptOpt_map _ fun _ => kept_endStop _ _ (Kept_if (kept_unbecalm _ (kept_closeBlock _ _ hKs)) hKs)

theorem kept_selfAborted {s : State} (src : Src) (tag : Nat) (hKs : Kept qs fu s) : KeptOpt qs fu (selfAborted s src tag) :=
    by
  unfold selfAborted
  (repeat' (first | with_reducible assumption
                  | with_reducible (first | apply Kept_if | apply KeptOpt_if | apply kept_complete)
                  | (with_reducible apply Kept_foldl; intro _ _ _)
                  | simp only [Kept_mk, KeptAt_self, KeptOpt_some, KeptOpt_none] | split | intro _))

theorem kept_activationAborted {s : State} (src : Src) (tag : Nat) (hKs : Kept qs fu s)
    : KeptOpt qs fu (activationAborted s src tag) := by
  unfold activationAborted
  (repeat' (first | with_reducible assumption
                  | with_reducible (first | apply Kept_if | apply KeptOpt_if | apply kept_activationFails)
                  | (with_reducible apply Kept_foldl; intro _ _ _)
                  | simp only [Kept_mk, KeptAt_self, KeptOpt_some, KeptOpt_none] | split | intro _))

theorem kept_runAborted {s : State} (src : Src) (tag : Nat) (hKs : Kept qs fu s) :
    KeptOpt qs fu (runAborted s src tag) := KeptOpt_map _ fun _ => kept_endRun _ _ hKs

theorem kept_waitingAborted {s : State} (src : Src) (tag : Nat) (hKs : Kept qs fu s)
    : KeptOpt qs fu (waitingAborted s src tag) := by
  unfold waitingAborted
  (repeat' (first | with_reducible assumption
                  | with_reducible (first | apply Kept_if | apply KeptOpt_if | apply kept_complete)
                  | (with_reducible apply Kept_foldl; intro _ _ _)
                  | simp only [Kept_mk, KeptAt_self, KeptOpt_some, KeptOpt_none] | split | intro _))

theorem kept_abortOp {s : State} (src : Src) (tag : Nat) (hKs : Kept qs fu s) :
    KeptOpt qs fu (abortOp s src tag) := by
  unfold abortOp
  repeat' apply KeptOpt_orElse
  · exact kept_waitingAborted _ _ hKs
  · exact kept_tuneAborted _ _ hKs
  · exact kept_uploadAborted _ _ hKs
  · exact kept_stopAborted _ _ hKs
  · exact kept_selfAborted _ _ hKs
  · exact kept_activationAborted _ _ hKs
  · exact kept_runAborted _ _ hKs

theorem kept_execAbort (p : Pkt) {s : State} (hKs : Kept qs fu s) : KeptAns qs fu (execAbort p s) := by
  unfold execAbort
  (repeat' (first | with_reducible assumption
                  | with_reducible (first | apply Kept_if | apply KeptRes_if | apply KeptAns_if | apply kept_abortEngine
                                          | apply kept_abortOp | apply kept_bringForward | apply kept_ok
                                          | apply kept_parkIfBusy | apply kept_refuse | apply kept_runCmd)
                  | (with_reducible apply Kept_foldl; intro _ _ _)
                  | simp only [Kept_mk, KeptAt_self, KeptRes_done, KeptRes_later, KeptAns_next] | split | intro _
                  | refine KeptOpt.some ?_ (by assumption)))

end Sys2Proof.Machine
end

