-- ==== Sys2Proof/Laws/State.lean ====
section
/-!
SUPPORT. The named writes of the state, field by field: each writes its own store and no other, and a read after a write. Later
proofs cite these and unfold no record update.
-/
namespace Sys2Proof.Machine
variable (s : State)

/-! Writing a parameter (wr) changes par and nothing else. -/

@[simp] theorem State.wr_pending (p : Prm) (n i : Nat) (v : Int) : (s.wr p n i v).pending = s.pending := rfl
@[simp] theorem State.wr_draws (p : Prm) (n i : Nat) (v : Int) : (s.wr p n i v).draws = s.draws := rfl
@[simp] theorem State.wr_sent (p : Prm) (n i : Nat) (v : Int) : (s.wr p n i v).sent = s.sent := rfl
@[simp] theorem State.wr_due (p : Prm) (n i : Nat) (v : Int) : (s.wr p n i v).due = s.due := rfl
@[simp] theorem State.wr_old (p : Prm) (n i : Nat) (v : Int) : (s.wr p n i v).old = s.old := rfl
@[simp] theorem State.wr_wins (p : Prm) (n i : Nat) (v : Int) : (s.wr p n i v).wins = s.wins := rfl
@[simp] theorem State.wr_cmd (p : Prm) (n i : Nat) (v : Int) : (s.wr p n i v).cmd = s.cmd := rfl
@[simp] theorem State.wr_hl (p : Prm) (n i : Nat) (v : Int) : (s.wr p n i v).hl = s.hl := rfl
@[simp] theorem State.wr_evf (p : Prm) (n i : Nat) (v : Int) : (s.wr p n i v).evf = s.evf := rfl
@[simp] theorem State.wr_vane (p : Prm) (n i : Nat) (v : Int) : (s.wr p n i v).vane = s.vane := rfl
@[simp] theorem State.wr_lc (p : Prm) (n i : Nat) (v : Int) : (s.wr p n i v).lc = s.lc := rfl
@[simp] theorem State.wr_pwr (p : Prm) (n i : Nat) (v : Int) : (s.wr p n i v).pwr = s.pwr := rfl
@[simp] theorem State.wr_fch (p : Prm) (n i : Nat) (v : Int) : (s.wr p n i v).fch = s.fch := rfl
@[simp] theorem State.wr_hv (p : Prm) (n i : Nat) (v : Int) : (s.wr p n i v).hv = s.hv := rfl
@[simp] theorem State.wr_grp (p : Prm) (n i : Nat) (v : Int) : (s.wr p n i v).grp = s.grp := rfl
@[simp] theorem State.wr_msr (p : Prm) (n i : Nat) (v : Int) : (s.wr p n i v).msr = s.msr := rfl
@[simp] theorem State.wr_regions (p : Prm) (n i : Nat) (v : Int) : (s.wr p n i v).regions = s.regions := rfl
@[simp] theorem State.wr_sweMem (p : Prm) (n i : Nat) (v : Int) : (s.wr p n i v).sweMem = s.sweMem := rfl
@[simp] theorem State.wr_sweBad (p : Prm) (n i : Nat) (v : Int) : (s.wr p n i v).sweBad = s.sweBad := rfl
@[simp] theorem State.wr_uploads (p : Prm) (n i : Nat) (v : Int) : (s.wr p n i v).uploads = s.uploads := rfl
@[simp] theorem State.wr_swe (p : Prm) (n i : Nat) (v : Int) : (s.wr p n i v).swe = s.swe := rfl
@[simp] theorem State.wr_cal (p : Prm) (n i : Nat) (v : Int) : (s.wr p n i v).cal = s.cal := rfl
@[simp] theorem State.wr_stm (p : Prm) (n i : Nat) (v : Int) : (s.wr p n i v).stm = s.stm := rfl
@[simp] theorem State.wr_xlt (p : Prm) (n i : Nat) (v : Int) : (s.wr p n i v).xlt = s.xlt := rfl
@[simp] theorem State.wr_pins (p : Prm) (n i : Nat) (v : Int) : (s.wr p n i v).pins = s.pins := rfl
@[simp] theorem State.wr_adc (p : Prm) (n i : Nat) (v : Int) : (s.wr p n i v).adc = s.adc := rfl
@[simp] theorem State.wr_cmp (p : Prm) (n i : Nat) (v : Int) : (s.wr p n i v).cmp = s.cmp := rfl
@[simp] theorem State.wr_seq (p : Prm) (n i : Nat) (v : Int) : (s.wr p n i v).seq = s.seq := rfl
@[simp] theorem State.wr_tb (p : Prm) (n i : Nat) (v : Int) : (s.wr p n i v).tb = s.tb := rfl
@[simp] theorem State.wr_tst (p : Prm) (n i : Nat) (v : Int) : (s.wr p n i v).tst = s.tst := rfl
@[simp] theorem State.wr_msh (p : Prm) (n i : Nat) (v : Int) : (s.wr p n i v).msh = s.msh := rfl

/-! Writing index 0 of a parameter (put) changes par and nothing else. -/

@[simp] theorem State.put_pending (p : Prm) (n : Nat) (v : Int) : (s.put p n v).pending = s.pending := rfl
@[simp] theorem State.put_draws (p : Prm) (n : Nat) (v : Int) : (s.put p n v).draws = s.draws := rfl
@[simp] theorem State.put_sent (p : Prm) (n : Nat) (v : Int) : (s.put p n v).sent = s.sent := rfl
@[simp] theorem State.put_due (p : Prm) (n : Nat) (v : Int) : (s.put p n v).due = s.due := rfl
@[simp] theorem State.put_old (p : Prm) (n : Nat) (v : Int) : (s.put p n v).old = s.old := rfl
@[simp] theorem State.put_wins (p : Prm) (n : Nat) (v : Int) : (s.put p n v).wins = s.wins := rfl
@[simp] theorem State.put_cmd (p : Prm) (n : Nat) (v : Int) : (s.put p n v).cmd = s.cmd := rfl
@[simp] theorem State.put_hl (p : Prm) (n : Nat) (v : Int) : (s.put p n v).hl = s.hl := rfl
@[simp] theorem State.put_evf (p : Prm) (n : Nat) (v : Int) : (s.put p n v).evf = s.evf := rfl
@[simp] theorem State.put_vane (p : Prm) (n : Nat) (v : Int) : (s.put p n v).vane = s.vane := rfl
@[simp] theorem State.put_lc (p : Prm) (n : Nat) (v : Int) : (s.put p n v).lc = s.lc := rfl
@[simp] theorem State.put_pwr (p : Prm) (n : Nat) (v : Int) : (s.put p n v).pwr = s.pwr := rfl
@[simp] theorem State.put_fch (p : Prm) (n : Nat) (v : Int) : (s.put p n v).fch = s.fch := rfl
@[simp] theorem State.put_hv (p : Prm) (n : Nat) (v : Int) : (s.put p n v).hv = s.hv := rfl
@[simp] theorem State.put_grp (p : Prm) (n : Nat) (v : Int) : (s.put p n v).grp = s.grp := rfl
@[simp] theorem State.put_msr (p : Prm) (n : Nat) (v : Int) : (s.put p n v).msr = s.msr := rfl
@[simp] theorem State.put_regions (p : Prm) (n : Nat) (v : Int) : (s.put p n v).regions = s.regions := rfl
@[simp] theorem State.put_sweMem (p : Prm) (n : Nat) (v : Int) : (s.put p n v).sweMem = s.sweMem := rfl
@[simp] theorem State.put_sweBad (p : Prm) (n : Nat) (v : Int) : (s.put p n v).sweBad = s.sweBad := rfl
@[simp] theorem State.put_uploads (p : Prm) (n : Nat) (v : Int) : (s.put p n v).uploads = s.uploads := rfl
@[simp] theorem State.put_swe (p : Prm) (n : Nat) (v : Int) : (s.put p n v).swe = s.swe := rfl
@[simp] theorem State.put_cal (p : Prm) (n : Nat) (v : Int) : (s.put p n v).cal = s.cal := rfl
@[simp] theorem State.put_stm (p : Prm) (n : Nat) (v : Int) : (s.put p n v).stm = s.stm := rfl
@[simp] theorem State.put_xlt (p : Prm) (n : Nat) (v : Int) : (s.put p n v).xlt = s.xlt := rfl
@[simp] theorem State.put_pins (p : Prm) (n : Nat) (v : Int) : (s.put p n v).pins = s.pins := rfl
@[simp] theorem State.put_adc (p : Prm) (n : Nat) (v : Int) : (s.put p n v).adc = s.adc := rfl
@[simp] theorem State.put_cmp (p : Prm) (n : Nat) (v : Int) : (s.put p n v).cmp = s.cmp := rfl
@[simp] theorem State.put_seq (p : Prm) (n : Nat) (v : Int) : (s.put p n v).seq = s.seq := rfl
@[simp] theorem State.put_tb (p : Prm) (n : Nat) (v : Int) : (s.put p n v).tb = s.tb := rfl
@[simp] theorem State.put_tst (p : Prm) (n : Nat) (v : Int) : (s.put p n v).tst = s.tst := rfl
@[simp] theorem State.put_msh (p : Prm) (n : Nat) (v : Int) : (s.put p n v).msh = s.msh := rfl

/-! Writing a parameter for the next loop-cycle boundary (wrNext) changes par and old and nothing else. -/

@[simp] theorem State.wrNext_pending (p : Prm) (n i : Nat) (v : Int) : (s.wrNext p n i v).pending = s.pending := rfl
@[simp] theorem State.wrNext_draws (p : Prm) (n i : Nat) (v : Int) : (s.wrNext p n i v).draws = s.draws := rfl
@[simp] theorem State.wrNext_sent (p : Prm) (n i : Nat) (v : Int) : (s.wrNext p n i v).sent = s.sent := rfl
@[simp] theorem State.wrNext_due (p : Prm) (n i : Nat) (v : Int) : (s.wrNext p n i v).due = s.due := rfl
@[simp] theorem State.wrNext_wins (p : Prm) (n i : Nat) (v : Int) : (s.wrNext p n i v).wins = s.wins := rfl
@[simp] theorem State.wrNext_cmd (p : Prm) (n i : Nat) (v : Int) : (s.wrNext p n i v).cmd = s.cmd := rfl
@[simp] theorem State.wrNext_hl (p : Prm) (n i : Nat) (v : Int) : (s.wrNext p n i v).hl = s.hl := rfl
@[simp] theorem State.wrNext_evf (p : Prm) (n i : Nat) (v : Int) : (s.wrNext p n i v).evf = s.evf := rfl
@[simp] theorem State.wrNext_vane (p : Prm) (n i : Nat) (v : Int) : (s.wrNext p n i v).vane = s.vane := rfl
@[simp] theorem State.wrNext_lc (p : Prm) (n i : Nat) (v : Int) : (s.wrNext p n i v).lc = s.lc := rfl
@[simp] theorem State.wrNext_pwr (p : Prm) (n i : Nat) (v : Int) : (s.wrNext p n i v).pwr = s.pwr := rfl
@[simp] theorem State.wrNext_fch (p : Prm) (n i : Nat) (v : Int) : (s.wrNext p n i v).fch = s.fch := rfl
@[simp] theorem State.wrNext_hv (p : Prm) (n i : Nat) (v : Int) : (s.wrNext p n i v).hv = s.hv := rfl
@[simp] theorem State.wrNext_grp (p : Prm) (n i : Nat) (v : Int) : (s.wrNext p n i v).grp = s.grp := rfl
@[simp] theorem State.wrNext_msr (p : Prm) (n i : Nat) (v : Int) : (s.wrNext p n i v).msr = s.msr := rfl
@[simp] theorem State.wrNext_regions (p : Prm) (n i : Nat) (v : Int) : (s.wrNext p n i v).regions = s.regions := rfl
@[simp] theorem State.wrNext_sweMem (p : Prm) (n i : Nat) (v : Int) : (s.wrNext p n i v).sweMem = s.sweMem := rfl
@[simp] theorem State.wrNext_sweBad (p : Prm) (n i : Nat) (v : Int) : (s.wrNext p n i v).sweBad = s.sweBad := rfl
@[simp] theorem State.wrNext_uploads (p : Prm) (n i : Nat) (v : Int) : (s.wrNext p n i v).uploads = s.uploads := rfl
@[simp] theorem State.wrNext_swe (p : Prm) (n i : Nat) (v : Int) : (s.wrNext p n i v).swe = s.swe := rfl
@[simp] theorem State.wrNext_cal (p : Prm) (n i : Nat) (v : Int) : (s.wrNext p n i v).cal = s.cal := rfl
@[simp] theorem State.wrNext_stm (p : Prm) (n i : Nat) (v : Int) : (s.wrNext p n i v).stm = s.stm := rfl
@[simp] theorem State.wrNext_xlt (p : Prm) (n i : Nat) (v : Int) : (s.wrNext p n i v).xlt = s.xlt := rfl
@[simp] theorem State.wrNext_pins (p : Prm) (n i : Nat) (v : Int) : (s.wrNext p n i v).pins = s.pins := rfl
@[simp] theorem State.wrNext_adc (p : Prm) (n i : Nat) (v : Int) : (s.wrNext p n i v).adc = s.adc := rfl
@[simp] theorem State.wrNext_cmp (p : Prm) (n i : Nat) (v : Int) : (s.wrNext p n i v).cmp = s.cmp := rfl
@[simp] theorem State.wrNext_seq (p : Prm) (n i : Nat) (v : Int) : (s.wrNext p n i v).seq = s.seq := rfl
@[simp] theorem State.wrNext_tb (p : Prm) (n i : Nat) (v : Int) : (s.wrNext p n i v).tb = s.tb := rfl
@[simp] theorem State.wrNext_tst (p : Prm) (n i : Nat) (v : Int) : (s.wrNext p n i v).tst = s.tst := rfl
@[simp] theorem State.wrNext_msh (p : Prm) (n i : Nat) (v : Int) : (s.wrNext p n i v).msh = s.msh := rfl

/-! Writing what is sent out (emit) changes sent and nothing else. -/

@[simp] theorem State.emit_pending (o : Out) : (s.emit o).pending = s.pending := rfl
@[simp] theorem State.emit_draws (o : Out) : (s.emit o).draws = s.draws := rfl
@[simp] theorem State.emit_due (o : Out) : (s.emit o).due = s.due := rfl
@[simp] theorem State.emit_par (o : Out) : (s.emit o).par = s.par := rfl
@[simp] theorem State.emit_old (o : Out) : (s.emit o).old = s.old := rfl
@[simp] theorem State.emit_wins (o : Out) : (s.emit o).wins = s.wins := rfl
@[simp] theorem State.emit_cmd (o : Out) : (s.emit o).cmd = s.cmd := rfl
@[simp] theorem State.emit_hl (o : Out) : (s.emit o).hl = s.hl := rfl
@[simp] theorem State.emit_evf (o : Out) : (s.emit o).evf = s.evf := rfl
@[simp] theorem State.emit_vane (o : Out) : (s.emit o).vane = s.vane := rfl
@[simp] theorem State.emit_lc (o : Out) : (s.emit o).lc = s.lc := rfl
@[simp] theorem State.emit_pwr (o : Out) : (s.emit o).pwr = s.pwr := rfl
@[simp] theorem State.emit_fch (o : Out) : (s.emit o).fch = s.fch := rfl
@[simp] theorem State.emit_hv (o : Out) : (s.emit o).hv = s.hv := rfl
@[simp] theorem State.emit_grp (o : Out) : (s.emit o).grp = s.grp := rfl
@[simp] theorem State.emit_msr (o : Out) : (s.emit o).msr = s.msr := rfl
@[simp] theorem State.emit_regions (o : Out) : (s.emit o).regions = s.regions := rfl
@[simp] theorem State.emit_sweMem (o : Out) : (s.emit o).sweMem = s.sweMem := rfl
@[simp] theorem State.emit_sweBad (o : Out) : (s.emit o).sweBad = s.sweBad := rfl
@[simp] theorem State.emit_uploads (o : Out) : (s.emit o).uploads = s.uploads := rfl
@[simp] theorem State.emit_swe (o : Out) : (s.emit o).swe = s.swe := rfl
@[simp] theorem State.emit_cal (o : Out) : (s.emit o).cal = s.cal := rfl
@[simp] theorem State.emit_stm (o : Out) : (s.emit o).stm = s.stm := rfl
@[simp] theorem State.emit_xlt (o : Out) : (s.emit o).xlt = s.xlt := rfl
@[simp] theorem State.emit_pins (o : Out) : (s.emit o).pins = s.pins := rfl
@[simp] theorem State.emit_adc (o : Out) : (s.emit o).adc = s.adc := rfl
@[simp] theorem State.emit_cmp (o : Out) : (s.emit o).cmp = s.cmp := rfl
@[simp] theorem State.emit_seq (o : Out) : (s.emit o).seq = s.seq := rfl
@[simp] theorem State.emit_tb (o : Out) : (s.emit o).tb = s.tb := rfl
@[simp] theorem State.emit_tst (o : Out) : (s.emit o).tst = s.tst := rfl
@[simp] theorem State.emit_msh (o : Out) : (s.emit o).msh = s.msh := rfl

/-! Writing a status window (setWin) changes wins and nothing else. -/

@[simp] theorem State.setWin_pending (b n : Nat) (w : Win) : (s.setWin b n w).pending = s.pending := rfl
@[simp] theorem State.setWin_draws (b n : Nat) (w : Win) : (s.setWin b n w).draws = s.draws := rfl
@[simp] theorem State.setWin_sent (b n : Nat) (w : Win) : (s.setWin b n w).sent = s.sent := rfl
@[simp] theorem State.setWin_due (b n : Nat) (w : Win) : (s.setWin b n w).due = s.due := rfl
@[simp] theorem State.setWin_par (b n : Nat) (w : Win) : (s.setWin b n w).par = s.par := rfl
@[simp] theorem State.setWin_old (b n : Nat) (w : Win) : (s.setWin b n w).old = s.old := rfl
@[simp] theorem State.setWin_cmd (b n : Nat) (w : Win) : (s.setWin b n w).cmd = s.cmd := rfl
@[simp] theorem State.setWin_hl (b n : Nat) (w : Win) : (s.setWin b n w).hl = s.hl := rfl
@[simp] theorem State.setWin_evf (b n : Nat) (w : Win) : (s.setWin b n w).evf = s.evf := rfl
@[simp] theorem State.setWin_vane (b n : Nat) (w : Win) : (s.setWin b n w).vane = s.vane := rfl
@[simp] theorem State.setWin_lc (b n : Nat) (w : Win) : (s.setWin b n w).lc = s.lc := rfl
@[simp] theorem State.setWin_pwr (b n : Nat) (w : Win) : (s.setWin b n w).pwr = s.pwr := rfl
@[simp] theorem State.setWin_fch (b n : Nat) (w : Win) : (s.setWin b n w).fch = s.fch := rfl
@[simp] theorem State.setWin_hv (b n : Nat) (w : Win) : (s.setWin b n w).hv = s.hv := rfl
@[simp] theorem State.setWin_grp (b n : Nat) (w : Win) : (s.setWin b n w).grp = s.grp := rfl
@[simp] theorem State.setWin_msr (b n : Nat) (w : Win) : (s.setWin b n w).msr = s.msr := rfl
@[simp] theorem State.setWin_regions (b n : Nat) (w : Win) : (s.setWin b n w).regions = s.regions := rfl
@[simp] theorem State.setWin_sweMem (b n : Nat) (w : Win) : (s.setWin b n w).sweMem = s.sweMem := rfl
@[simp] theorem State.setWin_sweBad (b n : Nat) (w : Win) : (s.setWin b n w).sweBad = s.sweBad := rfl
@[simp] theorem State.setWin_uploads (b n : Nat) (w : Win) : (s.setWin b n w).uploads = s.uploads := rfl
@[simp] theorem State.setWin_swe (b n : Nat) (w : Win) : (s.setWin b n w).swe = s.swe := rfl
@[simp] theorem State.setWin_cal (b n : Nat) (w : Win) : (s.setWin b n w).cal = s.cal := rfl
@[simp] theorem State.setWin_stm (b n : Nat) (w : Win) : (s.setWin b n w).stm = s.stm := rfl
@[simp] theorem State.setWin_xlt (b n : Nat) (w : Win) : (s.setWin b n w).xlt = s.xlt := rfl
@[simp] theorem State.setWin_pins (b n : Nat) (w : Win) : (s.setWin b n w).pins = s.pins := rfl
@[simp] theorem State.setWin_adc (b n : Nat) (w : Win) : (s.setWin b n w).adc = s.adc := rfl
@[simp] theorem State.setWin_cmp (b n : Nat) (w : Win) : (s.setWin b n w).cmp = s.cmp := rfl
@[simp] theorem State.setWin_seq (b n : Nat) (w : Win) : (s.setWin b n w).seq = s.seq := rfl
@[simp] theorem State.setWin_tb (b n : Nat) (w : Win) : (s.setWin b n w).tb = s.tb := rfl
@[simp] theorem State.setWin_tst (b n : Nat) (w : Win) : (s.setWin b n w).tst = s.tst := rfl
@[simp] theorem State.setWin_msh (b n : Nat) (w : Win) : (s.setWin b n w).msh = s.msh := rfl

/-! Writing a channel (setCh) changes fch and nothing else. -/

@[simp] theorem State.setCh_pending (c : Nat) (v : Fch) : (s.setCh c v).pending = s.pending := rfl
@[simp] theorem State.setCh_draws (c : Nat) (v : Fch) : (s.setCh c v).draws = s.draws := rfl
@[simp] theorem State.setCh_sent (c : Nat) (v : Fch) : (s.setCh c v).sent = s.sent := rfl
@[simp] theorem State.setCh_due (c : Nat) (v : Fch) : (s.setCh c v).due = s.due := rfl
@[simp] theorem State.setCh_par (c : Nat) (v : Fch) : (s.setCh c v).par = s.par := rfl
@[simp] theorem State.setCh_old (c : Nat) (v : Fch) : (s.setCh c v).old = s.old := rfl
@[simp] theorem State.setCh_wins (c : Nat) (v : Fch) : (s.setCh c v).wins = s.wins := rfl
@[simp] theorem State.setCh_cmd (c : Nat) (v : Fch) : (s.setCh c v).cmd = s.cmd := rfl
@[simp] theorem State.setCh_hl (c : Nat) (v : Fch) : (s.setCh c v).hl = s.hl := rfl
@[simp] theorem State.setCh_evf (c : Nat) (v : Fch) : (s.setCh c v).evf = s.evf := rfl
@[simp] theorem State.setCh_vane (c : Nat) (v : Fch) : (s.setCh c v).vane = s.vane := rfl
@[simp] theorem State.setCh_lc (c : Nat) (v : Fch) : (s.setCh c v).lc = s.lc := rfl
@[simp] theorem State.setCh_pwr (c : Nat) (v : Fch) : (s.setCh c v).pwr = s.pwr := rfl
@[simp] theorem State.setCh_hv (c : Nat) (v : Fch) : (s.setCh c v).hv = s.hv := rfl
@[simp] theorem State.setCh_grp (c : Nat) (v : Fch) : (s.setCh c v).grp = s.grp := rfl
@[simp] theorem State.setCh_msr (c : Nat) (v : Fch) : (s.setCh c v).msr = s.msr := rfl
@[simp] theorem State.setCh_regions (c : Nat) (v : Fch) : (s.setCh c v).regions = s.regions := rfl
@[simp] theorem State.setCh_sweMem (c : Nat) (v : Fch) : (s.setCh c v).sweMem = s.sweMem := rfl
@[simp] theorem State.setCh_sweBad (c : Nat) (v : Fch) : (s.setCh c v).sweBad = s.sweBad := rfl
@[simp] theorem State.setCh_uploads (c : Nat) (v : Fch) : (s.setCh c v).uploads = s.uploads := rfl
@[simp] theorem State.setCh_swe (c : Nat) (v : Fch) : (s.setCh c v).swe = s.swe := rfl
@[simp] theorem State.setCh_cal (c : Nat) (v : Fch) : (s.setCh c v).cal = s.cal := rfl
@[simp] theorem State.setCh_stm (c : Nat) (v : Fch) : (s.setCh c v).stm = s.stm := rfl
@[simp] theorem State.setCh_xlt (c : Nat) (v : Fch) : (s.setCh c v).xlt = s.xlt := rfl
@[simp] theorem State.setCh_pins (c : Nat) (v : Fch) : (s.setCh c v).pins = s.pins := rfl
@[simp] theorem State.setCh_adc (c : Nat) (v : Fch) : (s.setCh c v).adc = s.adc := rfl
@[simp] theorem State.setCh_cmp (c : Nat) (v : Fch) : (s.setCh c v).cmp = s.cmp := rfl
@[simp] theorem State.setCh_seq (c : Nat) (v : Fch) : (s.setCh c v).seq = s.seq := rfl
@[simp] theorem State.setCh_tb (c : Nat) (v : Fch) : (s.setCh c v).tb = s.tb := rfl
@[simp] theorem State.setCh_tst (c : Nat) (v : Fch) : (s.setCh c v).tst = s.tst := rfl
@[simp] theorem State.setCh_msh (c : Nat) (v : Fch) : (s.setCh c v).msh = s.msh := rfl

/-! Writing a group (setGroup) changes grp and nothing else. -/

@[simp] theorem State.setGroup_pending (g : Nat) (v : Grp) : (s.setGroup g v).pending = s.pending := rfl
@[simp] theorem State.setGroup_draws (g : Nat) (v : Grp) : (s.setGroup g v).draws = s.draws := rfl
@[simp] theorem State.setGroup_sent (g : Nat) (v : Grp) : (s.setGroup g v).sent = s.sent := rfl
@[simp] theorem State.setGroup_due (g : Nat) (v : Grp) : (s.setGroup g v).due = s.due := rfl
@[simp] theorem State.setGroup_par (g : Nat) (v : Grp) : (s.setGroup g v).par = s.par := rfl
@[simp] theorem State.setGroup_old (g : Nat) (v : Grp) : (s.setGroup g v).old = s.old := rfl
@[simp] theorem State.setGroup_wins (g : Nat) (v : Grp) : (s.setGroup g v).wins = s.wins := rfl
@[simp] theorem State.setGroup_cmd (g : Nat) (v : Grp) : (s.setGroup g v).cmd = s.cmd := rfl
@[simp] theorem State.setGroup_hl (g : Nat) (v : Grp) : (s.setGroup g v).hl = s.hl := rfl
@[simp] theorem State.setGroup_evf (g : Nat) (v : Grp) : (s.setGroup g v).evf = s.evf := rfl
@[simp] theorem State.setGroup_vane (g : Nat) (v : Grp) : (s.setGroup g v).vane = s.vane := rfl
@[simp] theorem State.setGroup_lc (g : Nat) (v : Grp) : (s.setGroup g v).lc = s.lc := rfl
@[simp] theorem State.setGroup_pwr (g : Nat) (v : Grp) : (s.setGroup g v).pwr = s.pwr := rfl
@[simp] theorem State.setGroup_fch (g : Nat) (v : Grp) : (s.setGroup g v).fch = s.fch := rfl
@[simp] theorem State.setGroup_hv (g : Nat) (v : Grp) : (s.setGroup g v).hv = s.hv := rfl
@[simp] theorem State.setGroup_msr (g : Nat) (v : Grp) : (s.setGroup g v).msr = s.msr := rfl
@[simp] theorem State.setGroup_regions (g : Nat) (v : Grp) : (s.setGroup g v).regions = s.regions := rfl
@[simp] theorem State.setGroup_sweMem (g : Nat) (v : Grp) : (s.setGroup g v).sweMem = s.sweMem := rfl
@[simp] theorem State.setGroup_sweBad (g : Nat) (v : Grp) : (s.setGroup g v).sweBad = s.sweBad := rfl
@[simp] theorem State.setGroup_uploads (g : Nat) (v : Grp) : (s.setGroup g v).uploads = s.uploads := rfl
@[simp] theorem State.setGroup_swe (g : Nat) (v : Grp) : (s.setGroup g v).swe = s.swe := rfl
@[simp] theorem State.setGroup_cal (g : Nat) (v : Grp) : (s.setGroup g v).cal = s.cal := rfl
@[simp] theorem State.setGroup_stm (g : Nat) (v : Grp) : (s.setGroup g v).stm = s.stm := rfl
@[simp] theorem State.setGroup_xlt (g : Nat) (v : Grp) : (s.setGroup g v).xlt = s.xlt := rfl
@[simp] theorem State.setGroup_pins (g : Nat) (v : Grp) : (s.setGroup g v).pins = s.pins := rfl
@[simp] theorem State.setGroup_adc (g : Nat) (v : Grp) : (s.setGroup g v).adc = s.adc := rfl
@[simp] theorem State.setGroup_cmp (g : Nat) (v : Grp) : (s.setGroup g v).cmp = s.cmp := rfl
@[simp] theorem State.setGroup_seq (g : Nat) (v : Grp) : (s.setGroup g v).seq = s.seq := rfl
@[simp] theorem State.setGroup_tb (g : Nat) (v : Grp) : (s.setGroup g v).tb = s.tb := rfl
@[simp] theorem State.setGroup_tst (g : Nat) (v : Grp) : (s.setGroup g v).tst = s.tst := rfl
@[simp] theorem State.setGroup_msh (g : Nat) (v : Grp) : (s.setGroup g v).msh = s.msh := rfl

/-! Writing an averager (setAvg) changes msr and nothing else. -/

@[simp] theorem State.setAvg_pending (c : Nat) (v : Msr) : (s.setAvg c v).pending = s.pending := rfl
@[simp] theorem State.setAvg_draws (c : Nat) (v : Msr) : (s.setAvg c v).draws = s.draws := rfl
@[simp] theorem State.setAvg_sent (c : Nat) (v : Msr) : (s.setAvg c v).sent = s.sent := rfl
@[simp] theorem State.setAvg_due (c : Nat) (v : Msr) : (s.setAvg c v).due = s.due := rfl
@[simp] theorem State.setAvg_par (c : Nat) (v : Msr) : (s.setAvg c v).par = s.par := rfl
@[simp] theorem State.setAvg_old (c : Nat) (v : Msr) : (s.setAvg c v).old = s.old := rfl
@[simp] theorem State.setAvg_wins (c : Nat) (v : Msr) : (s.setAvg c v).wins = s.wins := rfl
@[simp] theorem State.setAvg_cmd (c : Nat) (v : Msr) : (s.setAvg c v).cmd = s.cmd := rfl
@[simp] theorem State.setAvg_hl (c : Nat) (v : Msr) : (s.setAvg c v).hl = s.hl := rfl
@[simp] theorem State.setAvg_evf (c : Nat) (v : Msr) : (s.setAvg c v).evf = s.evf := rfl
@[simp] theorem State.setAvg_vane (c : Nat) (v : Msr) : (s.setAvg c v).vane = s.vane := rfl
@[simp] theorem State.setAvg_lc (c : Nat) (v : Msr) : (s.setAvg c v).lc = s.lc := rfl
@[simp] theorem State.setAvg_pwr (c : Nat) (v : Msr) : (s.setAvg c v).pwr = s.pwr := rfl
@[simp] theorem State.setAvg_fch (c : Nat) (v : Msr) : (s.setAvg c v).fch = s.fch := rfl
@[simp] theorem State.setAvg_hv (c : Nat) (v : Msr) : (s.setAvg c v).hv = s.hv := rfl
@[simp] theorem State.setAvg_grp (c : Nat) (v : Msr) : (s.setAvg c v).grp = s.grp := rfl
@[simp] theorem State.setAvg_regions (c : Nat) (v : Msr) : (s.setAvg c v).regions = s.regions := rfl
@[simp] theorem State.setAvg_sweMem (c : Nat) (v : Msr) : (s.setAvg c v).sweMem = s.sweMem := rfl
@[simp] theorem State.setAvg_sweBad (c : Nat) (v : Msr) : (s.setAvg c v).sweBad = s.sweBad := rfl
@[simp] theorem State.setAvg_uploads (c : Nat) (v : Msr) : (s.setAvg c v).uploads = s.uploads := rfl
@[simp] theorem State.setAvg_swe (c : Nat) (v : Msr) : (s.setAvg c v).swe = s.swe := rfl
@[simp] theorem State.setAvg_cal (c : Nat) (v : Msr) : (s.setAvg c v).cal = s.cal := rfl
@[simp] theorem State.setAvg_stm (c : Nat) (v : Msr) : (s.setAvg c v).stm = s.stm := rfl
@[simp] theorem State.setAvg_xlt (c : Nat) (v : Msr) : (s.setAvg c v).xlt = s.xlt := rfl
@[simp] theorem State.setAvg_pins (c : Nat) (v : Msr) : (s.setAvg c v).pins = s.pins := rfl
@[simp] theorem State.setAvg_adc (c : Nat) (v : Msr) : (s.setAvg c v).adc = s.adc := rfl
@[simp] theorem State.setAvg_cmp (c : Nat) (v : Msr) : (s.setAvg c v).cmp = s.cmp := rfl
@[simp] theorem State.setAvg_seq (c : Nat) (v : Msr) : (s.setAvg c v).seq = s.seq := rfl
@[simp] theorem State.setAvg_tb (c : Nat) (v : Msr) : (s.setAvg c v).tb = s.tb := rfl
@[simp] theorem State.setAvg_tst (c : Nat) (v : Msr) : (s.setAvg c v).tst = s.tst := rfl
@[simp] theorem State.setAvg_msh (c : Nat) (v : Msr) : (s.setAvg c v).msh = s.msh := rfl

/-! Writing a sweep engine (setEngine) changes swe and nothing else. -/

@[simp] theorem State.setEngine_pending (e : Nat) (v : Swe) : (s.setEngine e v).pending = s.pending := rfl
@[simp] theorem State.setEngine_draws (e : Nat) (v : Swe) : (s.setEngine e v).draws = s.draws := rfl
@[simp] theorem State.setEngine_sent (e : Nat) (v : Swe) : (s.setEngine e v).sent = s.sent := rfl
@[simp] theorem State.setEngine_due (e : Nat) (v : Swe) : (s.setEngine e v).due = s.due := rfl
@[simp] theorem State.setEngine_par (e : Nat) (v : Swe) : (s.setEngine e v).par = s.par := rfl
@[simp] theorem State.setEngine_old (e : Nat) (v : Swe) : (s.setEngine e v).old = s.old := rfl
@[simp] theorem State.setEngine_wins (e : Nat) (v : Swe) : (s.setEngine e v).wins = s.wins := rfl
@[simp] theorem State.setEngine_cmd (e : Nat) (v : Swe) : (s.setEngine e v).cmd = s.cmd := rfl
@[simp] theorem State.setEngine_hl (e : Nat) (v : Swe) : (s.setEngine e v).hl = s.hl := rfl
@[simp] theorem State.setEngine_evf (e : Nat) (v : Swe) : (s.setEngine e v).evf = s.evf := rfl
@[simp] theorem State.setEngine_vane (e : Nat) (v : Swe) : (s.setEngine e v).vane = s.vane := rfl
@[simp] theorem State.setEngine_lc (e : Nat) (v : Swe) : (s.setEngine e v).lc = s.lc := rfl
@[simp] theorem State.setEngine_pwr (e : Nat) (v : Swe) : (s.setEngine e v).pwr = s.pwr := rfl
@[simp] theorem State.setEngine_fch (e : Nat) (v : Swe) : (s.setEngine e v).fch = s.fch := rfl
@[simp] theorem State.setEngine_hv (e : Nat) (v : Swe) : (s.setEngine e v).hv = s.hv := rfl
@[simp] theorem State.setEngine_grp (e : Nat) (v : Swe) : (s.setEngine e v).grp = s.grp := rfl
@[simp] theorem State.setEngine_msr (e : Nat) (v : Swe) : (s.setEngine e v).msr = s.msr := rfl
@[simp] theorem State.setEngine_regions (e : Nat) (v : Swe) : (s.setEngine e v).regions = s.regions := rfl
@[simp] theorem State.setEngine_sweMem (e : Nat) (v : Swe) : (s.setEngine e v).sweMem = s.sweMem := rfl
@[simp] theorem State.setEngine_sweBad (e : Nat) (v : Swe) : (s.setEngine e v).sweBad = s.sweBad := rfl
@[simp] theorem State.setEngine_uploads (e : Nat) (v : Swe) : (s.setEngine e v).uploads = s.uploads := rfl
@[simp] theorem State.setEngine_cal (e : Nat) (v : Swe) : (s.setEngine e v).cal = s.cal := rfl
@[simp] theorem State.setEngine_stm (e : Nat) (v : Swe) : (s.setEngine e v).stm = s.stm := rfl
@[simp] theorem State.setEngine_xlt (e : Nat) (v : Swe) : (s.setEngine e v).xlt = s.xlt := rfl
@[simp] theorem State.setEngine_pins (e : Nat) (v : Swe) : (s.setEngine e v).pins = s.pins := rfl
@[simp] theorem State.setEngine_adc (e : Nat) (v : Swe) : (s.setEngine e v).adc = s.adc := rfl
@[simp] theorem State.setEngine_cmp (e : Nat) (v : Swe) : (s.setEngine e v).cmp = s.cmp := rfl
@[simp] theorem State.setEngine_seq (e : Nat) (v : Swe) : (s.setEngine e v).seq = s.seq := rfl
@[simp] theorem State.setEngine_tb (e : Nat) (v : Swe) : (s.setEngine e v).tb = s.tb := rfl
@[simp] theorem State.setEngine_tst (e : Nat) (v : Swe) : (s.setEngine e v).tst = s.tst := rfl
@[simp] theorem State.setEngine_msh (e : Nat) (v : Swe) : (s.setEngine e v).msh = s.msh := rfl

/-! Writing a region (setRegion) changes regions and nothing else. -/

@[simp] theorem State.setRegion_pending (h : Nat) (v : Option Region) : (s.setRegion h v).pending = s.pending := rfl
@[simp] theorem State.setRegion_draws (h : Nat) (v : Option Region) : (s.setRegion h v).draws = s.draws := rfl
@[simp] theorem State.setRegion_sent (h : Nat) (v : Option Region) : (s.setRegion h v).sent = s.sent := rfl
@[simp] theorem State.setRegion_due (h : Nat) (v : Option Region) : (s.setRegion h v).due = s.due := rfl
@[simp] theorem State.setRegion_par (h : Nat) (v : Option Region) : (s.setRegion h v).par = s.par := rfl
@[simp] theorem State.setRegion_old (h : Nat) (v : Option Region) : (s.setRegion h v).old = s.old := rfl
@[simp] theorem State.setRegion_wins (h : Nat) (v : Option Region) : (s.setRegion h v).wins = s.wins := rfl
@[simp] theorem State.setRegion_cmd (h : Nat) (v : Option Region) : (s.setRegion h v).cmd = s.cmd := rfl
@[simp] theorem State.setRegion_hl (h : Nat) (v : Option Region) : (s.setRegion h v).hl = s.hl := rfl
@[simp] theorem State.setRegion_evf (h : Nat) (v : Option Region) : (s.setRegion h v).evf = s.evf := rfl
@[simp] theorem State.setRegion_vane (h : Nat) (v : Option Region) : (s.setRegion h v).vane = s.vane := rfl
@[simp] theorem State.setRegion_lc (h : Nat) (v : Option Region) : (s.setRegion h v).lc = s.lc := rfl
@[simp] theorem State.setRegion_pwr (h : Nat) (v : Option Region) : (s.setRegion h v).pwr = s.pwr := rfl
@[simp] theorem State.setRegion_fch (h : Nat) (v : Option Region) : (s.setRegion h v).fch = s.fch := rfl
@[simp] theorem State.setRegion_hv (h : Nat) (v : Option Region) : (s.setRegion h v).hv = s.hv := rfl
@[simp] theorem State.setRegion_grp (h : Nat) (v : Option Region) : (s.setRegion h v).grp = s.grp := rfl
@[simp] theorem State.setRegion_msr (h : Nat) (v : Option Region) : (s.setRegion h v).msr = s.msr := rfl
@[simp] theorem State.setRegion_sweMem (h : Nat) (v : Option Region) : (s.setRegion h v).sweMem = s.sweMem := rfl
@[simp] theorem State.setRegion_sweBad (h : Nat) (v : Option Region) : (s.setRegion h v).sweBad = s.sweBad := rfl
@[simp] theorem State.setRegion_uploads (h : Nat) (v : Option Region) : (s.setRegion h v).uploads = s.uploads := rfl
@[simp] theorem State.setRegion_swe (h : Nat) (v : Option Region) : (s.setRegion h v).swe = s.swe := rfl
@[simp] theorem State.setRegion_cal (h : Nat) (v : Option Region) : (s.setRegion h v).cal = s.cal := rfl
@[simp] theorem State.setRegion_stm (h : Nat) (v : Option Region) : (s.setRegion h v).stm = s.stm := rfl
@[simp] theorem State.setRegion_xlt (h : Nat) (v : Option Region) : (s.setRegion h v).xlt = s.xlt := rfl
@[simp] theorem State.setRegion_pins (h : Nat) (v : Option Region) : (s.setRegion h v).pins = s.pins := rfl
@[simp] theorem State.setRegion_adc (h : Nat) (v : Option Region) : (s.setRegion h v).adc = s.adc := rfl
@[simp] theorem State.setRegion_cmp (h : Nat) (v : Option Region) : (s.setRegion h v).cmp = s.cmp := rfl
@[simp] theorem State.setRegion_seq (h : Nat) (v : Option Region) : (s.setRegion h v).seq = s.seq := rfl
@[simp] theorem State.setRegion_tb (h : Nat) (v : Option Region) : (s.setRegion h v).tb = s.tb := rfl
@[simp] theorem State.setRegion_tst (h : Nat) (v : Option Region) : (s.setRegion h v).tst = s.tst := rfl
@[simp] theorem State.setRegion_msh (h : Nat) (v : Option Region) : (s.setRegion h v).msh = s.msh := rfl

/-! Writing a stream (setStream) changes stm and nothing else. -/

@[simp] theorem State.setStream_pending (n : Nat) (v : Stm) : (s.setStream n v).pending = s.pending := rfl
@[simp] theorem State.setStream_draws (n : Nat) (v : Stm) : (s.setStream n v).draws = s.draws := rfl
@[simp] theorem State.setStream_sent (n : Nat) (v : Stm) : (s.setStream n v).sent = s.sent := rfl
@[simp] theorem State.setStream_due (n : Nat) (v : Stm) : (s.setStream n v).due = s.due := rfl
@[simp] theorem State.setStream_par (n : Nat) (v : Stm) : (s.setStream n v).par = s.par := rfl
@[simp] theorem State.setStream_old (n : Nat) (v : Stm) : (s.setStream n v).old = s.old := rfl
@[simp] theorem State.setStream_wins (n : Nat) (v : Stm) : (s.setStream n v).wins = s.wins := rfl
@[simp] theorem State.setStream_cmd (n : Nat) (v : Stm) : (s.setStream n v).cmd = s.cmd := rfl
@[simp] theorem State.setStream_hl (n : Nat) (v : Stm) : (s.setStream n v).hl = s.hl := rfl
@[simp] theorem State.setStream_evf (n : Nat) (v : Stm) : (s.setStream n v).evf = s.evf := rfl
@[simp] theorem State.setStream_vane (n : Nat) (v : Stm) : (s.setStream n v).vane = s.vane := rfl
@[simp] theorem State.setStream_lc (n : Nat) (v : Stm) : (s.setStream n v).lc = s.lc := rfl
@[simp] theorem State.setStream_pwr (n : Nat) (v : Stm) : (s.setStream n v).pwr = s.pwr := rfl
@[simp] theorem State.setStream_fch (n : Nat) (v : Stm) : (s.setStream n v).fch = s.fch := rfl
@[simp] theorem State.setStream_hv (n : Nat) (v : Stm) : (s.setStream n v).hv = s.hv := rfl
@[simp] theorem State.setStream_grp (n : Nat) (v : Stm) : (s.setStream n v).grp = s.grp := rfl
@[simp] theorem State.setStream_msr (n : Nat) (v : Stm) : (s.setStream n v).msr = s.msr := rfl
@[simp] theorem State.setStream_regions (n : Nat) (v : Stm) : (s.setStream n v).regions = s.regions := rfl
@[simp] theorem State.setStream_sweMem (n : Nat) (v : Stm) : (s.setStream n v).sweMem = s.sweMem := rfl
@[simp] theorem State.setStream_sweBad (n : Nat) (v : Stm) : (s.setStream n v).sweBad = s.sweBad := rfl
@[simp] theorem State.setStream_uploads (n : Nat) (v : Stm) : (s.setStream n v).uploads = s.uploads := rfl
@[simp] theorem State.setStream_swe (n : Nat) (v : Stm) : (s.setStream n v).swe = s.swe := rfl
@[simp] theorem State.setStream_cal (n : Nat) (v : Stm) : (s.setStream n v).cal = s.cal := rfl
@[simp] theorem State.setStream_xlt (n : Nat) (v : Stm) : (s.setStream n v).xlt = s.xlt := rfl
@[simp] theorem State.setStream_pins (n : Nat) (v : Stm) : (s.setStream n v).pins = s.pins := rfl
@[simp] theorem State.setStream_adc (n : Nat) (v : Stm) : (s.setStream n v).adc = s.adc := rfl
@[simp] theorem State.setStream_cmp (n : Nat) (v : Stm) : (s.setStream n v).cmp = s.cmp := rfl
@[simp] theorem State.setStream_seq (n : Nat) (v : Stm) : (s.setStream n v).seq = s.seq := rfl
@[simp] theorem State.setStream_tb (n : Nat) (v : Stm) : (s.setStream n v).tb = s.tb := rfl
@[simp] theorem State.setStream_tst (n : Nat) (v : Stm) : (s.setStream n v).tst = s.tst := rfl
@[simp] theorem State.setStream_msh (n : Nat) (v : Stm) : (s.setStream n v).msh = s.msh := rfl

/-! Writing a pin (setPin) changes pins and nothing else. -/

@[simp] theorem State.setPin_pending (n : Nat) (v : PinRun) : (s.setPin n v).pending = s.pending := rfl
@[simp] theorem State.setPin_draws (n : Nat) (v : PinRun) : (s.setPin n v).draws = s.draws := rfl
@[simp] theorem State.setPin_sent (n : Nat) (v : PinRun) : (s.setPin n v).sent = s.sent := rfl
@[simp] theorem State.setPin_due (n : Nat) (v : PinRun) : (s.setPin n v).due = s.due := rfl
@[simp] theorem State.setPin_par (n : Nat) (v : PinRun) : (s.setPin n v).par = s.par := rfl
@[simp] theorem State.setPin_old (n : Nat) (v : PinRun) : (s.setPin n v).old = s.old := rfl
@[simp] theorem State.setPin_wins (n : Nat) (v : PinRun) : (s.setPin n v).wins = s.wins := rfl
@[simp] theorem State.setPin_cmd (n : Nat) (v : PinRun) : (s.setPin n v).cmd = s.cmd := rfl
@[simp] theorem State.setPin_hl (n : Nat) (v : PinRun) : (s.setPin n v).hl = s.hl := rfl
@[simp] theorem State.setPin_evf (n : Nat) (v : PinRun) : (s.setPin n v).evf = s.evf := rfl
@[simp] theorem State.setPin_vane (n : Nat) (v : PinRun) : (s.setPin n v).vane = s.vane := rfl
@[simp] theorem State.setPin_lc (n : Nat) (v : PinRun) : (s.setPin n v).lc = s.lc := rfl
@[simp] theorem State.setPin_pwr (n : Nat) (v : PinRun) : (s.setPin n v).pwr = s.pwr := rfl
@[simp] theorem State.setPin_fch (n : Nat) (v : PinRun) : (s.setPin n v).fch = s.fch := rfl
@[simp] theorem State.setPin_hv (n : Nat) (v : PinRun) : (s.setPin n v).hv = s.hv := rfl
@[simp] theorem State.setPin_grp (n : Nat) (v : PinRun) : (s.setPin n v).grp = s.grp := rfl
@[simp] theorem State.setPin_msr (n : Nat) (v : PinRun) : (s.setPin n v).msr = s.msr := rfl
@[simp] theorem State.setPin_regions (n : Nat) (v : PinRun) : (s.setPin n v).regions = s.regions := rfl
@[simp] theorem State.setPin_sweMem (n : Nat) (v : PinRun) : (s.setPin n v).sweMem = s.sweMem := rfl
@[simp] theorem State.setPin_sweBad (n : Nat) (v : PinRun) : (s.setPin n v).sweBad = s.sweBad := rfl
@[simp] theorem State.setPin_uploads (n : Nat) (v : PinRun) : (s.setPin n v).uploads = s.uploads := rfl
@[simp] theorem State.setPin_swe (n : Nat) (v : PinRun) : (s.setPin n v).swe = s.swe := rfl
@[simp] theorem State.setPin_cal (n : Nat) (v : PinRun) : (s.setPin n v).cal = s.cal := rfl
@[simp] theorem State.setPin_stm (n : Nat) (v : PinRun) : (s.setPin n v).stm = s.stm := rfl
@[simp] theorem State.setPin_xlt (n : Nat) (v : PinRun) : (s.setPin n v).xlt = s.xlt := rfl
@[simp] theorem State.setPin_adc (n : Nat) (v : PinRun) : (s.setPin n v).adc = s.adc := rfl
@[simp] theorem State.setPin_cmp (n : Nat) (v : PinRun) : (s.setPin n v).cmp = s.cmp := rfl
@[simp] theorem State.setPin_seq (n : Nat) (v : PinRun) : (s.setPin n v).seq = s.seq := rfl
@[simp] theorem State.setPin_tb (n : Nat) (v : PinRun) : (s.setPin n v).tb = s.tb := rfl
@[simp] theorem State.setPin_tst (n : Nat) (v : PinRun) : (s.setPin n v).tst = s.tst := rfl
@[simp] theorem State.setPin_msh (n : Nat) (v : PinRun) : (s.setPin n v).msh = s.msh := rfl

/-! Writing a converter (setConv) changes adc and nothing else. -/

@[simp] theorem State.setConv_pending (n : Nat) (v : Adc) : (s.setConv n v).pending = s.pending := rfl
@[simp] theorem State.setConv_draws (n : Nat) (v : Adc) : (s.setConv n v).draws = s.draws := rfl
@[simp] theorem State.setConv_sent (n : Nat) (v : Adc) : (s.setConv n v).sent = s.sent := rfl
@[simp] theorem State.setConv_due (n : Nat) (v : Adc) : (s.setConv n v).due = s.due := rfl
@[simp] theorem State.setConv_par (n : Nat) (v : Adc) : (s.setConv n v).par = s.par := rfl
@[simp] theorem State.setConv_old (n : Nat) (v : Adc) : (s.setConv n v).old = s.old := rfl
@[simp] theorem State.setConv_wins (n : Nat) (v : Adc) : (s.setConv n v).wins = s.wins := rfl
@[simp] theorem State.setConv_cmd (n : Nat) (v : Adc) : (s.setConv n v).cmd = s.cmd := rfl
@[simp] theorem State.setConv_hl (n : Nat) (v : Adc) : (s.setConv n v).hl = s.hl := rfl
@[simp] theorem State.setConv_evf (n : Nat) (v : Adc) : (s.setConv n v).evf = s.evf := rfl
@[simp] theorem State.setConv_vane (n : Nat) (v : Adc) : (s.setConv n v).vane = s.vane := rfl
@[simp] theorem State.setConv_lc (n : Nat) (v : Adc) : (s.setConv n v).lc = s.lc := rfl
@[simp] theorem State.setConv_pwr (n : Nat) (v : Adc) : (s.setConv n v).pwr = s.pwr := rfl
@[simp] theorem State.setConv_fch (n : Nat) (v : Adc) : (s.setConv n v).fch = s.fch := rfl
@[simp] theorem State.setConv_hv (n : Nat) (v : Adc) : (s.setConv n v).hv = s.hv := rfl
@[simp] theorem State.setConv_grp (n : Nat) (v : Adc) : (s.setConv n v).grp = s.grp := rfl
@[simp] theorem State.setConv_msr (n : Nat) (v : Adc) : (s.setConv n v).msr = s.msr := rfl
@[simp] theorem State.setConv_regions (n : Nat) (v : Adc) : (s.setConv n v).regions = s.regions := rfl
@[simp] theorem State.setConv_sweMem (n : Nat) (v : Adc) : (s.setConv n v).sweMem = s.sweMem := rfl
@[simp] theorem State.setConv_sweBad (n : Nat) (v : Adc) : (s.setConv n v).sweBad = s.sweBad := rfl
@[simp] theorem State.setConv_uploads (n : Nat) (v : Adc) : (s.setConv n v).uploads = s.uploads := rfl
@[simp] theorem State.setConv_swe (n : Nat) (v : Adc) : (s.setConv n v).swe = s.swe := rfl
@[simp] theorem State.setConv_cal (n : Nat) (v : Adc) : (s.setConv n v).cal = s.cal := rfl
@[simp] theorem State.setConv_stm (n : Nat) (v : Adc) : (s.setConv n v).stm = s.stm := rfl
@[simp] theorem State.setConv_xlt (n : Nat) (v : Adc) : (s.setConv n v).xlt = s.xlt := rfl
@[simp] theorem State.setConv_pins (n : Nat) (v : Adc) : (s.setConv n v).pins = s.pins := rfl
@[simp] theorem State.setConv_cmp (n : Nat) (v : Adc) : (s.setConv n v).cmp = s.cmp := rfl
@[simp] theorem State.setConv_seq (n : Nat) (v : Adc) : (s.setConv n v).seq = s.seq := rfl
@[simp] theorem State.setConv_tb (n : Nat) (v : Adc) : (s.setConv n v).tb = s.tb := rfl
@[simp] theorem State.setConv_tst (n : Nat) (v : Adc) : (s.setConv n v).tst = s.tst := rfl
@[simp] theorem State.setConv_msh (n : Nat) (v : Adc) : (s.setConv n v).msh = s.msh := rfl

/-! Writing a comparator (setComp) changes cmp and nothing else. -/

@[simp] theorem State.setComp_pending (c : Cmp) (v : CmpRun) : (s.setComp c v).pending = s.pending := rfl
@[simp] theorem State.setComp_draws (c : Cmp) (v : CmpRun) : (s.setComp c v).draws = s.draws := rfl
@[simp] theorem State.setComp_sent (c : Cmp) (v : CmpRun) : (s.setComp c v).sent = s.sent := rfl
@[simp] theorem State.setComp_due (c : Cmp) (v : CmpRun) : (s.setComp c v).due = s.due := rfl
@[simp] theorem State.setComp_par (c : Cmp) (v : CmpRun) : (s.setComp c v).par = s.par := rfl
@[simp] theorem State.setComp_old (c : Cmp) (v : CmpRun) : (s.setComp c v).old = s.old := rfl
@[simp] theorem State.setComp_wins (c : Cmp) (v : CmpRun) : (s.setComp c v).wins = s.wins := rfl
@[simp] theorem State.setComp_cmd (c : Cmp) (v : CmpRun) : (s.setComp c v).cmd = s.cmd := rfl
@[simp] theorem State.setComp_hl (c : Cmp) (v : CmpRun) : (s.setComp c v).hl = s.hl := rfl
@[simp] theorem State.setComp_evf (c : Cmp) (v : CmpRun) : (s.setComp c v).evf = s.evf := rfl
@[simp] theorem State.setComp_vane (c : Cmp) (v : CmpRun) : (s.setComp c v).vane = s.vane := rfl
@[simp] theorem State.setComp_lc (c : Cmp) (v : CmpRun) : (s.setComp c v).lc = s.lc := rfl
@[simp] theorem State.setComp_pwr (c : Cmp) (v : CmpRun) : (s.setComp c v).pwr = s.pwr := rfl
@[simp] theorem State.setComp_fch (c : Cmp) (v : CmpRun) : (s.setComp c v).fch = s.fch := rfl
@[simp] theorem State.setComp_hv (c : Cmp) (v : CmpRun) : (s.setComp c v).hv = s.hv := rfl
@[simp] theorem State.setComp_grp (c : Cmp) (v : CmpRun) : (s.setComp c v).grp = s.grp := rfl
@[simp] theorem State.setComp_msr (c : Cmp) (v : CmpRun) : (s.setComp c v).msr = s.msr := rfl
@[simp] theorem State.setComp_regions (c : Cmp) (v : CmpRun) : (s.setComp c v).regions = s.regions := rfl
@[simp] theorem State.setComp_sweMem (c : Cmp) (v : CmpRun) : (s.setComp c v).sweMem = s.sweMem := rfl
@[simp] theorem State.setComp_sweBad (c : Cmp) (v : CmpRun) : (s.setComp c v).sweBad = s.sweBad := rfl
@[simp] theorem State.setComp_uploads (c : Cmp) (v : CmpRun) : (s.setComp c v).uploads = s.uploads := rfl
@[simp] theorem State.setComp_swe (c : Cmp) (v : CmpRun) : (s.setComp c v).swe = s.swe := rfl
@[simp] theorem State.setComp_cal (c : Cmp) (v : CmpRun) : (s.setComp c v).cal = s.cal := rfl
@[simp] theorem State.setComp_stm (c : Cmp) (v : CmpRun) : (s.setComp c v).stm = s.stm := rfl
@[simp] theorem State.setComp_xlt (c : Cmp) (v : CmpRun) : (s.setComp c v).xlt = s.xlt := rfl
@[simp] theorem State.setComp_pins (c : Cmp) (v : CmpRun) : (s.setComp c v).pins = s.pins := rfl
@[simp] theorem State.setComp_adc (c : Cmp) (v : CmpRun) : (s.setComp c v).adc = s.adc := rfl
@[simp] theorem State.setComp_seq (c : Cmp) (v : CmpRun) : (s.setComp c v).seq = s.seq := rfl
@[simp] theorem State.setComp_tb (c : Cmp) (v : CmpRun) : (s.setComp c v).tb = s.tb := rfl
@[simp] theorem State.setComp_tst (c : Cmp) (v : CmpRun) : (s.setComp c v).tst = s.tst := rfl
@[simp] theorem State.setComp_msh (c : Cmp) (v : CmpRun) : (s.setComp c v).msh = s.msh := rfl

/-! Writing a sequencer (setSequencer) changes seq and nothing else. -/

@[simp] theorem State.setSequencer_pending (d : Nat) (v : Seq) : (s.setSequencer d v).pending = s.pending := rfl
@[simp] theorem State.setSequencer_draws (d : Nat) (v : Seq) : (s.setSequencer d v).draws = s.draws := rfl
@[simp] theorem State.setSequencer_sent (d : Nat) (v : Seq) : (s.setSequencer d v).sent = s.sent := rfl
@[simp] theorem State.setSequencer_due (d : Nat) (v : Seq) : (s.setSequencer d v).due = s.due := rfl
@[simp] theorem State.setSequencer_par (d : Nat) (v : Seq) : (s.setSequencer d v).par = s.par := rfl
@[simp] theorem State.setSequencer_old (d : Nat) (v : Seq) : (s.setSequencer d v).old = s.old := rfl
@[simp] theorem State.setSequencer_wins (d : Nat) (v : Seq) : (s.setSequencer d v).wins = s.wins := rfl
@[simp] theorem State.setSequencer_cmd (d : Nat) (v : Seq) : (s.setSequencer d v).cmd = s.cmd := rfl
@[simp] theorem State.setSequencer_hl (d : Nat) (v : Seq) : (s.setSequencer d v).hl = s.hl := rfl
@[simp] theorem State.setSequencer_evf (d : Nat) (v : Seq) : (s.setSequencer d v).evf = s.evf := rfl
@[simp] theorem State.setSequencer_vane (d : Nat) (v : Seq) : (s.setSequencer d v).vane = s.vane := rfl
@[simp] theorem State.setSequencer_lc (d : Nat) (v : Seq) : (s.setSequencer d v).lc = s.lc := rfl
@[simp] theorem State.setSequencer_pwr (d : Nat) (v : Seq) : (s.setSequencer d v).pwr = s.pwr := rfl
@[simp] theorem State.setSequencer_fch (d : Nat) (v : Seq) : (s.setSequencer d v).fch = s.fch := rfl
@[simp] theorem State.setSequencer_hv (d : Nat) (v : Seq) : (s.setSequencer d v).hv = s.hv := rfl
@[simp] theorem State.setSequencer_grp (d : Nat) (v : Seq) : (s.setSequencer d v).grp = s.grp := rfl
@[simp] theorem State.setSequencer_msr (d : Nat) (v : Seq) : (s.setSequencer d v).msr = s.msr := rfl
@[simp] theorem State.setSequencer_regions (d : Nat) (v : Seq) : (s.setSequencer d v).regions = s.regions := rfl
@[simp] theorem State.setSequencer_sweMem (d : Nat) (v : Seq) : (s.setSequencer d v).sweMem = s.sweMem := rfl
@[simp] theorem State.setSequencer_sweBad (d : Nat) (v : Seq) : (s.setSequencer d v).sweBad = s.sweBad := rfl
@[simp] theorem State.setSequencer_uploads (d : Nat) (v : Seq) : (s.setSequencer d v).uploads = s.uploads := rfl
@[simp] theorem State.setSequencer_swe (d : Nat) (v : Seq) : (s.setSequencer d v).swe = s.swe := rfl
@[simp] theorem State.setSequencer_cal (d : Nat) (v : Seq) : (s.setSequencer d v).cal = s.cal := rfl
@[simp] theorem State.setSequencer_stm (d : Nat) (v : Seq) : (s.setSequencer d v).stm = s.stm := rfl
@[simp] theorem State.setSequencer_xlt (d : Nat) (v : Seq) : (s.setSequencer d v).xlt = s.xlt := rfl
@[simp] theorem State.setSequencer_pins (d : Nat) (v : Seq) : (s.setSequencer d v).pins = s.pins := rfl
@[simp] theorem State.setSequencer_adc (d : Nat) (v : Seq) : (s.setSequencer d v).adc = s.adc := rfl
@[simp] theorem State.setSequencer_cmp (d : Nat) (v : Seq) : (s.setSequencer d v).cmp = s.cmp := rfl
@[simp] theorem State.setSequencer_tb (d : Nat) (v : Seq) : (s.setSequencer d v).tb = s.tb := rfl
@[simp] theorem State.setSequencer_tst (d : Nat) (v : Seq) : (s.setSequencer d v).tst = s.tst := rfl
@[simp] theorem State.setSequencer_msh (d : Nat) (v : Seq) : (s.setSequencer d v).msh = s.msh := rfl

/-! Writing a consumer (setCon) changes evf and nothing else. -/

@[simp] theorem State.setCon_pending (n : Nat) (v : Cons) : (s.setCon n v).pending = s.pending := rfl
@[simp] theorem State.setCon_draws (n : Nat) (v : Cons) : (s.setCon n v).draws = s.draws := rfl
@[simp] theorem State.setCon_sent (n : Nat) (v : Cons) : (s.setCon n v).sent = s.sent := rfl
@[simp] theorem State.setCon_due (n : Nat) (v : Cons) : (s.setCon n v).due = s.due := rfl
@[simp] theorem State.setCon_par (n : Nat) (v : Cons) : (s.setCon n v).par = s.par := rfl
@[simp] theorem State.setCon_old (n : Nat) (v : Cons) : (s.setCon n v).old = s.old := rfl
@[simp] theorem State.setCon_wins (n : Nat) (v : Cons) : (s.setCon n v).wins = s.wins := rfl
@[simp] theorem State.setCon_cmd (n : Nat) (v : Cons) : (s.setCon n v).cmd = s.cmd := rfl
@[simp] theorem State.setCon_hl (n : Nat) (v : Cons) : (s.setCon n v).hl = s.hl := rfl
@[simp] theorem State.setCon_vane (n : Nat) (v : Cons) : (s.setCon n v).vane = s.vane := rfl
@[simp] theorem State.setCon_lc (n : Nat) (v : Cons) : (s.setCon n v).lc = s.lc := rfl
@[simp] theorem State.setCon_pwr (n : Nat) (v : Cons) : (s.setCon n v).pwr = s.pwr := rfl
@[simp] theorem State.setCon_fch (n : Nat) (v : Cons) : (s.setCon n v).fch = s.fch := rfl
@[simp] theorem State.setCon_hv (n : Nat) (v : Cons) : (s.setCon n v).hv = s.hv := rfl
@[simp] theorem State.setCon_grp (n : Nat) (v : Cons) : (s.setCon n v).grp = s.grp := rfl
@[simp] theorem State.setCon_msr (n : Nat) (v : Cons) : (s.setCon n v).msr = s.msr := rfl
@[simp] theorem State.setCon_regions (n : Nat) (v : Cons) : (s.setCon n v).regions = s.regions := rfl
@[simp] theorem State.setCon_sweMem (n : Nat) (v : Cons) : (s.setCon n v).sweMem = s.sweMem := rfl
@[simp] theorem State.setCon_sweBad (n : Nat) (v : Cons) : (s.setCon n v).sweBad = s.sweBad := rfl
@[simp] theorem State.setCon_uploads (n : Nat) (v : Cons) : (s.setCon n v).uploads = s.uploads := rfl
@[simp] theorem State.setCon_swe (n : Nat) (v : Cons) : (s.setCon n v).swe = s.swe := rfl
@[simp] theorem State.setCon_cal (n : Nat) (v : Cons) : (s.setCon n v).cal = s.cal := rfl
@[simp] theorem State.setCon_stm (n : Nat) (v : Cons) : (s.setCon n v).stm = s.stm := rfl
@[simp] theorem State.setCon_xlt (n : Nat) (v : Cons) : (s.setCon n v).xlt = s.xlt := rfl
@[simp] theorem State.setCon_pins (n : Nat) (v : Cons) : (s.setCon n v).pins = s.pins := rfl
@[simp] theorem State.setCon_adc (n : Nat) (v : Cons) : (s.setCon n v).adc = s.adc := rfl
@[simp] theorem State.setCon_cmp (n : Nat) (v : Cons) : (s.setCon n v).cmp = s.cmp := rfl
@[simp] theorem State.setCon_seq (n : Nat) (v : Cons) : (s.setCon n v).seq = s.seq := rfl
@[simp] theorem State.setCon_tb (n : Nat) (v : Cons) : (s.setCon n v).tb = s.tb := rfl
@[simp] theorem State.setCon_tst (n : Nat) (v : Cons) : (s.setCon n v).tst = s.tst := rfl
@[simp] theorem State.setCon_msh (n : Nat) (v : Cons) : (s.setCon n v).msh = s.msh := rfl

/-! Writing an event channel (setChan) changes evf and nothing else. -/

@[simp] theorem State.setChan_pending (c : Nat) (v : Chan) : (s.setChan c v).pending = s.pending := rfl
@[simp] theorem State.setChan_draws (c : Nat) (v : Chan) : (s.setChan c v).draws = s.draws := rfl
@[simp] theorem State.setChan_sent (c : Nat) (v : Chan) : (s.setChan c v).sent = s.sent := rfl
@[simp] theorem State.setChan_due (c : Nat) (v : Chan) : (s.setChan c v).due = s.due := rfl
@[simp] theorem State.setChan_par (c : Nat) (v : Chan) : (s.setChan c v).par = s.par := rfl
@[simp] theorem State.setChan_old (c : Nat) (v : Chan) : (s.setChan c v).old = s.old := rfl
@[simp] theorem State.setChan_wins (c : Nat) (v : Chan) : (s.setChan c v).wins = s.wins := rfl
@[simp] theorem State.setChan_cmd (c : Nat) (v : Chan) : (s.setChan c v).cmd = s.cmd := rfl
@[simp] theorem State.setChan_hl (c : Nat) (v : Chan) : (s.setChan c v).hl = s.hl := rfl
@[simp] theorem State.setChan_vane (c : Nat) (v : Chan) : (s.setChan c v).vane = s.vane := rfl
@[simp] theorem State.setChan_lc (c : Nat) (v : Chan) : (s.setChan c v).lc = s.lc := rfl
@[simp] theorem State.setChan_pwr (c : Nat) (v : Chan) : (s.setChan c v).pwr = s.pwr := rfl
@[simp] theorem State.setChan_fch (c : Nat) (v : Chan) : (s.setChan c v).fch = s.fch := rfl
@[simp] theorem State.setChan_hv (c : Nat) (v : Chan) : (s.setChan c v).hv = s.hv := rfl
@[simp] theorem State.setChan_grp (c : Nat) (v : Chan) : (s.setChan c v).grp = s.grp := rfl
@[simp] theorem State.setChan_msr (c : Nat) (v : Chan) : (s.setChan c v).msr = s.msr := rfl
@[simp] theorem State.setChan_regions (c : Nat) (v : Chan) : (s.setChan c v).regions = s.regions := rfl
@[simp] theorem State.setChan_sweMem (c : Nat) (v : Chan) : (s.setChan c v).sweMem = s.sweMem := rfl
@[simp] theorem State.setChan_sweBad (c : Nat) (v : Chan) : (s.setChan c v).sweBad = s.sweBad := rfl
@[simp] theorem State.setChan_uploads (c : Nat) (v : Chan) : (s.setChan c v).uploads = s.uploads := rfl
@[simp] theorem State.setChan_swe (c : Nat) (v : Chan) : (s.setChan c v).swe = s.swe := rfl
@[simp] theorem State.setChan_cal (c : Nat) (v : Chan) : (s.setChan c v).cal = s.cal := rfl
@[simp] theorem State.setChan_stm (c : Nat) (v : Chan) : (s.setChan c v).stm = s.stm := rfl
@[simp] theorem State.setChan_xlt (c : Nat) (v : Chan) : (s.setChan c v).xlt = s.xlt := rfl
@[simp] theorem State.setChan_pins (c : Nat) (v : Chan) : (s.setChan c v).pins = s.pins := rfl
@[simp] theorem State.setChan_adc (c : Nat) (v : Chan) : (s.setChan c v).adc = s.adc := rfl
@[simp] theorem State.setChan_cmp (c : Nat) (v : Chan) : (s.setChan c v).cmp = s.cmp := rfl
@[simp] theorem State.setChan_seq (c : Nat) (v : Chan) : (s.setChan c v).seq = s.seq := rfl
@[simp] theorem State.setChan_tb (c : Nat) (v : Chan) : (s.setChan c v).tb = s.tb := rfl
@[simp] theorem State.setChan_tst (c : Nat) (v : Chan) : (s.setChan c v).tst = s.tst := rfl
@[simp] theorem State.setChan_msh (c : Nat) (v : Chan) : (s.setChan c v).msh = s.msh := rfl

/-! Writing a submission queue (setSq) changes cmd and nothing else. -/

@[simp] theorem State.setSq_pending (n : Nat) (v : Sq) : (s.setSq n v).pending = s.pending := rfl
@[simp] theorem State.setSq_draws (n : Nat) (v : Sq) : (s.setSq n v).draws = s.draws := rfl
@[simp] theorem State.setSq_sent (n : Nat) (v : Sq) : (s.setSq n v).sent = s.sent := rfl
@[simp] theorem State.setSq_due (n : Nat) (v : Sq) : (s.setSq n v).due = s.due := rfl
@[simp] theorem State.setSq_par (n : Nat) (v : Sq) : (s.setSq n v).par = s.par := rfl
@[simp] theorem State.setSq_old (n : Nat) (v : Sq) : (s.setSq n v).old = s.old := rfl
@[simp] theorem State.setSq_wins (n : Nat) (v : Sq) : (s.setSq n v).wins = s.wins := rfl
@[simp] theorem State.setSq_hl (n : Nat) (v : Sq) : (s.setSq n v).hl = s.hl := rfl
@[simp] theorem State.setSq_evf (n : Nat) (v : Sq) : (s.setSq n v).evf = s.evf := rfl
@[simp] theorem State.setSq_vane (n : Nat) (v : Sq) : (s.setSq n v).vane = s.vane := rfl
@[simp] theorem State.setSq_lc (n : Nat) (v : Sq) : (s.setSq n v).lc = s.lc := rfl
@[simp] theorem State.setSq_pwr (n : Nat) (v : Sq) : (s.setSq n v).pwr = s.pwr := rfl
@[simp] theorem State.setSq_fch (n : Nat) (v : Sq) : (s.setSq n v).fch = s.fch := rfl
@[simp] theorem State.setSq_hv (n : Nat) (v : Sq) : (s.setSq n v).hv = s.hv := rfl
@[simp] theorem State.setSq_grp (n : Nat) (v : Sq) : (s.setSq n v).grp = s.grp := rfl
@[simp] theorem State.setSq_msr (n : Nat) (v : Sq) : (s.setSq n v).msr = s.msr := rfl
@[simp] theorem State.setSq_regions (n : Nat) (v : Sq) : (s.setSq n v).regions = s.regions := rfl
@[simp] theorem State.setSq_sweMem (n : Nat) (v : Sq) : (s.setSq n v).sweMem = s.sweMem := rfl
@[simp] theorem State.setSq_sweBad (n : Nat) (v : Sq) : (s.setSq n v).sweBad = s.sweBad := rfl
@[simp] theorem State.setSq_uploads (n : Nat) (v : Sq) : (s.setSq n v).uploads = s.uploads := rfl
@[simp] theorem State.setSq_swe (n : Nat) (v : Sq) : (s.setSq n v).swe = s.swe := rfl
@[simp] theorem State.setSq_cal (n : Nat) (v : Sq) : (s.setSq n v).cal = s.cal := rfl
@[simp] theorem State.setSq_stm (n : Nat) (v : Sq) : (s.setSq n v).stm = s.stm := rfl
@[simp] theorem State.setSq_xlt (n : Nat) (v : Sq) : (s.setSq n v).xlt = s.xlt := rfl
@[simp] theorem State.setSq_pins (n : Nat) (v : Sq) : (s.setSq n v).pins = s.pins := rfl
@[simp] theorem State.setSq_adc (n : Nat) (v : Sq) : (s.setSq n v).adc = s.adc := rfl
@[simp] theorem State.setSq_cmp (n : Nat) (v : Sq) : (s.setSq n v).cmp = s.cmp := rfl
@[simp] theorem State.setSq_seq (n : Nat) (v : Sq) : (s.setSq n v).seq = s.seq := rfl
@[simp] theorem State.setSq_tb (n : Nat) (v : Sq) : (s.setSq n v).tb = s.tb := rfl
@[simp] theorem State.setSq_tst (n : Nat) (v : Sq) : (s.setSq n v).tst = s.tst := rfl
@[simp] theorem State.setSq_msh (n : Nat) (v : Sq) : (s.setSq n v).msh = s.msh := rfl

/-! Writing a completion queue (setCq) changes cmd and nothing else. -/

@[simp] theorem State.setCq_pending (n : Nat) (v : Cq) : (s.setCq n v).pending = s.pending := rfl
@[simp] theorem State.setCq_draws (n : Nat) (v : Cq) : (s.setCq n v).draws = s.draws := rfl
@[simp] theorem State.setCq_sent (n : Nat) (v : Cq) : (s.setCq n v).sent = s.sent := rfl
@[simp] theorem State.setCq_due (n : Nat) (v : Cq) : (s.setCq n v).due = s.due := rfl
@[simp] theorem State.setCq_par (n : Nat) (v : Cq) : (s.setCq n v).par = s.par := rfl
@[simp] theorem State.setCq_old (n : Nat) (v : Cq) : (s.setCq n v).old = s.old := rfl
@[simp] theorem State.setCq_wins (n : Nat) (v : Cq) : (s.setCq n v).wins = s.wins := rfl
@[simp] theorem State.setCq_hl (n : Nat) (v : Cq) : (s.setCq n v).hl = s.hl := rfl
@[simp] theorem State.setCq_evf (n : Nat) (v : Cq) : (s.setCq n v).evf = s.evf := rfl
@[simp] theorem State.setCq_vane (n : Nat) (v : Cq) : (s.setCq n v).vane = s.vane := rfl
@[simp] theorem State.setCq_lc (n : Nat) (v : Cq) : (s.setCq n v).lc = s.lc := rfl
@[simp] theorem State.setCq_pwr (n : Nat) (v : Cq) : (s.setCq n v).pwr = s.pwr := rfl
@[simp] theorem State.setCq_fch (n : Nat) (v : Cq) : (s.setCq n v).fch = s.fch := rfl
@[simp] theorem State.setCq_hv (n : Nat) (v : Cq) : (s.setCq n v).hv = s.hv := rfl
@[simp] theorem State.setCq_grp (n : Nat) (v : Cq) : (s.setCq n v).grp = s.grp := rfl
@[simp] theorem State.setCq_msr (n : Nat) (v : Cq) : (s.setCq n v).msr = s.msr := rfl
@[simp] theorem State.setCq_regions (n : Nat) (v : Cq) : (s.setCq n v).regions = s.regions := rfl
@[simp] theorem State.setCq_sweMem (n : Nat) (v : Cq) : (s.setCq n v).sweMem = s.sweMem := rfl
@[simp] theorem State.setCq_sweBad (n : Nat) (v : Cq) : (s.setCq n v).sweBad = s.sweBad := rfl
@[simp] theorem State.setCq_uploads (n : Nat) (v : Cq) : (s.setCq n v).uploads = s.uploads := rfl
@[simp] theorem State.setCq_swe (n : Nat) (v : Cq) : (s.setCq n v).swe = s.swe := rfl
@[simp] theorem State.setCq_cal (n : Nat) (v : Cq) : (s.setCq n v).cal = s.cal := rfl
@[simp] theorem State.setCq_stm (n : Nat) (v : Cq) : (s.setCq n v).stm = s.stm := rfl
@[simp] theorem State.setCq_xlt (n : Nat) (v : Cq) : (s.setCq n v).xlt = s.xlt := rfl
@[simp] theorem State.setCq_pins (n : Nat) (v : Cq) : (s.setCq n v).pins = s.pins := rfl
@[simp] theorem State.setCq_adc (n : Nat) (v : Cq) : (s.setCq n v).adc = s.adc := rfl
@[simp] theorem State.setCq_cmp (n : Nat) (v : Cq) : (s.setCq n v).cmp = s.cmp := rfl
@[simp] theorem State.setCq_seq (n : Nat) (v : Cq) : (s.setCq n v).seq = s.seq := rfl
@[simp] theorem State.setCq_tb (n : Nat) (v : Cq) : (s.setCq n v).tb = s.tb := rfl
@[simp] theorem State.setCq_tst (n : Nat) (v : Cq) : (s.setCq n v).tst = s.tst := rfl
@[simp] theorem State.setCq_msh (n : Nat) (v : Cq) : (s.setCq n v).msh = s.msh := rfl

/-! Writing an MSI-X entry (setVec) changes hl and nothing else. -/

@[simp] theorem State.setVec_pending (v : Nat) (e : Vec) : (s.setVec v e).pending = s.pending := rfl
@[simp] theorem State.setVec_draws (v : Nat) (e : Vec) : (s.setVec v e).draws = s.draws := rfl
@[simp] theorem State.setVec_sent (v : Nat) (e : Vec) : (s.setVec v e).sent = s.sent := rfl
@[simp] theorem State.setVec_due (v : Nat) (e : Vec) : (s.setVec v e).due = s.due := rfl
@[simp] theorem State.setVec_par (v : Nat) (e : Vec) : (s.setVec v e).par = s.par := rfl
@[simp] theorem State.setVec_old (v : Nat) (e : Vec) : (s.setVec v e).old = s.old := rfl
@[simp] theorem State.setVec_wins (v : Nat) (e : Vec) : (s.setVec v e).wins = s.wins := rfl
@[simp] theorem State.setVec_cmd (v : Nat) (e : Vec) : (s.setVec v e).cmd = s.cmd := rfl
@[simp] theorem State.setVec_evf (v : Nat) (e : Vec) : (s.setVec v e).evf = s.evf := rfl
@[simp] theorem State.setVec_vane (v : Nat) (e : Vec) : (s.setVec v e).vane = s.vane := rfl
@[simp] theorem State.setVec_lc (v : Nat) (e : Vec) : (s.setVec v e).lc = s.lc := rfl
@[simp] theorem State.setVec_pwr (v : Nat) (e : Vec) : (s.setVec v e).pwr = s.pwr := rfl
@[simp] theorem State.setVec_fch (v : Nat) (e : Vec) : (s.setVec v e).fch = s.fch := rfl
@[simp] theorem State.setVec_hv (v : Nat) (e : Vec) : (s.setVec v e).hv = s.hv := rfl
@[simp] theorem State.setVec_grp (v : Nat) (e : Vec) : (s.setVec v e).grp = s.grp := rfl
@[simp] theorem State.setVec_msr (v : Nat) (e : Vec) : (s.setVec v e).msr = s.msr := rfl
@[simp] theorem State.setVec_regions (v : Nat) (e : Vec) : (s.setVec v e).regions = s.regions := rfl
@[simp] theorem State.setVec_sweMem (v : Nat) (e : Vec) : (s.setVec v e).sweMem = s.sweMem := rfl
@[simp] theorem State.setVec_sweBad (v : Nat) (e : Vec) : (s.setVec v e).sweBad = s.sweBad := rfl
@[simp] theorem State.setVec_uploads (v : Nat) (e : Vec) : (s.setVec v e).uploads = s.uploads := rfl
@[simp] theorem State.setVec_swe (v : Nat) (e : Vec) : (s.setVec v e).swe = s.swe := rfl
@[simp] theorem State.setVec_cal (v : Nat) (e : Vec) : (s.setVec v e).cal = s.cal := rfl
@[simp] theorem State.setVec_stm (v : Nat) (e : Vec) : (s.setVec v e).stm = s.stm := rfl
@[simp] theorem State.setVec_xlt (v : Nat) (e : Vec) : (s.setVec v e).xlt = s.xlt := rfl
@[simp] theorem State.setVec_pins (v : Nat) (e : Vec) : (s.setVec v e).pins = s.pins := rfl
@[simp] theorem State.setVec_adc (v : Nat) (e : Vec) : (s.setVec v e).adc = s.adc := rfl
@[simp] theorem State.setVec_cmp (v : Nat) (e : Vec) : (s.setVec v e).cmp = s.cmp := rfl
@[simp] theorem State.setVec_seq (v : Nat) (e : Vec) : (s.setVec v e).seq = s.seq := rfl
@[simp] theorem State.setVec_tb (v : Nat) (e : Vec) : (s.setVec v e).tb = s.tb := rfl
@[simp] theorem State.setVec_tst (v : Nat) (e : Vec) : (s.setVec v e).tst = s.tst := rfl
@[simp] theorem State.setVec_msh (v : Nat) (e : Vec) : (s.setVec v e).msh = s.msh := rfl

/-! Writing a mesh port (setPort) changes msh and nothing else. -/

@[simp] theorem State.setPort_pending (p : Nat) (v : PortRun) : (s.setPort p v).pending = s.pending := rfl
@[simp] theorem State.setPort_draws (p : Nat) (v : PortRun) : (s.setPort p v).draws = s.draws := rfl
@[simp] theorem State.setPort_sent (p : Nat) (v : PortRun) : (s.setPort p v).sent = s.sent := rfl
@[simp] theorem State.setPort_due (p : Nat) (v : PortRun) : (s.setPort p v).due = s.due := rfl
@[simp] theorem State.setPort_par (p : Nat) (v : PortRun) : (s.setPort p v).par = s.par := rfl
@[simp] theorem State.setPort_old (p : Nat) (v : PortRun) : (s.setPort p v).old = s.old := rfl
@[simp] theorem State.setPort_wins (p : Nat) (v : PortRun) : (s.setPort p v).wins = s.wins := rfl
@[simp] theorem State.setPort_cmd (p : Nat) (v : PortRun) : (s.setPort p v).cmd = s.cmd := rfl
@[simp] theorem State.setPort_hl (p : Nat) (v : PortRun) : (s.setPort p v).hl = s.hl := rfl
@[simp] theorem State.setPort_evf (p : Nat) (v : PortRun) : (s.setPort p v).evf = s.evf := rfl
@[simp] theorem State.setPort_vane (p : Nat) (v : PortRun) : (s.setPort p v).vane = s.vane := rfl
@[simp] theorem State.setPort_lc (p : Nat) (v : PortRun) : (s.setPort p v).lc = s.lc := rfl
@[simp] theorem State.setPort_pwr (p : Nat) (v : PortRun) : (s.setPort p v).pwr = s.pwr := rfl
@[simp] theorem State.setPort_fch (p : Nat) (v : PortRun) : (s.setPort p v).fch = s.fch := rfl
@[simp] theorem State.setPort_hv (p : Nat) (v : PortRun) : (s.setPort p v).hv = s.hv := rfl
@[simp] theorem State.setPort_grp (p : Nat) (v : PortRun) : (s.setPort p v).grp = s.grp := rfl
@[simp] theorem State.setPort_msr (p : Nat) (v : PortRun) : (s.setPort p v).msr = s.msr := rfl
@[simp] theorem State.setPort_regions (p : Nat) (v : PortRun) : (s.setPort p v).regions = s.regions := rfl
@[simp] theorem State.setPort_sweMem (p : Nat) (v : PortRun) : (s.setPort p v).sweMem = s.sweMem := rfl
@[simp] theorem State.setPort_sweBad (p : Nat) (v : PortRun) : (s.setPort p v).sweBad = s.sweBad := rfl
@[simp] theorem State.setPort_uploads (p : Nat) (v : PortRun) : (s.setPort p v).uploads = s.uploads := rfl
@[simp] theorem State.setPort_swe (p : Nat) (v : PortRun) : (s.setPort p v).swe = s.swe := rfl
@[simp] theorem State.setPort_cal (p : Nat) (v : PortRun) : (s.setPort p v).cal = s.cal := rfl
@[simp] theorem State.setPort_stm (p : Nat) (v : PortRun) : (s.setPort p v).stm = s.stm := rfl
@[simp] theorem State.setPort_xlt (p : Nat) (v : PortRun) : (s.setPort p v).xlt = s.xlt := rfl
@[simp] theorem State.setPort_pins (p : Nat) (v : PortRun) : (s.setPort p v).pins = s.pins := rfl
@[simp] theorem State.setPort_adc (p : Nat) (v : PortRun) : (s.setPort p v).adc = s.adc := rfl
@[simp] theorem State.setPort_cmp (p : Nat) (v : PortRun) : (s.setPort p v).cmp = s.cmp := rfl
@[simp] theorem State.setPort_seq (p : Nat) (v : PortRun) : (s.setPort p v).seq = s.seq := rfl
@[simp] theorem State.setPort_tb (p : Nat) (v : PortRun) : (s.setPort p v).tb = s.tb := rfl
@[simp] theorem State.setPort_tst (p : Nat) (v : PortRun) : (s.setPort p v).tst = s.tst := rfl

/-! Writing the timebase (setTb) changes tb and nothing else. -/

@[simp] theorem State.setTb_pending (t : Tb) : (s.setTb t).pending = s.pending := rfl
@[simp] theorem State.setTb_draws (t : Tb) : (s.setTb t).draws = s.draws := rfl
@[simp] theorem State.setTb_sent (t : Tb) : (s.setTb t).sent = s.sent := rfl
@[simp] theorem State.setTb_due (t : Tb) : (s.setTb t).due = s.due := rfl
@[simp] theorem State.setTb_par (t : Tb) : (s.setTb t).par = s.par := rfl
@[simp] theorem State.setTb_old (t : Tb) : (s.setTb t).old = s.old := rfl
@[simp] theorem State.setTb_wins (t : Tb) : (s.setTb t).wins = s.wins := rfl
@[simp] theorem State.setTb_cmd (t : Tb) : (s.setTb t).cmd = s.cmd := rfl
@[simp] theorem State.setTb_hl (t : Tb) : (s.setTb t).hl = s.hl := rfl
@[simp] theorem State.setTb_evf (t : Tb) : (s.setTb t).evf = s.evf := rfl
@[simp] theorem State.setTb_vane (t : Tb) : (s.setTb t).vane = s.vane := rfl
@[simp] theorem State.setTb_lc (t : Tb) : (s.setTb t).lc = s.lc := rfl
@[simp] theorem State.setTb_pwr (t : Tb) : (s.setTb t).pwr = s.pwr := rfl
@[simp] theorem State.setTb_fch (t : Tb) : (s.setTb t).fch = s.fch := rfl
@[simp] theorem State.setTb_hv (t : Tb) : (s.setTb t).hv = s.hv := rfl
@[simp] theorem State.setTb_grp (t : Tb) : (s.setTb t).grp = s.grp := rfl
@[simp] theorem State.setTb_msr (t : Tb) : (s.setTb t).msr = s.msr := rfl
@[simp] theorem State.setTb_regions (t : Tb) : (s.setTb t).regions = s.regions := rfl
@[simp] theorem State.setTb_sweMem (t : Tb) : (s.setTb t).sweMem = s.sweMem := rfl
@[simp] theorem State.setTb_sweBad (t : Tb) : (s.setTb t).sweBad = s.sweBad := rfl
@[simp] theorem State.setTb_uploads (t : Tb) : (s.setTb t).uploads = s.uploads := rfl
@[simp] theorem State.setTb_swe (t : Tb) : (s.setTb t).swe = s.swe := rfl
@[simp] theorem State.setTb_cal (t : Tb) : (s.setTb t).cal = s.cal := rfl
@[simp] theorem State.setTb_stm (t : Tb) : (s.setTb t).stm = s.stm := rfl
@[simp] theorem State.setTb_xlt (t : Tb) : (s.setTb t).xlt = s.xlt := rfl
@[simp] theorem State.setTb_pins (t : Tb) : (s.setTb t).pins = s.pins := rfl
@[simp] theorem State.setTb_adc (t : Tb) : (s.setTb t).adc = s.adc := rfl
@[simp] theorem State.setTb_cmp (t : Tb) : (s.setTb t).cmp = s.cmp := rfl
@[simp] theorem State.setTb_seq (t : Tb) : (s.setTb t).seq = s.seq := rfl
@[simp] theorem State.setTb_tst (t : Tb) : (s.setTb t).tst = s.tst := rfl
@[simp] theorem State.setTb_msh (t : Tb) : (s.setTb t).msh = s.msh := rfl

/-! Writing Vane (setVane) changes vane and nothing else. -/

@[simp] theorem State.setVane_pending (v : Vane) : (s.setVane v).pending = s.pending := rfl
@[simp] theorem State.setVane_draws (v : Vane) : (s.setVane v).draws = s.draws := rfl
@[simp] theorem State.setVane_sent (v : Vane) : (s.setVane v).sent = s.sent := rfl
@[simp] theorem State.setVane_due (v : Vane) : (s.setVane v).due = s.due := rfl
@[simp] theorem State.setVane_par (v : Vane) : (s.setVane v).par = s.par := rfl
@[simp] theorem State.setVane_old (v : Vane) : (s.setVane v).old = s.old := rfl
@[simp] theorem State.setVane_wins (v : Vane) : (s.setVane v).wins = s.wins := rfl
@[simp] theorem State.setVane_cmd (v : Vane) : (s.setVane v).cmd = s.cmd := rfl
@[simp] theorem State.setVane_hl (v : Vane) : (s.setVane v).hl = s.hl := rfl
@[simp] theorem State.setVane_evf (v : Vane) : (s.setVane v).evf = s.evf := rfl
@[simp] theorem State.setVane_lc (v : Vane) : (s.setVane v).lc = s.lc := rfl
@[simp] theorem State.setVane_pwr (v : Vane) : (s.setVane v).pwr = s.pwr := rfl
@[simp] theorem State.setVane_fch (v : Vane) : (s.setVane v).fch = s.fch := rfl
@[simp] theorem State.setVane_hv (v : Vane) : (s.setVane v).hv = s.hv := rfl
@[simp] theorem State.setVane_grp (v : Vane) : (s.setVane v).grp = s.grp := rfl
@[simp] theorem State.setVane_msr (v : Vane) : (s.setVane v).msr = s.msr := rfl
@[simp] theorem State.setVane_regions (v : Vane) : (s.setVane v).regions = s.regions := rfl
@[simp] theorem State.setVane_sweMem (v : Vane) : (s.setVane v).sweMem = s.sweMem := rfl
@[simp] theorem State.setVane_sweBad (v : Vane) : (s.setVane v).sweBad = s.sweBad := rfl
@[simp] theorem State.setVane_uploads (v : Vane) : (s.setVane v).uploads = s.uploads := rfl
@[simp] theorem State.setVane_swe (v : Vane) : (s.setVane v).swe = s.swe := rfl
@[simp] theorem State.setVane_cal (v : Vane) : (s.setVane v).cal = s.cal := rfl
@[simp] theorem State.setVane_stm (v : Vane) : (s.setVane v).stm = s.stm := rfl
@[simp] theorem State.setVane_xlt (v : Vane) : (s.setVane v).xlt = s.xlt := rfl
@[simp] theorem State.setVane_pins (v : Vane) : (s.setVane v).pins = s.pins := rfl
@[simp] theorem State.setVane_adc (v : Vane) : (s.setVane v).adc = s.adc := rfl
@[simp] theorem State.setVane_cmp (v : Vane) : (s.setVane v).cmp = s.cmp := rfl
@[simp] theorem State.setVane_seq (v : Vane) : (s.setVane v).seq = s.seq := rfl
@[simp] theorem State.setVane_tb (v : Vane) : (s.setVane v).tb = s.tb := rfl
@[simp] theorem State.setVane_tst (v : Vane) : (s.setVane v).tst = s.tst := rfl
@[simp] theorem State.setVane_msh (v : Vane) : (s.setVane v).msh = s.msh := rfl

/-! Writing the mesh (setMsh) changes msh and nothing else. -/

@[simp] theorem State.setMsh_pending (m : Msh) : (s.setMsh m).pending = s.pending := rfl
@[simp] theorem State.setMsh_draws (m : Msh) : (s.setMsh m).draws = s.draws := rfl
@[simp] theorem State.setMsh_sent (m : Msh) : (s.setMsh m).sent = s.sent := rfl
@[simp] theorem State.setMsh_due (m : Msh) : (s.setMsh m).due = s.due := rfl
@[simp] theorem State.setMsh_par (m : Msh) : (s.setMsh m).par = s.par := rfl
@[simp] theorem State.setMsh_old (m : Msh) : (s.setMsh m).old = s.old := rfl
@[simp] theorem State.setMsh_wins (m : Msh) : (s.setMsh m).wins = s.wins := rfl
@[simp] theorem State.setMsh_cmd (m : Msh) : (s.setMsh m).cmd = s.cmd := rfl
@[simp] theorem State.setMsh_hl (m : Msh) : (s.setMsh m).hl = s.hl := rfl
@[simp] theorem State.setMsh_evf (m : Msh) : (s.setMsh m).evf = s.evf := rfl
@[simp] theorem State.setMsh_vane (m : Msh) : (s.setMsh m).vane = s.vane := rfl
@[simp] theorem State.setMsh_lc (m : Msh) : (s.setMsh m).lc = s.lc := rfl
@[simp] theorem State.setMsh_pwr (m : Msh) : (s.setMsh m).pwr = s.pwr := rfl
@[simp] theorem State.setMsh_fch (m : Msh) : (s.setMsh m).fch = s.fch := rfl
@[simp] theorem State.setMsh_hv (m : Msh) : (s.setMsh m).hv = s.hv := rfl
@[simp] theorem State.setMsh_grp (m : Msh) : (s.setMsh m).grp = s.grp := rfl
@[simp] theorem State.setMsh_msr (m : Msh) : (s.setMsh m).msr = s.msr := rfl
@[simp] theorem State.setMsh_regions (m : Msh) : (s.setMsh m).regions = s.regions := rfl
@[simp] theorem State.setMsh_sweMem (m : Msh) : (s.setMsh m).sweMem = s.sweMem := rfl
@[simp] theorem State.setMsh_sweBad (m : Msh) : (s.setMsh m).sweBad = s.sweBad := rfl
@[simp] theorem State.setMsh_uploads (m : Msh) : (s.setMsh m).uploads = s.uploads := rfl
@[simp] theorem State.setMsh_swe (m : Msh) : (s.setMsh m).swe = s.swe := rfl
@[simp] theorem State.setMsh_cal (m : Msh) : (s.setMsh m).cal = s.cal := rfl
@[simp] theorem State.setMsh_stm (m : Msh) : (s.setMsh m).stm = s.stm := rfl
@[simp] theorem State.setMsh_xlt (m : Msh) : (s.setMsh m).xlt = s.xlt := rfl
@[simp] theorem State.setMsh_pins (m : Msh) : (s.setMsh m).pins = s.pins := rfl
@[simp] theorem State.setMsh_adc (m : Msh) : (s.setMsh m).adc = s.adc := rfl
@[simp] theorem State.setMsh_cmp (m : Msh) : (s.setMsh m).cmp = s.cmp := rfl
@[simp] theorem State.setMsh_seq (m : Msh) : (s.setMsh m).seq = s.seq := rfl
@[simp] theorem State.setMsh_tb (m : Msh) : (s.setMsh m).tb = s.tb := rfl
@[simp] theorem State.setMsh_tst (m : Msh) : (s.setMsh m).tst = s.tst := rfl

/-! A read after a write. -/

/-- A parameter after a write: the one written holds the value cut to its width, every other what it held. -/
theorem State.rd_wr (p q : Prm) (n i m j : Nat) (v : Int) :
    (s.wr p n i v).rd q m j = if q.id m j = p.id n i then p.wrap v else s.rd q m j :=
  Bank.get_set _ _ _ _ _

theorem State.rd_put (p q : Prm) (n m j : Nat) (v : Int) :
    (s.put p n v).rd q m j = if q.id m j = p.id n 0 then p.wrap v else s.rd q m j :=
  Bank.get_set _ _ _ _ _

@[simp] theorem State.win_setWin (b n c m : Nat) (w : Win) :
    (s.setWin b n w).win c m = if winKey c m = winKey b n then w else s.win c m := Bank.get_set _ _ _ _ _

@[simp] theorem State.ch_setCh (c k : Nat) (x : Fch) : (s.setCh c x).ch k = if k = c then x else s.ch k :=
  Bank.get_set _ _ _ _ _

@[simp] theorem State.group_setGroup (g k : Nat) (x : Grp) : (s.setGroup g x).group k = if k = g then x else s.group k :=
  Bank.get_set _ _ _ _ _

@[simp] theorem State.avg_setAvg (c k : Nat) (x : Msr) : (s.setAvg c x).avg k = if k = c then x else s.avg k :=
  Bank.get_set _ _ _ _ _

@[simp] theorem State.engine_setEngine (e k : Nat) (x : Swe) : (s.setEngine e x).engine k = if k = e then x else s.engine k :=
  Bank.get_set _ _ _ _ _

@[simp] theorem State.region_setRegion (h k : Nat) (x : Option Region) : (s.setRegion h x).region k = if k = h then x else s.region k :=
  Bank.get_set _ _ _ _ _

@[simp] theorem State.stream_setStream (n k : Nat) (x : Stm) : (s.setStream n x).stream k = if k = n then x else s.stream k :=
  Bank.get_set _ _ _ _ _

@[simp] theorem State.pin_setPin (n k : Nat) (x : PinRun) : (s.setPin n x).pin k = if k = n then x else s.pin k :=
  Bank.get_set _ _ _ _ _

@[simp] theorem State.conv_setConv (n k : Nat) (x : Adc) : (s.setConv n x).conv k = if k = n then x else s.conv k :=
  Bank.get_set _ _ _ _ _

@[simp] theorem State.sequencer_setSequencer (d k : Nat) (x : Seq) : (s.setSequencer d x).sequencer k = if k = d then x else s.sequencer k :=
  Bank.get_set _ _ _ _ _

@[simp] theorem State.con_setCon (n k : Nat) (x : Cons) : (s.setCon n x).con k = if k = n then x else s.con k :=
  Bank.get_set _ _ _ _ _

@[simp] theorem State.chan_setChan (c k : Nat) (x : Chan) : (s.setChan c x).chan k = if k = c then x else s.chan k :=
  Bank.get_set _ _ _ _ _

@[simp] theorem State.sq_setSq (n k : Nat) (x : Sq) : (s.setSq n x).sq k = if k = n then x else s.sq k :=
  Bank.get_set _ _ _ _ _

@[simp] theorem State.cq_setCq (n k : Nat) (x : Cq) : (s.setCq n x).cq k = if k = n then x else s.cq k :=
  Bank.get_set _ _ _ _ _

@[simp] theorem State.vec_setVec (n k : Nat) (x : Vec) : (s.setVec n x).vec k = if k = n then x else s.vec k :=
  Bank.get_set _ _ _ _ _

@[simp] theorem State.port_setPort (p k : Nat) (x : PortRun) : (s.setPort p x).port k = if k = p then x else s.port k :=
  Bank.get_set _ _ _ _ _

/-! A read after a write of another store: what the write leaves. -/

@[simp] theorem State.ch_wr (p : Prm) (n i : Nat) (v : Int) (z : Nat) : (s.wr p n i v).ch z = s.ch z := rfl
@[simp] theorem State.group_wr (p : Prm) (n i : Nat) (v : Int) (z : Nat) : (s.wr p n i v).group z = s.group z := rfl
@[simp] theorem State.avg_wr (p : Prm) (n i : Nat) (v : Int) (z : Nat) : (s.wr p n i v).avg z = s.avg z := rfl
@[simp] theorem State.engine_wr (p : Prm) (n i : Nat) (v : Int) (z : Nat) : (s.wr p n i v).engine z = s.engine z := rfl
@[simp] theorem State.region_wr (p : Prm) (n i : Nat) (v : Int) (z : Nat) : (s.wr p n i v).region z = s.region z := rfl
@[simp] theorem State.stream_wr (p : Prm) (n i : Nat) (v : Int) (z : Nat) : (s.wr p n i v).stream z = s.stream z := rfl
@[simp] theorem State.pin_wr (p : Prm) (n i : Nat) (v : Int) (z : Nat) : (s.wr p n i v).pin z = s.pin z := rfl
@[simp] theorem State.conv_wr (p : Prm) (n i : Nat) (v : Int) (z : Nat) : (s.wr p n i v).conv z = s.conv z := rfl
@[simp] theorem State.sequencer_wr (p : Prm) (n i : Nat) (v : Int) (z : Nat) : (s.wr p n i v).sequencer z = s.sequencer z := rfl
@[simp] theorem State.con_wr (p : Prm) (n i : Nat) (v : Int) (z : Nat) : (s.wr p n i v).con z = s.con z := rfl
@[simp] theorem State.chan_wr (p : Prm) (n i : Nat) (v : Int) (z : Nat) : (s.wr p n i v).chan z = s.chan z := rfl
@[simp] theorem State.sq_wr (p : Prm) (n i : Nat) (v : Int) (z : Nat) : (s.wr p n i v).sq z = s.sq z := rfl
@[simp] theorem State.cq_wr (p : Prm) (n i : Nat) (v : Int) (z : Nat) : (s.wr p n i v).cq z = s.cq z := rfl
@[simp] theorem State.vec_wr (p : Prm) (n i : Nat) (v : Int) (z : Nat) : (s.wr p n i v).vec z = s.vec z := rfl
@[simp] theorem State.port_wr (p : Prm) (n i : Nat) (v : Int) (z : Nat) : (s.wr p n i v).port z = s.port z := rfl

@[simp] theorem State.ch_put (p : Prm) (n : Nat) (v : Int) (z : Nat) : (s.put p n v).ch z = s.ch z := rfl
@[simp] theorem State.group_put (p : Prm) (n : Nat) (v : Int) (z : Nat) : (s.put p n v).group z = s.group z := rfl
@[simp] theorem State.avg_put (p : Prm) (n : Nat) (v : Int) (z : Nat) : (s.put p n v).avg z = s.avg z := rfl
@[simp] theorem State.engine_put (p : Prm) (n : Nat) (v : Int) (z : Nat) : (s.put p n v).engine z = s.engine z := rfl
@[simp] theorem State.region_put (p : Prm) (n : Nat) (v : Int) (z : Nat) : (s.put p n v).region z = s.region z := rfl
@[simp] theorem State.stream_put (p : Prm) (n : Nat) (v : Int) (z : Nat) : (s.put p n v).stream z = s.stream z := rfl
@[simp] theorem State.pin_put (p : Prm) (n : Nat) (v : Int) (z : Nat) : (s.put p n v).pin z = s.pin z := rfl
@[simp] theorem State.conv_put (p : Prm) (n : Nat) (v : Int) (z : Nat) : (s.put p n v).conv z = s.conv z := rfl
@[simp] theorem State.sequencer_put (p : Prm) (n : Nat) (v : Int) (z : Nat) : (s.put p n v).sequencer z = s.sequencer z := rfl
@[simp] theorem State.con_put (p : Prm) (n : Nat) (v : Int) (z : Nat) : (s.put p n v).con z = s.con z := rfl
@[simp] theorem State.chan_put (p : Prm) (n : Nat) (v : Int) (z : Nat) : (s.put p n v).chan z = s.chan z := rfl
@[simp] theorem State.sq_put (p : Prm) (n : Nat) (v : Int) (z : Nat) : (s.put p n v).sq z = s.sq z := rfl
@[simp] theorem State.cq_put (p : Prm) (n : Nat) (v : Int) (z : Nat) : (s.put p n v).cq z = s.cq z := rfl
@[simp] theorem State.vec_put (p : Prm) (n : Nat) (v : Int) (z : Nat) : (s.put p n v).vec z = s.vec z := rfl
@[simp] theorem State.port_put (p : Prm) (n : Nat) (v : Int) (z : Nat) : (s.put p n v).port z = s.port z := rfl

@[simp] theorem State.ch_wrNext (p : Prm) (n i : Nat) (v : Int) (z : Nat) : (s.wrNext p n i v).ch z = s.ch z := rfl
@[simp] theorem State.group_wrNext (p : Prm) (n i : Nat) (v : Int) (z : Nat) : (s.wrNext p n i v).group z = s.group z := rfl
@[simp] theorem State.avg_wrNext (p : Prm) (n i : Nat) (v : Int) (z : Nat) : (s.wrNext p n i v).avg z = s.avg z := rfl
@[simp] theorem State.engine_wrNext (p : Prm) (n i : Nat) (v : Int) (z : Nat) : (s.wrNext p n i v).engine z = s.engine z := rfl
@[simp] theorem State.region_wrNext (p : Prm) (n i : Nat) (v : Int) (z : Nat) : (s.wrNext p n i v).region z = s.region z := rfl
@[simp] theorem State.stream_wrNext (p : Prm) (n i : Nat) (v : Int) (z : Nat) : (s.wrNext p n i v).stream z = s.stream z := rfl
@[simp] theorem State.pin_wrNext (p : Prm) (n i : Nat) (v : Int) (z : Nat) : (s.wrNext p n i v).pin z = s.pin z := rfl
@[simp] theorem State.conv_wrNext (p : Prm) (n i : Nat) (v : Int) (z : Nat) : (s.wrNext p n i v).conv z = s.conv z := rfl
@[simp] theorem State.sequencer_wrNext (p : Prm) (n i : Nat) (v : Int) (z : Nat) : (s.wrNext p n i v).sequencer z = s.sequencer z := rfl
@[simp] theorem State.con_wrNext (p : Prm) (n i : Nat) (v : Int) (z : Nat) : (s.wrNext p n i v).con z = s.con z := rfl
@[simp] theorem State.chan_wrNext (p : Prm) (n i : Nat) (v : Int) (z : Nat) : (s.wrNext p n i v).chan z = s.chan z := rfl
@[simp] theorem State.sq_wrNext (p : Prm) (n i : Nat) (v : Int) (z : Nat) : (s.wrNext p n i v).sq z = s.sq z := rfl
@[simp] theorem State.cq_wrNext (p : Prm) (n i : Nat) (v : Int) (z : Nat) : (s.wrNext p n i v).cq z = s.cq z := rfl
@[simp] theorem State.vec_wrNext (p : Prm) (n i : Nat) (v : Int) (z : Nat) : (s.wrNext p n i v).vec z = s.vec z := rfl
@[simp] theorem State.port_wrNext (p : Prm) (n i : Nat) (v : Int) (z : Nat) : (s.wrNext p n i v).port z = s.port z := rfl

@[simp] theorem State.rd_emit (o : Out) (q : Prm) (y z : Nat) : (s.emit o).rd q y z = s.rd q y z := rfl
@[simp] theorem State.clock_emit (o : Out) : (s.emit o).clock = s.clock := rfl
@[simp] theorem State.ch_emit (o : Out) (z : Nat) : (s.emit o).ch z = s.ch z := rfl
@[simp] theorem State.group_emit (o : Out) (z : Nat) : (s.emit o).group z = s.group z := rfl
@[simp] theorem State.avg_emit (o : Out) (z : Nat) : (s.emit o).avg z = s.avg z := rfl
@[simp] theorem State.engine_emit (o : Out) (z : Nat) : (s.emit o).engine z = s.engine z := rfl
@[simp] theorem State.region_emit (o : Out) (z : Nat) : (s.emit o).region z = s.region z := rfl
@[simp] theorem State.stream_emit (o : Out) (z : Nat) : (s.emit o).stream z = s.stream z := rfl
@[simp] theorem State.pin_emit (o : Out) (z : Nat) : (s.emit o).pin z = s.pin z := rfl
@[simp] theorem State.conv_emit (o : Out) (z : Nat) : (s.emit o).conv z = s.conv z := rfl
@[simp] theorem State.sequencer_emit (o : Out) (z : Nat) : (s.emit o).sequencer z = s.sequencer z := rfl
@[simp] theorem State.con_emit (o : Out) (z : Nat) : (s.emit o).con z = s.con z := rfl
@[simp] theorem State.chan_emit (o : Out) (z : Nat) : (s.emit o).chan z = s.chan z := rfl
@[simp] theorem State.sq_emit (o : Out) (z : Nat) : (s.emit o).sq z = s.sq z := rfl
@[simp] theorem State.cq_emit (o : Out) (z : Nat) : (s.emit o).cq z = s.cq z := rfl
@[simp] theorem State.vec_emit (o : Out) (z : Nat) : (s.emit o).vec z = s.vec z := rfl
@[simp] theorem State.port_emit (o : Out) (z : Nat) : (s.emit o).port z = s.port z := rfl

@[simp] theorem State.rd_setWin (b n : Nat) (w : Win) (q : Prm) (y z : Nat) : (s.setWin b n w).rd q y z = s.rd q y z := rfl
@[simp] theorem State.clock_setWin (b n : Nat) (w : Win) : (s.setWin b n w).clock = s.clock := rfl
@[simp] theorem State.ch_setWin (b n : Nat) (w : Win) (z : Nat) : (s.setWin b n w).ch z = s.ch z := rfl
@[simp] theorem State.group_setWin (b n : Nat) (w : Win) (z : Nat) : (s.setWin b n w).group z = s.group z := rfl
@[simp] theorem State.avg_setWin (b n : Nat) (w : Win) (z : Nat) : (s.setWin b n w).avg z = s.avg z := rfl
@[simp] theorem State.engine_setWin (b n : Nat) (w : Win) (z : Nat) : (s.setWin b n w).engine z = s.engine z := rfl
@[simp] theorem State.region_setWin (b n : Nat) (w : Win) (z : Nat) : (s.setWin b n w).region z = s.region z := rfl
@[simp] theorem State.stream_setWin (b n : Nat) (w : Win) (z : Nat) : (s.setWin b n w).stream z = s.stream z := rfl
@[simp] theorem State.pin_setWin (b n : Nat) (w : Win) (z : Nat) : (s.setWin b n w).pin z = s.pin z := rfl
@[simp] theorem State.conv_setWin (b n : Nat) (w : Win) (z : Nat) : (s.setWin b n w).conv z = s.conv z := rfl
@[simp] theorem State.sequencer_setWin (b n : Nat) (w : Win) (z : Nat) : (s.setWin b n w).sequencer z = s.sequencer z := rfl
@[simp] theorem State.con_setWin (b n : Nat) (w : Win) (z : Nat) : (s.setWin b n w).con z = s.con z := rfl
@[simp] theorem State.chan_setWin (b n : Nat) (w : Win) (z : Nat) : (s.setWin b n w).chan z = s.chan z := rfl
@[simp] theorem State.sq_setWin (b n : Nat) (w : Win) (z : Nat) : (s.setWin b n w).sq z = s.sq z := rfl
@[simp] theorem State.cq_setWin (b n : Nat) (w : Win) (z : Nat) : (s.setWin b n w).cq z = s.cq z := rfl
@[simp] theorem State.vec_setWin (b n : Nat) (w : Win) (z : Nat) : (s.setWin b n w).vec z = s.vec z := rfl
@[simp] theorem State.port_setWin (b n : Nat) (w : Win) (z : Nat) : (s.setWin b n w).port z = s.port z := rfl

@[simp] theorem State.rd_setCh (c : Nat) (v : Fch) (q : Prm) (y z : Nat) : (s.setCh c v).rd q y z = s.rd q y z := rfl
@[simp] theorem State.clock_setCh (c : Nat) (v : Fch) : (s.setCh c v).clock = s.clock := rfl
@[simp] theorem State.group_setCh (c : Nat) (v : Fch) (z : Nat) : (s.setCh c v).group z = s.group z := rfl
@[simp] theorem State.avg_setCh (c : Nat) (v : Fch) (z : Nat) : (s.setCh c v).avg z = s.avg z := rfl
@[simp] theorem State.engine_setCh (c : Nat) (v : Fch) (z : Nat) : (s.setCh c v).engine z = s.engine z := rfl
@[simp] theorem State.region_setCh (c : Nat) (v : Fch) (z : Nat) : (s.setCh c v).region z = s.region z := rfl
@[simp] theorem State.stream_setCh (c : Nat) (v : Fch) (z : Nat) : (s.setCh c v).stream z = s.stream z := rfl
@[simp] theorem State.pin_setCh (c : Nat) (v : Fch) (z : Nat) : (s.setCh c v).pin z = s.pin z := rfl
@[simp] theorem State.conv_setCh (c : Nat) (v : Fch) (z : Nat) : (s.setCh c v).conv z = s.conv z := rfl
@[simp] theorem State.sequencer_setCh (c : Nat) (v : Fch) (z : Nat) : (s.setCh c v).sequencer z = s.sequencer z := rfl
@[simp] theorem State.con_setCh (c : Nat) (v : Fch) (z : Nat) : (s.setCh c v).con z = s.con z := rfl
@[simp] theorem State.chan_setCh (c : Nat) (v : Fch) (z : Nat) : (s.setCh c v).chan z = s.chan z := rfl
@[simp] theorem State.sq_setCh (c : Nat) (v : Fch) (z : Nat) : (s.setCh c v).sq z = s.sq z := rfl
@[simp] theorem State.cq_setCh (c : Nat) (v : Fch) (z : Nat) : (s.setCh c v).cq z = s.cq z := rfl
@[simp] theorem State.vec_setCh (c : Nat) (v : Fch) (z : Nat) : (s.setCh c v).vec z = s.vec z := rfl
@[simp] theorem State.port_setCh (c : Nat) (v : Fch) (z : Nat) : (s.setCh c v).port z = s.port z := rfl

@[simp] theorem State.rd_setGroup (g : Nat) (v : Grp) (q : Prm) (y z : Nat) : (s.setGroup g v).rd q y z = s.rd q y z := rfl
@[simp] theorem State.clock_setGroup (g : Nat) (v : Grp) : (s.setGroup g v).clock = s.clock := rfl
@[simp] theorem State.ch_setGroup (g : Nat) (v : Grp) (z : Nat) : (s.setGroup g v).ch z = s.ch z := rfl
@[simp] theorem State.avg_setGroup (g : Nat) (v : Grp) (z : Nat) : (s.setGroup g v).avg z = s.avg z := rfl
@[simp] theorem State.engine_setGroup (g : Nat) (v : Grp) (z : Nat) : (s.setGroup g v).engine z = s.engine z := rfl
@[simp] theorem State.region_setGroup (g : Nat) (v : Grp) (z : Nat) : (s.setGroup g v).region z = s.region z := rfl
@[simp] theorem State.stream_setGroup (g : Nat) (v : Grp) (z : Nat) : (s.setGroup g v).stream z = s.stream z := rfl
@[simp] theorem State.pin_setGroup (g : Nat) (v : Grp) (z : Nat) : (s.setGroup g v).pin z = s.pin z := rfl
@[simp] theorem State.conv_setGroup (g : Nat) (v : Grp) (z : Nat) : (s.setGroup g v).conv z = s.conv z := rfl
@[simp] theorem State.sequencer_setGroup (g : Nat) (v : Grp) (z : Nat) : (s.setGroup g v).sequencer z = s.sequencer z := rfl
@[simp] theorem State.con_setGroup (g : Nat) (v : Grp) (z : Nat) : (s.setGroup g v).con z = s.con z := rfl
@[simp] theorem State.chan_setGroup (g : Nat) (v : Grp) (z : Nat) : (s.setGroup g v).chan z = s.chan z := rfl
@[simp] theorem State.sq_setGroup (g : Nat) (v : Grp) (z : Nat) : (s.setGroup g v).sq z = s.sq z := rfl
@[simp] theorem State.cq_setGroup (g : Nat) (v : Grp) (z : Nat) : (s.setGroup g v).cq z = s.cq z := rfl
@[simp] theorem State.vec_setGroup (g : Nat) (v : Grp) (z : Nat) : (s.setGroup g v).vec z = s.vec z := rfl
@[simp] theorem State.port_setGroup (g : Nat) (v : Grp) (z : Nat) : (s.setGroup g v).port z = s.port z := rfl

@[simp] theorem State.rd_setAvg (c : Nat) (v : Msr) (q : Prm) (y z : Nat) : (s.setAvg c v).rd q y z = s.rd q y z := rfl
@[simp] theorem State.clock_setAvg (c : Nat) (v : Msr) : (s.setAvg c v).clock = s.clock := rfl
@[simp] theorem State.ch_setAvg (c : Nat) (v : Msr) (z : Nat) : (s.setAvg c v).ch z = s.ch z := rfl
@[simp] theorem State.group_setAvg (c : Nat) (v : Msr) (z : Nat) : (s.setAvg c v).group z = s.group z := rfl
@[simp] theorem State.engine_setAvg (c : Nat) (v : Msr) (z : Nat) : (s.setAvg c v).engine z = s.engine z := rfl
@[simp] theorem State.region_setAvg (c : Nat) (v : Msr) (z : Nat) : (s.setAvg c v).region z = s.region z := rfl
@[simp] theorem State.stream_setAvg (c : Nat) (v : Msr) (z : Nat) : (s.setAvg c v).stream z = s.stream z := rfl
@[simp] theorem State.pin_setAvg (c : Nat) (v : Msr) (z : Nat) : (s.setAvg c v).pin z = s.pin z := rfl
@[simp] theorem State.conv_setAvg (c : Nat) (v : Msr) (z : Nat) : (s.setAvg c v).conv z = s.conv z := rfl
@[simp] theorem State.sequencer_setAvg (c : Nat) (v : Msr) (z : Nat) : (s.setAvg c v).sequencer z = s.sequencer z := rfl
@[simp] theorem State.con_setAvg (c : Nat) (v : Msr) (z : Nat) : (s.setAvg c v).con z = s.con z := rfl
@[simp] theorem State.chan_setAvg (c : Nat) (v : Msr) (z : Nat) : (s.setAvg c v).chan z = s.chan z := rfl
@[simp] theorem State.sq_setAvg (c : Nat) (v : Msr) (z : Nat) : (s.setAvg c v).sq z = s.sq z := rfl
@[simp] theorem State.cq_setAvg (c : Nat) (v : Msr) (z : Nat) : (s.setAvg c v).cq z = s.cq z := rfl
@[simp] theorem State.vec_setAvg (c : Nat) (v : Msr) (z : Nat) : (s.setAvg c v).vec z = s.vec z := rfl
@[simp] theorem State.port_setAvg (c : Nat) (v : Msr) (z : Nat) : (s.setAvg c v).port z = s.port z := rfl

@[simp] theorem State.rd_setEngine (e : Nat) (v : Swe) (q : Prm) (y z : Nat) : (s.setEngine e v).rd q y z = s.rd q y z := rfl
@[simp] theorem State.clock_setEngine (e : Nat) (v : Swe) : (s.setEngine e v).clock = s.clock := rfl
@[simp] theorem State.ch_setEngine (e : Nat) (v : Swe) (z : Nat) : (s.setEngine e v).ch z = s.ch z := rfl
@[simp] theorem State.group_setEngine (e : Nat) (v : Swe) (z : Nat) : (s.setEngine e v).group z = s.group z := rfl
@[simp] theorem State.avg_setEngine (e : Nat) (v : Swe) (z : Nat) : (s.setEngine e v).avg z = s.avg z := rfl
@[simp] theorem State.region_setEngine (e : Nat) (v : Swe) (z : Nat) : (s.setEngine e v).region z = s.region z := rfl
@[simp] theorem State.stream_setEngine (e : Nat) (v : Swe) (z : Nat) : (s.setEngine e v).stream z = s.stream z := rfl
@[simp] theorem State.pin_setEngine (e : Nat) (v : Swe) (z : Nat) : (s.setEngine e v).pin z = s.pin z := rfl
@[simp] theorem State.conv_setEngine (e : Nat) (v : Swe) (z : Nat) : (s.setEngine e v).conv z = s.conv z := rfl
@[simp] theorem State.sequencer_setEngine (e : Nat) (v : Swe) (z : Nat) : (s.setEngine e v).sequencer z = s.sequencer z := rfl
@[simp] theorem State.con_setEngine (e : Nat) (v : Swe) (z : Nat) : (s.setEngine e v).con z = s.con z := rfl
@[simp] theorem State.chan_setEngine (e : Nat) (v : Swe) (z : Nat) : (s.setEngine e v).chan z = s.chan z := rfl
@[simp] theorem State.sq_setEngine (e : Nat) (v : Swe) (z : Nat) : (s.setEngine e v).sq z = s.sq z := rfl
@[simp] theorem State.cq_setEngine (e : Nat) (v : Swe) (z : Nat) : (s.setEngine e v).cq z = s.cq z := rfl
@[simp] theorem State.vec_setEngine (e : Nat) (v : Swe) (z : Nat) : (s.setEngine e v).vec z = s.vec z := rfl
@[simp] theorem State.port_setEngine (e : Nat) (v : Swe) (z : Nat) : (s.setEngine e v).port z = s.port z := rfl

@[simp] theorem State.rd_setRegion (h : Nat) (v : Option Region) (q : Prm) (y z : Nat) : (s.setRegion h v).rd q y z = s.rd q y z := rfl
@[simp] theorem State.clock_setRegion (h : Nat) (v : Option Region) : (s.setRegion h v).clock = s.clock := rfl
@[simp] theorem State.ch_setRegion (h : Nat) (v : Option Region) (z : Nat) : (s.setRegion h v).ch z = s.ch z := rfl
@[simp] theorem State.group_setRegion (h : Nat) (v : Option Region) (z : Nat) : (s.setRegion h v).group z = s.group z := rfl
@[simp] theorem State.avg_setRegion (h : Nat) (v : Option Region) (z : Nat) : (s.setRegion h v).avg z = s.avg z := rfl
@[simp] theorem State.engine_setRegion (h : Nat) (v : Option Region) (z : Nat) : (s.setRegion h v).engine z = s.engine z := rfl
@[simp] theorem State.stream_setRegion (h : Nat) (v : Option Region) (z : Nat) : (s.setRegion h v).stream z = s.stream z := rfl
@[simp] theorem State.pin_setRegion (h : Nat) (v : Option Region) (z : Nat) : (s.setRegion h v).pin z = s.pin z := rfl
@[simp] theorem State.conv_setRegion (h : Nat) (v : Option Region) (z : Nat) : (s.setRegion h v).conv z = s.conv z := rfl
@[simp] theorem State.sequencer_setRegion (h : Nat) (v : Option Region) (z : Nat) : (s.setRegion h v).sequencer z = s.sequencer z := rfl
@[simp] theorem State.con_setRegion (h : Nat) (v : Option Region) (z : Nat) : (s.setRegion h v).con z = s.con z := rfl
@[simp] theorem State.chan_setRegion (h : Nat) (v : Option Region) (z : Nat) : (s.setRegion h v).chan z = s.chan z := rfl
@[simp] theorem State.sq_setRegion (h : Nat) (v : Option Region) (z : Nat) : (s.setRegion h v).sq z = s.sq z := rfl
@[simp] theorem State.cq_setRegion (h : Nat) (v : Option Region) (z : Nat) : (s.setRegion h v).cq z = s.cq z := rfl
@[simp] theorem State.vec_setRegion (h : Nat) (v : Option Region) (z : Nat) : (s.setRegion h v).vec z = s.vec z := rfl
@[simp] theorem State.port_setRegion (h : Nat) (v : Option Region) (z : Nat) : (s.setRegion h v).port z = s.port z := rfl

@[simp] theorem State.rd_setStream (n : Nat) (v : Stm) (q : Prm) (y z : Nat) : (s.setStream n v).rd q y z = s.rd q y z := rfl
@[simp] theorem State.clock_setStream (n : Nat) (v : Stm) : (s.setStream n v).clock = s.clock := rfl
@[simp] theorem State.ch_setStream (n : Nat) (v : Stm) (z : Nat) : (s.setStream n v).ch z = s.ch z := rfl
@[simp] theorem State.group_setStream (n : Nat) (v : Stm) (z : Nat) : (s.setStream n v).group z = s.group z := rfl
@[simp] theorem State.avg_setStream (n : Nat) (v : Stm) (z : Nat) : (s.setStream n v).avg z = s.avg z := rfl
@[simp] theorem State.engine_setStream (n : Nat) (v : Stm) (z : Nat) : (s.setStream n v).engine z = s.engine z := rfl
@[simp] theorem State.region_setStream (n : Nat) (v : Stm) (z : Nat) : (s.setStream n v).region z = s.region z := rfl
@[simp] theorem State.pin_setStream (n : Nat) (v : Stm) (z : Nat) : (s.setStream n v).pin z = s.pin z := rfl
@[simp] theorem State.conv_setStream (n : Nat) (v : Stm) (z : Nat) : (s.setStream n v).conv z = s.conv z := rfl
@[simp] theorem State.sequencer_setStream (n : Nat) (v : Stm) (z : Nat) : (s.setStream n v).sequencer z = s.sequencer z := rfl
@[simp] theorem State.con_setStream (n : Nat) (v : Stm) (z : Nat) : (s.setStream n v).con z = s.con z := rfl
@[simp] theorem State.chan_setStream (n : Nat) (v : Stm) (z : Nat) : (s.setStream n v).chan z = s.chan z := rfl
@[simp] theorem State.sq_setStream (n : Nat) (v : Stm) (z : Nat) : (s.setStream n v).sq z = s.sq z := rfl
@[simp] theorem State.cq_setStream (n : Nat) (v : Stm) (z : Nat) : (s.setStream n v).cq z = s.cq z := rfl
@[simp] theorem State.vec_setStream (n : Nat) (v : Stm) (z : Nat) : (s.setStream n v).vec z = s.vec z := rfl
@[simp] theorem State.port_setStream (n : Nat) (v : Stm) (z : Nat) : (s.setStream n v).port z = s.port z := rfl

@[simp] theorem State.rd_setPin (n : Nat) (v : PinRun) (q : Prm) (y z : Nat) : (s.setPin n v).rd q y z = s.rd q y z := rfl
@[simp] theorem State.clock_setPin (n : Nat) (v : PinRun) : (s.setPin n v).clock = s.clock := rfl
@[simp] theorem State.ch_setPin (n : Nat) (v : PinRun) (z : Nat) : (s.setPin n v).ch z = s.ch z := rfl
@[simp] theorem State.group_setPin (n : Nat) (v : PinRun) (z : Nat) : (s.setPin n v).group z = s.group z := rfl
@[simp] theorem State.avg_setPin (n : Nat) (v : PinRun) (z : Nat) : (s.setPin n v).avg z = s.avg z := rfl
@[simp] theorem State.engine_setPin (n : Nat) (v : PinRun) (z : Nat) : (s.setPin n v).engine z = s.engine z := rfl
@[simp] theorem State.region_setPin (n : Nat) (v : PinRun) (z : Nat) : (s.setPin n v).region z = s.region z := rfl
@[simp] theorem State.stream_setPin (n : Nat) (v : PinRun) (z : Nat) : (s.setPin n v).stream z = s.stream z := rfl
@[simp] theorem State.conv_setPin (n : Nat) (v : PinRun) (z : Nat) : (s.setPin n v).conv z = s.conv z := rfl
@[simp] theorem State.sequencer_setPin (n : Nat) (v : PinRun) (z : Nat) : (s.setPin n v).sequencer z = s.sequencer z := rfl
@[simp] theorem State.con_setPin (n : Nat) (v : PinRun) (z : Nat) : (s.setPin n v).con z = s.con z := rfl
@[simp] theorem State.chan_setPin (n : Nat) (v : PinRun) (z : Nat) : (s.setPin n v).chan z = s.chan z := rfl
@[simp] theorem State.sq_setPin (n : Nat) (v : PinRun) (z : Nat) : (s.setPin n v).sq z = s.sq z := rfl
@[simp] theorem State.cq_setPin (n : Nat) (v : PinRun) (z : Nat) : (s.setPin n v).cq z = s.cq z := rfl
@[simp] theorem State.vec_setPin (n : Nat) (v : PinRun) (z : Nat) : (s.setPin n v).vec z = s.vec z := rfl
@[simp] theorem State.port_setPin (n : Nat) (v : PinRun) (z : Nat) : (s.setPin n v).port z = s.port z := rfl

@[simp] theorem State.rd_setConv (n : Nat) (v : Adc) (q : Prm) (y z : Nat) : (s.setConv n v).rd q y z = s.rd q y z := rfl
@[simp] theorem State.clock_setConv (n : Nat) (v : Adc) : (s.setConv n v).clock = s.clock := rfl
@[simp] theorem State.ch_setConv (n : Nat) (v : Adc) (z : Nat) : (s.setConv n v).ch z = s.ch z := rfl
@[simp] theorem State.group_setConv (n : Nat) (v : Adc) (z : Nat) : (s.setConv n v).group z = s.group z := rfl
@[simp] theorem State.avg_setConv (n : Nat) (v : Adc) (z : Nat) : (s.setConv n v).avg z = s.avg z := rfl
@[simp] theorem State.engine_setConv (n : Nat) (v : Adc) (z : Nat) : (s.setConv n v).engine z = s.engine z := rfl
@[simp] theorem State.region_setConv (n : Nat) (v : Adc) (z : Nat) : (s.setConv n v).region z = s.region z := rfl
@[simp] theorem State.stream_setConv (n : Nat) (v : Adc) (z : Nat) : (s.setConv n v).stream z = s.stream z := rfl
@[simp] theorem State.pin_setConv (n : Nat) (v : Adc) (z : Nat) : (s.setConv n v).pin z = s.pin z := rfl
@[simp] theorem State.sequencer_setConv (n : Nat) (v : Adc) (z : Nat) : (s.setConv n v).sequencer z = s.sequencer z := rfl
@[simp] theorem State.con_setConv (n : Nat) (v : Adc) (z : Nat) : (s.setConv n v).con z = s.con z := rfl
@[simp] theorem State.chan_setConv (n : Nat) (v : Adc) (z : Nat) : (s.setConv n v).chan z = s.chan z := rfl
@[simp] theorem State.sq_setConv (n : Nat) (v : Adc) (z : Nat) : (s.setConv n v).sq z = s.sq z := rfl
@[simp] theorem State.cq_setConv (n : Nat) (v : Adc) (z : Nat) : (s.setConv n v).cq z = s.cq z := rfl
@[simp] theorem State.vec_setConv (n : Nat) (v : Adc) (z : Nat) : (s.setConv n v).vec z = s.vec z := rfl
@[simp] theorem State.port_setConv (n : Nat) (v : Adc) (z : Nat) : (s.setConv n v).port z = s.port z := rfl

@[simp] theorem State.rd_setComp (c : Cmp) (v : CmpRun) (q : Prm) (y z : Nat) : (s.setComp c v).rd q y z = s.rd q y z := rfl
@[simp] theorem State.clock_setComp (c : Cmp) (v : CmpRun) : (s.setComp c v).clock = s.clock := rfl
@[simp] theorem State.ch_setComp (c : Cmp) (v : CmpRun) (z : Nat) : (s.setComp c v).ch z = s.ch z := rfl
@[simp] theorem State.group_setComp (c : Cmp) (v : CmpRun) (z : Nat) : (s.setComp c v).group z = s.group z := rfl
@[simp] theorem State.avg_setComp (c : Cmp) (v : CmpRun) (z : Nat) : (s.setComp c v).avg z = s.avg z := rfl
@[simp] theorem State.engine_setComp (c : Cmp) (v : CmpRun) (z : Nat) : (s.setComp c v).engine z = s.engine z := rfl
@[simp] theorem State.region_setComp (c : Cmp) (v : CmpRun) (z : Nat) : (s.setComp c v).region z = s.region z := rfl
@[simp] theorem State.stream_setComp (c : Cmp) (v : CmpRun) (z : Nat) : (s.setComp c v).stream z = s.stream z := rfl
@[simp] theorem State.pin_setComp (c : Cmp) (v : CmpRun) (z : Nat) : (s.setComp c v).pin z = s.pin z := rfl
@[simp] theorem State.conv_setComp (c : Cmp) (v : CmpRun) (z : Nat) : (s.setComp c v).conv z = s.conv z := rfl
@[simp] theorem State.sequencer_setComp (c : Cmp) (v : CmpRun) (z : Nat) : (s.setComp c v).sequencer z = s.sequencer z := rfl
@[simp] theorem State.con_setComp (c : Cmp) (v : CmpRun) (z : Nat) : (s.setComp c v).con z = s.con z := rfl
@[simp] theorem State.chan_setComp (c : Cmp) (v : CmpRun) (z : Nat) : (s.setComp c v).chan z = s.chan z := rfl
@[simp] theorem State.sq_setComp (c : Cmp) (v : CmpRun) (z : Nat) : (s.setComp c v).sq z = s.sq z := rfl
@[simp] theorem State.cq_setComp (c : Cmp) (v : CmpRun) (z : Nat) : (s.setComp c v).cq z = s.cq z := rfl
@[simp] theorem State.vec_setComp (c : Cmp) (v : CmpRun) (z : Nat) : (s.setComp c v).vec z = s.vec z := rfl
@[simp] theorem State.port_setComp (c : Cmp) (v : CmpRun) (z : Nat) : (s.setComp c v).port z = s.port z := rfl

@[simp] theorem State.rd_setSequencer (d : Nat) (v : Seq) (q : Prm) (y z : Nat) : (s.setSequencer d v).rd q y z = s.rd q y z := rfl
@[simp] theorem State.clock_setSequencer (d : Nat) (v : Seq) : (s.setSequencer d v).clock = s.clock := rfl
@[simp] theorem State.ch_setSequencer (d : Nat) (v : Seq) (z : Nat) : (s.setSequencer d v).ch z = s.ch z := rfl
@[simp] theorem State.group_setSequencer (d : Nat) (v : Seq) (z : Nat) : (s.setSequencer d v).group z = s.group z := rfl
@[simp] theorem State.avg_setSequencer (d : Nat) (v : Seq) (z : Nat) : (s.setSequencer d v).avg z = s.avg z := rfl
@[simp] theorem State.engine_setSequencer (d : Nat) (v : Seq) (z : Nat) : (s.setSequencer d v).engine z = s.engine z := rfl
@[simp] theorem State.region_setSequencer (d : Nat) (v : Seq) (z : Nat) : (s.setSequencer d v).region z = s.region z := rfl
@[simp] theorem State.stream_setSequencer (d : Nat) (v : Seq) (z : Nat) : (s.setSequencer d v).stream z = s.stream z := rfl
@[simp] theorem State.pin_setSequencer (d : Nat) (v : Seq) (z : Nat) : (s.setSequencer d v).pin z = s.pin z := rfl
@[simp] theorem State.conv_setSequencer (d : Nat) (v : Seq) (z : Nat) : (s.setSequencer d v).conv z = s.conv z := rfl
@[simp] theorem State.con_setSequencer (d : Nat) (v : Seq) (z : Nat) : (s.setSequencer d v).con z = s.con z := rfl
@[simp] theorem State.chan_setSequencer (d : Nat) (v : Seq) (z : Nat) : (s.setSequencer d v).chan z = s.chan z := rfl
@[simp] theorem State.sq_setSequencer (d : Nat) (v : Seq) (z : Nat) : (s.setSequencer d v).sq z = s.sq z := rfl
@[simp] theorem State.cq_setSequencer (d : Nat) (v : Seq) (z : Nat) : (s.setSequencer d v).cq z = s.cq z := rfl
@[simp] theorem State.vec_setSequencer (d : Nat) (v : Seq) (z : Nat) : (s.setSequencer d v).vec z = s.vec z := rfl
@[simp] theorem State.port_setSequencer (d : Nat) (v : Seq) (z : Nat) : (s.setSequencer d v).port z = s.port z := rfl

@[simp] theorem State.rd_setCon (n : Nat) (v : Cons) (q : Prm) (y z : Nat) : (s.setCon n v).rd q y z = s.rd q y z := rfl
@[simp] theorem State.clock_setCon (n : Nat) (v : Cons) : (s.setCon n v).clock = s.clock := rfl
@[simp] theorem State.ch_setCon (n : Nat) (v : Cons) (z : Nat) : (s.setCon n v).ch z = s.ch z := rfl
@[simp] theorem State.group_setCon (n : Nat) (v : Cons) (z : Nat) : (s.setCon n v).group z = s.group z := rfl
@[simp] theorem State.avg_setCon (n : Nat) (v : Cons) (z : Nat) : (s.setCon n v).avg z = s.avg z := rfl
@[simp] theorem State.engine_setCon (n : Nat) (v : Cons) (z : Nat) : (s.setCon n v).engine z = s.engine z := rfl
@[simp] theorem State.region_setCon (n : Nat) (v : Cons) (z : Nat) : (s.setCon n v).region z = s.region z := rfl
@[simp] theorem State.stream_setCon (n : Nat) (v : Cons) (z : Nat) : (s.setCon n v).stream z = s.stream z := rfl
@[simp] theorem State.pin_setCon (n : Nat) (v : Cons) (z : Nat) : (s.setCon n v).pin z = s.pin z := rfl
@[simp] theorem State.conv_setCon (n : Nat) (v : Cons) (z : Nat) : (s.setCon n v).conv z = s.conv z := rfl
@[simp] theorem State.sequencer_setCon (n : Nat) (v : Cons) (z : Nat) : (s.setCon n v).sequencer z = s.sequencer z := rfl
@[simp] theorem State.chan_setCon (n : Nat) (v : Cons) (z : Nat) : (s.setCon n v).chan z = s.chan z := rfl
@[simp] theorem State.sq_setCon (n : Nat) (v : Cons) (z : Nat) : (s.setCon n v).sq z = s.sq z := rfl
@[simp] theorem State.cq_setCon (n : Nat) (v : Cons) (z : Nat) : (s.setCon n v).cq z = s.cq z := rfl
@[simp] theorem State.vec_setCon (n : Nat) (v : Cons) (z : Nat) : (s.setCon n v).vec z = s.vec z := rfl
@[simp] theorem State.port_setCon (n : Nat) (v : Cons) (z : Nat) : (s.setCon n v).port z = s.port z := rfl

@[simp] theorem State.rd_setChan (c : Nat) (v : Chan) (q : Prm) (y z : Nat) : (s.setChan c v).rd q y z = s.rd q y z := rfl
@[simp] theorem State.clock_setChan (c : Nat) (v : Chan) : (s.setChan c v).clock = s.clock := rfl
@[simp] theorem State.ch_setChan (c : Nat) (v : Chan) (z : Nat) : (s.setChan c v).ch z = s.ch z := rfl
@[simp] theorem State.group_setChan (c : Nat) (v : Chan) (z : Nat) : (s.setChan c v).group z = s.group z := rfl
@[simp] theorem State.avg_setChan (c : Nat) (v : Chan) (z : Nat) : (s.setChan c v).avg z = s.avg z := rfl
@[simp] theorem State.engine_setChan (c : Nat) (v : Chan) (z : Nat) : (s.setChan c v).engine z = s.engine z := rfl
@[simp] theorem State.region_setChan (c : Nat) (v : Chan) (z : Nat) : (s.setChan c v).region z = s.region z := rfl
@[simp] theorem State.stream_setChan (c : Nat) (v : Chan) (z : Nat) : (s.setChan c v).stream z = s.stream z := rfl
@[simp] theorem State.pin_setChan (c : Nat) (v : Chan) (z : Nat) : (s.setChan c v).pin z = s.pin z := rfl
@[simp] theorem State.conv_setChan (c : Nat) (v : Chan) (z : Nat) : (s.setChan c v).conv z = s.conv z := rfl
@[simp] theorem State.sequencer_setChan (c : Nat) (v : Chan) (z : Nat) : (s.setChan c v).sequencer z = s.sequencer z := rfl
@[simp] theorem State.con_setChan (c : Nat) (v : Chan) (z : Nat) : (s.setChan c v).con z = s.con z := rfl
@[simp] theorem State.sq_setChan (c : Nat) (v : Chan) (z : Nat) : (s.setChan c v).sq z = s.sq z := rfl
@[simp] theorem State.cq_setChan (c : Nat) (v : Chan) (z : Nat) : (s.setChan c v).cq z = s.cq z := rfl
@[simp] theorem State.vec_setChan (c : Nat) (v : Chan) (z : Nat) : (s.setChan c v).vec z = s.vec z := rfl
@[simp] theorem State.port_setChan (c : Nat) (v : Chan) (z : Nat) : (s.setChan c v).port z = s.port z := rfl

@[simp] theorem State.rd_setSq (n : Nat) (v : Sq) (q : Prm) (y z : Nat) : (s.setSq n v).rd q y z = s.rd q y z := rfl
@[simp] theorem State.clock_setSq (n : Nat) (v : Sq) : (s.setSq n v).clock = s.clock := rfl
@[simp] theorem State.ch_setSq (n : Nat) (v : Sq) (z : Nat) : (s.setSq n v).ch z = s.ch z := rfl
@[simp] theorem State.group_setSq (n : Nat) (v : Sq) (z : Nat) : (s.setSq n v).group z = s.group z := rfl
@[simp] theorem State.avg_setSq (n : Nat) (v : Sq) (z : Nat) : (s.setSq n v).avg z = s.avg z := rfl
@[simp] theorem State.engine_setSq (n : Nat) (v : Sq) (z : Nat) : (s.setSq n v).engine z = s.engine z := rfl
@[simp] theorem State.region_setSq (n : Nat) (v : Sq) (z : Nat) : (s.setSq n v).region z = s.region z := rfl
@[simp] theorem State.stream_setSq (n : Nat) (v : Sq) (z : Nat) : (s.setSq n v).stream z = s.stream z := rfl
@[simp] theorem State.pin_setSq (n : Nat) (v : Sq) (z : Nat) : (s.setSq n v).pin z = s.pin z := rfl
@[simp] theorem State.conv_setSq (n : Nat) (v : Sq) (z : Nat) : (s.setSq n v).conv z = s.conv z := rfl
@[simp] theorem State.sequencer_setSq (n : Nat) (v : Sq) (z : Nat) : (s.setSq n v).sequencer z = s.sequencer z := rfl
@[simp] theorem State.con_setSq (n : Nat) (v : Sq) (z : Nat) : (s.setSq n v).con z = s.con z := rfl
@[simp] theorem State.chan_setSq (n : Nat) (v : Sq) (z : Nat) : (s.setSq n v).chan z = s.chan z := rfl
@[simp] theorem State.cq_setSq (n : Nat) (v : Sq) (z : Nat) : (s.setSq n v).cq z = s.cq z := rfl
@[simp] theorem State.vec_setSq (n : Nat) (v : Sq) (z : Nat) : (s.setSq n v).vec z = s.vec z := rfl
@[simp] theorem State.port_setSq (n : Nat) (v : Sq) (z : Nat) : (s.setSq n v).port z = s.port z := rfl

@[simp] theorem State.rd_setCq (n : Nat) (v : Cq) (q : Prm) (y z : Nat) : (s.setCq n v).rd q y z = s.rd q y z := rfl
@[simp] theorem State.clock_setCq (n : Nat) (v : Cq) : (s.setCq n v).clock = s.clock := rfl
@[simp] theorem State.ch_setCq (n : Nat) (v : Cq) (z : Nat) : (s.setCq n v).ch z = s.ch z := rfl
@[simp] theorem State.group_setCq (n : Nat) (v : Cq) (z : Nat) : (s.setCq n v).group z = s.group z := rfl
@[simp] theorem State.avg_setCq (n : Nat) (v : Cq) (z : Nat) : (s.setCq n v).avg z = s.avg z := rfl
@[simp] theorem State.engine_setCq (n : Nat) (v : Cq) (z : Nat) : (s.setCq n v).engine z = s.engine z := rfl
@[simp] theorem State.region_setCq (n : Nat) (v : Cq) (z : Nat) : (s.setCq n v).region z = s.region z := rfl
@[simp] theorem State.stream_setCq (n : Nat) (v : Cq) (z : Nat) : (s.setCq n v).stream z = s.stream z := rfl
@[simp] theorem State.pin_setCq (n : Nat) (v : Cq) (z : Nat) : (s.setCq n v).pin z = s.pin z := rfl
@[simp] theorem State.conv_setCq (n : Nat) (v : Cq) (z : Nat) : (s.setCq n v).conv z = s.conv z := rfl
@[simp] theorem State.sequencer_setCq (n : Nat) (v : Cq) (z : Nat) : (s.setCq n v).sequencer z = s.sequencer z := rfl
@[simp] theorem State.con_setCq (n : Nat) (v : Cq) (z : Nat) : (s.setCq n v).con z = s.con z := rfl
@[simp] theorem State.chan_setCq (n : Nat) (v : Cq) (z : Nat) : (s.setCq n v).chan z = s.chan z := rfl
@[simp] theorem State.sq_setCq (n : Nat) (v : Cq) (z : Nat) : (s.setCq n v).sq z = s.sq z := rfl
@[simp] theorem State.vec_setCq (n : Nat) (v : Cq) (z : Nat) : (s.setCq n v).vec z = s.vec z := rfl
@[simp] theorem State.port_setCq (n : Nat) (v : Cq) (z : Nat) : (s.setCq n v).port z = s.port z := rfl

@[simp] theorem State.rd_setVec (v : Nat) (e : Vec) (q : Prm) (y z : Nat) : (s.setVec v e).rd q y z = s.rd q y z := rfl
@[simp] theorem State.clock_setVec (v : Nat) (e : Vec) : (s.setVec v e).clock = s.clock := rfl
@[simp] theorem State.ch_setVec (v : Nat) (e : Vec) (z : Nat) : (s.setVec v e).ch z = s.ch z := rfl
@[simp] theorem State.group_setVec (v : Nat) (e : Vec) (z : Nat) : (s.setVec v e).group z = s.group z := rfl
@[simp] theorem State.avg_setVec (v : Nat) (e : Vec) (z : Nat) : (s.setVec v e).avg z = s.avg z := rfl
@[simp] theorem State.engine_setVec (v : Nat) (e : Vec) (z : Nat) : (s.setVec v e).engine z = s.engine z := rfl
@[simp] theorem State.region_setVec (v : Nat) (e : Vec) (z : Nat) : (s.setVec v e).region z = s.region z := rfl
@[simp] theorem State.stream_setVec (v : Nat) (e : Vec) (z : Nat) : (s.setVec v e).stream z = s.stream z := rfl
@[simp] theorem State.pin_setVec (v : Nat) (e : Vec) (z : Nat) : (s.setVec v e).pin z = s.pin z := rfl
@[simp] theorem State.conv_setVec (v : Nat) (e : Vec) (z : Nat) : (s.setVec v e).conv z = s.conv z := rfl
@[simp] theorem State.sequencer_setVec (v : Nat) (e : Vec) (z : Nat) : (s.setVec v e).sequencer z = s.sequencer z := rfl
@[simp] theorem State.con_setVec (v : Nat) (e : Vec) (z : Nat) : (s.setVec v e).con z = s.con z := rfl
@[simp] theorem State.chan_setVec (v : Nat) (e : Vec) (z : Nat) : (s.setVec v e).chan z = s.chan z := rfl
@[simp] theorem State.sq_setVec (v : Nat) (e : Vec) (z : Nat) : (s.setVec v e).sq z = s.sq z := rfl
@[simp] theorem State.cq_setVec (v : Nat) (e : Vec) (z : Nat) : (s.setVec v e).cq z = s.cq z := rfl
@[simp] theorem State.port_setVec (v : Nat) (e : Vec) (z : Nat) : (s.setVec v e).port z = s.port z := rfl

@[simp] theorem State.rd_setPort (p : Nat) (v : PortRun) (q : Prm) (y z : Nat) : (s.setPort p v).rd q y z = s.rd q y z := rfl
@[simp] theorem State.clock_setPort (p : Nat) (v : PortRun) : (s.setPort p v).clock = s.clock := rfl
@[simp] theorem State.ch_setPort (p : Nat) (v : PortRun) (z : Nat) : (s.setPort p v).ch z = s.ch z := rfl
@[simp] theorem State.group_setPort (p : Nat) (v : PortRun) (z : Nat) : (s.setPort p v).group z = s.group z := rfl
@[simp] theorem State.avg_setPort (p : Nat) (v : PortRun) (z : Nat) : (s.setPort p v).avg z = s.avg z := rfl
@[simp] theorem State.engine_setPort (p : Nat) (v : PortRun) (z : Nat) : (s.setPort p v).engine z = s.engine z := rfl
@[simp] theorem State.region_setPort (p : Nat) (v : PortRun) (z : Nat) : (s.setPort p v).region z = s.region z := rfl
@[simp] theorem State.stream_setPort (p : Nat) (v : PortRun) (z : Nat) : (s.setPort p v).stream z = s.stream z := rfl
@[simp] theorem State.pin_setPort (p : Nat) (v : PortRun) (z : Nat) : (s.setPort p v).pin z = s.pin z := rfl
@[simp] theorem State.conv_setPort (p : Nat) (v : PortRun) (z : Nat) : (s.setPort p v).conv z = s.conv z := rfl
@[simp] theorem State.sequencer_setPort (p : Nat) (v : PortRun) (z : Nat) : (s.setPort p v).sequencer z = s.sequencer z := rfl
@[simp] theorem State.con_setPort (p : Nat) (v : PortRun) (z : Nat) : (s.setPort p v).con z = s.con z := rfl
@[simp] theorem State.chan_setPort (p : Nat) (v : PortRun) (z : Nat) : (s.setPort p v).chan z = s.chan z := rfl
@[simp] theorem State.sq_setPort (p : Nat) (v : PortRun) (z : Nat) : (s.setPort p v).sq z = s.sq z := rfl
@[simp] theorem State.cq_setPort (p : Nat) (v : PortRun) (z : Nat) : (s.setPort p v).cq z = s.cq z := rfl
@[simp] theorem State.vec_setPort (p : Nat) (v : PortRun) (z : Nat) : (s.setPort p v).vec z = s.vec z := rfl

@[simp] theorem State.rd_setTb (t : Tb) (q : Prm) (y z : Nat) : (s.setTb t).rd q y z = s.rd q y z := rfl
@[simp] theorem State.ch_setTb (t : Tb) (z : Nat) : (s.setTb t).ch z = s.ch z := rfl
@[simp] theorem State.group_setTb (t : Tb) (z : Nat) : (s.setTb t).group z = s.group z := rfl
@[simp] theorem State.avg_setTb (t : Tb) (z : Nat) : (s.setTb t).avg z = s.avg z := rfl
@[simp] theorem State.engine_setTb (t : Tb) (z : Nat) : (s.setTb t).engine z = s.engine z := rfl
@[simp] theorem State.region_setTb (t : Tb) (z : Nat) : (s.setTb t).region z = s.region z := rfl
@[simp] theorem State.stream_setTb (t : Tb) (z : Nat) : (s.setTb t).stream z = s.stream z := rfl
@[simp] theorem State.pin_setTb (t : Tb) (z : Nat) : (s.setTb t).pin z = s.pin z := rfl
@[simp] theorem State.conv_setTb (t : Tb) (z : Nat) : (s.setTb t).conv z = s.conv z := rfl
@[simp] theorem State.sequencer_setTb (t : Tb) (z : Nat) : (s.setTb t).sequencer z = s.sequencer z := rfl
@[simp] theorem State.con_setTb (t : Tb) (z : Nat) : (s.setTb t).con z = s.con z := rfl
@[simp] theorem State.chan_setTb (t : Tb) (z : Nat) : (s.setTb t).chan z = s.chan z := rfl
@[simp] theorem State.sq_setTb (t : Tb) (z : Nat) : (s.setTb t).sq z = s.sq z := rfl
@[simp] theorem State.cq_setTb (t : Tb) (z : Nat) : (s.setTb t).cq z = s.cq z := rfl
@[simp] theorem State.vec_setTb (t : Tb) (z : Nat) : (s.setTb t).vec z = s.vec z := rfl
@[simp] theorem State.port_setTb (t : Tb) (z : Nat) : (s.setTb t).port z = s.port z := rfl

@[simp] theorem State.rd_setVane (v : Vane) (q : Prm) (y z : Nat) : (s.setVane v).rd q y z = s.rd q y z := rfl
@[simp] theorem State.clock_setVane (v : Vane) : (s.setVane v).clock = s.clock := rfl
@[simp] theorem State.ch_setVane (v : Vane) (z : Nat) : (s.setVane v).ch z = s.ch z := rfl
@[simp] theorem State.group_setVane (v : Vane) (z : Nat) : (s.setVane v).group z = s.group z := rfl
@[simp] theorem State.avg_setVane (v : Vane) (z : Nat) : (s.setVane v).avg z = s.avg z := rfl
@[simp] theorem State.engine_setVane (v : Vane) (z : Nat) : (s.setVane v).engine z = s.engine z := rfl
@[simp] theorem State.region_setVane (v : Vane) (z : Nat) : (s.setVane v).region z = s.region z := rfl
@[simp] theorem State.stream_setVane (v : Vane) (z : Nat) : (s.setVane v).stream z = s.stream z := rfl
@[simp] theorem State.pin_setVane (v : Vane) (z : Nat) : (s.setVane v).pin z = s.pin z := rfl
@[simp] theorem State.conv_setVane (v : Vane) (z : Nat) : (s.setVane v).conv z = s.conv z := rfl
@[simp] theorem State.sequencer_setVane (v : Vane) (z : Nat) : (s.setVane v).sequencer z = s.sequencer z := rfl
@[simp] theorem State.con_setVane (v : Vane) (z : Nat) : (s.setVane v).con z = s.con z := rfl
@[simp] theorem State.chan_setVane (v : Vane) (z : Nat) : (s.setVane v).chan z = s.chan z := rfl
@[simp] theorem State.sq_setVane (v : Vane) (z : Nat) : (s.setVane v).sq z = s.sq z := rfl
@[simp] theorem State.cq_setVane (v : Vane) (z : Nat) : (s.setVane v).cq z = s.cq z := rfl
@[simp] theorem State.vec_setVane (v : Vane) (z : Nat) : (s.setVane v).vec z = s.vec z := rfl
@[simp] theorem State.port_setVane (v : Vane) (z : Nat) : (s.setVane v).port z = s.port z := rfl

@[simp] theorem State.rd_setMsh (m : Msh) (q : Prm) (y z : Nat) : (s.setMsh m).rd q y z = s.rd q y z := rfl
@[simp] theorem State.clock_setMsh (m : Msh) : (s.setMsh m).clock = s.clock := rfl
@[simp] theorem State.ch_setMsh (m : Msh) (z : Nat) : (s.setMsh m).ch z = s.ch z := rfl
@[simp] theorem State.group_setMsh (m : Msh) (z : Nat) : (s.setMsh m).group z = s.group z := rfl
@[simp] theorem State.avg_setMsh (m : Msh) (z : Nat) : (s.setMsh m).avg z = s.avg z := rfl
@[simp] theorem State.engine_setMsh (m : Msh) (z : Nat) : (s.setMsh m).engine z = s.engine z := rfl
@[simp] theorem State.region_setMsh (m : Msh) (z : Nat) : (s.setMsh m).region z = s.region z := rfl
@[simp] theorem State.stream_setMsh (m : Msh) (z : Nat) : (s.setMsh m).stream z = s.stream z := rfl
@[simp] theorem State.pin_setMsh (m : Msh) (z : Nat) : (s.setMsh m).pin z = s.pin z := rfl
@[simp] theorem State.conv_setMsh (m : Msh) (z : Nat) : (s.setMsh m).conv z = s.conv z := rfl
@[simp] theorem State.sequencer_setMsh (m : Msh) (z : Nat) : (s.setMsh m).sequencer z = s.sequencer z := rfl
@[simp] theorem State.con_setMsh (m : Msh) (z : Nat) : (s.setMsh m).con z = s.con z := rfl
@[simp] theorem State.chan_setMsh (m : Msh) (z : Nat) : (s.setMsh m).chan z = s.chan z := rfl
@[simp] theorem State.sq_setMsh (m : Msh) (z : Nat) : (s.setMsh m).sq z = s.sq z := rfl
@[simp] theorem State.cq_setMsh (m : Msh) (z : Nat) : (s.setMsh m).cq z = s.cq z := rfl
@[simp] theorem State.vec_setMsh (m : Msh) (z : Nat) : (s.setMsh m).vec z = s.vec z := rfl
end Sys2Proof.Machine
end

