-- ==== Sys2Proof/Laws/Still.lean ====
section
/-!
SUPPORT. What the reactions of causes, the records of the log and the completions of commands leave alone: the parts of
the state outside channels, groups, engines, pins, comparators, sequencers, streams and status windows. One lemma for each function that
leaves them alone.
-/
namespace Sys2Proof.Machine

/-- The blocks whose parameters reactions never write: TB, EVF, XLT, MSH, CAL, VANE, TST, HL and LC. -/
def quietBlk (b : Nat) : Bool := b == 7 || b == 8 || decide (10 ≤ b)

/-- Whether an ID is one of a parameter of such a block. -/
def quietId (id : Nat) : Bool := quietBlk (id / 0x1000000)

/-- What is left alone, by components: `o` is the state before. -/
def StillAt (o : State) (pending : List Instr) (par : Bank Int) (hl : Hl) (vane : Vane) (lc : Lc) (pwr : Pwr)
    (sweMem : Bank Quad) (sweBad : List Nat) (uploads : List Upload) (cal : Cal) (xlt : Xlt) (adc : Bank Adc)
    (tb : Tb) : Prop :=
  pending = o.pending ∧
  (∀ id, quietId id = true → Bank.get paramReset par id = Bank.get paramReset o.par id) ∧
  hl = { o.hl with vecs := [] } ∧ vane = { o.vane with queue := [], queueLost := 0 } ∧ lc = o.lc ∧ pwr = o.pwr ∧
  sweMem = o.sweMem ∧ sweBad = o.sweBad ∧ uploads = o.uploads ∧ cal = o.cal ∧ xlt = { o.xlt with xfers := [], served := [] } ∧ adc = o.adc ∧
  tb = o.tb

/-- A state that agrees with `o` in everything that reactions leave alone. -/
def Still (o s : State) : Prop :=
  StillAt o s.pending s.par { s.hl with vecs := [] } { s.vane with queue := [], queueLost := 0 } s.lc s.pwr s.sweMem
    s.sweBad s.uploads s.cal { s.xlt with xfers := [], served := [] } s.adc s.tb

theorem Still.rfl (s : State) : Still s s :=
  ⟨Eq.refl _, fun _ _ => Eq.refl _, Eq.refl _, Eq.refl _, Eq.refl _, Eq.refl _, Eq.refl _, Eq.refl _, Eq.refl _,
    Eq.refl _, Eq.refl _, Eq.refl _, Eq.refl _⟩

variable {o s : State}

theorem Still.pending (h : Still o s) : s.pending = o.pending := h.1
theorem Still.par (h : Still o s) {id : Nat} (q : quietId id = true) :
    Bank.get paramReset s.par id = Bank.get paramReset o.par id := h.2.1 id q
theorem Still.hl (h : Still o s) : { s.hl with vecs := [] } = { o.hl with vecs := [] } := h.2.2.1
theorem Still.vane (h : Still o s) : { s.vane with queue := [], queueLost := 0 } = { o.vane with queue := [], queueLost := 0 } :=
  h.2.2.2.1
theorem Still.lc (h : Still o s) : s.lc = o.lc := h.2.2.2.2.1
theorem Still.pwr (h : Still o s) : s.pwr = o.pwr := h.2.2.2.2.2.1
theorem Still.sweMem (h : Still o s) : s.sweMem = o.sweMem := h.2.2.2.2.2.2.1
theorem Still.sweBad (h : Still o s) : s.sweBad = o.sweBad := h.2.2.2.2.2.2.2.1
theorem Still.uploads (h : Still o s) : s.uploads = o.uploads := h.2.2.2.2.2.2.2.2.1
theorem Still.cal (h : Still o s) : s.cal = o.cal := h.2.2.2.2.2.2.2.2.2.1
theorem Still.xlt (h : Still o s) : { s.xlt with xfers := [], served := [] } = { o.xlt with xfers := [], served := [] } := h.2.2.2.2.2.2.2.2.2.2.1
theorem Still.adc (h : Still o s) : s.adc = o.adc := h.2.2.2.2.2.2.2.2.2.2.2.1
theorem Still.tb (h : Still o s) : s.tb = o.tb := h.2.2.2.2.2.2.2.2.2.2.2.2

/-- A state written out is as its components are. -/
@[simp] theorem Still_mk (pending : List Instr) (draws : Nat) (sent : List Out) (due : List Due) (par : Bank Int)
    (old : Bank (Option Int)) (wins : Bank Win) (cmd : Cmd) (hl : Hl) (evf : Evf) (vane : Vane) (lc : Lc) (pwr : Pwr) (fch : Bank Fch) (hv : Hv) (grp : Bank Grp)
    (msr : Bank Msr) (regions : Bank (Option Region)) (sweMem : Bank Quad) (sweBad : List Nat) (uploads : List Upload)
    (swe : Bank Swe) (cal : Cal) (stm : Bank Stm) (xlt : Xlt) (pins : Bank PinRun) (adc : Bank Adc) (cmp : Bank CmpRun)
    (seq : Bank Seq) (tb : Tb) (tst : Tst) (msh : Msh) :
    Still o ⟨pending, draws, sent, due, par, old, wins, cmd, hl, evf, vane, lc, pwr, fch, hv, grp, msr, regions, sweMem, sweBad, uploads,
        swe, cal, stm, xlt, pins, adc, cmp, seq, tb, tst, msh⟩ ↔
      StillAt o pending par { hl with vecs := [] } { vane with queue := [], queueLost := 0 } lc pwr sweMem sweBad uploads cal
        { xlt with xfers := [], served := [] } adc tb := Iff.rfl

/-- Components that are all one state's are that state's. -/
@[simp] theorem StillAt_self (s : State) :
    StillAt o s.pending s.par { s.hl with vecs := [] } { s.vane with queue := [], queueLost := 0 } s.lc s.pwr s.sweMem
      s.sweBad s.uploads s.cal { s.xlt with xfers := [], served := [] } s.adc s.tb ↔ Still o s := Iff.rfl

@[simp] theorem Still_ite (c : Prop) [Decidable c] (a b : State) :
    Still o (if c then a else b) ↔ (c → Still o a) ∧ (¬c → Still o b) := by
  split <;> simp [*]

theorem Still_if {c : Prop} [Decidable c] {a b : State} (ha : Still o a) (hb : Still o b) :
    Still o (if c then a else b) := by
  split <;> assumption

/-- A fold of an operation that changes nothing of these changes nothing of these. -/
theorem Still_foldl {α : Type} {g : State → α → State} (hg : ∀ s a, Still o s → Still o (g s a)) (l : List α)
    (h : Still o s) : Still o (l.foldl g s) := by
  induction l generalizing s with
  | nil => exact h
  | cons a l ih => exact ih (hg s a h)

/-- What a command came to changes nothing of these. -/
def StillRes (o : State) : Res → Prop
  | .done _ _ s => Still o s
  | .later s => Still o s

/-- What an operation that can be refused answers changes nothing of these. -/
def StillEx {ε α : Type} (o : State) (g : α → State) : Except ε α → Prop
  | .ok a => Still o (g a)
  | .error _ => True

/-- What an operation that may answer nothing answers changes nothing of these. -/
def StillOpt (o : State) : Option State → Prop
  | some s => Still o s
  | none => True

/-- The next state of a meaning changes nothing of these. -/
def StillAns (o : State) : Answer → Prop
  | .next s => Still o s
  | _ => True

@[simp] theorem StillRes_done (st : Nat) (r : List Nat) : StillRes o (.done st r s) ↔ Still o s := Iff.rfl
@[simp] theorem StillRes_later : StillRes o (.later s) ↔ Still o s := Iff.rfl
@[simp] theorem StillEx_ok {ε α : Type} (g : α → State) (a : α) : StillEx (ε := ε) o g (.ok a) ↔ Still o (g a) := Iff.rfl
@[simp] theorem StillEx_error {ε α : Type} (g : α → State) (e : ε) : StillEx o g (.error e) ↔ True := Iff.rfl
@[simp] theorem StillOpt_some : StillOpt o (some s) ↔ Still o s := Iff.rfl
@[simp] theorem StillOpt_none : StillOpt o none ↔ True := Iff.rfl
@[simp] theorem StillAns_next : StillAns o (.next s) ↔ Still o s := Iff.rfl

@[simp] theorem StillRes_ite (c : Prop) [Decidable c] (a b : Res) :
    StillRes o (if c then a else b) ↔ (c → StillRes o a) ∧ (¬c → StillRes o b) := by
  split <;> simp [*]

@[simp] theorem StillEx_ite {ε α : Type} (g : α → State) (c : Prop) [Decidable c] (a b : Except ε α) :
    StillEx o g (if c then a else b) ↔ (c → StillEx o g a) ∧ (¬c → StillEx o g b) := by
  split <;> simp [*]

@[simp] theorem StillOpt_ite (c : Prop) [Decidable c] (a b : Option State) :
    StillOpt o (if c then a else b) ↔ (c → StillOpt o a) ∧ (¬c → StillOpt o b) := by
  split <;> simp [*]

@[simp] theorem StillAns_ite (c : Prop) [Decidable c] (a b : Answer) :
    StillAns o (if c then a else b) ↔ (c → StillAns o a) ∧ (¬c → StillAns o b) := by
  split <;> simp [*]

theorem StillRes_if {c : Prop} [Decidable c] {a b : Res} (ha : StillRes o a) (hb : StillRes o b) :
    StillRes o (if c then a else b) := by
  split <;> assumption

theorem StillEx_if {ε α : Type} {g : α → State} {c : Prop} [Decidable c] {a b : Except ε α} (ha : StillEx o g a)
    (hb : StillEx o g b) : StillEx o g (if c then a else b) := by
  split <;> assumption

theorem StillOpt_if {c : Prop} [Decidable c] {a b : Option State} (ha : StillOpt o a) (hb : StillOpt o b) :
    StillOpt o (if c then a else b) := by
  split <;> assumption

theorem StillAns_if {c : Prop} [Decidable c] {a b : Answer} (ha : StillAns o a) (hb : StillAns o b) :
    StillAns o (if c then a else b) := by
  split <;> assumption

theorem StillEx.ok {ε α : Type} {g : α → State} {w : Except ε α} {a : α} (h : StillEx o g w) (e : w = .ok a) :
    Still o (g a) := by subst e; exact h

theorem StillEx.state {ε : Type} {w : Except ε State} {t : State} (h : StillEx o id w) (e : w = .ok t) : Still o t := by
  subst e; exact h

theorem StillEx.fst {ε α : Type} {w : Except ε (State × α)} {t : State} {a : α} (h : StillEx o Prod.fst w)
    (e : w = .ok (t, a)) : Still o t := by subst e; exact h

theorem Still.fst {α : Type} {x : State × α} {t : State} {a : α} (h : Still o x.1) (e : x = (t, a)) : Still o t := by
  subst e; exact h

theorem Still.snd {α : Type} {x : α × State} {t : State} {a : α} (h : Still o x.2) (e : x = (a, t)) : Still o t := by
  subst e; exact h

theorem StillOpt.some {x : Option State} {t : State} (h : StillOpt o x) (e : x = Option.some t) : Still o t := by
  subst e; exact h

theorem quiet_side {n : Nat} (h : quietBlk n = false) : quietBlk n = false := h

theorem Prm.id_blk (p : Prm) (inst i : Nat) : p.id inst i / 0x1000000 = p.blk := by
  unfold Prm.id
  have := Nat.mod_lt (p.home inst) (show 0 < 0x1000 by decide)
  have := Nat.mod_lt (p.num + p.str * i) (show 0 < 0x1000 by decide)
  omega

theorem quietId_id (p : Prm) (inst i : Nat) : quietId (p.id inst i) = quietBlk p.blk := by
  rw [quietId, Prm.id_blk]

/-- A quiet parameter reads as before. -/
theorem Still.rd (h : Still o s) (p : Prm) (inst i : Nat) (q : quietBlk p.blk = true) : s.rd p inst i = o.rd p inst i :=
  h.par ((quietId_id p inst i).trans q)

/-- A write of a parameter that is not quiet leaves the quiet ones alone. -/
@[simp] theorem still_wr (p : Prm) (inst i : Nat) (v : Int) (hKs : Still o s)
    (hq : quietBlk p.blk = false := by rfl) : Still o (s.wr p inst i v) := by
  obtain ⟨a, c, d⟩ := hKs
  refine ⟨a, fun id hid => ?_, d⟩
  have : id ≠ p.id inst i := fun e => by simp [e, quietId_id, hq] at hid
  exact (Bank.get_set_ne _ _ _ this).trans (c id hid)

/-- The same for a write that waits for a loop-cycle boundary. -/
@[simp] theorem still_wrNext (p : Prm) (inst i : Nat) (v : Int) (hKs : Still o s)
    (hq : quietBlk p.blk = false := by rfl) : Still o (s.wrNext p inst i v) :=
  still_wr p inst i v (s := { s with old := Bank.set (fun _ => none) s.old (p.id inst i) (some (s.eff p inst i)) }) hKs hq

/-- The same for what a parameter holds in the present loop cycle. -/
@[simp] theorem still_wrEff (p : Prm) (inst i : Nat) (v : Int) (hKs : Still o s)
    (hq : quietBlk p.blk = false := by rfl) : Still o (s.wrEff p inst i v) :=
  Still_if hKs (still_wr p inst i v hKs hq)

end Sys2Proof.Machine
end

