-- ==== Sys2Proof/Laws/StillOps.lean ====
section
/-!
SUPPORT. What each function leaves alone (Still): shared operations, status windows, completions, channels, sweep and sequencer operations, reactions.
-/
set_option linter.unusedTactic false
set_option linter.unreachableTactic false
set_option linter.unusedSimpArgs false
namespace Sys2Proof.Machine
variable {og : State}

theorem still_put {s : State} (p : Prm) (inst : Nat) (v : Int) (hKs : Still og s)
    (hq : quietBlk p.blk = false := by rfl) : Still og (s.put p inst v) := still_wr _ _ _ _ hKs hq

theorem still_bump {s : State} (p : Prm) (inst i n : Nat) (hKs : Still og s)
    (hq : quietBlk p.blk = false := by rfl) : Still og (s.bump p inst i n) := still_wr _ _ _ _ hKs hq

theorem still_tally {s : State} (p : Prm) (inst i n : Nat) (hKs : Still og s)
    (hq : quietBlk p.blk = false := by rfl) : Still og (s.tally p inst i n) := still_wr _ _ _ _ hKs hq

theorem still_draw {s : State} (hKs : Still og s) : Still og (State.draw s).2 := by
  exact hKs

theorem still_drawInt {s : State} (hKs : Still og s) : Still og (State.drawInt s).2 := by
  exact hKs

theorem still_drawMany (n : Nat) {s : State} (hKs : Still og s) : Still og (drawMany n s).2 := by
  induction n generalizing s with
  | zero => exact hKs
  | succ n ih => exact ih (still_drawInt hKs)

theorem still_emit {s : State} (o : Out) (hKs : Still og s) : Still og (State.emit s o) := by
  exact hKs

theorem still_setWin {s : State} (blk inst : Nat) (w : Win) (hKs : Still og s) : Still og (State.setWin s blk inst w) := by
  exact hKs

theorem still_publish {s : State} (sel : Int) (at_ : Option Nat) (mark : Option Nat) (hKs : Still og s)
    : Still og (State.publish s sel at_ mark) := by
  unfold State.publish
  (repeat' (first | with_reducible assumption | ((with_reducible apply quiet_side); rfl)
                  | with_reducible (first | apply Still_if) | (with_reducible apply Still_foldl; intro _ _ _)
                  | simp only [Still_mk, StillAt_self] | split | intro _))

theorem still_setCh {s : State} (c : Nat) (f : Fch) (hKs : Still og s) : Still og (State.setCh s c f) := by
  exact hKs

theorem still_setGroup {s : State} (g : Nat) (v : Grp) (hKs : Still og s) : Still og (State.setGroup s g v) := by
  exact hKs

theorem still_setAvg {s : State} (c : Nat) (v : Msr) (hKs : Still og s) : Still og (State.setAvg s c v) := by
  exact hKs

theorem still_setEngine {s : State} (e : Nat) (v : Swe) (hKs : Still og s) : Still og (State.setEngine s e v) := by
  exact hKs

theorem still_setCon {s : State} (n : Nat) (v : Cons) (hKs : Still og s) : Still og (State.setCon s n v) := by
  exact hKs

theorem still_setSq {s : State} (n : Nat) (v : Sq) (hKs : Still og s) : Still og (State.setSq s n v) := by
  exact hKs

theorem still_setCq {s : State} (n : Nat) (v : Cq) (hKs : Still og s) : Still og (State.setCq s n v) := by
  exact hKs

theorem still_raise {s : State} (v : Nat) (hKs : Still og s) : Still og (s.raise v) := by
  unfold State.raise
  simp only []
  split
  · exact hKs
  · split
    · exact hKs
    · exact Still_if hKs (still_emit _ hKs)

theorem still_takenOver {s : State} (hKs : Still og s) : Still og (State.takenOver s) := by
  exact hKs

theorem still_logRec {s : State} (r : Rec) (hKs : Still og s) : Still og (State.logRec s r) := by
  unfold State.logRec
  (repeat' (first | with_reducible assumption | ((with_reducible apply quiet_side); rfl)
                  | with_reducible (first | apply Still_if) | (with_reducible apply Still_foldl; intro _ _ _)
                  | simp only [Still_mk, StillAt_self] | split | intro _))

theorem still_setPort {s : State} (p : Nat) (v : PortRun) (hKs : Still og s) : Still og (State.setPort s p v) := by
  exact hKs

theorem still_sendFrame {s : State} (p cls : Nat) (ws : List Nat) (hKs : Still og s)
    : Still og (State.sendFrame s p cls ws) := by
  unfold State.sendFrame
  (repeat' (first | with_reducible assumption | ((with_reducible apply quiet_side); rfl)
                  | with_reducible (first | apply still_emit | apply still_setPort)))

theorem still_frameTo {s : State} (node cls : Nat) (words : List Nat) (note : Option (Nat × Nat × Bool)) (hops : Nat)
    (hKs : Still og s) : Still og (State.frameTo s node cls words note hops) := by
  unfold State.frameTo
  (repeat' (first | with_reducible assumption | ((with_reducible apply quiet_side); rfl)
                  | with_reducible (first | apply Still_if | apply still_logRec | apply still_sendFrame)
                  | (with_reducible apply Still_foldl; intro _ _ _) | simp only [Still_mk, StillAt_self] | split | intro _))

theorem still_setCu {s : State} (u : Nat) (l : List Quad) (hKs : Still og s) : Still og (State.setCu s u l) := by
  exact hKs

theorem still_countHit {s : State} (blk inst : Nat) (h : Hit) (action : Nat) (hKs : Still og s)
    : Still og (countHit s blk inst h action) := by
  unfold countHit
  (repeat' (first | with_reducible assumption | ((with_reducible apply quiet_side); rfl)
                  | with_reducible (first | apply Still_if | apply still_raise | apply still_setWin)
                  | (with_reducible apply Still_foldl; intro _ _ _) | simp only [Still_mk, StillAt_self] | split | intro _))

theorem still_logHit {s : State} (blk inst : Nat) (h : Hit) (action : Nat) (hKs : Still og s)
    : Still og (logHit s blk inst h action) := by
  unfold logHit
  (repeat' (first | with_reducible assumption | ((with_reducible apply quiet_side); rfl)
                  | with_reducible (first | apply Still_if | apply still_logRec | apply still_setWin)
                  | (with_reducible apply Still_foldl; intro _ _ _) | simp only [Still_mk, StillAt_self] | split | intro _))

theorem still_recordEach {s : State} (blk inst : Nat) (fixed : Option Nat) (l : List Hit) (hKs : Still og s) :
    Still og (recordEach s blk inst fixed l) := by
  induction l generalizing s with
  | nil => exact hKs
  | cons a l ih =>
    have h :=
        still_logHit blk inst a (hitAction s blk inst fixed a) (still_countHit blk inst a (hitAction s blk inst fixed a) hKs)
    refine ih (Still_if ?_ h)
    simp only [Still_mk, StillAt_self]
    exact h

theorem still_recordHistory {s : State} (blk inst : Nat) (fixed : Option Nat) (h : Hit) (hKs : Still og s)
    : Still og (recordHistory s blk inst fixed h) := by
  unfold recordHistory
  (repeat' (first | with_reducible assumption | ((with_reducible apply quiet_side); rfl)
                  | with_reducible (first | apply Still_if | apply still_setWin)
                  | (with_reducible apply Still_foldl; intro _ _ _) | simp only [Still_mk, StillAt_self] | split | intro _))

theorem still_recordHits {s : State} (blk inst : Nat) (fixed : Option Nat) (hs : List Hit) (hKs : Still og s)
    : Still og (recordHits s blk inst fixed hs) := by
  unfold recordHits
  (repeat' (first | with_reducible assumption | ((with_reducible apply quiet_side); rfl)
                  | with_reducible (first | apply Still_if | apply still_recordEach | apply still_recordHistory)
                  | (with_reducible apply Still_foldl; intro _ _ _) | simp only [Still_mk, StillAt_self] | split | intro _))

theorem still_record {s : State} (blk inst code : Nat) (high : Bool) (hKs : Still og s)
    : Still og (record s blk inst code high) := by
  unfold record
  (repeat' (first | with_reducible assumption | ((with_reducible apply quiet_side); rfl)
                  | with_reducible (first | apply still_recordHits)))

theorem still_consOverrun {s : State} (n : Nat) (hKs : Still og s) : Still og (consOverrun s n) := by
  unfold consOverrun
  (repeat' (first | with_reducible assumption | ((with_reducible apply quiet_side); rfl)
                  | with_reducible (first | apply still_setCon | apply still_record)))

theorem still_recordFixed {s : State} (blk inst : Nat) (h : Hit) (hKs : Still og s) : Still og (recordFixed s blk inst h) :=
    by
  unfold recordFixed
  (repeat' (first | with_reducible assumption | ((with_reducible apply quiet_side); rfl)
                  | with_reducible (first | apply still_recordHits)))

theorem still_refuse {s : State} (status : Nat) (hKs : Still og s) : StillRes og (refuse s status) := by
  exact hKs

theorem still_ok {s : State} (res : List Nat) (hKs : Still og s) : StillRes og (ok s res) := by
  exact hKs

theorem still_complete {s : State} (src : Src) (tag status : Nat) (res : List Nat) (owns : Bool) (notice : Option (Option Nat
    × Nat)) (hKs : Still og s) : Still og (State.complete s src tag status res owns notice) := by
  unfold State.complete
  (repeat' (first | with_reducible assumption | (with_reducible apply quiet_side; rfl)
                  | with_reducible (first | apply Still_if | apply still_emit | apply still_frameTo | apply still_setCq)
                  | (with_reducible apply Still_foldl; intro _ _ _) | simp only [Still_mk, StillAt_self] | split | intro _))

theorem still_setStage {s : State} (p : Pkt) (st : OpStage) (hKs : Still og s) : Still og (setStage s p st) := by
  exact hKs

theorem still_freeCore {s : State} (p : Pkt) (hKs : Still og s) : Still og (freeCore s p) := by
  exact hKs

theorem still_finish (p : Pkt) {x : Res} (hKx : StillRes og x) : Still og (finish p x) := by
  cases x <;> simp_all [finish, still_complete, still_freeCore]

theorem still_setComp {s : State} (c : Cmp) (v : CmpRun) (hKs : Still og s) : Still og (State.setComp s c v) := by
  exact hKs

theorem still_powerUp {s : State} (c : Cmp) (hKs : Still og s) : Still og (powerUp s c) := by
  unfold powerUp
  (repeat' (first | with_reducible assumption | ((with_reducible apply quiet_side); rfl)
                  | with_reducible (first | apply still_draw | apply still_setComp)))

theorem still_modeChanges (old new : Nat) {s : State} (c : Cmp) (hKs : Still og s) : Still og (modeChanges old new s c) := by
  unfold modeChanges
  (repeat' (first | with_reducible assumption | ((with_reducible apply quiet_side); rfl)
                  | with_reducible (first | apply Still_if | apply still_setComp | apply still_powerUp)
                  | (with_reducible apply Still_foldl; intro _ _ _) | simp only [Still_mk, StillAt_self] | split | intro _))

theorem still_bandChanges {s : State} (c : Cmp) (hKs : Still og s) : Still og (bandChanges s c) := by
  unfold bandChanges
  (repeat' (first | with_reducible assumption | ((with_reducible apply quiet_side); rfl)
                  | with_reducible (first | apply Still_if | apply still_draw | apply still_setComp)
                  | (with_reducible apply Still_foldl; intro _ _ _) | simp only [Still_mk, StillAt_self] | split | intro _
                  | refine Still.snd ?_ (by assumption)))

theorem still_windowsFollow {s : State} (c : Nat) (on : Bool) (hKs : Still og s) : Still og (windowsFollow s c on) := by
  unfold windowsFollow
  (repeat' (first | with_reducible assumption | ((with_reducible apply quiet_side); rfl)
                  | with_reducible (first | apply Still_if | apply still_setComp | apply still_modeChanges)
                  | (with_reducible apply Still_foldl; intro _ _ _) | simp only [Still_mk, StillAt_self] | split | intro _))

theorem still_cput {s : State} (fch hvc : Prm) (c : Nat) (v : Int) (hKs : Still og s)
    (hf : quietBlk fch.blk = false := by rfl) (hh : quietBlk hvc.blk = false := by rfl) : Still og (s.cput fch hvc c v) := by
  unfold State.cput cp
  exact still_put _ _ _ hKs (by split <;> assumption)

theorem still_restartAvg {s : State} (c : Nat) (hKs : Still og s) : Still og (restartAvg s c) := by
  unfold restartAvg
  (repeat' (first | with_reducible assumption | ((with_reducible apply quiet_side); rfl)
                  | with_reducible (first | apply Still_if | apply still_setAvg | apply still_setGroup)
                  | (with_reducible apply Still_foldl; intro _ _ _) | simp only [Still_mk, StillAt_self] | split | intro _))

theorem still_setChState {s : State} (c st : Nat) (hKs : Still og s) : Still og (State.setChState s c st) := by
  unfold State.setChState
  (repeat' (first | with_reducible assumption | ((with_reducible apply quiet_side); rfl)
                  | with_reducible (first | apply Still_if | apply still_cput | apply still_setCh | apply still_restartAvg
                                          | apply still_windowsFollow) | (with_reducible apply Still_foldl; intro _ _ _)
                  | simp only [Still_mk, StillAt_self] | split | intro _))

theorem still_aimRails {s : State} (g : Nat) (hKs : Still og s) : Still og (aimRails s g) := by
  unfold aimRails
  (repeat' (first | with_reducible assumption | (with_reducible apply quiet_side; rfl)
                  | with_reducible (first | apply Still_if | apply still_setGroup)
                  | (with_reducible apply Still_foldl; intro _ _ _) | simp only [Still_mk, StillAt_self] | split | intro _))

theorem still_reportBudget {s : State} (hKs : Still og s) : Still og (reportBudget s) := by
  unfold reportBudget
  (repeat' (first | with_reducible assumption | ((with_reducible apply quiet_side); rfl)
                  | with_reducible (first | apply still_put)))

theorem still_touch {s : State} (c : Nat) (hKs : Still og s) : Still og (touch s c) := by
  unfold touch
  (repeat' (first | with_reducible assumption | (with_reducible apply quiet_side; rfl)
                  | with_reducible (first | apply still_setCh)))

theorem still_settleFor {s : State} (c ns : Nat) (hKs : Still og s) : Still og (settleFor s c ns) := by
  unfold settleFor
  (repeat' (first | with_reducible assumption | (with_reducible apply quiet_side; rfl)
                  | with_reducible (first | apply still_setCh)))

theorem still_abortTune {s : State} (c : Nat) (hKs : Still og s) : Still og (abortTune s c) := by
  unfold abortTune
  (repeat' (first | with_reducible assumption | (with_reducible apply quiet_side; rfl)
                  | with_reducible (first | apply Still_if | apply still_complete | apply still_setCh)
                  | (with_reducible apply Still_foldl; intro _ _ _) | simp only [Still_mk, StillAt_self] | split | intro _))

theorem still_abortRuns {s : State} (c : Nat) (hKs : Still og s) : Still og (abortRuns s c) := by
  unfold abortRuns
  (repeat' (first | with_reducible assumption | (with_reducible apply quiet_side; rfl)
                  | with_reducible (first | apply Still_if | apply still_complete)
                  | (with_reducible apply Still_foldl; intro _ _ _) | simp only [Still_mk, StillAt_self] | split | intro _))

theorem still_openPaths {s : State} (c : Nat) (hKs : Still og s) : Still og (openPaths s c) := by
  unfold openPaths
  (repeat' (first | with_reducible assumption | ((with_reducible apply quiet_side); rfl)
                  | with_reducible (first | apply Still_if | apply still_put | apply still_setCh)
                  | (with_reducible apply Still_foldl; intro _ _ _) | simp only [Still_mk, StillAt_self] | split | intro _))

theorem still_enterOpen {s : State} (c st : Nat) (hKs : Still og s) : Still og (enterOpen s c st) := by
  unfold enterOpen
  (repeat' (first | with_reducible assumption | ((with_reducible apply quiet_side); rfl)
                  | with_reducible (first | apply Still_if | apply still_setCh | apply still_setChState
                                          | apply still_abortRuns | apply still_abortTune | apply still_aimRails
                                          | apply still_openPaths | apply still_recordHits | apply still_reportBudget)
                  | (with_reducible apply Still_foldl; intro _ _ _) | simp only [Still_mk, StillAt_self] | split | intro _))

theorem still_toFault {s : State} (c : Nat) (hKs : Still og s) : Still og (toFault s c) := by
  unfold toFault
  (repeat' (first | with_reducible assumption | (with_reducible apply quiet_side; rfl)
                  | with_reducible (first | apply Still_if | apply still_enterOpen)
                  | (with_reducible apply Still_foldl; intro _ _ _) | simp only [Still_mk, StillAt_self] | split | intro _))

theorem still_toTripped {s : State} (c : Nat) (hKs : Still og s) : Still og (toTripped s c) := by
  unfold toTripped
  (repeat' (first | with_reducible assumption | (with_reducible apply quiet_side; rfl)
                  | with_reducible (first | apply Still_if | apply still_enterOpen)
                  | (with_reducible apply Still_foldl; intro _ _ _) | simp only [Still_mk, StillAt_self] | split | intro _))

theorem still_settleOpen {s : State} (c st : Nat) (hKs : Still og s) : Still og (settleOpen s c st) := by
  unfold settleOpen
  (repeat' (first | with_reducible assumption | ((with_reducible apply quiet_side); rfl)
                  | with_reducible (first | apply Still_if | apply still_setCh | apply still_setChState | apply still_aimRails
                                          | apply still_openPaths | apply still_reportBudget)
                  | (with_reducible apply Still_foldl; intro _ _ _) | simp only [Still_mk, StillAt_self] | split | intro _))

theorem still_startRampDown {s : State} (c tgt : Nat) (hKs : Still og s) : Still og (startRampDown s c tgt) := by
  unfold startRampDown
  (repeat' (first | with_reducible assumption | (with_reducible apply quiet_side; rfl)
                  | with_reducible (first | apply still_setCh)))

theorem still_waitForRails {s : State} (c : Nat) (hKs : Still og s) : Still og (waitForRails s c) := by
  unfold waitForRails
  (repeat' (first | with_reducible assumption | ((with_reducible apply quiet_side); rfl)
                  | with_reducible (first | apply Still_if | apply still_setCh)
                  | (with_reducible apply Still_foldl; intro _ _ _) | simp only [Still_mk, StillAt_self] | split | intro _))

theorem still_connect {s : State} (c mode : Nat) (hKs : Still og s) : Still og (connect s c mode) := by
  unfold connect
  (repeat' (first | with_reducible assumption | ((with_reducible apply quiet_side); rfl)
                  | with_reducible (first | apply still_setCh | apply still_setChState | apply still_aimRails
                                          | apply still_settleFor | apply still_waitForRails)))

theorem still_moveOutput {s : State} (c req : Nat) (hKs : Still og s) : Still og (moveOutput s c req) := by
  unfold moveOutput
  (repeat' (first | with_reducible assumption | ((with_reducible apply quiet_side); rfl)
                  | with_reducible (first | apply Still_if | apply still_setCh | apply still_aimRails | apply still_connect
                                          | apply still_settleOpen | apply still_startRampDown | apply still_waitForRails)
                  | (with_reducible apply Still_foldl; intro _ _ _) | simp only [Still_mk, StillAt_self] | split | intro _))

theorem still_publishLimit {s : State} (c : Nat) (entry : Bool) (hKs : Still og s) : Still og (publishLimit s c entry) := by
  unfold publishLimit
  (repeat' (first | with_reducible assumption | (with_reducible apply quiet_side; rfl)
                  | with_reducible (first | apply Still_if | apply still_publish)
                  | (with_reducible apply Still_foldl; intro _ _ _) | simp only [Still_mk, StillAt_self] | split | intro _))

theorem still_pathsAfterRange {s : State} (c : Nat) (hKs : Still og s) : Still og (pathsAfterRange s c) := by
  unfold pathsAfterRange
  (repeat' (first | with_reducible assumption | (with_reducible apply quiet_side; rfl)
                  | with_reducible (first | apply Still_if | apply still_setCh)
                  | (with_reducible apply Still_foldl; intro _ _ _) | simp only [Still_mk, StillAt_self] | split | intro _))

theorem still_stepUp {s : State} (c : Nat) (hKs : Still og s) : Still og (stepUp s c) := by
  unfold stepUp
  (repeat' (first | with_reducible assumption | (with_reducible apply quiet_side; rfl)
                  | with_reducible (first | apply still_setCh | apply still_pathsAfterRange | apply still_restartAvg)))

theorem still_stepDown {s : State} (c : Nat) (hKs : Still og s) : Still og (stepDown s c) := by
  unfold stepDown
  (repeat' (first | with_reducible assumption | (with_reducible apply quiet_side; rfl)
                  | with_reducible (first | apply still_setCh | apply still_pathsAfterRange | apply still_restartAvg)))

theorem still_chainStep {s : State} (c : Nat) (hKs : Still og s) : Still og (chainStep s c) := by
  unfold chainStep
  (repeat' (first | with_reducible assumption | (with_reducible apply quiet_side; rfl)
                  | with_reducible (first | apply Still_if | apply still_stepDown | apply still_stepUp)
                  | (with_reducible apply Still_foldl; intro _ _ _) | simp only [Still_mk, StillAt_self] | split | intro _))

theorem still_resetCeiling {s : State} (c : Nat) (hKs : Still og s) : Still og (resetCeiling s c) := by
  exact hKs

theorem still_startHvRamps {s : State} (c : Nat) (hKs : Still og s) : Still og (startHvRamps s c) := by
  unfold startHvRamps
  (repeat' (first | with_reducible assumption | ((with_reducible apply quiet_side); rfl)
                  | with_reducible (first | apply still_put | apply still_setCh)))

theorem still_rangeV {s : State} (c : Nat) (keep : Bool) (hKs : Still og s) : Still og (rangeV s c keep) := by
  unfold rangeV
  (repeat' (first | with_reducible assumption | ((with_reducible apply quiet_side); rfl)
                  | with_reducible (first | apply Still_if | apply still_put | apply still_setCh | apply still_resetCeiling)
                  | (with_reducible apply Still_foldl; intro _ _ _) | simp only [Still_mk, StillAt_self] | split | intro _))

theorem still_rangeI {s : State} (c : Nat) (keep : Bool) (hKs : Still og s) : Still og (rangeI s c keep) := by
  unfold rangeI
  (repeat' (first | with_reducible assumption | ((with_reducible apply quiet_side); rfl)
                  | with_reducible (first | apply Still_if | apply still_cput | apply still_setCh | apply still_resetCeiling)
                  | (with_reducible apply Still_foldl; intro _ _ _) | simp only [Still_mk, StillAt_self] | split | intro _))

theorem still_takeOver {s : State} (c : Nat) (hKs : Still og s) : Still og (takeOver s c) := by
  unfold takeOver
  (repeat' (first | with_reducible assumption | ((with_reducible apply quiet_side); rfl)
                  | with_reducible (first | apply Still_if | apply still_setCh | apply still_setChState | apply still_aimRails
                                          | apply still_bandChanges | apply still_rangeI | apply still_rangeV
                                          | apply still_resetCeiling | apply still_restartAvg | apply still_settleFor
                                          | apply still_startHvRamps | apply still_waitForRails)
                  | (with_reducible apply Still_foldl; intro _ _ _) | simp only [Still_mk, StillAt_self] | split | intro _))



theorem still_setRegion {s : State} (h : Nat) (r : Option Region) (hKs : Still og s) : Still og (State.setRegion s h r) := by
  exact hKs

theorem still_setSlotState {s : State} (e k v : Nat) (hKs : Still og s) : Still og (State.setSlotState s e k v) := by
  unfold State.setSlotState
  (repeat' (first | with_reducible assumption | ((with_reducible apply quiet_side); rfl)
                  | with_reducible (first | apply still_wr)))

theorem still_setSlot {s : State} (e k : Nat) (v : SweSlot) (hKs : Still og s) : Still og (State.setSlot s e k v) := by
  unfold State.setSlot
  (repeat' (first | with_reducible assumption | ((with_reducible apply quiet_side); rfl)
                  | with_reducible (first | apply still_setEngine)))

theorem still_reportMem {s : State} (hKs : Still og s) : Still og (reportMem s) := by
  unfold reportMem
  (repeat' (first | with_reducible assumption | ((with_reducible apply quiet_side); rfl)
                  | with_reducible (first | apply still_put)))

theorem still_setStream {s : State} (n : Nat) (v : Stm) (hKs : Still og s) : Still og (State.setStream s n v) := by
  exact hKs

theorem still_loseIn {s : State} (n : Nat) (who : Option (Nat × Nat)) (time cause : Nat) (hKs : Still og s)
    : Still og (loseIn s n who time cause) := by
  unfold loseIn
  (repeat' (first | with_reducible assumption | ((with_reducible apply quiet_side); rfl)
                  | with_reducible (first | apply still_setStream)))

theorem still_loseAhead {s : State} (g : Nat) (who : Option (Nat × Nat)) (time : Nat) (hKs : Still og s)
    : Still og (loseAhead s g who time) := by
  unfold loseAhead
  (repeat' (first | with_reducible assumption | ((with_reducible apply quiet_side); rfl)
                  | with_reducible (first | apply Still_if | apply still_loseIn)
                  | (with_reducible apply Still_foldl; intro _ _ _) | simp only [Still_mk, StillAt_self] | split | intro _))

theorem still_pushStatus {s : State} (e : Nat) (q : Quad) (hKs : Still og s) : Still og (pushStatus s e q) := by
  unfold pushStatus
  (repeat' (first | with_reducible assumption | ((with_reducible apply quiet_side); rfl)
                  | with_reducible (first | apply Still_if | apply still_put | apply still_wr)
                  | (with_reducible apply Still_foldl; intro _ _ _) | simp only [Still_mk, StillAt_self] | split | intro _))

theorem still_recordStatus {s : State} (e : Nat) (q : Quad) (hKs : Still og s) : Still og (recordStatus s e q) := by
  unfold recordStatus
  (repeat' (first | with_reducible assumption | ((with_reducible apply quiet_side); rfl)
                  | with_reducible (first | apply Still_if | apply still_bump | apply still_setGroup | apply still_loseAhead
                                          | apply still_record) | (with_reducible apply Still_foldl; intro _ _ _)
                  | simp only [Still_mk, StillAt_self] | split | intro _))

theorem still_closeStatus {s : State} (e : Nat) (cut held aborted : Bool) (cutOfs : Nat) (hKs : Still og s)
    : Still og (closeStatus s e cut held aborted cutOfs) := by
  unfold closeStatus
  (repeat' (first | with_reducible assumption | ((with_reducible apply quiet_side); rfl)
                  | with_reducible (first | apply still_pushStatus | apply still_recordStatus)))

theorem still_own {s : State} (e k : Nat) (on : Bool) (hKs : Still og s) : Still og (own s e k on) := by
  unfold own
  (repeat' (first | with_reducible assumption | ((with_reducible apply quiet_side); rfl)
                  | with_reducible (first | apply Still_if | apply still_setCh)
                  | (with_reducible apply Still_foldl; intro _ _ _) | simp only [Still_mk, StillAt_self] | split | intro _))

theorem still_endAction {s : State} (e k : Nat) (hKs : Still og s) : Still og (endAction s e k) := by
  unfold endAction
  (repeat' (first | with_reducible assumption | ((with_reducible apply quiet_side); rfl)
                  | with_reducible (first | apply Still_if | apply still_cput | apply still_moveOutput)
                  | (with_reducible apply Still_foldl; intro _ _ _) | simp only [Still_mk, StillAt_self] | split | intro _))

theorem still_unreserve {s : State} (e k : Nat) (hKs : Still og s) : Still og (unreserve s e k) := by
  unfold unreserve
  (repeat' (first | with_reducible assumption | ((with_reducible apply quiet_side); rfl)
                  | with_reducible (first | apply still_setSlot | apply still_reportBudget)))

theorem still_applyTo {s : State} (off : Bool) (c : Nat) (q : Quad) (hKs : Still og s) : Still og (applyTo s off c q) := by
  unfold applyTo
  (repeat' (first | with_reducible assumption | ((with_reducible apply quiet_side); rfl)
                  | with_reducible (first | apply Still_if | apply still_cput | apply still_put | apply still_setCh
                                          | apply still_moveOutput | apply still_resetCeiling | apply still_restartAvg
                                          | apply still_takeOver | apply still_touch | apply still_waitForRails)
                  | (with_reducible apply Still_foldl; intro _ _ _) | simp only [Still_mk, StillAt_self] | split | intro _))

theorem still_applyPoint {s : State} (e : Nat) (hKs : Still og s) : Still og (applyPoint s e) := by
  unfold applyPoint
  (repeat' (first | with_reducible assumption | ((with_reducible apply quiet_side); rfl)
                  | with_reducible (first | apply Still_if | apply still_bump | apply still_publish | apply still_put
                                          | apply still_setCh | apply still_setEngine | apply still_setSlot
                                          | apply still_setSlotState | apply still_applyTo)
                  | (with_reducible apply Still_foldl; intro _ _ _) | simp only [Still_mk, StillAt_self] | split | intro _))

theorem still_pulseWrite {s : State} (c : Nat) (q : Quad) (fr : Nat) (force : Int) (limit : Nat) (hKs : Still og s)
    : Still og (pulseWrite s c q fr force limit) := by
  unfold pulseWrite
  (repeat' (first | with_reducible assumption | ((with_reducible apply quiet_side); rfl)
                  | with_reducible (first | apply Still_if | apply still_cput | apply still_setCh | apply still_resetCeiling
                                          | apply still_takeOver | apply still_touch)
                  | (with_reducible apply Still_foldl; intro _ _ _) | simp only [Still_mk, StillAt_self] | split | intro _))

theorem still_swapUp {s : State} (c : Nat) (hKs : Still og s) : Still og (swapUp s c) := by
  unfold swapUp
  (repeat' (first | with_reducible assumption | ((with_reducible apply quiet_side); rfl)
                  | with_reducible (first | apply Still_if | apply still_setCh | apply still_stepUp)
                  | (with_reducible apply Still_foldl; intro _ _ _) | simp only [Still_mk, StillAt_self] | split | intro _))

theorem still_swapDown {s : State} (c : Nat) (hKs : Still og s) : Still og (swapDown s c) := by
  unfold swapDown
  (repeat' (first | with_reducible assumption | ((with_reducible apply quiet_side); rfl)
                  | with_reducible (first | apply Still_if | apply still_setCh | apply still_stepDown)
                  | (with_reducible apply Still_foldl; intro _ _ _) | simp only [Still_mk, StillAt_self] | split | intro _))

theorem still_pulseOn {s : State} (e : Nat) (hKs : Still og s) : Still og (pulseOn s e) := by
  unfold pulseOn
  (repeat' (first | with_reducible assumption | ((with_reducible apply quiet_side); rfl)
                  | with_reducible (first | apply Still_if | apply still_setEngine | apply still_pulseWrite
                                          | apply still_swapUp) | (with_reducible apply Still_foldl; intro _ _ _)
                  | simp only [Still_mk, StillAt_self] | split | intro _))

theorem still_pulseOff {s : State} (e : Nat) (hKs : Still og s) : Still og (pulseOff s e) := by
  unfold pulseOff
  (repeat' (first | with_reducible assumption | ((with_reducible apply quiet_side); rfl)
                  | with_reducible (first | apply Still_if | apply still_setEngine | apply still_pulseWrite
                                          | apply still_swapDown) | (with_reducible apply Still_foldl; intro _ _ _)
                  | simp only [Still_mk, StillAt_self] | split | intro _))

theorem still_holdCause {s : State} (e : Nat) (x : Hold) (hKs : Still og s) : Still og (holdCause s e x) := by
  cases x <;> (unfold holdCause; (repeat' (first | with_reducible assumption | ((with_reducible apply quiet_side); rfl)
                                                 | with_reducible (first | apply Still_if | apply still_record)
                                                 | (with_reducible apply Still_foldl; intro _ _ _)
                                                 | simp only [Still_mk, StillAt_self] | split | intro _)))

theorem still_holdNow {s : State} (e : Nat) (why : List Hold) (hKs : Still og s) : Still og (holdNow s e why) := by
  unfold holdNow
  (repeat' (first | with_reducible assumption | ((with_reducible apply quiet_side); rfl)
                  | with_reducible (first | apply Still_if | apply still_put | apply still_setEngine
                                          | apply still_setSlotState | apply still_aimRails | apply still_holdCause)
                  | (with_reducible apply Still_foldl; intro _ _ _) | simp only [Still_mk, StillAt_self] | split | intro _))

theorem still_startPoint {s : State} (e i : Nat) (hKs : Still og s) : Still og (startPoint s e i) := by
  unfold startPoint
  (repeat' (first | with_reducible assumption | ((with_reducible apply quiet_side); rfl)
                  | with_reducible (first | apply Still_if | apply still_put | apply still_setEngine | apply still_setRegion
                                          | apply still_setSlotState | apply still_wr | apply still_aimRails
                                          | apply still_applyPoint | apply still_holdNow | apply still_record)
                  | (with_reducible apply Still_foldl; intro _ _ _) | simp only [Still_mk, StillAt_self] | split | intro _))

theorem still_beginPoint {s : State} (e i : Nat) (hKs : Still og s) : Still og (beginPoint s e i) := by
  unfold beginPoint
  (repeat' (first | with_reducible assumption | ((with_reducible apply quiet_side); rfl)
                  | with_reducible (first | apply Still_if | apply still_wr | apply still_holdNow | apply still_startPoint)
                  | (with_reducible apply Still_foldl; intro _ _ _) | simp only [Still_mk, StillAt_self] | split | intro _))

theorem still_eccHold {s : State} (e i : Nat) (hKs : Still og s) : Still og (eccHold s e i) := by
  unfold eccHold
  (repeat' (first | with_reducible assumption | ((with_reducible apply quiet_side); rfl)
                  | with_reducible (first | apply Still_if | apply still_setRegion | apply still_wr | apply still_holdNow
                                          | apply still_record) | (with_reducible apply Still_foldl; intro _ _ _)
                  | simp only [Still_mk, StillAt_self] | split | intro _))

theorem still_loopEntry {s : State} (e k : Nat) (q : Quad) (i : Nat) (hKs : Still og s) :
    Still og (loopEntry s e k q i).2 := by
  have hp : ∀ n, quietBlk ([SWE.LOOP_CTR0, SWE.LOOP_CTR1, SWE.LOOP_CTR2, SWE.LOOP_CTR3].getD n SWE.LOOP_CTR0).blk = false :=
      by
    intro n
    match n with
    | 0 => rfl
    | 1 => rfl
    | 2 => rfl
    | 3 => rfl
    | n + 4 => rfl
  unfold loopEntry
  simp only []
  repeat' split
  all_goals repeat' first
    | exact hKs
    | apply still_setSlot
    | apply still_wr (hq := hp _)

theorem still_controlStep {s : State} (e k i : Nat) (q : Quad) (hKs : Still og s) : Still og (controlStep s e k i q).2 := by
  unfold controlStep
  (repeat' (first | with_reducible assumption | ((with_reducible apply quiet_side); rfl)
                  | with_reducible (first | apply Still_if | apply still_wrEff | apply still_loopEntry)
                  | (with_reducible apply Still_foldl; intro _ _ _) | simp only [Still_mk, StillAt_self] | split | intro _
                  | refine Still.snd ?_ (by assumption)))

/-- Where a walk ends, a state is still. -/
def StillWalk (og : State) : Walk → Prop
  | .point _ s => Still og s
  | .bad _ s => Still og s
  | .ended s => Still og s
  | .tooMany s => Still og s

theorem still_walk (e k n i : Nat) {s : State} (hKs : Still og s) : StillWalk og (walk e k n i s) := by
  induction n generalizing i s with
  | zero => exact hKs
  | succ n ih =>
    have hc := still_controlStep (og := og) e k i (entryAt s (s.slotRd SWE.REGION e k) i) hKs
    simp only [walk]
    split
    · exact hKs
    · split
      · split
        · exact Still.snd hc (by assumption)
        · exact ih _ (Still.snd hc (by assumption))
      · exact hKs

theorem still_leave {s : State} (e k st : Nat) (hKs : Still og s) : Still og (leave s e k st) := by
  unfold leave
  (repeat' (first | with_reducible assumption | ((with_reducible apply quiet_side); rfl)
                  | with_reducible (first | apply Still_if | apply still_put | apply still_setCh | apply still_setEngine
                                          | apply still_setSlot | apply still_setSlotState | apply still_aimRails)
                  | (with_reducible apply Still_foldl; intro _ _ _) | simp only [Still_mk, StillAt_self] | split | intro _))

theorem still_enterSlot {s : State} (e k : Nat) (hKs : Still og s) : Still og (enterSlot s e k).1 := by
  unfold enterSlot
  (repeat' (first | with_reducible assumption | ((with_reducible apply quiet_side); rfl)
                  | with_reducible (first | apply Still_if | apply still_put | apply still_setEngine | apply still_setSlot
                                          | apply still_setSlotState | apply still_applyTo | apply still_own)
                  | (with_reducible apply Still_foldl; intro _ _ _) | simp only [Still_mk, StillAt_self] | split | intro _))

theorem still_takeControl_finishProgram {s : State} (e k : Nat) (hKs : Still og s)
    : Still og (takeControl.finishProgram s e k) := by
  unfold takeControl.finishProgram
  (repeat' (first | with_reducible assumption | ((with_reducible apply quiet_side); rfl)
                  | with_reducible (first | apply still_publish | apply still_endAction | apply still_leave | apply still_own
                                          | apply still_unreserve)))

theorem still_takeControl_abortControl {s : State} (e k : Nat) (hKs : Still og s)
    : Still og (takeControl.abortControl s e k) := by
  unfold takeControl.abortControl
  (repeat' (first | with_reducible assumption | ((with_reducible apply quiet_side); rfl)
                  | with_reducible (first | apply Still_if | apply still_closeStatus | apply still_endAction
                                          | apply still_leave | apply still_own | apply still_pulseOff
                                          | apply still_unreserve) | (with_reducible apply Still_foldl; intro _ _ _)
                  | simp only [Still_mk, StillAt_self] | split | intro _))

theorem still_takeControl (e n : Nat) {s : State} (hKs : Still og s) : Still og (takeControl e n s) := by
  induction n generalizing s with
  | zero => exact hKs
  | succ n ih =>
    simp only [takeControl]
    split
    · exact hKs
    · rename_i k _
      have h := still_enterSlot e k hKs
      have hw := still_walk (og := og) e k 16 (enterSlot s e k).2.1 h
      split
      · exact still_eccHold _ _ h
      · split <;> rename_i heq <;> rw [heq] at hw
        · exact still_beginPoint _ _ hw
        · exact still_eccHold _ _ hw
        · exact ih (still_takeControl_finishProgram _ _ hw)
        · exact ih (still_takeControl_abortControl _ _ (still_record _ _ _ _ hw))

theorem still_freeEngine {s : State} (e : Nat) (hKs : Still og s) : Still og (freeEngine s e) := by
  unfold freeEngine
  (repeat' (first | with_reducible assumption | ((with_reducible apply quiet_side); rfl)
                  | with_reducible (first | apply Still_if | apply still_takeControl)
                  | (with_reducible apply Still_foldl; intro _ _ _) | simp only [Still_mk, StillAt_self] | split | intro _))

theorem still_abortSlot {s : State} (e k : Nat) (hKs : Still og s) : Still og (abortSlot s e k) := by
  unfold abortSlot
  exact Still_if (still_setSlot _ _ _ hKs) (Still_if (still_freeEngine _ (still_takeControl_abortControl _ _ hKs))
      (still_unreserve _ _ (still_setSlotState _ _ _ hKs)))

theorem still_abortSlots {s : State} (e : Nat) (ks : List Nat) (hKs : Still og s) : Still og (abortSlots s e ks) := by
  unfold abortSlots
  (repeat' (first | with_reducible assumption | ((with_reducible apply quiet_side); rfl)
                  | with_reducible (first | apply Still_if | apply still_abortSlot)
                  | (with_reducible apply Still_foldl; intro _ _ _) | simp only [Still_mk, StillAt_self] | split | intro _))

theorem still_abortEngine {s : State} (e : Nat) (hKs : Still og s) : Still og (abortEngine s e) := by
  unfold abortEngine
  (repeat' (first | with_reducible assumption | ((with_reducible apply quiet_side); rfl)
                  | with_reducible (first | apply still_abortSlots)))

theorem still_proceed {s : State} (e k i : Nat) (hKs : Still og s) : Still og (proceed s e k i) := by
  have h := still_walk (og := og) e k 16 i hKs
  unfold proceed
  split <;> rename_i heq <;> rw [heq] at h
  · exact still_beginPoint _ _ h
  · exact still_eccHold _ _ h
  · exact still_freeEngine _ (still_takeControl_finishProgram _ _ h)
  · exact still_freeEngine _ (still_takeControl_abortControl _ _ (still_record _ _ _ _ h))

theorem still_requestHold {s : State} (e : Nat) (why : Hold) (hKs : Still og s) : Still og (requestHold s e why) := by
  unfold requestHold
  (repeat' (first | with_reducible assumption | ((with_reducible apply quiet_side); rfl)
                  | with_reducible (first | apply Still_if | apply still_setEngine | apply still_wr | apply still_holdCause
                                          | apply still_holdNow) | (with_reducible apply Still_foldl; intro _ _ _)
                  | simp only [Still_mk, StillAt_self] | split | intro _))

theorem still_preempt {s : State} (e next : Nat) (hKs : Still og s) : Still og (preempt s e next) := by
  unfold preempt
  (repeat' (first | with_reducible assumption | ((with_reducible apply quiet_side); rfl)
                  | with_reducible (first | apply still_wr | apply still_freeEngine | apply still_leave | apply still_own)))

theorem still_resumeSlot {s : State} (e : Nat) (hKs : Still og s) : Still og (resumeSlot s e) := by
  unfold resumeSlot
  (repeat' (first | with_reducible assumption | ((with_reducible apply quiet_side); rfl)
                  | with_reducible (first | apply Still_if | apply still_put | apply still_setEngine
                                          | apply still_setSlotState | apply still_preempt | apply still_proceed)
                  | (with_reducible apply Still_foldl; intro _ _ _) | simp only [Still_mk, StillAt_self] | split | intro _))

theorem still_endPoint {s : State} (e : Nat) (hKs : Still og s) : Still og (endPoint s e) := by
  unfold endPoint
  (repeat' (first | with_reducible assumption | ((with_reducible apply quiet_side); rfl)
                  | with_reducible (first | apply Still_if | apply still_publish | apply still_setEngine | apply still_wr
                                          | apply still_bringForward | apply still_closeStatus | apply still_holdNow
                                          | apply still_preempt | apply still_proceed | apply still_pulseOff
                                          | apply still_record) | (with_reducible apply Still_foldl; intro _ _ _)
                  | simp only [Still_mk, StillAt_self] | split | intro _))

theorem still_abandonAz {s : State} (g : Nat) (hKs : Still og s) : Still og (abandonAz s g) := by
  unfold abandonAz
  (repeat' (first | with_reducible assumption | ((with_reducible apply quiet_side); rfl)
                  | with_reducible (first | apply Still_if | apply still_bump | apply still_draw | apply still_setGroup)
                  | (with_reducible apply Still_foldl; intro _ _ _) | simp only [Still_mk, StillAt_self] | split | intro _
                  | refine Still.snd ?_ (by assumption)))

theorem still_bringForward {s : State} (e : Nat) (hKs : Still og s) : Still og (bringForward s e) := by
  unfold bringForward
  (repeat' (first | with_reducible assumption | ((with_reducible apply quiet_side); rfl)
                  | with_reducible (first | apply Still_if | apply still_abandonAz)
                  | (with_reducible apply Still_foldl; intro _ _ _) | simp only [Still_mk, StillAt_self] | split | intro _))

theorem still_tripAction {s : State} (c : Nat) (hKs : Still og s) : Still og (tripAction s c) := by
  unfold tripAction
  (repeat' (first | with_reducible assumption | ((with_reducible apply quiet_side); rfl)
                  | with_reducible (first | apply Still_if | apply still_setEngine | apply still_abortSlot
                                          | apply still_bringForward | apply still_record | apply still_requestHold)
                  | (with_reducible apply Still_foldl; intro _ _ _) | simp only [Still_mk, StillAt_self] | split | intro _))

theorem still_setPin {s : State} (n : Nat) (v : PinRun) (hKs : Still og s) : Still og (State.setPin s n v) := by
  exact hKs

theorem still_setSequencer {s : State} (d : Nat) (v : Seq) (hKs : Still og s) : Still og (State.setSequencer s d v) := by
  exact hKs

theorem still_enterPin {s : State} (n st : Nat) (hKs : Still og s) : Still og (enterPin s n st) := by
  unfold enterPin
  (repeat' (first | with_reducible assumption | ((with_reducible apply quiet_side); rfl)
                  | with_reducible (first | apply still_put | apply still_setPin)))

theorem still_pinFault {s : State} (n : Nat) (hKs : Still og s) : Still og (pinFault s n) := by
  unfold pinFault
  (repeat' (first | with_reducible assumption | ((with_reducible apply quiet_side); rfl)
                  | with_reducible (first | apply still_put | apply still_setPin)))

theorem still_pinRecovers {s : State} (n : Nat) (hKs : Still og s) : Still og (pinRecovers s n) := by
  unfold pinRecovers
  (repeat' (first | with_reducible assumption | ((with_reducible apply quiet_side); rfl)
                  | with_reducible (first | apply Still_if | apply still_enterPin)
                  | (with_reducible apply Still_foldl; intro _ _ _) | simp only [Still_mk, StillAt_self] | split | intro _))

theorem still_parkPin (word : Nat) {s : State} (n : Nat) (hKs : Still og s) : Still og (parkPin word s n) := by
  unfold parkPin
  (repeat' (first | with_reducible assumption | ((with_reducible apply quiet_side); rfl)
                  | with_reducible (first | apply Still_if | apply still_put | apply still_setPin)
                  | (with_reducible apply Still_foldl; intro _ _ _) | simp only [Still_mk, StillAt_self] | split | intro _))

theorem still_reactPark (word : Nat) {s : State} (n : Nat) (hKs : Still og s) : Still og (reactPark word s n) := by
  unfold reactPark
  (repeat' (first | with_reducible assumption | ((with_reducible apply quiet_side); rfl)
                  | with_reducible (first | apply Still_if | apply still_put | apply still_setPin | apply still_parkPin)
                  | (with_reducible apply Still_foldl; intro _ _ _) | simp only [Still_mk, StillAt_self] | split | intro _))

theorem still_galeForced {s : State} (d : Nat) (force : Bool) (hKs : Still og s) : Still og (galeForced s d force) := by
  unfold galeForced
  (repeat' (first | with_reducible assumption | ((with_reducible apply quiet_side); rfl)
                  | with_reducible (first | apply Still_if | apply still_modeChanges)
                  | (with_reducible apply Still_foldl; intro _ _ _) | simp only [Still_mk, StillAt_self] | split | intro _))

theorem still_galeDone {s : State} (d : Nat) (hKs : Still og s) : Still og (galeDone s d) := by
  unfold galeDone
  (repeat' (first | with_reducible assumption | ((with_reducible apply quiet_side); rfl)
                  | with_reducible (first | apply Still_if | apply still_setComp)
                  | (with_reducible apply Still_foldl; intro _ _ _) | simp only [Still_mk, StillAt_self] | split | intro _))

theorem still_setSeqSlot {s : State} (d k st : Nat) (hKs : Still og s) : Still og (State.setSeqSlot s d k st) := by
  unfold State.setSeqSlot
  (repeat' (first | with_reducible assumption | ((with_reducible apply quiet_side); rfl)
                  | with_reducible (first | apply still_wr)))

theorem still_parkPins {s : State} (d set : Nat) (hKs : Still og s) : Still og (parkPins s d set) := by
  unfold parkPins
  (repeat' (first | with_reducible assumption | ((with_reducible apply quiet_side); rfl)
                  | with_reducible (first | apply Still_if | apply still_setSequencer | apply still_parkPin)
                  | (with_reducible apply Still_foldl; intro _ _ _) | simp only [Still_mk, StillAt_self] | split | intro _))

theorem still_staticPins {s : State} (d : Nat) (hKs : Still og s) : Still og (staticPins s d) := by
  unfold staticPins
  (repeat' (first | with_reducible assumption | ((with_reducible apply quiet_side); rfl)
                  | with_reducible (first | apply Still_if | apply still_setSequencer | apply still_enterPin)
                  | (with_reducible apply Still_foldl; intro _ _ _) | simp only [Still_mk, StillAt_self] | split | intro _))

theorem still_finishAll {s : State} (d : Nat) (hKs : Still og s) : Still og (finishAll s d) := by
  unfold finishAll
  (repeat' (first | with_reducible assumption | ((with_reducible apply quiet_side); rfl)
                  | with_reducible (first | apply Still_if | apply still_setSeqSlot | apply still_setSequencer)
                  | (with_reducible apply Still_foldl; intro _ _ _) | simp only [Still_mk, StillAt_self] | split | intro _))

theorem still_dropMarks {s : State} (d t : Nat) (hKs : Still og s) : Still og (dropMarks s d t) := by
  exact hKs

theorem still_cutVector {s : State} (d : Nat) (hKs : Still og s) : Still og (cutVector s d) := by
  unfold cutVector
  (repeat' (first | with_reducible assumption | ((with_reducible apply quiet_side); rfl)
                  | with_reducible (first | apply Still_if | apply still_dropMarks)
                  | (with_reducible apply Still_foldl; intro _ _ _) | simp only [Still_mk, StillAt_self] | split | intro _))

theorem still_applyTs {s : State} (d : Nat) (sets : List (Nat × Ts)) (hKs : Still og s) : Still og (applyTs s d sets) := by
  unfold applyTs
  (repeat' (first | with_reducible assumption | ((with_reducible apply quiet_side); rfl)
                  | with_reducible (first | apply still_setSequencer)))

theorem still_commitSets (d : Nat) {s : State} (ks : List Nat) (hKs : Still og s) : Still og (commitSets d s ks) := by
  unfold commitSets
  (repeat' (first | with_reducible assumption | ((with_reducible apply quiet_side); rfl)
                  | with_reducible (first | apply Still_if | apply still_applyTs)
                  | (with_reducible apply Still_foldl; intro _ _ _) | simp only [Still_mk, StillAt_self] | split | intro _))

theorem still_stopCommits {s : State} (d : Nat) (hKs : Still og s) : Still og (stopCommits s d) := by
  unfold stopCommits
  (repeat' (first | with_reducible assumption | ((with_reducible apply quiet_side); rfl)
                  | with_reducible (first | apply Still_if | apply still_setSequencer | apply still_commitSets)
                  | (with_reducible apply Still_foldl; intro _ _ _) | simp only [Still_mk, StillAt_self] | split | intro _))

theorem still_enterParked {s : State} (d cause : Nat) (hKs : Still og s) : Still og (enterParked s d cause) := by
  unfold enterParked
  (repeat' (first | with_reducible assumption | ((with_reducible apply quiet_side); rfl)
                  | with_reducible (first | apply still_put | apply still_setSequencer | apply still_parkPins
                                          | apply still_stopCommits)))

theorem still_parkSeq {s : State} (d cause : Nat) (hKs : Still og s) : Still og (parkSeq s d cause) := by
  unfold parkSeq
  (repeat' (first | with_reducible assumption | ((with_reducible apply quiet_side); rfl)
                  | with_reducible (first | apply still_enterParked | apply still_finishAll)))

theorem still_parkIfBusy (cause : Nat) {s : State} (d : Nat) (hKs : Still og s) : Still og (parkIfBusy cause s d) := by
  unfold parkIfBusy
  (repeat' (first | with_reducible assumption | ((with_reducible apply quiet_side); rfl)
                  | with_reducible (first | apply Still_if | apply still_parkSeq)
                  | (with_reducible apply Still_foldl; intro _ _ _) | simp only [Still_mk, StillAt_self] | split | intro _))

theorem still_guardPark {s : State} (hKs : Still og s) : Still og (guardPark s) := by
  unfold guardPark
  (repeat' (first | with_reducible assumption | ((with_reducible apply quiet_side); rfl)
                  | with_reducible (first | apply Still_if | apply still_cutVector | apply still_parkSeq | apply still_record)
                  | (with_reducible apply Still_foldl; intro _ _ _) | simp only [Still_mk, StillAt_self] | split | intro _))

theorem still_holdHit {s : State} (d : Nat) (x : SeqHold) (hKs : Still og s) : Still og (holdHit s d x) := by
  cases x <;> (unfold holdHit; (repeat' (first | with_reducible assumption | ((with_reducible apply quiet_side); rfl)
                                               | with_reducible (first | apply Still_if | apply still_record)
                                               | (with_reducible apply Still_foldl; intro _ _ _)
                                               | simp only [Still_mk, StillAt_self] | split | intro _)))

theorem still_holdSeq {s : State} (d : Nat) (why : SeqHold) (hKs : Still og s) : Still og (holdSeq s d why) := by
  unfold holdSeq
  (repeat' (first | with_reducible assumption | ((with_reducible apply quiet_side); rfl)
                  | with_reducible (first | apply Still_if | apply still_setSequencer | apply still_holdHit)
                  | (with_reducible apply Still_foldl; intro _ _ _) | simp only [Still_mk, StillAt_self] | split | intro _))

theorem still_resumeSeq {s : State} (d : Nat) (hKs : Still og s) : Still og (resumeSeq s d) := by
  unfold resumeSeq
  (repeat' (first | with_reducible assumption | ((with_reducible apply quiet_side); rfl)
                  | with_reducible (first | apply still_put | apply still_setSeqSlot | apply still_setSequencer)))

theorem still_releaseSeq {s : State} (d : Nat) (why : SeqHold) (hKs : Still og s) : Still og (releaseSeq s d why) := by
  unfold releaseSeq
  (repeat' (first | with_reducible assumption | ((with_reducible apply quiet_side); rfl)
                  | with_reducible (first | apply Still_if | apply still_setSequencer | apply still_resumeSeq)
                  | (with_reducible apply Still_foldl; intro _ _ _) | simp only [Still_mk, StillAt_self] | split | intro _))

theorem still_seqSource {s : State} (d : Nat) (on : Bool) (hKs : Still og s) : Still og (seqSource s d on) := by
  unfold seqSource
  (repeat' (first | with_reducible assumption | ((with_reducible apply quiet_side); rfl)
                  | with_reducible (first | apply Still_if | apply still_holdSeq | apply still_releaseSeq)
                  | (with_reducible apply Still_foldl; intro _ _ _) | simp only [Still_mk, StillAt_self] | split | intro _))

theorem still_seqControl {s : State} (d k seg pass : Nat) (hKs : Still og s) : Still og (seqControl s d k seg pass) := by
  unfold seqControl
  (repeat' (first | with_reducible assumption | ((with_reducible apply quiet_side); rfl)
                  | with_reducible (first | apply still_put | apply still_setSeqSlot | apply still_setSequencer)))

theorem still_goOn {s : State} (d k : Nat) (hKs : Still og s) : Still og (goOn s d k) := by
  unfold goOn
  (repeat' (first | with_reducible assumption | ((with_reducible apply quiet_side); rfl)
                  | with_reducible (first | apply Still_if | apply still_put | apply still_setSequencer | apply still_parkPins
                                          | apply still_seqControl) | (with_reducible apply Still_foldl; intro _ _ _)
                  | simp only [Still_mk, StillAt_self] | split | intro _))

theorem still_endProgram {s : State} (d cause : Nat) (hKs : Still og s) : Still og (endProgram s d cause) := by
  unfold endProgram
  (repeat' (first | with_reducible assumption | ((with_reducible apply quiet_side); rfl)
                  | with_reducible (first | apply Still_if | apply still_publish | apply still_setSeqSlot
                                          | apply still_enterParked | apply still_goOn)
                  | (with_reducible apply Still_foldl; intro _ _ _) | simp only [Still_mk, StillAt_self] | split | intro _))

theorem still_seqToIdle {s : State} (d : Nat) (hKs : Still og s) : Still og (seqToIdle s d) := by
  unfold seqToIdle
  (repeat' (first | with_reducible assumption | ((with_reducible apply quiet_side); rfl)
                  | with_reducible (first | apply Still_if | apply still_put | apply still_setSeqSlot
                                          | apply still_setSequencer | apply still_galeForced | apply still_staticPins
                                          | apply still_stopCommits) | (with_reducible apply Still_foldl; intro _ _ _)
                  | simp only [Still_mk, StillAt_self] | split | intro _))

theorem still_prime {s : State} (d : Nat) (auto : Bool) (seg : Nat) (hKs : Still og s) : Still og (prime s d auto seg) := by
  unfold prime
  (repeat' (first | with_reducible assumption | ((with_reducible apply quiet_side); rfl)
                  | with_reducible (first | apply Still_if | apply still_put | apply still_setSequencer
                                          | apply still_galeForced) | (with_reducible apply Still_foldl; intro _ _ _)
                  | simp only [Still_mk, StillAt_self] | split | intro _))

theorem still_holdSources_releaseSource {s : State} (e : Nat) (hKs : Still og s)
    : Still og (holdSources.releaseSource s e) := by
  unfold holdSources.releaseSource
  (repeat' (first | with_reducible assumption | ((with_reducible apply quiet_side); rfl)
                  | with_reducible (first | apply Still_if | apply still_setEngine | apply still_resumeSlot)
                  | (with_reducible apply Still_foldl; intro _ _ _) | simp only [Still_mk, StillAt_self] | split | intro _))

theorem still_holdSources {s : State} (n : Nat) (on : Bool) (hKs : Still og s) : Still og (holdSources s n on) := by
  unfold holdSources
  (repeat' (first | with_reducible assumption | ((with_reducible apply quiet_side); rfl)
                  | with_reducible (first | apply Still_if | apply still_setEngine | apply still_holdSources_releaseSource
                                          | apply still_requestHold | apply still_resumeSlot | apply still_seqSource)
                  | (with_reducible apply Still_foldl; intro _ _ _) | simp only [Still_mk, StillAt_self] | split | intro _))

theorem still_becalm {s : State} (n : Nat) (hKs : Still og s) : Still og (becalm s n) := by
  unfold becalm
  (repeat' (first | with_reducible assumption | ((with_reducible apply quiet_side); rfl)
                  | with_reducible (first | apply Still_if | apply still_publish | apply still_put | apply still_holdSources
                                          | apply still_record) | (with_reducible apply Still_foldl; intro _ _ _)
                  | simp only [Still_mk, StillAt_self] | split | intro _))

theorem still_unbecalm {s : State} (n : Nat) (hKs : Still og s) : Still og (unbecalm s n) := by
  unfold unbecalm
  (repeat' (first | with_reducible assumption | ((with_reducible apply quiet_side); rfl)
                  | with_reducible (first | apply Still_if | apply still_put | apply still_holdSources)
                  | (with_reducible apply Still_foldl; intro _ _ _) | simp only [Still_mk, StillAt_self] | split | intro _))

theorem still_becalmedCheck {s : State} (n : Nat) (hKs : Still og s) : Still og (becalmedCheck s n) := by
  unfold becalmedCheck
  (repeat' (first | with_reducible assumption | ((with_reducible apply quiet_side); rfl)
                  | with_reducible (first | apply Still_if | apply still_unbecalm)
                  | (with_reducible apply Still_foldl; intro _ _ _) | simp only [Still_mk, StillAt_self] | split | intro _))

theorem still_freeSlot {s : State} (n : Nat) (hKs : Still og s) : Still og (freeSlot s n) := by
  unfold freeSlot
  (repeat' (first | with_reducible assumption | ((with_reducible apply quiet_side); rfl)
                  | with_reducible (first | apply still_put | apply still_becalmedCheck)))

theorem still_loseBlock {s : State} (n : Nat) (b : Closed) (hKs : Still og s) : Still og (loseBlock s n b) := by
  unfold loseBlock
  (repeat' (first | with_reducible assumption | ((with_reducible apply quiet_side); rfl)
                  | with_reducible (first | apply Still_if | apply still_freeSlot | apply still_loseIn | apply still_record)
                  | (with_reducible apply Still_foldl; intro _ _ _) | simp only [Still_mk, StillAt_self] | split | intro _))

theorem still_closeBlock {s : State} (n reason : Nat) (hKs : Still og s) : Still og (closeBlock s n reason) := by
  unfold closeBlock
  (repeat' (first | with_reducible assumption | ((with_reducible apply quiet_side); rfl)
                  | with_reducible (first | apply Still_if | apply still_setStream | apply still_tally
                                          | apply still_loseBlock) | (with_reducible apply Still_foldl; intro _ _ _)
                  | simp only [Still_mk, StillAt_self] | split | intro _))

theorem still_openBlock {s : State} (n time : Nat) (hKs : Still og s) : Still og (openBlock s n time) := by
  unfold openBlock
  (repeat' (first | with_reducible assumption | ((with_reducible apply quiet_side); rfl)
                  | with_reducible (first | apply Still_if | apply still_bump | apply still_publish | apply still_setStream
                                          | apply still_becalm) | (with_reducible apply Still_foldl; intro _ _ _)
                  | simp only [Still_mk, StillAt_self] | split | intro _))

theorem still_dropRecord {s : State} (n : Nat) (h : Held) (hKs : Still og s) : Still og (dropRecord s n h) := by
  unfold dropRecord
  (repeat' (first | with_reducible assumption | ((with_reducible apply quiet_side); rfl)
                  | with_reducible (first | apply still_bump | apply still_loseIn | apply still_recordHits)))

theorem still_putRecord {s : State} (n : Nat) (h : Held) (hKs : Still og s) : Still og (putRecord s n h) := by
  unfold putRecord
  (repeat' (first | with_reducible assumption | ((with_reducible apply quiet_side); rfl)
                  | with_reducible (first | apply Still_if | apply still_setStream | apply still_closeBlock)
                  | (with_reducible apply Still_foldl; intro _ _ _) | simp only [Still_mk, StillAt_self] | split | intro _))

theorem still_place {s : State} (n : Nat) (h : Held) (hKs : Still og s) : Still og (place s n h) := by
  unfold place
  (repeat' (first | with_reducible assumption | ((with_reducible apply quiet_side); rfl)
                  | with_reducible (first | apply Still_if | apply still_closeBlock | apply still_dropRecord
                                          | apply still_openBlock | apply still_putRecord)
                  | (with_reducible apply Still_foldl; intro _ _ _) | simp only [Still_mk, StillAt_self] | split | intro _))

theorem still_closeForGroup {s : State} (g : Nat) (hKs : Still og s) : Still og (closeForGroup s g) := by
  unfold closeForGroup
  (repeat' (first | with_reducible assumption | ((with_reducible apply quiet_side); rfl)
                  | with_reducible (first | apply Still_if | apply still_closeBlock)
                  | (with_reducible apply Still_foldl; intro _ _ _) | simp only [Still_mk, StillAt_self] | split | intro _))

theorem still_closeAll {s : State} (reason : Nat) (hKs : Still og s) : Still og (closeAll s reason) := by
  unfold closeAll
  (repeat' (first | with_reducible assumption | ((with_reducible apply quiet_side); rfl)
                  | with_reducible (first | apply Still_if | apply still_closeBlock)
                  | (with_reducible apply Still_foldl; intro _ _ _) | simp only [Still_mk, StillAt_self] | split | intro _))

theorem still_readErrorBit {s : State} (media : Bool) (hKs : Still og s) : Still og (readErrorBit s media).2 := by
  unfold readErrorBit
  (repeat' (first | with_reducible assumption | ((with_reducible apply quiet_side); rfl)
                  | with_reducible (first | apply still_draw)))

theorem still_request {s : State} (ctx : Nat) (o : Out) (hKs : Still og s) : Still og (State.request s ctx o) := by
  unfold State.request
  (repeat' (first | with_reducible assumption | ((with_reducible apply quiet_side); rfl)
                  | with_reducible (first | apply still_emit)))

theorem still_postNotice {s : State} (n status addr : Nat) (hKs : Still og s) : Still og (postNotice s n status addr) := by
  unfold postNotice
  (repeat' (first | with_reducible assumption | ((with_reducible apply quiet_side); rfl)
                  | with_reducible (first | apply Still_if | apply still_complete | apply still_frameTo
                                          | apply still_setStream) | (with_reducible apply Still_foldl; intro _ _ _)
                  | simp only [Still_mk, StillAt_self] | split | intro _))

theorem still_answerRetries {s : State} (n status : Nat) (hKs : Still og s) : Still og (answerRetries s n status) := by
  unfold answerRetries
  (repeat' (first | with_reducible assumption | ((with_reducible apply quiet_side); rfl)
                  | with_reducible (first | apply Still_if | apply still_complete | apply still_setStream)
                  | (with_reducible apply Still_foldl; intro _ _ _) | simp only [Still_mk, StillAt_self] | split | intro _))

theorem still_parkStream {s : State} (n addr : Nat) (k : HostFault) (inj : Bool) (hKs : Still og s)
    : Still og (parkStream s n addr k inj) := by
  unfold parkStream
  (repeat' (first | with_reducible assumption | ((with_reducible apply quiet_side); rfl)
                  | with_reducible (first | apply Still_if | apply still_put | apply still_setStream
                                          | apply still_answerRetries | apply still_postNotice | apply still_record)
                  | (with_reducible apply Still_foldl; intro _ _ _) | simp only [Still_mk, StillAt_self] | split | intro _))

theorem still_flushCheck {s : State} (n status : Nat) (hKs : Still og s) : Still og (flushCheck s n status) := by
  unfold flushCheck
  (repeat' (first | with_reducible assumption | ((with_reducible apply quiet_side); rfl)
                  | with_reducible (first | apply Still_if | apply still_complete | apply still_setStream)
                  | (with_reducible apply Still_foldl; intro _ _ _) | simp only [Still_mk, StillAt_self] | split | intro _))

theorem still_endStop {s : State} (n status : Nat) (hKs : Still og s) : Still og (endStop s n status) := by
  unfold endStop
  (repeat' (first | with_reducible assumption | ((with_reducible apply quiet_side); rfl)
                  | with_reducible (first | apply Still_if | apply still_complete | apply still_put | apply still_setStream
                                          | apply still_answerRetries | apply still_flushCheck)
                  | (with_reducible apply Still_foldl; intro _ _ _) | simp only [Still_mk, StillAt_self] | split | intro _))

theorem still_stopCheck {s : State} (n : Nat) (hKs : Still og s) : Still og (stopCheck s n) := by
  unfold stopCheck
  (repeat' (first | with_reducible assumption | ((with_reducible apply quiet_side); rfl)
                  | with_reducible (first | apply Still_if | apply still_endStop)
                  | (with_reducible apply Still_foldl; intro _ _ _) | simp only [Still_mk, StillAt_self] | split | intro _))

theorem still_unpark {s : State} (n : Nat) (hKs : Still og s) : Still og (unpark s n) := by
  unfold unpark
  (repeat' (first | with_reducible assumption | ((with_reducible apply quiet_side); rfl)
                  | with_reducible (first | apply still_put | apply still_setStream | apply still_answerRetries
                                          | apply still_stopCheck)))

theorem still_takeStop {s : State} (n : Nat) (hKs : Still og s) : Still og (takeStop s n) := by
  unfold takeStop
  (repeat' (first | with_reducible assumption | ((with_reducible apply quiet_side); rfl)
                  | with_reducible (first | apply Still_if | apply still_put | apply still_setStream | apply still_closeBlock
                                          | apply still_endStop | apply still_stopCheck | apply still_unbecalm)
                  | (with_reducible apply Still_foldl; intro _ _ _) | simp only [Still_mk, StillAt_self] | split | intro _))

theorem still_startXfer {s : State} (x : Xfer) (hKs : Still og s) : Still og (startXfer s x) := by
  cases x <;> (unfold startXfer; (repeat' (first | with_reducible assumption | ((with_reducible apply quiet_side); rfl)
                                                 | with_reducible (first | apply Still_if)
                                                 | (with_reducible apply Still_foldl; intro _ _ _)
                                                 | simp only [Still_mk, StillAt_self] | split | intro _)))

theorem still_xferEnds {s : State} (src : Src) (tag : Nat) (x : XferEnd) (hKs : Still og s)
    : Still og (xferEnds s src tag x) := by
  cases x <;> (unfold xferEnds; (repeat' (first | with_reducible assumption | ((with_reducible apply quiet_side); rfl)
                                                | with_reducible (first | apply Still_if | apply still_complete
                                                                        | apply still_setCu)
                                                | (with_reducible apply Still_foldl; intro _ _ _)
                                                | simp only [Still_mk, StillAt_self] | split | intro _)))

theorem still_hostPut {s : State} (p : Pkt) (addr : Nat) (ws : List Nat) (fin : XferEnd) (hKs : Still og s)
    : StillRes og (hostPut s p addr ws fin) := by
  unfold hostPut
  (repeat' (first | with_reducible assumption | ((with_reducible apply quiet_side); rfl)
                  | with_reducible (first | apply Still_if | apply StillRes_if | apply still_startXfer)
                  | (with_reducible apply Still_foldl; intro _ _ _)
                  | simp only [Still_mk, StillAt_self, StillRes_done, StillRes_later] | split | intro _))

theorem still_hlCause {s : State} (code : Nat) (hKs : Still og s) : Still og (hlCause s code) := by
  unfold hlCause
  (repeat' (first | with_reducible assumption | ((with_reducible apply quiet_side); rfl)
                  | with_reducible (first | apply still_record)))

theorem still_tripGroup {s : State} (c : Nat) (h : Hit) (hKs : Still og s) : Still og (tripGroup s c h) := by
  unfold tripGroup
  (repeat' (first | with_reducible assumption | ((with_reducible apply quiet_side); rfl)
                  | with_reducible (first | apply Still_if | apply still_recordFixed | apply still_toTripped)
                  | (with_reducible apply Still_foldl; intro _ _ _) | simp only [Still_mk, StillAt_self] | split | intro _))

theorem still_wearPath {s : State} (c code : Nat) (hKs : Still og s) : Still og (wearPath s c code) := by
  unfold wearPath
  (repeat' (first | with_reducible assumption | ((with_reducible apply quiet_side); rfl)
                  | with_reducible (first | apply Still_if | apply still_put)
                  | (with_reducible apply Still_foldl; intro _ _ _) | simp only [Still_mk, StillAt_self] | split | intro _))

theorem still_holdOwner {s : State} (c : Nat) (hKs : Still og s) : Still og (holdOwner s c) := by
  unfold holdOwner
  (repeat' (first | with_reducible assumption | ((with_reducible apply quiet_side); rfl)
                  | with_reducible (first | apply Still_if | apply still_requestHold)
                  | (with_reducible apply Still_foldl; intro _ _ _) | simp only [Still_mk, StillAt_self] | split | intro _))

theorem still_reactChan {s : State} (c action : Nat) (h : Hit) (hKs : Still og s) : Still og (reactChan s c action h) := by
  unfold reactChan
  (repeat' (first | with_reducible assumption | ((with_reducible apply quiet_side); rfl)
                  | with_reducible (first | apply Still_if | apply still_holdOwner | apply still_toFault
                                          | apply still_tripGroup | apply still_wearPath)
                  | (with_reducible apply Still_foldl; intro _ _ _) | simp only [Still_mk, StillAt_self] | split | intro _))

theorem still_reactMsr {s : State} (c action : Nat) (hKs : Still og s) : Still og (reactMsr s c action) := by
  unfold reactMsr
  (repeat' (first | with_reducible assumption | ((with_reducible apply quiet_side); rfl)
                  | with_reducible (first | apply Still_if | apply still_requestHold | apply still_toFault)
                  | (with_reducible apply Still_foldl; intro _ _ _) | simp only [Still_mk, StillAt_self] | split | intro _))

theorem still_reactSwe {s : State} (e action : Nat) (hKs : Still og s) : Still og (reactSwe s e action) := by
  unfold reactSwe
  (repeat' (first | with_reducible assumption | ((with_reducible apply quiet_side); rfl)
                  | with_reducible (first | apply Still_if | apply still_abortSlot | apply still_bringForward
                                          | apply still_requestHold | apply still_toFault | apply still_toTripped)
                  | (with_reducible apply Still_foldl; intro _ _ _) | simp only [Still_mk, StillAt_self] | split | intro _))

theorem still_tripChip {s : State} (n : Nat) (h : Hit) (hKs : Still og s) : Still og (tripChip s n h) := by
  unfold tripChip
  (repeat' (first | with_reducible assumption | ((with_reducible apply quiet_side); rfl)
                  | with_reducible (first | apply Still_if | apply still_pinFault | apply still_recordFixed)
                  | (with_reducible apply Still_foldl; intro _ _ _) | simp only [Still_mk, StillAt_self] | split | intro _))

theorem still_reactPin {s : State} (n action : Nat) (h : Hit) (hKs : Still og s) : Still og (reactPin s n action h) := by
  unfold reactPin
  (repeat' (first | with_reducible assumption | ((with_reducible apply quiet_side); rfl)
                  | with_reducible (first | apply Still_if | apply still_holdSeq | apply still_pinFault
                                          | apply still_reactPark | apply still_tripChip)
                  | (with_reducible apply Still_foldl; intro _ _ _) | simp only [Still_mk, StillAt_self] | split | intro _))

theorem still_reactSeq {s : State} (d action : Nat) (hKs : Still og s) : Still og (reactSeq s d action) := by
  unfold reactSeq
  (repeat' (first | with_reducible assumption | ((with_reducible apply quiet_side); rfl)
                  | with_reducible (first | apply Still_if | apply still_holdSeq | apply still_parkIfBusy
                                          | apply still_pinFault) | (with_reducible apply Still_foldl; intro _ _ _)
                  | simp only [Still_mk, StillAt_self] | split | intro _))

theorem still_reactTb {s : State} (action : Nat) (hKs : Still og s) : Still og (reactTb s action) := by
  unfold reactTb
  (repeat' (first | with_reducible assumption | ((with_reducible apply quiet_side); rfl)
                  | with_reducible (first | apply Still_if | apply still_holdSeq | apply still_parkIfBusy
                                          | apply still_requestHold) | (with_reducible apply Still_foldl; intro _ _ _)
                  | simp only [Still_mk, StillAt_self] | split | intro _))

theorem still_reactAny {s : State} (blk inst action : Nat) (h : Hit) (hKs : Still og s)
    : Still og (reactAny s blk inst action h) := by
  unfold reactAny
  (repeat' (first | with_reducible assumption | ((with_reducible apply quiet_side); rfl)
                  | with_reducible (first | apply Still_if | apply still_reactChan | apply still_reactMsr
                                          | apply still_reactPin | apply still_reactSeq | apply still_reactSwe
                                          | apply still_reactTb) | (with_reducible apply Still_foldl; intro _ _ _)
                  | simp only [Still_mk, StillAt_self] | split | intro _))

theorem still_settleOne {s : State} (x : Due) (hKs : Still og s) : Still og (settleOne s x) := by
  cases x <;> (unfold settleOne; (repeat' (first | with_reducible assumption | ((with_reducible apply quiet_side); rfl)
                                                 | with_reducible (first | apply Still_if | apply still_reactAny
                                                                         | apply still_tripAction)
                                                 | (with_reducible apply Still_foldl; intro _ _ _)
                                                 | simp only [Still_mk, StillAt_self] | split | intro _)))

theorem still_settleN (n : Nat) {s : State} (hKs : Still og s) : Still og (settleN n s) := by
  induction n generalizing s with
  | zero => exact hKs
  | succ n ih =>
    simp only [settleN]
    split
    · exact hKs
    · exact ih (still_settleOne _ (by simpa only [Still_mk, StillAt_self] using hKs))

theorem still_settle {s : State} (hKs : Still og s) : Still og (settle s) := by
  unfold settle
  (repeat' (first | with_reducible assumption | ((with_reducible apply quiet_side); rfl)
                  | with_reducible (first | apply still_settleN)))

theorem still_done {s : State} (hKs : Still og s) : StillAns og (done s) := by
  unfold done
  (repeat' (first | with_reducible assumption | ((with_reducible apply quiet_side); rfl)
                  | with_reducible (first | apply Still_if | apply StillAns_if | apply still_settle)
                  | (with_reducible apply Still_foldl; intro _ _ _) | simp only [Still_mk, StillAt_self, StillAns_next]
                  | split | intro _))

theorem still_runCmd {s : State} (p : Pkt) (code : Nat) (f : Form) {body : Res} (hKs : Still og s)
    (hKbody : StillRes og body) : StillAns og (runCmd s p code f body) := by
  unfold runCmd
  (repeat' (first | with_reducible assumption | ((with_reducible apply quiet_side); rfl)
                  | with_reducible (first | apply Still_if | apply StillRes_if | apply StillAns_if | apply still_done
                                          | apply still_finish | apply still_refuse)
                  | (with_reducible apply Still_foldl; intro _ _ _)
                  | simp only [Still_mk, StillAt_self, StillRes_done, StillRes_later, StillAns_next] | split | intro _))

end Sys2Proof.Machine
end

