-- ==== Sys2Proof/Laws/StillForce.lean ====
section
/-!
SUPPORT. What each function leaves alone (Still): force loop, measure path, sweep engines, calibration.
-/
set_option linter.unusedTactic false
set_option linter.unreachableTactic false
set_option linter.unusedSimpArgs false
namespace Sys2Proof.Machine
variable {og : State}

theorem still_setLimitSrc {lim : State} {s : State} (c : Nat) (side : Option Bool) (hKlim : Still og lim)
    (hKs : Still og s) : Still og (setLimitSrc lim s c side) := by
  unfold setLimitSrc
  (repeat' (first | with_reducible assumption | ((with_reducible apply quiet_side); rfl)
                  | with_reducible (first | apply still_cput)))

theorem still_loopMoves {lim : State} {s : State} (c : Nat) (sel : Cmd3) (hKlim : Still og lim) (hKs : Still og s)
    : Still og (loopMoves lim s c sel) := by
  unfold loopMoves
  (repeat' (first | with_reducible assumption | ((with_reducible apply quiet_side); rfl)
                  | with_reducible (first | apply Still_if | apply still_setCh | apply still_setChState
                                          | apply still_publishLimit | apply still_setLimitSrc)
                  | (with_reducible apply Still_foldl; intro _ _ _) | simp only [Still_mk, StillAt_self] | split | intro _))

theorem still_probeCycle {s : State} (c : Nat) (hKs : Still og s) : Still og (probeCycle s c) := by
  unfold probeCycle
  (repeat' (first | with_reducible assumption | ((with_reducible apply quiet_side); rfl)
                  | with_reducible (first | apply Still_if | apply still_draw | apply still_setCh)
                  | (with_reducible apply Still_foldl; intro _ _ _) | simp only [Still_mk, StillAt_self] | split | intro _
                  | refine Still.snd ?_ (by assumption)))

theorem still_driveDacs {s : State} (c : Nat) (hKs : Still og s) : Still og (driveDacs s c) := by
  unfold driveDacs
  (repeat' (first | with_reducible assumption | ((with_reducible apply quiet_side); rfl)
                  | with_reducible (first | apply still_setCh)))

theorem still_railCycle {s : State} (g : Nat) (hKs : Still og s) : Still og (railCycle s g) := by
  unfold railCycle
  (repeat' (first | with_reducible assumption | ((with_reducible apply quiet_side); rfl)
                  | with_reducible (first | apply Still_if | apply still_put | apply still_setGroup)
                  | (with_reducible apply Still_foldl; intro _ _ _) | simp only [Still_mk, StillAt_self] | split | intro _))

theorem still_seeLimit {s : State} (e : Nat) (hKs : Still og s) : Still og (seeLimit s e) := by
  unfold seeLimit
  (repeat' (first | with_reducible assumption | ((with_reducible apply quiet_side); rfl)
                  | with_reducible (first | apply Still_if | apply still_setEngine)
                  | (with_reducible apply Still_foldl; intro _ _ _) | simp only [Still_mk, StillAt_self] | split | intro _))

theorem still_grantCh {s : State} {t : State} (c : Nat) (hKs : Still og s) (hKt : Still og t)
    : StillEx og id (grantCh s t c) := by
  unfold grantCh
  (repeat' (first | with_reducible assumption | ((with_reducible apply quiet_side); rfl)
                  | with_reducible (first | apply Still_if | apply StillRes_if | apply StillEx_if | apply still_ok
                                          | apply still_reportBudget) | (with_reducible apply Still_foldl; intro _ _ _)
                  | simp only [Still_mk, StillAt_self, StillRes_done, StillRes_later, StillEx_ok, StillEx_error, id] | split
                  | intro _))

theorem still_startBoost {s : State} (c : Nat) (hKs : Still og s) : Still og (startBoost s c) := by
  unfold startBoost
  (repeat' (first | with_reducible assumption | ((with_reducible apply quiet_side); rfl)
                  | with_reducible (first | apply Still_if | apply still_put)
                  | (with_reducible apply Still_foldl; intro _ _ _) | simp only [Still_mk, StillAt_self] | split | intro _))

theorem still_setOutReq {s : State} (c : Nat) (v : Int) (hKs : Still og s) : StillEx og id (setOutReq s c v) := by
  unfold setOutReq
  (repeat' (first | with_reducible assumption | ((with_reducible apply quiet_side); rfl)
                  | with_reducible (first | apply Still_if | apply StillRes_if | apply StillEx_if | apply still_cput
                                          | apply still_abortTune | apply still_moveOutput | apply still_ok
                                          | apply still_resetCeiling | apply still_startBoost)
                  | (with_reducible apply Still_foldl; intro _ _ _)
                  | simp only [Still_mk, StillAt_self, StillRes_done, StillRes_later, StillEx_ok, StillEx_error, id] | split
                  | intro _))

theorem still_writeOutReq {s : State} (c : Nat) (v : Int) (hKs : Still og s) : StillEx og id (writeOutReq s c v) := by
  unfold writeOutReq
  (repeat' (first | with_reducible assumption | ((with_reducible apply quiet_side); rfl)
                  | with_reducible (first | apply Still_if | apply StillRes_if | apply StillEx_if | apply still_grantCh
                                          | apply still_ok | apply still_setOutReq)
                  | (with_reducible apply Still_foldl; intro _ _ _)
                  | simp only [Still_mk, StillAt_self, StillRes_done, StillRes_later, StillEx_ok, StillEx_error, id] | split
                  | intro _ | refine StillEx.state ?_ (by assumption)))

theorem still_setSetpoint {s : State} (c : Nat) (v : Int) (now : Bool) (hKs : Still og s)
    : StillEx og Prod.fst (setSetpoint s c v now) := by
  unfold setSetpoint
  (repeat' (first | with_reducible assumption | ((with_reducible apply quiet_side); rfl)
                  | with_reducible (first | apply Still_if | apply StillRes_if | apply StillEx_if | apply still_cput
                                          | apply still_setCh | apply still_aimRails | apply still_ok
                                          | apply still_resetCeiling | apply still_touch)
                  | (with_reducible apply Still_foldl; intro _ _ _)
                  | simp only [Still_mk, StillAt_self, StillRes_done, StillRes_later, StillEx_ok, StillEx_error, id] | split
                  | intro _))

theorem still_writeSetpoint {s : State} (c : Nat) (v : Int) (hKs : Still og s) : StillEx og id (writeSetpoint s c v) := by
  unfold writeSetpoint
  (repeat' (first | with_reducible assumption | ((with_reducible apply quiet_side); rfl)
                  | with_reducible (first | apply Still_if | apply StillRes_if | apply StillEx_if | apply still_grantCh
                                          | apply still_ok | apply still_setSetpoint)
                  | (with_reducible apply Still_foldl; intro _ _ _)
                  | simp only [Still_mk, StillAt_self, StillRes_done, StillRes_later, StillEx_ok, StillEx_error, id] | split
                  | intro _ | refine StillEx.state ?_ (by assumption) | refine StillEx.fst ?_ (by assumption)
                  | refine StillEx.ok (g := Prod.fst) ?_ (by assumption)))

theorem still_setIrange {s : State} (c : Nat) (v : Int) (hKs : Still og s) : StillEx og id (setIrange s c v) := by
  unfold setIrange
  (repeat' (first | with_reducible assumption | ((with_reducible apply quiet_side); rfl)
                  | with_reducible (first | apply Still_if | apply StillRes_if | apply StillEx_if | apply still_cput
                                          | apply still_setCh | apply still_ok | apply still_resetCeiling | apply still_touch)
                  | (with_reducible apply Still_foldl; intro _ _ _)
                  | simp only [Still_mk, StillAt_self, StillRes_done, StillRes_later, StillEx_ok, StillEx_error, id] | split
                  | intro _))

theorem still_writeIrange {s : State} (c : Nat) (v : Int) (hKs : Still og s) : StillEx og id (writeIrange s c v) := by
  unfold writeIrange
  (repeat' (first | with_reducible assumption | ((with_reducible apply quiet_side); rfl)
                  | with_reducible (first | apply Still_if | apply StillRes_if | apply StillEx_if | apply still_grantCh
                                          | apply still_ok | apply still_setIrange)
                  | (with_reducible apply Still_foldl; intro _ _ _)
                  | simp only [Still_mk, StillAt_self, StillRes_done, StillRes_later, StillEx_ok, StillEx_error, id] | split
                  | intro _ | refine StillEx.state ?_ (by assumption)))

theorem still_setVrange {s : State} (c : Nat) (v : Int) (hKs : Still og s) : StillEx og id (setVrange s c v) := by
  unfold setVrange
  (repeat' (first | with_reducible assumption | ((with_reducible apply quiet_side); rfl)
                  | with_reducible (first | apply Still_if | apply StillRes_if | apply StillEx_if | apply still_put
                                          | apply still_setCh | apply still_ok | apply still_resetCeiling | apply still_touch)
                  | (with_reducible apply Still_foldl; intro _ _ _)
                  | simp only [Still_mk, StillAt_self, StillRes_done, StillRes_later, StillEx_ok, StillEx_error, id] | split
                  | intro _))

theorem still_writeVrange {s : State} (c : Nat) (v : Int) (hKs : Still og s) : StillEx og id (writeVrange s c v) := by
  unfold writeVrange
  (repeat' (first | with_reducible assumption | ((with_reducible apply quiet_side); rfl)
                  | with_reducible (first | apply Still_if | apply StillRes_if | apply StillEx_if | apply still_grantCh
                                          | apply still_ok | apply still_setVrange)
                  | (with_reducible apply Still_foldl; intro _ _ _)
                  | simp only [Still_mk, StillAt_self, StillRes_done, StillRes_later, StillEx_ok, StillEx_error, id] | split
                  | intro _ | refine StillEx.state ?_ (by assumption)))

theorem still_written {s : State} {w : Wr} (hKs : Still og s) (hKw : StillEx og id w) :
    StillAns og (written s w) := by
  cases w with
  | ok t => exact StillAns_if hKs (still_done hKw)
  | error _ => exact hKs

theorem still_execOutReqWrite (ch : Nat) (value : Int) {s : State} (hKs : Still og s)
    : StillAns og (execOutReqWrite ch value s) := by
  unfold execOutReqWrite
  (repeat' (first | with_reducible assumption | ((with_reducible apply quiet_side); rfl)
                  | with_reducible (first | apply Still_if | apply StillAns_if | apply still_writeOutReq
                                          | apply still_written) | (with_reducible apply Still_foldl; intro _ _ _)
                  | simp only [Still_mk, StillAt_self, StillAns_next] | split | intro _
                  | refine StillEx.state ?_ (by assumption)))

theorem still_execSetpointWrite (ch : Nat) (value : Int) {s : State} (hKs : Still og s)
    : StillAns og (execSetpointWrite ch value s) := by
  unfold execSetpointWrite
  (repeat' (first | with_reducible assumption | ((with_reducible apply quiet_side); rfl)
                  | with_reducible (first | apply Still_if | apply StillAns_if | apply still_writeSetpoint
                                          | apply still_written) | (with_reducible apply Still_foldl; intro _ _ _)
                  | simp only [Still_mk, StillAt_self, StillAns_next] | split | intro _
                  | refine StillEx.state ?_ (by assumption)))

theorem still_execIrangeWrite (ch : Nat) (value : Int) {s : State} (hKs : Still og s)
    : StillAns og (execIrangeWrite ch value s) := by
  unfold execIrangeWrite
  (repeat' (first | with_reducible assumption | ((with_reducible apply quiet_side); rfl)
                  | with_reducible (first | apply Still_if | apply StillAns_if | apply still_writeIrange
                                          | apply still_written) | (with_reducible apply Still_foldl; intro _ _ _)
                  | simp only [Still_mk, StillAt_self, StillAns_next] | split | intro _
                  | refine StillEx.state ?_ (by assumption)))

theorem still_execVrangeWrite (ch : Nat) (value : Int) {s : State} (hKs : Still og s)
    : StillAns og (execVrangeWrite ch value s) := by
  unfold execVrangeWrite
  (repeat' (first | with_reducible assumption | ((with_reducible apply quiet_side); rfl)
                  | with_reducible (first | apply Still_if | apply StillAns_if | apply still_writeVrange
                                          | apply still_written) | (with_reducible apply Still_foldl; intro _ _ _)
                  | simp only [Still_mk, StillAt_self, StillAns_next] | split | intro _
                  | refine StillEx.state ?_ (by assumption)))

theorem still_engageClamp {s : State} (c k : Nat) (hKs : Still og s) : Still og (engageClamp s c k) := by
  unfold engageClamp
  (repeat' (first | with_reducible assumption | ((with_reducible apply quiet_side); rfl)
                  | with_reducible (first | apply Still_if | apply still_bump | apply still_publish | apply still_setCh
                                          | apply still_setChState | apply still_publishLimit | apply still_setLimitSrc)
                  | (with_reducible apply Still_foldl; intro _ _ _) | simp only [Still_mk, StillAt_self] | split | intro _))

theorem still_windowOut {s : State} (c k : Nat) (hKs : Still og s) : Still og (windowOut s c k) := by
  unfold windowOut
  (repeat' (first | with_reducible assumption | ((with_reducible apply quiet_side); rfl)
                  | with_reducible (first | apply Still_if | apply still_setComp | apply still_engageClamp)
                  | (with_reducible apply Still_foldl; intro _ _ _) | simp only [Still_mk, StillAt_self] | split | intro _))

theorem still_execWindowCrossing (ch : Nat) (quantity : Quantity) (upper : Bool) {s : State} (hKs : Still og s)
    : StillAns og (execWindowCrossing ch quantity upper s) := by
  unfold execWindowCrossing
  (repeat' (first | with_reducible assumption | ((with_reducible apply quiet_side); rfl)
                  | with_reducible (first | apply Still_if | apply StillAns_if | apply still_done | apply still_windowOut)
                  | (with_reducible apply Still_foldl; intro _ _ _) | simp only [Still_mk, StillAt_self, StillAns_next]
                  | split | intro _))

theorem still_recordChan {s : State} (c code : Nat) (hKs : Still og s) : Still og (recordChan s c code) := by
  unfold recordChan
  (repeat' (first | with_reducible assumption | ((with_reducible apply quiet_side); rfl)
                  | with_reducible (first | apply Still_if | apply still_record | apply still_toTripped)
                  | (with_reducible apply Still_foldl; intro _ _ _) | simp only [Still_mk, StillAt_self] | split | intro _))

theorem still_execClampTimeout (ch : Nat) {s : State} (hKs : Still og s) : StillAns og (execClampTimeout ch s) := by
  unfold execClampTimeout
  (repeat' (first | with_reducible assumption | ((with_reducible apply quiet_side); rfl)
                  | with_reducible (first | apply Still_if | apply StillAns_if | apply still_done | apply still_toTripped)
                  | (with_reducible apply Still_foldl; intro _ _ _) | simp only [Still_mk, StillAt_self, StillAns_next]
                  | split | intro _))

theorem still_execLimitTimeout (ch : Nat) {s : State} (hKs : Still og s) : StillAns og (execLimitTimeout ch s) := by
  unfold execLimitTimeout
  (repeat' (first | with_reducible assumption | ((with_reducible apply quiet_side); rfl)
                  | with_reducible (first | apply Still_if | apply StillAns_if | apply still_done | apply still_toTripped)
                  | (with_reducible apply Still_foldl; intro _ _ _) | simp only [Still_mk, StillAt_self, StillAns_next]
                  | split | intro _))

theorem still_execSoaTimeout (ch : Nat) (row : Nat) {s : State} (hKs : Still og s) : StillAns og (execSoaTimeout ch row s) :=
    by
  unfold execSoaTimeout
  (repeat' (first | with_reducible assumption | ((with_reducible apply quiet_side); rfl)
                  | with_reducible (first | apply Still_if | apply StillAns_if | apply still_done | apply still_toTripped)
                  | (with_reducible apply Still_foldl; intro _ _ _) | simp only [Still_mk, StillAt_self, StillAns_next]
                  | split | intro _))

theorem still_execSenseLoss (ch : Nat) {s : State} (hKs : Still og s) : StillAns og (execSenseLoss ch s) := by
  unfold execSenseLoss
  (repeat' (first | with_reducible assumption | ((with_reducible apply quiet_side); rfl)
                  | with_reducible (first | apply Still_if | apply StillAns_if | apply still_done | apply still_record
                                          | apply still_recordChan) | (with_reducible apply Still_foldl; intro _ _ _)
                  | simp only [Still_mk, StillAt_self, StillAns_next] | split | intro _))

theorem still_execGuardOvl (ch : Nat) {s : State} (hKs : Still og s) : StillAns og (execGuardOvl ch s) := by
  unfold execGuardOvl
  (repeat' (first | with_reducible assumption | ((with_reducible apply quiet_side); rfl)
                  | with_reducible (first | apply Still_if | apply StillAns_if | apply still_done | apply still_recordChan)
                  | (with_reducible apply Still_foldl; intro _ _ _) | simp only [Still_mk, StillAt_self, StillAns_next]
                  | split | intro _))

theorem still_execRailFault (group : Nat) {s : State} (hKs : Still og s) : StillAns og (execRailFault group s) := by
  unfold execRailFault
  (repeat' (first | with_reducible assumption | ((with_reducible apply quiet_side); rfl)
                  | with_reducible (first | apply Still_if | apply StillAns_if | apply still_done | apply still_recordChan)
                  | (with_reducible apply Still_foldl; intro _ _ _) | simp only [Still_mk, StillAt_self, StillAns_next]
                  | split | intro _))

theorem still_execStandbyReached (ch : Nat) {s : State} (hKs : Still og s) : StillAns og (execStandbyReached ch s) := by
  unfold execStandbyReached
  (repeat' (first | with_reducible assumption | ((with_reducible apply quiet_side); rfl)
                  | with_reducible (first | apply Still_if | apply StillAns_if | apply still_setCh | apply still_setChState
                                          | apply still_connect | apply still_done)
                  | (with_reducible apply Still_foldl; intro _ _ _) | simp only [Still_mk, StillAt_self, StillAns_next]
                  | split | intro _))

theorem still_execOutputRampDone (ch : Nat) {s : State} (hKs : Still og s) : StillAns og (execOutputRampDone ch s) := by
  unfold execOutputRampDone
  (repeat' (first | with_reducible assumption | ((with_reducible apply quiet_side); rfl)
                  | with_reducible (first | apply Still_if | apply StillAns_if | apply still_put | apply still_setCh
                                          | apply still_done | apply still_settleFor | apply still_settleOpen)
                  | (with_reducible apply Still_foldl; intro _ _ _) | simp only [Still_mk, StillAt_self, StillAns_next]
                  | split | intro _))

theorem still_execRelayClosureVerified (ch : Nat) {s : State} (hKs : Still og s)
    : StillAns og (execRelayClosureVerified ch s) := by
  unfold execRelayClosureVerified
  (repeat' (first | with_reducible assumption | ((with_reducible apply quiet_side); rfl)
                  | with_reducible (first | apply Still_if | apply StillAns_if | apply still_bump | apply still_setCh
                                          | apply still_done | apply still_record)
                  | (with_reducible apply Still_foldl; intro _ _ _) | simp only [Still_mk, StillAt_self, StillAns_next]
                  | split | intro _))

theorem still_execRelayVerifyTimeout (ch : Nat) {s : State} (hKs : Still og s) : StillAns og (execRelayVerifyTimeout ch s) :=
    by
  unfold execRelayVerifyTimeout
  (repeat' (first | with_reducible assumption | ((with_reducible apply quiet_side); rfl)
                  | with_reducible (first | apply Still_if | apply StillAns_if | apply still_put | apply still_setCh
                                          | apply still_done | apply still_record)
                  | (with_reducible apply Still_foldl; intro _ _ _) | simp only [Still_mk, StillAt_self, StillAns_next]
                  | split | intro _))

theorem still_execSsrOpenDelay (ch : Nat) {s : State} (hKs : Still og s) : StillAns og (execSsrOpenDelay ch s) := by
  unfold execSsrOpenDelay
  (repeat' (first | with_reducible assumption | ((with_reducible apply quiet_side); rfl)
                  | with_reducible (first | apply Still_if | apply StillAns_if | apply still_setCh | apply still_done)
                  | (with_reducible apply Still_foldl; intro _ _ _) | simp only [Still_mk, StillAt_self, StillAns_next]
                  | split | intro _))

theorem still_policyMoved {s : State} (c : Nat) (hKs : Still og s) : Still og (policyMoved s c) := by
  unfold policyMoved
  (repeat' (first | with_reducible assumption | ((with_reducible apply quiet_side); rfl)
                  | with_reducible (first | apply still_setCh)))

theorem still_execRangeUpChange (ch : Nat) {s : State} (hKs : Still og s) : StillAns og (execRangeUpChange ch s) := by
  unfold execRangeUpChange
  (repeat' (first | with_reducible assumption | ((with_reducible apply quiet_side); rfl)
                  | with_reducible (first | apply Still_if | apply StillAns_if | apply still_done | apply still_policyMoved
                                          | apply still_stepUp) | (with_reducible apply Still_foldl; intro _ _ _)
                  | simp only [Still_mk, StillAt_self, StillAns_next] | split | intro _))

theorem still_execRangeDownChange (ch : Nat) {s : State} (hKs : Still og s) : StillAns og (execRangeDownChange ch s) := by
  unfold execRangeDownChange
  (repeat' (first | with_reducible assumption | ((with_reducible apply quiet_side); rfl)
                  | with_reducible (first | apply Still_if | apply StillAns_if | apply still_done | apply still_policyMoved
                                          | apply still_stepDown) | (with_reducible apply Still_foldl; intro _ _ _)
                  | simp only [Still_mk, StillAt_self, StillAns_next] | split | intro _))

theorem still_execSettleWindowEnd (ch : Nat) {s : State} (hKs : Still og s) : StillAns og (execSettleWindowEnd ch s) := by
  unfold execSettleWindowEnd
  (repeat' (first | with_reducible assumption | ((with_reducible apply quiet_side); rfl)
                  | with_reducible (first | apply Still_if | apply StillAns_if | apply still_setCh | apply still_chainStep
                                          | apply still_done) | (with_reducible apply Still_foldl; intro _ _ _)
                  | simp only [Still_mk, StillAt_self, StillAns_next] | split | intro _))

theorem still_applyWaiting {s : State} (c : Nat) (hKs : Still og s) : Still og (applyWaiting s c) := by
  unfold applyWaiting
  (repeat' (first | with_reducible assumption | ((with_reducible apply quiet_side); rfl)
                  | with_reducible (first | apply Still_if | apply still_setCh | apply still_touch)
                  | (with_reducible apply Still_foldl; intro _ _ _) | simp only [Still_mk, StillAt_self] | split | intro _))

theorem still_execRailTargetReached (group : Nat) {s : State} (hKs : Still og s)
    : StillAns og (execRailTargetReached group s) := by
  unfold execRailTargetReached
  (repeat' (first | with_reducible assumption | ((with_reducible apply quiet_side); rfl)
                  | with_reducible (first | apply Still_if | apply StillAns_if | apply still_put | apply still_setGroup
                                          | apply still_applyWaiting | apply still_done)
                  | (with_reducible apply Still_foldl; intro _ _ _) | simp only [Still_mk, StillAt_self, StillAns_next]
                  | split | intro _))

theorem still_execLoopTune (p : Pkt) {s : State} (hKs : Still og s) : StillAns og (execLoopTune p s) := by
  unfold execLoopTune
  (repeat' (first | with_reducible assumption | ((with_reducible apply quiet_side); rfl)
                  | with_reducible (first | apply Still_if | apply StillRes_if | apply StillAns_if | apply still_setCh
                                          | apply still_refuse | apply still_runCmd)
                  | (with_reducible apply Still_foldl; intro _ _ _)
                  | simp only [Still_mk, StillAt_self, StillRes_done, StillRes_later, StillAns_next] | split | intro _))

theorem still_execRearm (p : Pkt) {s : State} (hKs : Still og s) : StillAns og (execRearm p s) := by
  unfold execRearm
  (repeat' (first | with_reducible assumption | ((with_reducible apply quiet_side); rfl)
                  | with_reducible (first | apply Still_if | apply StillRes_if | apply StillAns_if | apply still_setCh
                                          | apply still_ok | apply still_refuse | apply still_runCmd | apply still_startBoost)
                  | (with_reducible apply Still_foldl; intro _ _ _)
                  | simp only [Still_mk, StillAt_self, StillRes_done, StillRes_later, StillAns_next] | split | intro _))

theorem still_execClearCounts (p : Pkt) {s : State} (hKs : Still og s) : StillAns og (execClearCounts p s) := by
  unfold execClearCounts
  (repeat' (first | with_reducible assumption | ((with_reducible apply quiet_side); rfl)
                  | with_reducible (first | apply Still_if | apply StillRes_if | apply StillAns_if | apply still_put
                                          | apply still_ok | apply still_refuse | apply still_runCmd)
                  | (with_reducible apply Still_foldl; intro _ _ _)
                  | simp only [Still_mk, StillAt_self, StillRes_done, StillRes_later, StillAns_next] | split | intro _))

theorem still_nextSeq {s : State} (c : Nat) (hKs : Still og s) : Still og (nextSeq s c) := by
  unfold nextSeq
  (repeat' (first | with_reducible assumption | ((with_reducible apply quiet_side); rfl)
                  | with_reducible (first | apply still_tally)))

theorem still_loseRecord {s : State} (c seq time : Nat) (hKs : Still og s) : Still og (loseRecord s c seq time) := by
  unfold loseRecord
  (repeat' (first | with_reducible assumption | ((with_reducible apply quiet_side); rfl)
                  | with_reducible (first | apply still_bump | apply still_loseAhead)))

theorem still_emitRecord {s : State} (c : Nat) (q : Quad) (time : Nat) (hKs : Still og s)
    : Still og (emitRecord s c q time) := by
  unfold emitRecord
  (repeat' (first | with_reducible assumption | ((with_reducible apply quiet_side); rfl)
                  | with_reducible (first | apply Still_if | apply still_put | apply still_setAvg | apply still_setGroup
                                          | apply still_loseRecord | apply still_record)
                  | (with_reducible apply Still_foldl; intro _ _ _) | simp only [Still_mk, StillAt_self] | split | intro _))

theorem still_azRecord (flags : Nat) {s : State} (c time : Nat) (hKs : Still og s) : Still og (azRecord flags s c time) := by
  unfold azRecord
  (repeat' (first | with_reducible assumption | ((with_reducible apply quiet_side); rfl)
                  | with_reducible (first | apply still_emitRecord | apply still_nextSeq)))

theorem still_saturated {s : State} (c : Nat) (v i : Int) (flags : Nat) (hKs : Still og s)
    : Still og (saturated s c v i flags).1 := by
  unfold saturated
  (repeat' (first | with_reducible assumption | ((with_reducible apply quiet_side); rfl)
                  | with_reducible (first | apply Still_if | apply still_setAvg)
                  | (with_reducible apply Still_foldl; intro _ _ _) | simp only [Still_mk, StillAt_self] | split | intro _))

theorem still_averaged {s : State} (c seq vr ir n : Nat) (items : List Contrib) (time : Nat) (hKs : Still og s)
    : Still og (averaged s c seq vr ir n items time) := by
  unfold averaged
  (repeat' (first | with_reducible assumption | ((with_reducible apply quiet_side); rfl)
                  | with_reducible (first | apply Still_if | apply still_emitRecord | apply still_record
                                          | apply still_saturated) | (with_reducible apply Still_foldl; intro _ _ _)
                  | simp only [Still_mk, StillAt_self] | split | intro _ | refine Still.fst ?_ (by assumption)))

theorem still_sweepInstant {s : State} (g : Nat) (hKs : Still og s) : Still og (sweepInstant s g) := by
  unfold sweepInstant
  (repeat' (first | with_reducible assumption | ((with_reducible apply quiet_side); rfl)
                  | with_reducible (first | apply Still_if | apply still_publish | apply still_setEngine)
                  | (with_reducible apply Still_foldl; intro _ _ _) | simp only [Still_mk, StillAt_self] | split | intro _))

theorem still_restGroup {s : State} (g : Nat) (hKs : Still og s) : Still og (restGroup s g) := by
  unfold restGroup
  (repeat' (first | with_reducible assumption | ((with_reducible apply quiet_side); rfl)
                  | with_reducible (first | apply Still_if | apply still_setGroup | apply still_closeForGroup)
                  | (with_reducible apply Still_foldl; intro _ _ _) | simp only [Still_mk, StillAt_self] | split | intro _))

theorem still_azAlone {s : State} (g : Nat) (a : AzRun) (hKs : Still og s) : Still og (azAlone s g a) := by
  unfold azAlone
  (repeat' (first | with_reducible assumption | ((with_reducible apply quiet_side); rfl)
                  | with_reducible (first | apply Still_if | apply still_setGroup | apply still_azRecord)
                  | (with_reducible apply Still_foldl; intro _ _ _) | simp only [Still_mk, StillAt_self] | split | intro _))

theorem still_azEnd {s : State} (g : Nat) (hKs : Still og s) : Still og (azEnd s g) := by
  unfold azEnd
  (repeat' (first | with_reducible assumption | ((with_reducible apply quiet_side); rfl)
                  | with_reducible (first | apply Still_if | apply still_setGroup | apply still_restGroup)
                  | (with_reducible apply Still_foldl; intro _ _ _) | simp only [Still_mk, StillAt_self] | split | intro _))

theorem still_azReconnects {s : State} (g t : Nat) (hKs : Still og s) : Still og (azReconnects s g t) := by
  unfold azReconnects
  (repeat' (first | with_reducible assumption | ((with_reducible apply quiet_side); rfl)
                  | with_reducible (first | apply Still_if | apply still_azAlone | apply still_azEnd)
                  | (with_reducible apply Still_foldl; intro _ _ _) | simp only [Still_mk, StillAt_self] | split | intro _))

theorem still_takeInstant {s : State} (g t : Nat) (hKs : Still og s) : Still og (takeInstant s g t) := by
  unfold takeInstant
  (repeat' (first | with_reducible assumption | ((with_reducible apply quiet_side); rfl)
                  | with_reducible (first | apply Still_if | apply still_setGroup | apply still_azReconnects
                                          | apply still_azRecord | apply still_nextSeq | apply still_sweepInstant)
                  | (with_reducible apply Still_foldl; intro _ _ _) | simp only [Still_mk, StillAt_self] | split | intro _))

theorem still_overrun {s : State} (g : Nat) (hKs : Still og s) : Still og (overrun s g) := by
  unfold overrun
  (repeat' (first | with_reducible assumption | ((with_reducible apply quiet_side); rfl)
                  | with_reducible (first | apply Still_if | apply still_bump | apply still_consOverrun | apply still_record)
                  | (with_reducible apply Still_foldl; intro _ _ _) | simp only [Still_mk, StillAt_self] | split | intro _))

theorem still_timerInstant {s : State} (g : Nat) (hKs : Still og s) : Still og (timerInstant s g) := by
  unfold timerInstant
  (repeat' (first | with_reducible assumption | ((with_reducible apply quiet_side); rfl)
                  | with_reducible (first | apply Still_if | apply still_setEngine | apply still_setGroup
                                          | apply still_overrun | apply still_takeInstant)
                  | (with_reducible apply Still_foldl; intro _ _ _) | simp only [Still_mk, StillAt_self] | split | intro _))

theorem still_execSampleTimerInstant (group : Nat) {s : State} (hKs : Still og s)
    : StillAns og (execSampleTimerInstant group s) := by
  unfold execSampleTimerInstant
  (repeat' (first | with_reducible assumption | ((with_reducible apply quiet_side); rfl)
                  | with_reducible (first | apply still_done | apply still_timerInstant)))

theorem still_trigInstant {s : State} (g t : Nat) (hKs : Still og s) : Still og (trigInstant s g t) := by
  unfold trigInstant
  (repeat' (first | with_reducible assumption | ((with_reducible apply quiet_side); rfl)
                  | with_reducible (first | apply Still_if | apply still_setGroup | apply still_takeInstant)
                  | (with_reducible apply Still_foldl; intro _ _ _) | simp only [Still_mk, StillAt_self] | split | intro _))

theorem still_takeTrigs {s : State} (g : Nat) (hKs : Still og s) : Still og (takeTrigs s g) := by
  unfold takeTrigs
  (repeat' (first | with_reducible assumption | ((with_reducible apply quiet_side); rfl)
                  | with_reducible (first | apply Still_if | apply still_setGroup | apply still_takeInstant)
                  | (with_reducible apply Still_foldl; intro _ _ _) | simp only [Still_mk, StillAt_self] | split | intro _))

theorem still_fabricTrigger {s : State} (g t : Nat) (hKs : Still og s) : Still og (fabricTrigger s g t) := by
  unfold fabricTrigger
  (repeat' (first | with_reducible assumption | ((with_reducible apply quiet_side); rfl)
                  | with_reducible (first | apply Still_if | apply still_setGroup | apply still_overrun
                                          | apply still_trigInstant) | (with_reducible apply Still_foldl; intro _ _ _)
                  | simp only [Still_mk, StillAt_self] | split | intro _))

theorem still_execSampleTriggerPulse (group : Nat) {s : State} (hKs : Still og s)
    : StillAns og (execSampleTriggerPulse group s) := by
  unfold execSampleTriggerPulse
  (repeat' (first | with_reducible assumption | ((with_reducible apply quiet_side); rfl)
                  | with_reducible (first | apply Still_if | apply StillAns_if | apply still_setCon | apply still_done
                                          | apply still_fabricTrigger) | (with_reducible apply Still_foldl; intro _ _ _)
                  | simp only [Still_mk, StillAt_self, StillAns_next] | split | intro _))

theorem still_execConvFault (ch : Nat) {s : State} (hKs : Still og s) : StillAns og (execConvFault ch s) := by
  unfold execConvFault
  (repeat' (first | with_reducible assumption | ((with_reducible apply quiet_side); rfl)
                  | with_reducible (first | apply Still_if | apply StillAns_if | apply still_setGroup | apply still_done
                                          | apply still_loseRecord | apply still_record)
                  | (with_reducible apply Still_foldl; intro _ _ _) | simp only [Still_mk, StillAt_self, StillAns_next]
                  | split | intro _))

theorem still_execConverterWakeStart (group : Nat) {s : State} (hKs : Still og s)
    : StillAns og (execConverterWakeStart group s) := by
  unfold execConverterWakeStart
  (repeat' (first | with_reducible assumption | ((with_reducible apply quiet_side); rfl)
                  | with_reducible (first | apply Still_if | apply StillAns_if | apply still_setGroup | apply still_done)
                  | (with_reducible apply Still_foldl; intro _ _ _) | simp only [Still_mk, StillAt_self, StillAns_next]
                  | split | intro _))

theorem still_execConverterWakeComplete (group : Nat) {s : State} (hKs : Still og s)
    : StillAns og (execConverterWakeComplete group s) := by
  unfold execConverterWakeComplete
  (repeat' (first | with_reducible assumption | ((with_reducible apply quiet_side); rfl)
                  | with_reducible (first | apply Still_if | apply StillAns_if | apply still_setGroup | apply still_done
                                          | apply still_restGroup | apply still_takeInstant)
                  | (with_reducible apply Still_foldl; intro _ _ _) | simp only [Still_mk, StillAt_self, StillAns_next]
                  | split | intro _))

theorem still_startAz {s : State} (g : Nat) (cs : List Nat) (hKs : Still og s) : Still og (startAz s g cs) := by
  unfold startAz
  (repeat' (first | with_reducible assumption | ((with_reducible apply quiet_side); rfl)
                  | with_reducible (first | apply Still_if | apply still_setAvg | apply still_setGroup | apply still_azAlone)
                  | (with_reducible apply Still_foldl; intro _ _ _) | simp only [Still_mk, StillAt_self] | split | intro _))

theorem still_execAutoZeroStart (group : Nat) (ch : Nat) {s : State} (hKs : Still og s)
    : StillAns og (execAutoZeroStart group ch s) := by
  unfold execAutoZeroStart
  (repeat' (first | with_reducible assumption | ((with_reducible apply quiet_side); rfl)
                  | with_reducible (first | apply Still_if | apply StillAns_if | apply still_done | apply still_startAz)
                  | (with_reducible apply Still_foldl; intro _ _ _) | simp only [Still_mk, StillAt_self, StillAns_next]
                  | split | intro _))

theorem still_azLeave {s : State} (g c : Nat) (hKs : Still og s) : Still og (azLeave s g c) := by
  unfold azLeave
  (repeat' (first | with_reducible assumption | ((with_reducible apply quiet_side); rfl)
                  | with_reducible (first | apply Still_if | apply still_setGroup | apply still_azAlone | apply still_azEnd)
                  | (with_reducible apply Still_foldl; intro _ _ _) | simp only [Still_mk, StillAt_self] | split | intro _))

theorem still_takeOffsets {s : State} (ch : Nat) (v i pair : Int) (ok : Bool) (hKs : Still og s)
    : Still og (takeOffsets s ch v i pair ok) := by
  unfold takeOffsets
  (repeat' (first | with_reducible assumption | ((with_reducible apply quiet_side); rfl)
                  | with_reducible (first | apply Still_if | apply StillRes_if | apply still_bump | apply still_put
                                          | apply still_setAvg | apply still_ok | apply still_record)
                  | (with_reducible apply Still_foldl; intro _ _ _)
                  | simp only [Still_mk, StillAt_self, StillRes_done, StillRes_later] | split | intro _))

theorem still_execAutoZeroComplete (ch : Nat) (v i pair : Int) (ok : Bool) {s : State} (hKs : Still og s)
    : StillAns og (execAutoZeroComplete ch v i pair ok s) := by
  unfold execAutoZeroComplete
  (repeat' (first | with_reducible assumption | ((with_reducible apply quiet_side); rfl)
                  | with_reducible (first | apply Still_if | apply StillRes_if | apply StillAns_if | apply still_azLeave
                                          | apply still_done | apply still_ok | apply still_takeOffsets)
                  | (with_reducible apply Still_foldl; intro _ _ _)
                  | simp only [Still_mk, StillAt_self, StillRes_done, StillRes_later, StillAns_next] | split | intro _))

theorem still_writeTrigSrc {s : State} (g : Nat) (v : Int) (hKs : Still og s) : StillEx og id (writeTrigSrc s g v) := by
  unfold writeTrigSrc
  (repeat' (first | with_reducible assumption | ((with_reducible apply quiet_side); rfl)
                  | with_reducible (first | apply Still_if | apply StillRes_if | apply StillEx_if | apply still_put
                                          | apply still_setGroup | apply still_ok | apply still_restartAvg)
                  | (with_reducible apply Still_foldl; intro _ _ _)
                  | simp only [Still_mk, StillAt_self, StillRes_done, StillRes_later, StillEx_ok, StillEx_error, id] | split
                  | intro _))

theorem still_execTrigSrcWrite (group : Nat) (value : Int) {s : State} (hKs : Still og s)
    : StillAns og (execTrigSrcWrite group value s) := by
  unfold execTrigSrcWrite
  (repeat' (first | with_reducible assumption | ((with_reducible apply quiet_side); rfl)
                  | with_reducible (first | apply Still_if | apply StillAns_if | apply still_writeTrigSrc
                                          | apply still_written) | (with_reducible apply Still_foldl; intro _ _ _)
                  | simp only [Still_mk, StillAt_self, StillAns_next] | split | intro _
                  | refine StillEx.state ?_ (by assumption)))

theorem still_writePwrMode {s : State} (g : Nat) (v : Int) (hKs : Still og s) : StillEx og id (writePwrMode s g v) := by
  unfold writePwrMode
  (repeat' (first | with_reducible assumption | ((with_reducible apply quiet_side); rfl)
                  | with_reducible (first | apply Still_if | apply StillRes_if | apply StillEx_if | apply still_put
                                          | apply still_setGroup | apply still_ok | apply still_restGroup)
                  | (with_reducible apply Still_foldl; intro _ _ _)
                  | simp only [Still_mk, StillAt_self, StillRes_done, StillRes_later, StillEx_ok, StillEx_error, id] | split
                  | intro _))

theorem still_execPwrModeWrite (group : Nat) (value : Int) {s : State} (hKs : Still og s)
    : StillAns og (execPwrModeWrite group value s) := by
  unfold execPwrModeWrite
  (repeat' (first | with_reducible assumption | ((with_reducible apply quiet_side); rfl)
                  | with_reducible (first | apply Still_if | apply StillAns_if | apply still_writePwrMode
                                          | apply still_written) | (with_reducible apply Still_foldl; intro _ _ _)
                  | simp only [Still_mk, StillAt_self, StillAns_next] | split | intro _
                  | refine StillEx.state ?_ (by assumption)))

theorem still_writeTimerPeriod {s : State} (g : Nat) (v : Int) (hKs : Still og s) : StillEx og id (writeTimerPeriod s g v) :=
    by
  unfold writeTimerPeriod
  (repeat' (first | with_reducible assumption | ((with_reducible apply quiet_side); rfl)
                  | with_reducible (first | apply Still_if | apply StillRes_if | apply StillEx_if | apply still_put
                                          | apply still_setGroup | apply still_ok)
                  | (with_reducible apply Still_foldl; intro _ _ _)
                  | simp only [Still_mk, StillAt_self, StillRes_done, StillRes_later, StillEx_ok, StillEx_error, id] | split
                  | intro _))

theorem still_writeTimerPhase {s : State} (g : Nat) (v : Int) (hKs : Still og s) : StillEx og id (writeTimerPhase s g v) := by
  unfold writeTimerPhase
  (repeat' (first | with_reducible assumption | ((with_reducible apply quiet_side); rfl)
                  | with_reducible (first | apply Still_if | apply StillRes_if | apply StillEx_if | apply still_put
                                          | apply still_setGroup | apply still_ok)
                  | (with_reducible apply Still_foldl; intro _ _ _)
                  | simp only [Still_mk, StillAt_self, StillRes_done, StillRes_later, StillEx_ok, StillEx_error, id] | split
                  | intro _))

theorem still_execTimerPeriodWrite (group : Nat) (phase : Bool) (value : Int) {s : State} (hKs : Still og s)
    : StillAns og (execTimerPeriodWrite group phase value s) := by
  unfold execTimerPeriodWrite
  (repeat' (first | with_reducible assumption | ((with_reducible apply quiet_side); rfl)
                  | with_reducible (first | apply Still_if | apply StillAns_if | apply still_writeTimerPeriod
                                          | apply still_writeTimerPhase | apply still_written)
                  | (with_reducible apply Still_foldl; intro _ _ _) | simp only [Still_mk, StillAt_self, StillAns_next]
                  | split | intro _ | refine StillEx.state ?_ (by assumption)))

theorem still_tdacChanged {s : State} (g : Nat) (hKs : Still og s) : Still og (tdacChanged s g) := by
  unfold tdacChanged
  (repeat' (first | with_reducible assumption | ((with_reducible apply quiet_side); rfl)
                  | with_reducible (first | apply still_setGroup)))

theorem still_writeTdacMask {s : State} (g : Nat) (v : Int) (hKs : Still og s) : StillEx og id (writeTdacMask s g v) := by
  unfold writeTdacMask
  (repeat' (first | with_reducible assumption | ((with_reducible apply quiet_side); rfl)
                  | with_reducible (first | apply Still_if | apply StillRes_if | apply StillEx_if | apply still_wrNext
                                          | apply still_ok | apply still_tdacChanged)
                  | (with_reducible apply Still_foldl; intro _ _ _)
                  | simp only [Still_mk, StillAt_self, StillRes_done, StillRes_later, StillEx_ok, StillEx_error, id] | split
                  | intro _))

theorem still_execTdacMaskWrite (group : Nat) (value : Int) {s : State} (hKs : Still og s)
    : StillAns og (execTdacMaskWrite group value s) := by
  unfold execTdacMaskWrite
  (repeat' (first | with_reducible assumption | ((with_reducible apply quiet_side); rfl)
                  | with_reducible (first | apply Still_if | apply StillAns_if | apply still_writeTdacMask
                                          | apply still_written) | (with_reducible apply Still_foldl; intro _ _ _)
                  | simp only [Still_mk, StillAt_self, StillAns_next] | split | intro _
                  | refine StillEx.state ?_ (by assumption)))

theorem still_crossAll {s : State} (g : Nat) (hKs : Still og s) : Still og (crossAll s g) := by
  unfold crossAll
  (repeat' (first | with_reducible assumption | ((with_reducible apply quiet_side); rfl)
                  | with_reducible (first | apply Still_if | apply still_setGroup | apply still_place)
                  | (with_reducible apply Still_foldl; intro _ _ _) | simp only [Still_mk, StillAt_self] | split | intro _))

theorem still_stopGroup {s : State} (g : Nat) (hKs : Still og s) : Still og (stopGroup s g) := by
  unfold stopGroup
  (repeat' (first | with_reducible assumption | ((with_reducible apply quiet_side); rfl)
                  | with_reducible (first | apply still_setGroup)))

theorem still_takeSrc {s : State} (g : Nat) (hKs : Still og s) : Still og (takeSrc s g) := by
  unfold takeSrc
  (repeat' (first | with_reducible assumption | ((with_reducible apply quiet_side); rfl)
                  | with_reducible (first | apply Still_if | apply still_setGroup | apply still_azAlone | apply still_azEnd
                                          | apply still_restGroup | apply still_restartAvg)
                  | (with_reducible apply Still_foldl; intro _ _ _) | simp only [Still_mk, StillAt_self] | split | intro _))

theorem still_takeMode {s : State} (g : Nat) (hKs : Still og s) : Still og (takeMode s g) := by
  unfold takeMode
  (repeat' (first | with_reducible assumption | ((with_reducible apply quiet_side); rfl)
                  | with_reducible (first | apply Still_if | apply still_setGroup | apply still_closeForGroup
                                          | apply still_crossAll | apply still_restGroup)
                  | (with_reducible apply Still_foldl; intro _ _ _) | simp only [Still_mk, StillAt_self] | split | intro _))

theorem still_groupBoundary {s : State} (g : Nat) (hKs : Still og s) : Still og (groupBoundary s g) := by
  unfold groupBoundary
  (repeat' (first | with_reducible assumption | ((with_reducible apply quiet_side); rfl)
                  | with_reducible (first | apply Still_if | apply still_setGroup | apply still_azReconnects
                                          | apply still_restGroup | apply still_stopGroup | apply still_takeMode
                                          | apply still_takeSrc) | (with_reducible apply Still_foldl; intro _ _ _)
                  | simp only [Still_mk, StillAt_self] | split | intro _))

theorem still_admitSlot {s : State} (e k : Nat) (hKs : Still og s) : StillEx og id (admitSlot s e k) := by
  unfold admitSlot
  (repeat' (first | with_reducible assumption | ((with_reducible apply quiet_side); rfl)
                  | with_reducible (first | apply Still_if | apply StillRes_if | apply StillEx_if | apply still_setSlot
                                          | apply still_ok | apply still_reportBudget)
                  | (with_reducible apply Still_foldl; intro _ _ _)
                  | simp only [Still_mk, StillAt_self, StillRes_done, StillRes_later, StillEx_ok, StillEx_error, id] | split
                  | intro _))

theorem still_endEventHold {s : State} (e : Nat) (hKs : Still og s) : Still og (endEventHold s e) := by
  unfold endEventHold
  (repeat' (first | with_reducible assumption | ((with_reducible apply quiet_side); rfl)
                  | with_reducible (first | apply Still_if | apply still_setEngine | apply still_resumeSlot)
                  | (with_reducible apply Still_foldl; intro _ _ _) | simp only [Still_mk, StillAt_self] | split | intro _))

theorem still_sweReady {s : State} (e : Nat) (ks : List Nat) (resume : Bool) (hKs : Still og s)
    : Still og (sweReady s e ks resume) := by
  unfold sweReady
  (repeat' (first | with_reducible assumption | ((with_reducible apply quiet_side); rfl)
                  | with_reducible (first | apply Still_if | apply still_setSlot | apply still_setSlotState
                                          | apply still_bringForward | apply still_endEventHold | apply still_preempt
                                          | apply still_takeControl) | (with_reducible apply Still_foldl; intro _ _ _)
                  | simp only [Still_mk, StillAt_self] | split | intro _))

theorem still_clearCapt {s : State} (n : Nat) (hKs : Still og s) : Still og (clearCapt s n) := by
  unfold clearCapt
  (repeat' (first | with_reducible assumption | ((with_reducible apply quiet_side); rfl)
                  | with_reducible (first | apply still_setCon)))

theorem still_startTogether {s : State} (e : Nat) (hKs : Still og s) : Still og (startTogether s e) := by
  unfold startTogether
  (repeat' (first | with_reducible assumption | ((with_reducible apply quiet_side); rfl)
                  | with_reducible (first | apply Still_if | apply still_abortEngine | apply still_bringForward
                                          | apply still_clearCapt | apply still_sweReady)
                  | (with_reducible apply Still_foldl; intro _ _ _) | simp only [Still_mk, StillAt_self] | split | intro _))

theorem still_sweBoundary {s : State} (e : Nat) (hKs : Still og s) : Still og (sweBoundary s e) := by
  unfold sweBoundary
  (repeat' (first | with_reducible assumption | ((with_reducible apply quiet_side); rfl)
                  | with_reducible (first | apply Still_if | apply still_setEngine | apply still_abortSlots
                                          | apply still_bringForward | apply still_resumeSlot | apply still_startTogether)
                  | (with_reducible apply Still_foldl; intro _ _ _) | simp only [Still_mk, StillAt_self] | split | intro _))

theorem still_slotCmd (p : Pkt) {s : State} (body : Nat → Nat → Res) (hKs : Still og s)
    (hKbody : ∀ y0 : Nat, ∀ y1 : Nat, StillRes og (body y0 y1)) : StillRes og (slotCmd p s body) := by
  unfold slotCmd
  (repeat' (first | with_reducible assumption | ((with_reducible apply quiet_side); rfl)
                  | with_reducible (first | apply Still_if | apply StillRes_if | apply still_refuse)
                  | (with_reducible apply Still_foldl; intro _ _ _)
                  | simp only [Still_mk, StillAt_self, StillRes_done, StillRes_later] | split| apply hKbody | intro _))

theorem still_execSweStart (p : Pkt) {s : State} (hKs : Still og s) : StillAns og (execSweStart p s) := by
  unfold execSweStart
  (repeat' (first | with_reducible assumption | ((with_reducible apply quiet_side); rfl)
                  | with_reducible (first | apply Still_if | apply StillRes_if | apply StillAns_if | apply still_setSlot
                                          | apply still_admitSlot | apply still_ok | apply still_refuse | apply still_runCmd
                                          | apply still_slotCmd) | (with_reducible apply Still_foldl; intro _ _ _)
                  | simp only [Still_mk, StillAt_self, StillRes_done, StillRes_later, StillAns_next] | split | intro _
                  | refine StillEx.state ?_ (by assumption)))

theorem still_execSweArm (p : Pkt) {s : State} (hKs : Still og s) : StillAns og (execSweArm p s) := by
  unfold execSweArm
  (repeat' (first | with_reducible assumption | ((with_reducible apply quiet_side); rfl)
                  | with_reducible (first | apply Still_if | apply StillRes_if | apply StillAns_if | apply still_setSlotState
                                          | apply still_wr | apply still_admitSlot | apply still_ok | apply still_refuse
                                          | apply still_runCmd | apply still_slotCmd)
                  | (with_reducible apply Still_foldl; intro _ _ _)
                  | simp only [Still_mk, StillAt_self, StillRes_done, StillRes_later, StillAns_next] | split | intro _
                  | refine StillEx.state ?_ (by assumption)))

theorem still_execSweResume (p : Pkt) {s : State} (hKs : Still og s) : StillAns og (execSweResume p s) := by
  unfold execSweResume
  (repeat' (first | with_reducible assumption | ((with_reducible apply quiet_side); rfl)
                  | with_reducible (first | apply Still_if | apply StillRes_if | apply StillAns_if | apply still_setEngine
                                          | apply still_ok | apply still_refuse | apply still_resumeSlot | apply still_runCmd
                                          | apply still_slotCmd) | (with_reducible apply Still_foldl; intro _ _ _)
                  | simp only [Still_mk, StillAt_self, StillRes_done, StillRes_later, StillAns_next] | split | intro _))

theorem still_execSweAbort (p : Pkt) {s : State} (hKs : Still og s) : StillAns og (execSweAbort p s) := by
  unfold execSweAbort
  (repeat' (first | with_reducible assumption | ((with_reducible apply quiet_side); rfl)
                  | with_reducible (first | apply Still_if | apply StillRes_if | apply StillAns_if | apply still_setSlot
                                          | apply still_ok | apply still_refuse | apply still_runCmd)
                  | (with_reducible apply Still_foldl; intro _ _ _)
                  | simp only [Still_mk, StillAt_self, StillRes_done, StillRes_later, StillAns_next] | split | intro _))

theorem still_execSweRelease (p : Pkt) {s : State} (hKs : Still og s) : StillAns og (execSweRelease p s) := by
  unfold execSweRelease
  (repeat' (first | with_reducible assumption | ((with_reducible apply quiet_side); rfl)
                  | with_reducible (first | apply Still_if | apply StillRes_if | apply StillAns_if | apply still_setSlot
                                          | apply still_setSlotState | apply still_wr | apply still_ok | apply still_refuse
                                          | apply still_runCmd | apply still_slotCmd | apply still_unreserve)
                  | (with_reducible apply Still_foldl; intro _ _ _)
                  | simp only [Still_mk, StillAt_self, StillRes_done, StillRes_later, StillAns_next] | split | intro _))

theorem still_execSweSignal (p : Pkt) {s : State} (hKs : Still og s) : StillAns og (execSweSignal p s) := by
  unfold execSweSignal
  (repeat' (first | with_reducible assumption | ((with_reducible apply quiet_side); rfl)
                  | with_reducible (first | apply Still_if | apply StillRes_if | apply StillAns_if | apply still_put
                                          | apply still_ok | apply still_refuse | apply still_runCmd)
                  | (with_reducible apply Still_foldl; intro _ _ _)
                  | simp only [Still_mk, StillAt_self, StillRes_done, StillRes_later, StillAns_next] | split | intro _))

theorem still_execSweEvStart (engine : Nat) {s : State} (hKs : Still og s) : StillAns og (execSweEvStart engine s) := by
  unfold execSweEvStart
  (repeat' (first | with_reducible assumption | ((with_reducible apply quiet_side); rfl)
                  | with_reducible (first | apply Still_if | apply StillAns_if | apply still_done | apply still_startTogether)
                  | (with_reducible apply Still_foldl; intro _ _ _) | simp only [Still_mk, StillAt_self, StillAns_next]
                  | split | intro _))

theorem still_execSweEvNext (engine : Nat) {s : State} (hKs : Still og s) : StillAns og (execSweEvNext engine s) := by
  unfold execSweEvNext
  (repeat' (first | with_reducible assumption | ((with_reducible apply quiet_side); rfl)
                  | with_reducible (first | apply Still_if | apply StillAns_if | apply still_setEngine
                                          | apply still_bringForward | apply still_clearCapt | apply still_done
                                          | apply still_endPoint) | (with_reducible apply Still_foldl; intro _ _ _)
                  | simp only [Still_mk, StillAt_self, StillAns_next] | split | intro _))

theorem still_execSweEvHold (engine : Nat) {s : State} (hKs : Still og s) : StillAns og (execSweEvHold engine s) := by
  unfold execSweEvHold
  (repeat' (first | with_reducible assumption | ((with_reducible apply quiet_side); rfl)
                  | with_reducible (first | apply Still_if | apply StillAns_if | apply still_clearCapt | apply still_done
                                          | apply still_requestHold) | (with_reducible apply Still_foldl; intro _ _ _)
                  | simp only [Still_mk, StillAt_self, StillAns_next] | split | intro _))

theorem still_execSweEvAbort (engine : Nat) {s : State} (hKs : Still og s) : StillAns og (execSweEvAbort engine s) := by
  unfold execSweEvAbort
  (repeat' (first | with_reducible assumption | ((with_reducible apply quiet_side); rfl)
                  | with_reducible (first | apply Still_if | apply StillAns_if | apply still_abortEngine
                                          | apply still_bringForward | apply still_clearCapt | apply still_done)
                  | (with_reducible apply Still_foldl; intro _ _ _) | simp only [Still_mk, StillAt_self, StillAns_next]
                  | split | intro _))

theorem still_releaseSample {s : State} (e at_ : Nat) (hKs : Still og s) : Still og (releaseSample s e at_) := by
  unfold releaseSample
  (repeat' (first | with_reducible assumption | ((with_reducible apply quiet_side); rfl)
                  | with_reducible (first | apply Still_if | apply still_setEngine | apply still_abandonAz
                                          | apply still_fabricTrigger) | (with_reducible apply Still_foldl; intro _ _ _)
                  | simp only [Still_mk, StillAt_self] | split | intro _))

theorem still_execSweWaitRelease (engine : Nat) {s : State} (hKs : Still og s) : StillAns og (execSweWaitRelease engine s) :=
    by
  unfold execSweWaitRelease
  (repeat' (first | with_reducible assumption | ((with_reducible apply quiet_side); rfl)
                  | with_reducible (first | apply Still_if | apply StillAns_if | apply still_put | apply still_setEngine
                                          | apply still_setSlotState | apply still_abandonAz | apply still_applyPoint
                                          | apply still_bringForward | apply still_done | apply still_fabricTrigger)
                  | (with_reducible apply Still_foldl; intro _ _ _) | simp only [Still_mk, StillAt_self, StillAns_next]
                  | split | intro _))

theorem still_execSweStartAt (engine : Nat) (slot : Nat) {s : State} (hKs : Still og s)
    : StillAns og (execSweStartAt engine slot s) := by
  unfold execSweStartAt
  (repeat' (first | with_reducible assumption | ((with_reducible apply quiet_side); rfl)
                  | with_reducible (first | apply Still_if | apply StillAns_if | apply still_done | apply still_startTogether)
                  | (with_reducible apply Still_foldl; intro _ _ _) | simp only [Still_mk, StillAt_self, StillAns_next]
                  | split | intro _))

theorem still_execSweWaitTimeout (engine : Nat) {s : State} (hKs : Still og s) : StillAns og (execSweWaitTimeout engine s) :=
    by
  unfold execSweWaitTimeout
  (repeat' (first | with_reducible assumption | ((with_reducible apply quiet_side); rfl)
                  | with_reducible (first | apply Still_if | apply StillAns_if | apply still_abortSlot
                                          | apply still_bringForward | apply still_done | apply still_record)
                  | (with_reducible apply Still_foldl; intro _ _ _) | simp only [Still_mk, StillAt_self, StillAns_next]
                  | split | intro _))

theorem still_execPointEnd (engine : Nat) {s : State} (hKs : Still og s) : StillAns og (execPointEnd engine s) := by
  unfold execPointEnd
  (repeat' (first | with_reducible assumption | ((with_reducible apply quiet_side); rfl)
                  | with_reducible (first | apply Still_if | apply StillAns_if | apply still_bringForward | apply still_done
                                          | apply still_endPoint) | (with_reducible apply Still_foldl; intro _ _ _)
                  | simp only [Still_mk, StillAt_self, StillAns_next] | split | intro _))

theorem still_execPointApply (engine : Nat) {s : State} (hKs : Still og s) : StillAns og (execPointApply engine s) := by
  unfold execPointApply
  (repeat' (first | with_reducible assumption | ((with_reducible apply quiet_side); rfl)
                  | with_reducible (first | apply Still_if | apply StillAns_if | apply still_applyPoint | apply still_done)
                  | (with_reducible apply Still_foldl; intro _ _ _) | simp only [Still_mk, StillAt_self, StillAns_next]
                  | split | intro _))

theorem still_execPulseEdgeStart (engine : Nat) {s : State} (hKs : Still og s) : StillAns og (execPulseEdgeStart engine s) :=
    by
  unfold execPulseEdgeStart
  (repeat' (first | with_reducible assumption | ((with_reducible apply quiet_side); rfl)
                  | with_reducible (first | apply Still_if | apply StillAns_if | apply still_done | apply still_pulseOn)
                  | (with_reducible apply Still_foldl; intro _ _ _) | simp only [Still_mk, StillAt_self, StillAns_next]
                  | split | intro _))

theorem still_execPulseEdgeEnd (engine : Nat) {s : State} (hKs : Still og s) : StillAns og (execPulseEdgeEnd engine s) := by
  unfold execPulseEdgeEnd
  (repeat' (first | with_reducible assumption | ((with_reducible apply quiet_side); rfl)
                  | with_reducible (first | apply Still_if | apply StillAns_if | apply still_done | apply still_pulseOff)
                  | (with_reducible apply Still_foldl; intro _ _ _) | simp only [Still_mk, StillAt_self, StillAns_next]
                  | split | intro _))

theorem still_execSwePreemptCut (engine : Nat) {s : State} (hKs : Still og s) : StillAns og (execSwePreemptCut engine s) := by
  unfold execSwePreemptCut
  (repeat' (first | with_reducible assumption | ((with_reducible apply quiet_side); rfl)
                  | with_reducible (first | apply Still_if | apply StillAns_if | apply still_setSlot | apply still_wr
                                          | apply still_bringForward | apply still_closeStatus | apply still_done
                                          | apply still_endPoint | apply still_preempt)
                  | (with_reducible apply Still_foldl; intro _ _ _) | simp only [Still_mk, StillAt_self, StillAns_next]
                  | split | intro _))

theorem still_execCalCertRead (p : Pkt) (_wr : Option HostFault) {s : State} (hKs : Still og s)
    : StillAns og (execCalCertRead p _wr s) := by
  unfold execCalCertRead
  (repeat' (first | with_reducible assumption | ((with_reducible apply quiet_side); rfl)
                  | with_reducible (first | apply Still_if | apply StillRes_if | apply StillAns_if | apply still_hostPut
                                          | apply still_refuse | apply still_runCmd)
                  | (with_reducible apply Still_foldl; intro _ _ _)
                  | simp only [Still_mk, StillAt_self, StillRes_done, StillRes_later, StillAns_next] | split | intro _))

theorem still_execCalSave (p : Pkt) (_wr : Option HostFault) {s : State} (hKs : Still og s)
    : StillAns og (execCalSave p _wr s) := by
  unfold execCalSave
  (repeat' (first | with_reducible assumption | ((with_reducible apply quiet_side); rfl)
                  | with_reducible (first | apply Still_if | apply StillRes_if | apply StillAns_if | apply still_hostPut
                                          | apply still_refuse | apply still_runCmd)
                  | (with_reducible apply Still_foldl; intro _ _ _)
                  | simp only [Still_mk, StillAt_self, StillRes_done, StillRes_later, StillAns_next] | split | intro _))

theorem still_refDeviation {s : State} (measured : Int) (hKs : Still og s) : Still og (refDeviation s measured).2 := by
  unfold refDeviation
  (repeat' (first | with_reducible assumption | ((with_reducible apply quiet_side); rfl)
                  | with_reducible (first | apply Still_if | apply still_drawInt)
                  | (with_reducible apply Still_foldl; intro _ _ _) | simp only [Still_mk, StillAt_self] | split | intro _
                  | refine Still.snd ?_ (by assumption)))

end Sys2Proof.Machine
end

