-- ==== Sys2Proof/Laws/StillStream.lean ====
section
/-!
SUPPORT. What each function leaves alone (Still): streams, pins, sequencers.
-/
set_option linter.unusedTactic false
set_option linter.unreachableTactic false
set_option linter.unusedSimpArgs false
namespace Sys2Proof.Machine
variable {og : State}

theorem still_awaitXlt {s : State} (n : Nat) (hKs : Still og s) : Still og (awaitXlt s n) := by
  unfold awaitXlt
  (repeat' (first | with_reducible assumption | ((with_reducible apply quiet_side); rfl)
                  | with_reducible (first | apply still_setStream)))

theorem still_streamIrq {s : State} (n : Nat) (hKs : Still og s) : Still og (streamIrq s n) := by
  unfold streamIrq
  (repeat' (first | with_reducible assumption | ((with_reducible apply quiet_side); rfl)
                  | with_reducible (first | apply Still_if | apply still_raise | apply still_setStream)
                  | (with_reducible apply Still_foldl; intro _ _ _) | simp only [Still_mk, StillAt_self] | split | intro _))

theorem still_indexDone {s : State} (n : Nat) (hKs : Still og s) : Still og (indexDone s n) := by
  unfold indexDone
  (repeat' (first | with_reducible assumption | ((with_reducible apply quiet_side); rfl)
                  | with_reducible (first | apply Still_if | apply still_put | apply still_setStream | apply still_flushCheck
                                          | apply still_freeSlot | apply still_stopCheck | apply still_streamIrq)
                  | (with_reducible apply Still_foldl; intro _ _ _) | simp only [Still_mk, StillAt_self] | split | intro _))

theorem still_dataIssued {s : State} (n : Nat) (hKs : Still og s) : Still og (dataIssued s n) := by
  unfold dataIssued
  (repeat' (first | with_reducible assumption | ((with_reducible apply quiet_side); rfl)
                  | with_reducible (first | apply still_setStream)))

theorem still_forwardUnit {s : State} (n : Nat) (d : Nat × Nat) (ws : List Nat) (hKs : Still og s)
    : Still og (forwardUnit s n d ws) := by
  unfold forwardUnit
  (repeat' (first | with_reducible assumption | ((with_reducible apply quiet_side); rfl)
                  | with_reducible (first | apply still_frameTo | apply still_awaitXlt)))

theorem still_forwardDone {s : State} (n : Nat) (hKs : Still og s) : Still og (forwardDone s n) := by
  unfold forwardDone
  (repeat' (first | with_reducible assumption | ((with_reducible apply quiet_side); rfl)
                  | with_reducible (first | apply Still_if | apply still_setStream | apply still_dataIssued
                                          | apply still_indexDone) | (with_reducible apply Still_foldl; intro _ _ _)
                  | simp only [Still_mk, StillAt_self] | split | intro _))

theorem still_issueIndex {s : State} (n addr : Nat) (hKs : Still og s) : Still og (issueIndex s n addr) := by
  unfold issueIndex
  (repeat' (first | with_reducible assumption | ((with_reducible apply quiet_side); rfl)
                  | with_reducible (first | apply Still_if | apply still_request | apply still_forwardUnit
                                          | apply still_indexDone) | (with_reducible apply Still_foldl; intro _ _ _)
                  | simp only [Still_mk, StillAt_self] | split | intro _))

theorem still_issueData {s : State} (n addr : Nat) (media : Bool) (hKs : Still og s) : Still og (issueData s n addr media) :=
    by
  unfold issueData
  (repeat' (first | with_reducible assumption | ((with_reducible apply quiet_side); rfl)
                  | with_reducible (first | apply Still_if | apply still_request | apply still_setStream
                                          | apply still_dataIssued | apply still_flushCheck | apply still_forwardUnit
                                          | apply still_loseBlock | apply still_stopCheck)
                  | (with_reducible apply Still_foldl; intro _ _ _) | simp only [Still_mk, StillAt_self] | split | intro _))

theorem still_setXfer {s : State} (x : Xfer) (hKs : Still og s) : Still og (setXfer s x) := by
  cases x <;> (unfold setXfer; (repeat' (first | with_reducible assumption | ((with_reducible apply quiet_side); rfl)
                                               | with_reducible (first | apply Still_if)
                                               | (with_reducible apply Still_foldl; intro _ _ _)
                                               | simp only [Still_mk, StillAt_self] | split | intro _)))

theorem still_ringFails {s : State} (q : Nat) (hKs : Still og s) : Still og (ringFails s q) := by
  unfold ringFails
  (repeat' (first | with_reducible assumption | ((with_reducible apply quiet_side); rfl)
                  | with_reducible (first | apply Still_if | apply still_setSq | apply still_record)
                  | (with_reducible apply Still_foldl; intro _ _ _) | simp only [Still_mk, StillAt_self] | split | intro _))

theorem still_postFails {s : State} (q : Nat) (hKs : Still og s) : Still og (postFails s q) := by
  unfold postFails
  (repeat' (first | with_reducible assumption | ((with_reducible apply quiet_side); rfl)
                  | with_reducible (first | apply Still_if | apply still_setCq | apply still_record)
                  | (with_reducible apply Still_foldl; intro _ _ _) | simp only [Still_mk, StillAt_self] | split | intro _))

theorem still_execStmStop (p : Pkt) {s : State} (hKs : Still og s) : StillAns og (execStmStop p s) := by
  unfold execStmStop
  (repeat' (first | with_reducible assumption | ((with_reducible apply quiet_side); rfl)
                  | with_reducible (first | apply Still_if | apply StillRes_if | apply StillAns_if | apply still_put
                                          | apply still_setStream | apply still_closeBlock | apply still_endStop
                                          | apply still_ok | apply still_refuse | apply still_runCmd | apply still_stopCheck
                                          | apply still_unbecalm) | (with_reducible apply Still_foldl; intro _ _ _)
                  | simp only [Still_mk, StillAt_self, StillRes_done, StillRes_later, StillAns_next] | split | intro _))

theorem still_execStmFlush (p : Pkt) {s : State} (hKs : Still og s) : StillAns og (execStmFlush p s) := by
  unfold execStmFlush
  (repeat' (first | with_reducible assumption | ((with_reducible apply quiet_side); rfl)
                  | with_reducible (first | apply Still_if | apply StillRes_if | apply StillAns_if | apply still_setStream
                                          | apply still_closeBlock | apply still_done | apply still_flushCheck
                                          | apply still_ok | apply still_refuse | apply still_runCmd)
                  | (with_reducible apply Still_foldl; intro _ _ _)
                  | simp only [Still_mk, StillAt_self, StillRes_done, StillRes_later, StillAns_next] | split | intro _))

theorem still_execStreamRecordArrive (group : Nat) {s : State} (hKs : Still og s)
    : StillAns og (execStreamRecordArrive group s) := by
  unfold execStreamRecordArrive
  (repeat' (first | with_reducible assumption | ((with_reducible apply quiet_side); rfl)
                  | with_reducible (first | apply Still_if | apply StillAns_if | apply still_setGroup | apply still_done
                                          | apply still_place | apply still_restGroup)
                  | (with_reducible apply Still_foldl; intro _ _ _) | simp only [Still_mk, StillAt_self, StillAns_next]
                  | split | intro _))

theorem still_execBlockAgeExpiry (st : Nat) {s : State} (hKs : Still og s) : StillAns og (execBlockAgeExpiry st s) := by
  unfold execBlockAgeExpiry
  (repeat' (first | with_reducible assumption | ((with_reducible apply quiet_side); rfl)
                  | with_reducible (first | apply Still_if | apply StillAns_if | apply still_closeBlock | apply still_done)
                  | (with_reducible apply Still_foldl; intro _ _ _) | simp only [Still_mk, StillAt_self, StillAns_next]
                  | split | intro _))

theorem still_takeReadIndex {s : State} (n value : Nat) (hKs : Still og s) : Still og (takeReadIndex s n value) := by
  unfold takeReadIndex
  (repeat' (first | with_reducible assumption | ((with_reducible apply quiet_side); rfl)
                  | with_reducible (first | apply Still_if | apply still_put | apply still_record)
                  | (with_reducible apply Still_foldl; intro _ _ _) | simp only [Still_mk, StillAt_self] | split | intro _))

theorem still_execRdIdxDoorbell (st value : Nat) {s : State} (hKs : Still og s)
    : StillAns og (execRdIdxDoorbell st value s) := by
  unfold execRdIdxDoorbell
  (repeat' (first | with_reducible assumption | ((with_reducible apply quiet_side); rfl)
                  | with_reducible (first | apply Still_if | apply StillAns_if | apply still_done | apply still_takeReadIndex)
                  | (with_reducible apply Still_foldl; intro _ _ _) | simp only [Still_mk, StillAt_self, StillAns_next]
                  | split | intro _))

theorem still_execFwdRdIdxPoll (st value : Nat) {s : State} (hKs : Still og s) : StillAns og (execFwdRdIdxPoll st value s) :=
    by
  unfold execFwdRdIdxPoll
  (repeat' (first | with_reducible assumption | ((with_reducible apply quiet_side); rfl)
                  | with_reducible (first | apply Still_if | apply StillAns_if | apply still_frameTo | apply still_setStream
                                          | apply still_done | apply still_takeReadIndex)
                  | (with_reducible apply Still_foldl; intro _ _ _) | simp only [Still_mk, StillAt_self, StillAns_next]
                  | split | intro _))

theorem still_execDrvOvl (pin : Nat) {s : State} (hKs : Still og s) : StillAns og (execDrvOvl pin s) := by
  unfold execDrvOvl
  (repeat' (first | with_reducible assumption | ((with_reducible apply quiet_side); rfl)
                  | with_reducible (first | apply Still_if | apply StillAns_if | apply still_done | apply still_record
                                          | apply still_recordEach) | (with_reducible apply Still_foldl; intro _ _ _)
                  | simp only [Still_mk, StillAt_self, StillAns_next] | split | intro _))

theorem still_execPinOvervolt (pin : Nat) {s : State} (hKs : Still og s) : StillAns og (execPinOvervolt pin s) := by
  unfold execPinOvervolt
  (repeat' (first | with_reducible assumption | ((with_reducible apply quiet_side); rfl)
                  | with_reducible (first | apply Still_if | apply StillAns_if | apply still_done | apply still_outrank
                                          | apply still_record) | (with_reducible apply Still_foldl; intro _ _ _)
                  | simp only [Still_mk, StillAt_self, StillAns_next] | split | intro _))

theorem still_writePmuEn {s : State} (n : Nat) (v : Int) (hKs : Still og s) : StillEx og id (writePmuEn s n v) := by
  unfold writePmuEn
  (repeat' (first | with_reducible assumption | ((with_reducible apply quiet_side); rfl)
                  | with_reducible (first | apply Still_if | apply StillRes_if | apply StillEx_if | apply still_put
                                          | apply still_setPin | apply still_enterPin | apply still_ok)
                  | (with_reducible apply Still_foldl; intro _ _ _)
                  | simp only [Still_mk, StillAt_self, StillRes_done, StillRes_later, StillEx_ok, StillEx_error, id] | split
                  | intro _))

theorem still_execPmuEnWrite (pin : Nat) (value : Int) {s : State} (hKs : Still og s)
    : StillAns og (execPmuEnWrite pin value s) := by
  unfold execPmuEnWrite
  (repeat' (first | with_reducible assumption | ((with_reducible apply quiet_side); rfl)
                  | with_reducible (first | apply Still_if | apply StillAns_if | apply still_writePmuEn | apply still_written)
                  | (with_reducible apply Still_foldl; intro _ _ _) | simp only [Still_mk, StillAt_self, StillAns_next]
                  | split | intro _ | refine StillEx.state ?_ (by assumption)))

theorem still_execPmuSwitchDone (pin : Nat) {s : State} (hKs : Still og s) : StillAns og (execPmuSwitchDone pin s) := by
  unfold execPmuSwitchDone
  (repeat' (first | with_reducible assumption | ((with_reducible apply quiet_side); rfl)
                  | with_reducible (first | apply Still_if | apply StillAns_if | apply still_setPin | apply still_done
                                          | apply still_enterPin) | (with_reducible apply Still_foldl; intro _ _ _)
                  | simp only [Still_mk, StillAt_self, StillAns_next] | split | intro _))

theorem still_chipCause {s : State} (chip code : Nat) (hKs : Still og s) : Still og (chipCause s chip code) := by
  unfold chipCause
  (repeat' (first | with_reducible assumption | ((with_reducible apply quiet_side); rfl)
                  | with_reducible (first | apply Still_if | apply still_record)
                  | (with_reducible apply Still_foldl; intro _ _ _) | simp only [Still_mk, StillAt_self] | split | intro _))

theorem still_execComparatorInputCrossing (cmp : Cmp) (above : Bool) {s : State} (hKs : Still og s)
    : StillAns og (execComparatorInputCrossing cmp above s) := by
  unfold execComparatorInputCrossing
  (repeat' (first | with_reducible assumption | ((with_reducible apply quiet_side); rfl)
                  | with_reducible (first | apply Still_if | apply StillAns_if | apply still_setComp | apply still_done
                                          | apply still_windowOut) | (with_reducible apply Still_foldl; intro _ _ _)
                  | simp only [Still_mk, StillAt_self, StillAns_next] | split | intro _))

theorem still_filterEdge {s : State} (c : Cmp) (hKs : Still og s) : Still og (filterEdge s c) := by
  unfold filterEdge
  (repeat' (first | with_reducible assumption | ((with_reducible apply quiet_side); rfl)
                  | with_reducible (first | apply Still_if | apply still_publish | apply still_setComp)
                  | (with_reducible apply Still_foldl; intro _ _ _) | simp only [Still_mk, StillAt_self] | split | intro _))

theorem still_filterEdges (c : Cmp) (n : Nat) {s : State} (hKs : Still og s) : Still og (filterEdges c n s) := by
  induction n generalizing s with
  | zero => exact hKs
  | succ n ih =>
    exact ih (still_filterEdge _ hKs)

theorem still_execComparatorFilterAccept (cmp : Cmp) (edges : Nat) {s : State} (hKs : Still og s)
    : StillAns og (execComparatorFilterAccept cmp edges s) := by
  unfold execComparatorFilterAccept
  (repeat' (first | with_reducible assumption | ((with_reducible apply quiet_side); rfl)
                  | with_reducible (first | apply Still_if | apply StillAns_if | apply still_done | apply still_filterEdges)
                  | (with_reducible apply Still_foldl; intro _ _ _) | simp only [Still_mk, StillAt_self, StillAns_next]
                  | split | intro _))

theorem still_execComparatorModeChangeDone (cmp : Cmp) {s : State} (hKs : Still og s)
    : StillAns og (execComparatorModeChangeDone cmp s) := by
  unfold execComparatorModeChangeDone
  (repeat' (first | with_reducible assumption | ((with_reducible apply quiet_side); rfl)
                  | with_reducible (first | apply Still_if | apply StillAns_if | apply still_setComp | apply still_done
                                          | apply still_windowOut) | (with_reducible apply Still_foldl; intro _ _ _)
                  | simp only [Still_mk, StillAt_self, StillAns_next] | split | intro _))

theorem still_writeCmpCtl {s : State} (c : Cmp) (put : Nat → State) (v : Nat) (hKs : Still og s)
    (hKput : ∀ y0 : Nat, Still og (put y0)) : StillEx og id (writeCmpCtl s c put v) := by
  unfold writeCmpCtl
  (repeat' (first | with_reducible assumption | ((with_reducible apply quiet_side); rfl)
                  | with_reducible (first | apply Still_if | apply StillRes_if | apply StillEx_if | apply still_setComp
                                          | apply still_bandChanges | apply still_modeChanges | apply still_ok)
                  | (with_reducible apply Still_foldl; intro _ _ _)
                  | simp only [Still_mk, StillAt_self, StillRes_done, StillRes_later, StillEx_ok, StillEx_error, id]
                  | split| apply hKput | intro _))

theorem still_enterPass {s : State} (d seg pass : Nat) (hKs : Still og s) : Still og (enterPass s d seg pass) := by
  unfold enterPass
  (repeat' (first | with_reducible assumption | ((with_reducible apply quiet_side); rfl)
                  | with_reducible (first | apply still_put | apply still_setSequencer)))

theorem still_dropJump {s : State} (d : Nat) (hKs : Still og s) : Still og (dropJump s d) := by
  unfold dropJump
  (repeat' (first | with_reducible assumption | ((with_reducible apply quiet_side); rfl)
                  | with_reducible (first | apply Still_if | apply still_bump | apply still_record)
                  | (with_reducible apply Still_foldl; intro _ _ _) | simp only [Still_mk, StillAt_self] | split | intro _))

theorem still_enterHeld {s : State} (d : Nat) (next : Nat × Nat) (hKs : Still og s) : Still og (enterHeld s d next) := by
  unfold enterHeld
  (repeat' (first | with_reducible assumption | ((with_reducible apply quiet_side); rfl)
                  | with_reducible (first | apply Still_if | apply still_put | apply still_setSeqSlot
                                          | apply still_setSequencer | apply still_holdHit | apply still_parkPins
                                          | apply still_stopCommits) | (with_reducible apply Still_foldl; intro _ _ _)
                  | simp only [Still_mk, StillAt_self] | split | intro _))

theorem still_seqPreempt {s : State} (d k : Nat) (next : Nat × Nat) (hKs : Still og s) : Still og (seqPreempt s d k next) :=
    by
  unfold seqPreempt
  (repeat' (first | with_reducible assumption | ((with_reducible apply quiet_side); rfl)
                  | with_reducible (first | apply Still_if | apply still_put | apply still_setSeqSlot
                                          | apply still_setSequencer | apply still_enterPass)
                  | (with_reducible apply Still_foldl; intro _ _ _) | simp only [Still_mk, StillAt_self] | split | intro _))

theorem still_passEnd {s : State} (d : Nat) (hKs : Still og s) : Still og (passEnd s d) := by
  unfold passEnd
  (repeat' (first | with_reducible assumption | ((with_reducible apply quiet_side); rfl)
                  | with_reducible (first | apply Still_if | apply still_dropJump | apply still_endProgram
                                          | apply still_enterHeld | apply still_enterPass | apply still_preempt
                                          | apply still_seqPreempt) | (with_reducible apply Still_foldl; intro _ _ _)
                  | simp only [Still_mk, StillAt_self] | split | intro _))

theorem still_captureAsks {s : State} (d : Nat) (hKs : Still og s) : Still og (captureAsks s d) := by
  unfold captureAsks
  (repeat' (first | with_reducible assumption | ((with_reducible apply quiet_side); rfl)
                  | with_reducible (first | apply still_setSequencer)))

theorem still_playPin (d map data : Nat) (t : Ts) {a : State × List (Nat × Nat × Int)} (p : Nat)
    (hKa : Still og a.1) : Still og (playPin d map data t a p).1 := by
  unfold playPin
  simp only []
  split
  · exact hKa
  · exact still_put _ _ _ (still_setPin _ _ hKa)

theorem still_putCapture {s : State} (d : Nat) (words : Bool → List Nat) (hKs : Still og s)
    : Still og (putCapture s d words) := by
  unfold putCapture
  (repeat' (first | with_reducible assumption | ((with_reducible apply quiet_side); rfl)
                  | with_reducible (first | apply Still_if | apply still_bump | apply still_setSequencer | apply still_tally
                                          | apply still_record) | (with_reducible apply Still_foldl; intro _ _ _)
                  | simp only [Still_mk, StillAt_self] | split | intro _))

theorem still_compareVector {s : State} (d map : Nat) (w : VecWord) (t : Ts) (seen : List PinSeen) (hKs : Still og s)
    : Still og (compareVector s d map w t seen) := by
  unfold compareVector
  (repeat' (first | with_reducible assumption | ((with_reducible apply quiet_side); rfl)
                  | with_reducible (first | apply Still_if | apply still_bump | apply still_setSequencer
                                          | apply still_putCapture) | (with_reducible apply Still_foldl; intro _ _ _)
                  | simp only [Still_mk, StillAt_self] | split | intro _))

theorem still_failClock {s : State} (d : Nat) (hKs : Still og s) : Still og (failClock s d) := by
  unfold failClock
  (repeat' (first | with_reducible assumption | ((with_reducible apply quiet_side); rfl)
                  | with_reducible (first | apply Still_if | apply still_publish | apply still_setSequencer)
                  | (with_reducible apply Still_foldl; intro _ _ _) | simp only [Still_mk, StillAt_self] | split | intro _))

theorem still_markVector {s : State} (d : Nat) (w : VecWord) (t : Ts) (hKs : Still og s) : Still og (markVector s d w t).1 :=
    by
  unfold markVector
  (repeat' (first | with_reducible assumption | ((with_reducible apply quiet_side); rfl)
                  | with_reducible (first | apply Still_if | apply still_publish)
                  | (with_reducible apply Still_foldl; intro _ _ _) | simp only [Still_mk, StillAt_self] | split | intro _))

theorem still_issueVector {s : State} (d map : Nat) (w : VecWord) (pad : Bool) (seen : List PinSeen)
    (hKs : Still og s) : Still og (issueVector s d map w pad seen) := by
  have fold : ∀ (t : Ts) (l : List Nat) (a : State × List (Nat × Nat × Int)), Still og a.1 →
      Still og (l.foldl (playPin d map w.data t) a).1 := by
    intro t l
    induction l with
    | nil => exact fun _ h => h
    | cons p l ih => exact fun a h => ih _ (still_playPin d map w.data t p h)
  have h := fold ((s.sequencer d).ts (fld w.tag 0 5)) (List.range 128) (s, []) hKs
  unfold issueVector
  simp only []
  refine still_tally _ _ _ _ ?_
  apply still_setSequencer
  have he : Still og (if pad then ((List.range 128).foldl (playPin d map w.data ((s.sequencer d).ts (fld w.tag 0 5))) (s,
      [])).1
      else (markVector ((List.range 128).foldl (playPin d map w.data ((s.sequencer d).ts (fld w.tag 0 5))) (s, [])).1 d w
        ((s.sequencer d).ts (fld w.tag 0 5))).1) := Still_if h (still_markVector _ _ _ h)
  cases pad <;> simp only [if_true, if_false, Bool.false_eq_true] at he ⊢
  · exact still_compareVector _ _ _ _ _ (still_failClock _ (still_emit _ he))
  · exact still_tally _ _ _ _ (still_emit _ he)

theorem still_padVector {s : State} (d i : Nat) (hKs : Still og s) : Still og (padVector s d i) := by
  unfold padVector
  (repeat' (first | with_reducible assumption | ((with_reducible apply quiet_side); rfl)
                  | with_reducible (first | apply Still_if | apply still_setSequencer | apply still_captureAsks
                                          | apply still_issueVector | apply still_parkSeq | apply still_record)
                  | (with_reducible apply Still_foldl; intro _ _ _) | simp only [Still_mk, StillAt_self] | split | intro _))

theorem still_issueNext {s : State} (d : Nat) (seen : List PinSeen) (hKs : Still og s) : Still og (issueNext s d seen) := by
  unfold issueNext
  (repeat' (first | with_reducible assumption | ((with_reducible apply quiet_side); rfl)
                  | with_reducible (first | apply Still_if | apply still_put | apply still_captureAsks
                                          | apply still_issueVector | apply still_padVector | apply still_parkSeq
                                          | apply still_record) | (with_reducible apply Still_foldl; intro _ _ _)
                  | simp only [Still_mk, StillAt_self] | split | intro _))

theorem still_beginPlay {s : State} (d : Nat) (hKs : Still og s) : Still og (beginPlay s d) := by
  unfold beginPlay
  (repeat' (first | with_reducible assumption | ((with_reducible apply quiet_side); rfl)
                  | with_reducible (first | apply Still_if | apply still_put | apply still_setPin | apply still_setSequencer
                                          | apply still_enterPass) | (with_reducible apply Still_foldl; intro _ _ _)
                  | simp only [Still_mk, StillAt_self] | split | intro _))

theorem still_vectorClock {s : State} (d : Nat) (hKs : Still og s) : Still og (vectorClock s d) := by
  unfold vectorClock
  (repeat' (first | with_reducible assumption | ((with_reducible apply quiet_side); rfl)
                  | with_reducible (first | apply still_setSequencer)))

theorem still_applyCommits {s : State} (d t : Nat) (hKs : Still og s) : Still og (applyCommits s d t) := by
  unfold applyCommits
  (repeat' (first | with_reducible assumption | ((with_reducible apply quiet_side); rfl)
                  | with_reducible (first | apply Still_if | apply still_setSequencer | apply still_commitSets)
                  | (with_reducible apply Still_foldl; intro _ _ _) | simp only [Still_mk, StillAt_self] | split | intro _))

theorem still_driversOn {s : State} (d : Nat) (on : Bool) (hKs : Still og s) : Still og (driversOn s d on) := by
  unfold driversOn
  (repeat' (first | with_reducible assumption | ((with_reducible apply quiet_side); rfl)
                  | with_reducible (first | apply Still_if | apply still_setPin)
                  | (with_reducible apply Still_foldl; intro _ _ _) | simp only [Still_mk, StillAt_self] | split | intro _))

theorem still_driverVector {s : State} (d : Nat) (r : LoopRun) (seen : List PinSeen) (hKs : Still og s)
    : Still og (driverVector s d r seen) := by
  unfold driverVector
  (repeat' (first | with_reducible assumption | ((with_reducible apply quiet_side); rfl)
                  | with_reducible (first | apply Still_if | apply still_emit | apply still_driversOn)
                  | (with_reducible apply Still_foldl; intro _ _ _) | simp only [Still_mk, StillAt_self] | split | intro _))

theorem still_execVectorStart (dom : Nat) (edge window : List PinSeen) {s : State} (hKs : Still og s)
    : StillAns og (execVectorStart dom edge window s) := by
  unfold execVectorStart
  (repeat' (first | with_reducible assumption | ((with_reducible apply quiet_side); rfl)
                  | with_reducible (first | apply Still_if | apply StillAns_if | apply still_put | apply still_setSequencer
                                          | apply still_applyCommits | apply still_beginPlay | apply still_done
                                          | apply still_driverVector | apply still_issueNext | apply still_padVector
                                          | apply still_passEnd | apply still_vectorClock)
                  | (with_reducible apply Still_foldl; intro _ _ _) | simp only [Still_mk, StillAt_self, StillAns_next]
                  | split | intro _))

theorem still_domCmd (p : Pkt) {s : State} (bad : Nat → Bool) (k : Nat → Res) (hKs : Still og s)
    (hKk : ∀ y0 : Nat, StillRes og (k y0)) : StillRes og (domCmd p s bad k) := by
  unfold domCmd
  (repeat' (first | with_reducible assumption | ((with_reducible apply quiet_side); rfl)
                  | with_reducible (first | apply Still_if | apply StillRes_if | apply still_refuse)
                  | (with_reducible apply Still_foldl; intro _ _ _)
                  | simp only [Still_mk, StillAt_self, StillRes_done, StillRes_later] | split| apply hKk | intro _))

theorem still_storeVectors {s : State} (d gran : Nat) (vs : List VecWord) (hKs : Still og s)
    : Still og (storeVectors s d gran vs) := by
  unfold storeVectors
  (repeat' (first | with_reducible assumption | ((with_reducible apply quiet_side); rfl)
                  | with_reducible (first | apply still_setSequencer)))

theorem still_execSeqMapWrite (p : Pkt) {s : State} (hKs : Still og s) : StillAns og (execSeqMapWrite p s) := by
  unfold execSeqMapWrite
  (repeat' (first | with_reducible assumption | ((with_reducible apply quiet_side); rfl)
                  | with_reducible (first | apply Still_if | apply StillRes_if | apply StillAns_if | apply still_setSequencer
                                          | apply still_domCmd | apply still_ok | apply still_runCmd)
                  | (with_reducible apply Still_foldl; intro _ _ _)
                  | simp only [Still_mk, StillAt_self, StillRes_done, StillRes_later, StillAns_next] | split | intro _))

theorem still_execSeqParkWrite (p : Pkt) {s : State} (hKs : Still og s) : StillAns og (execSeqParkWrite p s) := by
  unfold execSeqParkWrite
  (repeat' (first | with_reducible assumption | ((with_reducible apply quiet_side); rfl)
                  | with_reducible (first | apply Still_if | apply StillRes_if | apply StillAns_if | apply still_setSequencer
                                          | apply still_domCmd | apply still_ok | apply still_runCmd)
                  | (with_reducible apply Still_foldl; intro _ _ _)
                  | simp only [Still_mk, StillAt_self, StillRes_done, StillRes_later, StillAns_next] | split | intro _))

theorem still_execSeqPinLoad (p : Pkt) {s : State} (hKs : Still og s) : StillAns og (execSeqPinLoad p s) := by
  unfold execSeqPinLoad
  (repeat' (first | with_reducible assumption | ((with_reducible apply quiet_side); rfl)
                  | with_reducible (first | apply Still_if | apply StillRes_if | apply StillAns_if | apply still_setSequencer
                                          | apply still_domCmd | apply still_ok | apply still_refuse | apply still_runCmd)
                  | (with_reducible apply Still_foldl; intro _ _ _)
                  | simp only [Still_mk, StillAt_self, StillRes_done, StillRes_later, StillAns_next] | split | intro _))

theorem still_execTsCommit (p : Pkt) {s : State} (hKs : Still og s) : StillAns og (execTsCommit p s) := by
  unfold execTsCommit
  (repeat' (first | with_reducible assumption | ((with_reducible apply quiet_side); rfl)
                  | with_reducible (first | apply Still_if | apply StillRes_if | apply StillAns_if | apply still_setSequencer
                                          | apply still_applyTs | apply still_domCmd | apply still_ok | apply still_refuse
                                          | apply still_runCmd) | (with_reducible apply Still_foldl; intro _ _ _)
                  | simp only [Still_mk, StillAt_self, StillRes_done, StillRes_later, StillAns_next] | split | intro _))

theorem still_execTsCommitBoundary (dom : Nat) {s : State} (hKs : Still og s) : StillAns og (execTsCommitBoundary dom s) := by
  unfold execTsCommitBoundary
  (repeat' (first | with_reducible assumption | ((with_reducible apply quiet_side); rfl)
                  | with_reducible (first | apply Still_if | apply StillAns_if | apply still_applyCommits | apply still_done
                                          | apply still_stopCommits) | (with_reducible apply Still_foldl; intro _ _ _)
                  | simp only [Still_mk, StillAt_self, StillAns_next] | split | intro _))

theorem still_execTsRead (p : Pkt) (_wr : Option HostFault) {s : State} (hKs : Still og s)
    : StillAns og (execTsRead p _wr s) := by
  unfold execTsRead
  (repeat' (first | with_reducible assumption | ((with_reducible apply quiet_side); rfl)
                  | with_reducible (first | apply Still_if | apply StillRes_if | apply StillAns_if | apply still_domCmd
                                          | apply still_hostPut | apply still_runCmd)
                  | (with_reducible apply Still_foldl; intro _ _ _)
                  | simp only [Still_mk, StillAt_self, StillRes_done, StillRes_later, StillAns_next] | split | intro _))

theorem still_execSeqLoad (p : Pkt) {s : State} (hKs : Still og s) : StillAns og (execSeqLoad p s) := by
  unfold execSeqLoad
  (repeat' (first | with_reducible assumption | ((with_reducible apply quiet_side); rfl)
                  | with_reducible (first | apply Still_if | apply StillRes_if | apply StillAns_if | apply still_setSeqSlot
                                          | apply still_wr | apply still_domCmd | apply still_ok | apply still_refuse
                                          | apply still_runCmd) | (with_reducible apply Still_foldl; intro _ _ _)
                  | simp only [Still_mk, StillAt_self, StillRes_done, StillRes_later, StillAns_next] | split | intro _))

theorem still_seqSlotCmd (p : Pkt) {s : State} (k : Nat → Nat → Res) (hKs : Still og s)
    (hKk : ∀ y0 : Nat, ∀ y1 : Nat, StillRes og (k y0 y1)) : StillRes og (seqSlotCmd p s k) := by
  unfold seqSlotCmd
  (repeat' (first | with_reducible assumption | ((with_reducible apply quiet_side); rfl)
                  | with_reducible (first | apply Still_if | apply StillRes_if | apply still_domCmd | apply still_refuse)
                  | (with_reducible apply Still_foldl; intro _ _ _)
                  | simp only [Still_mk, StillAt_self, StillRes_done, StillRes_later] | split| apply hKk | intro _))

theorem still_seqReady {s : State} (d k at_ : Nat) (hKs : Still og s) : Still og (seqReady s d k at_) := by
  unfold seqReady
  (repeat' (first | with_reducible assumption | ((with_reducible apply quiet_side); rfl)
                  | with_reducible (first | apply Still_if | apply still_setSeqSlot | apply still_setSequencer
                                          | apply still_preempt) | (with_reducible apply Still_foldl; intro _ _ _)
                  | simp only [Still_mk, StillAt_self] | split | intro _))

theorem still_seqBegin {s : State} (d k : Nat) (hKs : Still og s) : Still og (seqBegin s d k) := by
  unfold seqBegin
  (repeat' (first | with_reducible assumption | ((with_reducible apply quiet_side); rfl)
                  | with_reducible (first | apply still_put | apply still_setSeqSlot | apply still_prime)))

theorem still_execSeqStart (p : Pkt) {s : State} (hKs : Still og s) : StillAns og (execSeqStart p s) := by
  unfold execSeqStart
  (repeat' (first | with_reducible assumption | ((with_reducible apply quiet_side); rfl)
                  | with_reducible (first | apply Still_if | apply StillRes_if | apply StillAns_if | apply still_ok
                                          | apply still_runCmd | apply still_seqBegin | apply still_seqReady
                                          | apply still_seqSlotCmd) | (with_reducible apply Still_foldl; intro _ _ _)
                  | simp only [Still_mk, StillAt_self, StillRes_done, StillRes_later, StillAns_next] | split | intro _))

theorem still_execSeqArm (p : Pkt) {s : State} (hKs : Still og s) : StillAns og (execSeqArm p s) := by
  unfold execSeqArm
  (repeat' (first | with_reducible assumption | ((with_reducible apply quiet_side); rfl)
                  | with_reducible (first | apply Still_if | apply StillRes_if | apply StillAns_if | apply still_setSeqSlot
                                          | apply still_wr | apply still_ok | apply still_prime | apply still_runCmd
                                          | apply still_seqSlotCmd) | (with_reducible apply Still_foldl; intro _ _ _)
                  | simp only [Still_mk, StillAt_self, StillRes_done, StillRes_later, StillAns_next] | split | intro _))

theorem still_askSeq {s : State} (d : Nat) (a : Ask) (hKs : Still og s) : Still og (askSeq s d a) := by
  unfold askSeq
  (repeat' (first | with_reducible assumption | ((with_reducible apply quiet_side); rfl)
                  | with_reducible (first | apply still_setSequencer)))

theorem still_execSeqStop (p : Pkt) {s : State} (hKs : Still og s) : StillAns og (execSeqStop p s) := by
  unfold execSeqStop
  (repeat' (first | with_reducible assumption | ((with_reducible apply quiet_side); rfl)
                  | with_reducible (first | apply Still_if | apply StillRes_if | apply StillAns_if | apply still_askSeq
                                          | apply still_domCmd | apply still_ok | apply still_refuse | apply still_runCmd)
                  | (with_reducible apply Still_foldl; intro _ _ _)
                  | simp only [Still_mk, StillAt_self, StillRes_done, StillRes_later, StillAns_next] | split | intro _))

theorem still_execSeqJump (p : Pkt) {s : State} (hKs : Still og s) : StillAns og (execSeqJump p s) := by
  unfold execSeqJump
  (repeat' (first | with_reducible assumption | ((with_reducible apply quiet_side); rfl)
                  | with_reducible (first | apply Still_if | apply StillRes_if | apply StillAns_if | apply still_askSeq
                                          | apply still_domCmd | apply still_ok | apply still_refuse | apply still_runCmd)
                  | (with_reducible apply Still_foldl; intro _ _ _)
                  | simp only [Still_mk, StillAt_self, StillRes_done, StillRes_later, StillAns_next] | split | intro _))

theorem still_execSeqResume (p : Pkt) {s : State} (hKs : Still og s) : StillAns og (execSeqResume p s) := by
  unfold execSeqResume
  (repeat' (first | with_reducible assumption | ((with_reducible apply quiet_side); rfl)
                  | with_reducible (first | apply Still_if | apply StillRes_if | apply StillAns_if | apply still_domCmd
                                          | apply still_ok | apply still_refuse | apply still_releaseSeq | apply still_runCmd)
                  | (with_reducible apply Still_foldl; intro _ _ _)
                  | simp only [Still_mk, StillAt_self, StillRes_done, StillRes_later, StillAns_next] | split | intro _))

theorem still_execSeqAbort (p : Pkt) {s : State} (hKs : Still og s) : StillAns og (execSeqAbort p s) := by
  unfold execSeqAbort
  (repeat' (first | with_reducible assumption | ((with_reducible apply quiet_side); rfl)
                  | with_reducible (first | apply Still_if | apply StillRes_if | apply StillAns_if | apply still_domCmd
                                          | apply still_ok | apply still_parkIfBusy | apply still_runCmd)
                  | (with_reducible apply Still_foldl; intro _ _ _)
                  | simp only [Still_mk, StillAt_self, StillRes_done, StillRes_later, StillAns_next] | split | intro _))

theorem still_execSeqIdle (p : Pkt) {s : State} (hKs : Still og s) : StillAns og (execSeqIdle p s) := by
  unfold execSeqIdle
  (repeat' (first | with_reducible assumption | ((with_reducible apply quiet_side); rfl)
                  | with_reducible (first | apply Still_if | apply StillRes_if | apply StillAns_if | apply still_domCmd
                                          | apply still_ok | apply still_refuse | apply still_runCmd | apply still_seqToIdle)
                  | (with_reducible apply Still_foldl; intro _ _ _)
                  | simp only [Still_mk, StillAt_self, StillRes_done, StillRes_later, StillAns_next] | split | intro _))

theorem still_execSeqRelease (p : Pkt) {s : State} (hKs : Still og s) : StillAns og (execSeqRelease p s) := by
  unfold execSeqRelease
  (repeat' (first | with_reducible assumption | ((with_reducible apply quiet_side); rfl)
                  | with_reducible (first | apply Still_if | apply StillRes_if | apply StillAns_if | apply still_setSeqSlot
                                          | apply still_domCmd | apply still_ok | apply still_refuse | apply still_runCmd)
                  | (with_reducible apply Still_foldl; intro _ _ _)
                  | simp only [Still_mk, StillAt_self, StillRes_done, StillRes_later, StillAns_next] | split | intro _))

theorem still_execSeqClearFails (p : Pkt) {s : State} (hKs : Still og s) : StillAns og (execSeqClearFails p s) := by
  unfold execSeqClearFails
  (repeat' (first | with_reducible assumption | ((with_reducible apply quiet_side); rfl)
                  | with_reducible (first | apply Still_if | apply StillRes_if | apply StillAns_if | apply still_put
                                          | apply still_setSequencer | apply still_wr | apply still_domCmd | apply still_ok
                                          | apply still_runCmd) | (with_reducible apply Still_foldl; intro _ _ _)
                  | simp only [Still_mk, StillAt_self, StillRes_done, StillRes_later, StillAns_next] | split | intro _))

theorem still_execSeqCapRead (p : Pkt) (_wr : Option HostFault) {s : State} (hKs : Still og s)
    : StillAns og (execSeqCapRead p _wr s) := by
  unfold execSeqCapRead
  (repeat' (first | with_reducible assumption | ((with_reducible apply quiet_side); rfl)
                  | with_reducible (first | apply Still_if | apply StillRes_if | apply StillAns_if | apply still_domCmd
                                          | apply still_hostPut | apply still_refuse | apply still_runCmd)
                  | (with_reducible apply Still_foldl; intro _ _ _)
                  | simp only [Still_mk, StillAt_self, StillRes_done, StillRes_later, StillAns_next] | split | intro _))

theorem still_sourceNow {s : State} (d : Nat) (hKs : Still og s) : Still og (sourceNow s d) := by
  unfold sourceNow
  (repeat' (first | with_reducible assumption | ((with_reducible apply quiet_side); rfl)
                  | with_reducible (first | apply Still_if | apply still_holdSeq)
                  | (with_reducible apply Still_foldl; intro _ _ _) | simp only [Still_mk, StillAt_self] | split | intro _))

theorem still_execPrimingComplete (primed : PrimeEnd) {s : State} (hKs : Still og s)
    : StillAns og (execPrimingComplete primed s) := by
  unfold execPrimingComplete
  (repeat' (first | with_reducible assumption | ((with_reducible apply quiet_side); rfl)
                  | with_reducible (first | apply Still_if | apply StillAns_if | apply still_put | apply still_setSequencer
                                          | apply still_done | apply still_galeDone | apply still_sourceNow)
                  | (with_reducible apply Still_foldl; intro _ _ _) | simp only [Still_mk, StillAt_self, StillAns_next]
                  | split | intro _))

theorem still_execGranuleFetchDone (dom : Nat) (jump good : Bool) {s : State} (hKs : Still og s)
    : StillAns og (execGranuleFetchDone dom jump good s) := by
  unfold execGranuleFetchDone
  (repeat' (first | with_reducible assumption | ((with_reducible apply quiet_side); rfl)
                  | with_reducible (first | apply Still_if | apply StillAns_if | apply still_setSequencer | apply still_done)
                  | (with_reducible apply Still_foldl; intro _ _ _) | simp only [Still_mk, StillAt_self, StillAns_next]
                  | split | intro _))

theorem still_seqFire {s : State} (d k t n : Nat) (hKs : Still og s) : Still og (seqFire s d k t n) := by
  unfold seqFire
  (repeat' (first | with_reducible assumption | ((with_reducible apply quiet_side); rfl)
                  | with_reducible (first | apply Still_if | apply still_put | apply still_setSequencer | apply still_parkSeq
                                          | apply still_record | apply still_seqBegin | apply still_seqControl
                                          | apply still_seqReady | apply still_sourceNow)
                  | (with_reducible apply Still_foldl; intro _ _ _) | simp only [Still_mk, StillAt_self] | split | intro _))

theorem still_execSeqEvStart (dom : Nat) {s : State} (hKs : Still og s) : StillAns og (execSeqEvStart dom s) := by
  unfold execSeqEvStart
  (repeat' (first | with_reducible assumption | ((with_reducible apply quiet_side); rfl)
                  | with_reducible (first | apply Still_if | apply StillAns_if | apply still_clearCapt | apply still_done
                                          | apply still_seqFire) | (with_reducible apply Still_foldl; intro _ _ _)
                  | simp only [Still_mk, StillAt_self, StillAns_next] | split | intro _))

theorem still_execSeqEvStop (dom : Nat) {s : State} (hKs : Still og s) : StillAns og (execSeqEvStop dom s) := by
  unfold execSeqEvStop
  (repeat' (first | with_reducible assumption | ((with_reducible apply quiet_side); rfl)
                  | with_reducible (first | apply Still_if | apply StillAns_if | apply still_askSeq | apply still_clearCapt
                                          | apply still_done) | (with_reducible apply Still_foldl; intro _ _ _)
                  | simp only [Still_mk, StillAt_self, StillAns_next] | split | intro _))

theorem still_execSeqJevPulse (dom : Nat) {s : State} (hKs : Still og s) : StillAns og (execSeqJevPulse dom s) := by
  unfold execSeqJevPulse
  (repeat' (first | with_reducible assumption | ((with_reducible apply quiet_side); rfl)
                  | with_reducible (first | apply Still_if | apply StillAns_if | apply still_setSequencer | apply still_askSeq
                                          | apply still_done) | (with_reducible apply Still_foldl; intro _ _ _)
                  | simp only [Still_mk, StillAt_self, StillAns_next] | split | intro _))

theorem still_execSeqStartAt (dom slot : Nat) {s : State} (hKs : Still og s) : StillAns og (execSeqStartAt dom slot s) := by
  unfold execSeqStartAt
  (repeat' (first | with_reducible assumption | ((with_reducible apply quiet_side); rfl)
                  | with_reducible (first | apply Still_if | apply StillAns_if | apply still_done | apply still_seqFire)
                  | (with_reducible apply Still_foldl; intro _ _ _) | simp only [Still_mk, StillAt_self, StillAns_next]
                  | split | intro _))

end Sys2Proof.Machine
end

