-- ==== Sys2Proof/Laws/StillTime.lean ====
section
/-!
SUPPORT. What each function leaves alone (Still): timebase, event fabric, high voltage, status rows, commands.
-/
set_option linter.unusedTactic false
set_option linter.unreachableTactic false
set_option linter.unusedSimpArgs false
namespace Sys2Proof.Machine
variable {og : State}



theorem still_lockRecord {s : State} (hKs : Still og s) : Still og (lockRecord s) := by
  unfold lockRecord
  (repeat' (first | with_reducible assumption | ((with_reducible apply quiet_side); rfl)
                  | with_reducible (first | apply Still_if | apply still_logRec)
                  | (with_reducible apply Still_foldl; intro _ _ _) | simp only [Still_mk, StillAt_self] | split | intro _))

theorem still_oldGrid {s : State} (hKs : Still og s) : Still og (oldGrid s) := by
  unfold oldGrid
  (repeat' (first | with_reducible assumption | ((with_reducible apply quiet_side); rfl)
                  | with_reducible (first | apply Still_if | apply still_timerInstant)
                  | (with_reducible apply Still_foldl; intro _ _ _) | simp only [Still_mk, StillAt_self] | split | intro _))

theorem still_setChan {s : State} (c : Nat) (v : Chan) (hKs : Still og s) : Still og (State.setChan s c v) := by
  exact hKs

theorem still_setCell {s : State} (n : Nat) (v : Eddy) (hKs : Still og s) : Still og (State.setCell s n v) := by
  exact hKs

theorem still_setTicker {s : State} (n : Nat) (v : TickGen) (hKs : Still og s) : Still og (State.setTicker s n v) := by
  exact hKs

theorem still_abortEcho {s : State} (hKs : Still og s) : Still og (abortEcho s) := by
  unfold abortEcho
  (repeat' (first | with_reducible assumption | ((with_reducible apply quiet_side); rfl)
                  | with_reducible (first | apply Still_if | apply still_complete)
                  | (with_reducible apply Still_foldl; intro _ _ _) | simp only [Still_mk, StillAt_self] | split | intro _))

theorem still_cuTake {s : State} (u b : Nat) (rel : Bool) (hKs : Still og s) : Still og (cuTake s u b rel) := by
  unfold cuTake
  (repeat' (first | with_reducible assumption | ((with_reducible apply quiet_side); rfl)
                  | with_reducible (first | apply Still_if | apply still_setCu)
                  | (with_reducible apply Still_foldl; intro _ _ _) | simp only [Still_mk, StillAt_self] | split | intro _))

theorem still_markerTake {s : State} (st ch b : Nat) (hKs : Still og s) : Still og (markerTake s st ch b) := by
  unfold markerTake
  (repeat' (first | with_reducible assumption | ((with_reducible apply quiet_side); rfl)
                  | with_reducible (first | apply Still_if | apply still_setStream | apply still_place)
                  | (with_reducible apply Still_foldl; intro _ _ _) | simp only [Still_mk, StillAt_self] | split | intro _))

theorem still_sendTwice {s : State} (p : Nat) (ws : List Nat) (hKs : Still og s) : Still og (sendTwice s p ws) := by
  unfold sendTwice
  (repeat' (first | with_reducible assumption | ((with_reducible apply quiet_side); rfl)
                  | with_reducible (first | apply still_emit)))

theorem still_sevSend {s : State} (n t0 node gen : Nat) (but : Option Nat) (hKs : Still og s)
    : Still og (sevSend s n t0 node gen but) := by
  unfold sevSend
  (repeat' (first | with_reducible assumption | ((with_reducible apply quiet_side); rfl)
                  | with_reducible (first | apply Still_if | apply still_sendTwice)
                  | (with_reducible apply Still_foldl; intro _ _ _) | simp only [Still_mk, StillAt_self] | split | intro _))

theorem still_alignWritten {s : State} (hKs : Still og s) : Still og (alignWritten s) := by
  exact hKs

theorem still_sevQueue {s : State} (n t0 : Nat) (hKs : Still og s) : Still og (sevQueue s n t0) := by
  exact hKs

theorem still_eddyPublish {s : State} (n : Nat) (hKs : Still og s) : Still og (eddyPublish s n) := by
  unfold eddyPublish
  (repeat' (first | with_reducible assumption | ((with_reducible apply quiet_side); rfl)
                  | with_reducible (first | apply Still_if | apply still_publish | apply still_setCell)
                  | (with_reducible apply Still_foldl; intro _ _ _) | simp only [Still_mk, StillAt_self] | split | intro _))

theorem still_eddyRipe {s : State} (n t : Nat) (hKs : Still og s) : Still og (eddyRipe s n t) := by
  unfold eddyRipe
  (repeat' (first | with_reducible assumption | ((with_reducible apply quiet_side); rfl)
                  | with_reducible (first | apply Still_if | apply still_eddyPublish)
                  | (with_reducible apply Still_foldl; intro _ _ _) | simp only [Still_mk, StillAt_self] | split | intro _))

theorem still_eddyMove {s : State} (n t : Nat) (c : Eddy) (hKs : Still og s) : Still og (eddyMove s n t c) := by
  unfold eddyMove
  (repeat' (first | with_reducible assumption | ((with_reducible apply quiet_side); rfl)
                  | with_reducible (first | apply Still_if | apply still_setCell | apply still_eddyRipe)
                  | (with_reducible apply Still_foldl; intro _ _ _) | simp only [Still_mk, StillAt_self] | split | intro _))

theorem still_eddyExpire (t k : Nat) {s : State} (n : Nat) (hKs : Still og s) : Still og (eddyExpire t k s n) := by
  induction k generalizing s with
  | zero => exact hKs
  | succ k ih =>
    simp only [eddyExpire]
    split
    · exact ih (still_eddyMove _ _ _ hKs)
    · exact hKs

theorem still_eddyTake {s : State} (n i t : Nat) (hKs : Still og s) : Still og (eddyTake s n i t) := by
  unfold eddyTake
  (repeat' (first | with_reducible assumption | ((with_reducible apply quiet_side); rfl)
                  | with_reducible (first | apply still_eddyExpire | apply still_eddyMove)))

theorem still_conOverrun {s : State} (n : Nat) (hKs : Still og s) : Still og (conOverrun s n) := by
  unfold conOverrun
  (repeat' (first | with_reducible assumption | ((with_reducible apply quiet_side); rfl)
                  | with_reducible (first | apply Still_if | apply still_bump | apply still_chipCause
                                          | apply still_consOverrun | apply still_overrun)
                  | (with_reducible apply Still_foldl; intro _ _ _) | simp only [Still_mk, StillAt_self] | split | intro _))

theorem still_recordPulse {s : State} (ch a : Nat) (hKs : Still og s) : Still og (recordPulse s ch a) := by
  unfold recordPulse
  (repeat' (first | with_reducible assumption | ((with_reducible apply quiet_side); rfl)
                  | with_reducible (first | apply Still_if | apply still_logRec | apply still_setChan | apply still_record)
                  | (with_reducible apply Still_foldl; intro _ _ _) | simp only [Still_mk, StillAt_self] | split | intro _))

theorem still_sweepSees {s : State} (ch a : Nat) (rel : Bool) (e : Nat) (hKs : Still og s)
    : Still og (sweepSees s ch a rel e) := by
  unfold sweepSees
  (repeat' (first | with_reducible assumption | ((with_reducible apply quiet_side); rfl)
                  | with_reducible (first | apply Still_if | apply still_setEngine | apply still_releaseSample)
                  | (with_reducible apply Still_foldl; intro _ _ _) | simp only [Still_mk, StillAt_self] | split | intro _))

theorem still_seqSees {s : State} (ch a d : Nat) (hKs : Still og s) : Still og (seqSees s ch a d) := by
  unfold seqSees
  (repeat' (first | with_reducible assumption | ((with_reducible apply quiet_side); rfl)
                  | with_reducible (first | apply Still_if | apply still_setSequencer)
                  | (with_reducible apply Still_foldl; intro _ _ _) | simp only [Still_mk, StillAt_self] | split | intro _))

theorem still_echoSees {s : State} (ch a : Nat) (echo : Bool) (hKs : Still og s) : Still og (echoSees s ch a echo) := by
  unfold echoSees
  (repeat' (first | with_reducible assumption | ((with_reducible apply quiet_side); rfl)
                  | with_reducible (first | apply Still_if) | (with_reducible apply Still_foldl; intro _ _ _)
                  | simp only [Still_mk, StillAt_self] | split | intro _))

theorem still_turnReleased {s : State} (ch a0 a : Nat) (hKs : Still og s) : Still og (turnReleased s ch a0 a) := by
  unfold turnReleased
  (repeat' (first | with_reducible assumption | ((with_reducible apply quiet_side); rfl)
                  | with_reducible (first | apply Still_if | apply still_setCon | apply still_setCu | apply still_setEngine)
                  | (with_reducible apply Still_foldl; intro _ _ _) | simp only [Still_mk, StillAt_self] | split | intro _))

theorem still_execLoopMonitorWindow {s : State} (hKs : Still og s) : StillAns og (execLoopMonitorWindow s) := by
  unfold execLoopMonitorWindow
  (repeat' (first | with_reducible assumption | ((with_reducible apply quiet_side); rfl)
                  | with_reducible (first | apply Still_if | apply StillAns_if | apply still_setChan | apply still_done)
                  | (with_reducible apply Still_foldl; intro _ _ _) | simp only [Still_mk, StillAt_self, StillAns_next]
                  | split | intro _))

theorem still_tickAdopt {s : State} (g : Nat) (hKs : Still og s) : Still og (tickAdopt s g) := by
  unfold tickAdopt
  (repeat' (first | with_reducible assumption | ((with_reducible apply quiet_side); rfl)
                  | with_reducible (first | apply still_setTicker)))

theorem still_execTick (gen at_ : Nat) {s : State} (hKs : Still og s) : StillAns og (execTick gen at_ s) := by
  unfold execTick
  (repeat' (first | with_reducible assumption | ((with_reducible apply quiet_side); rfl)
                  | with_reducible (first | apply Still_if | apply StillAns_if | apply still_publish | apply still_setTicker
                                          | apply still_done | apply still_tickAdopt)
                  | (with_reducible apply Still_foldl; intro _ _ _) | simp only [Still_mk, StillAt_self, StillAns_next]
                  | split | intro _))

theorem still_execTrigInputEdge (trig : Nat) (rising : Bool) {s : State} (hKs : Still og s)
    : StillAns og (execTrigInputEdge trig rising s) := by
  unfold execTrigInputEdge
  (repeat' (first | with_reducible assumption | ((with_reducible apply quiet_side); rfl)
                  | with_reducible (first | apply Still_if | apply StillAns_if | apply still_publish | apply still_done)
                  | (with_reducible apply Still_foldl; intro _ _ _) | simp only [Still_mk, StillAt_self, StillAns_next]
                  | split | intro _))

theorem still_execEddyOutputEdge (cell : Nat) {s : State} (hKs : Still og s) : StillAns og (execEddyOutputEdge cell s) := by
  unfold execEddyOutputEdge
  (repeat' (first | with_reducible assumption | ((with_reducible apply quiet_side); rfl)
                  | with_reducible (first | apply Still_if | apply StillAns_if | apply still_done | apply still_eddyExpire
                                          | apply still_eddyPublish) | (with_reducible apply Still_foldl; intro _ _ _)
                  | simp only [Still_mk, StillAt_self, StillAns_next] | split | intro _))

theorem still_execEddyStretchEnd (cell input : Nat) {s : State} (hKs : Still og s)
    : StillAns og (execEddyStretchEnd cell input s) := by
  unfold execEddyStretchEnd
  (repeat' (first | with_reducible assumption | ((with_reducible apply quiet_side); rfl)
                  | with_reducible (first | apply Still_if | apply StillAns_if | apply still_done | apply still_eddyExpire)
                  | (with_reducible apply Still_foldl; intro _ _ _) | simp only [Still_mk, StillAt_self, StillAns_next]
                  | split | intro _))

theorem still_execSevRelease (sev : Nat) {s : State} (hKs : Still og s) : StillAns og (execSevRelease sev s) := by
  unfold execSevRelease
  (repeat' (first | with_reducible assumption | ((with_reducible apply quiet_side); rfl)
                  | with_reducible (first | apply Still_if | apply StillAns_if)
                  | (with_reducible apply Still_foldl; intro _ _ _) | simp only [Still_mk, StillAt_self, StillAns_next]
                  | split | intro _))

theorem still_execEvfEchoPulse {s : State} (hKs : Still og s) : StillAns og (execEvfEchoPulse s) := by
  unfold execEvfEchoPulse
  (repeat' (first | with_reducible assumption | ((with_reducible apply quiet_side); rfl)
                  | with_reducible (first | apply Still_if | apply StillAns_if | apply still_restGroup)
                  | (with_reducible apply Still_foldl; intro _ _ _) | simp only [Still_mk, StillAt_self, StillAns_next]
                  | split | intro _))

theorem still_execEventFire (p : Pkt) {s : State} (hKs : Still og s) : StillAns og (execEventFire p s) := by
  unfold execEventFire
  (repeat' (first | with_reducible assumption | ((with_reducible apply quiet_side); rfl)
                  | with_reducible (first | apply Still_if | apply StillRes_if | apply StillAns_if | apply still_publish
                                          | apply still_ok | apply still_runCmd)
                  | (with_reducible apply Still_foldl; intro _ _ _)
                  | simp only [Still_mk, StillAt_self, StillRes_done, StillRes_later, StillAns_next] | split | intro _))

theorem still_execCuRead (p : Pkt) (_wr : Option HostFault) {s : State} (hKs : Still og s)
    : StillAns og (execCuRead p _wr s) := by
  unfold execCuRead
  (repeat' (first | with_reducible assumption | ((with_reducible apply quiet_side); rfl)
                  | with_reducible (first | apply Still_if | apply StillRes_if | apply StillAns_if | apply still_hostPut
                                          | apply still_ok | apply still_refuse | apply still_runCmd)
                  | (with_reducible apply Still_foldl; intro _ _ _)
                  | simp only [Still_mk, StillAt_self, StillRes_done, StillRes_later, StillAns_next] | split | intro _))

theorem still_eddyWritten {s : State} (n : Nat) (hKs : Still og s) : Still og (eddyWritten s n) := by
  unfold eddyWritten
  (repeat' (first | with_reducible assumption | ((with_reducible apply quiet_side); rfl)
                  | with_reducible (first | apply still_setCell)))

theorem still_tickWritten {s : State} (g : Nat) (hKs : Still og s) : Still og (tickWritten s g) := by
  unfold tickWritten
  (repeat' (first | with_reducible assumption | ((with_reducible apply quiet_side); rfl)
                  | with_reducible (first | apply Still_if | apply still_tickAdopt)
                  | (with_reducible apply Still_foldl; intro _ _ _) | simp only [Still_mk, StillAt_self] | split | intro _))

theorem still_execHvRampEnd (ch : Nat) {s : State} (hKs : Still og s) : StillAns og (execHvRampEnd ch s) := by
  unfold execHvRampEnd
  (repeat' (first | with_reducible assumption | ((with_reducible apply quiet_side); rfl)
                  | with_reducible (first | apply Still_if | apply StillAns_if | apply still_put | apply still_setCh
                                          | apply still_done) | (with_reducible apply Still_foldl; intro _ _ _)
                  | simp only [Still_mk, StillAt_self, StillAns_next] | split | intro _))

theorem still_execHvBoostStarted {s : State} (hKs : Still og s) : StillAns og (execHvBoostStarted s) := by
  unfold execHvBoostStarted
  (repeat' (first | with_reducible assumption | ((with_reducible apply quiet_side); rfl)
                  | with_reducible (first | apply Still_if | apply StillAns_if | apply still_put | apply still_done)
                  | (with_reducible apply Still_foldl; intro _ _ _) | simp only [Still_mk, StillAt_self, StillAns_next]
                  | split | intro _))

theorem still_execHvBoostStop {s : State} (hKs : Still og s) : StillAns og (execHvBoostStop s) := by
  unfold execHvBoostStop
  (repeat' (first | with_reducible assumption | ((with_reducible apply quiet_side); rfl)
                  | with_reducible (first | apply Still_if | apply StillAns_if | apply still_put | apply still_done)
                  | (with_reducible apply Still_foldl; intro _ _ _) | simp only [Still_mk, StillAt_self, StillAns_next]
                  | split | intro _))

theorem still_faultHv {s : State} (c : Nat) (hKs : Still og s) : Still og (faultHv s c) := by
  unfold faultHv
  (repeat' (first | with_reducible assumption | ((with_reducible apply quiet_side); rfl)
                  | with_reducible (first | apply Still_if | apply still_setCh | apply still_toFault)
                  | (with_reducible apply Still_foldl; intro _ _ _) | simp only [Still_mk, StillAt_self] | split | intro _))

theorem still_execHvBoostFault {s : State} (hKs : Still og s) : StillAns og (execHvBoostFault s) := by
  unfold execHvBoostFault
  (repeat' (first | with_reducible assumption | ((with_reducible apply quiet_side); rfl)
                  | with_reducible (first | apply Still_if | apply StillAns_if | apply still_put | apply still_done
                                          | apply still_faultHv | apply still_record | apply still_recordEach)
                  | (with_reducible apply Still_foldl; intro _ _ _) | simp only [Still_mk, StillAt_self, StillAns_next]
                  | split | intro _))

theorem still_execHvHwIlimit (ch : Nat) {s : State} (hKs : Still og s) : StillAns og (execHvHwIlimit ch s) := by
  unfold execHvHwIlimit
  (repeat' (first | with_reducible assumption | ((with_reducible apply quiet_side); rfl)
                  | with_reducible (first | apply Still_if | apply StillAns_if | apply still_done | apply still_record)
                  | (with_reducible apply Still_foldl; intro _ _ _) | simp only [Still_mk, StillAt_self, StillAns_next]
                  | split | intro _))

theorem still_dischargeChan {s : State} (c : Nat) (hKs : Still og s) : Still og (dischargeChan s c) := by
  unfold dischargeChan
  (repeat' (first | with_reducible assumption | ((with_reducible apply quiet_side); rfl)
                  | with_reducible (first | apply Still_if | apply still_setCh | apply still_toTripped)
                  | (with_reducible apply Still_foldl; intro _ _ _) | simp only [Still_mk, StillAt_self] | split | intro _))

theorem still_interlockActs {s : State} (hKs : Still og s) : Still og (interlockActs s) := by
  unfold interlockActs
  (repeat' (first | with_reducible assumption | ((with_reducible apply quiet_side); rfl)
                  | with_reducible (first | apply Still_if | apply still_put | apply still_dischargeChan)
                  | (with_reducible apply Still_foldl; intro _ _ _) | simp only [Still_mk, StillAt_self] | split | intro _))

theorem still_stampOpen {s : State} (hKs : Still og s) : Still og (stampOpen s) := by
  exact hKs

theorem still_openLoop {s : State} (hKs : Still og s) : Still og (openLoop s) := by
  unfold openLoop
  (repeat' (first | with_reducible assumption | ((with_reducible apply quiet_side); rfl)
                  | with_reducible (first | apply still_publish | apply still_put | apply still_interlockActs
                                          | apply still_stampOpen)))

theorem still_openInterlock {s : State} (hKs : Still og s) : Still og (openInterlock s) := by
  unfold openInterlock
  (repeat' (first | with_reducible assumption | ((with_reducible apply quiet_side); rfl)
                  | with_reducible (first | apply Still_if | apply still_openLoop | apply still_record)
                  | (with_reducible apply Still_foldl; intro _ _ _) | simp only [Still_mk, StillAt_self] | split | intro _))

theorem still_execInterlockOpen {s : State} (hKs : Still og s) : StillAns og (execInterlockOpen s) := by
  unfold execInterlockOpen
  (repeat' (first | with_reducible assumption | ((with_reducible apply quiet_side); rfl)
                  | with_reducible (first | apply Still_if | apply StillAns_if | apply still_done | apply still_openInterlock
                                          | apply still_stampOpen) | (with_reducible apply Still_foldl; intro _ _ _)
                  | simp only [Still_mk, StillAt_self, StillAns_next] | split | intro _))

theorem still_execInterlockClosed {s : State} (hKs : Still og s) : StillAns og (execInterlockClosed s) := by
  unfold execInterlockClosed
  (repeat' (first | with_reducible assumption | ((with_reducible apply quiet_side); rfl)
                  | with_reducible (first | apply Still_if | apply StillAns_if | apply still_put | apply still_done)
                  | (with_reducible apply Still_foldl; intro _ _ _) | simp only [Still_mk, StillAt_self, StillAns_next]
                  | split | intro _))

theorem still_execHvDischargeDone (ch past : Nat) {s : State} (hKs : Still og s)
    : StillAns og (execHvDischargeDone ch past s) := by
  unfold execHvDischargeDone
  (repeat' (first | with_reducible assumption | ((with_reducible apply quiet_side); rfl)
                  | with_reducible (first | apply Still_if | apply StillAns_if | apply still_put | apply still_setCh
                                          | apply still_done) | (with_reducible apply Still_foldl; intro _ _ _)
                  | simp only [Still_mk, StillAt_self, StillAns_next] | split | intro _))

theorem still_execDischargeSlow (ch : Nat) {s : State} (hKs : Still og s) : StillAns og (execDischargeSlow ch s) := by
  unfold execDischargeSlow
  (repeat' (first | with_reducible assumption | ((with_reducible apply quiet_side); rfl)
                  | with_reducible (first | apply Still_if | apply StillAns_if | apply still_done | apply still_record)
                  | (with_reducible apply Still_foldl; intro _ _ _) | simp only [Still_mk, StillAt_self, StillAns_next]
                  | split | intro _))

theorem still_execHvDischargePeriodEnd (ch : Nat) {s : State} (hKs : Still og s)
    : StillAns og (execHvDischargePeriodEnd ch s) := by
  unfold execHvDischargePeriodEnd
  (repeat' (first | with_reducible assumption | ((with_reducible apply quiet_side); rfl)
                  | with_reducible (first | apply Still_if | apply StillAns_if | apply still_setCh | apply still_done)
                  | (with_reducible apply Still_foldl; intro _ _ _) | simp only [Still_mk, StillAt_self, StillAns_next]
                  | split | intro _))

theorem still_fixedEffect {s : State} (blk inst code : Nat) (inj : Bool) (hKs : Still og s)
    : Still og (fixedEffect s blk inst code inj) := by
  unfold fixedEffect
  (repeat' (first | with_reducible assumption | ((with_reducible apply quiet_side); rfl)
                  | with_reducible (first | apply Still_if | apply still_put | apply still_faultHv | apply still_openLoop
                                          | apply still_recordFixed | apply still_toTripped)
                  | (with_reducible apply Still_foldl; intro _ _ _) | simp only [Still_mk, StillAt_self] | split | intro _))

theorem still_recordAgain {s : State} (blk inst : Nat) (again : List Nat) (hKs : Still og s)
    : Still og (recordAgain s blk inst again) := by
  unfold recordAgain
  (repeat' (first | with_reducible assumption | ((with_reducible apply quiet_side); rfl)
                  | with_reducible (first | apply Still_if | apply still_fixedEffect | apply still_recordHits)
                  | (with_reducible apply Still_foldl; intro _ _ _) | simp only [Still_mk, StillAt_self] | split | intro _))

theorem still_clearHistory {s : State} (blk inst : Nat) (hKs : Still og s) : Still og (clearHistory s blk inst) := by
  unfold clearHistory
  (repeat' (first | with_reducible assumption | ((with_reducible apply quiet_side); rfl)
                  | with_reducible (first | apply still_setWin)))

theorem still_execStatusClrHist (blk inst : Nat) (again : List Nat) {s : State} (hKs : Still og s)
    : StillAns og (execStatusClrHist blk inst again s) := by
  unfold execStatusClrHist
  (repeat' (first | with_reducible assumption | ((with_reducible apply quiet_side); rfl)
                  | with_reducible (first | apply Still_if | apply StillAns_if | apply still_clearHistory | apply still_done
                                          | apply still_recordAgain) | (with_reducible apply Still_foldl; intro _ _ _)
                  | simp only [Still_mk, StillAt_self, StillAns_next] | split | intro _))

theorem still_writeReaction {s : State} (blk inst v : Nat) (hKs : Still og s) : Still og (writeReaction s blk inst v) := by
  unfold writeReaction
  (repeat' (first | with_reducible assumption | ((with_reducible apply quiet_side); rfl)
                  | with_reducible (first | apply Still_if | apply still_setWin)
                  | (with_reducible apply Still_foldl; intro _ _ _) | simp only [Still_mk, StillAt_self] | split | intro _))

theorem still_execReactionWrite (blk inst value : Nat) {s : State} (hKs : Still og s)
    : StillAns og (execReactionWrite blk inst value s) := by
  unfold execReactionWrite
  (repeat' (first | with_reducible assumption | ((with_reducible apply quiet_side); rfl)
                  | with_reducible (first | apply Still_if | apply StillAns_if | apply still_done | apply still_writeReaction)
                  | (with_reducible apply Still_foldl; intro _ _ _) | simp only [Still_mk, StillAt_self, StillAns_next]
                  | split | intro _))

theorem still_markInjected {t : State} {s : State} (hKt : Still og t) (hKs : Still og s) : Still og (markInjected t s) := by
  unfold markInjected
  (repeat' (first | with_reducible assumption | ((with_reducible apply quiet_side); rfl)
                  | with_reducible (first | apply Still_if | apply still_setCh)
                  | (with_reducible apply Still_foldl; intro _ _ _) | simp only [Still_mk, StillAt_self] | split | intro _))

theorem still_spoilDram {s : State} (x : DramWord) (hKs : Still og s) : Still og (spoilDram s x) := by
  cases x <;> (unfold spoilDram; (repeat' (first | with_reducible assumption | ((with_reducible apply quiet_side); rfl)
                                                 | with_reducible (first | apply Still_if | apply still_setSequencer
                                                                         | apply still_setStream)
                                                 | (with_reducible apply Still_foldl; intro _ _ _)
                                                 | simp only [Still_mk, StillAt_self] | split | intro _)))

theorem still_spoilSram {s : State} (x : SramWord) (hKs : Still og s) : Still og (spoilSram s x) := by
  cases x <;> (unfold spoilSram; (repeat' (first | with_reducible assumption | ((with_reducible apply quiet_side); rfl)
                                                 | with_reducible (first | apply Still_if | apply still_setSequencer)
                                                 | (with_reducible apply Still_foldl; intro _ _ _)
                                                 | simp only [Still_mk, StillAt_self] | split | intro _)))

theorem still_ringTail {s : State} (q value : Nat) (hKs : Still og s) : Still og (ringTail s q value) := by
  unfold ringTail
  (repeat' (first | with_reducible assumption | ((with_reducible apply quiet_side); rfl)
                  | with_reducible (first | apply Still_if | apply still_setSq | apply still_hlCause)
                  | (with_reducible apply Still_foldl; intro _ _ _) | simp only [Still_mk, StillAt_self] | split | intro _))

theorem still_execSqTailDoorbell (q value : Nat) {s : State} (hKs : Still og s)
    : StillAns og (execSqTailDoorbell q value s) := by
  unfold execSqTailDoorbell
  (repeat' (first | with_reducible assumption | ((with_reducible apply quiet_side); rfl)
                  | with_reducible (first | apply Still_if | apply StillAns_if | apply still_done | apply still_ringTail)
                  | (with_reducible apply Still_foldl; intro _ _ _) | simp only [Still_mk, StillAt_self, StillAns_next]
                  | split | intro _))

theorem still_cqWaits {s : State} (q : Nat) (hKs : Still og s) : Still og (cqWaits s q) := by
  unfold cqWaits
  (repeat' (first | with_reducible assumption | ((with_reducible apply quiet_side); rfl)
                  | with_reducible (first | apply Still_if | apply still_setCq | apply still_hlCause)
                  | (with_reducible apply Still_foldl; intro _ _ _) | simp only [Still_mk, StillAt_self] | split | intro _))

theorem still_ringHead {s : State} (q value : Nat) (hKs : Still og s) : Still og (ringHead s q value) := by
  unfold ringHead
  (repeat' (first | with_reducible assumption | ((with_reducible apply quiet_side); rfl)
                  | with_reducible (first | apply Still_if | apply still_setCq | apply still_cqWaits | apply still_hlCause)
                  | (with_reducible apply Still_foldl; intro _ _ _) | simp only [Still_mk, StillAt_self] | split | intro _))

theorem still_execCqHeadDoorbell (q value : Nat) {s : State} (hKs : Still og s)
    : StillAns og (execCqHeadDoorbell q value s) := by
  unfold execCqHeadDoorbell
  (repeat' (first | with_reducible assumption | ((with_reducible apply quiet_side); rfl)
                  | with_reducible (first | apply Still_if | apply StillAns_if | apply still_done | apply still_ringHead)
                  | (with_reducible apply Still_foldl; intro _ _ _) | simp only [Still_mk, StillAt_self, StillAns_next]
                  | split | intro _))

theorem still_flushQueue {s : State} (q : Nat) (hKs : Still og s) : Still og (flushQueue s q) := by
  unfold flushQueue
  (repeat' (first | with_reducible assumption | ((with_reducible apply quiet_side); rfl)
                  | with_reducible (first | apply Still_if | apply still_complete)
                  | (with_reducible apply Still_foldl; intro _ _ _) | simp only [Still_mk, StillAt_self] | split | intro _))

theorem still_setSqEnable {s : State} (q : Nat) (on : Bool) (hKs : Still og s) : Still og (setSqEnable s q on) := by
  unfold setSqEnable
  (repeat' (first | with_reducible assumption | ((with_reducible apply quiet_side); rfl)
                  | with_reducible (first | apply Still_if | apply still_setSq | apply still_flushQueue | apply still_hlCause)
                  | (with_reducible apply Still_foldl; intro _ _ _) | simp only [Still_mk, StillAt_self] | split | intro _))

theorem still_noticeGone {s : State} (c : Cpl) (hKs : Still og s) : Still og (noticeGone s c) := by
  unfold noticeGone
  (repeat' (first | with_reducible assumption | ((with_reducible apply quiet_side); rfl)
                  | with_reducible (first | apply Still_if | apply still_setStream)
                  | (with_reducible apply Still_foldl; intro _ _ _) | simp only [Still_mk, StillAt_self] | split | intro _))

theorem still_setCqEnable {s : State} (q : Nat) (on : Bool) (hKs : Still og s) : Still og (setCqEnable s q on) := by
  unfold setCqEnable
  (repeat' (first | with_reducible assumption | ((with_reducible apply quiet_side); rfl)
                  | with_reducible (first | apply Still_if | apply still_setCq | apply still_hlCause | apply still_noticeGone)
                  | (with_reducible apply Still_foldl; intro _ _ _) | simp only [Still_mk, StillAt_self] | split | intro _))

theorem still_execSqEnableWrite (q : Nat) (value : Bool) {s : State} (hKs : Still og s)
    : StillAns og (execSqEnableWrite q value s) := by
  unfold execSqEnableWrite
  (repeat' (first | with_reducible assumption | ((with_reducible apply quiet_side); rfl)
                  | with_reducible (first | apply Still_if | apply StillAns_if | apply still_done | apply still_setSqEnable)
                  | (with_reducible apply Still_foldl; intro _ _ _) | simp only [Still_mk, StillAt_self, StillAns_next]
                  | split | intro _))

theorem still_execCqEnableWrite (q : Nat) (value : Bool) {s : State} (hKs : Still og s)
    : StillAns og (execCqEnableWrite q value s) := by
  unfold execCqEnableWrite
  (repeat' (first | with_reducible assumption | ((with_reducible apply quiet_side); rfl)
                  | with_reducible (first | apply Still_if | apply StillAns_if | apply still_done | apply still_setCqEnable)
                  | (with_reducible apply Still_foldl; intro _ _ _) | simp only [Still_mk, StillAt_self, StillAns_next]
                  | split | intro _))

theorem still_addOp {s : State} (p : Pkt) (hKs : Still og s) : Still og (addOp s p) := by
  exact hKs

theorem still_arriveOne (q : Nat) {s : State} (ws : List Nat) (hKs : Still og s) : Still og (arriveOne q s ws) := by
  unfold arriveOne
  (repeat' (first | with_reducible assumption | ((with_reducible apply quiet_side); rfl)
                  | with_reducible (first | apply Still_if | apply still_complete | apply still_addOp)
                  | (with_reducible apply Still_foldl; intro _ _ _) | simp only [Still_mk, StillAt_self] | split | intro _))

theorem still_cqInterrupt {s : State} (q : Nat) (hKs : Still og s) : Still og (cqInterrupt s q) := by
  unfold cqInterrupt
  (repeat' (first | with_reducible assumption | ((with_reducible apply quiet_side); rfl)
                  | with_reducible (first | apply still_raise | apply still_setCq)))

theorem still_execCqInterruptTimer (q : Nat) {s : State} (hKs : Still og s) : StillAns og (execCqInterruptTimer q s) := by
  unfold execCqInterruptTimer
  (repeat' (first | with_reducible assumption | ((with_reducible apply quiet_side); rfl)
                  | with_reducible (first | apply Still_if | apply StillAns_if | apply still_cqInterrupt)
                  | (with_reducible apply Still_foldl; intro _ _ _) | simp only [Still_mk, StillAt_self, StillAns_next]
                  | split | intro _))

theorem still_mbxGo {s : State} (hKs : Still og s) : Still og (mbxGo s) := by
  unfold mbxGo
  (repeat' (first | with_reducible assumption | ((with_reducible apply quiet_side); rfl)
                  | with_reducible (first | apply Still_if | apply still_addOp | apply still_hlCause)
                  | (with_reducible apply Still_foldl; intro _ _ _) | simp only [Still_mk, StillAt_self] | split | intro _))

theorem still_execMbxGo {s : State} (hKs : Still og s) : StillAns og (execMbxGo s) := by
  unfold execMbxGo
  (repeat' (first | with_reducible assumption | ((with_reducible apply quiet_side); rfl)
                  | with_reducible (first | apply Still_if | apply StillAns_if | apply still_done | apply still_mbxGo)
                  | (with_reducible apply Still_foldl; intro _ _ _) | simp only [Still_mk, StillAt_self, StillAns_next]
                  | split | intro _))

theorem still_execNop (p : Pkt) {s : State} (hKs : Still og s) : StillAns og (execNop p s) := by
  unfold execNop
  (repeat' (first | with_reducible assumption | ((with_reducible apply quiet_side); rfl)
                  | with_reducible (first | apply still_ok | apply still_runCmd)))

theorem still_execIdentify (p : Pkt) {s : State} (hKs : Still og s) : StillAns og (execIdentify p s) := by
  unfold execIdentify
  (repeat' (first | with_reducible assumption | ((with_reducible apply quiet_side); rfl)
                  | with_reducible (first | apply Still_if | apply StillRes_if | apply StillAns_if | apply still_ok
                                          | apply still_refuse | apply still_runCmd)
                  | (with_reducible apply Still_foldl; intro _ _ _)
                  | simp only [Still_mk, StillAt_self, StillRes_done, StillRes_later, StillAns_next] | split | intro _))

theorem still_execSetNow (p : Pkt) {s : State} (hKs : Still og s) : StillAns og (execSetNow p s) := by
  unfold execSetNow
  generalize sfld 24 (pw p 2) = v
  apply still_runCmd _ _ _ hKs
  split
  · exact still_refuse _ hKs
  · rename_i c _
    have h := still_setSetpoint c v true hKs
    apply StillRes_if (still_refuse _ hKs)
    split
    · exact still_refuse _ hKs
    · have ht := StillEx.fst h (by assumption)
      exact StillRes_if (still_ok _ ht) ht

theorem still_execStatusRead (p : Pkt) {s : State} (hKs : Still og s) : StillAns og (execStatusRead p s) := by
  unfold execStatusRead
  (repeat' (first | with_reducible assumption | ((with_reducible apply quiet_side); rfl)
                  | with_reducible (first | apply Still_if | apply StillRes_if | apply StillAns_if | apply still_ok
                                          | apply still_refuse | apply still_runCmd)
                  | (with_reducible apply Still_foldl; intro _ _ _)
                  | simp only [Still_mk, StillAt_self, StillRes_done, StillRes_later, StillAns_next] | split | intro _))

theorem still_execNowReserve (p : Pkt) {s : State} (hKs : Still og s) : StillAns og (execNowReserve p s) := by
  unfold execNowReserve
  (repeat' (first | with_reducible assumption | ((with_reducible apply quiet_side); rfl)
                  | with_reducible (first | apply Still_if | apply StillRes_if | apply StillAns_if | apply still_setCh
                                          | apply still_grantCh | apply still_ok | apply still_refuse | apply still_runCmd)
                  | (with_reducible apply Still_foldl; intro _ _ _)
                  | simp only [Still_mk, StillAt_self, StillRes_done, StillRes_later, StillAns_next] | split | intro _
                  | refine StillEx.state ?_ (by assumption)))

end Sys2Proof.Machine
end

