-- ==== Sys2Proof/Laws/StillVane.lean ====
section
/-!
SUPPORT. What each function leaves alone (Still): mesh, power, Vane, images, tests, resets.
-/
set_option linter.unusedTactic false
set_option linter.unreachableTactic false
set_option linter.unusedSimpArgs false
namespace Sys2Proof.Machine
variable {og : State}

theorem still_mshCause {s : State} (inst code : Nat) (hKs : Still og s) : Still og (mshCause s inst code) := by
  unfold mshCause
  (repeat' (first | with_reducible assumption | ((with_reducible apply quiet_side); rfl)
                  | with_reducible (first | apply still_record)))

theorem still_setMsh {s : State} (m : Msh) (hKs : Still og s) : Still og (State.setMsh s m) := by
  exact hKs

theorem still_releaseHeld {s : State} (hKs : Still og s) : Still og (releaseHeld s) := by
  unfold releaseHeld
  (repeat' (first | with_reducible assumption | ((with_reducible apply quiet_side); rfl)
                  | with_reducible (first | apply Still_if | apply still_frameTo | apply still_setMsh)
                  | (with_reducible apply Still_foldl; intro _ _ _) | simp only [Still_mk, StillAt_self] | split | intro _))

theorem still_askAgain {s : State} (hKs : Still og s) : Still og (askAgain s) := by
  unfold askAgain
  (repeat' (first | with_reducible assumption | ((with_reducible apply quiet_side); rfl)
                  | with_reducible (first | apply Still_if | apply still_setMsh | apply still_setStream)
                  | (with_reducible apply Still_foldl; intro _ _ _) | simp only [Still_mk, StillAt_self] | split | intro _))

theorem still_startRepair {s : State} (hKs : Still og s) : Still og (startRepair s) := by
  unfold startRepair
  (repeat' (first | with_reducible assumption | ((with_reducible apply quiet_side); rfl)
                  | with_reducible (first | apply Still_if | apply still_sendFrame | apply still_setMsh)
                  | (with_reducible apply Still_foldl; intro _ _ _) | simp only [Still_mk, StillAt_self] | split | intro _))

theorem still_repairOwed {s : State} (hKs : Still og s) : Still og (repairOwed s) := by
  unfold repairOwed
  (repeat' (first | with_reducible assumption | ((with_reducible apply quiet_side); rfl)
                  | with_reducible (first | apply Still_if | apply still_setMsh | apply still_startRepair)
                  | (with_reducible apply Still_foldl; intro _ _ _) | simp only [Still_mk, StillAt_self] | split | intro _))

theorem still_dropForwards {s : State} (hKs : Still og s) : Still og (dropForwards s) := by
  unfold dropForwards
  (repeat' (first | with_reducible assumption | ((with_reducible apply quiet_side); rfl)
                  | with_reducible (first | apply Still_if | apply still_complete | apply still_setMsh)
                  | (with_reducible apply Still_foldl; intro _ _ _) | simp only [Still_mk, StillAt_self] | split | intro _))

theorem still_dropTimeCtl {s : State} (hKs : Still og s) : Still og (dropTimeCtl s) := by
  unfold dropTimeCtl
  (repeat' (first | with_reducible assumption | ((with_reducible apply quiet_side); rfl)
                  | with_reducible (first | apply Still_if | apply still_complete | apply still_setMsh)
                  | (with_reducible apply Still_foldl; intro _ _ _) | simp only [Still_mk, StillAt_self] | split | intro _))

theorem still_loseEnum {s : State} (hKs : Still og s) : Still og (loseEnum s) := by
  unfold loseEnum
  (repeat' (first | with_reducible assumption | ((with_reducible apply quiet_side); rfl)
                  | with_reducible (first | apply Still_if | apply still_complete | apply still_setMsh)
                  | (with_reducible apply Still_foldl; intro _ _ _) | simp only [Still_mk, StillAt_self] | split | intro _))

theorem still_passNewer {s : State} (gen : Nat) (but : Option Nat) (hKs : Still og s) : Still og (passNewer s gen but) := by
  unfold passNewer
  (repeat' (first | with_reducible assumption | ((with_reducible apply quiet_side); rfl)
                  | with_reducible (first | apply Still_if | apply still_sendFrame)
                  | (with_reducible apply Still_foldl; intro _ _ _) | simp only [Still_mk, StillAt_self] | split | intro _))

theorem still_dropLoopback {s : State} (p : Nat) (hKs : Still og s) : Still og (dropLoopback s p) := by
  unfold dropLoopback
  (repeat' (first | with_reducible assumption | ((with_reducible apply quiet_side); rfl)
                  | with_reducible (first | apply Still_if | apply still_complete | apply still_setPort)
                  | (with_reducible apply Still_foldl; intro _ _ _) | simp only [Still_mk, StillAt_self] | split | intro _))

theorem still_meshCmd {s : State} {k : Res} (hKs : Still og s) (hKk : StillRes og k) : StillRes og (meshCmd s k) := by
  unfold meshCmd
  (repeat' (first | with_reducible assumption | ((with_reducible apply quiet_side); rfl)
                  | with_reducible (first | apply Still_if | apply StillRes_if | apply still_refuse)
                  | (with_reducible apply Still_foldl; intro _ _ _)
                  | simp only [Still_mk, StillAt_self, StillRes_done, StillRes_later] | split | intro _))

theorem still_newerSeen {s : State} (port gen : Nat) (hKs : Still og s) : Still og (newerSeen s port gen) := by
  unfold newerSeen
  (repeat' (first | with_reducible assumption | ((with_reducible apply quiet_side); rfl)
                  | with_reducible (first | apply Still_if | apply still_setMsh)
                  | (with_reducible apply Still_foldl; intro _ _ _) | simp only [Still_mk, StillAt_self] | split | intro _))

theorem still_answerOne {s : State} (f : Fwd) (status : Nat) (res : List Nat) (hKs : Still og s)
    : Still og (answerOne s f status res) := by
  unfold answerOne
  (repeat' (first | with_reducible assumption | ((with_reducible apply quiet_side); rfl)
                  | with_reducible (first | apply still_complete | apply still_setMsh)))

theorem still_broadcastCheck {s : State} (f : Fwd) (hKs : Still og s) : Still og (broadcastCheck s f) := by
  unfold broadcastCheck
  (repeat' (first | with_reducible assumption | ((with_reducible apply quiet_side); rfl)
                  | with_reducible (first | apply Still_if | apply still_setMsh | apply still_answerOne)
                  | (with_reducible apply Still_foldl; intro _ _ _) | simp only [Still_mk, StillAt_self] | split | intro _))

theorem still_memberAnswers {s : State} (node fid status : Nat) (res : List Nat) (hKs : Still og s)
    : Still og (memberAnswers s node fid status res) := by
  unfold memberAnswers
  (repeat' (first | with_reducible assumption | ((with_reducible apply quiet_side); rfl)
                  | with_reducible (first | apply Still_if | apply still_answerOne | apply still_broadcastCheck)
                  | (with_reducible apply Still_foldl; intro _ _ _) | simp only [Still_mk, StillAt_self] | split | intro _))

theorem still_lostMembers {s : State} (f : Fwd) (hKs : Still og s) : Still og (lostMembers s f) := by
  unfold lostMembers
  (repeat' (first | with_reducible assumption | ((with_reducible apply quiet_side); rfl)
                  | with_reducible (first | apply Still_if | apply still_answerOne | apply still_broadcastCheck)
                  | (with_reducible apply Still_foldl; intro _ _ _) | simp only [Still_mk, StillAt_self] | split | intro _))

theorem still_timeCtlCheck {s : State} (hKs : Still og s) : Still og (timeCtlCheck s) := by
  unfold timeCtlCheck
  (repeat' (first | with_reducible assumption | ((with_reducible apply quiet_side); rfl)
                  | with_reducible (first | apply Still_if | apply still_complete | apply still_setMsh)
                  | (with_reducible apply Still_foldl; intro _ _ _) | simp only [Still_mk, StillAt_self] | split | intro _))

theorem still_floodOn {s : State} (words : List Nat) (hops : Nat) (but : Option Nat) (hKs : Still og s)
    : Still og (floodOn s words hops but) := by
  unfold floodOn
  (repeat' (first | with_reducible assumption | ((with_reducible apply quiet_side); rfl)
                  | with_reducible (first | apply Still_if | apply still_sendFrame)
                  | (with_reducible apply Still_foldl; intro _ _ _) | simp only [Still_mk, StillAt_self] | split | intro _))

theorem still_execMeshRouteRead (p : Pkt) (_wr : Option HostFault) {s : State} (hKs : Still og s)
    : StillAns og (execMeshRouteRead p _wr s) := by
  unfold execMeshRouteRead
  (repeat' (first | with_reducible assumption | ((with_reducible apply quiet_side); rfl)
                  | with_reducible (first | apply Still_if | apply StillRes_if | apply StillAns_if | apply still_hostPut
                                          | apply still_meshCmd | apply still_refuse | apply still_runCmd)
                  | (with_reducible apply Still_foldl; intro _ _ _)
                  | simp only [Still_mk, StillAt_self, StillRes_done, StillRes_later, StillAns_next] | split | intro _))

theorem still_discardFrame {s : State} (target source fid cls kind : Nat) (hKs : Still og s)
    : Still og (discardFrame s target source fid cls kind) := by
  unfold discardFrame
  (repeat' (first | with_reducible assumption | ((with_reducible apply quiet_side); rfl)
                  | with_reducible (first | apply still_frameTo | apply still_mshCause | apply still_own)))

theorem still_passOn {s : State} (target source fid hops cls : Nat) (words : List Nat) (hKs : Still og s)
    : Still og (passOn s target source fid hops cls words) := by
  unfold passOn
  (repeat' (first | with_reducible assumption | ((with_reducible apply quiet_side); rfl)
                  | with_reducible (first | apply Still_if | apply still_frameTo | apply still_discardFrame)
                  | (with_reducible apply Still_foldl; intro _ _ _) | simp only [Still_mk, StillAt_self] | split | intro _))

theorem still_floodArrives {s : State} (port source fid hops : Nat) (words : List Nat) (hKs : Still og s)
    : Still og (floodArrives s port source fid hops words) := by
  unfold floodArrives
  (repeat' (first | with_reducible assumption | ((with_reducible apply quiet_side); rfl)
                  | with_reducible (first | apply Still_if | apply still_setMsh | apply still_addOp | apply still_discardFrame
                                          | apply still_floodOn) | (with_reducible apply Still_foldl; intro _ _ _)
                  | simp only [Still_mk, StillAt_self] | split | intro _))

theorem still_packetArrives {s : State} (port target source fid hops : Nat) (words : List Nat) (hKs : Still og s)
    : Still og (packetArrives s port target source fid hops words) := by
  unfold packetArrives
  (repeat' (first | with_reducible assumption | ((with_reducible apply quiet_side); rfl)
                  | with_reducible (first | apply Still_if | apply still_addOp | apply still_floodArrives
                                          | apply still_passOn) | (with_reducible apply Still_foldl; intro _ _ _)
                  | simp only [Still_mk, StillAt_self] | split | intro _))

theorem still_replayFrame {s : State} (port cls : Nat) (hKs : Still og s) : Still og (replayFrame s port cls) := by
  unfold replayFrame
  (repeat' (first | with_reducible assumption | ((with_reducible apply quiet_side); rfl)
                  | with_reducible (first | apply Still_if | apply still_emit)
                  | (with_reducible apply Still_foldl; intro _ _ _) | simp only [Still_mk, StillAt_self] | split | intro _))

theorem still_farNotice {s : State} (source q status : Nat) (res : List Nat) (hKs : Still og s)
    : Still og (farNotice s source q status res) := by
  unfold farNotice
  (repeat' (first | with_reducible assumption | ((with_reducible apply quiet_side); rfl)
                  | with_reducible (first | apply Still_if | apply still_complete)
                  | (with_reducible apply Still_foldl; intro _ _ _) | simp only [Still_mk, StillAt_self] | split | intro _))

theorem still_exchangeEnds {s : State} (far : Nat × Nat) (hKs : Still og s) : Still og (exchangeEnds s far) := by
  unfold exchangeEnds
  (repeat' (first | with_reducible assumption | ((with_reducible apply quiet_side); rfl)
                  | with_reducible (first | apply Still_if | apply still_setMsh)
                  | (with_reducible apply Still_foldl; intro _ _ _) | simp only [Still_mk, StillAt_self] | split | intro _))

theorem still_execTimeFrameRx (port : Nat) (f : TimeFrame) {s : State} (hKs : Still og s)
    : StillAns og (execTimeFrameRx port f s) := by
  unfold execTimeFrameRx
  (repeat' (first | with_reducible assumption | ((with_reducible apply quiet_side); rfl)
                  | with_reducible (first | apply Still_if | apply StillAns_if | apply still_setMsh | apply still_setPort
                                          | apply still_exchangeEnds | apply still_sendTwice)
                  | (with_reducible apply Still_foldl; intro _ _ _) | simp only [Still_mk, StillAt_self, StillAns_next]
                  | split | intro _))

theorem still_offsetMoved {s : State} (d : Int) (hKs : Still og s) : Still og (offsetMoved s d) := by
  unfold offsetMoved
  (repeat' (first | with_reducible assumption | ((with_reducible apply quiet_side); rfl)
                  | with_reducible (first | apply still_setMsh)))

theorem still_vaneCause {s : State} (code : Nat) (high : Bool) (hKs : Still og s) : Still og (vaneCause s code high) := by
  unfold vaneCause
  (repeat' (first | with_reducible assumption | ((with_reducible apply quiet_side); rfl)
                  | with_reducible (first | apply still_record)))

theorem still_sensorEvent {s : State} (n st : Nat) (hKs : Still og s) : Still og (sensorEvent s n st) := by
  unfold sensorEvent
  (repeat' (first | with_reducible assumption | ((with_reducible apply quiet_side); rfl)
                  | with_reducible (first | apply Still_if | apply still_emit)
                  | (with_reducible apply Still_foldl; intro _ _ _) | simp only [Still_mk, StillAt_self] | split | intro _))

theorem still_powerRec {s : State} (kind w6 w7 : Nat) (hKs : Still og s) : Still og (powerRec s kind w6 w7) := by
  unfold powerRec
  (repeat' (first | with_reducible assumption | ((with_reducible apply quiet_side); rfl)
                  | with_reducible (first | apply still_logRec)))

theorem still_firmwareRec {s : State} (kind image slot old new reason : Nat) (hKs : Still og s)
    : Still og (firmwareRec s kind image slot old new reason) := by
  unfold firmwareRec
  (repeat' (first | with_reducible assumption | ((with_reducible apply quiet_side); rfl)
                  | with_reducible (first | apply still_logRec)))

theorem still_answerImage {s : State} (cmd : Option (Src × Nat)) (status : Nat) (res : List Nat) (hKs : Still og s)
    : Still og (answerImage s cmd status res) := by
  unfold answerImage
  (repeat' (first | with_reducible assumption | ((with_reducible apply quiet_side); rfl)
                  | with_reducible (first | apply Still_if | apply still_complete | apply still_emit)
                  | (with_reducible apply Still_foldl; intro _ _ _) | simp only [Still_mk, StillAt_self] | split | intro _))

theorem still_shedEngine {s : State} (e : Nat) (hKs : Still og s) : Still og (shedEngine s e) := by
  unfold shedEngine
  (repeat' (first | with_reducible assumption | ((with_reducible apply quiet_side); rfl)
                  | with_reducible (first | apply Still_if | apply still_setSlotState | apply still_abortEngine
                                          | apply still_unreserve) | (with_reducible apply Still_foldl; intro _ _ _)
                  | simp only [Still_mk, StillAt_self] | split | intro _))

theorem still_shedChan {s : State} (c : Nat) (hKs : Still og s) : Still og (shedChan s c) := by
  unfold shedChan
  (repeat' (first | with_reducible assumption | ((with_reducible apply quiet_side); rfl)
                  | with_reducible (first | apply Still_if | apply still_setCh | apply still_abortTune
                                          | apply still_settleOpen | apply still_startRampDown)
                  | (with_reducible apply Still_foldl; intro _ _ _) | simp only [Still_mk, StillAt_self] | split | intro _))

theorem still_pinCmpsBack {s : State} (n : Nat) (hKs : Still og s) : Still og (pinCmpsBack s n) := by
  unfold pinCmpsBack
  (repeat' (first | with_reducible assumption | ((with_reducible apply quiet_side); rfl)
                  | with_reducible (first | apply Still_if | apply still_modeChanges)
                  | (with_reducible apply Still_foldl; intro _ _ _) | simp only [Still_mk, StillAt_self] | split | intro _))

theorem still_pinsAfterShed {s : State} (wake : Bool) (hKs : Still og s) : Still og (pinsAfterShed s wake) := by
  unfold pinsAfterShed
  (repeat' (first | with_reducible assumption | ((with_reducible apply quiet_side); rfl)
                  | with_reducible (first | apply Still_if | apply still_put | apply still_setPin | apply still_pinCmpsBack)
                  | (with_reducible apply Still_foldl; intro _ _ _) | simp only [Still_mk, StillAt_self] | split | intro _))

theorem still_interruptLull {s : State} (c : Src × Nat) (hKs : Still og s) : Still og (interruptLull s c) := by
  unfold interruptLull
  (repeat' (first | with_reducible assumption | ((with_reducible apply quiet_side); rfl)
                  | with_reducible (first | apply Still_if | apply still_setCq)
                  | (with_reducible apply Still_foldl; intro _ _ _) | simp only [Still_mk, StillAt_self] | split | intro _))

theorem still_vaneCmd {s : State} (p : Pkt) {k : Res} (hKs : Still og s) (hKk : StillRes og k)
    : StillRes og (vaneCmd s p k) := by
  unfold vaneCmd
  (repeat' (first | with_reducible assumption | ((with_reducible apply quiet_side); rfl)
                  | with_reducible (first | apply Still_if | apply StillRes_if | apply still_refuse)
                  | (with_reducible apply Still_foldl; intro _ _ _)
                  | simp only [Still_mk, StillAt_self, StillRes_done, StillRes_later] | split | intro _))

theorem still_execLogRead (p : Pkt) (_wr : Option HostFault) {s : State} (hKs : Still og s)
    : StillAns og (execLogRead p _wr s) := by
  unfold execLogRead
  (repeat' (first | with_reducible assumption | ((with_reducible apply quiet_side); rfl)
                  | with_reducible (first | apply Still_if | apply StillRes_if | apply StillAns_if | apply still_emit
                                          | apply still_hostPut | apply still_ok | apply still_refuse | apply still_runCmd
                                          | apply still_vaneCmd) | (with_reducible apply Still_foldl; intro _ _ _)
                  | simp only [Still_mk, StillAt_self, StillRes_done, StillRes_later, StillAns_next] | split | intro _))

theorem still_execSensorRead (p : Pkt) {s : State} (hKs : Still og s) : StillAns og (execSensorRead p s) := by
  unfold execSensorRead
  (repeat' (first | with_reducible assumption | ((with_reducible apply quiet_side); rfl)
                  | with_reducible (first | apply Still_if | apply StillRes_if | apply StillAns_if | apply still_ok
                                          | apply still_refuse | apply still_runCmd | apply still_vaneCmd)
                  | (with_reducible apply Still_foldl; intro _ _ _)
                  | simp only [Still_mk, StillAt_self, StillRes_done, StillRes_later, StillAns_next] | split | intro _))

theorem still_overTemp {s : State} (n : Nat) (hKs : Still og s) : Still og (overTemp s n) := by
  unfold overTemp
  (repeat' (first | with_reducible assumption | ((with_reducible apply quiet_side); rfl)
                  | with_reducible (first | apply Still_if | apply still_chipCause | apply still_recordChan)
                  | (with_reducible apply Still_foldl; intro _ _ _) | simp only [Still_mk, StillAt_self] | split | intro _))

theorem still_enterSensor {s : State} (n st : Nat) (hKs : Still og s) : Still og (enterSensor s n st) := by
  unfold enterSensor
  (repeat' (first | with_reducible assumption | ((with_reducible apply quiet_side); rfl)
                  | with_reducible (first | apply Still_if | apply still_overTemp | apply still_vaneCause)
                  | (with_reducible apply Still_foldl; intro _ _ _) | simp only [Still_mk, StillAt_self] | split | intro _))

theorem still_execFwStatus (p : Pkt) {s : State} (hKs : Still og s) : StillAns og (execFwStatus p s) := by
  unfold execFwStatus
  (repeat' (first | with_reducible assumption | ((with_reducible apply quiet_side); rfl)
                  | with_reducible (first | apply Still_if | apply StillRes_if | apply StillAns_if | apply still_ok
                                          | apply still_refuse | apply still_runCmd | apply still_vaneCmd)
                  | (with_reducible apply Still_foldl; intro _ _ _)
                  | simp only [Still_mk, StillAt_self, StillRes_done, StillRes_later, StillAns_next] | split | intro _))

theorem still_disarm {s : State} (target : Nat) (hKs : Still og s) : Still og (disarm s target) := by
  unfold disarm
  (repeat' (first | with_reducible assumption | ((with_reducible apply quiet_side); rfl)
                  | with_reducible (first | apply Still_if | apply still_wrNext | apply still_tdacChanged)
                  | (with_reducible apply Still_foldl; intro _ _ _) | simp only [Still_mk, StillAt_self] | split | intro _))

theorem still_disarmAll {s : State} (hKs : Still og s) : Still og (disarmAll s) := by
  unfold disarmAll
  (repeat' (first | with_reducible assumption | ((with_reducible apply quiet_side); rfl)
                  | with_reducible (first | apply Still_if | apply still_disarm)
                  | (with_reducible apply Still_foldl; intro _ _ _) | simp only [Still_mk, StillAt_self] | split | intro _))

theorem still_execLoopbackSet (p : Pkt) {s : State} (hKs : Still og s) : StillAns og (execLoopbackSet p s) := by
  unfold execLoopbackSet
  (repeat' (first | with_reducible assumption | ((with_reducible apply quiet_side); rfl)
                  | with_reducible (first | apply Still_if | apply StillRes_if | apply StillAns_if | apply still_disarm
                                          | apply still_ok | apply still_refuse | apply still_runCmd
                                          | apply still_writeTdacMask) | (with_reducible apply Still_foldl; intro _ _ _)
                  | simp only [Still_mk, StillAt_self, StillRes_done, StillRes_later, StillAns_next] | split | intro _
                  | refine StillEx.state ?_ (by assumption)))

theorem still_execSelfTest (p : Pkt) {s : State} (hKs : Still og s) : StillAns og (execSelfTest p s) := by
  unfold execSelfTest
  (repeat' (first | with_reducible assumption | ((with_reducible apply quiet_side); rfl)
                  | with_reducible (first | apply Still_if | apply StillRes_if | apply StillAns_if | apply still_refuse
                                          | apply still_runCmd) | (with_reducible apply Still_foldl; intro _ _ _)
                  | simp only [Still_mk, StillAt_self, StillRes_done, StillRes_later, StillAns_next] | split | intro _))

theorem still_execSelfTestDone (failed skipped : Nat) {s : State} (hKs : Still og s)
    : StillAns og (execSelfTestDone failed skipped s) := by
  unfold execSelfTestDone
  (repeat' (first | with_reducible assumption | ((with_reducible apply quiet_side); rfl)
                  | with_reducible (first | apply Still_if | apply StillAns_if | apply still_complete | apply still_done
                                          | apply still_record) | (with_reducible apply Still_foldl; intro _ _ _)
                  | simp only [Still_mk, StillAt_self, StillAns_next] | split | intro _))

theorem still_detach {s : State} (n : Nat) (hKs : Still og s) : Still og (detach s n) := by
  unfold detach
  (repeat' (first | with_reducible assumption | ((with_reducible apply quiet_side); rfl)
                  | with_reducible (first | apply Still_if | apply still_put | apply still_setStream | apply still_record)
                  | (with_reducible apply Still_foldl; intro _ _ _) | simp only [Still_mk, StillAt_self] | split | intro _))

end Sys2Proof.Machine
end

