-- ==== Sys2Proof/Laws/StillHost.lean ====
section
/-!
SUPPORT. What each function leaves alone (Still): host link, life cycle, parameter writes, out-of-band messages, ABORT.
-/
set_option linter.unusedTactic false
set_option linter.unreachableTactic false
set_option linter.unusedSimpArgs false
namespace Sys2Proof.Machine
variable {og : State}

theorem still_configData {s : State} (r : ConfigReg) (hKs : Still og s) : Still og (configData s r).2 := by
  cases r <;> first | exact hKs | exact still_draw hKs

theorem still_bar0Answer {s : State} (o : Nat) (ws : List Nat) (hKs : Still og s) : Still og (bar0Answer s o ws) := by
  unfold bar0Answer
  (repeat' (first | with_reducible assumption | ((with_reducible apply quiet_side); rfl)
                  | with_reducible (first | apply still_emit)))

theorem still_writeBase {s : State} (n : Nat) (cq : Bool) (v : Nat) (hKs : Still og s) : Still og (writeBase s n cq v) := by
  unfold writeBase
  (repeat' (first | with_reducible assumption | ((with_reducible apply quiet_side); rfl)
                  | with_reducible (first | apply Still_if | apply still_setCq | apply still_setSq | apply still_hlCause)
                  | (with_reducible apply Still_foldl; intro _ _ _) | simp only [Still_mk, StillAt_self] | split | intro _))

theorem still_writeSqCfg {s : State} (n v : Nat) (hKs : Still og s) : Still og (writeSqCfg s n v) := by
  unfold writeSqCfg
  (repeat' (first | with_reducible assumption | ((with_reducible apply quiet_side); rfl)
                  | with_reducible (first | apply Still_if | apply still_setSq | apply still_hlCause
                                          | apply still_setSqEnable) | (with_reducible apply Still_foldl; intro _ _ _)
                  | simp only [Still_mk, StillAt_self] | split | intro _))

theorem still_writeCqCfg {s : State} (n v : Nat) (hKs : Still og s) : Still og (writeCqCfg s n v) := by
  unfold writeCqCfg
  (repeat' (first | with_reducible assumption | ((with_reducible apply quiet_side); rfl)
                  | with_reducible (first | apply Still_if | apply still_setCq | apply still_hlCause
                                          | apply still_setCqEnable) | (with_reducible apply Still_foldl; intro _ _ _)
                  | simp only [Still_mk, StillAt_self] | split | intro _))

theorem still_writeMbxCtl {s : State} (v : Nat) (hKs : Still og s) : Still og (writeMbxCtl s v) := by
  unfold writeMbxCtl
  (repeat' (first | with_reducible assumption | ((with_reducible apply quiet_side); rfl)
                  | with_reducible (first | apply Still_if | apply still_mbxGo)
                  | (with_reducible apply Still_foldl; intro _ _ _) | simp only [Still_mk, StillAt_self] | split | intro _))

theorem still_writeMbxCmd {s : State} (i v : Nat) (hKs : Still og s) : Still og (writeMbxCmd s i v) := by
  unfold writeMbxCmd
  (repeat' (first | with_reducible assumption | ((with_reducible apply quiet_side); rfl)
                  | with_reducible (first | apply Still_if | apply still_hlCause)
                  | (with_reducible apply Still_foldl; intro _ _ _) | simp only [Still_mk, StillAt_self] | split | intro _))

theorem still_writeBar0Wide {s : State} (o v : Nat) (hKs : Still og s) : Still og (writeBar0Wide s o v) := by
  unfold writeBar0Wide
  (repeat' (first | with_reducible assumption | ((with_reducible apply quiet_side); rfl)
                  | with_reducible (first | apply Still_if | apply still_writeBase)
                  | (with_reducible apply Still_foldl; intro _ _ _) | simp only [Still_mk, StillAt_self] | split | intro _))

theorem still_execPoisonedWrite (_bar _offset : Nat) {s : State} (hKs : Still og s)
    : StillAns og (execPoisonedWrite _bar _offset s) := by
  unfold execPoisonedWrite
  (repeat' (first | with_reducible assumption | ((with_reducible apply quiet_side); rfl)
                  | with_reducible (first | apply Still_if | apply StillAns_if | apply still_done | apply still_hlCause)
                  | (with_reducible apply Still_foldl; intro _ _ _) | simp only [Still_mk, StillAt_self, StillAns_next]
                  | split | intro _))

theorem still_dramByte {s : State} (a : Nat) (hKs : Still og s) : Still og (dramByte s a).2 := by
  unfold dramByte
  (repeat' (first | with_reducible assumption | ((with_reducible apply quiet_side); rfl)
                  | with_reducible (first | apply Still_if | apply still_draw)
                  | (with_reducible apply Still_foldl; intro _ _ _) | simp only [Still_mk, StillAt_self] | split | intro _
                  | refine Still.snd ?_ (by assumption)))

theorem still_dramBytes {s : State} (l : List Nat) (hKs : Still og s) : Still og (dramBytes s l).2 := by
  induction l generalizing s with
  | nil => exact hKs
  | cons a l ih => exact ih (still_dramByte a hKs)

theorem still_writeVectorByte {s : State} (d b v : Nat) (hKs : Still og s) : Still og (writeVectorByte s d b v) := by
  unfold writeVectorByte
  (repeat' (first | with_reducible assumption | ((with_reducible apply quiet_side); rfl)
                  | with_reducible (first | apply still_setSequencer)))

theorem still_mendGranules {s : State} (addrs : List Nat) (hKs : Still og s) : Still og (mendGranules s addrs) := by
  unfold mendGranules
  (repeat' (first | with_reducible assumption | ((with_reducible apply quiet_side); rfl)
                  | with_reducible (first | apply Still_if | apply still_setSequencer)
                  | (with_reducible apply Still_foldl; intro _ _ _) | simp only [Still_mk, StillAt_self] | split | intro _))

theorem still_writeDramByte {s : State} (c : Nat × Nat) (hKs : Still og s) : Still og (writeDramByte s c) := by
  unfold writeDramByte
  (repeat' (first | with_reducible assumption | ((with_reducible apply quiet_side); rfl)
                  | with_reducible (first | apply Still_if | apply still_writeVectorByte)
                  | (with_reducible apply Still_foldl; intro _ _ _) | simp only [Still_mk, StillAt_self] | split | intro _))

theorem still_execBar2Write (offset : Nat) (bytes : List Byte) {s : State} (hKs : Still og s)
    : StillAns og (execBar2Write offset bytes s) := by
  unfold execBar2Write
  (repeat' (first | with_reducible assumption | ((with_reducible apply quiet_side); rfl)
                  | with_reducible (first | apply Still_if | apply StillAns_if | apply still_done | apply still_hlCause
                                          | apply still_mendGranules | apply still_writeDramByte)
                  | (with_reducible apply Still_foldl; intro _ _ _) | simp only [Still_mk, StillAt_self, StillAns_next]
                  | split | intro _))

theorem still_zeroSeq {s : State} (d : Nat) (hKs : Still og s) : Still og (zeroSeq s d) := by
  unfold zeroSeq
  (repeat' (first | with_reducible assumption | ((with_reducible apply quiet_side); rfl)
                  | with_reducible (first | apply still_setSequencer)))

theorem still_dropBlocks {s : State} (n : Nat) (hKs : Still og s) : Still og (dropBlocks s n) := by
  unfold dropBlocks
  (repeat' (first | with_reducible assumption | ((with_reducible apply quiet_side); rfl)
                  | with_reducible (first | apply still_put | apply still_setStream | apply still_flushCheck)))

theorem still_lifeRecord {s : State} (old new : Nat) (hKs : Still og s) : Still og (lifeRecord s old new) := by
  unfold lifeRecord
  (repeat' (first | with_reducible assumption | ((with_reducible apply quiet_side); rfl)
                  | with_reducible (first | apply still_logRec)))

theorem still_execLcStatus (p : Pkt) {s : State} (hKs : Still og s) : StillAns og (execLcStatus p s) := by
  unfold execLcStatus
  (repeat' (first | with_reducible assumption | ((with_reducible apply quiet_side); rfl)
                  | with_reducible (first | apply still_ok | apply still_runCmd | apply still_vaneCmd)))

theorem still_scanCells {s : State} (i : TapInstr) (scan : Scan) (hKs : Still og s) : Still og (scanCells s i scan) := by
  unfold scanCells
  (repeat' (first | with_reducible assumption | ((with_reducible apply quiet_side); rfl)
                  | with_reducible (first | apply Still_if | apply still_emit)
                  | (with_reducible apply Still_foldl; intro _ _ _) | simp only [Still_mk, StillAt_self] | split | intro _))

theorem still_scanWith {s : State} (i : TapInstr) (scan : Scan) (hKs : Still og s) : Still og (scanWith s i scan) := by
  unfold scanWith
  (repeat' (first | with_reducible assumption | ((with_reducible apply quiet_side); rfl)
                  | with_reducible (first | apply Still_if | apply still_emit | apply still_scanCells)
                  | (with_reducible apply Still_foldl; intro _ _ _) | simp only [Still_mk, StillAt_self] | split | intro _))

theorem still_nack (status : Nat) : StillEx og Prod.fst (nack status) := by
  unfold nack
  (repeat' (first | with_reducible assumption | ((with_reducible apply quiet_side); rfl)
                  | with_reducible (first | apply Still_if | apply StillEx_if)
                  | (with_reducible apply Still_foldl; intro _ _ _)
                  | simp only [Still_mk, StillAt_self, StillEx_ok, StillEx_error, id] | split | intro _))

theorem still_ack {s : State} (hKs : Still og s) : StillEx og Prod.fst (ack s) := by
  unfold ack
  (repeat' (first | with_reducible assumption | ((with_reducible apply quiet_side); rfl)
                  | with_reducible (first | apply Still_if | apply StillRes_if | apply StillEx_if | apply still_ok)
                  | (with_reducible apply Still_foldl; intro _ _ _)
                  | simp only [Still_mk, StillAt_self, StillRes_done, StillRes_later, StillEx_ok, StillEx_error, id] | split
                  | intro _))

theorem still_plainWr {w : Wr} (hKw : StillEx og id w) : StillEx og Prod.fst (plainWr w) := by
  cases w with
  | ok t => exact hKw
  | error _ => trivial

theorem still_reviseCeiling {old : State} {s : State} (c : Nat) (hKold : Still og old) (hKs : Still og s)
    : Still og (reviseCeiling old s c) := by
  unfold reviseCeiling
  (repeat' (first | with_reducible assumption | ((with_reducible apply quiet_side); rfl)
                  | with_reducible (first | apply Still_if | apply still_resetCeiling)
                  | (with_reducible apply Still_foldl; intro _ _ _) | simp only [Still_mk, StillAt_self] | split | intro _))

theorem still_regionPair {s : State} (fin : Nat → Int) (e k : Nat) {t : State} (hKs : Still og s) (hKt : Still og t)
    : StillEx og Prod.fst (regionPair s fin e k t) := by
  unfold regionPair
  (repeat' (first | with_reducible assumption | ((with_reducible apply quiet_side); rfl)
                  | with_reducible (first | apply Still_if | apply StillEx_if | apply still_ack | apply still_nack)
                  | (with_reducible apply Still_foldl; intro _ _ _)
                  | simp only [Still_mk, StillAt_self, StillEx_ok, StillEx_error, id] | split | intro _
                  | refine StillEx.fst ?_ (by assumption) | refine StillEx.ok (g := Prod.fst) ?_ (by assumption)))

theorem still_adoptTicks {old : State} {s : State} (hKold : Still og old) (hKs : Still og s) : Still og (adoptTicks old s) :=
    by
  unfold adoptTicks
  (repeat' (first | with_reducible assumption | ((with_reducible apply quiet_side); rfl)
                  | with_reducible (first | apply Still_if | apply still_tickWritten)
                  | (with_reducible apply Still_foldl; intro _ _ _) | simp only [Still_mk, StillAt_self] | split | intro _))

theorem still_written78 {a : State × Nat} (hKa : Still og a.1) : StillRes og (written78 a) :=
  StillRes_if (still_ok _ hKa) hKa

theorem still_reply {s : State} (kind : Nat) (ws : List Nat) (hKs : Still og s) : Still og (reply s kind ws) := by
  unfold reply
  (repeat' (first | with_reducible assumption | ((with_reducible apply quiet_side); rfl)
                  | with_reducible (first | apply still_emit)))

theorem still_errorReply {s : State} (kind : Nat) (hKs : Still og s) : Still og (errorReply s kind) := by
  unfold errorReply
  (repeat' (first | with_reducible assumption | ((with_reducible apply quiet_side); rfl)
                  | with_reducible (first | apply still_reply)))

theorem still_malformed {s : State} (hKs : Still og s) : Still og (malformed s) := by
  unfold malformed
  (repeat' (first | with_reducible assumption | ((with_reducible apply quiet_side); rfl)
                  | with_reducible (first | apply still_vaneCause)))

theorem still_updateReply {s : State} (component : Nat) (k : Nat → Nat × State) (hKs : Still og s)
    (hKk : ∀ y0 : Nat, Still og (k y0).2) : Still og (updateReply s component k) := by
  unfold updateReply
  (repeat' (first | with_reducible assumption | ((with_reducible apply quiet_side); rfl)
                  | with_reducible (first | apply Still_if | apply still_errorReply | apply still_reply)
                  | (with_reducible apply Still_foldl; intro _ _ _) | simp only [Still_mk, StillAt_self] | split| apply hKk
                  | intro _))

theorem still_freeReply {s : State} (kind : Nat) (hKs : Still og s) : Still og (freeReply s kind) := by
  unfold freeReply
  (repeat' (first | with_reducible assumption | ((with_reducible apply quiet_side); rfl)
                  | with_reducible (first | apply still_draw | apply still_reply)))

theorem StillOpt_map {α : Type} {g : α → State} (o : Option α) (h : ∀ a, Still og (g a)) : StillOpt og (o.map g) := by
  cases o with
  | none => trivial
  | some a => exact h a

theorem StillOpt_orElse {a b : Option State} (ha : StillOpt og a) (hb : StillOpt og b) : StillOpt og (a <|> b) := by
  cases a with
  | none => exact hb
  | some _ => exact ha

theorem still_tuneAborted {s : State} (src : Src) (tag : Nat) (hKs : Still og s) :
    StillOpt og (tuneAborted s src tag) :=
  StillOpt_map _ fun _ => still_complete _ _ _ _ _ _ (still_setCh _ _ hKs)

theorem still_stopAborted {s : State} (src : Src) (tag : Nat) (hKs : Still og s) :
    StillOpt og (stopAborted s src tag) :=
        StillOpt_map _ fun _ => still_endStop _ _ (Still_if (still_unbecalm _ (still_closeBlock _ _ hKs)) hKs)

theorem still_waitingAborted {s : State} (src : Src) (tag : Nat) (hKs : Still og s)
    : StillOpt og (waitingAborted s src tag) := by
  unfold waitingAborted
  (repeat' (first | with_reducible assumption | ((with_reducible apply quiet_side); rfl)
                  | with_reducible (first | apply Still_if | apply StillOpt_if | apply still_complete)
                  | (with_reducible apply Still_foldl; intro _ _ _)
                  | simp only [Still_mk, StillAt_self, StillOpt_some, StillOpt_none] | split | intro _))

end Sys2Proof.Machine
end

