-- ==== Sys2Proof/WellFormed.lean ====
section
/-!
DEFINITION. Well-formed commands: a packet has 16 words of 32 bits and a source that exists (R313, R320, R422); an
operand that numbers an instance is below the number of instances the spec gives (R3, R13).
-/
namespace Sys2Proof

/-- A source that exists: 64 submission queues, 16,383 mesh nodes. -/
def Src.wf : Src → Bool
  | .sq n => decide (n < 64)
  | .mbx => true
  | .mesh node _ => decide (node < 16383)
  | .vane => true
  | .nobody => false

/-- A signal that exists (R349, R411, R540): eight lanes of the host link, four of each mesh port. -/
def ScanSig.wf : ScanSig → Bool
  | .trig n => decide (n < 8)
  | .mark n => decide (n < 8)
  | .pcie lane _ => decide (lane < 8)
  | .mesh port lane _ => decide (port < 4) && decide (lane < 4)
  | .vp n => decide (n < 256)
  | _ => true

/-- 16 words of 32 bits. -/
def Pkt.wf (p : Pkt) : Bool := p.src.wf && p.words.length == 16 && p.words.all (fun w => decide (w < 4294967296))

/-- A command whose operands name things that exist. -/
def Instr.wf : Instr → Bool
  | .powerOnReset _ => true
  | .holdupBusCharged => true
  | .bootComplete => true
  | .nreset => true
  | .nresetRelease _ => true
  | .softReset _ => true
  | .powerFailDetect _ => true
  | .inputUvloFall _ => true
  | .inputOvlo _ => true
  | .externalPfail => true
  | .shedComplete => true
  | .shedRecovery _ => true
  | .holdupSpent => true
  | .holdupTest => true
  | .holdupTestMeasured _ => true
  | .heartbeatRound => true
  | .heartbeatTimeout _ => true
  | .lullEnter p => p.wf
  | .lullEntryDone => true
  | .lullL2Timeout => true
  | .lullWakeSource _ => true
  | .wakeComplete => true
  | .loopCycle _ => true
  | .windowCrossing ch _ _ => decide (ch < 128)
  | .clampTimeout ch => decide (ch < 128)
  | .limitTimeout ch => decide (ch < 132)
  | .soaTimeout ch row => decide (ch < 128) && decide (row < 4)
  | .senseLoss ch => decide (ch < 132)
  | .guardOvl ch => decide (ch < 128)
  | .railFault group => decide (group < 17)
  | .outReqWrite ch _ => decide (ch < 132)
  | .setpointWrite ch _ => decide (ch < 132)
  | .irangeWrite ch _ => decide (ch < 132)
  | .vrangeWrite ch _ => decide (ch < 128)
  | .standbyReached ch => decide (ch < 132)
  | .outputRampDone ch => decide (ch < 132)
  | .relayClosureVerified ch => decide (ch < 128)
  | .relayVerifyTimeout ch => decide (ch < 128)
  | .ssrOpenDelay ch => decide (ch < 128)
  | .rangeUpChange ch => decide (ch < 132)
  | .rangeDownChange ch => decide (ch < 132)
  | .settleWindowEnd ch => decide (ch < 132)
  | .railTargetReached group => decide (group < 17)
  | .loopTune p => p.wf
  | .loopTuneDone ch _ => decide (ch < 132)
  | .loopPreset p => p.wf
  | .rearm p => p.wf
  | .clearCounts p => p.wf
  | .sampleTimerInstant group => decide (group < 17)
  | .sampleTriggerPulse group => decide (group < 17)
  | .conversionComplete group _ => decide (group < 17)
  | .convFault ch => decide (ch < 132)
  | .converterWakeStart group => decide (group < 17)
  | .converterWakeComplete group => decide (group < 17)
  | .autoZeroStart group ch => decide (group < 17) && decide (ch < 132)
  | .autoZeroComplete ch _ _ _ _ => decide (ch < 132)
  | .trigSrcWrite group _ => decide (group < 17)
  | .pwrModeWrite group _ => decide (group < 17)
  | .timerPeriodWrite group _ _ => decide (group < 17)
  | .tdacMaskWrite group _ => decide (group < 17)
  | .sweUpload p => p.wf
  | .sweUploadDone _ _ _ _ => true
  | .sweFree p => p.wf
  | .sweLoad p => p.wf
  | .sweStart p => p.wf
  | .sweArm p => p.wf
  | .sweResume p => p.wf
  | .sweAbort p => p.wf
  | .sweRelease p => p.wf
  | .sweSignal p => p.wf
  | .sweEvStart engine => decide (engine < 17)
  | .sweEvNext engine => decide (engine < 17)
  | .sweEvHold engine => decide (engine < 17)
  | .sweEvAbort engine => decide (engine < 17)
  | .sweWaitRelease engine => decide (engine < 17)
  | .sweStartAt engine slot => decide (engine < 17) && decide (slot < 4)
  | .sweWaitTimeout engine => decide (engine < 17)
  | .pointEnd engine => decide (engine < 17)
  | .pointApply engine => decide (engine < 17)
  | .pulseEdgeStart engine => decide (engine < 17)
  | .pulseEdgeEnd engine => decide (engine < 17)
  | .swePreemptCut engine => decide (engine < 17)
  | .sweepMemoryScrub _ _ => true
  | .hvRampEnd ch => decide (128 ≤ ch) && decide (ch < 132)
  | .hvBoostStarted => true
  | .hvBoostStop => true
  | .hvBoostFault => true
  | .hvHwIlimit ch => decide (128 ≤ ch) && decide (ch < 132)
  | .interlockOpen => true
  | .interlockClosed => true
  | .hvDischargeDone ch _ => decide (128 ≤ ch) && decide (ch < 132)
  | .dischargeSlow ch => decide (128 ≤ ch) && decide (ch < 132)
  | .drvOvl pin => decide (pin < 256)
  | .pinOvervolt pin => decide (pin < 256)
  | .pmuEnWrite pin _ => decide (pin < 256)
  | .adcGo chip => decide (chip < 4)
  | .adcEvRequest chip => decide (chip < 4)
  | .adcSample chip _ => decide (chip < 4)
  | .adcResult chip _ => decide (chip < 4)
  | .adcFault chip => decide (chip < 4)
  | .comparatorInputCrossing _ _ => true
  | .comparatorFilterAccept _ _ => true
  | .comparatorModeChangeDone _ => true
  | .seqVecLoad p _ => p.wf
  | .seqSegWrite p _ => p.wf
  | .seqMapWrite p => p.wf
  | .seqParkWrite p => p.wf
  | .seqPinLoad p => p.wf
  | .tsWrite p _ => p.wf
  | .tsCommit p => p.wf
  | .tsCommitBoundary dom => decide (dom < 2)
  | .tsRead p _ => p.wf
  | .seqLoad p => p.wf
  | .seqStart p => p.wf
  | .seqArm p => p.wf
  | .seqStop p => p.wf
  | .seqJump p => p.wf
  | .seqResume p => p.wf
  | .seqAbort p => p.wf
  | .seqIdle p => p.wf
  | .seqRelease p => p.wf
  | .seqClearFails p => p.wf
  | .seqCapRead p _ => p.wf
  | .primingComplete primed => decide (primed.dom < 2)
  | .vectorStart dom _ _ => decide (dom < 2)
  | .granuleFetchDone dom _ _ => decide (dom < 2)
  | .seqEvStart dom => decide (dom < 2)
  | .seqEvStop dom => decide (dom < 2)
  | .seqJevPulse dom => decide (dom < 2)
  | .seqStartAt dom slot => decide (dom < 2) && decide (slot < 4)
  | .refLoss => true
  | .lockLoss _ => true
  | .refQualElapsed => true
  | .bandSearchDone _ => true
  | .lockDeclared _ => true
  | .lockTimeout => true
  | .coastBudgetExpiry => true
  | .holdDacTransfer => true
  | .freqGuardSuppress => true
  | .tbCommit p => p.wf
  | .tbRelock p => p.wf
  | .tbPhaseStep p => p.wf
  | .phaseStepApply => true
  | .tbTimeSet p => p.wf
  | .eventChannelPulse ch _ => decide (ch < 64)
  | .loopMonitorWindow => true
  | .tick gen _ => decide (gen < 8)
  | .trigInputEdge trig _ => decide (trig < 8)
  | .eddyOutputEdge cell => decide (cell < 32)
  | .eddyStretchEnd cell _ => decide (cell < 32)
  | .sevRelease sev => decide (sev < 16)
  | .evfEchoPulse => true
  | .fabricArm p => p.wf
  | .evfTestEnter p => p.wf
  | .evfTestExit p => p.wf
  | .eventFire p => p.wf
  | .evfClear p => p.wf
  | .cuRead p _ => p.wf
  | .sqTailDoorbell q _ => decide (q < 64)
  | .cqHeadDoorbell q _ => decide (q < 64)
  | .sqEnableWrite q _ => decide (q < 64)
  | .cqEnableWrite q _ => decide (q < 64)
  | .packetFetch => true
  | .packetArrive q _ _ => decide (q < 64)
  | .commandDispatch => true
  | .completionPost q _ => decide (q < 64)
  | .cqInterruptTimer q => decide (q < 64)
  | .mbxGo => true
  | .nop p => p.wf
  | .identify p => p.wf
  | .paramGet p _ _ => p.wf
  | .paramSet p _ => p.wf
  | .setNow p => p.wf
  | .trigger p => p.wf
  | .abort p => p.wf
  | .statusRead p => p.wf
  | .nowReserve p => p.wf
  | .linkUp _ _ => true
  | .linkDown => true
  | .configRequest _ => true
  | .registerWrite _ _ _ => true
  | .poisonedWrite _ _ => true
  | .bar2Read _ _ _ => true
  | .bar2Write _ _ => true
  | .msixUnmask _ => true
  | .hostReadError _ _ => true
  | .powerStateWrite _ => true
  | .pmeTurnOff => true
  | .atsInvalidation ctx _ _ => decide (ctx < 64)
  | .translationServiceDisable _ => true
  | .priResponse ctx _ => decide (ctx < 64)
  | .atsTranslationCompletion ctx _ _ => decide (ctx < 64)
  | .walkReadCompletion ctx _ => decide (ctx < 64)
  | .nearLoopbackStart => true
  | .nearLoopbackEnd _ _ => true
  | .farLoopbackEntry => true
  | .stmConfig p => p.wf
  | .stmStart p => p.wf
  | .stmStop p => p.wf
  | .stmFlush p => p.wf
  | .stmResolve p => p.wf
  | .xltInvalidate p => p.wf
  | .streamRecordArrive group => decide (group < 17)
  | .blockAgeExpiry st => decide (st < 32)
  | .dmaUnitIssue _ => true
  | .rdIdxDoorbell st _ => decide (st < 32)
  | .fwdRdIdxPoll st _ => decide (st < 32)
  | .portEnWrite port _ => decide (port < 4)
  | .portSignalDetect port => decide (port < 4)
  | .portTrainingDone port _ _ _ _ => decide (port < 4)
  | .portTrainingFail port => decide (port < 4)
  | .portTrainingRetry port => decide (port < 4)
  | .portLinkLoss port => decide (port < 4)
  | .sevFrameRx port _ => decide (port < 4)
  | .timeFrameRx port _ => decide (port < 4)
  | .controlFrameRx port _ => decide (port < 4)
  | .bulkFrameRx port _ => decide (port < 4)
  | .timeExchange _ _ _ => true
  | .routeRepairDone _ => true
  | .generationTimeout => true
  | .meshEnumerate p => p.wf
  | .meshEnumerateDone _ => true
  | .meshRouteRead p _ => p.wf
  | .meshForward p _ => p.wf
  | .meshPortCtl p => p.wf
  | .meshLoopbackEnd port _ _ => decide (port < 4)
  | .meshTimeCtl p => p.wf
  | .calSelf p => p.wf
  | .calSelfDone _ _ _ => true
  | .calSysZero p => p.wf
  | .calSysFull p => p.wf
  | .calSysInputsTaken _ => true
  | .calSysTimeout => true
  | .calCertRead p _ => p.wf
  | .calCertLoad p => p.wf
  | .calSave p _ => p.wf
  | .calRestore p _ => p.wf
  | .coefRampStep => true
  | .deskewStep dom => decide (dom < 2)
  | .refTrack _ => true
  | .statusW1c _ _ _ _ => true
  | .statusClrHist _ _ _ => true
  | .reactionWrite _ _ _ => true
  | .injectGo _ _ _ => true
  | .injectRepeat _ _ => true
  | .dramScrub _ _ _ _ => true
  | .sramScrub _ _ _ => true
  | .shadowCompare _ => true
  | .telemetryInstant => true
  | .sensorSample _ => true
  | .overtempShedTimer => true
  | .tcxoCheck _ => true
  | .vaneWatchdog => true
  | .mctpControlMessage _ => true
  | .pldmMessage _ => true
  | .spdmMessage _ => true
  | .vendorDefinedMessage _ p => p.wf
  | .logRecordArrive => true
  | .logFlush _ => true
  | .logRead p _ => p.wf
  | .logClear p => p.wf
  | .sensorRead p => p.wf
  | .fwStage p _ => p.wf
  | .fwStageDone _ => true
  | .fwActivate p => p.wf
  | .fwActDrained => true
  | .fwActWaitExpiry => true
  | .fwActPauseStart => true
  | .fwSwap => true
  | .fwActComplete => true
  | .microcodeBankSwitch => true
  | .vaneFwRestart => true
  | .fwStatus p => p.wf
  | .lcTransition p _ => p.wf
  | .lcChallenge p => p.wf
  | .lcStatus p => p.wf
  | .nonceExpiry => true
  | .erasureDone => true
  | .tapInstruction l => l.scan.cells.all (fun c => c.sig.wf) && l.scan.seen.all fun e => e.1.wf
  | .loopbackSet p => p.wf
  | .loopbackRun p => p.wf
  | .selfTest p => p.wf
  | .refReturn => true
  | .perstRelease => true
  | .controllerSuppliesUp => true
  | .vaneUp => true
  | .flrComplete => true
  | .pcieErrorDetected _ => true
  | .hostReadCompletion _ _ => true
  | .bar0Read _ _ => true
  | .fwActInitTimeout => true
  | .loopbackRunDone _ _ _ _ _ _ => true
  | .selfTestDone _ _ => true
  | .hvDischargePeriodEnd ch => decide (128 ≤ ch) && decide (ch < 132)
  | .pmuSwitchDone pin => decide (pin < 256)

end Sys2Proof
end

