-- ==== Sys2Proof/Tests/Slice0.lean ====
section
/-!
SUPPORT. The author's own checks: ill-formed terms that the check of commands refuses, single steps on small states, and for every
statement with premises states and operands that meet them.
-/
namespace Sys2Proof.Tests
open Sys2Proof Sys2Proof.Machine Sys2Proof.Claims
set_option Elab.async false

/-- The module in RUN, its link up and its timebase locked. -/
def run : State :=
  let s := (State.reset.put VANE.PWR_STATE 0 1).put TB.STATE 0 2
  { s with
    hl := { s.hl with link := .up, crs := false, busMaster := true, supplies := true, perst := false, trained := true }
    vane := { s.vane with up := true }
    pwr := { s.pwr with booted := true, toggles := true, alive := true, pfailDriven := false } }

/-- A packet from submission queue 0, with tag 7. -/
def pq (code : Nat) (ws : List Nat) : Pkt := ⟨.sq 0, pad 16 ((code + 0x70000) :: ws)⟩

/-- The same with a pointer block. -/
def pp (code : Nat) (ws : List Nat) : Pkt := ⟨.sq 0, pad 16 ((code + 0x80070000) :: ws)⟩

/-- Its operation in execution. -/
def sending (p : Pkt) (s : State) : State := { s with cmd := { s.cmd with ops := s.cmd.ops ++ [⟨p, .running⟩] } }

/-- Its operation in execution, every unit of its read issued. -/
def given (p : Pkt) (s : State) : State :=
  { sending p s with xlt := { s.xlt with
      xfers := [{ who := .cmd p.src (pTag p), ctx := 0, prio := 0, addr := 0, left := 0, write := false }] } }

/-- A packet's row acts and the common checks pass it, as a truth value. -/
def acts (c : Instr) (s : State) : Bool :=
  match packetOf c with
  | some (p, code, f) => dispatched s p code && !stillReads s p && (gate s p code f).isNone && !reservedSet p f
  | none => true

theorem accepted_iff (c : Instr) (s : State) : accepted c s ↔ acts c s = true := by
  unfold accepted acts
  cases h : packetOf c <;> simp [and_assoc]

theorem hostGives_iff (s : State) (p : Pkt) (d : HostData) (ws : List Nat) :
    hostGives s p d ws ↔ d = .words ws ∧ (pktXfer s p).any (fun x => x.left == 0) = true := by
  unfold hostGives
  cases pktXfer s p <;> simp

theorem admissible_iff (s : State) (e k : Nat) : admissible s e k ↔
    (shedding s = false ∧ s.slotState e k = 1 ∧ (s.slot e k).goAt = none) ∧
      (s.region (s.slotRd SWE.REGION e k)).any (fun r => r.state == 1) = true ∧
      (∀ c ∈ slotChans s e k, s.chState c ≠ 0 ∧ s.chState c < 6) ∧
      ((budgetSums (reserved s e k)).1 ≤ (budgetSums s).1 ∧ (budgetSums (reserved s e k)).2 ≤ (budgetSums s).2 ∨ 128 ≤ 8 * e ∨
        withinBudget (budgetSums (reserved s e k)) = true) ∧ (e < 16 → peakSum (reserved s e k) ≤ 240 * watt) := by
  unfold admissible budgetAllows
  constructor
  · rintro ⟨a, b, c, ⟨r, hr, h1⟩, d, f, g⟩
    exact ⟨⟨a, b, c⟩, by simp [hr, h1], d, by tauto, g⟩
  · rintro ⟨⟨a, b, c⟩, h, d, f, g⟩
    refine ⟨a, b, c, ?_, d, by tauto, g⟩
    obtain ⟨r, hr, h1⟩ := (Option.any_eq_true _ _).mp h
    exact ⟨r, hr, by simpa using h1⟩

/-- What a parameter's identifier names. -/
def prm (k : Nat) : PRef := (findPrm k).getD ⟨TB.AUTO_RELOCK, 0, 0⟩

/-- A target: an instance of a block. -/
def tgt (blk inst : Nat) : Nat := blk * 0x1000000 + inst * 0x1000

/-- A channel brought to a state. -/
def inState (c : Nat) (st : Int) (s : State) : State := s.cput FCH.STATE HVC.STATE c st

/-- What a channel holds, changed. -/
def withCh (c : Nat) (f : Fch → Fch) (s : State) : State := s.setCh c (f (s.ch c))

/-- What a write comes to where it is not refused. -/
def okOf (e : Wr) : State :=
  match e with
  | .ok t => t
  | .error _ => run

theorem okOf_eq {e : Wr} (h : e.toBool = true) : e = .ok (okOf e) := by
  cases e with
  | ok t => rfl
  | error x => cases h

/-- The status a write is refused with. -/
def errOf (e : Wr) : Nat :=
  match e with
  | .ok _ => 0
  | .error x => x

theorem errOf_eq {e : Wr} (h : e.toBool = false) : e = .error (errOf e) := by
  cases e with
  | ok t => cases h
  | error x => rfl


/-- Region 1 of sweep memory, VALID, holding some entries. -/
def withRegion (hv : Bool) (qs : List Quad) (s : State) : State :=
  { s.setRegion 1 (some ⟨0, qs.length, hv, 1⟩) with
    sweMem := qs.zipIdx.foldl (fun b x => Bank.set (fun _ => Quad.zero) b x.2 x.1) s.sweMem }

/-- A POINT entry, and the two entries of a PULSE. -/
def point : Quad := ⟨0, 0x10000, 0x801, 0⟩
def pulseBase : Quad := ⟨1, 0x10000, 0x1801, 0⟩
def pulseExt : Quad := ⟨2, 0x10000, 0x800, 0x800⟩

/-- An engine whose slot 0, of region 1, stands in a state. -/
def slotIn (e st : Nat) (s : State) : State := (s.wr SWE.REGION e 0 1).setSlotState e 0 st

/-- An engine that runs slot 0. -/
def runs0 (e : Nat) (f : Swe → Swe) (s : State) : State :=
  let s := (slotIn e 4 s).put SWE.RUN_SLOT e 0
  s.setEngine e (f (s.engine e))

/-- The clock in ns, with no explicit set. -/
def at_ (ns : Int) (s : State) : State := s.put TB.SYSTIME_NS 0 ns

/-- A pulse captured at clock time 0 on a consumer. -/
def withCapt (n : Nat) (s : State) : State := s.setCon n { s.con n with capt := some 0 }

/-- What a group holds, changed. -/
def withGroup (g : Nat) (f : Grp → Grp) (s : State) : State := s.setGroup g (f (s.group g))

/-- A domain's sequencer in a state. -/
def seqIn (d : Nat) (st : Int) (s : State) : State := s.put SEQ.STATE d st

/-- What a domain's sequencer holds, changed. -/
def withSeq (d : Nat) (f : Seq → Seq) (s : State) : State := s.setSequencer d (f (s.sequencer d))

/-- What the timebase holds, changed. -/
def withTb (f : Tb → Tb) (s : State) : State := { s with tb := f s.tb }

/-- The timebase in a state. -/
def tbIn (st : Int) (s : State) : State := s.put TB.STATE 0 st

/-- What a list of parameter writes comes to where it is not refused. -/
def wrote (e : Except (Nat × Nat × State) (State × Nat)) : State :=
  match e with
  | .ok x => x.1
  | .error _ => run

theorem wrote_eq {e : Except (Nat × Nat × State) (State × Nat)} {n : Nat}
    (h : (match e with | .ok x => decide (x.2 = n) | .error _ => false) = true) : e = .ok (wrote e, n) := by
  cases e with
  | ok x => simp only [decide_eq_true_eq] at h; subst h; rfl
  | error x => cases h

theorem some_getD {o : Option State} (h : o.isSome = true) : o = some (o.getD run) := by
  cases o with
  | none => cases h
  | some t => rfl

/-- A channel in ON_FV in the 30 V range. -/
def onFv (c : Nat) (s : State) : State := withCh c (fun f => { f with act := { f.act with mode := 2, vr := 3 } }) (inState c 2 s)

/-- What the host link holds, changed. -/
def withHl (f : Hl → Hl) (s : State) : State := { s with hl := f s.hl }

/-- What the fabric holds, changed. -/
def withEvf (f : Evf → Evf) (s : State) : State := { s with evf := f s.evf }

/-- What command handling holds, changed. -/
def withCmd (f : Cmd → Cmd) (s : State) : State := { s with cmd := f s.cmd }

/-- What an answer with two sides comes to on its first side, or on its second. -/
def okIn {ε α : Type} (d : α) (e : Except ε α) : α :=
  match e with
  | .ok x => x
  | .error _ => d

theorem okIn_eq {ε α : Type} {d : α} {e : Except ε α} (h : e.toBool = true) : e = .ok (okIn d e) := by
  cases e with
  | ok x => rfl
  | error x => cases h

def errIn {ε α : Type} (d : ε) (e : Except ε α) : ε :=
  match e with
  | .ok _ => d
  | .error x => x

theorem errIn_eq {ε α : Type} {d : ε} {e : Except ε α} (h : e.toBool = false) : e = .error (errIn d e) := by
  cases e with
  | ok x => cases h
  | error x => rfl

theorem restoreImage_done (s : State) (ws : List Nat) : ∃ st res u, restoreImage s ws = .done st res u := by
  unfold restoreImage refuse
  dsimp only
  split
  · exact ⟨_, _, _, rfl⟩
  · split
    · exact ⟨_, _, _, rfl⟩
    · split <;> exact ⟨_, _, _, rfl⟩

/-- What a stream holds, changed. -/
def withStm (n : Nat) (f : Stm → Stm) (s : State) : State := s.setStream n (f (s.stream n))

/-- A stream in a state. -/
def stmIn (n : Nat) (st : Int) (s : State) : State := s.put STM.STATE n st

/-- Stream 30, running, with a block in the local buffer and room in its ring. -/
def streams : State :=
  (withStm 30 (fun t => { t with blocks := [⟨0, 0, 0, [], 0, 0, {}, false⟩] }) (stmIn 30 2 run)).put STM.RING_BLOCKS 30 2

/-- A walk in progress. -/
def walking (ctx level : Nat) : State := run.setWalk ctx (some ⟨0, level, 0, [.stream 31], false⟩)

/-- A node of a mesh, its fourth port up. -/
def joined (node : Int) : State := ((run.put MSH.ENUM_STATE 0 1).put MSH.NODE_ID 0 node).put MSH.PORT_STATE 4 3

/-- What the mesh holds, changed. -/
def withMsh (f : Msh → Msh) (s : State) : State := { s with msh := f s.msh }

/-- What calibration holds, changed. -/
def withCal (f : Cal → Cal) (s : State) : State := { s with cal := f s.cal }

/-- A calibration image of one term: V measurement gain of channel 127 in its widest range, 1.0. -/
def image : List Nat :=
  let body := [MSR.MV_G.id 127 3, 0x40000000]
  [0x00010000, 1, 0, 0, 0, 0, 0, crcWords ([0x00010000, 1, 0, 0, 0, 0, 0, 0] ++ body)] ++ body

/-- A cause of a block. -/
def causeOf (blk code : Nat) : Cause := (findCause blk code).getD { code := code, sev := 0, dflt := 0 }

/-- What Vane holds, changed. -/
def withVane (f : Vane → Vane) (s : State) : State := { s with vane := f s.vane }

/-- What the life cycle holds, changed. -/
def withLc (f : Lc → Lc) (s : State) : State := { s with lc := f s.lc }

/-- What loopbacks and tests hold, changed. -/
def withTst (f : Tst → Tst) (s : State) : State := { s with tst := f s.tst }

/-- A firmware activation of a kind at a step. -/
def activating (kind step : Nat) : State := withVane (fun v => { v with act := some ⟨none, kind, false, step, 0⟩ }) run

/-- A module that gave the nonce 5, and the vendor's token to take it from FIELD_OPEN to SCRAPPED. -/
def challenged : State := withLc (fun l => { l with nonce := some 5 }) run
def token : List Nat :=
  [0x00010014, 0, serialWords.getD 0 0, serialWords.getD 1 0, 5, 0, 0, 0] ++ List.replicate 48 0

/-- Slot B of Vane's firmware holds a valid image. -/
def standbyValid : State := run.setFlash 5 { state := 1 }

theorem stageImage_ok {ws : List Nat} (h : imageOk run 0 512 (pad 128 ws) = true) :
    (stageImage run run.lcState (some (.sq 0, 7)) 0 512 (pad 128 ws)).1 = St.SUCCESS := by
  have hn : needsOwner run.lcState = false := by decide +kernel
  unfold stageImage
  rw [if_neg (by decide +kernel)]
  simp [h, hn]

theorem activate_ok : (activate standbyValid standbyValid.lcState (some (.sq 0, 7)) 2 false).1 = St.SUCCESS := by
  have ho : grantsOpen standbyValid.lcState = true := by decide +kernel
  have hs : (standbyValid.flash (standbySlot standbyValid 2)).state = 1 := by decide +kernel
  have hn : needsOwner standbyValid.lcState = false := by decide +kernel
  have hv : ¬ (standbyValid.flash (standbySlot standbyValid 2)).sv < standbyValid.rdN VANE.FW_SV := by decide +kernel
  unfold activate
  dsimp only
  rw [if_neg (by decide +kernel), if_neg (by simp [hs])]
  simp [ho, hn, hv, compatible]

theorem run_canonical : run.Canonical := by
  constructor <;> decide +kernel

/-- The state that a command answers. -/
def after (c : Instr) (s : State) : State :=
  match exec c s with
  | .next t => t
  | _ => s

theorem after_eq {c : Instr} {s : State} (h : (match exec c s with | .next _ => true | _ => false) = true) :
    exec c s = .next (after c s) := by
  unfold after
  cases hh : exec c s with
  | next t => rfl
  | fault f => rw [hh] at h; cases h
  | refused r => rw [hh] at h; cases h

/-- A NOP waits. -/
def waiting : State := { run with pending := [.nop (pq 1 [])] }

theorem waiting_canonical : waiting.Canonical := by
  constructor <;> decide +kernel

theorem witness_EveryStepKeepsCanonicalForm : ∃ s t : State, s.Canonical ∧ step s = .next t :=
  ⟨waiting, after (.nop (pq 1 [])) run, waiting_canonical,
    after_eq (c := .nop (pq 1 [])) (s := run) (by decide +kernel)⟩

theorem witness_ScrapFuseStaysBlown : ∃ s t : State, s.Canonical ∧ s.lc.scrapFuse = true ∧ step s = .next t :=
  ⟨withLc (fun l => { l with scrapFuse := true }) waiting, after (.nop (pq 1 [])) (withLc (fun l => { l with scrapFuse := true }) run),
    by constructor <;> decide +kernel, rfl,
    after_eq (c := .nop (pq 1 [])) (s := withLc (fun l => { l with scrapFuse := true }) run) (by decide +kernel)⟩

theorem witness_ReadIndexAdvancesWithinWritten_forwarded : ∃ (s : State) (n v : Nat), n < 32 ∧ v < 2 ^ 32 ∧ s.barOpen = true ∧
    (s.stream n).node ≠ none :=
  ⟨withStm 31 (fun t => { t with node := some (1, 0) }) run, 31, 0, by decide +kernel⟩

theorem witness_ReadIndexAdvancesWithinWritten_taken : ∃ (s : State) (n v : Nat), n < 32 ∧ v < 2 ^ 32 ∧ s.barOpen = true ∧
    (s.stream n).node = none ∧ s.stmState n ≠ 0 ∧ s.stmState n ≠ 5 ∧
    (v + 2 ^ 32 - s.rdN STM.RD_IDX n) % 2 ^ 32 ≤ (s.rdN STM.WR_IDX n + 2 ^ 32 - s.rdN STM.RD_IDX n) % 2 ^ 32 :=
  ⟨(stmIn 31 2 run).put STM.WR_IDX 31 4294967295, 31, 4294967295, by decide +kernel⟩

theorem witness_ReadIndexAdvancesWithinWritten_beyond : ∃ (s : State) (n v : Nat), n < 32 ∧ v < 2 ^ 32 ∧ s.barOpen = true ∧
    (s.stream n).node = none ∧ s.stmState n = 2 ∧
    (s.rdN STM.WR_IDX n + 2 ^ 32 - s.rdN STM.RD_IDX n) % 2 ^ 32 < (v + 2 ^ 32 - s.rdN STM.RD_IDX n) % 2 ^ 32 :=
  ⟨(stmIn 31 2 run).put STM.WR_IDX 31 4294967294, 31, 4294967295, by decide +kernel⟩

theorem witness_ReadIndexAdvancesWithinWritten_idle : ∃ (s : State) (n v : Nat), n < 32 ∧ v < 2 ^ 32 ∧ s.barOpen = true ∧
    (s.stream n).node = none ∧ s.stmState n = 0 :=
  ⟨run, 31, 0, by decide +kernel⟩

theorem witness_EmptyQueueIdles : ∃ s : State, s.pending = [] := ⟨run, rfl⟩

theorem witness_CauseWritesItsWindow_elsewhere : ∃ (blk inst b n : Nat), winKey b n ≠ winKey blk inst :=
  ⟨1, 127, 2, 127, by decide⟩

theorem witness_CauseWritesItsWindow_first : ∃ (s : State) (blk inst code : Nat) (c : Cause), findCause blk code = some c ∧
    beaten s blk (s.win blk inst) { code := code } = false :=
  ⟨run, 1, 127, 7, causeOf 1 7, by decide +kernel⟩

theorem witness_CauseWritesItsWindow_beaten : ∃ (s : State) (blk inst code : Nat) (c : Cause), findCause blk code = some c ∧
    beaten s blk (s.win blk inst) { code := code } = true :=
  ⟨record run 1 127 2, 1, 127, 5, causeOf 1 5, by decide +kernel⟩

theorem witness_NoCommandTouchesQueue_0 : ∃ (c : Instr) (s : State) (t : State), s.Canonical ∧ exec c s = .next t :=
  ⟨.nop (pq 1 []), run, after (.nop (pq 1 [])) run, run_canonical, after_eq (by decide +kernel)⟩

theorem witness_RefusedCommandOnlyCompletes_0 : ∃ (c : Instr) (p : Pkt) (code : Nat) (f : Form), packetOf c = some (p, code, f) :=
  ⟨.nop (pq 1 [5]), pq 1 [5], 1, {}, rfl⟩

theorem witness_ScrappedDeniesOtherOpcodes_0 : ∃ (c : Instr) (p : Pkt) (code : Nat) (f : Form) (s : State), packetOf c = some (p, code, f) ∧ dispatched s p code = true ∧ lcFor s p = 4 ∧ code ∉ [0x0001, 0x0002, 0x0003, 0x0204, 0x0C03, 0x0902, 0x0904, 0x0907] ∧ immediateSq s p = false :=
  ⟨.lullEnter (pq 0x0901 []), pq 0x0901 [], 0x0901, {}, sending (pq 0x0901 []) (run.put LC.STATE 0 4), rfl, by decide +kernel⟩

theorem witness_ErasureBarsOtherOpcodes_0 : ∃ (c : Instr) (p : Pkt) (code : Nat) (f : Form) (s : State), packetOf c = some (p, code, f) ∧ dispatched s p code = true ∧ lcFor s p ≠ 4 ∧ s.rd LC.ERASE_PENDING = 1 ∧ code ∉ [0x0001, 0x0002, 0x0003, 0x0C03] ∧ immediateSq s p = false :=
  ⟨.lullEnter (pq 0x0901 []), pq 0x0901 [], 0x0901, {}, sending (pq 0x0901 []) (run.put LC.ERASE_PENDING 0 1), rfl, by decide +kernel⟩

theorem witness_ImmediateQueueTakesImmediateOnly_0 : ∃ (c : Instr) (p : Pkt) (code : Nat) (f : Form) (s : State), packetOf c = some (p, code, f) ∧ dispatched s p code = true ∧ immediateSq s p = true ∧ code ∉ [0x0201, 0x0202, 0x0203, 0x0204, 0x0604] :=
  ⟨.nop (pq 1 []), pq 1 [], 1, {}, sending (pq 1 []) (run.setSq 0 { imm := true, enable := true }), rfl, by decide +kernel⟩

theorem witness_PowerUpRowsComplete_0 : ∃ (vin : Nat), 34000 ≤ vin :=
  ⟨34000, by decide +kernel⟩

theorem witness_PowerUpRowsComplete_1 : ∃ (s : State), s.pwr.nresetLow = true ∧ pwrState s = 3 :=
  ⟨{ run.put VANE.PWR_STATE 0 3 with pwr := { run.pwr with nresetLow := true } }, by decide +kernel⟩

theorem witness_PowerUpRowsComplete_2 : ∃ (s : State), s.pwr.nresetLow = true ∧ pwrState s ≠ 3 :=
  ⟨{ run with pwr := { run.pwr with nresetLow := true } }, by decide +kernel⟩

theorem witness_PowerUpRowsComplete_3 : ∃ (s : State), pwrState s = 4 :=
  ⟨run.put VANE.PWR_STATE 0 4, by decide +kernel⟩

theorem witness_PowerUpRowsComplete_4 : ∃ (s : State), s.pwr.powered = true :=
  ⟨State.reset, by decide +kernel⟩

theorem witness_PowerUpRowsComplete_5 : ∃ (s : State), s.pwr.powered = true ∧ s.pwr.booted = false ∧ s.vane.up = true ∧ s.hl.supplies = true ∧ s.tbState = 2 ∧ s.pwr.toggles = true :=
  ⟨{ run with pwr := { run.pwr with booted := false } }, by decide +kernel⟩

theorem witness_PowerUpRowsComplete_6 : ∃ (s : State), s.hl.supplies = false ∧ s.pwr.powered = true :=
  ⟨State.reset, by decide +kernel⟩

theorem witness_PowerUpRowsComplete_7 : ∃ (s : State), s.vane.up = false ∧ s.pwr.powered = true :=
  ⟨State.reset, by decide +kernel⟩

theorem witness_ShedRowsComplete_0 : ∃ (s : State) (vin : Nat), vin < 33000 ∧ pwrState s ≤ 1 :=
  ⟨run, 32999, by decide +kernel⟩

theorem witness_ShedRowsComplete_1 : ∃ (s : State) (vin : Nat), 80000 < vin ∧ pwrState s ≤ 1 :=
  ⟨run, 80001, by decide +kernel⟩

theorem witness_ShedRowsComplete_2 : ∃ (s : State), s.pwr.pfailDriven = false ∧ s.rd VANE.PFAIL_EXT = 1 ∧ pwrState s ≤ 1 :=
  ⟨run.put VANE.PFAIL_EXT 0 1, by decide +kernel⟩

theorem witness_ShedRowsComplete_3 : ∃ (s : State), s.pwr.pfailDriven = false ∧ s.rd VANE.PFAIL_EXT ≠ 1 :=
  ⟨run.put VANE.PFAIL_EXT 0 0, by decide +kernel⟩

theorem witness_ShedRowsComplete_4 : ∃ (s : State), pwrState s ≤ 1 :=
  ⟨run, by decide +kernel⟩

theorem witness_ShedRowsComplete_5 : ∃ (s : State), s.vane.up = true ∧ 1001 ≤ (s.sensor 24).overW ∧ pwrState s ≤ 1 :=
  ⟨run.setSensor 24 { run.sensor 24 with overW := 1001 }, by decide +kernel⟩

theorem witness_ShedRowsComplete_6 : ∃ (s : State), s.vane.up = true ∧ s.vane.tcxoFailed = false ∧ pwrState s ≤ 1 :=
  ⟨run, by decide +kernel⟩

theorem witness_ShedRowsComplete_7 : ∃ (s : State) (vin : Nat), vin < 32500 ∧ pwrState s ≠ 4 :=
  ⟨run, 32499, by decide +kernel⟩

theorem witness_ShedRowsComplete_8 : ∃ (s : State), pwrState s = 2 ∧ logFlushed s = true ∧ ((∀ c, c < 128 → s.chState c = 0)) ∧ s.pwr.resetOwed = false :=
  ⟨run.put VANE.PWR_STATE 0 2, by decide +kernel⟩

theorem witness_ShedRowsComplete_9 : ∃ (s : State), pwrState s = 2 ∧ logFlushed s = true ∧ ((∀ c, c < 128 → s.chState c = 0)) ∧ s.pwr.resetOwed = true :=
  ⟨{ run.put VANE.PWR_STATE 0 2 with pwr := { run.pwr with resetOwed := true } }, by decide +kernel⟩

theorem witness_ShedRowsComplete_10 : ∃ (s : State) (vin : Nat), pwrState s = 3 ∧ s.rdN VANE.SHED_SRC ∈ [1, 3, 4] ∧ 34000 ≤ vin ∧ vin ≤ 78000 ∧ s.pwr.barred = false ∧ s.pwr.nresetLow = false ∧ s.pwr.booted = true ∧ (s.pwr.shedAt.getD 0) + 100000000 ≤ s.clock :=
  ⟨at_ 100000000 ((run.put VANE.PWR_STATE 0 3).put VANE.SHED_SRC 0 1), 78000, by decide +kernel⟩

theorem witness_SupervisorRowsComplete_0 : ∃ (s : State), pwrState s = 1 ∧ s.pwr.testAt + 3600000000000 * s.pwr.testHours ≤ s.clock :=
  ⟨at_ 86400000000000000 run, by decide +kernel⟩

theorem witness_SupervisorRowsComplete_1 : ∃ (s : State), s.pwr.testing = true :=
  ⟨{ run with pwr := { run.pwr with testing := true } }, by decide +kernel⟩

theorem witness_SupervisorRowsComplete_2 : ∃ (s : State), s.vane.up = true :=
  ⟨run, by decide +kernel⟩

theorem witness_SupervisorRowsComplete_3 : ∃ (s : State) (back : List Island), s.pwr.round = true ∧ s.vane.up = true :=
  ⟨{ run with pwr := { run.pwr with round := true } }, [], by decide +kernel⟩

theorem witness_SupervisorRowsComplete_4 : ∃ (s : State), s.vane.up = true :=
  ⟨run, by decide +kernel⟩

theorem witness_LullRowsComplete_0 : ∃ (s : State) (p : Pkt) (n : Nat), p.src = .sq n ∧ accepted (.lullEnter p) s ∧ mayLull s p = true :=
  ⟨sending (pq 0x0901 []) (run), pq 0x0901 [], 0, by rw [accepted_iff]; decide +kernel⟩

theorem witness_LullRowsComplete_1 : ∃ (s : State) (p : Pkt), (∀ n, p.src ≠ .sq n) ∧ accepted (.lullEnter p) s ∧ mayLull s p = true :=
  ⟨sending (⟨.mbx, pad 16 [0x70901]⟩) (run), ⟨.mbx, pad 16 [0x70901]⟩, (by intro n h; cases h), by rw [accepted_iff]; decide +kernel, by decide +kernel⟩

theorem witness_LullRowsComplete_2 : ∃ (s : State), s.pwr.lull = 2 ∧ s.hl.link = .l2 :=
  ⟨{ run with hl := { run.hl with link := .l2 }, pwr := { run.pwr with lull := 2 } }, by decide +kernel⟩

theorem witness_LullRowsComplete_3 : ∃ (s : State), s.pwr.lull = 2 ∧ s.hl.link ≠ .l2 ∧ s.pwr.lullAt + 1000000000 ≤ s.clock :=
  ⟨{ run with pwr := { run.pwr with lull := 2 } }.put TB.SYSTIME_NS 0 1000000000, by decide +kernel⟩

theorem witness_LullRowsComplete_4 : ∃ (s : State) (w : WakeSource) (c : Src × Nat), wakeEnabled s w = true ∧ s.pwr.lull = 1 ∧ s.pwr.lullCmd = some c :=
  ⟨{ run with pwr := { run.pwr with lull := 1, lullCmd := some (.sq 0, 7), wakeSmb := true } }, .smbus, (.sq 0, 7), by decide +kernel⟩

theorem witness_LullRowsComplete_5 : ∃ (s : State) (w : WakeSource), wakeEnabled s w = true ∧ s.pwr.lull = 3 :=
  ⟨{ run with pwr := { run.pwr with lull := 3 } }, .smbus, by decide +kernel⟩

theorem witness_LullRowsComplete_6 : ∃ (s : State) (w : WakeSource), wakeEnabled s w = true ∧ s.pwr.lull = 2 ∧ s.pwr.wake = none :=
  ⟨{ run with pwr := { run.pwr with lull := 2 } }, .smbus, by decide +kernel⟩

theorem witness_LullRowsComplete_7 : ∃ (s : State), s.pwr.lull = 4 ∧ s.tbState = 2 ∧ s.hl.link = .up :=
  ⟨{ run with pwr := { run.pwr with lull := 4 } }, by decide +kernel⟩

theorem witness_LoopRowsComplete_2 : ∃ (s : State) (ch : Nat) (q : Quantity) (up : Bool), ch < 128 ∧ (s.chState ch = 2 ∨ s.chState ch = 3) ∧ (s.comp (.window ch (windowOf q up))).changing = false :=
  ⟨inState 127 3 run, 127, .amps, true, by decide +kernel⟩

theorem witness_LoopRowsComplete_3 : ∃ (s : State) (ch : Nat) (q : Quantity) (up : Bool), ch < 128 ∧ s.chState ch = 4 ∧ (s.comp (.window ch (windowOf q up))).changing = false :=
  ⟨inState 127 4 run, 127, .amps, false, by decide +kernel⟩

theorem witness_LoopRowsComplete_4 : ∃ (s : State) (ch : Nat) (q : Quantity) (up : Bool), ch < 128 ∧ connected (s.chState ch) = true ∧ (s.comp (.window ch (windowOf q up))).changing = true :=
  ⟨(inState 127 2 run).setComp (.window 127 3) { run.comp (.window 127 3) with changing := true }, 127, .amps, false, by decide +kernel⟩

theorem witness_LoopRowsComplete_5 : ∃ (s : State) (ch : Nat), ch < 128 ∧ s.chState ch = 5 ∧ 64 ≤ (s.ch ch).clampCyc :=
  ⟨withCh 0 (fun f => { f with clampCyc := 64 }) (inState 0 5 run), 0, by decide +kernel⟩

theorem witness_LoopRowsComplete_6 : ∃ (s : State) (ch : Nat), limitDue s ch = true :=
  ⟨withCh 0 (fun f => { f with limCyc := 8 }) ((inState 0 4 run).put FCH.LIMIT_TIME 0 1), 0, by decide +kernel⟩

theorem witness_LoopRowsComplete_7 : ∃ (s : State) (ch : Nat) (row : Nat), row < 4 ∧ soaDue s ch row = true :=
  ⟨withCh 0 (fun f => { f with soa := [4000000000, 0, 0, 0] }) ((inState 0 2 run).wrNext FCH.SOA 0 0 0x100001).takenOver, 0, 0, by decide +kernel⟩

theorem witness_LoopRowsComplete_8 : ∃ (s : State) (ch : Nat), ch < 128 ∧ 2 ≤ s.chState ch ∧ s.chState ch ≤ 4 :=
  ⟨inState 127 4 run, 127, by decide +kernel⟩

theorem witness_LoopRowsComplete_9 : ∃ (s : State) (ch : Nat), 128 ≤ ch ∧ ch < 132 ∧ 2 ≤ s.chState ch ∧ s.chState ch ≤ 4 :=
  ⟨inState 131 2 run, 131, by decide +kernel⟩

theorem witness_LoopRowsComplete_10 : ∃ (s : State) (ch : Nat), ch < 132 ∧ justTripped s ch = true :=
  ⟨withCh 131 (fun f => { f with leftAt := some (0, 2) }) (inState 131 6 run), 131, by decide +kernel⟩

theorem witness_LoopRowsComplete_11 : ∃ (ch : Nat), ch < 128 :=
  ⟨127, by decide +kernel⟩

theorem witness_LoopRowsComplete_12 : ∃ (g : Nat), g < 16 :=
  ⟨15, by decide +kernel⟩

theorem witness_ChannelWriteRowsComplete_0 : ∃ (s : State) (ch : Nat) (v : Int), writable s ∧ ch < 132 ∧ 0 ≤ v ∧ v ≤ 3 ∧ stopped s (chanIsland ch) = false ∧ owned s ch = false ∧ calTarget s ch = false ∧ (s.chState ch < 6 ∨ v = 0) ∧ ((s.chState ch = 7 → (s.win (cb ch) (ci ch)).fault = false)) ∧ ((2 ≤ v → shedding s = false ∧ tdacMasked s ch = false)) ∧ ((128 ≤ ch → v ≠ 0 → s.rd HVC.INTLK_STATE ≠ 0)) ∧ r71Holds s ch v.toNat (s.setpoint ch) (s.ch ch).parVr = true ∧ budgetAllows s (outReqSet s ch v) ch :=
  ⟨run, 131, 0, by unfold writable budgetAllows; decide +kernel⟩

theorem witness_ChannelWriteRowsComplete_1 : ∃ (s : State) (ch : Nat) (v : Int), writable s ∧ ch < 132 ∧ iabs v ≤ 4194304 ∧ stopped s (chanIsland ch) = false ∧ owned s ch = false ∧ r71Holds s ch (s.onMode ch) v (s.rdN FCH.VRANGE ch) = true ∧ ((shedding s = true → iabs v ≤ iabs (s.setpoint ch))) ∧ budgetAllows s (setpointSet s ch v) ch :=
  ⟨run, 131, 0, by unfold writable budgetAllows; decide +kernel⟩

theorem witness_ChannelWriteRowsComplete_2 : ∃ (s : State) (ch : Nat) (v : Int), writable s ∧ ch < 132 ∧ 0 ≤ v ∧ v ≤ (if ch < 128 then 8 else 6) ∧ stopped s (chanIsland ch) = false ∧ owned s ch = false ∧ ((forces s ch 3 = true → iabs (reexpress (s.setpoint ch) (cifs ch (s.ch ch).parIr) (cifs ch v.toNat)) ≤ 4194304)) ∧ budgetAllows s (irangeSet s ch v) ch :=
  ⟨run, 131, 0, by unfold writable budgetAllows; decide +kernel⟩

theorem witness_ChannelWriteRowsComplete_3 : ∃ (s : State) (ch : Nat) (v : Int), writable s ∧ ch < 128 ∧ 0 ≤ v ∧ v ≤ 3 ∧ stopped s (chanIsland ch) = false ∧ owned s ch = false ∧ ((forces s ch 2 = true → iabs (reexpress (s.setpoint ch) (vfs (s.ch ch).parVr) (vfs v.toNat)) ≤ 4194304)) ∧ budgetAllows s (vrangeSet s ch v) ch :=
  ⟨run, 127, 0, by unfold writable budgetAllows; decide +kernel⟩

theorem witness_ChannelWriteRowsComplete_4 : ∃ (s : State) (ch : Nat) (v : Int) (t : State), writable s ∧ ch < 132 ∧ writeOutReq s ch v = .ok t :=
  ⟨run, 131, 0, okOf (writeOutReq run 131 0), by unfold writable; decide +kernel, by decide, okOf_eq (by decide +kernel)⟩

theorem witness_ChannelWriteRowsComplete_5 : ∃ (s : State) (ch : Nat) (v : Int) (t : State), writable s ∧ ch < 132 ∧ writeSetpoint s ch v = .ok t :=
  ⟨run, 131, 0, okOf (writeSetpoint run 131 0), by unfold writable; decide +kernel, by decide, okOf_eq (by decide +kernel)⟩

theorem witness_ChannelWriteRowsComplete_6 : ∃ (s : State) (ch : Nat) (v : Int) (t : State), writable s ∧ ch < 132 ∧ writeIrange s ch v = .ok t :=
  ⟨run, 131, 0, okOf (writeIrange run 131 0), by unfold writable; decide +kernel, by decide, okOf_eq (by decide +kernel)⟩

theorem witness_ChannelWriteRowsComplete_7 : ∃ (s : State) (ch : Nat) (v : Int) (t : State), writable s ∧ ch < 128 ∧ writeVrange s ch v = .ok t :=
  ⟨run, 127, 0, okOf (writeVrange run 127 0), by unfold writable; decide +kernel, by decide, okOf_eq (by decide +kernel)⟩

theorem witness_ChannelWriteRowsComplete_8 : ∃ (s : State) (ch : Nat) (v : Int) (e : Nat), ch < 132 ∧ writeOutReq s ch v = .error e :=
  ⟨run, 131, 9, errOf (writeOutReq run 131 9), by decide, errOf_eq (by decide +kernel)⟩

theorem witness_ChannelWriteRowsComplete_9 : ∃ (s : State) (ch : Nat) (v : Int) (e : Nat), ch < 132 ∧ writeSetpoint s ch v = .error e :=
  ⟨run, 131, 4194305, errOf (writeSetpoint run 131 4194305), by decide, errOf_eq (by decide +kernel)⟩

theorem witness_ChannelWriteRowsComplete_10 : ∃ (s : State) (ch : Nat) (v : Int) (e : Nat), ch < 132 ∧ writeIrange s ch v = .error e :=
  ⟨run, 131, 12, errOf (writeIrange run 131 12), by decide, errOf_eq (by decide +kernel)⟩

theorem witness_ChannelWriteRowsComplete_11 : ∃ (s : State) (ch : Nat) (v : Int) (e : Nat), ch < 128 ∧ writeVrange s ch v = .error e :=
  ⟨run, 127, 4, errOf (writeVrange run 127 4), by decide, errOf_eq (by decide +kernel)⟩

theorem witness_ChannelWriteRowsComplete_12 : ∃ (s : State), ¬writable s :=
  ⟨State.reset.put LC.STATE 0 4, by unfold writable; decide +kernel⟩

theorem witness_OutputPathRowsComplete_0 : ∃ (s : State) (ch : Nat), ch < 132 ∧ (s.ch ch).motion = .starting ∧ (s.chState ch = 0 ∨ s.chState ch = 6) ∧ (ch < 128 ∨ s.rd HVC.BOOST_STATE = 2) :=
  ⟨withCh 131 (fun f => { f with motion := .starting, target := 1 }) ((inState 131 6 run).put HVC.BOOST_STATE 0 2), 131, by decide +kernel⟩

theorem witness_OutputPathRowsComplete_1 : ∃ (s : State) (ch : Nat), ch < 128 ∧ (s.ch ch).motion = .ramping ∧ (s.ch ch).act.setp = 0 :=
  ⟨withCh 127 (fun f => { f with motion := .ramping }) (inState 127 2 run), 127, by decide +kernel⟩

theorem witness_OutputPathRowsComplete_2 : ∃ (s : State) (ch : Nat), 128 ≤ ch ∧ (s.ch ch).motion = .ramping ∧ (if (s.ch ch).act.mode = 3 then (s.ch ch).act.vlp = 0 ∧ (s.ch ch).act.vln = 0 else (s.ch ch).act.setp = 0) :=
  ⟨withCh 131 (fun f => { f with motion := .ramping }) (inState 131 2 run), 131, by decide +kernel⟩

theorem witness_OutputPathRowsComplete_3 : ∃ (s : State) (ch : Nat), ch < 128 ∧ (s.ch ch).paths.relayPending = true :=
  ⟨withCh 127 (fun f => { f with paths := { f.paths with relayPending := true } }) run, 127, by decide +kernel⟩

theorem witness_OutputPathRowsComplete_4 : ∃ (s : State) (ch : Nat), ch < 128 ∧ (s.ch ch).paths.relayPending = true :=
  ⟨withCh 127 (fun f => { f with paths := { f.paths with relayPending := true } }) run, 127, by decide +kernel⟩

theorem witness_OutputPathRowsComplete_5 : ∃ (s : State) (ch : Nat), ch < 128 ∧ (s.ch ch).paths.relay = true ∧ (s.ch ch).paths.ssrOpens = true ∧ (s.ch ch).act.ir ≤ 1 :=
  ⟨withCh 127 (fun f => { f with act := { f.act with ir := 1 }, paths := { f.paths with relay := true, ssrOpens := true } }) run, 127, by decide +kernel⟩

theorem witness_OutputPathRowsComplete_6 : ∃ (s : State) (ch : Nat), upDue s ch = true :=
  ⟨withCh 0 (fun f => { f with up := 70000, act := { f.act with mode := 2, ir := 3 } }) (((inState 0 2 run).put FCH.RP_EN 0 1).put FCH.RP_MAX 0 4), 0, by decide +kernel⟩

theorem witness_OutputPathRowsComplete_7 : ∃ (s : State) (ch : Nat), downDue s ch = true ∧ upDue s ch = false :=
  ⟨withCh 0 (fun f => { f with dn := 70000, act := { f.act with mode := 2, ir := 3 } }) ((((inState 0 2 run).put FCH.RP_EN 0 1).put FCH.RP_MAX 0 3).put FCH.RP_MIN 0 2), 0, by decide +kernel⟩

theorem witness_OutputPathRowsComplete_8 : ∃ (s : State) (ch : Nat), (s.ch ch).settleEnd ≠ 0 ∧ (s.ch ch).settleEnd ≤ s.clock :=
  ⟨withCh 131 (fun f => { f with settleEnd := 125 }) (run.put TB.SYSTIME_NS 0 125), 131, by decide +kernel⟩

theorem witness_OutputPathRowsComplete_9 : ∃ (g : Nat), g < 16 :=
  ⟨15, by decide +kernel⟩

theorem witness_OutputPathRowsComplete_10 : ∃ (g : Nat), g < 16 :=
  ⟨15, by decide +kernel⟩

theorem witness_LoopCommandsComplete_0 : ∃ (s : State) (p : Pkt) (c : Nat), accepted (.loopTune p) s ∧ targetChan p = some c ∧ ((128 ≤ c → fld (pw p 2) 0 3 ≤ 3)) ∧ stopped s (chanIsland c) = false ∧ fld (pw p 2) 0 3 ≠ activeProfile s c ∧ (s.chState c = 1 ∨ s.chState c = 2) ∧ (s.ch c).tune = none :=
  ⟨sending (pq 0x0101 [tgt 1 127, 1]) (inState 127 2 run), pq 0x0101 [tgt 1 127, 1], 127, by rw [accepted_iff]; decide +kernel⟩

theorem witness_LoopCommandsComplete_1 : ∃ (s : State) (ch : Nat) (t : Tune), (s.ch ch).tune = some t :=
  ⟨withCh 131 (fun f => { f with tune := some ⟨.sq 0, 7, 1, false, true, 0, 0, 0⟩ }) run, 131, ⟨.sq 0, 7, 1, false, true, 0, 0, 0⟩, by decide +kernel⟩

theorem witness_LoopCommandsComplete_2 : ∃ (s : State) (ch : Nat) (t : Tune), (s.ch ch).tune = some t :=
  ⟨withCh 131 (fun f => { f with tune := some ⟨.sq 0, 7, 1, false, true, 0, 0, 0⟩ }) run, 131, ⟨.sq 0, 7, 1, false, true, 0, 0, 0⟩, by decide +kernel⟩

theorem witness_LoopCommandsComplete_3 : ∃ (s : State) (p : Pkt) (c : Nat), accepted (.loopPreset p) s ∧ targetChan p = some c ∧ fld (pw p 2) 0 4 ≤ 4 ∧ fld (pw p 3) 0 4 ≤ 4 ∧ ((128 ≤ c → fld (pw p 2) 4 3 ≤ 3)) ∧ stopped s (chanIsland c) = false ∧ ((fld (pw p 2) 0 4 ≠ 0 → fld (pw p 2) 4 3 ≠ activeProfile s c)) ∧ budgetAllows s (presetSet s c (fld (pw p 2) 0 4) (fld (pw p 2) 4 3) (fld (pw p 3) 0 4)) c :=
  ⟨sending (pq 0x0102 [tgt 4 3, 0x30, 4]) (run), pq 0x0102 [tgt 4 3, 0x30, 4], 131, by rw [accepted_iff]; unfold budgetAllows; decide +kernel⟩

theorem witness_LoopCommandsComplete_4 : ∃ (s : State) (p : Pkt) (c : Nat), accepted (.rearm p) s ∧ targetChan p = some c ∧ stopped s (chanIsland c) = false ∧ s.chState c = 6 ∧ ((128 ≤ c → s.rd HVC.INTLK_STATE ≠ 0)) :=
  ⟨sending (pq 0x0103 [tgt 1 127]) (inState 127 6 run), pq 0x0103 [tgt 1 127], 127, by rw [accepted_iff]; decide +kernel⟩

theorem witness_LoopCommandsComplete_5 : ∃ (s : State) (p : Pkt) (c : Nat), accepted (.clearCounts p) s ∧ targetInst p 1 = some c ∧ stopped s (chanIsland c) = false :=
  ⟨sending (pq 0x0104 [tgt 1 127]) (run), pq 0x0104 [tgt 1 127], 127, by rw [accepted_iff]; decide +kernel⟩

theorem witness_MeasureRowsComplete_0 : ∃ (s : State) (g : Nat), ((s.group g).samp = .ready ∨ (s.group g).samp = .autoZero) ∧ scheduledAt s g s.now = true ∧ stopped s (groupIsland g) = false ∧ (s.group g).instant ≠ some (s.clock * 65536) ∧ (s.group g).busyTill ≤ s.clock * 65536 :=
  ⟨withGroup 16 (fun r => { r with samp := .ready, src := 1, period := 16 }) (at_ 2000 run), 16, by decide +kernel⟩

theorem witness_MeasureRowsComplete_1 : ∃ (s : State) (g : Nat), (s.group g).samp ≠ .idle ∧ (s.group g).samp ≠ .waking ∧ scheduledAt s g s.now = true ∧ stopped s (groupIsland g) = false ∧ (s.group g).instant ≠ some (s.clock * 65536) ∧ s.clock * 65536 < (s.group g).busyTill ∧ (s.group g).src = 1 :=
  ⟨withGroup 16 (fun r => { r with samp := .converting, src := 1, period := 16, busyTill := 65536 * 2001 }) (at_ 2000 run), 16, by decide +kernel⟩

theorem witness_MeasureRowsComplete_2 : ∃ (s : State) (g : Nat), (s.group g).samp = .ready ∧ (s.group g).src = 1 ∧ s.now % 125 = 0 ∧ (((s.now / 125 : Nat) : Int) - (s.group g).phase) % ((s.group g).period : Int) = 0 ∧ stopped s (groupIsland g) = false ∧ (s.group g).instant ≠ some (s.clock * 65536) ∧ (s.group g).busyTill ≤ s.clock * 65536 :=
  ⟨withGroup 16 (fun r => { r with samp := .ready, src := 1, period := 16 }) (at_ 2000 run), 16, by decide +kernel⟩

theorem witness_MeasureRowsComplete_3 : ∃ (s : State) (g : Nat), (s.group g).samp = .waking ∧ (s.group g).byTrig = false ∧ (s.group g).instant = some (s.clock * 65536) ∧ scheduledAt s g s.now = true ∧ stopped s (groupIsland g) = false :=
  ⟨withGroup 16 (fun r => { r with samp := .waking, src := 1, period := 16, instant := some (2000 * 65536) }) (at_ 2000 run), 16, by decide +kernel⟩

theorem witness_MeasureRowsComplete_4 : ∃ (s : State) (g : Nat) (t : Nat), (s.con (0x50 + g)).capt = some t ∧ (s.group g).src = 2 ∧ stopped s (groupIsland g) = false :=
  ⟨withGroup 16 (fun r => { r with src := 2 }) (withCapt 0x60 run), 16, 0, by decide +kernel⟩

theorem witness_MeasureRowsComplete_5 : ∃ (s : State) (g : Nat) (t : Nat), (s.con (0x50 + g)).capt = some t ∧ (s.group g).src = 2 ∧ stopped s (groupIsland g) = false ∧ (s.group g).samp ≠ .idle ∧ fullAz s g = none ∧ trigBusy s g t = false ∧ (s.group g).pmode ≠ 1 :=
  ⟨withGroup 16 (fun r => { r with samp := .ready, src := 2 }) (withCapt 0x60 run), 16, 0, by decide +kernel⟩

theorem witness_MeasureRowsComplete_6 : ∃ (s : State) (g : Nat) (t : Nat), (s.con (0x50 + g)).capt = some t ∧ (s.group g).src = 2 ∧ stopped s (groupIsland g) = false ∧ (s.group g).samp ≠ .idle ∧ fullAz s g = none ∧ trigBusy s g t = false ∧ (s.group g).pmode = 1 :=
  ⟨withGroup 16 (fun r => { r with samp := .asleep, src := 2, pmode := 1 }) (withCapt 0x60 run), 16, 0, by decide +kernel⟩

theorem witness_MeasureRowsComplete_7 : ∃ (s : State) (g : Nat), (s.group g).samp = .converting ∧ ((s.group g).instant.getD 0) + busyFor g < cycleEnd s ∧ stopped s (groupIsland g) = false :=
  ⟨withGroup 16 (fun r => { r with samp := .converting }) (at_ 2000 run), 16, by decide +kernel⟩

theorem witness_MeasureRowsComplete_8 : ∃ (s : State) (ch : Nat) (x : Shot × Nat), (s.group (groupOf ch)).missing.find? (fun y => y.1.ch == ch && decide (y.2 + 1000 * 65536 < cycleEnd s)) = some x :=
  ⟨withGroup 16 (fun r => { r with missing := [(⟨131, 0, 0, 0, 0, false, false, false, 1, 0, false, none, none⟩, 0)] }) (at_ 1000 run), 131, (⟨131, 0, 0, 0, 0, false, false, false, 1, 0, false, none, none⟩, 0), by decide +kernel⟩

theorem witness_MeasureRowsComplete_9 : ∃ (s : State) (ch : Nat) (x : Shot), (s.group (groupOf ch)).missing = [] ∧ (s.group (groupOf ch)).shots.find? (fun y => y.ch == ch) = some x ∧ ((s.group (groupOf ch)).instant.getD 0) + 1000 * 65536 < cycleEnd s :=
  ⟨withGroup 16 (fun r => { r with shots := [⟨131, 0, 0, 0, 0, false, false, false, 1, 0, false, none, none⟩] }) (at_ 1000 run), 131, ⟨131, 0, 0, 0, 0, false, false, false, 1, 0, false, none, none⟩, by decide +kernel⟩

theorem witness_MeasureRowsComplete_10 : ∃ (s : State) (g : Nat), (s.group g).samp = .asleep ∧ nextScheduled s g s.now = some (s.now + 2000) ∧ stopped s (groupIsland g) = false :=
  ⟨withGroup 16 (fun r => { r with samp := .asleep, src := 1, period := 16 }) run, 16, by decide +kernel⟩

theorem witness_MeasureRowsComplete_11 : ∃ (s : State) (g : Nat) (t : Nat), (s.group g).samp = .waking ∧ (s.group g).instant = some t ∧ t < cycleEnd s ∧ stopped s (groupIsland g) = false ∧ (((s.group g).byTrig = true ∨ scheduledAt s g s.now = true)) :=
  ⟨withGroup 16 (fun r => { r with samp := .waking, instant := some 0, byTrig := true }) run, 16, 0, by decide +kernel⟩

theorem witness_MeasureRowsComplete_12 : ∃ (s : State) (g : Nat) (t : Nat), (s.group g).samp = .waking ∧ (s.group g).instant = some t ∧ t < cycleEnd s ∧ stopped s (groupIsland g) = false ∧ (s.group g).byTrig = false ∧ scheduledAt s g s.now = false :=
  ⟨withGroup 16 (fun r => { r with samp := .waking, instant := some 0 }) run, 16, 0, by decide +kernel⟩

theorem witness_MeasureRowsComplete_13 : ∃ (s : State) (g : Nat) (ch : Nat), groupOf ch = g ∧ (s.group g).samp ≠ .converting ∧ (s.group g).samp ≠ .waking ∧ (s.group g).trigs = [] ∧ (s.group g).az = none ∧ stopped s (groupIsland g) = false ∧ azDue s ch = true ∧ s.chState ch ≤ 1 :=
  ⟨at_ 1000000000 run, 16, 131, by decide +kernel⟩

theorem witness_MeasureRowsComplete_14 : ∃ (s : State) (ch : Nat) (a : AzRun), (s.group (groupOf ch)).az = some a ∧ ch ∈ a.chans ∧ a.till = none ∧ a.start + 8000 ≤ s.clock :=
  ⟨withGroup 16 (fun r => { r with az := some ⟨[131], 0, 0, false, none⟩ }) (at_ 8000 run), 131, ⟨[131], 0, 0, false, none⟩, by decide +kernel⟩

theorem witness_MeasureAndPinWriteRowsComplete_0 : ∃ (s : State) (g : Nat) (v : Int), writable s ∧ g < 17 ∧ 0 ≤ v ∧ v ≤ 3 ∧ stopped s (groupIsland g) = false :=
  ⟨run, 16, 3, by unfold writable; decide +kernel⟩

theorem witness_MeasureAndPinWriteRowsComplete_1 : ∃ (s : State) (g : Nat) (v : Int), writable s ∧ g < 17 ∧ 0 ≤ v ∧ v ≤ 1 ∧ stopped s (groupIsland g) = false :=
  ⟨run, 16, 1, by unfold writable; decide +kernel⟩

theorem witness_MeasureAndPinWriteRowsComplete_2 : ∃ (s : State) (g : Nat) (v : Int), writable s ∧ g < 17 ∧ (if g < 16 then 4 else 16) ≤ v ∧ v ≤ 4294967295 ∧ stopped s (groupIsland g) = false :=
  ⟨run, 16, 16, by unfold writable; decide +kernel⟩

theorem witness_MeasureAndPinWriteRowsComplete_3 : ∃ (s : State) (g : Nat) (v : Int), writable s ∧ g < 17 ∧ 0 ≤ v ∧ v < s.rd MSR.TIMER_PERIOD (groupHome g) ∧ stopped s (groupIsland g) = false :=
  ⟨run, 16, 15, by unfold writable; decide +kernel⟩

theorem witness_MeasureAndPinWriteRowsComplete_4 : ∃ (s : State) (g : Nat) (v : Int), writable s ∧ g < 17 ∧ 0 ≤ v ∧ v ≤ (if g < 16 then 255 else 15) ∧ stopped s (groupIsland g) = false ∧ ((∀ c ∈ groupChans g, bit v.toNat (c - groupHome g) = true → s.chState c ≤ 1)) :=
  ⟨run, 16, 15, by unfold writable; decide +kernel⟩

theorem witness_MeasureAndPinWriteRowsComplete_5 : ∃ (s : State) (n : Nat) (v : Int), writable s ∧ n < 256 ∧ 0 ≤ v ∧ v ≤ 1 ∧ stopped s (.seq (n / 128)) = false ∧ calPin s n = false ∧ ((v = 1 → shedding s = false)) ∧ s.rd PIN.PMU_EN n ≠ v :=
  ⟨run, 255, 1, by unfold writable; decide +kernel⟩

theorem witness_MeasureAndPinWriteRowsComplete_6 : ∃ (s : State) (n : Nat) (v : Int), writable s ∧ n < 256 ∧ 0 ≤ v ∧ v ≤ 1 ∧ stopped s (.seq (n / 128)) = false ∧ calPin s n = false ∧ ((v = 1 → shedding s = false)) ∧ s.rd PIN.PMU_EN n = v :=
  ⟨run, 255, 0, by unfold writable; decide +kernel⟩

theorem witness_MeasureAndPinWriteRowsComplete_7 : ∃ (s : State) (n : Nat), writable s ∧ n < 4 ∧ stopped s (.seq (chipHome n / 128)) = false :=
  ⟨run, 3, by unfold writable; decide +kernel⟩

theorem witness_MeasureAndPinWriteRowsComplete_8 : ∃ (s : State) (n : Nat), writable s ∧ n < 4 ∧ stopped s .msh = false :=
  ⟨run, 3, by unfold writable; decide +kernel⟩

theorem witness_MeasureAndPinWriteRowsComplete_9 : ∃ (s : State) (n : Nat), writable s ∧ n < 4 ∧ stopped s .msh = false :=
  ⟨run, 3, by unfold writable; decide +kernel⟩

theorem witness_MeasureAndPinWriteRowsComplete_10 : ∃ (s : State) (g : Nat) (v : Int) (e : Nat), g < 17 ∧ writeTrigSrc s g v = .error e :=
  ⟨run, 16, 4, errOf (writeTrigSrc run 16 4), by decide, errOf_eq (by decide +kernel)⟩

theorem witness_MeasureAndPinWriteRowsComplete_11 : ∃ (s : State) (g : Nat) (v : Int) (e : Nat), g < 17 ∧ writePwrMode s g v = .error e :=
  ⟨run, 16, 2, errOf (writePwrMode run 16 2), by decide, errOf_eq (by decide +kernel)⟩

theorem witness_MeasureAndPinWriteRowsComplete_12 : ∃ (s : State) (g : Nat) (v : Int) (e : Nat), g < 17 ∧ writeTimerPeriod s g v = .error e :=
  ⟨run, 16, 15, errOf (writeTimerPeriod run 16 15), by decide, errOf_eq (by decide +kernel)⟩

theorem witness_MeasureAndPinWriteRowsComplete_13 : ∃ (s : State) (g : Nat) (v : Int) (e : Nat), g < 17 ∧ writeTimerPhase s g v = .error e :=
  ⟨run, 16, -1, errOf (writeTimerPhase run 16 (-1)), by decide, errOf_eq (by decide +kernel)⟩

theorem witness_MeasureAndPinWriteRowsComplete_14 : ∃ (s : State) (g : Nat) (v : Int) (e : Nat), g < 17 ∧ writeTdacMask s g v = .error e :=
  ⟨run, 16, 16, errOf (writeTdacMask run 16 16), by decide, errOf_eq (by decide +kernel)⟩

theorem witness_MeasureAndPinWriteRowsComplete_15 : ∃ (s : State) (n : Nat) (v : Int) (e : Nat), n < 256 ∧ writePmuEn s n v = .error e :=
  ⟨run, 255, 2, errOf (writePmuEn run 255 2), by decide, errOf_eq (by decide +kernel)⟩

theorem witness_MeasureAndPinWriteRowsComplete_16 : ∃ (s : State) (n : Nat) (v : Int) (e : Nat), n < 4 ∧ writePortEn s n v = .error e :=
  ⟨run, 3, 2, errOf (writePortEn run 3 2), by decide, errOf_eq (by decide +kernel)⟩

theorem witness_SweepCommandsComplete_0 : ∃ (s : State) (p : Pkt) (base : Nat), accepted (.sweUpload p) s ∧ pktXfer s p = none ∧ 1 ≤ pw p 4 ∧ pw p 4 ≤ 1048576 ∧ pw p 2 % 16 = 0 ∧ bit (pw p 5) 1 = false ∧ lowestRun (roomFor (pw p 4)) 0 (runs s) = some base ∧ (runs s).length < 4096 :=
  ⟨sending (pq 0x0301 [0, 0, 0, 1048576]) (run), pq 0x0301 [0, 0, 0, 1048576], 0, by rw [accepted_iff]; decide +kernel⟩

theorem witness_SweepCommandsComplete_1 : ∃ (s : State) (p : Pkt) (r : Region), accepted (.sweUpload p) s ∧ pktXfer s p = none ∧ 1 ≤ pw p 4 ∧ pw p 4 ≤ 1048576 ∧ pw p 2 % 16 = 0 ∧ bit (pw p 5) 1 = true ∧ s.region (pw p 6) = some r ∧ r.hv = bit (pw p 5) 0 ∧ r.count = pw p 4 ∧ regionUsed s (pw p 6) = false ∧ r.state ≠ 0 :=
  ⟨sending (pq 0x0301 [0, 0, 0, 1, 2, 1]) (withRegion false [point] run), pq 0x0301 [0, 0, 0, 1, 2, 1], ⟨0, 1, false, 1⟩, by rw [accepted_iff]; decide +kernel⟩

theorem witness_SweepCommandsComplete_2 : ∃ (s : State) (src : Src) (tag : Nat) (ws : List Nat) (u : Upload) (r : Region), s.uploads.find? (fun x => x.src == src && x.tag == tag) = some u ∧ s.region u.handle = some r ∧ uploadRead s u = true ∧ ((∀ x, uploadXfer s u = some x → x.fault = none)) ∧ (quadsOf ws).length = r.count ∧ firstBad r.hv false (quadsOf ws) 0 (quadsOf ws) = none :=
  ⟨{ run.setRegion 1 (some ⟨0, 1, false, 0⟩) with uploads := [⟨.sq 0, 7, 1⟩] }, .sq 0, 7, [0, 0x10000, 0x801, 0], ⟨.sq 0, 7, 1⟩, ⟨0, 1, false, 0⟩, by decide +kernel, by decide +kernel, by decide +kernel, (fun _ h => absurd h (by simp [uploadXfer, run, State.reset, State.put, State.setRegion, State.wr])), by decide +kernel, by decide +kernel⟩

theorem witness_SweepCommandsComplete_3 : ∃ (s : State) (p : Pkt) (r : Region), accepted (.sweFree p) s ∧ s.region (pw p 2) = some r ∧ regionUsed s (pw p 2) = false :=
  ⟨sending (pq 0x0302 [0, 1]) (withRegion false [point] run), pq 0x0302 [0, 1], ⟨0, 1, false, 1⟩, by rw [accepted_iff]; decide +kernel⟩

theorem witness_SweepCommandsComplete_4 : ∃ (s : State) (p : Pkt) (e : Nat) (r : Region) (k : Nat), accepted (.sweLoad p) s ∧ targetEngine p = some e ∧ s.region (pw p 2) = some r ∧ pw p 3 < r.count ∧ fld (pw p 4) 8 2 ≠ 3 ∧ ((e = 16 → fld (pw p 4) 0 8 < 16)) ∧ stopped s (engineIsland e) = false ∧ freeSlotOf s e = some k ∧ r.state = 1 ∧ r.hv = decide (e = 16) :=
  ⟨sending (pq 0x0303 [tgt 3 16, 1, 0, 15]) (withRegion true [⟨0x40, 0x10000, 0x801, 0⟩] run), pq 0x0303 [tgt 3 16, 1, 0, 15], 16, ⟨0, 1, true, 1⟩, 0, by rw [accepted_iff]; decide +kernel⟩

theorem witness_SweepCommandsComplete_5 : ∃ (s : State) (p : Pkt) (e : Nat) (k : Nat), accepted (.sweStart p) s ∧ targetEngine p = some e ∧ slotArg p = some k ∧ stopped s (engineIsland e) = false ∧ admissible s e k :=
  ⟨sending (pq 0x0304 [tgt 3 15, 0]) (slotIn 15 1 (withRegion false [point] run)), pq 0x0304 [tgt 3 15, 0], 15, 0, by rw [accepted_iff]; rw [admissible_iff]; decide +kernel⟩

theorem witness_SweepCommandsComplete_6 : ∃ (s : State) (p : Pkt) (e : Nat) (k : Nat), accepted (.sweArm p) s ∧ targetEngine p = some e ∧ slotArg p = some k ∧ stopped s (engineIsland e) = false ∧ admissible s e k :=
  ⟨sending (pq 0x0305 [tgt 3 15, 0]) (slotIn 15 1 (withRegion false [point] run)), pq 0x0305 [tgt 3 15, 0], 15, 0, by rw [accepted_iff]; rw [admissible_iff]; decide +kernel⟩

theorem witness_SweepCommandsComplete_7 : ∃ (s : State) (p : Pkt) (e : Nat) (k : Nat), accepted (.sweResume p) s ∧ targetEngine p = some e ∧ slotArg p = some k ∧ stopped s (engineIsland e) = false ∧ shedding s = false ∧ s.runSlot e = k ∧ s.slotState e k = 6 ∧ (.coast ∉ (s.engine e).heldBy ∨ s.rd TB.STATE = 2) :=
  ⟨sending (pq 0x0306 [tgt 3 16, 3]) ((run.setSlotState 16 3 6).put SWE.RUN_SLOT 16 3), pq 0x0306 [tgt 3 16, 3], 16, 3, by rw [accepted_iff]; decide +kernel⟩

theorem witness_SweepCommandsComplete_8 : ∃ (s : State) (p : Pkt) (e : Nat), accepted (.sweAbort p) s ∧ targetEngine p = some e ∧ stopped s (engineIsland e) = false ∧ pw p 2 = 0xFFFFFFFF :=
  ⟨sending (pq 0x0307 [tgt 3 16, 0xFFFFFFFF]) (run), pq 0x0307 [tgt 3 16, 0xFFFFFFFF], 16, by rw [accepted_iff]; decide +kernel⟩

theorem witness_SweepCommandsComplete_9 : ∃ (s : State) (p : Pkt) (e : Nat) (k : Nat), accepted (.sweAbort p) s ∧ targetEngine p = some e ∧ stopped s (engineIsland e) = false ∧ pw p 2 = k ∧ k < 4 :=
  ⟨sending (pq 0x0307 [tgt 3 16, 3]) (run), pq 0x0307 [tgt 3 16, 3], 16, 3, by rw [accepted_iff]; decide +kernel⟩

theorem witness_SweepCommandsComplete_10 : ∃ (s : State) (p : Pkt) (e : Nat) (k : Nat), accepted (.sweRelease p) s ∧ targetEngine p = some e ∧ slotArg p = some k ∧ stopped s (engineIsland e) = false ∧ s.slotState e k ∈ [1, 2, 8, 9] :=
  ⟨sending (pq 0x0308 [tgt 3 16, 3]) (run.setSlotState 16 3 9), pq 0x0308 [tgt 3 16, 3], 16, 3, by rw [accepted_iff]; decide +kernel⟩

theorem witness_SweepCommandsComplete_11 : ∃ (s : State) (p : Pkt) (e : Nat), accepted (.sweSignal p) s ∧ targetEngine p = some e ∧ stopped s (engineIsland e) = false :=
  ⟨sending (pq 0x0309 [tgt 3 16]) (run), pq 0x0309 [tgt 3 16], 16, by rw [accepted_iff]; decide +kernel⟩

theorem witness_SweepEventRowsComplete_0 : ∃ (s : State) (e : Nat), captDue s (4 * e) = true ∧ captDue s (4 * e + 3) = false :=
  ⟨at_ 250 (withCapt 64 run), 16, by decide +kernel⟩

theorem witness_SweepEventRowsComplete_1 : ∃ (s : State) (e : Nat), captDue s (4 * e) = true ∧ captDue s (4 * e + 3) = true :=
  ⟨at_ 250 (withCapt 67 (withCapt 64 run)), 16, by decide +kernel⟩

theorem witness_SweepEventRowsComplete_2 : ∃ (s : State) (e : Nat), captDue s (4 * e + 1) = true ∧ pointOn (clearCapt s (4 * e + 1)) e = true ∧ (s.engine e).ta < s.clock :=
  ⟨at_ 250 (withCapt 65 (runs0 16 (fun t => { t with pt := .applied }) run)), 16, by decide +kernel⟩

theorem witness_SweepEventRowsComplete_3 : ∃ (s : State) (e : Nat), captDue s (4 * e + 2) = true :=
  ⟨at_ 250 (withCapt 66 run), 16, by decide +kernel⟩

theorem witness_SweepEventRowsComplete_4 : ∃ (s : State) (e : Nat), captDue s (4 * e + 3) = true :=
  ⟨at_ 250 (withCapt 67 run), 16, by decide +kernel⟩

theorem witness_SweepEventRowsComplete_5 : ∃ (s : State) (e : Nat) (a : Nat), (s.engine e).waitCapt = some a ∧ waitDue s e = true ∧ (16 ≤ e ∨ railDelayFor (s.group e) ((s.group e).tgtP, (s.group e).tgtN) = 0) :=
  ⟨at_ 250 (runs0 16 (fun t => { t with pt := .waiting, waitCapt := some 0 }) run), 16, 0, by decide +kernel⟩

theorem witness_SweepEventRowsComplete_6 : ∃ (s : State) (e : Nat) (a : Nat) (d : Nat), (s.engine e).waitCapt = some a ∧ waitDue s e = true ∧ e < 16 ∧ railDelayFor (s.group e) ((s.group e).tgtP, (s.group e).tgtN) = d ∧ 0 < d :=
  ⟨at_ 250 (withGroup 15 (fun r => { r with tgtP := r.railP + 1 }) (runs0 15 (fun t => { t with pt := .waiting, waitCapt := some 0 }) run)), 15, 0, 1, by decide +kernel⟩

theorem witness_SweepEventRowsComplete_7 : ∃ (s : State) (e : Nat) (k : Nat), k < 4 ∧ s.slotState e k = 2 ∧ s.slotRd SWE.START_AT e k ≠ 0 ∧ s.slotRd SWE.START_AT e k ≤ s.now ∧ captDue s (4 * e) = false ∧ captDue s (4 * e + 3) = false :=
  ⟨at_ 125 ((slotIn 16 2 run).wr SWE.START_AT 16 0 1), 16, 0, by decide +kernel⟩

theorem witness_SweepEventRowsComplete_8 : ∃ (s : State) (e : Nat), (s.engine e).pt = .waiting ∧ s.effN SWE.WAIT_TIMEOUT e ≠ 0 ∧ (s.engine e).t + 125 * s.effN SWE.WAIT_TIMEOUT e ≤ s.clock ∧ waitDue s e = false :=
  ⟨at_ 125 ((runs0 16 (fun t => { t with pt := .waiting }) run).put SWE.WAIT_TIMEOUT 16 1), 16, by decide +kernel⟩

theorem witness_SweepEventRowsComplete_9 : ∃ (s : State) (e : Nat), pointOn s e = true ∧ (s.engine e).ta + 125 * eDwell (entryAt s (s.slotRd SWE.REGION e (s.runSlot e)) (s.engine e).entry) ≤ s.clock :=
  ⟨at_ 1000 (runs0 15 (fun t => { t with pt := .applied }) (withRegion false [point] run)), 15, by decide +kernel⟩

theorem witness_SweepEventRowsComplete_10 : ∃ (s : State) (e : Nat), (s.engine e).pt = .delay ∧ (s.engine e).ta ≤ s.clock :=
  ⟨runs0 16 (fun t => { t with pt := .delay }) run, 16, by decide +kernel⟩

theorem witness_SweepEventRowsComplete_11 : ∃ (s : State) (e : Nat), s.runSlot e < 4 ∧ (s.engine e).pt = .applied ∧ (s.engine e).pulsed = false ∧ cutDue s e = false ∧ eKind (entryAt s (s.slotRd SWE.REGION e (s.runSlot e)) (s.engine e).entry) = 1 ∧ (s.engine e).ta + 125 * eDwell (entryAt s (s.slotRd SWE.REGION e (s.runSlot e)) ((s.engine e).entry + 1)) ≤ s.clock :=
  ⟨at_ 1000 (runs0 15 (fun t => { t with pt := .applied }) (withRegion false [pulseBase, pulseExt] run)), 15, by decide +kernel⟩

theorem witness_SweepEventRowsComplete_12 : ∃ (s : State) (e : Nat) (x : Quad), s.runSlot e < 4 ∧ (s.engine e).pt = .pulse ∧ cutDue s e = false ∧ x = entryAt s (s.slotRd SWE.REGION e (s.runSlot e)) ((s.engine e).entry + 1) ∧ (s.engine e).ta + 125 * (eDwell x + ePwidth x) ≤ s.clock :=
  ⟨at_ 2000 (runs0 15 (fun t => { t with pt := .pulse }) (withRegion false [pulseBase, pulseExt] run)), 15, pulseExt, by decide +kernel⟩

theorem witness_SweepEventRowsComplete_13 : ∃ (s : State) (e : Nat), cutDue s e = true ∧ ((s.engine e).pt = .delay ∨ (s.engine e).pt = .waiting) :=
  ⟨at_ 250 (((((runs0 15 (fun t => { t with pt := .delay }) run).setSlotState 15 1 3).wr SWE.PRIORITY 15 1 0).wr SWE.PRIORITY 15 0 3).wr SWE.PREEMPT_CUT 15 1 1), 15, by decide +kernel⟩

theorem witness_SweepEventRowsComplete_14 : ∃ (s : State) (e : Nat), cutDue s e = true ∧ pointOn s e = true ∧ (s.engine e).ta + 125 * eDwell (entryAt s (s.slotRd SWE.REGION e (s.runSlot e)) (s.engine e).entry) ≤ s.clock :=
  ⟨at_ 1000 (((((runs0 15 (fun t => { t with pt := .applied }) (withRegion false [point] run)).setSlotState 15 1 3).wr SWE.PRIORITY 15 1 0).wr SWE.PRIORITY 15 0 3).wr SWE.PREEMPT_CUT 15 1 1), 15, by decide +kernel⟩

theorem witness_SweepEventRowsComplete_15 : ∃ (s : State) (e : Nat), cutDue s e = true ∧ pointOn s e = true ∧ s.clock < (s.engine e).ta + 125 * eDwell (entryAt s (s.slotRd SWE.REGION e (s.runSlot e)) (s.engine e).entry) :=
  ⟨at_ 250 (((((runs0 15 (fun t => { t with pt := .applied, ta := 250 }) (withRegion false [point] run)).setSlotState 15 1 3).wr SWE.PRIORITY 15 1 0).wr SWE.PRIORITY 15 0 3).wr SWE.PREEMPT_CUT 15 1 1), 15, by decide +kernel⟩

theorem witness_SweepEventRowsComplete_16 : ∃ (s : State) (i : Nat), i ∉ s.sweBad :=
  ⟨run, 1048575, by decide +kernel⟩

theorem witness_HvRowsComplete_0 : ∃ (s : State) (ch : Nat) (r : Ramp), 128 ≤ ch ∧ (s.ch ch).ramp = some r ∧ (s.ch ch).rampN = none ∧ r.t1 ≤ s.clock :=
  ⟨withCh 131 (fun f => { f with ramp := some ⟨0, 125, 0, 1⟩ }) (at_ 125 run), 131, ⟨0, 125, 0, 1⟩, by decide +kernel⟩

theorem witness_HvRowsComplete_1 : ∃ (s : State), s.rd HVC.BOOST_STATE = 1 :=
  ⟨run.put HVC.BOOST_STATE 0 1, by decide +kernel⟩

theorem witness_HvRowsComplete_2 : ∃ (s : State) (a : Nat), ((∀ c, c ∈ hvChans → (s.chState c = 0 ∨ s.chState c = 6) ∧ (s.ch c).motion ≠ .starting)) ∧ s.hv.quietAt = some a ∧ a + 1000000000 ≤ s.clock ∧ (s.rd HVC.BOOST_STATE = 1 ∨ s.rd HVC.BOOST_STATE = 2) :=
  ⟨{ at_ 1000000000 (run.put HVC.BOOST_STATE 0 2) with hv := { run.hv with quietAt := some 0 } }, 0, by decide +kernel⟩

theorem witness_HvRowsComplete_3 : ∃ (s : State), (s.rd HVC.BOOST_STATE = 1 ∨ s.rd HVC.BOOST_STATE = 2 ∨ (s.rd HVC.BOOST_STATE = 0 ∧ openedNow s = true)) :=
  ⟨run.put HVC.BOOST_STATE 0 2, by decide +kernel⟩

theorem witness_HvRowsComplete_4 : ∃ (s : State) (ch : Nat), 128 ≤ ch ∧ ch < 132 ∧ connected (s.chState ch) = true :=
  ⟨inState 131 3 run, 131, by decide +kernel⟩

theorem witness_HvRowsComplete_5 : ∃ (s : State), s.rd HVC.INTLK_STATE = 1 :=
  ⟨run.put HVC.INTLK_STATE 0 1, by decide +kernel⟩

theorem witness_HvRowsComplete_6 : ∃ (s : State), s.rd HVC.INTLK_STATE ≠ 1 :=
  ⟨run.put HVC.INTLK_STATE 0 0, by decide +kernel⟩

theorem witness_HvRowsComplete_7 : ∃ (s : State) (a : Nat), s.rd HVC.INTLK_STATE = 0 ∧ s.hv.openedAt = some a ∧ a + 50000000 ≤ s.clock :=
  ⟨{ at_ 50000000 (run.put HVC.INTLK_STATE 0 0) with hv := { run.hv with openedAt := some 0 } }, 0, by decide +kernel⟩

theorem witness_HvRowsComplete_8 : ∃ (s : State), s.rd HVC.INTLK_STATE = 0 ∧ s.hv.openedAt = none :=
  ⟨run.put HVC.INTLK_STATE 0 0, by decide +kernel⟩

theorem witness_HvRowsComplete_9 : ∃ (s : State) (ch : Nat) (t : Nat), 128 ≤ ch ∧ (s.ch ch).disch = some t :=
  ⟨withCh 131 (fun f => { f with disch := some 0 }) run, 131, 0, by decide +kernel⟩

theorem witness_HvRowsComplete_10 : ∃ (s : State) (ch : Nat) (t : Nat), 128 ≤ ch ∧ (s.ch ch).disch = some t ∧ t + 10000000 ≤ s.clock :=
  ⟨withCh 131 (fun f => { f with disch := some 0 }) (at_ 10000000 run), 131, 0, by decide +kernel⟩

theorem witness_HvRowsComplete_11 : ∃ (s : State) (ch : Nat) (t : Nat), (s.ch ch).dischPeriod = some t ∧ t + 10000000 ≤ s.clock :=
  ⟨withCh 131 (fun f => { f with dischPeriod := some 0 }) (at_ 10000000 run), 131, 0, by decide +kernel⟩

theorem witness_PinRowsComplete_0 : ∃ (s : State) (n : Nat), pinLive s n = true ∧ (s.pin n).driving = true :=
  ⟨run.setPin 255 { run.pin 255 with drive := 1 }, 255, by decide +kernel⟩

theorem witness_PinRowsComplete_1 : ∃ (s : State) (n : Nat), n < 256 ∧ (s.pin n).faultAt = some s.clock :=
  ⟨run.setPin 255 { run.pin 255 with faultAt := some 0 }, 255, by decide +kernel⟩

theorem witness_PinRowsComplete_2 : ∃ (n : Nat), n < 256 :=
  ⟨255, by decide +kernel⟩

theorem witness_PinRowsComplete_3 : ∃ (s : State) (n : Nat), (s.pin n).switching = true :=
  ⟨run.setPin 255 { run.pin 255 with switching := true }, 255, by decide +kernel⟩

theorem witness_PinRowsComplete_4 : ∃ (s : State) (x : Nat) (t : Nat), x < 4 ∧ (s.con (0x130 + x)).capt = some t :=
  ⟨withCapt 0x133 run, 3, 0, by decide +kernel⟩

theorem witness_PinRowsComplete_5 : ∃ (s : State) (x : Nat), x < 4 ∧ (s.conv x).st = 1 ∧ (s.conv x).reqAt + 20000 ≤ s.clock :=
  ⟨(at_ 20000 run).setConv 3 { run.conv 3 with st := 1 }, 3, by decide +kernel⟩

theorem witness_PinRowsComplete_6 : ∃ (s : State) (x : Nat), x < 4 ∧ (s.conv x).st = 2 ∧ (s.conv x).dead = false ∧ (s.conv x).sampAt + 2000 ≤ s.clock :=
  ⟨(at_ 2000 run).setConv 3 { run.conv 3 with st := 2 }, 3, by decide +kernel⟩

theorem witness_PinRowsComplete_7 : ∃ (s : State) (x : Nat), x < 4 ∧ (s.conv x).st ≠ 0 ∧ (s.conv x).dead = false ∧ (s.conv x).reqAt + 30000 ≤ s.clock :=
  ⟨(at_ 30000 run).setConv 3 { run.conv 3 with st := 2 }, 3, by decide +kernel⟩

theorem witness_PinRowsComplete_8 : ∃ (s : State) (x : Nat), x < 4 ∧ (s.conv x).st ≠ 0 ∧ (s.conv x).dead = true ∧ (s.conv x).reqAt + 30000 ≤ s.clock :=
  ⟨(at_ 30000 run).setConv 3 { run.conv 3 with st := 2, dead := true }, 3, by decide +kernel⟩

theorem witness_PinRowsComplete_9 : ∃ (s : State) (c : Cmp), cmpListed c = true ∧ (s.comp c).changing = true :=
  ⟨run.setComp (.pin 255 true) { run.comp (.pin 255 true) with changing := true }, .pin 255 true, by decide +kernel⟩

theorem witness_PinRowsComplete_10 : ∃ (s : State) (c : Cmp) (above : Bool), cmpListed c = true ∧ (s.comp c).changing = false ∧ effMode s c ≠ 3 ∧ clampSees s c above = none :=
  ⟨run, .monitor 23, true, by decide +kernel⟩

theorem witness_PinRowsComplete_11 : ∃ (s : State) (ch : Nat) (k : Nat), ch < 128 ∧ k < 4 ∧ connected (s.chState ch) = true ∧ (s.comp (.window ch k)).changing = false ∧ effMode s (.window ch k) ≠ 3 :=
  ⟨inState 127 2 run, 127, 3, by decide +kernel⟩

theorem witness_PinRowsComplete_12 : ∃ (s : State) (c : Cmp), cmpListed c = true ∧ (s.comp c).changing = false ∧ effMode s c ≠ 3 :=
  ⟨inState 127 2 run, .window 127 3, by decide +kernel⟩

theorem witness_PinRowsComplete_13 : ∃ (s : State) (c : Cmp), (s.comp c).changing = true ∧ (s.comp c).waits.bind (clampSees (s.setComp c (changeEnds (s.comp c))) c) = none :=
  ⟨run.setComp (.monitor 23) { run.comp (.monitor 23) with changing := true }, .monitor 23, by decide +kernel⟩

theorem witness_PinRowsComplete_14 : ∃ (s : State) (c : Cmp) (ch : Nat) (k : Nat), (s.comp c).changing = true ∧ (s.comp c).waits.bind (clampSees (s.setComp c (changeEnds (s.comp c))) c) = some (ch, k) :=
  ⟨(inState 127 2 run).setComp (.window 127 3) { run.comp (.window 127 3) with changing := true, waits := some false }, .window 127 3, 127, 3, by decide +kernel⟩

theorem witness_SequencerTableRowsComplete_0 : ∃ (s : State) (p : Pkt) (d : Nat) (ws : List Nat), accepted (.seqVecLoad p (.words ws)) s ∧ targetDom p = some d ∧ stopped s (.seq d) = false ∧ pw p 2 % 64 = 0 ∧ pw p 5 ≠ 0 ∧ pw p 4 + pw p 5 ≤ areaGrans ∧ hostGives s p (.words ws) ws :=
  ⟨given (pq 0x0401 [tgt 6 1, 0, 0, 2097151, 1]) (run), pq 0x0401 [tgt 6 1, 0, 0, 2097151, 1], 1, [], by rw [accepted_iff]; rw [hostGives_iff]; decide +kernel⟩

theorem witness_SequencerTableRowsComplete_1 : ∃ (s : State) (p : Pkt) (d : Nat) (ws : List Nat), accepted (.seqSegWrite p (.words ws)) s ∧ targetDom p = some d ∧ stopped s (.seq d) = false ∧ pw p 2 % 64 = 0 ∧ pw p 5 ≠ 0 ∧ pw p 4 + pw p 5 ≤ 16384 ∧ hostGives s p (.words ws) ws ∧ ((∀ e, e ∈ segsOf (pw p 5) ws → segOk e = true)) ∧ (s.seqState d = 0 ∨ (∀ e, e ∈ (segsOf (pw p 5) ws).zipIdx (pw p 4) → segPinned e.1 = false ∧ segPinned ((s.sequencer d).seg e.2) = false)) :=
  ⟨given (pq 0x0402 [tgt 6 1, 0, 0, 16383, 1]) (run), pq 0x0402 [tgt 6 1, 0, 0, 16383, 1], 1, [0, 4, 0, 0], by rw [accepted_iff]; rw [hostGives_iff]; decide +kernel⟩

theorem witness_SequencerTableRowsComplete_2 : ∃ (s : State) (p : Pkt) (d : Nat), accepted (.seqMapWrite p) s ∧ targetDom p = some d ∧ stopped s (.seq d) = false ∧ pw p 2 < 256 :=
  ⟨sending (pq 0x0403 [tgt 6 1, 255]) (run), pq 0x0403 [tgt 6 1, 255], 1, by rw [accepted_iff]; decide +kernel⟩

theorem witness_SequencerTableRowsComplete_3 : ∃ (s : State) (p : Pkt) (d : Nat), accepted (.seqParkWrite p) s ∧ targetDom p = some d ∧ stopped s (.seq d) = false ∧ pw p 2 < 16 :=
  ⟨sending (pq 0x0404 [tgt 6 1, 15]) (run), pq 0x0404 [tgt 6 1, 15], 1, by rw [accepted_iff]; decide +kernel⟩

theorem witness_SequencerTableRowsComplete_4 : ∃ (s : State) (p : Pkt) (d : Nat), accepted (.seqPinLoad p) s ∧ targetDom p = some d ∧ stopped s (.seq d) = false ∧ s.seqState d = 0 ∧ (pinPlan (s.sequencer d)).foldl (fun n x => n + x.len) 0 ≤ s.rdN SEQ.PIN_SIZE d ∧ ((∀ x g, x ∈ pinPlan (s.sequencer d) → g ∈ segGrans x.len ((s.sequencer d).seg x.seg) → g ∉ (s.sequencer d).badGrans)) :=
  ⟨sending (pq 0x0405 [tgt 6 1]) (run), pq 0x0405 [tgt 6 1], 1, by rw [accepted_iff]; decide +kernel, by decide, by decide +kernel, by decide +kernel, by decide +kernel, (fun x g h => absurd h (by rw [show pinPlan _ = [] from (by decide +kernel : pinPlan ((sending (pq 0x0405 [tgt 6 1]) run).sequencer 1) = [])]; simp))⟩

theorem witness_SequencerTableRowsComplete_5 : ∃ (s : State) (p : Pkt) (d : Nat) (ws : List Nat), accepted (.tsWrite p (.words ws)) s ∧ targetDom p = some d ∧ stopped s (.seq d) = false ∧ pw p 5 < 32 ∧ pw p 2 % 64 = 0 ∧ hostGives s p (.words ws) ws ∧ headerOk (pad 1040 ws) = true ∧ firstBadPin (pad 1040 ws) = none :=
  ⟨given (pp 0x0406 [tgt 6 1, 0, 0, 4160, 31]) (run), pp 0x0406 [tgt 6 1, 0, 0, 4160, 31], 1, [512, 0, 0, 1, 0, 1, 0, 1, 0, 1], by rw [accepted_iff]; rw [hostGives_iff]; decide +kernel⟩

theorem witness_SequencerTableRowsComplete_6 : ∃ (s : State) (p : Pkt) (d : Nat) (ks : List Nat), accepted (.tsCommit p) s ∧ targetDom p = some d ∧ stopped s (.seq d) = false ∧ s.seqState d ∈ [0, 5, 6] ∧ ks = maskBits 32 (pw p 2) ∧ ((∀ e, e ∈ (s.sequencer d).shadows ks → tooFast d (s.rdN SEQ.HS_DIV 1) e.2 = false)) :=
  ⟨sending (pq 0x0407 [tgt 6 1, 0xFFFFFFFF]) (run), pq 0x0407 [tgt 6 1, 0xFFFFFFFF], 1, maskBits 32 0xFFFFFFFF, by rw [accepted_iff]; decide +kernel⟩

theorem witness_SequencerTableRowsComplete_7 : ∃ (s : State) (p : Pkt) (d : Nat) (ks : List Nat), accepted (.tsCommit p) s ∧ targetDom p = some d ∧ stopped s (.seq d) = false ∧ s.seqState d ∉ [0, 5, 6] ∧ ks = maskBits 32 (pw p 2) ∧ ((∀ e, e ∈ (s.sequencer d).shadows ks → tooFast d (s.rdN SEQ.HS_DIV 1) e.2 = false)) :=
  ⟨sending (pq 0x0407 [tgt 6 1, 0xFFFFFFFF]) (seqIn 1 3 run), pq 0x0407 [tgt 6 1, 0xFFFFFFFF], 1, maskBits 32 0xFFFFFFFF, by rw [accepted_iff]; decide +kernel⟩

theorem witness_SequencerTableRowsComplete_8 : ∃ (s : State) (d : Nat), d < 2 ∧ s.seqState d ∈ [0, 5, 6] :=
  ⟨run, 1, by decide +kernel⟩

theorem witness_SequencerTableRowsComplete_9 : ∃ (s : State) (d : Nat) (t : Nat), d < 2 ∧ (s.seqState d = 3 ∨ s.seqState d = 4) ∧ (s.sequencer d).period ≠ 0 ∧ t = (s.sequencer d).t0 + stepsFine s ((s.sequencer d).steps + (s.sequencer d).period) :=
  ⟨withSeq 1 (fun q => { q with period := 8192 }) (seqIn 1 3 run), 1, ((withSeq 1 (fun q => { q with period := 8192 }) (seqIn 1 3 run)).sequencer 1).t0 + stepsFine (withSeq 1 (fun q => { q with period := 8192 }) (seqIn 1 3 run)) (((withSeq 1 (fun q => { q with period := 8192 }) (seqIn 1 3 run)).sequencer 1).steps + 8192), by decide +kernel⟩

theorem witness_SequencerTableRowsComplete_10 : ∃ (s : State) (p : Pkt) (d : Nat) (wr : Option HostFault), accepted (.tsRead p wr) s ∧ targetDom p = some d ∧ stopped s (.seq d) = false ∧ pw p 2 < 32 ∧ pw p 3 ≤ 1 ∧ pw p 4 % 64 = 0 :=
  ⟨sending (pq 0x0408 [tgt 6 1, 31]) (run), pq 0x0408 [tgt 6 1, 31], 1, none, by rw [accepted_iff]; decide +kernel⟩

theorem witness_SequencerTableRowsComplete_11 : ∃ (s : State) (p : Pkt) (d : Nat) (wr : Option HostFault), accepted (.seqCapRead p wr) s ∧ targetDom p = some d ∧ stopped s (.seq d) = false ∧ pw p 2 % 64 = 0 ∧ pw p 5 ≠ 0 ∧ pw p 4 + pw p 5 ≤ capRecords ∧ ((∀ i, i < pw p 5 → pw p 4 + i ∉ (s.sequencer d).badCaps)) :=
  ⟨sending (pq 0x0413 [tgt 6 1, 0, 0, 8388607, 1]) (run), pq 0x0413 [tgt 6 1, 0, 0, 8388607, 1], 1, none, by rw [accepted_iff]; decide +kernel⟩

theorem witness_SequencerTableRowsComplete_12 : ∃ (s : State) (p : Pkt) (d : Nat), accepted (.seqClearFails p) s ∧ targetDom p = some d ∧ stopped s (.seq d) = false :=
  ⟨sending (pq 0x0412 [tgt 6 1]) (run), pq 0x0412 [tgt 6 1], 1, by rw [accepted_iff]; decide +kernel⟩

theorem witness_SequencerCommandsComplete_0 : ∃ (s : State) (p : Pkt) (d : Nat) (k : Nat), accepted (.seqLoad p) s ∧ targetDom p = some d ∧ stopped s (.seq d) = false ∧ pw p 2 < 16384 ∧ (List.range 4).find? (fun k => s.seqSlotState d k == 0) = some k :=
  ⟨sending (pq 0x0409 [tgt 6 1, 16383, 3]) (run), pq 0x0409 [tgt 6 1, 16383, 3], 1, 0, by rw [accepted_iff]; decide +kernel⟩

theorem witness_SequencerCommandsComplete_1 : ∃ (s : State) (p : Pkt) (d : Nat), accepted (.seqStart p) s ∧ targetDom p = some d ∧ pw p 2 < 4 ∧ stopped s (.seq d) = false ∧ s.rd TB.STATE ≠ 2 :=
  ⟨sending (pq 0x040A [tgt 6 1, 3]) (tbIn 3 run), pq 0x040A [tgt 6 1, 3], 1, by rw [accepted_iff]; decide +kernel⟩

theorem witness_SequencerCommandsComplete_2 : ∃ (s : State) (p : Pkt) (d : Nat) (k : Nat), accepted (.seqStart p) s ∧ seqSlotReady s p d k ∧ seqAtRest s d = true :=
  ⟨sending (pq 0x040A [tgt 6 1, 3]) (run.setSeqSlot 1 3 1), pq 0x040A [tgt 6 1, 3], 1, 3, by rw [accepted_iff]; unfold seqSlotReady; decide +kernel⟩

theorem witness_SequencerCommandsComplete_3 : ∃ (s : State) (p : Pkt) (d : Nat) (k : Nat), accepted (.seqStart p) s ∧ seqSlotReady s p d k ∧ seqAtRest s d = false :=
  ⟨sending (pq 0x040A [tgt 6 1, 3]) (seqIn 1 3 (run.setSeqSlot 1 3 1)), pq 0x040A [tgt 6 1, 3], 1, 3, by rw [accepted_iff]; unfold seqSlotReady; decide +kernel⟩

theorem witness_SequencerCommandsComplete_4 : ∃ (s : State) (p : Pkt) (d : Nat) (k : Nat), accepted (.seqArm p) s ∧ seqSlotReady s p d k :=
  ⟨sending (pq 0x040B [tgt 6 1, 3, 5, 0]) (run.setSeqSlot 1 3 1), pq 0x040B [tgt 6 1, 3, 5, 0], 1, 3, by rw [accepted_iff]; unfold seqSlotReady; decide +kernel⟩

theorem witness_SequencerCommandsComplete_5 : ∃ (s : State) (p : Pkt) (d : Nat), accepted (.seqStop p) s ∧ targetDom p = some d ∧ stopped s (.seq d) = false ∧ seqPlays s d = true :=
  ⟨sending (pq 0x040C [tgt 6 1]) (seqIn 1 4 run), pq 0x040C [tgt 6 1], 1, by rw [accepted_iff]; decide +kernel⟩

theorem witness_SequencerCommandsComplete_6 : ∃ (s : State) (p : Pkt) (d : Nat), accepted (.seqJump p) s ∧ targetDom p = some d ∧ stopped s (.seq d) = false ∧ seqPlays s d = true :=
  ⟨sending (pq 0x040D [tgt 6 1]) (seqIn 1 3 run), pq 0x040D [tgt 6 1], 1, by rw [accepted_iff]; decide +kernel⟩

theorem witness_SequencerCommandsComplete_7 : ∃ (s : State) (p : Pkt) (d : Nat), accepted (.seqResume p) s ∧ targetDom p = some d ∧ stopped s (.seq d) = false ∧ shedding s = false ∧ s.seqState d = 5 ∧ s.rd TB.STATE = 2 :=
  ⟨sending (pq 0x040E [tgt 6 1]) (seqIn 1 5 run), pq 0x040E [tgt 6 1], 1, by rw [accepted_iff]; decide +kernel⟩

theorem witness_SequencerCommandsComplete_8 : ∃ (s : State) (p : Pkt) (d : Nat), accepted (.seqAbort p) s ∧ targetDom p = some d ∧ stopped s (.seq d) = false :=
  ⟨sending (pq 0x040F [tgt 6 1]) (run), pq 0x040F [tgt 6 1], 1, by rw [accepted_iff]; decide +kernel⟩

theorem witness_SequencerCommandsComplete_9 : ∃ (s : State) (p : Pkt) (d : Nat), accepted (.seqIdle p) s ∧ targetDom p = some d ∧ stopped s (.seq d) = false ∧ s.seqState d ∈ [2, 5, 6] :=
  ⟨sending (pq 0x0410 [tgt 6 1]) (seqIn 1 6 run), pq 0x0410 [tgt 6 1], 1, by rw [accepted_iff]; decide +kernel⟩

theorem witness_SequencerCommandsComplete_10 : ∃ (s : State) (p : Pkt) (d : Nat), accepted (.seqRelease p) s ∧ targetDom p = some d ∧ stopped s (.seq d) = false ∧ pw p 2 < 4 ∧ (s.seqSlotState d (pw p 2) = 1 ∨ s.seqSlotState d (pw p 2) = 7) :=
  ⟨sending (pq 0x0411 [tgt 6 1, 3]) (run.setSeqSlot 1 3 7), pq 0x0411 [tgt 6 1, 3], 1, by rw [accepted_iff]; decide +kernel⟩

theorem witness_SequencerEventRowsComplete_0 : ∃ (s : State) (d : Nat), s.seqState d = 1 ∧ primed s d = true ∧ ((galeDone s d).sequencer d).autoRun = true :=
  ⟨withSeq 1 (fun q => { q with pinSegs := [⟨0, 0, 1, 0⟩], autoRun := true }) (seqIn 1 1 run), 1, by decide +kernel⟩

theorem witness_SequencerEventRowsComplete_1 : ∃ (s : State) (d : Nat), s.seqState d = 1 ∧ primed s d = true ∧ ((galeDone s d).sequencer d).autoRun = false :=
  ⟨withSeq 1 (fun q => { q with pinSegs := [⟨0, 0, 1, 0⟩], autoRun := false }) (seqIn 1 1 run), 1, by decide +kernel⟩

theorem witness_SequencerEventRowsComplete_2 : ∃ (s : State) (d : Nat), d < 2 ∧ s.seqState d = 3 ∧ (s.sequencer d).fresh = false ∧ (s.sequencer d).idx.getD 0 + 1 < passLen (s.sequencer d) :=
  ⟨withSeq 1 (fun q => { q with fresh := false, entry := ⟨0, 4, 0, 0⟩ }) (seqIn 1 3 run), 1, by decide +kernel⟩

theorem witness_SequencerEventRowsComplete_3 : ∃ (s : State) (d : Nat), d < 2 ∧ s.seqState d = 3 ∧ (s.sequencer d).fresh = true :=
  ⟨withSeq 1 (fun q => { q with fresh := true }) (seqIn 1 3 run), 1, by decide +kernel⟩

theorem witness_SequencerEventRowsComplete_4 : ∃ (s : State) (d : Nat), d < 2 ∧ s.seqState d = 3 ∧ (s.sequencer d).fresh = false ∧ passLen (s.sequencer d) ≤ (s.sequencer d).idx.getD 0 + 1 :=
  ⟨withSeq 1 (fun q => { q with fresh := false, idx := some 1000000 }) (seqIn 1 3 run), 1, by decide +kernel⟩

theorem witness_SequencerEventRowsComplete_5 : ∃ (s : State) (d : Nat) (n : Nat), d < 2 ∧ s.seqState d = 4 ∧ n = (((s.sequencer d).pinnedAt (s.rdN SEQ.PAD_SEG d)).map PinSeg.len).getD 0 * 64 :=
  ⟨seqIn 1 4 run, 1, 0, by decide +kernel⟩

theorem witness_SequencerEventRowsComplete_6 : ∃ (s : State) (d : Nat) (r : LoopRun), d < 2 ∧ s.seqState d ≠ 3 ∧ s.seqState d ≠ 4 ∧ driverRun s d = some r ∧ r.played < driverVectors :=
  ⟨withTst (fun t => { t with runs := [{ src := .sq 0, tag := 7, target := tgt 6 1, depth := 2, played := 4095 }] }) run, 1, { src := .sq 0, tag := 7, target := tgt 6 1, depth := 2, played := 4095 }, by decide +kernel⟩

theorem witness_SequencerEventRowsComplete_7 : ∃ (s : State) (d : Nat) (j : Bool) (g : Nat), seqBusy s d = true ∧ fetchNext s d j = some g :=
  ⟨withSeq 1 (fun q => { q with segs := [(0, ⟨0, 4, 0, 0⟩)] }) (seqIn 1 1 run), 1, false, 0, by decide +kernel⟩

theorem witness_SequencerEventRowsComplete_8 : ∃ (s : State) (d : Nat) (t : Nat) (k : Nat), d < 2 ∧ (s.con (0x48 + 2 * d)).capt = some t ∧ (List.range 4).find? (fun k => s.seqSlotState d k == 2 && s.seqSlot SEQ.START_AT d k == 0) = some k :=
  ⟨withCapt 0x4A (run.setSeqSlot 1 3 2), 1, 0, 3, by decide +kernel⟩

theorem witness_SequencerEventRowsComplete_9 : ∃ (s : State) (d : Nat) (t : Nat), d < 2 ∧ (s.con (0x49 + 2 * d)).capt = some t ∧ seqPlays s d = true :=
  ⟨withCapt 0x4B (seqIn 1 3 run), 1, 0, by decide +kernel⟩

theorem witness_SequencerEventRowsComplete_10 : ∃ (s : State) (d : Nat), (s.sequencer d).jevs ≠ [] ∧ seqPlays s d = true :=
  ⟨withSeq 1 (fun q => { q with jevs := [(63, 0)] }) (seqIn 1 3 run), 1, by decide +kernel⟩

theorem witness_SequencerEventRowsComplete_11 : ∃ (s : State) (d : Nat) (k : Nat), d < 2 ∧ k < 4 ∧ s.seqSlotState d k = 2 ∧ s.seqSlot SEQ.START_AT d k ≠ 0 ∧ s.seqSlot SEQ.START_AT d k ≤ s.now :=
  ⟨at_ 125 ((run.wr SEQ.START_AT 1 3 125).setSeqSlot 1 3 2), 1, 3, by decide +kernel⟩

theorem witness_TimebaseEventRowsComplete_0 : ∃ (s : State), s.pwr.lull ≠ 3 :=
  ⟨run, by decide +kernel⟩

theorem witness_TimebaseEventRowsComplete_1 : ∃ (s : State) (err : Int), 4 * lockWin s < iabs err ∧ s.tbState = 2 :=
  ⟨run, 1000001, by decide +kernel⟩

theorem witness_TimebaseEventRowsComplete_2 : ∃ (s : State), (s.tbState = 3 ∨ s.tbState = 4) ∧ s.tb.present = true ∧ s.rd TB.AUTO_RELOCK = 1 ∧ s.pwr.lull ≠ 3 ∧ s.tb.halted = false ∧ max s.tb.enteredAt s.tb.since + 1000000 * s.rdN TB.REF_QUAL ≤ s.clock :=
  ⟨withTb (fun t => { t with present := true }) (at_ 10000000000 ((tbIn 4 run).put TB.AUTO_RELOCK 0 1)), by decide +kernel⟩

theorem witness_TimebaseEventRowsComplete_3 : ∃ (s : State) (b : Nat), s.tbState = 0 ∧ s.pwr.lull ≠ 3 ∧ s.tb.halted = false ∧ b < 32 :=
  ⟨tbIn 0 run, 31, by decide +kernel⟩

theorem witness_TimebaseEventRowsComplete_4 : ∃ (s : State), s.tbState = 0 ∧ s.pwr.lull ≠ 3 ∧ s.tb.halted = false :=
  ⟨tbIn 0 run, by decide +kernel⟩

theorem witness_TimebaseEventRowsComplete_5 : ∃ (s : State) (err : Int), s.tbState = 1 ∧ iabs err ≤ lockWin s ∧ s.pwr.lull ≠ 3 ∧ s.tb.halted = false :=
  ⟨tbIn 1 run, 0, by decide +kernel⟩

theorem witness_TimebaseEventRowsComplete_6 : ∃ (s : State), (s.tbState = 0 ∨ s.tbState = 1) ∧ s.tb.enteredAt + 1000000 * s.rdN TB.LOCK_TIMEOUT ≤ s.clock ∧ s.pwr.lull ≠ 3 ∧ s.tb.halted = false :=
  ⟨at_ 100000000000 (tbIn 1 run), by decide +kernel⟩

theorem witness_TimebaseEventRowsComplete_7 : ∃ (s : State) (t : Nat), s.tb.budget = some t ∧ t ≤ s.clock ∧ s.tbState ≠ 2 :=
  ⟨withTb (fun t => { t with budget := some 0 }) (tbIn 3 run), 0, by decide +kernel⟩

theorem witness_TimebaseEventRowsComplete_8 : ∃ (s : State), s.tbState = 3 ∧ s.tb.enteredAt + 1000000000 ≤ s.clock ∧ s.tb.holdDac = false :=
  ⟨at_ 1000000000 (tbIn 3 run), by decide +kernel⟩

theorem witness_TimebaseEventRowsComplete_10 : ∃ (s : State), s.tb.present = false ∧ s.tb.injTill ≤ s.clock :=
  ⟨withTb (fun t => { t with present := false }) run, by decide +kernel⟩

theorem witness_TimebaseEventRowsComplete_11 : ∃ (s : State) (r : PhaseRun) (l : List PhaseRun), s.tb.phase = r :: l ∧ iabs r.left ≤ 1 :=
  ⟨withTb (fun t => { t with phase := [⟨.sq 0, 7, 1, 0⟩] }) run, ⟨.sq 0, 7, 1, 0⟩, [], by decide +kernel⟩

theorem witness_TimebaseEventRowsComplete_12 : ∃ (s : State) (r : PhaseRun) (l : List PhaseRun), s.tb.phase = r :: l ∧ 1 < iabs r.left :=
  ⟨withTb (fun t => { t with phase := [⟨.sq 0, 7, -2, 0⟩] }) run, ⟨.sq 0, 7, -2, 0⟩, [], by decide +kernel⟩

theorem witness_TimebaseCommandsComplete_0 : ∃ (s : State) (p : Pkt), accepted (.tbCommit p) s ∧ tbValid (shadowCopy s) = true ∧ movesVco (activeCopy s) (shadowCopy s) = false ∧ s.tbState ≠ 4 :=
  ⟨sending (pq 0x0501 [0, 0]) (run), pq 0x0501 [0, 0], by rw [accepted_iff]; decide +kernel⟩

theorem witness_TimebaseCommandsComplete_1 : ∃ (s : State) (p : Pkt), accepted (.tbCommit p) s ∧ tbValid (shadowCopy s) = true ∧ movesVco (activeCopy s) (shadowCopy s) = false ∧ s.tbState = 4 :=
  ⟨sending (pq 0x0501 [0, 0]) (tbIn 4 run), pq 0x0501 [0, 0], by rw [accepted_iff]; decide +kernel⟩

theorem witness_TimebaseCommandsComplete_2 : ∃ (s : State) (p : Pkt), accepted (.tbCommit p) s ∧ tbValid (shadowCopy s) = true ∧ movesVco (activeCopy s) (shadowCopy s) = true ∧ relockBarred s p = false ∧ (activeCopy s).getD 0 0 = (shadowCopy s).getD 0 0 :=
  ⟨sending (pq 0x0501 [0, 0]) (run.put TB.REF_FREQ 0 20000000), pq 0x0501 [0, 0], by rw [accepted_iff]; decide +kernel⟩

theorem witness_TimebaseCommandsComplete_3 : ∃ (s : State) (p : Pkt), accepted (.tbRelock p) s ∧ relockBarred s p = false :=
  ⟨sending (pq 0x0502 [0, 1]) (run), pq 0x0502 [0, 1], by rw [accepted_iff]; decide +kernel⟩

theorem witness_TimebaseCommandsComplete_4 : ∃ (s : State) (p : Pkt), accepted (.tbPhaseStep p) s ∧ sfld 32 (pw p 2) ≠ 0 ∧ iabs (sfld 32 (pw p 2)) ≤ 32767 ∧ s.tbState = 2 ∧ s.rd TB.TIME_OWNER ≠ 1 :=
  ⟨sending (pq 0x0503 [0, 32767]) (run), pq 0x0503 [0, 32767], by rw [accepted_iff]; decide +kernel⟩

theorem witness_TimebaseCommandsComplete_5 : ∃ (s : State) (p : Pkt), accepted (.tbPhaseStep p) s ∧ sfld 32 (pw p 2) = 0 ∧ s.tbState = 2 ∧ s.rd TB.TIME_OWNER ≠ 1 :=
  ⟨sending (pq 0x0503 [0, 0]) (run), pq 0x0503 [0, 0], by rw [accepted_iff]; decide +kernel⟩

theorem witness_TimebaseCommandsComplete_6 : ∃ (s : State) (p : Pkt), accepted (.tbTimeSet p) s ∧ pw64 p 2 % 125 = 0 ∧ s.rd TB.TIME_OWNER ≠ 1 ∧ armedAtTime s = false :=
  ⟨sending (pq 0x0504 [0, 125]) (run), pq 0x0504 [0, 125], by rw [accepted_iff]; decide +kernel⟩

theorem witness_FabricEventRowsComplete_0 : ∃ (s : State) (ch : Nat) (t : Nat) (p : Pulse) (a : Nat), nextPulse s ch t = some p ∧ a = p.leaves s t ∧ ((∀ b, (s.chan ch).raw = some b → a < b ∨ b + nsFine 1 ≤ a)) :=
  ⟨withEvf (fun e => { e with lines := [⟨63, false, false, none, none⟩] }) run, 63, 0, ⟨63, false, false, none, none⟩, (⟨63, false, false, none, none⟩ : Pulse).leaves run 0, by decide +kernel, by decide +kernel, (fun b h => nomatch ((by decide +kernel : ((withEvf (fun e => { e with lines := [⟨63, false, false, none, none⟩] }) run).chan 63).raw = none).symm.trans h))⟩

theorem witness_FabricEventRowsComplete_1 : ∃ (s : State) (ch : Nat) (t : Nat) (p : Pulse) (a : Nat) (b : Nat), nextPulse s ch t = some p ∧ a = p.leaves s t ∧ (s.chan ch).raw = some b ∧ b ≤ a ∧ a < b + nsFine 1 :=
  ⟨(withEvf (fun e => { e with lines := [⟨63, false, false, none, none⟩] }) run).setChan 63 { run.chan 63 with raw := some 0 }, 63, 65535, ⟨63, false, false, none, none⟩, (⟨63, false, false, none, none⟩ : Pulse).leaves run 65535, 0, by decide +kernel⟩

theorem witness_FabricEventRowsComplete_2 : ∃ (s : State), s.evf.winAt + 10000 ≤ s.clock :=
  ⟨at_ 10000 run, by decide +kernel⟩

theorem witness_FabricEventRowsComplete_3 : ∃ (s : State) (g : Nat) (t : Nat), g < 8 ∧ 0 < (s.ticker g).period ∧ t % (s.ticker g).period = (s.ticker g).phase % (s.ticker g).period ∧ s.now ≤ t ∧ t < s.now + 125 ∧ (s.ticker g).last = none :=
  ⟨run.setTicker 7 { period := 8 }, 7, 0, by decide +kernel⟩

theorem witness_FabricEventRowsComplete_4 : ∃ (s : State) (n : Nat) (rising : Bool), n < 8 ∧ bit (s.rdN EVF.TRIG_CTL 0 n) 31 = false ∧ bit (s.rdN EVF.TRIG_CTL 0 n) (if rising then 29 else 30) = true :=
  ⟨run.wr EVF.TRIG_CTL 0 7 (2 ^ 29), 7, true, by decide +kernel⟩

theorem witness_FabricEventRowsComplete_5 : ∃ (s : State) (n : Nat) (e : EddyEdge), (s.cell n).edge = some e ∧ e.at_ + eddyFilt (s.rdN EVF.EDDY_CTL 0 n) < cycleEnd s ∧ (s.cell n).ends = [] :=
  ⟨run.setCell 31 { edge := some ⟨true, 0⟩ }, 31, ⟨true, 0⟩, by decide +kernel⟩

theorem witness_FabricEventRowsComplete_6 : ∃ (s : State) (n : Nat) (i : Nat) (t : Nat), Bank.find i (s.cell n).ends = some t ∧ t < cycleEnd s :=
  ⟨run.setCell 31 { ends := [(3, 0)] }, 31, 3, 0, by decide +kernel⟩

theorem witness_FabricEventRowsComplete_7 : ∃ (s : State) (sev : Nat) (r : Release), nextRelease s sev = some r ∧ r.due < nsFine (s.now + 125) ∧ 0 ≤ s.rd EVF.SEV_IN 0 sev ∧ s.rd EVF.SEV_IN 0 sev < 64 :=
  ⟨(withEvf (fun e => { e with releases := [⟨15, 0, 0⟩] }) run).wr EVF.SEV_IN 0 15 63, 15, ⟨15, 0, 0⟩, by decide +kernel⟩

theorem witness_FabricEventRowsComplete_8 : ∃ (s : State) (ch : Nat) (t : Nat) (rest : List (Nat × Nat)), s.evf.echoDue = (ch, t) :: rest ∧ t < cycleEnd s :=
  ⟨withEvf (fun e => { e with echoDue := [(63, 0)] }) run, 63, 0, [], by decide +kernel⟩

theorem witness_FabricCommandsComplete_0 : ∃ (s : State) (p : Pkt), accepted (.fabricArm p) s ∧ s.evfMode = 1 :=
  ⟨sending (pq 0x0601 []) (run.put EVF.MODE 0 1), pq 0x0601 [], by rw [accepted_iff]; decide +kernel⟩

theorem witness_FabricCommandsComplete_1 : ∃ (s : State) (p : Pkt), accepted (.fabricArm p) s ∧ s.evfMode ≠ 1 ∧ s.evfMode ≠ 2 ∧ s.rd EVF.LOOP_CH = 0xFF :=
  ⟨sending (pq 0x0601 []) ((run.put EVF.MODE 0 0).put EVF.LOOP_CH 0 0xFF), pq 0x0601 [], by rw [accepted_iff]; decide +kernel⟩

theorem witness_FabricCommandsComplete_2 : ∃ (s : State) (p : Pkt), accepted (.evfTestEnter p) s ∧ lcFor s p ≠ 4 ∧ s.evfMode ≠ 2 ∧ s.evfMode ≠ 3 :=
  ⟨sending (pq 0x0602 []) (run.put EVF.MODE 0 1), pq 0x0602 [], by rw [accepted_iff]; decide +kernel⟩

theorem witness_FabricCommandsComplete_3 : ∃ (s : State) (p : Pkt), accepted (.evfTestExit p) s ∧ s.evfMode = 2 :=
  ⟨sending (pq 0x0603 []) (run.put EVF.MODE 0 2), pq 0x0603 [], by rw [accepted_iff]; decide +kernel⟩

theorem witness_FabricCommandsComplete_4 : ∃ (s : State) (p : Pkt), accepted (.eventFire p) s :=
  ⟨sending (pq 0x0604 [0, 0xFFFFFFFF, 0xFFFFFFFF]) (run), pq 0x0604 [0, 0xFFFFFFFF, 0xFFFFFFFF], by rw [accepted_iff]; decide +kernel⟩

theorem witness_FabricCommandsComplete_5 : ∃ (s : State) (p : Pkt), accepted (.evfClear p) s :=
  ⟨sending (pq 0x0605 []) (run), pq 0x0605 [], by rw [accepted_iff]; decide +kernel⟩

theorem witness_FabricCommandsComplete_6 : ∃ (s : State) (p : Pkt) (wr : Option HostFault), accepted (.cuRead p wr) s ∧ pw p 2 ≤ 15 ∧ 1 ≤ pw p 5 ∧ pw p 5 ≤ 16 ∧ pw p 3 % 16 = 0 ∧ (s.cu (pw p 2)).length ≤ leaving s (pw p 2) :=
  ⟨sending (pq 0x0606 [0, 15, 0, 0, 16]) (run), pq 0x0606 [0, 15, 0, 0, 16], none, by rw [accepted_iff]; decide +kernel⟩

theorem witness_FabricCommandsComplete_7 : ∃ (s : State) (p : Pkt) (wr : Option HostFault) (got : List Quad), accepted (.cuRead p wr) s ∧ pw p 2 ≤ 15 ∧ 1 ≤ pw p 5 ∧ pw p 5 ≤ 16 ∧ pw p 3 % 16 = 0 ∧ leaving s (pw p 2) < (s.cu (pw p 2)).length ∧ got = ((s.cu (pw p 2)).drop (leaving s (pw p 2))).take (pw p 5) :=
  ⟨sending (pq 0x0606 [0, 15, 0, 0, 16]) (run.setCu 15 [⟨0, 0, 0, 0⟩]), pq 0x0606 [0, 15, 0, 0, 16], none, [⟨0, 0, 0, 0⟩], by rw [accepted_iff]; decide +kernel⟩

theorem witness_QueueRegisterRowsComplete_0 : ∃ (s : State) (q : Nat) (v : Nat), q < 64 ∧ s.barOpen = true ∧ (s.sq q).enable = true ∧ v % 4096 ≤ (s.sq q).size :=
  ⟨run.setSq 63 { enable := true, size := 4095 }, 63, 4095, by decide +kernel⟩

theorem witness_QueueRegisterRowsComplete_1 : ∃ (s : State) (q : Nat) (v : Nat), q < 64 ∧ s.barOpen = true ∧ ((s.sq q).enable = false ∨ (s.sq q).size < v % 4096) :=
  ⟨run.setSq 63 { enable := true, size := 4094 }, 63, 4095, by decide +kernel⟩

theorem witness_QueueRegisterRowsComplete_2 : ∃ (s : State) (q : Nat) (v : Nat), q < 64 ∧ s.barOpen = true ∧ (s.cq q).enable = true ∧ v % 4096 ≤ (s.cq q).size ∧ (v % 4096 + ((s.cq q).size + 1) - (s.cq q).head) % ((s.cq q).size + 1) ≤ ((s.cq q).tail + ((s.cq q).size + 1) - (s.cq q).head) % ((s.cq q).size + 1) :=
  ⟨run.setCq 63 { enable := true, size := 4095, tail := 5 }, 63, 5, by decide +kernel⟩

theorem witness_QueueRegisterRowsComplete_3 : ∃ (s : State) (q : Nat) (v : Nat), q < 64 ∧ s.barOpen = true ∧ ((s.cq q).enable = false ∨ (s.cq q).size < v % 4096) :=
  ⟨run, 63, 0, by decide +kernel⟩

theorem witness_QueueRegisterRowsComplete_4 : ∃ (s : State) (q : Nat), q < 64 ∧ s.barOpen = true ∧ (s.cq (s.sq q).cq).enable = true ∧ (s.sq q).enable = false :=
  ⟨run.setCq 0 { enable := true }, 63, by decide +kernel⟩

theorem witness_QueueRegisterRowsComplete_5 : ∃ (s : State) (q : Nat), q < 64 ∧ s.barOpen = true ∧ (s.cq (s.sq q).cq).enable = false :=
  ⟨run, 63, by decide +kernel⟩

theorem witness_QueueRegisterRowsComplete_6 : ∃ (s : State) (q : Nat), q < 64 ∧ s.barOpen = true ∧ (s.sq q).enable = true :=
  ⟨run.setSq 63 { enable := true }, 63, by decide +kernel⟩

theorem witness_QueueRegisterRowsComplete_7 : ∃ (s : State) (q : Nat), q < 64 ∧ s.barOpen = true ∧ (s.cq q).enable = false :=
  ⟨run, 63, by decide +kernel⟩

theorem witness_QueueRegisterRowsComplete_8 : ∃ (s : State) (q : Nat), q < 64 ∧ s.barOpen = true ∧ (s.cmd.sqs.any fun e => e.2.enable && e.2.cq == q) = true :=
  ⟨run.setSq 0 { enable := true, cq := 63 }, 63, by decide +kernel⟩

theorem witness_QueueRegisterRowsComplete_9 : ∃ (s : State) (q : Nat), q < 64 ∧ s.barOpen = true ∧ (s.cmd.sqs.any fun e => e.2.enable && e.2.cq == q) = false ∧ (s.cq q).pend = [] :=
  ⟨run, 63, by decide +kernel⟩

theorem witness_CommandPathRowsComplete_0 : ∃ (s : State) (n : Nat) (u : State) (va : Nat) (pa : Nat), ¬ (s.cmd.mbxWaiting = true ∧ mayFetch s false = true) ∧ nextSq s = some n ∧ s.dmaOpen = true ∧ u = { s with cmd := { s.cmd with lastSq := Bank.set (fun _ => 63) s.cmd.lastSq (s.sq n).qprio n } } ∧ va = (s.sq n).base + 64 * (s.sq n).head ∧ inFlight s + fetchingNow s ≤ 4096 ∧ ((s.rd XLT.MODE n = 0 ∧ pa = va) ∨ reachBus u (.ring n) n va false = .go pa) :=
  ⟨run.setSq 63 { enable := true, size := 4095, tail := 1 }, 63, { run.setSq 63 { enable := true, size := 4095, tail := 1 } with cmd := { (run.setSq 63 { enable := true, size := 4095, tail := 1 }).cmd with lastSq := Bank.set (fun _ => 63) (run.setSq 63 { enable := true, size := 4095, tail := 1 }).cmd.lastSq ((run.setSq 63 { enable := true, size := 4095, tail := 1 }).sq 63).qprio 63 } }, 0, 0, by decide +kernel, by decide +kernel, by decide +kernel, rfl, by decide +kernel, by decide +kernel, Or.inl (by decide +kernel)⟩

theorem witness_CommandPathRowsComplete_1 : ∃ (s : State), s.cmd.mbxWaiting = true ∧ mayFetch s false = true :=
  ⟨withCmd (fun c => { c with mbxWaiting := true }) run, by decide +kernel⟩

theorem witness_CommandPathRowsComplete_2 : ∃ (s : State) (q : Nat) (ps : List (List Nat)) (fault : Option HostFault), q < 64 ∧ 0 < (s.sq q).fetching ∧ ps.length = (s.sq q).fetching ∧ fault = none :=
  ⟨run.setSq 63 { fetching := 1 }, 63, [[0x70001]], none, by decide +kernel⟩

theorem witness_CommandPathRowsComplete_3 : ∃ (s : State) (q : Nat), q < 64 ∧ 0 < (s.sq q).fetching ∧ (s.sq q).enable = true ∧ (s.sq q).fault = false :=
  ⟨run.setSq 63 { fetching := 1, enable := true }, 63, by decide +kernel⟩

theorem witness_CommandPathRowsComplete_4 : ∃ (s : State) (o : Op), stopped s .cmd = false ∧ s.tst.extest = false ∧ nextOp s = some o ∧ listedOpcode (pOpcode o.pkt) = true ∧ ((immediateSq s o.pkt = true → immediateOk (pOpcode o.pkt) = true)) :=
  ⟨withCmd (fun c => { c with ops := [⟨pq 1 [], .waiting⟩] }) run, ⟨pq 1 [], .waiting⟩, by decide +kernel⟩

theorem witness_CommandPathRowsComplete_5 : ∃ (s : State) (o : Op), stopped s .cmd = false ∧ s.tst.extest = false ∧ nextOp s = some o ∧ listedOpcode (pOpcode o.pkt) = false ∧ immediateSq s o.pkt = false :=
  ⟨withCmd (fun c => { c with ops := [⟨pq 0xFF [], .waiting⟩] }) run, ⟨pq 0xFF [], .waiting⟩, by decide +kernel⟩

theorem witness_CommandPathRowsComplete_6 : ∃ (s : State) (q : Nat) (n : Nat) (c : Cpl) (rest : List Cpl) (pa : Nat) (va : Nat), (s.cq q).pend = c :: rest ∧ c.src = .sq n ∧ (s.cq q).enable = true ∧ (s.cq q).fault = false ∧ s.dmaOpen = true ∧ q < 64 ∧ cqRoom (s.cq q) = true ∧ awaits s (.post q) q = false ∧ va = (s.cq q).base + 32 * (s.cq q).tail ∧ ((s.rd XLT.MODE q = 0 ∧ pa = va) ∨ reachBus s (.post q) q va true = .go pa) :=
  ⟨run.setCq 63 { enable := true, size := 1, pend := [⟨.sq 63, 7, 0, [], 0, true, false, none⟩] }, 63, 63, ⟨.sq 63, 7, 0, [], 0, true, false, none⟩, [], 0, 0, by decide +kernel, by decide +kernel, by decide +kernel, by decide +kernel, by decide +kernel, by decide +kernel, by decide +kernel, by decide +kernel, by decide +kernel, Or.inl (by decide +kernel)⟩

theorem witness_CommandPathRowsComplete_7 : ∃ (s : State) (q : Nat), (s.cq q).pend ≠ [] ∧ (s.cq q).enable = true ∧ (s.cq q).fault = false ∧ s.dmaOpen = true ∧ q < 64 ∧ awaits s (.post q) q = false ∧ cqRoom (s.cq q) = false :=
  ⟨run.setCq 63 { enable := true, size := 1, tail := 1, pend := [{ src := .sq 63, tag := 7, status := 0, res := [], time := 0, owns := true }] }, 63, by decide +kernel⟩

theorem witness_CommandPathRowsComplete_8 : ∃ (s : State) (q : Nat), q < 64 ∧ (s.cq q).irqEn = true ∧ 0 < (s.cq q).unsig ∧ (s.cq q).unsigAt + 1000 * 2 ^ (s.cq q).coalTime ≤ s.clock :=
  ⟨(at_ 1000 run).setCq 63 { irqEn := true, unsig := 1 }, 63, by decide +kernel⟩

theorem witness_CommandPathRowsComplete_9 : ∃ (s : State), s.barOpen = true ∧ s.cmd.mbxBusy = false ∧ mayFetch s false = true :=
  ⟨run, by decide +kernel⟩

theorem witness_CommandPathRowsComplete_10 : ∃ (s : State), s.barOpen = true ∧ s.cmd.mbxBusy = true :=
  ⟨withCmd (fun c => { c with mbxBusy := true }) run, by decide +kernel⟩

theorem witness_CommonCommandsComplete_0 : ∃ (s : State) (p : Pkt), accepted (.nop p) s :=
  ⟨sending (pq 1 []) (run), pq 1 [], by rw [accepted_iff]; decide +kernel⟩

theorem witness_CommonCommandsComplete_1 : ∃ (s : State) (p : Pkt) (ws : List Nat), accepted (.identify p) s ∧ identityPage s (pw p 2) = some ws :=
  ⟨sending (pq 2 [0, 2]) (run), pq 2 [0, 2], [4096 * 65536 + 64, 4096, 65536, 64], by rw [accepted_iff]; decide +kernel⟩

theorem witness_CommonCommandsComplete_2 : ∃ (s : State) (p : Pkt) (d : HostData) (wr : Option HostFault) (r : PRef), accepted (.paramGet p d wr) s ∧ pPtr p = false ∧ findPrm (pw p 1) = some r ∧ stopped s (islandOf r.prm.blk r.inst) = false :=
  ⟨sending (pq 3 [TB.AUTO_RELOCK.id 0 0]) (run), pq 3 [TB.AUTO_RELOCK.id 0 0], .words [], none, ⟨TB.AUTO_RELOCK, 0, 0⟩, by rw [accepted_iff]; decide +kernel⟩

theorem witness_CommonCommandsComplete_3 : ∃ (s : State) (p : Pkt) (d : HostData) (wr : Option HostFault) (ws : List Nat) (out : List Nat), accepted (.paramGet p d wr) s ∧ pPtr p = true ∧ pw p 5 % 16 = 0 ∧ hostGives s p d ws ∧ ((∀ k i, i < pw p 4 / 4 → k = (pad (pw p 4 / 4) ws).getD i 0 → ∃ r, findPrm k = some r ∧ stopped s (islandOf r.prm.blk r.inst) = false)) ∧ out = (pad (pw p 4 / 4) ws).flatMap (fun k => match findPrm k with | some r => valueWords (readPrm s r) | none => []) :=
  ⟨given (pp 3 [0, 0, 0, 4, 0, 0]) (run), pp 3 [0, 0, 0, 4, 0, 0], .words [TB.AUTO_RELOCK.id 0 0], none, [TB.AUTO_RELOCK.id 0 0], valueWords (run.rd TB.AUTO_RELOCK), by rw [accepted_iff]; decide +kernel, by decide, by decide, by rw [hostGives_iff]; decide +kernel, (fun k i hi hk => ⟨prm (TB.AUTO_RELOCK.id 0 0), by obtain rfl : i = 0 := Nat.lt_one_iff.mp hi; subst hk; decide +kernel⟩), by decide +kernel⟩

theorem witness_CommonCommandsComplete_4 : ∃ (s : State) (p : Pkt) (d : HostData) (r : PRef) (v : Int), accepted (.paramSet p d) s ∧ pPtr p = false ∧ findPrm (pw p 1) = some r ∧ storesOnly r = true ∧ r.prm.acc = .rw ∧ stopped s (islandOf r.prm.blk r.inst) = false ∧ decodeValue r.prm (rawValue (p.words.drop 2)) = some v ∧ r.prm.accepts v = true :=
  ⟨sending (pq 4 [TB.AUTO_RELOCK.id 0 0, 1]) (run), pq 4 [TB.AUTO_RELOCK.id 0 0, 1], .words [], prm (TB.AUTO_RELOCK.id 0 0), 1, by rw [accepted_iff]; decide +kernel⟩

theorem witness_CommonCommandsComplete_5 : ∃ (s : State) (p : Pkt) (d : HostData) (t : State), accepted (.paramSet p d) s ∧ pPtr p = false ∧ applyWrites s (lcFor s p) [(pw p 1, rawValue (p.words.drop 2))] = .ok (t, 0) :=
  ⟨sending (pq 4 [TB.AUTO_RELOCK.id 0 0, 1]) (run), pq 4 [TB.AUTO_RELOCK.id 0 0, 1], .words [], wrote (applyWrites (sending (pq 4 [TB.AUTO_RELOCK.id 0 0, 1]) run) (lcFor (sending (pq 4 [TB.AUTO_RELOCK.id 0 0, 1]) run) (pq 4 [TB.AUTO_RELOCK.id 0 0, 1])) [(TB.AUTO_RELOCK.id 0 0, 1)]), by rw [accepted_iff]; decide +kernel, by decide, wrote_eq (by decide +kernel)⟩

theorem witness_CommonCommandsComplete_6 : ∃ (s : State) (p : Pkt) (d : HostData) (t : State) (n : Nat), accepted (.paramSet p d) s ∧ pPtr p = false ∧ 0 < n ∧ applyWrites s (lcFor s p) [(pw p 1, rawValue (p.words.drop 2))] = .ok (t, n) :=
  ⟨sending (pq 4 [FCH.SETPOINT.id 127 0, 1398101]) (onFv 127 run), pq 4 [FCH.SETPOINT.id 127 0, 1398101], .words [], wrote (applyWrites (sending (pq 4 [FCH.SETPOINT.id 127 0, 1398101]) (onFv 127 run)) (lcFor (sending (pq 4 [FCH.SETPOINT.id 127 0, 1398101]) (onFv 127 run)) (pq 4 [FCH.SETPOINT.id 127 0, 1398101])) [(FCH.SETPOINT.id 127 0, 1398101)]), 34, by rw [accepted_iff]; decide +kernel, by decide, by decide, wrote_eq (by decide +kernel)⟩

theorem witness_CommonCommandsComplete_7 : ∃ (s : State) (p : Pkt) (d : HostData) (ws : List Nat) (t : State), accepted (.paramSet p d) s ∧ pPtr p = true ∧ hostGives s p d ws ∧ (∀ e ∈ listEntries (pw p 4 / 24) ws, e.2.1 = true) ∧ applyWrites s (lcFor s p) ((listEntries (pw p 4 / 24) ws).map fun e => (e.1, e.2.2)) = .ok (t, 0) :=
  ⟨given (pp 4 [0, 0, 0, 24]) (run), pp 4 [0, 0, 0, 24], .words [TB.AUTO_RELOCK.id 0 0, 0, 1], [TB.AUTO_RELOCK.id 0 0, 0, 1], wrote (applyWrites (given (pp 4 [0, 0, 0, 24]) run) (lcFor (given (pp 4 [0, 0, 0, 24]) run) (pp 4 [0, 0, 0, 24])) [(TB.AUTO_RELOCK.id 0 0, 1)]), by rw [accepted_iff]; decide +kernel, by decide, by rw [hostGives_iff]; decide +kernel, by decide, wrote_eq (by decide +kernel)⟩

theorem witness_CommonCommandsComplete_8 : ∃ (s : State) (p : Pkt) (c : Nat) (v : Int) (u : State), accepted (.setNow p) s ∧ setpointChan (pw p 1) = some c ∧ v = sfld 24 (pw p 2) ∧ toField 32 v = pw p 2 ∧ iabs v ≤ 4194304 ∧ stopped s (chanIsland c) = false ∧ owned s c = false ∧ (shedding s = false ∨ iabs v ≤ iabs (s.setpoint c)) ∧ r71Holds s c (s.onMode c) v (s.rdN FCH.VRANGE c) = true ∧ (128 ≤ c ∨ (iabs v).toNat ≤ ceilingOf s c) ∧ u = s.cput FCH.SETPOINT HVC.SETPOINT c v :=
  ⟨sending (pq 0x0201 [0x04003002, 4194304]) (run), pq 0x0201 [0x04003002, 4194304], 131, 4194304, (sending (pq 0x0201 [0x04003002, 4194304]) run).cput FCH.SETPOINT HVC.SETPOINT 131 4194304, by rw [accepted_iff]; decide +kernel⟩

theorem witness_CommonCommandsComplete_9 : ∃ (s : State) (p : Pkt) (ns : List Nat), accepted (.trigger p) s ∧ ns = (maskBits 17 (pw p 2)).map (0x50 + ·) ++ (maskBits 17 (pw p 3)).map (4 * ·) ++ (maskBits 2 (pw p 4)).map (0x48 + 2 * ·) ∧ ((∀ n, n ∈ ns → conStopped s n = false)) :=
  ⟨sending (pq 0x0202 [0, 0x1FFFF, 0x1FFFF, 3]) (run), pq 0x0202 [0, 0x1FFFF, 0x1FFFF, 3], (maskBits 17 0x1FFFF).map (0x50 + ·) ++ (maskBits 17 0x1FFFF).map (4 * ·) ++ (maskBits 2 3).map (0x48 + 2 * ·), by rw [accepted_iff]; decide +kernel⟩

theorem witness_CommonCommandsComplete_10 : ∃ (s : State) (p : Pkt) (n : Nat), accepted (.trigger p) s ∧ n ∈ (maskBits 17 (pw p 2)).map (0x50 + ·) ++ (maskBits 17 (pw p 3)).map (4 * ·) ++ (maskBits 2 (pw p 4)).map (0x48 + 2 * ·) ∧ conStopped s n = true :=
  ⟨sending (pq 0x0202 [0, 0, 0, 2]) (run.setWin 6 1 { fatal := true }), pq 0x0202 [0, 0, 0, 2], 0x4A, by rw [accepted_iff]; decide +kernel⟩

theorem witness_CommonCommandsComplete_11 : ∃ (s : State) (p : Pkt), accepted (.abort p) s ∧ bit (pw p 4) 31 = false ∧ ((∀ e, e ∈ maskBits 17 (pw p 2) → stopped s (engineIsland e) = false)) ∧ ((∀ d, d ∈ maskBits 2 (pw p 3) → stopped s (.seq d) = false)) :=
  ⟨sending (pq 0x0203 [0, 0x1FFFF, 3]) (run), pq 0x0203 [0, 0x1FFFF, 3], by rw [accepted_iff]; decide +kernel⟩

theorem witness_CommonCommandsComplete_12 : ∃ (s : State) (p : Pkt), accepted (.abort p) s ∧ ((∃ e, e ∈ maskBits 17 (pw p 2) ∧ stopped s (engineIsland e) = true) ∨ (∃ d, d ∈ maskBits 2 (pw p 3) ∧ stopped s (.seq d) = true)) :=
  ⟨sending (pq 0x0203 [0, 0x1FFFF, 3]) (run.setWin 6 1 { fatal := true }), pq 0x0203 [0, 0x1FFFF, 3], by rw [accepted_iff]; decide +kernel, Or.inr ⟨1, by decide +kernel⟩⟩

theorem witness_CommonCommandsComplete_13 : ∃ (s : State) (p : Pkt) (src : Src) (tag : Nat) (t : State), accepted (.abort p) s ∧ pw p 2 = 0 ∧ pw p 3 = 0 ∧ abortTarget p = some (src, tag) ∧ abortOp s src tag = some t :=
  ⟨sending (pq 0x0203 [0, 0, 0, 0x80001005]) (withCmd (fun c => { c with ops := [⟨⟨.sq 1, [0x50001]⟩, .waiting⟩] }) run), pq 0x0203 [0, 0, 0, 0x80001005], .sq 1, 5, (abortOp (sending (pq 0x0203 [0, 0, 0, 0x80001005]) (withCmd (fun c => { c with ops := [⟨⟨.sq 1, [0x50001]⟩, .waiting⟩] }) run)) (.sq 1) 5).getD run, by rw [accepted_iff]; decide +kernel, by decide, by decide, by decide, some_getD (by decide +kernel)⟩

theorem witness_CommonCommandsComplete_14 : ∃ (s : State) (p : Pkt) (blk : Nat) (inst : Nat), accepted (.statusRead p) s ∧ pw p 1 = blk * 0x1000000 + inst * 0x1000 ∧ inst < 0x1000 ∧ winExists blk inst = true ∧ stopped s (islandOf blk inst) = false :=
  ⟨sending (pq 0x0204 [tgt 5 255]) (run), pq 0x0204 [tgt 5 255], 5, 255, by rw [accepted_iff]; decide +kernel⟩

theorem witness_CommonCommandsComplete_15 : ∃ (s : State) (p : Pkt) (c : Nat) (t : State), accepted (.nowReserve p) s ∧ targetInst p 1 = some c ∧ pw p 2 ≤ 4194304 ∧ stopped s (chanIsland c) = false ∧ t = { s with cmd := { s.cmd with ceilings := Bank.set (fun _ => 0) s.cmd.ceilings c (pw p 2) } } ∧ budgetAllows s (t.setCh c (t.ch c)) c :=
  ⟨sending (pq 0x0205 [tgt 1 127, 4194304]) (run), pq 0x0205 [tgt 1 127, 4194304], 127, withCmd (fun c => { c with ceilings := Bank.set (fun _ => 0) c.ceilings 127 4194304 }) (sending (pq 0x0205 [tgt 1 127, 4194304]) run), by rw [accepted_iff]; unfold budgetAllows; decide +kernel⟩

theorem witness_HostLinkRowsComplete_0 : ∃ (s : State), linkAsleep s = false :=
  ⟨run, by decide +kernel⟩

theorem witness_HostLinkRowsComplete_1 : ∃ (s : State), linkAsleep s = false ∧ s.hl.link = .up :=
  ⟨run, by decide +kernel⟩

theorem witness_HostLinkRowsComplete_2 : ∃ (s : State) (w : SoftReset), (w = .hotReset ∨ w = .dlDown) ∧ linkAsleep s = false ∧ (s.hl.link = .up ∨ s.hl.link = .training) :=
  ⟨run, .dlDown, by decide +kernel⟩

theorem witness_HostLinkRowsComplete_3 : ∃ (s : State), linkAsleep s = true :=
  ⟨{ run with pwr := { run.pwr with lull := 3 } }, by decide +kernel⟩

theorem witness_HostLinkRowsComplete_4 : ∃ (s : State), linkAsleep s = false ∧ s.hl.perst = true :=
  ⟨withHl (fun h => { h with perst := true }) run, by decide +kernel⟩

theorem witness_HostLinkRowsComplete_5 : ∃ (s : State), s.hl.flr = true :=
  ⟨withHl (fun h => { h with flr := true }) run, by decide +kernel⟩

theorem witness_HostLinkRowsComplete_6 : ∃ (s : State) (speed : Nat) (width : Nat), s.hl.link = .training ∧ speed ∈ [3, 4, 5] ∧ width ∈ [1, 2, 4, 8] ∧ s.hl.perst = false ∧ s.tst.extest = false :=
  ⟨withHl (fun h => { h with link := .training }) run, 5, 8, by decide +kernel⟩

theorem witness_HostLinkRowsComplete_7 : ∃ (s : State), (s.hl.link = .up ∨ s.hl.link = .slave) :=
  ⟨run, by decide +kernel⟩

theorem witness_HostLinkRowsComplete_8 : ∃ (s : State), s.hl.link = .down ∧ s.hl.supplies = true ∧ s.hl.perst = false ∧ nearDue s = true :=
  ⟨(withHl (fun h => { h with link := .down }) run).put HL.LB_BOOT 0 2, by decide +kernel⟩

theorem witness_HostLinkRowsComplete_9 : ∃ (s : State), s.hl.link = .nearLoop ∧ s.hl.lbAt + nearTime s ≤ s.clock :=
  ⟨at_ 30000000 (withHl (fun h => { h with link := .nearLoop }) run), by decide +kernel⟩

theorem witness_HostLinkRowsComplete_10 : ∃ (s : State), (s.hl.link = .up ∨ s.hl.link = .training) ∧ openAccess s = true :=
  ⟨run, by decide +kernel⟩

theorem witness_HostLinkRowsComplete_11 : ∃ (s : State), s.hl.link = .up ∧ s.hl.crs = false :=
  ⟨run, by decide +kernel⟩

theorem witness_HostLinkRowsComplete_12 : ∃ (s : State), s.hl.link = .up ∧ s.hl.crs = false :=
  ⟨run, by decide +kernel⟩

theorem witness_HostLinkRowsComplete_13 : ∃ (s : State), s.hl.link = .up :=
  ⟨run, by decide +kernel⟩

theorem witness_HostLinkRowsComplete_14 : ∃ (s : State) (x : Nat × State), x = s.draw :=
  ⟨run, run.draw, rfl⟩

theorem witness_HostLinkRowsComplete_15 : ∃ (s : State) (x : Nat × State), x = s.draw :=
  ⟨run, run.draw, rfl⟩

theorem witness_BarRowsComplete_0 : ∃ (s : State) (o : Nat) (n : Nat), s.barOpen = true ∧ o < 0x2000000 ∧ bar0Form o n true = false :=
  ⟨run, 0x40000, 8, by decide +kernel⟩

theorem witness_BarRowsComplete_1 : ∃ (s : State) (o : Nat), s.barOpen = true ∧ o < 0x2000000 ∧ o % 4 = 0 ∧ wideAt o = false ∧ wideAt (o - 4) = false :=
  ⟨run, 0x1008, by decide +kernel⟩

theorem witness_BarRowsComplete_2 : ∃ (s : State) (o : Nat), s.barOpen = true ∧ o < 0x2000000 ∧ o % 8 = 0 ∧ doorbellAt o = false ∧ wideAt o = true :=
  ⟨run, 0x10000, by decide +kernel⟩

theorem witness_BarRowsComplete_3 : ∃ (s : State), s.barOpen = true :=
  ⟨run, by decide +kernel⟩

theorem witness_BarRowsComplete_4 : ∃ (s : State) (o : Nat), s.barOpen = true ∧ o % 8 = 0 :=
  ⟨run, 0, by decide +kernel⟩

theorem witness_BarRowsComplete_5 : ∃ (s : State) (o : Nat), s.barOpen = true ∧ o % 4 = 0 ∧ wideAt o = false ∧ latched s o = none :=
  ⟨run, 0, by decide +kernel⟩

theorem witness_BarRowsComplete_6 : ∃ (s : State), s.barOpen = false ∧ s.hl.link = .up ∧ s.hl.d3 = true :=
  ⟨withHl (fun h => { h with d3 := true }) run, by decide +kernel⟩

theorem witness_BarRowsComplete_7 : ∃ (s : State) (o : Nat) (d : Nat) (b : Nat), s.barOpen = true ∧ dramArea (bar2Addr s o) = .vectors d b ∧ (s.sequencer d).badGrans = [] :=
  ⟨run.put HL.BAR2_WIN 0 39, 0x0FFFFFFF, 1, 0x13FFFFFFF, by decide +kernel⟩

theorem witness_BarRowsComplete_8 : ∃ (s : State) (o : Nat) (d : Nat) (b : Nat), s.barOpen = true ∧ dramArea (bar2Addr s o) = .captures d b ∧ (s.sequencer d).badCaps = [] :=
  ⟨run.put HL.BAR2_WIN 0 59, 0x0FFFFFFF, 1, 0x1FFFFFFF, by decide +kernel⟩

theorem witness_BarRowsComplete_9 : ∃ (s : State) (o : Nat) (d : Nat) (b : Nat), s.barOpen = true ∧ dramArea (bar2Addr s o) = .vectors d b ∧ (s.sequencer 0).badGrans = [] ∧ (s.sequencer 1).badGrans = [] ∧ d < 2 :=
  ⟨run.put HL.BAR2_WIN 0 39, 0x0FFFFFFF, 1, 0x13FFFFFFF, by decide +kernel⟩

theorem witness_BarRowsComplete_10 : ∃ (s : State) (o : Nat) (d : Nat) (b : Nat), s.barOpen = true ∧ dramArea (bar2Addr s o) = .captures d b ∧ (s.sequencer 0).badGrans = [] ∧ (s.sequencer 1).badGrans = [] :=
  ⟨run.put HL.BAR2_WIN 0 59, 0x0FFFFFFF, 1, 0x1FFFFFFF, by decide +kernel⟩

theorem witness_BarRowsComplete_11 : ∃ (s : State) (v : Nat), v < 64 ∧ s.barOpen = true :=
  ⟨run, 63, by decide +kernel⟩

theorem witness_BarRowsComplete_12 : ∃ (s : State), s.hl.link = .up ∧ s.hl.crs = false :=
  ⟨run, by decide +kernel⟩

theorem witness_BarRowsComplete_13 : ∃ (s : State), s.hl.link = .up ∧ s.hl.crs = true :=
  ⟨withHl (fun h => { h with crs := true }) run, by decide +kernel⟩

theorem witness_BarRowsComplete_14 : ∃ (s : State), s.hl.link = .up ∧ s.hl.crs = false :=
  ⟨run, by decide +kernel⟩

theorem witness_BarRowsComplete_15 : ∃ (s : State) (r : ConfigReq), s.hl.link = .up ∧ s.hl.crs = false ∧ (∀ reg, r ≠ .read reg) :=
  ⟨run, .busMaster true, by decide, by decide, by intro reg h; cases h⟩

theorem witness_BarRowsComplete_17 : ∃ (s : State) (q : Nat), q < 64 ∧ 0 < (s.sq q).fetching ∧ (s.sq q).enable = true ∧ (s.sq q).fault = false :=
  ⟨run.setSq 63 { fetching := 1, enable := true }, 63, by decide +kernel⟩

theorem witness_BarRowsComplete_18 : ∃ (s : State) (src : Src) (tag : Nat) (o : Op), (s.uploads.any fun u => u.src == src && u.tag == tag) = false ∧ s.cmd.ops.find? (fun o => o.pkt.src == src && pTag o.pkt == tag && o.stage == .reading) = some o :=
  ⟨withCmd (fun c => { c with ops := [⟨pp 4 [0, 0, 0, 24], .reading⟩] }) run, .sq 0, 7, ⟨pp 4 [0, 0, 0, 24], .reading⟩, by decide +kernel⟩

theorem witness_BarRowsComplete_19 : ∃ (s : State) (q : Nat), q < 64 ∧ 0 < (s.sq q).fetching :=
  ⟨run.setSq 63 { fetching := 1, enable := true }, 63, by decide +kernel⟩

theorem witness_TranslationRowsComplete_2 : ∃ (s : State) (ctx : Nat) (r : PageReq) (rest : List PageReq) (u : State), Bank.get (fun _ => []) s.xlt.pages ctx = r :: rest ∧ u = { s with xlt := { s.xlt with pages := Bank.set (fun _ => []) s.xlt.pages ctx rest } } :=
  ⟨{ run with xlt := { run.xlt with pages := [(63, [⟨0, [31]⟩])] } }, 63, ⟨0, [31]⟩, [], { run with xlt := { run.xlt with pages := Bank.set (fun _ => []) [(63, [⟨0, [31]⟩])] 63 [] } }, by decide +kernel, rfl⟩

theorem witness_TranslationRowsComplete_3 : ∃ (s : State) (ctx : Nat) (va : Nat) (w : WalkRun) (g : AtsGrant) (page : Page), s.walk ctx = some w ∧ w.level = 0 ∧ w.va / 4096 = va / 4096 ∧ (g.size = 2 ^ 12 ∨ g.size = 2 ^ 21 ∨ g.size = 2 ^ 30) ∧ page = ⟨ctx, va / g.size * g.size, g.size, g.pa, g.w, g.r, true⟩ ∧ ((∀ x, x ∈ w.waiters → lacks s w page x = false)) :=
  ⟨walking 63 0, 63, 4095, ⟨0, 0, 0, [.stream 31], false⟩, ⟨0, 2 ^ 30, true, true⟩, ⟨63, 0, 2 ^ 30, 0, true, true, true⟩, by decide +kernel⟩

theorem witness_TranslationRowsComplete_4 : ∃ (s : State) (ctx : Nat) (va : Nat) (w : WalkRun) (g : AtsGrant), s.walk ctx = some w ∧ w.level = 0 ∧ w.va / 4096 = va / 4096 ∧ g.size ≠ 2 ^ 12 ∧ g.size ≠ 2 ^ 21 ∧ g.size ≠ 2 ^ 30 ∧ g.r = true ∧ g.w = true :=
  ⟨walking 63 0, 63, 4095, ⟨0, 0, 0, [.stream 31], false⟩, ⟨0, 8192, true, true⟩, by decide +kernel⟩

theorem witness_TranslationRowsComplete_5 : ∃ (s : State) (ctx : Nat) (va : Nat) (w : WalkRun), s.walk ctx = some w ∧ w.level = 0 ∧ w.va / 4096 = va / 4096 :=
  ⟨walking 63 0, 63, 4095, ⟨0, 0, 0, [.stream 31], false⟩, by decide +kernel⟩

theorem witness_TranslationRowsComplete_6 : ∃ (s : State) (ctx : Nat) (w : WalkRun), s.walk ctx = some w ∧ w.level ≠ 0 :=
  ⟨walking 63 4, 63, ⟨0, 4, 0, [.stream 31], false⟩, by decide +kernel⟩

theorem witness_TranslationRowsComplete_7 : ∃ (s : State) (ctx : Nat) (w : WalkRun) (e : Nat) (c : Nat), s.walk ctx = some w ∧ w.level ≠ 0 ∧ entryFault w.level e = some c :=
  ⟨walking 63 4, 63, ⟨0, 4, 0, [.stream 31], false⟩, 0, 1, by decide +kernel⟩

theorem witness_TranslationRowsComplete_8 : ∃ (s : State) (ctx : Nat) (w : WalkRun) (e : Nat) (size : Nat) (page : Page), s.walk ctx = some w ∧ w.level ≠ 0 ∧ entryFault w.level e = none ∧ bit e 3 = true ∧ size = 2 ^ (12 + 9 * (w.level - 1)) ∧ page = ⟨ctx, w.va / size * size, size, fld e 12 40 * 4096, bit e 2, bit e 1, false⟩ :=
  ⟨walking 63 1, 63, ⟨0, 1, 0, [.stream 31], false⟩, 9, 4096, ⟨63, 0, 4096, 0, false, false, false⟩, by decide +kernel⟩

theorem witness_TranslationRowsComplete_9 : ∃ (s : State) (ctx : Nat) (w : WalkRun) (e : Nat), s.walk ctx = some w ∧ w.level ≠ 0 ∧ entryFault w.level e = none ∧ bit e 3 = false ∧ w.stale = false :=
  ⟨walking 63 4, 63, ⟨0, 4, 0, [.stream 31], false⟩, 1, by decide +kernel⟩

theorem witness_TranslationRowsComplete_10 : ∃ (s : State) (ctx : Nat) (w : WalkRun) (e : Nat), s.walk ctx = some w ∧ w.level ≠ 0 ∧ entryFault w.level e = none ∧ bit e 3 = false ∧ w.stale = true :=
  ⟨run.setWalk 63 (some ⟨0, 4, 0, [.stream 31], true⟩), 63, ⟨0, 4, 0, [.stream 31], true⟩, 1, by decide +kernel⟩

theorem witness_TranslationRowsComplete_11 : ∃ (w : WalkRun), w.stale = true :=
  ⟨⟨0, 4, 0, [.stream 31], true⟩, by decide +kernel⟩

theorem witness_TranslationRowsComplete_12 : ∃ (s : State) (p : Pkt) (c : Nat), accepted (.xltInvalidate p) s ∧ targetInst p 0x0A = some c ∧ bit (pw p 2) 0 = false ∧ stopped s .mem = false :=
  ⟨sending (pq 0x0706 [tgt 10 63, 0]) (run), pq 0x0706 [tgt 10 63, 0], 63, by rw [accepted_iff]; decide +kernel⟩

theorem witness_TranslationRowsComplete_13 : ∃ (s : State) (p : Pkt) (c : Nat), accepted (.xltInvalidate p) s ∧ targetInst p 0x0A = some c ∧ bit (pw p 2) 0 = true ∧ pw p 3 % 4096 = 0 ∧ 1 ≤ pw p 5 ∧ pw p 5 ≤ 1048576 ∧ stopped s .mem = false :=
  ⟨sending (pq 0x0706 [tgt 10 63, 1, 0, 0, 1048576]) (run), pq 0x0706 [tgt 10 63, 1, 0, 0, 1048576], 63, by rw [accepted_iff]; decide +kernel⟩

theorem witness_StreamCommandsComplete_0 : ∃ (s : State) (p : Pkt) (n : Nat), accepted (.stmConfig p) s ∧ targetStream p = some n ∧ pw p 2 % 4096 = 0 ∧ ringSize (pw p 4) = true ∧ pw p 5 % 8 = 0 ∧ 1 ≤ pw p 7 ∧ pw p 7 ≤ 4080 ∧ ((n = 31 → pw p 7 = 16)) ∧ (s.stmState n = 0 ∨ s.stmState n = 1) ∧ quotaSum s n + pw p 7 ≤ 4080 ∧ stopped s .mem = false :=
  ⟨sending (pq 0x0701 [tgt 9 30, 0, 0, 1048576, 0, 0, 4080]) (run), pq 0x0701 [tgt 9 30, 0, 0, 1048576, 0, 0, 4080], 30, by rw [accepted_iff]; decide +kernel⟩

theorem witness_StreamCommandsComplete_1 : ∃ (s : State) (p : Pkt) (n : Nat), accepted (.stmConfig p) s ∧ targetStream p = some n ∧ pw p 2 % 4096 = 0 ∧ ringSize (pw p 4) = true ∧ pw p 5 % 8 = 0 ∧ 1 ≤ pw p 7 ∧ pw p 7 ≤ 4080 ∧ ((n = 31 → pw p 7 = 16)) ∧ (s.stmState n = 3 ∨ s.stmState n = 5) ∧ s.rd STM.QUOTA n = pw p 7 ∧ ((n = 31 ∨ quotaSum s n + pw p 7 ≤ 4080)) ∧ stopped s .mem = false :=
  ⟨sending (pq 0x0701 [tgt 9 31, 0, 0, 1048576, 0, 0, 16]) ((stmIn 31 5 run).put STM.QUOTA 31 16), pq 0x0701 [tgt 9 31, 0, 0, 1048576, 0, 0, 16], 31, by rw [accepted_iff]; decide +kernel⟩

theorem witness_StreamCommandsComplete_2 : ∃ (s : State) (p : Pkt) (n : Nat), accepted (.stmConfig p) s ∧ targetStream p = some n ∧ pw p 2 % 4096 = 0 ∧ ringSize (pw p 4) = true ∧ pw p 5 % 8 = 0 ∧ 1 ≤ pw p 7 ∧ pw p 7 ≤ 4080 ∧ ((n = 31 → pw p 7 = 16)) ∧ s.stmState n ∈ [2, 4, 6] ∧ stopped s .mem = false :=
  ⟨sending (pq 0x0701 [tgt 9 31, 0, 0, 1048576, 0, 0, 16]) (stmIn 31 4 run), pq 0x0701 [tgt 9 31, 0, 0, 1048576, 0, 0, 16], 31, by rw [accepted_iff]; decide +kernel⟩

theorem witness_StreamCommandsComplete_3 : ∃ (s : State) (p : Pkt) (n : Nat), accepted (.stmStart p) s ∧ targetStream p = some n ∧ stopped s .mem = false ∧ s.stmState n = 1 :=
  ⟨sending (pq 0x0702 [tgt 9 31]) (stmIn 31 1 run), pq 0x0702 [tgt 9 31], 31, by rw [accepted_iff]; decide +kernel⟩

theorem witness_StreamCommandsComplete_4 : ∃ (s : State) (p : Pkt) (n : Nat), accepted (.stmStop p) s ∧ targetStream p = some n ∧ stopped s .mem = false ∧ s.stmState n = 1 ∧ bit (pw p 2) 1 = false :=
  ⟨sending (pq 0x0703 [tgt 9 31, 0]) (stmIn 31 1 run), pq 0x0703 [tgt 9 31, 0], 31, by rw [accepted_iff]; decide +kernel⟩

theorem witness_StreamCommandsComplete_5 : ∃ (s : State) (p : Pkt) (n : Nat), accepted (.stmStop p) s ∧ targetStream p = some n ∧ stopped s .mem = false ∧ s.stmState n = 1 ∧ bit (pw p 2) 1 = true :=
  ⟨sending (pq 0x0703 [tgt 9 31, 2]) (stmIn 31 1 run), pq 0x0703 [tgt 9 31, 2], 31, by rw [accepted_iff]; decide +kernel⟩

theorem witness_StreamCommandsComplete_6 : ∃ (s : State) (p : Pkt) (n : Nat), accepted (.stmStop p) s ∧ targetStream p = some n ∧ stopped s .mem = false ∧ (s.stmState n = 2 ∨ s.stmState n = 3) ∧ (s.stream n).stop = none :=
  ⟨sending (pq 0x0703 [tgt 9 31, 3]) (stmIn 31 2 run), pq 0x0703 [tgt 9 31, 3], 31, by rw [accepted_iff]; decide +kernel⟩

theorem witness_StreamCommandsComplete_7 : ∃ (s : State) (p : Pkt) (n : Nat), accepted (.stmStop p) s ∧ targetStream p = some n ∧ stopped s .mem = false ∧ s.stmState n = 2 ∧ (s.stream n).stop ≠ none :=
  ⟨sending (pq 0x0703 [tgt 9 31, 3]) (withStm 31 (fun t => { t with stop := some { src := .sq 1, tag := 7, release := true, discard := true, due := true } }) (stmIn 31 2 run)), pq 0x0703 [tgt 9 31, 3], 31, by rw [accepted_iff]; decide +kernel⟩

theorem witness_StreamCommandsComplete_8 : ∃ (s : State) (p : Pkt) (n : Nat), accepted (.stmFlush p) s ∧ targetStream p = some n ∧ stopped s .mem = false ∧ (s.stream n).open_ = none :=
  ⟨sending (pq 0x0704 [tgt 9 31]) (run), pq 0x0704 [tgt 9 31], 31, by rw [accepted_iff]; decide +kernel⟩

theorem witness_StreamCommandsComplete_9 : ∃ (s : State) (p : Pkt) (n : Nat) (b : OpenBlk), accepted (.stmFlush p) s ∧ targetStream p = some n ∧ stopped s .mem = false ∧ (s.stream n).open_ = some b ∧ (s.stmState n = 3 ∨ s.stmState n = 5) :=
  ⟨sending (pq 0x0704 [tgt 9 31]) (withStm 31 (fun t => { t with open_ := some ⟨0, [], 0, {}⟩ }) (stmIn 31 5 run)), pq 0x0704 [tgt 9 31], 31, ⟨0, [], 0, {}⟩, by rw [accepted_iff]; decide +kernel⟩

theorem witness_StreamCommandsComplete_10 : ∃ (s : State) (p : Pkt) (n : Nat) (b : OpenBlk), accepted (.stmFlush p) s ∧ targetStream p = some n ∧ stopped s .mem = false ∧ (s.stream n).open_ = some b ∧ s.stmState n = 2 :=
  ⟨sending (pq 0x0704 [tgt 9 31]) (withStm 31 (fun t => { t with open_ := some ⟨0, [], 0, {}⟩ }) (stmIn 31 2 run)), pq 0x0704 [tgt 9 31], 31, ⟨0, [], 0, {}⟩, by rw [accepted_iff]; decide +kernel⟩

theorem witness_StreamCommandsComplete_11 : ∃ (s : State) (p : Pkt) (n : Nat), accepted (.stmResolve p) s ∧ targetStream p = some n ∧ stopped s .mem = false ∧ (s.stmState n = 3 ∨ s.stmState n = 6) :=
  ⟨sending (pq 0x0705 [tgt 9 31]) (stmIn 31 6 run), pq 0x0705 [tgt 9 31], 31, by rw [accepted_iff]; decide +kernel⟩

theorem witness_StreamEventRowsComplete_0 : ∃ (s : State) (g : Nat) (h : Held) (rest : List Held) (n : Nat), (s.group g).fifo = h :: rest ∧ carrier (s.setGroup g { s.group g with fifo := rest }) g = some n :=
  ⟨withGroup 16 (fun r => { r with fifo := [⟨⟨0, 0, 0, 0⟩, 0⟩] }) ((stmIn 30 2 run).put STM.SRC_GROUPS 30 0x10000), 16, ⟨⟨0, 0, 0, 0⟩, 0⟩, [], 30, by decide +kernel⟩

theorem witness_StreamEventRowsComplete_1 : ∃ (s : State) (g : Nat) (h : Held) (rest : List Held), (s.group g).fifo = h :: rest ∧ carrier (s.setGroup g { s.group g with fifo := rest }) g = none :=
  ⟨withGroup 16 (fun r => { r with fifo := [⟨⟨0, 0, 0, 0⟩, 0⟩] }) run, 16, ⟨⟨0, 0, 0, 0⟩, 0⟩, [], by decide +kernel⟩

theorem witness_StreamEventRowsComplete_2 : ∃ (s : State) (n : Nat) (b : OpenBlk), (s.stream n).open_ = some b ∧ s.rd STM.MAX_AGE n ≠ 0 ∧ b.since + 1000 * s.rdN STM.MAX_AGE n ≤ s.clock :=
  ⟨at_ 1000 (withStm 31 (fun t => { t with open_ := some ⟨0, [], 0, {}⟩ }) (run.put STM.MAX_AGE 31 1)), 31, ⟨0, [], 0, {}⟩, by decide +kernel⟩

theorem witness_StreamEventRowsComplete_3 : ∃ (s : State) (w : Waiter), nextUnit s = some w :=
  ⟨streams, .stream 30, by decide +kernel⟩

theorem witness_StreamEventRowsComplete_4 : ∃ (s : State) (n : Nat) (a : Nat), reachWrite s n = .ok a :=
  ⟨streams, 30, okIn 0 (reachWrite streams 30), okIn_eq (by decide +kernel)⟩

theorem witness_StreamEventRowsComplete_5 : ∃ (s : State) (n : Nat), (s.stream n).failNext = none ∧ ((s.stream n).node.isSome = true ∨ s.rd XLT.MODE (s.rdN STM.CTX n) = 0) :=
  ⟨streams, 30, by decide +kernel⟩

theorem witness_StreamEventRowsComplete_6 : ∃ (s : State) (src : Src) (tag : Nat) (x : Xfer) (b : Nat), pktXferOf s src tag = some x ∧ xferNode x = none ∧ s.rd XLT.MODE x.ctx = 0 ∧ b = unitBytes x :=
  ⟨{ run with xlt := { run.xlt with xfers := [{ who := .cmd (.sq 0) 7, ctx := 63, prio := 0, addr := 0, left := 8, write := true, words := [1, 2] }] } }, .sq 0, 7, { who := .cmd (.sq 0) 7, ctx := 63, prio := 0, addr := 0, left := 8, write := true, words := [1, 2] }, 8, by decide +kernel⟩

theorem witness_StreamEventRowsComplete_7 : ∃ (x : Xfer) (src : Src) (tag : Nat), x.who = .cmd src tag ∧ x.left = unitBytes x ∧ x.write = true :=
  ⟨{ who := .cmd (.sq 0) 7, ctx := 63, prio := 0, addr := 4088, left := 8, write := true, words := [1, 2] }, .sq 0, 7, by decide +kernel⟩

theorem witness_StreamEventRowsComplete_8 : ∃ (x : Xfer), x.left ≠ unitBytes x :=
  ⟨{ who := .cmd (.sq 0) 7, ctx := 63, prio := 0, addr := 4092, left := 8, write := true, words := [1, 2] }, by decide +kernel⟩

theorem witness_StreamEventRowsComplete_10 : ∃ (s : State) (n : Nat) (v : Nat), n < 32 ∧ s.barOpen = true ∧ (s.stream n).node = none ∧ v < 2 ^ 32 ∧ s.stmState n ≠ 0 ∧ s.stmState n ≠ 5 ∧ (v + 2 ^ 32 - s.rdN STM.RD_IDX n) % 2 ^ 32 ≤ (s.rdN STM.WR_IDX n + 2 ^ 32 - s.rdN STM.RD_IDX n) % 2 ^ 32 :=
  ⟨(stmIn 31 2 run).put STM.WR_IDX 31 4294967295, 31, 4294967295, by decide +kernel⟩

theorem witness_StreamEventRowsComplete_11 : ∃ (s : State) (n : Nat) (v : Nat), n < 32 ∧ s.barOpen = true ∧ (s.stream n).node = none ∧ v < 2 ^ 32 ∧ (s.rdN STM.WR_IDX n + 2 ^ 32 - s.rdN STM.RD_IDX n) % 2 ^ 32 < (v + 2 ^ 32 - s.rdN STM.RD_IDX n) % 2 ^ 32 :=
  ⟨(stmIn 31 2 run).put STM.WR_IDX 31 4294967294, 31, 4294967295, by decide +kernel⟩

theorem witness_StreamEventRowsComplete_12 : ∃ (s : State) (n : Nat) (v : Nat) (d : Nat × Nat), n < 32 ∧ (s.stream n).node = some d ∧ (s.stream n).blocks ≠ [] ∧ v < 2 ^ 32 ∧ s.rdN STM.RING_BLOCKS n ≤ (s.rdN STM.WR_IDX n + 2 ^ 32 - s.rdN STM.RD_IDX n) % 2 ^ 32 ∧ ((∀ l, (s.stream n).polledAt = some l → l + 10000 ≤ s.clock)) :=
  ⟨(withStm 30 (fun t => { t with node := some (1, 0), polledAt := none }) streams).put STM.WR_IDX 30 2, 30, 0, (1, 0), by decide, by decide +kernel, by decide +kernel, by decide, by decide +kernel, by intro l h; cases h⟩

theorem witness_StreamEventRowsComplete_13 : ∃ (s : State) (n : Nat) (v : Nat), s.stmState n ≠ 0 ∧ s.stmState n ≠ 5 ∧ (v + 2 ^ 32 - s.rdN STM.RD_IDX n) % 2 ^ 32 ≤ (s.rdN STM.WR_IDX n + 2 ^ 32 - s.rdN STM.RD_IDX n) % 2 ^ 32 :=
  ⟨(stmIn 31 2 run).put STM.WR_IDX 31 4294967295, 31, 4294967295, by decide +kernel⟩

theorem witness_MeshEventRowsComplete_0 : ∃ (s : State) (n : Nat), n < 4 ∧ portState s n = 1 ∧ stopped s .msh = false ∧ s.tst.extest = false :=
  ⟨run.put MSH.PORT_STATE 4 1, 3, by decide +kernel⟩

theorem witness_MeshEventRowsComplete_1 : ∃ (s : State) (n : Nat), n < 4 ∧ portState s n = 1 ∧ stopped s .msh = false ∧ s.tst.extest = false ∧ retryDue s n = true :=
  ⟨at_ 100000000 ((run.put MSH.PORT_STATE 4 1).setPort 3 { failAt := some 0 }), 3, by decide +kernel⟩

theorem witness_MeshEventRowsComplete_2 : ∃ (s : State) (n : Nat), n < 4 ∧ portState s n = 2 :=
  ⟨run.put MSH.PORT_STATE 4 2, 3, by decide +kernel⟩

theorem witness_MeshEventRowsComplete_3 : ∃ (s : State) (n : Nat) (delay : Nat), n < 4 ∧ portState s n = 2 ∧ delay ≤ 3000 ∧ s.rd MSH.ENUM_STATE = 0 :=
  ⟨run.put MSH.PORT_STATE 4 2, 3, 3000, by decide +kernel⟩

theorem witness_MeshEventRowsComplete_4 : ∃ (s : State) (n : Nat), n < 4 ∧ portState s n = 3 :=
  ⟨joined 0, 3, by decide +kernel⟩

theorem witness_MeshEventRowsComplete_5 : ∃ (s : State) (n : Nat) (f : SevFrame), n < 4 ∧ portState s n = 3 ∧ inMesh s = true ∧ f.sev < 16 ∧ (s.port n).loseNext = false ∧ f.good = true ∧ f.gen = s.rdN MSH.GENERATION ∧ s.fine ≤ f.t0 + nsFine 70000 ∧ f.node ≠ nodeId s ∧ (f.sev, f.t0, f.node) ∉ s.msh.seen :=
  ⟨joined 0, 3, ⟨15, 0, 5, 0, true, 0⟩, by decide +kernel⟩

theorem witness_MeshEventRowsComplete_6 : ∃ (s : State) (n : Nat) (f : SevFrame), n < 4 ∧ portState s n = 3 ∧ inMesh s = true ∧ f.sev < 16 ∧ (s.port n).loseNext = false ∧ f.good = false :=
  ⟨joined 0, 3, ⟨0, 0, 0, 0, false, 0⟩, by decide +kernel⟩

theorem witness_MeshEventRowsComplete_7 : ∃ (s : State) (n : Nat) (f : TimeFrame) (a : Nat) (u : State), n < 4 ∧ portState s n = 3 ∧ inMesh s = true ∧ f.good = true ∧ a = sixteenth s f.at_ ∧ u = s.setPort n { s.port n with stamp := a } :=
  ⟨joined 0, 3, ⟨true, 0, 0, 0, (0, 0)⟩, sixteenth (joined 0) 0, (joined 0).setPort 3 { (joined 0).port 3 with stamp := sixteenth (joined 0) 0 }, by decide +kernel, by decide +kernel, by decide +kernel, rfl, rfl, rfl⟩

theorem witness_MeshEventRowsComplete_8 : ∃ (s : State) (sent : Nat) (heard : Nat), s.msh.sentAt = some sent ∧ s.msh.heardAt = some heard :=
  ⟨withMsh (fun m => { m with sentAt := some 0, heardAt := some 0 }) run, 0, 0, by decide +kernel⟩

theorem witness_MeshEventRowsComplete_9 : ∃ (s : State) (n : Nat), n < 4 ∧ portState s n = 3 :=
  ⟨joined 0, 3, by decide +kernel⟩

theorem witness_MeshEventRowsComplete_10 : ∃ (s : State) (n : Nat), n < 4 ∧ portState s n = 3 ∧ inMesh s = true :=
  ⟨joined 0, 3, by decide +kernel⟩

theorem witness_MeshEventRowsComplete_11 : ∃ (s : State) (n : Nat), n < 4 ∧ portState s n = 3 ∧ inMesh s = true :=
  ⟨joined 0, 3, by decide +kernel⟩

theorem witness_MeshEventRowsComplete_12 : ∃ (s : State) (good : Bool), nodeId s ≠ 0 ∧ enumState s = 1 ∧ s.rd MSH.SYNC_STATE ≠ 0 ∧ portState s (fld (s.rdN MSH.TREE) 2 2) = 3 ∧ (s.msh.sample = none ∨ good = false) :=
  ⟨tbIn 2 (((joined 5).put MSH.SYNC_STATE 0 1).put MSH.TREE 0 12), true, by decide +kernel⟩

theorem witness_MeshEventRowsComplete_13 : ∃ (s : State) (x : Int × Int), nodeId s ≠ 0 ∧ enumState s = 1 ∧ s.rd MSH.SYNC_STATE ≠ 0 ∧ portState s (fld (s.rdN MSH.TREE) 2 2) = 3 ∧ s.msh.sample = some x :=
  ⟨withMsh (fun m => { m with sample := some (5, 5) }) (tbIn 2 (((joined 5).put MSH.SYNC_STATE 0 1).put MSH.TREE 0 12)), (5, 5), by decide +kernel⟩

theorem witness_MeshEventRowsComplete_14 : ∃ (s : State) (x : Int × Int) (f : Int) (u : State), u = takeSample s x f :=
  ⟨run, (5, 5), 0, takeSample run (5, 5) 0, rfl⟩

theorem witness_MeshEventRowsComplete_15 : ∃ (s : State) (g : MeshGraph), inMesh s = true ∧ s.msh.repairing = true ∧ rooted g = true :=
  ⟨withMsh (fun m => { m with repairing := true }) (joined 0), ⟨[⟨some 0, []⟩], 0⟩, by decide +kernel⟩

theorem witness_MeshEventRowsComplete_16 : ∃ (s : State) (port : Nat) (gen : Nat), s.msh.newer = some (port, gen) :=
  ⟨withMsh (fun m => { m with newer := some (3, 1) }) (joined 0), 3, 1, by decide +kernel⟩

theorem witness_MeshCommandsComplete_0 : ∃ (s : State) (p : Pkt), accepted (.meshEnumerate p) s ∧ stopped s .msh = false :=
  ⟨sending (pq 0x0A01 []) (run), pq 0x0A01 [], by rw [accepted_iff]; decide +kernel⟩

theorem witness_MeshCommandsComplete_1 : ∃ (s : State) (e : Src × Nat), s.msh.enum = some e :=
  ⟨withMsh (fun m => { m with enum := some (.sq 0, 7) }) run, (.sq 0, 7), by decide +kernel⟩

theorem witness_MeshCommandsComplete_2 : ∃ (s : State) (p : Pkt) (wr : Option HostFault), accepted (.meshRouteRead p wr) s ∧ stopped s .msh = false ∧ pw p 2 % 64 = 0 ∧ 1 ≤ pw p 5 ∧ pw p 4 + pw p 5 ≤ 16384 :=
  ⟨sending (pq 0x0A02 [0, 0, 0, 16383, 1]) (run), pq 0x0A02 [0, 0, 0, 16383, 1], none, by rw [accepted_iff]; decide +kernel⟩

theorem witness_MeshCommandsComplete_3 : ∃ (s : State) (p : Pkt) (d : HostData) (ws : List Nat), accepted (.meshForward p d) s ∧ stopped s .msh = false ∧ pPtr p = true ∧ hostGives s p d ws ∧ notForwarded ((pad 16 ws).getD 0 0) = false ∧ pw p 5 ≠ 0x3FFF ∧ pw p 5 < s.msh.assigned ∧ pw p 5 ≠ nodeId s ∧ enumState s = 1 ∧ routeValid s (pw p 5) = true :=
  ⟨given (pp 0x0A03 [0, 0, 0, 64, 1]) (withMsh (fun m => { m with assigned := 2, routes := [(1, 0x8000)] }) (joined 0)), pp 0x0A03 [0, 0, 0, 64, 1], .words [1], [1], by rw [accepted_iff]; rw [hostGives_iff]; decide +kernel⟩

theorem witness_MeshCommandsComplete_4 : ∃ (s : State) (p : Pkt) (d : HostData) (ws : List Nat), accepted (.meshForward p d) s ∧ stopped s .msh = false ∧ pPtr p = true ∧ hostGives s p d ws ∧ notForwarded ((pad 16 ws).getD 0 0) = false ∧ pw p 5 = 0x3FFF ∧ enumState s = 1 ∧ reachable s ≠ [] :=
  ⟨given (pp 0x0A03 [0, 0, 0, 64, 0x3FFF]) (withMsh (fun m => { m with assigned := 2, routes := [(1, 0x8000)] }) (joined 0)), pp 0x0A03 [0, 0, 0, 64, 0x3FFF], .words [1], [1], by rw [accepted_iff]; rw [hostGives_iff]; decide +kernel⟩

theorem witness_MeshCommandsComplete_5 : ∃ (s : State) (p : Pkt) (i : Nat), accepted (.meshPortCtl p) s ∧ targetInst p 0x0B = some i ∧ i ≠ 0 ∧ fld (pw p 2) 4 3 = 0 ∧ stopped s .msh = false ∧ portState s (i - 1) ∉ [0, 4] ∧ (s.port (i - 1)).lb = none :=
  ⟨sending (pq 0x0A04 [tgt 11 4, 1]) (joined 0), pq 0x0A04 [tgt 11 4, 1], 4, by rw [accepted_iff]; decide +kernel⟩

theorem witness_MeshCommandsComplete_6 : ∃ (s : State) (p : Pkt) (i : Nat), accepted (.meshPortCtl p) s ∧ targetInst p 0x0B = some i ∧ i ≠ 0 ∧ fld (pw p 2) 4 3 = 4 ∧ stopped s .msh = false ∧ grantsLoop (lcFor s p) false = true ∧ portState s (i - 1) = 3 ∧ (s.port (i - 1)).lb = none :=
  ⟨sending (pq 0x0A04 [tgt 11 4, 0x40]) (joined 0), pq 0x0A04 [tgt 11 4, 0x40], 4, by rw [accepted_iff]; decide +kernel⟩

theorem witness_MeshCommandsComplete_7 : ∃ (s : State) (n : Nat) (src : Src) (tag : Nat) (e : Nat), (s.port n).lb = some (src, tag, 4) ∧ e = 1000 - (s.port n).echoes :=
  ⟨(joined 0).setPort 3 { (joined 0).port 3 with lb := some (.sq 0, 7, 4) }, 3, .sq 0, 7, 1000, by decide +kernel⟩

theorem witness_MeshCommandsComplete_8 : ∃ (s : State) (n : Nat) (src : Src) (tag : Nat) (lb : Nat), (s.port n).lb = some (src, tag, lb) ∧ lb ≠ 4 ∧ (s.port n).lbAt + 10000000 ≤ s.clock :=
  ⟨at_ 10000000 (withMsh (fun m => { m with ports := [(3, { lb := some (.sq 0, 7, 1) })] }) run), 3, .sq 0, 7, 1, by decide +kernel⟩

theorem witness_MeshCommandsComplete_9 : ∃ (s : State) (p : Pkt), accepted (.meshTimeCtl p) s ∧ stopped s .msh = false ∧ nodeId s = 0 ∧ inMesh s = true ∧ s.msh.time = none ∧ bit (pw p 2) 0 = true ∧ reachable s = [] :=
  ⟨sending (pq 0x0A05 [0, 3]) (joined 0), pq 0x0A05 [0, 3], by rw [accepted_iff]; decide +kernel⟩

theorem witness_MeshCommandsComplete_10 : ∃ (s : State) (p : Pkt), accepted (.meshTimeCtl p) s ∧ stopped s .msh = false ∧ nodeId s = 0 ∧ inMesh s = true ∧ s.msh.time = none ∧ bit (pw p 2) 0 = false ∧ reachable (syncOff s) ≠ [] :=
  ⟨sending (pq 0x0A05 [0, 0]) (withMsh (fun m => { m with assigned := 2, routes := [(1, 0x8000)] }) (joined 0)), pq 0x0A05 [0, 0], by rw [accepted_iff]; decide +kernel⟩

theorem witness_CalCommandsComplete_0 : ∃ (s : State) (p : Pkt) (c : Nat), accepted (.calSelf p) s ∧ targetChan p = some c ∧ c < 128 ∧ stopped s (chanIsland c) = false ∧ owned s c = false ∧ s.chState c = 0 ∧ calTarget s c = false :=
  ⟨sending (pq 0x0801 [tgt 1 127]) (run), pq 0x0801 [tgt 1 127], 127, by rw [accepted_iff]; decide +kernel⟩

theorem witness_CalCommandsComplete_1 : ∃ (s : State) (p : Pkt) (n : Nat), accepted (.calSelf p) s ∧ targetChan p = none ∧ targetInst p 5 = some n ∧ stopped s (.seq (n / 128)) = false ∧ pinIdle s n = true ∧ calPin s n = false :=
  ⟨sending (pq 0x0801 [tgt 5 255]) (run), pq 0x0801 [tgt 5 255], 255, by rw [accepted_iff]; decide +kernel⟩

theorem witness_CalCommandsComplete_2 : ∃ (s : State) (p : Pkt) (t : Nat × Bool × Bool × Option Nat) (n : Nat), accepted (.calSysZero p) s ∧ sysSet (pw p 1) = some t ∧ sysCount (pw p 2) = some n ∧ stopped s (sysIsland t) = false ∧ s.cal.sys = none ∧ sysReady s t = true :=
  ⟨sending (pq 0x0802 [MSR.MV_G.id 127 3, 65536]) (withGroup 15 (fun r => { r with src := 1 }) (onFv 127 run)), pq 0x0802 [MSR.MV_G.id 127 3, 65536], (127, false, true, some 3), 65536, by rw [accepted_iff]; decide +kernel⟩

theorem witness_CalCommandsComplete_3 : ∃ (s : State) (p : Pkt) (t : Nat × Bool × Bool × Option Nat) (n : Nat), accepted (.calSysFull p) s ∧ sysSet (pw p 1) = some t ∧ sysCount (pw p 3) = some n ∧ stopped s (sysIsland t) = false ∧ s.cal.sys = none ∧ sysReady s t = true ∧ s.rd CAL.SYS_STATE ≠ 0 ∧ s.rdN CAL.SYS_SET = pw p 1 :=
  ⟨sending (pq 0x0803 [MSR.MV_G.id 127 3, 0, 16]) (((withGroup 15 (fun r => { r with src := 1 }) (onFv 127 run)).put CAL.SYS_STATE 0 1).put CAL.SYS_SET 0 (MSR.MV_G.id 127 3)), pq 0x0803 [MSR.MV_G.id 127 3, 0, 16], (127, false, true, some 3), 16, by rw [accepted_iff]; decide +kernel⟩

theorem witness_CalCommandsComplete_4 : ∃ (s : State) (p : Pkt) (t : Nat × Bool × Bool × Option Nat) (n : Nat), accepted (.calSysFull p) s ∧ sysSet (pw p 1) = some t ∧ sysCount (pw p 3) = some n ∧ stopped s (sysIsland t) = false ∧ s.rd CAL.SYS_STATE = 0 :=
  ⟨sending (pq 0x0803 [MSR.MV_G.id 127 3, 0, 16]) (run), pq 0x0803 [MSR.MV_G.id 127 3, 0, 16], (127, false, true, some 3), 16, by rw [accepted_iff]; decide +kernel⟩

theorem witness_CalCommandsComplete_5 (h : 4 * Config.certificate.length ≤ 4294967295) : ∃ (s : State) (p : Pkt) (wr : Option HostFault), accepted (.calCertRead p wr) s ∧ pw p 2 % 64 = 0 ∧ 4 * Config.certificate.length ≤ pw p 4 ∧ stopped s .vane = false :=
  ⟨sending (pq 0x0804 [0, 0, 0, 4294967295]) (run), pq 0x0804 [0, 0, 0, 4294967295], none, by rw [accepted_iff]; decide +kernel, by decide, h, by decide +kernel⟩

theorem witness_CalCommandsComplete_6 (h : imageCrcOk Config.certificate = false) : ∃ (s : State) (p : Pkt), accepted (.calCertLoad p) s ∧ stopped s .vane = false ∧ imageCrcOk Config.certificate = false :=
  ⟨sending (pq 0x0805 []) (run), pq 0x0805 [], by rw [accepted_iff]; decide +kernel, by decide +kernel, h⟩

theorem witness_CalCommandsComplete_7 (h : imageGood Config.certificate) (h2 : ∀ e ∈ imageEntries (Config.certificate.drop 8), stopped (sending (pq 0x0805 []) run) (islandOf (idParts e.1).1 (idParts e.1).2.1) = false) : ∃ (s : State) (p : Pkt), accepted (.calCertLoad p) s ∧ stopped s .vane = false ∧ imageGood Config.certificate ∧ (∀ e ∈ imageEntries (Config.certificate.drop 8), stopped s (islandOf (idParts e.1).1 (idParts e.1).2.1) = false) :=
  ⟨sending (pq 0x0805 []) (run), pq 0x0805 [], by rw [accepted_iff]; decide +kernel, by decide +kernel, h, h2⟩

theorem witness_CalCommandsComplete_8 : ∃ (s : State) (p : Pkt) (wr : Option HostFault), accepted (.calSave p wr) s ∧ pw p 2 % 64 = 0 ∧ 199512 ≤ pw p 4 :=
  ⟨sending (pq 0x0806 [0, 0, 0, 199512]) (run), pq 0x0806 [0, 0, 0, 199512], none, by rw [accepted_iff]; decide +kernel⟩

theorem witness_CalCommandsComplete_9 : ∃ (s : State) (p : Pkt) (d : HostData) (got : List Nat) (ws : List Nat), accepted (.calRestore p d) s ∧ pw p 2 % 64 = 0 ∧ hostGives s p d got ∧ 32 ≤ pw p 4 ∧ pw p 4 % 8 = 0 ∧ ws = pad (pw p 4 / 4) got ∧ imageGood ws ∧ (∀ e ∈ imageEntries (ws.drop 8), stopped s (islandOf (idParts e.1).1 (idParts e.1).2.1) = false) :=
  ⟨given (pq 0x0807 [0, 0, 0, 40]) (run), pq 0x0807 [0, 0, 0, 40], .words image, image, image, by rw [accepted_iff]; rw [hostGives_iff]; unfold imageGood; decide +kernel⟩

theorem witness_CalCommandsComplete_10 : ∃ (s : State) (p : Pkt) (d : HostData) (got : List Nat), accepted (.calRestore p d) s ∧ pw p 2 % 64 = 0 ∧ hostGives s p d got ∧ 32 ≤ pw p 4 ∧ pw p 4 % 8 = 0 ∧ imageCrcOk (pad (pw p 4 / 4) got) = false :=
  ⟨given (pq 0x0807 [0, 0, 0, 40]) (run), pq 0x0807 [0, 0, 0, 40], .words [1], [1], by rw [accepted_iff]; rw [hostGives_iff]; decide +kernel⟩

theorem witness_CalCommandsComplete_11 : ∃ (s : State) (ws : List Nat), imageGood ws ∧ (∀ e ∈ imageEntries (ws.drop 8), stopped s (islandOf (idParts e.1).1 (idParts e.1).2.1) = false) :=
  ⟨run, image, by unfold imageGood; decide +kernel⟩

theorem witness_CalCommandsComplete_12 : ∃ (s : State) (ws : List Nat) (e : Nat × Nat), imageGood ws ∧ e ∈ imageEntries (ws.drop 8) ∧ stopped s (islandOf (idParts e.1).1 (idParts e.1).2.1) = true :=
  ⟨run.setWin 2 127 { fatal := true }, image, (MSR.MV_G.id 127 3, 0x40000000), by unfold imageGood; decide +kernel⟩

theorem witness_CalEventRowsComplete_0 : ∃ (s : State) (src : Src) (tag : Nat) (o : SelfCal), (s.cal.selfs.find? fun o => o.src == src && o.tag == tag) = some o :=
  ⟨withCal (fun c => { c with selfs := [⟨.sq 0, 7, [127], []⟩] }) run, .sq 0, 7, ⟨.sq 0, 7, [127], []⟩, by decide +kernel⟩

theorem witness_CalEventRowsComplete_1 : ∃ (s : State) (v : Int) (m : Int) (o : SysCal), s.cal.sys = some o ∧ o.full = none ∧ sysMean o v = some m ∧ -2147483648 ≤ m ∧ m ≤ 2147483647 :=
  ⟨withCal (fun c => { c with sys := some ⟨.sq 0, 7, 0x050FF000, 1024, none, 0, 0, 0⟩ }) run, 2147483647, 2147483647, ⟨.sq 0, 7, 0x050FF000, 1024, none, 0, 0, 0⟩, by decide +kernel⟩

theorem witness_CalEventRowsComplete_2 : ∃ (s : State) (v : Int) (m : Int) (o : SysCal) (a : Int) (g : Int), s.cal.sys = some o ∧ o.full = some a ∧ sysMean o v = some m ∧ -2147483648 ≤ m ∧ m ≤ 2147483647 ∧ sysGain a (s.rd CAL.SYS_R0) m = some g ∧ 0 ≤ g ∧ g ≤ 0xFFFFFFFF ∧ -2147483648 ≤ roundDiv (-(g * s.rd CAL.SYS_R0)) (2 ^ 30) ∧ roundDiv (-(g * s.rd CAL.SYS_R0)) (2 ^ 30) ≤ 2147483647 :=
  ⟨withCal (fun c => { c with sys := some ⟨.sq 0, 7, MSR.MV_G.id 127 3, 1024, some 1000, 0, 4000, 1024⟩ }) run, 0, 1000, ⟨.sq 0, 7, MSR.MV_G.id 127 3, 1024, some 1000, 0, 4000, 1024⟩, 1000, 1073741824, by decide +kernel⟩

theorem witness_CalEventRowsComplete_4 : ∃ (s : State) (o : SysCal), s.cal.sys = some o ∧ o.start + 10000000000 ≤ s.clock :=
  ⟨at_ 10000000000 (withCal (fun c => { c with sys := some ⟨.sq 0, 7, MSR.MV_G.id 127 3, 1024, none, 0, 0, 0⟩ }) run), ⟨.sq 0, 7, MSR.MV_G.id 127 3, 1024, none, 0, 0, 0⟩, by decide +kernel⟩

theorem witness_CalEventRowsComplete_5 : ∃ (s : State), s.pwr.lull < 3 ∧ s.cal.stepAt ≠ some (s.clock / 1000) :=
  ⟨run, by decide +kernel⟩

theorem witness_CalEventRowsComplete_6 : ∃ (s : State) (d : Nat), d < 2 ∧ (s.sequencer d).dskAt ≠ some (s.clock / 1000) :=
  ⟨run, 1, by decide +kernel⟩

theorem witness_CalEventRowsComplete_7 : ∃ (s : State), s.pwr.lull ≠ 3 ∧ s.cal.trackAt + 1000000000 * s.rdN CAL.REF_TRACK_PERIOD ≤ s.clock ∧ s.rd CAL.ZREF_A ≠ 0 ∧ s.cal.selfDone = false :=
  ⟨(at_ 1000000000000000 run).put CAL.ZREF_A 0 1, by decide +kernel⟩

theorem witness_StatusRowsComplete_0 : ∃ (s : State) (blk : Nat) (inst : Nat), winExists blk inst = true ∧ s.barOpen = true ∧ blk ≠ 5 ∧ blk ≠ 8 :=
  ⟨run, 1, 127, by decide +kernel⟩

theorem witness_StatusRowsComplete_1 : ∃ (s : State) (blk : Nat) (inst : Nat), winExists blk inst = true ∧ s.barOpen = true :=
  ⟨run, 16, 0, by decide +kernel⟩

theorem witness_StatusRowsComplete_2 : ∃ (s : State) (blk : Nat) (inst : Nat), winExists blk inst = true ∧ s.barOpen = true :=
  ⟨run, 5, 255, by decide +kernel⟩

theorem witness_StatusRowsComplete_3 : ∃ (s : State) (blk : Nat) (inst : Nat) (v : Nat), winExists blk inst = true ∧ s.barOpen = true ∧ bit v 31 = false :=
  ⟨run, 5, 255, 0, by decide +kernel⟩

theorem witness_StatusRowsComplete_4 : ∃ (s : State) (blk : Nat) (inst : Nat) (v : Nat) (c : Cause), winExists blk inst = true ∧ s.barOpen = true ∧ bit v 31 = true ∧ findCause blk (fld v 16 8) = some c ∧ c.fixed = false ∧ fld v 16 8 ≠ 0xF0 ∧ offers blk (fld v 0 3) = true :=
  ⟨run, 1, 127, 0x80070001, causeOf 1 7, by decide +kernel⟩

theorem witness_StatusRowsComplete_5 : ∃ (s : State) (blk : Nat) (inst : Nat) (v : Nat) (c : Cause), winExists blk inst = true ∧ s.barOpen = true ∧ openAccess s = true ∧ fld v 16 8 < 256 ∧ findCause blk (fld v 16 8) = some c ∧ bit v 30 = false :=
  ⟨run, 1, 127, 0x80070001, causeOf 1 7, by decide +kernel⟩

theorem witness_StatusRowsComplete_6 : ∃ (s : State) (blk : Nat) (inst : Nat), winExists blk inst = true ∧ s.barOpen = true ∧ openAccess s = false :=
  ⟨run.put LC.STATE 0 2, 1, 127, by decide +kernel⟩

theorem witness_StatusRowsComplete_7 : ∃ (s : State) (blk : Nat) (inst : Nat), winExists blk inst = true ∧ bit (s.win blk inst).inject 30 = true ∧ (s.win blk inst).injAt + 1000000 * fld (s.win blk inst).inject 0 16 ≤ s.clock :=
  ⟨run.setWin 1 127 { inject := 2 ^ 30 }, 1, 127, by decide +kernel⟩

theorem witness_BackgroundRowsComplete_0 : ∃ (s : State) (n : Nat), s.pwr.lull ≠ 3 ∧ s.rdN VANE.SCRUB_PROGRESS ≤ n ∧ n ≤ 10000 :=
  ⟨run, 10000, by decide +kernel⟩

theorem witness_BackgroundRowsComplete_1 : ∃ (s : State) (n : Nat), s.pwr.lull ≠ 3 ∧ n < s.rdN VANE.SCRUB_PROGRESS ∧ n ≤ 10000 :=
  ⟨run.put VANE.SCRUB_PROGRESS 0 10000, 9999, by decide +kernel⟩

theorem witness_BackgroundRowsComplete_2 : ∃ (s : State) (n : Nat), s.pwr.lull ≠ 3 ∧ s.rdN VANE.SCRUB_PROGRESS ≤ n ∧ n ≤ 10000 :=
  ⟨run, 10000, by decide +kernel⟩

theorem witness_BackgroundRowsComplete_3 : ∃ (s : State), s.pwr.lull ≠ 3 :=
  ⟨run, by decide +kernel⟩

theorem witness_BackgroundRowsComplete_4 : ∃ (s : State), s.pwr.lull ≠ 3 :=
  ⟨run, by decide +kernel⟩

theorem witness_BackgroundRowsComplete_5 : ∃ (s : State), s.pwr.lull ≠ 3 ∧ scrubDue s 2 10000000000 = true :=
  ⟨at_ 10000000000 run, by decide +kernel⟩

theorem witness_BackgroundRowsComplete_6 : ∃ (s : State) (l : List (Nat × Nat)), s.pwr.lull ≠ 3 ∧ s.vane.shadowAt + 1000000 * s.vane.shadowMs ≤ s.clock ∧ (∀ m ∈ l, m.1 ≠ 1 ∧ m.1 ≠ 4) :=
  ⟨at_ 1000000000000000 run, [(2, 127)], by decide +kernel⟩

theorem witness_BackgroundRowsComplete_7 : ∃ (s : State), s.pwr.lull ≠ 3 ∧ s.vane.shadowAt + 1000000 * s.vane.shadowMs ≤ s.clock :=
  ⟨at_ 1000000000000000 run, by decide +kernel⟩

theorem witness_BackgroundRowsComplete_9 : ∃ (s : State), s.vane.up = true ∧ s.vane.sampleAt ≠ some (s.clock / 1000000) :=
  ⟨run, by decide +kernel⟩

theorem witness_BackgroundRowsComplete_10 : ∃ (s : State), s.vane.sampleAt = some (s.clock / 1000000) :=
  ⟨run.setVane { run.vane with sampleAt := some (run.clock / 1000000) }, by decide +kernel⟩

theorem witness_ManagementRowsComplete_0 : ∃ (s : State) (e : Nat), s.vane.up = true ∧ s.pwr.lull ≠ 3 ∧ e < 256 :=
  ⟨run, 255, by decide +kernel⟩

theorem witness_ManagementRowsComplete_1 : ∃ (s : State), s.vane.up = true ∧ s.pwr.lull ≠ 3 :=
  ⟨run, by decide +kernel⟩

theorem witness_ManagementRowsComplete_2 : ∃ (s : State) (t : Nat), s.vane.up = true ∧ s.pwr.lull ≠ 3 ∧ 0 < t ∧ t < 255 :=
  ⟨run, 254, by decide +kernel⟩

theorem witness_ManagementRowsComplete_3 : ∃ (s : State) (n : Nat), s.vane.up = true ∧ s.pwr.lull ≠ 3 ∧ sensorListed n = true :=
  ⟨run, 50, by decide +kernel⟩

theorem witness_ManagementRowsComplete_4 : ∃ (s : State), s.vane.up = true ∧ s.pwr.lull ≠ 3 :=
  ⟨run, by decide +kernel⟩

theorem witness_ManagementRowsComplete_5 : ∃ (s : State) (i : Nat) (v : List Nat), s.vane.up = true ∧ s.pwr.lull ≠ 3 ∧ measurement s i = some v :=
  ⟨run, 5, [0], by decide +kernel⟩

theorem witness_ManagementRowsComplete_6 : ∃ (s : State) (p : Pkt) (u : State), s.vane.up = true ∧ s.pwr.lull ≠ 3 ∧ p.src = .vane ∧ u = { judgedNow (heard s) p with cmd := { s.cmd with ops := s.cmd.ops ++ [⟨p, .running⟩] } } :=
  ⟨run, ⟨.vane, [0x70001]⟩, sending ⟨.vane, [0x70001]⟩ (heard run), by decide +kernel, by decide +kernel, rfl, rfl⟩

theorem witness_ManagementRowsComplete_7 : ∃ (s : State), s.vane.up = true ∧ s.pwr.lull ≠ 3 :=
  ⟨run, by decide +kernel⟩

theorem witness_LogRowsComplete_0 : ∃ (s : State) (e : Nat × Rec), s.vane.up = true ∧ nextRecord s.vane.queue = some e :=
  ⟨withVane (fun v => { v with queue := [(0, initRecord.r)] }) run, (0, initRecord.r), by decide +kernel⟩

theorem witness_LogRowsComplete_1 : ∃ (s : State), s.vane.flushing = true ∧ s.vane.up = true ∧ s.vane.buf ≠ [] :=
  ⟨withVane (fun v => { v with flushing := true, buf := [initRecord] }) run, by decide +kernel⟩

theorem witness_LogRowsComplete_2 : ∃ (s : State) (p : Pkt) (wr : Option HostFault), accepted (.logRead p wr) s ∧ p.src ≠ .vane ∧ stopped s .vane = false ∧ s.vane.up = true ∧ pw64 p 2 % 64 = 0 ∧ 0 < pw p 6 ∧ pw p 6 ≤ 4096 ∧ s.rdN VANE.LOG_HEAD ≤ pw p 4 + 2 ^ 32 * pw p 5 :=
  ⟨sending (pq 0x0902 [0, 0, 0, 2, 0, 4096]) (run), pq 0x0902 [0, 0, 0, 2, 0, 4096], none, by rw [accepted_iff]; decide +kernel⟩

theorem witness_LogRowsComplete_3 : ∃ (s : State) (p : Pkt) (wr : Option HostFault) (n : Nat), accepted (.logRead p wr) s ∧ p.src ≠ .vane ∧ stopped s .vane = false ∧ s.vane.up = true ∧ pw64 p 2 % 64 = 0 ∧ 0 < pw p 6 ∧ pw p 6 ≤ 4096 ∧ n = min (pw p 6) (s.rdN VANE.LOG_HEAD - (pw p 4 + 2 ^ 32 * pw p 5)) ∧ 0 < n :=
  ⟨sending (pq 0x0902 [0, 0, 0, 0, 0, 4096]) (run), pq 0x0902 [0, 0, 0, 0, 0, 4096], none, 2, by rw [accepted_iff]; decide +kernel⟩

theorem witness_LogRowsComplete_5 : ∃ (s : State) (p : Pkt), accepted (.logClear p) s ∧ grantsOpen (lcFor s p) = true ∧ p.src ≠ .vane ∧ stopped s .vane = false ∧ s.vane.up = true ∧ s.rd VANE.LOG_MEDIA_FAIL ≠ 1 :=
  ⟨sending (pq 0x0903 []) (run), pq 0x0903 [], by rw [accepted_iff]; decide +kernel⟩

theorem witness_LogRowsComplete_6 : ∃ (s : State) (p : Pkt), accepted (.sensorRead p) s ∧ p.src ≠ .vane ∧ stopped s .vane = false ∧ s.vane.up = true ∧ sensorListed (pw p 2) = true :=
  ⟨sending (pq 0x0904 [0, 50]) (run), pq 0x0904 [0, 50], by rw [accepted_iff]; decide +kernel⟩

theorem witness_LogRowsComplete_7 : ∃ (s : State) (p : Pkt), accepted (.sensorRead p) s ∧ p.src ≠ .vane ∧ stopped s .vane = false ∧ s.vane.up = true ∧ sensorListed (pw p 2) = false :=
  ⟨sending (pq 0x0904 [0, 51]) (run), pq 0x0904 [0, 51], by rw [accepted_iff]; decide +kernel⟩

theorem witness_ImageRowsComplete_0 (ws : List Nat) (h : imageOk (given (pq 0x0905 [0, 0, 0, 0, 512]) run) 0 512 (pad 128 ws) = true) : ∃ (s : State) (p : Pkt) (d : HostData) (got : List Nat) (ws : List Nat), accepted (.fwStage p d) s ∧ p.src ≠ .vane ∧ stopped s .vane = false ∧ s.vane.up = true ∧ pw p 2 ≠ 3 ∧ pw64 p 3 % 64 = 0 ∧ 512 ≤ pw p 5 ∧ pw p 5 ≤ slotBytes (pw p 2) ∧ pw p 5 % 4 = 0 ∧ shedding s = false ∧ hostGives s p d got ∧ ws = pad (pw p 5 / 4) got ∧ s.vane.stage = none ∧ ((∀ a, s.vane.act = some a → a.kind ≠ pw p 2)) ∧ imageOk s (pw p 2) (pw p 5) ws = true ∧ ((needsOwner (lcFor s p) = false ∨ ownerSigned s (ws.take 128) (((ws.take 128).drop 44).take 24) = true)) :=
  ⟨given (pq 0x0905 [0, 0, 0, 0, 512]) (run), pq 0x0905 [0, 0, 0, 0, 512], .words ws, ws, pad 128 ws, (by rw [accepted_iff]; exact (show acts (.fwStage (pq 0x0905 [0, 0, 0, 0, 512]) (.words [])) (given (pq 0x0905 [0, 0, 0, 0, 512]) run) = true by decide +kernel)), by decide, by decide +kernel, by decide +kernel, by decide, by decide, by decide, by decide, by decide, by decide +kernel, (by rw [hostGives_iff]; exact ⟨rfl, by decide +kernel⟩), rfl, by decide +kernel, (fun a h => nomatch ((by decide +kernel : (given (pq 0x0905 [0, 0, 0, 0, 512]) run).vane.act = none).symm.trans h)), h, Or.inl (by decide +kernel)⟩

theorem witness_ImageRowsComplete_1 (ws : List Nat) (h : imageOk (given (pq 0x0905 [0, 0, 0, 0, 512]) run) 0 512 (pad 128 ws) = false) : ∃ (s : State) (p : Pkt) (d : HostData) (got : List Nat) (ws : List Nat), accepted (.fwStage p d) s ∧ p.src ≠ .vane ∧ stopped s .vane = false ∧ s.vane.up = true ∧ pw p 2 ≠ 3 ∧ pw64 p 3 % 64 = 0 ∧ 512 ≤ pw p 5 ∧ pw p 5 ≤ slotBytes (pw p 2) ∧ pw p 5 % 4 = 0 ∧ shedding s = false ∧ hostGives s p d got ∧ ws = pad (pw p 5 / 4) got ∧ s.vane.stage = none ∧ ((∀ a, s.vane.act = some a → a.kind ≠ pw p 2)) ∧ imageOk s (pw p 2) (pw p 5) ws = false :=
  ⟨given (pq 0x0905 [0, 0, 0, 0, 512]) (run), pq 0x0905 [0, 0, 0, 0, 512], .words ws, ws, pad 128 ws, (by rw [accepted_iff]; exact (show acts (.fwStage (pq 0x0905 [0, 0, 0, 0, 512]) (.words [])) (given (pq 0x0905 [0, 0, 0, 0, 512]) run) = true by decide +kernel)), by decide, by decide +kernel, by decide +kernel, by decide, by decide, by decide, by decide, by decide, by decide +kernel, (by rw [hostGives_iff]; exact ⟨rfl, by decide +kernel⟩), rfl, by decide +kernel, (fun a h => nomatch ((by decide +kernel : (given (pq 0x0905 [0, 0, 0, 0, 512]) run).vane.act = none).symm.trans h)), h⟩

theorem witness_ImageRowsComplete_2 : ∃ (s : State) (g : Staging), s.vane.stage = some g :=
  ⟨withVane (fun v => { v with stage := some ⟨none, 2, 1⟩ }) run, ⟨none, 2, 1⟩, by decide +kernel⟩

theorem witness_ImageRowsComplete_3 : ∃ (s : State) (g : Staging), s.vane.stage = some g :=
  ⟨withVane (fun v => { v with stage := some ⟨none, 2, 1⟩ }) run, ⟨none, 2, 1⟩, by decide +kernel⟩

theorem witness_ImageRowsComplete_4 : ∃ (s : State) (p : Pkt) (k : Nat) (f : FlashSlot), accepted (.fwActivate p) s ∧ p.src ≠ .vane ∧ stopped s .vane = false ∧ s.vane.up = true ∧ fld (pw p 2) 0 2 ≠ 3 ∧ shedding s = false ∧ ((∀ o, o ∈ s.cmd.ops → pOpcode o.pkt = 0x0C01 → o.stage = .waiting ∨ opDone s o = true)) ∧ k = fld (pw p 2) 0 2 ∧ f = s.flash (standbySlot s k) ∧ s.vane.act = none ∧ s.vane.stage = none ∧ f.state = 1 ∧ ((runningVersion s k ≤ f.version ∨ grantsOpen (lcFor s p) = true)) ∧ s.rdN VANE.FW_SV ≤ f.sv ∧ ((needsOwner (lcFor s p) = false ∨ ownerSigned s f.header f.ownerSig = true)) ∧ compatible s k f = true :=
  ⟨sending (pq 0x0906 [0, 2]) (standbyValid), pq 0x0906 [0, 2], 2, (sending (pq 0x0906 [0, 2]) standbyValid).flash (standbySlot (sending (pq 0x0906 [0, 2]) standbyValid) 2), by rw [accepted_iff]; decide +kernel, by decide +kernel, by decide +kernel, by decide +kernel, by decide +kernel, by decide +kernel, by decide +kernel, rfl, rfl, rfl, rfl, by decide +kernel, Or.inr (by decide +kernel), by decide +kernel, Or.inl (by decide +kernel), by decide +kernel⟩

theorem witness_ImageRowsComplete_5 : ∃ (s : State) (a : Activation), s.vane.act = some a ∧ a.kind = 0 ∧ a.step = 2 ∧ longRunning s = false :=
  ⟨activating 0 2, ⟨none, 0, false, 2, 0⟩, by decide +kernel⟩

theorem witness_ImageRowsComplete_6 : ∃ (s : State) (a : Activation), s.vane.act = some a ∧ a.kind = 0 ∧ a.step = 2 ∧ a.at_ + 1000000 * s.rdN VANE.FW_ACT_WAIT ≤ s.clock :=
  ⟨at_ 1000000000000000 (activating 0 2), ⟨none, 0, false, 2, 0⟩, by decide +kernel⟩

theorem witness_ImageRowsComplete_7 : ∃ (s : State) (a : Activation), s.vane.act = some a ∧ a.kind = 0 ∧ a.step = 3 :=
  ⟨activating 0 3, ⟨none, 0, false, 3, 0⟩, by decide +kernel⟩

theorem witness_ImageRowsComplete_8 : ∃ (s : State) (a : Activation), s.vane.act = some a ∧ a.kind = 0 ∧ a.step = 3 ∧ a.at_ + 2000000000 ≤ s.clock :=
  ⟨at_ 2000000000 (activating 0 3), ⟨none, 0, false, 3, 0⟩, by decide +kernel⟩

theorem witness_ImageRowsComplete_9 : ∃ (s : State) (a : Activation), s.vane.act = some a ∧ a.kind = 0 ∧ a.step = 4 :=
  ⟨activating 0 4, ⟨none, 0, false, 4, 0⟩, by decide +kernel⟩

theorem witness_ImageRowsComplete_10 : ∃ (s : State) (a : Activation), s.vane.act = some a ∧ a.kind = 0 ∧ a.step = 6 :=
  ⟨activating 0 6, ⟨none, 0, false, 6, 0⟩, by decide +kernel⟩

theorem witness_ImageRowsComplete_11 : ∃ (s : State) (a : Activation), s.vane.act = some a ∧ a.kind = 1 :=
  ⟨activating 1 2, ⟨none, 1, false, 2, 0⟩, by decide +kernel⟩

theorem witness_ImageRowsComplete_12 : ∃ (s : State) (a : Activation), s.vane.act = some a ∧ a.kind = 2 ∧ a.step = 2 ∧ s.vane.up = true ∧ s.rd VANE.LOG_MEDIA_FAIL = 1 :=
  ⟨(activating 2 2).put VANE.LOG_MEDIA_FAIL 0 1, ⟨none, 2, false, 2, 0⟩, by decide +kernel⟩

theorem witness_ImageRowsComplete_13 : ∃ (s : State) (p : Pkt) (k : Nat), accepted (.fwStatus p) s ∧ p.src ≠ .vane ∧ stopped s .vane = false ∧ s.vane.up = true ∧ k = pw p 2 ∧ k < 3 :=
  ⟨sending (pq 0x0907 [0, 2]) (run), pq 0x0907 [0, 2], 2, by rw [accepted_iff]; decide +kernel⟩

theorem witness_LifeRowsComplete_0 (h : Config.sigVerifies (Config.vendorKey 0) (token.take 32) ((token.drop 32).take 24) = true) : ∃ (s : State) (p : Pkt) (d : HostData) (t : List Nat) (from_ : Nat) (to_ : Nat) (vendor : Bool) (owner : Bool) (still : Bool) (k : List Nat), accepted (.lcTransition p d) s ∧ p.src ≠ .vane ∧ stopped s .vane = false ∧ s.vane.up = true ∧ pPtr p = true ∧ hostGives s p d t ∧ t.length = 56 ∧ fld (t.getD 0 0) 4 4 = from_ ∧ fld (t.getD 0 0) 0 4 = to_ ∧ lcArrow s from_ to_ = some (vendor, owner, still) ∧ fld (t.getD 0 0) 16 16 = 1 ∧ fld (t.getD 0 0) 8 8 = 0 ∧ t.getD 1 0 ≤ 1 ∧ t.getD 6 0 = 0 ∧ t.getD 7 0 = 0 ∧ from_ = s.lcState ∧ ((still = true → quiet s = true)) ∧ s.vane.act = none ∧ s.rd LC.FAILS ≠ 16 ∧ nonceLives s = true ∧ s.lc.nonce = some (word64 (t.getD 4 0) (t.getD 5 0)) ∧ t.getD 2 0 = serialWords.getD 0 0 ∧ t.getD 3 0 = serialWords.getD 1 0 ∧ (if t.getD 1 0 = 0 then vendor else owner) = true ∧ tokenKey { s with lc := { s.lc with nonce := none } } t = some k ∧ Config.sigVerifies k (t.take 32) ((t.drop 32).take 24) = true ∧ to_ ≠ 3 :=
  ⟨given (pp 0x0C01 [0, 0, 0, 224]) (challenged), pp 0x0C01 [0, 0, 0, 224], .words token, token, 1, 4, true, true, true, Config.vendorKey 0, by rw [accepted_iff]; decide +kernel, by decide, by decide +kernel, by decide +kernel, by decide, (by rw [hostGives_iff]; exact ⟨rfl, by decide +kernel⟩), rfl, by decide, by decide, by decide +kernel, by decide, by decide, by decide, by decide, by decide, by decide +kernel, (fun _ => by decide +kernel), by decide +kernel, by decide +kernel, by decide +kernel, by decide +kernel, rfl, rfl, by decide, rfl, h, by decide⟩

theorem witness_LifeRowsComplete_1 : ∃ (s : State) (p : Pkt) (d : HostData) (t : List Nat), accepted (.lcTransition p d) s ∧ p.src ≠ .vane ∧ stopped s .vane = false ∧ s.vane.up = true ∧ pPtr p = true ∧ hostGives s p d t ∧ t.length = 56 ∧ lcArrow s (fld (t.getD 0 0) 4 4) (fld (t.getD 0 0) 0 4) = none :=
  ⟨given (pp 0x0C01 [0, 0, 0, 224]) (run), pp 0x0C01 [0, 0, 0, 224], .words ([0x00010044] ++ List.replicate 55 0), [0x00010044] ++ List.replicate 55 0, by rw [accepted_iff]; rw [hostGives_iff]; decide +kernel⟩

theorem witness_LifeRowsComplete_2 : ∃ (s : State) (p : Pkt), accepted (.lcChallenge p) s ∧ p.src ≠ .vane ∧ stopped s .vane = false ∧ s.vane.up = true ∧ s.rd LC.FAILS ≠ 16 :=
  ⟨sending (pq 0x0C02 []) (run), pq 0x0C02 [], by rw [accepted_iff]; decide +kernel⟩

theorem witness_LifeRowsComplete_3 : ∃ (s : State) (p : Pkt), accepted (.lcChallenge p) s ∧ p.src ≠ .vane ∧ stopped s .vane = false ∧ s.vane.up = true ∧ s.rd LC.FAILS = 16 :=
  ⟨sending (pq 0x0C02 []) (run.put LC.FAILS 0 16), pq 0x0C02 [], by rw [accepted_iff]; decide +kernel⟩

theorem witness_LifeRowsComplete_4 : ∃ (s : State) (p : Pkt), accepted (.lcStatus p) s ∧ p.src ≠ .vane ∧ stopped s .vane = false ∧ s.vane.up = true :=
  ⟨sending (pq 0x0C03 []) (run), pq 0x0C03 [], by rw [accepted_iff]; decide +kernel⟩

theorem witness_LifeRowsComplete_5 : ∃ (s : State), s.lc.nonce ≠ none ∧ s.lc.nonceAt + 600000000000 ≤ s.clock :=
  ⟨at_ 600000000000 challenged, by decide +kernel⟩

theorem witness_LifeRowsComplete_6 : ∃ (s : State), s.rd LC.ERASE_PENDING = 1 ∧ s.vane.up = true :=
  ⟨run.put LC.ERASE_PENDING 0 1, by decide +kernel⟩

theorem witness_LifeRowsComplete_7 : ∃ (s : State), s.tst.extest = false :=
  ⟨run, by decide +kernel⟩

theorem witness_LifeRowsComplete_8 : ∃ (s : State), s.tst.extest = false ∧ openAccess s = true :=
  ⟨run, by decide +kernel⟩

theorem witness_LifeRowsComplete_9 : ∃ (s : State) (i : TapInstr), i ∈ [TapInstr.extest, .extestPulse, .extestTrain] ∧ openAccess s = true ∧ quiet s = true ∧ s.tst.extest = false :=
  ⟨run, .extestTrain, by decide +kernel⟩

theorem witness_LifeRowsComplete_10 : ∃ (s : State) (i : TapInstr), i ∈ [TapInstr.extest, .extestPulse, .extestTrain] ∧ openAccess s = true ∧ quiet s = false ∧ s.tst.extest = false :=
  ⟨inState 127 1 run, .extestTrain, by decide +kernel⟩

theorem witness_TestRowsComplete_0 : ∃ (s : State) (p : Pkt) (t : LoopTarget), accepted (.loopbackSet p) s ∧ loopTarget p = some t ∧ pw p 2 = 0 ∧ stopped s t.island = false :=
  ⟨sending (pq 0x0B01 [tgt 4 3, 0]) (run), pq 0x0B01 [tgt 4 3, 0], .chan 131, by rw [accepted_iff]; decide +kernel⟩

theorem witness_TestRowsComplete_1 : ∃ (s : State) (p : Pkt) (d : Nat), accepted (.loopbackSet p) s ∧ loopTarget p = some (.dom d) ∧ (pw p 2 = 1 ∨ pw p 2 = 2) ∧ grantsLoop (lcFor s p) false = true ∧ stopped s (.seq d) = false :=
  ⟨sending (pq 0x0B01 [tgt 6 1, 2]) (run), pq 0x0B01 [tgt 6 1, 2], 1, by rw [accepted_iff]; decide +kernel⟩

theorem witness_TestRowsComplete_2 : ∃ (s : State) (p : Pkt) (t : LoopTarget), accepted (.loopbackRun p) s ∧ loopTarget p = some t ∧ depthApplies t (pw p 2) = true ∧ grantsLoop (lcFor s p) false = true ∧ stopped s t.island = false ∧ mayRun s t (pw p 2) (pw64 p 3) = true ∧ (s.tst.runs.any fun r => r.target == pw p 1) = false ∧ pw p 2 ≠ 2 :=
  ⟨sending (pq 0x0B02 [tgt 6 1, 1]) (run), pq 0x0B02 [tgt 6 1, 1], .dom 1, by rw [accepted_iff]; decide +kernel⟩

theorem witness_TestRowsComplete_3 : ∃ (s : State) (p : Pkt) (d : Nat), accepted (.loopbackRun p) s ∧ loopTarget p = some (.dom d) ∧ pw p 2 = 2 ∧ grantsLoop (lcFor s p) false = true ∧ stopped s (.seq d) = false ∧ mayRun s (.dom d) 2 (pw64 p 3) = true ∧ (s.tst.runs.any fun r => r.target == pw p 1) = false :=
  ⟨sending (pq 0x0B02 [tgt 6 1, 2]) (run), pq 0x0B02 [tgt 6 1, 2], 1, by rw [accepted_iff]; decide +kernel⟩

theorem witness_TestRowsComplete_4 : ∃ (s : State) (src : Src) (tag : Nat) (captured : CaptureRun) (means : List Int) (echoes : List (Nat × Nat × Nat × Nat)) (looped : Looped) (r : LoopRun) (v : LoopVerdict), (s.tst.runs.find? fun r => r.src == src && r.tag == tag) = some r ∧ judge r captured means echoes looped = some v ∧ v.errors ≤ 65535 :=
  ⟨withTst (fun t => { t with runs := [{ src := .sq 0, tag := 7, target := tgt 6 1, depth := 2, played := 4096, errors := 65535 }] }) run, .sq 0, 7, {}, [], [], {}, { src := .sq 0, tag := 7, target := tgt 6 1, depth := 2, played := 4096, errors := 65535 }, { errors := 65535, item := 0, value := 0 }, by decide +kernel⟩

theorem witness_TestRowsComplete_5 : ∃ (s : State) (p : Pkt), accepted (.selfTest p) s ∧ grantsLoop (lcFor s p) false = true ∧ s.tst.selfTest = none :=
  ⟨sending (pq 0x0B03 [0, 0x7F]) (run), pq 0x0B03 [0, 0x7F], by rw [accepted_iff]; decide +kernel⟩

theorem witness_TestRowsComplete_6 : ∃ (s : State) (failed : Nat) (r : SelfRun), s.tst.selfTest = some r ∧ failed.land r.mask % 64 = 0 :=
  ⟨withTst (fun t => { t with selfTest := some ⟨.sq 0, 7, 0x7F, 0, 0⟩ }) run, 0x40, ⟨.sq 0, 7, 0x7F, 0, 0⟩, by decide +kernel⟩

theorem witness_TestRowsComplete_7 : ∃ (s : State) (failed : Nat) (r : SelfRun), s.tst.selfTest = some r ∧ failed.land r.mask % 64 ≠ 0 :=
  ⟨withTst (fun t => { t with selfTest := some ⟨.sq 0, 7, 0x7F, 0, 0⟩ }) run, 0x20, ⟨.sq 0, 7, 0x7F, 0, 0⟩, by decide +kernel⟩

theorem witness_SparingRowsKeepTheRest_0 : ∃ (c : Instr) (s : State) (t : State), sparing c = true ∧ exec c s = .next t :=
  ⟨.guardOvl 127, run, after (.guardOvl 127) run, by decide, after_eq (by decide +kernel)⟩

theorem witness_ReadingCommandsChangeNothing_0 : ∃ (c : Instr) (p : Pkt) (code : Nat) (f : Form) (s : State) (t : State), packetOf c = some (p, code, f) ∧ code ∈ [0x0001, 0x0002, 0x0003, 0x0204, 0x0904, 0x0907, 0x0C03] ∧ ((code = 0x0003 → pPtr p = false)) ∧ (p.src = .mbx ∨ (∃ q, p.src = .sq q)) ∧ s.due = [] ∧ exec c s = .next t :=
  ⟨.statusRead (pq 0x0204 [tgt 5 255]), pq 0x0204 [tgt 5 255], 0x0204, { used := [(1, allBits)] }, run, after (.statusRead (pq 0x0204 [tgt 5 255])) run, rfl, by decide, by decide, .inr ⟨0, rfl⟩, rfl, after_eq (by decide +kernel)⟩

theorem witness_DuplicateTagRefused_0 : ∃ (s : State) (q : Nat) (ws : List Nat) (o : Op), o ∈ s.cmd.ops ∧ o.pkt.src = .sq q ∧ pTag o.pkt = pTag ⟨.sq q, pad 16 ws⟩ :=
  ⟨withCmd (fun c => { c with ops := [⟨⟨.sq 63, pad 16 [0x70001]⟩, .waiting⟩] }) run, 63, [0x70001], ⟨⟨.sq 63, pad 16 [0x70001]⟩, .waiting⟩, by decide +kernel⟩

theorem witness_DuplicateTagRefused_1 : ∃ (s : State) (q : Nat) (ws : List Nat) (k : Nat) (e : Cq) (c : Cpl), (k, e) ∈ s.cmd.cqs ∧ c ∈ e.pend ∧ c.owns = false ∧ c.status = 0x0109 ∧ c.src = .sq q ∧ c.tag = pTag ⟨.sq q, pad 16 ws⟩ :=
  ⟨run.setCq 0 { pend := [⟨.sq 63, 7, 0x0109, [], 0, false, false, none⟩] }, 63, [0x70001], 0, { pend := [⟨.sq 63, 7, 0x0109, [], 0, false, false, none⟩] }, ⟨.sq 63, 7, 0x0109, [], 0, false, false, none⟩, by decide +kernel⟩

theorem witness_DuplicateTagRefused_2 : ∃ (s : State) (q : Nat) (ws : List Nat), ((∀ o ∈ s.cmd.ops, o.pkt.src = .sq q → pTag o.pkt ≠ pTag ⟨.sq q, pad 16 ws⟩)) ∧ ((∀ e ∈ s.cmd.cqs, ∀ c ∈ e.2.pend, c.owns = false → c.status = 0x0109 → c.src = .sq q → c.tag ≠ pTag ⟨.sq q, pad 16 ws⟩)) ∧ (pTag ⟨.sq q, pad 16 ws⟩ ≠ 0xFFF ∨ noticeQueue s q = false) :=
  ⟨withCmd (fun c => { c with ops := [⟨⟨.sq 62, pad 16 [0x70001]⟩, .waiting⟩, ⟨⟨.mbx, pad 16 [0x70001]⟩, .waiting⟩] }) run, 63, [0x70001], by decide +kernel⟩

theorem witness_StatusReadGivesItsWindow_0 : ∃ (s : State) (p : Pkt) (blk : Nat) (inst : Nat), accepted (.statusRead p) s ∧ inst < 0x1000 ∧ pw p 1 = blk * 0x1000000 + inst * 0x1000 ∧ winExists blk inst = true ∧ stopped s (islandOf blk inst) = false ∧ s.due = [] :=
  ⟨sending (pq 0x0204 [tgt 5 255]) (run), pq 0x0204 [tgt 5 255], 5, 255, by rw [accepted_iff]; decide +kernel⟩

theorem witness_ReadIndexAdvancesWithinWritten_0 : ∃ (s : State) (n : Nat) (v : Nat), n < 32 ∧ v < 2 ^ 32 ∧ s.barOpen = true :=
  ⟨run, 31, 4294967295, by decide +kernel⟩

theorem witness_UploadStoresItsRegionOnly_0 : ∃ (s : State) (src : Src) (tag : Nat) (got : List Nat) (u : Upload) (r : Region), s.due = [] ∧ (s.uploads.find? fun u => u.src == src && u.tag == tag) = some u ∧ s.region u.handle = some r ∧ uploadRead s u = true ∧ ((∀ x, uploadXfer s u = some x → x.fault = none)) ∧ (quadsOf got).length = r.count ∧ firstBad r.hv false (quadsOf got) 0 (quadsOf got) = none :=
  ⟨{ run.setRegion 1 (some ⟨0, 1, false, 0⟩) with uploads := [⟨.sq 0, 7, 1⟩] }, .sq 0, 7, [0, 0x10000, 0x801, 0], ⟨.sq 0, 7, 1⟩, ⟨0, 1, false, 0⟩, by decide +kernel, by decide +kernel, by decide +kernel, by decide +kernel, (fun _ h => absurd h (by simp [uploadXfer, run, State.reset, State.put, State.setRegion, State.wr])), by decide +kernel, by decide +kernel⟩

theorem witness_VectorLoadStoresItsVectorsOnly_0 : ∃ (s : State) (p : Pkt) (d : Nat) (ws : List Nat), s.due = [] ∧ accepted (.seqVecLoad p (.words ws)) s ∧ targetDom p = some d ∧ stopped s (.seq d) = false ∧ pw p 2 % 64 = 0 ∧ pw p 5 ≠ 0 ∧ pw p 4 + pw p 5 ≤ areaGrans ∧ hostGives s p (.words ws) ws :=
  ⟨given (pq 0x0401 [tgt 6 1, 0, 0, 2097151, 1]) (run), pq 0x0401 [tgt 6 1, 0, 0, 2097151, 1], 1, [], by rw [accepted_iff]; rw [hostGives_iff]; decide +kernel⟩

theorem witness_CauseWritesItsWindow_0 : ∃ (sev : Nat) (action : Nat) (code : Nat), sev < 4 ∧ action < 8 ∧ code < 256 :=
  ⟨3, 7, 255, by decide +kernel⟩

theorem witness_CauseWritesItsWindow_1 : ∃ (blk : Nat) (code : Nat) (c : Cause), findCause blk code = some c :=
  ⟨1, 7, causeOf 1 7, by decide +kernel⟩

theorem witness_ResetLeavesTheSpecsValues_2 : ∃ (c : Nat), c < 132 :=
  ⟨131, by decide +kernel⟩

theorem witness_ResetLeavesTheSpecsValues_3 : ∃ (g : Nat), g < 17 :=
  ⟨16, by decide +kernel⟩

theorem witness_ResetLeavesTheSpecsValues_4 : ∃ (d : Nat), d < 2 :=
  ⟨1, by decide +kernel⟩

theorem witness_ResetLeavesTheSpecsValues_5 : ∃ (n : Nat), n < 32 :=
  ⟨31, by decide +kernel⟩

theorem witness_ResetLeavesTheSpecsValues_11 : ∃ (p : Nat), p < 4 :=
  ⟨3, by decide +kernel⟩


/-- A packet of 15 words. -/
def short : Pkt := ⟨.mbx, List.replicate 15 0⟩

theorem test_packet_source_refused : (Pkt.wf ⟨.sq 64, List.replicate 16 0⟩, Pkt.wf ⟨.mesh 16383 0, List.replicate 16 0⟩,
    Pkt.wf ⟨.nobody, List.replicate 16 0⟩) = (false, false, false) := by decide

theorem test_packet_words_refused : (Pkt.wf ⟨.mbx, List.replicate 17 0⟩, Pkt.wf ⟨.mbx, 4294967296 :: List.replicate 15 0⟩) =
    (false, false) := by decide

theorem test_packet_accepted : (Pkt.wf ⟨.sq 63, List.replicate 16 4294967295⟩, Pkt.wf ⟨.mesh 16382 0, List.replicate 16 0⟩) =
    (true, true) := by decide

/-- Ill-formed commands, one for each check of their rows. -/
def ill0 : List Instr := [
    .lullEnter short, .windowCrossing 128 .volts true, .clampTimeout 128, .limitTimeout 132, .soaTimeout 128 0,
    .soaTimeout 0 4, .senseLoss 132, .guardOvl 128, .railFault 17, .outReqWrite 132 0, .setpointWrite 132 0,
    .irangeWrite 132 0, .vrangeWrite 128 0, .standbyReached 132, .outputRampDone 132, .relayClosureVerified 128,
    .relayVerifyTimeout 128, .ssrOpenDelay 128, .rangeUpChange 132, .rangeDownChange 132, .settleWindowEnd 132,
    .railTargetReached 17, .loopTune short, .loopTuneDone 132 true, .loopPreset short, .rearm short, .clearCounts short,
    .sampleTimerInstant 17, .sampleTriggerPulse 17, .conversionComplete 17 []]

theorem test_ill_formed_refused_0 : ill0.all (fun c => !c.wf) = true := by decide

/-- Ill-formed commands, one for each check of their rows. -/
def ill1 : List Instr := [
    .convFault 132, .converterWakeStart 17, .converterWakeComplete 17, .autoZeroStart 17 0, .autoZeroStart 0 132,
    .autoZeroComplete 132 0 0 0 true, .trigSrcWrite 17 0, .pwrModeWrite 17 0, .timerPeriodWrite 17 true 0,
    .tdacMaskWrite 17 0, .sweUpload short, .sweFree short, .sweLoad short, .sweStart short, .sweArm short,
    .sweResume short, .sweAbort short, .sweRelease short, .sweSignal short, .sweEvStart 17, .sweEvNext 17,
    .sweEvHold 17, .sweEvAbort 17, .sweWaitRelease 17, .sweStartAt 17 0, .sweStartAt 0 4, .sweWaitTimeout 17,
    .pointEnd 17, .pointApply 17, .pulseEdgeStart 17]

theorem test_ill_formed_refused_1 : ill1.all (fun c => !c.wf) = true := by decide

/-- Ill-formed commands, one for each check of their rows. -/
def ill2 : List Instr := [
    .pulseEdgeEnd 17, .swePreemptCut 17, .hvRampEnd 127, .hvRampEnd 132, .hvHwIlimit 127, .hvHwIlimit 132,
    .hvDischargeDone 127 0, .hvDischargeDone 132 0, .dischargeSlow 127, .dischargeSlow 132, .drvOvl 256,
    .pinOvervolt 256, .pmuEnWrite 256 0, .adcGo 4, .adcEvRequest 4, .adcSample 4 true, .adcResult 4 0, .adcFault 4,
    .seqVecLoad short (.words []), .seqSegWrite short (.words []), .seqMapWrite short, .seqParkWrite short,
    .seqPinLoad short, .tsWrite short (.words []), .tsCommit short, .tsCommitBoundary 2, .tsRead short none,
    .seqLoad short, .seqStart short, .seqArm short]

theorem test_ill_formed_refused_2 : ill2.all (fun c => !c.wf) = true := by decide

/-- Ill-formed commands, one for each check of their rows. -/
def ill3 : List Instr := [
    .seqStop short, .seqJump short, .seqResume short, .seqAbort short, .seqIdle short, .seqRelease short,
    .seqClearFails short, .seqCapRead short none, .primingComplete ⟨2, 0⟩, .vectorStart 2 [] [],
    .granuleFetchDone 2 true true, .seqEvStart 2, .seqEvStop 2, .seqJevPulse 2, .seqStartAt 2 0, .seqStartAt 0 4,
    .tbCommit short, .tbRelock short, .tbPhaseStep short, .tbTimeSet short, .eventChannelPulse 64 0, .tick 8 0,
    .trigInputEdge 8 true, .eddyOutputEdge 32, .eddyStretchEnd 32 0, .sevRelease 16, .fabricArm short,
    .evfTestEnter short, .evfTestExit short, .eventFire short]

theorem test_ill_formed_refused_3 : ill3.all (fun c => !c.wf) = true := by decide

/-- Ill-formed commands, one for each check of their rows. -/
def ill4 : List Instr := [
    .evfClear short, .cuRead short none, .sqTailDoorbell 64 0, .cqHeadDoorbell 64 0, .sqEnableWrite 64 true,
    .cqEnableWrite 64 true, .packetArrive 64 [] none, .completionPost 64 none, .cqInterruptTimer 64, .nop short,
    .identify short, .paramGet short (.words []) none, .paramSet short (.words []), .setNow short, .trigger short,
    .abort short, .statusRead short, .nowReserve short, .atsInvalidation 64 0 0, .priResponse 64 true,
    .atsTranslationCompletion 64 0 none, .walkReadCompletion 64 (.entry 0), .stmConfig short, .stmStart short,
    .stmStop short, .stmFlush short, .stmResolve short, .xltInvalidate short, .streamRecordArrive 17, .blockAgeExpiry 32]

theorem test_ill_formed_refused_4 : ill4.all (fun c => !c.wf) = true := by decide

/-- Ill-formed commands, one for each check of their rows. -/
def ill5 : List Instr := [
    .rdIdxDoorbell 32 0, .fwdRdIdxPoll 32 0, .portEnWrite 4 0, .portSignalDetect 4, .portTrainingDone 4 0 0 0 true,
    .portTrainingFail 4, .portTrainingRetry 4, .portLinkLoss 4, .sevFrameRx 4 (⟨0, 0, 0, 0, true, 0⟩),
    .timeFrameRx 4 (⟨true, 0, 0, 0, (0, 0)⟩), .controlFrameRx 4 .crcError, .bulkFrameRx 4 .crcError,
    .meshEnumerate short, .meshRouteRead short none, .meshForward short (.words []), .meshPortCtl short,
    .meshLoopbackEnd 4 0 0, .meshTimeCtl short, .calSelf short, .calSysZero short, .calSysFull short,
    .calCertRead short none, .calCertLoad short, .calSave short none, .calRestore short (.words []), .deskewStep 2,
    .vendorDefinedMessage true short, .logRead short none, .logClear short, .sensorRead short]

theorem test_ill_formed_refused_5 : ill5.all (fun c => !c.wf) = true := by decide

/-- Ill-formed commands, one for each check of their rows. -/
def ill6 : List Instr := [
    .fwStage short (.words []), .fwActivate short, .fwStatus short, .lcTransition short (.words []), .lcChallenge short,
    .lcStatus short, .tapInstruction ⟨.extest, ⟨[], [(.vp 256, 0)]⟩⟩, .loopbackSet short, .loopbackRun short,
    .selfTest short, .hvDischargePeriodEnd 127, .hvDischargePeriodEnd 132, .pmuSwitchDone 256]

theorem test_ill_formed_refused_6 : ill6.all (fun c => !c.wf) = true := by decide


/-- The next state of an answer, or the state itself. -/
def stepOf (s : State) (c : Instr) : State :=
  match exec c s with
  | .next t => t
  | _ => s

/-- The example of R13: 0x0101_1014 lies in CH_017; 0x0112_0014 asks for an instance beyond the block's. -/
theorem test_parameter_id_fields : ((findPrm 0x01011014).map fun r => r.inst) = some 17 ∧ findPrm 0x01120014 = none := by
  decide +kernel

/-- The first point of the staircase example: its words and the fields they carry. -/
def stair : Quad := ⟨0x02AAAB20, 0x40006446, 0x000320FF, 0x00C10500⟩

theorem test_point_entry_fields : eKind stair = 0 ∧ eMode stair = 0 ∧ eRange stair = 2 ∧ eForce stair = 174763 ∧
    eLimit stair = 16384 ∧ eLrange stair = 6 ∧ eDwell stair = 800 ∧ eMdelay stair = 320 := by
  decide +kernel

/-- The record of the example under R103: its words from its fields, TIME_OFS left to the block. -/
theorem test_sample_record_words :
    sampleWords 42 1234567 1 5 1 (-1048576) 1572864 = ⟨0x18000051, 0xF0000001, 0x0012D687, 0x2A000000⟩ := by
  decide +kernel

/-- The example under R79: 12 V with a limit of 100 mA is 1.2 W delivered (153.6 W for 128 channels). -/
theorem test_budget_of_one_channel :
    let t := ((onFv 5 run).put FCH.VRANGE 5 2).put FCH.OUT_REQ 5 2
    let t := (((t.put FCH.IRANGE 5 8).put FCH.ILIM_RANGE 5 8).put FCH.ILIM_POS 5 16384).put FCH.ILIM_NEG 5 16384
    let t := withCh 5 (fun f => { f with parVr := 2 }) t
    (estimateAt t 5 4194304).1 * 10 = 12 * watt := by
  decide +kernel

/-- Point 3 of the pulsed example: 3 V and 350 mA for 0.04 of the time deliver 0.042 W, with a peak of 1.05 W. -/
theorem test_pulse_estimate :
    let base : Quad := ⟨0x00000011, 0x06668000 + 0x33, 40000 * 256 + 0xFF, 0⟩
    let ext : Quad := ⟨0x30000012, 0xE0008000, 800 * 256, 1600 * 256⟩
    let t := { run.setRegion 9 (some ⟨0, 2, false, 1⟩) with sweMem := [(0, base), (1, ext)] }
    let e := pointEstimate t 9 0 9 72 0
    e.1 * 1000 = 42 * watt ∧ e.2.2 * 100 = 105 * watt := by
  decide +kernel

/-- The example at the end of the status chapter: SENSE_LOSS and an injected GUARD_OVL in one cycle. -/
def bothHits : State := recordHits run 1 42 none [⟨0x05, true, false, false⟩, ⟨0x04, false, false, true⟩]

theorem test_two_causes_in_one_cycle :
    bar0Word bothHits 0x01002A00 = 0x58040002 ∧ bar0Word bothHits 0x01002A14 = 0x42040000 ∧
    bar0Word bothHits 0x01002A18 = 0x42040000 := by
  decide +kernel

/-- The same example: the write of 0x5800_0000 clears the three flags and leaves CAUSE and COUNT16. -/
theorem test_status_w1c_keeps_history :
    bar0Word (stepOf bothHits (.registerWrite 0x01002A00 4 0x58000000)) 0x01002A00 = 0x00040002 := by
  decide +kernel

/-- R461: FATAL is cleared only by power-on reset and nRESET. -/
theorem test_fatal_stays :
    bit (bar0Word (stepOf (run.setWin 1 42 { run.win 1 42 with fatal := true }) (.statusW1c 1 42 0xFFFFFFFF [])) 0x01002A00) 31
      = true := by
  decide +kernel

/-- The example of R361: ST_31's window is at 0x0180_1F00. -/
theorem test_window_of_stream_31 :
    bar0Word (run.setWin 9 31 { run.win 9 31 with count := 77 }) 0x01801F10 = 77 := by
  decide +kernel

/-- The example of R364: window 20 at BAR2 offset 0x0027_1000 is granule 1,000 of domain B. -/
theorem test_bar2_window :
    let t := stepOf run (.registerWrite 0x1008 4 20)
    bar2Addr t 0x00271000 = 0x140271000 ∧ dramArea (bar2Addr t 0x00271000) = .vectors 1 2560000 := by
  decide +kernel

/-- R16: a loop cycle lasts 125 ns. -/
theorem test_loop_cycle_is_125_ns : (stepOf run (.loopCycle [])).now = run.now + 125 := by decide +kernel

/-- The wiring example of R294: pulse 101 of a window on EV_20 is dropped, clears bit 2 of GRP_EN and enters RECOVERY. -/
theorem test_loop_monitor_trips :
    let t := { (run.put EVF.MODE 0 1) with evf := { run.evf with lines := [⟨20, false, false, none, none⟩] } }
    let t := t.setChan 20 { t.chan 20 with inWindow := 100 }
    let t := stepOf (t.put EVF.CH_COUNT 0 20 |>.put EVF.GRP_EN 0 0xFF) (.eventChannelPulse 20 0)
    t.rdN EVF.LOOP_CH = 20 ∧ t.rdN EVF.GRP_EN = 0xFB ∧ t.evfMode = 3 := by
  decide +kernel

/-- The leakage example: 0.75 µA on the 2 µA range, not acquired long enough after a selection, reads 0x8065_1800. -/
theorem test_adc_result_word :
    let t := (run.put PIN.PMU_IRANGE 37 0).setConv 0 { run.conv 0 with
      st := 2, sel := 0x65, first := true, acqOk := false, lim := false, noPmu := false, irange := 0, sampAt := 0 }
    (stepOf (t.put TB.SYSTIME_NS 0 2000) (.adcResult 0 6144)).rdN PIN.ADC_RESULT 0 = 0x80651800 := by
  decide +kernel

/-- R338: a NOP completes with SUCCESS. -/
theorem test_nop_succeeds :
    ((stepOf (sending (pq 1 []) run) (.nop (pq 1 []))).cq 0).pend.map (fun c => (c.status, c.tag)) = [(0, 7)] := by
  decide +kernel

/-- The example under R543: on CH_042 means of 4,091,000 and 409,420 units pass, and 4,080,000 fails. -/
theorem test_test_dac_example :
    let means := fun (x : Int) => [-4096000, 0, x, -409600, 0, 409420, -4096000, 0, 4096000]
    verdictWords (judgeReadings 42 4 (means 4091000)) 610 = [0x80000000, 0xFFFFFFFF, 0, 610] ∧
    verdictWords (judgeReadings 42 4 (means 4080000)) 610 = [1, 42, 4080000, 610] := by
  decide +kernel

end Sys2Proof.Tests
end

section
/-!
Every step keeps the canonical form of the stores, the reset state has it, and an empty queue idles.
-/
namespace Sys2Proof.Machine

section
variable {qs : List Instr} {fu : Bool} {s : State}

/-- Every command keeps the queue, the canonical form of the stores and a blown fuse: row by row, what its meaning keeps. -/
theorem kept_exec (c : Instr) (h : Kept qs fu s) : KeptAns qs fu (exec c s) :=
  match c with
  | .powerOnReset vin => kept_execPowerOnReset vin h
  | .holdupBusCharged => kept_execHoldupBusCharged h
  | .bootComplete => kept_execBootComplete h
  | .nreset => kept_execNreset h
  | .nresetRelease vin => kept_execNresetRelease vin h
  | .softReset why => kept_execSoftReset why h
  | .powerFailDetect vin => kept_execPowerFailDetect vin h
  | .inputUvloFall vin => kept_execInputUvloFall vin h
  | .inputOvlo vin => kept_execInputOvlo vin h
  | .externalPfail => kept_execExternalPfail h
  | .shedComplete => kept_execShedComplete h
  | .shedRecovery vin => kept_execShedRecovery vin h
  | .holdupSpent => kept_execHoldupSpent h
  | .holdupTest => kept_execHoldupTest h
  | .holdupTestMeasured us => kept_execHoldupTestMeasured us h
  | .heartbeatRound => kept_execHeartbeatRound h
  | .heartbeatTimeout returned => kept_execHeartbeatTimeout returned h
  | .lullEnter p => kept_execLullEnter p h
  | .lullEntryDone => kept_execLullEntryDone h
  | .lullL2Timeout => kept_execLullL2Timeout h
  | .lullWakeSource w => kept_execLullWakeSource w h
  | .wakeComplete => kept_execWakeComplete h
  | .loopCycle readings => kept_execLoopCycle readings h
  | .windowCrossing ch quantity upper => kept_execWindowCrossing ch quantity upper h
  | .clampTimeout ch => kept_execClampTimeout ch h
  | .limitTimeout ch => kept_execLimitTimeout ch h
  | .soaTimeout ch row => kept_execSoaTimeout ch row h
  | .senseLoss ch => kept_execSenseLoss ch h
  | .guardOvl ch => kept_execGuardOvl ch h
  | .railFault group => kept_execRailFault group h
  | .outReqWrite ch value => kept_execOutReqWrite ch value h
  | .setpointWrite ch value => kept_execSetpointWrite ch value h
  | .irangeWrite ch value => kept_execIrangeWrite ch value h
  | .vrangeWrite ch value => kept_execVrangeWrite ch value h
  | .standbyReached ch => kept_execStandbyReached ch h
  | .outputRampDone ch => kept_execOutputRampDone ch h
  | .relayClosureVerified ch => kept_execRelayClosureVerified ch h
  | .relayVerifyTimeout ch => kept_execRelayVerifyTimeout ch h
  | .ssrOpenDelay ch => kept_execSsrOpenDelay ch h
  | .rangeUpChange ch => kept_execRangeUpChange ch h
  | .rangeDownChange ch => kept_execRangeDownChange ch h
  | .settleWindowEnd ch => kept_execSettleWindowEnd ch h
  | .railTargetReached group => kept_execRailTargetReached group h
  | .loopTune p => kept_execLoopTune p h
  | .loopTuneDone ch solved => kept_execLoopTuneDone ch solved h
  | .loopPreset p => kept_execLoopPreset p h
  | .rearm p => kept_execRearm p h
  | .clearCounts p => kept_execClearCounts p h
  | .sampleTimerInstant group => kept_execSampleTimerInstant group h
  | .sampleTriggerPulse group => kept_execSampleTriggerPulse group h
  | .conversionComplete group codes => kept_execConversionComplete group codes h
  | .convFault ch => kept_execConvFault ch h
  | .converterWakeStart group => kept_execConverterWakeStart group h
  | .converterWakeComplete group => kept_execConverterWakeComplete group h
  | .autoZeroStart group ch => kept_execAutoZeroStart group ch h
  | .autoZeroComplete ch volts amps pair ok => kept_execAutoZeroComplete ch volts amps pair ok h
  | .trigSrcWrite group value => kept_execTrigSrcWrite group value h
  | .pwrModeWrite group value => kept_execPwrModeWrite group value h
  | .timerPeriodWrite group phase value => kept_execTimerPeriodWrite group phase value h
  | .tdacMaskWrite group value => kept_execTdacMaskWrite group value h
  | .sweUpload p => kept_execSweUpload p h
  | .sweUploadDone src tag got fault => kept_execSweUploadDone src tag got fault h
  | .sweFree p => kept_execSweFree p h
  | .sweLoad p => kept_execSweLoad p h
  | .sweStart p => kept_execSweStart p h
  | .sweArm p => kept_execSweArm p h
  | .sweResume p => kept_execSweResume p h
  | .sweAbort p => kept_execSweAbort p h
  | .sweRelease p => kept_execSweRelease p h
  | .sweSignal p => kept_execSweSignal p h
  | .sweEvStart engine => kept_execSweEvStart engine h
  | .sweEvNext engine => kept_execSweEvNext engine h
  | .sweEvHold engine => kept_execSweEvHold engine h
  | .sweEvAbort engine => kept_execSweEvAbort engine h
  | .sweWaitRelease engine => kept_execSweWaitRelease engine h
  | .sweStartAt engine slot => kept_execSweStartAt engine slot h
  | .sweWaitTimeout engine => kept_execSweWaitTimeout engine h
  | .pointEnd engine => kept_execPointEnd engine h
  | .pointApply engine => kept_execPointApply engine h
  | .pulseEdgeStart engine => kept_execPulseEdgeStart engine h
  | .pulseEdgeEnd engine => kept_execPulseEdgeEnd engine h
  | .swePreemptCut engine => kept_execSwePreemptCut engine h
  | .sweepMemoryScrub corrected bad => kept_execSweepMemoryScrub corrected bad h
  | .hvRampEnd ch => kept_execHvRampEnd ch h
  | .hvBoostStarted => kept_execHvBoostStarted h
  | .hvBoostStop => kept_execHvBoostStop h
  | .hvBoostFault => kept_execHvBoostFault h
  | .hvHwIlimit ch => kept_execHvHwIlimit ch h
  | .interlockOpen => kept_execInterlockOpen h
  | .interlockClosed => kept_execInterlockClosed h
  | .hvDischargeDone ch past => kept_execHvDischargeDone ch past h
  | .dischargeSlow ch => kept_execDischargeSlow ch h
  | .drvOvl pin => kept_execDrvOvl pin h
  | .pinOvervolt pin => kept_execPinOvervolt pin h
  | .pmuEnWrite pin value => kept_execPmuEnWrite pin value h
  | .adcGo chip => kept_execAdcGo chip h
  | .adcEvRequest chip => kept_execAdcEvRequest chip h
  | .adcSample chip lim => kept_execAdcSample chip lim h
  | .adcResult chip code => kept_execAdcResult chip code h
  | .adcFault chip => kept_execAdcFault chip h
  | .comparatorInputCrossing cmp above => kept_execComparatorInputCrossing cmp above h
  | .comparatorFilterAccept cmp edges => kept_execComparatorFilterAccept cmp edges h
  | .comparatorModeChangeDone cmp => kept_execComparatorModeChangeDone cmp h
  | .seqVecLoad p d => kept_execSeqVecLoad p d h
  | .seqSegWrite p d => kept_execSeqSegWrite p d h
  | .seqMapWrite p => kept_execSeqMapWrite p h
  | .seqParkWrite p => kept_execSeqParkWrite p h
  | .seqPinLoad p => kept_execSeqPinLoad p h
  | .tsWrite p d => kept_execTsWrite p d h
  | .tsCommit p => kept_execTsCommit p h
  | .tsCommitBoundary dom => kept_execTsCommitBoundary dom h
  | .tsRead p wr => kept_execTsRead p wr h
  | .seqLoad p => kept_execSeqLoad p h
  | .seqStart p => kept_execSeqStart p h
  | .seqArm p => kept_execSeqArm p h
  | .seqStop p => kept_execSeqStop p h
  | .seqJump p => kept_execSeqJump p h
  | .seqResume p => kept_execSeqResume p h
  | .seqAbort p => kept_execSeqAbort p h
  | .seqIdle p => kept_execSeqIdle p h
  | .seqRelease p => kept_execSeqRelease p h
  | .seqClearFails p => kept_execSeqClearFails p h
  | .seqCapRead p wr => kept_execSeqCapRead p wr h
  | .primingComplete primed => kept_execPrimingComplete primed h
  | .vectorStart dom edge window => kept_execVectorStart dom edge window h
  | .granuleFetchDone dom jump good => kept_execGranuleFetchDone dom jump good h
  | .seqEvStart dom => kept_execSeqEvStart dom h
  | .seqEvStop dom => kept_execSeqEvStop dom h
  | .seqJevPulse dom => kept_execSeqJevPulse dom h
  | .seqStartAt dom slot => kept_execSeqStartAt dom slot h
  | .refLoss => kept_execRefLoss h
  | .lockLoss err => kept_execLockLoss err h
  | .refQualElapsed => kept_execRefQualElapsed h
  | .bandSearchDone band => kept_execBandSearchDone band h
  | .lockDeclared err => kept_execLockDeclared err h
  | .lockTimeout => kept_execLockTimeout h
  | .coastBudgetExpiry => kept_execCoastBudgetExpiry h
  | .holdDacTransfer => kept_execHoldDacTransfer h
  | .freqGuardSuppress => kept_execFreqGuardSuppress h
  | .tbCommit p => kept_execTbCommit p h
  | .tbRelock p => kept_execTbRelock p h
  | .tbPhaseStep p => kept_execTbPhaseStep p h
  | .phaseStepApply => kept_execPhaseStepApply h
  | .tbTimeSet p => kept_execTbTimeSet p h
  | .eventChannelPulse ch at_ => kept_execEventChannelPulse ch at_ h
  | .loopMonitorWindow => kept_execLoopMonitorWindow h
  | .tick gen at_ => kept_execTick gen at_ h
  | .trigInputEdge trig rising => kept_execTrigInputEdge trig rising h
  | .eddyOutputEdge cell => kept_execEddyOutputEdge cell h
  | .eddyStretchEnd cell input => kept_execEddyStretchEnd cell input h
  | .sevRelease sev => kept_execSevRelease sev h
  | .evfEchoPulse => kept_execEvfEchoPulse h
  | .fabricArm p => kept_execFabricArm p h
  | .evfTestEnter p => kept_execEvfTestEnter p h
  | .evfTestExit p => kept_execEvfTestExit p h
  | .eventFire p => kept_execEventFire p h
  | .evfClear p => kept_execEvfClear p h
  | .cuRead p wr => kept_execCuRead p wr h
  | .sqTailDoorbell q value => kept_execSqTailDoorbell q value h
  | .cqHeadDoorbell q value => kept_execCqHeadDoorbell q value h
  | .sqEnableWrite q value => kept_execSqEnableWrite q value h
  | .cqEnableWrite q value => kept_execCqEnableWrite q value h
  | .packetFetch => kept_execPacketFetch h
  | .packetArrive q packets fault => kept_execPacketArrive q packets fault h
  | .commandDispatch => kept_execCommandDispatch h
  | .completionPost q fault => kept_execCompletionPost q fault h
  | .cqInterruptTimer q => kept_execCqInterruptTimer q h
  | .mbxGo => kept_execMbxGo h
  | .nop p => kept_execNop p h
  | .identify p => kept_execIdentify p h
  | .paramGet p d wr => kept_execParamGet p d wr h
  | .paramSet p d => kept_execParamSet p d h
  | .setNow p => kept_execSetNow p h
  | .trigger p => kept_execTrigger p h
  | .abort p => kept_execAbort p h
  | .statusRead p => kept_execStatusRead p h
  | .nowReserve p => kept_execNowReserve p h
  | .linkUp speed width => kept_execLinkUp speed width h
  | .linkDown => kept_execLinkDown h
  | .configRequest req => kept_execConfigRequest req h
  | .registerWrite offset size value => kept_execRegisterWrite offset size value h
  | .poisonedWrite bar offset => kept_execPoisonedWrite bar offset h
  | .bar2Read offset len media => kept_execBar2Read offset len media h
  | .bar2Write offset bytes => kept_execBar2Write offset bytes h
  | .msixUnmask vector => kept_execMsixUnmask vector h
  | .hostReadError unit fault => kept_execHostReadError unit fault h
  | .powerStateWrite d3 => kept_execPowerStateWrite d3 h
  | .pmeTurnOff => kept_execPmeTurnOff h
  | .atsInvalidation ctx addr size => kept_execAtsInvalidation ctx addr size h
  | .translationServiceDisable svc => kept_execTranslationServiceDisable svc h
  | .priResponse ctx success => kept_execPriResponse ctx success h
  | .atsTranslationCompletion ctx va res => kept_execAtsTranslationCompletion ctx va res h
  | .walkReadCompletion ctx entry => kept_execWalkReadCompletion ctx entry h
  | .nearLoopbackStart => kept_execNearLoopbackStart h
  | .nearLoopbackEnd lanes errors => kept_execNearLoopbackEnd lanes errors h
  | .farLoopbackEntry => kept_execFarLoopbackEntry h
  | .stmConfig p => kept_execStmConfig p h
  | .stmStart p => kept_execStmStart p h
  | .stmStop p => kept_execStmStop p h
  | .stmFlush p => kept_execStmFlush p h
  | .stmResolve p => kept_execStmResolve p h
  | .xltInvalidate p => kept_execXltInvalidate p h
  | .streamRecordArrive group => kept_execStreamRecordArrive group h
  | .blockAgeExpiry st => kept_execBlockAgeExpiry st h
  | .dmaUnitIssue media => kept_execDmaUnitIssue media h
  | .rdIdxDoorbell st value => kept_execRdIdxDoorbell st value h
  | .fwdRdIdxPoll st value => kept_execFwdRdIdxPoll st value h
  | .portEnWrite port value => kept_execPortEnWrite port value h
  | .portSignalDetect port => kept_execPortSignalDetect port h
  | .portTrainingDone port lanes delay peer same => kept_execPortTrainingDone port lanes delay peer same h
  | .portTrainingFail port => kept_execPortTrainingFail port h
  | .portTrainingRetry port => kept_execPortTrainingRetry port h
  | .portLinkLoss port => kept_execPortLinkLoss port h
  | .sevFrameRx port f => kept_execSevFrameRx port f h
  | .timeFrameRx port f => kept_execTimeFrameRx port f h
  | .controlFrameRx port f => kept_execControlFrameRx port f h
  | .bulkFrameRx port f => kept_execBulkFrameRx port f h
  | .timeExchange sent freq good => kept_execTimeExchange sent freq good h
  | .routeRepairDone g => kept_execRouteRepairDone g h
  | .generationTimeout => kept_execGenerationTimeout h
  | .meshEnumerate p => kept_execMeshEnumerate p h
  | .meshEnumerateDone g => kept_execMeshEnumerateDone g h
  | .meshRouteRead p wr => kept_execMeshRouteRead p wr h
  | .meshForward p d => kept_execMeshForward p d h
  | .meshPortCtl p => kept_execMeshPortCtl p h
  | .meshLoopbackEnd port lanes errors => kept_execMeshLoopbackEnd port lanes errors h
  | .meshTimeCtl p => kept_execMeshTimeCtl p h
  | .calSelf p => kept_execCalSelf p h
  | .calSelfDone src tag found => kept_execCalSelfDone src tag found h
  | .calSysZero p => kept_execCalSysZero p h
  | .calSysFull p => kept_execCalSysFull p h
  | .calSysInputsTaken mean => kept_execCalSysInputsTaken mean h
  | .calSysTimeout => kept_execCalSysTimeout h
  | .calCertRead p wr => kept_execCalCertRead p wr h
  | .calCertLoad p => kept_execCalCertLoad p h
  | .calSave p wr => kept_execCalSave p wr h
  | .calRestore p d => kept_execCalRestore p d h
  | .coefRampStep => kept_execCoefRampStep h
  | .deskewStep dom => kept_execDeskewStep dom h
  | .refTrack ratio => kept_execRefTrack ratio h
  | .statusW1c blk inst mask again => kept_execStatusW1c blk inst mask again h
  | .statusClrHist blk inst again => kept_execStatusClrHist blk inst again h
  | .reactionWrite blk inst value => kept_execReactionWrite blk inst value h
  | .injectGo blk inst value => kept_execInjectGo blk inst value h
  | .injectRepeat blk inst => kept_execInjectRepeat blk inst h
  | .dramScrub corrected bad late progress => kept_execDramScrub corrected bad late progress h
  | .sramScrub corrected bad late => kept_execSramScrub corrected bad late h
  | .shadowCompare mismatches => kept_execShadowCompare mismatches h
  | .telemetryInstant => kept_execTelemetryInstant h
  | .sensorSample readings => kept_execSensorSample readings h
  | .overtempShedTimer => kept_execOvertempShedTimer h
  | .tcxoCheck good => kept_execTcxoCheck good h
  | .vaneWatchdog => kept_execVaneWatchdog h
  | .mctpControlMessage m => kept_execMctpControlMessage m h
  | .pldmMessage m => kept_execPldmMessage m h
  | .spdmMessage m => kept_execSpdmMessage m h
  | .vendorDefinedMessage vendor p => kept_execVendorDefinedMessage vendor p h
  | .logRecordArrive => kept_execLogRecordArrive h
  | .logFlush fails => kept_execLogFlush fails h
  | .logRead p wr => kept_execLogRead p wr h
  | .logClear p => kept_execLogClear p h
  | .sensorRead p => kept_execSensorRead p h
  | .fwStage p d => kept_execFwStage p d h
  | .fwStageDone good => kept_execFwStageDone good h
  | .fwActivate p => kept_execFwActivate p h
  | .fwActDrained => kept_execFwActDrained h
  | .fwActWaitExpiry => kept_execFwActWaitExpiry h
  | .fwActPauseStart => kept_execFwActPauseStart h
  | .fwSwap => kept_execFwSwap h
  | .fwActComplete => kept_execFwActComplete h
  | .microcodeBankSwitch => kept_execMicrocodeBankSwitch h
  | .vaneFwRestart => kept_execVaneFwRestart h
  | .fwStatus p => kept_execFwStatus p h
  | .lcTransition p d => kept_execLcTransition p d h
  | .lcChallenge p => kept_execLcChallenge p h
  | .lcStatus p => kept_execLcStatus p h
  | .nonceExpiry => kept_execNonceExpiry h
  | .erasureDone => kept_execErasureDone h
  | .tapInstruction load => kept_execTapInstruction load h
  | .loopbackSet p => kept_execLoopbackSet p h
  | .loopbackRun p => kept_execLoopbackRun p h
  | .selfTest p => kept_execSelfTest p h
  | .refReturn => kept_execRefReturn h
  | .perstRelease => kept_execPerstRelease h
  | .controllerSuppliesUp => kept_execControllerSuppliesUp h
  | .vaneUp => kept_execVaneUp h
  | .flrComplete => kept_execFlrComplete h
  | .pcieErrorDetected corr => kept_execPcieErrorDetected corr h
  | .hostReadCompletion unit data => kept_execHostReadCompletion unit data h
  | .bar0Read offset size => kept_execBar0Read offset size h
  | .fwActInitTimeout => kept_execFwActInitTimeout h
  | .loopbackRunDone src tag captured means echoes looped => kept_execLoopbackRunDone src tag captured means echoes looped h
  | .selfTestDone failed skipped => kept_execSelfTestDone failed skipped h
  | .hvDischargePeriodEnd ch => kept_execHvDischargePeriodEnd ch h
  | .pmuSwitchDone pin => kept_execPmuSwitchDone pin h

/-- A step takes the front command off the queue and keeps the rest of it, the canonical form and a blown fuse. -/
theorem kept_step (h : s.Canonical) : KeptAns s.pending.tail s.lc.scrapFuse (step s) := by
  have hk := Kept.of h
  unfold step
  cases hp : s.pending with
  | nil => exact ⟨hp, hk.2⟩
  | cons c rest => exact kept_exec c ⟨rfl, hk.2⟩

/-- An empty bank is canonical: nothing in it equals its default. -/
theorem Bank.wf_nil {α : Type} [DecidableEq α] (d : Nat → α) : Bank.wf d [] = true := rfl

end

/-- Settles O5: a step runs the front command, which keeps every store (`kept_step`). -/
theorem everyStepKeepsCanonicalForm : Obligations.EveryStepKeepsCanonicalForm := by
  intro s t h hstep
  have hk := kept_step h
  rw [hstep] at hk
  exact Kept.canonical hk

/-- Settles O6: at reset every bank is empty. -/
theorem resetIsCanonical : Obligations.ResetIsCanonical := by
  constructor <;> exact Bank.wf_nil _

/-- Settles O2: `step` answers the state itself where no command waits. -/
theorem emptyQueueIdles : Obligations.EmptyQueueIdles := by
  intro s hempty
  simp only [step, hempty]

end Sys2Proof.Machine
end

section
/-!
The rows of command packets: each is `runCmd` of its own packet, opcode and form, so that the common checks come before all else.
-/
namespace Sys2Proof.Machine
open Sys2Proof.Claims

section
variable {c : Instr} {p : Pkt} {code : Nat} {f : Form}

/-- A packet's row runs under the common checks of its packet, opcode and form; other rows have no packet. -/
theorem exec_of_packetOf (s : State) (h : packetOf c = some (p, code, f)) : ∃ body, exec c s = runCmd s p code f body := by
  cases c <;> cases h <;> exact ⟨_, rfl⟩

theorem refusal_of_packetOf {s : State} (h : packetOf c = some (p, code, f)) : refusal c s = gate s p code f := by
  simp only [refusal, h]

end

/-- Settles O8: what `runCmd` does with a packet that is not dispatched, and with one that a check refuses. -/
theorem refusedCommandOnlyCompletes : Obligations.RefusedCommandOnlyCompletes := by
  intro c p code f s hpacket
  obtain ⟨body, hrun⟩ := exec_of_packetOf s hpacket
  constructor
  · intro hidle
    exact hrun.trans (runCmd_idle hidle)
  · intro st hdisp hst
    rw [refusal_of_packetOf hpacket] at hst
    exact hrun.trans (runCmd_refused hdisp hst)

end Sys2Proof.Machine
end

section
/-!
Every command answers a next state: the answers that rows end in, the rows that want a lemma of their own, and all rows.
-/
namespace Sys2Proof.Machine

section
variable {s t : State} {P : Prop} {_ : Decidable P} {a b : Answer}

theorem goesOn_next : Outcome.goesOn (.next t) := ⟨t, rfl⟩

theorem goesOn_done : Outcome.goesOn (done t) := goesOn_next

theorem goesOn_if (ha : Outcome.goesOn a) (hb : Outcome.goesOn b) : Outcome.goesOn (if P then a else b) := by
  split <;> assumption

/-- A row that acts where its condition is met, and idles where it is not (log 4). -/
theorem goesOn_due : Outcome.goesOn (if P then done t else .next s) := goesOn_if goesOn_done goesOn_next

/-- A row that idles under a condition, and acts else. -/
theorem goesOn_unless : Outcome.goesOn (if P then .next s else done t) := goesOn_if goesOn_next goesOn_done

theorem goesOn_runCmd {p : Pkt} {code : Nat} {f : Form} {body : Res} : Outcome.goesOn (runCmd s p code f body) := goesOn_due

theorem goesOn_written {w : Wr} : Outcome.goesOn (written s w) := by
  cases w with
  | ok t => exact goesOn_unless
  | error e => exact goesOn_next

/-- The row of a register write. -/
theorem goesOn_write {w : Wr} : Outcome.goesOn (if P then written s w else .next s) := goesOn_if goesOn_written goesOn_next

theorem goesOn_takeMessage {k : State → State} : Outcome.goesOn (takeMessage s k) := goesOn_unless

theorem goesOn_softReset (why : SoftReset) : Outcome.goesOn (execSoftReset why s) := by
  refine goesOn_if goesOn_done ?_
  cases why with
  | perst => exact goesOn_done
  | flr | hotReset | dlDown => exact goesOn_due

/-- A fetch's packets arrive whole, fail, or are not the ones asked for. -/
theorem goesOn_packetArrive (q : Nat) (packets : List (List Nat)) (fault : Option HostFault) :
    Outcome.goesOn (execPacketArrive q packets fault s) := by
  refine goesOn_if goesOn_next ?_
  cases fault with
  | none => exact goesOn_unless
  | some f => exact goesOn_done

theorem goesOn_sweUploadDone (src : Src) (tag : Nat) (got : List Nat) (fault : Option HostFault) :
    Outcome.goesOn (execSweUploadDone src tag got fault s) := by
  dsimp only [execSweUploadDone]
  repeat' with_reducible first | exact goesOn_next | exact goesOn_done | split

theorem goesOn_hostReadError (unit : ReadUnit) (fault : HostFault) : Outcome.goesOn (execHostReadError unit fault s) := by
  cases unit with
  | ring q => exact goesOn_packetArrive q [] (some (readStatus fault))
  | cmd src tag =>
    refine goesOn_if (goesOn_sweUploadDone src tag [] _) ?_
    split <;> exact goesOn_next

theorem goesOn_hostReadCompletion (unit : ReadUnit) (data : List Nat) : Outcome.goesOn (execHostReadCompletion unit data s) := by
  cases unit with
  | ring q => exact goesOn_packetArrive q _ none
  | cmd src tag => exact goesOn_sweUploadDone src tag data none

/-- A vendor message that carries a command (R493) ends as that command does. -/
theorem goesOn_vendorDefinedMessage (vendor : Bool) (p : Pkt) : Outcome.goesOn (execVendorDefinedMessage vendor p s) := by
  refine goesOn_if goesOn_takeMessage (goesOn_if goesOn_next (goesOn_if goesOn_done ?_))
  split
  iterate 5 · exact goesOn_runCmd
  · exact goesOn_done

end

/-- The rows by the shape of what they answer: the packet rows; rows that act where their condition is met and idle else (log 4);
rows that look first at what waits, where every branch is split; register writes; and the rest. -/
theorem goesOn_exec (c : Instr) (s : State) : Outcome.goesOn (exec c s) := by
  cases c with
  | lullEnter | loopTune | loopPreset | rearm | clearCounts | sweUpload | sweFree | sweLoad | sweStart | sweArm
  | sweResume | sweAbort | sweRelease | sweSignal | seqVecLoad | seqSegWrite | seqMapWrite | seqParkWrite
  | seqPinLoad | tsWrite | tsCommit | tsRead | seqLoad | seqStart | seqArm | seqStop | seqJump | seqResume | seqAbort
  | seqIdle | seqRelease | seqClearFails | seqCapRead | tbCommit | tbRelock | tbPhaseStep | tbTimeSet | fabricArm
  | evfTestEnter | evfTestExit | eventFire | evfClear | cuRead | nop | identify | paramGet | paramSet | setNow
  | trigger | abort | statusRead | nowReserve | stmConfig | stmStart | stmStop | stmFlush | stmResolve
  | xltInvalidate | meshEnumerate | meshRouteRead | meshForward | meshPortCtl | meshTimeCtl | calSelf | calSysZero
  | calSysFull | calCertRead | calCertLoad | calSave | calRestore | logRead | logClear | sensorRead | fwStage
  | fwActivate | fwStatus | lcTransition | lcChallenge | lcStatus | loopbackSet | loopbackRun | selfTest =>
    exact goesOn_runCmd
  | powerOnReset | bootComplete | powerFailDetect | inputUvloFall | inputOvlo | shedComplete | shedRecovery
  | holdupTestMeasured | lullEntryDone | lullL2Timeout | wakeComplete | windowCrossing | clampTimeout | limitTimeout
  | soaTimeout | guardOvl | railFault | standbyReached | outputRampDone | relayClosureVerified | relayVerifyTimeout
  | ssrOpenDelay | rangeUpChange | rangeDownChange | settleWindowEnd | railTargetReached | conversionComplete
  | converterWakeStart | sweEvStart | sweEvHold | sweEvAbort | sweStartAt | sweWaitTimeout | pointEnd | pointApply
  | pulseEdgeStart | pulseEdgeEnd | hvRampEnd | hvBoostStarted | hvBoostStop | hvBoostFault | hvHwIlimit
  | interlockOpen | interlockClosed | pinOvervolt | adcEvRequest | adcSample | adcResult | adcFault
  | comparatorFilterAccept | comparatorModeChangeDone | primingComplete | seqStartAt | refQualElapsed | lockTimeout
  | holdDacTransfer | tick | trigInputEdge | sqTailDoorbell | cqHeadDoorbell | sqEnableWrite | cqEnableWrite | mbxGo
  | linkUp | linkDown | registerWrite | poisonedWrite | nearLoopbackEnd | portLinkLoss | deskewStep | statusW1c
  | statusClrHist | reactionWrite | injectGo | injectRepeat | sensorSample | overtempShedTimer | erasureDone
  | pmuSwitchDone => exact goesOn_due
  | lullWakeSource | loopTuneDone | sampleTriggerPulse | convFault | converterWakeComplete | autoZeroComplete
  | hvDischargeDone | dischargeSlow | comparatorInputCrossing | vectorStart | granuleFetchDone | seqEvStart
  | seqEvStop | bandSearchDone | coastBudgetExpiry | phaseStepApply | eventChannelPulse | eddyOutputEdge
  | eddyStretchEnd | sevRelease | evfEchoPulse | packetFetch | commandDispatch | completionPost | configRequest
  | bar2Read | msixUnmask | priResponse | atsTranslationCompletion | walkReadCompletion | streamRecordArrive
  | blockAgeExpiry | dmaUnitIssue | fwdRdIdxPoll | timeFrameRx | controlFrameRx | bulkFrameRx | generationTimeout
  | meshEnumerateDone | meshLoopbackEnd | calSelfDone | calSysInputsTaken | calSysTimeout | logRecordArrive
  | logFlush | fwStageDone | fwActDrained | fwActWaitExpiry | fwActPauseStart | fwSwap | fwActComplete
  | microcodeBankSwitch | vaneFwRestart | perstRelease | vaneUp | fwActInitTimeout | loopbackRunDone | selfTestDone
  | hvDischargePeriodEnd =>
    dsimp only [exec, execLullWakeSource, execLoopTuneDone, execSampleTriggerPulse, execConvFault,
      execConverterWakeComplete, execAutoZeroComplete, execHvDischargeDone, execDischargeSlow,
      execComparatorInputCrossing, execVectorStart, execGranuleFetchDone, execSeqEvStart, execSeqEvStop,
      execBandSearchDone, execCoastBudgetExpiry, execPhaseStepApply, execEventChannelPulse, execEddyOutputEdge,
      execEddyStretchEnd, execSevRelease, execEvfEchoPulse, execPacketFetch, execCommandDispatch, execCompletionPost,
      execConfigRequest, execBar2Read, execMsixUnmask, execPriResponse, execAtsTranslationCompletion,
      execWalkReadCompletion, execStreamRecordArrive, execBlockAgeExpiry, execDmaUnitIssue, execFwdRdIdxPoll,
      execTimeFrameRx, execControlFrameRx, execBulkFrameRx, execGenerationTimeout, execMeshEnumerateDone,
      execMeshLoopbackEnd, execCalSelfDone, execCalSysInputsTaken, execCalSysTimeout, execLogRecordArrive,
      execLogFlush, execFwStageDone, execFwActDrained, execFwActWaitExpiry, execFwActPauseStart, execFwSwap,
      execFwActComplete, execMicrocodeBankSwitch, execVaneFwRestart, execPerstRelease, execVaneUp,
      execFwActInitTimeout, execLoopbackRunDone, execSelfTestDone, execHvDischargePeriodEnd]
    repeat' with_reducible first | exact goesOn_next | exact goesOn_done | split
  | heartbeatTimeout | seqJevPulse | refLoss | lockDeclared | loopMonitorWindow | bar2Write | rdIdxDoorbell
  | timeExchange | routeRepairDone | coefRampStep | refTrack | dramScrub | sramScrub | shadowCompare | tcxoCheck
  | vaneWatchdog | refReturn => exact goesOn_unless
  | holdupBusCharged | holdupSpent | holdupTest | heartbeatRound | cqInterruptTimer | powerStateWrite | pmeTurnOff
  | nearLoopbackStart | farLoopbackEntry | portSignalDetect | portTrainingFail | portTrainingRetry | nonceExpiry
  | controllerSuppliesUp | flrComplete => exact goesOn_if goesOn_next goesOn_next
  | outReqWrite | setpointWrite | irangeWrite | vrangeWrite | trigSrcWrite | pwrModeWrite | tdacMaskWrite
  | pmuEnWrite | adcGo | portEnWrite => exact goesOn_write
  | nreset | loopCycle | sampleTimerInstant | sweepMemoryScrub | freqGuardSuppress | atsInvalidation
  | translationServiceDisable | telemetryInstant | tapInstruction => exact goesOn_done
  | mctpControlMessage | pldmMessage | spdmMessage =>
    dsimp only [exec, execMctpControlMessage, execPldmMessage, execSpdmMessage]
    exact goesOn_takeMessage
  | senseLoss | drvOvl => exact goesOn_if goesOn_done goesOn_due
  | sweEvNext | sweWaitRelease => exact goesOn_if (goesOn_if goesOn_done goesOn_done) goesOn_next
  | tsCommitBoundary | lockLoss => exact goesOn_if goesOn_next (goesOn_if goesOn_done goesOn_due)
  | nresetRelease => exact goesOn_if goesOn_next goesOn_due
  | softReset => exact goesOn_softReset _
  | externalPfail => exact goesOn_if goesOn_next (goesOn_if goesOn_done goesOn_done)
  | autoZeroStart => exact goesOn_if (goesOn_if goesOn_done goesOn_due) goesOn_next
  | timerPeriodWrite => exact goesOn_if goesOn_next goesOn_written
  | sweUploadDone => exact goesOn_sweUploadDone _ _ _ _
  | swePreemptCut =>
    exact goesOn_if (goesOn_if goesOn_done (goesOn_if (goesOn_if goesOn_done goesOn_done) goesOn_next)) goesOn_next
  | packetArrive => exact goesOn_packetArrive _ _ _
  | hostReadError => exact goesOn_hostReadError _ _
  | portTrainingDone => exact goesOn_if (goesOn_if goesOn_done (goesOn_if goesOn_done goesOn_done)) goesOn_next
  | sevFrameRx =>
    exact goesOn_if goesOn_next (goesOn_if goesOn_done (goesOn_if goesOn_done (goesOn_if goesOn_done goesOn_unless)))
  | vendorDefinedMessage => exact goesOn_vendorDefinedMessage _ _
  | pcieErrorDetected => exact goesOn_if goesOn_done goesOn_done
  | hostReadCompletion => exact goesOn_hostReadCompletion _ _
  | bar0Read => exact goesOn_if goesOn_done (goesOn_if goesOn_next goesOn_next)

/-- Settles O3: every row's meaning ends in a next state (`goesOn_exec`). -/
theorem everyCommandGoesOn : Obligations.EveryCommandGoesOn := goesOn_exec

end Sys2Proof.Machine
end

section
/-!
Register writes of parameters (R11): what their checks grant takes effect, what they refuse changes nothing.
-/
namespace Sys2Proof.Machine
open Sys2Proof.Claims

section
variable {s t : State} {w : Wr} {c : Instr} {ch g n : Nat} {v : Int} {e : Nat}

/-- A granted write takes effect where neither SCRAPPED nor an erasure bars register writes (R522, R525). -/
theorem written_ok (hw : writable s) (h : w = .ok t) : written s w = done t := by
  obtain ⟨hlc, herase⟩ := hw
  simp only [h, written, hlc, herase, or_self, if_false]

/-- A refused write changes nothing (R11). -/
theorem written_error (h : w = .error e) : written s w = .next s := by
  rw [h, written]

/-- In SCRAPPED, and while an erasure runs, every register write changes nothing (R522, R525). -/
theorem written_of_not_writable (hw : ¬writable s) : written s w = .next s := by
  have hbar : s.lcState = 4 ∨ s.rd LC.ERASE_PENDING = 1 := by
    simpa only [writable, not_and_or, not_ne_iff] using hw
  cases w with
  | ok t => exact if_pos hbar
  | error e => rfl

/-- So does the row of such a write, whether or not what it names exists. -/
theorem rowWritten_of_not_writable {P : Prop} [Decidable P] (hw : ¬writable s) :
    (if P then written s w else .next s) = .next s := by
  rw [written_of_not_writable hw, ite_self]

theorem goes_of_written (hx : exec c s = written s w) (hw : writable s) (h : w = .ok t) : goes c s t :=
  hx.trans (written_ok hw h)

theorem moves_of_written (hx : exec c s = written s w) (h : w = .error e) : moves c s s :=
  hx.trans (written_error h)

/-! The rows of register writes, for a channel that exists. -/

theorem exec_outReqWrite (h : ch < 132) : exec (.outReqWrite ch v) s = written s (writeOutReq s ch v) := if_pos h
theorem exec_setpointWrite (h : ch < 132) : exec (.setpointWrite ch v) s = written s (writeSetpoint s ch v) := if_pos h
theorem exec_irangeWrite (h : ch < 132) : exec (.irangeWrite ch v) s = written s (writeIrange s ch v) := if_pos h
theorem exec_vrangeWrite (h : ch < 128) : exec (.vrangeWrite ch v) s = written s (writeVrange s ch v) := if_pos h

/-! What the checks of the channel parameters grant. -/

/-- A change that the power budget lets pass is granted (R79). -/
theorem grantCh_allowed (h : budgetAllows s t ch) : grantCh s t ch = .ok (reported t ch) := by
  unfold grantCh reported
  split
  · rfl
  · rename_i hch
    have hpass : ¬(((budgetSums s).1 < (budgetSums t).1 ∨ (budgetSums s).2 < (budgetSums t).2) ∧
        !withinBudget (budgetSums t)) := by
      rcases h with hhv | ⟨h1, h2⟩ | hin
      · exact absurd hhv hch
      · omega
      · simp [hin]
    exact if_neg hpass

theorem iabs_le_iff {m : Int} : iabs v ≤ m ↔ -m ≤ v ∧ v ≤ m := by
  unfold iabs; split <;> omega

/-- OUT_REQ passes its checks (R49, R51, R71, R120, R169, R446, R565). -/
theorem setOutReq_granted (hlo : 0 ≤ v) (hhi : v ≤ 3) (hstop : stopped s (chanIsland ch) = false) (hown : owned s ch = false)
    (hcal : calTarget s ch = false) (hstate : s.chState ch < 6 ∨ v = 0)
    (hfault : s.chState ch = 7 → (s.win (cb ch) (ci ch)).fault = false)
    (hon : 2 ≤ v → shedding s = false ∧ tdacMasked s ch = false) (hlock : 128 ≤ ch → v ≠ 0 → s.rd HVC.INTLK_STATE ≠ 0)
    (h71 : r71Holds s ch v.toNat (s.setpoint ch) (s.ch ch).parVr = true) : setOutReq s ch v = .ok (outReqSet s ch v) := by
  have hrange : ¬(v < 0 ∨ 3 < v) := by omega
  have htripped : ¬((s.chState ch = 6 ∨ s.chState ch = 7) ∧ v ≠ 0) := by omega
  have hclear : ¬(s.chState ch = 7 ∧ (s.win (cb ch) (ci ch)).fault = true) := fun h => by simp [hfault h.1] at h
  have hshed : ¬(2 ≤ v ∧ (shedding s = true ∨ tdacMasked s ch = true)) := fun h => by simp [hon h.1] at h
  have hclosed : ¬(128 ≤ ch ∧ v ≠ 0 ∧ s.rd HVC.INTLK_STATE = 0) := fun h => hlock h.1 h.2.1 h.2.2
  simp only [setOutReq, if_neg hrange, hstop, hown, if_neg htripped, if_neg hclear, if_neg hshed, hcal, if_neg hclosed, h71,
    Bool.not_true, Bool.false_eq_true, if_false]
  rfl

/-- Whether a write of SETPOINT waits for the rails (R78), in the words of the model and of the statement. -/
theorem setpointWaits_iff :
    (0 < if connected (s.chState ch) = true ∧ (s.ch ch).motion ≠ .ramping then setpointDelay s ch v else 0) ↔
    (connected (s.chState ch) && (s.ch ch).motion != .ramping && decide (0 < setpointDelay s ch v)) = true := by
  split <;> simp_all

/-- SETPOINT passes its checks (R40, R71, R78, R565); the delay it answers is of no concern to a register write. -/
theorem setSetpoint_granted (hv : iabs v ≤ 4194304) (hstop : stopped s (chanIsland ch) = false) (hown : owned s ch = false)
    (h71 : r71Holds s ch (s.onMode ch) v (s.rdN FCH.VRANGE ch) = true)
    (hshed : shedding s = true → iabs v ≤ iabs (s.setpoint ch)) :
    ∃ d, setSetpoint s ch v = .ok (setpointSet s ch v, d) := by
  have hrange : ¬(v < -4194304 ∨ 4194304 < v) := by have := iabs_le_iff.1 hv; omega
  have hless : ¬(shedding s = true ∧ iabs (s.setpoint ch) < iabs v) := fun h => absurd (hshed h.1) (by omega)
  simp only [setSetpoint, setpointSet, ← setpointWaits_iff, if_neg hrange, hstop, hown, if_neg hless, h71,
    Bool.not_true, Bool.false_eq_true, if_false, false_and]
  exact ⟨_, rfl⟩

/-- IRANGE passes its checks (R63, R65). -/
theorem setIrange_granted (hlo : 0 ≤ v) (hhi : v ≤ (if ch < 128 then 8 else 6)) (hstop : stopped s (chanIsland ch) = false)
    (hown : owned s ch = false)
    (hkeep : forces s ch 3 = true → iabs (reexpress (s.setpoint ch) (cifs ch (s.ch ch).parIr) (cifs ch v.toNat)) ≤ 4194304) :
    setIrange s ch v = .ok (irangeSet s ch v) := by
  have hrange : ¬(v < 0 ∨ (if ch < 128 then (8 : Int) else 6) < v) := by omega
  have hholds : ¬(forces s ch 3 = true ∧
      4194304 < iabs (reexpress (s.setpoint ch) (cifs ch (s.ch ch).parIr) (cifs ch v.toNat))) :=
    fun h => absurd (hkeep h.1) (by omega)
  unfold forces at hholds
  simp only [setIrange, if_neg hrange, hstop, hown, if_neg hholds, Bool.false_eq_true, if_false]
  rfl

/-- VRANGE passes its checks (R65). -/
theorem setVrange_granted (hlo : 0 ≤ v) (hhi : v ≤ 3) (hstop : stopped s (chanIsland ch) = false)
    (hown : owned s ch = false)
    (hkeep : forces s ch 2 = true → iabs (reexpress (s.setpoint ch) (vfs (s.ch ch).parVr) (vfs v.toNat)) ≤ 4194304) :
    setVrange s ch v = .ok (vrangeSet s ch v) := by
  have hrange : ¬(v < 0 ∨ 3 < v) := by omega
  have hholds : ¬(forces s ch 2 = true ∧
      4194304 < iabs (reexpress (s.setpoint ch) (vfs (s.ch ch).parVr) (vfs v.toNat))) :=
    fun h => absurd (hkeep h.1) (by omega)
  unfold forces at hholds
  simp only [setVrange, if_neg hrange, hstop, hown, if_neg hholds, Bool.false_eq_true, if_false]
  rfl

/-! The same for the measurement path, the pins and the mesh ports. -/

theorem exec_trigSrcWrite (h : g < 17) : exec (.trigSrcWrite g v) s = written s (writeTrigSrc s g v) := if_pos h
theorem exec_pwrModeWrite (h : g < 17) : exec (.pwrModeWrite g v) s = written s (writePwrMode s g v) := if_pos h
theorem exec_timerPeriodWrite (h : g < 17) : exec (.timerPeriodWrite g false v) s = written s (writeTimerPeriod s g v) :=
  if_neg (Nat.not_le.2 h)
theorem exec_timerPhaseWrite (h : g < 17) : exec (.timerPeriodWrite g true v) s = written s (writeTimerPhase s g v) :=
  if_neg (Nat.not_le.2 h)
theorem exec_tdacMaskWrite (h : g < 17) : exec (.tdacMaskWrite g v) s = written s (writeTdacMask s g v) := if_pos h
theorem exec_pmuEnWrite (h : n < 256) : exec (.pmuEnWrite n v) s = written s (writePmuEn s n v) := if_pos h
theorem exec_adcGo (h : n < 4) : exec (.adcGo n) s = written s (writeAdcGo s (chipHome n)) := if_pos h
theorem exec_portEnWrite (h : n < 4) : exec (.portEnWrite n v) s = written s (writePortEn s n v) := if_pos h

/-! What their checks grant. -/

theorem writeTrigSrc_granted (hlo : 0 ≤ v) (hhi : v ≤ 3) (hstop : stopped s (groupIsland g) = false) :
    writeTrigSrc s g v = .ok ((s.put MSR.TRIG_SRC (groupHome g) v).setGroup g { s.group g with srcPending := true }) := by
  have hrange : ¬(v < 0 ∨ 3 < v) := by omega
  simp only [writeTrigSrc, if_neg hrange, hstop, Bool.false_eq_true, if_false]
  rfl

theorem writePwrMode_granted (hlo : 0 ≤ v) (hhi : v ≤ 1) (hstop : stopped s (groupIsland g) = false) :
    writePwrMode s g v = .ok ((s.put MSR.PWR_MODE (groupHome g) v).setGroup g { s.group g with modePending := true }) := by
  have hrange : ¬(v < 0 ∨ 1 < v) := by omega
  simp only [writePwrMode, if_neg hrange, hstop, Bool.false_eq_true, if_false]
  rfl

theorem writeTimerPeriod_granted (hlo : (if g < 16 then 4 else 16) ≤ v) (hhi : v ≤ 4294967295)
    (hstop : stopped s (groupIsland g) = false) : writeTimerPeriod s g v = .ok (periodSet s g v) := by
  have hrange : ¬(v < (if g < 16 then (4 : Int) else 16) ∨ 4294967295 < v) := by omega
  simp only [writeTimerPeriod, if_neg hrange, hstop, Bool.false_eq_true, if_false]
  rfl

theorem writeTimerPhase_granted (hlo : 0 ≤ v) (hhi : v < s.rd MSR.TIMER_PERIOD (groupHome g))
    (hstop : stopped s (groupIsland g) = false) :
    writeTimerPhase s g v = .ok ((s.put MSR.TIMER_PHASE (groupHome g) v).setGroup g { s.group g with gridPending := true }) := by
  have hrange : ¬(v < 0 ∨ s.rd MSR.TIMER_PERIOD (groupHome g) ≤ v) := by omega
  simp only [writeTimerPhase, if_neg hrange, hstop, Bool.false_eq_true, if_false]
  rfl

/-- TDAC_MASK is granted where it reaches only channels in OFF or STANDBY (R120). -/
theorem writeTdacMask_granted (hlo : 0 ≤ v) (hhi : v ≤ (if g < 16 then 255 else 15))
    (hstop : stopped s (groupIsland g) = false)
    (hoff : ∀ c ∈ groupChans g, bit v.toNat (c - groupHome g) = true → s.chState c ≤ 1) :
    writeTdacMask s g v = .ok (tdacChanged (s.wrNext MSR.TDAC_MASK (groupHome g) 0 v) g) := by
  have hrange : ¬(v < 0 ∨ (if g < 16 then (255 : Int) else 15) < v) := by omega
  have hfree : ¬((groupChans g).any fun c => bit v.toNat (c - groupHome g) && decide (1 < s.chState c)) = true := by
    simpa using hoff
  simp only [writeTdacMask, if_neg hrange, hstop, if_neg hfree, Bool.false_eq_true, if_false]

/-- What PMU_EN asks before it is held (R184, R446, R565). -/
theorem writePmuEn_granted (hlo : 0 ≤ v) (hhi : v ≤ 1) (hstop : stopped s (.seq (n / 128)) = false) (hcal : calPin s n = false)
    (hshed : v = 1 → shedding s = false) :
    writePmuEn s n v = .ok (if s.rd PIN.PMU_EN n = v then s else pmuSet s n v) := by
  have hrange : ¬(v < 0 ∨ 1 < v) := by omega
  have hfree : ¬(calPin s n = true ∨ (v = 1 ∧ shedding s = true)) := by
    rintro (h | ⟨h1, h⟩)
    · simp [hcal] at h
    · simp [hshed h1] at h
  simp only [writePmuEn, if_neg hrange, hstop, if_neg hfree, Bool.false_eq_true, if_false, pmuSet, ← apply_ite Except.ok]

theorem writeAdcGo_granted (hstop : stopped s (.seq (chipHome n / 128)) = false) :
    writeAdcGo s (chipHome n) = .ok (requestConv s (chipHome n / 64) false) := by
  simp only [writeAdcGo, hstop, Bool.false_eq_true, if_false]

theorem writePortEn_zero (hstop : stopped s .msh = false) :
    writePortEn s n 0 = .ok (disablePort (s.put MSH.PORT_EN (n + 1) 0) n) := by
  simp [writePortEn, hstop]

theorem writePortEn_one (hstop : stopped s .msh = false) : writePortEn s n 1 =
    .ok (if portState (s.put MSH.PORT_EN (n + 1) 1) n = 0 then (s.put MSH.PORT_EN (n + 1) 1).put MSH.PORT_STATE (n + 1) 1
      else s.put MSH.PORT_EN (n + 1) 1) := by
  simp [writePortEn, hstop]

end

/-- Settles O17: the checks of each write grant it under the premises (`setOutReq_granted` and the like, `grantCh_allowed`), and
`written` says what a granted, a refused and a barred write come to. -/
theorem channelWriteRowsComplete : Obligations.ChannelWriteRowsComplete := by
  refine ⟨?_, ?_, ?_, ?_, ?_, ?_, ?_, ?_, ?_, ?_, ?_, ?_, ?_⟩
  · intro s ch v hw hch hlo hhi hstop hown hcal hstate hfault hon hlock h71 hbud
    refine goes_of_written (exec_outReqWrite hch) hw ?_
    rw [writeOutReq, setOutReq_granted hlo hhi hstop hown hcal hstate hfault hon hlock h71]
    exact grantCh_allowed hbud
  · intro s ch v hw hch hv hstop hown h71 hshed hbud
    obtain ⟨d, hset⟩ := setSetpoint_granted hv hstop hown h71 hshed
    refine goes_of_written (exec_setpointWrite hch) hw ?_
    rw [writeSetpoint, hset]
    exact grantCh_allowed hbud
  · intro s ch v hw hch hlo hhi hstop hown hkeep hbud
    refine goes_of_written (exec_irangeWrite hch) hw ?_
    rw [writeIrange, setIrange_granted hlo hhi hstop hown hkeep]
    exact grantCh_allowed hbud
  · intro s ch v hw hch hlo hhi hstop hown hkeep hbud
    refine goes_of_written (exec_vrangeWrite hch) hw ?_
    rw [writeVrange, setVrange_granted hlo hhi hstop hown hkeep]
    exact grantCh_allowed hbud
  · exact fun s ch v t hw hch h => goes_of_written (exec_outReqWrite hch) hw h
  · exact fun s ch v t hw hch h => goes_of_written (exec_setpointWrite hch) hw h
  · exact fun s ch v t hw hch h => goes_of_written (exec_irangeWrite hch) hw h
  · exact fun s ch v t hw hch h => goes_of_written (exec_vrangeWrite hch) hw h
  · exact fun s ch v e hch h => moves_of_written (exec_outReqWrite hch) h
  · exact fun s ch v e hch h => moves_of_written (exec_setpointWrite hch) h
  · exact fun s ch v e hch h => moves_of_written (exec_irangeWrite hch) h
  · exact fun s ch v e hch h => moves_of_written (exec_vrangeWrite hch) h
  · intro s ch v hw
    exact ⟨rowWritten_of_not_writable hw, rowWritten_of_not_writable hw, rowWritten_of_not_writable hw,
      rowWritten_of_not_writable hw⟩

/-- Settles O21: the checks of each write grant it under the premises (`writeTrigSrc_granted` and the like), and `written` says what a
granted and a refused one come to. -/
theorem measureAndPinWriteRowsComplete : Obligations.MeasureAndPinWriteRowsComplete := by
  refine ⟨?_, ?_, ?_, ?_, ?_, ?_, ?_, ?_, ?_, ?_, ?_, ?_, ?_, ?_, ?_, ?_, ?_⟩
  · intro s g v hw hg hlo hhi hstop
    exact ⟨_, rfl, goes_of_written (exec_trigSrcWrite hg) hw (writeTrigSrc_granted hlo hhi hstop)⟩
  · intro s g v hw hg hlo hhi hstop
    exact ⟨_, rfl, goes_of_written (exec_pwrModeWrite hg) hw (writePwrMode_granted hlo hhi hstop)⟩
  · intro s g v hw hg hlo hhi hstop
    exact goes_of_written (exec_timerPeriodWrite hg) hw (writeTimerPeriod_granted hlo hhi hstop)
  · intro s g v hw hg hlo hhi hstop
    exact ⟨_, rfl, goes_of_written (exec_timerPhaseWrite hg) hw (writeTimerPhase_granted hlo hhi hstop)⟩
  · intro s g v hw hg hlo hhi hstop hoff
    exact ⟨_, rfl, goes_of_written (exec_tdacMaskWrite hg) hw (writeTdacMask_granted hlo hhi hstop hoff)⟩
  · intro s n v hw hn hlo hhi hstop hcal hshed hnew
    refine goes_of_written (exec_pmuEnWrite hn) hw ?_
    rw [writePmuEn_granted hlo hhi hstop hcal hshed, if_neg hnew]
  · intro s n v hw hn hlo hhi hstop hcal hshed hold
    refine goes_of_written (exec_pmuEnWrite hn) hw ?_
    rw [writePmuEn_granted hlo hhi hstop hcal hshed, if_pos hold]
  · exact fun s n hw hn hstop => goes_of_written (exec_adcGo hn) hw (writeAdcGo_granted hstop)
  · exact fun s n hw hn hstop => goes_of_written (exec_portEnWrite hn) hw (writePortEn_zero hstop)
  · exact fun s n hw hn hstop => ⟨_, rfl, goes_of_written (exec_portEnWrite hn) hw (writePortEn_one hstop)⟩
  · exact fun s g v e hg h => moves_of_written (exec_trigSrcWrite hg) h
  · exact fun s g v e hg h => moves_of_written (exec_pwrModeWrite hg) h
  · exact fun s g v e hg h => moves_of_written (exec_timerPeriodWrite hg) h
  · exact fun s g v e hg h => moves_of_written (exec_timerPhaseWrite hg) h
  · exact fun s g v e hg h => moves_of_written (exec_tdacMaskWrite hg) h
  · exact fun s n v e hn h => moves_of_written (exec_pmuEnWrite hn) h
  · exact fun s n v e hn h => moves_of_written (exec_portEnWrite hn) h

end Sys2Proof.Machine
end

section
/-!
The queue of waiting commands (log 1): a step takes its front command, and no command touches the rest.
-/
namespace Sys2Proof.Machine

/-- Settles O1: `step` takes the front command off the queue and runs it. -/
theorem stepRunsFrontCommand : Obligations.StepRunsFrontCommand := fun _ _ _ => rfl

/-- Settles O4: every row keeps the queue (`kept_exec`). -/
theorem noCommandTouchesQueue : Obligations.NoCommandTouchesQueue := by
  intro c s t hcanon hnext
  have hkept : KeptAns s.pending s.lc.scrapFuse (exec c s) := kept_exec c (Kept.of hcanon)
  rw [hnext] at hkept
  exact Kept.pending hkept

end Sys2Proof.Machine
end

section
/-!
The supervisor and Lull: what the rows do where their condition is met, and that shutting down pins and mesh ports leaves the
power state alone.
-/
namespace Sys2Proof.Machine
open Sys2Proof.Claims

section
variable {s : State} {p : Pkt}

/-! What leaves the power state alone. -/

theorem foldl_pwr {α : Type} {g : State → α → State} (hg : ∀ s a, (g s a).pwr = s.pwr) (l : List α) (s : State) :
    (l.foldl g s).pwr = s.pwr := by
  induction l generalizing s with
  | nil => rfl
  | cons a l ih => exact (ih (g s a)).trans (hg s a)

@[simp] theorem sensorEvent_pwr (s : State) (n st : Nat) : (sensorEvent s n st).pwr = s.pwr := by
  unfold sensorEvent; split <;> rfl

@[simp] theorem powerRec_pwr (s : State) (kind w6 w7 : Nat) : (powerRec s kind w6 w7).pwr = s.pwr :=
  (still_powerRec kind w6 w7 (Still.rfl s)).pwr

@[simp] theorem record_pwr (s : State) (blk inst code : Nat) (high : Bool) : (record s blk inst code high).pwr = s.pwr :=
  (still_record blk inst code high (Still.rfl s)).pwr

@[simp] theorem startRepair_pwr (s : State) : (startRepair s).pwr = s.pwr := (still_startRepair (Still.rfl s)).pwr

@[simp] theorem syncLost_pwr (s : State) : (syncLost s).pwr = s.pwr := by
  unfold syncLost
  split
  · exact record_pwr _ _ _ _ _
  · rfl

@[simp] theorem portGone_pwr (s : State) (n : Nat) : (portGone s n).pwr = s.pwr := by
  dsimp only [portGone]
  split
  · split <;> simp
  · split <;> simp

@[simp] theorem dropLoopback_pwr (s : State) (n : Nat) : (dropLoopback s n).pwr = s.pwr := by
  unfold dropLoopback
  split
  · exact (still_complete _ _ _ _ _ _ (Still.rfl _)).pwr
  · rfl

@[simp] theorem meshDown_pwr (s : State) : (meshDown s).pwr = s.pwr := by
  refine foldl_pwr (fun s n => ?_) _ s
  rw [disablePort, dropLoopback_pwr, portGone_pwr, State.put_pwr]

@[simp] theorem abandonConv_pwr (s : State) (chip : Nat) : (abandonConv s chip).pwr = s.pwr := by
  unfold abandonConv; split <;> rfl

theorem restSequencer_pwr (s : State) (d : Nat) : (if s.seqState d = 0 then s else seqToIdle s d).pwr = s.pwr := by
  split
  · rfl
  · exact (still_seqToIdle d (Still.rfl s)).pwr

theorem restPin_pwr (s : State) (n : Nat) (v : PinRun) :
    (if (s.setPin n v).pinState n = 3 then ((s.setPin n v).put PIN.PMU_EN n 0).put PIN.STATE n 0 else s.setPin n v).pwr = s.pwr := by
  split <;> rfl

@[simp] theorem pinsHigh_pwr (s : State) : (pinsHigh s).pwr = s.pwr := by
  unfold pinsHigh
  dsimp only
  rw [foldl_pwr abandonConv_pwr, foldl_pwr (fun s n => restPin_pwr s n _), foldl_pwr restSequencer_pwr]

theorem lullMode_pwr (a b t : State) (c : Cmp) :
    (if effMode a c = effMode b c then t else modeChanges (effMode a c) (effMode b c) t c).pwr = t.pwr := by
  split
  · rfl
  · exact (still_modeChanges _ _ c (Still.rfl t)).pwr

/-- A change of the Lull state changes that alone of the power state: the comparators it moves lie elsewhere. -/
@[simp] theorem setLull_pwr (s : State) (v : Nat) : (setLull s v).pwr = { s.pwr with lull := v } := by
  unfold setLull
  dsimp only
  rw [foldl_pwr (fun t c => lullMode_pwr _ _ t c)]

/-! Groups whose islands stop (R34, R98). -/

/-- A group samples nothing: no sampler runs and no instant is scheduled. -/
def groupRests (s : State) (g : Nat) : Prop := (s.group g).samp = .idle ∧ (s.group g).instant = none

theorem groupRests_stopGroup (s : State) (g k : Nat) (h : k = g ∨ groupRests s k) : groupRests (stopGroup s g) k := by
  unfold groupRests stopGroup
  rw [State.group_setGroup]
  split
  · exact ⟨rfl, rfl⟩
  · next hne => exact h.resolve_left hne

theorem groupRests_foldl_stopGroup (l : List Nat) (s : State) (k : Nat) (h : k ∈ l ∨ groupRests s k) :
    groupRests (l.foldl stopGroup s) k := by
  induction l generalizing s with
  | nil => exact h.resolve_left List.not_mem_nil
  | cons g l ih =>
    refine ih _ ?_
    rw [List.mem_cons, or_assoc, or_left_comm] at h
    exact h.imp_right (groupRests_stopGroup s g k)

/-! LULL_ENTER (R32, R37). -/

/-- Whether a source's completion is out at once: a queue's is still to be posted. -/
def postsAtOnce (src : Src) : Bool := match src with | .sq _ => false | _ => true

theorem postsAtOnce_eq_true {src : Src} (h : ∀ n, src ≠ .sq n) : postsAtOnce src = true := by
  cases src with
  | sq n => exact absurd rfl (h n)
  | mbx | mesh | vane | nobody => rfl

/-- LULL_ENTER where Lull may be entered. -/
def lullEntered (s : State) (p : Pkt) : State :=
  { s with
    pwr := { s.pwr with
      lull := if postsAtOnce p.src then 2 else 1, lullCmd := some (p.src, pTag p), lullAt := s.clock, wake := none,
      wakeSeen := [], wakeEv := s.rdN VANE.LULL_WAKE_EV, wakeSmb := s.rd VANE.LULL_WAKE_SMB == 1,
      wakeMon := s.rdN VANE.LULL_WAKE_MON }
    hl := { s.hl with hostState := if postsAtOnce p.src then 2 else s.hl.hostState } }

theorem replies_lullEnter (hacc : accepted (.lullEnter p) s) (hmay : mayLull s p = true) :
    replies (.lullEnter p) p s St.SUCCESS [] (lullEntered s p) := by
  obtain ⟨hdisp, -, hgate, -⟩ := hacc
  calc exec (.lullEnter p) s
    _ = done (finish p (if !mayLull s p then refuse s St.WRONG_STATE else ok (lullEntered s p))) := runCmd_passed hdisp hgate
    _ = done (finish p (ok (lullEntered s p))) := by rw [hmay]; rfl

/-- A natural number that fits an unsigned parameter reads back as it was put. -/
theorem rdN_put_nat (s : State) {q : Prm} (n : Nat) {v : Nat} (hsgn : q.sgn = false) (hv : v < 2 ^ q.wid) :
    (s.put q n v).rdN q n = v := by
  have hwrap : q.wrap v = v := by
    rw [Prm.wrap, hsgn, if_neg Bool.false_ne_true]
    exact Int.emod_eq_of_lt (Int.natCast_nonneg v) (mod_cast hv)
  rw [State.rdN, State.rd_put, if_pos rfl, hwrap, Int.toNat_natCast]

/-! A heartbeat round (R23). -/

/-- What takes part in a heartbeat round. -/
def heartbeatParts (s : State) : List Island := if s.pwr.lull = 3 ∨ !s.hl.supplies then [.vane] else clockedIslands

/-- The tokens of a round are in: every part that missed it is marked. -/
def heartbeatMarked (back : List Island) (s : State) : State :=
  (heartbeatParts s).foldl (beat back) { s with pwr := { s.pwr with round := false } }

/-- Whether ALIVE toggles after a round: every part returned its token and no window shows FATAL. -/
def heartbeatAlive (back : List Island) (s : State) : Bool :=
  (heartbeatParts s).all (fun i => back.contains i) && !((heartbeatMarked back s).wins.any fun e => e.2.fatal)

/-- A round whose outcome for ALIVE differs from the last one's is reported (R491). -/
def heartbeatReported (back : List Island) (s : State) : State :=
  let u := heartbeatMarked back s
  let alive := heartbeatAlive back s
  if u.pwr.toggles = alive then u else sensorEvent u 64 (b2n alive)

theorem heartbeatReported_pwr (back : List Island) (s : State) :
    (heartbeatReported back s).pwr = (heartbeatMarked back s).pwr := by
  unfold heartbeatReported
  dsimp only
  split
  · rfl
  · exact sensorEvent_pwr _ _ _

/-- The end of a heartbeat round. -/
def heartbeatEnded (back : List Island) (s : State) : State :=
  let t := heartbeatReported back s
  let alive := heartbeatAlive back s
  { t with pwr := { t.pwr with toggles := alive, alive := if alive then !t.pwr.alive else t.pwr.alive } }

theorem goes_heartbeatTimeout (back : List Island) (hround : s.pwr.round = true) (hup : s.vane.up = true) :
    goes (.heartbeatTimeout back) s (heartbeatEnded back s) :=
  if_neg (by simp [hround, hup])

/-! The end of an entry into Lull (R32, R34). -/

/-- Pins are at high impedance, ports DISABLED and the groups stopped. -/
def groupsStopped (s : State) : State := (List.range 17).foldl stopGroup (meshDown (pinsHigh s))

/-- The capture units have lost their entries as well. -/
def islandsAsleep (s : State) : State := { groupsStopped s with evf := { (groupsStopped s).evf with cuFifo := [] } }

theorem islandsAsleep_pwr (s : State) : (islandsAsleep s).pwr = s.pwr := by
  have hstop (s : State) (g : Nat) : (stopGroup s g).pwr = s.pwr := (still_stopGroup g (Still.rfl s)).pwr
  dsimp only [islandsAsleep, groupsStopped]
  rw [foldl_pwr hstop, meshDown_pwr, pinsHigh_pwr]

theorem groupRests_islandsAsleep (s : State) {g : Nat} (hg : g < 17) : groupRests (islandsAsleep s) g := by
  have hrests : groupRests (groupsStopped s) g := groupRests_foldl_stopGroup _ _ g (.inl (List.mem_range.2 hg))
  dsimp only [groupRests, State.group, islandsAsleep] at hrests ⊢
  exact hrests

theorem goes_lullEntryDone (hlull : s.pwr.lull = 2) (hlink : s.hl.link = .l2) :
    goes .lullEntryDone s (if s.pwr.wake.isSome then beginWake (powerRec (setLull (islandsAsleep s) 3) 4 0 0)
      else powerRec (setLull (islandsAsleep s) 3) 4 0 0) := by
  have hwake : (powerRec (setLull (islandsAsleep s) 3) 4 0 0).pwr.wake = s.pwr.wake := by
    rw [powerRec_pwr, setLull_pwr, islandsAsleep_pwr]
  dsimp -zeta only [goes, exec]
  rw [execLullEntryDone, if_pos ⟨hlull, hlink⟩]
  extract_lets _ stoppedGroups _ u t
  have hstopped : stoppedGroups = groupsStopped s := rfl
  have hu : u = islandsAsleep s :=
    congrArg (fun v : State => { v with evf := { v.evf with cuFifo := [] } }) hstopped
  have ht : t = powerRec (setLull (islandsAsleep s) 3) 4 0 0 := congrArg (fun u => powerRec (setLull u 3) 4 0 0) hu
  rw [ht, hwake, done]

end

/-- Settles O14: each row acts on its condition; a heartbeat round's report of a change of ALIVE leaves the power state alone
(`sensorEvent_pwr`). -/
theorem supervisorRowsComplete : Obligations.SupervisorRowsComplete := by
  refine ⟨?_, ?_, ?_, ?_, ?_⟩
  · exact fun s hrun hdue => if_pos ⟨hrun, hdue⟩
  · intro s us htest
    have hcap : min (us / 4) 65535 < 2 ^ VANE.HOLDUP_CAP.wid := by dsimp only [VANE.HOLDUP_CAP]; omega
    exact ⟨_, rdN_put_nat _ 0 rfl hcap, rfl, if_pos htest⟩
  · exact fun s hup => if_pos hup
  · intro s back hround hup
    have hparts : heartbeatParts s = if s.pwr.lull = 3 ∨ s.hl.supplies = false then [.vane] else clockedIslands := by
      simp only [heartbeatParts, Bool.not_eq_true']
    refine ⟨_, _, hparts, rfl, _, goes_heartbeatTimeout back hround hup, rfl, ?_⟩
    simp only [heartbeatEnded, heartbeatReported_pwr]
    rfl
  · intro s hup
    have hacts : ¬(!s.vane.up) = true := by simp [hup]
    exact ⟨_, rfl, rfl, rfl, rfl, if_neg hacts⟩

/-- Settles O15: each row acts on its condition. At the end of an entry the islands that stop and the mode changes of comparators leave
the wake that came meanwhile as it was (`setLull_pwr`). -/
theorem lullRowsComplete : Obligations.LullRowsComplete := by
  refine ⟨?_, ?_, ?_, ?_, ?_, ?_, ?_, ?_⟩
  · intro s p n hsrc hacc hmay
    have hpost : postsAtOnce p.src = false := by rw [hsrc]; rfl
    exact ⟨_, replies_lullEnter hacc hmay, by simp [lullEntered, hpost], rfl, rfl, rfl, by simp [lullEntered, hpost]⟩
  · intro s p hsrc hacc hmay
    have hpost : postsAtOnce p.src = true := postsAtOnce_eq_true hsrc
    exact ⟨_, replies_lullEnter hacc hmay, by simp [lullEntered, hpost], by simp [lullEntered, hpost]⟩
  · exact fun s hlull hlink => ⟨islandsAsleep s, islandsAsleep_pwr s, fun g hg => groupRests_islandsAsleep s hg, rfl,
      goes_lullEntryDone hlull hlink⟩
  · exact fun s hlull hlink hdue => if_pos ⟨hlull, hlink, hdue⟩
  · intro s w c hen hlull hcmd
    simp [goes, exec, execLullWakeSource, done, hen, hlull, hcmd]
  · intro s w hen hlull
    simp [goes, exec, execLullWakeSource, done, hen, hlull]
  · intro s w hen hlull hwake
    simp [moves, exec, execLullWakeSource, hen, hlull, hwake]
  · exact fun s hlull htb hlink => if_pos ⟨hlull, htb, hlink⟩

end Sys2Proof.Machine
end

section
/-!
What the operations on channels do to the parameters, the channels and the comparators: reads after a write of a parameter, and the
entry of a channel's state.
-/
namespace Sys2Proof.Machine

section
variable {s : State} {c st : Nat}

/-! Parameters of different blocks or numbers lie apart. -/

theorem Prm.id_mod (p : Prm) (inst i : Nat) : p.id inst i % 0x1000 = (p.num + p.str * i) % 0x1000 := by
  unfold Prm.id; omega

/-- The place of a parameter's index 0 in the ID space, the same for every unit of its block (R12). -/
def Prm.place (p : Prm) : Nat × Nat := (p.blk, p.num % 0x1000)

theorem Prm.id_ne {p q : Prm} (n m : Nat) (h : q.place ≠ p.place) : q.id m 0 ≠ p.id n 0 := by
  intro hid
  have hblk := congrArg (· / 0x1000000) hid
  have hnum := congrArg (· % 0x1000) hid
  simp only [Prm.id_blk, Prm.id_mod, Nat.mul_zero, Nat.add_zero] at hblk hnum
  exact h (Prod.ext hblk hnum)

theorem State.rd_put_ne {p q : Prm} (s : State) (n m : Nat) (v : Int) (h : q.place ≠ p.place) :
    (s.put p n v).rd q m = s.rd q m := by
  rw [State.rd_put, if_neg (Prm.id_ne n m h)]

theorem State.rd_put_same (s : State) (p : Prm) (n : Nat) (v : Int) : (s.put p n v).rd p n = p.wrap v := by
  rw [State.rd_put, if_pos rfl]

theorem State.eff_put_ne {p q : Prm} (s : State) (n m : Nat) (v : Int) (h : q.place ≠ p.place) :
    (s.put p n v).eff q m = s.eff q m := by
  unfold State.eff
  rw [State.rd_put_ne s n m v h]
  rfl

/-- A parameter that FCH and HVC share is written in one of the two. -/
theorem State.rd_cput_ne {f h q : Prm} (s : State) (c m : Nat) (v : Int) (hf : q.place ≠ f.place) (hh : q.place ≠ h.place) :
    (s.cput f h c v).rd q m = s.rd q m := by
  unfold State.cput cp
  split
  · exact State.rd_put_ne s _ m v hf
  · exact State.rd_put_ne s _ m v hh

theorem State.eff_cput_ne {f h q : Prm} (s : State) (c m : Nat) (v : Int) (hf : q.place ≠ f.place) (hh : q.place ≠ h.place) :
    (s.cput f h c v).eff q m = s.eff q m := by
  unfold State.cput cp
  split
  · exact State.eff_put_ne s _ m v hf
  · exact State.eff_put_ne s _ m v hh

theorem chState_cput_ne {f h : Prm} (s : State) (c m : Nat) (v : Int) (hff : FCH.STATE.place ≠ f.place)
    (hfh : FCH.STATE.place ≠ h.place) (hhf : HVC.STATE.place ≠ f.place) (hhh : HVC.STATE.place ≠ h.place) :
    (s.cput f h m v).chState c = s.chState c := by
  unfold State.chState State.crd cp
  split
  · rw [State.rd_cput_ne s m _ v hff hfh]
  · rw [State.rd_cput_ne s m _ v hhf hhh]

/-! What the restart of an averager, a mode change and the windows of a connection change. -/

theorem restartAvg_eq (s : State) (c : Nat) : ∃ msr grp, restartAvg s c = { s with msr := msr, grp := grp } := by
  unfold restartAvg
  dsimp only
  split <;> exact ⟨_, _, rfl⟩

theorem modeChanges_eq (old new : Nat) (s : State) (x : Cmp) :
    ∃ draws cmp, modeChanges old new s x = { s with draws := draws, cmp := cmp } := by
  unfold modeChanges
  split
  · exact ⟨_, _, rfl⟩
  · split <;> exact ⟨_, _, rfl⟩

theorem windowsFollow_eq (s : State) (c : Nat) (on : Bool) :
    ∃ draws cmp, windowsFollow s c on = { s with draws := draws, cmp := cmp } := by
  unfold windowsFollow
  induction List.range 4 generalizing s with
  | nil => exact ⟨_, _, rfl⟩
  | cons k l ih =>
    rw [List.foldl_cons]
    obtain ⟨d₁, c₁, h₁⟩ := modeChanges_eq (if on then ctlMode (cmpCtl s (.window c k)) else 0)
      (if on then 0 else ctlMode (cmpCtl s (.window c k))) s (.window c k)
    cases on with
    | true =>
      simp only [if_true] at h₁ ⊢
      rw [h₁]
      obtain ⟨d₂, c₂, h₂⟩ := ih _
      exact ⟨d₂, c₂, h₂⟩
    | false =>
      simp only [Bool.false_eq_true, if_false] at h₁ ⊢
      rw [h₁]
      obtain ⟨d₂, c₂, h₂⟩ := ih _
      exact ⟨d₂, c₂, h₂⟩

/-! The entry of a channel's state (R48, R73, R109). -/

/-- What a channel keeps as it enters a state: an injected cause of the state left is over. -/
def Fch.entering (f : Fch) (st : Nat) : Fch := { f with injectedNow := f.injectedNow && decide (6 ≤ st) }

/-- The channels as one of them enters a state. -/
def enteringCh (s : State) (c st : Nat) : State :=
  if st < 6 ∧ (s.ch c).injectedNow then s.setCh c { s.ch c with injectedNow := false } else s

theorem setChState_eq (s : State) (c st : Nat) : ∃ draws cmp msr grp hv, s.setChState c st =
    { (enteringCh s c st).cput FCH.STATE HVC.STATE c st with draws := draws, cmp := cmp, msr := msr, grp := grp, hv := hv } := by
  dsimp -zeta only [State.setChState]
  extract_lets old _ entered put avg
  have havg : ∃ msr grp, avg = { put with msr := msr, grp := grp } := by
    dsimp only [avg]
    split
    · exact restartAvg_eq put c
    · exact ⟨_, _, rfl⟩
  obtain ⟨msr, grp, havg⟩ := havg
  obtain ⟨draws, cmp, hwin⟩ := windowsFollow_eq avg c (connected st)
  rw [hwin, havg]
  split
  · split <;> exact ⟨_, _, _, _, _, rfl⟩
  · split <;> exact ⟨_, _, _, _, _, rfl⟩

theorem enteringCh_par (s : State) (c st : Nat) : (enteringCh s c st).par = s.par := by
  unfold enteringCh; split <;> rfl

theorem enteringCh_old (s : State) (c st : Nat) : (enteringCh s c st).old = s.old := by
  unfold enteringCh; split <;> rfl

theorem ch_enteringCh (s : State) (c st k : Nat) :
    (enteringCh s c st).ch k = if k = c then (s.ch c).entering st else s.ch k := by
  unfold enteringCh
  split
  · next h => simp [Fch.entering, Nat.not_le.2 h.1]
  · next h =>
    split
    · next hk =>
      have hinj : ((s.ch c).injectedNow && decide (6 ≤ st)) = (s.ch c).injectedNow := by
        cases hi : (s.ch c).injectedNow with
        | false => rfl
        | true =>
          have hst : 6 ≤ st := by_contra fun hlt => h ⟨by omega, hi⟩
          simp [hst]
      rw [hk, Fch.entering, hinj]
    · rfl

/-- Entering a state writes the parameter STATE alone. -/
theorem setChState_par (s : State) (c st : Nat) : (s.setChState c st).par = (s.cput FCH.STATE HVC.STATE c st).par := by
  obtain ⟨_, _, _, _, _, h⟩ := setChState_eq s c st
  rw [h]
  show Bank.set _ (enteringCh s c st).par _ _ = _
  rw [enteringCh_par]
  rfl

theorem setChState_old (s : State) (c st : Nat) : (s.setChState c st).old = s.old := by
  obtain ⟨_, _, _, _, _, h⟩ := setChState_eq s c st
  rw [h]
  exact enteringCh_old s c st

theorem ch_setChState (s : State) (c st k : Nat) :
    (s.setChState c st).ch k = if k = c then (s.ch c).entering st else s.ch k := by
  obtain ⟨_, _, _, _, _, h⟩ := setChState_eq s c st
  rw [h, ← ch_enteringCh]
  rfl

theorem rd_setChState_ne {q : Prm} (s : State) (c st m : Nat) (hf : q.place ≠ FCH.STATE.place)
    (hh : q.place ≠ HVC.STATE.place) : (s.setChState c st).rd q m = s.rd q m := by
  rw [← State.rd_cput_ne s c m st hf hh, State.rd, setChState_par, ← State.rd]

theorem eff_setChState_ne {q : Prm} (s : State) (c st m : Nat) (hf : q.place ≠ FCH.STATE.place)
    (hh : q.place ≠ HVC.STATE.place) : (s.setChState c st).eff q m = s.eff q m := by
  rw [State.eff, State.eff, rd_setChState_ne s c st m hf hh, setChState_old]

/-- The state entered reads back. -/
theorem chState_setChState (s : State) (c : Nat) {st : Nat} (hst : st < 8) : (s.setChState c st).chState c = st := by
  have hwrap : ∀ p : Prm, p.wid = 3 → p.sgn = false → (p.wrap st).toNat = st := by
    intro p hw hs
    rw [Prm.wrap, hs, hw]
    simp only [Bool.false_eq_true, if_false]
    omega
  unfold State.chState State.crd
  rw [State.rd, setChState_par, ← State.rd, State.cput, State.rd_put_same]
  unfold cp
  split <;> exact hwrap _ rfl rfl

/-- Between states that are both connected, or both not, the window comparators stay as they are. -/
theorem setChState_cmp {s : State} {c st : Nat} (h : connected (s.chState c) = connected st) :
    (s.setChState c st).cmp = s.cmp := by
  dsimp -zeta only [State.setChState]
  extract_lets old _ entered put avg
  have hput : put.cmp = s.cmp := by
    dsimp only [put, entered]
    split <;> rfl
  have havg : avg.cmp = s.cmp := by
    dsimp only [avg]
    split
    · obtain ⟨_, _, he⟩ := restartAvg_eq put c
      rw [he]; exact hput
    · exact hput
  rw [if_pos h]
  split
  · exact havg
  · split <;> exact havg

end
end Sys2Proof.Machine
end

section
/-!
One loop cycle, and the protection events of the force loop.
-/
namespace Sys2Proof.Machine
open Sys2Proof.Claims

section
variable {s : State} {ch k g : Nat} {q : Quantity} {up : Bool}

/-! Writes that wait for a loop-cycle boundary (R82). -/

theorem eff_wrNext (s : State) (p : Prm) (n i : Nat) (x : Int) : (s.wrNext p n i x).eff p n i = s.eff p n i := by
  rw [State.eff, State.wrNext, State.wr_old, Bank.get_set_self, Option.getD_some]

theorem rd_wrNext (s : State) (p : Prm) (n i : Nat) (x : Int) : (s.wrNext p n i x).rd p n i = p.wrap x := by
  rw [State.wrNext, State.rd_wr, if_pos rfl]

theorem eff_takenOver (s : State) (p : Prm) (n i : Nat) : s.takenOver.eff p n i = s.rd p n i := rfl

/-! A crossing of a clamp window (R49, R70, R73, R74). -/

theorem State.comp_setComp (s : State) (x : Cmp) (v : CmpRun) : (s.setComp x v).comp x = v := Bank.get_set_self _ _ _ _

/-- The raw output of a window comparator outside its window says which threshold was crossed. -/
theorem insideRaw_windowOf (q : Quantity) (up : Bool) : (!insideRaw (windowOf q up)) = up := by
  cases q <;> cases up <;> rfl

/-- The output of a window comparator shows its quantity beyond the threshold. -/
def windowSeen (s : State) (c k : Nat) : State :=
  s.setComp (.window c k) { s.comp (.window c k) with raw := !insideRaw k, unresolved := false, resolve := none }

theorem exec_windowCrossing (hch : ch < 128) (hon : connected (s.chState ch) = true) :
    exec (.windowCrossing ch q up) s = done (windowOut s ch (windowOf q up)) := if_pos ⟨hch, hon⟩

theorem windowOut_steady (h : (s.comp (.window ch k)).changing = false) :
    windowOut s ch k = engageClamp (windowSeen s ch k) ch k := by
  have hsteady : ¬(s.comp (.window ch k)).changing = true := by simp [h]
  exact if_neg hsteady

theorem windowOut_changing (h : (s.comp (.window ch k)).changing = true) :
    windowOut s ch k = s.setComp (.window ch k) { s.comp (.window ch k) with waits := some !(insideRaw k) } := if_pos h

/-- The clamp has taken the channel: its counts run anew, it is in CLAMP, and CLAMP_COUNT counts. -/
def clampTaken (s : State) (c : Nat) : State :=
  ((s.setCh c { s.ch c with clampCyc := 0, clampMain := 0, clampLim := 0, limCyc := 0 }).setChState c 5).bump
    FCH.CLAMP_COUNT c

theorem engageClamp_on (hch : ch < 128) (hst : s.chState ch = 2 ∨ s.chState ch = 3) : engageClamp s ch k =
    publishLimit ((clampTaken (setLimitSrc s s ch (windowSide s ch k)) ch).publish
      ((clampTaken (setLimitSrc s s ch (windowSide s ch k)) ch).eff FCH.EV_CLAMP ch)) ch true := by
  have hact : ch < 128 ∧ 2 ≤ s.chState ch ∧ s.chState ch ≤ 4 := by omega
  have hne : s.chState ch ≠ 4 := by omega
  simp only [engageClamp, if_pos hact, if_neg hne]
  rfl

theorem engageClamp_limit (hch : ch < 128) (hst : s.chState ch = 4) : engageClamp s ch k =
    (clampTaken s ch).publish ((clampTaken s ch).eff FCH.EV_CLAMP ch) := by
  simp only [engageClamp, hch, hst, true_and, if_true]
  rfl

theorem ch_clampTaken (s : State) (c : Nat) : (clampTaken s c).ch c =
    { s.ch c with clampCyc := 0, clampMain := 0, clampLim := 0, limCyc := 0 }.entering 5 := by
  show (State.setChState _ _ _).ch c = _
  rw [ch_setChState, if_pos rfl, State.ch_setCh, if_pos rfl]

theorem eff_clampTaken_ne {p : Prm} (s : State) (c m : Nat) (hcount : p.place ≠ FCH.CLAMP_COUNT.place)
    (hf : p.place ≠ FCH.STATE.place) (hh : p.place ≠ HVC.STATE.place) : (clampTaken s c).eff p m = s.eff p m :=
  (State.eff_put_ne _ c m _ hcount).trans (eff_setChState_ne _ c 5 m hf hh)

theorem chState_clampTaken (s : State) (hch : ch < 128) : (clampTaken s ch).rdN FCH.STATE ch = 5 := by
  have hst := chState_setChState (s.setCh ch { s.ch ch with clampCyc := 0, clampMain := 0, clampLim := 0, limCyc := 0 }) ch
    (st := 5) (by decide)
  rw [State.chState, State.crd, cp, ci, if_pos hch, if_pos hch] at hst
  rw [State.rdN, clampTaken, State.bump]
  exact (congrArg Int.toNat (State.rd_put_ne _ ch ch _ (by decide))).trans hst

theorem comp_clampTaken {c : Nat} (hon : connected (s.chState c) = true) (x : Cmp) : (clampTaken s c).comp x = s.comp x := by
  have hcmp : (clampTaken s c).cmp = s.cmp := setChState_cmp (s := s.setCh c _) hon
  rw [State.comp, State.comp, hcmp]

theorem comp_windowSeen (s : State) (c k : Nat) : ((windowSeen s c k).comp (.window c k)).raw = !insideRaw k := by
  rw [windowSeen, State.comp_setComp]

/-- The same, with LIMIT_SRC of a channel that leaves an ON state. -/
def windowLimited (s : State) (c k : Nat) : State :=
  setLimitSrc (windowSeen s c k) (windowSeen s c k) c (windowSide (windowSeen s c k) c k)

theorem comp_windowLimited (s : State) (c k : Nat) : ((windowLimited s c k).comp (.window c k)).raw = !insideRaw k :=
  comp_windowSeen s c k

theorem chState_windowLimited (s : State) (c k d : Nat) : (windowLimited s c k).chState d = s.chState d :=
  chState_cput_ne _ d c _ (by decide) (by decide) (by decide) (by decide)

theorem eff_clampTaken_windowLimited (s : State) (c k : Nat) :
    (clampTaken (windowLimited s c k) c).eff FCH.EV_CLAMP c = s.eff FCH.EV_CLAMP c :=
  (eff_clampTaken_ne _ c c (by decide) (by decide) (by decide)).trans
    (State.eff_cput_ne (windowSeen s c k) c c _ (by decide) (by decide))

/-! Protection (R49, R56, R75, R80). -/

theorem toTripped_of_ne (h : s.chState ch ≠ 7) : toTripped s ch = enterOpen s ch 6 := if_neg h

theorem clampDue_mem (h : clampDue s ch = true) : { code := 0x03 } ∈ protectionHits s ch := by
  simp [protectionHits, h]

theorem limitDue_mem (h : limitDue s ch = true) : { code := 0x01 } ∈ protectionHits s ch := by
  simp [protectionHits, h]

theorem soaDue_mem {row : Nat} (hrow : row < 4) (h : soaDue s ch row = true) : { code := 0x02 } ∈ protectionHits s ch := by
  have hany : (List.range 4).any (soaDue s ch) = true := List.any_eq_true.2 ⟨row, List.mem_range.2 hrow, h⟩
  simp [protectionHits, hany]

theorem chState_of_limitDue (h : limitDue s ch = true) : s.chState ch = 4 := by
  simp only [limitDue, Bool.and_eq_true, beq_iff_eq] at h
  exact h.1.1

theorem connected_of_soaDue {row : Nat} (h : soaDue s ch row = true) : connected (s.chState ch) = true := by
  simp only [soaDue, Bool.and_eq_true] at h
  exact h.1.1.2

theorem ne_seven_of_connected {n : Nat} (h : connected n = true) : n ≠ 7 := by
  rintro rfl; exact absurd h (by decide)

theorem connected_iff {n : Nat} : connected n = true ↔ 2 ≤ n ∧ n ≤ 5 := by
  simp [connected]

theorem chState_of_justTripped (h : justTripped s ch = true) : s.chState ch = 6 := by
  unfold justTripped at h
  split at h
  · simp only [Bool.and_eq_true, beq_iff_eq] at h
    exact h.2
  · exact absurd h Bool.false_ne_true

theorem goes_senseLoss_on (hch : ch < 132) (hlo : 2 ≤ s.chState ch) (hhi : s.chState ch ≤ 4) :
    goes (.senseLoss ch) s (recordChan s ch (if ch < 128 then 0x04 else 0x05)) := if_pos ⟨hch, hlo, hhi⟩

theorem goes_senseLoss_tripped (hch : ch < 132) (htrip : justTripped s ch = true) :
    goes (.senseLoss ch) s (record s (cb ch) (ci ch) (if ch < 128 then 0x04 else 0x05)) := by
  have hopen : ¬(ch < 132 ∧ 2 ≤ s.chState ch ∧ s.chState ch ≤ 4) := by
    rw [chState_of_justTripped htrip]; omega
  exact (if_neg hopen).trans (if_pos ⟨hch, htrip⟩)

end

/-- Settles O16: a window's crossing engages the clamp at once where the comparator changes no mode (`windowOut_steady`), a clamp leads to
CLAMP (`engageClamp_on`, `engageClamp_limit`), and each protection that is due leads to an open path and is among the cycle's causes
(`protectionHits`). -/
theorem loopRowsComplete : Obligations.LoopRowsComplete := by
  refine ⟨?_, ?_, ?_, ?_, ?_, ?_, ?_, ?_, ?_, ?_, ?_, ?_, ?_⟩
  · exact fun s l => ⟨_, _, _, rfl, rfl, rfl, rfl⟩
  · exact fun s p n i x => ⟨eff_wrNext s p n i x, rd_wrNext s p n i x, (eff_takenOver _ p n i).trans (rd_wrNext s p n i x)⟩
  · intro s ch q up hch hst hsteady
    have hon : connected (s.chState ch) = true := connected_iff.2 (by omega)
    refine ⟨clampTaken (windowLimited s ch (windowOf q up)) ch, ?_, ?_, ?_, chState_clampTaken _ hch, ?_⟩
    · rw [← eff_clampTaken_windowLimited s ch (windowOf q up), goes, exec_windowCrossing hch hon, windowOut_steady hsteady]
      exact congrArg done (engageClamp_on (s := windowSeen s ch (windowOf q up)) hch hst)
    · rw [ch_clampTaken]; rfl
    · rw [ch_clampTaken]; rfl
    · have hon' : connected ((windowLimited s ch (windowOf q up)).chState ch) = true := by rwa [chState_windowLimited]
      rw [comp_clampTaken hon', comp_windowLimited, insideRaw_windowOf]
  · intro s ch q up hch hst hsteady
    have hon : connected (s.chState ch) = true := connected_iff.2 (by omega)
    refine ⟨clampTaken (windowSeen s ch (windowOf q up)) ch, ?_, chState_clampTaken _ hch, ?_⟩
    · have hev : (clampTaken (windowSeen s ch (windowOf q up)) ch).eff FCH.EV_CLAMP ch = s.eff FCH.EV_CLAMP ch :=
        eff_clampTaken_ne _ ch ch (by decide) (by decide) (by decide)
      rw [← hev, goes, exec_windowCrossing hch hon, windowOut_steady hsteady]
      exact congrArg done (engageClamp_limit hch hst)
    · rw [comp_clampTaken (s := windowSeen s ch _) hon, comp_windowSeen, insideRaw_windowOf]
  · intro s ch q up hch hon hchanging
    rw [goes, exec_windowCrossing hch hon, windowOut_changing hchanging, insideRaw_windowOf, done]
  · intro s ch hch hst hcyc
    have hdue : clampDue s ch = true := by simp [clampDue, hch, hst, hcyc]
    exact ⟨(if_pos hdue).trans (congrArg done (toTripped_of_ne (by omega))), clampDue_mem hdue⟩
  · intro s ch hdue
    have hst := chState_of_limitDue hdue
    exact ⟨(if_pos hdue).trans (congrArg done (toTripped_of_ne (by omega))), limitDue_mem hdue⟩
  · intro s ch row hrow hdue
    have hst := ne_seven_of_connected (connected_of_soaDue hdue)
    exact ⟨(if_pos hdue).trans (congrArg done (toTripped_of_ne hst)), soaDue_mem hrow hdue⟩
  · intro s ch hch hlo hhi
    have hrow := goes_senseLoss_on (by omega : ch < 132) hlo hhi
    rwa [if_pos hch] at hrow
  · intro s ch hhv hch hlo hhi
    have hrow := goes_senseLoss_on hch hlo hhi
    rwa [if_neg (by omega)] at hrow
  · exact fun s ch hch htrip => goes_senseLoss_tripped hch htrip
  · exact fun s ch hch => if_pos hch
  · intro s g hg
    have hhome : groupHome g = 8 * g := if_pos hg
    rw [← hhome]
    exact if_pos hg

end Sys2Proof.Machine
end

section
/-!
The commands of the force loop and the end of a tune.
-/
namespace Sys2Proof.Machine
open Sys2Proof.Claims

section
variable {s t u : State} {c : Instr} {p : Pkt} {code ch st : Nat} {f : Form} {body : Res} {res : List Nat}

/-! What a packet's command comes to once the common checks pass it. -/

/-- An accepted command whose definition applies it completes with its status and result words. -/
theorem replies_of_exec (hx : exec c s = runCmd s p code f body) (hdisp : dispatched s p code = true)
    (hgate : gate s p code f = none) (hbody : body = .done st res t) : replies c p s st res t := by
  rw [replies, goes, hx, runCmd_passed hdisp hgate, hbody, finish_done, done]

/-- An accepted command that goes on completes later. -/
theorem waits_of_exec (hx : exec c s = runCmd s p code f body) (hdisp : dispatched s p code = true)
    (hgate : gate s p code f = none) (hbody : body = .later t) (hread : stillReads t p = false) : waits c p s t := by
  rw [waits, goes, hx, runCmd_passed hdisp hgate, hbody, finish_later hread, done]

/-! LOOP_TUNE (R46, R166). -/

/-- LOOP_TUNE starts its probe on a channel in STANDBY or ON_FV, for a slot that is not in use. -/
theorem waits_loopTune (hacc : accepted (.loopTune p) s) (hch : targetChan p = some ch)
    (hslot : 128 ≤ ch → fld (pw p 2) 0 3 ≤ 3) (hstop : stopped s (chanIsland ch) = false)
    (hfree : fld (pw p 2) 0 3 ≠ activeProfile s ch) (hstate : s.chState ch = 1 ∨ s.chState ch = 2)
    (hidle : (s.ch ch).tune = none) :
    waits (.loopTune p) p s (s.setCh ch { s.ch ch with
      tune := some ⟨p.src, pTag p, fld (pw p 2) 0 3, bit (pw p 2) 8, true, 0, 0, 0⟩ }) := by
  obtain ⟨hdisp, hread, hgate, -⟩ := hacc
  have hrange : ¬(128 ≤ ch ∧ 3 < fld (pw p 2) 0 3) := fun h => absurd (hslot h.1) (by omega)
  have hready : ¬((s.chState ch ≠ 1 ∧ s.chState ch ≠ 2) ∨ (s.ch ch).tune.isSome = true) := by
    rw [hidle]; simp only [Option.isSome_none, Bool.false_eq_true, or_false]; omega
  refine waits_of_exec rfl hdisp hgate ?_ hread
  simp only [hch, if_neg hrange, hstop, if_neg hfree, if_neg hready, Bool.false_eq_true, if_false]

/-- LOOP_PRESET passes its checks (R44, R67, R79, R342). -/
theorem replies_loopPreset (hacc : accepted (.loopPreset p) s) (hch : targetChan p = some ch)
    (hprof : fld (pw p 2) 0 4 ≤ 4) (hpol : fld (pw p 3) 0 4 ≤ 4) (hslot : 128 ≤ ch → fld (pw p 2) 4 3 ≤ 3)
    (hstop : stopped s (chanIsland ch) = false)
    (hfree : fld (pw p 2) 0 4 ≠ 0 → fld (pw p 2) 4 3 ≠ activeProfile s ch)
    (hbud : budgetAllows s (presetSet s ch (fld (pw p 2) 0 4) (fld (pw p 2) 4 3) (fld (pw p 3) 0 4)) ch) :
    replies (.loopPreset p) p s St.SUCCESS []
      (reported (presetSet s ch (fld (pw p 2) 0 4) (fld (pw p 2) 4 3) (fld (pw p 3) 0 4)) ch) := by
  obtain ⟨hdisp, -, hgate, -⟩ := hacc
  have hrange : ¬(4 < fld (pw p 2) 0 4 ∨ 4 < fld (pw p 3) 0 4 ∨ (128 ≤ ch ∧ 3 < fld (pw p 2) 4 3)) := by omega
  have hused : ¬(fld (pw p 2) 0 4 ≠ 0 ∧ fld (pw p 2) 4 3 = activeProfile s ch) := fun h => hfree h.1 h.2
  have hgrant := grantCh_allowed hbud
  refine replies_of_exec rfl hdisp hgate ?_
  unfold presetSet at hgrant
  simp only [hch, if_neg hrange, hstop, if_neg hused, Bool.false_eq_true, if_false, hgrant]
  rfl

/-- REARM of a TRIPPED channel starts its loop into the dummy load (R49, R80, R175). -/
theorem replies_rearm (hacc : accepted (.rearm p) s) (hch : targetChan p = some ch)
    (hstop : stopped s (chanIsland ch) = false) (htrip : s.chState ch = 6) (hlock : 128 ≤ ch → s.rd HVC.INTLK_STATE ≠ 0) :
    replies (.rearm p) p s St.SUCCESS []
      ((startBoost s ch).setCh ch { (startBoost s ch).ch ch with motion := .starting, target := 1 }) := by
  obtain ⟨hdisp, -, hgate, -⟩ := hacc
  have hready : ¬(s.chState ch ≠ 6 ∨ (128 ≤ ch ∧ s.rd HVC.INTLK_STATE = 0)) := by
    rintro (h | ⟨h, hopen⟩)
    · exact h htrip
    · exact hlock h hopen
  refine replies_of_exec rfl hdisp hgate ?_
  simp only [hch, hstop, if_neg hready, Bool.false_eq_true, if_false]
  rfl

/-- CLEAR_COUNTS clears CLAMP_COUNT (R342). -/
theorem replies_clearCounts (hacc : accepted (.clearCounts p) s) (hch : targetInst p 1 = some ch)
    (hstop : stopped s (chanIsland ch) = false) :
    replies (.clearCounts p) p s St.SUCCESS [] (s.put FCH.CLAMP_COUNT ch 0) := by
  obtain ⟨hdisp, -, hgate, -⟩ := hacc
  refine replies_of_exec rfl hdisp hgate ?_
  simp only [hch, hstop, Bool.false_eq_true, if_false]
  rfl

/-! LOOP_TUNE_DONE (R46, R47, R166): the free values that a solution draws. -/

theorem drawMany_draws (n : Nat) (s : State) : (drawMany n s).2.draws = s.draws + n := by
  induction n generalizing s with
  | zero => rfl
  | succ n ih => exact (ih s.drawInt.2).trans (by simp only [State.drawInt]; omega)

theorem writeProfile_draws (s : State) (ch slot : Nat) (vs : List Int) : (writeProfile s ch slot vs).draws = s.draws := by
  unfold writeProfile
  induction vs.zipIdx generalizing s with
  | nil => rfl
  | cons e l ih => exact ih _

/-- PROFILE_SEL names the slot of a tune that asked for it. -/
def tunedSelect (s : State) (ch : Nat) (t : Tune) : State :=
  if t.select then touch (s.cput FCH.PROFILE_SEL HVC.PROFILE_SEL ch t.slot) ch else s

theorem tunedSelect_draws (s : State) (ch : Nat) (t : Tune) : (tunedSelect s ch t).draws = s.draws := by
  unfold tunedSelect; split <;> rfl

/-- The coefficients that a profile has on a channel (R43, R165). -/
def profileLength (ch : Nat) : Nat := if ch < 128 then 16 else 11

/-- The coefficients that a tune has found are written to its slot: free values but for INT_LIM, within 0 to 1.0 (R43). -/
def tunedProfile (s : State) (ch : Nat) (t : Tune) : State :=
  let n := profileLength ch
  let a := drawMany n (s.setCh ch { s.ch ch with tune := none })
  writeProfile a.2 ch t.slot (a.1.set (n - 1) ((a.1.getD (n - 1) 0).toNat % 536870913))

theorem tunedProfile_draws (s : State) (ch : Nat) (t : Tune) :
    (tunedProfile s ch t).draws = s.draws + profileLength ch := by
  rw [tunedProfile, writeProfile_draws, drawMany_draws, State.setCh_draws]

/-- The result words of a solved tune (R47, R166): load capacitance and resistance, margin, slot. -/
def tuneResult (cap load margin ch : Nat) (t : Tune) : List Nat :=
  [cap % ((if ch < 128 then 100000000 else 10000000) + 1), load % 2 ^ 32, 450 + margin % (2 ^ 32 - 450), t.slot]

theorem goes_loopTuneDone_solved {t : Tune} (htune : (s.ch ch).tune = some t) (hu : u = tunedProfile s ch t) :
    goes (.loopTuneDone ch true) s ((tunedSelect u.draw.2.draw.2.draw.2 ch t).complete t.src t.tag St.SUCCESS
      (tuneResult u.draw.1 u.draw.2.draw.1 u.draw.2.draw.2.draw.1 ch t)) := by
  subst hu
  show execLoopTuneDone ch true s = _
  rw [execLoopTuneDone, htune]
  rfl

theorem goes_loopTuneDone_unsolved {t : Tune} (htune : (s.ch ch).tune = some t) :
    goes (.loopTuneDone ch false) s
      ((record (s.setCh ch { s.ch ch with tune := none }) (cb ch) (ci ch) (if ch < 128 then 0x09 else 0x08)).complete
        t.src t.tag St.NO_SOLUTION []) := by
  show execLoopTuneDone ch false s = _
  rw [execLoopTuneDone, htune]
  rfl

end

/-- Settles O19: the checks of each command pass under the premises, and a solved tune draws the coefficients of its profile and three
values more (`tunedProfile_draws`). -/
theorem loopCommandsComplete : Obligations.LoopCommandsComplete := by
  refine ⟨?_, ?_, ?_, ?_, ?_, ?_⟩
  · exact fun s p c hacc hch hslot hstop hfree hstate hidle => waits_loopTune hacc hch hslot hstop hfree hstate hidle
  · exact fun s ch t htune => goes_loopTuneDone_unsolved htune
  · intro s ch t htune
    refine ⟨_, _, goes_loopTuneDone_solved htune rfl, rfl, ?_, Nat.le_add_right _ _, rfl, ?_⟩
    · exact Nat.le_of_lt_succ (Nat.mod_lt _ (Nat.succ_pos _))
    · have hdraws : (tunedProfile s ch t).draws + 3 = s.draws + (if ch < 128 then 19 else 14) := by
        rw [tunedProfile_draws, profileLength]; split <;> rfl
      rw [tunedSelect_draws]
      exact hdraws
  · exact fun s p c hacc hch hprof hpol hslot hstop hfree hbud =>
      replies_loopPreset hacc hch hprof hpol hslot hstop hfree hbud
  · exact fun s p c hacc hch hstop htrip hlock => replies_rearm hacc hch hstop htrip hlock
  · exact fun s p c hacc hch hstop => replies_clearCounts hacc hch hstop

end Sys2Proof.Machine
end

section
/-!
What reset leaves (R9): every bank is empty, so that every parameter holds the reset value of its table.
-/
namespace Sys2Proof.Machine

theorem chState_reset {c : Nat} (h : c < 132) : State.reset.chState c = 0 := by
  decide +revert

/-- Settles O60: every bank is empty at reset, and the parameter tables give the values. -/
theorem resetLeavesTheSpecsValues : Obligations.ResetLeavesTheSpecsValues := by
  refine ⟨rfl, fun b n => rfl, fun c hc => chState_reset hc, ?_, ?_, ?_, ?_, ?_, ?_, ?_, ?_, ?_, fun q => ⟨rfl, rfl⟩, ?_⟩
  all_goals decide

end Sys2Proof.Machine
end

section
/-!
The relay counts (R54): what follows a step's causes (R154, R469) counts no closure. An operation that leaves the counts alone is marked
for `fun_prop`, which then follows them through compositions, conditions and folds.
-/
namespace Sys2Proof.Machine

/-- Every relay has the same count in both states. -/
def WearSame (s t : State) : Prop := ∀ n, t.rd FCH.RELAY_COUNT n = s.rd FCH.RELAY_COUNT n

/-- An operation leaves the count of every relay as it is. -/
@[fun_prop] def KeepsWear (f : State → State) : Prop := ∀ s, WearSame s (f s)

section
variable {s t u : State} {f g h : State → State}

/-! Closure of the operations that leave the counts alone. -/

theorem WearSame.of_par (hpar : t.par = s.par) : WearSame s t := fun n => by rw [State.rd, State.rd, hpar]

theorem WearSame.rfl : WearSame s s := .of_par (Eq.refl _)

theorem WearSame.trans (hst : WearSame s t) (htu : WearSame t u) : WearSame s u := fun n => (htu n).trans (hst n)

theorem KeepsWear.at (hf : KeepsWear f) (s : State) : WearSame s (f s) := hf s

/-- What leaves the counts alone from where another operation has led. -/
theorem KeepsWear.andThen (hg : KeepsWear g) (hh : ∀ s, WearSame (g s) (h s)) : KeepsWear h := fun s => (hg s).trans (hh s)

@[fun_prop] theorem keepsWear_id : KeepsWear fun s => s := fun _ => .rfl

@[fun_prop] theorem KeepsWear.comp (hf : KeepsWear f) (hg : KeepsWear g) : KeepsWear fun s => f (g s) := hg.andThen fun s => hf (g s)

@[fun_prop] theorem KeepsWear.ite {P : State → Prop} [∀ s, Decidable (P s)] (hg : KeepsWear g) (hh : KeepsWear h) :
    KeepsWear fun s => if P s then g s else h s := fun s => by
  dsimp only
  split
  · exact hg s
  · exact hh s

theorem KeepsWear.due {y : State → List Due} (hg : KeepsWear g) : KeepsWear fun s => { g s with due := y s } := hg

theorem WearSame.foldl {α : Type} {F : State → α → State} (hF : ∀ a, KeepsWear fun t => F t a) (l : List α) (s : State) :
    WearSame s (l.foldl F s) := by
  induction l generalizing s with
  | nil => exact .rfl
  | cons a l ih => exact (hF a s).trans (ih (F s a))

@[fun_prop] theorem KeepsWear.foldl {α : Type} {l : State → List α} {F : State → State → α → State}
    (hF : ∀ s a, KeepsWear fun t => F s t a) (hg : KeepsWear g) : KeepsWear fun s => (l s).foldl (F s) (g s) :=
  hg.andThen fun s => .foldl (hF s) (l s) (g s)

end

section
variable {g : State → State} {b c d e i k n tag : State → Nat} {v : State → Int} {on : State → Bool} {x : State → Hit}

/-! Writes of other stores. -/

@[fun_prop] theorem keepsWear_setCh {y : State → Fch} (hg : KeepsWear g) : KeepsWear fun s => (g s).setCh (c s) (y s) := hg
@[fun_prop] theorem keepsWear_setEngine {y : State → Swe} (hg : KeepsWear g) : KeepsWear fun s => (g s).setEngine (c s) (y s) := hg
@[fun_prop] theorem keepsWear_setSlot {y : State → SweSlot} (hg : KeepsWear g) :
    KeepsWear fun s => (g s).setSlot (c s) (k s) (y s) := hg
@[fun_prop] theorem keepsWear_setRegion {y : State → Option Region} (hg : KeepsWear g) :
    KeepsWear fun s => (g s).setRegion (c s) (y s) := hg
@[fun_prop] theorem keepsWear_setPin {y : State → PinRun} (hg : KeepsWear g) : KeepsWear fun s => (g s).setPin (c s) (y s) := hg
@[fun_prop] theorem keepsWear_setSequencer {y : State → Seq} (hg : KeepsWear g) :
    KeepsWear fun s => (g s).setSequencer (c s) (y s) := hg
@[fun_prop] theorem keepsWear_resetCeiling (hg : KeepsWear g) : KeepsWear fun s => resetCeiling (g s) (c s) := hg

@[fun_prop] theorem keepsWear_publish {y : State → Option Nat} {m : State → Option Nat} (hg : KeepsWear g) :
    KeepsWear fun s => (g s).publish (v s) (y s) (m s) :=
  hg.andThen fun s => by unfold State.publish; split <;> exact .rfl

@[fun_prop] theorem keepsWear_raise (hg : KeepsWear g) : KeepsWear fun s => (g s).raise (c s) :=
  hg.andThen fun s => by
    unfold State.raise
    split
    · exact .rfl
    · dsimp only
      split
      · exact .rfl
      · split <;> exact .rfl

@[fun_prop] theorem keepsWear_logRec {y : State → Rec} (hg : KeepsWear g) : KeepsWear fun s => (g s).logRec (y s) :=
  hg.andThen fun s => by unfold State.logRec; split <;> exact .rfl

/-! Writes of parameters other than RELAY_COUNT. -/

@[fun_prop] theorem keepsWear_wr {p : Prm} (hg : KeepsWear g) (hp : p.blk ≠ 1) : KeepsWear fun s => (g s).wr p (c s) (i s) (v s) :=
  hg.andThen fun s n => by
    have hid : FCH.RELAY_COUNT.id n 0 ≠ p.id (c s) (i s) := fun h => hp (by rw [← Prm.id_blk p (c s) (i s), ← h, Prm.id_blk]; rfl)
    rw [State.rd_wr, if_neg hid]

@[fun_prop] theorem keepsWear_put {p : Prm} (hg : KeepsWear g) (hp : FCH.RELAY_COUNT.place ≠ p.place) :
    KeepsWear fun s => (g s).put p (c s) (v s) :=
  hg.andThen fun _ n => State.rd_put_ne _ _ n _ hp

@[fun_prop] theorem keepsWear_bump {p : Prm} (hg : KeepsWear g) (hp : p.blk ≠ 1) :
    KeepsWear fun s => (g s).bump p (c s) (i s) (n s) := by
  unfold State.bump; fun_prop (disch := assumption)

@[fun_prop] theorem keepsWear_cput {p q : Prm} (hg : KeepsWear g) (hp : FCH.RELAY_COUNT.place ≠ p.place)
    (hq : FCH.RELAY_COUNT.place ≠ q.place) : KeepsWear fun s => (g s).cput p q (c s) (v s) :=
  hg.andThen fun _ n => State.rd_cput_ne _ _ n _ hp hq

@[fun_prop] theorem keepsWear_wrEff {p : Prm} (hg : KeepsWear g) (hp : p.blk ≠ 1) :
    KeepsWear fun s => (g s).wrEff p (c s) (i s) (v s) :=
  hg.andThen fun s => by
    generalize g s = t
    unfold State.wrEff
    split
    · exact .rfl
    · apply KeepsWear.at
      fun_prop (disch := assumption)

@[fun_prop] theorem keepsWear_setSlotState (hg : KeepsWear g) : KeepsWear fun s => (g s).setSlotState (e s) (k s) (n s) := by
  unfold State.setSlotState; fun_prop (disch := decide)

@[fun_prop] theorem keepsWear_setSeqSlot (hg : KeepsWear g) : KeepsWear fun s => (g s).setSeqSlot (d s) (k s) (n s) := by
  unfold State.setSeqSlot; fun_prop (disch := decide)

/-! Status windows, the log and completions. -/

@[fun_prop] theorem keepsWear_sendFrame {y : State → List Nat} (hg : KeepsWear g) :
    KeepsWear fun s => (g s).sendFrame (c s) (k s) (y s) := by
  unfold State.sendFrame; fun_prop

theorem wearSame_frameTo (s : State) (node cls : Nat) (ws : List Nat) (note : Option (Nat × Nat × Bool)) (hops : Nat) :
    WearSame s (s.frameTo node cls ws note hops) := by
  unfold State.frameTo
  dsimp only
  split
  · apply KeepsWear.at
    fun_prop
  · split
    · exact .rfl
    · split
      · apply KeepsWear.at
        fun_prop
      · exact .rfl

@[fun_prop] theorem keepsWear_complete {src : State → Src} {res : State → List Nat} {owns : State → Bool}
    {notice : State → Option (Option Nat × Nat)} (hg : KeepsWear g) :
    KeepsWear fun s => (g s).complete (src s) (tag s) (n s) (res s) (owns s) (notice s) :=
  hg.andThen fun s => by
    unfold State.complete
    dsimp only
    split
    · exact .rfl
    · exact .rfl
    · exact wearSame_frameTo _ _ _ _ _ _
    · exact .rfl
    · exact .rfl

@[fun_prop] theorem keepsWear_countHit (hg : KeepsWear g) : KeepsWear fun s => countHit (g s) (b s) (i s) (x s) (n s) := by
  dsimp only [countHit]; fun_prop

@[fun_prop] theorem keepsWear_logHit (hg : KeepsWear g) : KeepsWear fun s => logHit (g s) (b s) (i s) (x s) (n s) := by
  dsimp only [logHit]; fun_prop

theorem wearSame_recordEach (blk inst : Nat) (fixed : Option Nat) (l : List Hit) (s : State) :
    WearSame s (recordEach s blk inst fixed l) := by
  induction l generalizing s with
  | nil => exact .rfl
  | cons a l ih =>
    refine WearSame.trans ?_ (ih _)
    apply KeepsWear.at
    apply KeepsWear.ite
    · apply KeepsWear.due
      fun_prop
    · fun_prop

@[fun_prop] theorem keepsWear_recordHistory {fixed : State → Option Nat} (hg : KeepsWear g) :
    KeepsWear fun s => recordHistory (g s) (b s) (i s) (fixed s) (x s) := by
  dsimp only [recordHistory]; fun_prop

@[fun_prop] theorem keepsWear_recordHits {fixed : State → Option Nat} {l : State → List Hit} (hg : KeepsWear g) :
    KeepsWear fun s => recordHits (g s) (b s) (i s) (fixed s) (l s) :=
  hg.andThen fun s => by
    unfold recordHits
    split
    · exact .rfl
    · refine WearSame.trans ?_ (wearSame_recordEach _ _ _ _ _)
      generalize g s = t
      apply KeepsWear.at
      fun_prop

@[fun_prop] theorem keepsWear_record (hg : KeepsWear g) : KeepsWear fun s => record (g s) (b s) (i s) (c s) (on s) := by
  unfold record; fun_prop

@[fun_prop] theorem keepsWear_recordFixed (hg : KeepsWear g) : KeepsWear fun s => recordFixed (g s) (b s) (i s) (x s) := by
  unfold recordFixed; fun_prop

/-! Comparators, averagers and the output path of a channel. -/

@[fun_prop] theorem keepsWear_bandChanges {w : State → Cmp} (hg : KeepsWear g) : KeepsWear fun s => bandChanges (g s) (w s) :=
  hg.andThen fun s => by unfold bandChanges; split <;> exact .rfl

@[fun_prop] theorem keepsWear_restartAvg (hg : KeepsWear g) : KeepsWear fun s => restartAvg (g s) (c s) :=
  hg.andThen fun s => by
    obtain ⟨_, _, h⟩ := restartAvg_eq (g s) (c s)
    rw [h]; exact .rfl

@[fun_prop] theorem keepsWear_setChState (hg : KeepsWear g) : KeepsWear fun s => (g s).setChState (c s) (n s) :=
  hg.andThen fun _ m => rd_setChState_ne _ _ _ m (by decide) (by decide)

@[fun_prop] theorem keepsWear_aimRails (hg : KeepsWear g) : KeepsWear fun s => aimRails (g s) (c s) := by
  dsimp only [aimRails]; fun_prop

@[fun_prop] theorem keepsWear_reportBudget (hg : KeepsWear g) : KeepsWear fun s => reportBudget (g s) := by
  dsimp only [reportBudget]; fun_prop (disch := decide)

@[fun_prop] theorem keepsWear_touch (hg : KeepsWear g) : KeepsWear fun s => touch (g s) (c s) := by
  dsimp only [touch]; fun_prop

@[fun_prop] theorem keepsWear_settleFor (hg : KeepsWear g) : KeepsWear fun s => settleFor (g s) (c s) (n s) := by
  dsimp only [settleFor]; fun_prop

@[fun_prop] theorem keepsWear_abortTune (hg : KeepsWear g) : KeepsWear fun s => abortTune (g s) (c s) :=
  hg.andThen fun s => by
    generalize g s = t
    unfold abortTune
    split
    · apply KeepsWear.at
      fun_prop
    · exact .rfl

@[fun_prop] theorem keepsWear_abortRuns (hg : KeepsWear g) : KeepsWear fun s => abortRuns (g s) (c s) :=
  hg.andThen fun s => by
    unfold abortRuns
    dsimp only
    split
    · exact .rfl
    · exact WearSame.foldl (fun r => by fun_prop) _ _

@[fun_prop] theorem keepsWear_openPaths (hg : KeepsWear g) : KeepsWear fun s => openPaths (g s) (c s) := by
  dsimp only [openPaths]; fun_prop (disch := decide)

@[fun_prop] theorem keepsWear_enterOpen (hg : KeepsWear g) : KeepsWear fun s => enterOpen (g s) (c s) (n s) := by
  dsimp only [enterOpen]
  apply KeepsWear.ite
  · apply KeepsWear.due
    fun_prop
  · fun_prop

@[fun_prop] theorem keepsWear_toFault (hg : KeepsWear g) : KeepsWear fun s => toFault (g s) (c s) := by
  unfold toFault; fun_prop

@[fun_prop] theorem keepsWear_toTripped (hg : KeepsWear g) : KeepsWear fun s => toTripped (g s) (c s) := by
  unfold toTripped; fun_prop

@[fun_prop] theorem keepsWear_settleOpen (hg : KeepsWear g) : KeepsWear fun s => settleOpen (g s) (c s) (n s) := by
  dsimp only [settleOpen]; fun_prop

@[fun_prop] theorem keepsWear_startRampDown (hg : KeepsWear g) : KeepsWear fun s => startRampDown (g s) (c s) (n s) := by
  dsimp only [startRampDown]; fun_prop

@[fun_prop] theorem keepsWear_waitForRails (hg : KeepsWear g) : KeepsWear fun s => waitForRails (g s) (c s) := by
  unfold waitForRails; fun_prop

@[fun_prop] theorem keepsWear_connect (hg : KeepsWear g) : KeepsWear fun s => connect (g s) (c s) (n s) := by
  dsimp only [connect]; fun_prop

@[fun_prop] theorem keepsWear_moveOutput (hg : KeepsWear g) : KeepsWear fun s => moveOutput (g s) (c s) (n s) := by
  dsimp only [moveOutput]; fun_prop

@[fun_prop] theorem keepsWear_pathsAfterRange (hg : KeepsWear g) : KeepsWear fun s => pathsAfterRange (g s) (c s) := by
  dsimp only [pathsAfterRange]; fun_prop

@[fun_prop] theorem keepsWear_stepDown (hg : KeepsWear g) : KeepsWear fun s => stepDown (g s) (c s) := by
  dsimp only [stepDown]; fun_prop

@[fun_prop] theorem keepsWear_startHvRamps (hg : KeepsWear g) : KeepsWear fun s => startHvRamps (g s) (c s) := by
  dsimp only [startHvRamps]; fun_prop (disch := decide)

@[fun_prop] theorem keepsWear_rangeV (hg : KeepsWear g) : KeepsWear fun s => rangeV (g s) (c s) (on s) := by
  dsimp only [rangeV]; fun_prop (disch := decide)

@[fun_prop] theorem keepsWear_rangeI (hg : KeepsWear g) : KeepsWear fun s => rangeI (g s) (c s) (on s) := by
  dsimp only [rangeI]; fun_prop (disch := decide)

@[fun_prop] theorem keepsWear_takeOver (hg : KeepsWear g) : KeepsWear fun s => takeOver (g s) (c s) := by
  dsimp only [takeOver]; fun_prop

/-! Sweep engines. -/

@[fun_prop] theorem keepsWear_loseAhead {who : State → Option (Nat × Nat)} (hg : KeepsWear g) :
    KeepsWear fun s => loseAhead (g s) (c s) (who s) (n s) :=
  hg.andThen fun s => by unfold loseAhead; split <;> exact .rfl

@[fun_prop] theorem keepsWear_pushStatus {q : State → Quad} (hg : KeepsWear g) : KeepsWear fun s => pushStatus (g s) (e s) (q s) := by
  dsimp only [pushStatus]; fun_prop (disch := decide)

@[fun_prop] theorem keepsWear_recordStatus {q : State → Quad} (hg : KeepsWear g) :
    KeepsWear fun s => recordStatus (g s) (e s) (q s) := by
  dsimp only [recordStatus]; fun_prop (disch := decide)

@[fun_prop] theorem keepsWear_closeStatus {cut held aborted : State → Bool} (hg : KeepsWear g) :
    KeepsWear fun s => closeStatus (g s) (e s) (cut s) (held s) (aborted s) (n s) := by
  dsimp only [closeStatus]; fun_prop

@[fun_prop] theorem keepsWear_own (hg : KeepsWear g) : KeepsWear fun s => own (g s) (e s) (k s) (on s) := by
  unfold own; fun_prop

@[fun_prop] theorem keepsWear_endAction (hg : KeepsWear g) : KeepsWear fun s => endAction (g s) (e s) (k s) :=
  hg.andThen fun s => by
    generalize g s = t
    unfold endAction
    split
    · apply KeepsWear.at
      fun_prop (disch := decide)
    · apply KeepsWear.at
      fun_prop (disch := decide)
    · exact .rfl

@[fun_prop] theorem keepsWear_unreserve (hg : KeepsWear g) : KeepsWear fun s => unreserve (g s) (e s) (k s) := by
  unfold unreserve; fun_prop

@[fun_prop] theorem keepsWear_applyTo {q : State → Quad} (hg : KeepsWear g) :
    KeepsWear fun s => applyTo (g s) (on s) (c s) (q s) :=
  hg.andThen fun s => by
    generalize g s = t
    unfold applyTo
    dsimp only
    split
    · apply KeepsWear.at
      fun_prop (disch := decide)
    · apply KeepsWear.at
      fun_prop (disch := decide)
    · apply KeepsWear.at
      fun_prop (disch := decide)
    · apply KeepsWear.at
      fun_prop (disch := decide)

@[fun_prop] theorem keepsWear_applyPoint (hg : KeepsWear g) : KeepsWear fun s => applyPoint (g s) (e s) := by
  dsimp only [applyPoint]; fun_prop (disch := decide)

@[fun_prop] theorem keepsWear_pulseWrite {q : State → Quad} (hg : KeepsWear g) :
    KeepsWear fun s => pulseWrite (g s) (c s) (q s) (k s) (v s) (n s) := by
  dsimp only [pulseWrite]; fun_prop (disch := decide)

@[fun_prop] theorem keepsWear_swapDown (hg : KeepsWear g) : KeepsWear fun s => swapDown (g s) (c s) := by
  dsimp only [swapDown]; fun_prop

@[fun_prop] theorem keepsWear_pulseOff (hg : KeepsWear g) : KeepsWear fun s => pulseOff (g s) (e s) := by
  dsimp only [pulseOff]; fun_prop

@[fun_prop] theorem keepsWear_holdCause {why : State → Hold} (hg : KeepsWear g) : KeepsWear fun s => holdCause (g s) (e s) (why s) :=
  hg.andThen fun s => by
    generalize g s = t
    cases why s with
    | source | coast =>
      apply KeepsWear.at (f := fun t => record t 3 (e s) _)
      fun_prop
    | _ => exact .rfl

@[fun_prop] theorem keepsWear_holdNow {why : State → List Hold} (hg : KeepsWear g) : KeepsWear fun s => holdNow (g s) (e s) (why s) := by
  dsimp only [holdNow]; fun_prop (disch := decide)

@[fun_prop] theorem keepsWear_startPoint (hg : KeepsWear g) : KeepsWear fun s => startPoint (g s) (e s) (i s) := by
  dsimp only [startPoint]; fun_prop (disch := decide)

@[fun_prop] theorem keepsWear_beginPoint (hg : KeepsWear g) : KeepsWear fun s => beginPoint (g s) (e s) (i s) := by
  unfold beginPoint; fun_prop (disch := decide)

@[fun_prop] theorem keepsWear_eccHold (hg : KeepsWear g) : KeepsWear fun s => eccHold (g s) (e s) (i s) :=
  hg.andThen fun s => by
    generalize g s = t
    unfold eccHold
    dsimp only
    split
    · apply KeepsWear.at
      fun_prop (disch := decide)
    · apply KeepsWear.at
      fun_prop (disch := decide)

/-- The loop counters of a slot are parameters of SWE. -/
theorem loopCtr_blk (n : Nat) : ([SWE.LOOP_CTR0, SWE.LOOP_CTR1, SWE.LOOP_CTR2, SWE.LOOP_CTR3].getD n SWE.LOOP_CTR0).blk ≠ 1 := by
  match n with
  | 0 | 1 | 2 | 3 => decide
  | _ + 4 => exact (by decide : SWE.LOOP_CTR0.blk ≠ 1)

theorem wearSame_loopEntry (s : State) (e k : Nat) (q : Quad) (i : Nat) : WearSame s (loopEntry s e k q i).2 := by
  have hctr := loopCtr_blk (fld q.w1 6 2)
  simp only [loopEntry, apply_ite Prod.snd]
  apply KeepsWear.at
  fun_prop (disch := assumption)

theorem wearSame_controlStep (s : State) (e k i : Nat) (q : Quad) : WearSame s (controlStep s e k i q).2 := by
  unfold controlStep
  dsimp only
  split
  · exact .rfl
  · exact wearSame_loopEntry s e k q i
  · exact .rfl
  · exact .rfl
  · exact .rfl
  · exact .rfl
  · split
    · apply KeepsWear.at
      fun_prop (disch := decide)
    · exact .rfl
  · exact .rfl

/-- Where a walk of CONTROL entries has come. -/
def Walk.state : Walk → State
  | .point _ s | .bad _ s | .ended s | .tooMany s => s

theorem wearSame_walk (e k n i : Nat) (s : State) : WearSame s (walk e k n i s).state := by
  induction n generalizing i s with
  | zero => exact .rfl
  | succ n ih =>
    have hstep := wearSame_controlStep s e k i (entryAt s (s.slotRd SWE.REGION e k) i)
    unfold walk
    dsimp only
    split
    · exact .rfl
    · split
      · split
        · next heq => rwa [heq] at hstep
        · next heq =>
          rw [heq] at hstep
          exact hstep.trans (ih _ _)
      · exact .rfl

@[fun_prop] theorem keepsWear_leave (hg : KeepsWear g) : KeepsWear fun s => leave (g s) (e s) (k s) (n s) := by
  dsimp only [leave]; fun_prop (disch := decide)

theorem wearSame_enterSlot (s : State) (e k : Nat) : WearSame s (enterSlot s e k).1 := by
  unfold enterSlot
  extract_lets pre s₁ s₂ sl h was s₃ i again lost s₄
  have htaken : WearSame s s₃ := by
    unfold s₃ s₂ s₁
    apply KeepsWear.at
    fun_prop (disch := decide)
  have hpoint : WearSame s₃ s₄ := by
    unfold s₄
    clear_value again lost
    split
    · exact .rfl
    · cases again with
      | none => exact .rfl
      | some i => exact .foldl (fun c => by fun_prop) _ _
  exact htaken.trans hpoint

@[fun_prop] theorem keepsWear_finishProgram (hg : KeepsWear g) :
    KeepsWear fun s => takeControl.finishProgram (g s) (e s) (k s) := by
  dsimp only [takeControl.finishProgram]; fun_prop

@[fun_prop] theorem keepsWear_abortControl (hg : KeepsWear g) :
    KeepsWear fun s => takeControl.abortControl (g s) (e s) (k s) := by
  dsimp only [takeControl.abortControl]; fun_prop

theorem wearSame_takeControl (e n : Nat) (s : State) : WearSame s (takeControl e n s) := by
  induction n generalizing s with
  | zero => exact .rfl
  | succ n ih =>
    unfold takeControl
    dsimp only
    split
    · exact .rfl
    · next k _ =>
      have henter := wearSame_enterSlot s e k
      generalize enterSlot s e k = r at henter ⊢
      obtain ⟨t, i, lost⟩ := r
      simp only at henter ⊢
      have hwalk := henter.trans (wearSame_walk e k 16 i t)
      split
      · refine henter.trans ?_
        apply KeepsWear.at
        fun_prop
      · split
        · next heq =>
          rw [heq, Walk.state] at hwalk
          refine hwalk.trans ?_
          apply KeepsWear.at
          fun_prop
        · next heq =>
          rw [heq, Walk.state] at hwalk
          refine hwalk.trans ?_
          apply KeepsWear.at
          fun_prop
        · next t heq =>
          rw [heq, Walk.state] at hwalk
          refine (hwalk.trans ?_).trans (ih _)
          apply KeepsWear.at
          fun_prop
        · next t heq =>
          rw [heq, Walk.state] at hwalk
          refine (hwalk.trans ?_).trans (ih _)
          apply KeepsWear.at
          fun_prop

@[fun_prop] theorem keepsWear_freeEngine (hg : KeepsWear g) : KeepsWear fun s => freeEngine (g s) (e s) :=
  hg.andThen fun s => by
    unfold freeEngine
    split
    · exact wearSame_takeControl _ _ _
    · exact .rfl

@[fun_prop] theorem keepsWear_abortSlot (hg : KeepsWear g) : KeepsWear fun s => abortSlot (g s) (e s) (k s) := by
  dsimp only [abortSlot]; fun_prop

@[fun_prop] theorem keepsWear_requestHold {why : State → Hold} (hg : KeepsWear g) :
    KeepsWear fun s => requestHold (g s) (e s) (why s) := by
  dsimp only [requestHold]; fun_prop (disch := decide)

theorem wearSame_abandonAz (s : State) (e : Nat) : WearSame s (abandonAz s e) := by
  unfold abandonAz
  split
  · next az _ =>
    dsimp only
    split
    · exact .rfl
    · have hcount : WearSame s (az.chans.foldl (fun s c => s.bump MSR.AZ_COUNT c) s) :=
        WearSame.foldl (fun c => by fun_prop (disch := decide)) _ s
      exact hcount
  · exact .rfl

@[fun_prop] theorem keepsWear_bringForward (hg : KeepsWear g) : KeepsWear fun s => bringForward (g s) (e s) :=
  hg.andThen fun s => by
    unfold bringForward
    split
    · split
      · exact wearSame_abandonAz _ _
      · exact .rfl
    · exact .rfl

@[fun_prop] theorem keepsWear_tripAction (hg : KeepsWear g) : KeepsWear fun s => tripAction (g s) (c s) :=
  hg.andThen fun s => by
    generalize g s = t
    unfold tripAction
    dsimp only
    split
    · exact .rfl
    · split
      · apply KeepsWear.at
        fun_prop
      · apply KeepsWear.at
        fun_prop
      · apply KeepsWear.at
        fun_prop

/-! Pins and sequencers. -/

@[fun_prop] theorem keepsWear_pinFault (hg : KeepsWear g) : KeepsWear fun s => pinFault (g s) (n s) := by
  dsimp only [pinFault]; fun_prop (disch := decide)

@[fun_prop] theorem keepsWear_parkPin (hg : KeepsWear g) : KeepsWear fun s => parkPin (k s) (g s) (n s) := by
  dsimp only [parkPin]; fun_prop (disch := decide)

@[fun_prop] theorem keepsWear_reactPark (hg : KeepsWear g) : KeepsWear fun s => reactPark (k s) (g s) (n s) := by
  dsimp only [reactPark]; fun_prop (disch := decide)

@[fun_prop] theorem keepsWear_parkPins (hg : KeepsWear g) : KeepsWear fun s => parkPins (g s) (d s) (n s) := by
  dsimp only [parkPins]; fun_prop

@[fun_prop] theorem keepsWear_finishAll (hg : KeepsWear g) : KeepsWear fun s => finishAll (g s) (d s) := by
  dsimp only [finishAll]; fun_prop

@[fun_prop] theorem keepsWear_commitSets {l : State → List Nat} (hg : KeepsWear g) :
    KeepsWear fun s => commitSets (d s) (g s) (l s) := by
  dsimp only [commitSets, applyTs]; fun_prop

@[fun_prop] theorem keepsWear_stopCommits (hg : KeepsWear g) : KeepsWear fun s => stopCommits (g s) (d s) := by
  dsimp only [stopCommits]; fun_prop

@[fun_prop] theorem keepsWear_enterParked (hg : KeepsWear g) : KeepsWear fun s => enterParked (g s) (d s) (n s) := by
  dsimp only [enterParked]; fun_prop (disch := decide)

@[fun_prop] theorem keepsWear_parkSeq (hg : KeepsWear g) : KeepsWear fun s => parkSeq (g s) (d s) (n s) := by
  unfold parkSeq; fun_prop

@[fun_prop] theorem keepsWear_parkIfBusy (hg : KeepsWear g) : KeepsWear fun s => parkIfBusy (n s) (g s) (d s) := by
  unfold parkIfBusy; fun_prop

@[fun_prop] theorem keepsWear_holdHit {why : State → SeqHold} (hg : KeepsWear g) : KeepsWear fun s => holdHit (g s) (d s) (why s) :=
  hg.andThen fun s => by
    generalize g s = t
    cases why s with
    | coast | source =>
      apply KeepsWear.at (f := fun t => record t 6 (d s) _)
      fun_prop
    | reaction => exact .rfl

@[fun_prop] theorem keepsWear_holdSeq {why : State → SeqHold} (hg : KeepsWear g) : KeepsWear fun s => holdSeq (g s) (d s) (why s) := by
  dsimp only [holdSeq]; fun_prop

/-! Reactions (R469, R470). -/

@[fun_prop] theorem keepsWear_tripGroup (hg : KeepsWear g) : KeepsWear fun s => tripGroup (g s) (c s) (x s) := by
  dsimp only [tripGroup]; fun_prop

@[fun_prop] theorem keepsWear_wearPath (hg : KeepsWear g) : KeepsWear fun s => wearPath (g s) (c s) (n s) := by
  unfold wearPath; fun_prop (disch := decide)

@[fun_prop] theorem keepsWear_holdOwner (hg : KeepsWear g) : KeepsWear fun s => holdOwner (g s) (c s) :=
  hg.andThen fun s => by
    generalize g s = t
    unfold holdOwner
    split
    · apply KeepsWear.at
      fun_prop
    · exact .rfl

theorem wearSame_reactChan (s : State) (c action : Nat) (h : Hit) : WearSame s (reactChan s c action h) := by
  unfold reactChan
  split
  · apply KeepsWear.at
    fun_prop
  · apply KeepsWear.at
    fun_prop
  · apply KeepsWear.at
    fun_prop
  · exact .rfl

theorem wearSame_reactMsr (s : State) (c action : Nat) : WearSame s (reactMsr s c action) := by
  unfold reactMsr
  split
  · apply KeepsWear.at
    fun_prop
  · apply KeepsWear.at
    fun_prop
  · exact .rfl

theorem wearSame_reactSwe (s : State) (e action : Nat) : WearSame s (reactSwe s e action) := by
  unfold reactSwe
  dsimp only
  split
  · apply KeepsWear.at
    fun_prop
  · apply KeepsWear.at
    fun_prop
  · apply KeepsWear.at
    fun_prop
  · exact .rfl

theorem wearSame_tripChip (s : State) (n : Nat) (h : Hit) : WearSame s (tripChip s n h) := by
  unfold tripChip
  dsimp only
  apply KeepsWear.at
  fun_prop

theorem wearSame_reactPin (s : State) (n action : Nat) (h : Hit) : WearSame s (reactPin s n action h) := by
  unfold reactPin
  dsimp only
  split
  · apply KeepsWear.at
    fun_prop
  · apply KeepsWear.at
    fun_prop
  · apply KeepsWear.at
    fun_prop
  · exact wearSame_tripChip s n h
  · exact .rfl

theorem wearSame_reactSeq (s : State) (d action : Nat) : WearSame s (reactSeq s d action) := by
  unfold reactSeq
  split
  · apply KeepsWear.at
    fun_prop
  · apply KeepsWear.at
    fun_prop
  · apply KeepsWear.at
    fun_prop
  · exact .rfl

theorem wearSame_reactTb (s : State) (action : Nat) : WearSame s (reactTb s action) := by
  unfold reactTb
  dsimp only
  split
  · apply KeepsWear.at
    fun_prop
  · apply KeepsWear.at
    fun_prop
  · exact .rfl

theorem wearSame_reactAny (s : State) (blk inst action : Nat) (h : Hit) : WearSame s (reactAny s blk inst action h) := by
  unfold reactAny
  split
  · exact wearSame_reactChan s inst action h
  · exact wearSame_reactMsr s inst action
  · exact wearSame_reactSwe s inst action
  · exact wearSame_reactChan s (inst + 128) action h
  · exact wearSame_reactPin s inst action h
  · exact wearSame_reactSeq s inst action
  · exact wearSame_reactTb s action
  · exact .rfl

theorem wearSame_settleOne (s : State) (y : Due) : WearSame s (settleOne s y) := by
  cases y with
  | react blk inst action h => exact wearSame_reactAny s blk inst action h
  | tripped c =>
    unfold settleOne
    apply KeepsWear.at
    fun_prop

theorem wearSame_settleN (n : Nat) (s : State) : WearSame s (settleN n s) := by
  induction n generalizing s with
  | zero => exact .rfl
  | succ n ih =>
    unfold settleN
    split
    · exact .rfl
    · next y l _ =>
      have hone : WearSame s (settleOne { s with due := l } y) := wearSame_settleOne { s with due := l } y
      exact hone.trans (ih _)

/-- What falls due within a step counts no relay closure. -/
theorem wearSame_settle (s : State) : WearSame s (settle s) := wearSame_settleN _ s

end
end Sys2Proof.Machine
end

section
/-!
The output path of a channel: the clause on RELAY_CLOSURE_VERIFIED gives the new count of a closure as an integer sum, while the model
stores a count cut to its 32 bits. The two differ where a state holds a negative count, which no premise of the clause shuts out.
-/
namespace Sys2Proof.Machine
open Sys2Proof.Claims

/-- A state that differs from reset in that channel 0 waits for the verification of its relay and its closure count reads -5. -/
def negativeWear : State :=
  ({ State.reset with par := [(FCH.RELAY_COUNT.id 0 0, -5)] }).setCh 0
    { State.reset.ch 0 with paths := { (State.reset.ch 0).paths with relayPending := true } }

/-- Where RELAY_CLOSURE_VERIFIED leads from there. -/
def negativeWearVerified : State :=
  (negativeWear.setCh 0 { negativeWear.ch 0 with paths := { (negativeWear.ch 0).paths with
    relay := true, relayPending := false, ssrOpens := decide ((negativeWear.ch 0).act.ir ≤ 1) } }).bump FCH.RELAY_COUNT 0

theorem rd_negativeWear : negativeWear.rd FCH.RELAY_COUNT 0 = -5 := by decide

/-- The sum -4 is stored cut to 32 bits. -/
theorem rd_negativeWearVerified : negativeWearVerified.rd FCH.RELAY_COUNT 0 = 4294967292 := by decide

theorem exec_relayClosureVerified_negativeWear : exec (.relayClosureVerified 0) negativeWear = .next negativeWearVerified := by
  have hexec : exec (.relayClosureVerified 0) negativeWear =
      done (if negativeWearVerified.rd FCH.RELAY_COUNT 0 = 180000000 then record negativeWearVerified 1 0 0x07
        else negativeWearVerified) := rfl
  have hdue : negativeWearVerified.due = [] := rfl
  rw [hexec, rd_negativeWearVerified, if_neg (by decide), done, settle_none hdue]

/-- Refutes O18: the clause on RELAY_CLOSURE_VERIFIED asks for a count of -4 before the step's causes are settled, and settling keeps
every relay's count; from `negativeWear` the model comes to a count of 4294967292. -/
theorem not_outputPathRowsComplete : ¬ Obligations.OutputPathRowsComplete := by
  unfold Obligations.OutputPathRowsComplete
  rintro ⟨-, -, -, hverified, -⟩
  obtain ⟨u, hgoes, hcount, -, -⟩ := hverified negativeWear 0 (by decide) rfl
  rw [rd_negativeWear] at hgoes hcount
  rw [goes, exec_relayClosureVerified_negativeWear, if_neg (by decide)] at hgoes
  have hsettled : negativeWearVerified = settle u := Host.Outcome.next.inj hgoes
  have hkept := wearSame_settle u 0
  rw [← hsettled, rd_negativeWearVerified, hcount] at hkept
  exact absurd hkept (by decide)

end Sys2Proof.Machine
end

section
/-!
The measurement path: what its rows do where their condition is met.
-/
namespace Sys2Proof.Machine
open Sys2Proof.Claims

section
variable {s : State} {g ch t : Nat}

/-! SAMPLE_TIMER_INSTANT (R90, R92, R98). -/

/-- A scheduled instant of a running group is looked at unless the group has taken it already. -/
theorem not_timerInstant_skips (hsched : scheduledAt s g s.now = true) (hstop : stopped s (groupIsland g) = false)
    (hrun : (s.group g).samp ≠ .idle) (hnew : (s.group g).instant = some (s.clock * 65536) → (s.group g).samp = .waking) :
    ¬((!scheduledAt s g s.now) = true ∨ stopped s (groupIsland g) = true ∨ (s.group g).samp = .idle ∨
      ((s.group g).instant = some (s.clock * 65536) ∧ (s.group g).samp ≠ .waking)) := by
  rintro (h | h | h | ⟨htaken, hwake⟩)
  · simp [hsched] at h
  · simp [hstop] at h
  · exact hrun h
  · exact hwake (hnew htaken)

/-- A powered or auto-zeroing group that is not busy takes its instant. -/
theorem timerInstant_rested (hrest : (s.group g).samp = .ready ∨ (s.group g).samp = .autoZero)
    (hsched : scheduledAt s g s.now = true) (hstop : stopped s (groupIsland g) = false)
    (hnew : (s.group g).instant ≠ some (s.clock * 65536)) (hfree : (s.group g).busyTill ≤ s.clock * 65536) :
    timerInstant s g = takeInstant (s.setGroup g { s.group g with byTrig := false }) g (s.now * 65536) := by
  have hrun : (s.group g).samp ≠ .idle := by rcases hrest with h | h <;> simp [h]
  have hwoken : ¬((s.group g).samp = .waking ∧ (s.group g).instant = some (s.clock * 65536) ∧ (!(s.group g).byTrig) = true) :=
    fun h => hnew h.2.1
  have hpowered : (s.group g).samp = .ready ∨ (s.group g).samp = .autoZero ∨
      ((s.group g).samp = .asleep ∧ wokenLate s g = true) := hrest.imp_right .inl
  simp only [timerInstant, if_neg (not_timerInstant_skips hsched hstop hrun fun h => absurd h hnew), if_neg hwoken,
    if_neg (Nat.not_lt.2 hfree), if_pos hpowered]

/-- A busy group loses an instant of its timer. -/
theorem timerInstant_busy (hrun : (s.group g).samp ≠ .idle) (hwake : (s.group g).samp ≠ .waking)
    (hsched : scheduledAt s g s.now = true) (hstop : stopped s (groupIsland g) = false)
    (hnew : (s.group g).instant ≠ some (s.clock * 65536)) (hbusy : s.clock * 65536 < (s.group g).busyTill)
    (hsrc : (s.group g).src = 1) : timerInstant s g = overrun s g := by
  have hwoken : ¬((s.group g).samp = .waking ∧ (s.group g).instant = some (s.clock * 65536) ∧ (!(s.group g).byTrig) = true) :=
    fun h => hwake h.1
  have hsweep : ¬(s.group g).src = 3 := by omega
  simp only [timerInstant, if_neg (not_timerInstant_skips hsched hstop hrun fun h => absurd h hnew), if_neg hwoken, if_pos hbusy,
    if_neg hsweep]

/-- A group takes the scheduled instant that its converters were woken for. -/
theorem timerInstant_woken (hwake : (s.group g).samp = .waking) (htrig : (s.group g).byTrig = false)
    (hdue : (s.group g).instant = some (s.clock * 65536)) (hsched : scheduledAt s g s.now = true)
    (hstop : stopped s (groupIsland g) = false) : timerInstant s g = takeInstant s g (s.now * 65536) := by
  have hrun : (s.group g).samp ≠ .idle := by simp [hwake]
  have hwoken : (s.group g).samp = .waking ∧ (s.group g).instant = some (s.clock * 65536) ∧ (!(s.group g).byTrig) = true :=
    ⟨hwake, hdue, by simp [htrig]⟩
  simp only [timerInstant, if_neg (not_timerInstant_skips hsched hstop hrun fun _ => hwake), if_pos hwoken]

theorem goes_sampleTimerInstant {u : State} (h : timerInstant s g = u) : goes (.sampleTimerInstant g) s u :=
  congrArg done h

/-- A group on its timer has an instant at each point of its grid (R90). -/
theorem scheduledAt_of_grid (hsrc : (s.group g).src = 1) (hcycle : t % 125 = 0)
    (hgrid : (((t / 125 : Nat) : Int) - (s.group g).phase) % ((s.group g).period : Int) = 0) : scheduledAt s g t = true := by
  simp only [scheduledAt, hsrc, hcycle, hgrid, if_true, decide_true, Bool.and_self]

/-! SAMPLE_TRIGGER_PULSE (R91, R92, R96, R121). -/

/-- The pulse that a group's sample-trigger input has captured is taken from it. -/
def captureTaken (s : State) (g : Nat) : State := s.setCon (0x50 + g) { s.con (0x50 + g) with capt := none }

theorem con_captureTaken (s : State) (g : Nat) :
    (captureTaken s g).con (0x50 + g) = { s.con (0x50 + g) with capt := none } := by
  rw [captureTaken, State.con_setCon, if_pos rfl]

@[simp] theorem group_captureTaken (s : State) (g n : Nat) : (captureTaken s g).group n = s.group n := rfl
@[simp] theorem stopped_captureTaken (s : State) (g : Nat) (i : Island) : stopped (captureTaken s g) i = stopped s i := rfl
@[simp] theorem fullAz_captureTaken (s : State) (g n : Nat) : fullAz (captureTaken s g) n = fullAz s n := rfl
@[simp] theorem trigBusy_captureTaken (s : State) (g n t : Nat) : trigBusy (captureTaken s g) n t = trigBusy s n t := rfl

/-- A captured pulse triggers a running group whose source is the fabric. -/
theorem goes_sampleTriggerPulse (hcapt : (s.con (0x50 + g)).capt = some t) (hsrc : (s.group g).src = 2)
    (hstop : stopped s (groupIsland g) = false) : goes (.sampleTriggerPulse g) s (fabricTrigger (captureTaken s g) g t) := by
  have hacts : ((captureTaken s g).group g).src = 2 ∧ (!stopped (captureTaken s g) (groupIsland g)) = true := by simp [hsrc, hstop]
  simp only [goes, exec, execSampleTriggerPulse, hcapt]
  exact if_pos hacts

/-- A trigger claims a group: it is busy from the trigger's instant on. -/
def triggered (s : State) (g at_ : Nat) : State :=
  s.setGroup g { s.group g with byTrig := true, busyTill := at_ + busyFor g }

/-- A trigger of a powered group that is free and not wholly in auto-zero brings its instant after the trigger's latency. -/
theorem fabricTrigger_powered (hrun : (s.group g).samp ≠ .idle) (haz : fullAz s g = none) (hfree : trigBusy s g t = false)
    (hmode : (s.group g).pmode ≠ 1) : fabricTrigger s g t =
      trigInstant (triggered s g (t + Config.trigLatency % 61 * 65536)) g (t + Config.trigLatency % 61 * 65536) := by
  simp only [fabricTrigger, if_neg hrun, haz, hfree, if_neg hmode, Bool.not_false, Bool.and_false, Bool.false_eq_true, if_false]
  rfl

/-- In AUTO_PD it wakes the converters for an instant 2 µs later. -/
theorem fabricTrigger_autoPd (hrun : (s.group g).samp ≠ .idle) (haz : fullAz s g = none) (hfree : trigBusy s g t = false)
    (hmode : (s.group g).pmode = 1) : fabricTrigger s g t =
      (triggered s g (t + 2000 * 65536)).setGroup g { (triggered s g (t + 2000 * 65536)).group g with
        samp := .waking, instant := some (t + 2000 * 65536) } := by
  simp only [fabricTrigger, if_neg hrun, haz, hfree, if_pos hmode, Bool.not_false, Bool.and_false, Bool.false_eq_true, if_false]
  rfl

/-! Conversions (R98, R122). -/

/-- CONVERSION_COMPLETE builds the records; where the conversion ends at a boundary, what waited for its end takes effect (R97). -/
theorem goes_conversionComplete {u v : State} (codes : List MeasureCode) (hconv : (s.group g).samp = .converting)
    (hend : ((s.group g).instant.getD 0) + busyFor g < cycleEnd s) (hstop : stopped s (groupIsland g) = false)
    (hu : u = (s.group g).shots.foldl (convertChan codes (s.group g).stamp) s)
    (hv : v = restGroup (u.setGroup g { u.group g with shots := [] }) g) :
    goes (.conversionComplete g codes) s
      (if ((s.group g).instant.getD 0) + busyFor g ≤ s.clock * 65536 then takeMode (takeSrc v g) g else v) := by
  subst hu hv
  have hacts : (s.group g).samp = .converting ∧ ((s.group g).instant.getD 0) + busyFor g < cycleEnd s ∧
      (!stopped s (groupIsland g)) = true := ⟨hconv, hend, by simp [hstop]⟩
  simp only [goes, exec, execConversionComplete, if_pos hacts, decide_eq_true_eq, done]

/-- CONV_FAULT loses the slot of a channel that had no result when its conversion ended. -/
theorem goes_convFault_missing {x : Shot × Nat}
    (hfind : (s.group (groupOf ch)).missing.find? (fun y => y.1.ch == ch && decide (y.2 + 1000 * 65536 < cycleEnd s)) = some x) :
    goes (.convFault ch) s (record (loseRecord (s.setGroup (groupOf ch) { s.group (groupOf ch) with
      missing := (s.group (groupOf ch)).missing.filter fun y => !(y.1.ch == ch && y.1.seq == x.1.seq) })
      ch x.1.seq (s.sysFine x.2 / 65536)) 2 ch 0x03) := by
  simp only [goes, exec, execConvFault, hfind]
  rfl

/-- CONV_FAULT loses the slot of a channel in a conversion under way. -/
theorem goes_convFault_shot {x : Shot} (hnone : (s.group (groupOf ch)).missing = [])
    (hfind : (s.group (groupOf ch)).shots.find? (fun y => y.ch == ch) = some x)
    (hdue : ((s.group (groupOf ch)).instant.getD 0) + 1000 * 65536 < cycleEnd s) :
    goes (.convFault ch) s (record (loseRecord (s.setGroup (groupOf ch) { s.group (groupOf ch) with
      shots := (s.group (groupOf ch)).shots.filter fun y => y.ch != ch }) ch x.seq (s.group (groupOf ch)).stamp) 2 ch 0x03) := by
  simp only [goes, exec, execConvFault, hnone, List.find?_nil, hdue, decide_true, Bool.and_true, hfind]
  rfl

/-! Wakes of the converters (R95, R98). -/

/-- CONVERTER_WAKE_COMPLETE takes a trigger's instant, and one that is still scheduled. -/
theorem goes_converterWakeComplete_taken (hwake : (s.group g).samp = .waking) (hinst : (s.group g).instant = some t)
    (hdue : t < cycleEnd s) (hstop : stopped s (groupIsland g) = false)
    (hstands : (s.group g).byTrig = true ∨ scheduledAt s g s.now = true) :
    goes (.converterWakeComplete g) s (takeInstant s g (s.sysFine t)) := by
  have hacts : (s.group g).samp = .waking ∧ t < cycleEnd s ∧ (!stopped s (groupIsland g)) = true := ⟨hwake, hdue, by simp [hstop]⟩
  simp only [goes, exec, execConverterWakeComplete, hinst, if_pos hacts, if_pos (Bool.or_eq_true_iff.2 hstands), done]

/-- CONVERTER_WAKE_COMPLETE lets a group rest whose instant is no longer scheduled. -/
theorem goes_converterWakeComplete_dropped (hwake : (s.group g).samp = .waking) (hinst : (s.group g).instant = some t)
    (hdue : t < cycleEnd s) (hstop : stopped s (groupIsland g) = false) (htrig : (s.group g).byTrig = false)
    (hsched : scheduledAt s g s.now = false) :
    goes (.converterWakeComplete g) s (restGroup (s.setGroup g { s.group g with busyTill := 0, instant := none }) g) := by
  have hacts : (s.group g).samp = .waking ∧ t < cycleEnd s ∧ (!stopped s (groupIsland g)) = true := ⟨hwake, hdue, by simp [hstop]⟩
  simp only [goes, exec, execConverterWakeComplete, hinst, if_pos hacts, htrig, hsched, Bool.or_self, Bool.false_eq_true,
    if_false, done]

/-! Auto-zero (R114, R115). -/

/-- AUTO_ZERO_START begins with a due channel in OFF or STANDBY alone. -/
theorem goes_autoZeroStart (hgroup : groupOf ch = g) (hconv : (s.group g).samp ≠ .converting) (hwake : (s.group g).samp ≠ .waking)
    (htrigs : (s.group g).trigs = []) (haz : (s.group g).az = none) (hstop : stopped s (groupIsland g) = false)
    (hdue : azDue s ch = true) (hoff : s.chState ch ≤ 1) : goes (.autoZeroStart g ch) s (startAz s g [ch]) := by
  have hacts : groupOf ch = g ∧ ((s.group g).samp ≠ .converting ∧ (s.group g).samp ≠ .waking ∧ (s.group g).trigs.isEmpty = true ∧
      (s.group g).az.isNone = true ∧ (!stopped s (groupIsland g)) = true) ∧ azDue s ch = true :=
    ⟨hgroup, ⟨hconv, hwake, by simp [htrigs], by simp [haz], by simp [hstop]⟩, hdue⟩
  exact (if_pos hacts).trans (if_pos hoff)

/-- AUTO_ZERO_COMPLETE takes the offsets of a channel whose auto-zero has run its 8 µs and was not abandoned. -/
theorem goes_autoZeroComplete {a : AzRun} (v i pair : Int) (ok : Bool) (haz : (s.group (groupOf ch)).az = some a)
    (hch : ch ∈ a.chans) (hruns : a.till = none) (hend : a.start + 8000 ≤ s.clock) :
    goes (.autoZeroComplete ch v i pair ok) s (takeOffsets (azLeave s (groupOf ch) ch) ch v i pair ok) := by
  have hacts : a.chans.contains ch = true ∧ a.till.isNone = true ∧ a.start + 8000 ≤ s.clock :=
    ⟨by simp [hch], by simp [hruns], hend⟩
  simp only [goes, exec, execAutoZeroComplete, haz, if_pos hacts, done]

end

/-- Settles O20: each row acts where its condition is met. -/
theorem measureRowsComplete : Obligations.MeasureRowsComplete := by
  refine ⟨?_, ?_, ?_, ?_, ?_, ?_, ?_, ?_, ?_, ?_, ?_, ?_, ?_, ?_, ?_⟩
  · exact fun s g hrest hsched hstop hnew hfree => goes_sampleTimerInstant (timerInstant_rested hrest hsched hstop hnew hfree)
  · exact fun s g hrun hwake hsched hstop hnew hbusy hsrc =>
      goes_sampleTimerInstant (timerInstant_busy hrun hwake hsched hstop hnew hbusy hsrc)
  · exact fun s g hready hsrc hcycle hgrid hstop hnew hfree => ⟨_, goes_sampleTimerInstant
      (timerInstant_rested (.inl hready) (scheduledAt_of_grid hsrc hcycle hgrid) hstop hnew hfree), rfl⟩
  · exact fun s g hwake htrig hdue hsched hstop => goes_sampleTimerInstant (timerInstant_woken hwake htrig hdue hsched hstop)
  · exact fun s g t hcapt hsrc hstop => ⟨_, goes_sampleTriggerPulse hcapt hsrc hstop, con_captureTaken s g, rfl⟩
  · intro s g t hcapt hsrc hstop hrun haz hfree hmode
    have hrow := goes_sampleTriggerPulse hcapt hsrc hstop
    rw [fabricTrigger_powered (by simpa) (by simpa) (by simpa) (by simpa)] at hrow
    exact ⟨_, rfl, hrow⟩
  · intro s g t hcapt hsrc hstop hrun haz hfree hmode
    have hrow := goes_sampleTriggerPulse hcapt hsrc hstop
    rw [fabricTrigger_autoPd (by simpa) (by simpa) (by simpa) (by simpa)] at hrow
    refine ⟨_, hrow, ?_, ?_, ?_⟩ <;> simp [triggered]
  · exact fun s g codes hconv hend hstop => ⟨_, _, rfl, rfl, goes_conversionComplete codes hconv hend hstop rfl rfl⟩
  · exact fun s ch x hfind => ⟨_, goes_convFault_missing hfind, rfl⟩
  · exact fun s ch x hnone hfind hdue => ⟨_, goes_convFault_shot hnone hfind hdue, rfl⟩
  · exact fun s g hsleep hnext hstop => if_pos ⟨hsleep, hnext, by simp [hstop]⟩
  · exact fun s g t hwake hinst hdue hstop hstands => goes_converterWakeComplete_taken hwake hinst hdue hstop hstands
  · exact fun s g t hwake hinst hdue hstop htrig hsched => goes_converterWakeComplete_dropped hwake hinst hdue hstop htrig hsched
  · exact fun s g ch hgroup hconv hwake htrigs haz hstop hdue hoff =>
      goes_autoZeroStart hgroup hconv hwake htrigs haz hstop hdue hoff
  · exact fun s ch v i pair ok a haz hch hruns hend => goes_autoZeroComplete v i pair ok haz hch hruns hend

end Sys2Proof.Machine
end

section
/-!
Uploads to sweep memory: what the transfer of an upload brings and where it is stored (R126 to R128).
-/
namespace Sys2Proof.Machine
open Sys2Proof.Claims

/-- A read after writes at consecutive indexes: a written index gives its value, every other index what it gave. -/
theorem Bank.get_setAll {α : Type} [DecidableEq α] (d : Nat → α) (b : Bank α) (i k : Nat) (vs : List α) :
    Bank.get d (Bank.setAll d b i vs) k =
      if i ≤ k ∧ k < i + vs.length then vs.getD (k - i) (d k) else Bank.get d b k := by
  induction vs generalizing b i with
  | nil => rw [if_neg (by simp only [List.length_nil]; omega), Bank.setAll]
  | cons v vs ih =>
    rw [Bank.setAll, ih, Bank.get_set, List.length_cons]
    rcases Nat.lt_trichotomy k i with hlt | rfl | hgt
    · rw [if_neg (by omega), if_neg (by omega), if_neg (by omega)]
    · rw [if_neg (by omega), if_pos rfl, if_pos (by omega), Nat.sub_self, List.getD_cons_zero]
    · obtain ⟨j, rfl⟩ := Nat.exists_eq_add_of_lt hgt
      have hhere : i + j + 1 - (i + 1) = j := by omega
      have hnext : i + j + 1 - i = j + 1 := by omega
      rw [if_neg (by omega : ¬i + j + 1 = i), hhere, hnext, List.getD_cons_succ]
      exact if_congr (by omega) rfl rfl

section
variable {s : State} {u : Upload} {r : Region} {src : Src} {tag : Nat} {ws : List Nat}

/-- A transfer that met no fault, and whose completions report none, has none. -/
theorem uploadFault_none (hclean : ∀ x, uploadXfer s u = some x → x.fault = none) : uploadFault s u none = (none, s) := by
  unfold uploadFault
  cases hx : uploadXfer s u with
  | none => rfl
  | some x => simp only [hclean x hx]

/-- An upload that has ended well: its region is VALID and holds the entries (R128). -/
def uploadStored (s : State) (u : Upload) (r : Region) (qs : List Quad) : State :=
  storeEntries (endUpload (s.setRegion u.handle (some { r with state := 1 })) u) r.base qs

/-- Sweep memory holds the entries in the region, and elsewhere what it held. -/
theorem get_sweMem_uploadStored (qs : List Quad) (i : Nat) :
    Bank.get (fun _ => Quad.zero) (uploadStored s u r qs).sweMem i =
      if r.base ≤ i ∧ i < r.base + qs.length then qs.getD (i - r.base) Quad.zero
      else Bank.get (fun _ => Quad.zero) s.sweMem i :=
  Bank.get_setAll _ _ _ _ _

/-- SWE_UPLOAD_DONE stores entries that are all there and all accepted, and completes the upload. -/
theorem goes_sweUploadDone (hup : s.uploads.find? (fun x => x.src == src && x.tag == tag) = some u)
    (hreg : s.region u.handle = some r) (hread : uploadRead s u = true)
    (hclean : ∀ x, uploadXfer s u = some x → x.fault = none) (hlen : (quadsOf ws).length = r.count)
    (hgood : firstBad r.hv false (quadsOf ws) 0 (quadsOf ws) = none) :
    goes (.sweUploadDone src tag ws none) s ((uploadStored s u r (quadsOf ws)).complete src tag St.SUCCESS
      (uploadResult (uploadStored s u r (quadsOf ws)) u.handle ((uploadStored s u r (quadsOf ws)).rdN SWE.MEM_FREE))) := by
  have hall : (quadsOf ws).take r.count = quadsOf ws := List.take_of_length_le hlen.le
  have hover : ¬((none : Option HostFault).isNone = true ∧ (!uploadRead s u) = true) := by simp [hread]
  simp only [goes, exec, execSweUploadDone, hup, if_neg hover, hreg, uploadFault_none hclean, hall, hlen, Nat.sub_self,
    List.replicate_zero, List.append_nil, Option.isSome_none, hgood, if_true]
  rfl

end

/-- Settles O57: the upload stores its entries in its region (`get_sweMem_uploadStored`), and neither its completion nor what a step's
causes bring about writes sweep memory. -/
theorem uploadStoresItsRegionOnly : Obligations.UploadStoresItsRegionOnly := by
  intro s src tag got u r _ hup hreg hread hclean hlen hgood
  refine ⟨_, goes_sweUploadDone hup hreg hread hclean hlen hgood, fun i => ?_⟩
  have hkept := (still_settle (still_complete src tag St.SUCCESS (uploadResult (uploadStored s u r (quadsOf got)) u.handle
    ((uploadStored s u r (quadsOf got)).rdN SWE.MEM_FREE)) true none (Still.rfl (uploadStored s u r (quadsOf got))))).sweMem
  rw [hkept, get_sweMem_uploadStored, hlen]

end Sys2Proof.Machine
end

section
/-!
The commands of the sweep engines: uploads and regions, slots, and what is asked of an engine.
-/
namespace Sys2Proof.Machine
open Sys2Proof.Claims

section
variable {s t : State} {c : Instr} {p : Pkt} {code e k base : Nat} {f : Form} {body : Res} {r : Region} {x : Xfer}

/-! SWE_UPLOAD (R126, R127, R396). -/

/-- An accepted command whose read has units to issue goes on and keeps its core. -/
theorem goes_of_reading (hx : exec c s = runCmd s p code f body) (hdisp : dispatched s p code = true)
    (hgate : gate s p code f = none) (hbody : body = .later t) (hread : stillReads t p = true) : goes c s t := by
  rw [goes, hx, runCmd_passed hdisp hgate, hbody, finish_reads hread, done]

/-- A read that begins is its packet's transfer where the packet has no other. -/
theorem stillReads_startXfer (hfree : pktXfer s p = none) (hwho : x.who = .cmd p.src (pTag p)) :
    stillReads (startXfer s x) p = (!x.write && x.left != 0) := by
  simp only [pktXfer] at hfree
  simp [stillReads, pktXfer, startXfer, List.find?_append, hfree, hwho]

/-- The state in which an upload's transfer into a region has begun. -/
def uploadBegun (s : State) (p : Pkt) (h : Nat) : State :=
  startXfer { s with uploads := s.uploads ++ [⟨p.src, pTag p, h⟩] }
    { who := .cmd p.src (pTag p), ctx := pktCtx p, prio := pPrio p, addr := pw64 p 2, left := 16 * pw p 4, write := false }

/-- A transfer of at least one entry has units to issue. -/
theorem stillReads_uploadBegun {h : Nat} (hfree : pktXfer s p = none) (hsome : 1 ≤ pw p 4) :
    stillReads (uploadBegun s p h) p = true :=
  (stillReads_startXfer hfree rfl).trans (by simp; omega)

/-- The checks that SWE_UPLOAD makes of its count and address (R159). -/
theorem upload_sized (hsome : 1 ≤ pw p 4) (hmax : pw p 4 ≤ 1048576) (halign : pw p 2 % 16 = 0) :
    ¬(pw p 4 = 0 ∨ 1048576 < pw p 4 ∨ pw p 2 % 16 ≠ 0) := by omega

/-- SWE_UPLOAD allocates the lowest run that has room, under the lowest free handle. -/
theorem goes_sweUpload_allocating (hacc : accepted (.sweUpload p) s) (hfree : pktXfer s p = none) (hsome : 1 ≤ pw p 4)
    (hmax : pw p 4 ≤ 1048576) (halign : pw p 2 % 16 = 0) (hnew : bit (pw p 5) 1 = false)
    (hrun : lowestRun (roomFor (pw p 4)) 0 (runs s) = some base) (hroom : (runs s).length < 4096) :
    goes (.sweUpload p) s (uploadBegun (reportMem (s.setRegion (lowestHandle s)
      (some ⟨base, pw p 4, bit (pw p 5) 0, 0⟩))) p (lowestHandle s)) := by
  obtain ⟨hdisp, -, hgate, -⟩ := hacc
  refine goes_of_reading rfl hdisp hgate ?_ (stillReads_uploadBegun hfree hsome)
  simp only [if_neg (upload_sized hsome hmax halign), hnew, Bool.false_eq_true, if_false, hrun, if_neg (Nat.not_le.2 hroom)]
  rfl

/-- SWE_UPLOAD rewrites a region of its kind and count that no slot uses and no upload writes. -/
theorem goes_sweUpload_rewriting (hacc : accepted (.sweUpload p) s) (hfree : pktXfer s p = none) (hsome : 1 ≤ pw p 4)
    (hmax : pw p 4 ≤ 1048576) (halign : pw p 2 % 16 = 0) (hagain : bit (pw p 5) 1 = true)
    (hreg : s.region (pw p 6) = some r) (hkind : r.hv = bit (pw p 5) 0) (hcount : r.count = pw p 4)
    (hidle : regionUsed s (pw p 6) = false) (hstate : r.state ≠ 0) :
    goes (.sweUpload p) s (uploadBegun (s.setRegion (pw p 6) (some { r with state := 0 })) p (pw p 6)) := by
  obtain ⟨hdisp, -, hgate, -⟩ := hacc
  have hsame : ¬(r.hv ≠ bit (pw p 5) 0 ∨ r.count ≠ pw p 4) := by simp [hkind, hcount]
  have hrest : ¬(regionUsed s (pw p 6) = true ∨ r.state = 0) := by simp [hidle, hstate]
  refine goes_of_reading rfl hdisp hgate ?_ (stillReads_uploadBegun hfree hsome)
  simp only [if_neg (upload_sized hsome hmax halign), hagain, if_true, hreg, if_neg hsame, if_neg hrest]
  rfl

/-! SWE_FREE and SWE_LOAD (R130, R150, R151). -/

/-- The upload that writes a region, if any, ends ABORTED (R130). -/
def uploaderAborted (s : State) (h : Nat) : State :=
  match uploaderOf s h with
  | some x => uploadFails s x 0x02 St.ABORTED 0
  | none => s

/-- SWE_FREE frees a region that no slot uses. -/
theorem replies_sweFree (hacc : accepted (.sweFree p) s) (hreg : s.region (pw p 2) = some r)
    (hidle : regionUsed s (pw p 2) = false) :
    replies (.sweFree p) p s St.SUCCESS [] (reportMem ((uploaderAborted s (pw p 2)).setRegion (pw p 2) none)) := by
  obtain ⟨hdisp, -, hgate, -⟩ := hacc
  refine replies_of_exec rfl hdisp hgate ?_
  simp only [hreg, hidle, Bool.false_eq_true, if_false]
  rfl

/-- The parameters that SWE_LOAD gives a slot (R150, R161). -/
def slotParams (p : Pkt) : List (Prm × Nat) :=
  [(SWE.REGION, pw p 2), (SWE.ENTRY, pw p 3), (SWE.PRIORITY, fld (pw p 5) 0 2), (SWE.PREEMPT_CUT, fld (pw p 5) 2 1),
    (SWE.CHAN_SET, fld (pw p 4) 0 8), (SWE.END_ACTION, fld (pw p 4) 8 2), (SWE.START_AT, 0), (SWE.PC, pw p 3),
    (SWE.CUT_INDEX, 0), (SWE.CUT_OFS, 0), (SWE.LOOP_CTR0, 0), (SWE.LOOP_CTR1, 0), (SWE.LOOP_CTR2, 0), (SWE.LOOP_CTR3, 0)]

/-- A slot into which SWE_LOAD has placed a program is LOADED, and nothing has run in it. -/
def slotLoaded (s : State) (p : Pkt) (e k : Nat) : State :=
  (((slotParams p).foldl (fun s x => s.wr x.1 e k (x.2 : Nat)) s).setSlotState e k 1).setSlot e k {}

/-- SWE_LOAD places a program that starts in a VALID region of the engine's kind into a free slot. -/
theorem replies_sweLoad (hacc : accepted (.sweLoad p) s) (hengine : targetEngine p = some e)
    (hreg : s.region (pw p 2) = some r) (hentry : pw p 3 < r.count) (hend : fld (pw p 4) 8 2 ≠ 3)
    (hchans : e = 16 → fld (pw p 4) 0 8 < 16) (hstop : stopped s (engineIsland e) = false) (hslot : freeSlotOf s e = some k)
    (hvalid : r.state = 1) (hkind : r.hv = decide (e = 16)) :
    replies (.sweLoad p) p s St.SUCCESS [k] (slotLoaded s p e k) := by
  obtain ⟨hdisp, -, hgate, -⟩ := hacc
  have hargs : ¬(r.count ≤ pw p 3 ∨ fld (pw p 4) 8 2 = 3 ∨ (e = 16 ∧ 16 ≤ fld (pw p 4) 0 8)) := by
    rintro (h | h | ⟨h, hwide⟩)
    · omega
    · exact hend h
    · exact absurd (hchans h) (by omega)
  have hfit : ¬(r.state ≠ 1 ∨ r.hv ≠ decide (e = 16)) := by simp [hvalid, hkind]
  refine replies_of_exec rfl hdisp hgate ?_
  simp only [hengine, hreg, if_neg hargs, hstop, hslot, if_neg hfit, Bool.false_eq_true, if_false]
  rfl

theorem slot_setSlot (v : SweSlot) : (s.setSlot e k v).slot e k = v := by
  simp [State.slot, State.setSlot]

theorem slotState_setSlot (v : SweSlot) : (s.setSlot e k v).slotState e k = s.slotState e k := rfl

theorem slotState_setSlotState {v : Nat} (hv : SWE.SLOT_STATE.wrap v = v) : (s.setSlotState e k v).slotState e k = v := by
  simp [State.slotState, State.setSlotState, State.rdN, State.rd_wr, hv]

theorem slotState_slotLoaded : (slotLoaded s p e k).slotState e k = 1 := by
  rw [slotLoaded, slotState_setSlot, slotState_setSlotState (by decide)]

/-! Commands on one slot: SWE_START, SWE_ARM, SWE_RESUME, SWE_RELEASE (R149, R151, R158). -/

/-- A command on a slot that exists, of an engine whose island runs, comes to what its definition says of that slot. -/
theorem slotCmd_named {k : Nat} {body : Nat → Nat → Res} (hengine : targetEngine p = some e) (hslot : slotArg p = some k)
    (hstop : stopped s (engineIsland e) = false) : slotCmd p s body = body e k := by
  simp only [slotCmd, hengine, hslot, hstop, Bool.false_eq_true, if_false]

/-- A slot that is admissible is admitted with its reservation (R149). -/
theorem admitSlot_admissible (hadm : admissible s e k) : admitSlot s e k = .ok (reportBudget (reserved s e k)) := by
  obtain ⟨hshed, hloaded, hgo, ⟨r, hreg, hvalid⟩, hchans, hbudget, hpeak⟩ := hadm
  have hstate : ¬(shedding s = true ∨ s.slotState e k ≠ 1 ∨ (s.slot e k).goAt.isSome = true ∨
      (!((s.region (s.slotRd SWE.REGION e k)).map fun r => r.state == 1).getD false) = true) := by
    simp [hshed, hloaded, hgo, hreg, hvalid]
  have hon : ¬((slotChans s e k).any fun c => s.chState c == 0 || decide (6 ≤ s.chState c)) = true := by
    rw [Bool.not_eq_true, List.any_eq_false]
    intro c hc
    have := hchans c hc
    simp; omega
  have hpower : ¬(e < 16 ∧ ((((budgetSums s).1 < (budgetSums (reserved s e k)).1 ∨
      (budgetSums s).2 < (budgetSums (reserved s e k)).2) ∧ (!withinBudget (budgetSums (reserved s e k))) = true) ∨
      240 * watt < peakSum (reserved s e k))) := by
    rintro ⟨hlow, ⟨hrise, hover⟩ | hover⟩
    · rcases hbudget with h | h | h
      · omega
      · omega
      · simp [h] at hover
    · exact absurd (hpeak hlow) (by omega)
  exact (if_neg hstate).trans ((if_neg hon).trans (if_neg hpower))

/-- SWE_START of an admissible slot makes its start due. -/
theorem replies_sweStart (hacc : accepted (.sweStart p) s) (hengine : targetEngine p = some e) (hslot : slotArg p = some k)
    (hstop : stopped s (engineIsland e) = false) (hadm : admissible s e k) (ht : t = reportBudget (reserved s e k)) :
    replies (.sweStart p) p s St.SUCCESS [] (t.setSlot e k { t.slot e k with goAt := some (actsAt t) }) := by
  subst ht
  obtain ⟨hdisp, -, hgate, -⟩ := hacc
  refine replies_of_exec rfl hdisp hgate ?_
  simp only [slotCmd_named hengine hslot hstop, admitSlot_admissible hadm]
  rfl

/-- SWE_ARM of an admissible slot gives it its START_AT and makes it ARMED. -/
theorem replies_sweArm (hacc : accepted (.sweArm p) s) (hengine : targetEngine p = some e) (hslot : slotArg p = some k)
    (hstop : stopped s (engineIsland e) = false) (hadm : admissible s e k) :
    replies (.sweArm p) p s St.SUCCESS []
      (((reportBudget (reserved s e k)).wr SWE.START_AT e k (pw64 p 3)).setSlotState e k 2) := by
  obtain ⟨hdisp, -, hgate, -⟩ := hacc
  refine replies_of_exec rfl hdisp hgate ?_
  simp only [slotCmd_named hengine hslot hstop, admitSlot_admissible hadm]
  rfl

/-- SWE_RESUME of the held slot ends all its holds but one by a source, at the boundary first asked for. -/
theorem replies_sweResume (hacc : accepted (.sweResume p) s) (hengine : targetEngine p = some e) (hslot : slotArg p = some k)
    (hstop : stopped s (engineIsland e) = false) (hshed : shedding s = false) (hrun : s.runSlot e = k)
    (hheld : s.slotState e k = 6) (hlock : .coast ∉ (s.engine e).heldBy ∨ s.rd TB.STATE = 2) :
    replies (.sweResume p) p s St.SUCCESS [] (s.setEngine e { s.engine e with
      heldBy := (s.engine e).heldBy.filter (· == .source), resumeAt := some ((s.engine e).resumeAt.getD (actsAt s)) }) := by
  obtain ⟨hdisp, -, hgate, -⟩ := hacc
  have hlocked : ¬((s.engine e).heldBy.contains .coast = true ∧ s.runSlot e = k ∧ s.rd TB.STATE ≠ 2) := by
    rintro ⟨hcoast, -, hfree⟩
    rcases hlock with h | h
    · exact h (List.contains_iff_mem.1 hcoast)
    · exact hfree h
  have hready : ¬(shedding s = true ∨ s.runSlot e ≠ k ∨ s.slotState e k ≠ 6) := by simp [hshed, hrun, hheld]
  refine replies_of_exec rfl hdisp hgate ?_
  simp only [slotCmd_named hengine hslot hstop, if_neg hlocked, if_neg hready]
  rfl

/-- SWE_RELEASE empties a slot that is LOADED, ARMED, DONE or ABORTED. -/
theorem replies_sweRelease (hacc : accepted (.sweRelease p) s) (hengine : targetEngine p = some e) (hslot : slotArg p = some k)
    (hstop : stopped s (engineIsland e) = false) (hstate : s.slotState e k ∈ [1, 2, 8, 9]) :
    replies (.sweRelease p) p s St.SUCCESS []
      (((unreserve (s.setSlotState e k 0) e k).wr SWE.REGION e k 0).setSlot e k {}) := by
  obtain ⟨hdisp, -, hgate, -⟩ := hacc
  have hfree : s.slotState e k = 1 ∨ s.slotState e k = 2 ∨ s.slotState e k = 8 ∨ s.slotState e k = 9 := by
    simpa using hstate
  refine replies_of_exec rfl hdisp hgate ?_
  simp only [slotCmd_named hengine hslot hstop, if_pos hfree]
  rfl

/-! SWE_ABORT and SWE_SIGNAL (R151, R159). -/

/-- An abort of a slot is asked for; one asked for earlier stays due when it was (R145). -/
def abortAsked (e : Nat) (s : State) (k : Nat) : State :=
  s.setSlot e k { s.slot e k with abortAt := some ((s.slot e k).abortAt.getD (actsAt s)) }

/-- SWE_ABORT asks for the abort of each slot it names that has something to abort. -/
theorem replies_sweAbort (hacc : accepted (.sweAbort p) s) (hengine : targetEngine p = some e)
    (hstop : stopped s (engineIsland e) = false) (hslots : pw p 2 = 0xFFFFFFFF ∨ pw p 2 < 4) :
    replies (.sweAbort p) p s St.SUCCESS []
      (((if pw p 2 = 0xFFFFFFFF then List.range 4 else [pw p 2]).filter (abortable s e)).foldl (abortAsked e) s) := by
  obtain ⟨hdisp, -, hgate, -⟩ := hacc
  have hnamed : ¬(pw p 2 ≠ 0xFFFFFFFF ∧ 4 ≤ pw p 2) := by omega
  refine replies_of_exec rfl hdisp hgate ?_
  simp only [hengine, hstop, if_neg hnamed, Bool.false_eq_true, if_false]
  rfl

/-- SWE_SIGNAL sets the engine's HOST_FLAG. -/
theorem replies_sweSignal (hacc : accepted (.sweSignal p) s) (hengine : targetEngine p = some e)
    (hstop : stopped s (engineIsland e) = false) : replies (.sweSignal p) p s St.SUCCESS [] (s.put SWE.HOST_FLAG e 1) := by
  obtain ⟨hdisp, -, hgate, -⟩ := hacc
  refine replies_of_exec rfl hdisp hgate ?_
  simp only [hengine, hstop, Bool.false_eq_true, if_false]
  rfl

end

/-- Settles O22: the checks of each command pass under the premises. -/
theorem sweepCommandsComplete : Obligations.SweepCommandsComplete := by
  refine ⟨?_, ?_, ?_, ?_, ?_, ?_, ?_, ?_, ?_, ?_, ?_, ?_⟩
  · exact fun s p base hacc hfree hsome hmax halign hnew hrun hroom =>
      ⟨_, goes_sweUpload_allocating hacc hfree hsome hmax halign hnew hrun hroom, rfl⟩
  · exact fun s p r hacc hfree hsome hmax halign hagain hreg hkind hcount hidle hstate =>
      ⟨_, goes_sweUpload_rewriting hacc hfree hsome hmax halign hagain hreg hkind hcount hidle hstate, rfl⟩
  · exact fun s src tag ws u r hup hreg hread hclean hlen hgood =>
      ⟨_, goes_sweUploadDone hup hreg hread hclean hlen hgood, rfl⟩
  · exact fun s p r hacc hreg hidle => ⟨_, rfl, replies_sweFree hacc hreg hidle⟩
  · exact fun s p e r k hacc hengine hreg hentry hend hchans hstop hslot hvalid hkind =>
      ⟨_, replies_sweLoad hacc hengine hreg hentry hend hchans hstop hslot hvalid hkind, slot_setSlot _, slotState_slotLoaded⟩
  · exact fun s p e k hacc hengine hslot hstop hadm => ⟨_, rfl, replies_sweStart hacc hengine hslot hstop hadm rfl⟩
  · exact fun s p e k hacc hengine hslot hstop hadm => ⟨_, rfl, replies_sweArm hacc hengine hslot hstop hadm⟩
  · exact fun s p e k hacc hengine hslot hstop hshed hrun hheld hlock =>
      replies_sweResume hacc hengine hslot hstop hshed hrun hheld hlock
  · intro s p e hacc hengine hstop hall
    have hrow := replies_sweAbort hacc hengine hstop (.inl hall)
    rw [if_pos hall] at hrow
    exact hrow
  · intro s p e k hacc hengine hstop hone hslot
    subst hone
    have hrow := replies_sweAbort hacc hengine hstop (.inr hslot)
    rw [if_neg (by omega), List.filter_singleton, Bool.cond_eq_ite, apply_ite (List.foldl (abortAsked e) s)] at hrow
    exact hrow
  · exact fun s p e k hacc hengine hslot hstop hstate => replies_sweRelease hacc hengine hslot hstop hstate
  · exact fun s p e hacc hengine hstop => replies_sweSignal hacc hengine hstop

end Sys2Proof.Machine
end

section
/-!
The events of the sweep engines: pulses, waits, the steps of a point, pre-emption, and the scrub of sweep memory.
-/
namespace Sys2Proof.Machine
open Sys2Proof.Claims

section
variable {s u : State} {e k a i m n : Nat}

/-! Pulses on the consumers of an engine, and starts that act with them (R145, R151, R157, R158). -/

/-- A pulse that has acted leaves the captures of other consumers. -/
theorem captDue_clearCapt_ne (h : m ≠ n) : captDue (clearCapt s n) m = captDue s m := by
  have hcon : (clearCapt s n).con m = s.con m := by rw [clearCapt, State.con_setCon, if_neg h]
  unfold captDue
  rw [hcon]
  rfl

/-- A captured EV_START starts the slots that start now and ends a hold by EV_HOLD, unless an EV_ABORT acts with it. -/
theorem startTogether_pulse (hstart : captDue s (4 * e) = true) (hquiet : captDue s (4 * e + 3) = false) :
    startTogether s e = sweReady (clearCapt s (4 * e)) e ((List.range 4).filter (startsNow s e)) true := by
  have hlater : captDue (clearCapt s (4 * e)) (4 * e + 3) = false := (captDue_clearCapt_ne (by omega)).trans hquiet
  simp only [startTogether, hstart, if_true, hlater, Bool.false_eq_true, if_false]
  unfold startsNow
  simp only [hstart]

/-- An EV_ABORT of the same boundary alone acts. -/
theorem startTogether_abort (hstart : captDue s (4 * e) = true) (habort : captDue s (4 * e + 3) = true) :
    startTogether s e = bringForward (abortEngine (clearCapt (clearCapt s (4 * e)) (4 * e + 3)) e) e := by
  have hlater : captDue (clearCapt s (4 * e)) (4 * e + 3) = true := (captDue_clearCapt_ne (by omega)).trans habort
  simp only [startTogether, hstart, if_true, hlater]

/-- Without a pulse the slots that start now do so, and no hold ends. -/
theorem startTogether_quiet (hstart : captDue s (4 * e) = false) (hquiet : captDue s (4 * e + 3) = false) :
    startTogether s e = sweReady s e ((List.range 4).filter (startsNow s e)) false := by
  simp only [startTogether, hstart, hquiet, Bool.false_eq_true, if_false]
  unfold startsNow
  simp only [hstart]

theorem goes_sweEvStart (hstart : captDue s (4 * e) = true) : goes (.sweEvStart e) s (startTogether s e) := if_pos hstart

/-- EV_NEXT ends a point that applied before this boundary. -/
theorem goes_sweEvNext (hnext : captDue s (4 * e + 1) = true) (hon : pointOn (clearCapt s (4 * e + 1)) e = true)
    (hsince : (s.engine e).ta < s.clock) (hu : u = clearCapt s (4 * e + 1)) :
    goes (.sweEvNext e) s (bringForward (endPoint (u.setEngine e { u.engine e with nexted := true }) e) e) := by
  subst hu
  have hacts : pointOn (clearCapt s (4 * e + 1)) e = true ∧
      ((clearCapt s (4 * e + 1)).engine e).ta < (clearCapt s (4 * e + 1)).clock := ⟨hon, hsince⟩
  exact (if_pos hnext).trans (if_pos hacts)

/-- SWE_START_AT of an armed slot whose time has come starts what starts now. -/
theorem goes_sweStartAt (hslot : k < 4) (harmed : s.slotState e k = 2) (hset : s.slotRd SWE.START_AT e k ≠ 0)
    (hdue : s.slotRd SWE.START_AT e k ≤ s.now) : goes (.sweStartAt e k) s (startTogether s e) :=
  if_pos ⟨hslot, harmed, hset, hdue⟩

/-! Setting a cause writes windows, Vane's queue and interrupts; no parameter. -/

theorem raise_par (s : State) (v : Nat) : (s.raise v).par = s.par := by
  simp only [State.raise, apply_ite State.par, State.emit_par, ite_self]

theorem logRec_par (s : State) (r : Rec) : (s.logRec r).par = s.par := by
  simp only [State.logRec, apply_ite State.par, ite_self]

theorem countHit_par (s : State) (blk inst : Nat) (h : Hit) (action : Nat) : (countHit s blk inst h action).par = s.par := by
  simp only [countHit, apply_ite State.par, raise_par, State.setWin_par, ite_self]

theorem logHit_par (s : State) (blk inst : Nat) (h : Hit) (action : Nat) : (logHit s blk inst h action).par = s.par := by
  simp only [logHit, apply_ite State.par, logRec_par, State.setWin_par, ite_self]

theorem recordEach_par (s : State) (blk inst : Nat) (fixed : Option Nat) (l : List Hit) :
    (recordEach s blk inst fixed l).par = s.par := by
  induction l generalizing s with
  | nil => rfl
  | cons h l ih =>
    rw [recordEach, ih]
    split <;> exact (logHit_par _ _ _ _ _).trans (countHit_par _ _ _ _ _)

theorem recordHistory_par (s : State) (blk inst : Nat) (fixed : Option Nat) (h : Hit) :
    (recordHistory s blk inst fixed h).par = s.par := by
  simp only [recordHistory, apply_ite State.par, State.setWin_par, ite_self]

theorem record_par (s : State) (blk inst code : Nat) (high : Bool) : (record s blk inst code high).par = s.par := by
  unfold record recordHits
  split
  · rfl
  · exact (recordEach_par _ _ _ _ _).trans (recordHistory_par _ _ _ _ _)

/-- The slot in control is the same after a cause has been set. -/
theorem runSlot_record (s : State) (blk inst code : Nat) (high : Bool) (e : Nat) :
    (record s blk inst code high).runSlot e = s.runSlot e := by
  simp only [State.runSlot, State.rdN, State.rd, record_par]

/-! Waits (R143, R145, R151). -/

/-- The loop cycles by which the rails of a group delay the point in hand (R78); those of the HV group do not. -/
def pointDelay (s : State) (e : Nat) : Nat :=
  if e < 16 then railDelayFor (s.group e) ((s.group e).tgtP, (s.group e).tgtN) else 0

/-- A wait whose release boundary has come and whose rails stand applies the point. -/
theorem goes_sweWaitRelease_applies (hdue : waitDue s e = true) (hstand : pointDelay s e = 0) :
    goes (.sweWaitRelease e) s (bringForward (applyPoint (s.setEngine e { s.engine e with
      waitCapt := none, waited := (s.clock - (s.engine e).t) / 125 }) e) e) := by
  have hnow : ¬0 < pointDelay s e := by omega
  exact (if_pos hdue).trans (if_neg hnow)

/-- Where rails move, the point waits for them. -/
theorem goes_sweWaitRelease_delays (hdue : waitDue s e = true) (hmove : 0 < pointDelay s e)
    (hu : u = s.setEngine e { s.engine e with waitCapt := none, waited := (s.clock - (s.engine e).t) / 125, pt := .delay,
                                              railDelay := pointDelay s e, ta := s.clock + 125 * pointDelay s e }) :
    goes (.sweWaitRelease e) s (bringForward ((u.put SWE.STATE e 1).setSlotState e (u.runSlot e) 4) e) := by
  subst hu
  exact (if_pos hdue).trans (if_pos hmove)

/-- A wait that times out with no release due at this boundary aborts its slot. -/
theorem goes_sweWaitTimeout (hwait : (s.engine e).pt = .waiting) (hset : s.effN SWE.WAIT_TIMEOUT e ≠ 0)
    (hlate : (s.engine e).t + 125 * s.effN SWE.WAIT_TIMEOUT e ≤ s.clock) (hnone : waitDue s e = false) :
    goes (.sweWaitTimeout e) s (bringForward (abortSlot (record s 3 e 0x04) e ((record s 3 e 0x04).runSlot e)) e) := by
  have hacts : (s.engine e).pt = .waiting ∧ s.effN SWE.WAIT_TIMEOUT e ≠ 0 ∧
      (s.engine e).t + 125 * s.effN SWE.WAIT_TIMEOUT e ≤ s.clock ∧ (!waitDue s e) = true := ⟨hwait, hset, hlate, by simp [hnone]⟩
  rw [runSlot_record]
  exact if_pos hacts

/-! The steps of a point (R143, R147, R152). -/

theorem goes_pointEnd (hon : pointOn s e = true) (hover : (s.engine e).ta + 125 * eDwell
      (entryAt s (s.slotRd SWE.REGION e (s.runSlot e)) (s.engine e).entry) ≤ s.clock) :
    goes (.pointEnd e) s (bringForward (endPoint s e) e) :=
  if_pos ⟨hon, hover⟩

theorem goes_pulseEdgeStart (hrun : s.runSlot e < 4) (happlied : (s.engine e).pt = .applied) (hfirst : (s.engine e).pulsed = false)
    (hcut : cutDue s e = false) (hkind : eKind (entryAt s (s.slotRd SWE.REGION e (s.runSlot e)) (s.engine e).entry) = 1)
    (hdue : (s.engine e).ta + 125 * eDwell (entryAt s (s.slotRd SWE.REGION e (s.runSlot e)) ((s.engine e).entry + 1)) ≤ s.clock) :
    goes (.pulseEdgeStart e) s (pulseOn s e) :=
  if_pos ⟨hrun, happlied, by simp [hfirst], by simp [hcut], hkind, hdue⟩

theorem goes_pulseEdgeEnd {x : Quad} (hrun : s.runSlot e < 4) (hpulse : (s.engine e).pt = .pulse) (hcut : cutDue s e = false)
    (hx : x = entryAt s (s.slotRd SWE.REGION e (s.runSlot e)) ((s.engine e).entry + 1))
    (hdue : (s.engine e).ta + 125 * (eDwell x + ePwidth x) ≤ s.clock) : goes (.pulseEdgeEnd e) s (pulseOff s e) := by
  subst hx
  exact if_pos ⟨hrun, hpulse, by simp [hcut], hdue⟩

/-! Cuts (R152). -/

/-- An applied point is neither delayed nor waiting. -/
theorem not_before_of_pointOn (hon : pointOn s e = true) : ¬((s.engine e).pt = .delay ∨ (s.engine e).pt = .waiting) := by
  simp only [pointOn, Bool.and_eq_true, Bool.or_eq_true, beq_iff_eq] at hon
  rcases hon.2 with h | h <;> simp [h]

/-- A cut before the point applies pre-empts at this boundary. -/
theorem goes_swePreemptCut_before (hcut : cutDue s e = true) (hbefore : (s.engine e).pt = .delay ∨ (s.engine e).pt = .waiting) :
    goes (.swePreemptCut e) s (bringForward (preempt s e (s.engine e).entry) e) :=
  (if_pos hcut).trans (if_pos hbefore)

/-- A cut at the boundary that ends the point leaves the pre-emption to the point's end. -/
theorem goes_swePreemptCut_end (hcut : cutDue s e = true) (hon : pointOn s e = true)
    (hover : (s.engine e).ta + 125 * eDwell (entryAt s (s.slotRd SWE.REGION e (s.runSlot e)) (s.engine e).entry) ≤ s.clock) :
    goes (.swePreemptCut e) s (bringForward (endPoint s e) e) :=
  (if_pos hcut).trans ((if_neg (not_before_of_pointOn hon)).trans ((if_pos hon).trans (if_pos hover)))

/-- The point in hand is cut at an offset: its status is closed, and the slot keeps where it was cut (R152, R156). -/
def pointCut (s : State) (e k ofs : Nat) : State :=
  ((closeStatus s e true false false ofs).wr SWE.CUT_INDEX e k (s.engine e).entry).wr SWE.CUT_OFS e k ofs

/-- A cut within the point marks its slot as cut. -/
theorem goes_swePreemptCut_within {w : State} (hcut : cutDue s e = true) (hon : pointOn s e = true)
    (hwithin : s.clock < (s.engine e).ta + 125 * eDwell
      (entryAt s (s.slotRd SWE.REGION e (s.runSlot e)) (s.engine e).entry))
    (hk : k = s.runSlot e) (hw : w = pointCut s e k ((s.clock - (s.engine e).ta) / 125)) :
    goes (.swePreemptCut e) s (bringForward (preempt (w.setSlot e k { w.slot e k with cut := true }) e (s.engine e).entry) e) := by
  subst hk hw
  exact (if_pos hcut).trans ((if_neg (not_before_of_pointOn hon)).trans ((if_pos hon).trans (if_neg (Nat.not_le.2 hwithin))))

/-! SWEEP_MEMORY_SCRUB (R132, R475). -/

/-- Vane has begun a pass of the scrub of sweep memory. -/
def scrubbed (s : State) : State := { s with vane := { s.vane with scrubAt := s.vane.scrubAt.set 1 s.clock } }

/-- A VALID region with an uncorrectable entry among those found becomes INVALID (R132). -/
def spoilRegion (bad : List Nat) (s : State) (x : Nat × Option Region) : State :=
  match x.2 with
  | some r =>
    if (bad.any fun i => decide (r.base ≤ i) && decide (i < r.base + r.count)) && r.state == 1 then
      s.setRegion x.1 (some { r with state := 2 })
    else s
  | none => s

theorem foldl_spoilRegion_nil (l : List (Nat × Option Region)) (s : State) : l.foldl (spoilRegion []) s = s := by
  induction l with
  | nil => rfl
  | cons x l ih =>
    have hsame : spoilRegion [] s x = s := by unfold spoilRegion; split <;> rfl
    rw [List.foldl_cons, hsame, ih]

/-- Corrected errors alone are counted, and no region changes. -/
theorem goes_sweepMemoryScrub_fixed (s : State) (fixed : List Nat) :
    goes (.sweepMemoryScrub fixed []) s (fixed.foldl (fun s _ => corrected s 3 0) (scrubbed s)) :=
  congrArg (fun t => Host.Outcome.next (settle t)) (foldl_spoilRegion_nil _ _)

/-- One uncorrectable error at an index that had none. -/
def foundBad (s : State) (i : Nat) : State := uncorrected { scrubbed s with sweBad := s.sweBad ++ [i] } 3 0

theorem goes_sweepMemoryScrub_bad (hnew : i ∉ s.sweBad) :
    goes (.sweepMemoryScrub [] [i]) s ((foundBad s i).regions.foldl (spoilRegion [i]) (foundBad s i)) := by
  have hkeep : ¬s.sweBad.contains i = true := by simpa using hnew
  simp only [goes, exec, execSweepMemoryScrub, List.foldl_nil, List.foldl_cons, if_neg hkeep]
  rfl

/-- The cause of an uncorrectable error changes neither the errors found nor what Vane holds but its queue. -/
theorem still_foundBad : Still ({ scrubbed s with sweBad := s.sweBad ++ [i] }.bump VANE.ECC_UNCORR_COUNT) (foundBad s i) :=
  still_record _ _ _ _ (Still.rfl _)

theorem still_spoilRegions {o : State} (bad : List Nat) (l : List (Nat × Option Region)) (h : Still o s) :
    Still o (l.foldl (spoilRegion bad) s) :=
  Still_foldl (fun s x hs => by unfold spoilRegion; split; exacts [Still_if hs hs, hs]) l h

end

/-- Settles O23: each event acts where its condition is met. -/
theorem sweepEventRowsComplete : Obligations.SweepEventRowsComplete := by
  refine ⟨?_, ?_, ?_, ?_, ?_, ?_, ?_, ?_, ?_, ?_, ?_, ?_, ?_, ?_, ?_, ?_, ?_, ?_⟩
  · exact fun s e hstart hquiet => startTogether_pulse hstart hquiet ▸ goes_sweEvStart hstart
  · exact fun s e hstart habort => ⟨_, rfl, startTogether_abort hstart habort ▸ goes_sweEvStart hstart⟩
  · exact fun s e hnext hon hsince => ⟨_, rfl, goes_sweEvNext hnext hon hsince rfl⟩
  · exact fun s e hhold => if_pos hhold
  · exact fun s e habort => if_pos habort
  · intro s e a _ hdue hstand
    exact goes_sweWaitRelease_applies hdue (ite_eq_right_iff.2 fun hlow => hstand.resolve_left (by omega))
  · intro s e a d _ hdue hlow hdelay hmove
    have hd : pointDelay s e = d := (if_pos hlow).trans hdelay
    subst hd
    exact ⟨_, rfl, goes_sweWaitRelease_delays hdue hmove rfl⟩
  · exact fun s e k hslot harmed hset hdue hstart hquiet =>
      startTogether_quiet hstart hquiet ▸ goes_sweStartAt hslot harmed hset hdue
  · exact fun s e hwait hset hlate hnone => ⟨_, rfl, goes_sweWaitTimeout hwait hset hlate hnone⟩
  · exact fun s e hon hover => goes_pointEnd hon hover
  · exact fun s e hdelay hdue => if_pos ⟨hdelay, hdue⟩
  · exact fun s e hrun happlied hfirst hcut hkind hdue => goes_pulseEdgeStart hrun happlied hfirst hcut hkind hdue
  · exact fun s e x hrun hpulse hcut hx hdue => goes_pulseEdgeEnd hrun hpulse hcut hx hdue
  · exact fun s e hcut hbefore => goes_swePreemptCut_before hcut hbefore
  · exact fun s e hcut hon hover => goes_swePreemptCut_end hcut hon hover
  · exact fun s e hcut hon hwithin => ⟨_, _, _, rfl, rfl, rfl, goes_swePreemptCut_within hcut hon hwithin rfl rfl⟩
  · intro s i hnew
    have hkept := still_spoilRegions [i] (foundBad s i).regions (still_foundBad (s := s) (i := i))
    exact ⟨_, goes_sweepMemoryScrub_bad hnew, hkept.sweBad, congrArg Vane.scrubAt hkept.vane⟩
  · exact fun s fixed => goes_sweepMemoryScrub_fixed s fixed

end Sys2Proof.Machine
end

section
/-!
The frame of the sparing rows: COMMAND_DISPATCH is one of them, and where it dispatches an operation it drops what the life cycle holds of
an earlier one of the same packet (R519, `judgedNow`), so that it does not leave the life cycle as it was.
-/
namespace Sys2Proof.Machine
open Sys2Proof.Claims

/-- A NOP of the mailbox. -/
def mailboxNop : Pkt := ⟨.mbx, [1]⟩

/-- A state that differs from reset in that the supplies are up, a NOP of the mailbox waits for its dispatch, and the life cycle holds one
of the same packet that was dispatched in FIELD_OPEN and has not been checked. -/
def nopWaiting : State :=
  { State.reset with
    hl := { State.reset.hl with supplies := true }
    cmd := { State.reset.cmd with ops := [⟨mailboxNop, .waiting⟩] }
    lc := { State.reset.lc with before := [(mailboxNop, 1)] } }

/-- Where COMMAND_DISPATCH leads from there. -/
def nopDispatched : State :=
  judgedNow { nopWaiting with cmd := { nopWaiting.cmd with ops := [⟨mailboxNop, .running⟩] } } mailboxNop

theorem nextOp_nopWaiting : nextOp nopWaiting = some ⟨mailboxNop, .waiting⟩ := by decide

theorem exec_commandDispatch_nopWaiting : exec .commandDispatch nopWaiting = .next nopDispatched := by
  have hruns : ¬(stopped nopWaiting .cmd = true ∨ nopWaiting.tst.extest = true) := by decide
  have himm : ¬(immediateSq nopWaiting mailboxNop && !immediateOk (pOpcode mailboxNop)) = true := by decide
  have hlisted : ¬(!listedOpcode (pOpcode mailboxNop)) = true := by decide
  simp only [exec, execCommandDispatch, if_neg hruns, nextOp_nopWaiting, if_neg himm, if_neg hlisted]
  rfl

/-- Refutes O52: COMMAND_DISPATCH is a sparing row, and from `nopWaiting` it empties the life cycle's record of commands dispatched before a
transition, of which the statement asks that it stay. -/
theorem not_sparingRowsKeepTheRest : ¬ Obligations.SparingRowsKeepTheRest := by
  unfold Obligations.SparingRowsKeepTheRest
  intro h
  obtain ⟨-, -, -, hlc, -⟩ := h .commandDispatch nopWaiting nopDispatched rfl exec_commandDispatch_nopWaiting
  exact absurd (congrArg Lc.before hlc) (by decide)

end Sys2Proof.Machine
end

section
/-!
The high-voltage channels: what their rows do where their condition is met.
-/
namespace Sys2Proof.Machine
open Sys2Proof.Claims

section
variable {s : State} {ch t : Nat}

/-! Ramps (R167, R168). -/

/-- The one ramp of a channel ends once the clock has reached its end instant; the next 50 µs carry SETTLING. -/
theorem goes_hvRampEnd {r : Ramp} (hhv : 128 ≤ ch) (hramp : (s.ch ch).ramp = some r) (hother : (s.ch ch).rampN = none)
    (hdue : r.t1 ≤ s.clock) :
    goes (.hvRampEnd ch) s ((s.setCh ch { rampCycle s (s.ch ch) with
      ramp := none, rampN := none, flagEnd := max (s.ch ch).flagEnd (s.clock + 50000) }).put HVC.RAMP (ci ch) 0) := by
  simp only [goes, exec, execHvRampEnd, hramp, hother]
  exact if_pos ⟨hhv, .inl rfl, Bool.and_eq_true_iff.2 ⟨decide_eq_true hdue, rfl⟩⟩

/-! The boost converter and the hardware limit (R169, R170, R176). -/

/-- The boost converter stops once every HV channel has been OFF or TRIPPED for 1 s. -/
theorem goes_hvBoostStop (hquiet : ∀ c, c ∈ hvChans → (s.chState c = 0 ∨ s.chState c = 6) ∧ (s.ch c).motion ≠ .starting)
    (hsince : s.hv.quietAt = some t) (hdue : t + 1000000000 ≤ s.clock)
    (hon : s.rd HVC.BOOST_STATE = 1 ∨ s.rd HVC.BOOST_STATE = 2) : goes .hvBoostStop s (s.put HVC.BOOST_STATE 0 0) := by
  have hall : (hvChans.all fun c => quietSt (s.chState c) && (s.ch c).motion != .starting) = true := by
    simpa [quietSt] using hquiet
  simp only [goes, exec, execHvBoostStop, hsince]
  exact if_pos ⟨hall, decide_eq_true hdue, hon⟩

/-- A boost fault counts while the converter starts or runs, and in the cycle in which the interlock opens. -/
theorem goes_hvBoostFault {u v : State}
    (hcounts : s.rd HVC.BOOST_STATE = 1 ∨ s.rd HVC.BOOST_STATE = 2 ∨ (s.rd HVC.BOOST_STATE = 0 ∧ openedNow s = true))
    (hu : u = hvChans.foldl (fun s c => record s 4 (ci c) 0x04) s)
    (hv : v = { u.put HVC.BOOST_STATE 0 3 with hv := { u.hv with faultAt := some u.clock } }) :
    goes .hvBoostFault s (hvChans.foldl faultHv v) := by
  subst hu hv
  have hacts : decide (s.rd HVC.BOOST_STATE = 1 ∨ s.rd HVC.BOOST_STATE = 2) = true ∨
      (s.rd HVC.BOOST_STATE = 0 ∧ openedNow s = true) := by
    rw [decide_eq_true_eq, or_assoc]; exact hcounts
  exact if_pos hacts

/-- The analogue current limit is recorded on a connected HV channel. -/
theorem goes_hvHwIlimit (hhv : 128 ≤ ch) (hlast : ch < 132) (hconn : connected (s.chState ch) = true) :
    goes (.hvHwIlimit ch) s (record s 4 (ch - 128) 0x06) := by
  have hci : ci ch = ch - 128 := if_neg (Nat.not_lt.2 hhv)
  exact hci ▸ if_pos ⟨hhv, hlast, hconn⟩

/-! The interlock (R174, R175, R176, R177). -/

/-- The opening of a closed loop: its cause in all four windows, then steps 1 and 2 of R174 and the pulse. -/
theorem goes_interlockOpen {u v : State} (hclosed : s.rd HVC.INTLK_STATE = 1)
    (hu : u = hvChans.foldl (fun s c => record s 4 (ci c) 0x02) s)
    (hv : v = interlockActs ((stampOpen u).put HVC.INTLK_STATE 0 0)) :
    goes .interlockOpen s (v.publish (u.eff HVC.EV_INTLK)) := by
  subst hu hv
  have hopens : openInterlock s = openLoop (hvChans.foldl (fun s c => record s 4 (ci c) 0x02) s) := if_pos hclosed
  simp only [goes, exec, execInterlockOpen, if_pos hclosed, hopens, done, openLoop]

/-- An open loop closes once it has not opened for 50 ms; one that has never opened closes at once (log 190). -/
theorem goes_interlockClosed (hopen : s.rd HVC.INTLK_STATE = 0)
    (hlong : ∀ a, s.hv.openedAt = some a → a + 50000000 ≤ s.clock) : goes .interlockClosed s (s.put HVC.INTLK_STATE 0 1) := by
  cases hat : s.hv.openedAt with
  | none =>
    simp only [goes, exec, execInterlockClosed, hat]
    exact if_pos ⟨hopen, trivial⟩
  | some a =>
    simp only [goes, exec, execInterlockClosed, hat]
    exact if_pos ⟨hopen, decide_eq_true (hlong a hat)⟩

/-! Discharge (R169, R174, R177). -/

/-- A discharge that ends opens its path; DISCH_TIME takes its whole microseconds, `past` within the last loop cycle (log 187). -/
theorem goes_hvDischargeDone (past : Nat) (hhv : 128 ≤ ch) (hdisch : (s.ch ch).disch = some t) :
    goes (.hvDischargeDone ch past) s ((s.setCh ch { s.ch ch with disch := none, paths := {} }).put HVC.DISCH_TIME (ci ch)
      ((s.clock + past % 125 - t) / 1000 : Nat)) := by
  simp only [goes, exec, execHvDischargeDone, hdisch]
  exact if_pos hhv

/-- A discharge of an HV channel that still runs after 10 ms is recorded as slow. -/
theorem goes_dischargeSlow (hhv : 128 ≤ ch) (hdisch : (s.ch ch).disch = some t) (hdue : t + 10000000 ≤ s.clock) :
    goes (.dischargeSlow ch) s (record s 4 (ci ch) 0x03) := by
  simp only [goes, exec, execDischargeSlow, hdisch]
  exact if_pos ⟨hhv, hdue⟩

/-- The discharge period ends 10 ms after the output opened. -/
theorem goes_hvDischargePeriodEnd (hperiod : (s.ch ch).dischPeriod = some t) (hdue : t + 10000000 ≤ s.clock) :
    goes (.hvDischargePeriodEnd ch) s (s.setCh ch { s.ch ch with dischPeriod := none }) := by
  simp only [goes, exec, execHvDischargePeriodEnd, hperiod]
  exact if_pos hdue

end

/-- Settles O24: each row acts where its condition is met. -/
theorem hvRowsComplete : Obligations.HvRowsComplete := by
  refine ⟨?_, ?_, ?_, ?_, ?_, ?_, ?_, ?_, ?_, ?_, ?_, ?_⟩
  · exact fun s ch r hhv hramp hother hdue => goes_hvRampEnd hhv hramp hother hdue
  · exact fun s hstarting => if_pos hstarting
  · exact fun s a hquiet hsince hdue hon => goes_hvBoostStop hquiet hsince hdue hon
  · exact fun s hcounts => ⟨_, _, rfl, rfl, goes_hvBoostFault hcounts rfl rfl⟩
  · exact fun s ch hhv hlast hconn => goes_hvHwIlimit hhv hlast hconn
  · exact fun s hclosed => ⟨_, _, rfl, rfl, goes_interlockOpen hclosed rfl rfl⟩
  · exact fun s hopen => if_neg hopen
  · intro s a hopen hat hdue
    exact goes_interlockClosed hopen fun b hb => Option.some.inj (hat.symm.trans hb) ▸ hdue
  · intro s hopen hnever
    exact goes_interlockClosed hopen fun b hb => absurd (hnever.symm.trans hb) nofun
  · exact fun s ch t past hhv hdisch => goes_hvDischargeDone past hhv hdisch
  · exact fun s ch t hhv hdisch hdue => goes_dischargeSlow hhv hdisch hdue
  · exact fun s ch t hperiod hdue => goes_hvDischargePeriodEnd hperiod hdue

end Sys2Proof.Machine
end

section
/-!
The pins: what the rows of overloads, the PMU switch, the converters and the comparators do where their condition is met.
-/
namespace Sys2Proof.Machine
open Sys2Proof.Claims

section
variable {s : State} {n x k t : Nat} {c : Cmp} {above : Bool}

/-! Overloads (R183, R206). -/

/-- A driver that is on overloads. -/
theorem goes_drvOvl_driving (hlive : pinLive s n = true) (hdrive : (s.pin n).driving = true) :
    goes (.drvOvl n) s (record s 5 n 0x01) := if_pos ⟨hlive, hdrive⟩

/-- A driver that a reaction takes off in this very cycle counts all the same: the row records by either of its conditions. -/
theorem goes_drvOvl_faulted (hn : n < 256) (hfault : (s.pin n).faultAt = some s.clock) :
    goes (.drvOvl n) s (record s 5 n 0x01) := by
  by_cases hdrive : pinLive s n = true ∧ (s.pin n).driving = true
  · exact if_pos hdrive
  · exact (if_neg hdrive).trans (if_pos ⟨hn, hfault⟩)

/-! The converters (R190 to R194). -/

/-- A pulse that the request input has captured asks for a conversion. -/
theorem goes_adcEvRequest (hx : x < 4) (hcapt : (s.con (0x130 + x)).capt = some t) :
    goes (.adcEvRequest x) s
      (requestConv (s.setCon (0x130 + x) { s.con (0x130 + x) with capt := none }) x true) :=
  if_pos ⟨hx, Option.isSome_of_eq_some hcapt⟩

/-- The PMU of a converter's selected pin is connected. -/
def pmuOn (s : State) (x : Nat) : Bool :=
  s.pinState (selPin x (s.conv x).sel) == 3 && !(s.pin (selPin x (s.conv x).sel)).switching

/-- A converter that has sampled; `lim` says whether the selected pin's PMU is in its limit or clamp. -/
def sampledConv (s : State) (x : Nat) (lim : Bool) : Adc :=
  { s.conv x with
    st := 2, sampAt := s.clock, lim := lim && pmuOn s x && !bit (s.conv x).sel 7
    irange := s.rdN PIN.PMU_IRANGE (selPin x (s.conv x).sel)
    acqOk := decide (1000 * s.rdN PIN.ACQ_TIME (chipHome x) ≤ s.clock - (s.conv x).selAt)
    noPmu := bit (s.conv x).sel 6 && !bit (s.conv x).sel 7 && !pmuOn s x }

/-- A converter samples 20 µs after its request. -/
theorem goes_adcSample (lim : Bool) (hx : x < 4) (hst : (s.conv x).st = 1) (hdue : (s.conv x).reqAt + 20000 ≤ s.clock) :
    goes (.adcSample x lim) s (s.setConv x (sampledConv s x lim)) := if_pos ⟨hx, hst, hdue⟩

/-- ADC_RESULT and ADC_TIME take the result of a conversion whose value `v` saturates to `w`. -/
def resultStored (s : State) (x : Nat) (v w : Int) : State :=
  (s.put PIN.ADC_RESULT (chipHome x) (adcWord (s.conv x) (decide (v ≠ w)) w)).put PIN.ADC_TIME (chipHome x)
    (s.sysFine ((s.conv x).sampAt * 65536) / 65536 : Nat)

/-- A conversion that is not dead gives its result 2 µs after the sample: the value saturates, a value that clips counts, and
ADC_DONE_EV tells of it. -/
theorem goes_adcResult {v w : Int} {u : State} (code : Int) (hx : x < 4) (hst : (s.conv x).st = 2)
    (hdead : (s.conv x).dead = false) (hdue : (s.conv x).sampAt + 2000 ≤ s.clock) (hv : v = convValue s x (s.conv x) code)
    (hw : w = clampInt (-32767) 32767 v) (hu : u = if v ≠ w then clipped (resultStored s x v w) else resultStored s x v w) :
    goes (.adcResult x code) s ((convEnds u x).publish (u.rd PIN.ADC_DONE_EV (chipHome x))) := by
  subst hu hw hv
  have hacts : x < 4 ∧ (s.conv x).st = 2 ∧ (!(s.conv x).dead) = true ∧ (s.conv x).sampAt + 2000 ≤ s.clock :=
    ⟨hx, hst, by simp [hdead], hdue⟩
  exact if_pos hacts

/-- A converter that runs 30 µs after its request ends without a result; unless that failure was injected, its chip records it. -/
theorem goes_adcFault (hx : x < 4) (hrun : (s.conv x).st ≠ 0) (hdue : (s.conv x).reqAt + 30000 ≤ s.clock) :
    goes (.adcFault x) s (if (s.conv x).dead then convEnds s x else chipCause (convEnds s x) x 0x04) :=
  if_pos ⟨hx, hrun, hdue⟩

/-! The comparators (R195 to R201). -/

/-- Where a comparator is off and changes no mode, its input is not looked at; one that runs or changes looks. -/
theorem not_crossing_skips (hlist : cmpListed c = true) (hruns : effMode s c ≠ 3 ∨ (s.comp c).changing = true) :
    ¬((!cmpListed c) = true ∨ (effMode s c = 3 ∧ (!(s.comp c).changing) = true)) := by
  rintro (h | ⟨hoff, hsteady⟩)
  · simp [hlist] at h
  · rcases hruns with h | h
    · exact h hoff
    · simp [h] at hsteady

/-- While a comparator changes its mode, its input waits. -/
theorem goes_comparatorInputCrossing_changing (hlist : cmpListed c = true) (hchange : (s.comp c).changing = true) :
    goes (.comparatorInputCrossing c above) s (s.setComp c { s.comp c with waits := some above }) :=
  (if_neg (not_crossing_skips hlist (.inr hchange))).trans (if_pos hchange)

/-- What a crossing comes to: the window that `clampSees` finds acts on its clamp in `s`; where it finds none, `t` stands. -/
def crossed (s t : State) : Option (Nat × Nat) → State
  | some (ch, k) => windowOut s ch k
  | none => t

/-- The crossing of a comparator that runs acts on the clamp it serves, or else shows at its raw output. -/
theorem exec_comparatorInputCrossing_steady (hlist : cmpListed c = true) (hsteady : (s.comp c).changing = false)
    (hmode : effMode s c ≠ 3) : exec (.comparatorInputCrossing c above) s =
      done (crossed s (s.setComp c { s.comp c with raw := above, unresolved := false, resolve := none })
        (clampSees s c above)) := by
  have hnot : ¬(s.comp c).changing = true := by simp [hsteady]
  refine ((if_neg (not_crossing_skips hlist (.inl hmode))).trans (if_neg hnot)).trans ?_
  cases clampSees s c above <;> rfl

/-- A window comparator of a connected channel sees its quantity outside where its output is not what it reads inside. -/
theorem clampSees_outside {ch : Nat} (hon : connected (s.chState ch) = true) :
    clampSees s (.window ch k) (!insideRaw k) = some (ch, k) := by
  have hout : (connected (s.chState ch) && (!insideRaw k) != insideRaw k) = true := by cases insideRaw k <;> simp [hon]
  exact if_pos hout

/-- The end of a comparator's mode change comes first; then what its input did meanwhile acts on the clamp it serves. -/
theorem exec_comparatorModeChangeDone (hchange : (s.comp c).changing = true) :
    exec (.comparatorModeChangeDone c) s =
      done (crossed (s.setComp c (changeEnds (s.comp c))) (s.setComp c (changeEnds (s.comp c)))
        ((s.comp c).waits.bind (clampSees (s.setComp c (changeEnds (s.comp c))) c))) := if_pos hchange

end

/-- Settles O25: each row acts where its condition is met. -/
theorem pinRowsComplete : Obligations.PinRowsComplete := by
  refine ⟨?_, ?_, ?_, ?_, ?_, ?_, ?_, ?_, ?_, ?_, ?_, ?_, ?_, ?_, ?_⟩
  · exact fun s n hlive hdrive => goes_drvOvl_driving hlive hdrive
  · exact fun s n hn hfault => goes_drvOvl_faulted hn hfault
  · exact fun s n hn => if_pos hn
  · exact fun s n hswitch => ⟨_, rfl, if_pos hswitch⟩
  · exact fun s x t hx hcapt => goes_adcEvRequest hx hcapt
  · exact fun s x lim hx hst hdue => ⟨_, goes_adcSample lim hx hst hdue, rfl, rfl, rfl, rfl, rfl, rfl⟩
  · exact fun s x code hx hst hdead hdue => goes_adcResult code hx hst hdead hdue rfl rfl rfl
  · intro s x hx hrun hdead hdue
    simpa only [hdead, Bool.false_eq_true, if_false] using goes_adcFault hx hrun hdue
  · intro s x hx hrun hdead hdue
    simpa only [hdead, if_true] using goes_adcFault hx hrun hdue
  · exact fun s c above hlist hchange => goes_comparatorInputCrossing_changing hlist hchange
  · intro s c above hlist hsteady hmode hclamp
    rw [goes, exec_comparatorInputCrossing_steady hlist hsteady hmode, hclamp, done, crossed]
  · intro s ch k hch hk hon hsteady hmode
    have hlist : cmpListed (.window ch k) = true := by simp [cmpListed, hch, hk]
    rw [goes, exec_comparatorInputCrossing_steady hlist hsteady hmode, clampSees_outside hon, done, crossed]
  · exact fun s c edges hlist hsteady hmode => if_pos ⟨hlist, by simp [hsteady], hmode⟩
  · intro s c hchange hclamp
    rw [goes, exec_comparatorModeChangeDone hchange, hclamp, done, crossed, changeEnds]
  · intro s c ch k hchange hclamp
    rw [goes, exec_comparatorModeChangeDone hchange, hclamp, done, crossed]

end Sys2Proof.Machine
end

section
/-!
Loads of the vector area: what a command of a domain comes to, and where a load stores its vectors (R212, R213, R230, R254).
-/
namespace Sys2Proof.Machine
open Sys2Proof.Claims

section
variable {s : State} {p : Pkt} {d : Nat} {ws : List Nat}

/-! Commands of a domain, and the words that host memory gives them. -/

/-- A command of a domain whose island runs comes to what its definition says of that domain, where its operands lie in range. -/
theorem domCmd_named {bad : Nat → Bool} {body : Nat → Res} (hdom : targetDom p = some d) (hstop : stopped s (.seq d) = false)
    (hargs : bad d = false) : domCmd p s bad body = body d := by
  simp only [domCmd, hdom, hargs, hstop, Bool.false_eq_true, if_false]

/-- The words that host memory has given go to the command. -/
theorem withData_given {addr bytes : Nat} {body : List Nat → Res} (hgives : hostGives s p (.words ws) ws) :
    withData s p addr bytes (.words ws) body = body ws := by
  obtain ⟨-, x, hx, hleft⟩ := hgives
  exact withData_words hx hleft

/-! What a completion changes: nothing of the sequencers, and no cause comes to wait. -/

theorem logRec_eq (s : State) (r : Rec) : ∃ vane, s.logRec r = { s with vane := vane } := by
  unfold State.logRec
  split <;> exact ⟨_, rfl⟩

/-- A frame leaves by a port, is held in the mesh, or is lost, which may be logged. -/
theorem frameTo_eq (s : State) (node cls : Nat) (ws : List Nat) (note : Option (Nat × Nat × Bool)) (hops : Nat) :
    ∃ sent vane msh, s.frameTo node cls ws note hops = { s with sent := sent, vane := vane, msh := msh } := by
  simp only [State.frameTo]
  split_ifs with hroute hrepair
  · exact ⟨_, _, _, rfl⟩
  · exact ⟨_, _, _, rfl⟩
  · cases note with
    | none => exact ⟨_, _, _, rfl⟩
    | some n =>
      obtain ⟨vane, h⟩ := logRec_eq s { typ := 0x0A, time := s.now, blk := 0x0B, inst := 0, pay := [n.1, n.2.1, b2n n.2.2], sev := 0 }
      exact ⟨_, vane, _, h⟩

theorem complete_eq (s : State) (src : Src) (tag status : Nat) (res : List Nat) : ∃ sent cmd vane msh,
    s.complete src tag status res = { s with sent := sent, cmd := cmd, vane := vane, msh := msh } := by
  cases src with
  | mesh node fid =>
    unfold State.complete
    obtain ⟨sent, vane, msh, h⟩ := frameTo_eq _ _ _ _ _ _
    exact ⟨sent, _, vane, msh, h⟩
  | _ => exact ⟨_, _, _, _, rfl⟩

theorem sequencer_completed (s : State) (p : Pkt) (status : Nat) (res : List Nat) (e : Nat) :
    ((freeCore s p).complete p.src (pTag p) status res).sequencer e = s.sequencer e := by
  obtain ⟨sent, cmd, vane, msh, h⟩ := complete_eq (freeCore s p) p.src (pTag p) status res
  rw [h]
  rfl

/-- A command that completes where no cause waits answers the state of its completion. -/
theorem moves_of_replies {c : Instr} {t : State} {st : Nat} {res : List Nat} (h : replies c p s st res t) (hdue : t.due = []) :
    moves c s ((freeCore t p).complete p.src (pTag p) st res) := by
  have hquiet : ((freeCore t p).complete p.src (pTag p) st res).due = [] := by
    obtain ⟨sent, cmd, vane, msh, heq⟩ := complete_eq (freeCore t p) p.src (pTag p) st res
    rw [heq]
    exact hdue
  exact h.trans (congrArg _ (settle_none hquiet))

/-! SEQ_VEC_LOAD (R212, R213, R230). -/

theorem length_vectorsOf (n : Nat) (ws : List Nat) : (vectorsOf n ws).length = n := by
  induction n generalizing ws with
  | zero => rfl
  | succ n ih => rw [vectorsOf, List.length_cons, ih]

/-- A vector load stores the vectors it reads. -/
theorem replies_seqVecLoad (hacc : accepted (.seqVecLoad p (.words ws)) s) (hdom : targetDom p = some d)
    (hstop : stopped s (.seq d) = false) (halign : pw p 2 % 64 = 0) (hsome : pw p 5 ≠ 0)
    (hroom : pw p 4 + pw p 5 ≤ areaGrans) (hgives : hostGives s p (.words ws) ws) :
    replies (.seqVecLoad p (.words ws)) p s St.SUCCESS [] (storeVectors s d (pw p 4) (vectorsOf (64 * pw p 5) ws)) := by
  obtain ⟨hdisp, -, hgate, -⟩ := hacc
  have hargs : (pw p 2 % 64 != 0 || pw p 5 == 0 || decide (areaGrans < pw p 4 + pw p 5)) = false := by
    simp [halign, hsome, Nat.not_lt.2 hroom]
  exact replies_of_exec rfl hdisp hgate ((domCmd_named hdom hstop hargs).trans (withData_given hgives))

/-- The vector area of the domain holds the vectors from the granule on; every other vector of either domain is as it was. -/
theorem get_vecs_storeVectors (s : State) (d gran : Nat) (vs : List VecWord) (e i : Nat) :
    Bank.get (fun _ => ⟨0, 0⟩) ((storeVectors s d gran vs).sequencer e).vecs i =
      if e = d ∧ 64 * gran ≤ i ∧ i < 64 * gran + vs.length then vs.getD (i - 64 * gran) ⟨0, 0⟩
      else Bank.get (fun _ => ⟨0, 0⟩) (s.sequencer e).vecs i := by
  rw [storeVectors, State.sequencer_setSequencer]
  by_cases hdom : e = d
  · subst hdom
    rw [if_pos rfl, Bank.get_setAll]
    exact if_congr (by simp) rfl rfl
  · rw [if_neg hdom, if_neg fun h => hdom h.1]

end

/-- Settles O58: the load stores its vectors in its own domain's area (`get_vecs_storeVectors`), and its completion leaves the
sequencers (`sequencer_completed`). -/
theorem vectorLoadStoresItsVectorsOnly : Obligations.VectorLoadStoresItsVectorsOnly := by
  intro s p d ws hdue hacc hdom hstop halign hsome hroom hgives
  refine ⟨_, moves_of_replies (replies_seqVecLoad hacc hdom hstop halign hsome hroom hgives) hdue, fun e i => ?_⟩
  rw [sequencer_completed, get_vecs_storeVectors, length_vectorsOf, Nat.mul_add]

end Sys2Proof.Machine
end

section
/-!
The tables and the stores of a domain: segments, maps, park sets, the pin area, timing sets, capture records (R212 to R231, R249).
-/
namespace Sys2Proof.Machine
open Sys2Proof.Claims

section
variable {s : State} {p : Pkt} {d : Nat} {ws ks : List Nat} {wr : Option HostFault}

/-! Segments, maps and park sets (R216, R218, R227 to R229). -/

/-- Between passes of a run, and while one is in progress, the entries as they stood govern the next pass (R229). -/
theorem segWrite_playing (st : Nat) (newRun : Bool) : ((decide (3 ≤ st) && decide (st ≤ 5)) || (st == 1 && !newRun)) =
    decide (st ∈ [3, 4, 5] ∨ (st = 1 ∧ newRun = false)) := by
  have hplay : 3 ≤ st ∧ st ≤ 5 ↔ st = 3 ∨ st = 4 ∨ st = 5 := by omega
  rw [Bool.eq_iff_iff]
  simp [hplay]

/-- SEQ_SEG_WRITE writes entries that R228 accepts, unless one is pinned or takes a pinned one's place in a domain not IDLE. -/
theorem replies_seqSegWrite (hacc : accepted (.seqSegWrite p (.words ws)) s) (hdom : targetDom p = some d)
    (hstop : stopped s (.seq d) = false) (halign : pw p 2 % 64 = 0) (hsome : pw p 5 ≠ 0) (hroom : pw p 4 + pw p 5 ≤ 16384)
    (hgives : hostGives s p (.words ws) ws) (hgood : ∀ e, e ∈ segsOf (pw p 5) ws → segOk e = true)
    (hpins : s.seqState d = 0 ∨ ∀ e, e ∈ (segsOf (pw p 5) ws).zipIdx (pw p 4) →
      segPinned e.1 = false ∧ segPinned ((s.sequencer d).seg e.2) = false) :
    replies (.seqSegWrite p (.words ws)) p s St.SUCCESS [] (s.setSequencer d (((segsOf (pw p 5) ws).zipIdx (pw p 4)).foldl
      (writeSeg (decide (s.seqState d ∈ [3, 4, 5] ∨ (s.seqState d = 1 ∧ (s.sequencer d).newRun = false)))) (s.sequencer d))) := by
  obtain ⟨hdisp, -, hgate, -⟩ := hacc
  have hargs : (pw p 2 % 64 != 0 || pw p 5 == 0) = false := by simp [halign, hsome]
  have hbad : ¬((segsOf (pw p 5) ws).any fun e => !segOk e) = true := by
    simpa using hgood
  have hpinned : ¬(s.seqState d ≠ 0 ∧
      (((segsOf (pw p 5) ws).zipIdx (pw p 4)).any fun e => segPinned e.1 || segPinned ((s.sequencer d).seg e.2)) = true) := by
    rintro ⟨hbusy, hany⟩
    obtain ⟨e, he, hpin⟩ := List.any_eq_true.1 hany
    obtain ⟨hnew, hold⟩ := hpins.resolve_left hbusy e he
    simp [hnew, hold] at hpin
  refine replies_of_exec rfl hdisp hgate ((domCmd_named hdom hstop hargs).trans ?_)
  rw [if_neg (Nat.not_lt.2 hroom), withData_given hgives, if_neg hbad, if_neg hpinned, segWrite_playing]
  rfl

theorem replies_seqMapWrite (hacc : accepted (.seqMapWrite p) s) (hdom : targetDom p = some d)
    (hstop : stopped s (.seq d) = false) (hnum : pw p 2 < 256) :
    replies (.seqMapWrite p) p s St.SUCCESS [] (s.setSequencer d { s.sequencer d with
      maps := Bank.set (fun _ => 0) (s.sequencer d).maps (pw p 2) (pw64 p 3 + 2 ^ 64 * pw64 p 5) }) := by
  obtain ⟨hdisp, -, hgate, -⟩ := hacc
  exact replies_of_exec rfl hdisp hgate (domCmd_named hdom hstop (decide_eq_false (Nat.not_le.2 hnum)))

theorem replies_seqParkWrite (hacc : accepted (.seqParkWrite p) s) (hdom : targetDom p = some d)
    (hstop : stopped s (.seq d) = false) (hnum : pw p 2 < 16) :
    replies (.seqParkWrite p) p s St.SUCCESS [] (s.setSequencer d { s.sequencer d with
      parks := Bank.set (fun _ => parkReset) (s.sequencer d).parks (pw p 2)
        ((List.range 8).foldl (fun a i => a + pw p (3 + i) * 2 ^ (32 * i)) 0) }) := by
  obtain ⟨hdisp, -, hgate, -⟩ := hacc
  exact replies_of_exec rfl hdisp hgate (domCmd_named hdom hstop (decide_eq_false (Nat.not_le.2 hnum)))

/-! The pin area (R231). -/

/-- SEQ_PIN_LOAD loads an IDLE domain's pinned segments where they fit and every granule of theirs is good. -/
theorem replies_seqPinLoad (hacc : accepted (.seqPinLoad p) s) (hdom : targetDom p = some d)
    (hstop : stopped s (.seq d) = false) (hidle : s.seqState d = 0)
    (hroom : (pinPlan (s.sequencer d)).foldl (fun n x => n + x.len) 0 ≤ s.rdN SEQ.PIN_SIZE d)
    (hgood : ∀ x g, x ∈ pinPlan (s.sequencer d) → g ∈ segGrans x.len ((s.sequencer d).seg x.seg) → g ∉ (s.sequencer d).badGrans) :
    replies (.seqPinLoad p) p s St.SUCCESS [] (s.setSequencer d { s.sequencer d with
      pinSegs := pinPlan (s.sequencer d), pinVecs := (pinPlan (s.sequencer d)).flatMap (pinCopy (s.sequencer d)), pinBad := []
      pinSize := s.rdN SEQ.PIN_SIZE d }) := by
  obtain ⟨hdisp, -, hgate, -⟩ := hacc
  have hbad : ¬((pinPlan (s.sequencer d)).any fun x =>
      (segGrans x.len ((s.sequencer d).seg x.seg)).any (s.sequencer d).badGrans.contains) = true := by
    simpa using fun x hx g hg => hgood x g hx hg
  refine replies_of_exec rfl hdisp hgate ((domCmd_named hdom hstop rfl).trans ?_)
  rw [if_neg (not_not.2 hidle), if_neg (Nat.not_lt.2 hroom), if_neg hbad]
  rfl

/-! Timing sets (R212, R219 to R226). -/

/-- A command that takes a pointer block only and passes the common checks has one (R321). -/
theorem pPtr_of_gate {code : Nat} {f : Form} (hgate : gate s p code f = none) (hneed : f.needPtr = true) : pPtr p = true := by
  by_contra hptr
  have hbad : badPointer p f = true := (if_neg hptr).trans hneed
  unfold gate at hgate
  split_ifs at hgate

/-- TS_WRITE places an image that passes its checks in the shadow copy of its set. -/
theorem replies_tsWrite (hacc : accepted (.tsWrite p (.words ws)) s) (hdom : targetDom p = some d)
    (hstop : stopped s (.seq d) = false) (hset : pw p 5 < 32) (halign : pw p 2 % 64 = 0)
    (hgives : hostGives s p (.words ws) ws) (hhead : headerOk (pad 1040 ws) = true) (hpins : firstBadPin (pad 1040 ws) = none) :
    replies (.tsWrite p (.words ws)) p s St.SUCCESS [0xFFFFFFFF] (s.setSequencer d { s.sequencer d with
      shadow := Bank.set (fun _ => Ts.init) (s.sequencer d).shadow (pw p 5) (imageTs (pad 1040 ws)) }) := by
  obtain ⟨hdisp, -, hgate, hres⟩ := hacc
  obtain ⟨-, x, hx, hleft⟩ := hgives
  have hargs : (decide (32 ≤ pw p 5) || pw p 2 % 64 != 0) = false := by simp [halign, hset]
  refine replies_of_exec rfl hdisp hgate
    ((withBlock_words (pPtr_of_gate hgate rfl) hx hleft hres).trans ((domCmd_named hdom hstop hargs).trans ?_))
  simp only [hhead, hpins, Bool.not_true, Bool.false_eq_true, if_false]
  rfl

/-- None of the sets to be committed is one that R212 refuses. -/
theorem not_any_tooFast (hslow : ∀ e, e ∈ (s.sequencer d).shadows ks → tooFast d (s.rdN SEQ.HS_DIV 1) e.2 = false) :
    ¬(((s.sequencer d).shadows ks).any fun e => tooFast d (s.rdN SEQ.HS_DIV 1) e.2) = true := by
  simpa using hslow

/-- TS_COMMIT in IDLE, HELD or PARKED applies at once. -/
theorem replies_tsCommit_atRest (hacc : accepted (.tsCommit p) s) (hdom : targetDom p = some d)
    (hstop : stopped s (.seq d) = false) (hrest : s.seqState d ∈ [0, 5, 6]) (hks : ks = maskBits 32 (pw p 2))
    (hslow : ∀ e, e ∈ (s.sequencer d).shadows ks → tooFast d (s.rdN SEQ.HS_DIV 1) e.2 = false) :
    replies (.tsCommit p) p s St.SUCCESS [] (applyTs s d ((s.sequencer d).shadows ks)) := by
  obtain ⟨hdisp, -, hgate, -⟩ := hacc
  subst hks
  have hnow : s.seqState d = 0 ∨ s.seqState d = 5 ∨ s.seqState d = 6 := by simpa using hrest
  exact replies_of_exec rfl hdisp hgate
    ((domCmd_named hdom hstop rfl).trans ((if_neg (not_any_tooFast hslow)).trans (if_pos hnow)))

/-- TS_COMMIT in any other state waits for the first vector start at least 100 ns on. -/
theorem replies_tsCommit_waits (hacc : accepted (.tsCommit p) s) (hdom : targetDom p = some d)
    (hstop : stopped s (.seq d) = false) (hrun : s.seqState d ∉ [0, 5, 6]) (hks : ks = maskBits 32 (pw p 2))
    (hslow : ∀ e, e ∈ (s.sequencer d).shadows ks → tooFast d (s.rdN SEQ.HS_DIV 1) e.2 = false) :
    replies (.tsCommit p) p s St.SUCCESS []
      (s.setSequencer d { s.sequencer d with commits := (s.sequencer d).commits ++ [(s.clockFine + 100 * 65536, ks)] }) := by
  obtain ⟨hdisp, -, hgate, -⟩ := hacc
  subst hks
  have hlater : ¬(s.seqState d = 0 ∨ s.seqState d = 5 ∨ s.seqState d = 6) := by simpa using hrun
  exact replies_of_exec rfl hdisp hgate
    ((domCmd_named hdom hstop rfl).trans ((if_neg (not_any_tooFast hslow)).trans (if_neg hlater)))

/-- The commits that wait in a domain that has stopped all apply. -/
theorem goes_tsCommitBoundary_stopped (hd : d < 2) (hrest : s.seqState d ∈ [0, 5, 6]) :
    goes (.tsCommitBoundary d) s (stopCommits s d) := by
  have hnow : s.seqState d = 0 ∨ s.seqState d = 5 ∨ s.seqState d = 6 := by simpa using hrest
  exact (if_neg (Nat.not_le.2 hd)).trans (if_pos hnow)

/-- In a domain that plays, those apply whose boundary the next vector start is. -/
theorem goes_tsCommitBoundary_plays (hd : d < 2) (hplay : s.seqState d = 3 ∨ s.seqState d = 4)
    (hperiod : (s.sequencer d).period ≠ 0) :
    goes (.tsCommitBoundary d) s
      (applyCommits s d ((s.sequencer d).t0 + stepsFine s ((s.sequencer d).steps + (s.sequencer d).period))) := by
  have hrest : ¬(s.seqState d = 0 ∨ s.seqState d = 5 ∨ s.seqState d = 6) := by omega
  exact (if_neg (Nat.not_le.2 hd)).trans ((if_neg hrest).trans (if_pos ⟨hplay, hperiod⟩))

/-! What is written to host memory (R225, R249, R396). -/

/-- A command whose transfer writes waits for no unit of a read where it did not before. -/
theorem stillReads_writing {addr : Nat} {fin : XferEnd} (hread : stillReads s p = false) :
    stillReads (writing s p addr ws fin) p = false := by
  unfold stillReads pktXfer at hread ⊢
  simp only [writing, startXfer, List.find?_append]
  cases hx : s.xlt.xfers.find? fun x => x.who == .cmd p.src (pTag p) with
  | none => simp
  | some x => simpa [hx] using hread

/-- TS_READ writes the image of a set's active copy, or of its shadow. -/
theorem waits_tsRead (hacc : accepted (.tsRead p wr) s) (hdom : targetDom p = some d) (hstop : stopped s (.seq d) = false)
    (hset : pw p 2 < 32) (hcopy : pw p 3 ≤ 1) (halign : pw p 4 % 64 = 0) :
    waits (.tsRead p wr) p s (writing s p (pw64 p 4) (tsWords (Bank.get (fun _ => Ts.init)
      (if pw p 3 = 0 then (s.sequencer d).active else (s.sequencer d).shadow) (pw p 2))) (.plain [])) := by
  obtain ⟨hdisp, hread, hgate, -⟩ := hacc
  have hargs : (decide (32 ≤ pw p 2) || decide (1 < pw p 3) || pw p 4 % 64 != 0) = false := by
    simp [halign, hset, hcopy]
  exact waits_of_exec rfl hdisp hgate (domCmd_named hdom hstop hargs) (stillReads_writing hread)

/-- SEQ_CAP_READ writes capture records, each padded to 16 words, where none lies in uncorrectable storage. -/
theorem waits_seqCapRead (hacc : accepted (.seqCapRead p wr) s) (hdom : targetDom p = some d)
    (hstop : stopped s (.seq d) = false) (halign : pw p 2 % 64 = 0) (hsome : pw p 5 ≠ 0) (hroom : pw p 4 + pw p 5 ≤ capRecords)
    (hgood : ∀ i, i < pw p 5 → pw p 4 + i ∉ (s.sequencer d).badCaps) :
    waits (.seqCapRead p wr) p s (writing s p (pw64 p 2)
      ((Bank.slice (fun _ => []) (s.sequencer d).cap (pw p 4) (pw p 5)).flatMap (pad 16)) (.plain [])) := by
  obtain ⟨hdisp, hread, hgate, -⟩ := hacc
  have hargs : (pw p 2 % 64 != 0 || pw p 5 == 0 || decide (capRecords < pw p 4 + pw p 5)) = false := by
    simp [halign, hsome, Nat.not_lt.2 hroom]
  have hbad : ¬((List.range (pw p 5)).any fun i => (s.sequencer d).badCaps.contains (pw p 4 + i)) = true := by
    simpa using hgood
  exact waits_of_exec rfl hdisp hgate ((domCmd_named hdom hstop hargs).trans (if_neg hbad)) (stillReads_writing hread)

/-! SEQ_CLEAR_FAILS (R250). -/

theorem sequencer_foldl_wr {q : Prm} (l : List Nat) (s : State) (e : Nat) :
    (l.foldl (fun s i => s.wr q d i 0) s).sequencer e = s.sequencer e := by
  induction l generalizing s with
  | nil => rfl
  | cons i l ih => exact ih _

/-- FAIL_COUNT and CAP_LOST are 0, and capture goes on from the start of its area. -/
def captureRestarted (s : State) (d : Nat) : State :=
  let t := (s.put SEQ.FAIL_COUNT d 0).put SEQ.CAP_LOST d 0
  t.setSequencer d { t.sequencer d with capPos := 0 }

theorem sequencer_captureRestarted (s : State) (d : Nat) :
    (captureRestarted s d).sequencer d = { s.sequencer d with capPos := 0 } :=
  (State.sequencer_setSequencer _ _ _ _).trans (if_pos rfl)

theorem failCount_captureRestarted (s : State) (d : Nat) : (captureRestarted s d).rd SEQ.FAIL_COUNT d = 0 :=
  (State.rd_put_ne _ _ _ _ (by decide)).trans (State.rd_put_same _ _ _ _)

theorem capLost_captureRestarted (s : State) (d : Nat) : (captureRestarted s d).rd SEQ.CAP_LOST d = 0 :=
  State.rd_put_same _ _ _ _

/-- Capture starts again with the fail counts of the domain's pins at 0. -/
def failsCleared (s : State) (d : Nat) : State :=
  captureRestarted ((List.range 128).foldl (fun s i => s.wr SEQ.PIN_FAILS d i 0) s) d

theorem replies_seqClearFails (hacc : accepted (.seqClearFails p) s) (hdom : targetDom p = some d)
    (hstop : stopped s (.seq d) = false) : replies (.seqClearFails p) p s St.SUCCESS [] (failsCleared s d) := by
  obtain ⟨hdisp, -, hgate, -⟩ := hacc
  exact replies_of_exec rfl hdisp hgate (domCmd_named hdom hstop rfl)

theorem sequencer_failsCleared (s : State) (d : Nat) :
    (failsCleared s d).sequencer d = { s.sequencer d with capPos := 0 } := by
  rw [failsCleared, sequencer_captureRestarted, sequencer_foldl_wr]

end

/-- Settles O26: the checks of each command pass under the premises, and each store takes what the command brings. -/
theorem sequencerTableRowsComplete : Obligations.SequencerTableRowsComplete := by
  refine ⟨?_, ?_, ?_, ?_, ?_, ?_, ?_, ?_, ?_, ?_, ?_, ?_, ?_⟩
  · exact fun s p d ws hacc hdom hstop halign hsome hroom hgives => replies_seqVecLoad hacc hdom hstop halign hsome hroom hgives
  · exact fun s p d ws hacc hdom hstop halign hsome hroom hgives hgood hpins =>
      replies_seqSegWrite hacc hdom hstop halign hsome hroom hgives hgood hpins
  · exact fun s p d hacc hdom hstop hnum => replies_seqMapWrite hacc hdom hstop hnum
  · exact fun s p d hacc hdom hstop hnum => replies_seqParkWrite hacc hdom hstop hnum
  · exact fun s p d hacc hdom hstop hidle hroom hgood => replies_seqPinLoad hacc hdom hstop hidle hroom hgood
  · exact fun s p d ws hacc hdom hstop hset halign hgives hhead hpins =>
      replies_tsWrite hacc hdom hstop hset halign hgives hhead hpins
  · exact fun s p d ks hacc hdom hstop hrest hks hslow => replies_tsCommit_atRest hacc hdom hstop hrest hks hslow
  · exact fun s p d ks hacc hdom hstop hrun hks hslow => replies_tsCommit_waits hacc hdom hstop hrun hks hslow
  · exact fun s d hd hrest => goes_tsCommitBoundary_stopped hd hrest
  · intro s d t hd hplay hperiod ht
    subst ht
    exact goes_tsCommitBoundary_plays hd hplay hperiod
  · exact fun s p d wr hacc hdom hstop hset hcopy halign => waits_tsRead hacc hdom hstop hset hcopy halign
  · exact fun s p d wr hacc hdom hstop halign hsome hroom hgood => waits_seqCapRead hacc hdom hstop halign hsome hroom hgood
  · exact fun s p d hacc hdom hstop => ⟨failsCleared s d, replies_seqClearFails hacc hdom hstop,
      sequencer_failsCleared s d, failCount_captureRestarted _ d, capLost_captureRestarted _ d⟩

end Sys2Proof.Machine
end

section
/-!
The commands that run a domain: its slots, and what is asked of it (R224 to R245).
-/
namespace Sys2Proof.Machine
open Sys2Proof.Claims

section
variable {s u : State} {p : Pkt} {d k : Nat}

/-! Slots (R240, R243, R245, R254, R271). -/

/-- SEQ_LOAD places a program in the lowest EMPTY slot. -/
theorem replies_seqLoad (hacc : accepted (.seqLoad p) s) (hdom : targetDom p = some d) (hstop : stopped s (.seq d) = false)
    (hseg : pw p 2 < 16384) (hslot : (List.range 4).find? (fun k => s.seqSlotState d k == 0) = some k) :
    replies (.seqLoad p) p s St.SUCCESS [k]
      ((((s.wr SEQ.START_SEG d k (pw p 2)).wr SEQ.PRIORITY d k (fld (pw p 3) 0 2)).wr SEQ.START_AT d k 0).setSeqSlot d k 1) := by
  obtain ⟨hdisp, -, hgate, -⟩ := hacc
  refine replies_of_exec rfl hdisp hgate ((domCmd_named hdom hstop (decide_eq_false (Nat.not_le.2 hseg))).trans ?_)
  rw [hslot]
  rfl

/-- A command for a slot in a domain whose timebase is not locked is refused. -/
theorem seqSlotCmd_unlocked {body : Nat → Nat → Res} (hdom : targetDom p = some d) (hslot : pw p 2 < 4)
    (hstop : stopped s (.seq d) = false) (htb : s.rd TB.STATE ≠ 2) : seqSlotCmd p s body = refuse s St.TIMEBASE :=
  (domCmd_named hdom hstop (decide_eq_false (Nat.not_le.2 hslot))).trans (if_pos htb)

/-- A command for a slot that is ready comes to what its definition says of that slot. -/
theorem seqSlotCmd_ready {body : Nat → Nat → Res} (hready : seqSlotReady s p d k) : seqSlotCmd p s body = body d k := by
  obtain ⟨hdom, hstop, rfl, hslot, hshed, hpins, hloaded, hlock⟩ := hready
  have hbusy : ¬(shedding s = true ∨ pinRun s d = true ∨ s.seqSlotState d (pw p 2) ≠ 1) := by simp [hshed, hpins, hloaded]
  exact (domCmd_named hdom hstop (decide_eq_false (Nat.not_le.2 hslot))).trans
    ((if_neg (not_not.2 hlock)).trans (if_neg hbusy))

theorem replies_seqStart_unlocked (hacc : accepted (.seqStart p) s) (hdom : targetDom p = some d) (hslot : pw p 2 < 4)
    (hstop : stopped s (.seq d) = false) (htb : s.rd TB.STATE ≠ 2) : replies (.seqStart p) p s St.TIMEBASE [] s := by
  obtain ⟨hdisp, -, hgate, -⟩ := hacc
  exact replies_of_exec rfl hdisp hgate (seqSlotCmd_unlocked hdom hslot hstop htb)

/-- SEQ_START has a domain at rest prime for the slot; in any other the slot is READY. -/
theorem replies_seqStart (hacc : accepted (.seqStart p) s) (hready : seqSlotReady s p d k) :
    replies (.seqStart p) p s St.SUCCESS [] (if seqAtRest s d then seqBegin s d k else seqReady s d k s.clockFine) := by
  obtain ⟨hdisp, -, hgate, -⟩ := hacc
  exact replies_of_exec rfl hdisp hgate (seqSlotCmd_ready hready)

/-- SEQ_ARM gives the slot its START_AT and makes it ARMED; a domain at rest primes. -/
theorem replies_seqArm (hacc : accepted (.seqArm p) s) (hready : seqSlotReady s p d k)
    (hu : u = (s.wr SEQ.START_AT d k (pw64 p 3)).setSeqSlot d k 2) :
    replies (.seqArm p) p s St.SUCCESS [] (if seqAtRest u d then prime u d false (u.rdN SEQ.START_SEG d k) else u) := by
  subst hu
  obtain ⟨hdisp, -, hgate, -⟩ := hacc
  exact replies_of_exec rfl hdisp hgate (seqSlotCmd_ready hready)

/-- SEQ_RELEASE empties a slot that is LOADED or FINISHED. -/
theorem replies_seqRelease (hacc : accepted (.seqRelease p) s) (hdom : targetDom p = some d)
    (hstop : stopped s (.seq d) = false) (hslot : pw p 2 < 4)
    (hstate : s.seqSlotState d (pw p 2) = 1 ∨ s.seqSlotState d (pw p 2) = 7) :
    replies (.seqRelease p) p s St.SUCCESS [] (s.setSeqSlot d (pw p 2) 0) := by
  obtain ⟨hdisp, -, hgate, -⟩ := hacc
  exact replies_of_exec rfl hdisp hgate
    ((domCmd_named hdom hstop (decide_eq_false (Nat.not_le.2 hslot))).trans (if_pos hstate))

/-! What is asked of a domain (R237, R240, R245, R251). -/

theorem replies_seqStop (hacc : accepted (.seqStop p) s) (hdom : targetDom p = some d) (hstop : stopped s (.seq d) = false)
    (hplay : seqPlays s d = true) :
    replies (.seqStop p) p s St.SUCCESS [] (askSeq s d { kind := .stop, at_ := s.clockFine }) := by
  obtain ⟨hdisp, -, hgate, -⟩ := hacc
  exact replies_of_exec rfl hdisp hgate ((domCmd_named hdom hstop rfl).trans (if_pos hplay))

theorem replies_seqJump (hacc : accepted (.seqJump p) s) (hdom : targetDom p = some d) (hstop : stopped s (.seq d) = false)
    (hplay : seqPlays s d = true) :
    replies (.seqJump p) p s St.SUCCESS [] (askSeq s d { kind := .jump, at_ := s.clockFine, jcond := 3 }) := by
  obtain ⟨hdisp, -, hgate, -⟩ := hacc
  exact replies_of_exec rfl hdisp hgate ((domCmd_named hdom hstop rfl).trans (if_pos hplay))

/-- SEQ_RESUME ends the holds of a HELD domain by a reaction and by coast; one by a source stays. -/
theorem replies_seqResume (hacc : accepted (.seqResume p) s) (hdom : targetDom p = some d)
    (hstop : stopped s (.seq d) = false) (hshed : shedding s = false) (hheld : s.seqState d = 5) (hlock : s.rd TB.STATE = 2) :
    replies (.seqResume p) p s St.SUCCESS [] (releaseSeq (releaseSeq s d .reaction) d .coast) := by
  obtain ⟨hdisp, -, hgate, -⟩ := hacc
  have hready : ¬(shedding s = true ∨ s.seqState d ≠ 5) := by simp [hshed, hheld]
  exact replies_of_exec rfl hdisp hgate
    ((domCmd_named hdom hstop rfl).trans ((if_neg (not_not.2 hlock)).trans (if_neg hready)))

theorem replies_seqAbort (hacc : accepted (.seqAbort p) s) (hdom : targetDom p = some d)
    (hstop : stopped s (.seq d) = false) : replies (.seqAbort p) p s St.SUCCESS [] (parkIfBusy 4 s d) := by
  obtain ⟨hdisp, -, hgate, -⟩ := hacc
  exact replies_of_exec rfl hdisp hgate (domCmd_named hdom hstop rfl)

/-- SEQ_IDLE takes a domain that is ARMED, HELD or PARKED to IDLE. -/
theorem replies_seqIdle (hacc : accepted (.seqIdle p) s) (hdom : targetDom p = some d) (hstop : stopped s (.seq d) = false)
    (hstate : s.seqState d ∈ [2, 5, 6]) : replies (.seqIdle p) p s St.SUCCESS [] (seqToIdle s d) := by
  obtain ⟨hdisp, -, hgate, -⟩ := hacc
  have hmay : s.seqState d = 6 ∨ s.seqState d = 5 ∨ s.seqState d = 2 := by
    simp only [List.mem_cons, List.not_mem_nil, or_false] at hstate
    omega
  exact replies_of_exec rfl hdisp hgate ((domCmd_named hdom hstop rfl).trans (if_pos hmay))

end

/-- Settles O27: the checks of each command pass under the premises. -/
theorem sequencerCommandsComplete : Obligations.SequencerCommandsComplete := by
  refine ⟨?_, ?_, ?_, ?_, ?_, ?_, ?_, ?_, ?_, ?_, ?_⟩
  · exact fun s p d k hacc hdom hstop hseg hslot => replies_seqLoad hacc hdom hstop hseg hslot
  · exact fun s p d hacc hdom hslot hstop htb => replies_seqStart_unlocked hacc hdom hslot hstop htb
  · intro s p d k hacc hready hrest
    have h := replies_seqStart hacc hready
    rwa [if_pos hrest] at h
  · intro s p d k hacc hready hbusy
    have h := replies_seqStart hacc hready
    rwa [hbusy, if_neg Bool.false_ne_true] at h
  · exact fun s p d k hacc hready => ⟨_, rfl, replies_seqArm hacc hready rfl⟩
  · exact fun s p d hacc hdom hstop hplay => replies_seqStop hacc hdom hstop hplay
  · exact fun s p d hacc hdom hstop hplay => replies_seqJump hacc hdom hstop hplay
  · exact fun s p d hacc hdom hstop hshed hheld hlock => replies_seqResume hacc hdom hstop hshed hheld hlock
  · exact fun s p d hacc hdom hstop => replies_seqAbort hacc hdom hstop
  · exact fun s p d hacc hdom hstop hstate => replies_seqIdle hacc hdom hstop hstate
  · exact fun s p d hacc hdom hstop hslot hstate => replies_seqRelease hacc hdom hstop hslot hstate

end Sys2Proof.Machine
end

section
/-!
The events of a domain: priming, a vector, a refill, pulses on its consumers, a start time (R225 to R245).
-/
namespace Sys2Proof.Machine
open Sys2Proof.Claims

section
variable {s u v : State} {d k n g at_ time : Nat} {edge window : List PinSeen}

/-! PRIMING_COMPLETE (R240, R241). -/

/-- A domain whose priming completes at a SYSTIME runs its program where one has started, its first vector's time fixed 128 master
periods on; else it is ARMED. -/
def primingEnded (s : State) (d at_ : Nat) : State :=
  let q := s.sequencer d
  let t := min (max at_ (65536 * s.now)) (65536 * (s.now + 125))
  let s := s.setSequencer d { q with
    period := 0, startAt := if q.autoRun then some (s.clockOf (edgesAfter s t 128)) else none }
  if q.autoRun then sourceNow (s.put SEQ.STATE d 3) d else s.put SEQ.STATE d 2

theorem goes_primingComplete (hst : s.seqState d = 1) (hprimed : primed s d = true) :
    goes (.primingComplete ⟨d, at_⟩) s (primingEnded (galeDone s d) d at_) := if_pos ⟨hst, hprimed⟩

theorem primingEnded_runs (hauto : (u.sequencer d).autoRun = true)
    (htime : time = min (max at_ (65536 * u.now)) (65536 * (u.now + 125))) : primingEnded u d at_ =
      sourceNow ((u.setSequencer d { u.sequencer d with
        period := 0, startAt := some (u.clockOf (edgesAfter u time 128)) }).put SEQ.STATE d 3) d := by
  subst htime
  simp only [primingEnded, hauto, if_true]

theorem primingEnded_armed (hauto : (u.sequencer d).autoRun = false) : primingEnded u d at_ =
    (u.setSequencer d { u.sequencer d with period := 0, startAt := none }).put SEQ.STATE d 2 := by
  simp only [primingEnded, hauto, Bool.false_eq_true, if_false]

/-! VECTOR_START (R211, R225, R233, R236, R253, R537). -/

/-- A vector's time has come, and the commits whose boundary its start is have been applied. -/
def vectorBegun (s : State) (d : Nat) : State := applyCommits (vectorClock s d) d (vectorTime (vectorClock s d) d)

/-- Where play stands at a vector of a run: at its beginning, at the next vector of a pass, or where a pass's end leads. -/
def playAdvanced (s : State) (d : Nat) : State :=
  if (s.sequencer d).fresh then beginPlay (vectorBegun s d) d
  else if (s.sequencer d).idx.getD 0 + 1 < passLen (s.sequencer d) then
    (vectorBegun s d).setSequencer d { (vectorBegun s d).sequencer d with idx := some ((s.sequencer d).idx.getD 0 + 1) }
  else
    let v := passEnd (vectorBegun s d) d
    if v.seqState d = 3 ∧ (v.sequencer d).fresh then beginPlay v d else v

/-- A domain that runs plays on, and issues the vector where it has not stopped. -/
theorem goes_vectorStart_runs (hd : d < 2) (hst : s.seqState d = 3) (hv : v = playAdvanced s d) :
    goes (.vectorStart d edge window) s (if v.seqState d = 3 then issueNext v d (edge ++ window) else v) := by
  rw [hv]
  have hplay : ¬(2 ≤ d ∨ (s.seqState d ≠ 3 ∧ s.seqState d ≠ 4)) := by omega
  have hpad : ¬s.seqState d = 4 := by omega
  exact (if_neg hplay).trans (if_neg hpad)

theorem playAdvanced_fresh (hfresh : (s.sequencer d).fresh = true) : playAdvanced s d = beginPlay (vectorBegun s d) d :=
  if_pos hfresh

theorem playAdvanced_within (hfresh : (s.sequencer d).fresh = false)
    (hwithin : (s.sequencer d).idx.getD 0 + 1 < passLen (s.sequencer d)) : playAdvanced s d = (vectorBegun s d).setSequencer d
      { (vectorBegun s d).sequencer d with idx := some ((s.sequencer d).idx.getD 0 + 1) } :=
  (if_neg (Bool.eq_false_iff.1 hfresh)).trans (if_pos hwithin)

theorem playAdvanced_end (hfresh : (s.sequencer d).fresh = false)
    (hend : passLen (s.sequencer d) ≤ (s.sequencer d).idx.getD 0 + 1) (hv : v = passEnd (vectorBegun s d) d) :
    playAdvanced s d = if v.seqState d = 3 ∧ (v.sequencer d).fresh = true then beginPlay v d else v := by
  rw [hv]
  exact (if_neg (Bool.eq_false_iff.1 hfresh)).trans (if_neg (Nat.not_lt.2 hend))

/-- The vectors of the pinned pad segment that a domain's PAD_SEG names; 0 where it is not pinned. -/
def padLen (q : Seq) (seg : Nat) : Nat := ((q.pinnedAt seg).map PinSeg.len).getD 0 * 64

/-- A domain that pads starts a pad pass anew where PAD_SEG names another segment, goes on within one, and ends one by playing on where
the ring holds PAD_RESUME granules, else by another. -/
theorem exec_vectorStart_pads (hd : d < 2) (hst : s.seqState d = 4) (hv : v = vectorBegun s d) :
    exec (.vectorStart d edge window) s =
      if (s.sequencer d).padSeg ≠ v.rdN SEQ.PAD_SEG d then done (padVector v d 0)
      else if (s.sequencer d).padIdx + 1 < padLen (s.sequencer d) (v.rdN SEQ.PAD_SEG d) then
        done (padVector v d ((s.sequencer d).padIdx + 1))
      else if ringReady v d (v.rdN SEQ.PAD_RESUME d) then done (issueNext (v.put SEQ.STATE d 3) d (edge ++ window))
      else done (padVector v d 0) := by
  rw [hv]
  have hplay : ¬(2 ≤ d ∨ (s.seqState d ≠ 3 ∧ s.seqState d ≠ 4)) := by omega
  exact (if_neg hplay).trans (if_pos hst)

theorem goes_vectorStart_padAnew (hd : d < 2) (hst : s.seqState d = 4) (hv : v = vectorBegun s d)
    (hother : (s.sequencer d).padSeg ≠ v.rdN SEQ.PAD_SEG d) : goes (.vectorStart d edge window) s (padVector v d 0) :=
  (exec_vectorStart_pads hd hst hv).trans (if_pos hother)

theorem goes_vectorStart_padWithin (hd : d < 2) (hst : s.seqState d = 4) (hv : v = vectorBegun s d)
    (hsame : (s.sequencer d).padSeg = v.rdN SEQ.PAD_SEG d)
    (hwithin : (s.sequencer d).padIdx + 1 < padLen (s.sequencer d) (v.rdN SEQ.PAD_SEG d)) :
    goes (.vectorStart d edge window) s (padVector v d ((s.sequencer d).padIdx + 1)) :=
  (exec_vectorStart_pads hd hst hv).trans ((if_neg (not_not.2 hsame)).trans (if_pos hwithin))

theorem goes_vectorStart_padEnd (hd : d < 2) (hst : s.seqState d = 4) (hv : v = vectorBegun s d)
    (hsame : (s.sequencer d).padSeg = v.rdN SEQ.PAD_SEG d)
    (hend : padLen (s.sequencer d) (v.rdN SEQ.PAD_SEG d) ≤ (s.sequencer d).padIdx + 1) :
    goes (.vectorStart d edge window) s (if ringReady v d (v.rdN SEQ.PAD_RESUME d) then
      issueNext (v.put SEQ.STATE d 3) d (edge ++ window) else padVector v d 0) := by
  refine (exec_vectorStart_pads hd hst hv).trans ((if_neg (not_not.2 hsame)).trans ((if_neg (Nat.not_lt.2 hend)).trans ?_))
  exact (apply_ite done _ _ _).symm

/-- In a domain that neither runs nor pads it is a vector of a built-in PIN_DRIVER run that is not over. -/
theorem goes_vectorStart_driver {r : LoopRun} (hrun : s.seqState d ≠ 3) (hpad : s.seqState d ≠ 4)
    (hdriver : driverRun s d = some r) (hmore : r.played < driverVectors) :
    goes (.vectorStart d edge window) s (driverVector s d r (edge ++ window)) := by
  refine (if_pos (Or.inr ⟨hrun, hpad⟩)).trans ?_
  simp only [hdriver, if_pos hmore]
  rfl

/-! GRANULE_FETCH_DONE (R230, R232, R235). -/

/-- A granule that refill fetches enters the ring, bad where a word of it is uncorrectable. -/
theorem goes_granuleFetchDone {j good : Bool} (hbusy : seqBusy s d = true) (hnext : fetchNext s d j = some g) :
    goes (.granuleFetchDone d j good) s (s.setSequencer d { s.sequencer d with
      missNext := false
      ring := ringRoom s d j ++ [⟨g, Bank.slice (fun _ => ⟨0, 0⟩) (s.sequencer d).vecs (64 * g) 64,
        !good || (s.sequencer d).badGrans.contains g || (s.sequencer d).missNext⟩] }) := by
  refine (if_neg (by simp [hbusy])).trans ?_
  simp only [hnext]
  rfl

/-! Pulses and start times (R237, R241, R245). -/

/-- EV_START fires the lowest ARMED slot that waits for it. -/
theorem goes_seqEvStart (hd : d < 2) (hcapt : (s.con (0x48 + 2 * d)).capt = some n)
    (hslot : (List.range 4).find? (fun k => s.seqSlotState d k == 2 && s.seqSlot SEQ.START_AT d k == 0) = some k) :
    goes (.seqEvStart d) s (seqFire (clearCapt s (0x48 + 2 * d)) d k (s.sysFine n) 128) := by
  have hfire : (List.range 4).find? (fun k => (clearCapt s (0x48 + 2 * d)).seqSlotState d k == 2 &&
      (clearCapt s (0x48 + 2 * d)).seqSlot SEQ.START_AT d k == 0) = some k := hslot
  simp only [goes, exec, execSeqEvStart, hcapt, if_neg (Nat.not_le.2 hd), hfire]
  rfl

/-- EV_STOP asks a domain that plays to stop. -/
theorem goes_seqEvStop (hd : d < 2) (hcapt : (s.con (0x49 + 2 * d)).capt = some n) (hplay : seqPlays s d = true) :
    goes (.seqEvStop d) s (askSeq (clearCapt s (0x49 + 2 * d)) d { kind := .stop, at_ := n }) := by
  have hplays : seqPlays (clearCapt s (0x49 + 2 * d)) d = true := hplay
  simp only [goes, exec, execSeqEvStop, hcapt, if_neg (Nat.not_le.2 hd), if_pos hplays]
  rfl

/-- Pulses on event channels become jump requests of a domain that plays. -/
theorem goes_seqJevPulse (hseen : (s.sequencer d).jevs ≠ []) (hplay : seqPlays s d = true) :
    goes (.seqJevPulse d) s (((s.sequencer d).jevs.map jevAsk).foldl
      (fun s a => askSeq s d a) (s.setSequencer d { s.sequencer d with jevs := [] })) := by
  have hplays : seqPlays (s.setSequencer d { s.sequencer d with jevs := [] }) d = true := hplay
  exact (if_neg (by simpa using hseen)).trans (congrArg done (if_pos hplays))

/-- An ARMED slot whose START_AT has come fires. -/
theorem goes_seqStartAt (hd : d < 2) (hslot : k < 4) (harmed : s.seqSlotState d k = 2) (hset : s.seqSlot SEQ.START_AT d k ≠ 0)
    (hdue : s.seqSlot SEQ.START_AT d k ≤ s.now) :
    goes (.seqStartAt d k) s (seqFire s d k (65536 * s.seqSlot SEQ.START_AT d k) 0) :=
  if_pos ⟨hd, hslot, harmed, hset, hdue⟩

end

/-- Settles O28: each event acts where its condition is met. -/
theorem sequencerEventRowsComplete : Obligations.SequencerEventRowsComplete := by
  refine ⟨?_, ?_, ?_, ?_, ?_, ?_, ?_, ?_, ?_, ?_, ?_, ?_⟩
  · exact fun s d at_ hst hprimed hauto => 
      ⟨_, _, rfl, rfl, primingEnded_runs hauto rfl ▸ goes_primingComplete hst hprimed⟩
  · exact fun s d at_ hst hprimed hauto => 
      ⟨_, rfl, primingEnded_armed hauto ▸ goes_primingComplete hst hprimed⟩
  · exact fun s d edge window hd hst hfresh hwithin =>
      ⟨_, _, rfl, rfl, goes_vectorStart_runs hd hst (playAdvanced_within hfresh hwithin).symm⟩
  · exact fun s d edge window hd hst hfresh =>
      ⟨_, _, rfl, rfl, goes_vectorStart_runs hd hst (playAdvanced_fresh hfresh).symm⟩
  · exact fun s d edge window hd hst hfresh hend =>
      ⟨_, _, _, rfl, rfl, rfl, goes_vectorStart_runs hd hst (playAdvanced_end hfresh hend rfl).symm⟩
  · intro s d edge window n hd hst hn
    refine ⟨_, vectorBegun s d, rfl, rfl, fun hother => goes_vectorStart_padAnew hd hst rfl hother, ?_, ?_⟩
    · intro hsame hkept hwithin
      rw [← hkept] at hn
      exact goes_vectorStart_padWithin hd hst rfl hsame (hwithin.trans_eq hn)
    · intro hsame hkept hend
      rw [← hkept] at hn
      exact goes_vectorStart_padEnd hd hst rfl hsame (hn.symm.trans_le hend)
  · exact fun s d edge window r _ hrun hpad hdriver hmore => goes_vectorStart_driver hrun hpad hdriver hmore
  · exact fun s d j good g hbusy hnext => goes_granuleFetchDone hbusy hnext
  · exact fun s d n k hd hcapt hslot => goes_seqEvStart hd hcapt hslot
  · exact fun s d n hd hcapt hplay => goes_seqEvStop hd hcapt hplay
  · exact fun s d hseen hplay => goes_seqJevPulse hseen hplay
  · exact fun s d k hd hslot harmed hset hdue => goes_seqStartAt hd hslot harmed hset hdue

end Sys2Proof.Machine
end

section
/-!
A relock leaves the transfers of host memory alone (R259, R262, R396): what it ends, parks, restores and records touches none, so a
command that asks for one waits for no unit of a read.
-/
namespace Sys2Proof.Machine

section
variable {s t : State} {p q : Pkt}

/-! What leaves the transfers alone: causes and completions. -/

theorem foldl_xlt {α : Type} {g : State → α → State} (hg : ∀ s a, (g s a).xlt = s.xlt) (l : List α) (s : State) :
    (l.foldl g s).xlt = s.xlt := by
  induction l generalizing s with
  | nil => rfl
  | cons a l ih => exact (ih (g s a)).trans (hg s a)

@[simp] theorem raise_xlt (s : State) (v : Nat) : (s.raise v).xlt = s.xlt := by
  simp only [State.raise, apply_ite State.xlt, State.emit_xlt, ite_self]

@[simp] theorem logRec_xlt (s : State) (r : Rec) : (s.logRec r).xlt = s.xlt := by
  obtain ⟨vane, h⟩ := logRec_eq s r
  rw [h]

@[simp] theorem countHit_xlt (s : State) (blk inst : Nat) (h : Hit) (action : Nat) : (countHit s blk inst h action).xlt = s.xlt := by
  simp only [countHit, apply_ite State.xlt, raise_xlt, State.setWin_xlt, ite_self]

@[simp] theorem logHit_xlt (s : State) (blk inst : Nat) (h : Hit) (action : Nat) : (logHit s blk inst h action).xlt = s.xlt := by
  simp only [logHit, apply_ite State.xlt, logRec_xlt, State.setWin_xlt, ite_self]

@[simp] theorem recordEach_xlt (s : State) (blk inst : Nat) (fixed : Option Nat) (l : List Hit) :
    (recordEach s blk inst fixed l).xlt = s.xlt := by
  induction l generalizing s with
  | nil => rfl
  | cons h l ih => simp only [recordEach, ih, apply_ite State.xlt, logHit_xlt, countHit_xlt, ite_self]

@[simp] theorem record_xlt (s : State) (blk inst code : Nat) (high : Bool) : (record s blk inst code high).xlt = s.xlt := by
  unfold record recordHits
  split
  · rfl
  · simp only [recordEach_xlt, recordHistory, apply_ite State.xlt, State.setWin_xlt, ite_self]

@[simp] theorem syncLost_xlt (s : State) : (syncLost s).xlt = s.xlt := by
  simp only [syncLost, apply_ite State.xlt, record_xlt, State.put_xlt, ite_self]

@[simp] theorem complete_xlt (s : State) (src : Src) (tag status : Nat) (res : List Nat) :
    (s.complete src tag status res).xlt = s.xlt := by
  obtain ⟨sent, cmd, vane, msh, h⟩ := complete_eq s src tag status res
  rw [h]

/-! Sequencers that park. -/

@[simp] theorem parkPin_xlt (word : Nat) (s : State) (n : Nat) : (parkPin word s n).xlt = s.xlt := by
  simp only [parkPin, apply_ite State.xlt, State.put_xlt, State.setPin_xlt, ite_self]

@[simp] theorem parkPins_xlt (s : State) (d set : Nat) : (parkPins s d set).xlt = s.xlt := by
  simp only [parkPins, State.setSequencer_xlt, foldl_xlt (parkPin_xlt _)]

@[simp] theorem commitSets_xlt (d : Nat) (s : State) (ks : List Nat) : (commitSets d s ks).xlt = s.xlt := by
  simp only [commitSets, applyTs, apply_ite State.xlt, State.setSequencer_xlt, ite_self]

@[simp] theorem stopCommits_xlt (s : State) (d : Nat) : (stopCommits s d).xlt = s.xlt := by
  simp only [stopCommits, foldl_xlt (commitSets_xlt d), State.setSequencer_xlt]

@[simp] theorem finishAll_xlt (s : State) (d : Nat) : (finishAll s d).xlt = s.xlt := by
  simp only [finishAll, State.setSequencer_xlt]
  exact foldl_xlt (fun s k => by simp only [State.setSeqSlot, apply_ite State.xlt, State.wr_xlt, ite_self]) (List.range 4) s

@[simp] theorem parkSeq_xlt (s : State) (d cause : Nat) : (parkSeq s d cause).xlt = s.xlt := by
  simp only [parkSeq, enterParked, State.put_xlt, stopCommits_xlt, State.setSequencer_xlt, parkPins_xlt, finishAll_xlt]

@[simp] theorem cutVector_xlt (s : State) (d : Nat) : (cutVector s d).xlt = s.xlt := by
  simp only [cutVector, dropMarks, apply_ite State.xlt, ite_self]

@[simp] theorem guardPark_xlt (s : State) : (guardPark s).xlt = s.xlt :=
  foldl_xlt (fun s d => by simp only [apply_ite State.xlt, record_xlt, parkSeq_xlt, cutVector_xlt, ite_self]) (List.range 2) s

/-! Pin loopback runs that end: their levels and drivers stand as before them (R534, R542). -/

@[simp] theorem pinCode_xlt (n : Nat) (wrote : Bool) (s : State) (k : Nat) : (pinCode n wrote s k).xlt = s.xlt := by
  simp only [pinCode, clipped, State.bump, apply_ite State.xlt, record_xlt, State.wr_xlt, State.setPin_xlt, ite_self]

@[simp] theorem bandChanges_xlt (s : State) (c : Cmp) : (bandChanges s c).xlt = s.xlt := by
  simp only [bandChanges, State.draw, apply_ite State.xlt, State.setComp_xlt, ite_self]

@[simp] theorem domBands_xlt (s : State) (d : Nat) : (domBands s d).xlt = s.xlt :=
  foldl_xlt (fun s n => (foldl_xlt bandChanges_xlt _ _).trans (foldl_xlt (pinCode_xlt n false) _ s)) (domPins d) s

@[simp] theorem driversOn_xlt (s : State) (d : Nat) (on : Bool) : (driversOn s d on).xlt = s.xlt :=
  foldl_xlt (fun s n => State.setPin_xlt s n _) (domPins d) s

@[simp] theorem restoreRun_xlt (s : State) (r : LoopRun) : (restoreRun s r).xlt = s.xlt := by
  simp only [restoreRun, apply_ite State.xlt, driversOn_xlt, domBands_xlt, ite_self]
  exact foldl_xlt (g := fun s e => s.putId e.1 e.2) (fun _ _ => rfl) r.saved s

@[simp] theorem endPinRuns_xlt (s : State) : (endPinRuns s).xlt = s.xlt :=
  foldl_xlt (fun s r => (complete_xlt _ _ _ _ _).trans (restoreRun_xlt s r)) _ _

/-! The timebase's own part. -/

@[simp] theorem endPhase_xlt (s : State) : (endPhase s).xlt = s.xlt := foldl_xlt (fun s _ => complete_xlt s _ _ _ _) _ _

@[simp] theorem answerTb_xlt (s : State) (status : Nat) : (answerTb s status).xlt = s.xlt :=
  foldl_xlt (fun s _ => complete_xlt s _ _ _ _) _ _

@[simp] theorem startSearch_xlt (s : State) : (startSearch s).xlt = s.xlt := by
  simp only [startSearch, syncLost_xlt, State.setTb_xlt, State.put_xlt, endPinRuns_xlt, guardPark_xlt, endPhase_xlt,
    apply_ite State.xlt, ite_self]

@[simp] theorem relock_xlt (s : State) (p : Pkt) (old : List Int) : (relock s p old).xlt = s.xlt := by
  simp only [relock, startSearch_xlt, State.setTb_xlt, answerTb_xlt]

@[simp] theorem takeShadow_xlt (s : State) : (takeShadow s).xlt = s.xlt := by
  rw [takeShadow, State.put_xlt]
  refine foldl_xlt (fun s p => ?_) tbPairs s
  exact State.put_xlt s p.2 0 (s.rd p.1)

/-- Whether a packet still reads hangs on the transfers alone. -/
theorem stillReads_of_xlt (h : t.xlt = s.xlt) : stillReads t p = stillReads s p := by
  simp only [stillReads, pktXfer, h]

theorem stillReads_relock {old : List Int} (hread : stillReads s p = false) : stillReads (relock s q old) p = false :=
  (stillReads_of_xlt (relock_xlt s q old)).trans hread

theorem stillReads_takeShadow (hread : stillReads s p = false) : stillReads (takeShadow s) p = false :=
  (stillReads_of_xlt (takeShadow_xlt s)).trans hread

end

end Sys2Proof.Machine
end

section
/-!
The timebase's events (R256 to R272): the reference, lock and its loss, timeouts, the coast budget, the steps of a phase sequence.
-/
namespace Sys2Proof.Machine
open Sys2Proof.Claims

section
variable {s v w : State} {err : Int} {b t : Nat} {r : PhaseRun} {l : List PhaseRun}

/-! The reference (R256, R262, R263, R275). -/

theorem goes_refLoss (hlull : s.pwr.lull ≠ 3) : goes .refLoss s (refLost s false) := if_neg hlull

/-- While the reference is absent, the time it has been away counts on. -/
theorem countAbsent_absent (habsent : s.tb.present = false) : countAbsent s =
    s.setTb { s.tb with absent := s.tb.absent + (s.clock - max s.tb.since s.tb.coastAt) } :=
  if_neg (by simp [habsent])

/-- A reference that no injection holds absent returns. -/
theorem goes_refReturn (habsent : s.tb.present = false) (hfree : s.tb.injTill ≤ s.clock) :
    goes .refReturn s (s.setTb { s.tb with
      present := true, since := s.clock, absent := s.tb.absent + (s.clock - max s.tb.since s.tb.coastAt) }) := by
  have hreturns : ¬(s.tb.present = true ∨ s.clock < s.tb.injTill) := by simp [habsent, hfree]
  refine (if_neg hreturns).trans ?_
  rw [countAbsent_absent habsent]
  rfl

/-- A reference that has been valid for REF_QUAL starts a relock by itself where AUTO_RELOCK asks it. -/
theorem goes_refQualElapsed (hst : s.tbState = 3 ∨ s.tbState = 4) (hpresent : s.tb.present = true) (hauto : s.rd TB.AUTO_RELOCK = 1)
    (hlull : s.pwr.lull ≠ 3) (hruns : s.tb.halted = false)
    (hdue : max s.tb.enteredAt s.tb.since + 1000000 * s.rdN TB.REF_QUAL ≤ s.clock) : goes .refQualElapsed s (startSearch s) :=
  if_pos ⟨hst, hpresent, hauto, hlull, by simp [hruns], hdue⟩

/-! Search and lock (R258, R262, R265, R268, R276). -/

/-- The loop works on a state of the timebase: it is in it, awake and not halted. -/
theorem not_idle_loop {n : Nat} (hst : s.tbState = n) (hlull : s.pwr.lull ≠ 3) (hruns : s.tb.halted = false) :
    ¬(s.tbState ≠ n ∨ s.pwr.lull = 3 ∨ s.tb.halted = true) := by
  simp [hst, hlull, hruns]

theorem goes_bandSearchDone_found (hst : s.tbState = 0) (hlull : s.pwr.lull ≠ 3) (hruns : s.tb.halted = false) (hb : b < 32) :
    goes (.bandSearchDone (some b)) s ((s.put TB.VCO_BAND 0 b).put TB.STATE 0 1) :=
  (if_neg (not_idle_loop hst hlull hruns)).trans (if_pos hb)

theorem goes_bandSearchDone_none (hst : s.tbState = 0) (hlull : s.pwr.lull ≠ 3) (hruns : s.tb.halted = false) :
    goes (.bandSearchDone none) s (guardWait s 0x04) :=
  if_neg (not_idle_loop hst hlull hruns)

/-- Lock is declared with the error in the window: it is logged, the coast and its budget are over, and what awaited lock completes. -/
theorem goes_lockDeclared (hst : s.tbState = 1) (herr : iabs err ≤ lockWin s) (hlull : s.pwr.lull ≠ 3) (hruns : s.tb.halted = false)
    (hv : v = lockRecord ((s.put TB.PHASE_ERR 0 err).put TB.STATE 0 2))
    (hw : w = ((v.put TB.RECOVERY 0 0).put TB.BUDGET_OUT 0 0).publish (v.rd TB.EV_LOCK)) :
    goes (.lockDeclared err) s (answerTb (w.setTb { w.tb with budget := none, oldActive := [] }) St.SUCCESS) := by
  subst hv hw
  have hlocks : ¬(s.tbState ≠ 1 ∨ lockWin s < iabs err ∨ s.pwr.lull = 3 ∨ s.tb.halted = true) := by
    simp [hst, herr, hlull, hruns]
  exact if_neg hlocks

/-- Search and acquisition end in GUARD_WAIT after LOCK_TIMEOUT. -/
theorem goes_lockTimeout (hst : s.tbState = 0 ∨ s.tbState = 1) (hdue : s.tb.enteredAt + 1000000 * s.rdN TB.LOCK_TIMEOUT ≤ s.clock)
    (hlull : s.pwr.lull ≠ 3) (hruns : s.tb.halted = false) : goes .lockTimeout s (guardWait s 0x05) :=
  if_pos ⟨hst, hdue, hlull, by simp [hruns]⟩

/-! Coast (R262, R264, R265). -/

/-- An error beyond four lock windows takes a locked timebase into COAST. -/
theorem goes_lockLoss (herr : 4 * lockWin s < iabs err) (hst : s.tbState = 2) :
    goes (.lockLoss err) s (enterCoast (s.put TB.PHASE_ERR 0 (clampInt (-32768) 32767 err)) 2 true) :=
  (if_neg (Int.not_le.2 herr)).trans (if_pos hst)

theorem goes_coastBudgetExpiry (hbudget : s.tb.budget = some t) (hdue : t ≤ s.clock) (hst : s.tbState ≠ 2) :
    goes .coastBudgetExpiry s (budgetOut s) := by
  simp only [goes, exec, execCoastBudgetExpiry, hbudget]
  exact if_pos ⟨hdue, hst⟩

theorem goes_holdDacTransfer (hst : s.tbState = 3) (hdue : s.tb.enteredAt + 1000000000 ≤ s.clock) (hdac : s.tb.holdDac = false) :
    goes .holdDacTransfer s (s.setTb { s.tb with holdDac := true }) :=
  if_pos ⟨hst, hdue, by simp [hdac]⟩

/-! Phase steps (R272). -/

/-- PHASE_OFS moves by one step in the direction of what is left of a sequence. -/
def phaseMoved (s : State) (r : PhaseRun) : State := s.put TB.PHASE_OFS 0 (s.rd TB.PHASE_OFS + if r.left < 0 then -1 else 1)

theorem rd_phaseMoved (s : State) (r : PhaseRun) :
    (phaseMoved s r).rd TB.PHASE_OFS = TB.PHASE_OFS.wrap (s.rd TB.PHASE_OFS + if r.left < 0 then -1 else 1) :=
  State.rd_put_same s TB.PHASE_OFS 0 _

/-- The last step of the sequence in hand completes its command. -/
theorem goes_phaseStepApply_last (hphase : s.tb.phase = r :: l) (hlast : iabs r.left ≤ 1) :
    goes .phaseStepApply s
      (((phaseMoved s r).setTb { s.tb with phase := l }).complete r.src r.tag St.SUCCESS [r.applied + 1]) := by
  simp only [goes, exec, execPhaseStepApply, hphase]
  exact if_pos hlast

/-- A step before the last leaves one fewer. -/
theorem goes_phaseStepApply_within (hphase : s.tb.phase = r :: l) (hmore : 1 < iabs r.left) :
    goes .phaseStepApply s ((phaseMoved s r).setTb { s.tb with
      phase := { r with left := r.left - (if r.left < 0 then -1 else 1), applied := r.applied + 1 } :: l }) := by
  simp only [goes, exec, execPhaseStepApply, hphase]
  exact if_neg (Int.not_le.2 hmore)

end

/-- Settles O29: each event acts where its condition is met. -/
theorem timebaseEventRowsComplete : Obligations.TimebaseEventRowsComplete := by
  refine ⟨?_, ?_, ?_, ?_, ?_, ?_, ?_, ?_, ?_, ?_, ?_, ?_, ?_⟩
  · exact fun s hlull => goes_refLoss hlull
  · exact fun s err herr hst => goes_lockLoss herr hst
  · exact fun s hst hpresent hauto hlull hruns hdue => goes_refQualElapsed hst hpresent hauto hlull hruns hdue
  · exact fun s b hst hlull hruns hb => goes_bandSearchDone_found hst hlull hruns hb
  · exact fun s hst hlull hruns => goes_bandSearchDone_none hst hlull hruns
  · exact fun s err hst herr hlull hruns => ⟨_, _, rfl, rfl, goes_lockDeclared hst herr hlull hruns rfl rfl⟩
  · exact fun s hst hdue hlull hruns => goes_lockTimeout hst hdue hlull hruns
  · exact fun s t hbudget hdue hst => goes_coastBudgetExpiry hbudget hdue hst
  · exact fun s hst hdue hdac => goes_holdDacTransfer hst hdue hdac
  · exact fun s => rfl
  · exact fun s habsent hfree => ⟨_, goes_refReturn habsent hfree, Nat.le_add_right _ _⟩
  · exact fun s r l hphase hlast => 
      ⟨(phaseMoved s r).setTb { s.tb with phase := l }, rd_phaseMoved s r, rfl, goes_phaseStepApply_last hphase hlast⟩
  · exact fun s r l hphase hmore => ⟨_, goes_phaseStepApply_within hphase hmore, rfl⟩

end Sys2Proof.Machine
end

section
/-!
The timebase's commands (R257 to R261, R268, R272, R274): commits, relocks, phase steps and SYSTIME.
-/
namespace Sys2Proof.Machine
open Sys2Proof.Claims

section
variable {s : State} {p : Pkt}

/-! TB_COMMIT and TB_RELOCK (R257, R259, R260, R263). -/

/-- A commit of valid values that leaves the VCO alone passes the check of its values and is barred by no sequencer. -/
theorem tbCommit_sameVco {a b c : Res} (hvalid : tbValid (shadowCopy s) = true)
    (hvco : movesVco (activeCopy s) (shadowCopy s) = false) :
    (if !tbValid (shadowCopy s) then a else if !movesVco (activeCopy s) (shadowCopy s) then b else c) = b := by
  simp [hvalid, hvco]

/-- Such a commit relocks from GUARD_WAIT alone. -/
theorem replies_tbCommit (hacc : accepted (.tbCommit p) s) (hvalid : tbValid (shadowCopy s) = true)
    (hvco : movesVco (activeCopy s) (shadowCopy s) = false) (hst : s.tbState ≠ 4) :
    replies (.tbCommit p) p s St.SUCCESS [] (takeShadow s) := by
  obtain ⟨hdisp, -, hgate, -⟩ := hacc
  exact replies_of_exec rfl hdisp hgate ((tbCommit_sameVco hvalid hvco).trans (if_neg hst))

theorem waits_tbCommit_guardWait (hacc : accepted (.tbCommit p) s) (hvalid : tbValid (shadowCopy s) = true)
    (hvco : movesVco (activeCopy s) (shadowCopy s) = false) (hst : s.tbState = 4) :
    waits (.tbCommit p) p s (relock (takeShadow s) p (activeCopy s)) := by
  obtain ⟨hdisp, hread, hgate, -⟩ := hacc
  exact waits_of_exec rfl hdisp hgate ((tbCommit_sameVco hvalid hvco).trans (if_pos hst))
    (stillReads_relock (stillReads_takeShadow hread))

/-- A valid commit that moves the VCO relocks where no busy sequencer bars it; with the same reference that one goes on. -/
theorem waits_tbCommit_moves (hacc : accepted (.tbCommit p) s) (hvalid : tbValid (shadowCopy s) = true)
    (hvco : movesVco (activeCopy s) (shadowCopy s) = true) (hfree : relockBarred s p = false)
    (href : (activeCopy s).getD 0 0 = (shadowCopy s).getD 0 0) :
    waits (.tbCommit p) p s (relock (takeShadow s) p (activeCopy s)) := by
  obtain ⟨hdisp, hread, hgate, -⟩ := hacc
  refine waits_of_exec rfl hdisp hgate ?_ (stillReads_relock (stillReads_takeShadow hread))
  simp only [hvalid, hvco, hfree, if_pos href, Bool.not_true, Bool.false_eq_true, if_false]

theorem waits_tbRelock (hacc : accepted (.tbRelock p) s) (hfree : relockBarred s p = false) :
    waits (.tbRelock p) p s (relock s p (activeCopy s)) := by
  obtain ⟨hdisp, hread, hgate, -⟩ := hacc
  exact waits_of_exec rfl hdisp hgate (if_neg (Bool.eq_false_iff.1 hfree)) (stillReads_relock hread)

/-! TB_PHASE_STEP (R272) and TB_TIME_SET (R274). -/

/-- Steps that R272 takes: at most 32,767 of them, of a locked timebase that the mesh does not steer. -/
theorem tbPhaseStep_taken {n : Int} {body : Res} (hmax : iabs n ≤ 32767) (hst : s.tbState = 2) (hown : s.rd TB.TIME_OWNER ≠ 1) :
    (if 32767 < iabs n then refuse s St.BAD_VALUE
      else if s.tbState ≠ 2 ∨ s.rd TB.TIME_OWNER = 1 then refuse s St.WRONG_STATE else body) = body := by
  have hready : ¬(s.tbState ≠ 2 ∨ s.rd TB.TIME_OWNER = 1) := by simp [hst, hown]
  exact (if_neg (Int.not_lt.2 hmax)).trans (if_neg hready)

theorem waits_tbPhaseStep (hacc : accepted (.tbPhaseStep p) s) (hsome : sfld 32 (pw p 2) ≠ 0)
    (hmax : iabs (sfld 32 (pw p 2)) ≤ 32767) (hst : s.tbState = 2) (hown : s.rd TB.TIME_OWNER ≠ 1) :
    waits (.tbPhaseStep p) p s (s.setTb { s.tb with phase := s.tb.phase ++ [⟨p.src, pTag p, sfld 32 (pw p 2), 0⟩] }) := by
  obtain ⟨hdisp, hread, hgate, -⟩ := hacc
  exact waits_of_exec rfl hdisp hgate ((tbPhaseStep_taken hmax hst hown).trans (if_neg hsome)) hread

theorem replies_tbPhaseStep_none (hacc : accepted (.tbPhaseStep p) s) (hnone : sfld 32 (pw p 2) = 0) (hst : s.tbState = 2)
    (hown : s.rd TB.TIME_OWNER ≠ 1) : replies (.tbPhaseStep p) p s St.SUCCESS [0] s := by
  obtain ⟨hdisp, -, hgate, -⟩ := hacc
  have hmax : iabs (sfld 32 (pw p 2)) ≤ 32767 := by rw [hnone]; decide
  exact replies_of_exec rfl hdisp hgate ((tbPhaseStep_taken hmax hst hown).trans (if_pos hnone))

/-- TB_TIME_SET waits for the boundary that takes its value, a whole number of loop cycles. -/
theorem waits_tbTimeSet (hacc : accepted (.tbTimeSet p) s) (hwhole : pw64 p 2 % 125 = 0) (hown : s.rd TB.TIME_OWNER ≠ 1)
    (harmed : armedAtTime s = false) :
    waits (.tbTimeSet p) p s (s.setTb { s.tb with timeSet := s.tb.timeSet ++ [(p.src, pTag p, pw64 p 2)] }) := by
  obtain ⟨hdisp, hread, hgate, -⟩ := hacc
  have hready : ¬(s.rd TB.TIME_OWNER = 1 ∨ armedAtTime s = true) := by simp [hown, harmed]
  exact waits_of_exec rfl hdisp hgate ((if_neg (not_not.2 hwhole)).trans (if_neg hready)) hread

end

/-- Settles O30: the checks of each command pass under the premises. -/
theorem timebaseCommandsComplete : Obligations.TimebaseCommandsComplete := by
  refine ⟨?_, ?_, ?_, ?_, ?_, ?_, ?_⟩
  · exact fun s p hacc hvalid hvco hst => replies_tbCommit hacc hvalid hvco hst
  · exact fun s p hacc hvalid hvco hst => waits_tbCommit_guardWait hacc hvalid hvco hst
  · exact fun s p hacc hvalid hvco hfree href => waits_tbCommit_moves hacc hvalid hvco hfree href
  · exact fun s p hacc hfree => waits_tbRelock hacc hfree
  · exact fun s p hacc hsome hmax hst hown => waits_tbPhaseStep hacc hsome hmax hst hown
  · exact fun s p hacc hnone hst hown => replies_tbPhaseStep_none hacc hnone hst hown
  · exact fun s p hacc hwhole hown harmed => waits_tbTimeSet hacc hwhole hown harmed

end Sys2Proof.Machine
end

section
/-!
The fabric's events (R282 to R306, R538): pulses, the monitor window, ticks, trigger inputs, Eddy cells, releases, echoes.
-/
namespace Sys2Proof.Machine
open Sys2Proof.Claims

section
variable {s : State} {a b ch g i n sev t : Nat} {p : Pulse} {e : EddyEdge} {r : Release} {rest : List (Nat × Nat)}

/-! EVENT_CHANNEL_PULSE (R282, R308). -/

/-- A published pulse has left its producer. -/
def pulseLeft (s : State) (p : Pulse) : State := { s with evf := { s.evf with lines := s.evf.lines.erase p } }

/-- A pulse that lies apart from the last one of its channel runs through the stages. -/
theorem goes_eventChannelPulse_apart (hnext : nextPulse s ch t = some p) (ha : a = p.leaves s t)
    (hapart : ∀ b, (s.chan ch).raw = some b → a < b ∨ b + nsFine 1 ≤ a) :
    goes (.eventChannelPulse ch t) s (stages (pulseLeft s p) ch a p.rel p.echo) := by
  subst ha
  simp only [goes, exec, execEventChannelPulse, hnext]
  split
  · next b hraw =>
    have hno : ¬(b ≤ p.leaves s t ∧ p.leaves s t < b + nsFine 1) := by
      have hsplit := hapart b hraw
      omega
    exact if_neg hno
  · rfl

/-- A pulse that overlaps the last one of its channel is part of it; a released one makes it a released one. -/
theorem goes_eventChannelPulse_overlaps (hnext : nextPulse s ch t = some p) (ha : a = p.leaves s t)
    (hraw : (s.chan ch).raw = some b) (hfrom : b ≤ a) (htill : a < b + nsFine 1) :
    goes (.eventChannelPulse ch t) s (if p.rel then turnReleased (pulseLeft s p) ch b a else pulseLeft s p) := by
  subst ha
  have hline : ((pulseLeft s p).chan ch).raw = some b := hraw
  rw [pulseLeft] at hline
  simp only [goes, exec, execEventChannelPulse, hnext, hline]
  exact if_pos ⟨hfrom, htill⟩

/-! LOOP_MONITOR_WINDOW and TICK (R294, R295). -/

theorem goes_loopMonitorWindow {u : State} (hdue : s.evf.winAt + 10000 ≤ s.clock)
    (hu : u = (s.evf.chans.map Prod.fst).foldl (fun s c => s.setChan c { s.chan c with inWindow := 0 }) s) :
    goes .loopMonitorWindow s
      { u with evf := { u.evf with winAt := u.evf.winAt + (u.clock - u.evf.winAt) / 10000 * 10000 } } := by
  subst hu
  exact if_neg (Nat.not_lt.2 hdue)

/-- A generator that has not ticked yet ticks at a grid time in the present loop cycle. -/
theorem goes_tick {u : State} (hg : g < 8) (hruns : 0 < (s.ticker g).period)
    (hgrid : t % (s.ticker g).period = (s.ticker g).phase % (s.ticker g).period) (hfrom : s.now ≤ t) (htill : t < s.now + 125)
    (hfirst : (s.ticker g).last = none)
    (hu : u = s.setTicker g { s.ticker g with last := some (s.clockOf (nsFine t) / 65536) }) :
    goes (.tick g t) s (tickAdopt (u.publish (s.rd EVF.TICK_EV 0 g) (some (s.clockOf (edgeFrom s (nsFine t))))) g) := by
  subst hu
  simp only [goes, exec, execTick, hfirst]
  exact if_pos ⟨hg, hruns, hgrid, hfrom, htill, rfl⟩

/-! TRIG_INPUT_EDGE (R296). -/

/-- A trigger input publishes the edges that its control word selects. -/
theorem goes_trigInputEdge {rising : Bool} (hn : n < 8) (hinput : bit (s.rdN EVF.TRIG_CTL 0 n) 31 = false)
    (hedge : bit (s.rdN EVF.TRIG_CTL 0 n) (if rising then 29 else 30) = true) :
    goes (.trigInputEdge n rising) s (s.publish (fld (s.rdN EVF.TRIG_CTL 0 n) 22 6)) :=
  if_pos ⟨hn, by simp [hinput], hedge⟩

/-! Eddy cells (R298, R299). -/

/-- A cell in which no stretch time runs has none that ends. -/
theorem eddyExpire_none (t k : Nat) (hends : (s.cell n).ends = []) : eddyExpire t k s n = s := by
  cases k with
  | zero => rfl
  | succ k => simp only [eddyExpire, hends, List.filter_nil, List.foldr_nil]

/-- An edge that holds for FILT, with no stretch time running, is published. -/
theorem goes_eddyOutputEdge (hedge : (s.cell n).edge = some e)
    (hdue : e.at_ + eddyFilt (s.rdN EVF.EDDY_CTL 0 n) < cycleEnd s) (hends : (s.cell n).ends = []) :
    goes (.eddyOutputEdge n) s (eddyPublish s n) := by
  simp only [goes, exec, execEddyOutputEdge, hedge, eddyExpire_none _ _ hends, if_neg (Nat.not_le.2 hdue), if_true, done]

theorem goes_eddyStretchEnd (hend : Bank.find i (s.cell n).ends = some t) (hdue : t < cycleEnd s) :
    goes (.eddyStretchEnd n i) s (eddyExpire t 4 s n) := by
  simp only [goes, exec, execEddyStretchEnd, hend, if_pos hdue, done]

/-! SEV_RELEASE and EVF_ECHO_PULSE (R305, R306, R538). -/

/-- A system channel's pulse is released on the channel that SEV_IN names. -/
theorem moves_sevRelease (hnext : nextRelease s sev = some r) (hdue : r.due < nsFine (s.now + 125))
    (hlo : 0 ≤ s.rd EVF.SEV_IN 0 sev) (hhi : s.rd EVF.SEV_IN 0 sev < 64) :
    moves (.sevRelease sev) s { s with evf := { s.evf with
      releases := s.evf.releases.erase r
      lines := s.evf.lines ++ [{ ch := s.rdN EVF.SEV_IN 0 sev, rel := true, at_ := some (s.clockOf r.due) }] } } := by
  simp only [moves, exec, execSevRelease, hnext, if_neg (Nat.not_le.2 hdue), if_pos (And.intro hlo hhi)]
  rfl

theorem moves_evfEchoPulse (hecho : s.evf.echoDue = (ch, t) :: rest) (hdue : t < cycleEnd s) :
    moves .evfEchoPulse s { s with evf := { s.evf with
      echoDue := rest, lines := s.evf.lines ++ [{ ch := ch, echo := true, at_ := some t }] } } := by
  simp only [moves, exec, execEvfEchoPulse, hecho, if_neg (Nat.not_le.2 hdue)]

end

/-- Settles O31: each event acts where its condition is met. -/
theorem fabricEventRowsComplete : Obligations.FabricEventRowsComplete := by
  refine ⟨?_, ?_, ?_, ?_, ?_, ?_, ?_, ?_, ?_⟩
  · exact fun s ch t p a hnext ha hapart => goes_eventChannelPulse_apart hnext ha hapart
  · exact fun s ch t p a b hnext ha hraw hfrom htill =>
      ⟨_, rfl, goes_eventChannelPulse_overlaps hnext ha hraw hfrom htill⟩
  · exact fun s hdue => ⟨_, rfl, goes_loopMonitorWindow hdue rfl⟩
  · exact fun s g t hg hruns hgrid hfrom htill hfirst => ⟨_, rfl, goes_tick hg hruns hgrid hfrom htill hfirst rfl⟩
  · exact fun s n rising hn hinput hedge => goes_trigInputEdge hn hinput hedge
  · exact fun s n e hedge hdue hends => goes_eddyOutputEdge hedge hdue hends
  · exact fun s n i t hend hdue => goes_eddyStretchEnd hend hdue
  · exact fun s sev r hnext hdue hlo hhi => moves_sevRelease hnext hdue hlo hhi
  · exact fun s ch t rest hecho hdue => moves_evfEchoPulse hecho hdue

end Sys2Proof.Machine
end

section
/-!
The fabric's commands (R287, R291, R297, R311): modes, fired pulses, cleared counts, capture units.
-/
namespace Sys2Proof.Machine
open Sys2Proof.Claims

section
variable {s : State} {p : Pkt} {q r : Prm} {c i j m n u : Nat} {wr : Option HostFault} {got : List Quad}

/-! FABRIC_ARM, EVF_TEST_ENTER and EVF_TEST_EXIT (R291). -/

theorem replies_fabricArm_normal (hacc : accepted (.fabricArm p) s) (hmode : s.evfMode = 1) :
    replies (.fabricArm p) p s St.SUCCESS [] s := by
  obtain ⟨hdisp, -, hgate, -⟩ := hacc
  exact replies_of_exec rfl hdisp hgate (if_pos hmode)

/-- Outside NORMAL and TEST the fabric arms where no loop channel is recorded. -/
theorem replies_fabricArm (hacc : accepted (.fabricArm p) s) (hmode : s.evfMode ≠ 1) (htest : s.evfMode ≠ 2)
    (hloop : s.rd EVF.LOOP_CH = 0xFF) : replies (.fabricArm p) p s St.SUCCESS [] (enterMode s 1) := by
  obtain ⟨hdisp, -, hgate, -⟩ := hacc
  have hready : ¬(s.evfMode = 2 ∨ s.rd EVF.LOOP_CH ≠ 0xFF) := by simp [htest, hloop]
  exact replies_of_exec rfl hdisp hgate ((if_neg hmode).trans (if_neg hready))

/-- TEST is entered from START and NORMAL, and remembers which. -/
theorem replies_evfTestEnter (hacc : accepted (.evfTestEnter p) s) (hlc : lcFor s p ≠ 4) (htest : s.evfMode ≠ 2)
    (hrecovery : s.evfMode ≠ 3) : replies (.evfTestEnter p) p s St.SUCCESS []
      (enterMode { s with evf := { s.evf with beforeTest := s.evfMode } } 2) := by
  obtain ⟨hdisp, -, hgate, -⟩ := hacc
  exact replies_of_exec rfl hdisp hgate ((if_neg hlc).trans (if_neg (not_or.2 ⟨htest, hrecovery⟩)))

theorem replies_evfTestExit (hacc : accepted (.evfTestExit p) s) (htest : s.evfMode = 2) :
    replies (.evfTestExit p) p s St.SUCCESS [] (enterMode s s.evf.beforeTest) := by
  obtain ⟨hdisp, -, hgate, -⟩ := hacc
  exact replies_of_exec rfl hdisp hgate (if_pos htest)

/-! EVENT_FIRE (R297). -/

/-- The pulse that EVENT_FIRE publishes on a channel. -/
def firedPulse (s : State) (c : Nat) : Pulse := { ch := c, at_ := some s.clockFine }

/-- Pulses wait for the channels of a list, all at the present instant. -/
def fired (s : State) (cs : List Nat) : State :=
  { s with evf := { s.evf with lines := s.evf.lines ++ cs.map (firedPulse s) } }

theorem publish_chan (hc : c < 64) : s.publish c (some s.clockFine) = fired s [c] := by
  have hsel : 0 ≤ (c : Int) ∧ (c : Int) < 64 := by omega
  exact if_pos hsel

theorem fired_append (s : State) (cs ds : List Nat) : fired (fired s cs) ds = fired s (cs ++ ds) := by
  have hds : ds.map (firedPulse (fired s cs)) = ds.map (firedPulse s) := rfl
  simp only [fired, List.map_append, ← List.append_assoc]
  rfl

/-- Publishing one channel after the other comes to publishing them together. -/
theorem foldl_publish (l : List Nat) (hl : ∀ c ∈ l, c < 64) (s : State) :
    l.foldl (fun (s : State) (c : Nat) => s.publish c (some s.clockFine)) s = fired s l := by
  induction l generalizing s with
  | nil => simp [fired]
  | cons c l ih =>
    obtain ⟨hc, hrest⟩ := List.forall_mem_cons.1 hl
    rw [List.foldl_cons, publish_chan hc, ih hrest, fired_append, List.singleton_append]

theorem lt_of_mem_maskBits {mask : Nat} (hc : c ∈ maskBits n mask) : c < n :=
  List.mem_range.1 (List.mem_of_mem_filter hc)

theorem replies_eventFire (hacc : accepted (.eventFire p) s) :
    replies (.eventFire p) p s St.SUCCESS [] (fired s (maskBits 64 (pw64 p 2))) := by
  obtain ⟨hdisp, -, hgate, -⟩ := hacc
  exact replies_of_exec rfl hdisp hgate (congrArg ok (foldl_publish _ (fun _ => lt_of_mem_maskBits) s))

/-! EVF_CLEAR (R311). -/

/-- What each step of a fold brings about for its own index, and keeps for every other, holds in the end for all indices of the list. -/
theorem foldl_brings {F : State → Nat → State} {P : Nat → State → Prop} (hself : ∀ s c, P c (F s c))
    (hkeep : ∀ s c i, P i s → P i (F s c)) (l : List Nat) (s : State) (hi : i ∈ l ∨ P i s) : P i (l.foldl F s) := by
  induction l generalizing s with
  | nil => exact hi.resolve_left List.not_mem_nil
  | cons c l ih =>
    refine ih (F s c) ?_
    rcases hi with hmem | hholds
    · rcases List.mem_cons.1 hmem with rfl | hrest
      · exact Or.inr (hself s i)
      · exact Or.inl hrest
    · exact Or.inr (hkeep s c i hholds)

theorem Prm.wrap_zero (q : Prm) : q.wrap 0 = 0 := by simp [Prm.wrap]

/-- The counts of a parameter of the fabric are cleared at the indices of a list. -/
def countsCleared (q : Prm) (l : List Nat) (s : State) : State := l.foldl (fun s c => s.wr q 0 c 0) s

theorem rd_countsCleared (l : List Nat) (s : State) (hi : i ∈ l) : (countsCleared q l s).rd q 0 i = 0 := by
  refine foldl_brings (P := fun i s => s.rd q 0 i = 0) (fun s c => ?_) (fun s c i hzero => ?_) l s (Or.inl hi)
  · rw [State.rd_wr, if_pos rfl, Prm.wrap_zero]
  · rw [State.rd_wr, Prm.wrap_zero, hzero, ite_self]

theorem rd_countsCleared_ne (l : List Nat) (hne : ∀ c ∈ l, r.id m j ≠ q.id 0 c) :
    (countsCleared q l s).rd r m j = s.rd r m j := by
  induction l generalizing s with
  | nil => rfl
  | cons c l ih =>
    obtain ⟨hc, hrest⟩ := List.forall_mem_cons.1 hne
    exact (ih hrest).trans ((State.rd_wr s q r 0 c m j 0).trans (if_neg hc))

/-- CH_DROP lies before SEV_STAT (R310). -/
theorem chDrop_id_ne_sevStat (hc : c < 64) (hn : n < 16) : EVF.CH_DROP.id 0 c ≠ EVF.SEV_STAT.id 0 n := by
  intro hid
  have hnum := congrArg (· % 0x1000) hid
  simp only [Prm.id_mod, EVF.CH_DROP, EVF.SEV_STAT] at hnum
  omega

/-- A consumer's count of merged pulses is cleared. -/
def mergesCleared (s : State) (n : Nat) : State :=
  if (s.con n).merges = 0 then s else s.setCon n { s.con n with merges := 0 }

theorem merges_mergesCleared (s : State) (n m : Nat) :
    ((mergesCleared s n).con m).merges = if m = n then 0 else (s.con m).merges := by
  unfold mergesCleared
  split
  case isTrue hzero =>
    split
    · next hm => exact hm ▸ hzero
    · rfl
  case isFalse => rw [State.con_setCon, apply_ite Cons.merges]

theorem merges_foldl_mergesCleared (l : List Nat) (s : State) (hn : n ∈ l) : ((l.foldl mergesCleared s).con n).merges = 0 := by
  refine foldl_brings (P := fun n s => (s.con n).merges = 0) (fun s c => ?_) (fun s c n hzero => ?_) l s (Or.inl hn)
  · rw [merges_mergesCleared, if_pos rfl]
  · rw [merges_mergesCleared, hzero, ite_self]

theorem par_foldl_mergesCleared (l : List Nat) (s : State) : (l.foldl mergesCleared s).par = s.par := by
  induction l generalizing s with
  | nil => rfl
  | cons c l ih =>
    refine (ih _).trans ?_
    unfold mergesCleared
    split <;> rfl

theorem rd_of_par {t : State} (h : t.par = s.par) : t.rd q m i = s.rd q m i := by
  simp only [State.rd, h]

/-- Every count of the fabric is cleared: the pulses that channels dropped, those of system channels late or dropped, and those that
consumers merged. -/
def evfCleared (s : State) : State :=
  consumers.foldl mergesCleared (countsCleared EVF.SEV_STAT (List.range 16) (countsCleared EVF.CH_DROP (List.range 64) s))

theorem replies_evfClear (hacc : accepted (.evfClear p) s) : replies (.evfClear p) p s St.SUCCESS [] (evfCleared s) := by
  obtain ⟨hdisp, -, hgate, -⟩ := hacc
  exact replies_of_exec rfl hdisp hgate rfl

theorem chDrop_evfCleared (hc : c < 64) : (evfCleared s).rd EVF.CH_DROP 0 c = 0 := by
  have hapart : ∀ n ∈ List.range 16, EVF.CH_DROP.id 0 c ≠ EVF.SEV_STAT.id 0 n := fun n hn =>
    chDrop_id_ne_sevStat hc (List.mem_range.1 hn)
  rw [evfCleared, rd_of_par (par_foldl_mergesCleared _ _), rd_countsCleared_ne _ hapart]
  exact rd_countsCleared _ _ (List.mem_range.2 hc)

theorem sevStat_evfCleared (hn : n < 16) : (evfCleared s).rd EVF.SEV_STAT 0 n = 0 := by
  rw [evfCleared, rd_of_par (par_foldl_mergesCleared _ _)]
  exact rd_countsCleared _ _ (List.mem_range.2 hn)

theorem merges_evfCleared (hn : n ∈ consumers) : ((evfCleared s).con n).merges = 0 :=
  merges_foldl_mergesCleared _ _ hn

/-! CU_READ (R311). -/

/-- The entries that a read takes of those that no read under way has taken. -/
def cuGot (s : State) (u n : Nat) : List Quad := ((s.cu u).drop (leaving s u)).take n

/-- A read of 1 to 16 entries of a capture unit to an aligned address passes the check of its arguments. -/
theorem cuRead_taken {a : Nat} {x y : Res} (hu : u ≤ 15) (hsome : 1 ≤ n) (hmax : n ≤ 16) (halign : a % 16 = 0) :
    (if 15 < u ∨ n = 0 ∨ 16 < n ∨ a % 16 ≠ 0 then x else y) = y :=
  if_neg (by omega)

/-- A read that finds no entry completes at once. -/
theorem replies_cuRead_none (hacc : accepted (.cuRead p wr) s) (hu : pw p 2 ≤ 15) (hsome : 1 ≤ pw p 5) (hmax : pw p 5 ≤ 16)
    (halign : pw p 3 % 16 = 0) (hnone : (s.cu (pw p 2)).length ≤ leaving s (pw p 2)) :
    replies (.cuRead p wr) p s St.SUCCESS [0] s := by
  obtain ⟨hdisp, -, hgate, -⟩ := hacc
  have hgot : cuGot s (pw p 2) (pw p 5) = [] := by rw [cuGot, List.drop_eq_nil_of_le hnone, List.take_nil]
  exact replies_of_exec rfl hdisp hgate ((cuRead_taken hu hsome hmax halign).trans (if_pos (List.isEmpty_iff.2 hgot)))

theorem waits_cuRead (hacc : accepted (.cuRead p wr) s) (hu : pw p 2 ≤ 15) (hsome : 1 ≤ pw p 5) (hmax : pw p 5 ≤ 16)
    (halign : pw p 3 % 16 = 0) (hmore : leaving s (pw p 2) < (s.cu (pw p 2)).length) (hgot : got = cuGot s (pw p 2) (pw p 5)) :
    waits (.cuRead p wr) p s (writing s p (pw64 p 3) (got.flatMap fun q => [q.w0, q.w1, q.w2, q.w3])
      (.cu (pw p 2) got.length)) := by
  obtain ⟨hdisp, hread, hgate, -⟩ := hacc
  have hne : got ≠ [] := by
    rw [hgot, cuGot, ← List.length_pos_iff, List.length_take, List.length_drop]
    omega
  subst hgot
  exact waits_of_exec rfl hdisp hgate ((cuRead_taken hu hsome hmax halign).trans (if_neg (mt List.isEmpty_iff.1 hne)))
    (stillReads_writing hread)

end

/-- Settles O32: the checks of each command pass under the premises. -/
theorem fabricCommandsComplete : Obligations.FabricCommandsComplete := by
  refine ⟨?_, ?_, ?_, ?_, ?_, ?_, ?_, ?_⟩
  · exact fun s p hacc hmode => replies_fabricArm_normal hacc hmode
  · exact fun s p hacc hmode htest hloop => replies_fabricArm hacc hmode htest hloop
  · exact fun s p hacc hlc htest hrecovery => replies_evfTestEnter hacc hlc htest hrecovery
  · exact fun s p hacc htest => replies_evfTestExit hacc htest
  · exact fun s p hacc => ⟨_, replies_eventFire hacc, rfl⟩
  · exact fun s p hacc => ⟨evfCleared s, replies_evfClear hacc, fun c hc => chDrop_evfCleared hc,
      fun n hn => sevStat_evfCleared hn, fun n hn => merges_evfCleared hn⟩
  · exact fun s p wr hacc hu hsome hmax halign hnone => replies_cuRead_none hacc hu hsome hmax halign hnone
  · exact fun s p wr got hacc hu hsome hmax halign hmore hgot => waits_cuRead hacc hu hsome hmax halign hmore hgot

end Sys2Proof.Machine
end

section
/-!
The ports of the mesh, the frames they bring and what nodes learn (R305, R412 to R433): signal, training, loss, system channels, time,
control and bulk frames, repair, generations.
-/
namespace Sys2Proof.Machine
open Sys2Proof.Claims

section
variable {s u : State} {n a delay peer gen port : Nat} {same : Bool}

/-! Training of a port (R412, R414, R418). -/

theorem moves_portSignalDetect (hn : n < 4) (hst : portState s n = 1) (hruns : stopped s .msh = false)
    (hscan : s.tst.extest = false) : moves (.portSignalDetect n) s (s.put MSH.PORT_STATE (n + 1) 2) :=
  if_pos ⟨hn, hst, by simp [hruns], by simp [hscan]⟩

theorem moves_portTrainingRetry (hn : n < 4) (hst : portState s n = 1) (hruns : stopped s .msh = false)
    (hscan : s.tst.extest = false) (hdue : retryDue s n = true) :
    moves (.portTrainingRetry n) s (s.put MSH.PORT_STATE (n + 1) 2) :=
  if_pos ⟨hn, hst, hdue, by simp [hruns], by simp [hscan]⟩

theorem moves_portTrainingFail (hn : n < 4) (hst : portState s n = 2) : moves (.portTrainingFail n) s
    ((s.setPort n { s.port n with failAt := some s.clock }).put MSH.PORT_STATE (n + 1) 1) :=
  if_pos ⟨hn, hst⟩

/-- A port whose four lanes are aligned is UP; its delay and peer are known. -/
def portTrained (s : State) (n delay peer : Nat) : State :=
  (((s.put MSH.PORT_STATE (n + 1) 3).put MSH.LANES (n + 1) 4).put MSH.DELAY (n + 1) (min delay 65535 : Nat)).put MSH.PEER (n + 1)
    (peer % 2 ^ 64 : Nat)

/-- The end of a training writes parameters alone. -/
theorem portTrained_par : portTrained s n delay peer = { s with par := (portTrained s n delay peer).par } := by
  simp only [portTrained, State.put, State.wr]

theorem portState_portTrained : (portTrained s n delay peer).rd MSH.PORT_STATE (n + 1) = 3 := by
  simp (disch := decide) only [portTrained, State.rd_put_ne, State.rd_put_same]
  rfl

theorem lanes_portTrained : (portTrained s n delay peer).rd MSH.LANES (n + 1) = 4 := by
  simp (disch := decide) only [portTrained, State.rd_put_ne, State.rd_put_same]
  rfl

/-- A natural number that fits an unsigned parameter is stored as it is. -/
theorem Prm.wrap_nat {q : Prm} {v : Nat} (hsgn : q.sgn = false) (hv : v < 2 ^ q.wid) : q.wrap v = v := by
  rw [Prm.wrap, hsgn, if_neg Bool.false_ne_true]
  exact Int.emod_eq_of_lt (Int.natCast_nonneg v) (mod_cast hv)

theorem delay_portTrained (hdelay : delay ≤ 65535) : (portTrained s n delay peer).rd MSH.DELAY (n + 1) = delay := by
  simp (disch := decide) only [portTrained, State.rd_put_ne, State.rd_put_same, min_eq_left hdelay]
  exact Prm.wrap_nat rfl (Nat.lt_succ_of_le hdelay)

theorem peer_portTrained : (portTrained s n delay peer).rd MSH.PEER (n + 1) = (peer % 2 ^ 64 : Nat) := by
  rw [portTrained, State.rd_put_same]
  exact Prm.wrap_nat rfl (Nat.mod_lt _ (Nat.two_pow_pos 64))

/-- ENUM_STATE and PORT_STATE have one number: the node holds the one, each port the other (R435). -/
theorem enumState_id_ne_portState (hn : n < 4) : MSH.ENUM_STATE.id 0 0 ≠ MSH.PORT_STATE.id (n + 1) 0 := by
  simp only [Prm.id, Prm.home, MSH.ENUM_STATE, MSH.PORT_STATE]
  omega

theorem enumState_portTrained (hn : n < 4) : (portTrained s n delay peer).rd MSH.ENUM_STATE = s.rd MSH.ENUM_STATE := by
  simp (disch := decide) only [portTrained, State.rd_put_ne]
  exact (State.rd_put _ _ _ _ _ _ _).trans (if_neg (enumState_id_ne_portState hn))

/-- Training ends with all lanes aligned and a short delay at a node outside any mesh: no cause is set. -/
theorem goes_portTrainingDone (hn : n < 4) (hst : portState s n = 2) (hdelay : delay ≤ 3000) (halone : s.rd MSH.ENUM_STATE = 0) :
    goes (.portTrainingDone n 15 delay peer same) s (portTrained s n delay peer) := by
  have hshort : ¬3000 < delay := Nat.not_lt.2 hdelay
  have hout : inMesh (portTrained s n delay peer) = false := by
    simp [inMesh, enumState_portTrained hn, halone]
  refine (if_pos ⟨hn, hst, Or.inl rfl⟩).trans ?_
  simp only [if_neg hshort, if_true]
  exact if_pos (by rw [← portTrained, hout]; rfl)

theorem goes_portLinkLoss (hn : n < 4) (hst : portState s n = 3) : goes (.portLinkLoss n) s (portDrops s n) := if_pos ⟨hn, hst⟩

/-! System-channel frames (R305, R413, R431). -/

section
variable {f : SevFrame}

/-- A system-channel frame reaches a node of a mesh by a port that is UP, and no injection loses it. -/
theorem exec_sevFrameRx (hn : n < 4) (hst : portState s n = 3) (hmesh : inMesh s = true) (hsev : f.sev < 16)
    (hkept : (s.port n).loseNext = false) : exec (.sevFrameRx n f) s =
      if !f.good then done (sevLost s n true)
      else if f.gen ≠ s.rdN MSH.GENERATION ∨ f.t0 + nsFine 70000 < s.fine then done (sevLost s n false)
      else if f.node = nodeId s ∨ s.msh.seen.contains (f.sev, f.t0, f.node) then .next s
      else done (sevArrives s n f) := by
  have htakes : ¬(4 ≤ n ∨ portState s n ≠ 3 ∨ !inMesh s ∨ 16 ≤ f.sev) := by simp [hn, hst, hmesh, hsev]
  exact (if_neg htakes).trans (if_neg (by simp [hkept]))

/-- The first copy of a good frame of this generation, young enough and of another node, arrives. -/
theorem goes_sevFrameRx_arrives (hn : n < 4) (hst : portState s n = 3) (hmesh : inMesh s = true) (hsev : f.sev < 16)
    (hkept : (s.port n).loseNext = false) (hgood : f.good = true) (hgen : f.gen = s.rdN MSH.GENERATION)
    (hyoung : s.fine ≤ f.t0 + nsFine 70000) (hother : f.node ≠ nodeId s) (hfirst : (f.sev, f.t0, f.node) ∉ s.msh.seen) :
    goes (.sevFrameRx n f) s (sevArrives s n f) := by
  have hthis : ¬(f.gen ≠ s.rdN MSH.GENERATION ∨ f.t0 + nsFine 70000 < s.fine) := by simp [hgen, hyoung]
  have hnew : ¬(f.node = nodeId s ∨ s.msh.seen.contains (f.sev, f.t0, f.node) = true) := by simp [hother, hfirst]
  refine (exec_sevFrameRx hn hst hmesh hsev hkept).trans ((if_neg (by simp [hgood])).trans ?_)
  exact (if_neg hthis).trans (if_neg hnew)

theorem goes_sevFrameRx_bad (hn : n < 4) (hst : portState s n = 3) (hmesh : inMesh s = true) (hsev : f.sev < 16)
    (hkept : (s.port n).loseNext = false) (hbad : f.good = false) :
    goes (.sevFrameRx n f) s (record (s.bump MSH.SEV_LOST (n + 1)) 0x0B (n + 1) 0x05) :=
  (exec_sevFrameRx hn hst hmesh hsev hkept).trans (if_pos (by simp [hbad]))

end

/-! Time frames and exchanges (R427 to R429). -/

section
variable {f : TimeFrame}

/-- The first frame of an exchange is answered. -/
theorem moves_timeFrameRx_first (hn : n < 4) (hst : portState s n = 3) (hmesh : inMesh s = true) (hgood : f.good = true)
    (ha : a = sixteenth s f.at_) (hkind : f.kind = 0) : moves (.timeFrameRx n f) s
      (sendTwice (s.setPort n { s.port n with stamp := a, asked := (a, sixteenth s f.out) }) n [17]) := by
  subst ha
  refine (if_pos ⟨hn, hst, hmesh, hgood⟩).trans ?_
  simp only [hkind]

/-- At the answer the member sends its second frame. -/
theorem moves_timeFrameRx_answer (hn : n < 4) (hst : portState s n = 3) (hmesh : inMesh s = true) (hgood : f.good = true)
    (ha : a = sixteenth s f.at_) (hu : u = s.setPort n { s.port n with stamp := a }) (hkind : f.kind = 1) :
    moves (.timeFrameRx n f) s (sendTwice (u.setMsh { u.msh with heardAt := some a }) n [18]) := by
  subst hu ha
  refine (if_pos ⟨hn, hst, hmesh, hgood⟩).trans ?_
  simp only [hkind]

/-- The second frame is answered with the stamps of the first two. -/
theorem moves_timeFrameRx_second (hn : n < 4) (hst : portState s n = 3) (hmesh : inMesh s = true) (hgood : f.good = true)
    (ha : a = sixteenth s f.at_) (hu : u = s.setPort n { s.port n with stamp := a }) (hkind : f.kind = 2) :
    moves (.timeFrameRx n f) s (sendTwice u n [19, lo32 (s.port n).asked.1, (s.port n).asked.1 / 2 ^ 32,
      lo32 (s.port n).asked.2, (s.port n).asked.2 / 2 ^ 32]) := by
  subst hu ha
  refine (if_pos ⟨hn, hst, hmesh, hgood⟩).trans ?_
  simp only [hkind]

theorem moves_timeFrameRx_stamps (hn : n < 4) (hst : portState s n = 3) (hmesh : inMesh s = true) (hgood : f.good = true)
    (ha : a = sixteenth s f.at_) (hu : u = s.setPort n { s.port n with stamp := a }) (hkind : 3 ≤ f.kind) :
    moves (.timeFrameRx n f) s (exchangeEnds u f.stamps) := by
  subst hu ha
  refine (if_pos ⟨hn, hst, hmesh, hgood⟩).trans ?_
  split
  case h_1 | h_2 | h_3 => omega
  case h_4 => rfl

end

section
variable {sent heard : Nat} {far : Nat × Nat} {x : Int × Int} {f : Int} {good : Bool}

/-- An optional time read as an integer is the time itself. -/
theorem eq_some_of_cast {o : Option Nat} {z : Int} (h : (o : Option Int) = some z) : ∃ t : Nat, o = some t ∧ z = t := by
  cases o with
  | none => cases h
  | some t => exact ⟨t, rfl, (Option.some.inj h).symm⟩

theorem exchangeEnds_heard (hsent : s.msh.sentAt = some sent) (hheard : s.msh.heardAt = some heard) :
    exchangeEnds s far = s.setMsh { s.msh with
      sentAt := none, heardAt := none, sample := some (exchangeShows sent heard far) } := by
  simp only [exchangeEnds, hsent, hheard]

/-- An exchange with the parent has begun: its first frame leaves. -/
def exchangeBegun (s : State) (parent sent : Nat) : State :=
  sendTwice (s.setMsh { s.msh with sample := none, heardAt := none, sentAt := some (sixteenth s sent) }) parent [16]

/-- A node other than the root exchanges times with its parent while it synchronises and the parent's port is UP. -/
theorem not_idle_exchange (hnode : nodeId s ≠ 0) (henum : enumState s = 1) (hsync : s.rd MSH.SYNC_STATE ≠ 0)
    (hparent : portState s (fld (s.rdN MSH.TREE) 2 2) = 3) :
    ¬(nodeId s = 0 ∨ enumState s ≠ 1 ∨ s.rd MSH.SYNC_STATE = 0 ∨ portState s (fld (s.rdN MSH.TREE) 2 2) ≠ 3) := by
  simp [hnode, henum, hsync, hparent]

/-- Where the last exchange shows nothing, or lost a frame, the next one begins. -/
theorem goes_timeExchange_skips (hnode : nodeId s ≠ 0) (henum : enumState s = 1) (hsync : s.rd MSH.SYNC_STATE ≠ 0)
    (hparent : portState s (fld (s.rdN MSH.TREE) 2 2) = 3) (hskip : s.msh.sample = none ∨ good = false) :
    goes (.timeExchange sent f good) s (exchangeBegun s (fld (s.rdN MSH.TREE) 2 2) sent) := by
  refine (if_neg (not_idle_exchange hnode henum hsync hparent)).trans ?_
  split
  · next x hsample =>
    obtain hnone | hbad := hskip
    · rw [hsample] at hnone
      cases hnone
    · simp only [hbad, Bool.false_eq_true, if_false]
      rfl
  · rfl

/-- An exchange that is complete acts, then the next one begins. -/
theorem goes_timeExchange_acts (hnode : nodeId s ≠ 0) (henum : enumState s = 1) (hsync : s.rd MSH.SYNC_STATE ≠ 0)
    (hparent : portState s (fld (s.rdN MSH.TREE) 2 2) = 3) (hsample : s.msh.sample = some x) :
    goes (.timeExchange sent f true) s (exchangeBegun (exchangeActs s x f) (fld (s.rdN MSH.TREE) 2 2) sent) := by
  refine (if_neg (not_idle_exchange hnode henum hsync hparent)).trans ?_
  simp only [hsample, if_true]
  rfl

/-- A new sample writes neither the state of the timebase nor that of synchronisation. -/
theorem tbState_takeSample : (takeSample s x f).tbState = s.tbState := by
  simp (disch := decide) only [takeSample, State.tbState, State.rdN, State.rd_put_ne]
  rfl

theorem syncState_takeSample : (takeSample s x f).rd MSH.SYNC_STATE = s.rd MSH.SYNC_STATE := by
  simp (disch := decide) only [takeSample, State.rd_put_ne]
  rfl

theorem exchangeActs_unlocked (hu : u = takeSample s x f) (hst : s.tbState ≠ 2) : exchangeActs s x f = syncLost u := by
  subst hu
  exact if_pos fun h => hst (tbState_takeSample.symm.trans h)

/-- A locked timebase is steered by the filtered offset, and synchronisation steps on. -/
theorem exchangeActs_locked (hu : u = takeSample s x f) (hst : s.tbState = 2) (hsync : s.rd MSH.SYNC_STATE ≠ 3) :
    exchangeActs s x f = syncStep (steer u (u.rd MSH.SYNC_OFFSET) (u.rd MSH.SYNC_FREQ)) (u.rd MSH.SYNC_OFFSET) := by
  subst hu
  have hlocked : ¬(takeSample s x f).tbState ≠ 2 := not_not.2 (tbState_takeSample.trans hst)
  have hsteers : (takeSample s x f).rd MSH.SYNC_STATE ≠ 3 := fun h =>
    hsync (syncState_takeSample.symm.trans h)
  simp only [exchangeActs, if_neg hlocked, if_neg hsteers]

end

/-! Class 1 and class 2 frames at a port that is UP (R413, R415 to R425). -/

section
variable {source fid hops target : Nat} {words : List Nat}

theorem not_idle_port (hn : n < 4) (hst : portState s n = 3) : ¬(4 ≤ n ∨ portState s n ≠ 3) := by
  simp [hn, hst]

theorem goes_controlFrameRx_crcError (hn : n < 4) (hst : portState s n = 3) :
    goes (.controlFrameRx n .crcError) s (frameBad s n 1) := if_neg (not_idle_port hn hst)

theorem goes_bulkFrameRx_crcError (hn : n < 4) (hst : portState s n = 3) :
    goes (.bulkFrameRx n .crcError) s (frameBad s n 2) := if_neg (not_idle_port hn hst)

theorem moves_controlFrameRx_replay (hn : n < 4) (hst : portState s n = 3) (hlast : (s.port n).last1 ≠ []) :
    moves (.controlFrameRx n .replay) s (s.emit (.frame n 1 (s.port n).last1)) :=
  (if_neg (not_idle_port hn hst)).trans (congrArg _ (if_neg (mt List.isEmpty_iff.1 hlast)))

theorem moves_bulkFrameRx_replay (hn : n < 4) (hst : portState s n = 3) (hlast : (s.port n).last2 ≠ []) :
    moves (.bulkFrameRx n .replay) s (s.emit (.frame n 2 (s.port n).last2)) :=
  (if_neg (not_idle_port hn hst)).trans (congrArg _ (if_neg (mt List.isEmpty_iff.1 hlast)))

/-- A frame that an UP port takes for the mesh is taken by a member alone. -/
theorem member_takes {idle act : Answer} (hn : n < 4) (hst : portState s n = 3) (hmesh : inMesh s = true) :
    (if 4 ≤ n ∨ portState s n ≠ 3 then idle else if inMesh s then act else idle) = act :=
  (if_neg (not_idle_port hn hst)).trans (if_pos hmesh)

/-- A packet for this node is an operation to dispatch. -/
theorem packetArrives_here (hnode : nodeId s ≠ 0x3FFF) :
    packetArrives s n (nodeId s) source fid hops words = addOp s ⟨.mesh source fid, pad 16 words⟩ :=
  (if_neg hnode).trans (if_pos rfl)

theorem passOn_far {cls : Nat} (hfar : 63 ≤ hops) :
    passOn s target source fid hops cls words = discardFrame s target source fid cls (words.headD 0) := if_pos hfar

theorem passOn_near {cls : Nat} (hnear : hops < 63) :
    passOn s target source fid hops cls words = s.frameTo target cls words none (hops + 1) := if_neg (Nat.not_le.2 hnear)

theorem goes_controlFrameRx_packet (hn : n < 4) (hst : portState s n = 3) (hmesh : inMesh s = true) :
    goes (.controlFrameRx n (.packet target source fid hops words)) s (packetArrives s n target source fid hops words) :=
  member_takes hn hst hmesh

theorem goes_bulkFrameRx_pass (hn : n < 4) (hst : portState s n = 3) (hmesh : inMesh s = true) :
    goes (.bulkFrameRx n (.pass target source fid hops words)) s (passOn s target source fid hops 2 words) :=
  member_takes hn hst hmesh

end

/-! Repair and generations (R416, R421). -/

section
variable {g : MeshGraph}

/-- A member that a path still joins to the root stays one: what the repair held leaves, and what waits for members is checked. -/
theorem goes_routeRepairDone (hmesh : inMesh s = true) (hrepair : s.msh.repairing = true) (hroot : rooted g = true)
    (hu : u = releaseHeld (askAgain ((learn s g false).put MSH.ENUM_STATE 0 1))) :
    goes (.routeRepairDone g) s (timeCtlCheck (u.msh.fwds.foldl lostMembers u)) := by
  rw [hu]
  refine (if_neg (by simp [hmesh, hrepair])).trans ?_
  simp only [hroot, if_true]
  rfl

theorem goes_generationTimeout (hnewer : s.msh.newer = some (port, gen)) (hu : u = standAlone (loseEnum s) gen) :
    goes .generationTimeout s (passNewer (u.setMsh { u.msh with unclaimed := true }) gen (some port)) := by
  subst hu
  simp only [goes, exec, execGenerationTimeout, hnewer, done]

end

end

/-- Settles O41: each row acts where its condition is met. -/
theorem meshEventRowsComplete : Obligations.MeshEventRowsComplete := by
  refine ⟨?_, ?_, ?_, ?_, ?_, ?_, ?_, ?_, ?_, ?_, ?_, ?_, ?_, ?_, ?_, ?_, ?_⟩
  · exact fun s n hn hst hruns hscan => moves_portSignalDetect hn hst hruns hscan
  · exact fun s n hn hst hruns hscan hdue => moves_portTrainingRetry hn hst hruns hscan hdue
  · exact fun s n hn hst => moves_portTrainingFail hn hst
  · exact fun s n delay peer same hn hst hdelay halone =>
      ⟨portTrained s n delay peer, goes_portTrainingDone hn hst hdelay halone, portState_portTrained, lanes_portTrained,
        delay_portTrained (hdelay.trans (by decide)), peer_portTrained, portTrained_par⟩
  · exact fun s n hn hst => goes_portLinkLoss hn hst
  · exact fun s n f hn hst hmesh hsev hkept hgood hgen hyoung hother hfirst =>
      goes_sevFrameRx_arrives hn hst hmesh hsev hkept hgood hgen hyoung hother hfirst
  · exact fun s n f hn hst hmesh hsev hkept hbad => goes_sevFrameRx_bad hn hst hmesh hsev hkept hbad
  · exact fun s n f a u hn hst hmesh hgood ha hu =>
      ⟨moves_timeFrameRx_first hn hst hmesh hgood ha, moves_timeFrameRx_answer hn hst hmesh hgood ha hu,
        moves_timeFrameRx_second hn hst hmesh hgood ha hu, moves_timeFrameRx_stamps hn hst hmesh hgood ha hu⟩
  · intro s sent heard far hsent hheard
    obtain ⟨t1, hsentAt, rfl⟩ := eq_some_of_cast hsent
    obtain ⟨t4, hheardAt, rfl⟩ := eq_some_of_cast hheard
    exact exchangeEnds_heard hsentAt hheardAt
  · exact fun s n hn hst =>
      ⟨goes_controlFrameRx_crcError hn hst, goes_bulkFrameRx_crcError hn hst, if_neg (not_idle_port hn hst),
        moves_controlFrameRx_replay hn hst, moves_bulkFrameRx_replay hn hst,
        fun g h id r => if_neg (not_idle_port hn hst), fun g => if_neg (not_idle_port hn hst)⟩
  · intro s n hn hst hmesh
    refine ⟨member_takes hn hst hmesh, ?_, ?_, ?_, ?_, ?_⟩
    · exact fun source fid hops words hnode => packetArrives_here hnode ▸ goes_controlFrameRx_packet hn hst hmesh
    · exact fun source fid hops words => goes_controlFrameRx_packet hn hst hmesh
    · exact fun source fid st res => member_takes hn hst hmesh
    · exact fun target source fid hops words hfar => passOn_far hfar ▸ goes_bulkFrameRx_pass hn hst hmesh
    · exact fun target source fid hops words hnear => passOn_near hnear ▸ goes_bulkFrameRx_pass hn hst hmesh
  · exact fun s n source fid st addr ws bytes f hn hst hmesh =>
      ⟨member_takes hn hst hmesh, member_takes hn hst hmesh, member_takes hn hst hmesh, member_takes hn hst hmesh,
        member_takes hn hst hmesh, member_takes hn hst hmesh⟩
  · exact fun s sent f good hnode henum hsync hparent hskip => goes_timeExchange_skips hnode henum hsync hparent hskip
  · exact fun s sent f x hnode henum hsync hparent hsample =>
      ⟨_, rfl, goes_timeExchange_acts hnode henum hsync hparent hsample⟩
  · exact fun s x f u hu => ⟨exchangeActs_unlocked hu, exchangeActs_locked hu⟩
  · exact fun s g hmesh hrepair hroot => ⟨_, rfl, goes_routeRepairDone hmesh hrepair hroot rfl⟩
  · exact fun s port gen hnewer => ⟨_, rfl, goes_generationTimeout hnewer rfl⟩

end Sys2Proof.Machine
end

section
/-!
Packets that the common checks bar, that only read, or whose tag is in use: what an immediate queue refuses (R331), what the reading
commands leave (R337 to R339, R490, R513, R530), and where a duplicate tag completes (R327, R330).
-/
namespace Sys2Proof.Machine
open Sys2Proof.Claims

section
variable {s : State} {c : Instr} {p : Pkt} {code : Nat} {f : Form}

theorem gate_immediateSq (himm : immediateSq s p = true) (hcode : immediateOk code = false) : gate s p code f = some St.IMM_ONLY :=
  if_pos ⟨himm, by rw [hcode]; rfl⟩

/-! Commands that only read. -/

/-- What a command comes to that completes and changes nothing. -/
def Res.readsOnly (s : State) (r : Res) : Prop := ∃ st res, r = .done st res s

theorem readsOnly_refuse (st : Nat) : (refuse s st).readsOnly s := ⟨st, [], rfl⟩

theorem readsOnly_ok (res : List Nat) : (ok s res).readsOnly s := ⟨St.SUCCESS, res, rfl⟩

theorem readsOnly_if {P : Prop} {_ : Decidable P} {a b : Res} (ha : a.readsOnly s) (hb : b.readsOnly s) :
    (if P then a else b).readsOnly s := by
  split <;> assumption

theorem readsOnly_vaneCmd {r : Res} (h : r.readsOnly s) : (vaneCmd s p r).readsOnly s := readsOnly_if (readsOnly_refuse _) h

/-- The row of a reading command; PARAM_GET is one where it has no pointer block (R339). -/
theorem exec_readsOnly (hpacket : packetOf c = some (p, code, f))
    (hcode : code ∈ [0x0001, 0x0002, 0x0003, 0x0204, 0x0904, 0x0907, 0x0C03]) (hplain : code = 0x0003 → pPtr p = false) :
    ∃ body, exec c s = runCmd s p code f body ∧ body.readsOnly s := by
  cases c with
  | nop => cases hpacket; exact ⟨_, rfl, readsOnly_ok _⟩
  | identify =>
    cases hpacket
    refine ⟨_, rfl, ?_⟩
    split
    · exact readsOnly_ok _
    · exact readsOnly_refuse _
  | paramGet =>
    cases hpacket
    refine ⟨_, rfl, ?_⟩
    rw [withBlock_plain (hplain rfl), if_neg (by simp [hplain rfl])]
    split
    · exact readsOnly_refuse _
    · exact readsOnly_ok _
  | statusRead =>
    cases hpacket
    exact ⟨_, rfl, readsOnly_if (readsOnly_refuse _) (readsOnly_if (readsOnly_refuse _) (readsOnly_ok _))⟩
  | sensorRead => cases hpacket; exact ⟨_, rfl, readsOnly_vaneCmd (readsOnly_if (readsOnly_refuse _) (readsOnly_ok _))⟩
  | fwStatus => cases hpacket; exact ⟨_, rfl, readsOnly_vaneCmd (readsOnly_if (readsOnly_refuse _) (readsOnly_ok _))⟩
  | lcStatus => cases hpacket; exact ⟨_, rfl, readsOnly_vaneCmd (readsOnly_ok _)⟩
  | _ => cases hpacket <;> exact absurd hcode (by decide)

/-- A dispatched command that only reads completes, whether or not a common check refuses it. -/
theorem runCmd_readsOnly {body : Res} (hdisp : dispatched s p code = true) (hreads : body.readsOnly s) :
    ∃ st res, runCmd s p code f body = done ((freeCore s p).complete p.src (pTag p) st res) := by
  obtain ⟨st, res, rfl⟩ := hreads
  cases hgate : gate s p code f with
  | none => exact ⟨st, res, runCmd_passed hdisp hgate⟩
  | some denied => exact ⟨denied, [], runCmd_refused hdisp hgate⟩

/-- A completion for a queue or the mailbox changes the record of commands and completions alone. -/
theorem complete_local {src : Src} (hsrc : src = .mbx ∨ ∃ q, src = .sq q) (tag st : Nat) (res : List Nat) :
    ∃ cmd, s.complete src tag st res = { s with cmd := cmd } := by
  obtain rfl | ⟨q, rfl⟩ := hsrc
  · exact ⟨_, rfl⟩
  · exact ⟨_, rfl⟩

/-- The bulk transfers that a command leaves once it is done: all but the reads of its own. -/
theorem mem_xfers_freeCore {x : Xfer} :
    x ∈ (freeCore s p).xlt.xfers ↔ x ∈ s.xlt.xfers ∧ ¬(x.who = .cmd p.src (pTag p) ∧ x.write = false) := by
  simp [freeCore, setStage, List.mem_filter, imp_iff_not_or]

/-! STATUS_READ (R337). -/

theorem replies_statusRead {blk inst : Nat} (hacc : accepted (.statusRead p) s) (hid : pw p 1 = blk * 0x1000000 + inst * 0x1000)
    (hinst : inst < 0x1000) (hwin : winExists blk inst = true) (hstop : stopped s (islandOf blk inst) = false) :
    replies (.statusRead p) p s St.SUCCESS
      [statusWord (s.win blk inst), (s.win blk inst).count, (s.win blk inst).first, (s.win blk inst).last] s := by
  obtain ⟨hdisp, -, hgate, -⟩ := hacc
  have hblk : pw p 1 / 0x1000000 = blk := by omega
  have hnum : pw p 1 / 0x1000 % 0x1000 = inst := by omega
  have hlow : pw p 1 % 0x1000 = 0 := by omega
  refine replies_of_exec rfl hdisp hgate ?_
  simp only [hblk, hnum, hlow, hwin, hstop, ne_eq, not_true_eq_false, Bool.not_true, Bool.false_eq_true, or_self, if_false, ok]

theorem win_completed (st : Nat) (res : List Nat) (b n : Nat) :
    ((freeCore s p).complete p.src (pTag p) st res).win b n = s.win b n := by
  obtain ⟨sent, cmd, vane, msh, h⟩ := complete_eq (freeCore s p) p.src (pTag p) st res
  rw [h]
  rfl

/-! Duplicate tags (R327, R330). -/

section
variable {q : Nat} {ws : List Nat}

theorem arriveOne_tag_of_op {o : Op} (ho : o ∈ s.cmd.ops) (hsrc : o.pkt.src = .sq q) (htag : pTag o.pkt = pTag ⟨.sq q, pad 16 ws⟩) :
    arriveOne q s ws = s.complete (.sq q) (pTag ⟨.sq q, pad 16 ws⟩) St.DUP_TAG [] false := by
  have hused : (s.cmd.ops.any fun o => o.pkt.src == .sq q && pTag o.pkt == pTag ⟨.sq q, pad 16 ws⟩) = true :=
    List.any_eq_true.2 ⟨o, ho, by simp [hsrc, htag]⟩
  simp only [arriveOne, hused, Bool.true_or, if_true]

theorem arriveOne_tag_of_refused {k : Nat} {e : Cq} {d : Cpl} (he : (k, e) ∈ s.cmd.cqs) (hd : d ∈ e.pend) (howns : d.owns = false)
    (hst : d.status = St.DUP_TAG) (hsrc : d.src = .sq q) (htag : d.tag = pTag ⟨.sq q, pad 16 ws⟩) :
    arriveOne q s ws = s.complete (.sq q) (pTag ⟨.sq q, pad 16 ws⟩) St.DUP_TAG [] false := by
  have hused : (s.cmd.cqs.any fun e => e.2.pend.any fun c =>
      !c.owns && c.status == St.DUP_TAG && c.src == .sq q && c.tag == pTag ⟨.sq q, pad 16 ws⟩) = true :=
    List.any_eq_true.2 ⟨(k, e), he, List.any_eq_true.2 ⟨d, hd, by simp [howns, hst, hsrc, htag]⟩⟩
  simp only [arriveOne, hused, Bool.true_or, Bool.or_true, if_true]

/-- A packet whose tag is free, and is not reserved for fault notices (R402), is an operation in flight. -/
theorem arriveOne_free (hops : ∀ o ∈ s.cmd.ops, o.pkt.src = .sq q → pTag o.pkt ≠ pTag ⟨.sq q, pad 16 ws⟩)
    (hcqs : ∀ e ∈ s.cmd.cqs, ∀ d ∈ e.2.pend, d.owns = false → d.status = St.DUP_TAG → d.src = .sq q →
      d.tag ≠ pTag ⟨.sq q, pad 16 ws⟩)
    (hnotice : pTag ⟨.sq q, pad 16 ws⟩ ≠ 0xFFF ∨ noticeQueue s q = false) : arriveOne q s ws = addOp s ⟨.sq q, pad 16 ws⟩ := by
  have hno : (s.cmd.ops.any fun o => o.pkt.src == .sq q && pTag o.pkt == pTag ⟨.sq q, pad 16 ws⟩) = false := by
    simpa using hops
  have hnc : (s.cmd.cqs.any fun e => e.2.pend.any fun c =>
      !c.owns && c.status == St.DUP_TAG && c.src == .sq q && c.tag == pTag ⟨.sq q, pad 16 ws⟩) = false := by
    simpa using hcqs
  have hnn : (pTag ⟨.sq q, pad 16 ws⟩ == 0xFFF && noticeQueue s q) = false := by
    simpa [imp_iff_not_or] using hnotice
  simp only [arriveOne, hno, hnc, hnn, Bool.or_self, Bool.false_eq_true, if_false]

end

end

/-- Settles O11: of the common checks that of the immediate path comes first (`gate_immediateSq`). -/
theorem immediateQueueTakesImmediateOnly : Obligations.ImmediateQueueTakesImmediateOnly := by
  intro c p code f s hpacket hdisp himm hcode
  obtain ⟨body, hrun⟩ := exec_of_packetOf s hpacket
  have hother : immediateOk code = false := by simpa [immediateOk] using hcode
  exact hrun.trans (runCmd_refused hdisp (gate_immediateSq himm hother))

/-- Settles O53: such a row answers the state it was given (`exec_readsOnly`), so that only its completion and the end of its reads
change anything. -/
theorem readingCommandsChangeNothing : Obligations.ReadingCommandsChangeNothing := by
  intro c p code f s t hpacket hcode hplain hsrc hdue hnext
  obtain ⟨body, hrun, hreads⟩ := exec_readsOnly hpacket hcode hplain
  cases hdisp : dispatched s p code with
  | false =>
    rw [hrun, runCmd_idle hdisp] at hnext
    cases hnext
    exact ⟨rfl, fun x => by simp⟩
  | true =>
    obtain ⟨st, res, hdone⟩ := runCmd_readsOnly hdisp hreads
    obtain ⟨cmd, hcmd⟩ := complete_local (s := freeCore s p) hsrc (pTag p) st res
    have hquiet : ({ freeCore s p with cmd := cmd } : State).due = [] := hdue
    rw [hrun, hdone, hcmd, done, settle_none hquiet] at hnext
    cases hnext
    exact ⟨rfl, fun x => by simpa using mem_xfers_freeCore⟩

/-- Settles O54: the three outcomes of a packet's arrival. -/
theorem duplicateTagRefused : Obligations.DuplicateTagRefused := by
  refine ⟨?_, ?_, ?_⟩
  · exact fun s q ws o ho hsrc htag => arriveOne_tag_of_op ho hsrc htag
  · exact fun s q ws k e c he hc howns hst hsrc htag => arriveOne_tag_of_refused he hc howns hst hsrc htag
  · exact fun s q ws hops hcqs hnotice => arriveOne_free hops hcqs hnotice

/-- Settles O55: the command answers the state it was given (`replies_statusRead`), and no completion writes a window. -/
theorem statusReadGivesItsWindow : Obligations.StatusReadGivesItsWindow := by
  intro s p blk inst hacc hinst hid hwin hstop hdue
  exact ⟨_, moves_of_replies (replies_statusRead hacc hid hinst hwin hstop) hdue, win_completed _ _, rfl⟩

end Sys2Proof.Machine
end

section
/-!
The queue registers (R316, R317, R319, R325): doorbells within their ring and beyond it, and queues that are enabled and disabled.
-/
namespace Sys2Proof.Machine
open Sys2Proof.Claims

section
variable {s : State} {q v : Nat}

theorem goes_sqTailDoorbell (hq : q < 64) (hbar : s.barOpen = true) : goes (.sqTailDoorbell q v) s (ringTail s q v) := if_pos ⟨hq, hbar⟩

theorem goes_cqHeadDoorbell (hq : q < 64) (hbar : s.barOpen = true) : goes (.cqHeadDoorbell q v) s (ringHead s q v) := if_pos ⟨hq, hbar⟩

theorem goes_sqEnableWrite {on : Bool} (hq : q < 64) (hbar : s.barOpen = true) :
    goes (.sqEnableWrite q on) s (setSqEnable s q on) := if_pos ⟨hq, hbar⟩

theorem goes_cqEnableWrite {on : Bool} (hq : q < 64) (hbar : s.barOpen = true) :
    goes (.cqEnableWrite q on) s (setCqEnable s q on) := if_pos ⟨hq, hbar⟩

/-- The index that a doorbell's low 12 bits give (R317). -/
theorem fld_ringIndex : fld v 0 12 = v % 4096 := by simp [fld]

theorem ringTail_within (hon : (s.sq q).enable = true) (hv : v % 4096 ≤ (s.sq q).size) :
    ringTail s q v = s.setSq q { s.sq q with tail := v % 4096 } := by
  simp [ringTail, fld_ringIndex, hon, Nat.not_lt.2 hv]

theorem ringTail_refused (h : (s.sq q).enable = false ∨ (s.sq q).size < v % 4096) : ringTail s q v = record s 0x0F 0 0x40 :=
  if_pos (by simpa [fld_ringIndex] using h)

/-- A completion queue once its head has moved: it is full no more where the move made room. -/
def headMoved (s : State) (q v : Nat) : State :=
  let k := { (cqWaits s q).cq q with head := v % 4096 }
  (cqWaits s q).setCq q { k with full := k.full && !cqRoom k }

theorem ringHead_within (hon : (s.cq q).enable = true) (hv : v % 4096 ≤ (s.cq q).size)
    (htail : (v % 4096 + ((s.cq q).size + 1) - (s.cq q).head) % ((s.cq q).size + 1) ≤
      ((s.cq q).tail + ((s.cq q).size + 1) - (s.cq q).head) % ((s.cq q).size + 1)) : ringHead s q v = headMoved s q v := by
  simp [ringHead, headMoved, ringLen, fld_ringIndex, hon, Nat.not_lt.2 hv, Nat.not_lt.2 htail]

theorem goes_cqHeadDoorbell_within (hq : q < 64) (hbar : s.barOpen = true) (hon : (s.cq q).enable = true)
    (hv : v % 4096 ≤ (s.cq q).size)
    (htail : (v % 4096 + ((s.cq q).size + 1) - (s.cq q).head) % ((s.cq q).size + 1) ≤
      ((s.cq q).tail + ((s.cq q).size + 1) - (s.cq q).head) % ((s.cq q).size + 1)) :
    goes (.cqHeadDoorbell q v) s (headMoved s q v) :=
  ringHead_within hon hv htail ▸ goes_cqHeadDoorbell hq hbar

theorem ringHead_refused (h : (s.cq q).enable = false ∨ (s.cq q).size < v % 4096) : ringHead s q v = record s 0x0F 0 0x40 := by
  refine if_pos ?_
  obtain hoff | hpast := h
  · exact .inl (by rw [hoff]; rfl)
  · exact .inr (.inl (fld_ringIndex.symm ▸ hpast))

theorem setSqEnable_starts (hcq : (s.cq (s.sq q).cq).enable = true) (hoff : (s.sq q).enable = false) :
    setSqEnable s q true = s.setSq q { s.sq q with enable := true, head := 0, tail := 0, fetching := 0, fault := false } := by
  simp [setSqEnable, hcq, hoff]

theorem setSqEnable_refused (hcq : (s.cq (s.sq q).cq).enable = false) : setSqEnable s q true = record s 0x0F 0 0x44 := by
  simp [setSqEnable, hlCause, hcq]

theorem setSqEnable_ends (hon : (s.sq q).enable = true) :
    setSqEnable s q false = flushQueue (s.setSq q { s.sq q with enable := false, fault := false, fetching := 0 }) q := by
  simp [setSqEnable, hon]

theorem setCqEnable_starts (hoff : (s.cq q).enable = false) : setCqEnable s q true =
    s.setCq q { s.cq q with enable := true, head := 0, tail := 0, phase := true, fault := false, full := false, unsig := 0 } := by
  simp [setCqEnable, hoff]

/-- A completion queue that an enabled submission queue names cannot be disabled (R316). -/
theorem setCqEnable_refused (hused : (s.cmd.sqs.any fun e => e.2.enable && e.2.cq == q) = true) :
    setCqEnable s q false = record s 0x0F 0 0x44 := by
  simp only [setCqEnable, Bool.false_eq_true, if_false, hused, if_true, hlCause]

/-- Where no completion waits, none is discarded and no operation leaves. -/
theorem setCqEnable_ends (hfree : (s.cmd.sqs.any fun e => e.2.enable && e.2.cq == q) = false) (hnone : (s.cq q).pend = []) :
    setCqEnable s q false = s.setCq q { s.cq q with enable := false, fault := false, full := false, unsig := 0 } := by
  have hops : (s.cmd.ops.filter fun o => !(([] : List Cpl).any fun c => c.owns && c.src == o.pkt.src && c.tag == pTag o.pkt)) =
      s.cmd.ops := List.filter_eq_self.2 fun _ _ => rfl
  simp only [setCqEnable, Bool.false_eq_true, if_false, hfree, hnone, hops, List.foldl_nil]

end

/-- Settles O33: each register's row comes to its write (`ringTail`, `ringHead`, `setSqEnable`, `setCqEnable`), which is taken or refused
by the state of its queue. -/
theorem queueRegisterRowsComplete : Obligations.QueueRegisterRowsComplete := by
  refine ⟨?_, ?_, ?_, ?_, ?_, ?_, ?_, ?_, ?_, ?_⟩
  · exact fun s q v hq hbar hon hv => ringTail_within hon hv ▸ goes_sqTailDoorbell hq hbar
  · exact fun s q v hq hbar h => ringTail_refused h ▸ goes_sqTailDoorbell hq hbar
  · exact fun s q v hq hbar hon hv htail => ⟨_, _, rfl, rfl, goes_cqHeadDoorbell_within hq hbar hon hv htail⟩
  · exact fun s q v hq hbar h => ringHead_refused h ▸ goes_cqHeadDoorbell hq hbar
  · exact fun s q hq hbar hcq hoff => setSqEnable_starts hcq hoff ▸ goes_sqEnableWrite hq hbar
  · exact fun s q hq hbar hcq => setSqEnable_refused hcq ▸ goes_sqEnableWrite hq hbar
  · exact fun s q hq hbar hon => setSqEnable_ends hon ▸ goes_sqEnableWrite hq hbar
  · exact fun s q hq hbar hoff => setCqEnable_starts hoff ▸ goes_cqEnableWrite hq hbar
  · exact fun s q hq hbar hused => setCqEnable_refused hused ▸ goes_cqEnableWrite hq hbar
  · exact fun s q hq hbar hfree hnone => setCqEnable_ends hfree hnone ▸ goes_cqEnableWrite hq hbar

end Sys2Proof.Machine
end

section
/-!
The command path (R318 to R328, R345, R354): fetches and arrivals, the dispatch of a command, the posting of completions, the interrupt
timer, the mailbox.
-/
namespace Sys2Proof.Machine
open Sys2Proof.Claims

section
variable {s : State} {n q va pa : Nat}

/-! PACKET_FETCH (R319, R327, R328, R396). -/

/-- A context in BYPASS translates no address (R397): it is its own bus address. -/
theorem reachBus_bypass (w : Waiter) (hmode : s.rd XLT.MODE n = 0) (write : Bool) : reachBus s w n va write = .go va := by
  have hnat : s.rdN XLT.MODE n = 0 := by rw [State.rdN, hmode]; rfl
  simp only [reachBus, xltInjected, hmode, translate, hnat, if_true]

/-- A queue has been served: its turn among those of its QPRIO has passed (R328). -/
def served (s : State) (n : Nat) : State :=
  { s with cmd := { s.cmd with lastSq := Bank.set (fun _ => 63) s.cmd.lastSq (s.sq n).qprio n } }

/-- The packets that may be fetched before the operations in flight reach their limits (R327). -/
def fetchRoom (s : State) (n : Nat) : Nat :=
  if (s.sq n).imm then 4096 - (inFlight s + fetchingNow s)
  else min (4096 - (inFlight s + fetchingNow s)) (4032 - (fwInFlight s + fwFetching s))

/-- The packets of a fetch: up to eight, not past the ring's tail or end nor a 4 KiB boundary (R328). -/
def fetchCount (s : State) (n : Nat) : Nat :=
  min (min 8 (fetchRoom s n)) (min (min (((s.sq n).tail + ringLen (s.sq n).size - (s.sq n).head) % ringLen (s.sq n).size)
    (ringLen (s.sq n).size - (s.sq n).head)) (64 - (s.sq n).head % 64))

theorem fetchCount_le_room (s : State) (n : Nat) : fetchCount s n ≤ fetchRoom s n := (Nat.min_le_left _ _).trans (Nat.min_le_right _ _)

theorem fetchCount_le_eight (s : State) (n : Nat) : fetchCount s n ≤ 8 := (Nat.min_le_left _ _).trans (Nat.min_le_left _ _)

theorem fetchCount_le_waiting (s : State) (n : Nat) :
    fetchCount s n ≤ ((s.sq n).tail + ((s.sq n).size + 1) - (s.sq n).head) % ((s.sq n).size + 1) :=
  (Nat.min_le_right _ _).trans ((Nat.min_le_left _ _).trans (Nat.min_le_left _ _))

theorem fetchRoom_le (s : State) (n : Nat) : fetchRoom s n ≤ 4096 - (inFlight s + fetchingNow s) := by
  unfold fetchRoom
  split
  · exact le_rfl
  · exact Nat.min_le_left _ _

theorem fetchRoom_le_ordinary (h : (s.sq n).imm = false) : fetchRoom s n ≤ 4032 - (fwInFlight s + fwFetching s) := by
  simp [fetchRoom, h]

theorem moves_packetFetch (hmbx : ¬(s.cmd.mbxWaiting = true ∧ mayFetch s false = true)) (hnext : nextSq s = some n)
    (hdma : s.dmaOpen = true) (hreach : reachBus (served s n) (.ring n) n ((s.sq n).base + 64 * (s.sq n).head) false = .go pa) :
    moves .packetFetch s (((served s n).setSq n { s.sq n with fetching := fetchCount s n }).request n
      (.hostRead n pa (64 * fetchCount s n))) := by
  refine (if_neg hmbx).trans ?_
  unfold served at hreach
  simp only [hnext, hdma, hreach, Bool.not_true, Bool.false_eq_true, if_false]
  rfl

theorem moves_packetFetch_mailbox (hwait : s.cmd.mbxWaiting = true) (hmay : mayFetch s false = true) :
    moves .packetFetch s (addOp { s with cmd := { s.cmd with mbxWaiting := false } } ⟨.mbx, s.cmd.mbxCmd⟩) := if_pos ⟨hwait, hmay⟩

/-! PACKET_ARRIVE (R318, R319, R354). -/

theorem not_idle_arrival (hq : q < 64) (hfetch : 0 < (s.sq q).fetching) : ¬(64 ≤ q ∨ (s.sq q).fetching = 0) := by omega

theorem goes_packetArrive {ps : List (List Nat)} (hq : q < 64) (hfetch : 0 < (s.sq q).fetching)
    (hall : ps.length = (s.sq q).fetching) : goes (.packetArrive q ps none) s (ps.foldl (arriveOne q) (s.setSq q { s.sq q with
      fetching := 0, head := ((s.sq q).head + ps.length) % ((s.sq q).size + 1) })) :=
  (if_neg (not_idle_arrival hq hfetch)).trans (if_neg (not_not_intro hall))

/-! What a fault of the host link leaves of the queues (R354): causes and the AER registers touch no queue. -/

theorem raise_eq (s : State) (v : Nat) : ∃ sent hl, s.raise v = { s with sent := sent, hl := hl } := by
  simp only [State.raise]
  split_ifs <;> exact ⟨_, _, rfl⟩

theorem countHit_eq (s : State) (blk inst : Nat) (h : Hit) (action : Nat) :
    ∃ sent wins hl, countHit s blk inst h action = { s with sent := sent, wins := wins, hl := hl } := by
  simp only [countHit]
  split
  · obtain ⟨sent, hl, hr⟩ := raise_eq (s.setWin blk inst _) _
    exact ⟨sent, _, hl, hr⟩
  · exact ⟨_, _, _, rfl⟩

theorem logHit_eq (s : State) (blk inst : Nat) (h : Hit) (action : Nat) :
    ∃ wins vane, logHit s blk inst h action = { s with wins := wins, vane := vane } := by
  simp only [logHit]
  split_ifs
  · exact ⟨_, _, rfl⟩
  · obtain ⟨vane, hv⟩ := logRec_eq (s.setWin blk inst _) _
    exact ⟨_, vane, hv⟩

theorem recordEach_eq (blk inst : Nat) (fixed : Option Nat) (l : List Hit) (s : State) : ∃ sent due wins hl vane,
    recordEach s blk inst fixed l = { s with sent := sent, due := due, wins := wins, hl := hl, vane := vane } := by
  induction l generalizing s with
  | nil => exact ⟨_, _, _, _, _, rfl⟩
  | cons h l ih =>
    obtain ⟨_, _, _, hcount⟩ := countHit_eq s blk inst h (hitAction s blk inst fixed h)
    obtain ⟨_, _, hlog⟩ := logHit_eq (countHit s blk inst h (hitAction s blk inst fixed h)) blk inst h (hitAction s blk inst fixed h)
    rw [hcount] at hlog
    simp only [recordEach, hcount, hlog]
    split
    all_goals
      obtain ⟨_, _, _, _, _, hrest⟩ := ih _
      exact ⟨_, _, _, _, _, hrest⟩

/-- Setting a cause changes windows, Vane's queue and interrupts, and may make a reaction due. -/
theorem record_eq (s : State) (blk inst code : Nat) (high : Bool) : ∃ sent due wins hl vane,
    record s blk inst code high = { s with sent := sent, due := due, wins := wins, hl := hl, vane := vane } := by
  unfold record recordHits
  split
  · exact ⟨_, _, _, _, _, rfl⟩
  · simp only [recordHistory]
    split
    · exact recordEach_eq _ _ _ _ _
    · obtain ⟨_, _, _, _, _, h⟩ := recordEach_eq blk inst none _ (s.setWin blk inst _)
      exact ⟨_, _, _, _, _, h⟩

theorem record_cmd (s : State) (blk inst code : Nat) (high : Bool) : (record s blk inst code high).cmd = s.cmd := by
  obtain ⟨_, _, _, _, _, h⟩ := record_eq s blk inst code high
  rw [h]

theorem drawMany_cmd (k : Nat) (s : State) : (drawMany k s).2.cmd = s.cmd := by
  induction k generalizing s with
  | zero => rfl
  | succ k ih => exact ih s.drawInt.2

theorem aerTakes_cmd (s : State) (k : Nat) : (aerTakes s k).cmd = s.cmd := by
  unfold aerTakes
  simp only [apply_ite State.cmd, State.emit_cmd, drawMany_cmd, ite_self]

theorem linkError_cmd (s : State) (k : Nat) : (linkError s k).cmd = s.cmd := by
  rw [linkError, record_cmd, aerTakes_cmd]
  rfl

theorem xltFault_cmd (s : State) (ctx va cause : Nat) : (xltFault s ctx va cause).cmd = s.cmd := by
  rw [xltFault, if_neg Bool.false_ne_true, record_cmd]
  rfl

theorem hostFaulted_cmd (s : State) (ctx va : Nat) (f : HostFault) : (hostFaulted s ctx va f).cmd = s.cmd := by
  simp only [hostFaulted]
  split_ifs
  · rw [xltFault_cmd, linkError_cmd]
    rfl
  · exact xltFault_cmd _ _ _ _

/-- A fetch whose read faults stops its queue (R319). -/
theorem goes_packetArrive_fault {ps : List (List Nat)} {f : HostFault} {u : State} (hq : q < 64) (hfetch : 0 < (s.sq q).fetching)
    (hon : (s.sq q).enable = true) (hclear : (s.sq q).fault = false)
    (hu : u = hostFaulted s q ((s.sq q).base + 64 * (s.sq q).head) (readStatus f)) :
    goes (.packetArrive q ps (some f)) s (record (u.setSq q { s.sq q with fetching := 0, fault := true }) 0x0F 0 0x41) := by
  have hsame : u.sq q = s.sq q := by rw [State.sq, hu, hostFaulted_cmd, State.sq]
  have hstops : ringFails u q = record (u.setSq q { s.sq q with fetching := 0, fault := true }) 0x0F 0 0x41 := by
    simp only [ringFails, hsame, hon, hclear, Bool.not_false, and_self, if_true]
  rw [← hstops, hu]
  exact if_neg (not_idle_arrival hq hfetch)

/-! COMMAND_DISPATCH (R328 to R331, R342, R541). -/

section
variable {o : Op}

/-- An operation has moved on to a stage. -/
def opStaged (s : State) (o : Op) (st : OpStage) : State :=
  { s with cmd := { s.cmd with ops := s.cmd.ops.map fun x => if x == o then { x with stage := st } else x } }

theorem not_idle_dispatch (hruns : stopped s .cmd = false) (hscan : s.tst.extest = false) :
    ¬(stopped s .cmd = true ∨ s.tst.extest = true) := by simp [hruns, hscan]

theorem moves_commandDispatch (hruns : stopped s .cmd = false) (hscan : s.tst.extest = false) (hnext : nextOp s = some o)
    (hlisted : listedOpcode (pOpcode o.pkt) = true)
    (htaken : immediateSq s o.pkt = true → immediateOk (pOpcode o.pkt) = true) :
    moves .commandDispatch s (judgedNow (opStaged s o .running) o.pkt) := by
  have hpath : ¬(immediateSq s o.pkt && !immediateOk (pOpcode o.pkt)) = true := by simpa using htaken
  refine (if_neg (not_idle_dispatch hruns hscan)).trans ?_
  simp only [hnext, if_neg hpath, hlisted, Bool.not_true, Bool.false_eq_true, if_false]
  rfl

theorem goes_commandDispatch_unlisted (hruns : stopped s .cmd = false) (hscan : s.tst.extest = false) (hnext : nextOp s = some o)
    (hunlisted : listedOpcode (pOpcode o.pkt) = false) (hpath : immediateSq s o.pkt = false) :
    goes .commandDispatch s ((opStaged s o .released).complete o.pkt.src (pTag o.pkt) St.BAD_OPCODE []) := by
  refine (if_neg (not_idle_dispatch hruns hscan)).trans ?_
  simp only [hnext, hpath, hunlisted, Bool.false_and, Bool.not_false, Bool.false_eq_true, if_false, if_true]
  rfl

end

/-! COMPLETION_POST (R319, R323 to R326). -/

section
variable {c : Cpl} {rest : List Cpl} {fault : Option HostFault}

theorem not_idle_post (hon : (s.cq q).enable = true) (hclear : (s.cq q).fault = false) (hdma : s.dmaOpen = true) (hq : q < 64)
    (hfree : awaits s (.post q) q = false) :
    ¬((!(s.cq q).enable) = true ∨ (s.cq q).fault = true ∨ (!s.dmaOpen) = true ∨ 64 ≤ q ∨ awaits s (.post q) q = true) := by
  simp [hon, hclear, hdma, hfree, hq]

/-- A completion queue whose oldest completion has been written (R323, R326). -/
def posted (s : State) (q : Nat) (rest : List Cpl) : Cq :=
  let k := s.cq q
  let tail := (k.tail + 1) % ringLen k.size
  { k with pend := rest, tail := tail, phase := if tail = 0 then !k.phase else k.phase, unsig := k.unsig + 1
           unsigAt := if k.unsig = 0 then s.clock else k.unsigAt, full := false }

theorem goes_completionPost (hpend : (s.cq q).pend = c :: rest) (hon : (s.cq q).enable = true) (hclear : (s.cq q).fault = false)
    (hdma : s.dmaOpen = true) (hq : q < 64) (hroom : cqRoom (s.cq q) = true) (hfree : awaits s (.post q) q = false)
    (hreach : reachBus s (.post q) q ((s.cq q).base + 32 * (s.cq q).tail) true = .go pa) :
    goes (.completionPost q fault) s (postOne s q pa c rest) := by
  show execCompletionPost q fault s = _
  simp only [execCompletionPost, hpend, if_neg (not_idle_post hon hclear hdma hq hfree), hroom, hreach, Bool.not_true,
    Bool.false_eq_true, if_false]
  rfl

theorem goes_completionPost_full (hpend : (s.cq q).pend ≠ []) (hon : (s.cq q).enable = true) (hclear : (s.cq q).fault = false)
    (hdma : s.dmaOpen = true) (hq : q < 64) (hfree : awaits s (.post q) q = false) (hfull : cqRoom (s.cq q) = false) :
    goes (.completionPost q fault) s (cqWaits s q) := by
  show execCompletionPost q fault s = _
  obtain ⟨c, rest, hcons⟩ := List.exists_cons_of_ne_nil hpend
  simp only [execCompletionPost, hcons, if_neg (not_idle_post hon hclear hdma hq hfree), hfull, Bool.not_false, if_true]
  rfl

/-- Completions that wait for room: FULL, and CQ_FULL for each that waits anew (R325). -/
theorem cqWaits_full (hpend : (s.cq q).pend ≠ []) (hon : (s.cq q).enable = true) (hclear : (s.cq q).fault = false)
    (hfull : cqRoom (s.cq q) = false) : cqWaits s q =
    ((s.cq q).pend.filter fun c => !c.waited).foldl (fun s _ => record s 0x0F 0 0x43)
      (s.setCq q { s.cq q with full := true, pend := (s.cq q).pend.map fun c => { c with waited := true } }) := by
  refine if_neg ?_
  simp [hpend, hon, hclear, hfull]

end

theorem moves_cqInterruptTimer (hq : q < 64) (hirq : (s.cq q).irqEn = true) (hsome : 0 < (s.cq q).unsig)
    (hdue : (s.cq q).unsigAt + 1000 * 2 ^ (s.cq q).coalTime ≤ s.clock) :
    moves (.cqInterruptTimer q) s ((s.setCq q { s.cq q with unsig := 0 }).raise (s.cq q).vector) := if_pos ⟨hq, hirq, hsome, hdue⟩

/-! MBX_GO (R345). -/

theorem goes_mbxGo (hbar : s.barOpen = true) : goes .mbxGo s (mbxGo s) := if_pos hbar

theorem mbxGo_free (hfree : s.cmd.mbxBusy = false) (hmay : mayFetch s false = true) :
    mbxGo s = addOp { s with cmd := { s.cmd with mbxBusy := true, mbxDone := false } } ⟨.mbx, pad 16 s.cmd.mbxCmd⟩ :=
  (if_neg (by simp [hfree])).trans (if_pos hmay)

theorem mbxGo_busy (hbusy : s.cmd.mbxBusy = true) : mbxGo s = record s 0x0F 0 0x40 := if_pos hbusy

end

/-- Settles O34: what each row does where its condition is met; a fetch is bounded by the room of the operations in flight
(`fetchRoom`), and a fault of its read leaves the queues as they are (`hostFaulted_cmd`). -/
theorem commandPathRowsComplete : Obligations.CommandPathRowsComplete := by
  refine ⟨?_, ?_, ?_, ?_, ?_, ?_, ?_, ?_, ?_, ?_, ?_⟩
  · intro s n u va pa hmbx hnext hdma hu hva hlimit hreach
    have hgo : reachBus u (.ring n) n va false = .go pa := by
      obtain ⟨hmode, rfl⟩ | hreach := hreach
      · exact reachBus_bypass _ (hu ▸ hmode) _
      · exact hreach
    have hroom := (fetchCount_le_room s n).trans (fetchRoom_le s n)
    subst hu hva
    refine ⟨fetchCount s n, fetchCount_le_eight s n, by omega, ?_, fetchCount_le_waiting s n, moves_packetFetch hmbx hnext hdma hgo⟩
    cases himm : (s.sq n).imm with
    | true => exact .inl rfl
    | false => exact .inr ((fetchCount_le_room s n).trans (fetchRoom_le_ordinary himm))
  · exact fun s hwait hmay => moves_packetFetch_mailbox hwait hmay
  · exact fun s q ps fault hq hfetch hall hnone => hnone ▸ goes_packetArrive hq hfetch hall
  · exact fun s q ps f hq hfetch hon hclear => ⟨_, rfl, goes_packetArrive_fault hq hfetch hon hclear rfl⟩
  · exact fun s o hruns hscan hnext hlisted htaken => moves_commandDispatch hruns hscan hnext hlisted htaken
  · exact fun s o hruns hscan hnext hunlisted hpath => goes_commandDispatch_unlisted hruns hscan hnext hunlisted hpath
  · intro s q n c rest fault pa va hpend hsrc hon hclear hdma hq hroom hfree hva hreach
    have hgo : reachBus s (.post q) q va true = .go pa := by
      obtain ⟨hmode, rfl⟩ | hreach := hreach
      · exact reachBus_bypass _ hmode _
      · exact hreach
    have hpost := goes_completionPost (fault := fault) hpend hon hclear hdma hq hroom hfree (hva ▸ hgo)
    simp only [postOne, hsrc] at hpost
    exact ⟨posted s q rest, _, rfl, rfl, rfl, rfl, rfl, rfl, rfl, hpost⟩
  · exact fun s q fault hpend hon hclear hdma hq hfree hfull =>
      ⟨_, rfl, cqWaits_full hpend hon hclear hfull ▸ goes_completionPost_full hpend hon hclear hdma hq hfree hfull⟩
  · exact fun s q hq hirq hsome hdue => moves_cqInterruptTimer hq hirq hsome hdue
  · exact fun s hbar hfree hmay => mbxGo_free hfree hmay ▸ goes_mbxGo hbar
  · exact fun s hbar hbusy => mbxGo_busy hbusy ▸ goes_mbxGo hbar

end Sys2Proof.Machine
end

section
/-!
The common commands (R333 to R340): parameter reads and writes, SET_NOW, TRIGGER, ABORT, NOW_RESERVE.
-/
namespace Sys2Proof.Machine
open Sys2Proof.Claims

section
variable {s t : State} {p : Pkt} {d : HostData} {wr : Option HostFault} {id : Nat} {r : PRef} {ws : List Nat}

theorem replies_nop (hacc : accepted (.nop p) s) : replies (.nop p) p s St.SUCCESS [] s := by
  obtain ⟨hdisp, -, hgate, -⟩ := hacc
  exact replies_of_exec rfl hdisp hgate rfl

theorem replies_identify (hacc : accepted (.identify p) s) (hpage : identityPage s (pw p 2) = some ws) :
    replies (.identify p) p s St.SUCCESS ws s := by
  obtain ⟨hdisp, -, hgate, -⟩ := hacc
  refine replies_of_exec rfl hdisp hgate ?_
  simp only [hpage, ok]

/-! PARAM_GET (R339). -/

/-- An ID names a parameter whose island runs. -/
def readable (s : State) (id : Nat) : Prop := ∃ r, findPrm id = some r ∧ stopped s (islandOf r.prm.blk r.inst) = false

/-- The words that PARAM_GET answers for an ID. -/
def paramWords (s : State) (id : Nat) : List Nat :=
  match findPrm id with
  | some r => valueWords (readPrm s r)
  | none => []

theorem getParam_readable (h : readable s id) : getParam s id = .ok (paramWords s id) := by
  obtain ⟨r, hfind, hstop⟩ := h
  simp only [getParam, paramWords, hfind, hstop, Bool.false_eq_true, if_false]

theorem getParams_readable (ids : List Nat) (i : Nat) (h : ∀ id ∈ ids, readable s id) :
    getParams s i ids = .ok (ids.flatMap (paramWords s)) := by
  induction ids generalizing i with
  | nil => rfl
  | cons id ids ih =>
    obtain ⟨hid, hids⟩ := List.forall_mem_cons.1 h
    simp only [getParams, getParam_readable hid, ih (i + 1) hids, List.flatMap_cons]

theorem replies_paramGet (hacc : accepted (.paramGet p d wr) s) (hplain : pPtr p = false) (hfind : findPrm (pw p 1) = some r)
    (hstop : stopped s (islandOf r.prm.blk r.inst) = false) :
    replies (.paramGet p d wr) p s St.SUCCESS (valueWords (readPrm s r)) s := by
  obtain ⟨hdisp, -, hgate, -⟩ := hacc
  refine replies_of_exec rfl hdisp hgate ((withBlock_plain hplain).trans ?_)
  simp only [hplain, getParam_readable ⟨r, hfind, hstop⟩, paramWords, hfind, Bool.false_eq_true, if_false, ok]

theorem length_pad (n : Nat) (ws : List Nat) : (pad n ws).length = n := by simp [pad]

/-- A pointer block that host memory has given goes to the command (R321, R322). -/
theorem withBlock_given {f : Form} {body : List Nat → Res} (hptr : pPtr p = true) (hgives : hostGives s p d ws)
    (hres : reservedSet p f = false) : withBlock s p f d body = body ws := by
  obtain ⟨rfl, x, hx, hleft⟩ := hgives
  exact withBlock_words hptr hx hleft hres

theorem waits_paramGet (hacc : accepted (.paramGet p d wr) s) (hptr : pPtr p = true) (halign : pw p 5 % 16 = 0)
    (hgives : hostGives s p d ws) (hall : ∀ id ∈ pad (pw p 4 / 4) ws, readable s id) :
    waits (.paramGet p d wr) p s
      (writing s p (pw64 p 5) ((pad (pw p 4 / 4) ws).flatMap (paramWords s)) (.plain [])) := by
  obtain ⟨hdisp, hread, hgate, hres⟩ := hacc
  refine waits_of_exec rfl hdisp hgate ((withBlock_given hptr hgives hres).trans ?_) (stillReads_writing hread)
  simp only [hptr, halign, getParams_readable _ 0 hall, ne_eq, not_true_eq_false, if_true, if_false]
  rfl

/-! PARAM_SET (R11, R78, R339, R340). -/

theorem replies_paramSet (hacc : accepted (.paramSet p d) s) (hplain : pPtr p = false)
    (happly : applyWrites s (lcFor s p) [(pw p 1, rawValue (p.words.drop 2))] = .ok (t, 0)) :
    replies (.paramSet p d) p s St.SUCCESS [] t := by
  obtain ⟨hdisp, -, hgate, -⟩ := hacc
  refine replies_of_exec rfl hdisp hgate ((withBlock_plain hplain).trans ?_)
  simp only [hplain, happly, Bool.false_eq_true, if_false]
  rfl

/-- A write whose setpoint waits for the rails reports the delay (R78). -/
theorem replies_paramSet_delayed {n : Nat} (hacc : accepted (.paramSet p d) s) (hplain : pPtr p = false) (hdelay : 0 < n)
    (happly : applyWrites s (lcFor s p) [(pw p 1, rawValue (p.words.drop 2))] = .ok (t, n)) :
    replies (.paramSet p d) p s St.SUCCESS_WARN [0, 0, 0, n] t := by
  obtain ⟨hdisp, -, hgate, -⟩ := hacc
  refine replies_of_exec rfl hdisp hgate ((withBlock_plain hplain).trans ?_)
  simp only [hplain, happly, Bool.false_eq_true, if_false]
  exact if_neg hdelay.ne'

theorem setList_whole {lc : Nat} {es : List (Nat × Bool × Nat)} (hgood : ∀ e ∈ es, e.2.1 = true)
    (happly : applyWrites s lc (es.map fun e => (e.1, e.2.2)) = .ok (t, 0)) : setList s lc es = ok t := by
  have hall : (es.takeWhile fun e => e.2.1) = es := List.takeWhile_eq_self_iff.2 hgood
  simp only [setList, hall, happly, Nat.lt_irrefl, if_false]
  rfl

theorem replies_paramSet_list (hacc : accepted (.paramSet p d) s) (hptr : pPtr p = true) (hgives : hostGives s p d ws)
    (hgood : ∀ e ∈ listEntries (pw p 4 / 24) ws, e.2.1 = true)
    (happly : applyWrites s (lcFor s p) ((listEntries (pw p 4 / 24) ws).map fun e => (e.1, e.2.2)) = .ok (t, 0)) :
    replies (.paramSet p d) p s St.SUCCESS [] t := by
  obtain ⟨hdisp, -, hgate, hres⟩ := hacc
  exact replies_of_exec rfl hdisp hgate
    ((withBlock_given hptr hgives hres).trans ((if_pos hptr).trans (setList_whole hgood happly)))

/-! Parameters whose write only stores the value (R11). -/

theorem mem_of_findIn {inst n : Nat} {ps : List Prm} (h : findIn inst n ps = some r) : r.prm ∈ ps := by
  induction ps with
  | nil => exact absurd h (by simp [findIn])
  | cons q ps ih =>
    simp only [findIn] at h
    split at h
    · cases h
      exact List.mem_cons_self
    · exact List.mem_cons_of_mem _ (ih h)

/-- The parameter that an ID names is one of the ID's block (R12). -/
theorem mem_prmsOf_of_findPrm (h : findPrm id = some r) : r.prm ∈ prmsOf (id / 0x1000000) := by
  simp only [findPrm] at h
  split at h
  · split at h
    · next hfind =>
      split at h
      · cases h
      · cases h
        exact mem_of_findIn hfind
    · cases h
  · cases h

theorem blk_of_mem_prmsOf_one {q : Prm} (h : q ∈ prmsOf 1) : q.blk = 1 := by
  revert q
  decide

/-- The blocks of such parameters: the timebase, translation, Vane and the host link. -/
theorem blk_of_storesOnly (h : storesOnly r = true) : r.prm.blk = 7 ∨ r.prm.blk = 10 ∨ r.prm.blk = 13 ∨ r.prm.blk = 15 := by
  simp only [storesOnly, PRef.is, Bool.and_eq_true, Bool.or_eq_true, beq_iff_eq] at h
  obtain ⟨-, ((h7 | ⟨h10, -⟩) | ⟨⟨h13, -⟩, -⟩) | ⟨h15, -⟩⟩ := h
  · exact .inl h7
  · exact .inr (.inl h10)
  · exact .inr (.inr (.inl h13))
  · exact .inr (.inr (.inr h15))

/-- None of them is a precision channel's, whose writes meet the power budget (R79). -/
theorem weighs_storesOnly {raw : Nat} (hfind : findPrm id = some r) (h : storesOnly r = true) : weighs (id, raw) = false := by
  refine beq_eq_false_iff_ne.2 fun hone => ?_
  have hmem := mem_prmsOf_of_findPrm hfind
  rw [hone] at hmem
  have := blk_of_storesOnly h
  have := blk_of_mem_prmsOf_one hmem
  omega

/-- Calibration values are not among them: their writes do more (R439). -/
theorem not_cal_of_storesOnly (h : storesOnly r = true) : ¬(isCoef r.id = true ∨ isDeskew r.id = true ∨ isRef r.id = true) := by
  simp only [storesOnly, Bool.and_eq_true, Bool.not_eq_true'] at h
  simp [h.1]

theorem writeBlock_storesOnly {lc : Nat} {fin : Nat → Int} {v : Int} (h : storesOnly r = true) :
    writeBlock s lc fin r v = ack (r.put s v) := by
  simp only [storesOnly, PRef.is, Bool.and_eq_true, Bool.or_eq_true, beq_iff_eq] at h
  obtain ⟨-, ((h7 | ⟨h10, hnum⟩) | ⟨⟨h13, hctl⟩, hthr⟩) | ⟨h15, hboot⟩⟩ := h
  · simp only [writeBlock, h7]
  · have h10 : r.prm.blk = 10 := h10
    simp only [writeBlock, h10, writeXlt, hnum, if_true]
  · have hctl : r.prm.num ≠ VANE.MON_CTL.num := by simpa [h13, VANE.MON_CTL] using hctl
    have hthr : r.prm.num ≠ VANE.MON_THR.num := by simpa [h13, VANE.MON_THR] using hthr
    simp only [writeBlock, h13, writeVane, if_neg hctl, if_neg hthr]
  · have hboot : r.prm.num ≠ HL.LB_BOOT.num := by simpa [h15, HL.LB_BOOT] using hboot
    simp only [writeBlock, h15, writeHl, if_neg hboot]

theorem writeParam_storesOnly {lc raw : Nat} {fin : Nat → Int} {v : Int} (hfind : findPrm id = some r) (h : storesOnly r = true)
    (hacc : r.prm.acc = .rw) (hstop : stopped s (islandOf r.prm.blk r.inst) = false) (hv : decodeValue r.prm raw = some v)
    (hin : r.prm.accepts v = true) : writeParam s lc fin id raw = ack (r.put s v) := by
  simp only [writeParam, hfind, hacc, hv, hin, hstop, if_neg (not_cal_of_storesOnly h), writeBlock_storesOnly h, Bool.not_true,
    Bool.false_eq_true, reduceCtorEq, if_false]

theorem applyWrites_storesOnly {lc raw : Nat} {v : Int} (hfind : findPrm id = some r) (h : storesOnly r = true)
    (hacc : r.prm.acc = .rw) (hstop : stopped s (islandOf r.prm.blk r.inst) = false) (hv : decodeValue r.prm raw = some v)
    (hin : r.prm.accepts v = true) :
    applyWrites s lc [(id, raw)] = .ok (adoptTicks s (s.wr r.prm r.inst r.idx v), 0) := by
  simp only [applyWrites, writeEach, writeParam_storesOnly hfind h hacc hstop hv hin, ack, List.any_cons, List.any_nil,
    weighs_storesOnly hfind h, Bool.or_self, Bool.false_eq_true, if_false]
  rfl

/-! SET_NOW (R78, R333, R334). -/

section
variable {c n : Nat} {v : Int}

/-- SETPOINT holds a value that waits for the rails, or is taken at the next boundary. -/
def nowSet (s : State) (c : Nat) (v : Int) (waitSet : Option Int) : State :=
  let u := s.cput FCH.SETPOINT HVC.SETPOINT c v
  u.setCh c { u.ch c with
    parVr := if c < 128 then s.rdN FCH.VRANGE c else 4
    parIr := if (u.ch c).irNew then (s.crd FCH.IRANGE HVC.IRANGE c).toNat else (u.ch c).irTarget
    waitSet := waitSet, rampNew := true }

/-- The loop cycles that a setpoint waits for the rails (R78). -/
def nowDelay (s : State) (c : Nat) (v : Int) : Nat :=
  if connected (s.chState c) = true ∧ (s.ch c).motion ≠ .ramping then setpointDelay s c v else 0

/-- What SET_NOW asks of a channel and its value (R22, R40, R71, R140, R334, R565). -/
structure NowGranted (s : State) (c : Nat) (v : Int) : Prop where
  range : iabs v ≤ 4194304
  runs : stopped s (chanIsland c) = false
  free : owned s c = false
  shed : shedding s = false ∨ iabs v ≤ iabs (s.setpoint c)
  r71 : r71Holds s c (s.onMode c) v (s.rdN FCH.VRANGE c) = true
  ceiling : 128 ≤ c ∨ (iabs v).toNat ≤ ceilingOf s c

theorem setSetpoint_now (h : NowGranted s c v) : setSetpoint s c v true =
    let d := nowDelay s c v
    let t := nowSet s c v (if 0 < d then some v else none)
    .ok (if 0 < d then aimRails t (groupOf c) else touch t c, d) := by
  obtain ⟨hv, hstop, hown, hshed, h71, hceil⟩ := h
  have hrange : ¬(v < -4194304 ∨ 4194304 < v) := by have := iabs_le_iff.1 hv; omega
  have hless : ¬(shedding s = true ∧ iabs (s.setpoint c) < iabs v) := by
    rintro ⟨hs, hlt⟩
    obtain hno | hle := hshed
    · simp [hs] at hno
    · omega
  have hunder : ¬(True ∧ c < 128 ∧ ceilingOf s c < (iabs v).toNat) := by omega
  simp only [setSetpoint, if_neg hrange, hstop, hown, h71, if_neg hless, if_neg hunder, Bool.not_true, Bool.false_eq_true,
    if_false, if_true]
  rfl

theorem replies_setNow (hacc : accepted (.setNow p) s) (hchan : setpointChan (pw p 1) = some c) (hv : v = sfld 24 (pw p 2))
    (hword : toField 32 v = pw p 2) (h : NowGranted s c v) (hdelay : nowDelay s c v = 0) :
    replies (.setNow p) p s St.SUCCESS [lo32 (s.now + 125), hi32 (s.now + 125)] (touch (nowSet s c v none) c) := by
  obtain ⟨hdisp, -, hgate, -⟩ := hacc
  refine replies_of_exec rfl hdisp hgate ?_
  simp only [hchan, ← hv, hword, setSetpoint_now h, hdelay, ne_eq, not_true_eq_false, Nat.lt_irrefl, if_false, if_true, ok, Nat.mul_zero,
    Nat.add_zero]

theorem replies_setNow_delayed (hacc : accepted (.setNow p) s) (hchan : setpointChan (pw p 1) = some c)
    (hv : v = sfld 24 (pw p 2)) (hword : toField 32 v = pw p 2) (h : NowGranted s c v) (hdelay : nowDelay s c v = n) (hn : 0 < n) :
    replies (.setNow p) p s St.SUCCESS_WARN [lo32 (s.now + 125 + 125 * n), hi32 (s.now + 125 + 125 * n), 0, n]
      (aimRails (nowSet s c v (some v)) (groupOf c)) := by
  obtain ⟨hdisp, -, hgate, -⟩ := hacc
  refine replies_of_exec rfl hdisp hgate ?_
  simp only [hchan, ← hv, hword, setSetpoint_now h, hdelay, ne_eq, not_true_eq_false, hn, hn.ne', if_false, if_true]

/-- No setpoint waits on a channel that is off, or ramps, or whose rails suffice. -/
theorem nowDelay_none (h : connected (s.chState c) = false ∨ (s.ch c).motion = .ramping ∨ setpointDelay s c v = 0) :
    nowDelay s c v = 0 := by
  unfold nowDelay
  split
  · next hon =>
    obtain ⟨hconn, hmotion⟩ := hon
    obtain hoff | hramp | hnone := h
    · simp [hconn] at hoff
    · exact absurd hramp hmotion
    · exact hnone
  · rfl

end

/-! TRIGGER (R22, R335). -/

/-- The inputs that TRIGGER selects. -/
def triggerInputs (p : Pkt) : List Nat :=
  (maskBits 17 (pw p 2)).map (0x50 + ·) ++ (maskBits 17 (pw p 3)).map (4 * ·) ++ (maskBits 2 (pw p 4)).map (0x48 + 2 * ·)

theorem replies_trigger (hacc : accepted (.trigger p) s) (hruns : ∀ n ∈ triggerInputs p, conStopped s n = false) :
    replies (.trigger p) p s St.SUCCESS [lo32 s.systime, hi32 s.systime]
      ((triggerInputs p).foldl (fun s n => deliver s n 0 s.clockFine false) s) := by
  obtain ⟨hdisp, -, hgate, -⟩ := hacc
  have hnone : ¬(triggerInputs p).any (conStopped s) = true := by simpa using hruns
  exact replies_of_exec rfl hdisp hgate (if_neg hnone)

theorem replies_trigger_stopped {n : Nat} (hacc : accepted (.trigger p) s) (hn : n ∈ triggerInputs p)
    (hstop : conStopped s n = true) : replies (.trigger p) p s St.ISLAND_STOPPED [] s := by
  obtain ⟨hdisp, -, hgate, -⟩ := hacc
  have hsome : (triggerInputs p).any (conStopped s) = true := List.any_eq_true.2 ⟨n, hn, hstop⟩
  exact replies_of_exec rfl hdisp hgate (if_pos hsome)

/-! ABORT (R22, R336). -/

/-- The engines and sequencers that ABORT selects have ended. -/
def selectedAborted (s : State) (p : Pkt) : State :=
  (maskBits 2 (pw p 3)).foldl (parkIfBusy 4) ((maskBits 17 (pw p 2)).foldl (fun s e => bringForward (abortEngine s e) e) s)

theorem abortStopped_iff : abortStopped s p = true ↔ (∃ e, e ∈ maskBits 17 (pw p 2) ∧ stopped s (engineIsland e) = true) ∨
    ∃ d, d ∈ maskBits 2 (pw p 3) ∧ stopped s (.seq d) = true := by
  simp [abortStopped]

theorem replies_abort_stopped (hacc : accepted (.abort p) s) (hstop : abortStopped s p = true) :
    replies (.abort p) p s St.ISLAND_STOPPED [] s := by
  obtain ⟨hdisp, -, hgate, -⟩ := hacc
  exact replies_of_exec rfl hdisp hgate (if_pos hstop)

theorem replies_abort (hacc : accepted (.abort p) s) (hruns : abortStopped s p = false) (hnone : abortTarget p = none) :
    replies (.abort p) p s St.SUCCESS [0] (selectedAborted s p) := by
  obtain ⟨hdisp, -, hgate, -⟩ := hacc
  refine replies_of_exec rfl hdisp hgate ?_
  simp only [hruns, hnone, Bool.false_eq_true, if_false]
  rfl

theorem replies_abort_operation {src : Src} {tag : Nat} (hacc : accepted (.abort p) s) (hruns : abortStopped s p = false)
    (htarget : abortTarget p = some (src, tag)) (hends : abortOp (selectedAborted s p) src tag = some t) :
    replies (.abort p) p s St.SUCCESS [3] t := by
  obtain ⟨hdisp, -, hgate, -⟩ := hacc
  unfold selectedAborted at hends
  refine replies_of_exec rfl hdisp hgate ?_
  simp only [hruns, htarget, hends, Bool.false_eq_true, if_false, ok]

theorem maskBits_zero (n : Nat) : maskBits n 0 = [] := by simp [maskBits, bit]

/-! NOW_RESERVE (R79, R334). -/

theorem replies_nowReserve {c : Nat} (hacc : accepted (.nowReserve p) s) (htarget : targetInst p 1 = some c) (hmax : pw p 2 ≤ 4194304)
    (hstop : stopped s (chanIsland c) = false)
    (ht : t = { s with cmd := { s.cmd with ceilings := Bank.set (fun _ => 0) s.cmd.ceilings c (pw p 2) } })
    (hbud : budgetAllows s (t.setCh c (t.ch c)) c) :
    replies (.nowReserve p) p s St.SUCCESS [] (reported (t.setCh c (t.ch c)) c) := by
  obtain ⟨hdisp, -, hgate, -⟩ := hacc
  have hgrant := grantCh_allowed hbud
  rw [ht] at hgrant ⊢
  refine replies_of_exec rfl hdisp hgate ?_
  simp only [htarget, Nat.not_lt.2 hmax, hstop, Bool.false_eq_true, if_false, hgrant, ok]

end

/-- Settles O35: the checks of each command pass under the premises. -/
theorem commonCommandsComplete : Obligations.CommonCommandsComplete := by
  refine ⟨?_, ?_, ?_, ?_, ?_, ?_, ?_, ?_, ?_, ?_, ?_, ?_, ?_, ?_, ?_, ?_⟩
  · exact fun s p hacc => replies_nop hacc
  · exact fun s p ws hacc hpage => replies_identify hacc hpage
  · exact fun s p d wr r hacc hplain hfind hstop => replies_paramGet hacc hplain hfind hstop
  · intro s p d wr ws out hacc hptr halign hgives hall hout
    subst hout
    refine waits_paramGet hacc hptr halign hgives fun id hid => ?_
    obtain ⟨i, hi, hget⟩ := List.getElem_of_mem hid
    exact hall id i (by simpa only [length_pad] using hi) (by rw [List.getD_eq_getElem _ _ hi, hget])
  · exact fun s p d r v hacc hplain hfind hstores hrw hstop hv hin =>
      replies_paramSet hacc hplain (applyWrites_storesOnly hfind hstores hrw hstop hv hin)
  · exact fun s p d t hacc hplain happly => replies_paramSet hacc hplain happly
  · exact fun s p d t n hacc hplain hdelay happly => replies_paramSet_delayed hacc hplain hdelay happly
  · exact fun s p d ws t hacc hptr hgives hgood happly => replies_paramSet_list hacc hptr hgives hgood happly
  · intro s p c v u hacc hchan hv hword hrange hstop hown hshed h71 hceil hu
    have hgranted : NowGranted s c v := ⟨hrange, hstop, hown, hshed, h71, hceil⟩
    subst hu
    refine ⟨fun hnone => replies_setNow hacc hchan hv hword hgranted (nowDelay_none hnone), ?_⟩
    exact fun n hconn hmotion hdelay hn =>
      replies_setNow_delayed hacc hchan hv hword hgranted ((if_pos ⟨hconn, hmotion⟩).trans hdelay) hn
  · rintro s p ns hacc rfl hruns
    exact replies_trigger hacc hruns
  · exact fun s p n hacc hn hstop => replies_trigger_stopped hacc hn hstop
  · intro s p hacc hbit hengines hseqs
    have hruns : abortStopped s p = false := by simpa [abortStopped] using ⟨hengines, hseqs⟩
    exact replies_abort hacc hruns (by simp [abortTarget, hbit])
  · exact fun s p hacc hstop => replies_abort_stopped hacc (abortStopped_iff.2 hstop)
  · intro s p src tag t hacc h2 h3 htarget hends
    have hruns : abortStopped s p = false := by simp [abortStopped, h2, h3, maskBits_zero]
    have hsame : selectedAborted s p = s := by simp [selectedAborted, h2, h3, maskBits_zero]
    exact replies_abort_operation hacc hruns htarget (hsame.symm ▸ hends)
  · exact fun s p blk inst hacc hid hinst hwin hstop => replies_statusRead hacc hid hinst hwin hstop
  · exact fun s p c t hacc htarget hmax hstop ht hbud => replies_nowReserve hacc htarget hmax hstop ht hbud

end Sys2Proof.Machine
end

section
/-!
What power and the life cycle keep and bar: the fuse of SCRAPPED (R515, R525), and the opcodes that SCRAPPED and an erasure leave
(R522, R525).
-/
namespace Sys2Proof.Machine
open Sys2Proof.Claims

section
variable {s : State} {p : Pkt} {code : Nat} {f : Form}

theorem gate_scrapped (himm : immediateSq s p = false) (hlc : lcFor s p = 4) (hcode : scrappedOk code = false) :
    gate s p code f = some St.LC_DENIED := by
  unfold gate
  rw [if_neg (fun h => Bool.false_ne_true (himm.symm.trans h.1)), if_pos ⟨hlc, by rw [hcode]; rfl⟩]

theorem gate_erasing (himm : immediateSq s p = false) (hlc : lcFor s p ≠ 4) (herase : s.rd LC.ERASE_PENDING = 1)
    (hcode : erasingOk code = false) : gate s p code f = some St.WRONG_STATE := by
  unfold gate
  rw [if_neg (fun h => Bool.false_ne_true (himm.symm.trans h.1)), if_neg (fun h => hlc h.1), if_pos ⟨herase, by rw [hcode]; rfl⟩]

end

/-- Settles O7: a step keeps a blown fuse (`kept_step`). -/
theorem scrapFuseStaysBlown : Obligations.ScrapFuseStaysBlown := by
  intro s t hcanon hblown hstep
  have hkept := kept_step hcanon
  rw [hstep, hblown] at hkept
  exact Kept.fuse hkept rfl

/-- Settles O9: of the common checks only that of the immediate path comes before the one of SCRAPPED (`gate_scrapped`). -/
theorem scrappedDeniesOtherOpcodes : Obligations.ScrappedDeniesOtherOpcodes := by
  intro c p code f s hpacket hdisp hlc hcode himm
  obtain ⟨body, hrun⟩ := exec_of_packetOf s hpacket
  have hother : scrappedOk code = false := by simpa [scrappedOk] using hcode
  exact hrun.trans (runCmd_refused hdisp (gate_scrapped himm hlc hother))

/-- Settles O10: out of SCRAPPED the check of an erasure comes next (`gate_erasing`). -/
theorem erasureBarsOtherOpcodes : Obligations.ErasureBarsOtherOpcodes := by
  intro c p code f s hpacket hdisp hlc herase hcode himm
  obtain ⟨body, hrun⟩ := exec_of_packetOf s hpacket
  have hother : erasingOk code = false := by simpa [erasingOk] using hcode
  exact hrun.trans (runCmd_refused hdisp (gate_erasing himm hlc herase hother))

end Sys2Proof.Machine
end

section
/-!
What the setting of one real cause writes (R462, R465, R466).
-/
namespace Sys2Proof.Machine
open Sys2Proof.Claims

section
variable {s : State} {blk inst code : Nat} {high : Bool} {c : Cause} {h : Hit} {a : Nat}

@[simp] theorem State.win_logRec (s : State) (r : Rec) (b n : Nat) : (s.logRec r).win b n = s.win b n := by
  obtain ⟨vane, hlog⟩ := logRec_eq s r
  rw [hlog]; rfl

@[simp] theorem State.win_raise (s : State) (v b n : Nat) : (s.raise v).win b n = s.win b n := by
  obtain ⟨sent, hl, hraise⟩ := raise_eq s v
  rw [hraise]; rfl

/-- A window with one setting counted. -/
def Win.counted (w : Win) (blk : Nat) (h : Hit) : Win :=
  { w.flag (hitSev blk h) with injected := w.injected || h.inj, count := min (w.count + 1) 0xFFFFFFFF }

theorem win_countHit (s : State) (blk inst : Nat) (h : Hit) (a b n : Nat) : (countHit s blk inst h a).win b n =
    if winKey b n = winKey blk inst then (s.win blk inst).counted blk h else s.win b n := by
  simp only [countHit]
  split
  · rw [State.win_raise, State.win_setWin]; rfl
  · rw [State.win_setWin]; rfl

/-- A log record touches nothing of its window but what keeps count of the records. -/
theorem win_logHit (s : State) (blk inst : Nat) (h : Hit) (a : Nat) : ∃ logged, ∀ b n, (logHit s blk inst h a).win b n =
    if winKey b n = winKey blk inst then { s.win blk inst with logged := logged } else s.win b n := by
  simp only [logHit]
  split_ifs
  · exact ⟨_, fun b n => State.win_setWin _ _ _ _ _ _⟩
  · exact ⟨_, fun b n => (State.win_logRec _ _ _ _).trans (State.win_setWin _ _ _ _ _ _)⟩

/-- A window that holds the setting of a hit with an action in its history. -/
def historyWin (s : State) (blk : Nat) (w : Win) (a : Nat) (h : Hit) : Win :=
  if beaten s blk w h then w
  else { w with
    top := some h, topAt := s.clock, last := causeWord (hitSev blk h) h.inj a h.code
    first := if firstOpen s w then causeWord (hitSev blk h) h.inj a h.code else w.first
    firstTime := if firstOpen s w then s.now else w.firstTime }

theorem win_recordHistory (s : State) (blk inst : Nat) (fixed : Option Nat) (h : Hit) (b n : Nat) :
    (recordHistory s blk inst fixed h).win b n =
      if winKey b n = winKey blk inst then historyWin s blk (s.win blk inst) (hitAction s blk inst fixed h) h else s.win b n := by
  simp only [recordHistory, historyWin]
  split
  · split
    · next hkey => rw [State.win, State.win, hkey]
    · rfl
  · exact State.win_setWin _ _ _ _ _ _

/-- The setting of one real cause that its block has: its history, its count, its record and what falls due. -/
theorem record_of_cause (hcause : findCause blk code = some c) (hh : h = { code := code, high := high }) : ∃ a due,
    record s blk inst code high =
      { logHit (countHit (recordHistory s blk inst none h) blk inst h a) blk inst h a with due := due } := by
  subst hh
  have hkeep : ([{ code := code, high := high }] : List Hit).filter (fun h => (findCause blk h.code).isSome) =
      [{ code := code, high := high }] := by simp [hcause]
  refine ⟨hitAction (recordHistory s blk inst none { code := code, high := high }) blk inst none { code := code, high := high }, ?_⟩
  simp only [record, recordHits, hkeep, rank, List.foldr, rankIn, recordEach]
  split
  · exact ⟨_, rfl⟩
  · exact ⟨_, rfl⟩

/-- The windows after the setting of one real cause. -/
theorem win_record (hcause : findCause blk code = some c) (hh : h = { code := code, high := high }) : ∃ logged, ∀ b n,
    (record s blk inst code high).win b n = if winKey b n = winKey blk inst then
      { (historyWin s blk (s.win blk inst) (reactionOf s blk inst code) h).counted blk h with logged := logged } else s.win b n := by
  obtain ⟨a, due, hrec⟩ := record_of_cause (s := s) (inst := inst) hcause hh
  obtain ⟨logged, hlog⟩ := win_logHit (countHit (recordHistory s blk inst none h) blk inst h a) blk inst h a
  have haction : hitAction s blk inst none h = reactionOf s blk inst code := by subst hh; rfl
  refine ⟨logged, fun b n => ?_⟩
  rw [hrec]
  refine (hlog b n).trans ?_
  split
  · rw [win_countHit, if_pos rfl, win_recordHistory, if_pos rfl, haction]
  · next hkey => rw [win_countHit, if_neg hkey, win_recordHistory, if_neg hkey]

theorem historyWin_beaten {w : Win} (hbeaten : beaten s blk w h = true) : historyWin s blk w a h = w := if_pos hbeaten

theorem historyWin_free {w : Win} (hfree : beaten s blk w h = false) : historyWin s blk w a h = { w with
    top := some h, topAt := s.clock, last := causeWord (hitSev blk h) h.inj a h.code
    first := if firstOpen s w then causeWord (hitSev blk h) h.inj a h.code else w.first
    firstTime := if firstOpen s w then s.now else w.firstTime } := if_neg (by rw [hfree]; exact Bool.false_ne_true)

theorem hitSev_of_cause (hcause : findCause blk code = some c) :
    hitSev blk { code := code, high := high } = if high then c.sevHigh.getD c.sev else c.sev := by
  simp only [hitSev, hcause]

/-- A count sets the flag of the hit's severity and keeps the other three. -/
theorem Win.counted_flags (w : Win) (blk : Nat) (h : Hit) :
    (w.counted blk h).fatal = (w.fatal || decide (hitSev blk h = 3)) ∧ (w.counted blk h).fault = (w.fault || decide (hitSev blk h = 2)) ∧
      (w.counted blk h).degraded = (w.degraded || decide (hitSev blk h = 1)) ∧
      (w.counted blk h).warn = (w.warn || decide (hitSev blk h = 0 ∨ 3 < hitSev blk h)) := by
  simp only [Win.counted]
  match hitSev blk h with
  | 0 | 1 | 2 | 3 => simp [Win.flag]
  | n + 4 => simp [Win.flag]

/-- A count leaves the history alone. -/
theorem Win.counted_history (w : Win) (blk : Nat) (h : Hit) :
    (w.counted blk h).last = w.last ∧ (w.counted blk h).first = w.first ∧ (w.counted blk h).firstTime = w.firstTime ∧
      (w.counted blk h).top = w.top ∧ (w.counted blk h).topAt = w.topAt := by
  simp only [Win.counted]
  match hitSev blk h with
  | 0 | 1 | 2 | 3 => exact ⟨rfl, rfl, rfl, rfl, rfl⟩
  | n + 4 => exact ⟨rfl, rfl, rfl, rfl, rfl⟩

/-- A history takes a hit in without its flags and counts. -/
theorem historyWin_flags (s : State) (blk : Nat) (w : Win) (a : Nat) (h : Hit) :
    (historyWin s blk w a h).fatal = w.fatal ∧ (historyWin s blk w a h).fault = w.fault ∧
      (historyWin s blk w a h).degraded = w.degraded ∧ (historyWin s blk w a h).warn = w.warn ∧
      (historyWin s blk w a h).injected = w.injected ∧ (historyWin s blk w a h).count = w.count := by
  unfold historyWin
  split <;> exact ⟨rfl, rfl, rfl, rfl, rfl, rfl⟩

/-- The fields of a cause word do not overlap (R462). -/
theorem causeWord_fields {sev action code : Nat} (inj : Bool) (hsev : sev < 4) (haction : action < 8) (hcode : code < 256) :
    fld (causeWord sev inj action code) 28 4 = 2 ^ sev ∧ bit (causeWord sev inj action code) 27 = inj ∧
      fld (causeWord sev inj action code) 24 3 = action ∧ fld (causeWord sev inj action code) 16 8 = code ∧
      fld (causeWord sev inj action code) 0 16 = 0 := by
  have hpow : 2 ^ (28 + sev) = 268435456 * 2 ^ sev := Nat.pow_add 2 28 sev
  have hflag : 2 ^ sev < 16 := Nat.pow_lt_pow_right (by decide) hsev
  have hinj : b2n inj ≤ 1 := by cases inj <;> decide
  have hbit : bit (causeWord sev inj action code) 27 = decide (b2n inj = 1) := by
    refine decide_eq_decide.2 ?_
    simp only [causeWord, hpow]
    omega
  refine ⟨?_, hbit.trans (by cases inj <;> rfl), ?_, ?_, ?_⟩ <;>
  · simp only [fld, causeWord, hpow]
    norm_num
    omega

end

/-- Settles O59: `causeWord_fields` for the layout, `win_record` for the windows. -/
theorem causeWritesItsWindow : Obligations.CauseWritesItsWindow := by
  refine ⟨fun sev action code inj hsev haction hcode => causeWord_fields inj hsev haction hcode, ?_⟩
  intro s blk inst code c high hcause
  obtain ⟨logged, hwin⟩ := win_record (s := s) (inst := inst) (high := high) hcause rfl
  have hself := (hwin blk inst).trans (if_pos rfl)
  have hsev := hitSev_of_cause (high := high) hcause
  obtain ⟨hfatal, hfault, hdegraded, hwarn, hinjected, hcount⟩ :=
    historyWin_flags s blk (s.win blk inst) (reactionOf s blk inst code) { code := code, high := high }
  obtain ⟨hlast, hfirst, htime, htop, htopAt⟩ := Win.counted_history
    (historyWin s blk (s.win blk inst) (reactionOf s blk inst code) { code := code, high := high }) blk { code := code, high := high }
  obtain ⟨hfatal', hfault', hdegraded', hwarn'⟩ := Win.counted_flags
    (historyWin s blk (s.win blk inst) (reactionOf s blk inst code) { code := code, high := high }) blk { code := code, high := high }
  rw [hfatal, hsev] at hfatal'
  rw [hfault, hsev] at hfault'
  rw [hdegraded, hsev] at hdegraded'
  rw [hwarn, hsev] at hwarn'
  refine ⟨_, _, _, _, rfl, rfl, rfl, hself, congrArg (fun k => min (k + 1) 0xFFFFFFFF) hcount, fun hfree => ?_, fun hbeaten => ?_, hfatal',
    hfault', hdegraded', hwarn', (Bool.or_false _).trans hinjected, fun b n hother => (hwin b n).trans (if_neg hother)⟩
  · have hhist := historyWin_free (a := reactionOf s blk inst code) hfree
    rw [hsev] at hhist
    rw [hhist] at hlast hfirst htime htop htopAt hself ⊢
    exact ⟨hlast, htop, htopAt, hfirst, htime⟩
  · have hhist := historyWin_beaten (a := reactionOf s blk inst code) hbeaten
    rw [hhist] at hlast hfirst htime htop ⊢
    exact ⟨hlast, hfirst, htime, htop⟩

end Sys2Proof.Machine
end

section
/-!
BAR0 writes of one 32-bit register (R356), and the read index of a stream in its doorbell page (R389, R425).
-/
namespace Sys2Proof.Machine
open Sys2Proof.Claims

section
variable {s : State} {o n v : Nat}

theorem barWrites (hopen : s.barOpen = true) (ho : o < 0x2000000) (size v : Nat) :
    goes (.registerWrite o size v) s (writeBar0 s o size v) := if_pos ⟨hopen, ho⟩

/-- A write of 4 bytes outside the 64-bit registers writes the register there. -/
theorem goes_registerWrite_word (hopen : s.barOpen = true) (ho : o < 0x2000000) (halign : o % 4 = 0) (hwide : wideAt o = false)
    (hhigh : wideAt (o - 4) = false) : goes (.registerWrite o 4 v) s (writeBar0Word s o (v % 2 ^ 32)) := by
  have hform : bar0Form o 4 true = true := by simp [bar0Form, halign]
  have hwrites := barWrites hopen ho 4 v
  simp only [writeBar0, hform, hwide, hhigh, Bool.not_true, Bool.false_eq_true, false_and, if_false,
    Nat.reduceEqDiff] at hwrites
  exact hwrites

/-- The doorbell page of a stream holds its read index; a forwarded stream has none there. -/
theorem writeBar0Word_readIndex (hn : n < 32) : writeBar0Word s (0x80000 + 0x1000 * n) v =
    if (s.stream n).node.isNone then takeReadIndex s n v else s := by
  have hpage : (0x80000 + 0x1000 * n - 0x80000) / 0x1000 = n := by omega
  have hstart : (0x80000 + 0x1000 * n) % 0x1000 = 0 := by omega
  unfold writeBar0Word
  rw [if_neg (by omega), if_neg (by omega), if_neg (by omega), if_neg (by omega), if_neg (by omega), if_neg (by omega),
    if_neg (by omega), if_neg (by omega), if_pos (by omega)]
  simp only [hpage, hstart, true_and]

theorem goes_readIndex (hn : n < 32) (hv : v < 2 ^ 32) (hopen : s.barOpen = true) :
    goes (.registerWrite (0x80000 + 0x1000 * n) 4 v) s (if (s.stream n).node.isNone then takeReadIndex s n v else s) := by
  have hwide : wideAt (0x80000 + 0x1000 * n) = false := by simp [wideAt]; omega
  have hhigh : wideAt (0x80000 + 0x1000 * n - 4) = false := by simp [wideAt]; omega
  have hwrites := goes_registerWrite_word (v := v) hopen (by omega) (by omega) hwide hhigh
  rwa [Nat.mod_eq_of_lt hv, writeBar0Word_readIndex hn] at hwrites

end

/-- Settles O56: a stream's doorbell page takes its read index (`goes_readIndex`). -/
theorem readIndexAdvancesWithinWritten : Obligations.ReadIndexAdvancesWithinWritten := by
  intro s n v hn hv hopen
  have hgoes := goes_readIndex hn hv hopen
  refine ⟨fun hnode => ?_, ?_, ?_⟩
  · rwa [if_neg (by simpa using hnode)] at hgoes
  · rintro ⟨hnode, hidle, hdetached, hwithin⟩
    rwa [hnode, Option.isNone_none, if_pos rfl, takeReadIndex, if_neg (by omega)] at hgoes
  · rintro ⟨hnode, hbad⟩
    rwa [hnode, Option.isNone_none, if_pos rfl, takeReadIndex, if_pos hbad] at hgoes

end Sys2Proof.Machine
end

section
/-!
What a reset of the module leaves of the commands dispatched before a transition (R519): nothing, since no command waits any more. The
statements of the power-up and of the shed ask that the life cycle's record of them stay, so each fails where there is one.
-/
namespace Sys2Proof.Machine
open Sys2Proof.Claims

section
variable {s u : State}

/-- What each step of a fold keeps, the fold keeps. -/
theorem foldl_unchanged {α β : Type} {f : State → β} {g : State → α → State} (hg : ∀ t x, f (g t x) = f t) (l : List α) (t : State) :
    f (l.foldl g t) = f t := by
  induction l generalizing t with
  | nil => rfl
  | cons x l ih => exact (ih (g t x)).trans (hg t x)

theorem abandonConv_lc (s : State) (chip : Nat) : (abandonConv s chip).lc = s.lc := by
  unfold abandonConv; split <;> rfl

theorem restSequencer_lc (s : State) (d : Nat) : (if s.seqState d = 0 then s else seqToIdle s d).lc = s.lc := by
  split
  · rfl
  · exact (still_seqToIdle d (Still.rfl s)).lc

theorem restPin_lc (s : State) (n : Nat) (v : PinRun) :
    (if (s.setPin n v).pinState n = 3 then ((s.setPin n v).put PIN.PMU_EN n 0).put PIN.STATE n 0 else s.setPin n v).lc = s.lc := by
  split <;> rfl

theorem pinsHigh_lc (s : State) : (pinsHigh s).lc = s.lc := by
  unfold pinsHigh
  dsimp only
  rw [foldl_unchanged (f := State.lc) abandonConv_lc, foldl_unchanged (f := State.lc) (fun s n => restPin_lc s n _),
    foldl_unchanged (f := State.lc) restSequencer_lc]

theorem record_lc (s : State) (blk inst code : Nat) (high : Bool) : (record s blk inst code high).lc = s.lc :=
  (still_record blk inst code high (Still.rfl s)).lc

/-- The life cycle's power-up leaves its record of dispatched commands alone. -/
theorem bootLc_before (s : State) : (bootLc s).lc.before = s.lc.before := by
  have hend : ∀ t : State, (if t.rd LC.ERASE_PENDING = 1 then record { t with lc := { t.lc with eraseCmd := none } } 0x10 0 0x03
      else t).lc.before = t.lc.before := fun t => by
    split
    · rw [record_lc]
    · rfl
  have hpins : ∀ t : State, (if t.lcState = 4 then pinsHigh t else t).lc.before = t.lc.before := fun t => by
    split
    · rw [pinsHigh_lc]
    · rfl
  unfold bootLc
  refine (hend _).trans ((hpins _).trans ?_)
  split
  · rfl
  · split
    · rfl
    · rw [record_lc]; rfl

/-- A reset of the module drops the record. -/
theorem resetAll_before (s : State) (power : Bool) (vin : Nat) : (resetAll s power vin).lc.before = [] := by
  refine (bootLc_before _).trans (congrArg Lc.before (foldl_unchanged (f := State.lc) (fun t e => ?_) s.vane.slots _))
  split <;> rfl

/-- A row that resets the module does not lead to where the statements say, where a dispatched command is on record. -/
theorem not_goes_restored {c : Instr} {s' : State} {power : Bool} {vin : Nat}
    (hexec : exec c s = .next (settle (resetAll s' power vin))) (hrest : u.lc.before = s.lc.before) (hbefore : s.lc.before ≠ []) :
    ¬ goes c s (bootLc u) := by
  intro hgoes
  have heq : settle (resetAll s' power vin) = settle (bootLc u) := Host.Outcome.next.inj (hexec.symm.trans hgoes)
  have hleft := congrArg (fun t : State => t.lc.before) heq
  simp only [(still_settle (Still.rfl _)).lc, resetAll_before, bootLc_before] at hleft
  exact hbefore (hrest.symm.trans hleft.symm)

end

/-- A state that differs from reset in one command that was dispatched in FIELD_OPEN before a transition. -/
def nopOnRecord : State := { State.reset with lc := { State.reset.lc with before := [(mailboxNop, 1)] } }

/-- The same state in SHEDDING, every channel OFF and a reset owed (R567). -/
def nopOnRecordShed : State :=
  { nopOnRecord.put VANE.PWR_STATE 0 2 with pwr := { nopOnRecord.pwr with resetOwed := true } }

theorem chState_nopOnRecordShed {c : Nat} (h : c < 128) : nopOnRecordShed.chState c = 0 := by
  decide +revert

/-- Refutes O12: a power-on reset drops the life cycle's record of commands dispatched before a transition, of which the statement asks
that it stay; `nopOnRecord` has one. -/
theorem not_powerUpRowsComplete : ¬ Obligations.PowerUpRowsComplete := by
  unfold Obligations.PowerUpRowsComplete
  intro h
  obtain ⟨hpower, -⟩ := h
  obtain ⟨u, hrest, hgoes⟩ := hpower nopOnRecord 34000 (by decide)
  obtain ⟨-, -, -, -, -, -, -, -, -, -, -, -, -, -, -, -, -, -, -, -, -, -, -, -, -, hlc, -⟩ := hrest
  have hexec : exec (.powerOnReset 34000) nopOnRecord = .next (settle (resetAll nopOnRecord true 34000)) :=
    show execPowerOnReset 34000 nopOnRecord = _ from if_pos (by decide)
  exact not_goes_restored hexec (congrArg Lc.before hlc) (by decide) hgoes

/-- Refutes O13: SHED_COMPLETE with a reset owed drops the same record; `nopOnRecordShed` has one. -/
theorem not_shedRowsComplete : ¬ Obligations.ShedRowsComplete := by
  unfold Obligations.ShedRowsComplete
  intro h
  obtain ⟨-, -, -, -, -, -, -, -, -, hreset, -⟩ := h
  obtain ⟨u, hrest, hgoes⟩ := hreset nopOnRecordShed (by decide) (by decide) (fun c hc => chState_nopOnRecordShed hc) (by decide)
  obtain ⟨-, -, -, -, -, -, -, -, -, -, -, -, -, -, -, -, -, -, -, -, -, -, -, -, -, hlc, -⟩ := hrest
  have hexec : exec .shedComplete nopOnRecordShed =
      .next (settle (nresetAll (nopOnRecordShed.put VANE.PWR_STATE 0 3) nopOnRecordShed.pwr.vin)) :=
    show execShedComplete nopOnRecordShed = _ from if_pos ⟨by decide, by decide, by decide⟩
  exact not_goes_restored hexec (congrArg Lc.before hlc) (by decide) hgoes

end Sys2Proof.Machine
end

section
/-!
The host link: resets, training, loss, loopbacks, power states and errors.
-/
namespace Sys2Proof.Machine
open Sys2Proof.Claims

section
variable {s : State}

/-! The soft resets (R369 to R373). -/

theorem goes_softReset_asleep (hasleep : linkAsleep s = true) (why : SoftReset) : goes (.softReset why) s (match why with
    | .perst => perstAsleep (resetInWake s)
    | .flr => s
    | _ => resetInWake s) := if_pos hasleep

theorem execSoftReset_awake (hawake : linkAsleep s = false) (why : SoftReset) : execSoftReset why s = match why with
    | .perst => done { softReset (linkLost s) with
        hl := { (softReset (linkLost s)).hl with perst := true, link := .down, flr := false } }
    | .flr => if s.hl.link = .up then done { softReset s with hl := { (softReset s).hl with flr := true } } else .next s
    | .hotReset => dlReset s
    | .dlDown => dlReset s := if_neg (by rw [hawake]; exact Bool.false_ne_true)

theorem dlReset_linked (hlink : s.hl.link = .up ∨ s.hl.link = .training) : dlReset s = done
    { softReset (linkLost s) with hl := { (softReset (linkLost s)).hl with link := .training, flr := false } } :=
  if_pos (hlink.elim .inl fun h => .inr (.inr (.inr h)))

/-- A hot reset and DL_Down reset a link alike. -/
theorem goes_softReset_dl {w : SoftReset} (hw : w = .hotReset ∨ w = .dlDown) (hawake : linkAsleep s = false)
    (hlink : s.hl.link = .up ∨ s.hl.link = .training) : goes (.softReset w) s
      { softReset (linkLost s) with hl := { (softReset (linkLost s)).hl with link := .training, flr := false } } := by
  obtain rfl | rfl := hw
  · exact (execSoftReset_awake hawake .hotReset).trans (dlReset_linked hlink)
  · exact (execSoftReset_awake hawake .dlDown).trans (dlReset_linked hlink)

theorem moves_perstRelease (hawake : linkAsleep s = false) (hperst : s.hl.perst = true) :
    moves .perstRelease s (startLink { s with hl := { s.hl with perst := false } }) :=
  (if_neg (by rw [hperst]; exact Bool.false_ne_true)).trans (if_neg (by rw [hawake]; exact Bool.false_ne_true))

/-! Training and loss (R352, R358, R370, R377). -/

/-- The link has trained at a rate and a width (R352, R358). -/
def linkTrained (s : State) (speed width : Nat) : State :=
  { s.putN HL.LINK_STATUS (linkWord s speed width) with
    hl := { (s.putN HL.LINK_STATUS (linkWord s speed width)).hl with link := .up, trained := true }
    pwr := { (s.putN HL.LINK_STATUS (linkWord s speed width)).pwr with wakeLow := false } }

theorem goes_linkUp {speed width : Nat} (hlink : s.hl.link = .training) (hspeed : speed ∈ [3, 4, 5]) (hwidth : width ∈ [1, 2, 4, 8])
    (hperst : s.hl.perst = false) (hextest : s.tst.extest = false) : goes (.linkUp speed width) s
      (crsEnds (if speed < 5 ∨ width < 8 then record (linkTrained s speed width) 0x0F 0 0x02 else linkTrained s speed width)) := by
  have hstays : (if s.hl.link = .l2 then softReset s else s) = s := if_neg (by rw [hlink]; nofun)
  refine (if_pos ⟨.inl hlink, List.contains_iff_mem.2 hspeed, List.contains_iff_mem.2 hwidth, by rw [hperst]; rfl,
    by rw [hextest]; rfl⟩).trans ?_
  simp only [hstays]
  rfl

theorem linkLost_linked (hlink : s.hl.link = .up ∨ s.hl.link = .slave) : linkLost s =
    record { (s.bump HL.LINK_DOWN_COUNT).putN HL.LINK_STATUS (s.rdN HL.LINK_STATUS % 256) with
      hl := { s.hl with link := .down } } 0x0F 0 0x01 := if_pos hlink

theorem goes_linkDown (hlink : s.hl.link = .up ∨ s.hl.link = .slave) :
    goes .linkDown s { linkLost s with hl := { (linkLost s).hl with link := .training } } := if_pos hlink

/-! The loopbacks (R374, R375). -/

theorem moves_nearLoopbackStart (hlink : s.hl.link = .down) (hsupplies : s.hl.supplies = true) (hperst : s.hl.perst = false)
    (hnear : nearDue s = true) : moves .nearLoopbackStart s { s with hl := { s.hl with link := .nearLoop, lbAt := s.clock } } :=
  if_pos ⟨hlink, hsupplies, by rw [hperst]; rfl, hnear⟩

theorem goes_nearLoopbackEnd {lanes errors : Nat} (hlink : s.hl.link = .nearLoop) (hdue : s.hl.lbAt + nearTime s ≤ s.clock) :
    ∃ u w : State, u = s.putN HL.LB_RESULT (loopbackResult lanes errors) ∧
      w = { u with hl := { u.hl with link := .training, lbRun := true } } ∧
      goes (.nearLoopbackEnd lanes errors) s (if lanes = 0 ∧ errors = 0 then w else record w 0x0F 0 0x09) :=
  ⟨_, _, rfl, rfl, if_pos ⟨hlink, hdue⟩⟩

/-! Power states (R372, R373). -/

theorem moves_powerStateWrite {d3 : Bool} (hlink : s.hl.link = .up) (hcrs : s.hl.crs = false) : moves (.powerStateWrite d3) s
    (if d3 then { s with hl := { s.hl with d3 := d3 } }
      else (List.range 64).foldl sendPending { s with hl := { s.hl with d3 := d3 } }) :=
  if_pos ⟨hlink, by rw [hcrs]; rfl⟩

end

/-- Settles O36: a lemma or the row's own condition gives each clause. -/
theorem hostLinkRowsComplete : Obligations.HostLinkRowsComplete := by
  refine ⟨?_, ?_, ?_, ?_, ?_, ?_, ?_, ?_, ?_, ?_, ?_, ?_, ?_, ?_, ?_, ?_⟩
  · exact fun s hawake => execSoftReset_awake hawake .perst
  · exact fun s hawake hlink => (execSoftReset_awake hawake .flr).trans (if_pos hlink)
  · exact fun s w hw hawake hlink => goes_softReset_dl hw hawake hlink
  · exact fun s hasleep => ⟨goes_softReset_asleep hasleep .perst, goes_softReset_asleep hasleep .flr,
      goes_softReset_asleep hasleep .hotReset, goes_softReset_asleep hasleep .dlDown⟩
  · exact fun s hawake hperst => moves_perstRelease hawake hperst
  · exact fun s hflr => if_pos hflr
  · exact fun s speed width hlink hspeed hwidth hperst hextest =>
      ⟨_, linkTrained s speed width, rfl, rfl, goes_linkUp hlink hspeed hwidth hperst hextest⟩
  · exact fun s hlink => ⟨linkLost s, linkLost_linked hlink, goes_linkDown hlink⟩
  · exact fun s hlink hsupplies hperst hnear => moves_nearLoopbackStart hlink hsupplies hperst hnear
  · exact fun s lanes errors hlink hdue => goes_nearLoopbackEnd hlink hdue
  · exact fun s hlink hopen => if_pos ⟨hlink, hopen⟩
  · exact fun s hlink hcrs => moves_powerStateWrite hlink hcrs
  · exact fun s hlink hcrs => moves_powerStateWrite hlink hcrs
  · exact fun s hlink => ⟨_, rfl, if_pos hlink⟩
  · exact fun s x hx => by subst hx; rfl
  · exact fun s x hx => by subst hx; rfl

end Sys2Proof.Machine
end

section
/-!
The BARs, configuration, the MSI-X table and what the host's reads bring.
-/
namespace Sys2Proof.Machine
open Sys2Proof.Claims

section
variable {s : State} {o n v d b q : Nat}

/-! BAR0 (R355, R356, R372). -/

theorem goes_registerWrite_badForm (hopen : s.barOpen = true) (ho : o < 0x2000000) (hform : bar0Form o n true = false) :
    goes (.registerWrite o n v) s (record s 0x0F 0 0x05) := by
  have hbad : writeBar0 s o n v = record s 0x0F 0 0x05 := if_pos (by rw [hform]; rfl)
  exact hbad ▸ barWrites hopen ho n v

theorem goes_registerWrite_wide (hopen : s.barOpen = true) (ho : o < 0x2000000) (halign : o % 8 = 0) (hbell : doorbellAt o = false)
    (hwide : wideAt o = true) : goes (.registerWrite o 8 v) s (writeBar0Wide (setHeld s (o + 4) none) o v) := by
  have hform : bar0Form o 8 true = true := by simp [bar0Form, halign, hbell]
  have hwrite : writeBar0 s o 8 v = writeBar0Wide (setHeld s (o + 4) none) o v :=
    (if_neg (by rw [hform]; exact Bool.false_ne_true)).trans ((if_pos rfl).trans (if_pos hwide))
  exact hwrite ▸ barWrites hopen ho 8 v

theorem goes_bar0Read_whole (hopen : s.barOpen = true) (halign : o % 8 = 0) :
    goes (.bar0Read o 8) s (bar0Answer s o [bar0Word s o, bar0Word s (o + 4)]) := by
  have hform : bar0Form o 8 false = true := by simp [bar0Form, halign]
  have hread : readBar0 s o 8 = bar0Answer s o [bar0Word s o, bar0Word s (o + 4)] :=
    (if_neg (by rw [hform]; exact Bool.false_ne_true)).trans (if_pos rfl)
  exact hread ▸ if_pos hopen

theorem goes_bar0Read_word (hopen : s.barOpen = true) (halign : o % 4 = 0) (hwide : wideAt o = false) (hlatch : latched s o = none) :
    goes (.bar0Read o 4) s (bar0Answer s o [bar0Word s o]) := by
  have hform : bar0Form o 4 false = true := by simp [bar0Form, halign]
  have hread : readBar0 s o 4 = bar0Answer s o [bar0Word s o] := by
    refine (if_neg (by rw [hform]; exact Bool.false_ne_true)).trans ((if_neg (by decide)).trans
      ((if_neg (by rw [hwide]; exact Bool.false_ne_true)).trans ?_))
    rw [hlatch]
  exact hread ▸ if_pos hopen

theorem moves_bar0Read_refused {size : Nat} (hclosed : s.barOpen = false) (hlink : s.hl.link = .up) (hd3 : s.hl.d3 = true) :
    moves (.bar0Read o size) s (s.emit (.barRefused 0 o)) :=
  (if_neg (by rw [hclosed]; exact Bool.false_ne_true)).trans (if_pos ⟨hlink, hd3⟩)

/-! BAR2 (R359, R364, R365). -/

/-- A read of one byte whose area is good and not that of the firmware. -/
theorem goes_bar2Read_byte {x : Nat} (hopen : s.barOpen = true) (hbyte : dramByte s (bar2Addr s o) = (x, s))
    (hgood : badAt s (bar2Addr s o) = none) (harea : (dramArea (bar2Addr s o) == .firmware) = false) :
    goes (.bar2Read o 1 none) s (s.emit (.barRead 2 o [x] false)) := by
  have hbytes : dramBytes s [bar2Addr s o] = ([x], s) := by simp only [dramBytes, hbyte]
  have haddrs : (List.range 1).map (fun i => bar2Addr s (o + i)) = [bar2Addr s o] := rfl
  have hfirst : [bar2Addr s o].findSome? (fun b => badAt s b) = none := by simp [hgood]
  have hany : [bar2Addr s o].any (fun b => dramArea b == .firmware) = false := by simp [harea]
  show execBar2Read o 1 none s = _
  simp only [execBar2Read, hopen, haddrs, hbytes, hfirst, hany, Bool.not_true, Bool.false_eq_true, if_false]
  rfl

theorem goes_bar2Read_vectors (hopen : s.barOpen = true) (harea : dramArea (bar2Addr s o) = .vectors d b)
    (hgood : (s.sequencer d).badGrans = []) : goes (.bar2Read o 1 none) s
      (s.emit (.barRead 2 o [(vectorBytes (areaVector s d (b / 40))).getD (b % 40) 0] false)) :=
  goes_bar2Read_byte hopen (by simp only [dramByte, harea]) (by simp [badAt, harea, hgood]) (by rw [harea]; rfl)

theorem goes_bar2Read_captures (hopen : s.barOpen = true) (harea : dramArea (bar2Addr s o) = .captures d b)
    (hgood : (s.sequencer d).badCaps = []) : goes (.bar2Read o 1 none) s (s.emit (.barRead 2 o
      [((pad 16 (Bank.get (fun _ => []) (s.sequencer d).cap (b / 64))).flatMap wordBytes).getD (b % 64) 0] false)) :=
  goes_bar2Read_byte hopen (by simp only [dramByte, harea]) (by simp [badAt, harea, hgood]) (by rw [harea]; rfl)

/-- Mending granules rewrites no vector, and lies in the sequencers alone. -/
theorem mendGranules_keeps (s : State) (addrs : List Nat) : (mendGranules s addrs).par = s.par ∧ (mendGranules s addrs).wins = s.wins ∧
    ∀ e, ((mendGranules s addrs).sequencer e).vecs = (s.sequencer e).vecs := by
  unfold mendGranules
  induction List.range 2 generalizing s with
  | nil => exact ⟨rfl, rfl, fun e => rfl⟩
  | cons d l ih =>
    obtain ⟨hpar, hwins, hvecs⟩ := ih (s.setSequencer d { s.sequencer d with badGrans := (s.sequencer d).badGrans.filter fun g =>
      2560 ≠ ((addrs.filterMap fun a => match dramArea a with
        | .vectors e b => if e = d then some b else none
        | _ => none).filter fun b => b / 2560 == g).length })
    refine ⟨hpar, hwins, fun e => (hvecs e).trans ?_⟩
    rw [State.sequencer_setSequencer]
    split
    · next he => rw [he]
    · rfl

theorem sequencer_writeVectorByte_ne {e : Nat} (he : e ≠ d) : (writeVectorByte s d b v).sequencer e = s.sequencer e :=
  (State.sequencer_setSequencer _ _ _ _).trans (if_neg he)

/-- The one byte of a write, as the module takes it. -/
theorem execBar2Write_byte (hopen : s.barOpen = true) (x : Byte) : execBar2Write o [x] s = done
    (if !inVectors (bar2Addr s o) then
      hlCause (mendGranules (writeDramByte s (bar2Addr s o, x.toNat)) [bar2Addr s o]) 0x07
    else mendGranules (writeDramByte s (bar2Addr s o, x.toNat)) [bar2Addr s o]) := by
  refine (if_neg (by rw [hopen]; exact Bool.false_ne_true)).trans (congrArg done (if_congr ?_ rfl rfl))
  show ([(bar2Addr s o, x.toNat)].any fun c => !inVectors c.1) = true ↔ _
  simp

theorem goes_bar2Write_vectors {x : Byte} (hopen : s.barOpen = true) (harea : dramArea (bar2Addr s o) = .vectors d b) :
    goes (.bar2Write o [x]) s (mendGranules (writeVectorByte s d b x.toNat) [bar2Addr s o]) := by
  have hin : inVectors (bar2Addr s o) = true := by rw [inVectors, harea]
  have hbyte : writeDramByte s (bar2Addr s o, x.toNat) = writeVectorByte s d b x.toNat := by simp only [writeDramByte, harea]
  have hrun := execBar2Write_byte hopen x (o := o)
  rw [hin, hbyte] at hrun
  exact hrun

theorem goes_bar2Write_captures {x : Byte} (hopen : s.barOpen = true) (harea : dramArea (bar2Addr s o) = .captures d b) :
    goes (.bar2Write o [x]) s (record (mendGranules s [bar2Addr s o]) 0x0F 0 0x07) := by
  have hout : inVectors (bar2Addr s o) = false := by rw [inVectors, harea]
  have hbyte : writeDramByte s (bar2Addr s o, x.toNat) = s := by simp only [writeDramByte, harea]
  have hrun := execBar2Write_byte hopen x (o := o)
  rw [hout, hbyte] at hrun
  exact hrun

/-! Configuration (R350, R370, R371). -/

theorem execConfigRequest_answered (hlink : s.hl.link = .up) (hcrs : s.hl.crs = false) (req : ConfigReq) :
    execConfigRequest req s = match req with
      | .read reg => .next ((configData s reg).2.emit (.config false (some (configData s reg).1)))
      | _ => done (configure (s.emit (.config false none)) req) :=
  (if_neg (not_not_intro hlink)).trans (if_neg (by rw [hcrs]; exact Bool.false_ne_true))

theorem goes_configRequest {req : ConfigReq} (hlink : s.hl.link = .up) (hcrs : s.hl.crs = false) (hreq : ∀ reg, req ≠ .read reg) :
    goes (.configRequest req) s (configure (s.emit (.config false none)) req) := by
  refine (execConfigRequest_answered hlink hcrs req).trans ?_
  cases req with
  | read reg => exact absurd rfl (hreq reg)
  | _ => rfl

/-! The host's reads (R318, R319, R322, R354). -/

theorem readStatus_readStatus (f : HostFault) : readStatus (readStatus f) = readStatus f := by
  cases f <;> rfl

theorem length_packetsOf (n : Nat) (ws : List Nat) : (packetsOf n ws).length = n := by
  induction n generalizing ws with
  | zero => rfl
  | succ n ih => exact congrArg (· + 1) (ih _)

theorem goes_hostReadError_cmd {src : Src} {tag : Nat} {f : HostFault} {op : Op}
    (hupload : (s.uploads.any fun u => u.src == src && u.tag == tag) = false)
    (hop : s.cmd.ops.find? (fun op => op.pkt.src == src && pTag op.pkt == tag && op.stage == .reading) = some op) :
    goes (.hostReadError (.cmd src tag) f) s
      (finish op.pkt (transferFails (dropXfer s (.cmd src tag)) op.pkt (readAddr op.pkt) (readStatus f))) := by
  show execHostReadError (.cmd src tag) f s = _
  simp only [execHostReadError, hupload, hop, Bool.false_eq_true, if_false]
  rfl

end

/-- Settles O37: the accesses clause by clause; what a byte written by BAR2 leaves alone is `mendGranules_keeps`. -/
theorem barRowsComplete : Obligations.BarRowsComplete := by
  refine ⟨?_, ?_, ?_, ?_, ?_, ?_, ?_, ?_, ?_, ?_, ?_, ?_, ?_, ?_, ?_, ?_, ?_, ?_, ?_, ?_⟩
  · exact fun s o n v hopen ho hform => goes_registerWrite_badForm hopen ho hform
  · exact fun s o v hopen ho halign hwide hhigh => goes_registerWrite_word hopen ho halign hwide hhigh
  · exact fun s o v hopen ho halign hbell hwide => goes_registerWrite_wide hopen ho halign hbell hwide
  · exact fun s bar o hopen => if_pos hopen
  · exact fun s o hopen halign => goes_bar0Read_whole hopen halign
  · exact fun s o hopen halign hwide hlatch => goes_bar0Read_word hopen halign hwide hlatch
  · exact fun s o size hclosed hlink hd3 => moves_bar0Read_refused hclosed hlink hd3
  · exact fun s o d b hopen harea hgood => goes_bar2Read_vectors hopen harea hgood
  · exact fun s o d b hopen harea hgood => goes_bar2Read_captures hopen harea hgood
  · intro s o x d b hopen harea _ _ _
    obtain ⟨hpar, hwins, hvecs⟩ := mendGranules_keeps (writeVectorByte s d b x.toNat) [bar2Addr s o]
    exact ⟨_, goes_bar2Write_vectors hopen harea, hvecs d,
      fun e he => (hvecs e).trans (congrArg Seq.vecs (sequencer_writeVectorByte_ne he)), hpar, hwins⟩
  · intro s o x d b hopen harea _ _
    obtain ⟨hpar, hwins, -⟩ := mendGranules_keeps s [bar2Addr s o]
    exact ⟨_, goes_bar2Write_captures hopen harea, hpar, hwins⟩
  · exact fun s v hv hopen => if_pos ⟨hv, hopen⟩
  · exact fun s hlink hcrs => if_pos ⟨hlink, by rw [hcrs]; rfl⟩
  · exact fun s r hlink hcrs => (if_neg (not_not_intro hlink)).trans (if_pos hcrs)
  · exact fun s reg hlink hcrs => execConfigRequest_answered hlink hcrs (.read reg)
  · exact fun s r hlink hcrs hreq => goes_configRequest hlink hcrs hreq
  · exact fun s => ⟨rfl, rfl, rfl⟩
  · intro s q f hq hfetch hon hclear
    exact ⟨_, rfl, goes_packetArrive_fault (ps := []) hq hfetch hon hclear (by rw [readStatus_readStatus])⟩
  · exact fun s src tag f op hupload hop => goes_hostReadError_cmd hupload hop
  · intro s q data hq hfetch
    have hlen := length_packetsOf (s.sq q).fetching data
    have hgoes := goes_packetArrive hq hfetch hlen
    rw [hlen] at hgoes
    exact ⟨_, rfl, hgoes⟩

end Sys2Proof.Machine
end

section
/-!
Translation: invalidations, services, page requests, and the ends of walks and ATS requests (R368, R397 to R399, R403).
-/
namespace Sys2Proof.Machine
open Sys2Proof.Claims

section
variable {s : State} {ctx va : Nat} {w : WalkRun} {p : Pkt} {c : Nat}

/-! Invalidations (R368, R399). -/

theorem walk_staleWalk {hit : WalkRun → Bool} (hwalk : s.walk ctx = some w) (hhit : hit w = true) :
    (staleWalk s ctx hit).walk ctx = some { w with stale := true } := by
  have hget : Bank.get (fun _ => none) s.xlt.walks ctx = some w := hwalk
  simp only [staleWalk, State.walk, hget, hhit, if_true, Bank.get_set_self]

/-- What an invalidation by the host leaves: of the TLB, what ATS did not bring to the context in the range; a request there is stale. -/
theorem goes_atsInvalidation (s : State) (ctx addr size : Nat) : ∃ u : State,
    goes (.atsInvalidation ctx addr size) s (u.emit (.atsInvalidated ctx addr)) ∧
    u = { s with xlt := { s.xlt with tlb := u.xlt.tlb, walks := u.xlt.walks } } ∧
    (∀ p, p ∈ u.xlt.tlb ↔ p ∈ s.xlt.tlb ∧ ¬ (p.ats = true ∧ p.ctx = ctx ∧ p.va < addr + size ∧ addr < p.va + p.size)) ∧
    (∀ w, s.walk ctx = some w → w.level = 0 → w.va / 4096 * 4096 < addr + size → addr < w.va / 4096 * 4096 + 4096 →
      u.walk ctx = some { w with stale := true }) := by
  refine ⟨_, rfl, rfl, fun p => ?_, fun w hwalk hlevel hlow hhigh => ?_⟩
  · refine List.mem_filter.trans (and_congr_right fun _ => ?_)
    simp only [Bool.not_eq_true', ← Bool.not_eq_true, Bool.and_eq_true, beq_iff_eq, decide_eq_true_eq, and_assoc]
  · exact walk_staleWalk hwalk (by simp [hlevel, hlow, hhigh])

/-- XLT_INVALIDATE of a whole context. -/
theorem replies_xltInvalidate_all (hacc : accepted (.xltInvalidate p) s) (hctx : targetInst p 0x0A = some c)
    (hall : bit (pw p 2) 0 = false) (hstop : stopped s .mem = false) :
    replies (.xltInvalidate p) p s St.SUCCESS [] (dropPages s c none) := by
  obtain ⟨hdisp, -, hgate, -⟩ := hacc
  refine replies_of_exec rfl hdisp hgate ?_
  simp only [hctx, hall, hstop, Bool.false_eq_true, false_and, if_false]
  rfl

/-- XLT_INVALIDATE of a range of a context's pages. -/
theorem replies_xltInvalidate_range (hacc : accepted (.xltInvalidate p) s) (hctx : targetInst p 0x0A = some c)
    (hrange : bit (pw p 2) 0 = true) (halign : pw p 3 % 4096 = 0) (hlow : 1 ≤ pw p 5) (hhigh : pw p 5 ≤ 1048576)
    (hstop : stopped s .mem = false) :
    replies (.xltInvalidate p) p s St.SUCCESS [] (dropPages s c (some (pw64 p 3, 4096 * pw p 5))) := by
  obtain ⟨hdisp, -, hgate, -⟩ := hacc
  have hvalue : ¬(pw p 3 % 4096 ≠ 0 ∨ pw p 5 = 0 ∨ 1048576 < pw p 5) := by omega
  refine replies_of_exec rfl hdisp hgate ?_
  simp only [hctx, hrange, hstop, hvalue, and_false, Bool.false_eq_true, if_false, if_true]
  rfl

/-! Page requests (R368, R403). -/

/-- What a response to the oldest page request of a context does with the streams that wait for it. -/
theorem execPriResponse_first {r : PageReq} {rest : List PageReq} {u : State}
    (hpages : Bank.get (fun _ => []) s.xlt.pages ctx = r :: rest)
    (hu : u = { s with xlt := { s.xlt with pages := Bank.set (fun _ => []) s.xlt.pages ctx rest } }) (good : Bool) :
    execPriResponse ctx good s = if r.streams.isEmpty then .next u
      else if good then done (r.streams.foldl retryStream u)
      else done (r.streams.foldl (fun s n => parkStream s n (nextAddr s n) (.translation 7)) (xltFault u ctx r.va 7)) := by
  subst hu
  simp only [execPriResponse, hpages]

theorem moves_priResponse {r : PageReq} {rest : List PageReq} {u : State}
    (hpages : Bank.get (fun _ => []) s.xlt.pages ctx = r :: rest)
    (hu : u = { s with xlt := { s.xlt with pages := Bank.set (fun _ => []) s.xlt.pages ctx rest } }) :
    (r.streams = [] → ∀ good, moves (.priResponse ctx good) s u) ∧
    (r.streams ≠ [] → goes (.priResponse ctx true) s (r.streams.foldl retryStream u)) ∧
    (r.streams ≠ [] → goes (.priResponse ctx false) s
      (r.streams.foldl (fun s n => parkStream s n (nextAddr s n) (.translation 7)) (xltFault u ctx r.va 7))) := by
  have hexec := execPriResponse_first hpages hu
  have hwait : r.streams ≠ [] → ¬r.streams.isEmpty = true := fun h he => h (List.isEmpty_iff.1 he)
  exact ⟨fun h good => (hexec good).trans (if_pos (List.isEmpty_iff.2 h)),
    fun h => (hexec true).trans ((if_neg (hwait h)).trans (if_pos rfl)),
    fun h => (hexec false).trans ((if_neg (hwait h)).trans (if_neg Bool.false_ne_true))⟩

/-! The ends of ATS requests (R399). -/

theorem grantPages_regular {g : AtsGrant} (hsize : g.size = 2 ^ 12 ∨ g.size = 2 ^ 21 ∨ g.size = 2 ^ 30) :
    grantPages ctx va g = [⟨ctx, va / g.size * g.size, g.size, g.pa, g.w, g.r, true⟩] := if_pos hsize

/-- The translation of 4 KiB that a grant gives a page of its range. -/
def grantPage (ctx va : Nat) (g : AtsGrant) (a : Nat) : Page := ⟨ctx, a, 4096, g.pa + (a - va / g.size * g.size), g.w, g.r, true⟩

theorem grantPages_irregular {g : AtsGrant} (h12 : g.size ≠ 2 ^ 12) (h21 : g.size ≠ 2 ^ 21) (h30 : g.size ≠ 2 ^ 30) :
    grantPages ctx va g = (((List.range (g.size / 4096)).map fun i => va / g.size * g.size + 4096 * i).filter
      (· != va / 4096 * 4096)).map (grantPage ctx va g) ++ [grantPage ctx va g (va / 4096 * 4096)] :=
  if_neg (by rintro (h | h | h); exacts [h12 h, h21 h, h30 h])

/-- A page of a granted range keeps its distance from the range's start. -/
theorem grantPage_shifts {g : AtsGrant} {a : Nat} (ha : va / g.size * g.size ≤ a) :
    (grantPage ctx va g a).size = 4096 ∧ (grantPage ctx va g a).pa + va / g.size * g.size = g.pa + (grantPage ctx va g a).va :=
  ⟨rfl, by simp only [grantPage]; omega⟩

/-- The range that a grant covers starts no later than the page that was asked for. -/
theorem grantBase_le {size : Nat} (hdvd : 4096 ∣ size) : va / size * size ≤ va / 4096 * 4096 := by
  obtain ⟨k, rfl⟩ := hdvd
  calc va / (4096 * k) * (4096 * k) = va / 4096 / k * k * 4096 := by rw [Nat.div_div_eq_div_mul, Nat.mul_assoc, Nat.mul_comm k]
    _ ≤ va / 4096 * 4096 := Nat.mul_le_mul_right _ (Nat.div_mul_le_self _ _)

theorem grantPages_shift {g : AtsGrant} (h12 : g.size ≠ 2 ^ 12) (h21 : g.size ≠ 2 ^ 21) (h30 : g.size ≠ 2 ^ 30) (hdvd : 4096 ∣ g.size)
    {e : Page} (he : e ∈ grantPages ctx va g) : e.size = 4096 ∧ e.pa + va / g.size * g.size = g.pa + e.va := by
  rw [grantPages_irregular h12 h21 h30, List.mem_append, List.mem_map, List.mem_singleton] at he
  obtain ⟨a, ha, rfl⟩ | rfl := he
  · obtain ⟨i, -, rfl⟩ := List.mem_map.1 (List.mem_of_mem_filter ha)
    exact grantPage_shifts (Nat.le_add_right _ _)
  · exact grantPage_shifts (grantBase_le hdvd)

/-- A request of ATS mode that the host grants ends its walk, or finds that the grant lacks what a waiter needs. -/
theorem execAtsTranslationCompletion_grant {g : AtsGrant} (hwalk : s.walk ctx = some w) (hlevel : w.level = 0)
    (hpage : w.va / 4096 = va / 4096) : execAtsTranslationCompletion ctx va (some g) s =
      if w.waiters.any (lacks s w ((grantPages ctx va g).getLastD ⟨ctx, va, 4096, g.pa, g.w, g.r, true⟩)) then
        done (execAtsTranslationCompletion.deny ctx s w
          (lacks s w ((grantPages ctx va g).getLastD ⟨ctx, va, 4096, g.pa, g.w, g.r, true⟩)))
      else done (walkEnds s ctx w (grantPages ctx va g)) := by
  have hmine : ¬(w.level ≠ 0 ∨ w.va / 4096 ≠ va / 4096) := by omega
  simp only [execAtsTranslationCompletion, hwalk, if_neg hmine]

theorem execAtsTranslationCompletion_denial (hwalk : s.walk ctx = some w) (hlevel : w.level = 0) (hpage : w.va / 4096 = va / 4096) :
    execAtsTranslationCompletion ctx va none s = done (execAtsTranslationCompletion.deny ctx s w (inPage s w)) := by
  have hmine : ¬(w.level ≠ 0 ∨ w.va / 4096 ≠ va / 4096) := by omega
  simp only [execAtsTranslationCompletion, hwalk, if_neg hmine]

theorem goes_atsGrant {g : AtsGrant} (hwalk : s.walk ctx = some w) (hlevel : w.level = 0) (hpage : w.va / 4096 = va / 4096)
    (hgrant : ∀ x, x ∈ w.waiters → lacks s w ((grantPages ctx va g).getLastD ⟨ctx, va, 4096, g.pa, g.w, g.r, true⟩) x = false) :
    goes (.atsTranslationCompletion ctx va (some g)) s (walkEnds s ctx w (grantPages ctx va g)) :=
  (execAtsTranslationCompletion_grant hwalk hlevel hpage).trans (if_neg (by simpa using hgrant))

/-- Nothing lacks a permission of a page that gives both. -/
theorem lacks_of_readWrite {q : Page} (hr : q.r = true) (hw : q.w = true) (x : Waiter) : lacks s w q x = false := by
  unfold lacks
  cases waitingUnit s x <;> simp [hr, hw]

theorem goes_atsDenial (hwalk : s.walk ctx = some w) (hlevel : w.level = 0) (hpage : w.va / 4096 = va / 4096)
    (hpri : (walkFails s ctx w (.translation 6) (inPage s w)).rd XLT.PRI_EN ctx ≠ 1 ∨
      (walkFails s ctx w (.translation 6) (inPage s w)).hl.pri = false) :
    goes (.atsTranslationCompletion ctx va none) s (walkFails s ctx w (.translation 6) (inPage s w)) := by
  refine (execAtsTranslationCompletion_denial hwalk hlevel hpage).trans (congrArg done (if_neg ?_))
  rintro ⟨hen, hon⟩
  exact hpri.elim (fun h => h hen) (fun h => Bool.false_ne_true (h.symm.trans hon))

/-! The ends and steps of walks (R398). -/

theorem goes_walkFault {f : Nat} (hwalk : s.walk ctx = some w) (hlevel : w.level ≠ 0) :
    goes (.walkReadCompletion ctx (.fault (.translation f))) s (walkFails s ctx w (.translation 5) (inPage s w)) := by
  have hexec : exec (.walkReadCompletion ctx (.fault (.translation f))) s =
    execWalkReadCompletion ctx (.fault (.translation f)) s := rfl
  simp only [execWalkReadCompletion, hwalk, if_neg hlevel] at hexec
  exact hexec

theorem goes_entryFault {e : Nat} (hwalk : s.walk ctx = some w) (hlevel : w.level ≠ 0) (hfault : entryFault w.level e = some c) :
    goes (.walkReadCompletion ctx (.entry e)) s (walkFails s ctx w (.translation c) (inPage s w)) := by
  have hexec : exec (.walkReadCompletion ctx (.entry e)) s = execWalkReadCompletion ctx (.entry e) s := rfl
  simp only [execWalkReadCompletion, hwalk, if_neg hlevel, hfault] at hexec
  exact hexec

/-- A leaf ends the walk, and faults what it does not permit. -/
theorem goes_leaf {e size : Nat} {page : Page} (hwalk : s.walk ctx = some w) (hlevel : w.level ≠ 0)
    (hfault : entryFault w.level e = none) (hleaf : bit e 3 = true) (hsize : size = 2 ^ (12 + 9 * (w.level - 1)))
    (hpage : page = ⟨ctx, w.va / size * size, size, fld e 12 40 * 4096, bit e 2, bit e 1, false⟩) :
    ((∀ x, x ∈ w.waiters → lacks s w page x = false) → goes (.walkReadCompletion ctx (.entry e)) s (walkEnds s ctx w [page])) ∧
    ((∃ x, x ∈ w.waiters ∧ lacks s w page x = true) →
      goes (.walkReadCompletion ctx (.entry e)) s (walkFails s ctx w (.translation 2) (lacks s w page))) := by
  subst hsize hpage
  have hexec : exec (.walkReadCompletion ctx (.entry e)) s = execWalkReadCompletion ctx (.entry e) s := rfl
  simp only [execWalkReadCompletion, hwalk, if_neg hlevel, hfault, if_pos hleaf] at hexec
  exact ⟨fun h => hexec.trans (if_neg (by simpa using h)), fun h => hexec.trans (if_pos (by simpa using h))⟩

/-- An entry that is no leaf leads to the table of the next level. -/
theorem goes_tableEntry {e : Nat} (hwalk : s.walk ctx = some w) (hlevel : w.level ≠ 0) (hfault : entryFault w.level e = none)
    (hleaf : bit e 3 = false) : goes (.walkReadCompletion ctx (.entry e)) s
      (((if w.stale then s else cacheWalk s ⟨ctx, w.level - 1, levelPre w.va (w.level - 1), fld e 12 40 * 4096⟩).setWalk ctx
        (some { w with level := w.level - 1, table := fld e 12 40 * 4096 })).emit
        (.walkRead (entryAddr { w with level := w.level - 1, table := fld e 12 40 * 4096 }))) := by
  have hexec : exec (.walkReadCompletion ctx (.entry e)) s = execWalkReadCompletion ctx (.entry e) s := rfl
  simp only [execWalkReadCompletion, hwalk, if_neg hlevel, hfault, hleaf, Bool.false_eq_true, if_false] at hexec
  exact hexec

end

/-- Settles O38: what each completion finds, by the equations of its row. -/
theorem translationRowsComplete : Obligations.TranslationRowsComplete := by
  refine ⟨?_, ?_, ?_, ?_, ?_, ?_, ?_, ?_, ?_, ?_, ?_, ?_, ?_, ?_⟩
  · exact goes_atsInvalidation
  · exact fun s svc => rfl
  · exact fun s ctx r rest u hpages hu => moves_priResponse hpages hu
  · intro s ctx va w g page hwalk hlevel hva hsize hpage hgrant
    subst hpage
    have hpages := grantPages_regular (ctx := ctx) (va := va) hsize
    have hgoes := goes_atsGrant hwalk hlevel hva (g := g) (by rw [hpages]; exact hgrant)
    rwa [hpages] at hgoes
  · intro s ctx va w g hwalk hlevel hva h12 h21 h30 hr hw
    refine ⟨goes_atsGrant hwalk hlevel hva fun x _ => ?_, fun hdvd e he => grantPages_shift h12 h21 h30 hdvd he⟩
    rw [grantPages_irregular h12 h21 h30, List.getLastD_concat]
    exact lacks_of_readWrite hr hw x
  · exact fun s ctx va w hwalk hlevel hva => ⟨_, rfl, fun hpri => goes_atsDenial hwalk hlevel hva hpri⟩
  · exact fun s ctx w f hwalk hlevel => goes_walkFault hwalk hlevel
  · exact fun s ctx w e c hwalk hlevel hfault => goes_entryFault hwalk hlevel hfault
  · exact fun s ctx w e size page hwalk hlevel hfault hleaf hsize hpage => goes_leaf hwalk hlevel hfault hleaf hsize hpage
  · intro s ctx w e hwalk hlevel hfault hleaf hfresh
    have hgoes := goes_tableEntry hwalk hlevel hfault hleaf
    rw [if_neg (by rw [hfresh]; exact Bool.false_ne_true)] at hgoes
    exact ⟨_, _, rfl, rfl, hgoes⟩
  · intro s ctx w e hwalk hlevel hfault hleaf hstale
    have hgoes := goes_tableEntry hwalk hlevel hfault hleaf
    rw [if_pos hstale] at hgoes
    exact ⟨_, rfl, hgoes⟩
  · exact fun s ctx w ps hstale => congrArg (w.waiters.foldl waiterResumes) (if_pos hstale)
  · exact fun s p c hacc hctx hall hstop => replies_xltInvalidate_all hacc hctx hall hstop
  · exact fun s p c hacc hctx hrange halign hlow hhigh hstop => replies_xltInvalidate_range hacc hctx hrange halign hlow hhigh hstop

end Sys2Proof.Machine
end

section
/-!
The commands of streams (R387, R391, R394, R403, R410), and what they leave of the bulk transfers: a command that waits is none that still
reads, so its own transfer has to stay as it was.
-/
namespace Sys2Proof.Machine
open Sys2Proof.Claims

section
variable {s t : State} {p : Pkt} {n : Nat}

/-! What a stop, a close, a flush and an end leave of the transfers: all of them. -/

@[simp] theorem frameTo_xlt (s : State) (node cls : Nat) (ws : List Nat) (note : Option (Nat × Nat × Bool)) (hops : Nat) :
    (s.frameTo node cls ws note hops).xlt = s.xlt := by
  obtain ⟨sent, vane, msh, h⟩ := frameTo_eq s node cls ws note hops
  rw [h]

theorem completeNotice_xlt (s : State) (src : Src) (tag status : Nat) (res : List Nat) (owns : Bool)
    (notice : Option (Option Nat × Nat)) : (s.complete src tag status res owns notice).xlt = s.xlt := by
  cases src with
  | mesh node fid => exact frameTo_xlt _ _ _ _ _ _
  | _ => rfl

theorem releaseSeq_xlt (s : State) (d : Nat) (why : SeqHold) : (releaseSeq s d why).xlt = s.xlt := by
  simp only [releaseSeq, resumeSeq, State.setSeqSlot, apply_ite State.xlt, State.setSequencer_xlt, State.put_xlt, State.wr_xlt, ite_self]

theorem holdSources_off_xlt (s : State) (n : Nat) : (holdSources s n false).xlt = s.xlt := by
  unfold holdSources
  refine (foldl_xlt (fun s d => ?_) _ _).trans (foldl_xlt (fun s e => by rw [if_neg Bool.false_ne_true]; rfl) _ s)
  split
  · exact releaseSeq_xlt s d .source
  · rfl

theorem unbecalm_xlt (s : State) (n : Nat) : (unbecalm s n).xlt = s.xlt := by
  unfold unbecalm
  split
  · exact holdSources_off_xlt _ n
  · rfl

theorem freeSlot_xlt (s : State) (n : Nat) : (freeSlot s n).xlt = s.xlt := by
  simp only [freeSlot, becalmedCheck, apply_ite State.xlt, unbecalm_xlt, State.put_xlt, ite_self]

theorem loseBlock_xlt (s : State) (n : Nat) (b : Closed) : (loseBlock s n b).xlt = s.xlt := by
  rw [loseBlock, record_xlt, freeSlot_xlt]
  exact foldl_xlt (fun s q => State.setStream_xlt s n _) b.recs s

theorem closeBlock_xlt (s : State) (n reason : Nat) : (closeBlock s n reason).xlt = s.xlt := by
  simp only [closeBlock, State.tally]
  split
  · rfl
  · simp only [apply_ite State.xlt, loseBlock_xlt, State.setStream_xlt, State.wr_xlt, ite_self]

theorem answerRetries_xlt (s : State) (n status : Nat) : (answerRetries s n status).xlt = s.xlt :=
  foldl_xlt (fun s (r : Src × Nat) => complete_xlt s r.1 r.2 status []) (s.stream n).retries _

theorem flushCheck_xlt (s : State) (n status : Nat) : (flushCheck s n status).xlt = s.xlt :=
  foldl_xlt (fun s (f : Src × Nat × Nat) => complete_xlt s f.1 f.2.1 status [f.2.2])
    ((s.stream n).flushes.filter fun f => !(s.stream n).blocks.any fun b => b.seq == f.2.2) _

theorem endStop_xlt (s : State) (n status : Nat) : (endStop s n status).xlt = s.xlt := by
  simp only [endStop]
  split <;>
    simp only [complete_xlt, apply_ite State.xlt, State.put_xlt, State.setStream_xlt, flushCheck_xlt, answerRetries_xlt, ite_self]

theorem stopCheck_xlt (s : State) (n : Nat) : (stopCheck s n).xlt = s.xlt := by
  simp only [stopCheck, apply_ite State.xlt, endStop_xlt, ite_self]

theorem unpark_xlt (s : State) (n : Nat) : (unpark s n).xlt = s.xlt := by
  simp only [unpark, stopCheck_xlt, answerRetries_xlt, State.put_xlt, State.setStream_xlt]

theorem postNotice_xlt (s : State) (n status addr : Nat) : (postNotice s n status addr).xlt = s.xlt := by
  simp only [postNotice]
  split
  · rfl
  · split
    · exact frameTo_xlt _ _ _ _ _ _
    · split
      · rfl
      · exact completeNotice_xlt _ _ _ _ _ _ _

theorem parkStream_xlt (s : State) (n addr : Nat) (k : HostFault) (inj : Bool) : (parkStream s n addr k inj).xlt = s.xlt := by
  simp only [parkStream]
  split
  · rfl
  · simp only [answerRetries_xlt, postNotice_xlt, apply_ite State.xlt, record_xlt, State.put_xlt, State.setStream_xlt, ite_self]

/-! What a retry leaves of them: a translation begins walks and counts, and neither starts nor ends a transfer. -/

theorem xltFault_xlt (s : State) (ctx va cause : Nat) (inj : Bool) : (xltFault s ctx va cause inj).xlt = s.xlt := by
  simp only [xltFault, State.bump, apply_ite State.xlt, record_xlt, State.put_xlt, State.wr_xlt, ite_self]

theorem awaitWalk_xfers (s : State) (w : Waiter) (ctx va : Nat) : (awaitWalk s w ctx va).xlt.xfers = s.xlt.xfers := by
  have hmarked : ∀ u : State, u.xlt.xfers = s.xlt.xfers → (match u.walk ctx with
      | some r => u.setWalk ctx (some { r with waiters := if r.waiters.contains w then r.waiters else r.waiters ++ [w] })
      | none => if u.rd XLT.MODE ctx = 2 then
          (u.setWalk ctx (some { va, level := 0, table := 0, waiters := [w] })).emit
            (prefixed u ctx (.atsRequest ctx (va / 4096 * 4096)))
        else (u.setWalk ctx (some { va, level := (walkStart u ctx va).1, table := (walkStart u ctx va).2, waiters := [w] })).emit
            (.walkRead (entryAddr { va, level := (walkStart u ctx va).1, table := (walkStart u ctx va).2, waiters := [w] }))).xlt.xfers =
      s.xlt.xfers := fun u hu => by
    split
    · exact hu
    · split
      · exact hu
      · exact hu
  unfold awaitWalk
  cases w with
  | stream n => exact hmarked (awaitXlt s n) rfl
  | _ => exact hmarked s rfl

/-- The state in which a transfer that goes no further leaves its translation. -/
def Reach.stops : Reach → Option State
  | .go _ => none
  | .wait u => some u
  | .fail u _ => some u

theorem reachBus_xfers {w : Waiter} {ctx va : Nat} {write : Bool} {u : State} (h : (reachBus s w ctx va write).stops = some u) :
    u.xlt.xfers = s.xlt.xfers := by
  unfold reachBus at h
  split at h
  · cases h
    rw [xltFault_xlt]; rfl
  · split at h
    · cases h
    · cases h
      rw [xltFault_xlt]
    · simp only at h
      split at h
      · cases h
        rw [xltFault_xlt]; rfl
      · cases h
        rw [awaitWalk_xfers]; rfl

theorem reachWrite_xfers {u : State} (h : reachWrite s n = .error u) : u.xlt.xfers = s.xlt.xfers := by
  simp only [reachWrite] at h
  split at h
  · cases h
    rw [parkStream_xlt]; rfl
  · split at h
    · cases h
    · split at h
      · cases h
      · next hreach => cases h; exact reachBus_xfers (congrArg Reach.stops hreach)
      · next hreach =>
        cases h
        rw [parkStream_xlt]
        exact reachBus_xfers (congrArg Reach.stops hreach)

theorem retryStream_xfers (s : State) (n : Nat) : (retryStream s n).xlt.xfers = s.xlt.xfers := by
  unfold retryStream
  split
  · rw [unpark_xlt]
  · split
    · rw [unpark_xlt]
    · next h => exact reachWrite_xfers h

theorem stillReads_of_xfers (h : t.xlt.xfers = s.xlt.xfers) : stillReads t p = stillReads s p := by
  simp only [stillReads, pktXfer, h]

/-! STM_CONFIG (R387, R391, R394, R401). -/

/-- The node that forwarded a packet, with its exchange number (R425). -/
def configNode (p : Pkt) : Option (Nat × Nat) :=
  match p.src with
  | .mesh d fid => some (d, fid)
  | _ => none

/-- A stream with its ring, its quota and a state, and the node that configured it. -/
def configured (s : State) (p : Pkt) (n : Nat) (st : Int) : State :=
  let t := (s.put STM.RING_BASE n (pw64 p 2)).put STM.RING_BLOCKS n (pw p 4)
  let t := (t.put STM.WIDX_ADDR n (pw64 p 5)).put STM.QUOTA n (pw p 7)
  let t := ((t.put STM.WR_IDX n 0).put STM.RD_IDX n 0).put STM.STATE n st
  let t := t.setStream n { t.stream n with dataDone := false, waiting := false, node := configNode p }
  t.put MSH.FWD_STREAMS 0 (setBit (t.rdN MSH.FWD_STREAMS) n (configNode p).isSome)

theorem ringSize_lt {k : Nat} (h : ringSize k = true) : k < 2 ^ 21 := by
  obtain ⟨i, hi, hk⟩ := List.any_eq_true.1 h
  have hpow : 2 ^ (i + 1) ≤ 2 ^ 20 := Nat.pow_le_pow_right (by decide) (List.mem_range.1 hi)
  rw [beq_iff_eq] at hk
  omega

theorem configured_ring (s : State) (p : Pkt) (n : Nat) (st : Int) (hblocks : pw p 4 < 2 ^ 21)
    (hquota : pw p 7 < 2 ^ 13) : (configured s p n st).rd STM.RING_BASE n = (pw64 p 2 % 2 ^ 64 : Nat) ∧
      (configured s p n st).rd STM.RING_BLOCKS n = pw p 4 ∧
      (configured s p n st).rd STM.WIDX_ADDR n = (pw64 p 5 % 2 ^ 64 : Nat) ∧
      (configured s p n st).rd STM.QUOTA n = pw p 7 ∧ (configured s p n st).rd STM.WR_IDX n = 0 ∧
      (configured s p n st).rd STM.RD_IDX n = 0 ∧ (configured s p n st).rd STM.STATE n = STM.STATE.wrap st := by
  simp (disch := decide) only [configured, State.rd_put_ne, State.rd_put_same, State.rd_setStream]
  refine ⟨rfl, ?_, rfl, ?_, rfl, rfl, trivial⟩
  · exact Int.emod_eq_of_lt (Int.natCast_nonneg _) (mod_cast hblocks)
  · exact Int.emod_eq_of_lt (Int.natCast_nonneg _) (mod_cast hquota)

/-- What STM_CONFIG asks of its packet (R387, R391). -/
def configForm (p : Pkt) (n : Nat) : Prop :=
  pw p 2 % 4096 = 0 ∧ ringSize (pw p 4) = true ∧ pw p 5 % 8 = 0 ∧ 1 ≤ pw p 7 ∧ pw p 7 ≤ 4080 ∧ (n = 31 → pw p 7 = 16)

theorem configForm.values (h : configForm p n) {kept : Prop} (hkept : ¬kept) : ¬(pw p 2 % 4096 ≠ 0 ∨ (!ringSize (pw p 4)) = true ∨
    pw p 5 % 8 ≠ 0 ∨ (n = 31 ∧ pw p 7 ≠ 16) ∨ pw p 7 = 0 ∨ 4080 < pw p 7 ∨ kept) := by
  obtain ⟨hbase, hring, hwidx, hlow, hhigh, hown⟩ := h
  rw [hring]
  simp only [hkept, Bool.not_true, Bool.false_eq_true, or_false, false_or]
  omega

/-- A stream that has written nothing, or is detached or parked with an unchanged quota, takes a configuration. -/
theorem replies_stmConfig {st : Int} (hacc : accepted (.stmConfig p) s) (hn : targetStream p = some n) (hform : configForm p n)
    (hkept : ¬((s.stmState n = 3 ∨ s.stmState n = 5) ∧ pw p 7 ≠ s.rdN STM.QUOTA n))
    (hidle : ¬(s.stmState n = 2 ∨ s.stmState n = 4 ∨ s.stmState n = 6)) (hroom : n = 31 ∨ quotaSum s n + pw p 7 ≤ 4080)
    (hstop : stopped s .mem = false) (hst : st = if s.stmState n = 3 ∨ s.stmState n = 5 then 3 else 1) :
    replies (.stmConfig p) p s St.SUCCESS [] (configured s p n st) := by
  obtain ⟨hdisp, -, hgate, -⟩ := hacc
  have hspace : ¬(n ≠ 31 ∧ 4080 < quotaSum s n + pw p 7) := by omega
  refine replies_of_exec rfl hdisp hgate ?_
  simp only [hn, if_neg (hform.values hkept), hstop, if_neg hidle, if_neg hspace, Bool.false_eq_true, if_false, ← hst]
  rfl

/-- A stream that runs or stops takes none. -/
theorem replies_stmConfig_running (hacc : accepted (.stmConfig p) s) (hn : targetStream p = some n) (hform : configForm p n)
    (hruns : s.stmState n ∈ [2, 4, 6]) (hstop : stopped s .mem = false) : replies (.stmConfig p) p s St.WRONG_STATE [] s := by
  obtain ⟨hdisp, -, hgate, -⟩ := hacc
  have hbusy : s.stmState n = 2 ∨ s.stmState n = 4 ∨ s.stmState n = 6 := by simpa using hruns
  have hkept : ¬((s.stmState n = 3 ∨ s.stmState n = 5) ∧ pw p 7 ≠ s.rdN STM.QUOTA n) := by omega
  refine replies_of_exec rfl hdisp hgate ?_
  simp only [hn, if_neg (hform.values hkept), hstop, if_pos hbusy, Bool.false_eq_true, if_false]
  rfl

/-! STM_START, STM_STOP, STM_FLUSH and STM_RESOLVE (R394, R403, R405, R410). -/

theorem replies_stmStart (hacc : accepted (.stmStart p) s) (hn : targetStream p = some n) (hstop : stopped s .mem = false)
    (hst : s.stmState n = 1) : replies (.stmStart p) p s St.SUCCESS []
      ((s.setStream n { s.stream n with openAt := s.clock + 125 }).put STM.STATE n 2) := by
  obtain ⟨hdisp, -, hgate, -⟩ := hacc
  refine replies_of_exec rfl hdisp hgate ?_
  simp only [hn, hstop, if_pos hst, Bool.false_eq_true, if_false]
  rfl

/-- A stream that was configured and not started stops at once; RELEASE gives its quota back. -/
theorem replies_stmStop_configured (hacc : accepted (.stmStop p) s) (hn : targetStream p = some n) (hstop : stopped s .mem = false)
    (hst : s.stmState n = 1) : replies (.stmStop p) p s St.SUCCESS [] (if bit (pw p 2) 1 then
      (s.put STM.STATE n 0).put STM.QUOTA n (if n = 31 then 16 else 0) else s) := by
  obtain ⟨hdisp, -, hgate, -⟩ := hacc
  refine replies_of_exec rfl hdisp hgate ?_
  simp only [hn, hstop, if_pos hst, Bool.false_eq_true, if_false]
  rfl

/-- A stream that runs or is parked stops at the next loop-cycle boundary. -/
theorem waits_stmStop (hacc : accepted (.stmStop p) s) (hn : targetStream p = some n) (hstop : stopped s .mem = false)
    (hst : s.stmState n = 2 ∨ s.stmState n = 3) (hfree : (s.stream n).stop = none) :
    waits (.stmStop p) p s (unbecalm (s.setStream n { s.stream n with
      stop := some { src := p.src, tag := pTag p, release := bit (pw p 2) 1, discard := bit (pw p 2) 0, due := true } }) n) := by
  obtain ⟨hdisp, hread, hgate, -⟩ := hacc
  have hstarted : s.stmState n ≠ 1 := by omega
  refine waits_of_exec rfl hdisp hgate ?_ ((stillReads_of_xlt (unbecalm_xlt _ n)).trans hread)
  simp only [hn, hstop, if_neg hstarted, hfree, Option.isNone_none, and_true, if_pos hst, Bool.false_eq_true, if_false]

theorem replies_stmStop_stopping (hacc : accepted (.stmStop p) s) (hn : targetStream p = some n) (hstop : stopped s .mem = false)
    (hst : s.stmState n = 2) (hbusy : (s.stream n).stop ≠ none) : replies (.stmStop p) p s St.WRONG_STATE [] s := by
  obtain ⟨hdisp, -, hgate, -⟩ := hacc
  have hstarted : s.stmState n ≠ 1 := by omega
  have htaken : ¬((s.stmState n = 2 ∨ s.stmState n = 3) ∧ (s.stream n).stop.isNone = true) :=
    fun h => hbusy (Option.isNone_iff_eq_none.1 h.2)
  refine replies_of_exec rfl hdisp hgate ?_
  simp only [hn, hstop, if_neg hstarted, if_neg htaken, Bool.false_eq_true, if_false]
  rfl

theorem replies_stmFlush_empty (hacc : accepted (.stmFlush p) s) (hn : targetStream p = some n) (hstop : stopped s .mem = false)
    (hopen : (s.stream n).open_ = none) : replies (.stmFlush p) p s St.SUCCESS [0xFFFFFFFF] s := by
  obtain ⟨hdisp, -, hgate, -⟩ := hacc
  refine replies_of_exec rfl hdisp hgate ?_
  simp only [hn, hstop, hopen, Option.isNone_none, Bool.false_eq_true, if_false, if_true]
  rfl

theorem replies_stmFlush_held {b : OpenBlk} (hacc : accepted (.stmFlush p) s) (hn : targetStream p = some n)
    (hstop : stopped s .mem = false) (hopen : (s.stream n).open_ = some b) (hst : s.stmState n = 3 ∨ s.stmState n = 5) :
    replies (.stmFlush p) p s St.SUCCESS_WARN [s.rdN STM.BLOCK_SEQ n, 0, 0, 1] (closeBlock s n 5) := by
  obtain ⟨hdisp, -, hgate, -⟩ := hacc
  refine replies_of_exec rfl hdisp hgate ?_
  simp only [hn, hstop, hopen, Option.isNone_some, if_pos hst, Bool.false_eq_true, if_false]

theorem waits_stmFlush {b : OpenBlk} (hacc : accepted (.stmFlush p) s) (hn : targetStream p = some n)
    (hstop : stopped s .mem = false) (hopen : (s.stream n).open_ = some b) (hst : s.stmState n = 2) :
    waits (.stmFlush p) p s (flushCheck ((closeBlock s n 5).setStream n { (closeBlock s n 5).stream n with
      flushes := ((closeBlock s n 5).stream n).flushes ++ [(p.src, pTag p, s.rdN STM.BLOCK_SEQ n)] }) n St.INTERRUPTED) := by
  obtain ⟨hdisp, hread, hgate, -⟩ := hacc
  have hruns : ¬(s.stmState n = 3 ∨ s.stmState n = 5) := by omega
  refine waits_of_exec rfl hdisp hgate ?_ ((stillReads_of_xlt ?_).trans hread)
  · simp only [hn, hstop, hopen, Option.isNone_some, if_neg hruns, Bool.false_eq_true, if_false]
  · rw [flushCheck_xlt, State.setStream_xlt, closeBlock_xlt]

theorem waits_stmResolve (hacc : accepted (.stmResolve p) s) (hn : targetStream p = some n) (hstop : stopped s .mem = false)
    (hst : s.stmState n = 3 ∨ s.stmState n = 6) :
    waits (.stmResolve p) p s (retryStream (overtake (s.setStream n { s.stream n with
      retries := (s.stream n).retries ++ [(p.src, pTag p)] }) n) n) := by
  obtain ⟨hdisp, hread, hgate, -⟩ := hacc
  refine waits_of_exec rfl hdisp hgate ?_ ((stillReads_of_xfers (retryStream_xfers _ n)).trans hread)
  simp only [hn, hstop, if_pos hst, Bool.false_eq_true, if_false]
  rfl

end

/-- Settles O39: each command's checks pass under the premises; what its stream then holds is `configured_ring`, and a command that waits
reads nothing more. -/
theorem streamCommandsComplete : Obligations.StreamCommandsComplete := by
  refine ⟨?_, ?_, ?_, ?_, ?_, ?_, ?_, ?_, ?_, ?_, ?_, ?_⟩
  · intro s p n hacc hn hbase hring hwidx hlow hhigh hown hst hroom hstop
    have hreply := replies_stmConfig hacc hn ⟨hbase, hring, hwidx, hlow, hhigh, hown⟩ (by omega) (by omega) (.inr hroom) hstop
      (if_neg (by omega)).symm
    exact ⟨_, hreply, configured_ring s p n 1 (ringSize_lt hring) (by omega)⟩
  · intro s p n hacc hn hbase hring hwidx hlow hhigh hown hst hquota hroom hstop
    have hkept : pw p 7 = s.rdN STM.QUOTA n := by rw [State.rdN, hquota, Int.toNat_natCast]
    have hreply := replies_stmConfig hacc hn ⟨hbase, hring, hwidx, hlow, hhigh, hown⟩ (fun h => h.2 hkept) (by omega) hroom hstop
      (if_pos hst).symm
    obtain ⟨hbase', hblocks', hwidx', -, hwr', hrd', hst'⟩ := configured_ring s p n 3 (ringSize_lt hring) (by omega)
    exact ⟨_, hreply, hbase', hblocks', hwidx', hwr', hrd', hst'⟩
  · exact fun s p n hacc hn hbase hring hwidx hlow hhigh hown hst hstop =>
      replies_stmConfig_running hacc hn ⟨hbase, hring, hwidx, hlow, hhigh, hown⟩ hst hstop
  · exact fun s p n hacc hn hstop hst => replies_stmStart hacc hn hstop hst
  · intro s p n hacc hn hstop hst hkeep
    have hreply := replies_stmStop_configured hacc hn hstop hst
    rwa [hkeep, if_neg Bool.false_ne_true] at hreply
  · intro s p n hacc hn hstop hst hrelease
    have hreply := replies_stmStop_configured hacc hn hstop hst
    rwa [if_pos hrelease] at hreply
  · exact fun s p n hacc hn hstop hst hfree => waits_stmStop hacc hn hstop hst hfree
  · exact fun s p n hacc hn hstop hst hbusy => replies_stmStop_stopping hacc hn hstop hst hbusy
  · exact fun s p n hacc hn hstop hopen => replies_stmFlush_empty hacc hn hstop hopen
  · exact fun s p n b hacc hn hstop hopen hst => replies_stmFlush_held hacc hn hstop hopen hst
  · exact fun s p n b hacc hn hstop hopen hst => ⟨_, rfl, waits_stmFlush hacc hn hstop hopen hst⟩
  · exact fun s p n hacc hn hstop hst => waits_stmResolve hacc hn hstop hst

end Sys2Proof.Machine
end

section
/-!
The events of streams: records, the units of the DMA engine, and read indices.
-/
namespace Sys2Proof.Machine
open Sys2Proof.Claims

section
variable {s : State} {g n v a b : Nat} {h : Held} {rest : List Held} {media : Bool} {x : Xfer}

/-! Records and the age of a block (R380, R383). -/

theorem goes_streamRecordArrive (hfifo : (s.group g).fifo = h :: rest)
    (hcarrier : carrier (s.setGroup g { s.group g with fifo := rest }) g = some n) :
    goes (.streamRecordArrive g) s (place (s.setGroup g { s.group g with fifo := rest }) n h) := by
  show execStreamRecordArrive g s = _
  simp only [execStreamRecordArrive, hfifo, hcarrier]
  rfl

theorem goes_streamRecordArrive_uncarried (hfifo : (s.group g).fifo = h :: rest)
    (hcarrier : carrier (s.setGroup g { s.group g with fifo := rest }) g = none) :
    goes (.streamRecordArrive g) s (s.setGroup g { s.group g with fifo := rest }) := by
  show execStreamRecordArrive g s = _
  simp only [execStreamRecordArrive, hfifo, hcarrier]
  rfl

theorem goes_blockAgeExpiry {blk : OpenBlk} (hopen : (s.stream n).open_ = some blk) (hlimit : s.rd STM.MAX_AGE n ≠ 0)
    (hage : blk.since + 1000 * s.rdN STM.MAX_AGE n ≤ s.clock) : goes (.blockAgeExpiry n) s (closeBlock s n 6) := by
  show execBlockAgeExpiry n s = _
  rw [execBlockAgeExpiry, hopen]
  exact if_pos ⟨hlimit, hage⟩

/-! The units of the DMA engine (R388, R396). -/

theorem goes_dmaUnitIssue {w : Waiter} (hnext : nextUnit s = some w) : goes (.dmaUnitIssue media) s
    (issueFor { s with xlt := { s.xlt with served := s.xlt.served.filter (fun v => v != w) ++ [w] } } media w) := by
  show execDmaUnitIssue media s = _
  rw [execDmaUnitIssue, hnext]
  rfl

theorem issueFor_stream (hreach : reachWrite s n = .ok a) :
    issueFor s media (.stream n) = if (s.stream n).dataDone then issueIndex s n a else issueData s n a media := by
  simp only [issueFor, issueStream, hreach]

/-- A stream of another node, or in a context that bypasses translation, writes at its own address. -/
theorem reachWrite_direct (hgood : (s.stream n).failNext = none)
    (hway : (s.stream n).node.isSome = true ∨ s.rd XLT.MODE (s.rdN STM.CTX n) = 0) : reachWrite s n = .ok (nextAddr s n) := by
  simp only [reachWrite, hgood]
  split
  · rfl
  · next hnode => rw [reachBus_bypass _ (hway.resolve_left hnode)]

/-- A command's unit in such a context goes out at the transfer's address. -/
theorem issueFor_cmd {src : Src} {tag : Nat} (hx : pktXferOf s src tag = some x) (hnear : xferNode x = none)
    (hmode : s.rd XLT.MODE x.ctx = 0) : issueFor s media (.cmd src tag) = unitDone (s.request x.ctx
      (if x.write then .hostWrite x.ctx x.addr (x.words.take (unitBytes x / 4)) else .hostRead x.ctx x.addr (unitBytes x))) x := by
  have hxfer : xferOf s (.cmd src tag) = some x := hx
  simp only [issueFor, hxfer, issueUnit, hnear, reachBus_bypass _ hmode]

theorem unitDone_last {src : Src} {tag : Nat} (hwho : x.who = .cmd src tag) (hall : x.left = unitBytes x) (hwrite : x.write = true) :
    unitDone s x = xferEnds (dropXfer s x.who) src tag x.fin := by
  have hover : ¬(x.left - unitBytes x ≠ 0) := by omega
  simp only [unitDone, if_neg hover, hwho, hwrite, if_true]

theorem unitDone_more (hmore : x.left ≠ unitBytes x) : unitDone s x = setXfer s { x with
    addr := x.addr + unitBytes x, left := x.left - unitBytes x
    words := if x.write then x.words.drop (unitBytes x / 4) else x.words, asked := false } := by
  have hleft : x.left - unitBytes x ≠ 0 := by
    have hle : unitBytes x ≤ x.left := Nat.min_le_left _ _
    omega
  simp only [unitDone, if_pos hleft]

/-! Read indices (R389, R425). -/

theorem takeReadIndex_within (hidle : s.stmState n ≠ 0) (hdetached : s.stmState n ≠ 5)
    (hwithin : (v + 2 ^ 32 - s.rdN STM.RD_IDX n) % 2 ^ 32 ≤ (s.rdN STM.WR_IDX n + 2 ^ 32 - s.rdN STM.RD_IDX n) % 2 ^ 32) :
    takeReadIndex s n v = s.put STM.RD_IDX n v := if_neg (by omega)

theorem goes_rdIdxDoorbell (hn : n < 32) (hopen : s.barOpen = true) (hnode : (s.stream n).node = none) (hv : v < 2 ^ 32) :
    goes (.rdIdxDoorbell n v) s (takeReadIndex s n v) := by
  have hmine : ¬(32 ≤ n ∨ (s.stream n).node.isSome = true ∨ (!s.barOpen) = true) := by simp [hnode, hopen, hn]
  refine (if_neg hmine).trans ?_
  rw [Nat.mod_eq_of_lt hv]
  rfl

theorem goes_fwdRdIdxPoll {d : Nat × Nat} (hn : n < 32) (hnode : (s.stream n).node = some d) (hblocks : (s.stream n).blocks ≠ [])
    (hv : v < 2 ^ 32) (hfull : s.rdN STM.RING_BLOCKS n ≤ (s.rdN STM.WR_IDX n + 2 ^ 32 - s.rdN STM.RD_IDX n) % 2 ^ 32)
    (hdue : ∀ l, (s.stream n).polledAt = some l → l + 10000 ≤ s.clock) (ha : a = s.rdN STM.WIDX_ADDR n + 8) :
    goes (.fwdRdIdxPoll n v) s (takeReadIndex ((s.setStream n { s.stream n with polledAt := some s.clock }).frameTo d.1 2
      [1, s.rdN MSH.NODE_ID, d.2, n + 1, lo32 a, hi32 a, 4]) n v) := by
  subst ha
  have hwaits : (!(s.stream n).blocks.isEmpty) = true := by simpa using hblocks
  have hpolls : (match (s.stream n).polledAt with
      | some l => decide (l + 10000 ≤ s.clock)
      | none => true) = true := by
    cases hpolled : (s.stream n).polledAt with
    | none => rfl
    | some l => exact decide_eq_true (hdue l hpolled)
  show execFwdRdIdxPoll n v s = _
  simp only [execFwdRdIdxPoll, hnode]
  refine (if_pos ⟨hn, hwaits, hfull, hpolls⟩).trans ?_
  rw [Nat.mod_eq_of_lt hv]
  rfl

end

/-- Settles O40: what a record, a unit and a read index find decides what they do. -/
theorem streamEventRowsComplete : Obligations.StreamEventRowsComplete := by
  refine ⟨?_, ?_, ?_, ?_, ?_, ?_, ?_, ?_, ?_, ?_, ?_, ?_, ?_, ?_⟩
  · exact fun s g h rest n hfifo hcarrier => goes_streamRecordArrive hfifo hcarrier
  · exact fun s g h rest hfifo hcarrier => goes_streamRecordArrive_uncarried hfifo hcarrier
  · exact fun s n b hopen hlimit hage => goes_blockAgeExpiry hopen hlimit hage
  · exact fun s media w hnext => goes_dmaUnitIssue hnext
  · exact fun s media n a hreach => issueFor_stream hreach
  · exact fun s n hgood hway => reachWrite_direct hgood hway
  · exact fun s media src tag x b hx hnear hmode hb => hb ▸ issueFor_cmd hx hnear hmode
  · exact fun s x src tag hwho hall hwrite => unitDone_last hwho hall hwrite
  · exact fun s x hmore => unitDone_more hmore
  · exact fun s src tag res => rfl
  · intro s n v hn hopen hnode hv hidle hdetached hwithin
    have hgoes := goes_rdIdxDoorbell hn hopen hnode hv
    rwa [takeReadIndex_within hidle hdetached hwithin] at hgoes
  · intro s n v hn hopen hnode hv hbeyond
    have hgoes := goes_rdIdxDoorbell hn hopen hnode hv
    rwa [takeReadIndex, if_pos (.inr (.inr hbeyond))] at hgoes
  · exact fun s n v d hn hnode hblocks hv hfull hdue => ⟨_, rfl, goes_fwdRdIdxPoll hn hnode hblocks hv hfull hdue rfl⟩
  · exact fun s n v hidle hdetached hwithin => takeReadIndex_within hidle hdetached hwithin

end Sys2Proof.Machine
end

section
/-!
The commands of the mesh. A node that leaves its membership drops what it does for others (R415, R424), and no command of its own comes to
read again by that.
-/
namespace Sys2Proof.Machine
open Sys2Proof.Claims

section
variable {s t u : State} {p : Pkt} {n i : Nat} {lanes errors tag lb : Nat} {src : Src} {d : HostData} {ws : List Nat} {wr : Option HostFault}

/-! Transfers that are dropped: a command reads on only by its first transfer. -/

theorem stillReads_eq_false : stillReads s p = false ↔ ∀ x, pktXfer s p = some x → (!x.write && x.left != 0) = false := by
  unfold stillReads
  cases pktXfer s p <;> simp

/-- Where the first transfer of a requester reads nothing more, and dropping one of its transfers drops all its reads, its first one after
that reads nothing either. -/
theorem find?_filter_reads {w : Waiter} {keep : Xfer → Bool}
    (hdrop : ∀ x, x.who = w → keep x = false → ∀ y : Xfer, y.who = w → y.write = false → keep y = false) {xs : List Xfer}
    (hread : ∀ x, xs.find? (fun x => x.who == w) = some x → (!x.write && x.left != 0) = false) :
    ∀ x, (xs.filter keep).find? (fun x => x.who == w) = some x → (!x.write && x.left != 0) = false := by
  induction xs with
  | nil => exact hread
  | cons x xs ih =>
    by_cases hwho : x.who = w
    · cases hkeep : keep x with
      | true =>
        rw [List.filter_cons_of_pos hkeep, List.find?_cons_of_pos (by simpa using hwho)]
        rwa [List.find?_cons_of_pos (by simpa using hwho)] at hread
      | false =>
        rw [List.filter_cons_of_neg (by simp [hkeep])]
        intro y hy
        have hmine : y.who = w := by simpa using List.find?_some hy
        have hkept : keep y = true := (List.mem_filter.1 (List.mem_of_find?_eq_some hy)).2
        cases hwrite : y.write with
        | true => rfl
        | false => exact absurd hkept (by rw [hdrop x hwho hkeep y hmine hwrite]; exact Bool.false_ne_true)
    · rw [List.find?_cons_of_neg (by simpa using hwho)] at hread
      cases hkeep : keep x with
      | true =>
        rw [List.filter_cons_of_pos hkeep, List.find?_cons_of_neg (by simpa using hwho)]
        exact ih hread
      | false =>
        rw [List.filter_cons_of_neg (by simp [hkeep])]
        exact ih hread

theorem stillReads_of_filter {keep : Xfer → Bool} (hxfers : t.xlt.xfers = s.xlt.xfers.filter keep)
    (hdrop : ∀ x : Xfer, x.who = .cmd p.src (pTag p) → keep x = false →
      ∀ y : Xfer, y.who = .cmd p.src (pTag p) → y.write = false → keep y = false)
    (hread : stillReads s p = false) : stillReads t p = false := by
  rw [stillReads_eq_false] at hread ⊢
  unfold pktXfer at hread ⊢
  rw [hxfers]
  exact find?_filter_reads hdrop hread

theorem stillReads_freeCore (q : Pkt) (hread : stillReads s p = false) : stillReads (freeCore s q) p = false := by
  refine stillReads_of_filter (s := s) rfl (fun x hx hkeep y hy hwrite => ?_) hread
  simp only [Bool.not_eq_false', Bool.and_eq_true, beq_iff_eq, hx, hy, hwrite, Bool.not_false, and_true] at hkeep ⊢
  exact hkeep.1

/-! What leaving a mesh does to the transfers (R415, R424). -/

theorem askAgain_xfers (s : State) : (askAgain s).xlt.xfers = s.xlt.xfers.map fun x => { x with asked := false } := by
  unfold askAgain
  dsimp only
  rw [foldl_unchanged (f := State.xlt) (fun t n => by split <;> rfl)]
  rfl

theorem stillReads_askAgain (hread : stillReads s p = false) : stillReads (askAgain s) p = false := by
  rw [stillReads_eq_false] at hread ⊢
  unfold pktXfer at hread ⊢
  rw [askAgain_xfers, List.find?_map]
  intro x hx
  obtain ⟨y, hy, rfl⟩ := Option.map_eq_some_iff.1 hx
  exact hread y hy

theorem stillReads_dropFar (hread : stillReads s p = false) : stillReads (dropFar s) p = false := by
  have hlost : ∀ (ops : List Op) (t : State), stillReads t p = false →
      stillReads (ops.foldl (fun s o => finish o.pkt (refuse s St.INTERRUPTED)) t) p = false := by
    intro ops
    induction ops with
    | nil => exact fun t h => h
    | cons o ops ih =>
      intro t h
      exact ih _ ((stillReads_of_xlt (complete_xlt _ _ _ _ _)).trans (stillReads_freeCore o.pkt h))
  unfold dropFar
  refine stillReads_askAgain (hlost _ _ (stillReads_of_filter (s := s) rfl (fun x hx hkeep y hy _ => ?_) hread))
  simp only [farOf, xferNode, hx, hy] at hkeep ⊢
  exact hkeep

theorem dropForwards_xlt (s : State) : (dropForwards s).xlt = s.xlt :=
  foldl_xlt (fun s (f : Fwd) => complete_xlt s f.src f.tag St.INTERRUPTED []) s.msh.fwds _

theorem dropTimeCtl_xlt (s : State) : (dropTimeCtl s).xlt = s.xlt := by
  unfold dropTimeCtl
  split
  · exact complete_xlt _ _ _ _ _
  · rfl

theorem loseEnum_xlt (s : State) : (loseEnum s).xlt = s.xlt := by
  unfold loseEnum
  split
  · exact complete_xlt _ _ _ _ _
  · rfl

theorem stillReads_leaveMesh (hread : stillReads s p = false) : stillReads (leaveMesh s) p = false := by
  refine (stillReads_of_xlt ?_).trans (stillReads_dropFar hread)
  simp only [leaveMesh, syncOff, State.setMsh_xlt, foldl_xlt (fun s n => State.setPort_xlt s n _), State.put_xlt, dropTimeCtl_xlt,
    dropForwards_xlt]

/-! MESH_ENUMERATE (R415, R417, R419, R433). -/

/-- A node is the root of a new generation (R415, R416). -/
def newRoot (s : State) (p : Pkt) : State :=
  let gen := (s.msh.maxGen + 1) % 65536
  let t := ((s.put MSH.ENUM_STATE 0 1).put MSH.NODE_ID 0 0).put MSH.GENERATION 0 gen
  let t := (t.put MSH.HOPS 0 0).put MSH.TREE 0 2
  t.setMsh { t.msh with maxGen := gen, rootSerial := execMeshEnumerate.serialNumber, enum := some (p.src, pTag p), assigned := 1 }

theorem newRoot_xlt (s : State) (p : Pkt) : (newRoot s p).xlt = s.xlt := rfl

theorem newRoot_member (s : State) (p : Pkt) : (newRoot s p).rd MSH.ENUM_STATE = 1 ∧ (newRoot s p).rd MSH.NODE_ID = 0 ∧
    (newRoot s p).rd MSH.HOPS = 0 ∧ (newRoot s p).msh.enum = some (p.src, pTag p) ∧ (newRoot s p).msh.assigned = 1 ∧
    (newRoot s p).msh.routes = s.msh.routes := by
  refine ⟨?_, ?_, ?_, rfl, rfl, rfl⟩ <;>
  · simp (disch := decide) only [newRoot, State.rd_setMsh, State.rd_put_ne, State.rd_put_same]
    rfl

/-- It has left the mesh it was in. -/
def rootOf (s : State) (p : Pkt) : State := newRoot (leaveMesh (loseEnum s)) p

theorem exec_meshEnumerate : exec (.meshEnumerate p) s = runCmd s p 0x0A01 {} (meshCmd s (.later (rootOf s p))) := rfl

theorem waits_meshEnumerate (hacc : accepted (.meshEnumerate p) s) (hstop : stopped s .msh = false) :
    waits (.meshEnumerate p) p s (rootOf s p) := by
  obtain ⟨hdisp, hread, hgate, -⟩ := hacc
  have hlost : stillReads (loseEnum s) p = false := (stillReads_of_xlt (loseEnum_xlt s)).trans hread
  refine waits_of_exec exec_meshEnumerate hdisp hgate ?_ ((stillReads_of_xlt (newRoot_xlt _ p)).trans (stillReads_leaveMesh hlost))
  simp only [meshCmd, hstop, Bool.false_eq_true, if_false]

theorem setPort_enum (s : State) (n : Nat) (v : PortRun) : (s.setPort n v).msh.enum = s.msh.enum := rfl

theorem startRepair_enum (s : State) : (startRepair s).msh.enum = s.msh.enum := by
  unfold startRepair
  split
  · rfl
  · rw [foldl_unchanged (f := fun t => t.msh.enum) (fun t p => by split <;> rfl)]
    rfl

theorem repairOwed_enum (s : State) : (repairOwed s).msh.enum = s.msh.enum := by
  unfold repairOwed
  split
  · exact startRepair_enum _
  · rfl

theorem learn_enum (s : State) (g : MeshGraph) (claimed : Bool) : (learn s g claimed).msh.enum = s.msh.enum := by
  unfold learn
  dsimp only [State.setMsh]
  rw [foldl_unchanged (f := fun t => t.msh.enum) (fun t p => setPort_enum t p _)]
  rfl

theorem goes_meshEnumerateDone {g : MeshGraph} {e : Src × Nat} (henum : s.msh.enum = some e) : ∃ u status res,
    goes (.meshEnumerateDone g) s (State.complete u e.1 e.2 status res) ∧
    status ∈ [St.SUCCESS, St.SUCCESS_WARN, St.NODE_SPACE_FULL] ∧ res.length = 4 ∧ u.msh.enum = none := by
  have hexec : exec (.meshEnumerateDone g) s = execMeshEnumerateDone g s := rfl
  simp only [execMeshEnumerateDone, henum] at hexec
  refine ⟨_, _, _, hexec, ?_, rfl, (repairOwed_enum _).trans (learn_enum _ _ _)⟩
  split_ifs <;> decide

/-! MESH_ROUTE_READ (R436). -/

/-- The entries of the route table from one on, two a word. -/
def routeWords (s : State) (first n : Nat) : List Nat :=
  (List.range (ceilDiv n 2)).map fun i =>
    routeOf s (first + 2 * i) + (if 2 * i + 1 < n then routeOf s (first + 2 * i + 1) * 65536 else 0)

theorem routeWords_length (s : State) (first n : Nat) : (routeWords s first n).length = (n + 1) / 2 := by
  rw [routeWords, List.length_map, List.length_range]
  rfl

theorem routeWords_pair {first : Nat} (hi : 2 * i + 1 < n) :
    (routeWords s first n).getD i 0 = routeOf s (first + 2 * i) + routeOf s (first + 2 * i + 1) * 65536 := by
  have hlen : i < ceilDiv n 2 := by rw [ceilDiv]; omega
  simp [routeWords, List.getD, List.getElem?_map, List.getElem?_range hlen, hi]

theorem waits_meshRouteRead (hacc : accepted (.meshRouteRead p wr) s) (hstop : stopped s .msh = false) (halign : pw p 2 % 64 = 0)
    (hsome : 1 ≤ pw p 5) (hend : pw p 4 + pw p 5 ≤ 16384) :
    waits (.meshRouteRead p wr) p s (writing s p (pw64 p 2) (routeWords s (pw p 4) (pw p 5)) (.plain [])) := by
  obtain ⟨hdisp, hread, hgate, -⟩ := hacc
  have hform : ¬(pw p 2 % 64 ≠ 0 ∨ pw p 5 = 0 ∨ 16384 < pw p 4 + pw p 5) := by omega
  refine waits_of_exec rfl hdisp hgate ?_ (stillReads_writing hread)
  simp only [meshCmd, hstop, if_neg hform, Bool.false_eq_true, if_false]
  rfl

/-! MESH_FORWARD (R422, R423). -/

/-- An exchange begins: its targets are to answer, in the context and at the priority of its packet. -/
def forwardBegun (s : State) (p : Pkt) (ws targets : List Nat) (unreach : Nat) : State :=
  s.setMsh { s.msh with
    nextFid := s.msh.nextFid + 1
    fwds := s.msh.fwds ++ [
      { src := p.src, tag := pTag p, fid := s.msh.nextFid, target := pw p 5, left := targets, unreach := unreach }]
    ctxs := Bank.set (fun _ => 0) s.msh.ctxs s.msh.nextFid (pktCtx p)
    prios := Bank.set (fun _ => 0) s.msh.prios s.msh.nextFid (pPrio ⟨p.src, pad 16 ws⟩) }

theorem waits_meshForward_one (hacc : accepted (.meshForward p d) s) (hstop : stopped s .msh = false) (hptr : pPtr p = true)
    (hgives : hostGives s p d ws) (hcarried : notForwarded ((pad 16 ws).getD 0 0) = false) (hone : pw p 5 ≠ 0x3FFF)
    (hknown : pw p 5 < s.msh.assigned) (hother : pw p 5 ≠ nodeId s) (hmember : enumState s = 1)
    (hroute : routeValid s (pw p 5) = true) : waits (.meshForward p d) p s
      ((forwardBegun s p ws [pw p 5] 0).frameTo (pw p 5) 1 ([0, nodeId s, s.msh.nextFid] ++ pad 16 ws)) := by
  obtain ⟨hdisp, hread, hgate, hres⟩ := hacc
  have hvalue : ¬(notForwarded ((pad 16 ws).getD 0 0) = true ∨ (pw p 5 ≠ 0x3FFF ∧ (s.msh.assigned ≤ pw p 5 ∨ pw p 5 = nodeId s))) := by
    rw [hcarried]
    simp only [Bool.false_eq_true, false_or]
    omega
  have hready : ¬(enumState s ≠ 1 ∨ (pw p 5 ≠ 0x3FFF ∧ (!routeValid s (pw p 5)) = true)) := by simp [hmember, hroute]
  refine waits_of_exec rfl hdisp hgate ((withBlock_given hptr hgives hres).trans ?_) ((stillReads_of_xlt (frameTo_xlt _ _ _ _ _ _)).trans hread)
  simp only [meshCmd, hstop, if_neg hvalue, if_neg hready, if_neg hone, List.isEmpty_cons, Bool.false_eq_true, if_false]
  rfl

theorem floodOn_xlt (s : State) (words : List Nat) (hops : Nat) (but : Option Nat) : (floodOn s words hops but).xlt = s.xlt :=
  foldl_xlt (fun s p => by split <;> rfl) (List.range 4) s

theorem waits_meshForward_all (hacc : accepted (.meshForward p d) s) (hstop : stopped s .msh = false) (hptr : pPtr p = true)
    (hgives : hostGives s p d ws) (hcarried : notForwarded ((pad 16 ws).getD 0 0) = false) (hall : pw p 5 = 0x3FFF)
    (hmember : enumState s = 1) (hsome : reachable s ≠ []) : waits (.meshForward p d) p s
      (floodOn (forwardBegun s p ws (reachable s) (s.msh.assigned - 1 - (reachable s).length))
        ([0, nodeId s, s.msh.nextFid] ++ pad 16 ws) 1 none) := by
  obtain ⟨hdisp, hread, hgate, hres⟩ := hacc
  have hvalue : ¬(notForwarded ((pad 16 ws).getD 0 0) = true ∨ (pw p 5 ≠ 0x3FFF ∧ (s.msh.assigned ≤ pw p 5 ∨ pw p 5 = nodeId s))) := by
    rw [hcarried]
    simp [hall]
  have hready : ¬(enumState s ≠ 1 ∨ (pw p 5 ≠ 0x3FFF ∧ (!routeValid s (pw p 5)) = true)) := by simp [hmember, hall]
  have htargets : ¬(reachable s).isEmpty = true := fun h => hsome (List.isEmpty_iff.1 h)
  refine waits_of_exec rfl hdisp hgate ((withBlock_given hptr hgives hres).trans ?_) ((stillReads_of_xlt (floodOn_xlt _ _ _ _)).trans hread)
  simp only [meshCmd, hstop, if_neg hvalue, if_neg hready, if_pos hall, if_neg htargets, Bool.false_eq_true, if_false]
  rfl

/-! MESH_PORT_CTL and the ends of loopbacks (R412, R432). -/

/-- MESH_PORT_CTL without a loopback takes a port down by RETRAIN, where it is UP. -/
theorem replies_meshPortCtl (hacc : accepted (.meshPortCtl p) s) (hport : targetInst p 0x0B = some i) (hi : i ≠ 0)
    (hnone : fld (pw p 2) 4 3 = 0) (hstop : stopped s .msh = false) (hstate : portState s (i - 1) ∉ [0, 4])
    (hfree : (s.port (i - 1)).lb = none) : replies (.meshPortCtl p) p s St.SUCCESS []
      (if bit (pw p 2) 0 ∧ portState s (i - 1) = 3 then portDrops s (i - 1) else s) := by
  obtain ⟨hdisp, -, hgate, -⟩ := hacc
  have hnot : portState s (i - 1) ≠ 0 ∧ portState s (i - 1) ≠ 4 := by simpa using hstate
  refine replies_of_exec rfl hdisp hgate ?_
  simp only [hport, if_neg hi, hnone, hfree, meshCmd, hstop, hnot.1, hnot.2, Option.isSome_none, Nat.not_lt_zero, ne_eq, not_true_eq_false,
    false_and, false_or, Bool.false_eq_true, if_false, if_true, OfNat.zero_ne_ofNat]
  rfl

/-- ECHO sends its frames by a port that is UP. -/
theorem waits_meshPortCtl_echo (hacc : accepted (.meshPortCtl p) s) (hport : targetInst p 0x0B = some i) (hi : i ≠ 0)
    (hecho : fld (pw p 2) 4 3 = 4) (hstop : stopped s .msh = false) (hgrant : grantsLoop (lcFor s p) false = true)
    (hup : portState s (i - 1) = 3) (hfree : (s.port (i - 1)).lb = none) (hu : u = s.setPort (i - 1) { s.port (i - 1) with
      lb := some (p.src, pTag p, 4), lbAt := s.clock, echoes := 0 }) :
    waits (.meshPortCtl p) p s { u with sent := u.sent ++ List.replicate 1000 (.frame (i - 1) 1 [7]) } := by
  subst hu
  obtain ⟨hdisp, hread, hgate, -⟩ := hacc
  have hallowed : ¬(4 ≠ 0 ∧ (!grantsLoop (lcFor s p) (4 != 4)) = true) := by
    rw [bne_self_eq_false, hgrant]; simp
  refine waits_of_exec rfl hdisp hgate ?_ ((stillReads_of_xlt rfl).trans hread)
  simp only [hport, if_neg hi, hecho, hfree, hup, meshCmd, hstop, Option.isSome_none, if_neg hallowed, Bool.false_eq_true, if_false]
  rfl

/-- The result of a loopback on a port, and the port's cause where it failed. -/
def loopbackOver (u : State) (n lanes errors : Nat) : State := if lanes = 0 ∧ errors = 0 then u else record u 0x0B (n + 1) 0x0D

theorem goes_meshLoopbackEnd_echo (hlb : (s.port n).lb = some (src, tag, 4)) : goes (.meshLoopbackEnd n lanes errors) s
    ((loopbackOver ((s.setPort n { s.port n with lb := none }).put MSH.LB_RESULT (n + 1)
      (loopbackResult lanes (1000 - (s.port n).echoes) : Nat)) n lanes (1000 - (s.port n).echoes)).complete src tag St.SUCCESS []) := by
  have hexec : exec (.meshLoopbackEnd n lanes errors) s = execMeshLoopbackEnd n lanes errors s := rfl
  simp only [execMeshLoopbackEnd, hlb, ne_eq, not_true_eq_false, false_and, if_false, if_true] at hexec
  exact hexec

theorem goes_meshLoopbackEnd_serial (hlb : (s.port n).lb = some (src, tag, lb)) (hserial : lb ≠ 4)
    (hdue : (s.port n).lbAt + 10000000 ≤ s.clock) : goes (.meshLoopbackEnd n lanes errors) s
    ((loopbackOver (((s.setPort n { s.port n with lb := none }).put MSH.LB_RESULT (n + 1) (loopbackResult lanes errors : Nat)).put
      MSH.PORT_STATE (n + 1) 1) n lanes errors).complete src tag St.SUCCESS []) := by
  have hexec : exec (.meshLoopbackEnd n lanes errors) s = execMeshLoopbackEnd n lanes errors s := rfl
  have hrun : ¬(lb ≠ 4 ∧ s.clock < (s.port n).lbAt + 10000000) := by omega
  simp only [execMeshLoopbackEnd, hlb, if_neg hrun, if_neg hserial] at hexec
  exact hexec

/-! MESH_TIME_CTL (R426, R429). -/

/-- A root that reaches no member synchronises alone. -/
theorem replies_meshTimeCtl_alone (hacc : accepted (.meshTimeCtl p) s) (hstop : stopped s .msh = false) (hroot : nodeId s = 0)
    (hmember : inMesh s = true) (hfree : s.msh.time = none) (hon : bit (pw p 2) 0 = true) (hnone : reachable s = []) :
    replies (.meshTimeCtl p) p s St.SUCCESS [] ((s.put TB.TIME_OWNER 0 0).put MSH.SYNC_STATE 0 2) := by
  obtain ⟨hdisp, -, hgate, -⟩ := hacc
  have hready : ¬(nodeId s ≠ 0 ∨ (!inMesh s) = true ∨ s.msh.time.isSome = true) := by simp [hroot, hmember, hfree]
  have hreach : reachable ((s.put TB.TIME_OWNER 0 0).put MSH.SYNC_STATE 0 2) = [] := hnone
  refine replies_of_exec rfl hdisp hgate ?_
  simp only [meshCmd, hstop, if_neg hready, hon, if_true, hreach, List.foldl_nil, List.isEmpty_nil, Bool.false_eq_true, if_false]
  rfl

/-- A root that switches synchronisation off tells the members that it reaches, and waits for them. -/
theorem waits_meshTimeCtl_off (hacc : accepted (.meshTimeCtl p) s) (hstop : stopped s .msh = false) (hroot : nodeId s = 0)
    (hmember : inMesh s = true) (hfree : s.msh.time = none) (hoff : bit (pw p 2) 0 = false) (hsome : reachable (syncOff s) ≠ [])
    (hu : u = (reachable (syncOff s)).foldl (fun s n => s.frameTo n 1 [8, pw p 2]) (syncOff s)) :
    waits (.meshTimeCtl p) p s (u.setMsh { u.msh with time := some (p.src, pTag p, reachable (syncOff s)) }) := by
  subst hu
  obtain ⟨hdisp, hread, hgate, -⟩ := hacc
  have hready : ¬(nodeId s ≠ 0 ∨ (!inMesh s) = true ∨ s.msh.time.isSome = true) := by simp [hroot, hmember, hfree]
  have hmembers : ¬(reachable (syncOff s)).isEmpty = true := fun h => hsome (List.isEmpty_iff.1 h)
  have hxlt : ((reachable (syncOff s)).foldl (fun s n => s.frameTo n 1 [8, pw p 2]) (syncOff s)).xlt = s.xlt :=
    foldl_xlt (fun s n => frameTo_xlt s n 1 _ _ _) _ _
  refine waits_of_exec rfl hdisp hgate ?_ ((stillReads_of_xlt hxlt).trans hread)
  simp only [meshCmd, hstop, if_neg hready, hoff, if_neg hmembers, Bool.false_eq_true, if_false]

end

/-- Settles O42: the checks of each command pass under the premises, and a command that waits reads nothing more (`stillReads_leaveMesh` where
a membership ends). -/
theorem meshCommandsComplete : Obligations.MeshCommandsComplete := by
  refine ⟨?_, ?_, ?_, ?_, ?_, ?_, ?_, ?_, ?_, ?_, ?_⟩
  · exact fun s p hacc hstop => ⟨rootOf s p, waits_meshEnumerate hacc hstop, newRoot_member _ p⟩
  · exact fun s g e henum => goes_meshEnumerateDone henum
  · exact fun s p wr hacc hstop halign hsome hend => ⟨routeWords s (pw p 4) (pw p 5), routeWords_length _ _ _,
      fun i hi => routeWords_pair hi, waits_meshRouteRead hacc hstop halign hsome hend⟩
  · exact fun s p d ws hacc hstop hptr hgives hcarried hone hknown hother hmember hroute =>
      ⟨_, waits_meshForward_one hacc hstop hptr hgives hcarried hone hknown hother hmember hroute, rfl⟩
  · intro s p d ws hacc hstop hptr hgives hcarried hall hmember hsome
    refine ⟨_, waits_meshForward_all hacc hstop hptr hgives hcarried hall hmember hsome, ?_⟩
    rw [forwardBegun, hall]
  · exact fun s p i hacc hport hi hnone hstop hstate hfree => replies_meshPortCtl hacc hport hi hnone hstop hstate hfree
  · exact fun s p i hacc hport hi hecho hstop hgrant hup hfree =>
      ⟨_, rfl, waits_meshPortCtl_echo hacc hport hi hecho hstop hgrant hup hfree rfl⟩
  · exact fun s n lanes errors src tag e hlb he => by subst he; exact ⟨_, rfl, goes_meshLoopbackEnd_echo hlb⟩
  · exact fun s n lanes errors src tag lb hlb hserial hdue => ⟨_, rfl, goes_meshLoopbackEnd_serial hlb hserial hdue⟩
  · exact fun s p hacc hstop hroot hmember hfree hon hnone => replies_meshTimeCtl_alone hacc hstop hroot hmember hfree hon hnone
  · exact fun s p hacc hstop hroot hmember hfree hoff hsome =>
      ⟨_, rfl, waits_meshTimeCtl_off hacc hstop hroot hmember hfree hoff hsome rfl⟩

end Sys2Proof.Machine
end

section
/-!
The commands of calibration, and the images that they apply (R446 to R454).
-/
namespace Sys2Proof.Machine
open Sys2Proof.Claims

section
variable {s : State} {p : Pkt} {c n : Nat} {d : HostData} {ws got : List Nat} {wr : Option HostFault} {t : Nat × Bool × Bool × Option Nat}

/-! CAL_SELF (R446). -/

theorem waits_calSelf_channel (hacc : accepted (.calSelf p) s) (hc : targetChan p = some c) (hprec : c < 128)
    (hstop : stopped s (chanIsland c) = false) (hfree : owned s c = false) (hoff : s.chState c = 0) (hnew : calTarget s c = false) :
    waits (.calSelf p) p s { s with cal := { s.cal with selfs := s.cal.selfs ++ [⟨p.src, pTag p, [c], []⟩] } } := by
  obtain ⟨hdisp, hread, hgate, -⟩ := hacc
  have hlow : ¬128 ≤ c := by omega
  refine waits_of_exec rfl hdisp hgate ?_ hread
  simp only [selfTargets, hc, List.any_cons, List.any_nil, hstop, hfree, hoff, hnew, decide_eq_false hlow, bne_self_eq_false, Bool.or_self,
    Bool.false_and, Bool.false_eq_true, or_self, if_false]

theorem waits_calSelf_pin (hacc : accepted (.calSelf p) s) (hc : targetChan p = none) (hn : targetInst p 5 = some n)
    (hstop : stopped s (.seq (n / 128)) = false) (hidle : pinIdle s n = true) (hnew : calPin s n = false) :
    waits (.calSelf p) p s { s with cal := { s.cal with selfs := s.cal.selfs ++ [⟨p.src, pTag p, [], [n]⟩] } } := by
  obtain ⟨hdisp, hread, hgate, -⟩ := hacc
  refine waits_of_exec rfl hdisp hgate ?_ hread
  simp only [selfTargets, hc, hn, List.any_cons, List.any_nil, hstop, hidle, hnew, Bool.not_true, Bool.or_self, Bool.false_eq_true, or_self,
    if_false]

/-! CAL_SYS_ZERO and CAL_SYS_FULL (R449, R450). -/

/-- A step of system calibration whose inputs are ready begins. -/
theorem startSys_ready {k m : Nat} {full : Option Int} (hset : sysSet (pw p 1) = some t) (hcount : sysCount k = some m)
    (hstop : stopped s (sysIsland t) = false) (hfree : s.cal.sys = none) (hready : sysReady s t = true)
    (hzero : full.isSome = true → s.rd CAL.SYS_STATE ≠ 0 ∧ s.rdN CAL.SYS_SET = pw p 1) : startSys s p k full =
      .later { s with cal := { s.cal with sys := some ⟨p.src, pTag p, pw p 1, m, full, s.clock, 0, 0⟩ } } := by
  have hstate : ¬(s.cal.sys.isSome = true ∨ (!sysReady s t) = true ∨
      (full.isSome = true ∧ (s.rd CAL.SYS_STATE = 0 ∨ s.rdN CAL.SYS_SET ≠ pw p 1))) := by
    rw [hfree, hready]
    rintro (h | h | ⟨hfull, h | h⟩)
    · exact Bool.false_ne_true h
    · exact Bool.false_ne_true h
    · exact (hzero hfull).1 h
    · exact h (hzero hfull).2
  simp only [startSys, hset, hcount, hstop, if_neg hstate, Bool.false_eq_true, if_false]

/-- A full scale without its zero is refused. -/
theorem startSys_noZero {k m : Nat} {a : Int} (hset : sysSet (pw p 1) = some t) (hcount : sysCount k = some m)
    (hstop : stopped s (sysIsland t) = false) (hzero : s.rd CAL.SYS_STATE = 0) : startSys s p k (some a) = refuse s St.WRONG_STATE := by
  simp only [startSys, hset, hcount, hstop, hzero, Option.isSome_some, true_or, and_self, or_true, Bool.false_eq_true, if_false, if_true]

theorem waits_calSysZero (hacc : accepted (.calSysZero p) s) (hset : sysSet (pw p 1) = some t) (hcount : sysCount (pw p 2) = some n)
    (hstop : stopped s (sysIsland t) = false) (hfree : s.cal.sys = none) (hready : sysReady s t = true) : waits (.calSysZero p) p s
      { s with cal := { s.cal with sys := some ⟨p.src, pTag p, pw p 1, n, none, s.clock, 0, 0⟩ } } := by
  obtain ⟨hdisp, hread, hgate, -⟩ := hacc
  exact waits_of_exec rfl hdisp hgate (startSys_ready hset hcount hstop hfree hready fun h => absurd h Bool.false_ne_true) hread

theorem waits_calSysFull (hacc : accepted (.calSysFull p) s) (hset : sysSet (pw p 1) = some t) (hcount : sysCount (pw p 3) = some n)
    (hstop : stopped s (sysIsland t) = false) (hfree : s.cal.sys = none) (hready : sysReady s t = true) (hstate : s.rd CAL.SYS_STATE ≠ 0)
    (hsame : s.rdN CAL.SYS_SET = pw p 1) : waits (.calSysFull p) p s
      { s with cal := { s.cal with sys := some ⟨p.src, pTag p, pw p 1, n, some (sfld 32 (pw p 2)), s.clock, 0, 0⟩ } } := by
  obtain ⟨hdisp, hread, hgate, -⟩ := hacc
  exact waits_of_exec rfl hdisp hgate (startSys_ready hset hcount hstop hfree hready fun _ => ⟨hstate, hsame⟩) hread

theorem replies_calSysFull_noZero (hacc : accepted (.calSysFull p) s) (hset : sysSet (pw p 1) = some t)
    (hcount : sysCount (pw p 3) = some n) (hstop : stopped s (sysIsland t) = false) (hzero : s.rd CAL.SYS_STATE = 0) :
    replies (.calSysFull p) p s St.WRONG_STATE [] s := by
  obtain ⟨hdisp, -, hgate, -⟩ := hacc
  exact replies_of_exec rfl hdisp hgate (startSys_noZero hset hcount hstop hzero)

/-! Images (R449, R453, R454). -/

/-- The islands of an image's targets run. -/
def imageRuns (s : State) (ws : List Nat) : Prop :=
  ∀ e ∈ imageEntries (ws.drop 8), stopped s (islandOf (idParts e.1).1 (idParts e.1).2.1) = false

/-- The checks of an accepted image come to those of its islands. -/
theorem restoreImage_good (hgood : imageGood ws) : restoreImage s ws =
    if (imageEntries (ws.drop 8)).any fun e => stopped s (islandOf (idParts e.1).1 (idParts e.1).2.1) then refuse s St.ISLAND_STOPPED
    else .done (if ws.getD 2 0 ≠ (Config.identity 8).toNat ∨ ws.getD 3 0 ≠ (Config.identity 9).toNat then St.SUCCESS_WARN else St.SUCCESS)
      [ws.getD 1 0, b2n (decide (ws.getD 2 0 ≠ (Config.identity 8).toNat ∨ ws.getD 3 0 ≠ (Config.identity 9).toNat)), 0,
        longestRamp s ((imageEntries (ws.drop 8)).map fun e => (e.1, entryValue e))] (imageTaken s ws) := by
  obtain ⟨hlen, hsome, hmost, hkind, hpart, hcrc, hentries⟩ := hgood
  have hform : ¬(ws.length ≠ 8 + 2 * ws.getD 1 0 ∨ ws.getD 1 0 = 0 ∨ 24935 < ws.getD 1 0 ∨ fld (ws.getD 0 0) 16 16 ≠ 1 ∨
      1 < fld (ws.getD 0 0) 8 8 ∨ (!imageCrcOk ws) = true) := by
    rw [hcrc]
    simp only [Bool.not_true, Bool.false_eq_true, or_false]
    omega
  have hnone : ((imageEntries (ws.drop 8)).zipIdx.find? fun e => (entryStatus e.1).isSome) = none := by
    rw [List.find?_eq_none]
    intro e he
    rw [hentries e.1 (List.fst_mem_of_mem_zipIdx he)]
    exact Bool.false_ne_true
  simp only [restoreImage, if_neg hform, hnone]
  rfl

theorem restoreImage_takes (hgood : imageGood ws) (hruns : imageRuns s ws) : ∃ st res,
    restoreImage s ws = .done st res (imageTaken s ws) ∧ st ∈ [St.SUCCESS, St.SUCCESS_WARN] ∧ res.head? = some (ws.getD 1 0) := by
  refine ⟨_, _, (restoreImage_good hgood).trans (if_neg (by simpa [imageRuns] using hruns)), ?_, rfl⟩
  split_ifs <;> decide

theorem restoreImage_stopped {e : Nat × Nat} (hgood : imageGood ws) (he : e ∈ imageEntries (ws.drop 8))
    (hstop : stopped s (islandOf (idParts e.1).1 (idParts e.1).2.1) = true) : restoreImage s ws = refuse s St.ISLAND_STOPPED :=
  (restoreImage_good hgood).trans (if_pos (List.any_eq_true.2 ⟨e, he, hstop⟩))

theorem restoreImage_badCrc (hbad : imageCrcOk ws = false) : restoreImage s ws = .done St.BAD_VALUE [0xFFFFFFFF] s := by
  simp only [restoreImage, hbad, Bool.not_false, or_true, if_true]

/-! The certificate (R452, R459). -/

theorem waits_calCertRead (hacc : accepted (.calCertRead p wr) s) (halign : pw p 2 % 64 = 0)
    (hroom : 4 * Config.certificate.length ≤ pw p 4) (hstop : stopped s .vane = false) : waits (.calCertRead p wr) p s
      (writing s p (pw64 p 2) Config.certificate (.plain [4 * Config.certificate.length])) := by
  obtain ⟨hdisp, hread, hgate, -⟩ := hacc
  have hform : ¬(pw p 2 % 64 ≠ 0 ∨ pw p 4 < 4 * Config.certificate.length) := by omega
  refine waits_of_exec rfl hdisp hgate ?_ (stillReads_writing hread)
  simp only [if_neg hform, hstop, Bool.false_eq_true, if_false]
  rfl

theorem replies_calCertLoad_bad (hacc : accepted (.calCertLoad p) s) (hstop : stopped s .vane = false)
    (hbad : imageCrcOk Config.certificate = false) : replies (.calCertLoad p) p s St.MEDIA [] (record s 0x0C 0 0x06) := by
  obtain ⟨hdisp, -, hgate, -⟩ := hacc
  refine replies_of_exec rfl hdisp hgate ?_
  simp only [hstop, hbad, Bool.not_false, Bool.false_eq_true, if_false, if_true]
  rfl

theorem replies_calCertLoad {st : Nat} {res : List Nat} (hacc : accepted (.calCertLoad p) s) (hstop : stopped s .vane = false)
    (hcrc : imageCrcOk Config.certificate = true)
    (htakes : restoreImage s Config.certificate = .done st res (imageTaken s Config.certificate)) :
    replies (.calCertLoad p) p s st res (imageTaken s Config.certificate) := by
  obtain ⟨hdisp, -, hgate, -⟩ := hacc
  refine replies_of_exec rfl hdisp hgate ?_
  simp only [hstop, hcrc, Bool.not_true, Bool.false_eq_true, if_false]
  exact htakes

/-! CAL_SAVE and CAL_RESTORE (R453, R454, R459). -/

theorem waits_calSave (hacc : accepted (.calSave p wr) s) (halign : pw p 2 % 64 = 0) (hroom : 199512 ≤ pw p 4) :
    waits (.calSave p wr) p s (writing s p (pw64 p 2) (imageWords s (bit (pw p 5) 0)) (.plain [])) := by
  obtain ⟨hdisp, hread, hgate, -⟩ := hacc
  have hform : ¬(pw p 2 % 64 ≠ 0 ∨ pw p 4 < 199512) := by omega
  exact waits_of_exec rfl hdisp hgate (if_neg hform) (stillReads_writing hread)

/-- CAL_RESTORE comes to what its image does, once its words are there. -/
theorem replies_calRestore {st : Nat} {res : List Nat} {u : State} (hacc : accepted (.calRestore p d) s) (halign : pw p 2 % 64 = 0)
    (hgives : hostGives s p d got) (hsome : 32 ≤ pw p 4) (hwhole : pw p 4 % 8 = 0)
    (htakes : restoreImage s (pad (pw p 4 / 4) got) = .done st res u) : replies (.calRestore p d) p s st res u := by
  obtain ⟨hdisp, -, hgate, -⟩ := hacc
  obtain ⟨rfl, hx⟩ := hgives
  have hsize : ¬(pw p 4 < 32 ∨ pw p 4 % 8 ≠ 0) := by omega
  exact replies_of_exec rfl hdisp hgate ((if_neg (not_not_intro halign)).trans ((withData_given ⟨rfl, hx⟩).trans ((if_neg hsize).trans htakes)))

end

/-- Settles O43: the checks of each command pass under the premises; an image that R449 and R453 accept is taken whole
(`restoreImage_takes`). -/
theorem calCommandsComplete : Obligations.CalCommandsComplete := by
  refine ⟨?_, ?_, ?_, ?_, ?_, ?_, ?_, ?_, ?_, ?_, ?_, ?_, ?_⟩
  · exact fun s p c hacc hc hprec hstop hfree hoff hnew => waits_calSelf_channel hacc hc hprec hstop hfree hoff hnew
  · exact fun s p n hacc hc hn hstop hidle hnew => waits_calSelf_pin hacc hc hn hstop hidle hnew
  · exact fun s p t n hacc hset hcount hstop hfree hready => waits_calSysZero hacc hset hcount hstop hfree hready
  · exact fun s p t n hacc hset hcount hstop hfree hready hstate hsame =>
      waits_calSysFull hacc hset hcount hstop hfree hready hstate hsame
  · exact fun s p t n hacc hset hcount hstop hzero => replies_calSysFull_noZero hacc hset hcount hstop hzero
  · exact fun s p wr hacc halign hroom hstop => waits_calCertRead hacc halign hroom hstop
  · exact fun s p hacc hstop hbad => replies_calCertLoad_bad hacc hstop hbad
  · intro s p hacc hstop hgood hruns
    obtain ⟨st, res, htakes, hst, hres⟩ := restoreImage_takes hgood hruns
    obtain ⟨-, -, -, -, -, hcrc, -⟩ := hgood
    exact ⟨st, res, replies_calCertLoad hacc hstop hcrc htakes, hst, hres⟩
  · exact fun s p wr hacc halign hroom => waits_calSave hacc halign hroom
  · intro s p d got ws hacc halign hgives hsome hwhole hws hgood hruns
    subst hws
    obtain ⟨st, res, htakes, hst, hres⟩ := restoreImage_takes hgood hruns
    exact ⟨st, res, replies_calRestore hacc halign hgives hsome hwhole htakes, hst, hres⟩
  · exact fun s p d got hacc halign hgives hsome hwhole hbad =>
      replies_calRestore hacc halign hgives hsome hwhole (restoreImage_badCrc hbad)
  · exact fun s ws hgood hruns => restoreImage_takes hgood hruns
  · exact fun s ws e hgood he hstop => restoreImage_stopped hgood he hstop

end Sys2Proof.Machine
end

section
/-!
The events of calibration: results, ramps, deskew and the reference's track.
-/
namespace Sys2Proof.Machine
open Sys2Proof.Claims

section
variable {s : State} {src : Src} {tag : Nat} {v m a g : Int} {d : Nat}

theorem clampInt_within {lo hi v : Int} (hlo : lo ≤ v) (hhi : v ≤ hi) : clampInt lo hi v = v := by
  unfold clampInt
  rw [if_neg (by omega), if_neg (by omega)]

/-! CAL_SELF_DONE (R446 to R448): what it writes and records leaves the operations of calibration as they are. -/

theorem record_cal (s : State) (blk inst code : Nat) (high : Bool) : (record s blk inst code high).cal = s.cal :=
  (still_record blk inst code high (Still.rfl s)).cal

theorem takeOffsets_cal (s : State) (ch : Nat) (v i pair : Int) (good : Bool) : (takeOffsets s ch v i pair good).cal = s.cal := by
  simp only [takeOffsets]
  split
  · rfl
  · exact record_cal _ _ _ _ _

theorem writeCal_cal (s : State) (id : Nat) (v : Int) : (writeCal s id v).cal = s.cal := by
  simp only [writeCal]
  split <;> rfl

theorem saturate_cal (s : State) (id : Nat) : (saturate s id).cal = s.cal := record_cal _ _ _ _ _

theorem goes_calSelfDone {found : SelfFound} {o : SelfCal} (ho : (s.cal.selfs.find? fun o => o.src == src && o.tag == tag) = some o) :
    ∃ u status res, goes (.calSelfDone src tag found) s (State.complete u src tag status res) ∧
      status ∈ [St.SUCCESS, St.SUCCESS_WARN] ∧ res.length = 4 ∧ u.cal.selfDone = true := by
  have hexec : exec (.calSelfDone src tag found) s = execCalSelfDone src tag found s := rfl
  simp only [execCalSelfDone, ho] at hexec
  refine ⟨_, _, _, hexec, by split <;> decide, rfl, ?_⟩
  simp only [State.put_cal, foldl_unchanged (f := State.cal) (fun s _ => record_cal s 0x0C 0 0x04 false),
    foldl_unchanged (f := State.cal) (fun s (t : Nat × Int) => saturate_cal s t.1),
    foldl_unchanged (f := State.cal) (fun s (t : Nat × Int) => writeCal_cal s t.1 t.2)]
  rw [foldl_unchanged (f := State.cal) (fun s e => by
    split
    · exact takeOffsets_cal _ _ _ _ _ _
    · rfl)]

/-! CAL_SYS_INPUTS_TAKEN and CAL_SYS_TIMEOUT (R449 to R451). -/

theorem execCalSysInputsTaken_mean {o : SysCal} (ho : s.cal.sys = some o) (hmean : sysMean o v = some m) :
    (s.cal.sys.bind fun o => (sysMean o v).map fun m => (o, m)) = some (o, m) := by
  rw [ho, Option.bind_some, hmean]
  rfl

/-- The inputs of a zero give its mean. -/
theorem goes_calSysInputsTaken_zero {o : SysCal} (ho : s.cal.sys = some o) (hzero : o.full = none) (hmean : sysMean o v = some m)
    (hlow : -2147483648 ≤ m) (hhigh : m ≤ 2147483647) : goes (.calSysInputsTaken v) s
      ((((({ s with cal := { s.cal with sys := none } } : State).put CAL.SYS_STATE 0 1).put CAL.SYS_SET 0 o.set).put
        CAL.SYS_R0 0 m).complete o.src o.tag St.SUCCESS [toField 32 m]) := by
  have hexec : exec (.calSysInputsTaken v) s = execCalSysInputsTaken v s := rfl
  simp only [execCalSysInputsTaken, execCalSysInputsTaken_mean ho hmean, hzero, clampInt_within hlow hhigh] at hexec
  exact hexec

/-- The inputs of a full scale give its set, where nothing saturates. -/
theorem goes_calSysInputsTaken_full {o : SysCal} (ho : s.cal.sys = some o) (hfull : o.full = some a) (hmean : sysMean o v = some m)
    (hlow : -2147483648 ≤ m) (hhigh : m ≤ 2147483647) (hgain : sysGain a (s.rd CAL.SYS_R0) m = some g) (hglow : 0 ≤ g)
    (hghigh : g ≤ 0xFFFFFFFF) (holow : -2147483648 ≤ roundDiv (-(g * s.rd CAL.SYS_R0)) (2 ^ 30))
    (hohigh : roundDiv (-(g * s.rd CAL.SYS_R0)) (2 ^ 30) ≤ 2147483647) : goes (.calSysInputsTaken v) s
      (((writeCal (writeCal (writeCal { s with cal := { s.cal with sys := none } } o.set g) (o.set + 1)
        (roundDiv (-(g * s.rd CAL.SYS_R0)) (2 ^ 30))) (o.set + 2) 0).put CAL.SYS_STATE 0 0).complete o.src o.tag St.SUCCESS
        [g.toNat, toField 32 (roundDiv (-(g * s.rd CAL.SYS_R0)) (2 ^ 30)), toField 32 m, 0]) := by
  have hexec : exec (.calSysInputsTaken v) s = execCalSysInputsTaken v s := rfl
  have hr0 : ({ s with cal := { s.cal with sys := none } } : State).rd CAL.SYS_R0 = s.rd CAL.SYS_R0 := rfl
  simp only [execCalSysInputsTaken, execCalSysInputsTaken_mean ho hmean, hfull, clampInt_within hlow hhigh, hr0, hgain, Option.getD_some,
    clampInt_within hglow hghigh, clampInt_within holow hohigh, bne_self_eq_false, ne_eq, not_true_eq_false, Bool.or_self,
    Bool.false_eq_true, if_false] at hexec
  exact hexec

theorem goes_calSysTimeout {o : SysCal} (ho : s.cal.sys = some o) (hdue : o.start + 10000000000 ≤ s.clock) : goes .calSysTimeout s
    (State.complete { s with cal := { s.cal with sys := none } } o.src o.tag St.WRONG_STATE []) := by
  have hexec : exec .calSysTimeout s = execCalSysTimeout s := rfl
  simp only [execCalSysTimeout, ho, if_pos hdue] at hexec
  exact hexec

/-! COEF_RAMP_STEP and DESKEW_STEP (R441 to R443). -/

theorem goes_coefRampStep {u w t : State} (hlull : s.pwr.lull < 3) (hdue : s.cal.stepAt ≠ some (s.clock / 1000))
    (hu : u = { s with cal := { s.cal with stepAt := some (s.clock / 1000) } })
    (hw : w = pinsMoved ((rampingTerms u).foldl stepTerm u) (rampingTerms u))
    (ht : t = w.put CAL.RAMPING 0 (rampingSets w).length) : goes .coefRampStep s
      (if (rampingSets w).length = 0 ∧ (0 < s.rd CAL.RAMPING ∨ rampingTerms u ≠ []) then t.publish (t.rd CAL.EV_DONE) else t) := by
  subst hu hw ht
  have hrow : ¬(3 ≤ s.pwr.lull ∨ s.cal.stepAt = some (s.clock / 1000)) := by
    rintro (h | h)
    · omega
    · exact hdue h
  refine (if_neg hrow).trans (congrArg done (if_congr ?_ rfl rfl))
  simp only [Bool.not_eq_true', List.isEmpty_eq_false_iff]
  rfl

theorem goes_deskewStep {u : State} (hd : d < 2) (hdue : (s.sequencer d).dskAt ≠ some (s.clock / 1000))
    (hu : u = s.setSequencer d { s.sequencer d with dskAt := some (s.clock / 1000) }) :
    goes (.deskewStep d) s ((deskewIds u d).foldl stepDeskew u) := hu ▸ if_pos ⟨hd, hdue⟩

/-! REF_TRACK (R455). -/

/-- Of the two causes of a measured ratio only REF_DRIFT is set while no temperature is there to compare. -/
theorem recordHits_drift {drifts warms : Prop} [Decidable drifts] [Decidable warms] (hself : s.cal.selfDone = false) :
    recordHits s 0x0C 0 none ((if drifts then [{ code := 0x02 }] else []) ++
      if s.cal.selfDone = true ∧ warms then [{ code := 0x03 }] else []) = if drifts then record s 0x0C 0 0x02 else s := by
  simp only [hself, Bool.false_eq_true, false_and, if_false, List.append_nil]
  split <;> rfl

theorem refDeviation_of_ne (h : s.rd CAL.ZREF_A ≠ 0) : refDeviation s m = (roundDiv
    (m * (if s.rd CAL.ZREF_A < 0 then s.rd CAL.ZREF_B else -s.rd CAL.ZREF_B)) (iabs (s.rd CAL.ZREF_A)).toNat - 100000000, s) := if_neg h

/-- The ratio that a measurement gives, while no self-calibration has given a temperature to compare. -/
theorem goes_refTrack {r : Int} {u : State} (hlull : s.pwr.lull ≠ 3)
    (hdue : s.cal.trackAt + 1000000000 * s.rdN CAL.REF_TRACK_PERIOD ≤ s.clock) (hzref : s.rd CAL.ZREF_A ≠ 0) (hself : s.cal.selfDone = false)
    (hr : r = clampInt (-2147483648) 2147483647
      (roundDiv (m * (if s.rd CAL.ZREF_A < 0 then s.rd CAL.ZREF_B else -s.rd CAL.ZREF_B)) (iabs (s.rd CAL.ZREF_A)).toNat - 100000000))
    (hu : u = ({ s with cal := { s.cal with trackAt := s.clock } } : State).put CAL.REF_RATIO 0 r) :
    goes (.refTrack m) s (if 100 * u.rd CAL.REF_DRIFT_LIM < iabs r then record u 0x0C 0 0x02 else u) := by
  subst hr hu
  have hrow : ¬(s.pwr.lull = 3 ∨ s.clock < s.cal.trackAt + 1000000000 * s.rdN CAL.REF_TRACK_PERIOD) := by omega
  have hdev := refDeviation_of_ne (s := { s with cal := { s.cal with trackAt := s.clock } }) (m := m) hzref
  refine (if_neg hrow).trans (congrArg done ?_)
  dsimp only
  rw [hdev]
  exact recordHits_drift hself

end

/-- Settles O44: each event finds what its premises say; a result written and recorded leaves the operations of calibration alone. -/
theorem calEventRowsComplete : Obligations.CalEventRowsComplete := by
  refine ⟨?_, ?_, ?_, ?_, ?_, ?_, ?_, ?_⟩
  · exact fun s src tag found o ho => goes_calSelfDone ho
  · exact fun s v m o ho hzero hmean hlow hhigh => ⟨_, rfl, goes_calSysInputsTaken_zero ho hzero hmean hlow hhigh⟩
  · exact fun s v m o a g ho hfull hmean hlow hhigh hgain hglow hghigh holow hohigh =>
      ⟨_, rfl, goes_calSysInputsTaken_full ho hfull hmean hlow hhigh hgain hglow hghigh holow hohigh⟩
  · exact fun o v => rfl
  · exact fun s o ho hdue => goes_calSysTimeout ho hdue
  · exact fun s hlull hdue => ⟨_, _, _, rfl, rfl, rfl, goes_coefRampStep hlull hdue rfl rfl rfl⟩
  · exact fun s d hd hdue => ⟨_, rfl, goes_deskewStep hd hdue rfl⟩
  · exact fun s m hlull hdue hzref hself => ⟨_, _, rfl, rfl, goes_refTrack hlull hdue hzref hself rfl rfl⟩

end Sys2Proof.Machine
end

section
/-!
The rows of the status windows: clears, reactions, injections.
-/
namespace Sys2Proof.Machine
open Sys2Proof.Claims

section
variable {s : State} {blk inst mask v : Nat} {c : Cause}

/-- A window that exists takes accesses while BAR0 is open. -/
theorem winTakes (hwin : winExists blk inst = true) (hopen : s.barOpen = true) : (winExists blk inst && s.barOpen) = true := by
  rw [hwin, hopen]; rfl

/-! Clears (R461, R462, R465). -/

theorem recordAgain_nil (s : State) (blk inst : Nat) : recordAgain s blk inst [] = s := rfl

/-- A block whose flags nothing follows from clears them. -/
theorem clearFlags_plain (hpin : blk ≠ 5) (hfabric : blk ≠ 8) (again : List Nat) : clearFlags s blk inst mask again =
    s.setWin blk inst { s.win blk inst with
      fault := (s.win blk inst).fault && !bit mask 30
      degraded := (s.win blk inst).degraded && !bit mask 29
      warn := (s.win blk inst).warn && !bit mask 28
      injected := (s.win blk inst).injected && !bit mask 27 } := by
  simp only [clearFlags, hpin, hfabric, false_and, if_false]

theorem goes_statusW1c (hwin : winExists blk inst = true) (hopen : s.barOpen = true) (again : List Nat) :
    goes (.statusW1c blk inst mask again) s (recordAgain (clearFlags s blk inst mask again) blk inst again) :=
  if_pos (winTakes hwin hopen)

/-! Reactions (R11, R468, R469). -/

theorem goes_reactionWrite (hwin : winExists blk inst = true) (hopen : s.barOpen = true) :
    goes (.reactionWrite blk inst v) s (writeReaction s blk inst v) := if_pos (winTakes hwin hopen)

theorem writeReaction_select (hselect : bit v 31 = false) : writeReaction s blk inst v =
    if (findCause blk (fld v 16 8)).isSome then s.setWin blk inst { s.win blk inst with reactSel := fld v 16 8 } else s :=
  if_pos (by rw [hselect]; rfl)

/-- A reaction that the block offers is set for a cause that has none fixed. -/
theorem writeReaction_set (hset : bit v 31 = true) (hcause : findCause blk (fld v 16 8) = some c) (hfree : c.fixed = false)
    (hlisted : fld v 16 8 ≠ 0xF0) (hoffer : offers blk (fld v 0 3) = true) : writeReaction s blk inst v =
    s.setWin blk inst { s.win blk inst with
      reactSel := fld v 16 8
      reacts := Bank.set (fun _ => none) (s.win blk inst).reacts (fld v 16 8) (if fld v 0 3 = c.dflt then none else some (fld v 0 3)) } := by
  have htakes : ¬(c.fixed = true ∨ fld v 16 8 = 0xF0 ∨ (!offers blk (fld v 0 3)) = true) := by simp [hfree, hlisted, hoffer]
  simp only [writeReaction, hset, Bool.not_true, Bool.false_eq_true, if_false, hcause, if_neg htakes]

/-- A reaction that is the default is not held, and reads as the default. -/
theorem heldReaction_getD (dflt action : Nat) : (if action = dflt then none else some action).getD dflt = action := by
  split
  · next h => exact h.symm
  · rfl

/-! Injections (R471, R539). -/

theorem fld_setBit_31 {lo len : Nat} (hlow : lo + len ≤ 31) : fld (setBit v 31 true) lo len = fld v lo len := by
  have hsplit : setBit v 31 true = v + b2n (!bit v 31) * 2 ^ 31 := by
    cases h : bit v 31 <;> simp [setBit, h, b2n]
  have hunits : b2n (!bit v 31) * 2 ^ 31 = 2 ^ lo * (2 ^ len * (b2n (!bit v 31) * 2 ^ (31 - lo - len))) := by
    have hpow : 2 ^ 31 = 2 ^ lo * 2 ^ len * 2 ^ (31 - lo - len) := by rw [← pow_add, ← pow_add]; congr 1; omega
    rw [hpow]; ring
  rw [fld, hsplit, hunits, Nat.add_mul_div_left _ _ (Nat.two_pow_pos lo), Nat.add_mul_mod_self_left, fld]

theorem bit_setBit_31_below {i : Nat} (hlow : i < 31) : bit (setBit v 31 true) i = bit v i :=
  congrArg (· == 1) (fld_setBit_31 (v := v) (lo := i) (len := 1) hlow)

theorem bit_setBit_31_self : bit (setBit v 31 true) 31 = true := by
  unfold setBit
  split
  · next h => exact eq_of_beq h
  · next h =>
    have hclear : ¬v / 2 ^ 31 % 2 = 1 := by simpa [bit] using h
    refine beq_iff_eq.2 ?_
    rw [if_pos rfl, Nat.add_div_right _ (Nat.two_pow_pos 31)]
    omega

/-- The word that a write of INJECT without REPEAT leaves, for a listed cause: one with a period of 0 keeps the old one. -/
def injectWord (s : State) (blk inst v : Nat) : Nat :=
  fld v 28 3 * 2 ^ 28 + fld v 16 8 * 65536 + (if fld v 0 16 = 0 then fld (s.win blk inst).inject 0 16 else fld v 0 16)

theorem injectWord_code (hcode : fld v 16 8 < 256) : injectWord s blk inst v / 65536 % 256 = fld v 16 8 := by
  have hperiod : (if fld v 0 16 = 0 then fld (s.win blk inst).inject 0 16 else fld v 0 16) < 65536 := by
    split <;> exact Nat.mod_lt _ (by decide)
  unfold injectWord
  omega

theorem writeInject_once (hopen : openAccess s = true) (hcause : findCause blk (fld v 16 8) = some c) (honce : bit v 30 = false) :
    writeInject s blk inst (setBit v 31 true) =
      injectNow (s.setWin blk inst { s.win blk inst with inject := injectWord s blk inst v }) blk inst := by
  simp only [writeInject, hopen, fld_setBit_31, bit_setBit_31_below, bit_setBit_31_self, honce, hcause, Bool.not_true, Bool.and_false,
    Option.isSome_some, Bool.false_eq_true, if_false, if_true, Nat.reduceAdd, Nat.reduceLeDiff, Nat.reduceLT, injectWord]

theorem writeInject_denied (hclosed : openAccess s = false) : writeInject s blk inst (setBit v 31 true) = s := by
  refine if_pos ?_
  rw [bit_setBit_31_self, hclosed]
  rfl

theorem goes_injectGo (hwin : winExists blk inst = true) (hopen : s.barOpen = true) :
    goes (.injectGo blk inst v) s (writeInject s blk inst (setBit v 31 true)) := if_pos (winTakes hwin hopen)

theorem goes_injectRepeat (hwin : winExists blk inst = true) (hrepeat : bit (s.win blk inst).inject 30 = true)
    (hdue : (s.win blk inst).injAt + 1000000 * fld (s.win blk inst).inject 0 16 ≤ s.clock) :
    goes (.injectRepeat blk inst) s (injectNow s blk inst) := if_pos (by rw [hwin, hrepeat, decide_eq_true hdue]; rfl)

end

/-- Settles O45: what each write finds in its window and its word. -/
theorem statusRowsComplete : Obligations.StatusRowsComplete := by
  refine ⟨?_, ?_, ?_, ?_, ?_, ?_, ?_, ?_⟩
  · intro s blk inst mask hwin hopen hpin hfabric
    have hgoes := goes_statusW1c (mask := mask) hwin hopen []
    rwa [recordAgain_nil, clearFlags_plain hpin hfabric] at hgoes
  · exact fun s blk inst mask again hwin hopen => goes_statusW1c hwin hopen again
  · exact fun s blk inst hwin hopen => if_pos (winTakes hwin hopen)
  · exact fun s blk inst v hwin hopen hselect => writeReaction_select hselect ▸ goes_reactionWrite hwin hopen
  · intro s blk inst v c hwin hopen hset hcause hfree hlisted hoffer
    have hgoes := goes_reactionWrite (v := v) hwin hopen
    rw [writeReaction_set hset hcause hfree hlisted hoffer] at hgoes
    refine ⟨_, hgoes, rfl, ?_, rfl⟩
    rw [Bank.get_set_self]
    exact heldReaction_getD _ _
  · intro s blk inst v c hwin hopen haccess hcode hcause honce
    have hgoes := goes_injectGo (v := v) hwin hopen
    rw [writeInject_once haccess hcause honce] at hgoes
    exact ⟨_, injectWord_code hcode, hgoes, rfl⟩
  · intro s blk inst v hwin hopen hclosed
    have hgoes := goes_injectGo (v := v) hwin hopen
    rwa [writeInject_denied hclosed] at hgoes
  · exact fun s blk inst hwin hrepeat hdue => goes_injectRepeat hwin hrepeat hdue

end Sys2Proof.Machine
end

section
/-!
The background's rows: scrubs, register copies, telemetry, sensors.
-/
namespace Sys2Proof.Machine
open Sys2Proof.Claims

section
variable {s : State} {n c : Nat} {late : Bool}

/-! Scrubs (R474, R475, R481). -/

/-- A pass of the DRAM scrubber goes on where its progress has not fallen back. -/
theorem goes_dramScrub_on {fixed bad : List DramWord} (hawake : s.pwr.lull ≠ 3) (hon : s.rdN VANE.SCRUB_PROGRESS ≤ n) (hn : n ≤ 10000) :
    goes (.dramScrub fixed bad late n) s (scrubFound (bad.foldl spoilDram (s.put VANE.SCRUB_PROGRESS 0 n)) (fixed.map DramWord.owner)
      (bad.map DramWord.owner) (late && scrubDue s 0 (3600000000000 * s.vane.scrubHours))) := by
  refine (if_neg hawake).trans ?_
  simp only [if_neg (Nat.not_lt.2 hon), Nat.min_eq_left hn]
  rfl

/-- A pass whose progress has fallen back is the next one, in a new period. -/
theorem goes_dramScrub_anew (hawake : s.pwr.lull ≠ 3) (hback : n < s.rdN VANE.SCRUB_PROGRESS) (hn : n ≤ 10000) :
    goes (.dramScrub [] [] false n) s
      (State.put { newScrub s 0 with vane := { (newScrub s 0).vane with scrubHours := s.rdN VANE.SCRUB_DRAM_PERIOD } }
        VANE.SCRUB_PROGRESS 0 n) := by
  refine (if_neg hawake).trans ?_
  simp only [if_pos hback, Nat.min_eq_left hn, Bool.false_and]
  rfl

theorem goes_sramScrub (fixed bad : List SramWord) (hawake : s.pwr.lull ≠ 3) : goes (.sramScrub fixed bad late) s
    (scrubFound (bad.foldl spoilSram (newScrub s 2)) (fixed.map SramWord.owner) (bad.map SramWord.owner)
      (late && scrubDue s 2 sramPeriod)) := if_neg hawake

/-! Register copies (R474, R476). -/

/-- The comparison of registers with their shadows begins a new period. -/
def shadowBegun (s : State) : State :=
  { s with vane := { s.vane with shadowAt := s.clock, shadowMs := s.rdN VANE.SHADOW_PERIOD } }

theorem goes_shadowCompare {l : List (Nat × Nat)} (hawake : s.pwr.lull ≠ 3) (hdue : s.vane.shadowAt + 1000000 * s.vane.shadowMs ≤ s.clock) :
    goes (.shadowCompare l) s (l.foldl (fun s m =>
      if m.1 = 1 ∨ m.1 = 4 then recordChan s (if m.1 = 1 then m.2 else m.2 + 128) (shadowCode m.1)
      else record s m.1 m.2 (shadowCode m.1)) (shadowBegun s)) :=
  if_neg fun h => h.elim hawake (Nat.not_lt.2 hdue)

/-! Sensors (R489). -/

theorem goes_sensorSample {l : List (Nat × Option Int)} (hup : s.vane.up = true) (hdue : s.vane.sampleAt ≠ some (s.clock / 1000000)) :
    goes (.sensorSample l) s ((List.range 51).foldl (sampleSensor l) (s.setVane { s.vane with sampleAt := some (s.clock / 1000000) })) :=
  if_pos ⟨hup, hdue⟩

theorem moves_sensorSample_again {l : List (Nat × Option Int)} (hsame : s.vane.sampleAt = some (s.clock / 1000000)) :
    moves (.sensorSample l) s s := if_neg fun h => h.2 hsame

end

/-- Settles O46: each row under the condition of its period. -/
theorem backgroundRowsComplete : Obligations.BackgroundRowsComplete := by
  refine ⟨?_, ?_, ?_, ?_, ?_, ?_, ?_, ?_, ?_, ?_, ?_⟩
  · exact fun s n late hawake hon hn => goes_dramScrub_on hawake hon hn
  · exact fun s n hawake hback hn => goes_dramScrub_anew hawake hback hn
  · exact fun s w n hawake hon hn => goes_dramScrub_on (late := false) hawake hon hn
  · exact fun s w hawake => goes_sramScrub [w] [] hawake
  · exact fun s w hawake => goes_sramScrub [] [w] hawake
  · intro s hawake hdue
    have hgoes := goes_sramScrub (late := true) [] [] hawake
    rwa [sramPeriod, hdue] at hgoes
  · intro s l hawake hdue hplain
    have hgoes := goes_shadowCompare (l := l) hawake hdue
    rw [List.foldl_ext (H := fun t m hm => if_neg (fun h => h.elim (hplain m hm).1 (hplain m hm).2))] at hgoes
    exact ⟨_, rfl, hgoes⟩
  · exact fun s c hawake hdue => ⟨_, rfl, goes_shadowCompare hawake hdue, goes_shadowCompare hawake hdue⟩
  · exact fun s => rfl
  · exact fun s l hup hdue => ⟨_, rfl, goes_sensorSample hup hdue⟩
  · exact fun s l hsame => moves_sensorSample_again hsame

end Sys2Proof.Machine
end

section
/-!
The rows of the event log and of the sensors: arrival, flush, read, clear; SENSOR_READ.
-/
namespace Sys2Proof.Machine
open Sys2Proof.Claims

section
variable {s : State} {p : Pkt}

/-- A command to Vane is carried out while no FATAL of its window stops it (R22). -/
theorem vaneCmd_runs (hstop : stopped s .vane = false) (r : Res) : vaneCmd s p r = r :=
  if_neg fun h => Bool.false_ne_true (hstop ▸ h.2)

/-- A command of Vane's own path is carried out whatever its window shows (R486). -/
theorem vaneCmd_own (hsrc : p.src = .vane) (r : Res) : vaneCmd s p r = r := if_neg fun h => h.1 hsrc

/-! The log (R497, R498, R500). -/

theorem goes_logRecordArrive {e : Nat × Rec} (hup : s.vane.up = true) (hnext : nextRecord s.vane.queue = some e) :
    goes .logRecordArrive s
      (numberRecord (s.setVane { s.vane with queue := s.vane.queue.erase e }) e.2 (decide (e.1 + 100000 < s.clock))) := by
  show execLogRecordArrive s = _
  simp only [execLogRecordArrive, hup, hnext, Bool.not_true, Bool.false_eq_true, if_false]
  rfl

/-- A flush writes what is buffered: all of it, or the records before the one that fails. -/
theorem goes_logFlush (hflush : s.vane.flushing = true) (hup : s.vane.up = true) (hsome : s.vane.buf ≠ []) (fails : Option Nat) :
    goes (.logFlush fails) s (match fails with
      | none => tellLost (flushAll s)
      | some k => tellLost (mediaFails (flushFirst s k))) := by
  have hgo : ¬((!s.vane.flushing) = true ∨ (!s.vane.up) = true ∨ s.vane.buf.isEmpty = true) := by simp [hflush, hup, hsome]
  refine (if_neg hgo).trans ?_
  cases fails <;> rfl

theorem replies_logClear {u : State} (hacc : accepted (.logClear p) s) (hopen : grantsOpen (lcFor s p) = true)
    (hstop : stopped s .vane = false) (hmedia : s.rd VANE.LOG_MEDIA_FAIL ≠ 1)
    (hu : u = (flushAll s).putN VANE.LOG_OLDEST ((flushAll s).rdN VANE.LOG_HEAD)) : replies (.logClear p) p s St.SUCCESS []
      (tellLost (numberRecord u
        ⟨0x09, u.now, 0x0D, 0, [1, lo32 (s.rdN VANE.LOG_OLDEST), hi32 (s.rdN VANE.LOG_OLDEST)], 0⟩ false)) := by
  obtain ⟨hdisp, -, hgate, -⟩ := hacc
  subst hu
  refine replies_of_exec rfl hdisp hgate ?_
  simp only [hopen, vaneCmd_runs hstop, if_neg hmedia, Bool.not_true, Bool.false_eq_true, if_false]
  rfl

/-! LOG_READ (R499, R513). -/

/-- The arguments that LOG_READ takes. -/
def logReadForm (p : Pkt) : Prop := pw64 p 2 % 64 = 0 ∧ 0 < pw p 6 ∧ pw p 6 ≤ 4096

theorem logReadForm.taken (h : logReadForm p) : ¬(pw64 p 2 % 64 ≠ 0 ∨ pw p 6 = 0 ∨ 4096 < pw p 6) := by
  obtain ⟨halign, hsome, hmax⟩ := h
  omega

theorem replies_logRead_beyond {wr : Option HostFault} (hacc : accepted (.logRead p wr) s) (hsrc : p.src ≠ .vane)
    (hstop : stopped s .vane = false) (hform : logReadForm p)
    (hbeyond : s.rdN VANE.LOG_HEAD ≤ pw p 4 + 2 ^ 32 * pw p 5) : replies (.logRead p wr) p s St.SUCCESS (0 :: logWords s) s := by
  obtain ⟨hdisp, -, hgate, -⟩ := hacc
  refine replies_of_exec rfl hdisp hgate ((vaneCmd_runs hstop _).trans ((if_neg hform.taken).trans (if_pos ?_)))
  rw [if_neg hsrc, Nat.sub_eq_zero_of_le hbeyond, Nat.min_zero]

theorem waits_logRead {wr : Option HostFault} {n : Nat} (hacc : accepted (.logRead p wr) s) (hsrc : p.src ≠ .vane)
    (hstop : stopped s .vane = false) (hform : logReadForm p)
    (hn : n = min (pw p 6) (s.rdN VANE.LOG_HEAD - (pw p 4 + 2 ^ 32 * pw p 5))) (hsome : 0 < n) :
    waits (.logRead p wr) p s (writing s p (pw64 p 2)
      ((List.range n).flatMap fun i => logEntry s (pw p 4 + 2 ^ 32 * pw p 5 + i)) (.log n)) := by
  obtain ⟨hdisp, hread, hgate, -⟩ := hacc
  subst hn
  refine waits_of_exec rfl hdisp hgate ((vaneCmd_runs hstop _).trans ((if_neg hform.taken).trans ?_)) (stillReads_writing hread)
  simp only [if_neg hsrc, if_neg hsome.ne']
  rfl

/-! SENSOR_READ (R490). -/

/-- What SENSOR_READ answers of a sensor. -/
def sensorWords (s : State) (n : Nat) : List Nat :=
  [toField 32 (s.sensor n).reading, (s.sensor n).state, lo32 (s.sensor n).time, hi32 (s.sensor n).time]

/-- SENSOR_READ of a listed sensor, of a command that the window of Vane does not stop. -/
theorem replies_sensorRead (hacc : accepted (.sensorRead p) s) (hvane : ∀ k, vaneCmd s p k = k)
    (hlisted : sensorListed (pw p 2) = true) :
    replies (.sensorRead p) p s St.SUCCESS (sensorWords s (pw p 2)) s := by
  obtain ⟨hdisp, -, hgate, -⟩ := hacc
  refine replies_of_exec rfl hdisp hgate ((hvane _).trans ?_)
  simp only [hlisted, Bool.not_true, Bool.false_eq_true, if_false]
  rfl

theorem replies_sensorRead_unlisted (hacc : accepted (.sensorRead p) s) (hstop : stopped s .vane = false)
    (hlisted : sensorListed (pw p 2) = false) : replies (.sensorRead p) p s St.BAD_VALUE [] s := by
  obtain ⟨hdisp, -, hgate, -⟩ := hacc
  exact replies_of_exec rfl hdisp hgate ((vaneCmd_runs hstop _).trans (if_pos (by rw [hlisted]; rfl)))

end

/-- Settles O48: each row with its own checks passed. -/
theorem logRowsComplete : Obligations.LogRowsComplete := by
  refine ⟨?_, ?_, ?_, ?_, ?_, ?_, ?_, ?_⟩
  · exact fun s e hup hnext => goes_logRecordArrive hup hnext
  · exact fun s hflush hup hsome =>
      ⟨goes_logFlush hflush hup hsome none, fun k => goes_logFlush hflush hup hsome (some k)⟩
  · exact fun s p wr hacc hsrc hstop _ halign hsome hmax hbeyond =>
      replies_logRead_beyond hacc hsrc hstop ⟨halign, hsome, hmax⟩ hbeyond
  · exact fun s p wr n hacc hsrc hstop _ halign hsome hmax hn hpos =>
      waits_logRead hacc hsrc hstop ⟨halign, hsome, hmax⟩ hn hpos
  · exact fun s src tag n => rfl
  · exact fun s p hacc hopen _ hstop _ hmedia => ⟨_, rfl, replies_logClear hacc hopen hstop hmedia rfl⟩
  · exact fun s p hacc _ hstop _ hlisted => replies_sensorRead hacc (vaneCmd_runs hstop) hlisted
  · exact fun s p hacc _ hstop _ hlisted => replies_sensorRead_unlisted hacc hstop hlisted

end Sys2Proof.Machine
end

section
/-!
The management messages: MCTP control, PLDM, SPDM, the vendor's own.
-/
namespace Sys2Proof.Machine
open Sys2Proof.Claims

section
variable {s : State} {p : Pkt} {u : State}

/-- A message out of Lull does what it says to the module that has heard it (R493). -/
theorem goes_message {c : Instr} (hup : s.vane.up = true) (hawake : s.pwr.lull ≠ 3) {k : State → State}
    (hx : exec c s = takeMessage s k) : goes c s (k (heard s)) := by
  have hlistens : ¬(!s.vane.up) = true := by rw [hup]; decide
  refine hx.trans ((if_neg hlistens).trans ?_)
  simp only [State.setVane_pwr, hawake, false_and, if_false]
  rfl

theorem goes_setEid {e : Nat} (hup : s.vane.up = true) (hawake : s.pwr.lull ≠ 3) (he : e < 256) :
    goes (.mctpControlMessage (.setEid e)) s
      (if e = 0 ∨ e = 255 then (heard s).emit (.management 0 [1]) else ((heard s).putN VANE.MCTP_EID e).emit (.management 0 [0, e])) := by
  have hnone : e = 0 ∨ e = 255 ↔ e = 0 ∨ 255 ≤ e := by omega
  simp only [hnone]
  exact goes_message hup hawake
    (k := fun s => if e = 0 ∨ 255 ≤ e then errorReply s 0 else reply (s.putN VANE.MCTP_EID e) 0 [0, e]) rfl

theorem goes_setTid {t : Nat} (hup : s.vane.up = true) (hawake : s.pwr.lull ≠ 3) (hpos : 0 < t) (hmax : t < 255) :
    goes (.pldmMessage (.setTid t)) s (((heard s).setVane { (heard s).vane with tid := t }).emit (.management 1 [0])) := by
  have hnamed : ¬(t = 0 ∨ 255 ≤ t) := by omega
  have hgoes := goes_message (c := .pldmMessage (.setTid t)) hup hawake
    (k := fun s => if t = 0 ∨ 255 ≤ t then errorReply s 1 else reply (s.setVane { s.vane with tid := t }) 1 [0]) rfl
  rwa [if_neg hnamed] at hgoes

theorem goes_readSensor {n : Nat} (hup : s.vane.up = true) (hawake : s.pwr.lull ≠ 3) (hlisted : sensorListed n = true) :
    goes (.pldmMessage (.readSensor n)) s
      ((heard s).emit (.management 1 [0, toField 32 (s.sensor n).reading, (s.sensor n).state])) := by
  have hgoes := goes_message (c := .pldmMessage (.readSensor n)) hup hawake (k := fun s =>
    if sensorListed n then reply s 1 [0, toField 32 (s.sensor n).reading, (s.sensor n).state] else errorReply s 1) rfl
  rwa [if_pos hlisted] at hgoes

theorem goes_getMeasurements {i : Nat} {nonce v : List Nat} (hup : s.vane.up = true) (hawake : s.pwr.lull ≠ 3)
    (hv : measurement s i = some v) : goes (.spdmMessage (.getMeasurements i nonce)) s
      ((heard s).emit (.management 5 (0 :: v ++ Config.deviceSign (i :: v ++ nonce)))) := by
  have hheard : measurement (heard s) i = some v := hv
  have hgoes := goes_message (c := .spdmMessage (.getMeasurements i nonce)) hup hawake (k := fun s =>
    match measurement s i with
    | some v => reply s 5 (0 :: v ++ Config.deviceSign (i :: v ++ nonce))
    | none => errorReply s 5) rfl
  simp only [hheard] at hgoes
  exact hgoes

/-! The vendor's own messages (R493). -/

/-- The packet of a vendor-defined message is dispatched as it arrives. -/
def messageDispatched (s : State) (p : Pkt) : State :=
  { judgedNow (heard s) p with cmd := { s.cmd with ops := s.cmd.ops ++ [⟨p, .running⟩] } }

/-- What the packet of a vendor-defined message comes to, once it is dispatched: the row of one of five opcodes, where POINTER is 0. -/
def messageRow (p : Pkt) (u : State) : Answer :=
  if pPtr p then done (finish p (refuse u St.BAD_POINTER))
  else match pOpcode p with
    | 0x0902 => execLogRead p none u
    | 0x0904 => execSensorRead p u
    | 0x0907 => execFwStatus p u
    | 0x0003 => execParamGet p (.words []) none u
    | 0x0002 => execIdentify p u
    | _ => done (finish p (refuse u St.BAD_OPCODE))

theorem judgedNow_pwr (s : State) (p : Pkt) : (judgedNow s p).pwr = s.pwr := rfl

theorem exec_message (hup : s.vane.up = true) (hawake : s.pwr.lull ≠ 3) (hsrc : p.src = .vane) :
    exec (.vendorDefinedMessage true p) s = messageRow p (messageDispatched s p) := by
  have hown : { p with src := .vane } = p := by rw [← hsrc]
  have hlistens : ¬(!s.vane.up) = true := by rw [hup]; decide
  refine (if_neg hlistens).trans ?_
  simp only [hown, State.setVane_pwr, judgedNow_pwr, hawake, false_and, if_false]
  rfl

theorem messageRow_pointer (hptr : pPtr p = true) : messageRow p u = done (finish p (refuse u St.BAD_POINTER)) := if_pos hptr

theorem messageRow_sensorRead (hplain : pPtr p = false) (hcode : pOpcode p = 0x0904) :
    messageRow p u = exec (.sensorRead p) u := by
  simp only [messageRow, hplain, hcode, Bool.false_eq_true, if_false]
  rfl

theorem messageRow_unlisted (hplain : pPtr p = false) (hcode : pOpcode p ∉ [0x0902, 0x0904, 0x0907, 0x0003, 0x0002]) :
    messageRow p u = done (finish p (refuse u St.BAD_OPCODE)) := by
  simp only [messageRow, hplain, Bool.false_eq_true, if_false]
  split
  case h_6 => rfl
  all_goals next h => exact absurd h (fun h => hcode (by simp [h]))

end

/-- Settles O47: each message as Vane hears it, and of the vendor's own what its packet comes to. -/
theorem managementRowsComplete : Obligations.ManagementRowsComplete := by
  refine ⟨?_, ?_, ?_, ?_, ?_, ?_, ?_, ?_⟩
  · exact fun s e hup hawake he => goes_setEid hup hawake he
  · exact fun s hup hawake => ⟨goes_message hup hawake (k := fun s => reply s 0 [0, s.rdN VANE.MCTP_EID]) rfl,
      goes_message hup hawake (k := fun s => reply s 0 [0, 0x00, 0x01, 0x05, 0x7E]) rfl,
      goes_message hup hawake (k := malformed) rfl⟩
  · exact fun s t hup hawake hpos hmax => ⟨goes_setTid hup hawake hpos hmax,
      goes_message hup hawake (k := fun s => reply s 1 [0, s.vane.tid]) rfl⟩
  · exact fun s n hup hawake hlisted => goes_readSensor hup hawake hlisted
  · exact fun s hup hawake => ⟨goes_message hup hawake (k := fun s => reply s 5 [0, 1, 2]) rfl,
      goes_message hup hawake (k := fun s => reply s 5 (0 :: Config.sha384 Config.certChain)) rfl,
      goes_message hup hawake (k := fun s => reply s 5 (0 :: Config.certChain)) rfl,
      fun nonce => goes_message hup hawake
        (k := fun s => reply s 5 (0 :: Config.deviceSign (Config.sha384 Config.certChain ++ nonce))) rfl⟩
  · exact fun s i nonce v hup hawake hv => goes_getMeasurements hup hawake hv
  · rintro s p u hup hawake hsrc rfl
    have hrow := exec_message hup hawake hsrc
    refine ⟨fun hptr => hrow.trans (messageRow_pointer hptr), fun hplain hcode => hrow.trans (messageRow_unlisted hplain hcode), ?_⟩
    intro hplain hcode hacc hlisted
    exact (hrow.trans (messageRow_sensorRead hplain hcode)).trans (replies_sensorRead hacc (vaneCmd_own hsrc) hlisted)
  · exact fun s p hup hawake => goes_message hup hawake (k := fun s => errorReply s 0x7E) rfl

end Sys2Proof.Machine
end

section
/-!
The rows of firmware images: staging, the steps of an activation, the status.
-/
namespace Sys2Proof.Machine
open Sys2Proof.Claims

section
variable {s : State} {p : Pkt} {a : Activation} {g : Staging} {d : HostData} {got ws : List Nat}

/-! Staging (R504, R505, R513). -/

theorem vaneCause_xlt (s : State) (code : Nat) (high : Bool) : (vaneCause s code high).xlt = s.xlt := record_xlt ..

theorem beginStage_xlt (s : State) (cmd : Option (Src × Nat)) (kind : Nat) (ws : List Nat) :
    (beginStage s cmd kind ws).xlt = s.xlt := by
  show (ite _ _ _ : State).xlt = _
  split
  · exact vaneCause_xlt ..
  · rfl

/-- What FW_STAGE asks of its words and of the module. -/
structure stageForm (s : State) (p : Pkt) : Prop where
  kind : pw p 2 ≠ 3
  align : pw64 p 3 % 64 = 0
  least : 512 ≤ pw p 5
  most : pw p 5 ≤ slotBytes (pw p 2)
  words : pw p 5 % 4 = 0
  running : shedding s = false

theorem stageForm.taken (h : stageForm s p) :
    ¬(pw p 2 = 3 ∨ pw64 p 3 % 64 ≠ 0 ∨ pw p 5 < 512 ∨ slotBytes (pw p 2) < pw p 5 ∨ pw p 5 % 4 ≠ 0) := by
  obtain ⟨hkind, halign, hleast, hmost, hwords, -⟩ := h
  omega

/-- No staging runs, and no activation of a kind. -/
def kindFree (s : State) (kind : Nat) : Prop := s.vane.stage = none ∧ ∀ a, s.vane.act = some a → a.kind ≠ kind

theorem kindFree.stages {kind : Nat} (h : kindFree s kind) :
    ¬(s.vane.stage.isSome = true ∨ (s.vane.act.map fun a => a.kind == kind) = some true) := by
  obtain ⟨hstage, hact⟩ := h
  rintro (hs | ha)
  · rw [hstage] at hs
    cases hs
  · obtain ⟨a, ha, hk⟩ := Option.map_eq_some_iff.1 ha
    exact hact a ha (eq_of_beq hk)

theorem stageImage_bad {st kind bytes : Nat} {cmd : Option (Src × Nat)} (hfree : kindFree s kind)
    (hbad : imageOk s kind bytes ws = false) : stageImage s st cmd kind bytes ws = (St.BAD_VALUE, vaneCause s 0x0C) :=
  (if_neg hfree.stages).trans (if_pos (by rw [hbad]; rfl))

theorem stageImage_good {st kind bytes : Nat} {cmd : Option (Src × Nat)} (hfree : kindFree s kind)
    (hgood : imageOk s kind bytes ws = true)
    (hsigned : needsOwner st = false ∨ ownerSigned s (ws.take 128) (((ws.take 128).drop 44).take 24) = true) :
    stageImage s st cmd kind bytes ws = (St.SUCCESS, beginStage s cmd kind ws) := by
  have howner : ¬(needsOwner st && !ownerSigned s (ws.take 128) (((ws.take 128).drop 44).take 24)) = true := by
    rcases hsigned with h | h <;> simp [h]
  exact (if_neg hfree.stages).trans ((if_neg (by rw [hgood]; decide)).trans (if_neg howner))

/-- FW_STAGE comes to what its staging does with the words that the host gives. -/
theorem exec_fwStage {r : Nat × State} (hacc : accepted (.fwStage p d) s) (hform : stageForm s p) (hstop : stopped s .vane = false)
    (hgives : hostGives s p d got)
    (hr : stageImage s (lcFor s p) (some (p.src, pTag p)) (pw p 2) (pw p 5) (pad (pw p 5 / 4) got) = r) :
    exec (.fwStage p d) s = done (finish p (if r.1 = St.SUCCESS then .later r.2 else refuse r.2 r.1)) := by
  obtain ⟨hdisp, -, hgate, -⟩ := hacc
  have hruns : ¬shedding s = true := by rw [hform.running]; decide
  obtain rfl := hgives.1
  subst hr
  exact (runCmd_passed hdisp hgate).trans (congrArg (fun r => done (finish p r)) ((vaneCmd_runs hstop _).trans
    ((if_neg hform.taken).trans ((if_neg hruns).trans (withData_given hgives)))))

theorem waits_fwStage (hacc : accepted (.fwStage p d) s) (hform : stageForm s p) (hstop : stopped s .vane = false)
    (hgives : hostGives s p d got) (hws : ws = pad (pw p 5 / 4) got) (hfree : kindFree s (pw p 2))
    (hgood : imageOk s (pw p 2) (pw p 5) ws = true)
    (hsigned : needsOwner (lcFor s p) = false ∨ ownerSigned s (ws.take 128) (((ws.take 128).drop 44).take 24) = true) :
    waits (.fwStage p d) p s (beginStage s (some (p.src, pTag p)) (pw p 2) ws) := by
  subst hws
  have hread : stillReads (beginStage s (some (p.src, pTag p)) (pw p 2) (pad (pw p 5 / 4) got)) p = false :=
    (stillReads_of_xlt (beginStage_xlt ..)).trans hacc.2.1
  exact (exec_fwStage hacc hform hstop hgives (stageImage_good hfree hgood hsigned)).trans (congrArg done (finish_later hread))

theorem replies_fwStage_bad (hacc : accepted (.fwStage p d) s) (hform : stageForm s p) (hstop : stopped s .vane = false)
    (hgives : hostGives s p d got) (hws : ws = pad (pw p 5 / 4) got) (hfree : kindFree s (pw p 2))
    (hbad : imageOk s (pw p 2) (pw p 5) ws = false) : replies (.fwStage p d) p s St.BAD_VALUE [] (record s 0x0D 0 0x0C) := by
  subst hws
  exact exec_fwStage hacc hform hstop hgives (stageImage_bad hfree hbad)

theorem goes_fwStageDone_good (hstage : s.vane.stage = some g) {u w : State}
    (hu : u = s.setFlash (2 * g.kind + g.slot) { s.flash (2 * g.kind + g.slot) with state := 1 })
    (hw : w = fwState (u.setVane { u.vane with stage := none })) : goes (.fwStageDone true) s (answerImage
      (firmwareRec w 0 g.kind g.slot (runningVersion w g.kind) (w.flash (2 * g.kind + g.slot)).version 0) g.cmd St.SUCCESS [g.slot]) := by
  subst hw hu
  show execFwStageDone true s = _
  simp only [execFwStageDone, hstage]
  rfl

theorem goes_fwStageDone_bad (hstage : s.vane.stage = some g) : goes (.fwStageDone false) s (stagingFails s g St.MEDIA) := by
  show execFwStageDone false s = _
  simp only [execFwStageDone, hstage]
  rfl

/-! Activation (R504, R506, R507, R509). -/

/-- An activation starts for a slot that is STAGED and passes every check. -/
theorem activate_good {st kind : Nat} {f : FlashSlot} {cmd : Option (Src × Nat)} {raise : Bool} (hf : f = s.flash (standbySlot s kind))
    (hact : s.vane.act = none) (hstage : s.vane.stage = none) (hstaged : f.state = 1)
    (hversion : runningVersion s kind ≤ f.version ∨ grantsOpen st = true) (hsv : s.rdN VANE.FW_SV ≤ f.sv)
    (hsigned : needsOwner st = false ∨ ownerSigned s f.header f.ownerSig = true) (hcompat : compatible s kind f = true) :
    activate s st cmd kind raise = (St.SUCCESS, [], fwState (s.setVane { s.vane with act := some ⟨cmd, kind, raise, 2, s.clock⟩ })) := by
  subst hf
  have hidle : ¬(s.vane.act.isSome = true ∨ s.vane.stage.isSome = true) := by simp [hact, hstage]
  have hold : ¬((s.flash (standbySlot s kind)).version < runningVersion s kind ∧ (!grantsOpen st) = true) := by
    rcases hversion with h | h <;> simp [h]
  have hbarred : ¬((s.flash (standbySlot s kind)).sv < s.rdN VANE.FW_SV ∨ (needsOwner st &&
      !ownerSigned s (s.flash (standbySlot s kind)).header (s.flash (standbySlot s kind)).ownerSig) = true) := by
    rcases hsigned with h | h <;> simp [h, hsv]
  exact (if_neg hidle).trans ((if_neg (not_not.2 hstaged)).trans ((if_neg hold).trans ((if_neg hbarred).trans
    (if_neg (by rw [hcompat]; decide)))))

theorem waits_fwActivate {k : Nat} (hacc : accepted (.fwActivate p) s) (hstop : stopped s .vane = false)
    (hkind : fld (pw p 2) 0 2 ≠ 3) (hruns : shedding s = false)
    (hlife : ∀ o, o ∈ s.cmd.ops → pOpcode o.pkt = 0x0C01 → o.stage = .waiting ∨ opDone s o = true) (hk : k = fld (pw p 2) 0 2)
    (hact : activate s (lcFor s p) (some (p.src, pTag p)) k (bit (pw p 2) 8) = (St.SUCCESS, [],
      fwState (s.setVane { s.vane with act := some ⟨some (p.src, pTag p), k, bit (pw p 2) 8, 2, s.clock⟩ }))) :
    waits (.fwActivate p) p s
      (fwState (s.setVane { s.vane with act := some ⟨some (p.src, pTag p), k, bit (pw p 2) 8, 2, s.clock⟩ })) := by
  obtain ⟨hdisp, hread, hgate, -⟩ := hacc
  subst hk
  have hfree : ¬(shedding s = true ∨
      (s.cmd.ops.any fun o => pOpcode o.pkt == 0x0C01 && o.stage != .waiting && !opDone s o) = true) := by
    simp only [hruns, List.any_eq_true, Bool.and_eq_true, beq_iff_eq, bne_iff_ne, Bool.not_eq_true', Bool.false_eq_true, false_or]
    rintro ⟨o, ho, ⟨hcode, hstage⟩, hdone⟩
    exact (hlife o ho hcode).elim hstage fun h => Bool.false_ne_true (hdone.symm.trans h)
  refine waits_of_exec rfl hdisp hgate ((vaneCmd_runs hstop _).trans ((if_neg hkind).trans ((if_neg hfree).trans ?_)))
    ((stillReads_of_xlt rfl).trans hread)
  simp only [hact, if_true]

theorem moves_fwActDrained (hact : s.vane.act = some a) (hkind : a.kind = 0) (hstep : a.step = 2) (hquiet : longRunning s = false) :
    moves .fwActDrained s (s.setVane { s.vane with act := some { a with step := 3, at_ := s.clock } }) := by
  show execFwActDrained s = _
  simp only [execFwActDrained, hact]
  exact if_pos ⟨hkind, hstep, by rw [hquiet]; rfl⟩

theorem goes_fwActWaitExpiry (hact : s.vane.act = some a) (hkind : a.kind = 0) (hstep : a.step = 2)
    (hdue : a.at_ + 1000000 * s.rdN VANE.FW_ACT_WAIT ≤ s.clock) :
    goes .fwActWaitExpiry s (activationFails s a 3 St.WRONG_STATE) := by
  show execFwActWaitExpiry s = _
  simp only [execFwActWaitExpiry, hact]
  exact if_pos ⟨hkind, hstep, hdue⟩

theorem goes_fwActInitTimeout (hact : s.vane.act = some a) (hkind : a.kind = 0) (hstep : a.step = 3)
    (hdue : a.at_ + 2000000000 ≤ s.clock) : goes .fwActInitTimeout s (activationFails s a 4 St.INTERRUPTED) := by
  show execFwActInitTimeout s = _
  simp only [execFwActInitTimeout, hact]
  exact if_pos ⟨hkind, hstep, hdue⟩

theorem moves_fwActPauseStart (hact : s.vane.act = some a) (hkind : a.kind = 0) (hstep : a.step = 3) : moves .fwActPauseStart s
    { (actStep s a 4).putN VANE.FW_STATE 3 with hl := { s.hl with hostState := 1 } } := by
  show execFwActPauseStart s = _
  simp only [execFwActPauseStart, hact]
  exact if_pos ⟨hkind, hstep⟩

theorem moves_fwSwap (hact : s.vane.act = some a) (hkind : a.kind = 0) (hstep : a.step = 4) {u w : State}
    (hu : u = actStep (swapImage s 0) a 6) (hw : w = { u with hl := { u.hl with hostState := 0 } }) :
    moves .fwSwap s (crsEnds (fwState (w.putN VANE.PAUSE_LAST (min ((s.clock - a.at_) / 1000) 0xFFFFFFFF)))) := by
  subst hw hu
  show execFwSwap s = _
  simp only [execFwSwap, hact]
  exact if_pos ⟨hkind, hstep⟩

theorem goes_fwActComplete (hact : s.vane.act = some a) (hkind : a.kind = 0) (hstep : a.step = 6) :
    goes .fwActComplete s (activated s a (leftVersion s 0)) := by
  show execFwActComplete s = _
  simp only [execFwActComplete, hact]
  exact if_pos ⟨hkind, hstep⟩

theorem goes_microcodeBankSwitch (hact : s.vane.act = some a) (hkind : a.kind = 1) :
    goes .microcodeBankSwitch s (activated (swapImage s 1) a (leftVersion (swapImage s 1) 1)) := by
  show execMicrocodeBankSwitch s = _
  simp only [execMicrocodeBankSwitch, hact]
  exact if_pos hkind

theorem goes_vaneFwRestart (hact : s.vane.act = some a) (hkind : a.kind = 2) (hstep : a.step = 2) (hup : s.vane.up = true)
    (hmedia : s.rd VANE.LOG_MEDIA_FAIL = 1) {u w : State} (hu : u = swapImage (actStep s a 6) 2)
    (hw : w = u.setVane { u.vane with up := false, why := 3 }) :
    goes .vaneFwRestart s { w with pwr := { w.pwr with toggles := false, round := false } } := by
  subst hw hu
  show execVaneFwRestart s = _
  simp only [execVaneFwRestart, hact, if_pos hmedia]
  exact if_pos ⟨hkind, hstep, hup⟩

theorem replies_fwStatus {k : Nat} (hacc : accepted (.fwStatus p) s) (hstop : stopped s .vane = false) (hk : k = pw p 2) (hkind : k < 3) :
    replies (.fwStatus p) p s St.SUCCESS [runningSlot s k - 2 * k + 16 * (s.flash (2 * k)).state +
      256 * (s.flash (2 * k + 1)).state, (s.flash (2 * k)).version, (s.flash (2 * k + 1)).version,
      (s.flash (2 * k)).sv + 256 * (s.flash (2 * k + 1)).sv + 65536 * s.rdN VANE.FW_SV] s := by
  obtain ⟨hdisp, -, hgate, -⟩ := hacc
  subst hk
  exact replies_of_exec rfl hdisp hgate ((vaneCmd_runs hstop _).trans (if_neg (Nat.ne_of_lt hkind)))

end

/-- Settles O49: each row with its checks passed, and each step of an activation under its own condition. -/
theorem imageRowsComplete : Obligations.ImageRowsComplete := by
  refine ⟨?_, ?_, ?_, ?_, ?_, ?_, ?_, ?_, ?_, ?_, ?_, ?_, ?_, ?_⟩
  · exact fun s p d got ws hacc _ hstop _ hkind halign hleast hmost hwords hruns hgives hws hstage hact hgood hsigned =>
      waits_fwStage hacc ⟨hkind, halign, hleast, hmost, hwords, hruns⟩ hstop hgives hws ⟨hstage, hact⟩ hgood hsigned
  · exact fun s p d got ws hacc _ hstop _ hkind halign hleast hmost hwords hruns hgives hws hstage hact hbad =>
      replies_fwStage_bad hacc ⟨hkind, halign, hleast, hmost, hwords, hruns⟩ hstop hgives hws ⟨hstage, hact⟩ hbad
  · exact fun s g hstage => ⟨_, _, rfl, rfl, goes_fwStageDone_good hstage rfl rfl⟩
  · exact fun s g hstage => goes_fwStageDone_bad hstage
  · exact fun s p k f hacc _ hstop _ hkind hruns hlife hk hf hact hstage hstaged hversion hsv hsigned hcompat =>
      waits_fwActivate hacc hstop hkind hruns hlife hk (activate_good hf hact hstage hstaged hversion hsv hsigned hcompat)
  · exact fun s a hact hkind hstep hquiet => moves_fwActDrained hact hkind hstep hquiet
  · exact fun s a hact hkind hstep hdue => goes_fwActWaitExpiry hact hkind hstep hdue
  · exact fun s a hact hkind hstep => moves_fwActPauseStart hact hkind hstep
  · exact fun s a hact hkind hstep hdue => goes_fwActInitTimeout hact hkind hstep hdue
  · exact fun s a hact hkind hstep => ⟨_, _, rfl, rfl, moves_fwSwap hact hkind hstep rfl rfl⟩
  · exact fun s a hact hkind hstep => goes_fwActComplete hact hkind hstep
  · exact fun s a hact hkind => goes_microcodeBankSwitch hact hkind
  · exact fun s a hact hkind hstep hup hmedia => ⟨_, _, rfl, rfl, goes_vaneFwRestart hact hkind hstep hup hmedia rfl rfl⟩
  · exact fun s p k hacc _ hstop _ hk hkind => replies_fwStatus hacc hstop hk hkind

end Sys2Proof.Machine
end

section
/-!
The rows of loopback and self-test.
-/
namespace Sys2Proof.Machine
open Sys2Proof.Claims

section
variable {s : State} {p : Pkt} {t : LoopTarget} {d : Nat}

/-! LOOPBACK_SET (R532, R533). -/

theorem replies_loopbackSet_off (hacc : accepted (.loopbackSet p) s) (htarget : loopTarget p = some t) (hoff : pw p 2 = 0)
    (hstop : stopped s t.island = false) : replies (.loopbackSet p) p s St.SUCCESS [] (disarm s (pw p 1)) := by
  obtain ⟨hdisp, -, hgate, -⟩ := hacc
  refine replies_of_exec rfl hdisp hgate ?_
  simp only [htarget, hoff, hstop, ne_eq, not_true_eq_false, false_and, Bool.false_eq_true, if_false]
  rfl

/-- The two depths that a domain takes. -/
theorem depthApplies_dom (hdepth : pw p 2 = 1 ∨ pw p 2 = 2) : depthApplies (.dom d) (pw p 2) = true := by
  rcases hdepth with h | h <;> rw [h] <;> rfl

theorem replies_loopbackSet_dom (hacc : accepted (.loopbackSet p) s) (htarget : loopTarget p = some (.dom d))
    (hdepth : pw p 2 = 1 ∨ pw p 2 = 2) (hgrants : grantsLoop (lcFor s p) false = true) (hstop : stopped s (.seq d) = false) {u : State}
    (hu : u = disarm s (pw p 1)) : replies (.loopbackSet p) p s St.SUCCESS []
      { u with tst := { u.tst with armed := u.tst.armed ++ [(pw p 1, pw p 2)] } } := by
  obtain ⟨hdisp, -, hgate, -⟩ := hacc
  subst hu
  have hfits : ¬(pw p 2 ≠ 0 ∧ ((!depthApplies (.dom d) (pw p 2)) = true ∨ pw p 2 = 3 ∨ pw p 2 = 6)) := by
    rw [depthApplies_dom hdepth]
    simp only [Bool.not_true, Bool.false_eq_true, false_or]
    omega
  have hisland : stopped s (LoopTarget.dom d).island = false := hstop
  refine replies_of_exec rfl hdisp hgate ?_
  simp only [htarget, if_neg hfits, hgrants, hisland, Bool.not_true, and_false, Bool.false_eq_true, if_false]
  rcases hdepth with h | h <;> rw [h] <;> rfl

/-! LOOPBACK_RUN (R534, R535). -/

/-- The run that LOOPBACK_RUN begins. -/
def loopRunOf (s : State) (p : Pkt) (saved : List (Nat × Int)) : LoopRun :=
  { src := p.src, tag := pTag p, target := pw p 1, depth := pw p 2, mask := pw64 p 3, start := s.clock, saved := saved }

/-- A run has been added. -/
def runAdded (s : State) (r : LoopRun) : State := { s with tst := { s.tst with runs := s.tst.runs ++ [r] } }

/-- What LOOPBACK_RUN asks of its words and of the module. -/
structure runForm (s : State) (p : Pkt) (t : LoopTarget) : Prop where
  target : loopTarget p = some t
  depth : depthApplies t (pw p 2) = true
  grants : grantsLoop (lcFor s p) false = true
  island : stopped s t.island = false
  may : mayRun s t (pw p 2) (pw64 p 3) = true
  free : (s.tst.runs.any fun r => r.target == pw p 1) = false

/-- A run changes pins where it is a PIN_DRIVER run, else nothing. -/
theorem waits_loopbackRun (hacc : accepted (.loopbackRun p) s) (hform : runForm s p t) (hdepth : pw p 2 ≠ 2) :
    waits (.loopbackRun p) p s (runAdded s (loopRunOf s p [])) := by
  obtain ⟨hdisp, hread, hgate, -⟩ := hacc
  obtain ⟨htarget, happlies, hgrants, hisland, hmay, hfree⟩ := hform
  refine waits_of_exec rfl hdisp hgate ?_ ((stillReads_of_xlt rfl).trans hread)
  simp only [htarget, happlies, hgrants, hisland, hmay, hfree, Bool.not_true, Bool.false_eq_true, or_self, if_false]
  split
  · next h => exact absurd h hdepth
  · rfl

theorem putAll_xlt (n : Nat) (l : List (Prm × Int)) (s : State) : (l.foldl (fun s e => s.put e.1 n e.2) s).xlt = s.xlt :=
  foldl_xlt (g := fun s e => s.put e.1 n e.2) (fun s e => State.put_xlt s e.1 n e.2) l s

theorem driverBegins_xlt (s : State) (d : Nat) : (driverBegins s d).xlt = s.xlt := by
  rw [driverBegins, domBands_xlt]
  exact foldl_xlt (fun s n => putAll_xlt n (driverLevels n) s) (domPins d) s

theorem waits_loopbackRun_driver (hacc : accepted (.loopbackRun p) s) (hform : runForm s p (.dom d)) (hdepth : pw p 2 = 2) :
    waits (.loopbackRun p) p s (driverBegins (runAdded s (loopRunOf s p (driverSaved s d))) d) := by
  obtain ⟨hdisp, hread, hgate, -⟩ := hacc
  obtain ⟨htarget, happlies, hgrants, hisland, hmay, hfree⟩ := hform
  rw [hdepth] at happlies hmay
  refine waits_of_exec rfl hdisp hgate ?_ ((stillReads_of_xlt (driverBegins_xlt _ d)).trans hread)
  simp only [htarget, happlies, hgrants, hisland, hmay, hfree, Bool.not_true, Bool.false_eq_true, or_self, if_false, hdepth]
  rw [loopRunOf, hdepth]
  rfl

/-! The end of a run (R534). -/

theorem verdictWords_pass {v : LoopVerdict} (hpass : v.errors = 0) (us : Nat) : verdictWords v us = [2 ^ 31, 0xFFFFFFFF, 0, us] := by
  simp [verdictWords, hpass, b2n]

theorem verdictWords_fail {v : LoopVerdict} (hfail : v.errors ≠ 0) (hmax : v.errors ≤ 65535) (us : Nat) :
    verdictWords v us = [v.errors, v.item, v.value, us] := by
  simp [verdictWords, hfail, hmax, b2n]

theorem goes_loopbackRunDone {src : Src} {tag : Nat} {captured : CaptureRun} {means : List Int}
    {echoes : List (Nat × Nat × Nat × Nat)} {looped : Looped} {r : LoopRun} {v : LoopVerdict}
    (hrun : (s.tst.runs.find? fun r => r.src == src && r.tag == tag) = some r) (hv : judge r captured means echoes looped = some v)
    (hmax : v.errors ≤ 65535) {u : State}
    (hu : u = restoreRun { s with tst := { s.tst with runs := s.tst.runs.filter (· != r) } } r) :
    goes (.loopbackRunDone src tag captured means echoes looped) s (if v.errors = 0 then
        u.complete src tag St.SUCCESS [2 ^ 31, 0xFFFFFFFF, 0, (u.clock - r.start) / 1000]
      else State.complete (record u 0x0E 0 0x01) src tag St.SUCCESS
        [v.errors, v.item, v.value, ((record u 0x0E 0 0x01).clock - r.start) / 1000]) := by
  subst hu
  show execLoopbackRunDone src tag captured means echoes looped s = _
  simp only [execLoopbackRunDone, hrun, hv, Option.bind_some, Option.map_some]
  split
  · next hpass => rw [verdictWords_pass hpass]; rfl
  · next hfail => rw [verdictWords_fail hfail hmax]; rfl

/-! SELF_TEST (R543). -/

theorem waits_selfTest (hacc : accepted (.selfTest p) s) (hgrants : grantsLoop (lcFor s p) false = true)
    (hidle : s.tst.selfTest = none) : waits (.selfTest p) p s { s with tst := { s.tst with
      selfTest := some ⟨p.src, pTag p, pw p 2, (skippedSteps s).land (pw p 2), s.clock⟩ } } := by
  obtain ⟨hdisp, hread, hgate, -⟩ := hacc
  refine waits_of_exec rfl hdisp hgate ?_ ((stillReads_of_xlt rfl).trans hread)
  simp only [hgrants, hidle, Option.isSome_none, Bool.not_true, Bool.false_eq_true, if_false]

theorem goes_selfTestDone {failed skipped : Nat} {r : SelfRun} (hrun : s.tst.selfTest = some r) {u : State}
    (hu : u = if failed.land r.mask % 64 = 0 then { s with tst := { s.tst with selfTest := none } }
      else record { s with tst := { s.tst with selfTest := none } } 0x0E 0 0x01) :
    goes (.selfTestDone failed skipped) s (u.complete r.src r.tag St.SUCCESS
      [failed.land r.mask, r.skipped.lor (skipped.land r.mask), 0, (u.clock - r.start) / 1000000]) := by
  subst hu
  show execSelfTestDone failed skipped s = _
  simp only [execSelfTestDone, hrun]
  rfl

end

/-- Settles O51: each command with its target's checks passed, and what the end of a run answers. -/
theorem testRowsComplete : Obligations.TestRowsComplete := by
  refine ⟨?_, ?_, ?_, ?_, ?_, ?_, ?_, ?_⟩
  · exact fun s p t hacc htarget hoff hstop => replies_loopbackSet_off hacc htarget hoff hstop
  · exact fun s p d hacc htarget hdepth hgrants hstop => ⟨_, rfl, replies_loopbackSet_dom hacc htarget hdepth hgrants hstop rfl⟩
  · exact fun s p t hacc htarget happlies hgrants hisland hmay hfree hdepth =>
      waits_loopbackRun hacc ⟨htarget, happlies, hgrants, hisland, hmay, hfree⟩ hdepth
  · intro s p d hacc htarget hdepth hgrants hisland hmay hfree
    have hform : runForm s p (.dom d) := ⟨htarget, depthApplies_dom (.inr hdepth), hgrants, hisland, hdepth.symm ▸ hmay, hfree⟩
    have hwaits := waits_loopbackRun_driver hacc hform hdepth
    rw [runAdded, loopRunOf, hdepth] at hwaits
    exact ⟨_, rfl, hwaits⟩
  · exact fun s src tag captured means echoes looped r v hrun hv hmax => ⟨_, rfl, goes_loopbackRunDone hrun hv hmax rfl⟩
  · exact fun s p hacc hgrants hidle => ⟨_, rfl, waits_selfTest hacc hgrants hidle⟩
  · exact fun s failed skipped r hrun hpass => ⟨_, rfl, goes_selfTestDone hrun (if_pos hpass).symm⟩
  · exact fun s failed skipped r hrun hfail => ⟨_, rfl, goes_selfTestDone hrun (if_neg hfail).symm⟩

end Sys2Proof.Machine
end

section
/-!
The rows of the life cycle and of the TAP: transitions, challenges, status, the nonce's age, the end of an erasure, instructions.
-/
namespace Sys2Proof.Machine
open Sys2Proof.Claims

section
variable {s : State} {p : Pkt} {d : HostData} {t : List Nat} {from_ to_ : Nat}

theorem pad_self {n : Nat} (h : t.length = n) : pad n t = t := by
  subst h
  refine List.ext_getElem (length_pad ..) fun i _ hi => ?_
  simp [pad, hi]

/-! A transition that is made spends its nonce and gets no other (R516, R521): what follows it leaves the life cycle's own state alone. -/

theorem complete_lc (s : State) (src : Src) (tag status : Nat) (res : List Nat) : (s.complete src tag status res).lc = s.lc :=
  (still_complete src tag status res true none (Still.rfl s)).lc

theorem denyLoopback_lc (s : State) (k : Nat) : (denyLoopback s k).lc = s.lc := by
  unfold denyLoopback
  split
  · dsimp only
    split
    · rfl
    · rw [complete_lc]
      split <;> rfl
  · rfl

theorem clearInjections_lc (s : State) : (clearInjections s).lc = s.lc :=
  foldl_unchanged (f := State.lc) (g := fun s (e : Nat × Win) =>
    { s with wins := Bank.set (fun _ => {}) s.wins e.1 { e.2 with inject := e.2.inject % 2 ^ 30 } }) (fun _ _ => rfl) s.wins s

theorem startLink_lc (s : State) : (startLink s).lc = s.lc := by unfold startLink; split <;> rfl

theorem linkLost_lc (s : State) : (linkLost s).lc = s.lc := by
  unfold linkLost
  split
  · exact record_lc ..
  · rfl

theorem givenPin_lc (s : State) (n : Nat) :
    (if s.pinState n = 4 ∨ (s.pin n).hiz = true then s else enterPin s n (givenState s n)).lc = s.lc := by
  split <;> rfl

theorem leaveExtest_lc (s : State) : (leaveExtest s).lc = s.lc := by
  unfold leaveExtest
  split
  · dsimp only
    rw [startLink_lc, foldl_unchanged (f := State.lc) givenPin_lc]
  · rfl

theorem suspendShared_lc (s : State) : (suspendShared s).lc = s.lc := by
  rw [suspendShared, countSuspended, State.put_lc]
  refine foldl_unchanged (f := State.lc) (fun t n => ?_) consumers s
  split
  · split <;> rfl
  · rfl

theorem resumeConsumers_lc (s : State) : (resumeConsumers s).lc = s.lc := by
  rw [resumeConsumers, countSuspended, State.put_lc]
  refine foldl_unchanged (f := State.lc) (fun t n => ?_) consumers s
  split <;> rfl

theorem enterMode_lc (s : State) (m : Nat) : (enterMode s m).lc = s.lc := by
  simp only [enterMode, apply_ite State.lc, resumeConsumers_lc, suspendShared_lc, State.put_lc, ite_self]

theorem pinCode_lc (n : Nat) (wrote : Bool) (s : State) (k : Nat) : (pinCode n wrote s k).lc = s.lc := by
  simp only [pinCode, clipped, State.bump, apply_ite State.lc, record_lc, State.wr_lc, State.setPin_lc, ite_self]

theorem bandChanges_lc (s : State) (c : Cmp) : (bandChanges s c).lc = s.lc := (still_bandChanges c (Still.rfl s)).lc

theorem domBands_lc (s : State) (d : Nat) : (domBands s d).lc = s.lc :=
  foldl_unchanged (f := State.lc) (fun s n => (foldl_unchanged (f := State.lc) bandChanges_lc _ _).trans
    (foldl_unchanged (f := State.lc) (pinCode_lc n false) _ s)) (domPins d) s

theorem driversOn_lc (s : State) (d : Nat) (on : Bool) : (driversOn s d on).lc = s.lc := (still_driversOn d on (Still.rfl s)).lc

theorem restoreRun_lc (s : State) (r : LoopRun) : (restoreRun s r).lc = s.lc := by
  simp only [restoreRun, apply_ite State.lc, driversOn_lc, domBands_lc, ite_self]
  exact foldl_unchanged (f := State.lc) (g := fun s e => s.putId e.1 e.2) (fun _ _ => rfl) r.saved s

theorem endRun_lc (status : Nat) (s : State) (r : LoopRun) : (endRun status s r).lc = s.lc :=
  (complete_lc ..).trans (restoreRun_lc ..)

theorem disarmAll_lc (s : State) : (disarmAll s).lc = s.lc := (still_disarmAll (Still.rfl s)).lc

theorem ite_lc {c : Prop} [Decidable c] {a b : State} {l : Lc} (ha : a.lc = l) (hb : b.lc = l) : (if c then a else b).lc = l := by
  split
  · exact ha
  · exact hb

/-- What a state that is left takes with it changes nothing of the life cycle (R526). -/
theorem removeAccess_lc (s : State) (old : Nat) : (removeAccess s old).lc = s.lc := by
  unfold removeAccess
  extract_lets new lost uninjected denied linked _ _ retrained _ released normal ended test _ untested told
  have hdenied : denied.lc = s.lc :=
    (foldl_unchanged (f := State.lc) denyLoopback_lc _ _).trans (ite_lc (clearInjections_lc s) rfl)
  have hretrained : retrained.lc = s.lc := ite_lc ((linkLost_lc denied).trans hdenied) (ite_lc hdenied hdenied)
  have hreleased : released.lc = s.lc := ite_lc ((leaveExtest_lc _).trans hretrained) hretrained
  have hnormal : normal.lc = s.lc := ite_lc ((enterMode_lc ..).trans hreleased) hreleased
  have hended : ended.lc = s.lc :=
    (foldl_unchanged (f := State.lc) (endRun_lc St.LC_DENIED) _ _).trans ((disarmAll_lc normal).trans hnormal)
  have htold : told.lc = s.lc := by
    clear_value test
    cases test with
    | none => exact hended
    | some t => exact (complete_lc ..).trans hended
  exact ite_lc hreleased ((pinsHigh_lc told).trans htold)

/-- A new state in force keeps the nonce. -/
theorem commitState_nonce (s : State) (new : Nat) : (commitState s new).lc.nonce = s.lc.nonce := by
  show Lc.nonce (ite _ _ _) = _
  split <;> rfl

theorem numberRecord_lc (s : State) (r : Rec) (late : Bool) : (numberRecord s r late).lc = s.lc := by
  unfold numberRecord
  dsimp only
  split
  · rfl
  · split
    · exact record_lc ..
    · rfl

theorem lifeRecord_lc (s : State) (old new : Nat) : (lifeRecord s old new).lc = s.lc := (still_lifeRecord old new (Still.rfl s)).lc

theorem initRecorder_lc (s : State) : (initRecorder s).lc = s.lc := numberRecord_lc ..

/-- A transition to any state but RETURN completes, and leaves the nonce alone. -/
theorem transit_done (hto : to_ ≠ 3) : ∃ u, transit s p t from_ to_ = .done St.SUCCESS [] u ∧ u.lc.nonce = s.lc.nonce := by
  unfold transit
  extract_lets enrol _ _ enrolled new
  have henrolled : enrolled.lc.nonce = s.lc.nonce := by
    show (ite _ _ _ : State).lc.nonce = _
    split <;> rfl
  have hnew : new.lc.nonce = s.lc.nonce :=
    (congrArg Lc.nonce (removeAccess_lc ..)).trans ((commitState_nonce ..).trans henrolled)
  have hrecorded : (if to_ = 0 then initRecorder new else new).lc = new.lc := ite_lc (initRecorder_lc new) rfl
  exact ⟨_, if_neg hto, (congrArg Lc.nonce ((lifeRecord_lc ..).trans hrecorded)).trans hnew⟩

/-- What R518 asks of the words of a token, but for what its nonce, its signer and its signature are. -/
structure tokenForm (t : List Nat) : Prop where
  length : t.length = 56
  format : fld (t.getD 0 0) 16 16 = 1
  reserved : fld (t.getD 0 0) 8 8 = 0
  signer : t.getD 1 0 ≤ 1
  low : t.getD 6 0 = 0
  high : t.getD 7 0 = 0
  serialLow : t.getD 2 0 = serialWords.getD 0 0
  serialHigh : t.getD 3 0 = serialWords.getD 1 0

theorem replies_lcTransition {vendor owner still : Bool} {k : List Nat} {u : State} (hacc : accepted (.lcTransition p d) s)
    (hstop : stopped s .vane = false) (hptr : pPtr p = true) (hgives : hostGives s p d t) (hform : tokenForm t)
    (hfrom : fld (t.getD 0 0) 4 4 = s.lcState) (hto : fld (t.getD 0 0) 0 4 = to_)
    (harrow : lcArrow s s.lcState to_ = some (vendor, owner, still)) (hquiet : still = true → quiet s = true)
    (hact : s.vane.act = none) (hfails : s.rd LC.FAILS ≠ 16) (hlives : nonceLives s = true)
    (hnonce : s.lc.nonce = some (word64 (t.getD 4 0) (t.getD 5 0))) (hsigner : (if t.getD 1 0 = 0 then vendor else owner) = true)
    (hkey : tokenKey { s with lc := { s.lc with nonce := none } } t = some k)
    (hsig : Config.sigVerifies k (t.take 32) ((t.drop 32).take 24) = true)
    (hu : transit { s with lc := { s.lc with nonce := none } } p t s.lcState to_ = .done St.SUCCESS [] u) :
    replies (.lcTransition p d) p s St.SUCCESS [] u := by
  obtain ⟨hdisp, -, hgate, hres⟩ := hacc
  obtain ⟨hlen, hformat, hreserved, hwho, hlow, hhigh, hserial0, hserial1⟩ := hform
  subst hto
  have hmay : ¬((still = true ∧ (!quiet s) = true) ∨ s.vane.act.isSome = true) := by
    rw [hact]
    rintro (⟨hs, hq⟩ | h)
    · rw [hquiet hs] at hq
      cases hq
    · cases h
  refine replies_of_exec rfl hdisp hgate ((withBlock_given hptr hgives hres).trans ((vaneCmd_runs hstop _).trans ?_))
  simp only [pad_self hlen, hfrom, harrow, hformat, hreserved, hwho, hlow, hhigh, hserial0, hserial1, hlives, hnonce, hsigner, hkey, hsig,
    if_neg hmay, if_neg hfails, hu, beq_self_eq_true, decide_true, Bool.and_self, Bool.not_true, Bool.or_self, Bool.false_eq_true,
    ne_eq, not_true_eq_false, or_self, if_false, if_true]

theorem replies_lcTransition_noArrow (hacc : accepted (.lcTransition p d) s) (hstop : stopped s .vane = false) (hptr : pPtr p = true)
    (hgives : hostGives s p d t) (hlen : t.length = 56) (harrow : lcArrow s (fld (t.getD 0 0) 4 4) (fld (t.getD 0 0) 0 4) = none) :
    replies (.lcTransition p d) p s St.LC_DENIED [] s := by
  obtain ⟨hdisp, -, hgate, hres⟩ := hacc
  refine replies_of_exec rfl hdisp hgate ((withBlock_given hptr hgives hres).trans ((vaneCmd_runs hstop _).trans ?_))
  simp only [pad_self hlen, harrow]
  rfl

/-! Challenges, status, the nonce's age (R516, R530). -/

theorem replies_lcChallenge (hacc : accepted (.lcChallenge p) s) (hstop : stopped s .vane = false) (hfails : s.rd LC.FAILS ≠ 16)
    {n : Nat} (hn : n = s.draw.1 % 2 ^ 64) : replies (.lcChallenge p) p s St.SUCCESS [lo32 n, hi32 n, s.lcState]
      { s.draw.2 with lc := { s.lc with nonce := some n, nonceAt := s.clock } } := by
  obtain ⟨hdisp, -, hgate, -⟩ := hacc
  subst hn
  exact replies_of_exec rfl hdisp hgate ((vaneCmd_runs hstop _).trans (if_neg hfails))

theorem replies_lcChallenge_locked (hacc : accepted (.lcChallenge p) s) (hstop : stopped s .vane = false)
    (hfails : s.rd LC.FAILS = 16) : replies (.lcChallenge p) p s St.LC_DENIED [] s := by
  obtain ⟨hdisp, -, hgate, -⟩ := hacc
  exact replies_of_exec rfl hdisp hgate ((vaneCmd_runs hstop _).trans (if_pos hfails))

theorem replies_lcStatus (hacc : accepted (.lcStatus p) s) (hstop : stopped s .vane = false) :
    replies (.lcStatus p) p s St.SUCCESS [s.lcState + s.rdN LC.OWNER_KEY_EN * 16 + s.rdN LC.ERASE_PENDING * 32 +
      s.rdN LC.FAILS * 256, s.rdN LC.TRANSITIONS] s := by
  obtain ⟨hdisp, -, hgate, -⟩ := hacc
  exact replies_of_exec rfl hdisp hgate (vaneCmd_runs hstop _)

theorem moves_nonceExpiry (hnonce : s.lc.nonce ≠ none) (hdue : s.lc.nonceAt + 600000000000 ≤ s.clock) :
    moves .nonceExpiry s { s with lc := { s.lc with nonce := none } } := if_pos ⟨Option.isSome_iff_ne_none.2 hnonce, hdue⟩

/-! The end of an erasure (R522, R523). -/

theorem goes_erasureDone {u : State} (hpending : s.rd LC.ERASE_PENDING = 1) (hup : s.vane.up = true)
    (hu : u = lifeRecord ((eraseAll s).putN LC.ERASE_PENDING 0) s.lc.eraseFrom 3) : goes .erasureDone s (match s.lc.eraseCmd with
      | some c => State.complete { u with lc := { u.lc with eraseCmd := none } } c.1 c.2 St.SUCCESS []
      | none => { u with lc := { u.lc with eraseCmd := none } }) := by
  have hexec : exec .erasureDone s = execErasureDone s := rfl
  rw [goes, hexec, execErasureDone, if_pos ⟨hpending, hup⟩, hu]
  cases s.lc.eraseCmd
  · rfl
  · rfl

/-! The TAP (R524, R540, R541). -/

variable {i : TapInstr} {scan : Scan}

theorem leaveExtest_out (hout : s.tst.extest = false) : leaveExtest s = s := if_neg (by rw [hout]; decide)

/-- An instruction is loaded. -/
def tapLoaded (s : State) (i : TapInstr) : State := { s with tst := { s.tst with tap := i } }

/-- An instruction that leaves the links alone shifts what it shifts, where none had stopped them. -/
theorem goes_tapInstruction (hplain : isExtest i = false) (hdecodes : tapDecodes s i = i) (hout : s.tst.extest = false) :
    goes (.tapInstruction ⟨i, scan⟩) s (scanWith (tapLoaded s i) i scan) := by
  have hleaves : leaveExtest (tapLoaded s i) = tapLoaded s i := leaveExtest_out hout
  show execTapInstruction ⟨i, scan⟩ s = _
  simp only [execTapInstruction, hdecodes, hplain, Bool.false_eq_true, false_and, if_false]
  exact congrArg (fun t => done (scanWith t i scan)) hleaves

/-- EXTEST and the instructions of 1149.6. -/
theorem eq_of_isExtest (hi : isExtest i = true) : i = .extest ∨ i = .extestPulse ∨ i = .extestTrain := by
  cases i <;> simp_all [isExtest]

theorem isExtest_of_mem (hi : i ∈ [TapInstr.extest, .extestPulse, .extestTrain]) : isExtest i = true := by
  simp only [List.mem_cons, List.not_mem_nil, or_false] at hi
  rcases hi with rfl | rfl | rfl <;> rfl

theorem tapDecodes_extest (hi : isExtest i = true) : tapDecodes s i = if openAccess s && quiet s then i else .bypass := by
  rcases eq_of_isExtest hi with rfl | rfl | rfl <;> rfl

theorem scanWith_extest (hi : isExtest i = true) : scanWith s i scan = scanCells s i scan := by
  rcases eq_of_isExtest hi with rfl | rfl | rfl <;> rfl

theorem goes_extest (hi : isExtest i = true) (hopen : openAccess s = true) (hquiet : quiet s = true) (hout : s.tst.extest = false) :
    goes (.tapInstruction ⟨i, scan⟩) s (scanCells (stopLinks (tapLoaded s i)) i scan) := by
  have hstops : (if (tapLoaded s i).tst.extest then tapLoaded s i else stopLinks (tapLoaded s i)) = stopLinks (tapLoaded s i) :=
    if_neg (by rw [tapLoaded, hout]; decide)
  rw [← scanWith_extest hi, ← hstops]
  show execTapInstruction ⟨i, scan⟩ s = _
  simp only [execTapInstruction, tapDecodes_extest hi, hi, hopen, hquiet, Bool.and_self, Bool.not_true, Bool.false_eq_true, and_false,
    if_false, if_true]
  rfl

/-- EXTEST of a module that is not quiet sets the cause and decodes as BYPASS. -/
theorem goes_extest_unquiet {u : State} (hi : isExtest i = true) (hopen : openAccess s = true) (hquiet : quiet s = false)
    (hu : u = record s 0x0E 0 0x02) (hout : u.tst.extest = false) :
    goes (.tapInstruction ⟨i, scan⟩) s (tapLoaded u .bypass) := by
  subst hu
  have hleaves : leaveExtest (tapLoaded (record s 0x0E 0 0x02) .bypass) = tapLoaded (record s 0x0E 0 0x02) .bypass := leaveExtest_out hout
  show execTapInstruction ⟨i, scan⟩ s = _
  simp only [execTapInstruction, tapDecodes_extest hi, hi, hopen, hquiet, Bool.and_false, Bool.not_false, Bool.false_eq_true, and_self,
    if_false, if_true]
  exact congrArg done hleaves

end

/-- Settles O50: each command with its checks passed, and each instruction as it decodes. -/
theorem lifeRowsComplete : Obligations.LifeRowsComplete := by
  refine ⟨?_, ?_, ?_, ?_, ?_, ?_, ?_, ?_, ?_, ?_, ?_⟩
  · intro s p d t from_ to_ vendor owner still k hacc _ hstop _ hptr hgives hlen hfrom hto harrow hformat hreserved hwho hlow hhigh hstate
      hquiet hact hfails hlives hnonce hserial0 hserial1 hsigner hkey hsig hreturn
    subst hstate
    obtain ⟨u, hu, hspent⟩ := transit_done (s := { s with lc := { s.lc with nonce := none } }) (p := p) (t := t) (from_ := s.lcState) hreturn
    exact ⟨u, replies_lcTransition hacc hstop hptr hgives ⟨hlen, hformat, hreserved, hwho, hlow, hhigh, hserial0, hserial1⟩ hfrom hto
      harrow hquiet hact hfails hlives hnonce hsigner hkey hsig hu, hu, hspent⟩
  · exact fun s p d t hacc _ hstop _ hptr hgives hlen harrow => replies_lcTransition_noArrow hacc hstop hptr hgives hlen harrow
  · exact fun s p hacc _ hstop _ hfails =>
      ⟨_, _, Nat.mod_lt _ (by decide), rfl, replies_lcChallenge hacc hstop hfails rfl⟩
  · exact fun s p hacc _ hstop _ hfails => replies_lcChallenge_locked hacc hstop hfails
  · exact fun s p hacc _ hstop _ => replies_lcStatus hacc hstop
  · exact fun s hnonce hdue => moves_nonceExpiry hnonce hdue
  · exact fun s hpending hup => ⟨_, rfl, goes_erasureDone hpending hup rfl⟩
  · exact fun s scan hout => ⟨goes_tapInstruction rfl rfl hout, goes_tapInstruction rfl rfl hout⟩
  · exact fun s scan hout hopen => goes_tapInstruction rfl (if_pos hopen) hout
  · exact fun s i scan hi hopen hquiet hout => goes_extest (isExtest_of_mem hi) hopen hquiet hout
  · exact fun s i scan hi hopen hquiet _ => ⟨_, rfl, fun hout => goes_extest_unquiet (isExtest_of_mem hi) hopen hquiet rfl hout⟩

end Sys2Proof.Machine
end
